-- ==== Sys2Proof/Word.lean ====
section
/-! DEFINITION. The word types of the block and its plainest data: register words, bytes, granules and
the sparse map that holds every indexed store. -/

namespace Sys2Proof

/-- A setup register is 32 bits wide (R563). -/
abbrev Word := BitVec 32

/-- One byte. -/
abbrev Byte := BitVec 8

/-- A granule is 16 bytes, the unit that the device's one code protects (00 Bits, bytes and fields);
poison is carried with it (R323). The first byte is in the low bits (R5). -/
structure Gran where
  data   : BitVec 128
  poison : Bool
  deriving DecidableEq, Repr

/-- A sparse store: pairs of a key and a value. Its one canonical form (keys strictly rising, no entry
equal to the value of an unlisted key) is `smWf` of Machine/Ops.lean. -/
abbrev SMap (α : Type) := List (Nat × α)

end Sys2Proof
end

