-- ==== Sys2Proof/Syntax.lean ====
section
/-! DEFINITION. The commands that reach the block: one constructor of `Instr` for each row of
spec/opcode_table.json, with the operands that the row's rule gives it. The table gives the rows no
operand fields and no bits, so the operands follow the rules cited (log 1). An index of a unit is a `Fin`,
so a command cannot name a unit that the part does not have. -/

namespace Sys2Proof

/-- An operation of a slot instance: the submission that occupies the instance (ring, sequence number),
and the absolute indices of the step, tile and operation in the running image (R86 to R88). -/
structure OpRef where
  ring : Fin 4096
  seq  : Word
  step : Nat
  tile : Nat
  op   : Nat
  deriving DecidableEq, Repr

/-- A step of a slot instance (R86). -/
structure StepRef where
  ring : Fin 4096
  seq  : Word
  step : Nat
  deriving DecidableEq, Repr

/-- What a cell or adder of an array does wrong in one pass: the bits of one output element that come out
inverted, in the contribution (`adder` false) or in one of the two adders of R137. A healthy pass has none. -/
structure CellFault where
  row   : Nat
  col   : Nat
  flip  : Word
  adder : Bool
  deriving DecidableEq, Repr

/-- Stored bits of one codeword that a read finds inverted: granule of the line (of a row, counted on over its lines), data bits, check
bits (R320), and whether the DRAM's on-die code reports an uncorrected error with it (R327). -/
structure Upset where
  gran  : Nat
  data  : BitVec 128
  check : BitVec 16
  ondie : Bool
  deriving DecidableEq, Repr

/-- The stores that hold granules under the code (R319). -/
inductive Space where
  | hbm | opsram | tile | accum | shared
  deriving DecidableEq, Repr

/-- A stored codeword that a read finds with bits inverted (R320, R324, R325): its store, the byte address of its granule in that store
as the state lays it out, the inverted data and check bits, and for HBM whether the DRAM's on-die code reports an uncorrected error (R327). -/
structure Blemish where
  space : Space
  addr  : Nat
  data  : BitVec 128
  check : BitVec 16
  ondie : Bool
  deriving DecidableEq, Repr

/-- An error on an edge of the mesh, in the direction crossed (R27, R28): on the way out from the requester or back to it. Where a payload
granule is named, its inverted bits. Where none is named, the inverted bits of one copy of a packet's header; no inverted bit at all stands
for a header of which neither copy decodes. -/
structure EdgeErr where
  src   : Fin 64
  dst   : Fin 64
  out   : Bool
  gran  : Option Nat
  data  : BitVec 128
  check : BitVec 16
  deriving DecidableEq, Repr

/-- Kinds of atomic (R430). -/
inductive Aop where
  | add | fadd | swap | cas | and | or
  deriving DecidableEq, Repr

/-- The unit that sends a memory request, for R311 and R313. -/
inductive Requester where
  /-- a core or DMA engine of a C-die -/
  | core (cdie : Fin 32)
  /-- the update unit of a G-die -/
  | update (gdie : Fin 16)
  /-- any other unit, by the mesh index of its die -/
  | other (die : Fin 64)
  deriving DecidableEq, Repr

/-- A request to a memory-side agent: memory address (41 bits), context, generation and requester (R26, R358). -/
structure MemReq where
  addr : BitVec 41
  ctx  : Fin 4096
  gen  : BitVec 8
  from_ : Requester
  deriving DecidableEq, Repr

/-- CLASS of a Vestad frame (R420). -/
inductive FrameClass where
  | req | rsp | ack | fm | hello
  deriving DecidableEq, Repr

/-- A Vestad frame that passed the checks of R422, by its header fields (R420) and payload granules; `bad` lists the granules that
decode as uncorrectable where it is received. -/
structure Frame where
  cls     : FrameClass
  op      : Nat
  src     : BitVec 16
  dst     : BitVec 16
  fence   : Bool
  timed   : Bool
  last    : Bool
  seq     : Word
  ack     : Word
  reqSeq  : Word
  status  : BitVec 16
  aop     : BitVec 4
  asz     : Bool
  offset  : BitVec 48
  issue   : BitVec 64
  bytes   : Word
  payload : List Gran
  bad     : List Nat
  deriving DecidableEq, Repr

/-- What a host read of a port addresses: bytes of BAR0, a doorbell page of BAR2, or configuration space (R375, R383, R502, R563). -/
inductive ReadAt where
  | bar0 (offset : BitVec 24) (size : Nat)
  | bell (offset : BitVec 24)
  | config
  deriving DecidableEq, Repr

/-- Why a received frame is dropped (R422), in the order in which the rule lists the causes. -/
inductive DropCause where
  | fcs | hchk | version | cls | dst | reserved | ethertype
  deriving DecidableEq, Repr

/-- Outcome of a descriptor fetch or another host read (R367, R392). -/
inductive ReadStatus where
  | ok | unsuccessful | poisoned
  deriving DecidableEq, Repr

/-- A PTP dataset carried by Announce (R46; its fields are those of IEEE 1588-2019). -/
structure PtpDataset where
  prio1    : BitVec 8
  clkClass : BitVec 8
  accuracy : BitVec 8
  variance : BitVec 16
  prio2    : BitVec 8
  identity : BitVec 64
  steps    : BitVec 16
  deriving DecidableEq, Repr

/-- Place of a clock-domain crossing and the side that has stopped (R477, R557). -/
inductive Crossing where
  /-- C-die compute domain against switch, agents or die-shared SRAM, with the compute side stopped -/
  | cdieCompute (cdie : Fin 32)
  /-- the same with the switch or agent side stopped -/
  | cdieAgent (cdie : Fin 32)
  | gdie (gdie : Fin 16)
  | hbmChannel (ch : Fin 1024)
  | hostPort (port : Fin 4)
  | fabricPort (port : Fin 64)
  | sdie (s : Fin 4)
  deriving DecidableEq, Repr

/-- A reset scope (R478). -/
inductive Scope where
  | partition (part : Fin 64)
  | cdie (cdie : Fin 32)
  | device
  deriving DecidableEq, Repr

/-- An update record as it reaches its home (R255, R438): the row's table fields, hyperparameters, source
and the record itself. `poison` tells that some granule of its data arrived poisoned (R273). -/
structure UpdRec where
  tableId : BitVec 16
  dimM1   : BitVec 10
  twide   : BitVec 2
  opt     : BitVec 2
  stride  : BitVec 8
  mode    : BitVec 2
  tier    : BitVec 2
  gfmt    : BitVec 4
  index   : BitVec 64
  src     : BitVec 16
  serial  : Word
  pos     : Word
  lr      : Word
  eps     : Word
  b1      : Word
  b2      : Word
  c1      : Word
  c2      : Word
  saddle  : BitVec 64
  data    : List Byte
  poison  : Bool
  deriving DecidableEq, Repr

/-- Where a message of the management protocols comes from and its answer goes: the I3C sideband, or the PCIe-mode port of an H-die (R511,
R518, R536). -/
abbrev Via := Option (Fin 4)

/-- A byte of a stored image that a root of trust reads with bits inverted (R505, R506): S0 or S1, domain, offset in the image. -/
structure Misread where
  root   : Fin 2
  domain : Fin 5
  offset : Nat
  flip   : Byte
  deriving DecidableEq, Repr

/-- A byte of an image's body that reaches its target die with bits inverted (R506). -/
structure Garbled where
  die    : Fin 64
  offset : Nat
  flip   : Byte
  deriving DecidableEq, Repr

/-- What the roots meet in one signing (R516, R517): the copies of the signing state that S0 and S1 find invalid besides those that are (bit n
for S-die n), copies that do not take the write, with the index and CRC difference that they then hold, and whether the two results are
identical. -/
structure Signing where
  blind0 : BitVec 4
  blind1 : BitVec 4
  lost   : List (Fin 4 × Nat × Word)
  same   : Bool
  deriving DecidableEq, Repr

/-- A record of an S-die's MRAM (R497): its newest cairn, its root state, its signing state, the image of a domain in its slot, or the
unit-history record of a unit. -/
inductive MramPlace where
  | journal | root | lms
  | image (domain : Fin 5)
  | unit (die : Fin 64) (unit : BitVec 8)
  deriving DecidableEq, Repr

/-- A write to MRAM that the loss of power tears (R499, R503): the S-die, the record, and the bits in which it differs from what was to be
written; for a record other than a cairn, those of its CRC. -/
structure Tear where
  sdie  : Fin 4
  place : MramPlace
  bits  : Nat
  deriving DecidableEq, Repr

/-- What one boot step reports (R498 to R503): its result, the dies and stacks that failed, the code, and
for step 9 the channels that conservative training withdrew. `agree` tells that S0 and S1 record the same outcome. -/
structure StepReport where
  ok       : Bool
  agree    : Bool
  code     : BitVec 16
  failed   : BitVec 64
  stackMask : Word
  channels : List (Fin 1024)
  /-- what the roots read wrong of the images that the step verifies (R505) -/
  misread  : List Misread
  /-- what reaches the step's target dies wrong (R506) -/
  garbled  : List Garbled
  /-- the signing of the Alias certificate (R515, R516) -/
  sign     : Signing
  /-- µs since the power-good of this start (ELAPSED of R503) -/
  elapsed  : Word
  /-- step 13: the units that the self-test finds faulty, by die and UNIT -/
  units    : List (Fin 64 × BitVec 8)
  deriving DecidableEq, Repr

/-- A lane's sample (R525, R532): lane 32 f + l, eye height in mV and width in mUI, and the codewords that its FEC has corrected and failed to
correct since the sample before. -/
structure LaneSample where
  lane   : Fin 256
  height : Nat
  width  : Nat
  fecCorr   : Nat
  fecUncorr : Nat
  deriving DecidableEq, Repr

/-- Stored bits that a read of a traffic-generator run finds inverted (R340): the number of the line access in the pass, pseudo-channel,
granule, data bits, check bits. -/
structure TgUpset where
  nth   : Nat
  pc    : Fin 2
  gran  : Fin 16
  data  : BitVec 128
  check : BitVec 16
  deriving DecidableEq, Repr

/-- How a suspect replay ends (R488). -/
inductive ReplayEnd where
  | clean
  /-- a fault with a code on a unit (mesh index of its die, UNIT) -/
  | faulted (code : BitVec 16) (die : Fin 64) (unit : BitVec 8)
  deriving DecidableEq, Repr

/-- The commands of spec/opcode_table.json, one constructor a row. -/
inductive Instr where
  /-- FABRIC_TICK (R34): At each tick boundary fabric time increases by exactly one. -/
  | fabricTick
  /-- SADDLE (R78): At each fabric time that is a multiple of 4,096 ticks, every action placed at a saddle takes effect. -/
  | saddle (readings : List (Nat × Int)) (volt : BitVec 10) (curr : BitVec 10) (power : BitVec 12)
  /-- MEMORY_SLOT (R303): A 4-tick memory slot begins and the agents write combined line entries to their pseudo-channels. -/
  | memorySlot
  /-- TIME_BEACON (R41): A die receives a time beacon, takes its value and counts any disagreement. -/
  | timeBeacon (die : Fin 64) (own : BitVec 64)
  /-- PPS_EDGE (R44): A rising edge of 1PPS gives an offset estimate and judges an armed TIM_PPS_LOAD value. -/
  | ppsEdge (offset : Int)
  /-- PPS_LOST (R45): No 1PPS edge arrives within 1.5 s of the previous one, and the source counts as lost. -/
  | ppsLost
  /-- TREF_LOST (R45): TREF departs from TICK by more than 50 ppm and the source counts as lost. -/
  | trefLost
  /-- PTP_SYNC_RECEIVED (R46): A Sync frame on a time-bearing link gives an offset estimate to the servo. -/
  | ptpSyncReceived (port : Fin 64) (domain : Fin 128) (twoStep : Bool) (sec nsec : Nat) (offset : Int)
  /-- PTP_SYNC_SEND (R46): At each sync interval a time-transmitting device sends one-step Sync. -/
  | ptpSyncSend
  /-- ANNOUNCE_TIMEOUT (R46): Three announce intervals pass without an Announce from the time transmitter. -/
  | announceTimeout (port : Fin 64)
  /-- HOLDOVER_BOUND_EXCEEDED (R48): The holdover bound passes 1 µs and the time state becomes LOST. -/
  | holdoverBoundExceeded
  /-- TIME_STEP (R53): At the tick boundary after the step value is fixed, fabric time is stepped and the state becomes ACQUIRING. -/
  | timeStep
  /-- TIME_DIE_FAILURE (R38): The time die fails and the standby synthesiser takes over PTCK within one tick. -/
  | timeDieFailure
  /-- TIM_SRC_WRITE (R55): A write that changes TIM_CTRL.SRC selects a new time source. -/
  | timSrcWrite (port : Fin 4) (w : Word)
  /-- PPS_ARM (R44): A write of 1 to TIM_CTRL.PPS_ARM arms the load of TIM_PPS_LOAD at the next 1PPS edge. -/
  | ppsArm (port : Fin 4) (w : Word)
  /-- TIM_HOLD_RATE_WRITE (R51): A write of TIM_HOLD.RATE changes the growth of the holdover bound from the write. -/
  | timHoldRateWrite (port : Fin 4) (w : Word)
  /-- TIM_NOW_LO_READ (R58): A read of TIM_NOW_LO returns fabric time and latches the upper half in the port's latch. -/
  | timNowLoRead (port : Fin 4)
  /-- LO_READ_LATCH (R566): A read of an RO _LO register latches the matching _HI register for that port. -/
  | loReadLatch (port : Fin 4) (at_ : ReadAt)
  /-- SQ_TAIL (R385): A doorbell write of SQ_TAIL makes descriptors visible and sets their admission time. A stray one is at none of the page's three offsets (R384). -/
  | sqTail (port : Fin 4) (ring : Fin 4096) (size : Nat) (stray : Bool) (value : Word)
  /-- CQ_HEAD (R385): A doorbell write of CQ_HEAD frees completion entries, or halts the ring when out of range. -/
  | cqHead (port : Fin 4) (ring : Fin 4096) (size : Nat) (stray : Bool) (value : Word)
  /-- DOORBELL_STATE_REQ (R405): A write to the doorbell STATE_REQ offset writes a ring-state record. -/
  | doorbellStateReq (port : Fin 4) (ring : Fin 4096) (size : Nat) (stray : Bool) (value : Word)
  /-- DESCRIPTOR_FETCH_DONE (R392): The ring engine receives a fetched descriptor and takes it, or halts the ring. -/
  | descriptorFetchDone (ring : Fin 4096) (status : ReadStatus) (slots : List (BitVec 512))
  /-- FORWARDED_DESCRIPTOR (R66): A descriptor forwarded from another H-die arrives at the partition's admitting H-die. -/
  | forwardedDescriptor (ring : Fin 4096) (seq : Word)
  /-- ADMISSION_DECISION (R67): A warden validates a submission and accepts it into a slot or refuses it. -/
  | admissionDecision (ring : Fin 4096) (seq : Word) (list : List Gran)
  /-- ADMISSION_TIMEOUT (R65): A submission not decided 100 ticks after its doorbell is refused with 0x0706. -/
  | admissionTimeout (ring : Fin 4096)
  /-- COMPLETION_ENTRY_ISSUE (R398): A completion or refusal entry is written to the completion ring on the ring's port. -/
  | completionEntryIssue (ring : Fin 4096) (seq : Word)
  /-- DEADLINE_WATCH (R72): At the end of a deadline tick every submission due without a completion begun is failed. -/
  | deadlineWatch (hdie : Fin 4)
  /-- FLUSH_READ_DONE (R401): A cross-path flush read completes and, when all have, the completion entry may be written. -/
  | flushReadDone (ring : Fin 4096) (seq : Word) (port : Fin 4) (ok : Bool)
  /-- MSIX_WINDOW_END (R402): A moderation window ends and one MSI-X message is sent if an entry was written in it. -/
  | msixWindowEnd (ring : Fin 4096)
  /-- RING_EN_ARM (R380): A write of HQ_RING_CTRL.EN from 0 to 1 arms the ring or is refused. -/
  | ringEnArm (port : Fin 4) (ring : Fin 4096) (w : Word)
  /-- RING_EN_DISARM (R381): A write of EN from 1 to 0 stops the ring taking descriptors. -/
  | ringEnDisarm (port : Fin 4) (ring : Fin 4096) (w : Word)
  /-- RING_STATE_REQ (R405): A write of HQ_RING_CTRL.STATE_REQ writes a ring-state record. -/
  | ringStateReq (port : Fin 4) (ring : Fin 4096) (w : Word)
  /-- HQ_RING_SEQ_WRITE (R379): A write of HQ_RING_SEQ sets TAKEN unless the ring is ACTIVE or DRAINING. -/
  | hqRingSeqWrite (port : Fin 4) (ring : Fin 4096) (w : Word)
  /-- SLOT_START (R79): A slot instance begins at its start point, running its steps or becoming a lull. -/
  | slotStart (part : Fin 64) (cls : Nat)
  /-- STATE_SUBMISSION (R405): A STATE submission writes a ring-state record and completes. -/
  | stateSubmission (ring : Fin 4096) (seq : Word)
  /-- NOP_SUBMISSION (R386): A NOP submission completes from the control queue. -/
  | nopSubmission (ring : Fin 4096) (seq : Word)
  /-- IMAGE_LOAD (R111): A LOAD validates the whole image and records it as pending or refuses it. -/
  | imageLoad (ring : Fin 4096) (seq : Word) (bad : List Blemish) (edges : List EdgeErr)
  /-- MAP_LIST (R362): A map submission validates its list and carries out its INSTALL and WITHDRAW operations. -/
  | mapList (ring : Fin 4096) (seq : Word) (list : List Gran) (bad : List Blemish) (edges : List EdgeErr) (badEntry : Option (Nat × BitVec 41 × Fin 4))
  /-- WITHDRAW_COUNT_REPORT (R364): A die reports its outstanding count for the withdrawn generation. -/
  | withdrawCountReport (ctx : Fin 4096) (die : Fin 64)
  /-- WITHDRAW_TIMEOUT (R365): A withdrawal count is not zero at W + 10,000 ticks and 0x0410 is charged. -/
  | withdrawTimeout (ctx : Fin 4096)
  /-- FLOOR_ACK (R364): A memory agent or G-die acknowledges the new FLOOR, and the withdrawal completes when all have. -/
  | floorAck (ctx : Fin 4096) (die : Fin 64)
  /-- HOLD (R458): A HOLD submission moves the partition to HOLDING and sends the latch. -/
  | hold (ring : Fin 4096) (seq : Word)
  /-- HOLD_LATCH (R459): At tick L the partition's engines begin to reach their hold points. -/
  | holdLatch (part : Fin 64)
  /-- HELD_ENTERED (R461): When every engine is held and every request retired, the partition is HELD and the HOLD completes. -/
  | heldEntered (part : Fin 64)
  /-- HOLD_HOST_READ_TIMEOUT (R460): A host read outstanding at L + 2,000 ticks is delivered poisoned and 0x0550 is charged. -/
  | holdHostReadTimeout (part : Fin 64)
  /-- RESUME (R463): A RESUME submission shifts the image by Δ and returns the partition to SERVING. -/
  | resume (ring : Fin 4096) (seq : Word)
  /-- RESUME_AT_ARRIVAL (R463): Fabric time reaches RESUME_AT and the partition resumes as for a RESUME. -/
  | resumeAtArrival (part : Fin 64)
  /-- PARTITION_RESET (R481): A RESET submission moves the partition to RESETTING. -/
  | partitionReset (ring : Fin 4096) (seq : Word)
  /-- PARTITION_RESET_FENCE (R481): At A + 64 the partition fences and its open instances fail. -/
  | partitionResetFence (part : Fin 64)
  /-- PARTITION_CLEAR_END (R481): The partition clear ends and the partition returns to SERVING. -/
  | partitionClearEnd (part : Fin 64)
  /-- STOP (R465): A STOP submission records a pending stop at a saddle. -/
  | stop (ring : Fin 4096) (seq : Word)
  /-- REPAIR_WITHDRAW (R466): A REPAIR WITHDRAW withdraws a named array from the next saddle. -/
  | repairWithdraw (ring : Fin 4096) (seq : Word)
  /-- REPAIR_RETURN (R466): A REPAIR RETURN starts the confirmation sweep of a withdrawn array. -/
  | repairReturn (ring : Fin 4096) (seq : Word)
  /-- CONFIRMATION_SWEEP_END (R466): A confirmation sweep ends, returning the array or failing with 0x0303. -/
  | confirmationSweepEnd (core : Fin 256) (array : Fin 4) (faults : List (Fin 4096 × List CellFault))
  /-- W_LOAD (R95): A W_LOAD issues at its stated cycle and writes the shadow bank. -/
  | wLoad (r : OpRef) (phase : Fin 7) (bad : List Blemish)
  /-- PASS (R95): A PASS issues, makes the shadow bank active and streams activation rows. -/
  | pass (r : OpRef) (phase : Fin 7) (faults : List CellFault) (bad : List Blemish)
  /-- VE_RUN (R191): The vector engine runs one vector descriptor. -/
  | veRun (r : OpRef) (phase : Fin 7) (bad : List Blemish)
  /-- FTQ_POP (R209): The oldest finished-tile queue entry is popped and copied to a tile buffer. -/
  | ftqPop (r : OpRef) (phase : Fin 7) (bad : List Blemish)
  /-- DMA_RUN (R98): The DMA engine starts a copy, conversion, transpose, codebook load or expansion. -/
  | dmaRun (r : OpRef) (phase : Fin 7) (bad : List Blemish) (edges : List EdgeErr)
  /-- ACC_READ (R212): A forerunner-compatible direct read copies accumulator rows into TB3. -/
  | accRead (r : OpRef) (phase : Fin 7) (bad : List Blemish)
  /-- NOP (R89): A NOP occupies its engine for its stated cycles. -/
  | nop (r : OpRef) (phase : Fin 7)
  /-- PASS_VERDICT (R147): At the verdict cycle the pass's checks are judged and the tile is queued. -/
  | passVerdict (core : Fin 256) (array : Fin 4) (phase : Fin 7) (bad : List Blemish)
  /-- REPLAY_START (R148): A replay of a chain starts at the first free replay window. -/
  | replayStart (core : Fin 256) (phase : Fin 7) (faults : List CellFault) (bad : List Blemish)
  /-- DMA_DATA_READY (R98): A transfer reaches its data-ready cycle and its destination is ready. -/
  | dmaDataReady (r : OpRef) (phase : Fin 7)
  /-- SLIP_LIMIT (R117): An engine's slip reaches 448 cycles and 0x0520 is charged. -/
  | slipLimit (core : Fin 256) (engine : Fin 6) (phase : Fin 7)
  /-- STEP_END (R118): At the end of a step's last tile, slip beyond SLACK charges 0x0521. -/
  | stepEnd (r : StepRef) (phase : Fin 7)
  /-- GATHER_STEP_START (R245): A G-die gather step starts and reads its gather list. -/
  | gatherStepStart (r : StepRef)
  /-- GATHER_LIST_ARRIVED (R227): The whole gather list has arrived and is validated before sort begins. -/
  | gatherListArrived (r : StepRef) (bad : List Blemish) (edges : List EdgeErr)
  /-- SORT_END (R229): Sort and deduplication end and the distinct fetches are issued. -/
  | sortEnd (r : StepRef) (cache : List (Nat × Nat × Upset))
  /-- ROW_FETCH_REPLY (R222): A local row fetch returns, its header is checked and it is pooled and written. -/
  | rowFetchReply (r : StepRef) (key : Nat) (upset : List Upset) (edges : List EdgeErr)
  /-- GATHER_OUTPUTS_WRITTEN (R232): Every output of a descriptor is written and its drop counts are written. -/
  | gatherOutputsWritten (r : StepRef) (bad : List Blemish) (edges : List EdgeErr)
  /-- REMOTE_CUTOFF (R238): At the remote bound, outputs that depend on missing rows are written poisoned. -/
  | remoteCutoff (r : StepRef) (bad : List Blemish) (edges : List EdgeErr)
  /-- GSTEP_TIMEOUT (R246): A G-die step reaches START + LENGTH with outputs unwritten and 0x0521 is charged. -/
  | gstepTimeout (r : StepRef) (bad : List Blemish) (edges : List EdgeErr)
  /-- FABRIC_SEND_STEP (R428): An F-die step sends its fabric send descriptor's request. -/
  | fabricSendStep (r : StepRef) (bad : List Blemish) (edges : List EdgeErr)
  /-- HOST_TRANSFER_STEP (R393): An H-die step moves data between a buffer slot and device memory. -/
  | hostTransferStep (r : StepRef) (bad : List Blemish) (edges : List EdgeErr)
  /-- UPDATE_BATCH_READ_DONE (R256): The ingest G-die has read the update batch, validates it and sends each record to its home. -/
  | updateBatchReadDone (ring : Fin 4096) (seq : Word) (data : List Gran) (bad : List Blemish) (edges : List EdgeErr)
  /-- UPDATE_RECORD_ARRIVAL (R261): An update record arrives at its home and is staged, rejected or capped. -/
  | updateRecordArrival (gdie : Fin 16) (u : UpdRec) (edges : List EdgeErr)
  /-- UPDATE_CLOSE (R261): The close of saddle S passes at S − 256. -/
  | updateClose (gdie : Fin 16)
  /-- ROW_COMMIT (R268): After its extent is read, a row's new version is computed and committed. -/
  | rowCommit (gdie : Fin 16) (upset : List Upset) (staged : List (Nat × Upset)) (edges back : List EdgeErr)
  /-- UPDATE_REPORT_SEND (R274): After the update window each home sends its outcome to the ingest G-die. -/
  | updateReportSend (gdie : Fin 16) (src : BitVec 16) (serial : Word)
  /-- UPDATE_REPORT_ARRIVAL (R274): A home's outcome arrives at the ingest G-die, which writes the report and completes. -/
  | updateReportArrival (serial : Word) (dev : BitVec 16) (gdie : Fin 16) (edges : List EdgeErr)
  /-- UPDATE_REPORT_TIMEOUT (R275): A home's reply has not arrived by S + SADDLE_UPD + 2,000 and is reported as timed out. -/
  | updateReportTimeout (serial : Word) (dev : BitVec 16) (gdie : Fin 16) (records : Word) (edges : List EdgeErr)
  /-- MEM_READ (R315): A memory-side agent serves a read request to a line. -/
  | memRead (q : MemReq) (upset : List Upset) (edges : List EdgeErr)
  /-- MEM_WRITE (R315): A memory-side agent accepts or refuses a write request. -/
  | memWrite (q : MemReq) (mask : BitVec 256) (data : List Gran) (upset : List Upset) (edges : List EdgeErr)
  /-- MEM_ATOMIC (R430): A memory-side agent executes an atomic as a sub-granule write. -/
  | memAtomic (q : MemReq) (aop : Aop) (wide : Bool) (opa opb : BitVec 64) (upset : List Upset) (edges : List EdgeErr)
  /-- ECC_CORRECTED_REWRITE (R324): A corrected HBM line is rewritten within 64 ticks. -/
  | eccCorrectedRewrite (pc : Fin 2048) (line : BitVec 22)
  /-- PATROL_SCRUB (R326): The agent patrol-scrubs a line of its stack. -/
  | patrolScrub (pc : Fin 2048) (line : BitVec 22) (upset : List Upset) (ecs : Word)
  /-- TRANSPOSE_BLOCK_TIMEOUT (R337): A transposing block incomplete 2,000 ticks after its first line is stored with poison. -/
  | transposeBlockTimeout (cdie : Fin 32) (block : Nat)
  /-- REGION_ENABLE (R310): A write of MEM_RGN_D.V from 0 to 1 checks and validates a region. -/
  | regionEnable (port : Fin 4) (i : Fin 256) (w : Word)
  /-- REGION_RELEASE (R310): A write of V to 0 releases a region of a partition that is not serving. -/
  | regionRelease (port : Fin 4) (i : Fin 256) (w : Word)
  /-- ROWLOCK_WRITE (R311): A write that sets or clears ROWLOCK of a region. -/
  | rowlockWrite (port : Fin 4) (i : Fin 256) (w : Word)
  /-- CHANNEL_ASSIGN (R328): A write of MEM_CH_OWN.V from 0 to 1 assigns and starts clearing a channel. -/
  | channelAssign (port : Fin 4) (ch : Fin 1024) (w : Word)
  /-- CHANNEL_RELEASE (R328): A write of V from 1 to 0 releases a channel that no valid region uses. -/
  | channelRelease (port : Fin 4) (ch : Fin 1024) (w : Word)
  /-- CHANNEL_CLEAR_DONE (R328): Channel clearing ends and CLEARING returns to 0. -/
  | channelClearDone (ch : Fin 1024)
  /-- SWAY_ASSIGN (R330): A write of a MEM_SWAY V bit from 0 to 1 assigns a die-shared SRAM way. -/
  | swayAssign (port : Fin 4) (cdie : Fin 32) (q : Fin 4) (w : Word)
  /-- SWAY_RELEASE (R573): A write of a MEM_SWAY V bit from 1 to 0 releases a way. -/
  | swayRelease (port : Fin 4) (cdie : Fin 32) (q : Fin 4) (w : Word)
  /-- WAY_CLEAR_DONE (R330): An assigned way has been written to zero and is ready for use. -/
  | wayClearDone (cdie : Fin 32) (way : Fin 16)
  /-- RWAY_ASSIGN (R572): A write of a GTH_RWAY V bit from 0 to 1 assigns and invalidates a row-cache way. -/
  | rwayAssign (port : Fin 4) (gdie : Fin 16) (q : Fin 4) (w : Word)
  /-- RWAY_RELEASE (R573): A write of a GTH_RWAY V bit from 1 to 0 releases a row-cache way. -/
  | rwayRelease (port : Fin 4) (gdie : Fin 16) (q : Fin 4) (w : Word)
  /-- TG_START (R339): MEM_TG_CTRL.START starts a traffic-generator run or sets BAD or REFUSED. -/
  | tgStart (port : Fin 4) (w : Word)
  /-- TG_STOP (R339): MEM_TG_CTRL.STOP ends the run after the line in progress. -/
  | tgStop (port : Fin 4) (w : Word)
  /-- TG_RUN_END (R340): A traffic-generator run ends and sets DONE. -/
  | tgRunEnd (ch : Fin 1024) (upset : List TgUpset)
  /-- CONTEXT_ENABLE (R348): A write of XLT_CTX_A.V from 0 to 1 validates a context. -/
  | contextEnable (port : Fin 4) (ctx : Fin 4096) (w : Word)
  /-- CONTEXT_DISABLE (R348): A write of V to 0 removes a context of a partition that is not serving. -/
  | contextDisable (port : Fin 4) (ctx : Fin 4096) (w : Word)
  /-- XLT_SLQ_WRITE (R356): A write of XLT_SLQ sets a partition's second-level entry quota or is refused. -/
  | xltSlqWrite (port : Fin 4) (part : Fin 64) (w : Word)
  /-- PWIN_ENABLE (R369): A write of XLT_PWIN_A.V from 0 to 1 validates a pool window. -/
  | pwinEnable (port : Fin 4) (i : Fin 64) (w : Word)
  /-- PWIN_DISABLE (R369): A write of V to 0 removes a pool window. -/
  | pwinDisable (port : Fin 4) (i : Fin 64) (w : Word)
  /-- LINK_DOWN (R407): A host port transitions to DL_Down and is treated as host loss. -/
  | linkDown (port : Fin 4)
  /-- HOST_RESET (R407): A Hot Reset, link disable or PERST_N assertion is treated as host loss. -/
  | hostReset (port : Fin 4) (perst : Bool)
  /-- FLR (R407): A Function Level Reset is treated as host loss. -/
  | flr (port : Fin 4)
  /-- LINK_UP (R411): The host link enters DL_Active while the fence stands. -/
  | linkUp (port : Fin 4) (width : BitVec 5) (rate : BitVec 4)
  /-- RETRAIN (R406): A retrain in which the link stays DL_Active holds and resumes host-bound writes. -/
  | retrain (port : Fin 4)
  /-- HOST_LINK_GIVEUP (R412): The host link is not restored within 1 s and the device compute domain resets. -/
  | hostLinkGiveup (port : Fin 4)
  /-- HOST_READ_COMPLETION (R367): A host read completion arrives and delivers its data or poison. -/
  | hostReadCompletion (port : Fin 4) (id : Nat) (status : ReadStatus) (data : List Gran) (edges : List EdgeErr)
  /-- PORT_MODE_WRITE (R574): A write-once write of HQ_PORT_CFG.MODE locks the port's mode. -/
  | portModeWrite (port : Fin 4) (n : Fin 4) (w : Word)
  /-- WRITE (R434): An incoming Vestad WRITE request is translated and executed. -/
  | write (port : Fin 64) (f : Frame) (edges : List EdgeErr)
  /-- READ (R434): An incoming Vestad READ request is translated and answered. -/
  | read (port : Fin 64) (f : Frame) (bad : List Blemish) (edges : List EdgeErr)
  /-- ROW_READ (R435): An incoming ROW_READ is directed to the extent's home G-die and served whole. -/
  | rowRead (port : Fin 64) (f : Frame) (upset : List Upset) (edges : List EdgeErr)
  /-- ATOMIC (R430): An incoming ATOMIC request is executed at the target agent. -/
  | atomic (port : Fin 64) (f : Frame) (bad : List Blemish) (edges : List EdgeErr)
  /-- UPD_REC (R438): An incoming UPD_REC frame delivers an update record to its home G-die. -/
  | updRec (port : Fin 64) (f : Frame)
  /-- UPD_RPT (R438): An incoming UPD_RPT frame delivers a home's outcome to the ingest G-die. -/
  | updRpt (port : Fin 64) (f : Frame)
  /-- RSP (R431): A response frame is delivered to its request, or discarded if abandoned. -/
  | rsp (port : Fin 64) (f : Frame) (edges : List EdgeErr)
  /-- ACK (R424): An ACK frame acknowledges frames of its connection. -/
  | ack (port : Fin 64) (f : Frame)
  /-- HELLO_CONNECT (R423): A connect HELLO opens, or closes and reopens, a connection. -/
  | helloConnect (port : Fin 64) (f : Frame)
  /-- HELLO_LINK (R443): A link HELLO marks the port as a direct link to a Z6416 partner. -/
  | helloLink (port : Fin 64) (f : Frame)
  /-- PEER_DOWN (R447): A PEER_DOWN message fails requests to the subject and closes its connections. -/
  | peerDown (port : Fin 64) (f : Frame)
  /-- PEER_UP (R447): A PEER_UP message lifts PEER_DOWN for the subject. -/
  | peerUp (port : Fin 64) (f : Frame)
  /-- PEER_TIME (R447): A PEER_TIME message records the subject's time state. -/
  | peerTime (port : Fin 64) (f : Frame)
  /-- ACK_TIMER (R424): Eight ticks pass without a frame to carry an acknowledgement and an ACK frame is sent. -/
  | ackTimer (port : Fin 64) (peer : BitVec 16)
  /-- RETRANSMIT (R424): The oldest unacknowledged frame waits RTO ticks and every unacknowledged frame is resent. -/
  | retransmit (port : Fin 64) (peer : BitVec 16)
  /-- HELLO_RESEND (R423): An unanswered HELLO is resent every RTO ticks. -/
  | helloResend (port : Fin 64) (peer : BitVec 16)
  /-- PEER_TIMEOUT (R425): A frame waits PEER_TMO × 16 ticks, the connection closes and PEER_LOST is sent. -/
  | peerTimeout (port : Fin 64) (peer : BitVec 16)
  /-- CONNECTION_IDLE (R426): A connection idle for 1 s closes. -/
  | connectionIdle (port : Fin 64) (peer : BitVec 16)
  /-- REMOTE_BOUND (R431): A request without a response at issue + 2,000 ticks is abandoned with 0x0510. -/
  | remoteBound (id : Nat)
  /-- PORT_DOWN (R442): A fabric port leaves link-up and its outstanding requests fail with 0x0801. -/
  | portDown (port : Fin 64)
  /-- PORT_UP (R442): A fabric port trains and comes up, and PORT_STATE is sent. -/
  | portUp (port : Fin 64)
  /-- LANE_REPAIR (R443): A direct-link port retrains on half its lanes and 0x0802 is recorded. -/
  | laneRepair (port : Fin 64) (upper : Bool)
  /-- VST_ID_WRITE (R418): A write-once write of VST_ID sets and locks the device ID. -/
  | vstIdWrite (port : Fin 4) (w : Word)
  /-- VST_MAC_WRITE (R419): A write of VST_MAC.PREFIX is accepted or refused with CFG_REFUSED. -/
  | vstMacWrite (port : Fin 4) (w : Word)
  /-- CXL_MEMBER_ENABLE (R439): A write of VST_CXL.V to 1 presents a CXL expander as a pool member. -/
  | cxlMemberEnable (port : Fin 4) (n : Fin 4) (w : Word)
  /-- SERVE_BUDGET_WRITE (R436): A write of VST_SERVE_F or VST_SERVE_G is checked against capacity. -/
  | serveBudgetWrite (port : Fin 4) (gdie : Bool) (n : Fin 16) (w : Word)
  /-- CROSSING_TIMEOUT (R556): A transfer pending in a crossing makes no progress for 1,024 receiving cycles. -/
  | crossingTimeout (place : Crossing)
  /-- UNIT_STATE_ERROR (R484): An uncorrectable error in a unit's internal state triggers a C-die or device reset. -/
  | unitStateError (die : Fin 48) (unit : BitVec 8) (ctx : Option (Fin 4096))
  /-- DRAIN_END (R480): No request that left the reset scope is outstanding and the clear begins. -/
  | drainEnd (scope : Scope)
  /-- DRAIN_OVERRUN (R480): A drain not ended at fence + 10,000 ticks records 0x0560 and escalates. -/
  | drainOverrun (scope : Scope)
  /-- CDIE_CLEAR_END (R482): The clear of a C-die compute domain ends at tick E. -/
  | cdieClearEnd (cdie : Fin 32)
  /-- DEVICE_CLEAR_END (R483): The clear of the device compute domain ends and partitions return to SERVING. -/
  | deviceClearEnd
  /-- SYS_DEV_RESET (R484): SYS_RESET_CTRL.DEV_RESET requests an uncounted device compute-domain reset. -/
  | sysDevReset (port : Fin 4) (w : Word)
  /-- SYS_DEV_ENABLE (R493): SYS_RESET_CTRL.DEV_ENABLE re-enables an out-of-service device. -/
  | sysDevEnable (port : Fin 4) (w : Word)
  /-- CDIE_RESET (R484): SYS_RESET_CTRL.CDIE_RESET requests an uncounted reset of a C-die. -/
  | cdieReset (port : Fin 4) (w : Word)
  /-- CDIE_ENABLE (R493): SYS_RESET_CTRL.CDIE_ENABLE re-enables an out-of-service C-die. -/
  | cdieEnable (port : Fin 4) (w : Word)
  /-- SUSPECT_REPLAY_START (R487): A suspect's held submission is replayed in a suitable start point. -/
  | suspectReplayStart (part : Fin 64)
  /-- SUSPECT_REPLAY_END (R488): A suspect replay ends clean or faults, clearing or naming the suspect. -/
  | suspectReplayEnd (part : Fin 64) (e : ReplayEnd)
  /-- SUSPECT_REPLAY_GIVEUP (R487): No start point is found within 100 saddles and the suspect is marked NOT_REPLAYED. -/
  | suspectReplayGiveup (part : Fin 64)
  /-- PART_ENABLE (R452): A write of SYS_PART_CTRL.EN from 0 to 1 moves a partition to SERVING. -/
  | partEnable (port : Fin 4) (part : Fin 64) (w : Word)
  /-- PART_DISABLE (R452): A write of EN from 1 to 0 moves a partition to IDLE or is refused. -/
  | partDisable (port : Fin 4) (part : Fin 64) (w : Word)
  /-- CORE_ASSIGN (R453): A write of SYS_CORE_OWN.V from 0 to 1 assigns a core and starts its clear. -/
  | coreAssign (port : Fin 4) (core : Fin 256) (w : Word)
  /-- CORE_RELEASE (R454): A write of V from 1 to 0 releases a core that no image names. -/
  | coreRelease (port : Fin 4) (core : Fin 256) (w : Word)
  /-- CORE_CLEAR_DONE (R453): A core's clear ends and CLEARING returns to 0. -/
  | coreClearDone (core : Fin 256)
  /-- GTH_UPD_CTRL_WRITE (R571): A write of GTH_UPD_CTRL sets the ingest G-die or is refused. -/
  | gthUpdCtrlWrite (port : Fin 4) (part : Fin 64) (w : Word)
  /-- GTH_UPD_QUOTA_WRITE (R571): A write of GTH_UPD_QUOTA sets a partition's source quota or is refused. -/
  | gthUpdQuotaWrite (port : Fin 4) (part : Fin 64) (w : Word)
  /-- GTH_UPD_CAP_WRITE (R259): A write of a cap-table entry is accepted or refused under the window bound. -/
  | gthUpdCapWrite (port : Fin 4) (gdie : Fin 16) (entry : Fin 256) (w : Word)
  /-- REGISTER_WRITE (R569): A write to a register with no row of its own sets its fields, clears W1C bits or is ignored. -/
  | registerWrite (port : Fin 4) (offset : BitVec 24) (size : Nat) (w : Word) (hwset : Word)
  /-- BOOT_STEP_END (R498): A boot step ends, its END cairn is written and the next step begins. -/
  | bootStepEnd (r : StepReport)
  /-- BOOT_STEP_TIMEOUT (R499): A boot step does not end within its bound and fails. -/
  | bootStepTimeout (r : StepReport)
  /-- RETRY (R500): A write of SEC_BOOT_CTRL.RETRY asks the next start to try a step the normal way. -/
  | retry (port : Fin 4) (w : Word)
  /-- CONFIRM (R510): A write of SEC_BOOT_CTRL.CONFIRM records the running set as the good record. -/
  | confirm (port : Fin 4) (w : Word)
  /-- GOOD_RECORD_TIMER (R510): One hour of service without a counted device reset makes the running set the good record. -/
  | goodRecordTimer
  /-- QUERY_DEVICE_IDENTIFIERS (R511): The PLDM QueryDeviceIdentifiers command returns the device identifiers. -/
  | queryDeviceIdentifiers (via : Via)
  /-- GET_FIRMWARE_PARAMETERS (R511): The PLDM GetFirmwareParameters command returns the firmware parameters. -/
  | getFirmwareParameters (via : Via)
  /-- REQUEST_UPDATE (R511): RequestUpdate starts a firmware update, or is refused while one runs. -/
  | requestUpdate (via : Via)
  /-- PASS_COMPONENT_TABLE (R511): PassComponentTable names the components of the update, by classification and identifier. -/
  | passComponentTable (via : Via) (comps : List (BitVec 16 × BitVec 16))
  /-- UPDATE_COMPONENT (R512): UpdateComponent begins writing a domain's non-running slot. -/
  | updateComponent (via : Via) (cls ident : BitVec 16) (version : Word) (size : Nat)
  /-- FIRMWARE_DATA_RECEIVED (R512): Firmware data arrive in answer to RequestFirmwareData and are written to the slot. -/
  | firmwareDataReceived (via : Via) (data : List Byte) (misread : List Misread)
  /-- ACTIVATE_FIRMWARE (R513): ActivateFirmware activates each updated domain as its rule gives. -/
  | activateFirmware (via : Via)
  /-- GET_STATUS (R511): The PLDM GetStatus command returns the update status. -/
  | getStatus (via : Via)
  /-- CANCEL_UPDATE_COMPONENT (R511): CancelUpdateComponent cancels the update of one component. -/
  | cancelUpdateComponent (via : Via)
  /-- CANCEL_UPDATE (R511): CancelUpdate cancels the firmware update. -/
  | cancelUpdate (via : Via)
  /-- ACTIVATION_TIMEOUT (R513): A die that does not run its new image within its bound reverts to the other slot. -/
  | activationTimeout
  /-- ACTIVATION_ABANDON (R513): A G-die activation whose condition does not hold within 100 saddles is abandoned. -/
  | activationAbandon
  /-- GET_VERSION (R518): The SPDM GET_VERSION request is answered. -/
  | getVersion (via : Via)
  /-- GET_CAPABILITIES (R518): The SPDM GET_CAPABILITIES request is answered. -/
  | getCapabilities (via : Via)
  /-- NEGOTIATE_ALGORITHMS (R518): The SPDM NEGOTIATE_ALGORITHMS request is answered. -/
  | negotiateAlgorithms (via : Via)
  /-- GET_DIGESTS (R518): The SPDM GET_DIGESTS request is answered. -/
  | getDigests (via : Via)
  /-- GET_CERTIFICATE (R518): The SPDM GET_CERTIFICATE request returns the certificate chain. -/
  | getCertificate (via : Via) (offset length : Nat)
  /-- CHALLENGE (R518): The SPDM CHALLENGE request is answered with both signatures. -/
  | challenge (via : Via) (nonce : Nat) (sign : Signing)
  /-- GET_MEASUREMENTS (R519): The SPDM GET_MEASUREMENTS request returns the measurement blocks. -/
  | getMeasurements (via : Via) (index : Nat) (signed : Bool) (nonce : Nat) (sign : Signing)
  /-- SWEEP_PASS_START (R531): A pattern sweep pass starts on an idle array in a sufficient lull. -/
  | sweepPassStart (core : Fin 256) (array : Fin 4) (bf16 : Bool) (phase : Fin 7) (faults : List CellFault)
  /-- SWEEP_VERDICT (R529): A sweep pass reaches its verdict and a mismatch is recorded as 0x0310. -/
  | sweepVerdict (core : Fin 256) (array : Fin 4) (phase : Fin 7)
  /-- COUNTER_WRITEBACK (R526): Unit-history counters are written back to MRAM at least every 60 s. -/
  | counterWriteback
  /-- EYE_SAMPLE (R532): Each lane reports its eye height and width every second. -/
  | eyeSample (samples : List LaneSample)
  /-- AGING_SAMPLE (R532): Aging monitors are sampled every hour. -/
  | agingSample (readings : List (Nat × Int))
  /-- SWEEP_SUMMARY (R534): A SWEEP telemetry entry is sent for each array every hour. -/
  | sweepSummary
  /-- HLT_RING_ARM (R535): A write of HLT_RING_CFG.EN to 1 arms the telemetry ring or is refused. -/
  | hltRingArm (port : Fin 4) (w : Word)
  /-- HLT_RING_HEAD_WRITE (R535): A write of HLT_RING_HEAD frees telemetry entries. -/
  | hltRingHeadWrite (port : Fin 4) (w : Word)
  /-- GET_PDR (R536): The PLDM GetPDR command returns platform descriptor records. -/
  | getPdr (via : Via) (record : Nat)
  /-- GET_SENSOR_READING (R536): The PLDM GetSensorReading command returns a numeric sensor's reading. -/
  | getSensorReading (via : Via) (sensor : Nat)
  /-- GET_STATE_SENSOR_READINGS (R536): The PLDM GetStateSensorReadings command returns state sensors. -/
  | getStateSensorReadings (via : Via) (sensor : Nat)
  /-- SET_EVENT_RECEIVER (R536): The PLDM SetEventReceiver command sets the event receiver. -/
  | setEventReceiver (via : Via) (receiver : Nat)
  /-- POLL_FOR_PLATFORM_EVENT_MESSAGE (R536): The PLDM PollForPlatformEventMessage command returns a queued event. -/
  | pollForPlatformEventMessage (via : Via)
  /-- MOD_PWR_EN_ASSERT (R542): The board controller asserts MOD_PWR_EN and the rails come up in order. -/
  | modPwrEnAssert
  /-- MOD_PWR_GOOD (R542): Every rail reaches regulation and the module asserts MOD_PWR_GOOD. -/
  | modPwrGood
  /-- POWER_UP_TIMEOUT (R542): MOD_PWR_GOOD is not reached by 20 ms and every die is held in reset. -/
  | powerUpTimeout
  /-- MOD_PWR_EN_DEASSERT (R544): MOD_PWR_EN falls and the rails fall in reverse order. -/
  | modPwrEnDeassert (torn : List Tear)
  /-- MOD_RST_N_DEASSERT (R542): MOD_RST_N rises and boot step ROOT begins. -/
  | modRstNDeassert
  /-- MOD_RST_N_ASSERT (R543): MOD_RST_N falls while powered and every die is reset. -/
  | modRstNAssert
  /-- POWER_FAILURE (R541): The input leaves 52–64 V for 100 µs and the carrier stops its 6 V converters. -/
  | powerFailure (torn : List Tear)
  /-- UV (R540): The input stays below 54 V for 100 µs and UV is set with ALERT_N. -/
  | uv
  /-- OV (R540): The input stays above 63 V for 100 µs and OV is set with ALERT_N. -/
  | ov
  /-- OVERPOWER (R540): Input power stays above 12.0 kW for 1 ms and OVERPOWER is set. -/
  | overpower
  /-- THERMAL_TRIP (R547): A trip comparator detects a trip temperature and THERMTRIP_N is latched. -/
  | thermalTrip
  /-- THERMTRIP_TIMEOUT (R547): MOD_PWR_EN still asserted 500 ms after THERMTRIP_N stops the 6 V converters. -/
  | thermtripTimeout (torn : List Tear)
  /-- TICK_LOST (R551): TICK is lost and the synthesiser holds PTCK on its internal oscillator. -/
  | tickLost
  /-- TICK_RETURN (R551): TICK returns and the synthesiser slews PTCK back to it. -/
  | tickReturn
  /-- REFCLK_LOST (R552): Loss of Hn_REFCLK takes the port's link down. -/
  | refclkLost (port : Fin 4)
  /-- STANDBY (R545): The sideband STANDBY command fences, drains, saves counters and puts HBM in self-refresh. -/
  | standby
  /-- RESTART (R545): The sideband RESTART command restarts the package to step ROOT. -/
  | restart
  /-- DEV_RESET (R545): The sideband DEV_RESET command requests an uncounted device compute-domain reset. -/
  | devReset
  /-- DEV_ENABLE (R545): The sideband DEV_ENABLE command re-enables an out-of-service device. -/
  | devEnable
  /-- GET_STATE (R545): The sideband GET_STATE command returns the module state and boot step. -/
  | getState
  /-- PPS_LOAD (R545): The sideband PPS_LOAD command writes TIM_PPS_LOAD and sets PPS_ARM. -/
  | ppsLoad (value : BitVec 64)
  /-- HOLD_POINT_TIMEOUT (R484): A core engine of a HOLDING partition not at its hold point by L + 2,000 ticks triggers a counted C-die reset with 0x0560. -/
  | holdPointTimeout (part : Fin 64) (core : Fin 256)
  /-- DRAIN_HOST_READ_TIMEOUT (R480): A host read from a reset scope still outstanding at fence + 2,000 ticks is abandoned and its data discarded. -/
  | drainHostReadTimeout (scope : Scope)
  /-- REMOTE_WINDOW_CLOSE (R105): At the end of a G-die step's REMOTE_WIN, remote rows still needed and not issued are delivered poisoned with the remote-timeout code. -/
  | remoteWindowClose (r : StepRef)
  /-- CXL_MEM_COMPLETION (R440): A CXL.mem read or write completion from a Type-3 expander arrives at the H-die, delivering data, poison with 0x0109, or ending a line lock. -/
  | cxlMemCompletion (hdie : Fin 4) (id : Nat) (error : Bool) (data : List Gran) (edges : List EdgeErr)
  /-- ACTIVATION_DONE (R513): A die runs its newly activated image within its bound, ACTIVATED is set and the next die's activation begins. -/
  | activationDone (sign : Signing)
  /-- FIRMWARE_UPDATE_TIMEOUT (R514): A DSP0267 timeout cancels the firmware update in progress, and the written slot stays invalid. -/
  | firmwareUpdateTimeout
  /-- ANNOUNCE_RECEIVED (R46): A PTP Announce frame arrives, making a time transmitter visible and feeding the best-master-clock algorithm. -/
  | announceReceived (port : Fin 64) (domain : Fin 128) (ds : PtpDataset)
  /-- FOLLOW_UP_RECEIVED (R46): The Follow_Up of a two-step Sync arrives and gives the servo its offset estimate. -/
  | followUpReceived (port : Fin 64) (domain : Fin 128) (sec nsec : Nat) (offset : Int)
  /-- ANNOUNCE_SEND (R46): At each 1 s announce interval a time-transmitting device sends Announce. -/
  | announceSend
  /-- TREF_PRESENT (R45): TREF returns within 50 ppm of TICK, TREF_OK is set and the source counts as present again. -/
  | trefPresent
  /-- REFCLK_RETURN (R548): Hn_REFCLK returns and REFCLK_OK is set for the port. -/
  | refclkReturn (port : Fin 4)
  /-- PERST_N_DEASSERT (R413): Hn_PERST_N is deasserted, LINK shows training and the port begins link training in its selected mode. -/
  | perstNDeassert (port : Fin 4)
  /-- FM_FRAME_REFUSED (R445): An FM frame from the wrong source, with a stale MSG_SEQ or of an unknown TYPE is dropped, 0x0808 is recorded and FM_REFUSED is set. -/
  | fmFrameRefused (port : Fin 64) (f : Frame)
  /-- FRAME_DROPPED (R422): A received frame with a failed FCS or HCHK, a bad VER or CLASS, an unknown DST, a non-zero reserved field or a foreign EtherType is dropped and counted. -/
  | frameDropped (port : Fin 64) (cause : DropCause)
  /-- MALFORMED_SPDM_REQUEST (R520): A malformed or unsupported SPDM request is answered with an SPDM ERROR, and 0x0B06 is recorded. -/
  | malformedSpdmRequest (via : Via) (unsupported : Bool)
  /-- MALFORMED_COMMAND (R545): A sideband command with an undefined COMMAND or a non-zero reserved byte is answered with completion code 0x02. -/
  | malformedCommand (command : BitVec 8)
  /-- BOTTOM_LEVEL_TREE_BUILT (R518): The build of a new bottom-level tree of the HSS key ends and attestation requests are answered again instead of with ResponseNotReady. -/
  | bottomLevelTreeBuilt
  deriving DecidableEq, Repr

end Sys2Proof
end

