-- ==== Sys2Proof/Config.lean ====
section
/-! DEFINITION. What a part fixes at manufacture, and the free values: constants with no body, so that no
proof can see what they are. A value that the spec leaves open is one of these applied to its operands or
to the plain counter `free` of the state. -/

namespace Sys2Proof.Config

/-- A value that the spec leaves open, drawn with a number the state counts on (log 4). -/
opaque freeNat : Nat → Nat

/-- Spare map of an array (R158), fixed by fuses at manufacture (R157). The key is 4 × core + array. -/
opaque spareMap : Nat → BitVec 64

/-- The row cache's hash of (TABLE_ID, index, line) to one of 49,152 sets (R233 names no function). -/
opaque rowHash : Nat → Nat → Nat → Nat

/-- Where the device looks first for a page table of a context, by context, level and address bits (R351 states no order). -/
opaque tablePlace : Nat → Nat → Nat → Nat

/-- Capacity in bytes of the Type-3 expander on the port of an H-die (R439, R440). -/
opaque cxlCapacity : Nat → Nat

/-- Silicon stepping of a die kind, 0 C, 1 G, 2 F, 3 H, 4 S (R507). -/
opaque stepping : Nat → BitVec 4

/-- Fuses of S0 (0) and S1 (1) (R505): the security epoch and, by KEY_IDX, the SHA-384 of each ECDSA and HSS vendor key and whether the pair is
revoked. -/
opaque fuseEpoch : Nat → BitVec 8
opaque ecdsaKeyHash : Nat → Nat → BitVec 384
opaque hssKeyHash : Nat → Nat → BitVec 384
opaque keyRevoked : Nat → Nat → Bool

/-- SHA-384 and HMAC-SHA-384 (R505, R506, R515); standards lie outside the spec. -/
opaque sha384 : List Byte → BitVec 384
opaque hmac384 : BitVec 384 → List Byte → BitVec 384

/-- Whether a signature is valid, by public key, message and signature (R505): ECDSA over P-384 with SHA-384, and HSS with the parameters that
the rule asks of HSS_PUB. -/
opaque ecdsaValid : List Byte → List Byte → List Byte → Bool
opaque hssValid : List Byte → List Byte → List Byte → Bool

/-- Public keys and signatures in the header of the image of a domain with which the module ships, as one number each (log 66). -/
opaque shippedKeys : Nat → Nat → Nat

/-- The 384-bit UDS in the fuses of S0 and S1, and the label of the DeviceID seeds (R515). -/
opaque uds : BitVec 384
opaque deviceIdLabel : List Byte

/-- The certificates of the manufacturing CA and of the DeviceID key, issued at manufacture (R515), signed with ECDSA or, for `true`, with HSS
(R516). -/
opaque caCert : Bool → List Byte
opaque deviceCert : Bool → List Byte

/-- The Alias certificate in its ECDSA form and in its HSS form, which a leaf signs: of the DeviceID seed, the Alias key's CDI and the five
header hashes that its extension carries (R515, R516). -/
opaque aliasCert : BitVec 384 → BitVec 384 → List (BitVec 384) → List Byte
opaque aliasCertHss : BitVec 384 → Nat → BitVec 384 → List (BitVec 384) → List Byte

/-- A signature of a message by the Alias key of a CDI (ECDSA), and by the DeviceID key of a seed with a leaf (HSS) (R516, R517). -/
opaque ecdsaSignature : BitVec 384 → Nat → Nat
opaque hssSignature : BitVec 384 → Nat → Nat → Nat

/-- Seed with which the sweeps of an array start, by mesh index and UNIT (R531 names no composition). -/
opaque sweepStart : Nat → Nat → Nat

/-- Element pattern that the feeders' generator makes from a sweep pass's seed (R531 states no generator): seed, corner operands or not, format,
weight (0) or activation (1), row and position. -/
opaque sweepElem : Nat → Bool → Nat → Nat → Nat → Nat → Nat

/-- TOL under which a sweep pass is checked (R145 takes it from an operand descriptor, which a sweep has not). -/
opaque sweepTol : Nat

/-- The value that the traffic generator's LFSR gives for a seed and a step (R339 states no polynomial). -/
opaque tgLfsr : Nat → Nat → Nat

/-- Answers of the PLDM and SPDM commands whose bytes DMTF standards fix (R511, R518, R536). -/
opaque pldmAnswer : Nat → Nat → Nat

/-- PTP attributes of the device's own clock that IEEE 1588 names and R46 does not give: clockAccuracy,
offsetScaledLogVariance, clockIdentity. -/
opaque ptpAccuracy : Nat
opaque ptpVariance : Nat
opaque ptpIdentity : Nat

end Sys2Proof.Config
end

