-- ==== Sys2Proof/Machine/State.lean ====
section
/-! DEFINITION. The state of the block as plain data, the ways a command can stop, and the state at reset.
Every indexed store is a sparse map with a default at its read; INVENTORY.md names the default of each. -/

namespace Sys2Proof.Machine

open Host

/-! ## Time (02) -/

/-- Time state of R48. -/
inductive TimeState where
  | free | acquiring | locked | holdover | lost | stepping
  deriving DecidableEq, Repr

/-- A time transmitter visible on a link (R46): its last Announce and a two-step Sync waiting for its Follow_Up. -/
structure PtpLink where
  port     : Nat
  ds       : PtpDataset
  /-- fabric time of its last Announce -/
  heard    : Int
  twoStep  : Bool
  deriving DecidableEq, Repr

structure TimeS where
  /-- fabric time in ticks (R34) -/
  now       : Nat
  state     : TimeState
  /-- FREE was entered under R55, so a source that appears leads to STEPPING -/
  freeR55   : Bool
  /-- PTCK runs from TICK with no steering (R39) -/
  unsteered : Bool
  /-- index of the time die, 0 F0 or 1 F1 (R38) -/
  timeDie   : Nat
  /-- synthesisers of F0 and F1 that failed (R38, R39) -/
  synthDown : List Nat
  /-- source in use: 0 none, 1 TREF, 2 PTP (R57) -/
  srcActive : Nat
  /-- last offset estimate, ns (R57) -/
  offset    : Int
  /-- consecutive estimates within ±10 ns (R48) -/
  streak    : Nat
  /-- fabric time has been set once in this ACQUIRING (R49) -/
  timeSet   : Bool
  /-- holdover bound in 10^-9 ns (R51) -/
  bound     : Nat
  /-- step value fixed at a quiet saddle (R53) -/
  stepFix   : Option Nat
  /-- SRC was written and takes effect at the next saddle (R55) -/
  srcWritten : Bool
  /-- the SRC that governs until then (R55) -/
  srcOld    : Nat
  /-- tick whose saddle has taken effect (the model's own field: a saddle acts once) -/
  saddleAt  : Option Nat
  trefOk    : Bool
  ppsOk     : Bool
  /-- fabric time of the last 1PPS edge -/
  lastPps   : Int
  /-- time named for the last 1PPS edge taken (R44) less fabric time, ticks: what TREF's time is ahead by (DEDUCED, log 70) -/
  ppsShift  : Int
  ptp       : List PtpLink
  /-- fabric time of the last Sync and Announce sent (R46) -/
  syncSent  : Int
  annSent   : Int
  tickOk    : Bool
  /-- PTCK runs on a synthesiser's internal oscillator (R551, R561) -/
  tickInt   : Bool
  /-- beacon on its way to each die: the fabric time of the tick boundary at which the die applies it; 0 for none (R41) -/
  beacons   : SMap Nat
  deriving DecidableEq, Repr

/-! ## Schedule images (03, 07) -/

structure ImgCore where
  cdie : Nat
  core : Nat
  arrays : Nat
  replay : Nat
  sub : Bool
  deriving DecidableEq, Repr

structure ImgClass where
  kind : Nat
  flushIncl : Bool
  periodLog : Nat
  groupsM1 : Nat
  phase : Nat
  length : Nat
  firstStep : Nat
  nSteps : Nat
  maxIndices : Nat
  maxOut : Nat
  maxItems : Nat
  maxInline : Nat
  cmpl : Nat
  deriving DecidableEq, Repr

structure ImgStep where
  start : Nat
  length : Nat
  unitKind : Nat
  unit : Nat
  engines : Nat
  remoteDep : Bool
  final : Bool
  replayRes : Bool
  first : Nat
  nTiles : Nat
  depStep : Nat
  slack : Nat
  remoteWin : Nat
  group : Nat
  replayTiles : Nat
  deriving DecidableEq, Repr

structure ImgTile where
  firstOp : Nat
  nOp : Nat
  len : Nat
  start : Nat
  deriving DecidableEq, Repr

structure ImgOp where
  opcode : Nat
  engine : Nat
  issue : Nat
  arg0 : Nat
  arg1 : Nat
  cost : Nat
  deriving DecidableEq, Repr

structure ImgRsv where
  id : Nat
  kind : Nat
  start : Nat
  len : Nat
  amount : Nat
  deriving DecidableEq, Repr

/-- A table entry of R216. -/
structure TableEntry where
  base : Nat
  rows : Nat
  tableId : Nat
  localRows : Nat
  poolDev : Nat
  poolOff : Nat
  dim : Nat
  twide : Nat
  opt : Nat
  pool : Nat
  outFmt : Nat
  dist : Bool
  rcache : Bool
  stride : Nat
  viaF : Nat
  stripe : Nat
  outOff : Nat
  outMax : Nat
  deriving DecidableEq, Repr

/-- The entries that one gather descriptor put into the table store of its step's G-die (R217). -/
structure TableSet where
  gdie : Nat
  desc : Nat
  entries : List TableEntry
  deriving DecidableEq, Repr

/-- A schedule image as the device checked it at load (R83 to R92), with its table-store entries. -/
structure Image where
  id : Nat
  format : Nat
  upd : Bool
  saddleUpd : Nat
  cycleLog : Nat
  cixon : Nat
  cores : List ImgCore
  classes : List ImgClass
  steps : List ImgStep
  tiles : List ImgTile
  ops : List ImgOp
  /-- 64-byte descriptor-pool entries as little-endian numbers (R91) -/
  descs : List Nat
  rsvs : List ImgRsv
  tables : List TableSet
  deriving DecidableEq, Repr

/-! ## Submissions and rings (02, 12) -/

/-- A buffer entry of R388. -/
structure BufE where
  addr : Nat
  len : Nat
  dev : Bool
  rd : Bool
  wr : Bool
  deriving DecidableEq, Repr

inductive SubSt where
  /-- taken, not yet decided (R65) -/
  | waiting
  | accepted
  | refused
  deriving DecidableEq, Repr

/-- An open submission (R470): taken, and its completion entry not yet written. -/
structure Sub where
  ring : Nat
  seq : Nat
  kind : Nat
  part : Nat
  ctx : Nat
  /-- base and extension slots as 512-bit numbers (R387) -/
  slots : List Nat
  bufs : List BufE
  inline : List Byte
  args : Nat
  deadline : Nat
  xpath : Bool
  /-- admission time (R64) -/
  adm : Nat
  /-- fabric time at which the descriptor arrived -/
  arrived : Nat
  /-- the descriptor is at the partition's admitting H-die (R66) -/
  here : Bool
  st : SubSt
  /-- decision tick (R65) -/
  decided : Nat
  /-- slot class, start tick and reserved end of the slot (R67, R68) -/
  cls : Nat
  start : Nat
  resEnd : Nat
  /-- code of the first fault charged, or of the refusal; 0 for none (R470) -/
  code : Nat
  chargedAt : Nat
  /-- the submission's work is done and its entry may issue -/
  done : Bool
  /-- the effect of a control, LOAD, MAP or UPDATE submission has begun -/
  ran : Bool
  /-- slot instance has started (R79) -/
  running : Bool
  /-- host-bound writes are cancelled (R74, R397) -/
  cancelled : Bool
  /-- the instance is held (R459) -/
  held : Bool
  /-- ports that carried host-bound writes, and flush reads outstanding (R401) -/
  wports : List Nat
  flush : List Nat
  flushed : Bool
  /-- codes that are charged once an instance (R140, R180, R204) -/
  once : List Nat
  drops : Nat
  detail : Nat
  info : Nat
  /-- update serial (R249) -/
  serial : Nat
  /-- indices of the steps of the instance whose work has ended (R86, R118) -/
  ended : List Nat
  /-- a suspect's submission that is replayed (R487): no buffer slot is written and no entry issues -/
  replay : Bool
  deriving DecidableEq, Repr

/-- A slot held to its reserved end (R67, R68, R74). `q` names the place: 256 × partition + class for a query,
otherwise a queue of Machine/Admission.lean. -/
structure SlotS where
  q : Nat
  start : Nat
  resEnd : Nat
  ring : Nat
  seq : Nat
  deriving DecidableEq, Repr

inductive RingSt where
  | disabled | active | draining | halted | fenced
  deriving DecidableEq, Repr

structure RingS where
  st : RingSt
  err : Nat
  /-- submission slots taken and made visible since arming (R385) -/
  head : Nat
  tail : Nat
  /-- doorbell writes whose slots are not all taken: tail value and arrival tick (R64) -/
  bells : List (Nat × Nat)
  /-- completion entries claimed, written, and freed since arming (R385, R399) -/
  claimed : Nat
  cqw : Nat
  cqHead : Nat
  arms : Nat
  /-- entries dropped since the previous arming (R410) -/
  dropped : Nat
  dropLow : Nat
  dropHigh : Nat
  /-- the same counts for the arming before this one, shown by R404 -/
  repDropped : Nat
  repLow : Nat
  repHigh : Nat
  /-- end of the moderation window, and whether an entry was written in it (R402) -/
  winEnd : Nat
  winHit : Bool
  deriving DecidableEq, Repr

inductive LinkSt where
  | down | training | up | degraded
  deriving DecidableEq, Repr

structure PortS where
  link : LinkSt
  width : Nat
  rate : Nat
  fenced : Bool
  /-- tick of the host loss not yet recovered, and whether a ring was armed then (R412) -/
  lostAt : Option Nat
  lostArmed : Bool
  /-- an FLR restores the link at once (R412) -/
  perst : Bool
  refclk : Bool
  /-- mode in effect since the last link training: CXL (R375) -/
  cxl : Bool
  /-- address of the last line that the device wrote through the port (R401) -/
  lastLine : Nat
  /-- vectors of the MSI-X messages due in the present tick, which leave at its end, one a vector (R402) -/
  due : List Nat
  deriving DecidableEq, Repr

/-- What an outstanding host read is for. -/
inductive ReadFor where
  | xfer (r : OpRef)
  | glist (r : StepRef)
  | transfer (r : StepRef)
  | batch (ring seq : Nat)
  | flush (ring seq : Nat)
  deriving DecidableEq, Repr

structure HostRead where
  id : Nat
  port : Nat
  purpose : ReadFor
  part : Nat
  ctx : Nat
  addr : Nat
  len : Nat
  issued : Nat
  deriving DecidableEq, Repr

/-! ## Partitions (14, 15) -/

inductive PartSt where
  | idle | serving | holding | held | resetting
  deriving DecidableEq, Repr

/-- A pending load (with its image) or stop (without), at switch saddle `saddle` (R112, R465). -/
structure Pending where
  image : Option Image
  saddle : Nat
  ring : Nat
  seq : Nat
  deriving DecidableEq, Repr

structure HoldS where
  latch : Nat
  resumeAt : Nat
  ring : Nat
  seq : Nat
  /-- the latch tick has come (R459) -/
  latched : Bool
  deriving DecidableEq, Repr

inductive ResetPhase where
  | decided | draining | clearing
  deriving DecidableEq, Repr

/-- A reset in progress (R479 to R485). -/
structure ResetS where
  decided : Nat
  fence : Nat
  phase : ResetPhase
  code : Nat
  counted : Bool
  ring : Nat
  seq : Nat
  deriving DecidableEq, Repr

/-- A suspect: its context and its charged submission (R486). -/
structure Suspect where
  ctx : Nat
  sub : Sub
  /-- 0 open, 1 cleared, 2 not replayed, 3 guilty -/
  mark : Nat
  deriving DecidableEq, Repr

/-- The reset that a suspect set's fault triggered. -/
inductive ResetKind where
  | none_ | cdie | device
  deriving DecidableEq, Repr

structure SuspectSet where
  code : Nat
  kind : ResetKind
  die : Nat
  unit : Nat
  suspects : List Suspect
  /-- a replay runs now: its slot class, start and reserved end (R487) -/
  replay : Option (Nat × Nat × Nat)
  lastEnd : Nat
  /-- tick from which suspects may be replayed; none while the reset runs -/
  ready : Option Nat
  deriving DecidableEq, Repr

structure PartS where
  st : PartSt
  image : Option Image
  pending : Option Pending
  /-- DELTA of SYS_PART_OFS, units of 4,096 ticks (R450) -/
  delta : Nat
  /-- the partition stopped admitting until an image is loaded (R109, R490, R530) -/
  noAdmit : Bool
  hold : Option HoldS
  reset : Option ResetS
  suspects : Option SuspectSet
  waiting : List SuspectSet
  /-- SYS_SUSPECT fields of the last closed set: N, CTX, GUILTY; 3 in STATE -/
  lastSet : Option (Nat × Nat × Bool)
  /-- admission considers only start points at or after this tick (R463, R481) -/
  fromTick : Nat
  deriving DecidableEq, Repr

/-! ## Cores (04, 06, 09) -/

/-- A weight bank of an array (R126, R131, R180). -/
structure Bank where
  loaded : Bool
  fmt : Nat
  k : Nat
  n : Nat
  /-- element bit patterns, one list a stored input row -/
  rows : List (List Nat)
  /-- EXP of each block, row-major, two a row; empty without block scaling (R178) -/
  scales : List Nat
  /-- correction values (R132) -/
  corr : List Nat
  poison : Bool
  misaligned : Bool
  /-- the instance and operation that loaded it -/
  by_ : Option OpRef
  deriving DecidableEq, Repr

/-- One row of a pass's contribution (R134): poisoned, an exact value outside INT32 (R138), a value or check that is not
finite (R145), and the 128 values of 32 bits. -/
structure PRow where
  poison : Bool
  wrap : Bool
  nonfin : Bool
  vals : List Nat
  deriving DecidableEq, Repr

/-- A pass between its issue and its verdict cycle (R96, R147). -/
structure PassS where
  r : OpRef
  /-- IMAGE_ID (R147) -/
  img : Nat
  verdict : Nat
  tile : Nat
  ftq : Bool
  acc : Bool
  fp : Bool
  /-- array of the image whose queue the pass fills (R211) -/
  queue : Nat
  rows : List PRow
  /-- a column's check value is not finite (R145) -/
  nonfinCol : Bool
  /-- first row and first column whose checks failed (R147) -/
  failRow : Option Nat
  failCol : Option Nat
  /-- rows and columns in which the two adders differ (R137) -/
  adders : List (Nat × Nat)
  deriving DecidableEq, Repr

/-- A sweep pass in progress (R531). -/
structure SweepS where
  seed : Nat
  /-- its checks do not all pass (R155) -/
  failed : Bool
  verdict : Nat
  fmt : Nat
  corner : Bool
  repeat_ : Bool
  deriving DecidableEq, Repr

structure ArrayS where
  active : Bank
  shadow : Bank
  /-- a W_LOAD has written the shadow bank since the last swap (R126) -/
  fresh : Bool
  /-- cycles at which the weight-load port and the row port become free (R95) -/
  loadEnd : Nat
  rowEnd : Nat
  /-- cycles at which the last W_LOAD and the last PASS have read their last byte (R207) -/
  loadRead : Nat
  rowRead : Nat
  passes : List PassS
  /-- finished-tile queue, oldest first: tile and tag (R208) -/
  ftq : List (Nat × Nat)
  withdrawn : Bool
  /-- a withdrawal or a return that takes effect at the next saddle (R109, R466) -/
  toWithdraw : Bool
  toReturn : Bool
  /-- a withdrawal fell due while its partition was held (R464) -/
  due : Bool
  /-- confirmation sweep running: 0 none, 1 automatic, 2 for a REPAIR RETURN (R466, R529) -/
  confirm : Nat
  confirmRing : Nat
  confirmSeq : Nat
  /-- tick at which it began -/
  confirmBy : Nat
  /-- LFSR state of the sweep seeds; 0 before the first (R531) -/
  seed : Nat
  sweeps : Nat
  sweep : Option SweepS
  /-- pass to run again after a mismatch (R529) -/
  again : Option SweepS
  /-- passes and mismatches since the last SWEEP entry (R534) -/
  sumPasses : Nat
  sumFails : Nat
  deriving DecidableEq, Repr

/-- A replay of a chain, requested or running on REPLAY_ARRAY (R148 to R152). -/
structure ReplayS where
  /-- REPLAY_ARRAY and the array that failed -/
  array : Nat
  target : Nat
  /-- the failed pass -/
  r : OpRef
  /-- first tile of the failed pass, and the tiles whose chains the replay recomputes -/
  tile : Nat
  tiles : List Nat
  queue : Nat
  fp : Bool
  /-- the chains' W_LOADs and PASSes (tile and operation indices), in the order in which they issue -/
  ops : List (Nat × Nat)
  /-- first window and number of windows -/
  window : Nat
  nwin : Nat
  started : Bool
  verdict : Nat
  failed : Bool
  /-- rows of the tiles as the replay leaves them, and their tags -/
  rows : List PRow
  tags : List Nat
  deriving DecidableEq, Repr

structure CoreS where
  /-- cycle at which the accumulator read path is free (R209) -/
  readPath : Nat
  /-- cycle at which each tile buffer is ready, and the tag it keeps (R209) -/
  tbReady : SMap Nat
  tbTag : SMap Nat
  replays : List ReplayS
  /-- the core is being cleared (R453) -/
  clearing : Bool
  /-- the core left service because a unit of it is PERMANENT (R530) -/
  outOfService : Bool
  leaving : Bool
  deriving DecidableEq, Repr

/-- An engine of a core: 0 to 3 arrays, 4 vector engine, 5 DMA (R88, R115 to R119). -/
structure EngS where
  slip : Nat
  held : Option OpRef
  /-- stated cycle of the held operation, and the last cycle at which it was considered (R115, R116) -/
  stated : Nat
  tried : Nat
  /-- a late operand of the held operation has been written down (R115) -/
  late : Bool
  /-- cycle from which the next operation is considered: that at which the last held one left (R116, R119) -/
  since : Nat
  /-- cycle at which the engine's port is free -/
  free : Nat
  /-- last operation issued on the engine: W_LOADs of an array, and every other operation -/
  lastA : Option OpRef
  lastB : Option OpRef
  deriving DecidableEq, Repr

/-- A codebook slot of a DMA engine (R292). -/
structure Codebook where
  full : Bool
  tag : Nat
  entries : List (BitVec 128)
  poison : Bool
  deriving DecidableEq, Repr

/-- A run of mapped pages of one INSTALL: page size code, first address, count (R360). -/
structure PageRun where
  ctx : Nat
  va : Nat
  psz : Nat
  n : Nat
  mem : Nat
  w : Bool
  deriving DecidableEq, Repr

/-- A DMA transfer between its issue and its data-ready cycle (R98, R286). -/
structure Xfer where
  core : Nat
  r : OpRef
  part : Nat
  ctx : Nat
  /-- generation and page runs that translated it at its issue (R357, R363) -/
  gen : Nat
  pages : List PageRun
  /-- its descriptor and the IMAGE_ID -/
  desc : Nat
  img : Nat
  issued : Nat
  ready : Option Nat
  /-- the block index entries of an expanding transfer, as they were read and checked at its issue (R285) -/
  entries : List (BitVec 128)
  /-- the whole destination is poisoned: an index failed, or its index was poisoned (R286) -/
  allPoison : Bool
  /-- host data that has arrived (R396) -/
  host : Option (List Gran)
  /-- its host-bound writes are cancelled (R397) -/
  cancelled : Bool
  /-- errors that its granules meet on edges, and whether a packet of it was discarded (R27, R28) -/
  edges : List EdgeErr
  lost : Bool
  deriving DecidableEq, Repr

/-! ## Gather (07) -/

inductive FetchSt where
  | queued | sent | arrived | missing
  /-- a packet of it was discarded (R28): it never arrives -/
  | lost
  deriving DecidableEq, Repr

/-- A distinct key of a gather descriptor (R229) and its row once fetched: the FP32 values v_j (R224). -/
structure GKey where
  t : Nat
  i : Nat
  mult : Nat
  remote : Bool
  st : FetchSt
  issued : Nat
  /-- generation and page runs that translated the fetch (R357, R363) -/
  gen : Nat
  pages : List PageRun
  /-- lines of the row that its lookup found in the cache (R234) -/
  hits : List Nat
  vals : List Nat
  poison : Bool
  deriving DecidableEq, Repr

/-- A gather list entry with its arrays (R226): signed indices and bag lengths. -/
structure GTab where
  idx : List Int
  bags : List Nat
  deriving DecidableEq, Repr

inductive GPhase where
  | listing | sorting | fetching | done
  deriving DecidableEq, Repr

/-- A gather running as a G-die step (R245). -/
structure GStep where
  r : StepRef
  gdie : Nat
  part : Nat
  ctx : Nat
  start : Nat
  phase : GPhase
  /-- the buffer's granules, once a host read has delivered them -/
  list : Option (List Gran)
  /-- tick at which the sort ends, from T_list (R245) -/
  sortEnd : Nat
  tabs : List GTab
  dropOff : Nat
  drops : List Nat
  keys : List GKey
  windowShut : Bool
  /-- errors that its lookups find in cached lines: key, line and the inverted bits (R236) -/
  cache : List (Nat × Nat × Upset)
  /-- output rows that are written: table and row (R243) -/
  written : List (Nat × Nat)
  /-- a packet of its list or of its outputs was discarded (R28): it never ends by itself -/
  lost : Bool
  /-- C-dies to which a packet of its outputs was discarded -/
  missed : List Nat
  deriving DecidableEq, Repr

/-- A line of a row cache (R233, R234). -/
structure RLine where
  gdie : Nat
  way : Nat
  set : Nat
  tableId : Nat
  index : Nat
  line : Nat
  freq : Nat
  /-- 0 for a local row; for a remote one, its place in the pool plus 1 -/
  place : Nat
  used : Nat
  /-- what a remote line holds; a local one holds what HBM holds (R235) -/
  data : List Gran
  deriving DecidableEq, Repr

/-- A host transfer or fabric send step with a read or an answer outstanding (R393, R428): `exact` is the number of bytes of its length
that are not padding. -/
structure UStep where
  r : StepRef
  part : Nat
  ctx : Nat
  gen : Nat
  pages : List PageRun
  desc : Nat
  exact : Nat
  start : Nat
  deriving DecidableEq, Repr

/-! ## Table updates (08) -/

/-- A record on its way to its home or staged there (R260, R261): the G-die, the partition whose memory holds the row, the context
and `dev:` address of its extent, the H-die of the CXL member that holds it instead, and the device port on which it came. -/
structure Staged where
  gdie : Nat
  part : Nat
  ctx : Nat
  va : Nat
  cxl : Option Nat
  port : Option Nat
  u : UpdRec
  /-- a packet of its row's read was discarded (R28): the row waits until its bank is used again -/
  lost : Bool
  deriving DecidableEq, Repr

/-- What a home reports for one source submission (R274), with its device, the row of the code in STATUS, and whether it is on its
way to the ingest G-die. -/
structure HomeOut where
  dev : Nat
  gdie : Nat
  src : Nat
  serial : Nat
  saddle : Nat
  part : Nat
  /-- context of the home's rows, none on a CXL member -/
  ctx : Option Nat
  port : Option Nat
  status : Nat
  statusAt : Nat
  nonfin : Nat
  records : Nat
  rows : Nat
  sent : Bool
  deriving DecidableEq, Repr

/-- A home as its ingest G-die accounts for it (R274, R275). -/
structure HomeRep where
  dev : Nat
  gdie : Nat
  done : Bool
  status : Nat
  nonfin : Nat
  records : Nat
  rows : Nat
  deriving DecidableEq, Repr

/-- The ingest G-die's account of one update submission (R250, R274). -/
structure Ingest where
  ring : Nat
  seq : Nat
  serial : Nat
  saddle : Nat
  gdie : Nat
  part : Nat
  /-- SADDLE_UPD of the image that the partition runs at the saddle -/
  window : Nat
  reportOff : Nat
  reportMax : Nat
  dropped : Nat
  homes : List HomeRep
  /-- records sent to each pool member that its replies have not accounted for -/
  owed : List (Nat × Nat)
  deriving DecidableEq, Repr

structure UpdS where
  serial : Nat
  /-- lines charged to a source quota: partition, saddle, lines (R257) -/
  quota : List (Nat × Nat × Nat)
  /-- lines charged to a home cap: G-die, source device, saddle, lines (R258) -/
  cap : List (Nat × Nat × Nat × Nat)
  /-- records between their ingest G-die, or the fabric, and their home -/
  flight : List Staged
  staging : List Staged
  applying : List Staged
  outcomes : List HomeOut
  ingests : List Ingest
  /-- lines up to which each G-die's update unit has worked since the last saddle, 16 in a tick in which it runs (R267) -/
  pace : SMap Nat
  /-- lines that the update units have moved on each pseudo-channel since the last saddle (R110, R267) -/
  drawn : SMap Nat
  deriving DecidableEq, Repr

/-! ## Memory (10) -/

/-- A write-combining entry (R317): pseudo-channel line, byte mask, data, whether it holds a sub-granule write,
and the memory slot in which it opened. -/
structure WcEntry where
  pc : Nat
  line : Nat
  mask : BitVec 256
  data : List (Byte)
  gpoison : BitVec 16
  sub : Bool
  slot : Nat
  reading : Bool
  deriving DecidableEq, Repr

/-- A line written into a transpose buffer, in writing order: byte mask, bytes and poison of its granules. -/
structure TLine where
  line : Nat
  mask : BitVec 256
  data : List Byte
  gpoison : BitVec 16
  deriving DecidableEq, Repr

/-- An open transpose buffer (R336, R337): the region and block, the element size, the writing context and the
tick of its first line. -/
structure TBlock where
  cdie : Nat
  region : Nat
  block : Nat
  esize : Nat
  ctx : Nat
  opened : Nat
  lines : List TLine
  complete : Bool
  deriving DecidableEq, Repr

/-- A write that waits for a transpose buffer (R336): region, pseudo-channel, memory address, context and what it writes. -/
structure TWait where
  region : Nat
  pc : Nat
  addr : Nat
  ctx : Nat
  mask : BitVec 256
  data : List Byte
  gpoison : BitVec 16
  deriving DecidableEq, Repr

/-- A channel's traffic generator (R339). -/
structure TgS where
  busy : Bool
  ctrl : Word
  cfg : Word
  len : Word
  inj : Word
  status : Word
  errs : Word
  first : Word
  /-- a START was the last write of CTRL that ran; lines in the run -/
  stopped : Bool
  deriving DecidableEq, Repr

structure MemS where
  hbm : List Cell
  hbmPoison : SMap Bool
  opsram : List Cell
  opPoison : SMap Bool
  /-- per core, the poison mark of the operand SRAM granules that `opPoison` does not list (R453, R482) -/
  opFill : SMap Bool
  tile : List Cell
  tilePoison : SMap Bool
  accum : List Cell
  accPoison : SMap Bool
  /-- tag of each accumulator tile (R138) -/
  tags : SMap Nat
  shared : List Cell
  shPoison : SMap Bool
  /-- per way of die-shared SRAM, 16 × C-die + way, the poison mark of the granules that `shPoison` does not list (R330, R478) -/
  shFill : SMap Bool
  wcb : List WcEntry
  blocks : List TBlock
  /-- writes that wait for a transpose buffer, oldest first (R336) -/
  waits : List TWait
  /-- stored HBM codewords that a generator's run wrote with inverted bits: byte address of the granule, data bits [127:0] and check bits
  [143:128] (R339) -/
  flaws : List (Nat × Nat)
  /-- corrected lines waiting for their rewrite, with the bound of R324 -/
  rewrites : List (Nat × Nat × Nat)
  tg : SMap TgS
  /-- channels being cleared, channels withdrawn in training (R500), channels answered poisoned (R477) -/
  clearing : List Nat
  withdrawn : List Nat
  deaf : List Nat
  /-- assignments held while a generator runs: channel and register word (R338) -/
  heldAssign : List (Nat × Word)
  /-- die-shared SRAM ways being written to zero: 16 × C-die + way (R330) -/
  wayClear : List Nat
  rlines : List RLine
  /-- first-level translation buffers (R354) by 256 × mesh index + UNIT of their engine: at most 64 entries each, the latest first, with their
  generation (R355) -/
  first : SMap (List (PageRun × Nat))
  selfRefresh : Bool
  deriving DecidableEq, Repr

/-! ## Translation (11) -/

structure CtxGen where
  gen : Nat
  floor : Nat
  wdr : Bool
  deriving DecidableEq, Repr

inductive WdPhase where
  | counting | flooring
  deriving DecidableEq, Repr

/-- A page table of level 1 to 3 in its context's table area: the bits of the `dev:` address above those that index it, and its
memory address (R349, R351). -/
structure PTable where
  ctx : Nat
  level : Nat
  prefix_ : Nat
  addr : Nat
  deriving DecidableEq, Repr

/-- A withdrawal in progress (R364). -/
structure Withdraw where
  ctx : Nat
  part : Nat
  ring : Nat
  seq : Nat
  gen : Nat
  begun : Nat
  phase : WdPhase
  /-- dies whose report is awaited, then dies whose acknowledgement is awaited -/
  dies : List Nat
  /-- index and 128 bits of the operation, and of those of the list that come after it (R360) -/
  op : Nat × Nat
  rest : List (Nat × Nat)
  /-- operation whose withdrawal met R365 first -/
  failedOp : Option Nat
  deriving DecidableEq, Repr

structure XltS where
  /-- every present page, as the translation buffers of every die hold them (R353, R355) -/
  pages : List PageRun
  tables : List PTable
  gens : SMap CtxGen
  withdrawals : List Withdraw
  deriving DecidableEq, Repr

/-! ## Fabric (13) -/

/-- A frame that waits for its acknowledgement since a tick (R425), and the tick of its last transmission, none before the first (R424). -/
structure Unacked where
  f : Frame
  born : Nat
  sent : Option Nat
  deriving DecidableEq, Repr

/-- A connection: device port, peer, and the ID under which this device is its end, its own or a CXL member's (R423, R439). -/
structure Conn where
  port : Nat
  peer : Nat
  self_ : Nat
  open_ : Bool
  helloAt : Nat
  nextSeq : Nat
  expSeq : Nat
  unacked : List Unacked
  lastFrame : Nat
  /-- an acknowledgement is owed since this tick (R424) -/
  ackDue : Option Nat
  peerBoot : Nat
  /-- frames of a request whose last frame has not come, oldest first (R420) -/
  parts : List Frame
  deriving DecidableEq, Repr

/-- What a request is for: a row of a gather, an F-die step, or an update record that an ingest G-die sent for a serial. -/
inductive RemoteFor where
  | row (r : StepRef) (key : Nat)
  | send (r : StepRef)
  | upd (gdie serial : Nat)
  deriving DecidableEq, Repr

/-- An outstanding request of this device (R431). -/
structure RemoteReq where
  id : Nat
  purpose : RemoteFor
  /-- 1 WRITE, 2 READ, 3 ROW_READ, 4 ATOMIC, 5 UPD_REC (R420) -/
  op : Nat
  peer : Nat
  port : Nat
  reqSeq : Nat
  part : Nat
  ctx : Nat
  issue : Nat
  got : List Gran
  deriving DecidableEq, Repr

/-- A fabric-manager message of R446. -/
structure FmMsg where
  type : Nat
  scope : Nat
  subject : Nat
  code : Nat
  unit : Nat
  state : Nat
  time : Nat
  resets : Nat
  msgSeq : Nat
  deriving DecidableEq, Repr

structure FPort where
  /-- 0 down, 1 training, 2 up, 3 REPAIRED (R448) -/
  link : Nat
  direct : Bool
  partner : Nat
  lanes : Nat
  deriving DecidableEq, Repr

/-- What a CXL.mem access is for: a request of the pool, by its device port and frame, or a row that HOME_G commits (R440, R441). -/
inductive CxlFor where
  | pool (port : Nat) (f : Frame)
  | row (gdie : Nat)
  deriving DecidableEq, Repr

inductive CxlPhase where
  /-- waits for a lock on its line -/
  | waiting
  | reading
  | read
  | writing
  deriving DecidableEq, Repr

/-- A CXL.mem access under way at an H-die: its bytes of the member, whether it holds the lock of a read-modify-write, and the granules
that its read has delivered (R440, R441). -/
structure CxlReq where
  id : Nat
  hdie : Nat
  purpose : CxlFor
  off : Nat
  n : Nat
  locked : Bool
  phase : CxlPhase
  data : List Gran
  deriving DecidableEq, Repr

structure FabS where
  conns : List Conn
  reqs : List RemoteReq
  /-- requests to the device itself or to a member of its own, on their way to the F-die that loops them back: its first device
  port and the frame (R371) -/
  loop : List (Nat × Frame)
  ports : SMap FPort
  downPeers : List Nat
  peerTime : SMap Nat
  /-- MSG_SEQ of the last message accepted; none after a write of VST_FM (R445) -/
  fmLast : Option Nat
  fmNext : Nat
  fmQueue : List FmMsg
  cxl : List CxlReq
  deriving DecidableEq, Repr

/-! ## Errors (15) -/

/-- A fault record (R468). -/
structure FaultRec where
  code : Nat
  die : Option Nat
  unit : Nat
  ctx : Option Nat
  charged : Bool
  suspect : Bool
  test : Bool
  part : Option Nat
  aux : Nat
  time : Nat
  seq : Nat
  ring : Nat
  dkind : Nat
  detail : Nat
  /-- tag of the tile that the fault met in a tile buffer (R209); the 32 bytes of R468 have no place for it (log 129) -/
  tag : Nat
  deriving DecidableEq, Repr

/-- A fault of a feeder that is met at a later cycle of the pass or load that meets it (R140, R180): its cycle, the submission, its cause
and its record. -/
structure DueFault where
  cycle : Nat
  ring : Nat
  seq : Nat
  cause : Nat
  fault : FaultRec
  deriving DecidableEq, Repr

structure CdieS where
  outOfService : Bool
  reset : Option ResetS
  /-- fabric times of its last three counted decisions (R492), as the root state holds them -/
  log : List Nat
  lastCode : Nat
  /-- rejoin saddle after a reset (R482) -/
  rejoin : Option Nat
  deriving DecidableEq, Repr

/-- A counted reset that waits: of a C-die or of the device, with its code, its die and UNIT, and the instances that its trigger names. -/
structure WaitReset where
  cdie : Option (Fin 32)
  code : Nat
  die : Nat
  unit : Nat
  mark : List Sub
  suspect : Bool
  deriving DecidableEq, Repr

/-- A copy in the MRAM of one S-die (R497): START of the start in which it was written, what it holds, and by how much its CRC-32C differs
from the right one, 0 for a valid copy. -/
structure MCopy (α : Type) where
  start : Nat
  val : α
  flaw : Word
  deriving DecidableEq, Repr

/-- Root state but the signing state (R492, R497): the good record, slot and VERSION of each domain, and the escalation logs with the
out-of-service states. -/
structure RootRec where
  good : List (Nat × Word)
  /-- of each C-die: out of service, log and LAST_CODE -/
  cdies : SMap (Bool × List Nat × Nat)
  devOut : Bool
  devLog : List Nat
  devCode : Nat
  deriving DecidableEq, Repr

structure RecS where
  faults : List FaultRec
  /-- copies of the root state on S0 to S3 (R497) -/
  roots : SMap (MCopy RootRec)
  cdies : SMap CdieS
  devOut : Bool
  devReset : Option ResetS
  devLog : List Nat
  devCode : Nat
  /-- compute-domain resets of the device since cold boot (R404) -/
  resets : Nat
  /-- S-dies withdrawn under R477 -/
  sdown : List Nat
  /-- counted resets that wait for the activation of a die (R514), oldest first -/
  waiting : List WaitReset
  /-- faults that feeders are still to meet (R140, R180) -/
  due : List DueFault
  /-- records charged in the present tick, which go to telemetry at its end (R470) -/
  tell : List FaultRec
  /-- failed instances whose entries were written lately: late operands of their tiles in progress are still recorded (R119) -/
  gone : List Sub
  deriving DecidableEq, Repr

/-! ## Boot, firmware and identity (16) -/

/-- A boot-journal record (R503). -/
structure Cairn where
  step : Nat
  isEnd : Bool
  way : Nat
  result : Nat
  start : Nat
  time : Nat
  elapsed : Nat
  code : Nat
  slots : Nat
  failed : BitVec 64
  excl : BitVec 64
  stackMask : Word
  chWd : Nat
  deriving DecidableEq, Repr

/-- What the MRAM of one S-die holds beside `RootRec` and the unit histories (R497). -/
structure MramS where
  /-- cairns of 64 bytes, newest first (R503) -/
  journal : List (BitVec 512)
  /-- index of the next unused leaf, and by how much its CRC differs from the right one (R517) -/
  lms : Nat × Word
  /-- the image of each domain in the die's slot: A on S0 and S2, B on S1 and S3; none as the module ships -/
  images : SMap (MCopy (Option (List Byte)))
  deriving DecidableEq, Repr

/-- What is known of an image slot of a domain (R512, R521). -/
structure FwSlot where
  /-- no update has marked it invalid -/
  whole : Bool
  /-- its image passed when it was verified last -/
  verified : Bool
  deriving DecidableEq, Repr

structure FwDom where
  run : Nat
  next : Nat
  good : Nat
  goodVer : Word
  pend : Bool
  a : FwSlot
  b : FwSlot
  deriving DecidableEq, Repr

/-- The manifest of an image (R507): its VERSION, stepping words and peer entries (domain, VERSION). -/
structure Manifest where
  version : Word
  steps   : List Nat
  peers   : List (Nat × Nat)
  deriving DecidableEq, Repr

/-- The device's identity (R515): whether the ROM can still read the UDS, the DeviceID seeds, the two CDIs, and the header hashes and leaf of
the Alias certificate. -/
structure IdentS where
  gate : Bool
  seed : BitVec 384
  cdi1 : BitVec 384
  cdi2 : BitVec 384
  hashes : List (BitVec 384)
  leaf : Option Nat
  deriving DecidableEq, Repr

/-- The component whose image is being transferred (R511, R512): domain, bytes to come in all, and the bytes that have come. -/
structure FwXfer where
  domain : Nat
  size : Nat
  got : List Byte
  deriving DecidableEq, Repr

/-- State of the firmware update under DSP0267 (R511). -/
inductive FwMode where
  | idle | learn | ready | download | activate
  deriving DecidableEq, Repr

/-- An activation in progress (R513): domain, die, and dies still to come. -/
structure FwAct where
  domain : Nat
  die : Nat
  rest : List (Nat × Nat)
  begun : Nat
  started : Bool
  deriving DecidableEq, Repr

inductive BootPhase where
  | off | reset | step (k : Nat) | open_ | failed | standby
  deriving DecidableEq, Repr

structure BootS where
  phase : BootPhase
  start : Nat
  /-- consecutive starts within one application of power without the end of step 14 (R500) -/
  tries : Nat
  /-- cold-boot count, carried in connect HELLO frames (R423) -/
  colds : Nat
  /-- alternative ways that are kept (R500): a step's number; 100 + a domain whose other slot is taken at step 6; 500 where PTCK runs
  from TICK -/
  alt : List Nat
  /-- steps done an alternative way or skipped in this start (ALT of R521) -/
  altNow : List Nat
  retry : BitVec 14
  confirm : Bool
  /-- fabric time from which the hour of R510 counts -/
  served : Nat
  lastCode : Nat
  /-- CODE of the step that failed in this start -/
  failCode : Nat
  excl : BitVec 64
  /-- dies that a failed step excludes at every later start -/
  exclKept : BitVec 64
  /-- stacks trained conservatively -/
  stackMask : Word
  /-- dies that failed step 2 with the first slot (R498) -/
  sfwFailed : BitVec 64
  /-- step 2 failed on both slots of S0 or S1: only the ROMs run (R501) -/
  romOnly : Bool
  /-- MRAM of S0 to S3 -/
  mram : SMap MramS
  /-- ELAPSED of the step in progress -/
  elapsed : Nat
  doms : SMap FwDom
  /-- step 3 of this start has ended (R520) -/
  idented : Bool
  ident : IdentS
  fw : FwMode
  /-- where the update's messages come from -/
  fwVia : Via
  fwComps : List Nat
  fwCur : Option FwXfer
  fwReady : List Nat
  fwAct : Option FwAct
  fwAbandoned : List Nat
  lmsBuilding : Bool
  /-- SPDM: 0 nothing, 1 version, 2 capabilities, 3 algorithms negotiated (R518) -/
  spdm : Nat
  ptck : Bool
  /-- H-die that holds the registers, chosen after step WARDEN (R564) -/
  home : Nat
  deriving DecidableEq, Repr

/-! ## Health and telemetry (17) -/

/-- A unit-history record (R524). `area` holds the counters of R525 by byte offset. -/
structure UnitRec where
  /-- 0 IN_SERVICE, 1 SUSPECT, 2 PERMANENT, 3 EXCLUDED -/
  st : Nat
  /-- STATE before the unit's die was excluded, which it shows again when the die is re-admitted (R530; log 143) -/
  was : Nat
  replayClean : Bool
  perm : Bool
  recent : List (Nat × Bool × Bool × Nat)
  wseq : Nat
  stateTime : Nat
  cleanTime : Nat
  qtimes : List Nat
  recorded : Nat
  corrected : Nat
  area : SMap Nat
  deriving DecidableEq, Repr

structure Sensor where
  last : Int
  low : Int
  high : Int
  seen : Bool
  /-- tick of the last SENSOR entry and crossings since (R533) -/
  reported : Option Nat
  quiet : Nat
  /-- lowest and highest of each hour, newest first, and the hour of the newest (R533) -/
  hours : List (Int × Int)
  hour : Nat
  deriving DecidableEq, Repr

/-- A telemetry entry (R534): TYPE, LOST, SEQ, TIME and the 32-byte body. -/
structure TelEntry where
  type : Nat
  lost : Nat
  seq : Nat
  time : Nat
  body : BitVec 256
  deriving DecidableEq, Repr

/-- An event message of PLDM for monitoring (R536): a telemetry entry as an OEM event, or the standard event of a numeric sensor, crossed upward
or not, with its reading, or of a state sensor with its new and old state. -/
inductive PldmEvent where
  | oem (e : TelEntry)
  | numeric (sensor reading : Nat) (up : Bool)
  | state (sensor now before : Nat)
  deriving DecidableEq, Repr

structure HltS where
  /-- records as they stand in the units, key 256 × mesh index + UNIT -/
  units : SMap UnitRec
  /-- the copies of the records in the MRAM of each S-die (R524, R526), key 4 × the record's key + S-die, with the difference of their CRC -/
  mram : SMap (UnitRec × Word)
  sensors : SMap Sensor
  written : Nat
  lostNow : Nat
  lostAll : Nat
  armed : Bool
  /-- the telemetry ring's port was lost; nothing is written until it is armed again (R535) -/
  fenced : Bool
  winEnd : Nat
  winHit : Bool
  receiver : Nat
  events : List PldmEvent
  lastWriteback : Nat
  lastSweepSum : Nat
  lastEye : Nat
  lastAging : Nat
  deriving DecidableEq, Repr

/-! ## Power and pins (18) -/

structure PwrS where
  pwrEn : Bool
  pwrGood : Bool
  /-- MOD_RST_N is low -/
  rstLow : Bool
  thermTrip : Bool
  /-- the carrier's 6 V converters run (R541) -/
  converters : Bool
  /-- MOD_PWR_GOOD was not reached by 20 ms (R542) -/
  upFailed : Bool
  deriving DecidableEq, Repr

/-! ## What units write down -/

/-- Entries that a rule has a unit record beside its counters. -/
inductive Note where
  /-- R115: core, engine, image, step, tile and source of the missing input: 0 none (port busy), 1 DMA, 2 expander, 3 mesh,
  4 finished-tile queue, 5 gather, 6 order, 7 pass verdict -/
  | late (core engine image step tile source : Nat)
  /-- R118: core, engine, step and slip in cycles of a slip that SLACK absorbs -/
  | absorbed (core engine step slip : Nat)
  /-- R147: array (4 × core + array), image, step, tile, operation, first failing row and column -/
  | mismatch (array image step tile op : Nat) (row col : Option Nat)
  /-- R180: array, image, step, tile, role, row, block, data, scale and expected ordinal, EXP -/
  | ordinal (array image step tile role row block data scale expect exp : Nat)
  /-- R297: core, image, step, tile, operation, index of the block that failed and its code -/
  | block (core image step tile op index code : Nat)
  deriving DecidableEq, Repr

/-! ## What leaves the block -/

/-- What the block sends to the outside: host memory, hosts, dies' requesters, the fabric and the sideband. -/
inductive Out where
  | hostData (port addr : Nat) (data : List Byte)
  | completion (port ring addr : Nat) (entry : BitVec 256)
  | ringState (port ring addr : Nat) (record : BitVec 512)
  | telemetry (port addr : Nat) (entry : BitVec 512)
  | msix (port vec : Nat)
  | hostRead (port id addr len : Nat)
  /-- fetch of a ring's 64-byte descriptor slot (R378, R385) -/
  | fetch (port ring addr : Nat)
  | regRead (port : Nat) (value : Word)
  /-- Request Retry Status for a configuration request (R502) -/
  | retry (port : Nat)
  | memReply (ctx : Nat) (data : List Gran)
  | memRefused (ctx code : Nat)
  /-- a Vestad frame with its destination and source addresses, octet 0 in the low byte, its EtherType, and the bytes after it without the
  FCS (R419, R420) -/
  | frame (port : Nat) (dst src : BitVec 48) (etype : BitVec 16) (f : Frame) (wire : List Byte)
  | sync (port domain : Nat) (sec nsec : Nat)
  | announce (port domain : Nat) (ds : PtpDataset)
  | fm (port : Nat) (m : FmMsg)
  | sideband (command code : BitVec 8) (data : BitVec 16)
  | pldm (via : Via) (command : Nat) (code : Nat) (data : Nat)
  | spdm (via : Via) (command : Nat) (ok : Bool) (data : List Nat)
  /-- an event of PLDM for monitoring with its event class (R536) -/
  | event (cls : BitVec 8) (e : PldmEvent)
  /-- CXL.mem accesses of an H-die to its expander: a read of bytes, or a write with its granules' poison (R440) -/
  | cxlRead (hdie id off n : Nat)
  | cxlWrite (hdie id off : Nat) (data : List Gran)
  deriving DecidableEq, Repr

/-! ## The state -/

structure State where
  /-- setup registers that software writes or that record events, by BAR0 offset (R567); the value of an
  unlisted offset is its Reset column (R568) -/
  regs : SMap Word
  /-- _HI latches of the ports, key 2^24 × port + BAR0 offset of the _HI register (R58, R566) -/
  latches : SMap Word
  /-- BAR0 offsets of RWL registers that are locked (R574) -/
  locks : List Nat
  time : TimeS
  parts : SMap PartS
  rings : SMap RingS
  ports : SMap PortS
  subs : List Sub
  /-- slots that submissions hold, open or not (R69, R74) -/
  slots : List SlotS
  reads : List HostRead
  /-- next number of a host read, remote request or CXL access -/
  nextId : Nat
  arrays : SMap ArrayS
  cores : SMap CoreS
  engines : SMap EngS
  books : SMap Codebook
  xfers : List Xfer
  gsteps : List GStep
  usteps : List UStep
  upd : UpdS
  mem : MemS
  xlt : XltS
  fab : FabS
  err : RecS
  boot : BootS
  hlt : HltS
  pwr : PwrS
  /-- what units have written down, newest first (R115, R147, R180) -/
  notes : List Note
  /-- what the block has sent, newest first -/
  out : List Out
  /-- numbers drawn for free values so far (the model's own field, log 4) -/
  free : Nat
  /-- commands that wait, first in, first out (the model's own field) -/
  pending : List Instr
  deriving DecidableEq, Repr

/-- Ways a command can stop the block. No rule of the spec stops it: faults of the device are records and
charges in the state. -/
inductive Fault where
  /-- Raised by nobody: kept so that the type is inhabited. Safe. -/
  | none_
  deriving DecidableEq, Repr

/-- Why a command has no meaning. -/
inductive Refusal where
  /-- The arm of a row that has no meaning yet. Safe: the run stops. -/
  | notModelled (mnemonic : String)
  deriving DecidableEq, Repr

def Bank.empty : Bank :=
  { loaded := false, fmt := 0, k := 0, n := 0, rows := [], scales := [], corr := [], poison := false, misaligned := false, by_ := none }

/-- The block powered, with MOD_RST_N low: every register at the Reset column's value (R568), no command waiting.
A value that no rule states is named in log 2. -/
def State.reset : State where
  regs := []
  latches := []
  locks := []
  time :=
    { now := 0, state := .acquiring, freeR55 := false, unsteered := false, timeDie := 0, synthDown := [],
      srcActive := 0, offset := 0, streak := 0, timeSet := false, bound := 0, stepFix := none, srcWritten := false, srcOld := 0, saddleAt := none,
      trefOk := false, ppsOk := false, lastPps := 0, ppsShift := 0, ptp := [], syncSent := 0, annSent := 0, tickOk := true,
      tickInt := false, beacons := [] }
  parts := []
  rings := []
  ports := []
  subs := []
  slots := []
  reads := []
  nextId := 0
  arrays := []
  cores := []
  engines := []
  books := []
  xfers := []
  gsteps := []
  usteps := []
  upd := { serial := 0, quota := [], cap := [], flight := [], staging := [], applying := [], outcomes := [], ingests := [], pace := [], drawn := [] }
  mem :=
    { hbm := [], hbmPoison := [], opsram := [], opPoison := [], opFill := [], tile := [], tilePoison := [], accum := [], accPoison := [],
      tags := [], shared := [], shPoison := [], shFill := [], wcb := [], blocks := [], waits := [], flaws := [], rewrites := [], first := [], tg := [], clearing := [],
      withdrawn := [], deaf := [], heldAssign := [], wayClear := [], rlines := [], selfRefresh := false }
  xlt := { pages := [], tables := [], gens := [], withdrawals := [] }
  fab := { conns := [], reqs := [], loop := [], ports := [], downPeers := [], peerTime := [], fmLast := none, fmNext := 0, fmQueue := [], cxl := [] }
  err := { faults := [], roots := [], cdies := [], devOut := false, devReset := none, devLog := [], devCode := 0, resets := 0, sdown := [], waiting := [], due := [], tell := [], gone := [] }
  boot :=
    { phase := .reset, start := 0, tries := 0, colds := 0, alt := [], altNow := [], retry := 0, confirm := false,
      served := 0, lastCode := 0, failCode := 0, excl := 0, exclKept := 0, stackMask := 0, sfwFailed := 0, romOnly := false,
      mram := [], elapsed := 0, doms := [], idented := false,
      ident := { gate := true, seed := 0, cdi1 := 0, cdi2 := 0, hashes := [], leaf := none },
      fw := .idle, fwVia := none, fwComps := [], fwCur := none, fwReady := [], fwAct := none, fwAbandoned := [],
      lmsBuilding := false, spdm := 0, ptck := false, home := 0 }
  hlt :=
    { units := [], mram := [], sensors := [], written := 0, lostNow := 0, lostAll := 0, armed := false, fenced := false,
      winEnd := 0, winHit := false, receiver := 0, events := [], lastWriteback := 0, lastSweepSum := 0, lastEye := 0, lastAging := 0 }
  pwr := { pwrEn := true, pwrGood := true, rstLow := true, thermTrip := false, converters := true, upFailed := false }
  notes := []
  out := []
  free := 0
  pending := []

end Sys2Proof.Machine
end

