-- ==== Sys2Proof/Machine/Ops.lean ====
section
/-! DEFINITION. The named operations over the state: sparse maps, bit fields, bytes and granules, the indexed
records with the value each has before anything writes it, and the device's units and mesh (R12 to R22). -/

namespace Sys2Proof.Machine

open Sys2Proof

/-! ## Sparse maps -/

/-- Value of key `k`, `d` where the map does not list it. -/
def smGet {α : Type} (d : α) (m : SMap α) (k : Nat) : α :=
  match m with
  | [] => d
  | (j, v) :: t => if j = k then v else smGet d t k

def smErase {α : Type} (m : SMap α) (k : Nat) : SMap α :=
  match m with
  | [] => []
  | (j, v) :: t => if j = k then smErase t k else (j, v) :: smErase t k

def smPut {α : Type} (m : SMap α) (k : Nat) (v : α) : SMap α :=
  match m with
  | [] => [(k, v)]
  | (j, u) :: t => if k < j then (k, v) :: (j, u) :: t else if j = k then (k, v) :: t else (j, u) :: smPut t k v

/-- Sets key `k`; the value that an unlisted key reads as removes the entry. -/
def smSet {α : Type} [DecidableEq α] (d : α) (m : SMap α) (k : Nat) (v : α) : SMap α :=
  if v = d then smErase m k else smPut m k v

/-- Changes every listed value, keeping the canonical form. -/
def smMap {α : Type} [DecidableEq α] (d : α) (f : Nat → α → α) (m : SMap α) : SMap α :=
  m.filterMap fun p => if f p.1 p.2 = d then none else some (p.1, f p.1 p.2)

/-- Every key of `m` lies above `b`, keys rise strictly, and no entry equals its key's default. -/
def smAbove {α : Type} [DecidableEq α] (d : Nat → α) (b : Option Nat) : SMap α → Bool
  | [] => true
  | (k, v) :: t => b.all (fun x => decide (x < k)) && decide (v ≠ d k) && smAbove d (some k) t

/-- The canonical form of a sparse map. -/
def smWf {α : Type} [DecidableEq α] (d : Nat → α) (m : SMap α) : Bool := smAbove d none m

/-- What a byte that nothing has written reads as: zero (log 3). -/
def Memory.unwritten : Byte := 0

/-- The canonical form of a byte store: addresses strictly rising, no entry equal to an unlisted byte. -/
def Memory.wf (m : List Host.Cell) : Bool := smWf (fun _ => Memory.unwritten) m

/-! ## Bit fields and bytes -/

/-- Field [hi:lo] of a number. -/
def bits (n hi lo : Nat) : Nat := (n >>> lo) % 2 ^ (hi + 1 - lo)

/-- Field [hi:lo] of a register word. -/
def wbits (w : Word) (hi lo : Nat) : Nat := bits w.toNat hi lo

def wbit (w : Word) (i : Nat) : Bool := w.toNat.testBit i

/-- The word with field [hi:lo] replaced. -/
def setBits (w : Word) (hi lo v : Nat) : Word :=
  BitVec.ofNat 32 (w.toNat - bits w.toNat hi lo * 2 ^ lo + (v % 2 ^ (hi + 1 - lo)) * 2 ^ lo)

def bnat (b : Bool) : Nat := if b then 1 else 0

def maskWord (i : Nat) : Word := BitVec.ofNat 32 (2 ^ i)

/-- Adds, saturating at `top`. -/
def satAdd (top a b : Nat) : Nat := min top (a + b)

/-- A two's-complement field of `w` bits as an integer. -/
def sext (w n : Nat) : Int := if (n % 2 ^ w).testBit (w - 1) then (n % 2 ^ w : Nat) - (2 ^ w : Nat) else (n % 2 ^ w : Nat)

/-- An integer as a `w`-bit two's-complement pattern. -/
def ofInt (w : Nat) (z : Int) : Nat := (z % (2 ^ w : Nat)).toNat

/-- The little-endian number that a list of bytes spells (R5). -/
def leNat : List Byte → Nat
  | [] => 0
  | b :: t => b.toNat + 256 * leNat t

/-- `n` bytes of a number, little-endian. -/
def leBytes (n v : Nat) : List Byte :=
  match n with
  | 0 => []
  | k + 1 => BitVec.ofNat 8 v :: leBytes k (v / 256)

def granBytes (g : Gran) : List Byte := leBytes 16 g.data.toNat

def gransBytes (l : List Gran) : List Byte := l.flatMap granBytes

/-- Byte `i` of a list of granules as they lie in order, and whether its granule is poisoned. -/
def gransByte (l : List Gran) (i : Nat) : Option (Byte × Bool) :=
  match l[i / 16]? with
  | none => none
  | some g => some (BitVec.ofNat 8 (g.data.toNat >>> (8 * (i % 16))), g.poison)

/-- `n` bytes from byte `i` of a list of granules, as a little-endian number; none beyond the list (R578). -/
def gransNat (l : List Gran) (i n : Nat) : Option Nat :=
  match n with
  | 0 => some 0
  | k + 1 =>
    match gransByte l i, gransNat l (i + 1) k with
    | some (b, _), some r => some (b.toNat + 256 * r)
    | _, _ => none

/-- Groups bytes into granules, the last filled with zeros; `p` tells the poison of granule i. -/
def mkGrans (p : Nat → Bool) (bs : List Byte) (n i : Nat) : List Gran :=
  match n with
  | 0 => []
  | k + 1 => { data := BitVec.ofNat 128 (leNat (bs.take 16)), poison := p i } :: mkGrans p (bs.drop 16) k (i + 1)

/-- Puts an item in a list sorted by a key. -/
def insertBy {α : Type} (key : α → Nat) (x : α) : List α → List α
  | [] => [x]
  | y :: t => if key x < key y then x :: y :: t else y :: insertBy key x t

/-- Sorts by a key; items of one key keep their order. -/
def sortBy {α : Type} (key : α → Nat) (l : List α) : List α := l.foldl (fun acc x => insertBy key x acc) []

def ceilDiv (a b : Nat) : Nat := (a + b - 1) / b

/-! ## Byte stores and their poison (R319, R323) -/

/-- Poison mark of a granule that nothing has written: tile buffers, accumulators and operand SRAM are written
poisoned when a compute domain is cleared (R139, R187, R482), operand SRAM as zeros at a core's assignment (R453), a way of
die-shared SRAM as poison at a reset of the device (R478), the other stores are not poisoned (log 3). -/
def MemS.cold (m : MemS) (sp : Space) (a : Nat) : Bool :=
  match sp with
  | .tile | .accum => true
  | .opsram => smGet true m.opFill (a / 2 ^ 25)
  | .shared => smGet false m.shFill (a / 2 ^ 21)
  | .hbm => false

def MemS.cells (m : MemS) : Space → List Host.Cell
  | .hbm => m.hbm
  | .opsram => m.opsram
  | .tile => m.tile
  | .accum => m.accum
  | .shared => m.shared

def MemS.poisons (m : MemS) : Space → SMap Bool
  | .hbm => m.hbmPoison
  | .opsram => m.opPoison
  | .tile => m.tilePoison
  | .accum => m.accPoison
  | .shared => m.shPoison

def MemS.store (m : MemS) (sp : Space) (c : List Host.Cell) (p : SMap Bool) : MemS :=
  match sp with
  | .hbm => { m with hbm := c, hbmPoison := p }
  | .opsram => { m with opsram := c, opPoison := p }
  | .tile => { m with tile := c, tilePoison := p }
  | .accum => { m with accum := c, accPoison := p }
  | .shared => { m with shared := c, shPoison := p }

def readByte (c : List Host.Cell) (a : Nat) : Byte := smGet Memory.unwritten c a

def writeByte (c : List Host.Cell) (a : Nat) (b : Byte) : List Host.Cell := smSet Memory.unwritten c a b

def readBytes (c : List Host.Cell) (a n : Nat) : List Byte :=
  match n with
  | 0 => []
  | k + 1 => readByte c a :: readBytes c (a + 1) k

def writeBytes (c : List Host.Cell) (a : Nat) : List Byte → List Host.Cell
  | [] => c
  | b :: t => writeBytes (writeByte c a b) (a + 1) t

def readNat (c : List Host.Cell) (a n : Nat) : Nat := leNat (readBytes c a n)

/-- Poison mark of the granule that holds byte `a`. -/
def MemS.poisoned (m : MemS) (sp : Space) (a : Nat) : Bool := smGet (m.cold sp a) (m.poisons sp) (a / 16)

/-- Some granule of bytes `a` to `a + n − 1` is poisoned. -/
def MemS.anyPoison (m : MemS) (sp : Space) (a n : Nat) : Bool :=
  (List.range (if n = 0 then 0 else (a + n - 1) / 16 - a / 16 + 1)).any fun i => m.poisoned sp (a + 16 * i)

def MemS.readGran (m : MemS) (sp : Space) (a : Nat) : Gran :=
  { data := BitVec.ofNat 128 (readNat (m.cells sp) a 16), poison := m.poisoned sp a }

def MemS.readGrans (m : MemS) (sp : Space) (a n : Nat) : List Gran :=
  match n with
  | 0 => []
  | k + 1 => m.readGran sp a :: m.readGrans sp (a + 16) k

/-- A whole-granule write, which sets or clears the poison of the granule (R475). -/
def MemS.writeGran (m : MemS) (sp : Space) (a : Nat) (g : Gran) : MemS :=
  m.store sp (writeBytes (m.cells sp) a (granBytes g)) (smSet (m.cold sp a) (m.poisons sp) (a / 16) g.poison)

def MemS.writeGrans (m : MemS) (sp : Space) (a : Nat) : List Gran → MemS
  | [] => m
  | g :: t => (m.writeGran sp a g).writeGrans sp (a + 16) t

/-- A write of bytes within granules that leaves the other bytes and the poison marks as they are. -/
def MemS.writeRaw (m : MemS) (sp : Space) (a : Nat) (bs : List Byte) : MemS :=
  m.store sp (writeBytes (m.cells sp) a bs) (m.poisons sp)

def MemS.markGran (m : MemS) (sp : Space) (a : Nat) (p : Bool) : MemS :=
  m.store sp (m.cells sp) (smSet (m.cold sp a) (m.poisons sp) (a / 16) p)

/-- Bytes `lo` to `hi − 1` become as if nothing had written them: zeros (R328, R330) or poisoned (R482). -/
def MemS.wipe (m : MemS) (sp : Space) (lo hi : Nat) : MemS :=
  m.store sp ((m.cells sp).filter fun x => x.1 < lo || x.1 ≥ hi) ((m.poisons sp).filter fun x => x.1 < lo / 16 || x.1 ≥ hi / 16)

/-- Writes a core's whole operand SRAM as zeros, poisoned or not (R453, R482). -/
def MemS.wipeOps (m : MemS) (core : Nat) (p : Bool) : MemS :=
  let m' := m.wipe .opsram (core * 2 ^ 25) ((core + 1) * 2 ^ 25)
  { m' with opFill := smSet true m'.opFill core p }

/-- Writes a way of die-shared SRAM whole, 16 × C-die + way: as zeros, poisoned or not (R330, R478). -/
def MemS.wipeWay (m : MemS) (way : Nat) (p : Bool) : MemS :=
  let m' := m.wipe .shared (way * 2 ^ 21) ((way + 1) * 2 ^ 21)
  { m' with shFill := smSet false m'.shFill way p }

/-! ## Records before anything has written them -/

def PartS.init : PartS :=
  { st := .idle, image := none, pending := none, delta := 0, noAdmit := false, hold := none, reset := none,
    suspects := none, waiting := [], lastSet := none, fromTick := 0 }

def RingS.init : RingS :=
  { st := .disabled, err := 0, head := 0, tail := 0, bells := [], claimed := 0, cqw := 0, cqHead := 0, arms := 0,
    dropped := 0, dropLow := 0, dropHigh := 0, repDropped := 0, repLow := 0, repHigh := 0, winEnd := 0, winHit := false }

def PortS.init : PortS :=
  { link := .down, width := 0, rate := 0, fenced := false, lostAt := none, lostArmed := false, perst := true,
    refclk := true, cxl := false, lastLine := 0, due := [] }

def ArrayS.init : ArrayS :=
  { active := Bank.empty, shadow := Bank.empty, fresh := false, loadEnd := 0, rowEnd := 0, loadRead := 0, rowRead := 0, passes := [], ftq := [],
    withdrawn := false, toWithdraw := false, toReturn := false, due := false, confirm := 0, confirmRing := 0,
    confirmSeq := 0, confirmBy := 0, seed := 0, sweeps := 0, sweep := none, again := none, sumPasses := 0, sumFails := 0 }

def CoreS.init : CoreS :=
  { readPath := 0, tbReady := [], tbTag := [], replays := [], clearing := false, outOfService := false, leaving := false }

def EngS.init : EngS := { slip := 0, held := none, stated := 0, tried := 0, late := false, since := 0, free := 0, lastA := none, lastB := none }

def Codebook.init : Codebook := { full := false, tag := 0, entries := [], poison := false }

def FPort.init : FPort := { link := 0, direct := false, partner := 0, lanes := 0 }

def CdieS.init : CdieS := { outOfService := false, reset := none, log := [], lastCode := 0, rejoin := none }

def UnitRec.init : UnitRec :=
  { st := 0, was := 0, replayClean := false, perm := false, recent := [], wseq := 0, stateTime := 0, cleanTime := 0, qtimes := [],
    recorded := 0, corrected := 0, area := [] }

def Sensor.init : Sensor := { last := 0, low := 0, high := 0, seen := false, reported := none, quiet := 0, hours := [], hour := 0 }

/-- Generator registers at their Reset values (R339). -/
def TgS.init : TgS :=
  { busy := false, ctrl := 0, cfg := 0x00010001, len := 0, inj := 0, status := 0, errs := 0, first := 0, stopped := false }

def CtxGen.init : CtxGen := { gen := 0, floor := 0, wdr := false }

/-- VERSION of the images with which the module ships (log 66). -/
def shippedVersion : Word := 0x01000000

/-- Slot A of every domain holds a verified image as the module ships, slot B none (log 66). -/
def FwDom.init : FwDom :=
  { run := 0, next := 0, good := 0, goodVer := shippedVersion, pend := false, a := { whole := true, verified := true },
    b := { whole := false, verified := false } }

def RootRec.init : RootRec := { good := List.replicate 5 (0, shippedVersion), cdies := [], devOut := false, devLog := [], devCode := 0 }

def MCopy.init {α : Type} (v : α) : MCopy α := { start := 0, val := v, flaw := 0 }

def MramS.init : MramS := { journal := [], lms := (0, 0), images := [] }

/-- A fetch is outstanding (R363, R480). -/
def GKey.away (k : GKey) : Bool := k.st == .sent || k.st == .lost

/-! ## Parts of the state -/

def State.setTime (s : State) (x : TimeS) : State := { s with time := x }
def State.setUpd (s : State) (x : UpdS) : State := { s with upd := x }
def State.setMem (s : State) (x : MemS) : State := { s with mem := x }
def State.setXlt (s : State) (x : XltS) : State := { s with xlt := x }
def State.setFab (s : State) (x : FabS) : State := { s with fab := x }
def State.setErr (s : State) (x : RecS) : State := { s with err := x }
def State.setBoot (s : State) (x : BootS) : State := { s with boot := x }
def State.setHlt (s : State) (x : HltS) : State := { s with hlt := x }
def State.setPwr (s : State) (x : PwrS) : State := { s with pwr := x }
def State.setLocks (s : State) (x : List Nat) : State := { s with locks := x }
def State.setLatches (s : State) (x : SMap Word) : State := { s with latches := x }
def State.setSubs (s : State) (x : List Sub) : State := { s with subs := x }
def State.setSlots (s : State) (x : List SlotS) : State := { s with slots := x }
def State.setReads (s : State) (x : List HostRead) : State := { s with reads := x }
def State.setNextId (s : State) (x : Nat) : State := { s with nextId := x }
def State.setEngines (s : State) (x : SMap EngS) : State := { s with engines := x }
def State.setXfers (s : State) (x : List Xfer) : State := { s with xfers := x }
def State.setGsteps (s : State) (x : List GStep) : State := { s with gsteps := x }
def State.setUsteps (s : State) (x : List UStep) : State := { s with usteps := x }
def State.setParts (s : State) (x : SMap PartS) : State := { s with parts := x }
def State.setRings (s : State) (x : SMap RingS) : State := { s with rings := x }
def State.setPorts (s : State) (x : SMap PortS) : State := { s with ports := x }
def State.setArrays (s : State) (x : SMap ArrayS) : State := { s with arrays := x }
def State.setCores (s : State) (x : SMap CoreS) : State := { s with cores := x }

def State.part (s : State) (p : Nat) : PartS := smGet PartS.init s.parts p
def State.setPart (s : State) (p : Nat) (x : PartS) : State := { s with parts := smSet PartS.init s.parts p x }
def State.ring (s : State) (r : Nat) : RingS := smGet RingS.init s.rings r
def State.setRing (s : State) (r : Nat) (x : RingS) : State := { s with rings := smSet RingS.init s.rings r x }
def State.port (s : State) (p : Nat) : PortS := smGet PortS.init s.ports p
def State.setPort (s : State) (p : Nat) (x : PortS) : State := { s with ports := smSet PortS.init s.ports p x }
def State.array (s : State) (a : Nat) : ArrayS := smGet ArrayS.init s.arrays a
def State.setArray (s : State) (a : Nat) (x : ArrayS) : State := { s with arrays := smSet ArrayS.init s.arrays a x }
def State.core (s : State) (c : Nat) : CoreS := smGet CoreS.init s.cores c
def State.setCore (s : State) (c : Nat) (x : CoreS) : State := { s with cores := smSet CoreS.init s.cores c x }
/-- Engine `e` of core `c`: 0 to 3 arrays, 4 vector engine, 5 DMA. -/
def State.eng (s : State) (c e : Nat) : EngS := smGet EngS.init s.engines (8 * c + e)
def State.setEng (s : State) (c e : Nat) (x : EngS) : State := { s with engines := smSet EngS.init s.engines (8 * c + e) x }
def State.book (s : State) (c i : Nat) : Codebook := smGet Codebook.init s.books (4 * c + i)
def State.setBook (s : State) (c i : Nat) (x : Codebook) : State := { s with books := smSet Codebook.init s.books (4 * c + i) x }
def State.fport (s : State) (q : Nat) : FPort := smGet FPort.init s.fab.ports q
def State.setFport (s : State) (q : Nat) (x : FPort) : State := { s with fab := { s.fab with ports := smSet FPort.init s.fab.ports q x } }
def State.cdie (s : State) (c : Nat) : CdieS := smGet CdieS.init s.err.cdies c
def State.setCdie (s : State) (c : Nat) (x : CdieS) : State := { s with err := { s.err with cdies := smSet CdieS.init s.err.cdies c x } }
def State.unit (s : State) (k : Nat) : UnitRec := smGet UnitRec.init s.hlt.units k
def State.setUnit (s : State) (k : Nat) (x : UnitRec) : State := { s with hlt := { s.hlt with units := smSet UnitRec.init s.hlt.units k x } }
def State.sensor (s : State) (k : Nat) : Sensor := smGet Sensor.init s.hlt.sensors k
def State.setSensor (s : State) (k : Nat) (x : Sensor) : State := { s with hlt := { s.hlt with sensors := smSet Sensor.init s.hlt.sensors k x } }
def State.tg (s : State) (c : Nat) : TgS := smGet TgS.init s.mem.tg c
def State.setTg (s : State) (c : Nat) (x : TgS) : State := { s with mem := { s.mem with tg := smSet TgS.init s.mem.tg c x } }
def State.ctxGen (s : State) (c : Nat) : CtxGen := smGet CtxGen.init s.xlt.gens c
def State.setCtxGen (s : State) (c : Nat) (x : CtxGen) : State := { s with xlt := { s.xlt with gens := smSet CtxGen.init s.xlt.gens c x } }
def State.dom (s : State) (d : Nat) : FwDom := smGet FwDom.init s.boot.doms d
def State.setDom (s : State) (d : Nat) (x : FwDom) : State := { s with boot := { s.boot with doms := smSet FwDom.init s.boot.doms d x } }

def State.mram (s : State) (n : Nat) : MramS := smGet MramS.init s.boot.mram n
def State.setMram (s : State) (n : Nat) (x : MramS) : State := { s with boot := { s.boot with mram := smSet MramS.init s.boot.mram n x } }

/-- Writes an entry down (R115, R147, R180, R297). -/
def State.note (s : State) (n : Note) : State := { s with notes := n :: s.notes }

def State.emit (s : State) (o : Out) : State := { s with out := o :: s.out }

/-- A write to host memory through a port: the message, and the last line written (R400, R401). -/
def State.emitHost (s : State) (port last : Nat) (o : Out) : State :=
  let s := s.emit o
  s.setPort port { s.port port with lastLine := last / 256 * 256 }

/-- A fresh free value (log 4). -/
def State.draw (s : State) : Nat × State := (Config.freeNat s.free, { s with free := s.free + 1 })

/-! ## Dies and the mesh (R12 to R22) -/

/-- Mesh index of the n-th die of each kind (R12). -/
def dieC (n : Nat) : Nat := n
def dieG (n : Nat) : Nat := 32 + n
def dieF (n : Nat) : Nat := 48 + n
def dieH (n : Nat) : Nat := 56 + n
def dieS (n : Nat) : Nat := 60 + n

/-- A die is excluded in this start (R498, R521). -/
def State.excluded (s : State) (die : Nat) : Bool := s.boot.excl.toNat.testBit die

/-- S-dies in service: neither excluded nor withdrawn (R32, R477, R497). -/
def State.sdies (s : State) : List Nat := (List.range 4).filter fun i => !s.excluded (dieS i) && !s.err.sdown.contains i

/-- The C-die or G-die at which a die joins the rows (R17, R20). -/
def attach (d : Nat) : Nat :=
  if d < 48 then d
  else if d < 56 then (if (d - 48) % 2 = 0 then 8 * ((d - 48) / 2) else 8 * ((d - 48) / 2) + 7)
  else match d with
    | 56 => 1
    | 57 => 2
    | 58 => 5
    | 59 => 6
    | 60 => 25
    | 61 => 26
    | 62 => 29
    | _ => 30

/-- Row and position of a C-die or G-die (R13). -/
def meshRow (d : Nat) : Nat := if d < 32 then d / 8 else (d - 32) / 4
def meshX (d : Nat) : Nat := if d < 32 then 3 * ((d % 8) / 2) + 2 * (d % 2) else 3 * ((d - 32) % 4) + 1

def absDiff (a b : Nat) : Nat := if a ≤ b then b - a else a - b

/-- Number of edges on the route of R20. -/
def routeEdges (src dst : Nat) : Nat :=
  let a := attach src
  let b := attach dst
  let turn := if b < 32 then meshX b else meshX b - 1
  bnat (src ≠ a) + bnat (dst ≠ b) +
    (if meshRow a = meshRow b then absDiff (meshX a) (meshX b)
     else absDiff (meshX a) turn + absDiff (meshRow a) (meshRow b) + absDiff turn (meshX b))

/-- Die at a position of a row (R13). -/
def dieAt (row x : Nat) : Nat := if x % 3 = 1 then 32 + 4 * row + x / 3 else 8 * row + 2 * (x / 3) + x % 3 / 2

/-- Dies entered on the way along a row from position `x` to position `y`. -/
def rowWalk (row x y : Nat) : List Nat :=
  if x ≤ y then (List.range (y - x)).map fun i => dieAt row (x + 1 + i) else (List.range (x - y)).map fun i => dieAt row (x - 1 - i)

/-- C-dies entered on the way along the column at position `x` from row `r` to row `q`. -/
def colWalk (x r q : Nat) : List Nat :=
  if r ≤ q then (List.range (q - r)).map fun i => dieAt (r + 1 + i) x else (List.range (r - q)).map fun i => dieAt (r - 1 - i) x

/-- The dies of the route of R20, both ends included. -/
def route (src dst : Nat) : List Nat :=
  let a := attach src
  let b := attach dst
  let turn := if b < 32 then meshX b else meshX b - 1
  [src] ++ (if src = a then [] else [a]) ++
    (if meshRow a = meshRow b then rowWalk (meshRow a) (meshX a) (meshX b)
     else rowWalk (meshRow a) (meshX a) turn ++ colWalk turn (meshRow a) (meshRow b) ++ rowWalk (meshRow b) turn (meshX b)) ++
    (if dst = b then [] else [dst])

/-- A packet from `src` to `dst` crosses the edge from `a` to `b` (R20). -/
def onRoute (src dst a b : Nat) : Bool := ((route src dst).zip ((route src dst).drop 1)).contains (a, b)

/-- UNIT of the edge on which a die receives from a neighbour: N, E, S, W (R17, R28, R523). -/
def edgeUnit (src dst : Nat) : Nat :=
  if 48 ≤ dst then 0xC1
  else if 60 ≤ src then 0xC3
  else if 56 ≤ src then 0xC1
  else if 48 ≤ src then (if src % 2 = 0 then 0xC4 else 0xC2)
  else if meshRow src = meshRow dst then (if meshX src < meshX dst then 0xC4 else 0xC2)
  else if meshRow src < meshRow dst then 0xC1 else 0xC3

/-- The table of R523 lists a unit of a die; an F-, H- or S-die has one edge (R17). -/
def unitListed (die unit : Nat) : Bool :=
  let all := unit == 0xC8 || (unit == 0xB0 && decide (die < 60)) || (unit == 0xC0 && decide (die < 60)) || unit == 0xC1 ||
    (decide (0xC2 ≤ unit ∧ unit ≤ 0xC4) && decide (die < 48))
  all ||
    if die < 32 then decide (unit < 0x30) || decide (0x30 ≤ unit ∧ unit < 0x90) || decide (0x90 ≤ unit ∧ unit < 0xB0)
    else if die < 48 then decide (unit ≤ 4) || decide (0x10 ≤ unit ∧ unit ≤ 0x21)
    else if die < 56 then decide (unit < 0x28) || decide (0x28 ≤ unit ∧ unit ≤ 0x2A)
    else if die < 60 then decide (unit ≤ 0x12)
    else decide (unit ≤ 4)

/-- Cycles for the first granule of a packet (R22). -/
def routeCycles (src dst : Nat) : Nat := 14 * routeEdges src dst

end Sys2Proof.Machine
end

