-- ==== Sys2Proof/Machine/Code.lean ====
section
/-! DEFINITION. The device's one code: 36 symbols over GF(16), its encoder, its poison and its decoder (R320 to R322). -/

namespace Sys2Proof.Machine

open Sys2Proof

/-- α times a symbol, with field polynomial x^4 + x + 1 (R320). -/
def gfDouble (a : Nat) : Nat := if a ≥ 8 then Nat.xor (2 * a) 0x13 else 2 * a

/-- Product in GF(16). -/
def gfMul (a b : Nat) : Nat :=
  let a1 := gfDouble a
  let a2 := gfDouble a1
  let a3 := gfDouble a2
  Nat.xor (Nat.xor (if b.testBit 0 then a else 0) (if b.testBit 1 then a1 else 0))
    (Nat.xor (if b.testBit 2 then a2 else 0) (if b.testBit 3 then a3 else 0))

/-- Four values of GF(16), component 0 in bits [3:0]. -/
abbrev Syn := Nat

def mkSyn (a b c d : Nat) : Syn := a + 16 * b + 256 * c + 4096 * d

def synScale (e : Nat) (v : Syn) : Syn :=
  mkSyn (gfMul e (v % 16)) (gfMul e (v / 16 % 16)) (gfMul e (v / 256 % 16)) (gfMul e (v / 4096 % 16))

/-- Coordinates x and y of a data symbol's column (R320). -/
def codeXY (j : Nat) : Nat × Nat :=
  if j < 16 then (j, 2) else if j < 24 then (j - 16, 3) else if j < 31 then (j - 15, 3) else (8, 4)

/-- Column h of symbol position i: data symbols 0 to 31, check symbols 32 to 35 (R320). -/
def codeCol (i : Nat) : Syn :=
  if i < 32 then
    let p := codeXY i
    mkSyn 1 p.1 p.2 (Nat.xor (Nat.xor (gfMul p.1 p.1) (gfMul p.1 p.2)) (gfMul 8 (gfMul p.2 p.2)))
  else if i = 32 then mkSyn 0 0 0 1
  else if i = 33 then mkSyn 1 0 0 0
  else if i = 34 then mkSyn 1 1 0 1
  else mkSyn 1 0 1 8

/-- Σ v_i × h_i over symbols i, i + 1, … of a number of `n` symbols, the first standing at position `i`. -/
def synSum (n i v : Nat) : Syn :=
  match n with
  | 0 => 0
  | k + 1 => Nat.xor (synScale (v % 16) (codeCol i)) (synSum k (i + 1) (v / 16))

/-- Syndrome of stored data and check bits (R320). -/
def syndrome (data check : Nat) : Syn := Nat.xor (synSum 32 0 data) (synSum 4 32 check)

/-- The check value that makes the syndrome zero (R320). -/
def encodeCheck (data : Nat) : Nat :=
  let d := synSum 32 0 data
  let c2 := d / 16 % 16
  let c3 := d / 256 % 16
  let c1 := Nat.xor (Nat.xor (d % 16) c2) c3
  let c0 := Nat.xor (Nat.xor (d / 4096 % 16) c2) (gfMul 8 c3)
  c0 + 16 * c1 + 256 * c2 + 4096 * c3

/-- The check value is XORed with this for a poisoned granule (R321). -/
def poisonMask : Nat := 0x1018

def storedCheck (g : Gran) : Nat := Nat.xor (encodeCheck g.data.toNat) (if g.poison then poisonMask else 0)

/-- What a reader finds (R322): corrected names the position and the corrected data. -/
inductive Decoded where
  | clean
  | poisoned
  | corrected (pos : Nat) (data : Nat)
  | uncorrectable
  deriving DecidableEq, Repr

/-- The position and error that explain a syndrome, if one symbol does. -/
def findError (v : Syn) : Option (Nat × Nat) :=
  (List.range 36).findSome? fun i => (List.range 15).findSome? fun e => if synScale (e + 1) (codeCol i) = v then some (i, e + 1) else none

/-- Decoding by the syndrome alone (R322). -/
def decodeWord (data check : Nat) : Decoded :=
  let v := syndrome data check
  if v = 0 then .clean
  else if v = mkSyn 0 0 1 0 then .poisoned
  else
    match findError v with
    | some (i, e) => .corrected i (if i < 32 then Nat.xor data (e * 2 ^ (4 * i)) else data)
    | none => .uncorrectable

end Sys2Proof.Machine
end

