-- ==== Sys2Proof/Machine/Regs.lean ====
section
/-! DEFINITION. The setup registers of R567: the groups of one name, the BAR0 offset of each, its Reset column
value (R568), the bits that software writes and the bits that are cleared by a 1 (R7). -/

namespace Sys2Proof.Machine

open Sys2Proof

/-- A register name of R567; an indexed name stands for all registers of that name. -/
inductive RG where
  | sysStatus | sysResetCtrl | sysResetStatus | sysEvt | sysEvtCfg | sysOverrun | sysOverrunLast | sysRegerr
  | sysCdieState | sysPartCtrl | sysPartStatus | sysPartOfs | sysSuspect | sysGuilty | sysCoreOwn | timCtrl
  | timStatus | timNowLo | timNowHi | timPpsLoadLo | timPpsLoadHi | timHold | timEvent | pwrIn
  | pwrClkStatus | pwrEvt | hqPortCfg | hqPortStatus | hqPortEvt | hqSqBaseLo | hqSqBaseHi | hqCqBaseLo
  | hqCqBaseHi | hqRsrBaseLo | hqRsrBaseHi | hqRingCfg | hqRingCtrl | hqRingStatus | hqRingSeq | hqRingEvt
  | xltStatus | xltSlq | xltPwinA | xltPwinB | xltPwinC | xltPwinD | xltCtxA | xltCtxB
  | xltCtxC | xltCtxD | xltCtxE | memStatus | memTgSel | memTgCtrl | memTgCfg | memTgLen
  | memTgInj | memTgStatus | memTgErrs | memTgFirst | memSway | memRgnA | memRgnB | memRgnC
  | memRgnD | memChOwn | gthUpdStatus | gthUpdCtrl | gthUpdQuota | gthRway | gthUpdCap | vstId
  | vstCtrl | vstMac | vstFm | vstTmo | vstEvt | vstPortCfg | vstServeF | vstServeG
  | vstCxl | vstPortStatus | hltRingBaseLo | hltRingBaseHi | hltRingCfg | hltRingHead | hltRingStatus | hltLost
  | hltThr | hltSweep | hltHistSel | hltEvt | hltHistData | secBootStatus | secBootStart | secBootCtrl
  | secExclLo | secExclHi | secLmsLo | secLmsHi | secEvt | secFw | secFwVer
  deriving DecidableEq, Repr

/-- Place of a register group in the map of R567, and its fields' columns. -/
structure RegRow where
  /-- BAR0 offset of index 0 -/
  base : Nat
  stride : Nat
  count : Nat
  /-- Reset column -/
  reset : Word
  /-- bits that a write sets to the written value -/
  rw : Word
  /-- bits that a written 1 clears -/
  w1c : Word
  deriving DecidableEq, Repr

/-- The map of R567 with the columns of the rules it names. -/
def RG.row : RG → RegRow
  | .sysStatus => ⟨0x0, 4, 1, 0x0, 0x0, 0x3⟩
  | .sysResetCtrl => ⟨0x4, 4, 1, 0x0, 0x7c, 0x0⟩
  | .sysResetStatus => ⟨0x8, 4, 1, 0x0, 0x0, 0x0⟩
  | .sysEvt => ⟨0xc, 4, 1, 0x0, 0x0, 0x3f⟩
  | .sysEvtCfg => ⟨0x10, 4, 1, 0x0, 0x3fff, 0x0⟩
  | .sysOverrun => ⟨0x14, 4, 1, 0x0, 0x0, 0x0⟩
  | .sysOverrunLast => ⟨0x18, 4, 1, 0x0, 0x0, 0x0⟩
  | .sysRegerr => ⟨0x1c, 4, 1, 0x0, 0x0, 0x0⟩
  | .sysCdieState => ⟨0x100, 4, 32, 0x0, 0x0, 0x0⟩
  | .sysPartCtrl => ⟨0x200, 4, 64, 0x0, 0x7, 0x0⟩
  | .sysPartStatus => ⟨0x300, 4, 64, 0x0, 0x0, 0x0⟩
  | .sysPartOfs => ⟨0x400, 4, 64, 0x0, 0x0, 0x0⟩
  | .sysSuspect => ⟨0x500, 4, 64, 0x0, 0x0, 0x0⟩
  | .sysGuilty => ⟨0x600, 4, 128, 0x0, 0x0, 0xffffffff⟩
  | .sysCoreOwn => ⟨0x800, 4, 256, 0x0, 0x7f, 0x0⟩
  | .timCtrl => ⟨0x100000, 4, 1, 0x24040008, 0x7fffffff, 0x0⟩
  | .timStatus => ⟨0x100004, 4, 1, 0x1, 0x0, 0x0⟩
  | .timNowLo => ⟨0x100008, 4, 1, 0x0, 0x0, 0x0⟩
  | .timNowHi => ⟨0x10000c, 4, 1, 0x0, 0x0, 0x0⟩
  | .timPpsLoadLo => ⟨0x100010, 4, 1, 0x0, 0xffffffff, 0x0⟩
  | .timPpsLoadHi => ⟨0x100014, 4, 1, 0x0, 0xffffffff, 0x0⟩
  | .timHold => ⟨0x100018, 4, 1, 0x64, 0xffff, 0x0⟩
  | .timEvent => ⟨0x10001c, 4, 1, 0x0, 0x0, 0xff⟩
  | .pwrIn => ⟨0x110000, 4, 1, 0x0, 0x0, 0x0⟩
  | .pwrClkStatus => ⟨0x110004, 4, 1, 0x0, 0x0, 0x0⟩
  | .pwrEvt => ⟨0x110008, 4, 1, 0x0, 0x0, 0x3ff⟩
  | .hqPortCfg => ⟨0x200000, 16, 4, 0x0, 0x1, 0x0⟩
  | .hqPortStatus => ⟨0x200004, 16, 4, 0x0, 0x0, 0x0⟩
  | .hqPortEvt => ⟨0x200008, 16, 4, 0x0, 0x0, 0x3f⟩
  | .hqSqBaseLo => ⟨0x210000, 64, 4096, 0x0, 0xffffffff, 0x0⟩
  | .hqSqBaseHi => ⟨0x210004, 64, 4096, 0x0, 0xffffffff, 0x0⟩
  | .hqCqBaseLo => ⟨0x210008, 64, 4096, 0x0, 0xffffffff, 0x0⟩
  | .hqCqBaseHi => ⟨0x21000c, 64, 4096, 0x0, 0xffffffff, 0x0⟩
  | .hqRsrBaseLo => ⟨0x210010, 64, 4096, 0x0, 0xffffffff, 0x0⟩
  | .hqRsrBaseHi => ⟨0x210014, 64, 4096, 0x0, 0xffffffff, 0x0⟩
  | .hqRingCfg => ⟨0x210018, 64, 4096, 0x0, 0x7fffffff, 0x0⟩
  | .hqRingCtrl => ⟨0x21001c, 64, 4096, 0x0, 0xfffffffd, 0x0⟩
  | .hqRingStatus => ⟨0x210020, 64, 4096, 0x0, 0x0, 0x0⟩
  | .hqRingSeq => ⟨0x210024, 64, 4096, 0x0, 0xffffffff, 0x0⟩
  | .hqRingEvt => ⟨0x210028, 64, 4096, 0x0, 0x0, 0xf⟩
  | .xltStatus => ⟨0x400000, 4, 1, 0x0, 0x0, 0x7⟩
  | .xltSlq => ⟨0x400100, 4, 64, 0x0, 0x3fff, 0x0⟩
  | .xltPwinA => ⟨0x401000, 16, 64, 0x0, 0x7fff, 0x0⟩
  | .xltPwinB => ⟨0x401004, 16, 64, 0x0, 0xffffffff, 0x0⟩
  | .xltPwinC => ⟨0x401008, 16, 64, 0x0, 0xffffffff, 0x0⟩
  | .xltPwinD => ⟨0x40100c, 16, 64, 0x0, 0xffffffff, 0x0⟩
  | .xltCtxA => ⟨0x410000, 32, 4096, 0x0, 0xffff7ff, 0x0⟩
  | .xltCtxB => ⟨0x410004, 32, 4096, 0x0, 0x1fffffff, 0x0⟩
  | .xltCtxC => ⟨0x410008, 32, 4096, 0x0, 0xffffffff, 0x0⟩
  | .xltCtxD => ⟨0x41000c, 32, 4096, 0x0, 0xffffffff, 0x0⟩
  | .xltCtxE => ⟨0x410010, 32, 4096, 0x0, 0x0, 0x0⟩
  | .memStatus => ⟨0x600000, 4, 1, 0x0, 0x0, 0x7⟩
  | .memTgSel => ⟨0x600010, 4, 1, 0x0, 0x3ff, 0x0⟩
  | .memTgCtrl => ⟨0x600014, 4, 1, 0x0, 0xff8, 0x0⟩
  | .memTgCfg => ⟨0x600018, 4, 1, 0x10001, 0xffffffff, 0x0⟩
  | .memTgLen => ⟨0x60001c, 4, 1, 0x0, 0xffffff, 0x0⟩
  | .memTgInj => ⟨0x600020, 4, 1, 0x0, 0x1fffff, 0x0⟩
  | .memTgStatus => ⟨0x600024, 4, 1, 0x0, 0x0, 0xf⟩
  | .memTgErrs => ⟨0x600028, 4, 1, 0x0, 0x0, 0x0⟩
  | .memTgFirst => ⟨0x60002c, 4, 1, 0x0, 0x0, 0x0⟩
  | .memSway => ⟨0x600200, 4, 128, 0x0, 0x7f7f7f7f, 0x0⟩
  | .memRgnA => ⟨0x601000, 16, 256, 0x0, 0xfff7ff, 0x0⟩
  | .memRgnB => ⟨0x601004, 16, 256, 0x0, 0xffffffff, 0x0⟩
  | .memRgnC => ⟨0x601008, 16, 256, 0x0, 0xffffffff, 0x0⟩
  | .memRgnD => ⟨0x60100c, 16, 256, 0x0, 0x7fffff, 0x0⟩
  | .memChOwn => ⟨0x602000, 4, 1024, 0x0, 0x7f, 0x0⟩
  | .gthUpdStatus => ⟨0x800000, 4, 1, 0x0, 0x0, 0x7⟩
  | .gthUpdCtrl => ⟨0x800100, 4, 64, 0x0, 0x1f, 0x0⟩
  | .gthUpdQuota => ⟨0x800200, 4, 64, 0x0, 0x7ffffff, 0x0⟩
  | .gthRway => ⟨0x800400, 4, 64, 0x0, 0x7f7f7f7f, 0x0⟩
  | .gthUpdCap => ⟨0x801000, 4, 4096, 0x0, 0x7fffffff, 0x0⟩
  | .vstId => ⟨0xa00000, 4, 1, 0x0, 0x1ffff, 0x0⟩
  | .vstCtrl => ⟨0xa00004, 4, 1, 0x88b50000, 0xffff0003, 0x0⟩
  | .vstMac => ⟨0xa00008, 4, 1, 0x2, 0xffffff, 0x0⟩
  | .vstFm => ⟨0xa0000c, 4, 1, 0x0, 0x1ffff, 0x0⟩
  | .vstTmo => ⟨0xa00010, 4, 1, 0x271080, 0xfffffff, 0x0⟩
  | .vstEvt => ⟨0xa00014, 4, 1, 0x0, 0x0, 0x7f⟩
  | .vstPortCfg => ⟨0xa00100, 4, 8, 0x3, 0x3, 0x0⟩
  | .vstServeF => ⟨0xa00120, 4, 8, 0x0, 0x1fff, 0x0⟩
  | .vstServeG => ⟨0xa00140, 4, 16, 0x0, 0x3f, 0x0⟩
  | .vstCxl => ⟨0xa00180, 4, 4, 0x0, 0x7fffff, 0x0⟩
  | .vstPortStatus => ⟨0xa00200, 4, 64, 0x0, 0x0, 0x0⟩
  | .hltRingBaseLo => ⟨0xc00000, 4, 1, 0x0, 0xffffffff, 0x0⟩
  | .hltRingBaseHi => ⟨0xc00004, 4, 1, 0x0, 0xffffffff, 0x0⟩
  | .hltRingCfg => ⟨0xc00008, 4, 1, 0x3f00000, 0x3ffffff, 0x0⟩
  | .hltRingHead => ⟨0xc0000c, 4, 1, 0x0, 0xffffffff, 0x0⟩
  | .hltRingStatus => ⟨0xc00010, 4, 1, 0x0, 0x0, 0x0⟩
  | .hltLost => ⟨0xc00014, 4, 1, 0x0, 0x0, 0x0⟩
  | .hltThr => ⟨0xc00018, 4, 1, 0xf0a145f, 0xffffffff, 0x0⟩
  | .hltSweep => ⟨0xc0001c, 4, 1, 0x1, 0x1, 0x0⟩
  | .hltHistSel => ⟨0xc00020, 4, 1, 0x0, 0x3fff, 0x0⟩
  | .hltEvt => ⟨0xc00024, 4, 1, 0x0, 0x0, 0x1f⟩
  | .hltHistData => ⟨0xc00100, 4, 64, 0x0, 0x0, 0x0⟩
  | .secBootStatus => ⟨0xe00000, 4, 1, 0x0, 0x0, 0x0⟩
  | .secBootStart => ⟨0xe00004, 4, 1, 0x0, 0x0, 0x0⟩
  | .secBootCtrl => ⟨0xe00008, 4, 1, 0x0, 0x0, 0x0⟩
  | .secExclLo => ⟨0xe0000c, 4, 1, 0x0, 0x0, 0x0⟩
  | .secExclHi => ⟨0xe00010, 4, 1, 0x0, 0x0, 0x0⟩
  | .secLmsLo => ⟨0xe00014, 4, 1, 0x0, 0x0, 0x0⟩
  | .secLmsHi => ⟨0xe00018, 4, 1, 0x0, 0x0, 0x0⟩
  | .secEvt => ⟨0xe0001c, 4, 1, 0x0, 0x0, 0x7f⟩
  | .secFw => ⟨0xe00100, 4, 5, 0x0, 0x0, 0x0⟩
  | .secFwVer => ⟨0xe00140, 4, 10, 0x0, 0x0, 0x0⟩

def RG.part0 : List RG := [RG.sysStatus, RG.sysResetCtrl, RG.sysResetStatus, RG.sysEvt, RG.sysEvtCfg, RG.sysOverrun, RG.sysOverrunLast, RG.sysRegerr, RG.sysCdieState, RG.sysPartCtrl, RG.sysPartStatus, RG.sysPartOfs]

def RG.part1 : List RG := [RG.sysSuspect, RG.sysGuilty, RG.sysCoreOwn, RG.timCtrl, RG.timStatus, RG.timNowLo, RG.timNowHi, RG.timPpsLoadLo, RG.timPpsLoadHi, RG.timHold, RG.timEvent, RG.pwrIn]

def RG.part2 : List RG := [RG.pwrClkStatus, RG.pwrEvt, RG.hqPortCfg, RG.hqPortStatus, RG.hqPortEvt, RG.hqSqBaseLo, RG.hqSqBaseHi, RG.hqCqBaseLo, RG.hqCqBaseHi, RG.hqRsrBaseLo, RG.hqRsrBaseHi, RG.hqRingCfg]

def RG.part3 : List RG := [RG.hqRingCtrl, RG.hqRingStatus, RG.hqRingSeq, RG.hqRingEvt, RG.xltStatus, RG.xltSlq, RG.xltPwinA, RG.xltPwinB, RG.xltPwinC, RG.xltPwinD, RG.xltCtxA, RG.xltCtxB]

def RG.part4 : List RG := [RG.xltCtxC, RG.xltCtxD, RG.xltCtxE, RG.memStatus, RG.memTgSel, RG.memTgCtrl, RG.memTgCfg, RG.memTgLen, RG.memTgInj, RG.memTgStatus, RG.memTgErrs, RG.memTgFirst]

def RG.part5 : List RG := [RG.memSway, RG.memRgnA, RG.memRgnB, RG.memRgnC, RG.memRgnD, RG.memChOwn, RG.gthUpdStatus, RG.gthUpdCtrl, RG.gthUpdQuota, RG.gthRway, RG.gthUpdCap, RG.vstId]

def RG.part6 : List RG := [RG.vstCtrl, RG.vstMac, RG.vstFm, RG.vstTmo, RG.vstEvt, RG.vstPortCfg, RG.vstServeF, RG.vstServeG, RG.vstCxl, RG.vstPortStatus, RG.hltRingBaseLo, RG.hltRingBaseHi]

def RG.part7 : List RG := [RG.hltRingCfg, RG.hltRingHead, RG.hltRingStatus, RG.hltLost, RG.hltThr, RG.hltSweep, RG.hltHistSel, RG.hltEvt, RG.hltHistData, RG.secBootStatus, RG.secBootStart, RG.secBootCtrl]

def RG.part8 : List RG := [RG.secExclLo, RG.secExclHi, RG.secLmsLo, RG.secLmsHi, RG.secEvt, RG.secFw, RG.secFwVer]

/-- Every register group, in the order of the map. -/
def RG.all : List RG := RG.part0 ++ RG.part1 ++ RG.part2 ++ RG.part3 ++ RG.part4 ++ RG.part5 ++ RG.part6 ++ RG.part7 ++ RG.part8

/-- BAR0 offset of register `i` of a group. -/
def RG.off (g : RG) (i : Nat) : Nat := g.row.base + g.row.stride * i

/-- Index of offset `o` in a group, if the group has a register there. -/
def RG.idx (g : RG) (o : Nat) : Option Nat :=
  let r := g.row
  if r.base ≤ o ∧ (o - r.base) % r.stride = 0 ∧ (o - r.base) / r.stride < r.count then some ((o - r.base) / r.stride) else none

def regFind (o : Nat) : List RG → Option (RG × Nat)
  | [] => none
  | g :: t =>
    match g.idx o with
    | some i => some (g, i)
    | none => regFind o t

/-- The register at a BAR0 offset (R567); none where the map lists none (R563). -/
def regAt (o : Nat) : Option (RG × Nat) := regFind o RG.all

/-- Value of an offset that nothing has written: the Reset column. -/
def regDflt (o : Nat) : Word :=
  match regAt o with
  | some (g, _) => g.row.reset
  | none => 0

/-- Stored value of a register: its software-written fields and its recorded events. -/
def State.reg (s : State) (g : RG) (i : Nat) : Word := smGet g.row.reset s.regs (g.off i)

def State.setReg (s : State) (g : RG) (i : Nat) (w : Word) : State := { s with regs := smSet g.row.reset s.regs (g.off i) w }

/-- A hardware set of event bits. -/
def State.orReg (s : State) (g : RG) (i : Nat) (m : Word) : State := s.setReg g i (s.reg g i ||| m)

def State.setBit (s : State) (g : RG) (i b : Nat) : State := s.orReg g i (maskWord b)

/-- Field [hi:lo] of a stored register. -/
def State.fld (s : State) (g : RG) (i hi lo : Nat) : Nat := wbits (s.reg g i) hi lo

def State.flag (s : State) (g : RG) (i b : Nat) : Bool := wbit (s.reg g i) b

/-- Records a write that is ignored or refused (R563, R570): CAUSE 1 to 5. -/
def State.regErr (s : State) (off cause : Nat) : State :=
  s.setReg .sysRegerr 0 (BitVec.ofNat 32 (off % 2 ^ 24 + cause * 2 ^ 24))

/-- A write of the stored fields of a register: RW bits take the written value (R7, R9). -/
def State.putRw (s : State) (g : RG) (i : Nat) (w : Word) : State :=
  s.setReg g i ((s.reg g i &&& ~~~ g.row.rw) ||| (w &&& g.row.rw))

end Sys2Proof.Machine
end

