-- ==== Sys2Proof/Machine/Faults.lean ====
section
/-! DEFINITION. What the device reports and to whom: MSI-X messages, telemetry entries and PLDM events (17), SYS_EVT
(15), fabric-manager messages (13), unit-history records with the classing of their units (R524 to R530), and the
raising and charging of faults (R468 to R471). -/

namespace Sys2Proof.Machine

open Sys2Proof

/-- Host-bound writes leave on a port whose link is up and which is not fenced (R397, R408). -/
def State.portUp (s : State) (p : Nat) : Bool :=
  let x := s.port p
  (x.link == .up || x.link == .degraded) && !x.fenced

/-- The setup registers are open: step 14 of boot has ended (R502); they stay open after STANDBY (R478). -/
def State.opened (s : State) : Bool := s.boot.phase == .open_ || s.boot.phase == .standby

/-- STANDBY has completed (R545). -/
def State.standing (s : State) : Bool := s.boot.phase == .standby

/-- Packs fields (first bit, width, value) into a record. -/
def pack : List (Nat × Nat × Nat) → Nat
  | [] => 0
  | (lo, w, v) :: t => (v % 2 ^ w) * 2 ^ lo + pack t

/-- An MSI-X message falls due on a port (R402): those of one vector that fall due in one tick merge into one. -/
def State.msix (s : State) (port vec : Nat) : State :=
  let x := s.port port
  if s.portUp port && !x.due.contains vec then s.setPort port { x with due := x.due ++ [vec] } else s

/-- At the end of a tick the messages that fell due in it are posted, behind the entries that they follow; a fenced port drops them (R402,
R408). -/
def State.postMsix (s : State) : State :=
  (List.range 4).foldl (fun s p =>
    let x := s.port p
    if x.due = [] then s
    else
      let s := s.setPort p { x with due := [] }
      if s.portUp p then x.due.foldl (fun s v => s.emit (.msix p v)) s else s) s

/-! ## Telemetry (R534 to R536) -/

/-- The telemetry ring's message, moderated as R402 with MOD 16 (R537). -/
def State.hltMsix (s : State) : State :=
  if s.flag .hltRingCfg 0 19 then
    if s.time.now < s.hlt.winEnd then (s.setHlt { s.hlt with winHit := true })
    else
      let s := s.msix (s.fld .hltRingCfg 0 7 6) (s.fld .hltRingCfg 0 18 8)
      (s.setHlt { s.hlt with winEnd := s.time.now + 128, winHit := false })
  else s

/-- Event class of a PLDM event: 0xF0 for the OEM events, 0x00 for the sensorEvent of DSP0248 (R536, log 41). -/
def PldmEvent.cls : PldmEvent → BitVec 8
  | .oem _ => 0xF0
  | .numeric _ _ _ | .state _ _ _ => 0

/-- State sensor of the time state: the sensor after those of the units, 256 × mesh index + UNIT (log 41). -/
def timeSensor : Nat := 0x4000

/-- The events that a telemetry entry makes (R536): the OEM event, and the standard one of the sensor or state sensor that it tells of. -/
def TelEntry.events (e : TelEntry) : List PldmEvent :=
  let f := fun hi lo => bits e.body.toNat hi lo
  .oem e :: match e.type with
    | 2 => [.state (256 * f 7 0 + f 15 8) (f 31 24) (f 23 16)]
    | 3 => [.numeric (f 15 0) (f 31 16) (e.body.toNat.testBit 48)]
    | 4 => [.state timeSensor (f 15 8) (f 7 0)]
    | _ => []

/-- Queues a PLDM event (R536): sent at once when a receiver is set (log 41), otherwise held, 256 at most. -/
def State.pldmEvent (s : State) (e : PldmEvent) : State :=
  if s.hlt.receiver ≠ 0 then s.emit (.event e.cls e)
  else (s.setHlt { s.hlt with events := (s.hlt.events ++ [e]).drop (s.hlt.events.length + 1 - 256) })

/-- Drops an entry that the ring cannot take (R535). -/
def State.telLost (s : State) : State :=
  ((s.setBit .hltEvt 0 3).setHlt { s.hlt with lostNow := satAdd 255 s.hlt.lostNow 1, lostAll := satAdd (2 ^ 32 - 1) s.hlt.lostAll 1 })

/-- The entry of R534 as 512 bits. -/
def TelEntry.word (e : TelEntry) : BitVec 512 :=
  BitVec.ofNat 512 (pack [(0, 8, e.type), (8, 8, e.lost), (32, 32, e.seq), (64, 64, e.time), (128, 256, e.body.toNat)])

/-- Writes a telemetry entry into the ring, or drops it (R535), and sends it as a PLDM event unless its TYPE is SWEEP (R536). -/
def State.telemetry (s : State) (type : Nat) (body : Nat) : State :=
  let e : TelEntry := { type := type, lost := s.hlt.lostNow, seq := (s.hlt.written + 1) % 2 ^ 32, time := s.time.now, body := BitVec.ofNat 256 body }
  let ring := s.fld .hltRingCfg 0 7 6
  let cap := 2 ^ s.fld .hltRingCfg 0 4 0
  let head := (s.reg .hltRingHead 0).toNat
  let s1 :=
    if s.hlt.armed && (s.fld .hltRingCfg 0 25 20).testBit (type - 1) then
      if s.hlt.fenced || !s.portUp ring || decide ((s.hlt.written + 2 ^ 32 - head) % 2 ^ 32 ≥ cap) then s.telLost
      else
        let addr := (s.reg .hltRingBaseLo 0).toNat + 2 ^ 32 * (s.reg .hltRingBaseHi 0).toNat + 64 * (s.hlt.written % cap)
        let s := s.emitHost ring addr (.telemetry ring addr e.word)
        State.hltMsix (s.setHlt { s.hlt with written := s.hlt.written + 1, lostNow := 0 })
    else s
  if type = 6 then s1 else e.events.foldl (fun s e => s.pldmEvent e) s1

/-- A RESET entry (R494, R534): scope 0 partition, 1 C-die, 2 device. -/
def State.telReset (s : State) (scope unit : Nat) (atEnd : Bool) (code : Nat) : State :=
  s.telemetry 5 (pack [(0, 8, scope), (8, 8, unit), (16, 1, bnat atEnd), (32, 16, code)])

/-- S0 and S1 are both withdrawn: the HLT_, SEC_ and PWR_ registers are gone (R564). -/
def State.rootsGone (s : State) : Bool := s.err.sdown.contains 0 && s.err.sdown.contains 1

/-- The wardens of an H-die restart on a new image (R513): admission there stops, and its load and map queues pause. -/
def State.wardenRestarts (s : State) (h : Nat) : Bool := match s.boot.fwAct with | some a => a.started && a.domain == 1 && a.die == dieH h | none => false

/-! ## SYS_EVT and fabric-manager messages -/

/-- Sets a SYS_EVT bit and sends its vector (R495, R575). -/
def State.sysEvt (s : State) (b : Nat) : State :=
  let s := s.setBit .sysEvt 0 b
  if s.flag .sysEvtCfg 0 11 then s.msix (s.fld .sysEvtCfg 0 13 12) (s.fld .sysEvtCfg 0 10 0) else s

/-- Adds to a counter in the AREA of a unit-history record (R525), saturating at `top`. -/
def State.bump (s : State) (die unit off top n : Nat) : State :=
  let u := s.unit (256 * die + unit)
  s.setUnit (256 * die + unit) { u with area := smSet 0 u.area off (satAdd top (smGet 0 u.area off) n) }

/-- Writes a counter or field in the AREA of a unit-history record. -/
def State.setArea (s : State) (die unit off v : Nat) : State :=
  let u := s.unit (256 * die + unit)
  s.setUnit (256 * die + unit) { u with area := smSet 0 u.area off v }

/-- F-die of lowest index that has a port up, 8 for none (R445). Eight device ports stand for one F-die. -/
def State.fmDie (s : State) : Nat :=
  ((List.range 64).find? fun q => (s.fport q).link ≥ 2).elim 8 (· / 8)

/-- Queues a fabric-manager message about a device (R445, R446); the device holds 256 and counts what it drops. -/
def State.sendFmAbout (s : State) (subject type scope code unit state : Nat) : State :=
  if s.flag .vstCtrl 0 1 && s.flag .vstFm 0 16 then
    if s.fab.fmQueue.length < 256 then
      let m : FmMsg :=
        { type := type, scope := scope, subject := subject, code := code, unit := unit, state := state,
          time := s.time.now, resets := s.err.resets, msgSeq := s.fab.fmNext }
      (s.setFab { s.fab with fmQueue := s.fab.fmQueue ++ [m], fmNext := (s.fab.fmNext + 1) % 2 ^ 32 })
    else s.bump (dieF (s.fmDie % 8)) 0x28 0xC0 (2 ^ 32 - 1) 1
  else s

/-- Queues a message about the device itself. -/
def State.sendFm (s : State) (type scope code unit state : Nat) : State := s.sendFmAbout (s.fld .vstId 0 15 0) type scope code unit state

/-! ## Unit history (R524 to R530) -/

/-- A copy of a unit's record as manufacture leaves it. -/
def noCopy : UnitRec × Word := (UnitRec.init, 0)

/-- Writes a unit's record to the MRAM of every S-die in service (R524, R526). -/
def State.toMram (s : State) (k : Nat) : State :=
  let u := { s.unit k with wseq := (s.unit k).wseq + 1 }
  let s := s.setUnit k u
  s.setHlt { s.hlt with mram := s.sdies.foldl (fun m n => smSet noCopy m (4 * k + n) (u, 0)) s.hlt.mram }

/-- A unit's record as a reader finds it: the valid copy with the highest WSEQ (R524). -/
def State.history (s : State) (k : Nat) : UnitRec :=
  ((s.sdies.map fun n => smGet noCopy s.hlt.mram (4 * k + n)).filter (·.2 == 0)).foldl
    (fun (b : UnitRec) c => if b.wseq < c.1.wseq then c.1 else b) UnitRec.init

/-! ## Root state (R492, R497) -/

/-- The root state as the device holds it now. -/
def State.rootRec (s : State) : RootRec :=
  { good := (List.range 5).map fun d => ((s.dom d).good, (s.dom d).goodVer)
    cdies := s.err.cdies.map fun p => (p.1, (p.2.outOfService, p.2.log, p.2.lastCode))
    devOut := s.err.devOut, devLog := s.err.devLog, devCode := s.err.devCode }

/-- Writes the root state to every S-die in service (R497, R510). -/
def State.saveRoot (s : State) : State :=
  let c : MCopy RootRec := { start := s.boot.start, val := s.rootRec, flaw := 0 }
  s.setErr { s.err with roots := s.sdies.foldl (fun m n => smSet (MCopy.init RootRec.init) m n c) s.err.roots }

/-- The root state as a reader finds it: the valid copy with the highest START (R497). -/
def State.rootRead (s : State) : RootRec :=
  (((s.sdies.map fun n => smGet (MCopy.init RootRec.init) s.err.roots n).filter (·.flaw == 0)).foldl
    (fun (b : Option (MCopy RootRec)) c => match b with | some x => if x.start < c.start then some c else b | none => some c) none).elim RootRec.init (·.val)

/-- Partitions whose running image names a core of `cores`. -/
def State.runsOn (s : State) (cores : Nat → Bool) (p : Nat) : Bool :=
  match (s.part p).image with
  | some im => im.cores.any fun c => cores (8 * c.cdie + c.core)
  | none => false

/-- Every partition with a core in the set stops admitting until it loads an image without it (R490, R530). -/
def State.stopAdmitting (s : State) (cores : Nat → Bool) : State :=
  (List.range 64).foldl (fun s p => if s.runsOn cores p then s.setPart p { s.part p with noAdmit := true } else s) s

/-- A C-die goes out of service (R490): its cores leave; the host, the peers and the board controller are told (R494; log 112). -/
def State.cdieOut (s : State) (c code : Nat) : State :=
  let s := (s.setCdie c { s.cdie c with outOfService := true, reset := none }).saveRoot
  (((s.stopAdmitting fun k => k / 8 = c).sysEvt 2).sendFm 3 1 code c 0).telReset 1 c true code

/-- What a change of a unit's STATE does to service (R530): `st` 1 SUSPECT, 2 PERMANENT. -/
def State.unitActs (s : State) (die unit st code : Nat) : State :=
  if die < 32 then
    if unit < 0x20 then
      let a := 4 * (8 * die + unit / 4) + unit % 4
      s.setArray a { s.array a with toWithdraw := !(s.array a).withdrawn }
    else if unit < 0x80 then
      if st = 2 then
        let k := 8 * die + (if unit < 0x30 then unit % 8 else if unit < 0x70 then (unit - 0x30) / 8 else unit % 8)
        s.setCore k { s.core k with leaving := true }
      else s
    else if unit = 0xC8 ∧ st = 1 ∧ !(s.cdie die).outOfService then s.cdieOut die code
    else s
  else if unit = 0xC8 ∧ st = 1 ∧ die ≠ 60 ∧ die ≠ 61 then
    (s.setBoot { s.boot with exclKept := s.boot.exclKept ||| BitVec.ofNat 64 (2 ^ die) })
  else s

/-- Changes the STATE of a unit, unless it is PERMANENT or EXCLUDED, and reports it (R526, R528, R530, R534). -/
def State.classUnit (s : State) (die unit st code : Nat) : State :=
  let k := 256 * die + unit
  let u := s.unit k
  if u.perm || u.st == st || u.st == 3 then s
  else
    let s := (s.setUnit k { u with st := st, perm := decide (st = 2), stateTime := s.time.now }).toMram k
    let s := (s.setBit .hltEvt 0 (st - 1)).telemetry 2 (pack [(0, 8, die), (8, 8, unit), (16, 8, u.st), (24, 8, st), (32, 16, code)])
    s.unitActs die unit st code

/-- Codes of a qualifying event (R527). -/
def qualifying (code : Nat) : Bool :=
  (code / 256 == 1 && code != 0x0101 && code != 0x0107 && code != 0x0109) || code == 0x0301 || code == 0x0302 ||
    code == 0x0303 || code == 0x0310 || code == 0x0501

/-- 72 hours in ticks (R528). -/
def hours72 : Nat := 25920000000000

/-- A qualifying event of a unit at the present time (R526, R528). -/
def State.qualify (s : State) (die unit code : Nat) : State :=
  let k := 256 * die + unit
  let u := s.unit k
  let n := (u.qtimes.filter fun t => decide (t > s.time.now) || decide (s.time.now - t ≤ hours72)).length
  let s := (s.setUnit k { u with qtimes := (s.time.now :: u.qtimes).take 3 }).toMram k
  if n ≥ 2 then s.classUnit die unit 2 code else s

/-! ## Fault records (R468 to R471) -/

def FaultRec.new (s : State) (code : Nat) (die : Option Nat) (unit : Nat) : FaultRec :=
  { code := code, die := die, unit := unit, ctx := none, charged := false, suspect := false, test := false, part := none,
    aux := 0, time := s.time.now, seq := 0, ring := 0, dkind := 0, detail := 0, tag := 0 }

/-- The 32-byte record of R468: a suspect's context is named, and the fault is not attributed to it. -/
def FaultRec.body (r : FaultRec) : Nat :=
  pack [(0, 16, r.code), (16, 6, r.die.getD 0), (22, 1, bnat r.die.isSome), (24, 8, r.unit), (32, 12, r.ctx.getD 0),
    (44, 1, bnat (r.ctx.isSome && !r.suspect)), (45, 1, bnat r.charged), (46, 1, bnat r.suspect), (47, 1, bnat r.test),
    (48, 6, r.part.getD 0), (54, 1, bnat r.part.isSome), (56, 8, r.aux), (64, 64, r.time), (128, 32, r.seq),
    (160, 12, r.ring), (176, 4, r.dkind), (192, 64, r.detail)]

/-- A record goes to the device's faults and to the unit history of the unit that raised it (R468). `q` tells whether it is a qualifying
event (R527). -/
def State.record (s : State) (r : FaultRec) (q : Bool) : State :=
  let s := (s.setErr { s.err with faults := r :: s.err.faults })
  match r.die with
  | none => s
  | some die =>
    let k := 256 * die + r.unit
    let u := s.unit k
    let s := s.setUnit k
      { u with recent := ((r.code, r.test, r.charged, r.time) :: u.recent).take 8, recorded := satAdd (2 ^ 32 - 1) u.recorded 1,
               corrected := satAdd (2 ^ 32 - 1) u.corrected (bnat (r.code == 0x0101)) }
    if q then s.qualify die r.unit r.code else s

/-- Raises a fault: its record is written down and goes to telemetry (R468). -/
def State.raiseAs (s : State) (r : FaultRec) (q : Bool) : State := (s.record r q).telemetry 1 r.body

def State.raise (s : State) (r : FaultRec) : State := s.raiseAs r (qualifying r.code)

/-- The open submission of a ring with a sequence number (R470). -/
def State.sub? (s : State) (ring seq : Nat) : Option Sub := s.subs.find? fun x => x.ring == ring && x.seq == seq

/-- Rewrites an open submission. -/
def State.setSub (s : State) (x : Sub) : State :=
  s.setSubs (s.subs.map fun y => if y.ring == x.ring && y.seq == x.seq then x else y)

/-- Engines give up at a cycle an operation that they hold for a failed instance (R119); their slip stays. -/
def State.dropHeld (s : State) (ring seq cyc : Nat) : State :=
  s.setEngines (smMap EngS.init (fun _ e =>
      match e.held with
      | some o => if o.ring.val == ring && o.seq.toNat == seq then { e with held := none, since := cyc, slip := cyc - e.stated } else e
      | none => e) s.engines)

/-- A record that lost its charge to another (R468, R470). -/
def FaultRec.freed (r : FaultRec) : FaultRec := { r with charged := false, ring := 0, seq := 0 }

/-- The records charged to a submission in the present tick lose CHARGED to a fault of an earlier cycle, or to a lower code of the same one,
wherever they are written (R470). -/
def State.uncharge (s : State) (ring seq : Nat) : State :=
  let hit := fun r : FaultRec => r.charged && r.ring == ring && r.seq == seq && r.time == s.time.now
  let free := fun l : List FaultRec => l.map fun r => if hit r then r.freed else r
  let old := s.err.faults.filter hit
  let s := s.setErr { s.err with faults := free s.err.faults, tell := free s.err.tell }
  old.foldl (fun s r => match r.die with
    | none => s
    | some die =>
      let k := 256 * die + r.unit
      let u := s.unit k
      s.setUnit k { u with recent := u.recent.map fun e => if e = (r.code, r.test, true, r.time) then (r.code, r.test, false, r.time) else e }) s

/-- Charges a fault at phase `ph` of the present tick to a submission (R470): the first one decides its outcome, of
two in one cycle the lower code; a fault on a submission that is not open is recorded only. A submission not yet
decided is refused with the code. Host-bound writes are cancelled (R74). The record goes to telemetry at the end of the tick, when no other
fault can take its charge. -/
def State.charge (s : State) (ring seq ph : Nat) (r : FaultRec) : State :=
  match s.sub? ring seq with
  | none => s.raise r
  | some x =>
    let cyc := 7 * s.time.now + ph
    let win := x.code == 0 || decide (cyc < x.chargedAt) || (x.chargedAt == cyc && decide (r.code < x.code))
    if win && x.st != .refused then
      let s := if x.code = 0 then s else s.uncharge ring seq
      let st := if x.st == .waiting then SubSt.refused else x.st
      let s := s.setSub { x with code := r.code, chargedAt := cyc, cancelled := true, st := st,
                                 decided := if x.st == .waiting then s.time.now else x.decided }
      let s := s.setXfers (s.xfers.map fun (f : Xfer) => if f.r.ring.val == ring && f.r.seq.toNat == seq then { f with cancelled := true } else f)
      let r := { r with charged := true, ring := ring, seq := seq, ctx := some (r.ctx.getD x.ctx), part := some x.part }
      let s := (s.dropHeld ring seq cyc).record r (qualifying r.code)
      s.setErr { s.err with tell := s.err.tell ++ [r] }
    else s.raise r

/-- The tick ends: the records charged in it go to telemetry. -/
def State.tellCharges (s : State) : State :=
  s.err.tell.foldl (fun s r => s.telemetry 1 r.body) (s.setErr { s.err with tell := [] })

/-- Charges a code once an instance for one cause (R140, R180, R204): `cause` names it. A fault on a submission that is not open is recorded
only (R470). -/
def State.chargeOnce (s : State) (ring seq ph cause : Nat) (r : FaultRec) : State :=
  match s.sub? ring seq with
  | none => s.raise r
  | some x => if x.once.contains cause then s else (s.setSub { x with once := cause :: x.once }).charge ring seq ph r

/-- A record of an H-die's port (R523). -/
def portFault (s : State) (h code ctx part : Nat) : FaultRec :=
  { FaultRec.new s code (some (dieH h)) 0x10 with ctx := some ctx, part := some part }

/-- The port is fenced: an access of a submission that was taken meanwhile is charged 0x0901 (R409). -/
def State.fencedAccess (s : State) (h ring seq ph ctx part : Nat) : State := s.chargeOnce ring seq ph 0x0901 (portFault s h 0x0901 ctx part)

/-- Charges one of the faults that feeders are to meet; no further one is charged to the instance for its cause. -/
def State.chargeDue (s : State) (d : DueFault) : State :=
  let s := s.setErr { s.err with due := s.err.due.filter fun e => !(e.ring == d.ring && e.seq == d.seq && e.cause == d.cause) }
  s.chargeOnce d.ring d.seq (d.cycle - 7 * s.time.now) d.cause d.fault

/-- Charges, in the order of their cycles, the faults of feeders that are met before a cycle (R140, R180). -/
def State.duesTo (s : State) (cyc : Nat) : State :=
  let l := sortBy (fun (d : DueFault) => d.cycle) (s.err.due.filter fun d => decide (d.cycle < cyc))
  l.foldl (fun s d => if s.err.due.contains d then s.chargeDue d else s) s

/-- A feeder is to meet a fault at a cycle (R140, R180). -/
def State.chargeAt (s : State) (cyc ring seq cause : Nat) (r : FaultRec) : State :=
  if (s.sub? ring seq).any (·.once.contains cause) then s
  else s.setErr { s.err with due := s.err.due ++ [{ cycle := cyc, ring := ring, seq := seq, cause := cause, fault := { r with time := cyc / 7 } }] }

/-- At the end of a tick, or before an entry issues: the feeders' faults of this tick are charged. -/
def State.dueFaults (s : State) : State := s.duesTo (7 * (s.time.now + 1))

end Sys2Proof.Machine
end

