-- ==== Sys2Proof/Machine/Time.lean ====
section
/-! DEFINITION. Fabric time, its states and its sources (02; R551 for the loss of TICK). -/

namespace Sys2Proof.Machine

open Sys2Proof Host

/-- Code of a time state (R48). -/
def TimeState.code : TimeState → Nat
  | .free => 0
  | .acquiring => 1
  | .locked => 2
  | .holdover => 3
  | .lost => 4
  | .stepping => 5

/-- A write or read through a host port reaches the registers: they are open (R502) and the port is in PCIe mode
with its link up (R562). -/
def State.reach (s : State) (port : Nat) : Bool :=
  s.opened && !(s.port port).cxl && ((s.port port).link == .up || (s.port port).link == .degraded)

/-- H-die that admits for a partition (R66). -/
def State.admitH (s : State) (p : Nat) : Nat := s.fld .sysPartCtrl p 2 1

/-- A fault of the admission table of the admitting H-die. -/
def tableFault (s : State) (p code : Nat) : FaultRec :=
  { FaultRec.new s code (some (dieH (s.admitH p))) 0x12 with part := some p }

/-- OFFSET of TIM_STATUS: signed, saturating at ±32,767 (R57). -/
def offsetField (z : Int) : Nat := ofInt 16 (max (-32767) (min 32767 z))

/-- A change of the time state with its bound, its events and its reports (R48, R51, R54, R60). A step value that was fixed goes with
STEPPING: FREE and LOST count on without a step (R49, R50; DEDUCED, log 113). LOST by the loss of TICK, to which no estimate led, starts
its bound at the last estimate (DESIGN CHOICE, log 114). -/
def State.enter (s : State) (n : TimeState) : State :=
  let old : TimeState := s.time.state
  if n = old then s
  else
    let bound : Nat :=
      match n with
      | .holdover => 10 * 10 ^ 9
      | .lost => if old = .holdover then s.time.bound else s.time.offset.natAbs * 10 ^ 9
      | _ => 0
    let s := (s.setTime { s.time with state := n, bound := bound, streak := 0, stepFix := none,
                                            timeSet := if n = .acquiring then false else s.time.timeSet })
    let s :=
      match n with
      | .locked => s.setBit .timEvent 0 0
      | .holdover => s.setBit .timEvent 0 1
      | .lost => s.setBit .timEvent 0 2
      | _ => s
    let s := (s.telemetry 4 (pack [(0, 8, old.code), (8, 8, n.code), (16, 16, offsetField s.time.offset)])).sendFm 6 0 0 0 n.code
    if n = .stepping then
      (s.subs.filter (·.held)).foldl (fun s x => s.charge x.ring x.seq 0 (tableFault s x.part 0x0712)) s
    else s

/-- FREE entered under R55. -/
def State.enterFree55 (s : State) : State :=
  let s := s.enter .free
  (s.setTime { s.time with freeR55 := true })

/-- A time transmitter is visible on some link (R43, R46): with PTP_EN clear none is heard, and those heard before time out. -/
def State.ptpSeen (s : State) : Bool := !s.time.ptp.isEmpty

/-- The SRC in force: a written one is taken at the next saddle (R55). -/
def State.src (s : State) : Nat := if s.time.srcWritten then s.time.srcOld else s.fld .timCtrl 0 1 0

/-- The source that the SRC in force selects among those present: 0 none, 1 TREF with 1PPS, 2 PTP (R43). -/
def State.selected (s : State) : Nat :=
  let tref := s.time.trefOk && s.time.ppsOk
  match s.src with
  | 0 => if s.ptpSeen then 2 else if tref then 1 else 0
  | 1 => if tref then 1 else 0
  | 2 => if s.ptpSeen then 2 else 0
  | _ => 0

/-- SRC_ACTIVE changes (R57, R60). -/
def State.setSource (s : State) (v : Nat) : State :=
  if s.time.srcActive = v then s
  else
    let z : Int := if v = 1 ∧ s.time.ppsShift ≠ 0 then 10 * s.time.ppsShift else s.time.offset
    ((s.setBit .timEvent 0 6).setTime { s.time with srcActive := v, streak := 0, offset := z })

/-! ## Setting fabric time (R49, R53) -/

/-- First saddle at or after a tick. -/
def saddleAtOrAfter (t : Nat) : Nat := ceilDiv t 4096 * 4096

/-- A tick, and a cycle, as the time that has moved by `d` ticks counts them. -/
def movedT (d : Int) (t : Nat) : Nat := ((t : Int) + d).toNat
def movedC (d : Int) (c : Nat) : Nat := movedT (7 * d) c

def ResetS.moved (d : Int) (r : ResetS) : ResetS := { r with decided := movedT d r.decided, fence := movedT d r.fence }

def SuspectSet.moved (d : Int) (x : SuspectSet) : SuspectSet :=
  { x with replay := x.replay.map fun r => (r.1, movedT d r.2.1, movedT d r.2.2), lastEnd := movedT d x.lastEnd, ready := x.ready.map (movedT d) }

/-- A partition resumes at the first saddle of the new time (R53). -/
def PartS.moved (d : Int) (saddle : Nat) (x : PartS) : PartS :=
  { x with reset := x.reset.map (ResetS.moved d), suspects := x.suspects.map (SuspectSet.moved d), waiting := x.waiting.map (SuspectSet.moved d),
           fromTick := max (movedT d x.fromTick) saddle }

def Sub.moved (d : Int) (x : Sub) : Sub :=
  { x with adm := movedT d x.adm, arrived := movedT d x.arrived, decided := movedT d x.decided, chargedAt := movedC d x.chargedAt, start := movedT d x.start,
           resEnd := movedT d x.resEnd }

def SlotS.moved (d : Int) (x : SlotS) : SlotS := { x with start := movedT d x.start, resEnd := movedT d x.resEnd }

def RingS.moved (d : Int) (x : RingS) : RingS := { x with bells := x.bells.map fun b => (b.1, movedT d b.2), winEnd := movedT d x.winEnd }

def ArrayS.moved (d : Int) (x : ArrayS) : ArrayS :=
  { x with loadEnd := movedC d x.loadEnd, rowEnd := movedC d x.rowEnd, loadRead := movedC d x.loadRead, rowRead := movedC d x.rowRead, passes := x.passes.map fun p => { p with verdict := movedC d p.verdict },
           sweep := x.sweep.map fun w => { w with verdict := movedC d w.verdict }, confirmBy := movedT d x.confirmBy }

def CoreS.moved (d : Int) (x : CoreS) : CoreS :=
  { x with readPath := movedC d x.readPath, tbReady := smMap 0 (fun _ c => movedC d c) x.tbReady,
           replays := x.replays.map fun r => { r with verdict := movedC d r.verdict } }

def EngS.moved (d : Int) (x : EngS) : EngS :=
  { x with stated := movedC d x.stated, tried := movedC d x.tried, since := movedC d x.since, free := movedC d x.free }

def MemS.moved (d : Int) (m : MemS) : MemS :=
  { m with blocks := m.blocks.map fun b => { b with opened := movedT d b.opened }, rewrites := m.rewrites.map fun r => (r.1, r.2.1, movedT d r.2.2) }

def Conn.moved (d : Int) (c : Conn) : Conn :=
  { c with helloAt := movedT d c.helloAt, lastFrame := movedT d c.lastFrame, ackDue := c.ackDue.map (movedT d),
           unacked := c.unacked.map fun u => { u with born := movedT d u.born, sent := u.sent.map (movedT d) } }

def FabS.moved (d : Int) (f : FabS) : FabS :=
  { f with conns := f.conns.map (Conn.moved d), reqs := f.reqs.map fun r => { r with issue := movedT d r.issue } }

/-- A C-die rejoins at a saddle of the new time (R482). -/
def CdieS.moved (d : Int) (x : CdieS) : CdieS :=
  { x with reset := x.reset.map (ResetS.moved d), log := x.log.map (movedT d), rejoin := x.rejoin.map fun r => saddleAtOrAfter (movedT d r) }

def RecS.moved (d : Int) (e : RecS) : RecS :=
  { e with cdies := smMap CdieS.init (fun _ x => x.moved d) e.cdies, devReset := e.devReset.map (ResetS.moved d), devLog := e.devLog.map (movedT d),
           due := e.due.map fun x => { x with cycle := movedC d x.cycle } }

def HltS.moved (d : Int) (h : HltS) : HltS :=
  { h with winEnd := movedT d h.winEnd, lastWriteback := movedT d h.lastWriteback, lastSweepSum := movedT d h.lastSweepSum, lastEye := movedT d h.lastEye,
           lastAging := movedT d h.lastAging, sensors := smMap Sensor.init (fun _ x => { x with reported := x.reported.map (movedT d) }) h.sensors }

/-- What slots, rings and ports have noted moves with fabric time; partitions start at a saddle of the new time (R53). -/
def State.movedHost (s : State) (d : Int) : State :=
  let s := s.setParts (smMap PartS.init (fun _ x => x.moved d (saddleAtOrAfter s.time.now)) s.parts)
  let s := (s.setSubs (s.subs.map (Sub.moved d))).setSlots (s.slots.map (SlotS.moved d))
  let s := s.setRings (smMap RingS.init (fun _ x => x.moved d) s.rings)
  let s := s.setPorts (smMap PortS.init (fun _ (x : PortS) => { x with lostAt := x.lostAt.map (movedT d) }) s.ports)
  s.setReads (s.reads.map fun (x : HostRead) => { x with issued := movedT d x.issued })

/-- What arrays, cores and engines have noted moves with fabric time. -/
def State.movedCores (s : State) (d : Int) : State :=
  let s := s.setArrays (smMap ArrayS.init (fun _ x => x.moved d) s.arrays)
  let s := s.setCores (smMap CoreS.init (fun _ x => x.moved d) s.cores)
  s.setEngines (smMap EngS.init (fun _ x => x.moved d) s.engines)

/-- What memory agents, fabric ports, recovery, bring-up and the health of units have noted moves with fabric time. -/
def State.movedUnits (s : State) (d : Int) : State :=
  let s := ((s.setMem (s.mem.moved d)).setFab (s.fab.moved d)).setErr (s.err.moved d)
  let s := s.setBoot { s.boot with served := movedT d s.boot.served, fwAct := s.boot.fwAct.map fun a => { a with begun := movedT d a.begun } }
  s.setHlt (s.hlt.moved d)

/-- What the block has noted in fabric time to measure an interval, or to do at a cycle, moves with fabric time; what names a fabric
time stays (R53; log 115). -/
def State.moved (s : State) (d : Int) : State := ((s.movedHost d).movedCores d).movedUnits d

/-- Fabric time takes a value `d` ticks from where counting would have it; the time named for 1PPS stays where it is (R44, R49, R53). -/
def State.setNow (s : State) (v : Nat) (d : Int) : State :=
  let t : TimeS := s.time
  (s.setTime { t with now := v, ppsShift := t.ppsShift - d, lastPps := t.lastPps + d, syncSent := t.syncSent + d, annSent := t.annSent + d,
                      ptp := t.ptp.map fun l => { l with heard := l.heard + d },
                      beacons := smMap 0 (fun _ b => if b = 0 then 0 else movedT d b) t.beacons }).moved d

/-- What a lost source does to the time state (R48, R53, R55); `other` tells that another source is present. -/
def State.sourceLost (s : State) (other : Bool) : State :=
  let alone := s.src = 0 ∧ !other
  match s.time.state with
  | .locked => s.enter .holdover
  | .acquiring => if alone then s.enterFree55 else s
  | .stepping =>
    if s.time.stepFix.isSome then s else if alone then s.enterFree55 else s.enter .lost
  | .free | .holdover | .lost => s

/-- What a source that is present does to the time state (R48, R55). -/
def State.sourcePresent (s : State) : State :=
  match s.time.state with
  | .free => if s.time.freeR55 then s.enter .stepping else s
  | .lost => s.enter .stepping
  | .acquiring =>
    if s.time.srcActive = 1 ∧ s.time.ppsShift ≠ 0 ∧ !s.time.timeSet then
      let s := s.setNow (((s.time.now : Int) + s.time.ppsShift).toNat % 2 ^ 64) s.time.ppsShift
      s.setTime { s.time with timeSet := true }
    else s
  | .locked | .holdover | .stepping => s

/-- A source is present (R43): 1 TREF with 1PPS, 2 PTP. -/
def State.present (s : State) (v : Nat) : Bool := if v = 1 then s.time.trefOk && s.time.ppsOk else v == 2 && s.ptpSeen

/-- The presence of a source may have changed: the one in use may be lost, and the device follows the one that the SRC in force selects (R43,
R48, R53, R55). R39 takes precedence. -/
def State.resource (s : State) : State :=
  let v := s.selected
  if s.time.unsteered then s
  else if v = s.time.srcActive then s
  else
    let s := if s.time.srcActive ≠ 0 ∧ !s.present s.time.srcActive then s.sourceLost (v ≠ 0) else s
    let s := s.setSource v
    if v = 0 then s else s.sourcePresent

/-- At a saddle a written SRC takes effect (R55). R55 has no case of STEPPING with the new source present: the state stays STEPPING with the
old source's last estimate (DESIGN CHOICE, log 142). -/
def State.takeSource (s : State) : State :=
  if !s.time.srcWritten then s
  else
    let s := (s.setTime { s.time with srcWritten := false })
    if s.time.unsteered then s
    else
      let v := s.selected
      let s := s.setSource v
      if v ≠ 0 then
        if s.time.state = .free ∧ s.fld .timCtrl 0 1 0 ≠ 3 then s.enter .stepping else s.sourcePresent
      else if s.time.state = .free then (s.setTime { s.time with freeR55 := decide (s.fld .timCtrl 0 1 0 ≠ 3) })
      else s.sourceLost false

/-- An offset estimate from the source in use (R48, R51): `z` in ns. -/
def State.estimate (s : State) (z : Int) : State :=
  let n := if z.natAbs ≤ 10 then s.time.streak + 1 else 0
  let s := (s.setTime { s.time with offset := z, streak := n })
  match s.time.state with
  | .acquiring => if n ≥ 16 then s.enter .locked else s
  | .locked => if z.natAbs > 1000 then (s.enter .lost).sourcePresent else s
  | .holdover => if z.natAbs > 1000 then (s.enter .lost).sourcePresent else if n ≥ 16 then s.enter .locked else s
  | .lost => s.sourcePresent
  | .free | .stepping => s

/-- In ACQUIRING fabric time is set once to the source's value (R49). -/
def State.setOnce (s : State) (v : Nat) : State :=
  if s.time.state = .acquiring ∧ !s.time.timeSet then
    let s := s.setNow (v % 2 ^ 64) (((v % 2 ^ 64 : Nat) : Int) - s.time.now)
    (s.setTime { s.time with timeSet := true })
  else s

/-- A PTP timestamp as fabric time (R35). -/
def ptpTicks (sec nsec : Nat) : Nat := sec * 100000000 + nsec / 10

/-- After boot or a compute-domain reset of the device the time state is set anew (R39, R48, R55, R483). -/
def State.timeAnew (s : State) : State :=
  let down := fun i => s.excluded (dieF i) || s.time.synthDown.contains i
  let s := (s.setTime { s.time with unsteered := down 0 && down 1, streak := 0, timeSet := false, srcWritten := false })
  if s.time.unsteered then
    let s := (s.setSource 0).enter .free
    (s.setTime { s.time with freeR55 := false })
  else if s.fld .timCtrl 0 1 0 = 3 then
    let s := (s.setSource 0).enter .free
    (s.setTime { s.time with freeR55 := false })
  else
    let s := s.setSource s.selected
    if s.time.srcActive = 0 ∧ s.fld .timCtrl 0 1 0 = 0 then s.enterFree55
    else
      let s := s.enter .acquiring
      (s.setTime { s.time with timeSet := false })

/-- A write to TIM_CTRL (R44, R55, R56). One that keeps SRC changes no time state. -/
def State.writeTimCtrl (s : State) (w : Word) : State :=
  let old := s.fld .timCtrl 0 1 0
  let src := s.src
  let s := s.putRw .timCtrl 0 w
  if wbits w 1 0 = old then s
  else if wbits w 1 0 = 3 then
    if s.time.unsteered then s
    else
      let s := (s.setSource 0).enter .free
      (s.setTime { s.time with freeR55 := false, srcWritten := false })
  else (s.setTime { s.time with srcWritten := true, srcOld := src })

/-! ## Meanings -/

/-- A tick boundary (R34, R51): fabric time rises by one while PTCK runs and no step value is fixed; the holdover bound grows. -/
def State.tick (s : State) : State :=
  if s.boot.ptck ∧ s.time.stepFix = none then
    let grows := s.time.state = .holdover ∨ s.time.state = .lost
    let t := { s.time with now := (s.time.now + 1) % 2 ^ 64,
                           bound := s.time.bound + if grows then 10 * s.fld .timHold 0 15 0 else 0 }
    let s := s.setTime t
    if s.hlt.winHit && decide (s.time.now = s.hlt.winEnd) then
      let s := s.msix (s.fld .hltRingCfg 0 7 6) (s.fld .hltRingCfg 0 18 8)
      s.setHlt { s.hlt with winEnd := s.time.now + 128, winHit := false }
    else s
  else s

/-- Edges from the time die to a die, in ticks: when a beacon sent now is applied (R22, R41). -/
def State.beaconAt (s : State) (die : Nat) : Nat := s.time.now + ceilDiv (routeCycles (dieF s.time.timeDie) die) 7

/-- At a saddle the time die sends every other die a beacon (R41); with PTCK driven from TICK there is no time die (R39). -/
def State.sendBeacons (s : State) : State :=
  if s.time.unsteered then s
  else
    let dies := (List.range 64).filter fun d => d != dieF s.time.timeDie && !s.excluded d
    let set := fun (m : SMap Nat) (d : Nat) => smSet 0 m d (s.beaconAt d)
    s.setTime { s.time with beacons := dies.foldl set s.time.beacons }

/-- TIME_BEACON (R41): a die applies its beacon at the tick boundary that the beacon names. `own` is the die's own count there; if it differs,
the die takes the beacon's value and counts a disagreement, and two within an hour make its clock suspect (R530; log 116). -/
def execTimeBeacon (die : Fin 64) (own : BitVec 64) (s : State) : Outcome State Fault Refusal :=
  let d := die.val
  let b := smGet 0 s.time.beacons d
  if !s.boot.ptck ∨ b = 0 ∨ s.time.now ≠ b then .next s
  else if own.toNat ≠ b then
    let u := s.unit (256 * d + 0xC8)
    let last := smGet 0 u.area 0xC8
    let before := smGet 0 u.area 0xC0
    let s := (s.setTime { s.time with beacons := smSet 0 s.time.beacons d 0 })
    let s := (s.bump d 0xC8 0xC0 (2 ^ 32 - 1) 1).setArea d 0xC8 0xC8 s.time.now
    if before > 0 ∧ (last > s.time.now ∨ s.time.now - last ≤ 360000000000) then .next (s.classUnit d 0xC8 1 0) else .next s
  else .next (s.setTime { s.time with beacons := smSet 0 s.time.beacons d 0 })

/-- The value of TIM_PPS_LOAD. -/
def State.loadValue (s : State) : Nat := (s.reg .timPpsLoadLo 0).toNat + 2 ^ 32 * (s.reg .timPpsLoadHi 0).toNat

/-- An armed value that is a whole number of seconds (R44). -/
def State.loadGood (s : State) : Bool := s.flag .timCtrl 0 30 && s.loadValue % 100000000 == 0

/-- The edge judges an armed value (R44). -/
def State.judgeLoad (s : State) : State :=
  if s.loadGood then (s.setReg .timCtrl 0 (setBits (s.reg .timCtrl 0) 30 30 0)).setBit .timEvent 0 4
  else if s.flag .timCtrl 0 30 then s.setBit .timEvent 0 5
  else s

/-- An armed value that the edge takes names the second of this edge (R44). -/
def State.nameEdge (s : State) (good : Bool) (v : Nat) : State :=
  s.setTime { s.time with ppsShift := if good then (v : Int) - s.time.now else s.time.ppsShift, lastPps := s.time.now }

/-- An edge more than 100 ns from the expected boundary counts as a lost 1PPS; an armed value is judged at it all the same (R44, R45). -/
def State.strayEdge (s : State) (good : Bool) (v : Nat) : State :=
  let s := s.nameEdge good v
  ((s.setTime { s.time with ppsOk := false }).setBit .pwrEvt 0 5).resource

/-- Any other edge: 1PPS is present, and an estimate where TREF is the source (R44, R48, R49). `good` tells that `v` was taken. While no
second has been named TREF gives no time of day: fabric time is not set, and the edges alone can lead to LOCKED (DESIGN CHOICE, log 117). -/
def State.takeEdge (s : State) (good : Bool) (v : Nat) (offset : Int) : State :=
  let s := s.nameEdge good v
  let s := (s.setTime { s.time with ppsOk := true }).resource
  let s := if good ∧ s.time.srcActive = 1 then s.setOnce v else s
  if s.time.srcActive = 1 then s.estimate (offset + 10 * s.time.ppsShift) else s

/-- PPS_EDGE (R44, R45, R48): an armed value is judged; the edge gives an offset estimate when TREF is the source,
unless it falls more than 100 ns from the expected boundary in LOCKED. -/
def execPpsEdge (offset : Int) (s : State) : Outcome State Fault Refusal :=
  if s.boot.ptck then
    if s.time.state = .locked ∧ offset.natAbs > 100 then .next (s.judgeLoad.strayEdge s.loadGood s.loadValue)
    else .next (s.judgeLoad.takeEdge s.loadGood s.loadValue offset)
  else .next s

/-- PPS_LOST (R45): no edge within 1.5 s of the previous one. -/
def execPpsLost (s : State) : Outcome State Fault Refusal :=
  if s.time.ppsOk ∧ (s.time.now : Int) > s.time.lastPps + 150000000 then
    .next (State.resource ((s.setBit .pwrEvt 0 5).setTime { s.time with ppsOk := false }))
  else .next s

/-- TREF_LOST (R45): TREF departs from TICK by more than 50 ppm. -/
def execTrefLost (s : State) : Outcome State Fault Refusal :=
  if s.time.trefOk then .next (State.resource ((s.setBit .pwrEvt 0 4).setTime { s.time with trefOk := false })) else .next s

/-- TREF_PRESENT (R45, R561): TREF is within 50 ppm of TICK again. -/
def execTrefPresent (s : State) : Outcome State Fault Refusal :=
  .next (State.resource (s.setTime { s.time with trefOk := true }))

/-- Order of two datasets under the default algorithm of clause 9.3 (R46; the fields' order is that of IEEE 1588, log 42). -/
def ptpRank (d : PtpDataset) : List Nat :=
  [d.prio1.toNat, d.clkClass.toNat, d.accuracy.toNat, d.variance.toNat, d.prio2.toNat, d.identity.toNat, d.steps.toNat]

def lexLt : List Nat → List Nat → Bool
  | a :: s, b :: t => decide (a < b) || (a == b && lexLt s t)
  | _, _ => false

/-- The link of the best time transmitter (R46). -/
def bestLink : List PtpLink → Option PtpLink
  | [] => none
  | l :: t =>
    match bestLink t with
    | none => some l
    | some b => if lexLt (ptpRank b.ds) (ptpRank l.ds) then some b else some l

/-- The PTP frame is of the device's domain and the profile runs (R46). -/
def State.ptpRuns (s : State) (domain : Nat) : Bool := s.boot.ptck && s.flag .timCtrl 0 3 && s.fld .timCtrl 0 10 4 == domain

/-- PTP_SYNC_RECEIVED (R46, R48): a one-step Sync of the best transmitter gives an offset estimate; a two-step one waits for its Follow_Up. -/
def execPtpSyncReceived (port : Fin 64) (domain : Fin 128) (twoStep : Bool) (sec nsec : Nat) (offset : Int) (s : State) : Outcome State Fault Refusal :=
  match bestLink s.time.ptp with
  | none => .next s
  | some l =>
    if s.ptpRuns domain.val ∧ l.port = port.val then
      if twoStep then
        .next (s.setTime { s.time with ptp := s.time.ptp.map fun x => if x.port = port.val then { x with twoStep := true } else x })
      else if s.time.srcActive = 2 then .next ((s.setOnce (ptpTicks sec nsec)).estimate offset)
      else .next s
    else .next s

/-- FOLLOW_UP_RECEIVED (R46): the Follow_Up of a two-step Sync gives the estimate. -/
def execFollowUpReceived (port : Fin 64) (domain : Fin 128) (sec nsec : Nat) (offset : Int) (s : State) : Outcome State Fault Refusal :=
  match bestLink s.time.ptp with
  | none => .next s
  | some l =>
    if s.ptpRuns domain.val ∧ l.port = port.val ∧ l.twoStep then
      let s := (s.setTime { s.time with ptp := s.time.ptp.map fun x => if x.port = port.val then { x with twoStep := false } else x })
      if s.time.srcActive = 2 then .next ((s.setOnce (ptpTicks sec nsec)).estimate offset) else .next s
    else .next s

/-- The device acts as a time transmitter: GM_EN is set and the source is TREF (R46). -/
def State.transmits (s : State) : Bool :=
  s.opened && s.flag .timCtrl 0 3 && s.flag .timCtrl 0 2 && s.time.srcActive == 1

/-- The dataset that the device announces (R46). -/
def State.ownDataset (s : State) : PtpDataset :=
  { prio1 := BitVec.ofNat 8 (s.fld .timCtrl 0 18 11),
    clkClass := if s.time.state = .locked ∧ s.time.srcActive = 1 ∧ s.flag .timCtrl 0 2 then 6 else 248,
    accuracy := BitVec.ofNat 8 Config.ptpAccuracy, variance := BitVec.ofNat 16 Config.ptpVariance,
    prio2 := BitVec.ofNat 8 (s.fld .timCtrl 0 26 19), identity := BitVec.ofNat 64 Config.ptpIdentity, steps := 0 }

/-- Links on which the device transmits: those that are up and on which it hears no dataset better than its own (R46; log 42). -/
def State.masterPorts (s : State) : List Nat :=
  (List.range 64).filter fun q => (s.fport q).link ≥ 2 && !s.time.ptp.any fun l => l.port == q && lexLt (ptpRank l.ds) (ptpRank s.ownDataset)

/-- PTP_SYNC_SEND (R46): a one-step Sync on those links, once a sync interval. -/
def execPtpSyncSend (s : State) : Outcome State Fault Refusal :=
  if s.transmits ∧ (s.time.now : Int) ≥ s.time.syncSent + 100000000 / 2 ^ s.fld .timCtrl 0 29 27 then
    let s := (s.setTime { s.time with syncSent := s.time.now })
    .next (s.masterPorts.foldl (fun s q => s.emit (.sync q (s.fld .timCtrl 0 10 4) (s.time.now / 100000000) (10 * (s.time.now % 100000000)))) s)
  else .next s

/-- ANNOUNCE_SEND (R46): Announce on those links, once a second. -/
def execAnnounceSend (s : State) : Outcome State Fault Refusal :=
  if s.transmits ∧ (s.time.now : Int) ≥ s.time.annSent + 100000000 then
    let s := (s.setTime { s.time with annSent := s.time.now })
    .next (s.masterPorts.foldl (fun s q => s.emit (.announce q (s.fld .timCtrl 0 10 4) s.ownDataset)) s)
  else .next s

/-- ANNOUNCE_RECEIVED (R46): the transmitter becomes visible and enters the best-master-clock choice. -/
def execAnnounceReceived (port : Fin 64) (domain : Fin 128) (ds : PtpDataset) (s : State) : Outcome State Fault Refusal :=
  if s.ptpRuns domain.val then
    let old := s.time.ptp.find? (·.port == port.val)
    let l : PtpLink := { port := port.val, ds := ds, heard := s.time.now, twoStep := old.elim false (·.twoStep) }
    .next (State.resource (s.setTime { s.time with ptp := l :: s.time.ptp.filter (·.port != port.val) }))
  else .next s

/-- ANNOUNCE_TIMEOUT (R46): three announce intervals without an Announce on the link. -/
def execAnnounceTimeout (port : Fin 64) (s : State) : Outcome State Fault Refusal :=
  if s.time.ptp.any fun l => l.port == port.val && decide ((s.time.now : Int) ≥ l.heard + 300000000) then
    .next (State.resource (s.setTime { s.time with ptp := s.time.ptp.filter (·.port != port.val) }))
  else .next s

/-- HOLDOVER_BOUND_EXCEEDED (R48, R51): the bound is beyond 1 µs in HOLDOVER, and the state becomes LOST. -/
def execHoldoverBoundExceeded (s : State) : Outcome State Fault Refusal :=
  if s.time.state = .holdover ∧ s.time.bound > 1000 * 10 ^ 9 then
    let s := s.enter .lost
    .next (if s.time.srcActive ≠ 0 then s.sourcePresent else s)
  else .next s

/-- Moves every pending load or stop to a saddle (R114). -/
def State.movePending (s : State) (t : Nat) : State :=
  s.setParts (smMap PartS.init (fun _ x => { x with pending := x.pending.map fun q => { q with saddle := t } }) s.parts)

/-- TIME_STEP (R53): the state entered is ACQUIRING also where the only source was lost after the step value was fixed, and waits there
(DESIGN CHOICE, log 142). The tick boundary after the step value was fixed; fabric time takes it, and partitions resume at the first saddle of
the new time. A pending switch moves to the first saddle at least 4,096 ticks after the step (R114). -/
def execTimeStep (s : State) : Outcome State Fault Refusal :=
  match s.time.stepFix with
  | none => .next s
  | some v =>
    let shift : Int := ((v % 2 ^ 64 : Nat) : Int) - (s.time.now + 1)
    let s := s.setNow (v % 2 ^ 64) shift
    let s := s.setTime { s.time with stepFix := none, saddleAt := none }
    let s := (s.movePending (saddleAtOrAfter (v % 2 ^ 64 + 4096))).setBit .timEvent 0 3
    let s := s.enter .acquiring
    .next (s.setTime { s.time with timeSet := true })

/-- The time die fails: the standby synthesiser takes over, or PTCK runs from TICK with no steering (R38, R39). -/
def State.timeDieFails (s : State) : State :=
  let other := 1 - s.time.timeDie
  let down := s.time.timeDie :: s.time.synthDown
  let s := (s.setTime { s.time with synthDown := down })
  if s.excluded (dieF other) || down.contains other then
    let s := (s.setTime { s.time with unsteered := true })
    let s := (s.setSource 0).enter .free
    (s.setTime { s.time with freeR55 := false })
  else (s.setTime { s.time with timeDie := other }).setBit .timEvent 0 7

/-- TIME_DIE_FAILURE (R38, R39). -/
def execTimeDieFailure (s : State) : Outcome State Fault Refusal :=
  if s.boot.ptck ∧ !s.time.unsteered then .next s.timeDieFails else .next s

/-- TIM_SRC_WRITE (R55): a write to TIM_CTRL that changes SRC. -/
def execTimSrcWrite (port : Fin 4) (w : Word) (s : State) : Outcome State Fault Refusal :=
  if s.reach port.val ∧ wbits w 1 0 ≠ s.fld .timCtrl 0 1 0 then .next (s.writeTimCtrl w) else .next s

/-- PPS_ARM (R44): a write to TIM_CTRL with PPS_ARM 1 that keeps SRC. -/
def execPpsArm (port : Fin 4) (w : Word) (s : State) : Outcome State Fault Refusal :=
  if s.reach port.val ∧ wbit w 30 ∧ wbits w 1 0 = s.fld .timCtrl 0 1 0 then .next (s.writeTimCtrl w) else .next s

/-- TIM_HOLD_RATE_WRITE (R51): the new rate applies from the write, and the bound reached is kept. -/
def execTimHoldRateWrite (port : Fin 4) (w : Word) (s : State) : Outcome State Fault Refusal :=
  if s.reach port.val then .next (s.putRw .timHold 0 w) else .next s

/-- TICK_LOST (R551): PTCK holds on the internal oscillator; the time state becomes LOST unless it is FREE. -/
def execTickLost (s : State) : Outcome State Fault Refusal :=
  if s.boot.ptck ∧ s.time.tickOk then
    let s := ((s.setBit .pwrEvt 0 3).setTime { s.time with tickOk := false, tickInt := true })
    if s.time.state = .free then .next s else .next (s.enter .lost)
  else .next s

/-- TICK_RETURN (R551, R48): PTCK slews back; a source that is present in LOST leads to STEPPING. -/
def execTickReturn (s : State) : Outcome State Fault Refusal :=
  if !s.time.tickOk then
    let s := (s.setTime { s.time with tickOk := true, tickInt := false })
    if s.time.state = .lost ∧ s.time.srcActive ≠ 0 then .next s.sourcePresent else .next s
  else .next s

end Sys2Proof.Machine
end

