-- ==== Sys2Proof/Machine/Rings.lean ====
section
/-! DEFINITION. Rings, doorbells, the taking of descriptors, completion entries and ring-state records (12; R64, R65,
R72, R73 of 02). -/

namespace Sys2Proof.Machine

open Sys2Proof Host

/-- Fields of HQ_RING_CFG (R379). -/
def State.ringH (s : State) (r : Nat) : Nat := s.fld .hqRingCfg r 11 10
def State.ringPart (s : State) (r : Nat) : Nat := s.fld .hqRingCfg r 17 12
def State.ringCtx (s : State) (r : Nat) : Nat := s.fld .hqRingCfg r 30 19
def State.sqCap (s : State) (r : Nat) : Nat := 2 ^ s.fld .hqRingCfg r 4 0
def State.cqCap (s : State) (r : Nat) : Nat := 2 ^ s.fld .hqRingCfg r 9 5

def State.taken (s : State) (r : Nat) : Nat := (s.reg .hqRingSeq r).toNat

/-- A register pair as a 64-bit address. -/
def State.addr64 (s : State) (lo hi : RG) (i : Nat) : Nat := (s.reg lo i).toNat + 2 ^ 32 * (s.reg hi i).toNat

/-- Difference of two counts modulo 2^32 (R385). -/
def diff32 (a b : Nat) : Nat := (a + 2 ^ 32 - b % 2 ^ 32) % 2 ^ 32

def RingSt.code : RingSt → Nat
  | .disabled => 0
  | .active => 1
  | .draining => 2
  | .halted => 3
  | .fenced => 4

def State.openOn (s : State) (r : Nat) : List Sub := s.subs.filter fun x => x.ring == r && !x.replay

/-- The submission of a list that lies earliest in the ring's sequence before `taken`. -/
def earliest (taken : Nat) : List Nat → Option Nat
  | [] => none
  | q :: t =>
    match earliest taken t with
    | none => some q
    | some b => if diff32 taken b < diff32 taken q then some q else some b

/-- The record of R404. -/
def State.ringRecord (s : State) (r : Nat) : BitVec 512 :=
  let x := s.ring r
  let opens := s.openOn r
  BitVec.ofNat 512 (pack
    [(0, 12, r), (16, 8, x.st.code), (32, 32, x.arms), (64, 64, s.time.now), (128, 32, x.head), (160, 32, s.taken r),
     (192, 32, x.cqw), (224, 32, opens.length), (256, 32, (earliest (s.taken r) (opens.map (·.seq))).getD (s.taken r)),
     (288, 32, x.repDropped), (320, 32, x.repLow), (352, 32, x.repHigh), (384, 16, x.err), (416, 32, s.err.resets)])

/-- Writes a ring-state record (R405): none while the ring is FENCED, and none through a port that is fenced. -/
def State.writeRecord (s : State) (r : Nat) : State :=
  if (s.ring r).st = .fenced ∨ !s.portUp (s.ringH r) then s
  else s.emitHost (s.ringH r) (s.addr64 .hqRsrBaseLo .hqRsrBaseHi r) (.ringState (s.ringH r) r (s.addr64 .hqRsrBaseLo .hqRsrBaseHi r) (s.ringRecord r))

/-- Halts a ring (R392). The fault is recorded by the ring engines of its H-die. -/
def State.haltRing (s : State) (r code : Nat) : State :=
  let s := (s.setRing r { s.ring r with st := .halted, err := code }).setBit .hqRingEvt r 2
  let f := { FaultRec.new s code (some (dieH (s.ringH r))) 0x11 with ctx := some (s.ringCtx r), part := some (s.ringPart r) }
  (s.raise f).writeRecord r

/-- The ring's MSI-X message for an entry, with its moderation (R402). -/
def State.ringMsix (s : State) (r : Nat) : State :=
  if s.flag .hqRingCtrl r 21 then
    let mod := s.fld .hqRingCtrl r 31 22
    if mod = 0 then s.msix (s.ringH r) (s.fld .hqRingCtrl r 20 10)
    else if s.time.now < (s.ring r).winEnd then s.setRing r { s.ring r with winHit := true }
    else
      let s := s.setRing r { s.ring r with winEnd := s.time.now + 8 * mod, winHit := false }
      s.msix (s.ringH r) (s.fld .hqRingCtrl r 20 10)
  else s

/-- A DRAINING ring with no open submission enters DISABLED and writes a record (R381, R405). -/
def State.drained (s : State) (r : Nat) : State :=
  if (s.ring r).st = .draining ∧ (s.openOn r).isEmpty then
    (s.setRing r { s.ring r with st := .disabled }).writeRecord r
  else s

/-- A doorbell write is ignored (R384). -/
def State.dbIgnored (s : State) (port r : Nat) : State :=
  (s.setBit .hqRingEvt r 1).bump (dieH port) 0x11 0xC0 (2 ^ 32 - 1) 1

/-- A doorbell write reaches its ring: a 32-bit write at one of the page's offsets through the ring's own port, with the ring ACTIVE (R383,
R384). -/
def State.bellOk (s : State) (port r size : Nat) (stray : Bool) : Bool :=
  size == 4 && !stray && s.ringH r == port && (s.ring r).st == .active

/-- The record of a poisoned descriptor fetch (R408). The host window does not apply to it (R378). -/
def fetchFault (s : State) (h : Nat) : FaultRec := FaultRec.new s 0x0902 (some (dieH h)) 0x11

/-- The ring engine fetches the slots that a doorbell write has made visible, in slot order, on the ring's port (R378, R385). Through a
fenced port a fetch is poisoned at once, which halts the ring (R392, R408). -/
def State.fetchSlots (s : State) (r from_ n : Nat) : State :=
  if (s.port (s.ringH r)).fenced && decide (0 < n) then
    ((List.range n).foldl (fun s _ => s.raise (fetchFault s (s.ringH r))) s).haltRing r 0x0612
  else
    (List.range n).foldl (fun s i =>
      s.emit (.fetch (s.ringH r) r (s.addr64 .hqSqBaseLo .hqSqBaseHi r + 64 * ((from_ + i) % s.sqCap r)))) s

/-- The doorbell writes of a ring whose SQ_TAIL goes back to `v`: slots beyond it become visible with a later write (R385). -/
def cutBells (head v : Nat) (l : List (Nat × Nat)) : List (Nat × Nat) :=
  (l.filter fun p => diff32 p.1 head < diff32 v head) ++ ((l.find? fun p => diff32 v head ≤ diff32 p.1 head).map fun p => (v, p.2)).toList

/-- SQ_TAIL (R64, R378, R384, R385): the slots that become visible are fetched. A value between HEAD and the one before takes slots back. -/
def execSqTail (port : Fin 4) (ring : Fin 4096) (size : Nat) (stray : Bool) (value : Word) (s : State) : Outcome State Fault Refusal :=
  if !s.reach port.val then .next s
  else if !s.bellOk port.val ring.val size stray then .next (s.dbIgnored port.val ring.val)
  else
    let x := s.ring ring.val
    let v := value.toNat
    if diff32 v x.head > s.sqCap ring.val then .next (s.haltRing ring.val 0x0610)
    else if v = x.head ∨ v = x.tail then .next s
    else if diff32 v x.head < diff32 x.tail x.head then .next (s.setRing ring.val { x with tail := v, bells := cutBells x.head v x.bells })
    else .next ((s.setRing ring.val { x with tail := v, bells := x.bells ++ [(v, s.time.now)] }).fetchSlots ring.val x.tail (diff32 v x.tail))

/-- CQ_HEAD (R385). -/
def execCqHead (port : Fin 4) (ring : Fin 4096) (size : Nat) (stray : Bool) (value : Word) (s : State) : Outcome State Fault Refusal :=
  if !s.reach port.val then .next s
  else if !s.bellOk port.val ring.val size stray then .next (s.dbIgnored port.val ring.val)
  else
    let x := s.ring ring.val
    if diff32 x.cqw value.toNat > s.cqCap ring.val then .next (s.haltRing ring.val 0x0610)
    else .next (s.setRing ring.val { x with cqHead := value.toNat })

/-- DOORBELL_STATE_REQ (R383, R405). -/
def execDoorbellStateReq (port : Fin 4) (ring : Fin 4096) (size : Nat) (stray : Bool) (_value : Word) (s : State) : Outcome State Fault Refusal :=
  if !s.reach port.val then .next s
  else if !s.bellOk port.val ring.val size stray then .next (s.dbIgnored port.val ring.val)
  else .next (s.writeRecord ring.val)

/-! ## The descriptor (R387 to R389) -/

/-- A buffer entry of 16 bytes (R388). -/
def bufOf (n : Nat) : BufE :=
  { addr := bits n 63 0, len := bits n 95 64, dev := n.testBit 96, rd := n.testBit 97, wr := n.testBit 98 }

/-- Raw buffer entry `i` of a descriptor: two in the base slot, then four to an extension slot (R387). -/
def bufRaw (slots : List Nat) (i : Nat) : Nat :=
  if i < 2 then bits (slots.getD 0 0) (256 + 128 * i + 127) (256 + 128 * i)
  else bits (slots.getD (1 + (i - 2) / 4) 0) (128 * ((i - 2) % 4) + 127) (128 * ((i - 2) % 4))

/-- Extension slots that hold buffer entries (R387). -/
def bufSlots (nbuf : Nat) : Nat := if nbuf ≤ 2 then 0 else if nbuf ≤ 6 then 1 else 2

/-- The inline bytes of the extension slots after the buffer entries. -/
def inlineAll (slots : List Nat) (nbuf : Nat) : List Byte := (slots.drop (1 + bufSlots nbuf)).flatMap (leBytes 64)

/-- A query kind (R386). -/
def isQuery (kind : Nat) : Bool := decide (1 ≤ kind ∧ kind ≤ 0x7F)

/-- The submission that a fetched descriptor makes (R386 to R389). -/
def State.mkSub (s : State) (r : Nat) (slots : List Nat) (adm : Nat) : Sub :=
  let b := slots.getD 0 0
  let kind := bits b 7 0
  let nbuf := bits b 18 16
  let args := bits b 255 128
  { ring := r, seq := bits b 63 32, kind := kind, part := s.ringPart r, ctx := s.ringCtx r, slots := slots,
    bufs := (List.range nbuf).map fun i => bufOf (bufRaw slots i),
    inline := if isQuery kind then (inlineAll slots nbuf).take (bits args 63 48) else [],
    args := args, deadline := bits b 127 64, xpath := b.testBit 11, adm := adm, arrived := s.time.now,
    here := decide (s.ringH r = s.admitH (s.ringPart r)), st := .waiting, decided := 0, cls := 0, start := 0, resEnd := 0,
    code := 0, chargedAt := 0, done := false, ran := false, running := false, cancelled := false, held := false,
    wports := [], flush := [], flushed := false, once := [], drops := 0, detail := 0, info := 0, serial := 0, ended := [], replay := false }

/-- Arrival tick of the doorbell write that made `n` slots from `head` visible (R64, R385). -/
def bellTick (head n now : Nat) : List (Nat × Nat) → Nat
  | [] => now
  | (tail, t) :: rest => if diff32 tail head ≥ n then t else bellTick head n now rest

/-- DESCRIPTOR_FETCH_DONE (R392, R399): the ring engine takes the descriptor at HEAD, or halts the ring. A descriptor
that arrives after its admission time + 100 ticks is refused with 0x0706 (R65). -/
def execDescriptorFetchDone (ring : Fin 4096) (status : ReadStatus) (slots : List (BitVec 512)) (s : State) : Outcome State Fault Refusal :=
  let r := ring.val
  let x := s.ring r
  let avail := diff32 x.tail x.head
  if x.st ≠ .active ∨ avail = 0 then .next s
  else if status ≠ .ok ∨ slots = [] then .next (s.haltRing r 0x0612)
  else
    let raw := slots.map (·.toNat)
    let b := raw.getD 0 0
    let n := 1 + bits b 10 8
    let adm := bellTick x.head n s.time.now x.bells
    if bits b 63 32 ≠ s.taken r then .next (s.haltRing r 0x0602)
    else if avail < n then .next (s.haltRing r 0x060A)
    else if diff32 x.claimed x.cqHead ≥ s.cqCap r then
      if s.time.now ≥ adm + 100 then .next (s.haltRing r 0x0611) else .next s
    else
      let sub := s.mkSub r (raw.take n) adm
      let late := s.time.now > adm + 100
      let sub := if late then { sub with st := .refused, code := 0x0706, decided := adm + 100 } else sub
      let head := (x.head + n) % 2 ^ 32
      let x := { x with head := head, claimed := (x.claimed + 1) % 2 ^ 32, bells := x.bells.filter fun p => diff32 x.tail p.1 < diff32 x.tail head }
      let s := (s.setRing r x).setReg .hqRingSeq r (s.reg .hqRingSeq r + 1)
      .next (s.setSubs (s.subs ++ [sub]))

/-- FORWARDED_DESCRIPTOR (R25, R66): the descriptor is at the partition's admitting H-die. Descriptors from one H-die to another arrive in the
order sent. -/
def execForwardedDescriptor (ring : Fin 4096) (seq : Word) (s : State) : Outcome State Fault Refusal :=
  match s.sub? ring.val seq.toNat with
  | some x =>
    let first := s.subs.find? fun y => !y.replay && !y.here && s.ringH y.ring == s.ringH x.ring && s.admitH y.part == s.admitH x.part
    if first = some x then .next (s.setSub { x with here := true }) else .next s
  | none => .next s

/-- Refuses a submission at a tick (R65, R67). -/
def Sub.refuse (x : Sub) (code tick : Nat) : Sub :=
  { x with st := .refused, code := code, decided := tick, cancelled := true }

/-- No completion entry is free for the descriptor at HEAD 100 ticks after its admission time, whether it has been fetched or not (R392). -/
def State.noEntry (s : State) (r : Nat) : Bool :=
  let x := s.ring r
  x.st == .active && diff32 x.tail x.head != 0 && decide (diff32 x.claimed x.cqHead ≥ s.cqCap r) &&
    decide (s.time.now ≥ bellTick x.head 1 s.time.now x.bells + 100)

/-- ADMISSION_TIMEOUT (R65, R392): submissions of the ring that are not decided 100 ticks after their doorbell are refused; a descriptor for
which no completion entry is free by then halts the ring. -/
def execAdmissionTimeout (ring : Fin 4096) (s : State) : Outcome State Fault Refusal :=
  let s := s.setSubs (s.subs.map fun x =>
    if x.ring == ring.val && x.st == .waiting && decide (s.time.now ≥ x.adm + 100) then x.refuse 0x0706 (x.adm + 100) else x)
  .next (if s.noEntry ring.val then s.haltRing ring.val 0x0611 else s)

/-! ## Completions (R398 to R402) -/

/-- The submission's work has ended. With XPATH set the flush reads are sent: the last line written on each port that carried
writes of the submission, the ring's own port included (R401). One through a fenced port is poisoned at once (R408, R409). -/
def State.finish (s : State) (ring seq : Nat) : State :=
  match s.sub? ring seq with
  | none => s
  | some x =>
    if x.done then s
    else if x.xpath && x.code == 0 && !x.replay then
      let own := s.ringH ring
      let ports := if x.wports.contains own then x.wports else own :: x.wports
      let s := s.setSub { x with done := true, flush := ports, flushed := false }
      ports.foldl (fun s p =>
        if (s.port p).fenced then (s.raise (portFault s p 0x0902 x.ctx x.part)).fencedAccess p ring seq 0 x.ctx x.part
        else
          let rd : HostRead := { id := s.nextId, port := p, purpose := .flush ring seq, part := x.part, ctx := x.ctx, addr := (s.port p).lastLine, len := 256, issued := s.time.now }
          ((s.setReads (rd :: s.reads)).setNextId (s.nextId + 1)).emit (.hostRead p rd.id rd.addr rd.len)) s
    else s.setSub { x with done := true }

/-- The completion entry of R398 for entry number `n`. A LOAD that fails has no INFO. -/
def State.entry (s : State) (x : Sub) (n : Nat) : BitVec 256 :=
  let acc := x.st == .accepted
  BitVec.ofNat 256 (pack
    [(0, 32, x.seq), (32, 16, x.code), (48, 8, x.kind), (56, 1, bnat ((n / s.cqCap x.ring) % 2 == 0)), (57, 1, bnat acc),
     (58, 1, bnat (x.flushed && x.code == 0)), (64, 64, s.time.now),
     (128, 32, if isQuery x.kind then satAdd (2 ^ 32 - 1) x.drops 0 else x.detail),
     (192, 64, if isQuery x.kind then (if acc then x.start else 0) else if x.kind = 0x81 ∧ x.code ≠ 0 then 0 else x.info)])

/-- The entry of an open submission may issue: refused, failed, or done with its flush ended (R70, R71, R401). -/
def Sub.mayIssue (x : Sub) : Bool :=
  !x.replay && (x.st == .refused || (x.st == .accepted && (x.code != 0 || (x.done && (!x.xpath || x.flushed)))))

/-- Drops the entry of a submission of a FENCED ring and counts it (R410). -/
def State.dropEntry (s : State) (x : Sub) : State :=
  let r := s.ring x.ring
  let t := s.taken x.ring
  let low := if r.dropped = 0 ∨ diff32 t x.seq > diff32 t r.dropLow then x.seq else r.dropLow
  let high := if r.dropped = 0 ∨ diff32 t x.seq < diff32 t r.dropHigh then x.seq else r.dropHigh
  s.setRing x.ring { r with dropped := satAdd (2 ^ 32 - 1) r.dropped 1, dropLow := low, dropHigh := high }

/-- Work of an instance is outstanding: a transfer, a step of a G-, F- or H-die, a fabric request or a host read. -/
def State.owesWork (s : State) (ring seq : Nat) : Bool :=
  let mine := fun r : StepRef => r.ring.val == ring && r.seq.toNat == seq
  s.xfers.any (fun x => x.r.ring.val == ring && x.r.seq.toNat == seq) || s.gsteps.any (fun g => mine g.r) || s.usteps.any (fun u => mine u.r) ||
    s.fab.reqs.any (fun q => match q.purpose with | .row r _ | .send r => mine r | .upd _ _ => false) ||
    s.reads.any fun q => match q.purpose with
      | .xfer r => r.ring.val == ring && r.seq.toNat == seq
      | .glist r | .transfer r => mine r
      | .batch k n | .flush k n => k == ring && n == seq

/-- Removes a submission whose entry has been written or dropped. A failed instance is known until the tiles that it had begun are over (R87,
R119) and its outstanding work has ended (R471). -/
def State.closeSub (s : State) (ring seq : Nat) : State :=
  let mine := fun x : Sub => x.ring == ring && x.seq == seq
  let gone := (s.subs.filter fun x => mine x && x.running && x.code != 0) ++
    s.err.gone.filter fun x => decide (7 * s.time.now ≤ x.chargedAt + 1024) || s.owesWork x.ring x.seq
  (s.setSubs (s.subs.filter fun x => !mine x)).setErr { s.err with gone := gone }

/-- Results that are ready after the deadline fail with 0x0711 (R72, R73). -/
def State.lateResult (s : State) (x : Sub) : State :=
  if x.st = .accepted ∧ x.code = 0 ∧ s.time.now > x.deadline then s.charge x.ring x.seq 0 (tableFault s x.part 0x0711) else s

/-- Writes the entry of a submission that may issue, on the port of its ring's H-die (R398 to R400). The entry of a FENCED ring, and one that
falls due while the port takes no write, is dropped (R75, R408, R410). -/
def State.issueEntry (s : State) (x : Sub) : State :=
  let r := s.ring x.ring
  if r.st = .fenced ∨ !s.portUp (s.ringH x.ring) then (s.dropEntry x).closeSub x.ring x.seq
  else
    let at_ := s.addr64 .hqCqBaseLo .hqCqBaseHi x.ring + 32 * (r.cqw % s.cqCap x.ring)
    let s := s.emitHost (s.ringH x.ring) at_ (.completion (s.ringH x.ring) x.ring at_ (s.entry x r.cqw))
    let s := (s.setRing x.ring { r with cqw := (r.cqw + 1) % 2 ^ 32 }).closeSub x.ring x.seq
    (s.ringMsix x.ring).drained x.ring

/-- COMPLETION_ENTRY_ISSUE (R398, R399): one entry for the submission, on the ring's port; a success never begins after
its deadline (R72, R73). -/
def execCompletionEntryIssue (ring : Fin 4096) (seq : Word) (s : State) : Outcome State Fault Refusal :=
  let s := s.dueFaults
  match s.sub? ring.val seq.toNat with
  | none => .next s
  | some x =>
    if x.mayIssue then
      let s := s.lateResult x
      match s.sub? ring.val seq.toNat with
      | none => .next s
      | some x => .next (s.issueEntry x)
    else .next s

/-- DEADLINE_WATCH (R72, R73, R462): at the end of a deadline tick, the accepted submissions of the H-die's admission
table that are due and have no fault fail: held ones with 0x0712, ready ones with 0x0711, others with 0x0710. -/
def execDeadlineWatch (hdie : Fin 4) (s : State) : Outcome State Fault Refusal :=
  let due := s.subs.filter fun x => !x.replay && x.st == .accepted && x.code == 0 && decide (x.deadline ≤ s.time.now) && s.admitH x.part == hdie.val
  .next (due.foldl (fun s x =>
    s.charge x.ring x.seq 6 (tableFault s x.part (if x.held && !x.done then 0x0712 else if x.done then 0x0711 else 0x0710))) s)

/-- A flush read of a submission on a port has ended, with the data or without (R401). -/
def State.flushDone (s : State) (ring seq port : Nat) (ok : Bool) : State :=
  match s.sub? ring seq with
  | none => s
  | some x =>
    if x.flush.contains port then
      let s := s.setReads (s.reads.filter fun q => !(q.purpose == ReadFor.flush ring seq && q.port == port))
      if ok then
        let left := x.flush.filter (· != port)
        s.setSub { x with flush := left, flushed := left.isEmpty }
      else
        (s.setSub { x with flush := [] }).charge ring seq 0 { FaultRec.new s 0x0904 (some (dieH port)) 0x10 with part := some x.part }
    else s

/-- FLUSH_READ_DONE (R401): a cross-path flush read completes. -/
def execFlushReadDone (ring : Fin 4096) (seq : Word) (port : Fin 4) (ok : Bool) (s : State) : Outcome State Fault Refusal :=
  .next (s.flushDone ring.val seq.toNat port.val ok)

/-- MSIX_WINDOW_END (R402): the window ends; one message if an entry was written in it, and its own window begins. -/
def execMsixWindowEnd (ring : Fin 4096) (s : State) : Outcome State Fault Refusal :=
  let x := s.ring ring.val
  if x.winHit ∧ s.time.now ≥ x.winEnd then
    let s := s.setRing ring.val { x with winEnd := s.time.now + 8 * s.fld .hqRingCtrl ring.val 31 22, winHit := false }
    .next (if s.flag .hqRingCtrl ring.val 21 then s.msix (s.ringH ring.val) (s.fld .hqRingCtrl ring.val 20 10) else s)
  else .next s

/-- STATE_SUBMISSION (R405): writes a record and completes with its TIME. -/
def execStateSubmission (ring : Fin 4096) (seq : Word) (s : State) : Outcome State Fault Refusal :=
  match s.sub? ring.val seq.toNat with
  | some x =>
    if x.kind = 0x83 ∧ x.st = .accepted ∧ x.code = 0 ∧ !x.done then
      let s := s.writeRecord ring.val
      .next ((s.setSub { x with info := s.time.now }).finish ring.val seq.toNat)
    else .next s
  | none => .next s

/-- NOP_SUBMISSION (R386): completes from the control queue. -/
def execNopSubmission (ring : Fin 4096) (seq : Word) (s : State) : Outcome State Fault Refusal :=
  match s.sub? ring.val seq.toNat with
  | some x => if x.kind = 0x84 ∧ x.st = .accepted ∧ x.code = 0 ∧ !x.done then .next (s.finish ring.val seq.toNat) else .next s
  | none => .next s

/-! ## Ring control (R380, R381) -/

/-- A valid context of a partition (R346). -/
def State.ctxValid (s : State) (c : Nat) : Bool := s.flag .xltCtxA c 6
def State.ctxPart (s : State) (c : Nat) : Nat := s.fld .xltCtxA c 5 0

/-- The checks of an arming (R380). -/
def State.mayArm (s : State) (r : Nat) : Bool :=
  let c := s.ringCtx r
  let h := s.ringH r
  (s.ring r).st == .disabled &&
  s.fld .hqSqBaseLo r 11 0 == 0 && s.fld .hqCqBaseLo r 11 0 == 0 && s.fld .hqRsrBaseLo r 5 0 == 0 &&
  decide (6 ≤ s.fld .hqRingCfg r 4 0 ∧ s.fld .hqRingCfg r 4 0 ≤ 16) && decide (6 ≤ s.fld .hqRingCfg r 9 5 ∧ s.fld .hqRingCfg r 9 5 ≤ 16) &&
  s.ctxValid c && s.ctxPart c == s.ringPart r &&
  !s.excluded (dieH h) && !(s.port h).cxl && (s.part (s.ringPart r)).st != .idle

/-- The port's fence falls when a ring is armed on it and its link is in DL_Active (R411). -/
def State.liftFence (s : State) (h : Nat) : State :=
  let p := s.port h
  if p.fenced && (p.link == .up || p.link == .degraded) then s.setPort h { p with fenced := false } else s

/-- Arms a ring (R380): counts return to 0, TAKEN stays, and a record is written. -/
def State.armRing (s : State) (r : Nat) : State :=
  let x := s.ring r
  let s := s.setReg .hqRingCtrl r (setBits (s.reg .hqRingCtrl r) 0 0 1)
  let s := s.setRing r { x with st := .active, err := 0, head := 0, tail := 0, bells := [], claimed := 0, cqw := 0, cqHead := 0,
                                arms := x.arms + 1, repDropped := x.dropped, repLow := x.dropLow, repHigh := x.dropHigh,
                                dropped := 0, dropLow := 0, dropHigh := 0 }
  (s.liftFence (s.ringH r)).writeRecord r

/-- Stops a ring taking descriptors (R381). A ring that leaves FENCED has dropped the entry of every submission it had open (R410). -/
def State.disarmRing (s : State) (r : Nat) : State :=
  let x := s.ring r
  let s := s.setReg .hqRingCtrl r (setBits (s.reg .hqRingCtrl r) 0 0 0)
  match x.st with
  | .fenced =>
    let s := (s.openOn r).foldl (fun s x => (s.dropEntry x).closeSub x.ring x.seq) s
    s.setRing r { s.ring r with st := .disabled }
  | .active | .halted => (s.setRing r { x with st := .draining }).drained r
  | .disabled | .draining => s

/-- A write of HQ_RING_CTRL (R379 to R381, R405). -/
def State.writeRingCtrl (s : State) (r : Nat) (w : Word) : State :=
  let was := s.flag .hqRingCtrl r 0
  let s := s.putRw .hqRingCtrl r (setBits w 0 0 (bnat was))
  let s :=
    if !was && wbit w 0 then
      if s.mayArm r then s.armRing r else (s.setBit .hqRingEvt r 0).regErr (RG.off .hqRingCtrl r) 4
    else if was && !wbit w 0 then s.disarmRing r
    else s
  if wbit w 1 then s.writeRecord r else s

/-- RING_EN_ARM (R380): a write of EN from 0 to 1. -/
def execRingEnArm (port : Fin 4) (ring : Fin 4096) (w : Word) (s : State) : Outcome State Fault Refusal :=
  if s.reach port.val ∧ wbit w 0 ∧ !s.flag .hqRingCtrl ring.val 0 then .next (s.writeRingCtrl ring.val w) else .next s

/-- RING_EN_DISARM (R381): a write of EN from 1 to 0. -/
def execRingEnDisarm (port : Fin 4) (ring : Fin 4096) (w : Word) (s : State) : Outcome State Fault Refusal :=
  if s.reach port.val ∧ !wbit w 0 ∧ s.flag .hqRingCtrl ring.val 0 then .next (s.writeRingCtrl ring.val w) else .next s

/-- RING_STATE_REQ (R405): a write of STATE_REQ that keeps EN. -/
def execRingStateReq (port : Fin 4) (ring : Fin 4096) (w : Word) (s : State) : Outcome State Fault Refusal :=
  if s.reach port.val ∧ wbit w 1 ∧ wbit w 0 = s.flag .hqRingCtrl ring.val 0 then .next (s.writeRingCtrl ring.val w) else .next s

/-- A write of HQ_RING_SEQ (R379): ignored while the ring is ACTIVE or DRAINING. -/
def State.writeRingSeq (s : State) (r : Nat) (w : Word) : State :=
  if (s.ring r).st = .active ∨ (s.ring r).st = .draining then
    if w = s.reg .hqRingSeq r then s else s.regErr (RG.off .hqRingSeq r) 4
  else s.setReg .hqRingSeq r w

/-- HQ_RING_SEQ_WRITE (R379). -/
def execHqRingSeqWrite (port : Fin 4) (ring : Fin 4096) (w : Word) (s : State) : Outcome State Fault Refusal :=
  if s.reach port.val then .next (s.writeRingSeq ring.val w) else .next s

/-- A write of a ring's base or HQ_RING_CFG (R380): only in DISABLED; a write that would change it elsewhere is ignored. -/
def State.writeRingCfg (s : State) (g : RG) (r : Nat) (w : Word) : State :=
  if (s.ring r).st = .disabled then s.putRw g r w
  else if (w &&& g.row.rw) = s.reg g r then s
  else (s.setBit .hqRingEvt r 0).regErr (g.off r) 4

end Sys2Proof.Machine
end

