-- ==== Sys2Proof/Machine/Agents.lean ====
section
/-! DEFINITION. Translation of `dev:` addresses and the memory-side agents: the region table, the placing of a line, the
checks of a request, the write-combining and transpose buffers (10; R343 to R358 of 11). -/

namespace Sys2Proof.Machine

open Sys2Proof

/-! ## Translation (R343 to R357) -/

/-- Bytes of a page of size code 0, 1 or 2 (R360). -/
def pageBytes (psz : Nat) : Nat := if psz = 0 then 2 ^ 16 else if psz = 1 then 2 ^ 21 else 2 ^ 30

/-- The run of present pages of a context that covers a `dev:` address (R355, R357). -/
def State.pageOf (s : State) (ctx va : Nat) : Option PageRun :=
  s.xlt.pages.find? fun p => p.ctx == ctx && decide (p.va ≤ va ∧ va < p.va + p.n * pageBytes p.psz)

/-- Outcome of a translation: memory address and generation, or the code of R357. -/
def State.translate (s : State) (ctx va : Nat) (write : Bool) : Except Nat (Nat × Nat) :=
  match s.pageOf ctx va with
  | none => .error 0x0401
  | some p => if write && !p.w then .error 0x0402 else .ok (p.mem + (va - p.va), (s.ctxGen ctx).gen)

/-- Partition that owns way `w` of a die's die-shared SRAM or row cache, none if it is free (R330, R572). -/
def State.wayOwner (s : State) (g : RG) (i w : Nat) : Option Nat :=
  let r := s.reg g (4 * i + w / 4)
  let k := 8 * (w % 4)
  if wbit r (k + 6) then some (wbits r (k + 5) k) else none

/-- A die's second-level translation buffer holds the entries of a partition's contexts: a C-die with a core of it, a G-die with a row-cache
way of it, and every H-die and F-die (R353). -/
def State.xltHolds (s : State) (p die : Nat) : Bool :=
  if die < 32 then (List.range 8).any fun k => s.flag .sysCoreOwn (8 * die + k) 6 && s.fld .sysCoreOwn (8 * die + k) 5 0 == p
  else if die < 48 then (List.range 16).any fun w => s.wayOwner .gthRway (die - 32) w == some p
  else true

/-- Outcome of a translation on a die (R353, R357). The first-level buffers of R354 change no outcome and no cycle. -/
def State.translateAt (s : State) (die ctx va : Nat) (write : Bool) : Except Nat (Nat × Nat) :=
  if s.xltHolds (s.ctxPart ctx) die then s.translate ctx va write else .error 0x0401

/-- Every byte of a `dev:` buffer is mapped, and writable where `write` (R391): checked at each 64 KiB step. -/
def State.mappedAll (s : State) (ctx va len : Nat) (write : Bool) : Bool :=
  len == 0 || (List.range ((va + len - 1) / 2 ^ 16 - va / 2 ^ 16 + 1)).all fun i =>
    match s.pageOf ctx (va / 2 ^ 16 * 2 ^ 16 + i * 2 ^ 16) with
    | none => false
    | some p => !write || p.w

/-! ## Regions and placement (R307 to R314) -/

/-- Set bits of a mask, in rising order. -/
def bitList (m : Nat) : List Nat := (List.range 32).filter fun i => m.testBit i

/-- A region as its registers describe it (R308, R309). -/
structure Region where
  base : Nat
  size : Nat
  stackList : List Nat
  chans : List Nat
  mode : Nat
  owner : Nat
  v : Bool
  pcBase : Nat
  trn : Nat
  rowlock : Bool
  deriving DecidableEq, Repr

def State.region (s : State) (i : Nat) : Region :=
  let d := s.reg .memRgnD i
  { base := s.fld .memRgnA i 10 0, size := s.fld .memRgnA i 23 12, stackList := bitList (s.reg .memRgnB i).toNat,
    chans := bitList (s.reg .memRgnC i).toNat, mode := wbits d 1 0, owner := wbits d 7 2, v := wbit d 8,
    pcBase := wbits d 19 9, trn := wbits d 21 20, rowlock := wbit d 22 }

/-- Pseudo-channels of a region, on one stack for LOCAL (R309). -/
def Region.n (r : Region) : Nat := if r.mode = 3 then 2 * r.chans.length else 2 * r.stackList.length * r.chans.length

def gib : Nat := 2 ^ 30

/-- Memory address in the region's range. -/
def Region.covers (r : Region) (a : Nat) : Bool := r.v && decide (r.base * gib ≤ a ∧ a < (r.base + r.size) * gib)

/-- The valid region that holds a memory address (R307). -/
def State.regionOf (s : State) (a : Nat) : Option Nat := (List.range 256).find? fun i => (s.region i).covers a

/-- XOR of the n-bit fields of k (R312). -/
def xorFold (n k : Nat) : Nat := (List.range 34).foldl (fun p i => Nat.xor p ((k >>> (i * n)) % 2 ^ n)) 0

/-- Slot index and line offset of line k of a region (R312). -/
def Region.slot (r : Region) (k : Nat) : Nat × Nat :=
  if r.mode = 1 then
    let per := r.size * 2 ^ 22 / r.stackList.length
    let c2 := 2 * r.chans.length
    (k / per * c2 + k % per % c2, k % per / c2)
  else
    let n := Nat.log2 r.n
    (xorFold n k, k >>> n)

/-- Device-wide pseudo-channel (2 × channel index + PC) and line of a memory address of a region; `cdie` is the
requesting C-die, which LOCAL uses (R312, R313). None where LOCAL does not reach. -/
def Region.place (r : Region) (a : Nat) (cdie : Option Nat) : Option (Nat × Nat) :=
  let k := (a - r.base * gib) / 256
  let (p, o) := r.slot k
  let ch := r.chans.getD (p / 2 % r.chans.length) 0
  let line := r.pcBase * 2048 + o
  if r.mode = 3 then
    match cdie with
    | some c => if r.stackList.contains c then some (2 * (32 * c + ch) + p % 2, line) else none
    | none => none
  else some (2 * (32 * r.stackList.getD (p / (2 * r.chans.length)) 0 + ch) + p % 2, line)

/-- A request as an agent sees it. -/
structure Req where
  addr : Nat
  ctx : Nat
  gen : Nat
  /-- mesh index of the requesting die, its C-die if it is a core or DMA engine, and whether it is an update unit -/
  die : Nat
  cdie : Option Nat
  upd : Bool
  deriving DecidableEq, Repr

/-- Generation `g` is older than FLOOR, modulo 256 (R363). -/
def genOld (floor g : Nat) : Bool :=
  let d := (floor + 256 - g % 256) % 256
  decide (0 < d ∧ d < 128)

/-- The context is valid, owns the region and its generation is not withdrawn (R358). -/
def State.ownerOk (s : State) (ctx gen owner : Nat) : Bool :=
  s.ctxValid ctx && s.ctxPart ctx == owner && !genOld (s.ctxGen ctx).floor gen

/-- The checks of an agent in their order (R307, R313, R358, R311): the code, or region, pseudo-channel and line. -/
def State.agentCheck (s : State) (q : Req) (write : Bool) : Except Nat (Nat × Nat × Nat) :=
  match s.regionOf q.addr with
  | none => .error 0x0480
  | some i =>
    let r := s.region i
    match r.place q.addr q.cdie with
    | none => .error 0x0481
    | some (pc, line) =>
      if !s.ownerOk q.ctx q.gen r.owner then .error 0x0403
      else if write && r.rowlock && !q.upd then .error 0x0482
      else .ok (i, pc, line)

/-- The record of a refused request: context, memory address and the mesh index of the requester (R307, R313, R358;
its UNIT is the requester's mesh switch, log 43). -/
def agentFault (s : State) (q : Req) (code : Nat) : FaultRec :=
  { FaultRec.new s code (some q.die) 0xC0 with ctx := some q.ctx, part := some (s.ctxPart q.ctx), dkind := 1, detail := q.addr }

/-- C-die and channel unit of a pseudo-channel (R301, R523). -/
def pcDie (pc : Nat) : Nat := pc / 64
def pcUnit (pc : Nat) : Nat := 0x90 + pc / 2 % 32

/-! ## Lines, the write-combining buffer and the transpose buffers (R316 to R319, R335 to R337) -/

/-- HBM store address of a line. -/
def hbmAt (pc line : Nat) : Nat := (pc * 2 ^ 22 + line) * 256

def MemS.storedLine (m : MemS) (pc line : Nat) : List Gran := m.readGrans .hbm (hbmAt pc line) 16

/-- Bits [16j + 15:16j] of a byte mask. -/
def gmask (mask : BitVec 256) (j : Nat) : Nat := bits mask.toNat (16 * j + 15) (16 * j)

/-- Bytes of a granule replaced where the mask has a 1. -/
def mixBytes (mask i : Nat) : List Byte → List Byte → List Byte
  | o :: os, n :: ns => (if mask.testBit i then n else o) :: mixBytes mask (i + 1) os ns
  | os, _ => os

/-- Granules that a byte mask touches. -/
def maskTouched (mask : BitVec 256) : BitVec 16 := BitVec.ofNat 16 (pack ((List.range 16).map fun j => (j, 1, bnat (gmask mask j != 0))))

/-- Granules that a byte mask covers whole. -/
def maskCovered (mask : BitVec 256) : BitVec 16 := BitVec.ofNat 16 (pack ((List.range 16).map fun j => (j, 1, bnat (gmask mask j == 2 ^ 16 - 1))))

/-- Poison of the granules of a buffered line under a further write: a whole granule takes the write's, part of one adds it (R319, R323). -/
def mixPoison (old : BitVec 16) (mask : BitVec 256) (gp : BitVec 16) : BitVec 16 := (old &&& ~~~maskCovered mask) ||| (gp &&& maskTouched mask)

/-- A granule under a write of `mask` bytes: a whole granule is replaced with its poison; part of one is dropped where
the granule is poisoned (R319), and poisons it where the bytes come from a poisoned granule (R321, R323). -/
def mixGran (old : Gran) (mask : Nat) (new : List Byte) (p : Bool) : Gran :=
  if mask = 0 then old
  else if mask = 2 ^ 16 - 1 then { data := BitVec.ofNat 128 (leNat new), poison := p }
  else if old.poison then old
  else { data := BitVec.ofNat 128 (leNat (mixBytes mask 0 (granBytes old) new)), poison := p }

/-- A line under a write. -/
def mixLine (mask : BitVec 256) (gp : BitVec 16) (j : Nat) : List Gran → List Byte → List Gran
  | [], _ => []
  | g :: gs, bs => mixGran g (gmask mask j) (bs.take 16) (gp.toNat.testBit j) :: mixLine mask gp (j + 1) gs (bs.drop 16)

/-- The line as every read sees it: the stored line under the combining entries, oldest first (R317). -/
def MemS.seenLine (m : MemS) (pc line : Nat) : List Gran :=
  (m.wcb.filter fun e => e.pc == pc && e.line == line).foldl (fun l e => mixLine e.mask e.gpoison 0 l e.data) (m.storedLine pc line)

/-- Some granule of the mask is maskCovered in part: a sub-granule write (R316). -/
def subGranule (mask : BitVec 256) : Bool := (List.range 16).any fun j => gmask mask j != 0 && gmask mask j != 2 ^ 16 - 1

/-- Bytes of a sub-granule write that fall on poisoned granules are dropped (R319). -/
def liveMask (mask : BitVec 256) (seen : List Gran) : BitVec 256 :=
  BitVec.ofNat 256 (pack ((List.range 16).map fun j =>
    let k := gmask mask j
    (16 * j, 16, if k != 2 ^ 16 - 1 && (seen.getD j { data := 0, poison := false }).poison then 0 else k)))

/-- An entry of a write-combining buffer is written over the stored line (R317). -/
def MemS.putEntry (m : MemS) (e : WcEntry) : MemS :=
  m.writeGrans .hbm (hbmAt e.pc e.line) (mixLine e.mask e.gpoison 0 (m.storedLine e.pc e.line) e.data)

/-- Puts a write into the combining buffer: writes of one memory slot to one line merge (R317). -/
def MemS.combine (m : MemS) (pc line slot : Nat) (mask : BitVec 256) (data : List Byte) (gp : BitVec 16) : MemS :=
  let same := fun e : WcEntry => e.pc == pc && e.line == line && e.slot == slot
  match m.wcb.find? same with
  | some e =>
    let e' := { e with mask := e.mask ||| mask, data := mixBytes mask.toNat 0 e.data data,
                       gpoison := mixPoison e.gpoison mask gp, sub := e.sub || subGranule mask }
    { m with wcb := m.wcb.map fun x => if same x then e' else x }
  | none =>
    { m with wcb := m.wcb ++ [{ pc := pc, line := line, mask := mask, data := mixBytes mask.toNat 0 (leBytes 256 0) data,
                                gpoison := gp &&& maskTouched mask, sub := subGranule mask, slot := slot, reading := false }] }

/-- A write into poison is counted in the channel's history: one whose bytes are not all live (R319). -/
def State.lostBytes (s : State) (pc : Nat) (mask live : BitVec 256) : State :=
  if (List.range 16).all fun j => gmask mask j == gmask live j then s else s.bump (pcDie pc) (pcUnit pc) 0xD4 (2 ^ 32 - 1) 1

/-- A write of a line at an agent (R316, R317, R319). -/
def State.writeLine (s : State) (pc line : Nat) (mask : BitVec 256) (data : List Byte) (gp : BitVec 16) : State :=
  let live := liveMask mask (s.mem.seenLine pc line)
  let s := s.lostBytes pc mask live
  if live = 0 then s else s.setMem (s.mem.combine pc line (s.time.now / 4) live data gp)

/-- Element size of a transposing layout (R309, R335). -/
def Region.esize (r : Region) : Nat := if r.trn = 3 then 4 else r.trn

/-- Bytes of a block of 128 × 128 elements. -/
def blockBytes (esize : Nat) : Nat := 16384 * esize

/-- Byte offset in writing order ↔ in stored order: element (r, c) lies at (c, r) (R335). -/
def turnByte (esize o : Nat) : Nat :=
  let e := o / esize
  (e % 128 * 128 + e / 128) * esize + o % esize

def TBlock.byteOf (b : TBlock) (o : Nat) : Option (Byte × Bool) :=
  match b.lines.find? fun l => l.line == o / 256 with
  | none => none
  | some l => if l.mask.toNat.testBit (o % 256) then some (l.data.getD (o % 256) 0, l.gpoison.toNat.testBit (o % 256 / 16)) else none

/-- Stored granule j of a block with its buffered lines: `old` supplies what has not been written, and where `close`
is set such a granule is poisoned (R336, R337, R334). -/
def TBlock.gran (b : TBlock) (old : Gran) (j : Nat) (close : Bool) : Gran :=
  let cells := (List.range 16).map fun i => b.byteOf (turnByte b.esize (16 * j + i))
  let bytes := (cells.zip (granBytes old)).map fun p => match p.1 with | some (x, _) => x | none => p.2
  let bad := cells.any fun c => match c with | some (_, p) => p | none => close || old.poison
  { data := BitVec.ofNat 128 (leNat bytes), poison := bad }

/-- Pseudo-channel and line of line k of a block, for the C-die whose agents hold it. -/
def State.blockPlace (s : State) (b : TBlock) (k : Nat) : Nat × Nat :=
  ((s.region b.region).place (b.block * blockBytes b.esize + 256 * k) (some b.cdie)).getD (0, 0)

/-- The open buffer of a block. -/
def State.blockOf (s : State) (region block cdie : Nat) : Option TBlock :=
  s.mem.blocks.find? fun b => b.region == region && b.block == block && b.cdie == cdie

/-- The line of a served request, in its stored layout (R317, R336). -/
def State.lineOf (s : State) (i pc line addr : Nat) : List Gran :=
  let seen := s.mem.seenLine pc line
  let r := s.region i
  if r.trn = 0 then seen
  else
    match s.blockOf i (addr / blockBytes r.esize) (pcDie pc) with
    | none => seen
    | some b => (List.range 16).map fun j => b.gran (seen.getD j { data := 0, poison := false }) (addr % blockBytes r.esize / 256 * 16 + j) false

/-- Every line of the block has been written whole. -/
def TBlock.full (b : TBlock) : Bool :=
  (List.range (64 * b.esize)).all fun k => b.lines.any fun l => l.line == k && l.mask == BitVec.allOnes 256

/-- The buffered line of a block that holds a byte offset. -/
def TBlock.lineAt (b : TBlock) (k : Nat) : TLine := (b.lines.find? (·.line == k)).getD { line := k, mask := 0, data := leBytes 256 0, gpoison := 0 }

/-- The granules of a buffered line, as far as their poison goes. -/
def TLine.marks (l : TLine) : List Gran := (List.range 16).map fun j => { data := 0, poison := l.gpoison.toNat.testBit j }

/-- A block with a further write in it. -/
def TBlock.add (b : TBlock) (l : TLine) : TBlock :=
  let b := { b with lines := l :: b.lines.filter fun x => x.line != l.line }
  { b with complete := b.full }

/-- A write enters the buffer of its block (R319, R336): none where a fifth block would have to open, or the block is about to be stored. -/
def State.enterBlock (s : State) (w : TWait) : Option State :=
  let size := blockBytes (s.region w.region).esize
  let c := pcDie w.pc
  let put (b : TBlock) : TBlock × BitVec 256 :=
    let l := b.lineAt (w.addr % size / 256)
    let live := liveMask w.mask l.marks
    (b.add { l with mask := l.mask ||| live, data := mixBytes live.toNat 0 l.data w.data, gpoison := mixPoison l.gpoison live w.gpoison }, live)
  match s.blockOf w.region (w.addr / size) c with
  | some b =>
    if b.complete then none
    else
      let (b', live) := put b
      let s := s.lostBytes w.pc w.mask live
      some (s.setMem { s.mem with blocks := s.mem.blocks.map fun x =>
        if x.region == w.region && x.block == w.addr / size && x.cdie == c then b' else x })
  | none =>
    if (s.mem.blocks.filter fun b => b.cdie == c).length ≥ 4 then none
    else
      let b : TBlock := { cdie := c, region := w.region, block := w.addr / size, esize := (s.region w.region).esize, ctx := w.ctx,
                          opened := s.time.now, lines := [], complete := false }
      some (s.setMem { s.mem with blocks := s.mem.blocks ++ [(put b).1] })

/-- A write into a transposing region (R336): one that finds no buffer waits until one frees. Requests behind it are served meanwhile
(DESIGN CHOICE, log 118). -/
def State.writeBlock (s : State) (w : TWait) : State :=
  match s.enterBlock w with
  | some t => t
  | none => s.setMem { s.mem with waits := s.mem.waits ++ [w] }

/-- A block's buffer is freed, and the writes that waited at its C-die's agents are served, oldest first (R336). -/
def State.freeBlock (s : State) (b : TBlock) : State :=
  let ours := fun (w : TWait) => pcDie w.pc == b.cdie
  let ws := s.mem.waits.filter ours
  let s := s.setMem { s.mem with blocks := s.mem.blocks.filter fun x => !(x.region == b.region && x.block == b.block && x.cdie == b.cdie),
                                 waits := s.mem.waits.filter fun w => !ours w }
  ws.foldl (fun s w => s.writeBlock w) s

/-- Stores line `k` of a block transposed; unwritten elements poison their granules (R336, R337). -/
def State.storeTurned (s : State) (b : TBlock) (k : Nat) : State :=
  let (pc, line) := s.blockPlace b k
  let old := s.mem.seenLine pc line
  let new := (List.range 16).map fun j => b.gran (old.getD j { data := 0, poison := false }) (16 * k + j) true
  let m := { s.mem with wcb := s.mem.wcb.filter fun e => !(e.pc == pc && e.line == line) }
  s.setMem (m.writeGrans .hbm (hbmAt pc line) new)

/-- A block is stored transposed and its buffer freed. In a region that ROWLOCK has come to hold meanwhile the layout's write changes
nothing: it is refused with 0x0482 (R311; that its record names the agents' own die is log 118). -/
def State.storeBlock (s : State) (b : TBlock) : State :=
  if (s.region b.region).rowlock then
    let q : Req := { addr := b.block * blockBytes b.esize, ctx := b.ctx, gen := 0, die := b.cdie, cdie := some b.cdie, upd := false }
    (s.freeBlock b).raise (agentFault s q 0x0482) |>.emit (.memRefused b.ctx 0x0482)
  else ((List.range (64 * b.esize)).foldl (fun s k => s.storeTurned b k) s).freeBlock b

/-- `n` poisoned granules. -/
def poisonGrans (n : Nat) : List Gran := List.replicate n { data := 0, poison := true }

/-- Sixteen poisoned granules, the answer to a request that is not served. -/
def poisonLine : List Gran := poisonGrans 16

/-- A channel that does not answer (R477). -/
def State.deaf (s : State) (pc : Nat) : Bool := s.mem.deaf.contains (pc / 2)

/-- A read of the line that holds a memory address: its granules, the code that refused it (0 for none), and the
state with the record (R307, R313, R315, R358, R477). -/
def State.agentRead (s : State) (q : Req) : List Gran × Nat × State :=
  match s.agentCheck q false with
  | .error c => (poisonLine, c, s.raise (agentFault s q c))
  | .ok (i, pc, line) =>
    if s.deaf pc then (poisonLine, 0, s.raise { FaultRec.new s 0x0501 (some (pcDie pc)) (pcUnit pc) with ctx := some q.ctx })
    else (s.lineOf i pc line q.addr, 0, s)

/-- A write to the line that holds a memory address: the code that refused it (0 for none) and the next state (R307, R311, R313, R315,
R358, R477). A write under a withdrawn generation is refused with 0x0411 (R365, R437). -/
def State.agentWrite (s : State) (q : Req) (mask : BitVec 256) (data : List Byte) (gp : BitVec 16) : Nat × State :=
  match s.agentCheck q true with
  | .error c =>
    let code := if c = 0x0403 ∧ s.ctxValid q.ctx ∧ genOld (s.ctxGen q.ctx).floor q.gen then 0x0411 else c
    (code, s.raise (agentFault s q code))
  | .ok (i, pc, line) =>
    if s.deaf pc then (0, s.raise { FaultRec.new s 0x0501 (some (pcDie pc)) (pcUnit pc) with ctx := some q.ctx })
    else if (s.region i).trn ≠ 0 then
      (0, s.writeBlock { region := i, pc := pc, addr := q.addr, ctx := q.ctx, mask := mask, data := data, gpoison := gp })
    else (0, s.writeLine pc line mask data gp)

/-! ## Spans of memory, as the engines use them -/

/-- The requester of an engine: mesh index of its die, its C-die where it is a core or DMA engine. -/
structure Who where
  die : Nat
  cdie : Option Nat
  upd : Bool
  deriving DecidableEq, Repr

def Who.core (c : Nat) : Who := { die := c / 8, cdie := some (c / 8), upd := false }
def Who.die_ (d : Nat) : Who := { die := d, cdie := none, upd := false }
def Who.updater (g : Nat) : Who := { die := dieG g, cdie := none, upd := true }

/-- First addresses of a span on the pages that it touches. -/
def pageStarts (va n : Nat) : List Nat :=
  (List.range (if n = 0 then 0 else (va + n - 1) / 2 ^ 16 - va / 2 ^ 16 + 1)).map fun i => max va ((va / 2 ^ 16 + i) * 2 ^ 16)

/-- The translation-buffer entry that maps an address of a run: the largest merged run of up to 16 pages, aligned in both spaces (R355). -/
def PageRun.entryAt (p : PageRun) (va : Nat) : PageRun :=
  let b := pageBytes p.psz
  let lo := fun k => va / b / 2 ^ k * 2 ^ k * b
  let fits := fun k => decide (p.va ≤ lo k ∧ lo k + 2 ^ k * b ≤ p.va + p.n * b ∧ p.va / b % 2 ^ k = p.mem / b % 2 ^ k)
  let k := ((List.range 5).filter fits).getLast?.getD 0
  { p with va := lo k, n := 2 ^ k, mem := p.mem + (lo k - p.va) }

/-- Engine whose first-level buffer a requester of a die uses (R354). -/
def Who.first (w : Who) : Nat := 256 * w.die + if w.die < 48 then (if w.upd then 2 else 1) else if w.die < 56 then 0x29 else 0x11

/-- A lookup fills the first-level buffer of an engine from its die's second level (R354); the latest 64 entries stay (log 165). No outcome
and no cycle depends on it. -/
def State.fillFirst (s : State) (k ctx va n : Nat) : State :=
  if !s.xltHolds (s.ctxPart ctx) (k / 256) then s
  else
    let gen := (s.ctxGen ctx).gen
    let l := ((pageStarts va n).filterMap fun a => (s.pageOf ctx a).map fun p => (p.entryAt a, gen)).dedup.reverse
    let old := (smGet [] s.mem.first k).filter fun e => !l.contains e && (e.1.ctx != ctx || e.2 == gen)
    s.setMem { s.mem with first := smSet [] s.mem.first k ((l ++ old).take 64) }

/-- Entries of pages that leave a context leave every first-level buffer (R364). -/
def MemS.dropFirst (m : MemS) (gone : PageRun → Bool) : MemS :=
  { m with first := m.first.map fun x => (x.1, x.2.filter fun e => !gone e.1) }

/-- The page runs of a context that a span touches, as an engine of a die looks them up (R353, R357). -/
def State.pagesOf (s : State) (die ctx va n : Nat) : List PageRun :=
  s.xlt.pages.filter fun p => s.xltHolds (s.ctxPart ctx) die && p.ctx == ctx && decide (p.va < va + n ∧ va < p.va + p.n * pageBytes p.psz)

/-- Translation by page runs looked up earlier, under their generation. -/
def translateBy (pages : List PageRun) (gen ctx va : Nat) (write : Bool) : Except Nat (Nat × Nat) :=
  match pages.find? fun p => p.ctx == ctx && decide (p.va ≤ va ∧ va < p.va + p.n * pageBytes p.psz) with
  | none => .error 0x0401
  | some p => if write && !p.w then .error 0x0402 else .ok (p.mem + (va - p.va), gen)

/-- A code that the requester charges; any other that an access meets is recorded only (R307, R311, R313, R357 to R359). -/
def owed (c : Nat) : Bool := c == 0x0401 || c == 0x0402 || c == 0x0403 || c == 0x0404 || c == 0x0482

/-- The code of an access of two parts: the first that the requester owes, else the first. -/
def mixCode (c c' : Nat) : Nat := if owed c then c else if owed c' then c' else if c ≠ 0 then c else c'

/-- Reads granules from `va` through a translation; `first` says that this is the first of the access. The granules of one line are one
request, so a line that is refused is recorded once. -/
def State.devReadFrom (s : State) (tr : Nat → Bool → Except Nat (Nat × Nat)) (w : Who) (ctx : Nat) (first : Bool) (va : Nat) : Nat → List Gran × Nat × State
  | 0 => ([], 0, s)
  | k + 1 =>
    let (g, c, s) : Gran × Nat × State :=
      match tr va false with
      | .error c => ({ data := 0, poison := true }, c, s)
      | .ok (a, gen) =>
        let (l, c, t) := s.agentRead { addr := a, ctx := ctx, gen := gen, die := w.die, cdie := w.cdie, upd := w.upd }
        (l.getD (a % 256 / 16) { data := 0, poison := true }, c, if first || va % 256 == 0 then t else s)
    let (gs, c', s) := s.devReadFrom tr w ctx false (va + 16) k
    (g :: gs, mixCode c c', s)

/-- Reads `n` granules from `va` through a translation. Answers the granules, the code met and the state. -/
def State.devReadBy (s : State) (tr : Nat → Bool → Except Nat (Nat × Nat)) (w : Who) (ctx va n : Nat) : List Gran × Nat × State :=
  s.devReadFrom tr w ctx true va n

/-- A write that no memory takes: an agent refuses it, or its channel does not answer. -/
def State.writeFails (s : State) (q : Req) : Bool :=
  match s.agentCheck q true with
  | .error _ => true
  | .ok (_, pc, _) => s.deaf pc

/-- Writes granules from `va` through a translation; a granule whose page or agent refuses it is not written, and a line that is refused
is recorded once. -/
def State.devWriteFrom (s : State) (tr : Nat → Bool → Except Nat (Nat × Nat)) (w : Who) (ctx : Nat) (first : Bool) (va : Nat) : List Gran → Nat × State
  | [] => (0, s)
  | g :: t =>
    let (c, s) : Nat × State :=
      match tr va true with
      | .error c => (c, s)
      | .ok (a, gen) =>
        let j := a % 256 / 16
        let q : Req := { addr := a, ctx := ctx, gen := gen, die := w.die, cdie := w.cdie, upd := w.upd }
        let r := s.agentWrite q (BitVec.ofNat 256 ((2 ^ 16 - 1) * 2 ^ (16 * j))) (List.replicate (16 * j) 0 ++ granBytes g) (BitVec.ofNat 16 (bnat g.poison * 2 ^ j))
        if !first && va % 256 != 0 && s.writeFails q then (r.1, s) else r
    let (c', s) := s.devWriteFrom tr w ctx false (va + 16) t
    (mixCode c c', s)

/-- Writes granules from `va` through a translation. -/
def State.devWriteBy (s : State) (tr : Nat → Bool → Except Nat (Nat × Nat)) (w : Who) (ctx va : Nat) (l : List Gran) : Nat × State :=
  s.devWriteFrom tr w ctx true va l

/-- Reads `n` granules of a context's `dev:` space from `va`. Answers the granules, the first code met and the state. -/
def State.devRead (s : State) (w : Who) (ctx va n : Nat) : List Gran × Nat × State :=
  (s.fillFirst w.first ctx va (16 * n)).devReadBy (s.translateAt w.die ctx) w ctx va n

/-- Writes granules of a context's `dev:` space from `va`. -/
def State.devWrite (s : State) (w : Who) (ctx va : Nat) (l : List Gran) : Nat × State :=
  (s.fillFirst w.first ctx va (16 * l.length)).devWriteBy (s.translateAt w.die ctx) w ctx va l

/-! ## Die-shared SRAM (R330) -/

/-- A way is owned by a partition and has been cleared (R330). -/
def State.wayOk (s : State) (cdie off part : Nat) : Bool :=
  s.wayOwner .memSway cdie (off / 2 ^ 21) == some part && !s.mem.wayClear.contains (16 * cdie + off / 2 ^ 21)

def shAt (cdie off : Nat) : Nat := cdie * 2 ^ 25 + off

/-- The record of a refused die-shared access (R330, R329): DKIND 9, store 3. -/
def wayFault (s : State) (die ctx part off : Nat) : FaultRec :=
  { FaultRec.new s 0x0403 (some die) 0xC0 with ctx := some ctx, part := some part, dkind := 9, detail := off + 3 * 2 ^ 32 }

/-- Reads granules of die-shared SRAM; a way that the partition does not own answers poison (R330). -/
def State.sharedRead (s : State) (cdie part off : Nat) : Nat → List Gran × Nat
  | 0 => ([], 0)
  | k + 1 =>
    let (gs, c) := s.sharedRead cdie part (off + 16) k
    if s.wayOk cdie off part then (s.mem.readGran .shared (shAt cdie off) :: gs, c)
    else ({ data := 0, poison := true } :: gs, 0x0403)

/-- Writes granules of die-shared SRAM; nothing is written to a way that the partition does not own. -/
def State.sharedWrite (s : State) (cdie part off : Nat) : List Gran → Nat × State
  | [] => (0, s)
  | g :: t =>
    if s.wayOk cdie off part then (s.setMem (s.mem.writeGran .shared (shAt cdie off) g)).sharedWrite cdie part (off + 16) t
    else (0x0403, (s.sharedWrite cdie part (off + 16) t).2)

end Sys2Proof.Machine
end

