-- ==== Sys2Proof/Machine/Float.lean ====
section
/-! DEFINITION. Numbers (05): the value of every bit pattern, rounding to nearest with ties to even, FP32 arithmetic
as one rounding of the exact result, and the conversions of R169 and R170. -/

namespace Sys2Proof.Machine

/-- A floating-point value: finite ones are (−1)^neg × m × 2^e exactly. -/
inductive Fp where
  | nan
  | inf (neg : Bool)
  | fin (neg : Bool) (m : Nat) (e : Int)
  deriving DecidableEq, Repr

/-- Element format codes (R159). -/
inductive Fmt where
  | int4 | int8 | int32 | e4m3 | e5m2 | bf16 | fp32 | e8m0
  deriving DecidableEq, Repr

def Fmt.ofCode : Nat → Option Fmt
  | 0 => some .int4
  | 1 => some .int8
  | 2 => some .int32
  | 3 => some .e4m3
  | 4 => some .e5m2
  | 5 => some .bf16
  | 6 => some .fp32
  | 7 => some .e8m0
  | _ => none

/-- Bits of an element (R159). -/
def Fmt.bits : Fmt → Nat
  | .int4 => 4
  | .int8 | .e4m3 | .e5m2 | .e8m0 => 8
  | .bf16 => 16
  | .int32 | .fp32 => 32

def Fmt.isInt : Fmt → Bool
  | .int4 | .int8 | .int32 => true
  | .e4m3 | .e5m2 | .bf16 | .fp32 | .e8m0 => false

/-- Mantissa bits and bias of a floating-point format (R162). -/
def Fmt.shape : Fmt → Nat × Nat
  | .e4m3 => (3, 7)
  | .e5m2 => (2, 15)
  | .bf16 => (7, 127)
  | .fp32 => (23, 127)
  | .int4 | .int8 | .int32 | .e8m0 => (0, 127)

/-- Value of a floating-point bit pattern (R162). -/
def Fmt.value (f : Fmt) (b : Nat) : Fp :=
  let (mb, bias) := f.shape
  let w := f.bits
  let neg := b.testBit (w - 1)
  let m := b % 2 ^ mb
  let e := (b / 2 ^ mb) % 2 ^ (w - 1 - mb)
  let top := 2 ^ (w - 1 - mb) - 1
  if f = .e4m3 then
    if e = top ∧ m = 7 then .nan
    else if e = 0 then .fin neg m (1 - (bias : Int) - mb) else .fin neg (2 ^ mb + m) ((e : Int) - bias - mb)
  else if e = top then (if m = 0 then .inf neg else .nan)
  else if e = 0 then .fin neg m (1 - (bias : Int) - mb)
  else .fin neg (2 ^ mb + m) ((e : Int) - bias - mb)

/-- m × 2^−sh rounded to nearest, ties to even. -/
def rne (m sh : Nat) : Nat :=
  match sh with
  | 0 => m
  | k + 1 =>
    let q := m >>> (k + 1)
    let r := m % 2 ^ (k + 1)
    if r > 2 ^ k ∨ (r = 2 ^ k ∧ q % 2 = 1) then q + 1 else q

/-- m × 2^e rounded to a format of `mb` mantissa bits and bias `bias`: the exponent and mantissa fields as one
number, which the format's largest finite pattern bounds when the value is in range (R162, R169). -/
def roundMag (mb bias m : Nat) (e : Int) : Nat :=
  if m = 0 then 0
  else
    let lead : Int := e + Nat.log2 m
    let low : Int := 1 - (bias : Int) - mb
    let q : Int := max (lead - mb) low
    let n := if q ≤ e then m * 2 ^ (e - q).toNat else rne m (q - e).toNat
    (q - low).toNat * 2 ^ mb + n

/-- Largest finite magnitude pattern of a format. -/
def Fmt.maxFin : Fmt → Nat
  | .e4m3 => 0x7E
  | .e5m2 => 0x7B
  | .bf16 => 0x7F7F
  | .fp32 => 0x7F7FFFFF
  | .int4 | .int8 | .int32 | .e8m0 => 0

/-- Canonical NaN of a format (R164). -/
def Fmt.nan : Fmt → Nat
  | .e4m3 => 0x7F
  | .e5m2 => 0x7E
  | .bf16 => 0x7FC0
  | .fp32 => 0x7FC00000
  | .int4 | .int8 | .int32 | .e8m0 => 0

def Fmt.infPat : Fmt → Nat
  | .e5m2 => 0x7C
  | .bf16 => 0x7F80
  | .fp32 => 0x7F800000
  | .e4m3 => 0x7F
  | .int4 | .int8 | .int32 | .e8m0 => 0

def signPat (f : Fmt) (neg : Bool) : Nat := if neg then 2 ^ (f.bits - 1) else 0

/-- A value in a floating-point format, rounded once. Out of range FP8 saturates, BF16 and FP32 give infinity (R169). -/
def Fmt.pat (f : Fmt) (x : Fp) : Nat :=
  match x with
  | .nan => f.nan
  | .inf neg => if f = .e4m3 then f.nan else f.infPat + signPat f neg
  | .fin neg m e =>
    let (mb, bias) := f.shape
    let p := roundMag mb bias m e
    signPat f neg + (if p ≤ f.maxFin then p else if f = .e4m3 ∨ f = .e5m2 then f.maxFin else f.infPat)

/-- An integer as an exact value. -/
def fpOfInt (z : Int) : Fp := .fin (decide (z < 0)) z.natAbs 0

/-- The nearest integer to a finite value, ties to even. -/
def fpRint (neg : Bool) (m : Nat) (e : Int) : Int :=
  let n : Nat := if e ≥ 0 then m * 2 ^ e.toNat else rne m (-e).toNat
  if neg then -(n : Int) else n

/-- Saturates to a signed range of `w` bits. -/
def satInt (w : Nat) (z : Int) : Int := max (-(2 ^ (w - 1) : Nat)) (min ((2 ^ (w - 1) : Nat) - 1) z)

/-- A floating-point value in an integer format (R169): NaN gives 0. -/
def fpToInt (w : Nat) (x : Fp) : Int :=
  match x with
  | .nan => 0
  | .inf neg => satInt w (if neg then -(2 ^ w : Nat) else (2 ^ w : Nat))
  | .fin neg m e => satInt w (fpRint neg m e)

/-- Integer value of an integer element. -/
def Fmt.intVal (f : Fmt) (b : Nat) : Int := sext f.bits b

/-- z × 2^−sh to nearest, ties to even. -/
def rintShift (z : Int) (sh : Nat) : Int := if z < 0 then -(rne z.natAbs sh : Int) else rne z.natAbs sh

/-- The conversion of R169 from one element format to another, with the shift and output zero point of R170 for an
INT32 source and INT8 or INT4 target. -/
def convert (src dst : Fmt) (sh : Nat) (zout : Int) (b : Nat) : Nat :=
  if src.isInt then
    let z := src.intVal b
    if dst.isInt then
      let z := if src = .int32 ∧ (dst = .int8 ∨ dst = .int4) then rintShift z sh + zout else z
      ofInt dst.bits (satInt dst.bits z)
    else dst.pat (fpOfInt z)
  else
    let x := src.value b
    if dst.isInt then ofInt dst.bits (fpToInt dst.bits x) else dst.pat x

/-- The pattern is a NaN of its floating-point format. -/
def Fmt.isNan (f : Fmt) (b : Nat) : Bool := !f.isInt && f.value b == .nan

/-! ## FP32 arithmetic: exact, then one rounding (R166, R195) -/

def fpNeg : Fp → Fp
  | .nan => .nan
  | .inf s => .inf (!s)
  | .fin s m e => .fin (!s) m e

/-- Signed mantissas of two values on the smaller of two exponents, added. -/
def fpAdd (a b : Fp) : Fp :=
  match a, b with
  | .nan, _ => .nan
  | _, .nan => .nan
  | .inf s, .inf t => if s = t then .inf s else .nan
  | .inf s, .fin .. => .inf s
  | .fin .., .inf t => .inf t
  | .fin s m e, .fin t n f =>
    if m = 0 ∧ n = 0 then .fin (s && t) 0 0
    else
      let g := min e f
      let x : Int := (if s then -1 else 1) * (m * 2 ^ (e - g).toNat : Nat)
      let y : Int := (if t then -1 else 1) * (n * 2 ^ (f - g).toNat : Nat)
      let z := x + y
      .fin (decide (z < 0)) z.natAbs g

def fpMul (a b : Fp) : Fp :=
  match a, b with
  | .nan, _ => .nan
  | _, .nan => .nan
  | .inf s, .inf t => .inf (s != t)
  | .inf s, .fin t n _ => if n = 0 then .nan else .inf (s != t)
  | .fin s m _, .inf t => if m = 0 then .nan else .inf (s != t)
  | .fin s m e, .fin t n f => .fin (s != t) (m * n) (e + f)

/-- Quotient with 60 bits and a sticky bit, which one rounding to FP32 cannot tell from the exact one. -/
def fpDiv (a b : Fp) : Fp :=
  match a, b with
  | .nan, _ => .nan
  | _, .nan => .nan
  | .inf _, .inf _ => .nan
  | .inf s, .fin t _ _ => .inf (s != t)
  | .fin s _ _, .inf t => .fin (s != t) 0 0
  | .fin s m e, .fin t n f =>
    if n = 0 then (if m = 0 then .nan else .inf (s != t))
    else
      let k := 60 + Nat.log2 n
      let q := m * 2 ^ k / n
      let r := m * 2 ^ k % n
      .fin (s != t) (2 * q + bnat (r ≠ 0)) (e - f - k - 1)

/-- Integer square root, found bit by bit from bit k − 1. -/
def isqrt (n : Nat) : Nat → Nat → Nat
  | 0, r => r
  | k + 1, r => if (r + 2 ^ k) * (r + 2 ^ k) ≤ n then isqrt n k (r + 2 ^ k) else isqrt n k r

/-- Square root with at least 60 bits and a sticky bit. -/
def fpSqrt (a : Fp) : Fp :=
  match a with
  | .nan => .nan
  | .inf s => if s then .nan else .inf false
  | .fin s m e =>
    if m = 0 then .fin s 0 0
    else if s then .nan
    else
      let k : Nat := 120 + (if e % 2 = 0 then 0 else 1)
      let n := m * 2 ^ k
      let q := isqrt n (Nat.log2 n / 2 + 1) 0
      .fin false (2 * q + bnat (q * q ≠ n)) ((e - k) / 2 - 1)

def f32 (b : Nat) : Fp := Fmt.value .fp32 b

/-- One FP32 operation: the exact result rounded once. -/
def fadd32 (a b : Nat) : Nat := Fmt.pat .fp32 (fpAdd (f32 a) (f32 b))
def fmul32 (a b : Nat) : Nat := Fmt.pat .fp32 (fpMul (f32 a) (f32 b))
def fma32 (a b c : Nat) : Nat := Fmt.pat .fp32 (fpAdd (fpMul (f32 a) (f32 b)) (f32 c))
def fdiv32 (a b : Nat) : Nat := Fmt.pat .fp32 (fpDiv (f32 a) (f32 b))
def fsqrt32 (a : Nat) : Nat := Fmt.pat .fp32 (fpSqrt (f32 a))

def isNan32 (a : Nat) : Bool := f32 a == .nan

def isFin32 (a : Nat) : Bool := (a / 2 ^ 23) % 256 != 255

/-- Order of two values that are not NaN. -/
def fpLt (a b : Fp) : Bool :=
  match a, b with
  | .nan, _ => false
  | _, .nan => false
  | .inf s, .inf t => s && !t
  | .inf s, .fin .. => s
  | .fin .., .inf t => !t
  | .fin s m e, .fin t n f =>
    let g := min e f
    decide ((if s then -1 else 1) * (m * 2 ^ (e - g).toNat : Nat) < (if t then -1 else 1 : Int) * (n * 2 ^ (f - g).toNat : Nat))

end Sys2Proof.Machine
end

