-- ==== Sys2Proof/Machine/Memory.lean ====
section
/-! DEFINITION. Requests at the memory-side agents, the code at work, channels, ways and the traffic generators (10;
R430 for atomics, R572 and R573 for row-cache ways). -/

namespace Sys2Proof.Machine

open Sys2Proof Host

/-! ## The code at work (R324 to R327) -/

/-- A stored HBM codeword with the bits that a reader finds inverted: its data and what it decodes to (R322). `x` holds the bits that a
generator's run wrote inverted. -/
def MemS.word (m : MemS) (at_ data check : Nat) : Nat × Decoded :=
  let g := m.readGran .hbm at_
  let x := ((m.flaws.find? (·.1 == at_)).getD (0, 0)).2
  let d := Nat.xor (Nat.xor g.data.toNat data) (x % 2 ^ 128)
  (d, decodeWord d (Nat.xor (Nat.xor (storedCheck g) check) (x / 2 ^ 128)))

/-- The granule that a decoded codeword leaves (R321, R322). -/
def Decoded.gran (o : Decoded) (data : Nat) : Gran :=
  match o with
  | .clean => { data := BitVec.ofNat 128 data, poison := false }
  | .corrected _ d => { data := BitVec.ofNat 128 d, poison := false }
  | .poisoned | .uncorrectable => { data := BitVec.ofNat 128 data, poison := true }

/-- A codeword is stored again as it decoded: right again, or poisoned (R324 to R326). -/
def MemS.restore (m : MemS) (at_ : Nat) (g : Gran) : MemS :=
  { (if g.poison then m.markGran .hbm at_ true else m.writeGran .hbm at_ g) with flaws := m.flaws.filter (·.1 != at_) }

/-- What a read does with one upset codeword of a line (R322, R324, R327): its counts, its record, and the codeword as it decoded. A
corrected word is in place from the read on, and the line's rewrite within 64 ticks is owed. -/
def State.readUpset (s : State) (pc line addr : Nat) (ctx : Option Nat) (u : Upset) : State :=
  let die := pcDie pc
  let unit := pcUnit pc
  let at_ := hbmAt pc line + 16 * u.gran
  let f (code : Nat) : FaultRec := { FaultRec.new s code (some die) unit with ctx := ctx, dkind := 1, detail := addr + 16 * u.gran }
  let (data, o) := s.mem.word at_ u.data.toNat u.check.toNat
  let unseen (s : State) : State := if u.ondie then (s.bump die unit 0xD0 (2 ^ 32 - 1) 1).raise (f 0x0107) else s
  let s := s.setMem (s.mem.restore at_ (o.gran data))
  match o with
  | .corrected pos _ =>
    let s := s.bump die unit (0xC0 + 4 * (pc % 2)) (2 ^ 32 - 1) 1
    let seen := smGet 0 (s.unit (256 * die + unit)).area 0xE0
    let s := s.setArea die unit 0xE0 (Nat.lor seen (2 ^ pos))
    let s := (s.setMem { s.mem with rewrites := s.mem.rewrites ++ [(pc, line, s.time.now + 64)] }).raise (f 0x0101)
    unseen s
  | .uncorrectable => (s.bump die unit 0xC8 (2 ^ 32 - 1) 1).raise (f 0x0102)
  | .clean => unseen s
  | .poisoned => s

/-- The upsets of a line's codewords, with those that a generator's run left there (R339). -/
def MemS.withFlaws (m : MemS) (pc line : Nat) (l : List Upset) : List Upset :=
  l ++ ((List.range 16).filter fun j => (m.flaws.any (·.1 == hbmAt pc line + 16 * j)) && !l.any (·.gran == j)).map fun j =>
    { gran := j, data := 0, check := 0, ondie := false }

/-- A line's codewords are read with the upsets among them. -/
def State.readUpsets (s : State) (pc line addr : Nat) (ctx : Option Nat) (l : List Upset) : State :=
  (s.mem.withFlaws pc line l).foldl (fun s u => if u.gran < 16 then s.readUpset pc line addr ctx u else s) s

/-- C-die, UNIT, store number and byte offset of a byte of an on-chip store (R469, R523). -/
def sramPlace (sp : Space) (a : Nat) : Nat × Nat × Nat × Nat :=
  match sp with
  | .opsram => (a / 2 ^ 28, 0x30 + 8 * (a / 2 ^ 25 % 8) + a % 2 ^ 25 / (3 * 2 ^ 20), 0, a % 2 ^ 25)
  | .accum => (a / 2 ^ 25, 0x70 + a / 2 ^ 22 % 8, 1, a % 2 ^ 22)
  | .tile => (a / 2 ^ 21, 0x78 + a / 2 ^ 18 % 8, 2, a % 2 ^ 18)
  | .shared | .hbm => (a / 2 ^ 25, 0x80 + a % 2 ^ 25 / 2 ^ 21, 3, a % 2 ^ 25)

/-- What a read does with one flawed codeword before it takes its data (R322, R324, R325): a corrected one is right again, an uncorrectable
one is stored poisoned. `maddr` is the memory address of one in HBM. -/
def State.meet (s : State) (ctx : Option Nat) (maddr : Nat) (b : Blemish) : State :=
  let g := s.mem.readGran b.space b.addr
  match b.space with
  | .hbm => s.readUpset (b.addr / 2 ^ 30) (b.addr % 2 ^ 30 / 256) (maddr / 256 * 256) ctx
      { gran := b.addr % 256 / 16, data := b.data, check := b.check, ondie := b.ondie }
  | .opsram | .tile | .accum | .shared =>
    let (die, unit, store, off) := sramPlace b.space b.addr
    let data := Nat.xor g.data.toNat b.data.toNat
    let f (code : Nat) : FaultRec := { FaultRec.new s code (some die) unit with ctx := ctx, dkind := 9, detail := off + store * 2 ^ 32 }
    match decodeWord data (Nat.xor (storedCheck g) b.check.toNat) with
    | .corrected _ d => (s.setMem (s.mem.writeGran b.space b.addr { data := BitVec.ofNat 128 d, poison := false })).raise (f 0x0101)
    | .uncorrectable => ((s.setMem (s.mem.markGran b.space b.addr true)).bump die unit 0xC0 (2 ^ 32 - 1) 1).raise (f 0x0103)
    | .clean => s.setMem (s.mem.writeGran b.space b.addr { data := BitVec.ofNat 128 data, poison := false })
    | .poisoned => s.setMem (s.mem.markGran b.space b.addr true)

/-- HBM store address, memory address and C-die of the byte at `va` under a translation. -/
def State.hbmOf (s : State) (tr : Nat → Bool → Except Nat (Nat × Nat)) (cdie : Option Nat) (va : Nat) : Option (Nat × Nat × Nat) :=
  match tr va false with
  | .error _ => none
  | .ok (a, _) => ((s.regionOf a).bind fun i => (s.region i).place a cdie).map fun p => (hbmAt p.1 p.2 + a % 256, a, pcDie p.1)

/-- The flawed codewords in HBM among granules that are read at the addresses `vas` are met (R324). -/
def State.meetHbm (s : State) (tr : Nat → Bool → Except Nat (Nat × Nat)) (cdie : Option Nat) (ctx : Nat) (vas : List Nat) (l : List Blemish) : State :=
  (l.filter (·.space == .hbm)).foldl (fun s b =>
    match vas.findSome? fun va => (s.hbmOf tr cdie va).filter (·.1 == b.addr) with
    | some z => s.meet (some ctx) z.2.1 b
    | none => s) s

/-- C-die on whose stack the granule at `va` lies, as a die translates it (R14). -/
def State.stackDie (s : State) (w : Who) (ctx va : Nat) : Option Nat := (s.hbmOf (s.translateAt w.die ctx) w.cdie va).map (·.2.2)

/-- The flawed codewords in HBM that a read of `n` granules of a context's `dev:` space meets. -/
def State.meetDev (s : State) (ctx va n : Nat) (l : List Blemish) : State :=
  if l = [] then s else s.meetHbm (s.translate ctx) none ctx ((List.range n).map (va + 16 * ·)) l

/-! ## Errors on the edges (R27, R28) -/

/-- The record of an edge, raised by the die that received the packet (R28). -/
def edgeFault (s : State) (code : Nat) (e : EdgeErr) : FaultRec :=
  { FaultRec.new s code (some e.dst.val) (edgeUnit e.src.val e.dst.val) with dkind := 8, detail := e.src.val + 2 ^ 8 * e.dst.val }

/-- A corrected granule counts against its edge (R27). -/
def State.countEdge (s : State) (e : EdgeErr) : State :=
  let k := 256 * e.dst.val + edgeUnit e.src.val e.dst.val
  let u := s.unit k
  s.setUnit k { u with corrected := satAdd (2 ^ 32 - 1) u.corrected 1 }

/-- A payload granule behind a switch that met an error in it: corrected and counted against the edge, or poisoned with 0x0105 (R27). -/
def State.crossEdge (s : State) (e : EdgeErr) (g : Gran) : Gran × State :=
  let data := Nat.xor g.data.toNat e.data.toNat
  match decodeWord data (Nat.xor (storedCheck g) e.check.toNat) with
  | .corrected _ d => ({ data := BitVec.ofNat 128 d, poison := false }, s.countEdge e)
  | .uncorrectable => ({ data := BitVec.ofNat 128 data, poison := true }, s.raise (edgeFault s 0x0105 e))
  | .clean => ({ data := BitVec.ofNat 128 data, poison := false }, s)
  | .poisoned => ({ data := BitVec.ofNat 128 data, poison := true }, s)

/-- Payload granules behind the edges of their routes; `hit i e` tells that granule `i` crosses the edge of `e`. -/
def State.crossEdges (s : State) (hit : Nat → EdgeErr → Bool) (l : List Gran) : List EdgeErr → List Gran × State
  | [] => (l, s)
  | e :: t =>
    match e.gran.bind fun i => (l[i]?).bind fun g => if hit i e then some (i, g) else none with
    | none => s.crossEdges hit l t
    | some (i, g) =>
      let (g, s) := s.crossEdge e g
      s.crossEdges hit (l.set i g) t

/-- The edge of an error lies on the way between a requester and another die: out from it, or back. -/
def between (die other : Nat) (e : EdgeErr) : Bool :=
  if e.out then onRoute die other e.src.val e.dst.val else onRoute other die e.src.val e.dst.val

/-- Neither copy of a header decodes (R28). -/
def edgeLost (e : EdgeErr) : Bool := e.gran.isNone && e.data == 0 && e.check == 0

/-- One copy of a header meets an error that the switch corrects (R27, R28). -/
def edgeMended (e : EdgeErr) : Bool :=
  e.gran.isNone && match decodeWord e.data.toNat e.check.toNat with | .corrected .. => true | .clean | .poisoned | .uncorrectable => false

/-- Corrected header copies on the way of a command's packets count against their edges (R27). -/
def State.countHeaders (s : State) (on : EdgeErr → Bool) (l : List EdgeErr) : State :=
  (l.filter fun e => edgeMended e && on e).foldl (fun s e => s.countEdge e) s

/-- A header lost between a requester and another die (R28). -/
def lostHeader (l : List EdgeErr) (out : Bool) (die other : Nat) : Option EdgeErr :=
  l.find? fun e => edgeLost e && e.out == out && between die other e

/-- The request of a command as an agent sees it (R26, R311, R313). -/
def MemReq.req (q : MemReq) : Req :=
  match q.from_ with
  | .core c => { addr := q.addr.toNat, ctx := q.ctx.val, gen := q.gen.toNat, die := c.val, cdie := some c.val, upd := false }
  | .update g => { addr := q.addr.toNat, ctx := q.ctx.val, gen := q.gen.toNat, die := dieG g.val, cdie := none, upd := true }
  | .other d => { addr := q.addr.toNat, ctx := q.ctx.val, gen := q.gen.toNat, die := d.val, cdie := none, upd := false }

/-- The agents serve requests: the device is powered, booted and its memory is not in self-refresh. -/
def State.agentsRun (s : State) : Bool := s.opened && !s.mem.selfRefresh

/-- The C-die whose agent a request reaches, where its address has a place (R16, R307, R313). -/
def State.agentDie (s : State) (q : Req) : Option Nat := ((s.regionOf q.addr).bind fun i => (s.region i).place q.addr q.cdie).map fun p => pcDie p.1

/-- The request of a command loses its header on the way to its agent: the packet is discarded (R28). -/
def State.lostOut (s : State) (q : Req) (edges : List EdgeErr) : Option EdgeErr := (s.agentDie q).bind fun d => lostHeader edges true q.die d

/-- The reply to a command, or a lost header on its way back (R28). -/
def State.reply (s : State) (q : Req) (edges : List EdgeErr) (out : State → State) : State :=
  match (s.agentDie q).bind fun d => lostHeader edges false q.die d with
  | some e => s.raise (edgeFault s 0x0106 e)
  | none => out s

/-- The corrected headers of a request and its reply (R27). -/
def State.headers (s : State) (q : Req) (edges : List EdgeErr) : State :=
  match s.agentDie q with
  | some d => s.countHeaders (between q.die d) edges
  | none => s

/-- Shifts the granule numbers of edge errors so that granule `n` becomes the first. -/
def edgesFrom (n : Nat) (l : List EdgeErr) : List EdgeErr := (l.filter fun e => e.gran.any (n ≤ ·)).map fun e => { e with gran := e.gran.map (· - n) }

/-- The first `n` granules in runs: whether `ok` admits the run, its first granule and its length. -/
def runsOf (ok : Nat → Bool) (n : Nat) : List (Bool × Nat × Nat) :=
  ((List.range n).foldl (fun acc i =>
    match acc with
    | (b, at_, k) :: t => if b == ok i then (b, at_, k + 1) :: t else (ok i, i, 1) :: acc
    | [] => [(ok i, i, 1)]) []).reverse

/-- Granule `i`, which lies at the die that `die` names, is in a packet that is discarded on its way in the direction `out`. -/
def goneAt (home : Nat) (die : Nat → Option Nat) (edges : List EdgeErr) (out : Bool) (i : Nat) : Bool :=
  edges.any fun e => edgeLost e && e.out == out && (die i).any (between home · e)

/-- The switches that discard packets among `n` granules record it; a packet that is discarded on its way out is never answered (R28). -/
def State.discards (s : State) (home : Nat) (die : Nat → Option Nat) (n : Nat) (edges : List EdgeErr) : State :=
  (edges.filter fun e => edgeLost e && (List.range n).any fun i => (die i).any (between home · e) && (e.out || !goneAt home die edges true i)).foldl
    (fun s e => s.raise (edgeFault s 0x0106 e)) s

/-- A read of `n` granules by a die from the dies that hold them, one packet a die, with the errors on the ways out and back: no granules
where a packet of it was discarded; what other packets ask for is read all the same (R27, R28). `read i k` reads `k` granules from the
`i`-th. -/
def State.fetchOver (s : State) (home : Nat) (die : Nat → Option Nat) (n : Nat) (edges : List EdgeErr)
    (read : Nat → Nat → State → List Gran × Nat × State) : Option (List Gran) × Nat × State :=
  if edges = [] then
    let (l, c, s) := read 0 n s
    (some l, c, s)
  else
    let s := s.countHeaders (fun e => (List.range n).any fun i => (die i).any (between home · e)) edges
    let s := s.discards home die n edges
    let (l, c, s) := (runsOf (fun i => !goneAt home die edges true i) n).foldl (fun (a : List Gran × Nat × State) r =>
      if r.1 then
        let (l, c, s) := read r.2.1 r.2.2 a.2.2
        (a.1 ++ l, if a.2.1 = 0 then c else a.2.1, s)
      else (a.1 ++ poisonGrans r.2.2, a.2.1, a.2.2)) ([], 0, s)
    let lost := fun i => goneAt home die edges true i || goneAt home die edges false i
    let (l, s) := s.crossEdges (fun i e => !e.out && !lost i && (die i).any (between home · e)) l edges
    if (List.range n).any lost then (none, 0, s) else (some l, c, s)

/-- Granules on their way out to the dies that take them, one packet a die, with the errors on those ways: `put i l` takes the granules `l`
from the `i`-th on; no answer where a packet of them was discarded (R27, R28). -/
def State.carryOver (s : State) (home : Nat) (die : Nat → Option Nat) (l : List Gran) (edges : List EdgeErr)
    (put : Nat → List Gran → State → Nat × State) : Option Nat × State :=
  if edges = [] then
    let (c, s) := put 0 l s
    (some c, s)
  else
    let out := edges.filter (·.out)
    let s := s.countHeaders (fun e => (List.range l.length).any fun i => (die i).any (between home · e)) out
    let s := s.discards home die l.length out
    let lost := goneAt home die out true
    let (l, s) := s.crossEdges (fun i e => !lost i && (die i).any (between home · e)) l out
    let (c, s) := ((runsOf (fun i => !lost i) l.length).filter (·.1)).foldl (fun (a : Nat × State) r =>
      let (c, s) := put r.2.1 ((l.drop r.2.1).take r.2.2) a.2
      (if a.1 = 0 then c else a.1, s)) (0, s)
    (if (List.range l.length).any lost then none else some c, s)

/-- Granules in one packet from one die to another, with the errors on the edges of its way: none where it was discarded. -/
def State.sendOver (s : State) (src dst : Nat) (l : List Gran) (edges : List EdgeErr) : Option (List Gran) × State :=
  let out := edges.filter fun e => e.out && between src dst e
  let s := s.countHeaders (fun _ => true) out
  match out.find? edgeLost with
  | some e => (none, s.raise (edgeFault s 0x0106 e))
  | none =>
    let (l, s) := s.crossEdges (fun _ _ => true) l out
    (some l, s)

/-- Reads `n` granules of a context's `dev:` space over the mesh, with the flaws that the read meets and the errors on its edges: no
granules where a packet of it was discarded (R27, R28, R324). -/
def State.readOver (s : State) (w : Who) (ctx va n : Nat) (bad : List Blemish) (edges : List EdgeErr) : Option (List Gran) × Nat × State :=
  let s := s.meetDev ctx va n bad
  s.fetchOver w.die (fun i => s.stackDie w ctx (va + 16 * i)) n edges fun i k s => s.devRead w ctx (va + 16 * i) k

/-- MEM_READ (R27, R28, R315, R317, R322, R324, R327): the line as it stands, or poison with the code that refused the request. A header
that is lost on the way out stops the request; one lost on the way back, its reply. -/
def execMemRead (q : MemReq) (upset : List Upset) (edges : List EdgeErr) (s : State) : Outcome State Fault Refusal :=
  if !s.agentsRun then .next s
  else
    let r := MemReq.req q
    let s := s.headers r edges
    match s.lostOut r edges with
    | some e => .next (s.raise (edgeFault s 0x0106 e))
    | none =>
      match s.agentCheck r false with
      | .error c => .next ((s.agentRead r).2.2.reply r edges fun s => (s.emit (.memReply r.ctx poisonLine)).emit (.memRefused r.ctx c))
      | .ok (_, pc, line) =>
        let s := if s.deaf pc then s else s.readUpsets pc line (r.addr / 256 * 256) (some r.ctx) upset
        let (l, _, s) := s.agentRead r
        .next (s.reply r edges fun s =>
          let (l, s) := s.crossEdges (fun _ e => !e.out && between r.die (pcDie pc) e) l edges
          s.emit (.memReply r.ctx l))

/-- The merging read of a sub-granule write (R317, R319): the line's codewords are read with their upsets. -/
def State.mergeRead (s : State) (q : Req) (mask : BitVec 256) (upset : List Upset) : State :=
  match s.agentCheck q true with
  | .error _ => s
  | .ok (_, pc, line) => if subGranule mask && !s.deaf pc then s.readUpsets pc line (q.addr / 256 * 256) (some q.ctx) upset else s

/-- MEM_WRITE (R27, R28, R315 to R319, R311, R336): the write is accepted and visible to every later request, or refused. A write whose
header is lost is not made; one lost on the way back loses only the notice. -/
def execMemWrite (q : MemReq) (mask : BitVec 256) (data : List Gran) (upset : List Upset) (edges : List EdgeErr) (s : State) : Outcome State Fault Refusal :=
  if !s.agentsRun then .next s
  else
    let r := MemReq.req q
    let s := s.headers r edges
    match s.lostOut r edges with
    | some e => .next (s.raise (edgeFault s 0x0106 e))
    | none =>
      let die := (s.agentDie r).getD r.die
      let (data, s) := s.crossEdges (fun _ e => e.out && between r.die die e) data edges
      let gp := BitVec.ofNat 16 (pack ((List.range 16).map fun j => (j, 1, bnat (data.getD j { data := 0, poison := false }).poison)))
      let (c, s) := (s.mergeRead r mask upset).agentWrite r mask (gransBytes data) gp
      .next (s.reply r edges fun s => if c = 0 then s else s.emit (.memRefused r.ctx c))

/-- New value of an atomic (R430). -/
def Aop.value (op : Aop) (wide : Bool) (old a b : Nat) : Nat :=
  let m := if wide then 2 ^ 64 else 2 ^ 32
  match op with
  | .add => (old + a) % m
  | .fadd => fadd32 (old % 2 ^ 32) (a % 2 ^ 32)
  | .swap => a % m
  | .cas => if old = b % m then a % m else old
  | .and => Nat.land old (a % m)
  | .or => Nat.lor old (a % m)

/-- An atomic at an agent (R430): the granule that answers, the code that refused it and the state. Operands that came poisoned poison the
granule that they are written into (R323); one on a poisoned granule is a write into poison (R319). -/
def State.agentAtomic (s : State) (q : Req) (op : Aop) (wide : Bool) (a b : Nat) (p : Bool) : Gran × Nat × State :=
  let bad : Gran := { data := 0, poison := true }
  match s.agentCheck q true with
  | .error _ => (bad, s.agentWrite q 0 [] 0)
  | .ok (i, pc, line) =>
    if s.deaf pc then (bad, s.agentWrite q 0 [] 0)
    else
      let g := (s.lineOf i pc line q.addr).getD (q.addr % 256 / 16) bad
      if g.poison then (bad, 0, s.bump (pcDie pc) (pcUnit pc) 0xD4 (2 ^ 32 - 1) 1)
      else
        let n := if wide then 8 else 4
        let old := g.data.toNat / 2 ^ (8 * (q.addr % 16)) % 2 ^ (8 * n)
        let off := q.addr % 256
        let mask := BitVec.ofNat 256 ((2 ^ n - 1) * 2 ^ off)
        ({ data := BitVec.ofNat 128 old, poison := false },
          s.agentWrite q mask (List.replicate off 0 ++ leBytes n (Aop.value op wide old a b)) (BitVec.ofNat 16 (bnat p * 2 ^ (off / 16))))

/-- MEM_ATOMIC (R27, R28, R324, R430): a naturally aligned 4- or 8-byte operand; FADD takes 4 bytes only. Its operands and its answer are
the payload granules of its packets. -/
def execMemAtomic (q : MemReq) (aop : Aop) (wide : Bool) (opa opb : BitVec 64) (upset : List Upset) (edges : List EdgeErr) (s : State) :
    Outcome State Fault Refusal :=
  if !s.agentsRun ∨ q.addr.toNat % (if wide then 8 else 4) ≠ 0 ∨ (wide ∧ aop = .fadd) then .next s
  else
    let r := MemReq.req q
    let s := s.headers r edges
    match s.lostOut r edges with
    | some e => .next (s.raise (edgeFault s 0x0106 e))
    | none =>
      let die := (s.agentDie r).getD r.die
      let (ops, s) := s.crossEdges (fun _ e => e.out && between r.die die e) [{ data := opb ++ opa, poison := false }] edges
      let op := ops.headD { data := 0, poison := true }
      let s := s.mergeRead r (BitVec.ofNat 256 1) upset
      let (g, c, s) := s.agentAtomic r aop wide (op.data.toNat % 2 ^ 64) (op.data.toNat / 2 ^ 64) op.poison
      .next (s.reply r edges fun s =>
        let (l, s) := s.crossEdges (fun _ e => !e.out && between r.die die e) [g] edges
        let s := s.emit (.memReply r.ctx l)
        if c = 0 then s else s.emit (.memRefused r.ctx c))

/-- ECC_CORRECTED_REWRITE (R324): the rewrite of a corrected line is done; its codewords have stood as they decoded since the read. -/
def execEccCorrectedRewrite (pc : Fin 2048) (line : BitVec 22) (s : State) : Outcome State Fault Refusal :=
  .next (s.setMem { s.mem with rewrites := s.mem.rewrites.filter fun r => !(r.1 == pc.val && r.2.1 == line.toNat) })

/-- What the scrub does with one upset codeword of a line (R322, R326, R327): it is stored as it decodes, one that is uncorrectable gives
0x0104, and an error that only the on-die code saw 0x0107. -/
def State.scrubWord (s : State) (pc line : Nat) (u : Upset) : State :=
  let at_ := hbmAt pc line + 16 * u.gran
  let f (s : State) (code : Nat) : FaultRec := { FaultRec.new s code (some (pcDie pc)) (pcUnit pc) with dkind := 7, detail := line }
  let (data, o) := s.mem.word at_ u.data.toNat u.check.toNat
  let s := s.setMem (s.mem.restore at_ (o.gran data))
  match o with
  | .uncorrectable =>
    let s := s.bump (pcDie pc) (pcUnit pc) 0xCC (2 ^ 32 - 1) 1
    s.raise (f s 0x0104)
  | .clean | .corrected .. =>
    if u.ondie then
      let s := s.bump (pcDie pc) (pcUnit pc) 0xD0 (2 ^ 32 - 1) 1
      s.raise (f s 0x0107)
    else s
  | .poisoned => s

/-- PATROL_SCRUB (R326, R327): corrected granules are rewritten, uncorrectable ones are stored poisoned with 0x0104; poisoned ones are left.
`ecs` is the error-check-and-scrub count that the channel's DRAM reports, which the agent logs. -/
def execPatrolScrub (pc : Fin 2048) (line : BitVec 22) (upset : List Upset) (ecs : Word) (s : State) : Outcome State Fault Refusal :=
  if !s.agentsRun then .next s
  else
    let s := s.setArea (pcDie pc.val) (pcUnit pc.val) 0xD8 ecs.toNat
    .next ((s.mem.withFlaws pc.val line.toNat upset).foldl (fun s u => if u.gran < 16 then s.scrubWord pc.val line.toNat u else s) s)

/-- MEMORY_SLOT (R303, R317, R336): entries of earlier slots are written; one that holds a sub-granule write reads its
line first and is written a slot later; complete blocks are stored transposed. -/
def execMemorySlot (s : State) : Outcome State Fault Refusal :=
  if !s.agentsRun ∨ s.time.now % 4 ≠ 0 then .next s
  else
    let slot := s.time.now / 4
    let due := fun e : WcEntry => if e.sub then decide (e.slot + 1 < slot) else decide (e.slot < slot)
    let m := (s.mem.wcb.filter due).foldl (fun m e => m.putEntry e) s.mem
    let m := { m with wcb := (m.wcb.filter fun e => !due e).map fun e => if e.sub ∧ e.slot < slot then { e with reading := true } else e }
    let s := s.setMem m
    .next ((s.mem.blocks.filter (·.complete)).foldl (fun s b => s.storeBlock b) s)

/-- A block is stored as it stands (R337). -/
def State.closeBlock (s : State) (b : TBlock) : State :=
  let f := { FaultRec.new s 0x0540 (some b.cdie) 0xC0 with ctx := some b.ctx, part := some (s.ctxPart b.ctx), dkind := 1, detail := b.block * blockBytes b.esize }
  (s.storeBlock b).raise f

/-- What the agents have accepted is written before HBM enters self-refresh (R480, R483): blocks, whole or as they stand, then the entries
of the write-combining buffers (log 84). -/
def State.flushAgents (s : State) : State :=
  let s := s.setMem { s.mem with waits := [] }
  let s := s.mem.blocks.foldl (fun s b => if b.complete then s.storeBlock b else s.closeBlock b) s
  s.setMem { s.mem.wcb.foldl (fun m e => m.putEntry e) s.mem with wcb := [] }

/-- TRANSPOSE_BLOCK_TIMEOUT (R337): a block still incomplete 2,000 ticks after its first line is stored as it stands. -/
def execTransposeBlockTimeout (cdie : Fin 32) (block : Nat) (s : State) : Outcome State Fault Refusal :=
  match s.mem.blocks.find? fun b => b.cdie == cdie.val && b.block == block && !b.complete && decide (s.time.now ≥ b.opened + 2000) with
  | none => .next s
  | some b =>
    .next (s.closeBlock b)

/-! ## Channels (R328, R338) -/

/-- Some valid region uses a channel (R328). -/
def State.chUsed (s : State) (ch : Nat) : Bool :=
  (List.range 256).any fun i =>
    let r := s.region i
    r.v && r.stackList.contains (ch / 32) && r.chans.contains (ch % 32)

/-- A channel's unit is classed PERMANENT (R530). -/
def State.permanent (s : State) (die unit : Nat) : Bool := (s.unit (256 * die + unit)).perm

def State.ownRefused (s : State) (ch : Nat) : State := (s.setBit .memStatus 0 1).regErr (RG.off .memChOwn ch) 4

/-- Assigns a channel and starts its clearing (R328). -/
def State.assignCh (s : State) (ch : Nat) (w : Word) : State :=
  let s := s.putRw .memChOwn ch w
  s.setMem { s.mem with clearing := ch :: s.mem.clearing }

/-- A write of MEM_CH_OWN (R328, R338, R500, R530, R581). -/
def State.writeChOwn (s : State) (ch : Nat) (w : Word) : State :=
  let old := s.reg .memChOwn ch
  if wbit old 6 then
    if wbit w 6 then (if wbits w 5 0 = wbits old 5 0 then s else s.ownRefused ch)
    else if s.chUsed ch then s.ownRefused ch
    else
      let t := s.setReg .memChOwn ch (setBits old 6 6 0)
      let t := t.setMem { t.mem with clearing := t.mem.clearing.filter (· != ch) }
      if wbits w 5 0 = wbits old 5 0 then t else t.ownRefused ch
  else if wbit w 6 then
    if s.permanent (ch / 32) (0x90 + ch % 32) || s.mem.withdrawn.contains ch then s.ownRefused ch
    else if (s.tg ch).busy then s.setMem { s.mem with heldAssign := s.mem.heldAssign ++ [(ch, w)] }
    else s.assignCh ch w
  else s.putRw .memChOwn ch w

/-- CHANNEL_ASSIGN (R328): a write of V from 0 to 1. -/
def execChannelAssign (port : Fin 4) (ch : Fin 1024) (w : Word) (s : State) : Outcome State Fault Refusal :=
  if s.reach port.val ∧ wbit w 6 ∧ !s.flag .memChOwn ch.val 6 then .next (s.writeChOwn ch.val w) else .next s

/-- CHANNEL_RELEASE (R328): a write of V from 1 to 0. -/
def execChannelRelease (port : Fin 4) (ch : Fin 1024) (w : Word) (s : State) : Outcome State Fault Refusal :=
  if s.reach port.val ∧ !wbit w 6 ∧ s.flag .memChOwn ch.val 6 then .next (s.writeChOwn ch.val w) else .next s

/-- CHANNEL_CLEAR_DONE (R328): both pseudo-channels hold all-zero granules and CLEARING returns to 0. -/
def execChannelClearDone (ch : Fin 1024) (s : State) : Outcome State Fault Refusal :=
  if s.mem.clearing.contains ch.val then
    let m := s.mem.wipe .hbm (hbmAt (2 * ch.val) 0) (hbmAt (2 * ch.val + 2) 0)
    .next (s.setMem { m with clearing := m.clearing.filter (· != ch.val), wcb := m.wcb.filter fun e => e.pc / 2 != ch.val,
                             flaws := m.flaws.filter fun f => f.1 / 2 ^ 31 != ch.val })
  else .next s

/-! ## Ways (R330, R331, R572, R573) -/

/-- A partition has a running or pending image (IMG and PEND of R450). -/
def State.imgOrPend (s : State) (p : Nat) : Bool := (s.part p).image.isSome || (s.part p).pending.isSome

def State.wayRefused (s : State) (g : RG) (i : Nat) : State := (s.setBit .memStatus 0 2).regErr (g.off i) 4

/-- Mesh index of the die that holds a way register's ways, and the UNIT of its way 0: a way of die-shared SRAM on a C-die, a row-cache
bank on a G-die (R523). -/
def wayHome (g : RG) (die : Nat) : Nat × Nat := if g = .memSway then (die, 0x80) else (dieG die, 0x10)

/-- One way of a write to a quarter register: `k` is the way's first bit, `way` its number, `die` its die's index. -/
def State.writeWay (s : State) (g : RG) (i k die way : Nat) (w : Word) : State :=
  let old := s.reg g i
  let p := wbits old (k + 5) k
  let p' := wbits w (k + 5) k
  if wbit old (k + 6) then
    if wbit w (k + 6) then (if p' = p then s else s.wayRefused g i)
    else if s.imgOrPend p then s.wayRefused g i
    else
      let t := s.setReg g i (setBits old (k + 6) (k + 6) 0)
      if p' = p then t else t.wayRefused g i
  else if wbit w (k + 6) then
    if s.permanent (wayHome g die).1 ((wayHome g die).2 + way) then s.wayRefused g i
    else
      let s := s.setReg g i (setBits (setBits old (k + 5) k p') (k + 6) (k + 6) 1)
      if g = .memSway then s.setMem { s.mem with wayClear := (16 * die + way) :: s.mem.wayClear.filter (· != 16 * die + way) }
      else s.setMem { s.mem with rlines := s.mem.rlines.filter fun l => !(l.gdie == die && l.way == way) }
  else s.setReg g i (setBits old (k + 5) k p')

/-- A write of MEM_SWAY or GTH_RWAY (R330, R572, R573, R581): each of the four ways is judged by itself. -/
def State.writeWays (s : State) (g : RG) (die q : Nat) (w : Word) : State :=
  (List.range 4).foldl (fun s j => s.writeWay g (4 * die + q) (8 * j) die (4 * q + j) w) s

/-- Some V bit of a quarter register goes from `a` to the other value. -/
def vChange (old w : Word) (a : Bool) : Bool := (List.range 4).any fun j => wbit old (8 * j + 6) == a && wbit w (8 * j + 6) != a

/-- SWAY_ASSIGN (R330): a write that sets a V bit of MEM_SWAY. -/
def execSwayAssign (port : Fin 4) (cdie : Fin 32) (q : Fin 4) (w : Word) (s : State) : Outcome State Fault Refusal :=
  if s.reach port.val ∧ vChange (s.reg .memSway (4 * cdie.val + q.val)) w false then .next (s.writeWays .memSway cdie.val q.val w) else .next s

/-- SWAY_RELEASE (R573): a write that clears a V bit of MEM_SWAY. -/
def execSwayRelease (port : Fin 4) (cdie : Fin 32) (q : Fin 4) (w : Word) (s : State) : Outcome State Fault Refusal :=
  if s.reach port.val ∧ vChange (s.reg .memSway (4 * cdie.val + q.val)) w true then .next (s.writeWays .memSway cdie.val q.val w) else .next s

/-- WAY_CLEAR_DONE (R330): the way holds all-zero granules and may be used. -/
def execWayClearDone (cdie : Fin 32) (way : Fin 16) (s : State) : Outcome State Fault Refusal :=
  let k := 16 * cdie.val + way.val
  if s.mem.wayClear.contains k then
    let m := s.mem.wipeWay k false
    .next (s.setMem { m with wayClear := m.wayClear.filter (· != k) })
  else .next s

/-- RWAY_ASSIGN (R572): a write that sets a V bit of GTH_RWAY; the way's lines are invalid before its first use. -/
def execRwayAssign (port : Fin 4) (gdie : Fin 16) (q : Fin 4) (w : Word) (s : State) : Outcome State Fault Refusal :=
  if s.reach port.val ∧ vChange (s.reg .gthRway (4 * gdie.val + q.val)) w false then .next (s.writeWays .gthRway gdie.val q.val w) else .next s

/-- RWAY_RELEASE (R573): a write that clears a V bit of GTH_RWAY. -/
def execRwayRelease (port : Fin 4) (gdie : Fin 16) (q : Fin 4) (w : Word) (s : State) : Outcome State Fault Refusal :=
  if s.reach port.val ∧ vChange (s.reg .gthRway (4 * gdie.val + q.val)) w true then .next (s.writeWays .gthRway gdie.val q.val w) else .next s

/-! ## Traffic generators (R338 to R341) -/

/-- Some field is out of range at START (R339). -/
def TgS.bad (t : TgS) : Bool :=
  decide (wbits t.ctrl 7 5 > 3) || decide (wbits t.ctrl 10 8 > 5) || wbits t.cfg 15 0 == 0 || wbits t.cfg 31 16 == 0 ||
    decide (wbits t.len 23 0 > 0x800000) || decide (wbits t.inj 5 0 > 35) || decide (wbits t.inj 15 10 > 35)

/-- A write of MEM_TG_CTRL for the selected channel (R338, R339). -/
def State.writeTgCtrl (s : State) (w : Word) : State :=
  let ch := s.fld .memTgSel 0 9 0
  let t := { s.tg ch with ctrl := w &&& 0xFF8 }
  let t : TgS := if wbit w 1 && t.busy then { t with stopped := true } else t
  if wbit w 0 ∧ !t.busy then
    if s.flag .memChOwn ch 6 then s.setTg ch { t with status := t.status ||| 8 }
    else if t.bad then s.setTg ch { t with status := t.status ||| 4 }
    else if wbits t.len 23 0 = 0 then s.setTg ch { t with errs := 0, status := t.status ||| 1, stopped := false }
    else s.setTg ch { t with errs := 0, busy := true, stopped := false }
  else s.setTg ch t

/-- TG_START (R338, R339). -/
def execTgStart (port : Fin 4) (w : Word) (s : State) : Outcome State Fault Refusal :=
  if s.reach port.val ∧ wbit w 0 then .next (s.writeTgCtrl w) else .next s

/-- TG_STOP (R339): the run ends after the line in progress. -/
def execTgStop (port : Fin 4) (w : Word) (s : State) : Outcome State Fault Refusal :=
  if s.reach port.val ∧ wbit w 1 ∧ !wbit w 0 then .next (s.writeTgCtrl w) else .next s

/-- Line of the k-th access of a pass (R339); the LFSR order and the bank layout are not stated (log 44). -/
def TgS.line (t : TgS) (k : Nat) : Nat :=
  match wbits t.ctrl 7 5 with
  | 0 => k % 2 ^ 22
  | 1 => k * wbits t.cfg 15 0 % 2 ^ 22
  | 2 => Config.tgLfsr (wbits t.cfg 31 16) k % 2 ^ 22
  | _ => Config.tgLfsr 0 (k % 2) % 2 ^ 22

/-- Data of granule j of the k-th line (R339); the LFSR's polynomial is not stated (log 44). -/
def TgS.word (t : TgS) (k j : Nat) : BitVec 128 :=
  match wbits t.ctrl 10 8 with
  | 0 => 0
  | 1 => BitVec.allOnes 128
  | 2 => if k % 2 = 0 then 0x55555555555555555555555555555555 else 0xAAAAAAAAAAAAAAAAAAAAAAAAAAAAAAAA
  | 3 => BitVec.ofNat 128 (2 ^ ((16 * k + j) % 128))
  | 4 => BitVec.ofNat 128 (Config.tgLfsr (wbits t.cfg 31 16 + 2 ^ 16) (16 * k + j))
  | _ => BitVec.ofNat 128 (t.line k)

/-- XOR of the injection in symbol positions, data in bits [127:0] and check in bits [143:128] (R339). -/
def TgS.xor_ (t : TgS) : Nat :=
  if wbit t.ctrl 11 then Nat.xor (wbits t.inj 9 6 * 2 ^ (4 * wbits t.inj 5 0)) (wbits t.inj 19 16 * 2 ^ (4 * wbits t.inj 15 10)) else 0

/-- What R322 gives for a written granule under the injection. -/
def TgS.outcome (t : TgS) (d : BitVec 128) : Decoded :=
  let g : Gran := { data := d, poison := wbit t.ctrl 11 && wbit t.inj 20 }
  decodeWord (Nat.xor d.toNat (t.xor_ % 2 ^ 128)) (Nat.xor (storedCheck g) (t.xor_ / 2 ^ 128))

/-- What a run writes into one granule of its k-th line: the data, the poison mark and the inverted bits (R339). -/
def MemS.tgWrite (m : MemS) (t : TgS) (k at_ j : Nat) : MemS :=
  let m := m.writeGran .hbm at_ { data := t.word k j, poison := wbit t.ctrl 11 && wbit t.inj 20 }
  let kept := m.flaws.filter (·.1 != at_)
  { m with flaws := if t.xor_ = 0 then kept else (at_, t.xor_) :: kept }

/-- A run at work: the memory and its counts, how many granules mismatched, the first of them as TG_FIRST shows it, and the granules that its
reads rewrite, by their byte address, the latest first. -/
structure TgRun where
  st : State
  bad : Nat
  first : Option (Nat × Nat)
  fix : List (Nat × Gran)
  deriving DecidableEq, Repr

/-- The outcome and data that a read of a run should give (R340): what R322 gives for the written granule under the injection. -/
def TgS.expects (t : TgS) (d : BitVec 128) (data : Nat) (o : Decoded) : Bool :=
  o == t.outcome d && (o == .poisoned || o == .uncorrectable || Nat.xor data (t.xor_ % 2 ^ 128) == d.toNat)

/-- Counts and record of one read of a run, as in service and marked as a test event (R324, R340). -/
def State.tgEvent (s : State) (pc line : Nat) (o : Decoded) : State :=
  let die := pcDie pc
  let unit := pcUnit pc
  let f (code : Nat) : FaultRec := { FaultRec.new s code (some die) unit with test := true, dkind := 7, detail := line }
  match o with
  | .clean => s
  | .poisoned => s.bump die unit 0xE8 (2 ^ 32 - 1) 1
  | .corrected pos _ =>
    let s := (s.bump die unit 0xE8 (2 ^ 32 - 1) 1).bump die unit (0xC0 + 4 * (pc % 2)) (2 ^ 32 - 1) 1
    let seen := smGet 0 (s.unit (256 * die + unit)).area 0xE0
    (s.setArea die unit 0xE0 (Nat.lor seen (2 ^ pos))).raiseAs (f 0x0101) false
  | .uncorrectable => ((s.bump die unit 0xE8 (2 ^ 32 - 1) 1).bump die unit 0xC8 (2 ^ 32 - 1) 1).raiseAs (f 0x0102) false

/-- A run's read of one granule of its k-th line (R340). -/
def TgRun.read (r : TgRun) (t : TgS) (ch k pc j : Nat) (upset : List TgUpset) : TgRun :=
  let line := t.line k
  let u := upset.find? fun u => u.nth == k && u.pc.val == pc && u.gran.val == j
  let at_ := hbmAt (2 * ch + pc) line + 16 * j
  let (data, o) := r.st.mem.word at_ (u.map (·.data.toNat) |>.getD 0) (u.map (·.check.toNat) |>.getD 0)
  let s := r.st.tgEvent (2 * ch + pc) line o
  let fix := match o with | .corrected .. | .uncorrectable => (at_, o.gran data) :: r.fix | .clean | .poisoned => r.fix
  if t.expects (t.word k j) data o then { r with st := s, fix := fix }
  else { st := s, bad := r.bad + 1, first := if r.bad = 0 then some (line, pack [(0, 23, line), (23, 1, pc), (24, 4, j)]) else r.first, fix := fix }

/-- The 32 granules of a run's k-th line on both pseudo-channels, in the order in which the run takes them (log 44). -/
def tgGrans : List (Nat × Nat) := (List.range 2).flatMap fun pc => (List.range 16).map fun j => (pc, j)

def TgRun.writeLine (r : TgRun) (t : TgS) (ch k : Nat) : TgRun :=
  let m := tgGrans.foldl (fun m p => MemS.tgWrite m t k (hbmAt (2 * ch + p.1) (t.line k) + 16 * p.2) p.2) r.st.mem
  { r with st := r.st.setMem m }

def TgRun.readLine (r : TgRun) (t : TgS) (ch k : Nat) (upset : List TgUpset) : TgRun :=
  tgGrans.foldl (fun r p => TgRun.read r t ch k p.1 p.2 upset) r

/-- The pass of a run (R339): write all, then read all; write only; read only; or write and read alternately, line by line. -/
def TgRun.pass (r : TgRun) (t : TgS) (ch lines : Nat) (upset : List TgUpset) : TgRun :=
  let ks := List.range lines
  match wbits t.ctrl 4 3 with
  | 0 => ks.foldl (fun r k => TgRun.readLine r t ch k upset) (ks.foldl (fun r k => TgRun.writeLine r t ch k) r)
  | 1 => ks.foldl (fun r k => TgRun.writeLine r t ch k) r
  | 2 => ks.foldl (fun r k => TgRun.readLine r t ch k upset) r
  | _ => ks.foldl (fun r k => (TgRun.writeLine r t ch k).readLine t ch k upset) r

/-- TG_RUN_END (R324, R338 to R340): the run's lines are written and read, what its reads rewrite is rewritten (log 44), DONE is set, mismatches are counted and named, a mismatch is one
qualifying event (R527), and an assignment that waited for the run is carried out. A run that STOP ended has done a number of lines that
nothing states (log 44). -/
def execTgRunEnd (ch : Fin 1024) (upset : List TgUpset) (s : State) : Outcome State Fault Refusal :=
  let t := s.tg ch.val
  if !t.busy then .next s
  else
    let n := wbits t.len 23 0
    let (lines, s) : Nat × State := if t.stopped then ((s.draw).1 % (n + 1), (s.draw).2) else (n, s)
    let r := TgRun.pass { st := s, bad := 0, first := none, fix := [] } t ch.val lines upset
    let s := (r.st.setMem (r.fix.reverse.foldl (fun m p => m.restore p.1 p.2) r.st.mem)).setTg ch.val
      { t with busy := false, stopped := false, status := t.status ||| (if r.bad = 0 then 1 else 3),
               errs := BitVec.ofNat 32 (min (2 ^ 32 - 1) r.bad), first := (r.first.map fun f => BitVec.ofNat 32 f.2).getD t.first }
    let s := match r.first with
      | none => s
      | some f => s.raiseAs { FaultRec.new s 0x0102 (some (ch.val / 32)) (0x90 + ch.val % 32) with test := true, dkind := 7, detail := f.1 } true
    let held := s.mem.heldAssign.filter (·.1 == ch.val)
    let s := s.setMem { s.mem with heldAssign := s.mem.heldAssign.filter (·.1 != ch.val) }
    .next (held.foldl (fun s h => s.writeChOwn h.1 h.2) s)

end Sys2Proof.Machine
end

