-- ==== Sys2Proof/Machine/Operands.lean ====
section
/-! DEFINITION. The operand forms: the descriptors of the descriptor pool as their fields (R91, R129, R188, R225, R278,
R393, R428), operation records (R88 to R90), table entries (R216), gather lists (R226) and block index entries (R282). -/

namespace Sys2Proof.Machine

open Sys2Proof

/-- Field [hi:lo] of the item at byte `off` of a little-endian record (R5). -/
def fieldAt (n off hi lo : Nat) : Nat := bits n (8 * off + hi) (8 * off + lo)

def bitAt (n off i : Nat) : Bool := n.testBit (8 * off + i)

/-! ## Operand descriptor (R129) -/

structure OperandD where
  role : Nat
  fmt : Nat
  blk : Bool
  corrEn : Bool
  /-- valid input rows and output columns minus 1 -/
  kM1 : Nat
  nM1 : Nat
  tol : Nat
  srcOff : Nat
  stride : Nat
  corrOff : Nat
  scaleOff : Nat
  ord0 : Nat
  deriving DecidableEq, Repr

def OperandD.of (n : Nat) : OperandD :=
  { role := fieldAt n 1 0 0, fmt := fieldAt n 1 3 1, blk := bitAt n 1 4, corrEn := bitAt n 1 5, kM1 := fieldAt n 2 7 0,
    nM1 := fieldAt n 3 6 0, tol := fieldAt n 4 3 0, srcOff := fieldAt n 8 31 0, stride := fieldAt n 0x0C 31 0,
    corrOff := fieldAt n 0x10 31 0, scaleOff := fieldAt n 0x14 31 0, ord0 := fieldAt n 0x18 7 0 }

/-- Pass formats that accumulate integers (R125). -/
def isIntFmt (fmt : Nat) : Bool := decide (fmt ≤ 1)

/-- Block scaling applies: BLK with an FP8 format (R175). -/
def OperandD.scaled (d : OperandD) : Bool := d.blk && (d.fmt == 2 || d.fmt == 3)

/-- Stored bytes of a row of an operand (R125, R176). -/
def OperandD.rowBytes (d : OperandD) : Nat :=
  if d.scaled then 144
  else if d.fmt = 1 then (if d.role = 0 then 64 else 256)
  else if d.fmt = 4 then 256
  else 128

/-- Rows of a weight tile (R125). -/
def weightRows (fmt : Nat) : Nat := if fmt = 1 then 256 else 128

/-- Cycles of a W_LOAD, and cycles a row (c) of a PASS (R95). -/
def loadCycles (fmt : Nat) : Nat := if fmt = 4 then 256 else 128
def rowCycles (fmt : Nat) : Nat := if fmt = 4 then 4 else 1

/-- End of an operand's footprint (R130). -/
def OperandD.footEnd (d : OperandD) (rows : Nat) : Nat :=
  if rows = 0 then d.srcOff else d.srcOff + d.stride * (rows - 1) + d.rowBytes

/-! ## Vector descriptor (R188 to R190) -/

structure VecRec where
  loc : Nat
  fmt : Nat
  z0 : Bool
  off : Nat
  stride1 : Nat
  stride2 : Nat
  deriving DecidableEq, Repr

def VecRec.of (n off : Nat) : VecRec :=
  { loc := fieldAt n off 2 0, fmt := fieldAt n off 6 3, z0 := bitAt n off 7, off := fieldAt n (off + 1) 24 0,
    stride1 := fieldAt n (off + 5) 23 0, stride2 := fieldAt n (off + 8) 23 0 }

def VecRec.present (r : VecRec) : Bool := r.loc != 0

structure VecD where
  op : Nat
  n0 : Nat
  n1 : Nat
  n2 : Nat
  shift : Nat
  zout : Nat
  cmp : Nat
  excl : Bool
  seg : Bool
  tblRows : Nat
  s0 : VecRec
  s1 : VecRec
  s2 : VecRec
  d : VecRec
  deriving DecidableEq, Repr

def VecD.of (n : Nat) : VecD :=
  { op := fieldAt n 1 7 0, n0 := fieldAt n 2 15 0, n1 := fieldAt n 4 15 0, n2 := fieldAt n 6 15 0, shift := fieldAt n 8 4 0,
    zout := fieldAt n 8 12 5, cmp := fieldAt n 8 15 13, excl := bitAt n 8 16, seg := bitAt n 8 17, tblRows := fieldAt n 0x0C 23 0,
    s0 := VecRec.of n 0x10, s1 := VecRec.of n 0x1C, s2 := VecRec.of n 0x28, d := VecRec.of n 0x34 }

def VecD.n (v : VecD) : Nat := v.n0 * v.n1 * v.n2

/-- Bits of an element of a format code, 0 for a malformed code (R159). -/
def fmtBits (code : Nat) : Nat :=
  match Fmt.ofCode code with
  | some f => f.bits
  | none => 0

/-- Nibble address (two a byte) of element (i0, i1, i2) of an operand (R190). -/
def VecRec.nib (r : VecRec) (i0 i1 i2 : Nat) : Nat :=
  2 * (r.off + 16 * (i1 * r.stride1 + i2 * r.stride2)) + (if r.z0 then 0 else i0 * (fmtBits r.fmt / 4))

/-- Cost terms k and t of an operation of R191, by its class (R97); none for a code that is no operation. -/
def vecCost (op : Nat) : Option (Nat × Nat) :=
  if 1 ≤ op ∧ op ≤ 9 then some (1, 0)
  else if op = 0x10 then some (2, 0)
  else if 0x11 ≤ op ∧ op ≤ 0x13 then some (4, 0)
  else if op = 0x20 ∨ op = 0x21 then some (1, 9)
  else if 0x28 ≤ op ∧ op ≤ 0x2A then some (1, 9)
  else if op = 0x30 then some (4, 0)
  else none

def VecD.isScan (v : VecD) : Bool := v.op == 0x20 || v.op == 0x21
def VecD.isRed (v : VecD) : Bool := decide (0x28 ≤ v.op ∧ v.op ≤ 0x2A)
def VecD.isGather (v : VecD) : Bool := v.op == 0x30

/-- COST of a VE_RUN (R97, R193). -/
def VecD.cost (v : VecD) : Nat :=
  let kt := (vecCost v.op).getD (0, 0)
  16 + kt.1 * ceilDiv v.n 512 + kt.2

/-! ## DMA descriptor (R278) -/

structure DmaD where
  srcSp : Nat
  dstSp : Nat
  expand : Bool
  transpose : Bool
  cvt : Bool
  cbSlot : Nat
  idxSp : Nat
  srcFmt : Nat
  dstFmt : Nat
  srcDie : Nat
  dstDie : Nat
  srcTb : Nat
  dstTb : Nat
  nBlk : Nat
  src : Nat
  dst : Nat
  bytes : Nat
  blkFirst : Nat
  idxOff : Nat
  rsvFirst : Nat
  rsvN : Nat
  deriving DecidableEq, Repr

def DmaD.of (n : Nat) : DmaD :=
  { srcSp := fieldAt n 1 2 0, dstSp := fieldAt n 1 5 3, expand := bitAt n 1 6, transpose := bitAt n 1 7, cvt := bitAt n 2 0,
    cbSlot := fieldAt n 2 2 1, idxSp := fieldAt n 2 3 3, srcFmt := fieldAt n 3 3 0, dstFmt := fieldAt n 3 7 4,
    srcDie := fieldAt n 4 4 0, dstDie := fieldAt n 5 4 0, srcTb := fieldAt n 6 1 0, dstTb := fieldAt n 6 3 2, nBlk := fieldAt n 7 7 0,
    src := fieldAt n 8 63 0, dst := fieldAt n 0x10 63 0, bytes := fieldAt n 0x18 31 0, blkFirst := fieldAt n 0x1C 31 0,
    idxOff := fieldAt n 0x20 31 0, rsvFirst := fieldAt n 0x24 31 0, rsvN := fieldAt n 0x28 15 0 }

/-- Cycles for which a DMA_RUN occupies its engine (R98). -/
def DmaD.occupancy (d : DmaD) : Nat := 24 + ceilDiv d.bytes (if d.transpose then 256 else 512)

/-- Elements that a converting transfer moves, and the bytes it reads (R279). -/
def DmaD.elems (d : DmaD) : Nat := if fmtBits d.dstFmt = 0 then 0 else d.bytes * 8 / fmtBits d.dstFmt
def DmaD.srcSpan (d : DmaD) : Nat := if d.cvt then ceilDiv (d.elems * fmtBits d.srcFmt) 8 else d.bytes

/-! ## Gather, fabric send and host transfer descriptors (R225, R428, R393) -/

structure GatherD where
  buf : Nat
  nTab : Nat
  cFirst : Nat
  cN : Nat
  listOff : Nat
  maxIdx : Nat
  tlist : Nat
  rsvFirst : Nat
  rsvN : Nat
  deriving DecidableEq, Repr

def GatherD.of (n : Nat) : GatherD :=
  { buf := fieldAt n 1 2 0, nTab := fieldAt n 2 7 0, cFirst := fieldAt n 3 4 0, cN := fieldAt n 4 5 0, listOff := fieldAt n 8 31 0,
    maxIdx := fieldAt n 0x0C 31 0, tlist := fieldAt n 0x10 63 0, rsvFirst := fieldAt n 0x18 31 0, rsvN := fieldAt n 0x1C 15 0 }

structure SendD where
  op : Nat
  fence : Bool
  timed : Bool
  locSp : Nat
  locDie : Nat
  dev : Nat
  poolOff : Nat
  loc : Nat
  bytes : Nat
  aop : Nat
  asz : Bool
  opa : Nat
  opb : Nat
  rsvFirst : Nat
  rsvN : Nat
  deriving DecidableEq, Repr

def SendD.of (n : Nat) : SendD :=
  { op := fieldAt n 1 1 0, fence := bitAt n 1 2, timed := bitAt n 1 3, locSp := fieldAt n 2 2 0, locDie := fieldAt n 3 4 0,
    dev := fieldAt n 4 15 0, poolOff := fieldAt n 8 47 0, loc := fieldAt n 0x10 63 0, bytes := fieldAt n 0x18 31 0,
    aop := fieldAt n 0x1C 3 0, asz := bitAt n 0x1C 4, opa := fieldAt n 0x20 63 0, opb := fieldAt n 0x28 63 0,
    rsvFirst := fieldAt n 0x30 31 0, rsvN := fieldAt n 0x34 15 0 }

structure XferD where
  toBuf : Bool
  buf : Nat
  locSp : Nat
  perItem : Bool
  locDie : Nat
  bufOff : Nat
  loc : Nat
  bytes : Nat
  rsvFirst : Nat
  rsvN : Nat
  deriving DecidableEq, Repr

def XferD.of (n : Nat) : XferD :=
  { toBuf := bitAt n 1 0, buf := fieldAt n 1 3 1, locSp := fieldAt n 1 6 4, perItem := bitAt n 1 7, locDie := fieldAt n 2 4 0,
    bufOff := fieldAt n 4 31 0, loc := fieldAt n 8 63 0, bytes := fieldAt n 0x10 31 0, rsvFirst := fieldAt n 0x14 31 0,
    rsvN := fieldAt n 0x18 15 0 }

/-- Length of a host transfer for a number of items, a multiple of 16 with PER_ITEM (R393). -/
def XferD.len (d : XferD) (items : Nat) : Nat := if d.perItem then ceilDiv (d.bytes * items) 16 * 16 else d.bytes

/-! ## Operation arguments (R88 to R90) -/

def ImgOp.rows (o : ImgOp) : Nat := bits o.arg1 9 0
def ImgOp.fmt (o : ImgOp) : Nat := bits o.arg1 12 10
def ImgOp.acc (o : ImgOp) : Bool := o.arg1.testBit 13
def ImgOp.ftq (o : ImgOp) : Bool := o.arg1.testBit 14
def ImgOp.accTile (o : ImgOp) : Nat := bits o.arg1 20 15
/-- Accumulator tiles that a PASS spans (R134). -/
def ImgOp.span (o : ImgOp) : Nat := ceilDiv o.rows 128

/-! ## Table entries (R216) -/

def TableEntry.of (n : Nat) : TableEntry :=
  { base := fieldAt n 0 63 0, rows := fieldAt n 8 47 0, tableId := fieldAt n 0x0E 15 0, localRows := fieldAt n 0x10 47 0,
    poolDev := fieldAt n 0x16 15 0, poolOff := fieldAt n 0x18 47 0, dim := fieldAt n 0x20 9 0 + 1, twide := fieldAt n 0x20 11 10,
    opt := fieldAt n 0x20 13 12, pool := fieldAt n 0x20 15 14, outFmt := fieldAt n 0x22 3 0, dist := bitAt n 0x22 4,
    rcache := bitAt n 0x22 5, stride := fieldAt n 0x23 7 0, viaF := fieldAt n 0x24 2 0, stripe := fieldAt n 0x26 15 0,
    outOff := fieldAt n 0x28 31 0, outMax := fieldAt n 0x2C 31 0 }

/-! ## Block index entries (R282) -/

structure BlockIdx where
  off : Nat
  exp : Nat
  stored : Nat
  kind : Nat
  last : Bool
  rsvd : Bool
  ord : Nat
  cbTag : Nat
  check : Nat
  deriving DecidableEq, Repr

def BlockIdx.of (n : Nat) : BlockIdx :=
  { off := bits n 35 0, exp := bits n 45 36 + 1, stored := bits n 56 46, kind := bits n 58 57, last := n.testBit 59,
    rsvd := bits n 63 60 != 0 || fieldAt n 9 7 0 != 0, ord := fieldAt n 8 7 0, cbTag := fieldAt n 0x0A 15 0, check := fieldAt n 0x0C 31 0 }

/-! ## CRC-32C (R83, R282) -/

/-- One bit of the reflected division by 0x1EDC_6F41. -/
def crcBit (c : Nat) : Nat := if c % 2 = 1 then Nat.xor (c / 2) 0x82F63B78 else c / 2

def crcByte (c : Nat) (b : Byte) : Nat :=
  crcBit (crcBit (crcBit (crcBit (crcBit (crcBit (crcBit (crcBit (Nat.xor c b.toNat))))))))

/-- CRC-32C of a list of bytes (initial value and final XOR of all ones, bits reflected, as Castagnoli's code is used; log 6). -/
def crc32c (l : List Byte) : Nat := Nat.xor (l.foldl crcByte 0xFFFFFFFF) 0xFFFFFFFF

end Sys2Proof.Machine
end

