-- ==== Sys2Proof/Machine/Image.lean ====
section
/-! DEFINITION. Schedule images: the sections as they lie in a block of bytes (R82 to R92), and the checks of R111 that
look at one record or at a record and the records it names (checks 1 to 6). The image is one little-endian number. -/

namespace Sys2Proof.Machine

open Sys2Proof

/-! ## Sections (R82 to R92) -/

/-- Count and offset of section 1 to 7 (R83) and the size of its records. -/
def imgCount (b sec : Nat) : Nat :=
  match sec with
  | 1 => fieldAt b 0x18 15 0
  | 2 => fieldAt b 0x1A 15 0
  | 3 => fieldAt b 0x1C 31 0
  | 4 => fieldAt b 0x20 31 0
  | 5 => fieldAt b 0x24 31 0
  | 6 => fieldAt b 0x28 31 0
  | _ => fieldAt b 0x2C 31 0

def imgOff (b sec : Nat) : Nat := fieldAt b (0x40 + 4 * (sec - 1)) 31 0

def recSize (sec : Nat) : Nat :=
  match sec with
  | 1 => 8
  | 2 => 64
  | 3 => 32
  | 4 => 16
  | 5 => 16
  | 6 => 64
  | _ => 16

/-- Largest and smallest count of a section (R83). -/
def recMax (sec : Nat) : Nat :=
  match sec with
  | 1 => 256
  | 2 => 64
  | 3 => 0x100000
  | 4 => 0x800000
  | 5 => 0xF00000
  | _ => 0x100000

def recMin (sec : Nat) : Nat := if sec = 6 then 0 else 1

/-- Record `i` of a section as a number. -/
def imgRec (b sec i : Nat) : Nat := bits b (8 * (imgOff b sec + recSize sec * (i + 1)) - 1) (8 * (imgOff b sec + recSize sec * i))

def imgRecs (b sec : Nat) : List Nat := (List.range (imgCount b sec)).map (imgRec b sec)

/-- Core table entry (R84). -/
def ImgCore.of (n : Nat) : ImgCore :=
  { cdie := fieldAt n 0 4 0, core := fieldAt n 0 7 5, arrays := fieldAt n 1 3 0, replay := fieldAt n 1 5 4, sub := bitAt n 1 6 }

/-- Slot class record (R85). -/
def ImgClass.of (n : Nat) : ImgClass :=
  { kind := fieldAt n 0 7 0, flushIncl := bitAt n 1 0, periodLog := fieldAt n 2 7 0, groupsM1 := fieldAt n 3 7 0, phase := fieldAt n 4 15 0,
    length := fieldAt n 8 31 0, firstStep := fieldAt n 0x0C 31 0, nSteps := fieldAt n 0x10 31 0, maxIndices := fieldAt n 0x14 31 0,
    maxOut := fieldAt n 0x18 31 0, maxItems := fieldAt n 0x1C 15 0, maxInline := fieldAt n 0x1E 15 0, cmpl := fieldAt n 0x20 15 0 }

/-- Step record (R86). -/
def ImgStep.of (n : Nat) : ImgStep :=
  { start := fieldAt n 0 31 0, length := fieldAt n 4 31 0, unitKind := fieldAt n 8 1 0, unit := fieldAt n 9 7 0, engines := fieldAt n 0x0A 5 0,
    remoteDep := bitAt n 0x0B 0, final := bitAt n 0x0B 1, replayRes := bitAt n 0x0B 2, first := fieldAt n 0x0C 31 0,
    nTiles := fieldAt n 0x10 31 0, depStep := fieldAt n 0x14 31 0, slack := fieldAt n 0x18 15 0, remoteWin := fieldAt n 0x1A 15 0,
    group := fieldAt n 0x1C 7 0, replayTiles := fieldAt n 0x1D 7 0 }

/-- Tile record (R87). -/
def ImgTile.of (n : Nat) : ImgTile :=
  { firstOp := fieldAt n 0 31 0, nOp := fieldAt n 4 15 0, len := fieldAt n 6 15 0, start := fieldAt n 8 31 0 }

/-- Operation record (R88). -/
def ImgOp.of (n : Nat) : ImgOp :=
  { opcode := fieldAt n 0 7 0, engine := fieldAt n 1 2 0, issue := fieldAt n 2 8 0, arg0 := fieldAt n 4 31 0, arg1 := fieldAt n 8 31 0,
    cost := fieldAt n 0x0C 15 0 }

/-- Reservation record (R92). -/
def ImgRsv.of (n : Nat) : ImgRsv :=
  { id := fieldAt n 0 27 0, kind := fieldAt n 0 31 28, start := fieldAt n 4 15 0, len := fieldAt n 6 15 0, amount := fieldAt n 8 31 0 }

/-- The image in a block of bytes, without the table entries that the load reads later. -/
def Image.of (b : Nat) : Image :=
  { id := fieldAt b 8 63 0, format := fieldAt b 4 15 0, upd := bitAt b 6 0, saddleUpd := fieldAt b 0x30 15 0, cycleLog := fieldAt b 0x32 15 0,
    cixon := fieldAt b 0x60 31 0, cores := (imgRecs b 1).map ImgCore.of, classes := (imgRecs b 2).map ImgClass.of,
    steps := (imgRecs b 3).map ImgStep.of, tiles := (imgRecs b 4).map ImgTile.of, ops := (imgRecs b 5).map ImgOp.of,
    descs := imgRecs b 6, rsvs := (imgRecs b 7).map ImgRsv.of, tables := [] }

def ImgCore.none_ : ImgCore := { cdie := 0, core := 0, arrays := 0, replay := 0, sub := false }
def ImgClass.none_ : ImgClass := ImgClass.of 0
def ImgStep.none_ : ImgStep := ImgStep.of 0
def ImgTile.none_ : ImgTile := ImgTile.of 0
def ImgOp.none_ : ImgOp := ImgOp.of 0

def Image.core (im : Image) (i : Nat) : ImgCore := im.cores.getD i ImgCore.none_
def Image.cls (im : Image) (i : Nat) : ImgClass := im.classes.getD i ImgClass.none_
def Image.step (im : Image) (i : Nat) : ImgStep := im.steps.getD i ImgStep.none_
def Image.tile (im : Image) (i : Nat) : ImgTile := im.tiles.getD i ImgTile.none_
def Image.op (im : Image) (i : Nat) : ImgOp := im.ops.getD i ImgOp.none_
def Image.desc (im : Image) (i : Nat) : Nat := im.descs.getD i 0
def Image.cycle (im : Image) : Nat := 2 ^ im.cycleLog

/-- Type of a descriptor-pool entry (R91). -/
def descType (n : Nat) : Nat := fieldAt n 0 7 0

/-- Core number (8 × C-die + core) of a core-table index. -/
def Image.coreNo (im : Image) (i : Nat) : Nat := 8 * (im.core i).cdie + (im.core i).core

/-- Steps of a class, by index. -/
def ImgClass.stepIdx (c : ImgClass) : List Nat := (List.range c.nSteps).map (c.firstStep + ·)

/-- Tiles of a core step and operations of a tile, by index. -/
def ImgStep.tileIdx (st : ImgStep) : List Nat := (List.range st.nTiles).map (st.first + ·)
def ImgTile.opIdx (t : ImgTile) : List Nat := (List.range t.nOp).map (t.firstOp + ·)

/-- Mesh index of the die of a step. -/
def Image.stepDie (im : Image) (st : ImgStep) : Nat := if st.unitKind = 0 then (im.core st.unit).cdie else st.unit

/-- Index of the operations of a step, with the index of their tile. -/
def Image.stepOps (im : Image) (st : ImgStep) : List (Nat × Nat) :=
  st.tileIdx.flatMap fun t => (im.tile t).opIdx.map fun o => (t, o)

/-- Steps that each class, taken by index, lists; used to find the class of a step. -/
def Image.classOf (im : Image) (step : Nat) : Option ImgClass :=
  im.classes.find? fun c => decide (c.firstStep ≤ step ∧ step < c.firstStep + c.nSteps)

/-! ## Costs (R94 to R98) -/

/-- COST of an operation under the cost tables; none where its descriptor is not of its type. -/
def Image.cost (im : Image) (o : ImgOp) : Option Nat :=
  let d := im.desc o.arg0
  match o.opcode with
  | 1 => if descType d = 1 then some (loadCycles (OperandD.of d).fmt) else none
  | 2 => some (if o.rows = 0 then 1 else o.rows * rowCycles o.fmt)
  | 3 => if descType d = 2 then some (VecD.of d).cost else none
  | 4 => some 2
  | 5 => if descType d = 3 then some (DmaD.of d).occupancy else none
  | 6 => some (8 + ceilDiv (bits o.arg1 7 0) 4)
  | 7 => some (bits o.arg1 9 0)
  | _ => none

/-! ## Reports (R111) -/

/-- DETAIL of a failing record. -/
def inSec (sec i : Nat) : Nat := sec * 2 ^ 28 + i

/-- First record of a section that fails, in the order of the indices. -/
def firstBadFrom {α : Type} (sec : Nat) (bad : Nat → α → Bool) (i : Nat) : List α → Option Nat
  | [] => none
  | x :: t => if bad i x then some (inSec sec i) else firstBadFrom sec bad (i + 1) t

def firstBad {α : Type} (sec : Nat) (l : List α) (bad : Nat → α → Bool) : Option Nat := firstBadFrom sec bad 0 l

/-- The first answer of a list. -/
def firstOf : List (Option Nat) → Option Nat
  | [] => none
  | some x :: _ => some x
  | none :: t => firstOf t

/-- The least of the answers. -/
def leastOf : List Nat → Option Nat
  | [] => none
  | x :: t => some (match leastOf t with | none => x | some y => min x y)

/-! ## Check 2 and the header (R83) -/

/-- LENGTH in range and equal to the buffer's, CRC right (R83, R389): `bs` is the whole buffer. -/
def imgLenOk (b len : Nat) (bs : List Byte) : Bool :=
  let n := fieldAt b 0x10 31 0
  n == len && n % 256 == 0 && decide (0x100 ≤ n ∧ n ≤ 0x10000000) &&
    crc32c (bs.take 0x14 ++ [0, 0, 0, 0] ++ (bs.drop 0x18).take (n - 0x18)) == fieldAt b 0x14 31 0

/-- Bytes of a section, none for an empty descriptor pool. -/
def imgSpan (b sec : Nat) : Nat × Nat := (imgOff b sec, imgOff b sec + recSize sec * imgCount b sec)

/-- The header's ranges and the placing of the sections (R82, R83). -/
def imgHeaderOk (b : Nat) : Bool :=
  let n := fieldAt b 0x10 31 0
  let upd := bitAt b 6 0
  let su := fieldAt b 0x30 15 0
  let cy := fieldAt b 0x32 15 0
  let id := fieldAt b 8 63 0
  let live := [1, 2, 3, 4, 5, 6, 7].filter fun k => !(k == 6 && imgCount b 6 == 0)
  id != 0 && decide (su ≤ 1024) && (upd || su == 0) && decide (12 ≤ cy ∧ cy ≤ 16) &&
    ([1, 2, 3, 4, 5, 6, 7].all fun k => decide (recMin k ≤ imgCount b k ∧ imgCount b k ≤ recMax k)) &&
    (live.all fun k => imgOff b k % 256 == 0 && decide (0x100 ≤ imgOff b k) && decide ((imgSpan b k).2 ≤ n)) &&
    (live.all fun j => live.all fun k => decide (k ≤ j) || decide ((imgSpan b j).2 ≤ (imgSpan b k).1) || decide ((imgSpan b k).2 ≤ (imgSpan b j).1))

/-! ## Check 3: ranges (R83 to R93, R129, R130, R178, R188 to R192, R225, R278, R279, R393, R428) -/

/-- Sizes of the stores that an operand can lie in (R185, R279). -/
def osBytes : Nat := 0x1800000
def tbBytes : Nat := 0x10000
def shBytes : Nat := 0x2000000

def ImgClass.rangeOk (im : Image) (c : ImgClass) : Bool :=
  decide (1 ≤ c.kind ∧ c.kind ≤ 0x7F) && decide (4 ≤ c.periodLog ∧ c.periodLog ≤ 12) && decide (c.phase < 2 ^ c.periodLog) &&
    im.cycle % ((c.groupsM1 + 1) * 2 ^ c.periodLog) == 0 && decide (16 ≤ c.length ∧ c.length ≤ 61440) &&
    decide (1 ≤ c.nSteps ∧ c.nSteps ≤ 65536) && decide (c.firstStep + c.nSteps ≤ im.steps.length) && decide (c.maxIndices ≤ 2 ^ 20) &&
    decide (c.maxOut ≤ 2 ^ 30) && decide (c.maxInline ≤ 448) && decide (8 ≤ c.cmpl ∧ c.cmpl ≤ 1024)

/-- UNIT of a step names a unit of its kind (R86). -/
def Image.unitOk (im : Image) (st : ImgStep) : Bool :=
  match st.unitKind with
  | 0 => decide (st.unit < im.cores.length)
  | 1 => decide (32 ≤ st.unit ∧ st.unit < 48)
  | 2 => decide (48 ≤ st.unit ∧ st.unit < 56)
  | _ => decide (56 ≤ st.unit ∧ st.unit < 60)

def ImgStep.rangeOk (im : Image) (i : Nat) (st : ImgStep) : Bool :=
  decide (st.start ≤ 61439) && decide (1 ≤ st.length ∧ st.length ≤ 61440) && im.unitOk st && decide (st.slack ≤ 448) &&
    (st.depStep == 0xFFFFFFFE || decide (st.depStep < im.steps.length)) && decide (st.replayTiles ≤ 16) &&
    (st.replayRes || st.replayTiles == 0) &&
    (im.classes.all fun c => !decide (c.firstStep ≤ i ∧ i < c.firstStep + c.nSteps) || decide (st.group ≤ c.groupsM1)) &&
    (if st.unitKind = 0 then
      decide (1 ≤ st.nTiles ∧ st.nTiles ≤ 65536) && decide (st.first + st.nTiles ≤ im.tiles.length) && st.remoteWin == 0
     else
      st.nTiles == 0 && decide (st.first < im.descs.length) && (st.unitKind == 1 || st.remoteWin == 0) &&
        decide (st.engines ≤ if st.unitKind = 1 then 7 else 0))

def ImgTile.rangeOk (im : Image) (t : ImgTile) : Bool :=
  decide (1 ≤ t.nOp ∧ t.nOp ≤ 4096) && decide (t.firstOp + t.nOp ≤ im.ops.length) && decide (1 ≤ t.len ∧ t.len ≤ 512) && t.start != 2 ^ 32 - 1

/-- Ranges of an operation; an OPCODE or ENGINE of all ones fails here (R88 to R90, R579). -/
def ImgOp.rangeOk (im : Image) (o : ImgOp) : Bool :=
  o.opcode != 0xFF && o.engine != 7 &&
  match o.opcode with
  | 1 | 3 | 5 => decide (o.arg0 < im.descs.length) && o.arg1 == 0
  | 2 => decide (o.arg0 < im.descs.length) && decide (o.rows ≤ 512) && decide (o.fmt ≤ 4) && (o.rows == 0 || decide (o.accTile + o.span ≤ 64))
  | 6 => decide (1 ≤ bits o.arg1 7 0 ∧ bits o.arg1 7 0 ≤ 128)
  | 7 => decide (1 ≤ bits o.arg1 9 0 ∧ bits o.arg1 9 0 ≤ 512)
  | _ => true

/-- Width of ID by resource kind (R93). -/
def rsvIdBits (kind : Nat) : Nat :=
  match kind with
  | 1 => 11
  | 2 => 12
  | 3 => 8
  | 4 | 5 | 6 => 4
  | 7 | 8 | 9 => 3
  | _ => 0

def ImgRsv.rangeOk (im : Image) (r : ImgRsv) : Bool :=
  decide (1 ≤ r.kind ∧ r.kind ≤ 9) && decide (r.id < 2 ^ rsvIdBits r.kind) && decide (1 ≤ r.len ∧ r.len ≤ 4096) &&
    decide (r.start < im.cycle) && (r.kind != 1 || (r.start % 4 == 0 && r.len % 4 == 0))

/-- A descriptor's reservation records lie in the section (R225, R278, R393, R428). -/
def rsvSpanOk (im : Image) (first n : Nat) : Bool := decide (1 ≤ n ∧ n ≤ 64) && decide (first + n ≤ im.rsvs.length)

/-- The scale stream of `rows` rows lies in operand SRAM, clear of the operand's footprint (R178). -/
def OperandD.scaleOk (d : OperandD) (rows : Nat) : Bool :=
  !d.scaled || (decide (d.scaleOff + 4 * rows ≤ osBytes) &&
    (rows == 0 || decide (d.scaleOff + 4 * rows ≤ d.srcOff) || decide (d.footEnd rows ≤ d.scaleOff)))

def OperandD.rangeOk (d : OperandD) : Bool :=
  let w := d.role == 0
  decide (d.fmt ≤ 4) && (if w then decide (d.kM1 < weightRows d.fmt) else d.kM1 == 0 && d.nM1 == 0) &&
    (if !w && !isIntFmt d.fmt then decide (8 ≤ d.tol ∧ d.tol ≤ 14) else d.tol == 0) &&
    d.srcOff % 16 == 0 && decide (d.srcOff < osBytes) && d.stride % 16 == 0 && decide (d.rowBytes ≤ d.stride ∧ d.stride ≤ osBytes) &&
    (if d.corrEn then d.corrOff % 16 == 0 && decide (d.corrOff + 512 ≤ osBytes) else d.corrOff == 0) &&
    (if d.blk then d.scaleOff % 16 == 0 else d.scaleOff == 0 && d.ord0 == 0) &&
    (!w || (decide (d.footEnd (weightRows d.fmt) ≤ osBytes) && d.scaleOk (weightRows d.fmt)))

/-- Outputs that a row of D takes along dimension 0 (R199). -/
def VecD.dRow (v : VecD) : Nat := if v.isRed && !v.seg then 1 else v.n0

/-- Nibble just past the highest element of an operand, `n0` elements to a row (R190, R192). -/
def VecRec.top (r : VecRec) (n0 n1 n2 : Nat) : Nat := r.nib (if r.z0 then 0 else n0 - 1) (n1 - 1) (n2 - 1) + fmtBits r.fmt / 4

def VecRec.bound (r : VecRec) : Nat := if r.loc = 1 then osBytes else tbBytes

/-- Range of one operand record and its footprint (R189, R192, R200). The strides have their range whatever the other fields say, and a FMT
of all ones fails here (R579); OFF has a multiple to keep only where FMT names an element, and a footprint only where LOC names a store. -/
def VecD.recOk (v : VecD) (r : VecRec) (n0 : Nat) (table : Bool) : Bool :=
  decide (r.stride1 ≤ 0x17FFFF) && decide (r.stride2 ≤ 0x17FFFF) && r.fmt != 0xF &&
  (!r.present || fmtBits r.fmt == 0 || r.fmt == 7 ||
    ((2 * r.off) % max 2 (fmtBits r.fmt / 4) == 0 &&
      (r.loc == 2 || r.loc == 3 || (v.n == 0 && !table) ||
        decide ((if table then 2 * (r.off + 16 * r.stride1 * (v.tblRows - 1)) + fmtBits r.fmt / 4 * n0 else r.top n0 v.n1 v.n2) ≤ 2 * r.bound))))

def VecD.rangeOk (v : VecD) : Bool :=
  decide (v.n0 ≤ 65534) && decide (v.n1 ≤ 65534) && decide (v.n2 ≤ 65534) &&
    (!v.isGather || decide (1 ≤ v.tblRows ∧ v.tblRows ≤ 0x180000)) && v.tblRows != 0xFFFFFF && v.op != 0xFF && v.cmp != 7 && (v.op != 7 || decide (v.cmp ≤ 5)) &&
    v.recOk v.s0 v.n0 v.isGather && v.recOk v.s1 (if v.isGather then 1 else v.n0) false && v.recOk v.s2 v.n0 false && v.recOk v.d v.dRow false

def dmaMax (transpose : Bool) : Nat := if transpose then 124928 else 249856

/-- End of an SRAM span within its store; always true for the other spaces (R279). -/
def spanOk (sp off n : Nat) : Bool :=
  match sp with
  | 0 => decide (off + n ≤ osBytes)
  | 1 => decide (off + n ≤ tbBytes)
  | 2 => decide (off + n ≤ shBytes)
  | 3 => decide (off < 2 ^ 48)
  | _ => true

/-- Ranges of a DMA descriptor; a space or format code of all ones fails here (R278, R279, R579, R580). -/
def DmaD.rangeOk (im : Image) (d : DmaD) : Bool :=
  d.srcSp != 7 && d.dstSp != 7 && d.srcFmt != 0xF && d.dstFmt != 0xF &&
  (d.expand || d.dstSp == 5 || d.cbSlot == 0) && (d.cvt || (d.srcFmt == 0 && d.dstFmt == 0)) && (d.srcSp == 2 || d.srcDie == 0) &&
    (d.dstSp == 2 || d.dstDie == 0) && (d.srcSp == 1 || d.srcTb == 0) && (d.dstSp == 1 || d.dstTb == 0) &&
    (if d.expand then
      decide (1 ≤ d.nBlk ∧ d.nBlk ≤ 64) && d.blkFirst != 2 ^ 32 - 1 && d.idxOff % 16 == 0 &&
        decide (d.idxOff + 16 * d.nBlk ≤ if d.idxSp = 1 then shBytes else osBytes) && d.src % 256 == 0
     else d.nBlk == 0 && d.blkFirst == 0 && d.idxOff == 0 && d.idxSp == 0 && d.src % 16 == 0) &&
    d.dst % 16 == 0 && d.bytes % 16 == 0 && decide (d.bytes ≤ dmaMax d.transpose) && rsvSpanOk im d.rsvFirst d.rsvN &&
    (d.dstSp != 5 || decide (32 ≤ d.bytes ∧ d.bytes ≤ 4112)) &&
    (d.expand || spanOk d.srcSp d.src d.srcSpan) && (!d.expand || decide (d.src < 2 ^ 48)) && (d.dstSp == 5 || spanOk d.dstSp d.dst d.bytes)

def GatherD.rangeOk (im : Image) (d : GatherD) : Bool :=
  decide (1 ≤ d.nTab ∧ d.nTab ≤ 64) && decide (1 ≤ d.cN ∧ d.cN ≤ 32) && decide (d.cFirst + d.cN ≤ 32) && d.listOff % 16 == 0 &&
    decide (1 ≤ d.maxIdx ∧ d.maxIdx ≤ 2 ^ 20) && d.tlist % 64 == 0 && decide (d.tlist < 2 ^ 48) && rsvSpanOk im d.rsvFirst d.rsvN

/-- Ranges of a fabric send descriptor; OP, LOC_SP or AOP of all ones fails here, and so does FADD with ASZ (R428, R430, R579, R580). -/
def SendD.rangeOk (im : Image) (d : SendD) : Bool :=
  let atomic := d.op == 2
  d.op != 3 && d.locSp != 7 && d.aop != 0xF && !(atomic && d.aop == 2 && d.asz) && (d.locSp == 2 || d.locDie == 0) && d.poolOff % (if atomic then (if d.asz then 8 else 4) else 16) == 0 && d.loc % 16 == 0 &&
    (if d.locSp = 2 then decide (d.loc < shBytes) && decide (d.loc + d.bytes ≤ shBytes) else decide (d.loc < 2 ^ 48)) &&
    (if atomic then d.bytes == 0 else d.bytes % 16 == 0 && decide (d.bytes ≤ 0x400000) && d.aop == 0 && !d.asz && d.opa == 0) &&
    (d.opb == 0 || (atomic && d.aop == 4)) && rsvSpanOk im d.rsvFirst d.rsvN

/-- Ranges of a host transfer descriptor; LOC_SP of all ones fails here (R393, R579). -/
def XferD.rangeOk (im : Image) (d : XferD) : Bool :=
  d.locSp != 7 && (d.locSp == 2 || d.locDie == 0) && d.bufOff % 16 == 0 && d.loc % 16 == 0 &&
    (if d.perItem then decide (d.bytes ≤ 16384) else d.bytes % 16 == 0 && decide (d.bytes ≤ 0x40000000)) &&
    (if d.locSp = 2 then decide (d.loc < shBytes) && (d.perItem || decide (d.loc + d.bytes ≤ shBytes)) else decide (d.loc < 2 ^ 48)) &&
    rsvSpanOk im d.rsvFirst d.rsvN

/-- Ranges of a descriptor-pool entry by its type (R91). An entry of no type of R91 fails here, whether or not anything names it: R579 says
so of a TYPE of all ones only (DESIGN CHOICE, log 121). -/
def descRangeOk (im : Image) (n : Nat) : Bool :=
  match descType n with
  | 1 => (OperandD.of n).rangeOk
  | 2 => (VecD.of n).rangeOk
  | 3 => (DmaD.of n).rangeOk im
  | 4 => (GatherD.of n).rangeOk im
  | 5 => (SendD.of n).rangeOk im
  | 6 => (XferD.of n).rangeOk im
  | _ => false

/-- Descriptor ranges that depend on the operations naming the descriptor: the footprint of the rows of a PASS (R130, R178). -/
def Image.useRangeOk (im : Image) (i n : Nat) : Bool :=
  if descType n = 1 ∧ (OperandD.of n).role = 1 then
    im.ops.all fun o => !(o.opcode == 2 && o.arg0 == i) ||
      (decide ((OperandD.of n).footEnd o.rows ≤ osBytes) && (OperandD.of n).scaleOk o.rows)
  else true

def imgCheck3 (b : Nat) (im : Image) : Option Nat :=
  if !imgHeaderOk b then some 0
  else firstOf
    [firstBad 2 im.classes (fun _ c => !c.rangeOk im), firstBad 3 im.steps (fun i st => !st.rangeOk im i),
     firstBad 4 im.tiles (fun _ t => !t.rangeOk im), firstBad 5 im.ops (fun _ o => !o.rangeOk im),
     firstBad 6 im.descs (fun i n => !(descRangeOk im n && im.useRangeOk i n)), firstBad 7 im.rsvs (fun _ r => !r.rangeOk im)]

/-! ## Check 4: reserved fields (R10, R83 to R92 and the descriptor rules) -/

/-- Every bit of a record from byte `off`, bit `lo`, `n` bits long, is 0. -/
def zeroAt (r off lo n : Nat) : Bool := (r >>> (8 * off + lo)) % 2 ^ n == 0

def headerRsvOk (b : Nat) : Bool := zeroAt b 6 1 15 && zeroAt b 0x34 0 96 && zeroAt b 0x5C 0 32 && zeroAt b 0x64 0 224

/-- Reserved bits of a record of section 1 to 5 or 7. R89 calls bits [31:2] of FTQ_POP's ARG1 nothing; they count as reserved here (DESIGN CHOICE,
log 152). -/
def recRsvOk (sec r : Nat) : Bool :=
  match sec with
  | 1 => zeroAt r 1 7 1 && zeroAt r 2 0 48
  | 2 => zeroAt r 1 1 7 && zeroAt r 6 0 16 && zeroAt r 0x22 0 240
  | 3 => zeroAt r 8 2 6 && zeroAt r 0x0A 6 2 && zeroAt r 0x0B 3 5 && zeroAt r 0x1E 0 16
  | 4 => zeroAt r 0x0C 0 32
  | 5 =>
    zeroAt r 1 3 5 && zeroAt r 2 9 7 && zeroAt r 0x0E 0 16 &&
      (match fieldAt r 0 7 0 with
       | 2 => zeroAt r 8 21 11
       | 4 => zeroAt r 4 2 30 && zeroAt r 8 2 30
       | 6 => zeroAt r 4 6 26 && zeroAt r 8 8 24
       | 7 => zeroAt r 8 10 22
       | _ => true)
  | _ => zeroAt r 0x0C 0 32

def descRsvOk (r : Nat) : Bool :=
  match descType r with
  | 1 => zeroAt r 1 6 2 && zeroAt r 3 7 1 && zeroAt r 4 4 4 && zeroAt r 5 0 24 && zeroAt r 0x19 0 312
  | 2 => zeroAt r 8 18 14 && zeroAt r 0x0F 0 8 && ([0x10, 0x1C, 0x28, 0x34].all fun o => zeroAt r (o + 1) 25 7 && zeroAt r (o + 11) 0 8)
  | 3 => zeroAt r 2 4 4 && zeroAt r 4 5 3 && zeroAt r 5 5 3 && zeroAt r 6 4 4 && zeroAt r 0x2A 0 176
  | 4 => zeroAt r 1 3 5 && zeroAt r 3 5 3 && zeroAt r 4 6 2 && zeroAt r 5 0 24 && zeroAt r 0x1E 0 272
  | 5 => zeroAt r 1 4 4 && zeroAt r 2 3 5 && zeroAt r 3 5 3 && zeroAt r 6 0 16 && zeroAt r 0x0E 0 16 && zeroAt r 0x1C 5 27 && zeroAt r 0x36 0 80
  | 6 => zeroAt r 2 5 3 && zeroAt r 3 0 8 && zeroAt r 0x1A 0 304
  | _ => true

def imgCheck4 (b : Nat) : Option Nat :=
  if !headerRsvOk b then some 0
  else firstOf ([1, 2, 3, 4, 5, 6, 7].map fun k =>
    firstBad k (imgRecs b k) fun _ r => !(if k = 6 then descRsvOk r else recRsvOk k r))

/-! ## Check 5: units (R29 to R32, R84, R109, R328, R453) -/

/-- A C-die in service: not excluded, not out of service (R490, R495). -/
def State.cdieOk (s : State) (c : Nat) : Bool := !s.excluded c && !(s.cdie c).outOfService

/-- A core that a partition's image may name (R453, R530). -/
def State.coreOk (s : State) (p k : Nat) : Bool :=
  s.flag .sysCoreOwn k 6 && s.fld .sysCoreOwn k 5 0 == p && !(s.core k).clearing && !(s.core k).outOfService && !(s.core k).leaving && s.cdieOk (k / 8)

/-- An array in service (R109, R153). -/
def State.arrayOk (s : State) (k a : Nat) : Bool := !(s.array (4 * k + a)).withdrawn && !(s.array (4 * k + a)).toWithdraw

/-- Arrays that a core entry and the core's steps name: those of ARRAYS, and REPLAY_ARRAY where it is used. -/
def Image.arraysOf (im : Image) (i : Nat) (c : ImgCore) : List Nat :=
  (List.range 4).filter fun a => c.arrays.testBit a ||
    (a == c.replay && (c.sub || im.steps.any fun st => st.unitKind == 0 && st.unit == i && st.replayRes))

/-- A die that carries a step or a record: present in this start, with its port in PCIe mode for an H-die. -/
def State.dieOk (s : State) (d : Nat) : Bool := !s.excluded d && (decide (d ≥ 32) || s.cdieOk d)

/-- A resource that a record names: owned, in service and not excluded; a mesh edge by its two dies, which must be neighbours (R93, R111;
that an edge with an end on an excluded die is refused, whose switch still forwards, is log 122). -/
def State.rsvUnitOk (s : State) (p : Nat) (r : ImgRsv) : Bool :=
  match r.kind with
  | 1 => s.flag .memChOwn (r.id / 2) 6 && s.fld .memChOwn (r.id / 2) 5 0 == p && !s.mem.clearing.contains (r.id / 2) && !s.mem.deaf.contains (r.id / 2)
  | 2 => s.dieOk (r.id / 64) && s.dieOk (r.id % 64) && routeEdges (r.id / 64) (r.id % 64) == 1
  | 3 => s.coreOk p (8 * (r.id % 32) + r.id / 32)
  | 4 | 5 | 6 => s.dieOk (dieG r.id)
  | 7 | 8 => s.dieOk (dieF r.id)
  | _ => s.dieOk (dieH (r.id % 4))

/-- C-dies whose die-shared SRAM a descriptor names. -/
def descDies (n : Nat) : List Nat :=
  match descType n with
  | 3 =>
    let d := DmaD.of n
    (if d.srcSp = 2 then [d.srcDie] else []) ++ (if d.dstSp = 2 then [d.dstDie] else [])
  | 4 => (List.range (GatherD.of n).cN).map ((GatherD.of n).cFirst + ·)
  | 5 => if (SendD.of n).locSp = 2 then [(SendD.of n).locDie] else []
  | 6 => if (XferD.of n).locSp = 2 then [(XferD.of n).locDie] else []
  | _ => []

def State.imgCheck5 (s : State) (p : Nat) (im : Image) : Option Nat :=
  firstOf
    [firstBad 1 im.cores (fun i c => !(s.coreOk p (8 * c.cdie + c.core) && (im.arraysOf i c).all (s.arrayOk (8 * c.cdie + c.core)))),
     firstBad 3 im.steps (fun _ st =>
       if st.unitKind = 0 then !((List.range 4).all fun a => !st.engines.testBit a || s.arrayOk (im.coreNo st.unit) a) else !s.dieOk st.unit),
     firstBad 6 im.descs (fun _ n => !(descDies n).all s.dieOk),
     firstBad 7 im.rsvs (fun _ r => !s.rsvUnitOk p r)]

/-! ## Check 6: opcodes, costs, combinations (R89, R94, R129, R130, R175, R189, R191, R192, R225, R279, R393, R428) -/

/-- The opcode is legal on its engine (R89). -/
def ImgOp.legal (o : ImgOp) : Bool :=
  match o.opcode with
  | 1 | 2 => decide (o.engine ≤ 3)
  | 3 | 4 | 6 => o.engine == 4
  | 5 => o.engine == 5
  | 7 => decide (o.engine ≤ 5)
  | _ => false

/-- Type of descriptor that an opcode names (R89, R91). -/
def opDescType (opcode : Nat) : Option Nat :=
  match opcode with
  | 1 | 2 => some 1
  | 3 => some 2
  | 5 => some 3
  | _ => none

/-- The descriptor of an operation is of its type, and FMT and ROLE agree (R91, R130). -/
def Image.opDescOk (im : Image) (o : ImgOp) : Bool :=
  let n := im.desc o.arg0
  match o.opcode with
  | 1 => descType n == 1 && (OperandD.of n).role == 0
  | 2 => descType n == 1 && (OperandD.of n).role == 1 && (OperandD.of n).fmt == o.fmt
  | 3 => descType n == 2
  | 5 => descType n == 3
  | _ => true

/-- An expanding transfer into die-shared SRAM stays on the engine's own C-die (R279): for every step that runs the operation. -/
def Image.ownDieOk (im : Image) (i : Nat) (o : ImgOp) : Bool :=
  let d := DmaD.of (im.desc o.arg0)
  !(o.opcode == 5 && d.expand && d.dstSp == 2) ||
    im.steps.all fun st => st.unitKind != 0 || !((im.stepOps st).any fun x => x.2 == i) || (im.core st.unit).cdie == d.dstDie

/-- Rows of nibbles [first, end) that a record visits (R190). -/
def VecRec.spans (r : VecRec) (n0 n1 n2 : Nat) : List (Nat × Nat) :=
  (List.range n2).flatMap fun i2 => (List.range n1).map fun i1 =>
    let a := r.nib 0 i1 i2
    (a, a + fmtBits r.fmt / 4 * (if r.z0 then 1 else n0))

/-- No two elements of D share a nibble (R192): its rows are equally long, so it is enough that no two rows begin closer
than a row's length; rows b apart in dimension 2 come closest at the nearest multiples of STRIDE1. -/
def VecRec.distinct (r : VecRec) (n0 n1 n2 : Nat) : Bool :=
  let len := fmtBits r.fmt / 4 * n0
  n0 == 0 || n1 == 0 || n2 == 0 ||
    ((n1 ≤ 1 || decide (32 * r.stride1 ≥ len)) &&
      (List.range (n2 - 1)).all fun j =>
        let x := (j + 1) * r.stride2
        let q := if r.stride1 = 0 then 0 else x / r.stride1
        [min q (n1 - 1), min (q + 1) (n1 - 1)].all fun k => decide (32 * absDiff x (k * r.stride1) ≥ len))

/-- D and a source overlap on a visited nibble (R192). -/
def spansMeet (a b : List (Nat × Nat)) : Bool := a.any fun x => b.any fun y => decide (x.1 < y.2 ∧ y.1 < x.2)

/-- Same LOC, OFF, strides (the zero stride of dimension 0 among them) and element size (R192). -/
def VecRec.same (a b : VecRec) : Bool :=
  a.loc == b.loc && a.off == b.off && a.stride1 == b.stride1 && a.stride2 == b.stride2 && a.z0 == b.z0 && fmtBits a.fmt == fmtBits b.fmt

/-- D against one source (R192). Of a GATHER's S0, whose rows depend on the indices, N0 elements of every row below TBL_ROWS count as read
(DESIGN CHOICE, log 159). -/
def VecD.overlapOk (v : VecD) (r : VecRec) (table : Bool) : Bool :=
  !r.present || r.loc != v.d.loc || (r.same v.d && !v.isRed && !v.isGather) ||
    !spansMeet (v.d.spans v.dRow v.n1 v.n2)
      (if table then (List.range v.tblRows).map fun j => (2 * (r.off + 16 * r.stride1 * j), 2 * (r.off + 16 * r.stride1 * j) + fmtBits r.fmt / 4 * v.n0)
       else r.spans (if v.isGather then 1 else v.n0) v.n1 v.n2)

/-- A record's LOC and FMT are codes, and an absent one is all zero (R189). -/
def VecRec.codeOk (r : VecRec) : Bool :=
  if r.loc = 0 then r == VecRec.of 0 0 else (r.loc == 1 || decide (4 ≤ r.loc)) && decide (r.fmt ≤ 6)

/-- Operands present as R191 asks: (S0, S1, S2) with 0 absent, 1 present, 2 either. -/
def VecD.needs (v : VecD) : Nat × Nat × Nat :=
  if v.op = 4 ∨ v.op = 8 then (1, 1, 1)
  else if v.op = 9 ∨ (0x11 ≤ v.op ∧ v.op ≤ 0x13) then (1, 0, 0)
  else if v.op = 0x10 then (1, 2, 0)
  else if v.isScan || v.isRed then (1, bnat v.seg, 0)
  else (1, 1, 0)

def presenceOk (need : Nat) (r : VecRec) : Bool := need == 2 || (need == 1) == r.present

/-- Floating-point element format code (R159). -/
def fmtIsFloat (code : Nat) : Bool := decide (3 ≤ code ∧ code ≤ 6)

/-- The compute format is FP32 (R194). -/
def VecD.computesFp (v : VecD) : Bool :=
  decide (0x10 ≤ v.op ∧ v.op ≤ 0x13) || (v.s0.present && fmtIsFloat v.s0.fmt) ||
    (v.s1.present && !v.isGather && !v.isScan && !v.isRed && fmtIsFloat v.s1.fmt) || (v.s2.present && v.op == 4 && fmtIsFloat v.s2.fmt)

def VecD.comboOk (v : VecD) : Bool :=
  let need := v.needs
  let segOp := v.isScan || v.isRed
  (vecCost v.op).isSome && v.s0.codeOk && v.s1.codeOk && v.s2.codeOk && v.d.codeOk &&
    presenceOk need.1 v.s0 && presenceOk need.2.1 v.s1 && presenceOk need.2.2 v.s2 && v.d.present && !v.d.z0 &&
    (v.op != 7 || v.d.fmt == 1) && (v.op != 8 || v.s2.fmt == 1) && (!(segOp && v.seg) || v.s1.fmt == 1) &&
    (if v.isGather then v.s1.fmt == 2 && v.s1.z0 && !v.s0.z0 && v.s0.stride2 == 0 && v.d.fmt == v.s0.fmt else v.tblRows == 0) &&
    ((v.shift == 0 && v.zout == 0) || (!v.computesFp && decide (v.d.fmt ≤ 1))) &&
    (v.op == 7 || v.cmp == 0) && (v.isScan || !v.excl) && (segOp || !v.seg) &&
    (v.n == 0 || (v.d.distinct v.dRow v.n1 v.n2 && v.overlapOk v.s0 v.isGather && v.overlapOk v.s1 false && v.overlapOk v.s2 false))

/-- Fields of an operand descriptor that R130 forbids together: check 6, with 0x0645 (that CORR_EN 1 where R130 gives it no meaning is such a
combination and no field that R580 wants 0 is a DESIGN CHOICE, log 154). -/
def OperandD.comboOk (d : OperandD) : Bool := (!d.corrEn || (d.role == 0 && isIntFmt d.fmt)) && (!d.blk || d.scaled)

/-- The shape of a transposing transfer (R333): whole rows of 128 elements, and destination rows of whole granules. -/
def DmaD.turnOk (d : DmaD) : Bool :=
  !d.transpose ||
    (let w := 16 * fmtBits d.dstFmt
     d.cvt && w != 0 && d.bytes % w == 0 && decide (1 ≤ d.bytes / w) && d.bytes / w * fmtBits d.dstFmt % 128 == 0)

def DmaD.comboOk (d : DmaD) : Bool :=
  decide (d.srcSp ≤ 4) && decide (d.dstSp ≤ 5) &&
    (!d.expand || (d.srcSp == 3 && decide (d.dstSp ≤ 2) && !d.transpose && !d.cvt)) &&
    (d.dstSp != 5 || ((d.srcSp == 0 || d.srcSp == 2 || d.srcSp == 3) && !d.expand && !d.transpose && !d.cvt && d.dst == 0)) &&
    (!d.cvt || (decide (d.srcFmt ≤ 6) && decide (d.dstFmt ≤ 6))) && d.turnOk

def SendD.comboOk (d : SendD) : Bool :=
  decide (d.op ≤ 2) && (d.locSp == 2 || d.locSp == 3) && (!d.timed || d.op == 0) && (d.op != 2 || decide (1 ≤ d.aop ∧ d.aop ≤ 6))

def XferD.comboOk (d : XferD) : Bool := (d.locSp == 2 || d.locSp == 3) && !(d.buf == 7 && d.toBuf)

def descComboOk (n : Nat) : Bool :=
  match descType n with
  | 1 => (OperandD.of n).comboOk
  | 2 => (VecD.of n).comboOk
  | 3 => (DmaD.of n).comboOk
  | 5 => (SendD.of n).comboOk
  | 6 => (XferD.of n).comboOk
  | _ => true

/-- Records that a descriptor draws on. -/
def Image.rsvOf (im : Image) (first n : Nat) : List ImgRsv := (im.rsvs.drop first).take n

/-- Reserved amount on one kind (and unit, where given) of a descriptor's records (R102). -/
def rsvSum (l : List ImgRsv) (kind : Nat) (id : Option Nat) : Nat :=
  ((l.filter fun r => r.kind == kind && (match id with | none => true | some x => r.id == x)).map (·.amount)).foldl (· + ·) 0

/-- Lookup rate of a gather step in rows per tick (R225, R245). -/
def Image.lookup (im : Image) (st : ImgStep) : Nat :=
  let d := GatherD.of (im.desc st.first)
  rsvSum (im.rsvOf d.rsvFirst d.rsvN) 5 (some (st.unit - 32))

def Image.stepDescOk (im : Image) (st : ImgStep) : Bool :=
  match st.unitKind with
  | 0 => true
  | 1 => descType (im.desc st.first) == 4 && im.lookup st != 0
  | 2 => descType (im.desc st.first) == 5
  | _ => descType (im.desc st.first) == 6

def imgCheck6 (im : Image) : Option Nat :=
  firstOf
    [firstBad 3 im.steps (fun _ st => !im.stepDescOk st),
     firstBad 5 im.ops (fun i o => !(o.legal && im.opDescOk o && im.ownDieOk i o && im.cost o == some o.cost)),
     firstBad 6 im.descs (fun _ n => !descComboOk n)]

end Sys2Proof.Machine
end

