-- ==== Sys2Proof/Machine/Timing.lean ====
section
/-! DEFINITION. The stated timing of an image: data-ready cycles of DMA transfers (R98, R99, R296), ready bounds of G-, F- and
H-die steps (R245, R395, R429), and the placing of every operation in one repetition with every start point occupied
(R79, R103). -/

namespace Sys2Proof.Machine

open Sys2Proof

/-! ## Data-ready forms (R98) -/

/-- Edge count of the longer of the two routes between two dies (R20, R98). -/
def edgesBetween (a b : Nat) : Nat := max (routeEdges a b) (routeEdges b a)

def maxOf (l : List Nat) : Nat := l.foldl max 0

/-- Stacks that the kind 0x1 records of a list name (R93). -/
def rsvStacks (l : List ImgRsv) : List Nat := (l.filter (·.kind == 1)).map (·.id / 64)

/-- Reserved lines of a memory slot for one end of a transfer (R98): the sum of the AMOUNTs on the stacks of that end, 0 where a stack has no
record. Where the stacks are not known, as at load, those that the records name stand for them (log 123). -/
def endRate (l : List ImgRsv) (ms : Option (List Nat)) : Nat :=
  match ms with
  | none => rsvSum l 1 none
  | some l' => if l'.all (rsvStacks l).contains then rsvSum (l.filter fun r => l'.contains (r.id / 64)) 1 none else 0

/-- Edge count from a die to the farthest stack of one end of a transfer (R98). -/
def endFar (l : List ImgRsv) (ms : Option (List Nat)) (c : Nat) : Nat := maxOf ((ms.getD (rsvStacks l)).map (edgesBetween c))

/-- Cycles for `lines` at a rate of lines of a memory slot, q = a / 4 lines a tick; none for q = 0. -/
def slotCycles (a lines : Nat) : Option Nat := if a = 0 then none else some (7 * ceilDiv (4 * lines) a)

/-- Cycles for `lines` at the rate that all records of a list reserve. -/
def lineCycles (l : List ImgRsv) (lines : Nat) : Option Nat := slotCycles (rsvSum l 1 none) lines

/-- Cycles for bytes at the reserved port rate; none for h = 0. -/
def portCycles (l : List ImgRsv) (bytes : Nat) : Option Nat :=
  let h := rsvSum l 9 none
  if h = 0 then none else some (7 * ceilDiv bytes h)

/-- Source figure of a transfer from its issue (R98, R296): `c` is the engine's C-die, `hp` the H-die of a host end and `ms` the stacks of a
source in HBM. -/
def DmaD.srcReady (d : DmaD) (l : List ImgRsv) (c hp : Nat) (ms : Option (List Nat)) : Option Nat :=
  let w := ceilDiv d.bytes (if d.transpose then 256 else 512)
  match d.srcSp with
  | 0 | 1 => some (24 + w + 14)
  | 2 => some (24 + w + 14 + 14 * edgesBetween c d.srcDie)
  | 3 =>
    let lines := ceilDiv (if d.expand then d.bytes else d.srcSpan) 256
    (slotCycles (endRate l ms) lines).map fun t => 24 + 140 + max t w + 14 * endFar l ms c
  | _ => (portCycles l d.srcSpan).map fun t => 24 + 14 * edgesBetween c (dieH hp) + t + 420

/-- Data-ready cycle of a transfer from its issue, none where the form states no cycle (R98, R99, R280). `src` and `dst` are the stacks of
its ends in HBM. -/
def DmaD.ready (d : DmaD) (l : List ImgRsv) (c hp : Nat) (src dst : Option (List Nat)) : Option Nat :=
  if d.bytes = 0 then some 24
  else
    let w := ceilDiv d.bytes (if d.transpose then 256 else 512)
    let from_ := (d.srcReady l c hp src).map (· + if d.expand then 64 else 0)
    match d.dstSp with
    | 2 => if d.dstDie = c then from_ else from_.map (· + 14 * edgesBetween c d.dstDie)
    | 3 =>
      match from_, slotCycles (endRate l dst) (ceilDiv d.bytes 256) with
      | some a, some t => some (max a (24 + 14 * endFar l dst c + max t w + 14))
      | _, _ => none
    | 4 =>
      match from_, portCycles l d.bytes with
      | some a, some t => some (max a (24 + 14 * edgesBetween c (dieH hp) + t))
      | _, _ => none
    | _ => from_

/-! ## Ready bounds of the other dies' steps, in cycles from the slot start -/

/-- H-dies in service (R395, R456). -/
def State.hdies (s : State) : List Nat := (List.range 4).filter fun h => !s.excluded (dieH h)

/-- Stacks on which a partition owns a channel (R328). -/
def State.stacksOf (s : State) (p : Nat) : List Nat :=
  (List.range 32).filter fun m => (List.range 32).any fun c => s.flag .memChOwn (32 * m + c) 6 && s.fld .memChOwn (32 * m + c) 5 0 == p

/-- Chunks of 128 elements of a row (R239, R245). -/
def TableEntry.chunks (e : TableEntry) : Nat := ceilDiv e.dim 128

def Image.tablesOf (im : Image) (desc : Nat) : List TableEntry := (im.tables.filter (·.desc == desc)).head?.elim [] (·.entries)

/-- Output bytes of a row (R241). -/
def TableEntry.outBytes (e : TableEntry) : Nat :=
  ceilDiv (e.dim * (match Fmt.ofCode e.outFmt with | some f => f.bits / 8 | none => 1)) 16 * 16

/-- Largest number of bags of a table in a list that R227 accepts: their output rows fit in OUT_MAX on each of `n` receiving C-dies (R243). -/
def TableEntry.maxBags (e : TableEntry) (n : Nat) : Nat :=
  let k := e.outMax / e.outBytes
  if e.pool = 0 then 0 else min (2 ^ 20) (if e.dist then k / e.stripe * e.stripe * n + k % e.stripe else k)

/-- The bound of R245 for local rows at worst (R456), in ticks from the slot start: the list is the longest that R227 accepts. -/
def State.gatherLocal (s : State) (p : Nat) (im : Image) (st : ImgStep) : Option Nat :=
  let d := GatherD.of (im.desc st.first)
  let l := im.rsvOf d.rsvFirst d.rsvN
  let n := d.maxIdx
  let bytes := 16 * (1 + d.nTab) + 8 * n + 4 * ((im.tablesOf st.first).map (·.maxBags d.cN)).foldl (· + ·) 0
  let look := im.lookup st
  match portCycles l bytes, lineCycles l (ceilDiv bytes 256) with
  | some hp, some q =>
    if look = 0 then none
    else
      let host := 24 + 14 * maxOf (s.hdies.map fun h => edgesBetween st.unit (dieH h)) + hp + 420
      let stack := 24 + 140 + max q (ceilDiv bytes 512) + 14 * maxOf ((s.stacksOf p).map (edgesBetween st.unit))
      let tList := st.start + ceilDiv (max host stack) 7
      let chunks := n * maxOf ((im.tablesOf st.first).map (·.chunks))
      let e := maxOf ((List.range d.cN).map fun i => edgesBetween st.unit (d.cFirst + i))
      some (tList + 28 + ceilDiv n 256 + ceilDiv n look + ceilDiv chunks 112 + 24 + 2 * e)
  | _, _ => none

/-- Ready bound of the outputs of one table entry (R104, R245), in cycles. -/
def State.gatherBound (s : State) (p : Nat) (im : Image) (st : ImgStep) (t : TableEntry) : Option Nat :=
  (s.gatherLocal p im st).map fun b => 7 * (if t.localRows < t.rows then max b (st.start + st.remoteWin + 2000) else b)

/-- A figure at which data is at the H-die, carried on to the device end of a host transfer (R98): `dev` edges away, in die-shared SRAM or,
for `q` cycles of lines, in a stack. -/
def landed (sram : Bool) (dev w q from_ : Nat) : Nat := if sram then from_ + 14 * dev else max from_ (24 + 14 * dev + max q w + 14)

/-- Stated cycle of a host transfer of `b` bytes at worst over its buffers (R395, R456), in cycles from the slot start. -/
def State.xferBound (s : State) (p : Nat) (im : Image) (st : ImgStep) (b : Nat) : Option Nat :=
  let d := XferD.of (im.desc st.first)
  let l := im.rsvOf d.rsvFirst d.rsvN
  let w := ceilDiv b 512
  let sram := d.locSp == 2
  let far := maxOf ((s.stacksOf p).map (edgesBetween st.unit))
  let dev := if sram then edgesBetween st.unit d.locDie else far
  let port := maxOf (s.hdies.map fun h => edgesBetween st.unit (dieH h))
  let t0 := 7 * st.start
  if b = 0 then some t0
  else
    match lineCycles l (ceilDiv b 256) with
    | none => if d.buf = 7 && sram then some (t0 + landed true dev w 0 (24 + w + 14)) else none
    | some q =>
      if d.buf = 7 then some (t0 + landed sram dev w q (24 + w + 14))
      else
        (portCycles l b).map fun t =>
          let host := 24 + 14 * (port + dev) + t + if d.toBuf then 0 else 420
          let buffer :=
            if d.toBuf then landed false far w q (if sram then 24 + w + 14 + 14 * dev else 24 + 140 + max q w + 14 * dev)
            else landed sram dev w q (24 + 140 + max q w + 14 * far)
          t0 + max host buffer

/-- Wire bytes of a fabric send on the send side (R421, R428). -/
def SendD.wire (d : SendD) : Nat :=
  if d.op = 0 then 86 * ceilDiv d.bytes 1024 + 18 * (d.bytes / 16) else if d.op = 1 then (if d.bytes = 0 then 0 else 86) else 86 + 36

/-- ceil(W / s) and the edges of R429; none where no kind 0x7 record is named and there is something to send. -/
def Image.sendTicks (im : Image) (st : ImgStep) : Option Nat :=
  let d := SendD.of (im.desc st.first)
  let r := rsvSum (im.rsvOf d.rsvFirst d.rsvN) 7 none
  if d.wire = 0 then some 0 else if r = 0 then none else some (ceilDiv d.wire r)

def State.sendEdges (s : State) (p : Nat) (im : Image) (st : ImgStep) : Nat :=
  let d := SendD.of (im.desc st.first)
  if d.locSp = 2 then edgesBetween st.unit d.locDie else maxOf ((s.stacksOf p).map (edgesBetween st.unit))

/-- Bound by which a fabric send's destination is ready (R429), in cycles from the slot start. -/
def State.sendBound (s : State) (p : Nat) (im : Image) (st : ImgStep) : Option Nat :=
  (im.sendTicks st).map fun w => 7 * (st.start + w + 2000 + 2 * s.sendEdges p im st + 1)

/-! ## One repetition (R79, R103) -/

/-- Start points of a class within a repetition, with their groups (R79). -/
def Image.starts (im : Image) (c : ImgClass) : List (Nat × Nat) :=
  (List.range (im.cycle / 2 ^ c.periodLog)).map fun k => (c.phase + k * 2 ^ c.periodLog, k % (c.groupsM1 + 1))

/-- A step placed at a start point: class index, start tick, step index. -/
structure PStep where
  cls : Nat
  start : Nat
  step : Nat
  deriving DecidableEq, Repr

def Image.placed (im : Image) : List PStep :=
  (List.range im.classes.length).flatMap fun ci =>
    (im.starts (im.cls ci)).flatMap fun sg =>
      ((im.cls ci).stepIdx.filter fun i => (im.step i).group == sg.2).map fun i => { cls := ci, start := sg.1, step := i }

/-- An operation placed: its stated cycle, the start of its tile, its core, and where it comes from. -/
structure POp where
  t : Nat
  tile : Nat
  core : Nat
  at_ : PStep
  idx : Nat
  deriving DecidableEq, Repr

def Image.timeline (im : Image) : List POp :=
  (im.placed.filter fun q => (im.step q.step).unitKind == 0).flatMap fun q =>
    let st := im.step q.step
    (im.stepOps st).map fun x =>
      let tl := 7 * (q.start + st.start) + (im.tile x.1).start
      { t := tl + (im.op x.2).issue, tile := tl, core := im.coreNo st.unit, at_ := q, idx := x.2 }

/-- Cycles of a repetition. -/
def Image.rep (im : Image) : Nat := 7 * im.cycle

/-- Distance from cycle `a` on to cycle `b`, modulo a repetition of `r` cycles. -/
def ahead (r a b : Nat) : Nat := (b % r + r - a % r) % r

/-- Two spans, [a, a + la) and [b, b + lb), overlap in some repetition. -/
def clash (r a la b lb : Nat) : Bool := decide (0 < la) && decide (0 < lb) && (decide (ahead r a b < la) || decide (ahead r b a < lb))

/-- Cycles from the issue of a PASS to its verdict (R96). -/
def passSpan (o : ImgOp) : Nat := o.rows * rowCycles o.fmt + 264

/-- A PASS that writes something (R90). -/
def ImgOp.isPass (o : ImgOp) : Bool := o.opcode == 2 && o.rows != 0

/-! ## Finished-tile queues and the read path over two repetitions (R208, R209, R214) -/

/-- A push at a verdict cycle (with its tile) or an operation of the vector engine that uses the accumulator read path. -/
structure QEv where
  t : Nat
  op : POp
  tile : Option Nat
  deriving DecidableEq, Repr

/-- An FTQ_POP with the entry it takes and the cycles of its copy. -/
structure QPop where
  op : POp
  entry : Option QEv
  from_ : Nat
  to_ : Nat
  deriving DecidableEq, Repr

structure QSim where
  /-- entries by array, oldest first -/
  queues : SMap (List QEv)
  path : Nat
  pops : List QPop
  /-- pushes that found eight entries -/
  full : List Nat
  deriving DecidableEq, Repr

def QSim.init : QSim := { queues := [], path := 0, pops := [], full := [] }

def Image.qStep (im : Image) (q : QSim) (e : QEv) : QSim :=
  let o := im.op e.op.idx
  match e.tile with
  | some _ =>
    let l := smGet [] q.queues o.engine
    { q with queues := smPut q.queues o.engine (l ++ [e]), full := if l.length ≥ 8 then e.op.idx :: q.full else q.full }
  | none =>
    if o.opcode = 6 then { q with path := max q.path (e.t + 8 + ceilDiv (bits o.arg1 7 0) 4) }
    else
      let a := bits o.arg1 1 0
      let l := smGet [] q.queues a
      let from_ := max (e.t + 2) q.path
      let ent := l.head?
      { q with queues := smPut q.queues a (l.drop 1), path := if ent.isSome then from_ + 32 else q.path,
               pops := { op := e.op, entry := ent, from_ := from_, to_ := if ent.isSome then from_ + 32 else e.t + 2 } :: q.pops }

/-- Events of a core in the cycles of one repetition: pushes in the order of tiles before the vector engine's operations of
the same cycle. -/
def Image.qEvents (im : Image) (l : List POp) (shift : Nat) : List QEv :=
  let push := (l.filter fun x => (im.op x.idx).isPass && (im.op x.idx).ftq).flatMap fun x =>
    let o := im.op x.idx
    (List.range o.span).map fun j => { t := (x.t + passSpan o) % im.rep + shift, op := x, tile := some (o.accTile + j) }
  let use := (l.filter fun x => (im.op x.idx).opcode == 4 || (im.op x.idx).opcode == 6).map fun x => { t := x.t % im.rep + shift, op := x, tile := none }
  sortBy QEv.t (push ++ use)

/-- The queues of a core after one repetition and after two; a queue that grows would pass eight entries in time. -/
def Image.qRun (im : Image) (l : List POp) : QSim × QSim :=
  let q1 := (im.qEvents l 0).foldl im.qStep QSim.init
  (q1, (im.qEvents l im.rep).foldl im.qStep { q1 with pops := [] })

/-- Check 12 of R111: the pushes that break the limit of eight. -/
def Image.qOver (im : Image) (l : List POp) : List Nat :=
  let (q1, q2) := im.qRun l
  let grown := (List.range 4).filter fun a => decide ((smGet [] q2.queues a).length > (smGet [] q1.queues a).length)
  q2.full ++ (l.filter fun x => (im.op x.idx).isPass && (im.op x.idx).ftq && grown.contains (im.op x.idx).engine).map (·.idx)

end Sys2Proof.Machine
end

