-- ==== Sys2Proof/Machine/Checks.lean ====
section
/-! DEFINITION. The checks of R111 and R456 that look at the whole repetition: tiles and ports, bytes and tiles held, engines,
reservations, remote dependencies, queues, and the producers of every on-chip input (checks 7 to 12, 14 and 15). -/

namespace Sys2Proof.Machine

open Sys2Proof

/-! ## What an operation reads and writes on chip -/

/-- A span of an on-chip store. `store`: 0 operand SRAM, 1 to 4 TB0 to TB3, 5 die-shared SRAM, 6 codebook slots, 7 accumulator
rows, 8 weight banks. `unit`: core, C-die for 5, array for 8. -/
structure Acc where
  store : Nat
  unit : Nat
  lo : Nat
  hi : Nat
  deriving DecidableEq, Repr

/-- Joins spans that touch, in a list of one store that rises. -/
def joinAcc : List Acc → List Acc
  | [] => []
  | a :: t =>
    match joinAcc t with
    | [] => [a]
    | b :: u => if a.store = b.store ∧ a.unit = b.unit ∧ a.lo ≤ b.lo ∧ b.lo ≤ a.hi then { a with hi := max a.hi b.hi } :: u else a :: b :: u

/-- Something placed in the repetition that uses on-chip bytes: its record, its span of cycles, the start of its tile or step. -/
structure Use where
  detail : Nat
  t : Nat
  dur : Nat
  ts : Nat
  at_ : PStep
  reads : List Acc
  writes : List Acc
  deriving DecidableEq, Repr

/-- Bytes of the first `n` columns of a weight row (R131). -/
def colBytes (fmt n : Nat) : Nat := if fmt = 1 then ceilDiv n 2 else if fmt = 4 then 2 * n else n

/-- Operand SRAM bytes that a feeder reads (R131, R132, R176, R178, R179). -/
def OperandD.reads (d : OperandD) (core rows : Nat) : List Acc :=
  let os (lo hi : Nat) : Acc := { store := 0, unit := core, lo := lo, hi := hi }
  let n := d.nM1 + 1
  let blocks := if d.role = 0 then d.nM1 / 64 + 1 else 2
  let rs := if d.role = 0 then List.range (d.kM1 + 1) else List.range rows
  let len := if d.role = 0 then colBytes d.fmt n else if d.blk then 128 else d.rowBytes
  joinAcc (rs.map fun r => os (d.srcOff + d.stride * r) (d.srcOff + d.stride * r + len)) ++
    (if d.blk then
      rs.map (fun r => os (d.srcOff + d.stride * r + 128) (d.srcOff + d.stride * r + 128 + blocks)) ++
        joinAcc (rs.map fun r => os (d.scaleOff + 4 * r) (d.scaleOff + 4 * r + 2 * blocks))
     else []) ++
    (if d.corrEn then [os d.corrOff (d.corrOff + 4 * n)] else [])

/-- Bytes of the rows that a vector record visits. -/
def VecRec.accs (r : VecRec) (core n0 n1 n2 : Nat) : List Acc :=
  if !r.present then []
  else joinAcc ((r.spans n0 n1 n2).map fun x => { store := if r.loc = 1 then 0 else r.loc - 3, unit := core, lo := x.1 / 2, hi := (x.2 + 1) / 2 })

def VecD.readAccs (v : VecD) (core : Nat) : List Acc :=
  if v.n = 0 then []
  else
    (if v.isGather then joinAcc ((List.range v.tblRows).map fun j =>
        { store := if v.s0.loc = 1 then 0 else v.s0.loc - 3, unit := core, lo := v.s0.off + 16 * v.s0.stride1 * j,
          hi := v.s0.off + 16 * v.s0.stride1 * j + ceilDiv (fmtBits v.s0.fmt * v.n0) 8 })
     else v.s0.accs core v.n0 v.n1 v.n2) ++
      v.s1.accs core (if v.isGather then 1 else v.n0) v.n1 v.n2 ++ v.s2.accs core v.n0 v.n1 v.n2

def VecD.writeAccs (v : VecD) (core : Nat) : List Acc := if v.n = 0 then [] else v.d.accs core v.dRow v.n1 v.n2

/-- A DMA end in an on-chip store (R278). -/
def dmaAcc (core sp tb die off n : Nat) : List Acc :=
  match sp with
  | 0 => [{ store := 0, unit := core, lo := off, hi := off + n }]
  | 1 => [{ store := 1 + tb, unit := core, lo := off, hi := off + n }]
  | 2 => [{ store := 5, unit := die, lo := off, hi := off + n }]
  | _ => []

def DmaD.readAccs (d : DmaD) (core : Nat) : List Acc :=
  if d.bytes = 0 then []
  else
    dmaAcc core d.srcSp d.srcTb d.srcDie d.src d.srcSpan ++
      (if d.expand then
        [{ store := 6, unit := core, lo := d.cbSlot, hi := d.cbSlot + 1 },
         { store := if d.idxSp = 1 then 5 else 0, unit := if d.idxSp = 1 then core / 8 else core, lo := d.idxOff, hi := d.idxOff + 16 * d.nBlk }]
       else [])

def DmaD.writeAccs (d : DmaD) (core : Nat) : List Acc :=
  if d.bytes = 0 then []
  else if d.dstSp = 5 then [{ store := 6, unit := core, lo := d.cbSlot, hi := d.cbSlot + 1 }]
  else dmaAcc core d.dstSp d.dstTb d.dstDie d.dst d.bytes

/-- H-die in service farthest from a C-die: the worst port of a host end (R98, R456). -/
def State.farH (s : State) (c : Nat) : Nat :=
  (s.hdies.find? fun h => edgesBetween c (dieH h) == maxOf (s.hdies.map fun g => edgesBetween c (dieH g))).getD 0

/-- End of the copy of an FTQ_POP from its issue (R209). -/
def copyLen (r : Nat) (pops : List QPop) (x : POp) : Nat :=
  match pops.find? fun q => q.op == x with
  | some q => q.to_ - (x.t % r + r)
  | none => 2

/-- An operation's use of on-chip stores (R207, R281). -/
def State.opUse (s : State) (im : Image) (pops : List QPop) (x : POp) : Use :=
  let o := im.op x.idx
  let n := im.desc o.arg0
  let u : Use := { detail := inSec 5 x.idx, t := x.t, dur := o.cost, ts := x.tile, at_ := x.at_, reads := [], writes := [] }
  match o.opcode with
  | 1 => { u with reads := (OperandD.of n).reads x.core 0, writes := [{ store := 8, unit := 4 * x.core + o.engine, lo := 0, hi := 1 }] }
  | 2 =>
    if o.rows = 0 then u
    else
      let rows : Acc := { store := 7, unit := x.core, lo := 128 * o.accTile, hi := 128 * o.accTile + o.rows }
      { u with reads := (OperandD.of n).reads x.core o.rows ++ [{ store := 8, unit := 4 * x.core + o.engine, lo := 0, hi := 1 }] ++ (if o.acc then [rows] else []),
               writes := [rows] }
  | 3 => { u with reads := (VecD.of n).readAccs x.core, writes := (VecD.of n).writeAccs x.core }
  | 4 => { u with dur := copyLen im.rep pops x, writes := [{ store := 1 + bits o.arg0 1 0, unit := x.core, lo := 0, hi := tbBytes }] }
  | 5 =>
    let d := DmaD.of n
    let st := im.step x.at_.step
    let end_ := 7 * (x.at_.start + st.start + st.length) - x.t
    { u with dur := (d.ready (im.rsvOf d.rsvFirst d.rsvN) (x.core / 8) (s.farH (x.core / 8)) none none).getD end_,
             reads := d.readAccs x.core, writes := d.writeAccs x.core }
  | 6 =>
    let r := bits o.arg1 7 0
    { u with reads := [{ store := 7, unit := x.core, lo := 128 * o.arg0, hi := 128 * o.arg0 + r }],
             writes := [{ store := 4, unit := x.core, lo := 0, hi := 512 * r }] }
  | _ => u

/-- Bytes of a host transfer at worst (R391, R393). -/
def Image.xferLen (im : Image) (cls step : Nat) : Nat := (XferD.of (im.desc (im.step step).first)).len (im.cls cls).maxItems

/-- A die's step as a user of die-shared SRAM, with the table entries' output regions where they are known (R207, R456). -/
def State.stepUse (s : State) (p : Nat) (im : Image) (q : PStep) : List Use :=
  let st := im.step q.step
  let n := im.desc st.first
  let t := 7 * (q.start + st.start)
  let until_ (b : Option Nat) : Nat := match b with
    | some x => 7 * q.start + x - t
    | none => 7 * st.length
  let u : Use := { detail := inSec 3 q.step, t := t, dur := 0, ts := t, at_ := q, reads := [], writes := [] }
  match st.unitKind with
  | 1 =>
    let d := GatherD.of n
    (im.tablesOf st.first).map fun e =>
      { u with dur := until_ (s.gatherBound p im st e),
               writes := if e.outMax = 0 then [] else (List.range d.cN).map fun i => { store := 5, unit := d.cFirst + i, lo := e.outOff, hi := e.outOff + e.outMax } }
  | 2 =>
    let d := SendD.of n
    let b := if d.op = 2 then 16 else d.bytes
    let a := if b = 0 then [] else dmaAcc 0 d.locSp 0 d.locDie d.loc b
    if d.op = 0 then [{ u with dur := until_ (s.sendBound p im st), reads := a }] else [{ u with dur := until_ (s.sendBound p im st), writes := a }]
  | 3 =>
    let d := XferD.of n
    let b := im.xferLen q.cls q.step
    let a := if b = 0 then [] else dmaAcc 0 d.locSp 0 d.locDie d.loc b
    if d.toBuf then [{ u with dur := until_ (s.xferBound p im st b), reads := a }] else [{ u with dur := until_ (s.xferBound p im st b), writes := a }]
  | _ => []

/-- Cores that the image names. -/
def Image.coreList (im : Image) : List Nat := im.cores.map fun c => 8 * c.cdie + c.core

def onCore (l : List POp) (k : Nat) : List POp := l.filter fun x => x.core == k

/-- Pops of the second repetition, over every core. -/
def Image.pops (im : Image) (l : List POp) : List QPop := im.coreList.dedup.flatMap fun k => (im.qRun (onCore l k)).2.pops

def State.uses (s : State) (p : Nat) (im : Image) (l : List POp) (pops : List QPop) : List Use :=
  l.map (s.opUse im pops) ++ im.placed.flatMap (s.stepUse p im)

/-! ## Check 6, the bank's FMT (R130) -/

/-- The W_LOAD that a PASS uses: the last to issue before it on the array, in cycles back (R126). -/
def Image.loadOf (im : Image) (l : List POp) (x : POp) : Option (POp × Nat) :=
  (l.filter fun y => y.core == x.core && (im.op y.idx).opcode == 1 && (im.op y.idx).engine == (im.op x.idx).engine).foldl
    (fun best y =>
      let b := ahead im.rep (y.t + 1) x.t + 1
      match best with
      | some (_, c) => if b < c then some (y, b) else best
      | none => some (y, b)) none

/-- Two operations belong to one slot instance, `b` cycles apart as they stand. -/
def sameInst (x y : PStep) (tx ty b : Nat) : Bool := x.cls == y.cls && x.start == y.start && decide (ty ≤ tx) && tx - ty == b

def Image.bankBad (im : Image) (l : List POp) : List Nat :=
  ((l.filter fun x => (im.op x.idx).isPass).filter fun x =>
    match im.loadOf l x with
    | some (y, b) => sameInst x.at_ y.at_ x.t y.t b && (OperandD.of (im.desc (im.op y.idx).arg0)).fmt != (im.op x.idx).fmt
    | none => false).map fun x => inSec 5 x.idx

/-! ## Check 7 -/

/-- Pairs of a list, each once. -/
def pairs {α : Type} : List α → List (α × α)
  | [] => []
  | x :: t => t.map (fun y => (x, y)) ++ pairs t

/-- Tiles of a core step: ordered, disjoint and within the step (R87). -/
def Image.tilesBad (im : Image) (st : ImgStep) : List Nat :=
  if st.unitKind ≠ 0 then []
  else ((List.range st.nTiles).filter fun j =>
    let t := im.tile (st.first + j)
    decide (t.start + t.len > 7 * st.length) || (j != 0 && decide (t.start < (im.tile (st.first + j - 1)).start + (im.tile (st.first + j - 1)).len))).map
      fun j => inSec 4 (st.first + j)

/-- Operations that do not end within their tile (R88). -/
def Image.opsBad (im : Image) (t : ImgTile) : List Nat :=
  (t.opIdx.filter fun i => decide ((im.op i).issue + (im.op i).cost > t.len)).map (inSec 5)

/-- Port of an operation: an array's weight-load port 0 or row port 1, otherwise the engine's one port (R95, R184). -/
def ImgOp.port (o : ImgOp) : Nat := 2 * o.engine + if o.engine ≤ 3 && o.opcode != 1 then 1 else 0

/-- Cycles from the last W_LOAD or PASS of the array back from an operation, and that operation; a PASS goes before a
W_LOAD of the same cycle (R95). -/
def Image.prevOn (im : Image) (l : List POp) (x : POp) : Option (POp × Nat) :=
  let isLoad (y : POp) : Bool := (im.op y.idx).opcode == 1
  (l.filter fun y => y.core == x.core && (im.op y.idx).engine == (im.op x.idx).engine && (isLoad y || (im.op y.idx).isPass) && y != x).foldl
    (fun best y =>
      let d := ahead im.rep y.t x.t
      let b := if d = 0 then (if isLoad x && !isLoad y then 0 else im.rep) else d
      match best with
      | some (_, c) => if b < c || (b == c && isLoad y) then some (y, b) else best
      | none => some (y, b)) none

/-- Port and bank order of R95, and one operation at a time on the other engines. -/
def Image.portsBad (im : Image) (l : List POp) : List Nat :=
  let busy := (pairs l).filter fun z =>
    z.1.core == z.2.core && (im.op z.1.idx).port == (im.op z.2.idx).port && clash im.rep z.1.t (im.op z.1.idx).cost z.2.t (im.op z.2.idx).cost
  let order := l.filter fun x =>
    let o := im.op x.idx
    match im.prevOn l x with
    | none => false
    | some (y, b) =>
      if o.opcode = 1 then (im.op y.idx).opcode == 1
      else if o.isPass then (im.op y.idx).opcode == 1 && decide (b < (im.op y.idx).cost)
      else false
  busy.map (fun z => inSec 5 (max z.1.idx z.2.idx)) ++ order.map fun x => inSec 5 x.idx

/-- A PASS holds an accumulator tile (R136). -/
def ImgOp.holds (o : ImgOp) (tile : Nat) : Bool := o.isPass && decide (o.accTile ≤ tile ∧ tile < o.accTile + o.span)

/-- Accumulator tiles held twice (R136), and queued tiles taken by a PASS before their copy ends (R210). -/
def Image.accBad (im : Image) (l : List POp) (pops : List QPop) : List Nat :=
  let r := im.rep
  let passes := l.filter fun x => (im.op x.idx).isPass
  let twice := (pairs passes).filter fun z =>
    let a := im.op z.1.idx
    let b := im.op z.2.idx
    z.1.core == z.2.core && a.engine != b.engine && decide (a.accTile < b.accTile + b.span ∧ b.accTile < a.accTile + a.span) &&
      clash r z.1.t (passSpan a) z.2.t (passSpan b)
  let early := pops.flatMap fun q =>
    match q.entry with
    | some e =>
      (passes.filter fun x => x.core == q.op.core && (im.op x.idx).holds (e.tile.getD 64) &&
        clash r e.t (q.to_ - e.t) x.t (passSpan (im.op x.idx))).map fun x => inSec 5 (max x.idx q.op.idx)
    | none => []
  twice.map (fun z => inSec 5 (max z.1.idx z.2.idx)) ++ early

/-- The hazards of an ACC_READ that 0x0646 names (R214). A PASS still writes its tile up to its result cycle. -/
def Image.accReadBad (im : Image) (l : List POp) (pops : List QPop) : List Nat :=
  let r := im.rep
  (l.filter fun x => (im.op x.idx).opcode == 6).flatMap fun x =>
    let o := im.op x.idx
    let rows := bits o.arg1 7 0
    let writing := l.any fun y => y.core == x.core && (im.op y.idx).holds o.arg0 && clash r x.t o.cost y.t (passSpan (im.op y.idx) - 8)
    let queued := pops.any fun q => q.op.core == x.core &&
      (match q.entry with
       | some e => e.tile == some o.arg0 && clash r e.t (q.to_ - e.t) x.t o.cost
       | none => false)
    let path := pops.any fun q => q.op.core == x.core && q.entry.isSome && clash r q.from_ 32 (x.t + 8) (ceilDiv rows 4)
    if writing || queued || path then [inSec 5 x.idx] else []

/-- Two spans of a store meet. -/
def Acc.meets (a b : Acc) : Bool := a.store == b.store && a.unit == b.unit && decide (a.lo < b.hi ∧ b.lo < a.hi)

def accsMeet (a b : List Acc) : Bool := a.any fun x => decide (x.store < 7) && b.any fun y => x.meets y

/-- Bytes used twice at stated cycles, one of the uses a write (R207, R281). Uses of one record in one place are one; one that writes and
lasts longer than a repetition meets itself, and one that a step issues twice is two. -/
def usesBad (r : Nat) (l : List Use) : List Nat :=
  ((l.filter fun u => decide (r < u.dur) && !u.writes.isEmpty).map (·.detail)) ++
  ((pairs l).filter fun z =>
    !(z.1.detail == z.2.detail && z.1.at_ == z.2.at_ && z.1.t == z.2.t) && clash r z.1.t z.1.dur z.2.t z.2.dur &&
      (accsMeet z.1.writes z.2.reads || accsMeet z.1.reads z.2.writes || accsMeet z.1.writes z.2.writes)).map
        fun z => max z.1.detail z.2.detail

/-! ## Check 8 -/

/-- End of the last tile of a core step, in cycles from its start. -/
def Image.lastEnd (im : Image) (st : ImgStep) : Nat :=
  if st.nTiles = 0 then 0 else (im.tile (st.first + st.nTiles - 1)).start + (im.tile (st.first + st.nTiles - 1)).len

/-- Engines that a placed step holds, and for how long: number (6 × core + engine, or 2048 + 8 × die + engine), from, length. -/
def Image.holdsOf (im : Image) (q : PStep) : List (Nat × Nat × Nat × Nat) :=
  let st := im.step q.step
  let t := 7 * (q.start + st.start)
  let base := if st.unitKind = 0 then 6 * im.coreNo st.unit else 2048 + 8 * st.unit
  ((List.range 6).filter fun e => st.engines.testBit e).map (fun e => (base + e, t, 7 * st.length + st.slack, q.step)) ++
    (if st.unitKind = 0 && st.replayRes then [(base + (im.core st.unit).replay, t + im.lastEnd st, 512 * st.replayTiles, q.step)] else [])

/-- Engines held by two steps at once (R103, R107): by two placed steps, or by one that lasts into its own next repetition. -/
def Image.enginesBad (im : Image) : List Nat :=
  ((im.placed.flatMap im.holdsOf).filter fun z => decide (im.rep < z.2.2.1)).map (fun z => inSec 3 z.2.2.2) ++
  ((pairs (im.placed.flatMap im.holdsOf)).filter fun z =>
    z.1.1 == z.2.1 && clash im.rep z.1.2.1 z.1.2.2.1 z.2.2.1 z.2.2.2.1).map fun z => inSec 3 (max z.1.2.2.2 z.2.2.2.2)

/-- Steps within their class's LENGTH − CMPL_TICKS (R86), and, of every step of the image, replay windows within the step and off its engines
(R106, R149). -/
def Image.boundsBad (im : Image) : List Nat :=
  ((List.range im.classes.length).flatMap fun ci =>
    let c := im.cls ci
    (c.stepIdx.filter fun i => decide ((im.step i).start + (im.step i).length + c.cmpl > c.length)).map (inSec 3)) ++
  ((List.range im.steps.length).filter fun i =>
    let st := im.step i
    st.unitKind == 0 && st.replayRes &&
      (decide (im.lastEnd st + 512 * st.replayTiles > 7 * st.length) || st.engines.testBit (im.core st.unit).replay)).map (inSec 3)

/-- Operations on an engine that their step's ENGINES does not name (R111). -/
def Image.outsideBad (im : Image) : List Nat :=
  (im.steps.filter fun st => st.unitKind == 0).flatMap fun st =>
    ((im.stepOps st).filter fun x => !st.engines.testBit (im.op x.2).engine).map fun x => inSec 5 x.2

/-- Operations of the slot instance of a placed step on that step's core, in the order in which they issue; a PASS goes before a W_LOAD of
the same cycle (R95). -/
def Image.runOf (im : Image) (l : List POp) (q : PStep) : List POp :=
  sortBy (fun x => 2 * x.t + if (im.op x.idx).opcode = 1 then 1 else 0)
    (l.filter fun x => x.at_.cls == q.cls && x.at_.start == q.start && x.core == im.coreNo (im.step q.step).unit)

/-- A chain (R148): the passes of one array of a step into one accumulator tile, from one with ACC 0 on. -/
structure Chain where
  array : Nat
  tile : Nat
  passes : List POp
  /-- its first PASS has ACC 1, so that it began in an earlier step -/
  torn : Bool
  deriving DecidableEq, Repr

/-- Chains of an array's passes that hold a tile, in their order. -/
def Image.splitChains (im : Image) (array tile : Nat) : List POp → List Chain
  | [] => []
  | x :: t =>
    match im.splitChains array tile t with
    | [] => [{ array := array, tile := tile, passes := [x], torn := (im.op x.idx).acc }]
    | c :: cs =>
      if c.torn then { array := array, tile := tile, passes := x :: c.passes, torn := (im.op x.idx).acc } :: cs
      else { array := array, tile := tile, passes := [x], torn := (im.op x.idx).acc } :: c :: cs

/-- Chains of a step, for every array and tile (R148). One is torn only where an earlier step of the instance has a pass of the array into the
tile: without one nothing began it there. -/
def Image.chains (im : Image) (l : List POp) (q : PStep) : List Chain :=
  let run := (im.runOf l q).filter fun x => (im.op x.idx).isPass
  (List.range 4).flatMap fun a => (List.range 64).flatMap fun t =>
    let on := run.filter fun x => (im.op x.idx).engine == a && (im.op x.idx).holds t
    (im.splitChains a t (on.filter (·.at_ == q))).map fun c =>
      { c with torn := c.torn && on.any fun x => x.at_ != q && c.passes.head?.any fun y => decide (x.t < y.t) }

/-- The W_LOADs whose weights the passes of a chain use, of an earlier step of the instance as well (R126, R148). -/
def Image.chainLoads (im : Image) (l : List POp) (q : PStep) (c : Chain) : List POp :=
  let run := (im.runOf l q).filter fun x => (im.op x.idx).engine == c.array
  c.passes.flatMap fun p => (((run.takeWhile (· != p)).filter fun x => (im.op x.idx).opcode == 1).getLast?).toList

/-- R149: chains that begin in an earlier step, and operand bytes of a chain written between its first W_LOAD and the end of the last
replay window. R214: a direct read of a chain's tile before that end, in the step or, once the chain has begun, in any other (log 124). -/
def Image.replayBad (im : Image) (l : List POp) (uses : List Use) : List Nat :=
  (im.placed.filter fun q => (im.step q.step).unitKind == 0 && (im.step q.step).replayRes).flatMap fun q =>
    let st := im.step q.step
    let core := im.coreNo st.unit
    let end_ := 7 * (q.start + st.start) + im.lastEnd st + 512 * st.replayTiles
    let cs := im.chains l q
    let dirty := cs.any fun c =>
      let loads := im.chainLoads l q c
      let from_ := (leastOf ((if loads.isEmpty then c.passes else loads).map (·.t))).getD 0
      let rd := (loads ++ c.passes).flatMap fun x => (OperandD.of (im.desc (im.op x.idx).arg0)).reads core (im.op x.idx).rows
      uses.any fun u => clash im.rep from_ (end_ - from_) u.t u.dur && accsMeet u.writes rd
    let early := (l.filter fun x => x.core == core && (im.op x.idx).opcode == 6).filter fun x => cs.any fun c =>
      c.tile == (im.op x.idx).arg0 && (if x.at_ == q then decide (x.t < end_) else
        let from_ := (leastOf (c.passes.map (·.t))).getD 0
        clash im.rep from_ (end_ - from_) x.t 1)
    (if cs.any (·.torn) || dirty then [inSec 3 q.step] else []) ++ early.map fun x => inSec 5 x.idx

/-! ## Check 9: reservation sums (R93, R103, R436) -/

def rsvCap (kind : Nat) : Nat :=
  match kind with
  | 1 => 5
  | 2 => 63
  | 3 => 3584
  | 4 => 1
  | 5 => 40
  | 6 => 1
  | 7 | 8 => 7680
  | _ => 2240

def rsvShared (kind : Nat) : Bool := kind != 1 && kind != 3

/-- Amount of a record at a tick of fabric time (R92). -/
def ImgRsv.at_ (r : ImgRsv) (cycle tick : Nat) : Nat := if (tick + cycle - r.start % cycle) % cycle < r.len then r.amount else 0

/-- Images running or pending in the other partitions (R103). -/
def State.otherImages (s : State) (p : Nat) : List Image :=
  ((List.range 64).filter (· != p)).flatMap fun q =>
    (s.part q).image.toList ++ (match (s.part q).pending with | some x => x.image.toList | none => [])

/-- Serving budget that counts on a resource at every tick (R436). -/
def State.budget (s : State) (kind id : Nat) : Nat :=
  match kind with
  | 5 => s.fld .vstServeG id 5 0
  | 7 | 8 => s.fld .vstServeF id 12 0
  | _ => 0

/-- Sum on a resource at a tick of the records of a list of images (with their CYCLEs). -/
def sumAt (l : List (ImgRsv × Nat)) (kind id tick : Nat) : Nat :=
  ((l.filter fun x => x.1.kind == kind && x.1.id == id).map fun x => x.1.at_ x.2 tick).foldl (· + ·) 0

def Image.withCycle (im : Image) : List (ImgRsv × Nat) := im.rsvs.map fun r => (r, im.cycle)

/-- Ticks of the longer period at which some record of a list begins. -/
def startsIn (l : List (ImgRsv × Nat)) (m : Nat) : List Nat :=
  l.flatMap fun x => (List.range (m / x.2)).map fun k => x.1.start + k * x.2

/-- The first reservation record that brings a sum over its capacity. -/
def State.rsvBad (s : State) (im : Image) (others : List (ImgRsv × Nat)) (m : Nat) (before : List ImgRsv) (i : Nat) : List ImgRsv → Option Nat
  | [] => none
  | r :: t =>
    let mine := (r :: before).map fun x => (x, im.cycle)
    let all := mine ++ if rsvShared r.kind then others else []
    let ofRes := all.filter fun x => x.1.kind == r.kind && x.1.id == r.id
    if (startsIn ofRes m).any fun k => decide (r.at_ im.cycle k ≠ 0 ∧ sumAt ofRes r.kind r.id k + s.budget r.kind r.id > rsvCap r.kind) then some (inSec 7 i)
    else s.rsvBad im others m (r :: before) (i + 1) t

/-- Sum of the caps of a G-die's valid entries: Λ of R259. -/
def State.capSum (s : State) (g : Nat) : Nat :=
  (((List.range 256).filter fun e => s.flag .gthUpdCap (256 * g + e) 30).map fun e => s.fld .gthUpdCap (256 * g + e) 29 16).foldl (· + ·) 0

/-- A partition counts for the governing window of a G-die (R259): it owns a channel of a home stack (R16), or the G-die is the
HOME_G of a CXL member; VST_CXL names no partition, so such a member counts every one (log 45). -/
def State.governs (s : State) (g p : Nat) : Bool :=
  ([2 * g, 2 * g + 1].any fun m => (List.range 32).any fun c => s.flag .memChOwn (32 * m + c) 6 && s.fld .memChOwn (32 * m + c) 5 0 == p) ||
    ((List.range 4).any fun h => s.flag .vstCxl h 16 && s.fld .vstCxl h 22 19 == g)

/-- SADDLE_UPDs of the images with UPD set that are running or pending in a partition. -/
def State.windowsOf (s : State) (p : Nat) : List Nat :=
  (((s.part p).image.toList ++ (match (s.part p).pending with | some x => x.image.toList | none => [])).filter (·.upd)).map (·.saddleUpd)

/-- The governing window of a G-die, with further images counted (R259). -/
def State.window (s : State) (g : Nat) (more : List Nat) : Nat :=
  (leastOf (((List.range 64).filter (s.governs g)).flatMap s.windowsOf ++ more)).getD 1024

/-- The bound of R259 on a sum of caps under a window. -/
def capFits (sum window : Nat) : Bool := decide (40 + ceilDiv sum 64 + ceilDiv sum 16 ≤ window)

/-- The image's SADDLE_UPD would lower a governing window below what the caps in force need (R571). -/
def State.windowBad (s : State) (p : Nat) (im : Image) : Bool :=
  im.upd && (List.range 16).any fun g => s.governs g p && decide (im.saddleUpd < s.window g []) && !capFits (s.capSum g) im.saddleUpd

def State.imgCheck9 (s : State) (p : Nat) (im : Image) : Option Nat :=
  let os := s.otherImages p
  firstOf [if s.windowBad p im then some 0 else none,
    s.rsvBad im (os.flatMap Image.withCycle) (maxOf (im.cycle :: os.map (·.cycle))) [] 0 im.rsvs]

/-! ## Check 10 (R104, R429) -/

def Image.depBad (im : Image) : List Nat :=
  im.classes.flatMap fun c =>
    (c.stepIdx.filter fun i =>
      let st := im.step i
      let d := im.step st.depStep
      st.remoteDep && !(c.stepIdx.contains st.depStep && d.unitKind == 1 && d.group == st.group && decide (d.start + d.remoteWin + 2000 ≤ st.start))).map (inSec 3)

def State.sendBad (s : State) (p : Nat) (im : Image) : List Nat :=
  ((List.range im.steps.length).filter fun i =>
    let st := im.step i
    st.unitKind == 2 &&
      (match im.sendTicks st with
       | some w => decide (w > 1000) || decide (st.length < w + 2000 + 2 * s.sendEdges p im st + 1)
       | none => true)).map (inSec 3)

/-! ## Checks 14 and 15: producers (R456) -/

/-- Writers of a span, the latest first: cycles back from the reader, span, same instance, an operation that the reader's own instance states
only after it, its tile's start or ready bound. -/
structure Writer where
  back : Nat
  lo : Nat
  hi : Nat
  same : Bool
  later : Bool
  ready : Option Nat
  deriving DecidableEq, Repr

/-- What is left of a list of spans without [lo, hi). -/
def cut (lo hi : Nat) (l : List (Nat × Nat)) : List (Nat × Nat) :=
  l.flatMap fun g => (if g.1 < min g.2 lo then [(g.1, min g.2 lo)] else []) ++ (if max g.1 hi < g.2 then [(max g.1 hi, g.2)] else [])

/-- Verdict on the spans still without a producer: (check 14 fails, check 15 fails). -/
def cover (ts : Nat) : List Writer → List (Nat × Nat) → Bool × Bool
  | _, [] => (false, false)
  | [], _ => (false, true)
  | w :: t, gaps =>
    let hit := gaps.any fun g => decide (w.lo < g.2 ∧ g.1 < w.hi)
    let rest := cover ts t (cut w.lo w.hi gaps)
    if !hit then rest
    else if w.later && !w.ready.any fun b => decide (b ≤ ts) then (true, rest.2)
    else if !w.same then (rest.1, true)
    else match w.ready with
      | some b => (rest.1 || decide (b > ts), rest.2)
      | none => (true, rest.2)

/-- Producers: uses with the cycle from which a later reader finds them and the bound at which they are ready. A W_LOAD writes
its bank after the PASS of the same cycle (R95). -/
def State.readyOf (s : State) (p : Nat) (im : Image) (u : Use) : Option Nat :=
  let st := im.step u.at_.step
  match st.unitKind with
  | 0 => some u.ts
  | 1 =>
    match (im.tablesOf st.first).find? fun e => u.writes.any fun a => a.lo == e.outOff with
    | some e => (s.gatherBound p im st e).map (· + 7 * u.at_.start)
    | none => some u.ts
  | 2 => (s.sendBound p im st).map (· + 7 * u.at_.start)
  | _ => (s.xferBound p im st (im.xferLen u.at_.cls u.at_.step)).map (· + 7 * u.at_.start)

def writersOf (r : Nat) (prods : List (Use × Option Nat)) (x : Use) (a : Acc) : List Writer :=
  sortBy Writer.back (prods.flatMap fun w =>
    if w.1 == x then []
    else (w.1.writes.filter (a.meets ·)).map fun b =>
      let t := if b.store = 8 then w.1.t + 1 else w.1.t
      let back := ahead r t x.t
      { back := back, lo := b.lo, hi := b.hi, same := sameInst x.at_ w.1.at_ x.t t back,
        later := x.at_.cls == w.1.at_.cls && x.at_.start == w.1.at_.start && decide (x.t < t), ready := w.2 })

/-- The two verdicts on one user. -/
def inputBad (r : Nat) (prods : List (Use × Option Nat)) (x : Use) : Bool × Bool :=
  x.reads.foldl (fun v a =>
    if a.lo < a.hi then
      let c := cover x.ts (writersOf r prods x a) [(a.lo, a.hi)]
      (v.1 || c.1, v.2 || c.2)
    else v) (false, false)

/-- The queue entry of an FTQ_POP comes from its own instance, from a tile that starts no later (R456). -/
def popBad (r : Nat) (q : QPop) : Bool × Bool :=
  match q.entry with
  | none => (false, true)
  | some e =>
    if q.op.at_.cls != e.op.at_.cls || q.op.at_.start != e.op.at_.start then (false, true)
    else if e.op.tile > q.op.tile then (true, false)
    else (false, !(decide (e.op.t ≤ q.op.t) && decide (q.op.t - e.op.t < r)))

/-- Checks 14 and 15: the first record that fails each. -/
def State.imgCheck1415 (s : State) (p : Nat) (im : Image) (uses : List Use) (pops : List QPop) : Option Nat × Option Nat :=
  let prods := (uses.filter fun u => !u.writes.isEmpty).map fun u => (u, s.readyOf p im u)
  let v := uses.map (fun u => (u.detail, inputBad im.rep prods u)) ++ pops.map fun q => (inSec 5 q.op.idx, popBad im.rep q)
  (leastOf ((v.filter (·.2.1)).map (·.1)), leastOf ((v.filter (·.2.2)).map (·.1)))

/-! ## The order of the checks (R111) -/

/-- The first check that fails: its code and DETAIL. -/
def firstCheck : List (Nat × Option Nat) → Option (Nat × Nat)
  | [] => none
  | (code, some d) :: _ => some (code, d)
  | (_, none) :: t => firstCheck t

/-- Checks 3 to 6. -/
def State.imgRecords (s : State) (p b : Nat) (im : Image) : Option (Nat × Nat) :=
  match firstCheck [(0x0642, imgCheck3 b im), (0x0643, imgCheck4 b)] with
  | some x => some x
  | none =>
    firstCheck [(0x0644, s.imgCheck5 p im), (0x0645, leastOf ((imgCheck6 im).toList ++ im.bankBad im.timeline))]

/-- Checks 7 to 12. -/
def State.imgWhole (s : State) (p : Nat) (im : Image) : Option (Nat × Nat) :=
  let l := im.timeline
  let pops := im.pops l
  let uses := s.uses p im l pops
  firstCheck
    [(0x0646, leastOf (im.steps.flatMap im.tilesBad ++ im.tiles.flatMap im.opsBad ++ im.portsBad l ++ im.accBad l pops ++ im.accReadBad l pops ++ usesBad im.rep uses)),
     (0x0647, leastOf (im.boundsBad ++ im.outsideBad ++ im.enginesBad ++ im.replayBad l uses)),
     (0x0648, s.imgCheck9 p im),
     (0x0649, leastOf (im.depBad ++ s.sendBad p im)),
     (0x064A, if im.format = 6 then firstBad 5 im.ops (fun _ o => o.opcode == 6) else none),
     (0x064B, leastOf (im.coreList.dedup.flatMap fun k => (im.qOver (onCore l k)).map (inSec 5)))]

/-- The overlaps of a gather's outputs (R207), and checks 14 and 15, once the table entries are known. -/
def State.imgInputs (s : State) (p : Nat) (im : Image) : Option (Nat × Nat) :=
  let l := im.timeline
  let pops := im.pops l
  let uses := s.uses p im l pops
  let c := s.imgCheck1415 p im uses pops
  firstCheck [(0x0646, leastOf (usesBad im.rep uses)), (0x064D, c.1), (0x064E, c.2)]

end Sys2Proof.Machine
end

