-- ==== Sys2Proof/Machine/Images.lean ====
section
/-! DEFINITION. Loading and switching images: the load submission of R111 with the table-entry checks of R217, the switch at a
saddle (R112, R113, R465) and what a withdrawn array does to the running image (R109). -/

namespace Sys2Proof.Machine

open Sys2Proof Host

/-! ## Table entries (R216 to R219) -/

/-- Data bytes d of a tier (R219). -/
def tierBytes (tier dim : Nat) : Nat :=
  match tier with
  | 0 => 2 * dim
  | 1 | 2 => dim
  | _ => ceilDiv dim 2

/-- Bytes of the optimiser state (R219). -/
def optBytes (opt dim : Nat) : Nat := if opt = 1 then 16 else if opt = 2 then ceilDiv (4 * dim) 16 * 16 else 0

/-- Byte of an extent at which the optimiser state begins, and the bytes that the extent must hold (R219). -/
def optAt (twide dim : Nat) : Nat := 16 + ceilDiv (tierBytes twide dim) 16 * 16
def extentBytes (twide opt dim : Nat) : Nat := optAt twide dim + optBytes opt dim

/-- Ranges of a table entry; `raw` is its 64 bytes (R216, R219). -/
def TableEntry.ok (e : TableEntry) (raw : Nat) : Bool :=
  zeroAt raw 0x1E 0 16 && zeroAt raw 0x22 6 2 && zeroAt raw 0x24 3 5 && zeroAt raw 0x25 0 8 && zeroAt raw 0x30 0 128 &&
    e.base % 256 == 0 && (e.localRows != 0 || e.base == 0) && decide (1 ≤ e.rows ∧ e.rows ≤ 2 ^ 40) && decide (e.localRows ≤ e.rows) &&
    (e.localRows != e.rows || (e.poolDev == 0 && e.poolOff == 0)) && e.poolOff % 256 == 0 && e.opt != 3 &&
    decide (3 ≤ e.outFmt ∧ e.outFmt ≤ 6) && decide (1 ≤ e.stride ∧ e.stride ≤ 64) && (e.dist == (e.stripe != 0)) &&
    e.outOff % 256 == 0 && e.outMax % 16 == 0 && decide (e.outOff + e.outMax ≤ shBytes) &&
    decide (extentBytes e.twide e.opt e.dim ≤ 256 * e.stride)

/-- Every GiB of a span of memory addresses lies in a region with ROWLOCK set. -/
def State.rowLocked (s : State) (lo hi : Nat) : Bool :=
  (List.range ((hi - 1) / gib - lo / gib + 1)).all fun i =>
    match s.regionOf ((lo / gib + i) * gib) with
    | some r => (s.region r).rowlock
    | none => false

/-- The mapped pages that hold a table's local rows lie in regions with ROWLOCK set (R217, R309). -/
def State.localLocked (s : State) (ctx : Nat) (e : TableEntry) : Bool :=
  let hi := e.base + 256 * e.stride * e.localRows
  s.xlt.pages.all fun p =>
    let a := max p.va e.base
    let b := min (p.va + p.n * pageBytes p.psz) hi
    p.ctx != ctx || decide (b ≤ a) || s.rowLocked (p.mem + (a - p.va)) (p.mem + (b - p.va))

/-- The output region of an entry lies in ways that the partition owns on every receiving C-die (R217, R330). -/
def State.outOwned (s : State) (p : Nat) (d : GatherD) (e : TableEntry) : Bool :=
  e.outMax == 0 || (List.range d.cN).all fun i => (List.range ((e.outOff + e.outMax - 1) / 2 ^ 21 - e.outOff / 2 ^ 21 + 1)).all fun w =>
    s.wayOwner .memSway (d.cFirst + i) (e.outOff / 2 ^ 21 + w) == some p

/-- Reads and checks the table list of one gather descriptor, with the flaws that the read meets (R324): its entries, none where R217 refuses
one. -/
def State.readTables (s : State) (p ctx : Nat) (n : Nat) (bad : List Blemish) : Option (List TableEntry) × State :=
  let d := GatherD.of n
  let (l, c, s) := (s.meetDev ctx d.tlist (4 * d.nTab) bad).devRead (Who.die_ (dieH (s.admitH p))) ctx d.tlist (4 * d.nTab)
  if c ≠ 0 ∨ l.any (·.poison) then (none, s)
  else
    let raws := (List.range d.nTab).map fun i => (gransNat l (64 * i) 64).getD 0
    if raws.all fun r =>
        let e := TableEntry.of r
        e.ok r && s.dieOk (dieF e.viaF) && s.localLocked ctx e && s.outOwned p d e then
      (some (raws.map TableEntry.of), s)
    else (none, s)

/-- G-dies of the steps that name a gather descriptor. -/
def Image.gdiesOf (im : Image) (desc : Nat) : List Nat :=
  ((im.steps.filter fun st => st.unitKind == 1 && st.first == desc).map fun st => st.unit - 32).dedup

/-- Table sets of every gather descriptor, or the descriptor whose entry failed (R217). -/
def State.tablesFrom (s : State) (p ctx : Nat) (im : Image) (bad : List Blemish) : List (Nat × Nat) → Except Nat (List TableSet) × State
  | [] => (.ok [], s)
  | (i, n) :: t =>
    if descType n ≠ 4 then s.tablesFrom p ctx im bad t
    else
      match s.readTables p ctx n bad with
      | (none, s) => (.error i, s)
      | (some es, s) =>
        match s.tablesFrom p ctx im bad t with
        | (.error j, s) => (.error j, s)
        | (.ok l, s) => (.ok ((im.gdiesOf i).map (fun g => { gdie := g, desc := i, entries := es }) ++ l), s)

/-- Entries of a G-die's table store over a list of table sets. -/
def storeUse (g : Nat) (l : List TableSet) : Nat := ((l.filter (·.gdie == g)).map (·.entries.length)).foldl (· + ·) 0

/-- Table sets of the running and pending images of all partitions (R217). -/
def State.allTables (s : State) : List TableSet :=
  (List.range 64).flatMap fun q =>
    ((s.part q).image.toList ++ (match (s.part q).pending with | some x => x.image.toList | none => [])).flatMap (·.tables)

/-! ## The load (R111 to R113) -/

/-- End of a load's reserved length, counted from its decision tick (R111, R386). -/
def loadEnd (decided len : Nat) (xpath : Bool) : Nat := decided + 400 + ceilDiv len 2048 + if xpath then 200 else 0

/-- Check 13 of R111 on a switch saddle. -/
def saddleOk (saddle end_ : Nat) : Bool := saddle % 4096 == 0 && decide (end_ + 4096 ≤ saddle)

/-- Ends of the slots accepted under a partition's running image (R112). -/
def State.slotEnds (s : State) (p : Nat) : List Nat := (s.slots.filter fun q => q.q / 256 == p).map (·.resEnd)

/-- The switch saddle moves past the slots already accepted (R112). -/
def State.switchSaddle (s : State) (p saddle : Nat) : Nat := max saddle (saddleAtOrAfter (maxOf (s.slotEnds p)))

/-- All checks of R111 and R217 on the image in a buffer, in their order: the code and DETAIL, or the image to record. -/
def State.checkImage (s : State) (x : Sub) (l : List Gran) (bad : List Blemish) : Except (Nat × Nat) Image × State :=
  let bs := gransBytes l
  let b := leNat bs
  let len := 16 * l.length
  if len < 8 then (.error (0x0641, 0), s)
  else if fieldAt b 0 31 0 ≠ 0x5A365349 ∨ (fieldAt b 4 15 0 ≠ 6 ∧ fieldAt b 4 15 0 ≠ 2) then (.error (0x0640, 0), s)
  else if !imgLenOk b len bs then (.error (0x0641, 0), s)
  else
    let im := Image.of b
    match s.imgRecords x.part b im with
    | some f => (.error f, s)
    | none =>
      match s.imgWhole x.part im with
      | some f => (.error f, s)
      | none =>
        if !saddleOk (bits x.args 63 0) (loadEnd x.decided len x.xpath) then (.error (0x064C, 0), s)
        else
          match s.tablesFrom x.part x.ctx im bad ((List.range im.descs.length).map fun i => (i, im.desc i)) with
          | (.error i, s) => (.error (0x0650, inSec 6 i), s)
          | (.ok tabs, s) =>
            match (List.range im.descs.length).find? fun i => (im.gdiesOf i).any fun g =>
                decide (storeUse g (s.allTables ++ tabs.filter (·.desc ≤ i)) > 1024) with
            | some i => (.error (0x0651, inSec 6 i), s)
            | none =>
              let im := { im with tables := tabs }
              match s.imgInputs x.part im with
              | some f => (.error f, s)
              | none => (.ok im, s)

/-- Ends a control submission with a code that its checks give: a completion, not a fault (R111). -/
def State.endWith (s : State) (x : Sub) (code detail : Nat) : State :=
  s.setSub { x with code := code, detail := detail, chargedAt := 7 * s.time.now, done := true, ran := true, cancelled := true }

/-- Records a pending load or stop; one that it replaces is completed with 0x0705 (R113, R465). -/
def State.setPending (s : State) (p : Nat) (q : Pending) : State :=
  let s :=
    match (s.part p).pending with
    | none => s
    | some old =>
      match s.sub? old.ring old.seq with
      | some y => if y.code = 0 ∧ (old.ring ≠ q.ring ∨ old.seq ≠ q.seq) then s.endWith y 0x0705 0 else s
      | none => s
  s.setPart p { s.part p with pending := some q }

/-- A control submission that was accepted, whose effect has not begun and whose reserved place has come. -/
def State.runnable (s : State) (ring seq kind : Nat) : Option Sub :=
  match s.sub? ring seq with
  | some x =>
    if x.kind = kind ∧ x.st = .accepted ∧ x.code = 0 ∧ !x.ran ∧ !x.done ∧ s.time.now ≥ x.start ∧ !s.wardenRestarts (s.admitH x.part) then some x else none
  | none => none

/-- IMAGE_LOAD (R111 to R113, R217): validates the whole image and records it as pending with its switch saddle, or completes
with the code of the first check that fails. A granule of the buffer that cannot be read, or is poisoned, fails check 2. An image of which a
packet is discarded on the mesh never comes (R28). Check 13 has the load complete by its reserved end, so it completes once recorded, and
0x0705 of R113 reaches a load that is replaced while its entry is still to come (log 134). -/
def execImageLoad (ring : Fin 4096) (seq : Word) (bad : List Blemish) (edges : List EdgeErr) (s : State) : Outcome State Fault Refusal :=
  match s.runnable ring.val seq.toNat 0x81 with
  | none => .next s
  | some x =>
    let buf := x.bufs.getD 0 { addr := 0, len := 0, dev := true, rd := false, wr := false }
    match s.readOver (Who.die_ (dieH (s.admitH x.part))) x.ctx buf.addr (buf.len / 16) bad edges with
    | (none, _, s) => .next (s.setSub { x with ran := true })
    | (some l, c, s) =>
    if c ≠ 0 ∨ l.any (·.poison) then .next (s.endWith x 0x0641 0)
    else
      match s.checkImage x l bad with
      | (.error (code, detail), s) => .next (s.endWith x code detail)
      | (.ok im, s) =>
        let sad := s.switchSaddle x.part (bits x.args 63 0)
        let s := s.setPending x.part { image := some im, saddle := sad, ring := x.ring, seq := x.seq }
        .next ((s.setSub { x with ran := true, info := sad }).finish x.ring x.seq)

/-! ## The switch and substitution (R109, R112, R465) -/

/-- A withdrawn array of a core entry runs on REPLAY_ARRAY (R109); false where the partition must stop admitting. -/
def State.coreServes (s : State) (im : Image) (i : Nat) (c : ImgCore) : Bool :=
  let k := 8 * c.cdie + c.core
  (im.arraysOf i c).all fun a => !(s.array (4 * k + a)).withdrawn || (c.sub && c.replay != a && !(s.array (4 * k + c.replay)).withdrawn)

def State.imageServes (s : State) (im : Image) : Bool :=
  (List.range im.cores.length).all fun i => s.coreServes im i (im.core i)

/-- Array on which an array's operations run (R109). -/
def State.runsOnArray (s : State) (im : Image) (core a : Nat) : Nat :=
  match im.cores.find? fun c => 8 * c.cdie + c.core == core with
  | some c => if (s.array (4 * core + a)).withdrawn && c.sub then c.replay else a
  | none => a

/-- An array is withdrawn; a SUSPECT one begins its confirmation sweep (R109, R529). -/
def State.withdrawArray (s : State) (a : Nat) : State :=
  let x := s.array a
  let x := { x with withdrawn := true, toWithdraw := false, due := false }
  s.setArray a (if (s.unit (256 * (a / 32) + a % 32)).st = 1 then { x with confirm := 1, confirmBy := s.time.now } else x)

/-- A running image that cannot go on as it is stops admission at a saddle (R109). -/
def State.judgeImage (s : State) (p : Nat) : State :=
  match (s.part p).image with
  | some im => if s.imageServes im then s else s.setPart p { s.part p with noAdmit := true }
  | none => s

/-- At a switch saddle the pending image, or none for a stop, becomes the running one (R112, R465). A held partition's
switch waits for its shifted saddle (R463), and one that meets STEPPING for a saddle after the step (R114). -/
def State.switchImage (s : State) (p : Nat) : State :=
  let x := s.part p
  match x.pending with
  | none => s
  | some q =>
    if x.st != .idle && s.time.state != .stepping && decide (q.saddle ≤ s.time.now) && (match x.hold with | some h => decide (q.saddle < h.latch) | none => true) then s.setPart p { x with image := q.image, pending := none, noAdmit := false } else s

/-- Partition that owns a core. -/
def State.coreOwner (s : State) (k : Nat) : Option Nat := if s.flag .sysCoreOwn k 6 then some (s.fld .sysCoreOwn k 5 0) else none

/-- Withdrawals that fell due while a partition was held take effect at its resume, as if at a saddle (R464). -/
def State.wakeArrays (s : State) : State :=
  let l := s.arrays.filter fun a => a.2.due && (match s.coreOwner (a.1 / 4) with
    | some p => (s.part p).st != .holding && (s.part p).st != .held && decide ((s.part p).fromTick ≤ s.time.now)
    | none => true)
  if l.isEmpty then s
  else
    let s := l.foldl (fun s a => s.withdrawArray a.1) s
    (List.range 64).foldl (fun s p => s.judgeImage p) s

end Sys2Proof.Machine
end

