-- ==== Sys2Proof/Machine/Batch.lean ====
section
/-! DEFINITION. The update batch: its header, parameter blocks and records, and the validation of the ingest G-die (R253 to
R256, R578 to R580). -/

namespace Sys2Proof.Machine

open Sys2Proof

/-- Batch header (R253). -/
structure BatchH where
  magic : Nat
  nTab : Nat
  nRec : Nat
  recOff : Nat
  recBytes : Nat
  paramOff : Nat
  reportOff : Nat
  reportMax : Nat
  lines : Nat
  deriving DecidableEq, Repr

def BatchH.of (n : Nat) : BatchH :=
  { magic := fieldAt n 0 15 0, nTab := fieldAt n 2 7 0, nRec := fieldAt n 4 31 0, recOff := fieldAt n 8 31 0, recBytes := fieldAt n 0x0C 31 0,
    paramOff := fieldAt n 0x10 31 0, reportOff := fieldAt n 0x14 31 0, reportMax := fieldAt n 0x18 15 0, lines := fieldAt n 0x1C 31 0 }

/-- Parameter block (R254). -/
structure ParamB where
  tableId : Nat
  gfmt : Nat
  lr : Nat
  eps : Nat
  b1 : Nat
  b2 : Nat
  c1 : Nat
  c2 : Nat
  deriving DecidableEq, Repr

def ParamB.of (n : Nat) : ParamB :=
  { tableId := fieldAt n 0 15 0, gfmt := fieldAt n 2 3 0, lr := fieldAt n 4 31 0, eps := fieldAt n 8 31 0, b1 := fieldAt n 0x0C 31 0,
    b2 := fieldAt n 0x10 31 0, c1 := fieldAt n 0x14 31 0, c2 := fieldAt n 0x18 31 0 }

/-- Some field of a block whose stated values leave it out is all ones (R579). -/
def ParamB.ones (p : ParamB) : Bool := p.gfmt == 15 || [p.lr, p.eps, p.b1, p.b2, p.c1, p.c2].contains (2 ^ 32 - 1)

/-- Record header (R255) with its place in the buffer and the bytes of its data. -/
structure BatchR where
  off : Nat
  raw : Nat
  dataLen : Nat
  deriving DecidableEq, Repr

def BatchR.index (r : BatchR) : Int := sext 64 (bits r.raw 63 0)
def BatchR.tab (r : BatchR) : Nat := fieldAt r.raw 8 7 0
def BatchR.mode (r : BatchR) : Nat := fieldAt r.raw 9 1 0
def BatchR.tier (r : BatchR) : Nat := fieldAt r.raw 9 3 2

/-- The entry of a table in the table store of a partition's image (R217, R254). -/
def Image.table (im : Image) (id : Nat) : Option TableEntry := (im.tables.flatMap (·.entries)).find? (·.tableId == id)

/-- Data bytes of a record of mode GRAD or ASSIGN, padded to 16 (R255). -/
def recData (mode gfmt dim : Nat) : Nat := if mode ≤ 1 then ceilDiv ((if gfmt = 6 then 4 else 2) * dim) 16 * 16 else 0

/-- Records as they follow one another. The walk stops before a record whose header lies beyond the buffer, and after one
whose size is not known. -/
def batchWalk (l : List Gran) (size : Nat → Option Nat) (off : Nat) : Nat → List BatchR
  | 0 => []
  | k + 1 =>
    match gransNat l off 16 with
    | none => []
    | some raw =>
      match size raw with
      | none => [{ off := off, raw := raw, dataLen := 0 }]
      | some n => { off := off, raw := raw, dataLen := n } :: batchWalk l size (off + 16 + n) k

/-- A batch as the ingest G-die reads it. -/
structure Batch where
  h : BatchH
  params : List ParamB
  recs : List BatchR
  deriving DecidableEq, Repr

/-- Size of a record's data, none where its block or table is not known. -/
def batchSize (ps : List ParamB) (im : Image) (raw : Nat) : Option Nat :=
  match ps[fieldAt raw 8 7 0]? with
  | none => none
  | some p =>
    match im.table p.tableId with
    | none => none
    | some e => some (recData (fieldAt raw 9 1 0) p.gfmt e.dim)

def paramRaw (l : List Gran) (h : BatchH) (i : Nat) : Option Nat := gransNat l (h.paramOff + 32 * i) 32

/-- The blocks that lie within the buffer. -/
def batchParams (l : List Gran) (h : BatchH) : List ParamB := ((List.range h.nTab).filterMap (paramRaw l h)).map ParamB.of

def Batch.of (l : List Gran) (im : Image) : Batch :=
  let h := BatchH.of ((gransNat l 0 32).getD 0)
  let ps := batchParams l h
  { h := h, params := ps, recs := batchWalk l (batchSize ps im) h.recOff h.nRec }

/-- A poisoned granule among bytes of the buffer. -/
def gransPoison (l : List Gran) (off n : Nat) : Bool :=
  (List.range (if n = 0 then 0 else (off + n - 1) / 16 - off / 16 + 1)).any fun i => match l[off / 16 + i]? with | some g => g.poison | none => false

/-- FP32 patterns by value (R254). -/
def isPos32 (b : Nat) : Bool := isFin32 b && decide (0 < b) && decide (b < 2 ^ 31)
def isBeta32 (b : Nat) : Bool := decide (b < 0x3F800000) || b == 0x80000000
def isBias32 (b : Nat) : Bool := decide (0x3F800000 ≤ b ∧ b < 0x7F800000)

/-- Rates of a block under the optimiser of its table (R254). -/
def ParamB.ratesOk (p : ParamB) (opt : Nat) : Bool :=
  (p.gfmt == 5 || p.gfmt == 6) && isFin32 p.lr && (if opt = 0 then p.eps == 0 else isPos32 p.eps) &&
    (if opt = 2 then isBeta32 p.b1 && isBeta32 p.b2 && isBias32 p.c1 && isBias32 p.c2 else p.b1 == 0 && p.b2 == 0 && p.c1 == 0 && p.c2 == 0)

/-- Lines that a record charges (R255). -/
def Batch.linesOf (b : Batch) (im : Image) (r : BatchR) : Nat :=
  match b.params[r.tab]? with
  | none => 0
  | some p => (im.table p.tableId).elim 0 (·.stride)

/-- Placement of header, blocks, records and report (R256, check 3). Records whose sizes are not all known are left to check 4. -/
def Batch.placed (b : Batch) (known : BatchR → Bool) (len : Nat) : Bool :=
  let h := b.h
  let rep := 16 + 16 * h.reportMax
  h.recOff % 16 == 0 && h.recBytes % 16 == 0 && h.paramOff % 16 == 0 && h.reportOff % 16 == 0 && decide (h.paramOff + 32 * h.nTab ≤ len) &&
    decide (h.recOff + h.recBytes ≤ len) && decide (h.reportOff + rep ≤ len) && decide (32 ≤ len) &&
    (b.recs.length != h.nRec || !b.recs.all known || b.recs.any (fun r => decide (3 ≤ r.mode) || decide (b.params.length ≤ r.tab)) ||
      (b.recs.map fun r => 16 + r.dataLen).foldl (· + ·) 0 == h.recBytes)

/-- The validation of R256 on the granules of a buffer, for an image in whose table store the tables lie: 0, or the code of the
first check that fails. A poisoned granule fails the check that reads it (R474). Within one check, what lies beyond the buffer is looked at
before reserved bits: R578 orders no elements inside a check (DESIGN CHOICE, log 133; the map list takes its elements one by one). -/
def batchCode (l : List Gran) (im : Image) (nRec lines : Nat) : Nat :=
  let len := 16 * l.length
  let b := Batch.of l im
  let h := b.h
  let known := fun r : BatchR => (batchSize b.params im r.raw).isSome
  if len < 32 then 0x0672
  else if gransPoison l 0 32 then 0x0240
  else if h.magic ≠ 0x5055 ∨ h.nRec ≠ nRec ∨ h.lines ≠ lines then 0x0670
  else if (l.getD 0 { data := 0, poison := false }).data.toNat / 2 ^ 24 % 256 ≠ 0 ∨ fieldAt ((gransNat l 0 32).getD 0) 0x1A 15 0 ≠ 0 then 0x0671
  else if b.params.length < h.nTab then 0x0672
  else if gransPoison l h.paramOff (32 * h.nTab) then 0x0240
  else if (List.range h.nTab).any fun i =>
      let n := (paramRaw l h i).getD 0
      !(zeroAt n 2 4 4 && zeroAt n 3 0 8 && zeroAt n 0x1C 0 32) then 0x0671
  else if b.recs.any fun r => gransPoison l r.off 16 then 0x0240
  else if b.recs.any fun r => !(zeroAt r.raw 9 4 4 && zeroAt r.raw 0x0A 0 48) then 0x0671
  else if b.recs.length < h.nRec ∧ b.recs.all known then 0x0672
  else if !(decide (1 ≤ h.nTab ∧ h.nTab ≤ 64) && decide (h.nRec ≤ 2 ^ 20) && decide (h.lines ≤ 2 ^ 26) && decide (1 ≤ h.reportMax ∧ h.reportMax ≤ 4096)) ||
      !b.placed known len || (b.recs.any fun r => r.mode == 3 || (r.mode == 0 && r.tier != 0) || r.tab == 255) ||
      b.params.any ParamB.ones then 0x0672
  else if (b.params.any fun p => (im.table p.tableId).isNone) || !decide ((b.params.map (·.tableId)).Nodup) ||
      (b.recs.any fun r =>
        match b.params[r.tab]? with
        | none => true
        | some p => r.mode != 0 && decide (r.tier < (im.table p.tableId).elim 0 (·.twide))) then 0x0673
  else if b.params.any fun p => !p.ratesOk ((im.table p.tableId).elim 0 (·.opt)) then 0x0675
  else if (b.recs.map (b.linesOf im)).foldl (· + ·) 0 > h.lines then 0x0676
  else 0

/-- Row index of a record as a place in its table, none where it is not valid (R218). -/
def rowOf (e : TableEntry) (i : Int) : Option Nat := if 0 ≤ i ∧ i < (e.rows : Int) then some i.toNat else none

/-- Some record of the batch is for a row beyond its table's LOCAL_ROWS (R251, R257). -/
def Batch.remote (b : Batch) (im : Image) : Bool :=
  b.recs.any fun r =>
    match b.params[r.tab]? with
    | none => false
    | some p =>
      match im.table p.tableId with
      | none => false
      | some e => match rowOf e r.index with | some i => decide (e.localRows ≤ i) | none => false

end Sys2Proof.Machine
end

