-- ==== Sys2Proof/Machine/Admission.lean ====
section
/-! DEFINITION. Admission: the validation of a submission (R387 to R391, R457), the decision of R67 and the slots that accepted
submissions hold (R67 to R70, R79, R112, R257, R362, R386, R482, R489). -/

namespace Sys2Proof.Machine

open Sys2Proof Host

/-! ## Validation (R391) -/

/-- Kinds that need PRIV (R386, R457). -/
def isControl (kind : Nat) : Bool := kind == 0x81 || kind == 0x82 || decide (0x85 ≤ kind ∧ kind ≤ 0x89)

/-- A `host:` span of a context lies in its host window (R366). -/
def State.hostOk (s : State) (ctx addr len : Nat) : Bool :=
  s.flag .xltCtxA ctx 7 && decide ((s.reg .xltCtxC ctx).toNat * 2 ^ 16 ≤ addr ∧ addr + len ≤ ((s.reg .xltCtxD ctx).toNat + 1) * 2 ^ 16)

/-- Port of a context's host accesses (R346, R378). -/
def State.hport (s : State) (ctx : Nat) : Nat := s.fld .xltCtxA ctx 9 8

/-- Fields of the base slot (R387). -/
def Sub.nExt (x : Sub) : Nat := bits (x.slots.getD 0 0) 10 8
def Sub.nBuf (x : Sub) : Nat := bits (x.slots.getD 0 0) 18 16

/-- Fields of ARGS (R389). -/
def Sub.nIdx (x : Sub) : Nat := bits x.args 31 0
def Sub.items (x : Sub) : Nat := bits x.args 47 32
def Sub.inlineBytes (x : Sub) : Nat := if isQuery x.kind then bits x.args 63 48 else 0
def Sub.nRec (x : Sub) : Nat := bits x.args 31 0
def Sub.lines (x : Sub) : Nat := bits x.args 63 32
def Sub.applyAt (x : Sub) : Nat := bits x.args 127 64
def Sub.arg0 (x : Sub) : Nat := bits x.args 63 0

/-- Bits of ARGS that are reserved, by kind (R389, R457). -/
def argsReserved (kind : Nat) : Nat :=
  if kind = 0x80 then 0
  else if isQuery kind ∨ kind = 0x81 ∨ kind = 0x85 ∨ kind = 0x88 then (2 ^ 64 - 1) * 2 ^ 64
  else if kind = 0x89 then 2 ^ 128 - 2 ^ 11
  else 2 ^ 128 - 1

/-- Check 2: reserved fields and the bytes after the inline data. -/
def Sub.reservedOk (x : Sub) : Bool :=
  let b := x.slots.getD 0 0
  bits b 15 12 == 0 && bits b 31 19 == 0 && Nat.land x.args (argsReserved x.kind) == 0 &&
    ((List.range x.nBuf).all fun i => bits (bufRaw x.slots i) 127 99 == 0) &&
    ((inlineAll x.slots x.nBuf).drop x.inlineBytes).all (· == 0)

/-- Check 3: nothing is all ones whose range leaves that value out (R61, R579). -/
def Sub.onesOk (x : Sub) : Bool :=
  x.deadline != 2 ^ 64 - 1 && (x.bufs.all fun b => b.addr != 2 ^ 64 - 1 && b.len != 2 ^ 32 - 1) &&
    (if isQuery x.kind then x.nIdx != 2 ^ 32 - 1 && bits x.args 63 48 != 2 ^ 16 - 1
     else if x.kind = 0x80 then x.nRec != 2 ^ 32 - 1 && x.lines != 2 ^ 32 - 1 && x.applyAt != 2 ^ 64 - 1
     else if x.kind = 0x81 ∨ x.kind = 0x85 ∨ x.kind = 0x88 then x.arg0 != 2 ^ 64 - 1
     else true)

/-- Check 4: N_BUF, N_EXT and INLINE_BYTES agree (R387). -/
def Sub.countsOk (x : Sub) : Bool :=
  let bs := bufSlots x.nBuf
  decide (bs ≤ x.nExt) && decide (x.inlineBytes ≤ 64 * (x.nExt - bs)) &&
    (List.range (2 + 4 * bs)).all fun i => decide (i < x.nBuf) || bufRaw x.slots i == 0

/-- Check 5: present buffers. -/
def BufE.ok (b : BufE) : Bool :=
  b.len == 0 || (b.addr % 16 == 0 && b.len % 16 == 0 && decide (b.addr + b.len ≤ if b.dev then 2 ^ 48 else 2 ^ 64) && (b.rd || b.wr))

/-- Buffer 0 of a submission, absent where it has none. -/
def Sub.buf0 (x : Sub) : BufE := x.bufs.getD 0 { addr := 0, len := 0, dev := false, rd := false, wr := false }

/-- Check 6: windows, mappings and the rules of R389 on buffer 0. -/
def State.buffersOk (s : State) (x : Sub) : Bool :=
  (x.bufs.all fun b => b.len == 0 || (if b.dev then s.mappedAll x.ctx b.addr b.len b.wr else s.hostOk x.ctx b.addr b.len)) &&
    (if x.kind = 0x80 then x.buf0.len != 0 && x.buf0.rd && x.buf0.wr && (x.buf0.dev || s.hport x.ctx == s.admitH x.part)
     else if x.kind = 0x81 then x.buf0.len != 0 && x.buf0.dev && x.buf0.rd
     else true)

/-- Check 7: ranges of ARGS (R389, R457). -/
def Sub.argsOk (x : Sub) (now : Nat) : Bool :=
  if isQuery x.kind then decide (x.nIdx ≤ 2 ^ 20) && decide (x.inlineBytes ≤ 448)
  else if x.kind = 0x80 then decide (x.nRec ≤ 2 ^ 20) && decide (x.lines ≤ 2 ^ 26) && x.applyAt % 4096 == 0
  else if x.kind = 0x85 then x.arg0 == 0 || (x.arg0 % 4096 == 0 && decide (now + 2200 < x.arg0))
  else true

/-- Length of buffer slot `i` of a submission, and its rights to be read and written (R388). -/
def Sub.slotBuf (x : Sub) (i : Nat) : Nat × Bool × Bool :=
  if i = 7 then (x.inlineBytes, true, false)
  else match x.bufs[i]? with
    | some b => (b.len, b.rd, b.wr)
    | none => (0, false, false)

/-- Check 8 for one step of a class. -/
def Image.stepFits (im : Image) (c : ImgClass) (x : Sub) (i : Nat) : Bool :=
  let st := im.step i
  let n := im.desc st.first
  if st.unitKind = 1 then (x.slotBuf (GatherD.of n).buf).1 != 0
  else if st.unitKind = 3 then
    let d := XferD.of n
    let b := d.len c.maxItems
    let (len, rd, wr) := x.slotBuf d.buf
    b == 0 || (decide (d.bufOff + b ≤ len) && if d.toBuf then wr else rd)
  else true

/-- Check 8. -/
def State.transfersOk (s : State) (x : Sub) : Bool :=
  match (s.part x.part).image with
  | none => true
  | some im => !isQuery x.kind || im.classes.all fun c => c.kind != x.kind || c.stepIdx.all (im.stepFits c x)

/-- A C-die of the partition is being reset (R485). -/
def State.cdieResetting (s : State) (p : Nat) : Bool :=
  (List.range 256).any fun k => s.flag .sysCoreOwn k 6 && s.fld .sysCoreOwn k 5 0 == p && (s.cdie (k / 8)).reset.isSome

/-- The partition's state admits the kind (R457, R485). -/
def State.stateOk (s : State) (x : Sub) : Bool :=
  let p := s.part x.part
  let img := p.image.isSome
  let stopPending := match p.pending with | some q => q.image.isNone | none => false
  match x.kind with
  | 0x81 => p.st == .idle || p.st == .serving
  | 0x85 => p.st == .serving && img && !stopPending
  | 0x86 => p.st == .held
  | 0x87 => (p.st == .serving || p.st == .holding || p.st == .held) && !s.cdieResetting x.part
  | 0x88 => p.st == .serving && img
  | 0x89 => p.st == .serving
  | _ => true

/-- Core and array that a REPAIR names (R457). -/
def Sub.repairCore (x : Sub) : Nat := 8 * bits x.args 4 0 + bits x.args 7 5
def Sub.repairArray (x : Sub) : Nat := bits x.args 9 8
def Sub.repairReturn (x : Sub) : Bool := x.args.testBit 10

/-- UNIT of an array (R523). -/
def arrayUnit (core a : Nat) : Nat := 4 * (core % 8) + a

/-- The array is in the state that a REPAIR needs (R466). -/
def State.repairOk (s : State) (x : Sub) : Bool :=
  let k := x.repairCore
  let a := s.array (4 * k + x.repairArray)
  s.flag .sysCoreOwn k 6 && s.fld .sysCoreOwn k 5 0 == x.part &&
    (if x.repairReturn then a.withdrawn && a.confirm == 0 && !s.permanent (k / 8) (arrayUnit k x.repairArray)
     else !a.withdrawn && !a.toWithdraw)

/-- The validation of R391 and the refusals of R457 and R466 by state, all of class 0x06: the code, or 0. -/
def State.validate (s : State) (x : Sub) : Nat :=
  if x.kind = 0 ∨ x.kind > 0x89 ∨ (isControl x.kind ∧ !s.flag .hqRingCfg x.ring 18) then 0x0601
  else if !x.reservedOk then 0x0603
  else if !x.onesOk then 0x0604
  else if !x.countsOk then 0x0605
  else if !x.bufs.all (·.ok) then 0x0606
  else if !s.buffersOk x then 0x0607
  else if !x.argsOk s.time.now then 0x0608
  else if !s.transfersOk x then 0x0609
  else if !s.stateOk x then 0x06A1
  else if x.kind = 0x89 ∧ !s.repairOk x then 0x06A2
  else 0

/-! ## Slots (R67 to R69, R79, R80, R112, R482) -/

/-- A context named guilty (R489). -/
def State.guilty (s : State) (ctx : Nat) : Bool := s.flag .sysGuilty (ctx / 32) (ctx % 32)

/-- Bytes that a class's host transfers toward the host write for a submission in a group (R390, R393). -/
def Image.outBytes (im : Image) (c : ImgClass) (g items : Nat) : Nat :=
  (c.stepIdx.map fun i =>
    let st := im.step i
    let d := XferD.of (im.desc st.first)
    if st.unitKind = 3 && st.group == g && d.toBuf then ceilDiv (d.len items) 16 * 16 else 0).foldl (· + ·) 0

/-- A query fits a class, in an instance of group `g` (R390). -/
def Image.fits (im : Image) (c : ImgClass) (g : Nat) (x : Sub) : Bool :=
  c.kind == x.kind && decide (x.nIdx ≤ c.maxIndices) && decide (x.items ≤ c.maxItems) && decide (x.inlineBytes ≤ c.maxInline) &&
    decide (im.outBytes c g x.items ≤ c.maxOut)

/-- A submission exceeds a class in every group. -/
def Image.fitsSome (im : Image) (c : ImgClass) (x : Sub) : Bool := (List.range (c.groupsM1 + 1)).any fun g => im.fits c g x

/-- Start points of a class in the window of R67. -/
def ImgClass.startsFrom (c : ImgClass) (now : Nat) : List Nat :=
  let per := 2 ^ c.periodLog
  let first := (now + 20 + per - 1 - c.phase) / per * per + c.phase
  ((List.range (65536 / per + 1)).map fun k => first + k * per).filter fun t => decide (now + 20 ≤ t ∧ t < now + 65536)

/-- Group of a start point (R79). -/
def ImgClass.groupAt (c : ImgClass) (start : Nat) : Nat := start / 2 ^ c.periodLog % (c.groupsM1 + 1)

/-- A start point that the reset of a C-die takes (R482). -/
def State.resetTakes (s : State) (im : Image) (c : ImgClass) (start : Nat) : Bool :=
  c.stepIdx.any fun i =>
    let st := im.step i
    st.unitKind == 0 &&
      (let d := s.cdie (im.stepDie st)
       d.reset.isSome || (match d.rejoin with | some r => decide (start + st.start < r) | none => false))

/-- A slot of a queue that begins at a tick is held (R69, R74). -/
def State.slotTaken (s : State) (q start : Nat) : Bool := s.slots.any fun x => x.q == q && x.start == start

/-- Reserved length of a class for a submission (R67, R386). -/
def ImgClass.need (c : ImgClass) (xpath : Bool) : Nat := c.length + if xpath && !c.flushIncl then 200 else 0

/-- The images in which a partition's warden looks for slots: the running one, unless admission into it has stopped (R109), and a
pending one that serves; with each the ticks from which slots start and by which they end (R112). -/
def State.slotImages (s : State) (p : Nat) : List (Image × Nat × Option Nat) :=
  let x := s.part p
  let sad := x.pending.map (·.saddle)
  (if x.noAdmit then [] else x.image.toList.map fun im => (im, 0, sad)) ++
    (match x.pending with
     | some q => (match q.image with | some im => if s.imageServes im then [(im, q.saddle, none)] else [] | none => [])
     | none => [])

/-- Earliest free start point of one class in an image (R67). -/
def State.classStart (s : State) (p : Nat) (x : Sub) (im : Image) (lo : Nat) (hi : Option Nat) (ci : Nat) : Option Nat :=
  let c := im.cls ci
  (c.startsFrom s.time.now).find? fun t =>
    decide (lo ≤ t ∧ (s.part p).fromTick ≤ t) && (match hi with | some h => decide (t + c.need x.xpath ≤ h) | none => true) &&
      im.fits c (c.groupAt t) x && !s.slotTaken (256 * p + ci) t && !s.resetTakes im c t

/-- A slot found: its queue, class, start and reserved end. -/
structure Found where
  q : Nat
  cls : Nat
  start : Nat
  end_ : Nat
  deriving DecidableEq, Repr

/-- The found slot that starts first; of two, the one first in the list. -/
def earliestFound : List Found → Option Found
  | [] => none
  | f :: t =>
    match earliestFound t with
    | some g => if g.start < f.start then some g else some f
    | none => some f

/-- The slot of a query (R67 to R69). -/
def State.querySlot (s : State) (x : Sub) : Option Found :=
  earliestFound ((s.slotImages x.part).flatMap fun (im, lo, hi) =>
    (List.range im.classes.length).filterMap fun ci =>
      (s.classStart x.part x im lo hi ci).map fun t => { q := 256 * x.part + ci, cls := ci, start := t, end_ := t + (im.cls ci).need x.xpath })

/-- The slot of a queue that carries one submission at a time (R362, R386, R457). -/
def State.queueSlot (s : State) (q len : Nat) : Option Found :=
  let t := maxOf ((s.time.now + 20) :: (s.slots.filter (·.q == q)).map (·.resEnd))
  if t < s.time.now + 65536 then some { q := q, cls := 0, start := t, end_ := t + len } else none

/-- Queue numbers: load and map queues of an H-die, the control queue's share of a partition, and a partition's updates. -/
def loadQueue (h : Nat) : Nat := 2 ^ 20 + h
def mapQueue (h : Nat) : Nat := 2 ^ 20 + 16 + h
def partQueue (p : Nat) : Nat := 2 ^ 20 + 32 + p
def updQueue (p : Nat) : Nat := 256 * p + 128

/-! ## Updates (R250, R257) -/

/-- The image that a partition runs at a saddle. -/
def State.imageAt (s : State) (p saddle : Nat) : Option Image :=
  match (s.part p).pending with
  | some q => if q.saddle ≤ saddle then q.image else (s.part p).image
  | none => (s.part p).image

/-- Reserved bytes per tick from the host through the admitting H-die (R250, R257). -/
def Image.ingestRate (im : Image) (h : Nat) : Nat := rsvSum im.rsvs 9 (some (4 + h))

def State.quotaUsed (s : State) (p saddle : Nat) : Nat :=
  ((s.upd.quota.filter fun x => x.1 == p && x.2.1 == saddle).map (·.2.2)).foldl (· + ·) 0

/-- Ticks from the saddle to the end of an update's place: `list` is what the warden has read of the batch (R257). -/
def Image.updTail (im : Image) (list : List Gran) : Nat :=
  im.saddleUpd + if list.isEmpty || (Batch.of list im).remote im then 2100 else 100

/-- An update fits a saddle (R257, R112); the deadline is compared afterwards as R67 gives. -/
def State.saddleFits (s : State) (x : Sub) (saddle : Nat) : Bool :=
  match s.imageAt x.part saddle with
  | none => false
  | some im =>
    let h := im.ingestRate (s.admitH x.part)
    let b := x.buf0.len
    im.upd && (b == 0 || h != 0) && decide (s.time.now + 2304 + ceilDiv b h + 256 ≤ saddle) &&
      decide (s.quotaUsed x.part saddle + x.lines ≤ s.fld .gthUpdQuota x.part 26 0)

/-- The place of an update: the named saddle, or the earliest within the limit of R67 (R257). -/
def State.updSlot (s : State) (x : Sub) (list : List Gran) : Option Found :=
  let first := saddleAtOrAfter (s.time.now + 20)
  let cands := if x.applyAt = 0 then (List.range 17).map fun k => first + 4096 * k else [x.applyAt]
  let fits := fun t => decide (s.time.now + 20 ≤ t ∧ t < s.time.now + 65536) && s.saddleFits x t &&
    (match s.imageAt x.part t with
     | some im =>
       let e := t + im.updTail list + if x.xpath then 200 else 0
       (match (s.part x.part).pending with | some q => decide (q.saddle ≤ t ∨ e ≤ q.saddle) | none => true) && decide (e ≤ x.deadline)
     | none => false)
  match cands.find? fits with
  | none => none
  | some t =>
    let im := s.imageAt x.part t
    some { q := updQueue x.part, cls := 0, start := t, end_ := t + (im.elim 0 (·.updTail list)) + if x.xpath then 200 else 0 }

/-! ## Map lists (R362) -/

/-- Reserved length of a map list as the warden reads it (R362). -/
def mapLen (l : List Gran) (len : Nat) : Nat :=
  let l := l.take (len / 16)
  match l with
  | [] => 64
  | h :: ops =>
    let n := bits h.data.toNat 63 32
    if h.poison ∨ n = 0 ∨ n > 4096 then 64
    else ((List.range n).map fun i =>
      match ops[i]? with
      | none => 64
      | some g =>
        if g.poison then 64
        else if g.data.toNat.testBit 51 then 10200
        else 64 + ceilDiv (bits g.data.toNat 120 105 + 1) 16).foldl (· + ·) 0

/-! ## The decision (R67) -/

/-- Time states in which nothing is admitted (R48, R67). -/
def TimeState.shut (t : TimeState) : Bool := t == .acquiring || t == .lost || t == .stepping

/-- The compute domain of the device resets or is out of service (R479, R491). -/
def State.deviceStopped (s : State) : Bool := s.err.devOut || s.err.devReset.isSome

/-- The partition serves the kind (R67, R81, R109, R451, R457). Without an image, or once it has stopped admitting, it still takes what a new
image needs, LOAD and MAP, and the partition control kinds, whose own table says where they are allowed (log 130). -/
def State.serves (s : State) (x : Sub) : Bool :=
  let p := s.part x.part
  if s.deviceStopped then false
  else if 0x85 ≤ x.kind ∧ x.kind ≤ 0x89 then p.st == .serving || p.st == .holding || p.st == .held
  else if x.kind ≤ 0x80 then p.st == .serving && p.image.isSome && !(s.slotImages x.part).isEmpty
  else if x.kind = 0x83 ∨ x.kind = 0x84 then p.st == .serving && p.image.isSome && !p.noAdmit
  else p.st == .serving

/-- The submission exceeds every slot class of its kind, or no update can be taken: the partition has no ingest G-die, or the image at the
named saddle, or every image where none is named, has UPD clear (R67, R257, R571). -/
def State.exceeds (s : State) (x : Sub) : Bool :=
  if isQuery x.kind then !((s.slotImages x.part).any fun z => z.1.classes.any fun c => z.1.fitsSome c x)
  else if x.kind = 0x80 then !s.flag .gthUpdCtrl x.part 4 ||
    (if x.applyAt = 0 then !((s.slotImages x.part).any fun z => z.1.upd) else (s.imageAt x.part x.applyAt).any (!·.upd))
  else false

/-- Accepted submissions in the admission table of an H-die (R69). -/
def State.tableUse (s : State) (h : Nat) : Nat := (s.subs.filter fun x => x.st == .accepted && s.admitH x.part == h).length

/-- Reserved length of the kinds that a queue carries (R386, R457). -/
def Sub.queueLen (x : Sub) (list : List Gran) : Nat :=
  let more := if x.xpath then 200 else 0
  more + match x.kind with
  | 0x81 => 400 + ceilDiv x.buf0.len 2048
  | 0x82 => mapLen list x.buf0.len
  | 0x85 => 2200
  | 0x86 => 200
  | 0x87 => 10400
  | 0x88 => 400
  | 0x89 => if x.repairReturn then 300000 else 64
  | _ => 20

/-- The slot of a submission (R67, R68, R386). -/
def State.findSlot (s : State) (x : Sub) (list : List Gran) : Option Found :=
  let h := s.admitH x.part
  if isQuery x.kind then s.querySlot x
  else match x.kind with
    | 0x80 => s.updSlot x list
    | 0x81 => s.queueSlot (loadQueue h) (x.queueLen list)
    | 0x82 => s.queueSlot (mapQueue h) (x.queueLen list)
    | 0x83 | 0x84 => some { q := 2 ^ 21, cls := 0, start := s.time.now + 20, end_ := s.time.now + 20 + x.queueLen list }
    | _ => s.queueSlot (partQueue x.part) (x.queueLen list)

/-- The decision of R67 with the checks of R391 and R489 before it: a refusal code, or the slot. After STANDBY every submission is
refused (R545). -/
def State.decide_ (s : State) (x : Sub) (list : List Gran) : Except Nat Found :=
  let v := s.validate x
  if s.standing then .error 0x0705
  else if v ≠ 0 then .error v
  else if s.guilty x.ctx then .error 0x0709
  else if s.time.state.shut then .error 0x0703
  else if !s.serves x then .error 0x0705
  else if x.deadline ≤ s.time.now then .error 0x0702
  else if x.deadline - s.time.now ≥ 2 ^ 32 then .error 0x0708
  else if s.exceeds x then .error 0x0704
  else if s.tableUse (s.admitH x.part) ≥ 8192 then .error 0x0707
  else
    match s.findSlot x list with
    | none => .error 0x0701
    | some f => if f.end_ > x.deadline then .error 0x0701 else .ok f

/-- Records an acceptance: the slot is held to its reserved end, an update takes its serial and charges its quota, and its
ingest G-die begins to read the batch (R69, R249, R250, R257). -/
def State.accept (s : State) (x : Sub) (f : Found) : State :=
  let y := { x with st := .accepted, decided := s.time.now, cls := f.cls, start := f.start, resEnd := f.end_ }
  let keep := s.slots.filter fun q => decide (s.time.now < q.resEnd)
  let s := s.setSlots ({ q := f.q, start := f.start, resEnd := f.end_, ring := x.ring, seq := x.seq } :: keep)
  if x.kind = 0x80 then
    let n := s.upd.serial
    let s := s.setUpd { s.upd with serial := (n + 1) % 2 ^ 32, quota := (x.part, f.start, x.lines) :: s.upd.quota }
    let s := s.setSub { y with serial := n, detail := n, info := f.start }
    let h := s.admitH x.part
    if x.buf0.dev || (s.port h).fenced then s
    else
      let rd : HostRead := { id := s.nextId, port := h, purpose := .batch x.ring x.seq, part := x.part, ctx := x.ctx, addr := x.buf0.addr, len := x.buf0.len, issued := s.time.now }
      ((s.setReads (rd :: s.reads)).setNextId (s.nextId + 1)).emit (.hostRead h rd.id rd.addr rd.len)
  else s.setSub y

/-- The first submission of a ring that is not decided; those of one ring are decided in ring order (R69). -/
def State.nextOf (s : State) (ring : Nat) : Option Sub := (s.subs.filter fun x => x.ring == ring).find? fun x => x.st == .waiting

/-- A `host:` access of a context checked at its requester, whose record `f` carries (R366): false where it fails, with 0x0420
charged. -/
def State.hostCheck (s : State) (ring seq ph ctx addr len : Nat) (f : FaultRec) : Bool × State :=
  if s.hostOk ctx addr len then (true, s)
  else (false, s.charge ring seq ph { f with code := 0x0420, dkind := 3, detail := addr })

/-- A host read of a submission's list or batch came with poison: recorded (R367). -/
def State.hostPoison (s : State) (ctx part : Nat) (l : List Gran) : State :=
  if l.any (·.poison) then s.raise (portFault s (s.hport ctx) 0x0421 ctx part) else s

/-- A warden reads the list of a submission in host memory (R362, R366, R367, R378, R408, R409): what the host has delivered is `list`; through a
fenced port, or outside the host window, it is poison. -/
def State.readList (s : State) (x : Sub) (list : List Gran) : List Gran × State :=
  let h := s.hport x.ctx
  let dead := poisonGrans (x.buf0.len / 16)
  match s.hostCheck x.ring x.seq 0 x.ctx x.buf0.addr x.buf0.len (portFault s h 0x0420 x.ctx x.part) with
  | (false, s) => (dead, s)
  | (true, s) =>
    if (s.port h).fenced then (dead, (s.raise (portFault s h 0x0902 x.ctx x.part)).fencedAccess h x.ring x.seq 0 x.ctx x.part)
    else
      let l := list.take (x.buf0.len / 16)
      (l, ((s.emit (.hostRead h s.nextId x.buf0.addr x.buf0.len)).setNextId (s.nextId + 1)).hostPoison x.ctx x.part l)

/-- ADMISSION_DECISION (R65 to R70): a warden of the admitting H-die accepts the ring's next submission into a slot or refuses it.
`list` is what
the warden has read of a map list or an update batch in host memory; one in `dev:` memory it reads as that stands. -/
def execAdmissionDecision (ring : Fin 4096) (seq : Word) (list : List Gran) (s : State) : Outcome State Fault Refusal :=
  match s.nextOf ring.val with
  | none => .next s
  | some x =>
    if x.seq ≠ seq.toNat ∨ !x.here ∨ s.wardenRestarts (s.admitH x.part) then .next s
    else if s.time.now > x.adm + 100 then .next (s.setSub (x.refuse 0x0706 (x.adm + 100)))
    else
      let list := if x.buf0.dev && (x.kind == 0x80 || x.kind == 0x82) then (s.devRead (Who.die_ (dieH (s.admitH x.part))) x.ctx x.buf0.addr (x.buf0.len / 16)).1 else list
      let (list, s) := if !x.buf0.dev && x.kind == 0x82 && s.validate x == 0 then s.readList x list else (list, s)
      if (s.sub? x.ring x.seq).any (·.st == .refused) then .next s
      else
        match s.decide_ x list with
        | .error c => .next (s.setSub (x.refuse c s.time.now))
        | .ok f => .next (s.accept x f)

end Sys2Proof.Machine
end

