-- ==== Sys2Proof/Machine/Flags.lean ====
section
/-! DEFINITION. Event and status bits of the register chapters: which bits record events, how a write clears them, and the
order of a hardware set and a write in one cycle (R7, R575). -/

namespace Sys2Proof.Machine

open Sys2Proof

/-- New value of the W1C bits of a register: a written 1 clears the bit, and a bit that hardware sets in the same cycle
stays set (R575). -/
def w1cNext (old w hwset mask : Word) : Word := ((old &&& ~~~(w &&& mask)) ||| (hwset &&& mask))

/-- A write of a register's W1C bits, with the event bits that hardware sets in the same cycle (R7, R575). -/
def State.writeEvents (s : State) (g : RG) (i : Nat) (w hwset : Word) : State :=
  let old := s.reg g i
  let m := g.row.w1c
  s.setReg g i ((old &&& ~~~m) ||| (w1cNext old w hwset m &&& m))

/-- Tag of an accumulator tile as its fields (R138): CHK_FAIL, REPLAYED, POISON, WRAP, NONFIN and FAIL_KIND. -/
def tagBits (chkFail replayed poison wrap nonfin : Bool) (kind : Nat) : Nat :=
  bnat chkFail + 2 * bnat replayed + 4 * bnat poison + 8 * bnat wrap + 16 * bnat nonfin + 32 * (kind % 8)

def tagPoison (t : Nat) : Bool := t.testBit 2
def tagFail (t : Nat) : Bool := t.testBit 0

/-- Sets flags in a tag without clearing any; FAIL_KIND is replaced when it is given. -/
def tagOr (t : Nat) (chkFail poison wrap nonfin : Bool) (kind : Nat) : Nat :=
  let u := Nat.lor t (tagBits chkFail false poison wrap nonfin 0)
  if kind = 0 then u else u % 32 + 32 * (kind % 8)

/-- FAIL_KIND of a verdict (R138): the checks before the adder, since the field names no combination of the two (log 7). -/
def failKindOf (row col adder : Bool) : Nat := if row && col then 3 else if col then 2 else if row then 1 else if adder then 4 else 0

end Sys2Proof.Machine
end

