-- ==== Sys2Proof/Machine/Slots.lean ====
section
/-! DEFINITION. Slot instances: their start, the placing of an operation in fabric time, the issue, hold and slip of engines, and
the end of steps (R77 to R80, R86 to R89, R115 to R119). -/

namespace Sys2Proof.Machine

open Sys2Proof Host

/-- Fabric cycle of a phase of the present tick (R34). -/
def State.cycle (s : State) (phase : Nat) : Nat := 7 * s.time.now + phase

/-- A reset scope has passed its fence (R479). -/
def fencedBy (r : Option ResetS) : Bool := match r with | some x => x.phase != .decided | none => false

/-- The compute domain of the device runs (R483, R491). -/
def State.domainRuns (s : State) : Bool := !s.err.devOut && !s.standing && !fencedBy s.err.devReset

/-- The partition's engines run work stated at fabric cycle `at_` (R451, R459, R479, R491). -/
def State.partRuns (s : State) (p at_ : Nat) : Bool :=
  let x := s.part p
  s.domainRuns &&
    match x.st with
    | .serving => decide (7 * x.fromTick ≤ at_)
    | .holding => (match x.hold with | some h => decide (at_ < 7 * h.latch) | none => false)
    | .resetting => !fencedBy x.reset && (match x.hold with | some h => decide (at_ < 7 * h.latch) | none => true)
    | .idle | .held => false

/-- The units of a C-die run work of image steps stated at fabric cycle `at_` (R30, R482, R490): until the rejoin saddle they are lulls. -/
def State.cdieRuns (s : State) (c at_ : Nat) : Bool :=
  let d := s.cdie c
  s.cdieOk c && !fencedBy d.reset && (match d.rejoin with | some r => decide (7 * r ≤ at_) | none => true)

/-- An instance that was accepted and has started, whatever became of it, with the image of its partition. -/
def State.started? (s : State) (ring seq : Nat) : Option (Sub × Image) :=
  match s.sub? ring seq with
  | none => none
  | some x => if x.st = .accepted ∧ x.running then (s.part x.part).image.map fun im => (x, im) else none

/-- An instance that runs: accepted, started, with no fault charged. -/
def State.instance? (s : State) (ring seq : Nat) : Option (Sub × Image) := (s.started? ring seq).filter fun p => p.1.code == 0 && !p.1.done

/-- The instances of a partition that run, but for one. -/
def State.neighbours (s : State) (x : Sub) : List (Sub × Image) :=
  s.subs.filterMap fun y => if y.part == x.part && !(y.ring == x.ring && y.seq == x.seq) then s.instance? y.ring y.seq else none

/-- Steps of an instance: those of its class in its group (R79). -/
def Image.stepsOf (im : Image) (x : Sub) : List Nat :=
  let c := im.cls x.cls
  c.stepIdx.filter fun i => (im.step i).group == c.groupAt x.start

/-- A step of a running instance, of a kind of unit. -/
def State.stepAt (s : State) (r : StepRef) (kind : Nat) : Option (Sub × Image × ImgStep) :=
  match s.instance? r.ring.val r.seq.toNat with
  | none => none
  | some (x, im) => if (im.stepsOf x).contains r.step && (im.step r.step).unitKind == kind then some (x, im, im.step r.step) else none

/-- An operation placed in fabric time. -/
structure OpAt where
  x : Sub
  im : Image
  st : ImgStep
  op : ImgOp
  r : OpRef
  core : Nat
  /-- start of the tile and stated cycle, in fabric cycles (R77) -/
  ts : Nat
  stated : Nat
  deriving DecidableEq, Repr

/-- An operation of an instance placed in fabric time, if the reference names one of the opcode. -/
def OpAt.of (x : Sub) (im : Image) (r : OpRef) (opcode : Nat) : Option OpAt :=
  let st := im.step r.step
  let t := im.tile r.tile
  let o := im.op r.op
  if (im.stepsOf x).contains r.step && st.unitKind == 0 && st.tileIdx.contains r.tile && t.opIdx.contains r.op && o.opcode == opcode then
    let ts := 7 * (x.start + st.start) + t.start
    some { x := x, im := im, st := st, op := o, r := r, core := im.coreNo st.unit, ts := ts, stated := ts + o.issue }
  else none

/-- The operation that a reference names, if it has the opcode and belongs to a running instance. -/
def State.opAt (s : State) (r : OpRef) (opcode : Nat) : Option OpAt := (s.instance? r.ring.val r.seq.toNat).bind fun p => OpAt.of p.1 p.2 r opcode

/-- Engine on which an operation runs, an array through R109. -/
def State.engineOf (s : State) (o : OpAt) : Nat := if o.op.engine ≤ 3 then s.runsOnArray o.im o.core o.op.engine else o.op.engine

/-- UNIT of an engine of a core (R523). -/
def engineUnit (core e : Nat) : Nat := if e ≤ 3 then arrayUnit core e else if e = 4 then 0x20 + core % 8 else 0x28 + core % 8

/-- An operation uses the weight-load port of its engine. -/
def ImgOp.loads (o : ImgOp) : Bool := o.opcode == 1

/-- The operation before one on its port, within its step, in the order of stated cycles. -/
def OpAt.prev (o : OpAt) : Option (Nat × Nat) :=
  let key := fun x : Nat × Nat => (o.im.tile x.1).start + (o.im.op x.2).issue
  let l := sortBy key ((o.im.stepOps o.st).filter fun x => (o.im.op x.2).engine == o.op.engine && (o.im.op x.2).loads == o.op.loads)
  (l.takeWhile fun x => x != (o.r.tile, o.r.op)).getLast?

/-- Operations of a port issue in order, each once (R77). -/
def State.inOrder (s : State) (o : OpAt) (e : Nat) : Bool :=
  let g := s.eng o.core e
  let last := (if o.op.loads then g.lastA else g.lastB).filter fun q => q.ring == o.r.ring && q.seq == o.r.seq && q.step == o.r.step &&
    (o.im.op q.op).engine == o.op.engine
  last.map (fun q => (q.tile, q.op)) == o.prev

/-- Cycle at which an engine considers an operation: its stated cycle, or that at which the engine left an operation that it held, if that is
later; one that it holds, in every cycle after (R77, R115, R116). -/
def EngS.turn (g : EngS) (o : OpAt) : Nat := if g.held = some o.r then g.tried + 1 else max o.stated g.since

/-- The operation may be considered at a cycle: in its turn and at no other cycle (R77, R116), by an engine that runs, in order, with no
other operation held on the engine (R115). -/
def State.mayConsider (s : State) (o : OpAt) (cyc : Nat) : Bool :=
  let e := s.engineOf o
  let g := s.eng o.core e
  cyc == g.turn o && s.partRuns o.x.part o.ts && s.cdieRuns (o.core / 8) o.stated && !(s.core o.core).outOfService && s.inOrder o e &&
    (g.held == none || g.held == some o.r)

/-- Holds an operation whose input is not ready, or whose port is busy, and writes its late operand down once (R115). -/
def State.holdOp (s : State) (o : OpAt) (cyc source : Nat) : State :=
  let e := s.engineOf o
  let g := s.eng o.core e
  let before := g.held = some o.r && g.late
  let s := s.setEng o.core e { g with held := some o.r, stated := o.stated, tried := cyc, late := before || source != 0 }
  if before || source = 0 then s else s.note (.late o.core e o.im.id o.r.step o.r.tile source)

/-- Issues an operation: the engine's slip becomes the cycles since its stated cycle, and its port is busy to `free`; after one that was
held the engine goes on from this cycle (R116). -/
def State.issue (s : State) (o : OpAt) (cyc free : Nat) : State :=
  let e := s.engineOf o
  let g := s.eng o.core e
  s.setEng o.core e { g with slip := cyc - o.stated, held := none, late := false, since := if g.held = some o.r then cyc else g.since,
                             stated := o.stated, free := if e ≤ 3 then g.free else free,
                             lastA := if o.op.loads then some o.r else g.lastA, lastB := if o.op.loads then g.lastB else some o.r }

/-- The record of a fault that an engine of a core raises. -/
def coreFault (s : State) (o : OpAt) (e code : Nat) : FaultRec :=
  { FaultRec.new s code (some (o.core / 8)) (engineUnit o.core e) with ctx := some o.x.ctx, part := some o.x.part }

/-! ## What is still on its way (R115) -/

/-- Places of output row r: receiving C-dies and offset (R243). -/
def outPlaces (d : GatherD) (e : TableEntry) (r : Nat) : List (Nat × Nat) :=
  if e.dist then
    let b := r / e.stripe
    [(d.cFirst + b % d.cN, e.outOff + (b / d.cN * e.stripe + r % e.stripe) * e.outBytes)]
  else (List.range d.cN).map fun c => (d.cFirst + c, e.outOff + r * e.outBytes)

/-- Output rows of a list entry (R243). -/
def GTab.nRows (t : GTab) (e : TableEntry) : Nat := if e.pool = 0 then t.idx.length else t.bags.length

/-- A gather has written every output row that it writes to a C-die (R244). -/
def GStep.dieDone (g : GStep) (d : GatherD) (tabs : List TableEntry) (c : Nat) : Bool :=
  g.phase == .fetching && !g.missed.contains c && ((tabs.zip g.tabs).zipIdx).all fun p =>
    (List.range (p.1.2.nRows p.1.1)).all fun r => g.written.contains (p.2, r) || !(outPlaces d p.1.1 r).any fun q => q.1 == c

/-- Spans that a step of a G-, F- or H-die writes in die-shared SRAM (R207), without the C-dies `done` of a gather. -/
def Image.stepWritesBut (im : Image) (st : ImgStep) (done : Nat → Bool) : List Acc :=
  let n := im.desc st.first
  match st.unitKind with
  | 1 =>
    let d := GatherD.of n
    (im.tablesOf st.first).flatMap fun e => (((List.range d.cN).map (d.cFirst + ·)).filter (!done ·)).map fun c => { store := 5, unit := c, lo := e.outOff, hi := e.outOff + e.outMax }
  | 2 =>
    let d := SendD.of n
    if d.op = 0 || d.locSp ≠ 2 then [] else [{ store := 5, unit := d.locDie, lo := d.loc, hi := d.loc + max 16 d.bytes }]
  | 3 =>
    let d := XferD.of n
    if d.toBuf || d.locSp ≠ 2 then [] else [{ store := 5, unit := d.locDie, lo := d.loc, hi := d.loc + d.bytes }]
  | _ => []

def Image.stepWrites (im : Image) (st : ImgStep) : List Acc := im.stepWritesBut st fun _ => false

/-- The outputs of a running gather are ready on a C-die (R244). -/
def State.outReady (s : State) (im : Image) (ring seq step c : Nat) : Bool :=
  let first := (im.step step).first
  s.gsteps.any fun g => g.r.ring.val == ring && g.r.seq.toNat == seq && g.r.step == step && g.dieDone (GatherD.of (im.desc first)) (im.tablesOf first) c

/-- On-chip spans that an operation of a core writes where others read them (R207). -/
def Image.opWrites (im : Image) (core : Nat) (o : ImgOp) : List Acc :=
  match o.opcode with
  | 3 => (VecD.of (im.desc o.arg0)).writeAccs core
  | 4 => [{ store := 1 + bits o.arg0 1 0, unit := core, lo := 0, hi := tbBytes }]
  | 5 => (DmaD.of (im.desc o.arg0)).writeAccs core
  | 6 => [{ store := 4, unit := core, lo := 0, hi := 512 * bits o.arg1 7 0 }]
  | _ => []

/-- On-chip spans that an operation of a core reads, accumulators and banks apart (R207). -/
def Image.opReads (im : Image) (core : Nat) (o : ImgOp) : List Acc :=
  let n := im.desc o.arg0
  match o.opcode with
  | 1 => (OperandD.of n).reads core 0
  | 2 => (OperandD.of n).reads core o.rows
  | 3 => (VecD.of n).readAccs core
  | 5 => (DmaD.of n).readAccs core
  | _ => []

/-- Source number of an input that an operation produces (R115): an operation of the vector engine counts as order. -/
def Image.opSource (im : Image) (o : ImgOp) : Nat :=
  match o.opcode with
  | 4 => 4
  | 5 => if (DmaD.of (im.desc o.arg0)).expand then 2 else 1
  | _ => 6

/-- Fabric cycle at which an operation of a step of an instance is stated. -/
def Image.statedAt (im : Image) (x : Sub) (st : ImgStep) (t o : Nat) : Nat := 7 * (x.start + st.start) + (im.tile t).start + (im.op o).issue

/-- An operation of an instance has issued: its step has ended, or its port has issued it or a later one of the instance. -/
def State.hasIssued (s : State) (x : Sub) (im : Image) (i t o : Nat) : Bool :=
  let st := im.step i
  let k := im.op o
  let core := im.coreNo st.unit
  let g := s.eng core (if k.engine ≤ 3 then s.runsOnArray im core k.engine else k.engine)
  x.ended.contains i ||
    match (if k.loads then g.lastA else g.lastB) with
    | none => false
    | some q => q.ring.val == x.ring && q.seq.toNat == x.seq && decide (im.statedAt x st t o ≤ im.statedAt x (im.step q.step) q.tile q.op)

/-- Spans of die-shared SRAM, and what a transfer under way writes, as an input's source: a codebook slot's load counts as order (R281). -/
def xferSource? (x : Xfer) : List (Nat × Acc) :=
  let d := DmaD.of x.desc
  (d.writeAccs x.core).map fun a => (if a.store = 6 then 6 else if d.expand then 2 else 1, a)

/-- Spans that an instance stated before a cycle and has yet to write, with their sources: operations that have not issued, and steps of
other dies that began and have not ended. -/
def State.owedBy (s : State) (x : Sub) (im : Image) (stated : Nat) : List (Nat × Acc) :=
  (im.stepsOf x).flatMap fun i =>
    let st := im.step i
    if st.unitKind = 0 then
      let core := im.coreNo st.unit
      ((im.stepOps st).filter fun p => decide (im.statedAt x st p.1 p.2 < stated) && !s.hasIssued x im i p.1 p.2).flatMap fun p =>
        (im.opWrites core (im.op p.2)).map fun a => (if a.store = 6 then 6 else im.opSource (im.op p.2), a)
    else if x.ended.contains i || decide (stated < 7 * (x.start + st.start)) then []
    else (im.stepWritesBut st (s.outReady im x.ring x.seq i)).map fun a => (if st.unitKind = 1 then 5 else 3, a)

/-- Spans still on their way to an operation, with their sources: what its own instance has yet to write, and, as order, what slip makes
another instance of the partition write late (R115, R207, R281). -/
def State.comingOf (s : State) (o : OpAt) : List (Nat × Acc) :=
  let own := fun x : Xfer => x.r.ring == o.r.ring && x.r.seq == o.r.seq
  (s.xfers.filter own).flatMap xferSource? ++ s.owedBy o.x o.im o.stated ++
    ((s.xfers.filter fun x => x.part == o.x.part && !own x).flatMap xferSource? ++
      (s.neighbours o.x).flatMap fun p => s.owedBy p.1 p.2 o.stated).map fun w => (6, w.2)

/-- What an operation that has issued on a core reads, and writes, on chip. -/
def State.readsOf (s : State) (core : Nat) (q : OpRef) : List Acc :=
  match s.started? q.ring.val q.seq.toNat with | some (_, im) => im.opReads core (im.op q.op) | none => []

def State.writesOf (s : State) (core : Nat) (q : OpRef) : List Acc :=
  match s.started? q.ring.val q.seq.toNat with | some (_, im) => im.opWrites core (im.op q.op) | none => []

/-- What the vector engine is still writing (R206, R207, R281). -/
def State.veWriting (s : State) (o : OpAt) (cyc : Nat) : List Acc :=
  let g := s.eng o.core 4
  match g.lastB with
  | some q => if cyc < g.free && q != o.r then s.writesOf o.core q else []
  | none => []

/-- Source of an input among `reads` that has not arrived, if there is one; a tile buffer waits for its copy (R209). -/
def State.missing (s : State) (o : OpAt) (cyc : Nat) (reads : List Acc) : Option Nat :=
  match (s.comingOf o).find? fun w => reads.any (·.meets w.2) with
  | some w => some w.1
  | none =>
    if accsMeet (s.veWriting o cyc) reads then some 6
    else if reads.any fun a => decide (1 ≤ a.store ∧ a.store ≤ 4) && decide (cyc < smGet 0 (s.core o.core).tbReady (a.store - 1)) then some 4 else none

/-- A PASS would push into a full queue: one that with the entries of its span would hold more than eight at its issue (R115, R135). Pushes
of passes in flight are not counted, and one that finds the queue full at its verdict enters it (log 119). -/
def State.queueFull (s : State) (core : Nat) (o : ImgOp) : Bool := o.ftq && decide ((s.array (4 * core + o.engine)).ftq.length + o.span > 8)

/-- An instance has a read of bytes by another engine, stated before a cycle, that has not issued (R207). -/
def State.readsOwed (s : State) (x : Sub) (im : Image) (core engine stated : Nat) (writes : List Acc) : Bool :=
  (im.stepsOf x).any fun i =>
    let st := im.step i
    let c := im.coreNo st.unit
    st.unitKind == 0 && (im.stepOps st).any fun p =>
      let k := im.op p.2
      !(c == core && k.engine == engine) && decide (im.statedAt x st p.1 p.2 < stated) && !s.hasIssued x im i p.1 p.2 && accsMeet writes (im.opReads c k)

/-- A read of bytes by another engine that comes before an operation in the schedule has not been done (R207, R281): its operation, of this
instance or of another of the partition, has not issued, or its port or transfer is still at work. -/
def State.readsHeld (s : State) (o : OpAt) (writes : List Acc) (cyc : Nat) : Bool :=
  s.readsOwed o.x o.im o.core o.op.engine o.stated writes ||
    ((s.neighbours o.x).any fun p => s.readsOwed p.1 p.2 o.core o.op.engine o.stated writes) ||
    ((List.range 4).any fun e =>
      let a := s.array (4 * o.core + e)
      let g := s.eng o.core e
      let busy := fun (q : Option OpRef) (end_ : Nat) => decide (cyc < end_) && q.any fun q => accsMeet writes (s.readsOf o.core q)
      busy g.lastA a.loadRead || busy g.lastB a.rowRead) ||
    (let g := s.eng o.core 4
     o.op.engine ≠ 4 && decide (cyc < g.free) && g.lastB.any fun q => accsMeet writes (s.readsOf o.core q)) ||
    s.xfers.any fun x => x.part == o.x.part && x.r != o.r && accsMeet writes ((DmaD.of x.desc).readAccs x.core)

/-- A PASS that writes a tile has not reached its verdict: it is in flight on the core, or is stated before the operation and has
not issued (R214). -/
def State.tilePending (s : State) (o : OpAt) (tile : Nat) : Bool :=
  ((List.range 4).any fun a => (s.array (4 * o.core + a)).passes.any fun p => decide (p.tile ≤ tile ∧ tile < p.tile + ceilDiv p.rows.length 128)) ||
    (o.im.stepsOf o.x).any fun i =>
      let st := o.im.step i
      st.unitKind == 0 && o.im.coreNo st.unit == o.core && (o.im.stepOps st).any fun p =>
        (o.im.op p.2).holds tile && decide (o.im.statedAt o.x st p.1 p.2 < o.stated) && !s.hasIssued o.x o.im i p.1 p.2

/-- An operation that would write bytes is held for order: an earlier read or write of them by another engine has not been done (R207, R281). -/
def State.orderHeld (s : State) (o : OpAt) (writes : List Acc) (cyc : Nat) : Bool := s.readsHeld o writes cyc || (s.missing o cyc writes).isSome

/-- Source of what an operation finds missing at a cycle: an entry of an empty queue, room in a full one, the verdict of a pass, bytes on their
way, or order (R115, R207, R210, R214). -/
def State.lateSource (s : State) (o : OpAt) (cyc : Nat) : Option Nat :=
  if o.op.opcode = 4 ∧ (s.array (4 * o.core + bits o.op.arg1 1 0)).ftq = [] then some 4
  else if o.op.opcode = 2 ∧ s.queueFull o.core o.op then some 4
  else if o.op.opcode = 6 ∧ s.tilePending o (bits o.op.arg0 5 0) then some 7
  else
    match s.missing o cyc (o.im.opReads o.core o.op) with
    | some src => some src
    | none => if s.orderHeld o (o.im.opWrites o.core o.op) cyc then some 6 else none

/-- An instance that was accepted and had started, with its image, though its failure entry may have been written since. -/
def State.faulted? (s : State) (ring seq : Nat) : Option (Sub × Image) :=
  match s.started? ring seq with
  | some z => some z
  | none =>
    match s.err.gone.find? fun x => x.ring == ring && x.seq == seq with
    | some x => (s.part x.part).image.map fun im => (x, im)
    | none => none

/-- An operation of an instance to which a fault is charged (R119): in a tile that had begun, a late operand is recorded and not charged
again. Otherwise its engine has a lull (that such a tile does nothing more than this is log 125). -/
def State.afterCharge (s : State) (r : OpRef) (opcode phase : Nat) : State :=
  match (s.faulted? r.ring.val r.seq.toNat).bind fun p => OpAt.of p.1 p.2 r opcode with
  | none => s
  | some o =>
    let e := s.engineOf o
    let cyc := s.cycle phase
    if o.x.code = 0 ∨ o.x.chargedAt < o.ts ∨ cyc ≠ max o.stated (s.eng o.core e).since ∨ (s.eng o.core e).held.isSome ∨ !s.partRuns o.x.part o.ts then s
    else
      match s.lateSource o cyc with
      | some src => s.note (.late o.core e o.im.id o.r.step o.r.tile src)
      | none => s

/-! ## Instances and steps -/

/-- Steps whose end the completion entry follows: those with FINAL set, or every step where none has it (R86, log 47). -/
def Image.lastSteps (im : Image) (x : Sub) : List Nat :=
  let l := im.stepsOf x
  let f := l.filter fun i => (im.step i).final
  if f.isEmpty then l else f

/-- The work of an instance ends when its last steps have ended and their spans are over (R86). -/
def State.endInstance (s : State) (ring seq : Nat) : State :=
  match s.instance? ring seq with
  | none => s
  | some (x, im) =>
    if (im.lastSteps x).all fun i => x.ended.contains i && decide (x.start + (im.step i).start + (im.step i).length ≤ s.time.now) then
      s.finish ring seq
    else s

/-- Marks a step of an instance ended. -/
def State.endStep (s : State) (ring seq step : Nat) : State :=
  match s.sub? ring seq with
  | none => s
  | some x => if x.ended.contains step then s else s.setSub { x with ended := step :: x.ended }

/-- SLOT_START (R79, R80): the instance of the class's occupied start point runs its steps; without one the instance is a lull. -/
def execSlotStart (part : Fin 64) (cls : Nat) (s : State) : Outcome State Fault Refusal :=
  match s.subs.find? fun x => x.part == part.val && isQuery x.kind && x.st == .accepted && x.cls == cls && !x.running && x.code == 0 &&
      decide (x.start ≤ s.time.now) && s.partRuns part.val (7 * x.start) with
  | none => .next s
  | some x => .next ((s.setSub { x with running := true }).endInstance x.ring x.seq)

/-- SLIP_LIMIT (R117): a held operation's slip reaches 448 cycles. -/
def execSlipLimit (core : Fin 256) (engine : Fin 6) (phase : Fin 7) (s : State) : Outcome State Fault Refusal :=
  let g := s.eng core.val engine.val
  match g.held with
  | none => .next s
  | some r =>
    if s.cycle phase.val ≥ g.stated + 448 then
      .next (s.charge r.ring.val r.seq.toNat phase.val (FaultRec.new s 0x0520 (some (core.val / 8)) (engineUnit core.val engine.val)))
    else .next s

/-- Slip of an engine at a cycle, if its held or last operation belongs to a step (R116, R118). -/
def EngS.slipIn (g : EngS) (cyc ring seq step : Nat) : Nat :=
  let mine := fun q : OpRef => q.ring.val == ring && q.seq.toNat == seq && q.step == step
  match g.held with
  | some q => if mine q then cyc - g.stated else 0
  | none => if (g.lastA.any mine) || (g.lastB.any mine) then g.slip else 0

/-- A slip that SLACK absorbs is recorded in the engine's history (R118): an array's AREA has no counter for it (R525), and the entry alone
is written down. -/
def State.absorb (s : State) (core e step slip : Nat) : State :=
  if e = 4 then s.bump (core / 8) (engineUnit core e) 0xC8 (2 ^ 32 - 1) 1
  else if e = 5 then s.bump (core / 8) (engineUnit core e) 0xC4 (2 ^ 32 - 1) 1
  else s.note (.absorbed core e step slip)

/-- The engines of a step with the slips that they carry in it at a cycle; an array through R109. -/
def State.slipsOf (s : State) (x : Sub) (im : Image) (st : ImgStep) (step cyc : Nat) : List (Nat × Nat) :=
  let core := im.coreNo st.unit
  ((List.range 6).filter fun e => st.engines.testBit e).map fun e =>
    let e := if e ≤ 3 then s.runsOnArray im core e else e
    (e, (s.eng core e).slipIn cyc x.ring x.seq step)

/-- The slips of a step's engines at the end of its last tile: each is judged as it stood at that end (R118). -/
def State.judgeSlips (s : State) (x : Sub) (im : Image) (st : ImgStep) (step cyc ph : Nat) : State :=
  let core := im.coreNo st.unit
  (s.slipsOf x im st step cyc).foldl (fun s p =>
    if p.2 > st.slack then
      s.charge x.ring x.seq ph { FaultRec.new s 0x0521 (some (core / 8)) (engineUnit core p.1) with dkind := 7, detail := step }
    else if p.2 > 0 then s.absorb core p.1 step p.2
    else s) s

/-- The work of a core step goes on: an operation has not issued, or the slip that an engine carries puts off the last tile's end (R86, R118). -/
def State.stepGoesOn (s : State) (x : Sub) (im : Image) (step cyc : Nat) : Bool :=
  let st := im.step step
  let slips := (s.slipsOf x im st step cyc).map (·.2)
  x.code == 0 && (((im.stepOps st).any fun p => !s.hasIssued x im step p.1 p.2) || decide (cyc < 7 * (x.start + st.start) + im.lastEnd st + slips.foldl max 0))

/-- Start of the last tile of a core step, in cycles from the step's. -/
def Image.lastTile (im : Image) (st : ImgStep) : Nat := if st.nTiles = 0 then 0 else (im.tile (st.first + st.nTiles - 1)).start

/-- STEP_END (R86, R118): at the end of a core step's last tile its slips are judged. A slip beyond SLACK is charged; otherwise the
step ends once its work has. When the last steps have ended, the instance's work is done. The steps of other dies end when their work is done. -/
def execStepEnd (r : StepRef) (phase : Fin 7) (s : State) : Outcome State Fault Refusal :=
  match s.instance? r.ring.val r.seq.toNat with
  | none => .next s
  | some (x, im) =>
    let st := im.step r.step
    let cyc := s.cycle phase.val
    let t0 := 7 * (x.start + st.start)
    if !(im.stepsOf x).contains r.step then .next s
    else if st.unitKind = 0 ∧ !x.ended.contains r.step ∧ t0 + im.lastEnd st ≤ cyc ∧ s.partRuns x.part (t0 + im.lastTile st) then
      if !((s.slipsOf x im st r.step cyc).any fun p => decide (st.slack < p.2)) && s.stepGoesOn x im r.step cyc then .next s
      else .next (((s.judgeSlips x im st r.step cyc phase.val).endStep x.ring x.seq r.step).endInstance x.ring x.seq)
    else .next (s.endInstance x.ring x.seq)

/-- NOP (R89, R95): occupies its engine for its stated cycles; on an array, the row port (log 8). -/
def execNop (r : OpRef) (phase : Fin 7) (s : State) : Outcome State Fault Refusal :=
  match s.opAt r 7 with
  | none => .next (s.afterCharge r 7 phase.val)
  | some o =>
    let cyc := s.cycle phase.val
    if !s.mayConsider o cyc then .next s
    else
      let e := s.engineOf o
      let until_ := cyc + bits o.op.arg1 9 0
      if e ≤ 3 then
        let a := s.array (4 * o.core + e)
        if cyc < a.rowEnd then .next (s.holdOp o cyc 0)
        else .next ((s.issue o cyc until_).setArray (4 * o.core + e) { a with rowEnd := until_ })
      else if cyc < (s.eng o.core e).free then .next (s.holdOp o cyc 0)
      else .next (s.issue o cyc until_)

end Sys2Proof.Machine
end

