-- ==== Sys2Proof/Machine/Matrix.lean ====
section
/-! DEFINITION. What an array computes: the operands as the feeders read them (R129 to R133, R175 to R181), the contribution
of a pass (R131, R132, R134, R166, R167) and its checks (R143 to R145). -/

namespace Sys2Proof.Machine

open Sys2Proof

/-! ## Places in the stores of a core -/

def osAt (core off : Nat) : Nat := core * 2 ^ 25 + off
def tbAt (core tb off : Nat) : Nat := core * 2 ^ 18 + tb * 2 ^ 16 + off
def accAt (core tile row : Nat) : Nat := core * 2 ^ 22 + tile * 2 ^ 16 + 512 * row

/-- Byte address in the tile-buffer or operand store of an on-chip span of a core. -/
def Acc.at_ (a : Acc) : Space × Nat := if a.store = 0 then (.opsram, osAt a.unit a.lo) else (.tile, tbAt a.unit (a.store - 1) a.lo)

/-- A span holds the granule of a flawed codeword. Store 7 counts accumulator rows. -/
def Acc.has (a : Acc) (b : Blemish) : Bool :=
  match b.space with
  | .opsram => a.store == 0 && decide (osAt a.unit a.lo / 16 * 16 ≤ b.addr ∧ b.addr < osAt a.unit a.hi)
  | .tile => decide (1 ≤ a.store ∧ a.store ≤ 4 ∧ tbAt a.unit (a.store - 1) a.lo / 16 * 16 ≤ b.addr ∧ b.addr < tbAt a.unit (a.store - 1) a.hi)
  | .shared => a.store == 5 && decide (shAt a.unit a.lo / 16 * 16 ≤ b.addr ∧ b.addr < shAt a.unit a.hi)
  | .accum => a.store == 7 && decide (accAt a.unit 0 a.lo ≤ b.addr ∧ b.addr < accAt a.unit 0 a.hi)
  | .hbm => false

/-- The flawed codewords among what an operation reads on chip are met (R325). -/
def State.meetSram (s : State) (ctx : Nat) (reads : List Acc) (l : List Blemish) : State :=
  l.foldl (fun s b => if reads.any (·.has b) then s.meet (some ctx) 0 b else s) s

/-- Some granule of a span of operand SRAM or a tile buffer is poisoned. -/
def MemS.accPoison? (m : MemS) (a : Acc) : Bool := m.anyPoison a.at_.1 a.at_.2 (a.hi - a.lo)

/-! ## Operands (R125, R161, R179) -/

/-- Element format of an operand of a pass (R125). -/
def passFmt (fmt role : Nat) : Fmt :=
  match fmt with
  | 0 => .int8
  | 1 => if role = 0 then .int4 else .int8
  | 2 => .e4m3
  | 3 => .e5m2
  | _ => .bf16

/-- Bit pattern of element `k` of a row that begins at an address (R161). -/
def elemAt (c : List Host.Cell) (a : Nat) (f : Fmt) (k : Nat) : Nat :=
  if f = .int4 then bits (readByte c (a + k / 2)).toNat (4 * (k % 2) + 3) (4 * (k % 2)) else readNat c (a + k * (f.bits / 8)) (f.bits / 8)

/-- What a feeder finds at a block (R179 to R181). -/
inductive BlockSt where
  | good (exp : Nat)
  | poison
  | mis (data scale expect exp : Nat)
  deriving DecidableEq, Repr

/-- Block `j` of row `r` of a block-scaled operand of which `n` columns are read. -/
def MemS.blockAt (m : MemS) (d : OperandD) (core n r j : Nat) : BlockSt :=
  let row := osAt core (d.srcOff + d.stride * r)
  let sc := osAt core (d.scaleOff + 2 * (2 * r + j))
  let len := min 64 (n - 64 * j)
  if m.anyPoison .opsram (row + 64 * j) len || m.poisoned .opsram (row + 128) || m.poisoned .opsram sc then .poison
  else
    let data := (readByte m.opsram (row + 128 + j)).toNat
    let exp := (readByte m.opsram sc).toNat
    let scale := (readByte m.opsram (sc + 1)).toNat
    let expect := (d.ord0 + 2 * r + j) % 256
    if data = expect ∧ scale = expect ∧ exp ≠ 0xFF then .good exp else .mis data scale expect exp

/-- Code of a failed comparison (R180). -/
def misCode (role data scale expect : Nat) : Nat := if data = expect ∧ scale = expect then 0x0C03 else if role = 0 then 0x0C01 else 0x0C02

/-- Blocks of `rows` rows in the order in which a feeder meets them. -/
def MemS.blocksOf (m : MemS) (d : OperandD) (core n rows : Nat) : List (Nat × Nat × BlockSt) :=
  if d.blk then (List.range rows).flatMap fun r => (List.range (ceilDiv n 64)).map fun j => (r, j, m.blockAt d core n r j) else []

/-- The first failing comparison: row, block, data, scale and expected ordinal, EXP. Of two blocks of one row the lower one counts, whatever
their codes (DESIGN CHOICE, log 156). -/
def firstMis : List (Nat × Nat × BlockSt) → Option (Nat × Nat × Nat × Nat × Nat × Nat)
  | [] => none
  | (r, j, .mis d s e x) :: _ => some (r, j, d, s, e, x)
  | (_, _, .good _) :: t => firstMis t
  | (_, _, .poison) :: t => firstMis t

/-- EXP of a block, or the scale 1 where it is not used. -/
def BlockSt.exp : BlockSt → Nat
  | .good x => x
  | .poison | .mis .. => 127

/-- Bytes that a feeder reads for one row of an operand (R131, R176 to R179). -/
def OperandD.rowReads (d : OperandD) (core r : Nat) : List Acc :=
  { d with srcOff := d.srcOff + d.stride * r, scaleOff := d.scaleOff + 4 * r, kM1 := 0, corrEn := false }.reads core 1

/-- The first row of `rows` in which a feeder reads a poisoned granule; a correction vector is read with the first row (R140, log 126). -/
def MemS.poisonRow (m : MemS) (d : OperandD) (core rows : Nat) : Option Nat :=
  let os (lo hi : Nat) : Acc := { store := 0, unit := core, lo := lo, hi := hi }
  (List.range rows).find? fun r =>
    (d.rowReads core r).any m.accPoison? || (r == 0 && d.corrEn && m.accPoison? (os d.corrOff (d.corrOff + 4 * (d.nM1 + 1))))

/-- Cycles from an issue to that in which a feeder has row `r`: weights spread over the load, two rows at once in INT4, and activations a
row in `c` cycles (R95, R125; log 126). -/
def loadAt (fmt r : Nat) : Nat := if fmt = 4 then 2 * r else r % 128
def feedAt (fmt r : Nat) : Nat := r * rowCycles fmt

/-- A weight tile as the feeder loads it (R131, R133, R140, R180), and the first failing comparison. -/
def MemS.loadBank (m : MemS) (d : OperandD) (core : Nat) (by_ : OpRef) : Bank × Option (Nat × Nat × Nat × Nat × Nat × Nat) :=
  let k := d.kM1 + 1
  let n := d.nM1 + 1
  let f := passFmt d.fmt 0
  let bl := m.blocksOf d core n k
  let mis := firstMis bl
  ({ loaded := true, fmt := d.fmt, k := k, n := n,
     rows := (List.range k).map fun r => (List.range n).map fun c => elemAt m.opsram (osAt core (d.srcOff + d.stride * r)) f c,
     scales := (bl.map fun b => b.2.2.exp),
     corr := if d.corrEn then (List.range n).map fun c => readNat m.opsram (osAt core (d.corrOff + 4 * c)) 4 else [],
     poison := (d.reads core 0).any m.accPoison?, misaligned := mis.isSome, by_ := some by_ }, mis)

/-- An activation row as the row feeder reads it: poisoned, its element patterns, and EXP of its two blocks. -/
structure ARow where
  poison : Bool
  elems : List Nat
  exps : Nat × Nat
  deriving DecidableEq, Repr

def MemS.actRow (m : MemS) (d : OperandD) (core r : Nat) : ARow :=
  let a := osAt core (d.srcOff + d.stride * r)
  let b0 := m.blockAt d core 128 r 0
  let b1 := m.blockAt d core 128 r 1
  { poison := if d.blk then b0 == .poison || b1 == .poison else m.anyPoison .opsram a d.rowBytes,
    elems := (List.range (weightRows d.fmt)).map (elemAt m.opsram a (passFmt d.fmt 1)),
    exps := if d.blk then (b0.exp, b1.exp) else (127, 127) }

/-- Value of an element under a block scale, exactly (R179). -/
def scaled (f : Fmt) (exp b : Nat) : Fp :=
  match f.value b with
  | .nan => .nan
  | .inf s => .inf s
  | .fin s m e => .fin s m (e + (exp : Int) - 127)

/-- Weight values of a bank as integers, and as floating-point values under their block scales. -/
def Bank.ints (b : Bank) : List (List Int) := b.rows.map fun r => r.map (Fmt.intVal (passFmt b.fmt 0))

def Bank.fps (b : Bank) : List (List Fp) :=
  let per := ceilDiv b.n 64
  (List.range b.rows.length).map fun r =>
    let row := b.rows.getD r []
    (List.range row.length).map fun c => scaled (passFmt b.fmt 0) (b.scales.getD (per * r + c / 64) 127) (row.getD c 0)

def Bank.corrInts (b : Bank) : List Int := if b.corr.isEmpty then List.replicate b.n 0 else b.corr.map (Fmt.intVal .int32)

def ARow.ints (a : ARow) : List Int := a.elems.map (Fmt.intVal .int8)
def ARow.fps (a : ARow) (fmt : Nat) : List Fp :=
  (List.range a.elems.length).map fun k => scaled (passFmt fmt 1) (if k < 64 then a.exps.1 else a.exps.2) (a.elems.getD k 0)

/-! ## Contributions (R131, R132, R166, R167) -/

/-- Fills a row to 128 columns (R131). -/
def padRow (l : List Nat) : List Nat := l ++ List.replicate (128 - l.length) 0

/-- Exact integer sums of a row over the columns loaded. -/
def intRow (x : List Int) (w : List (List Int)) (corr : List Int) : List Int :=
  (x.zip w).foldl (fun acc p => List.zipWith (fun a b => a + p.1 * b) acc p.2) corr

/-- Floating-point sums in increasing k: a sum begins at −0, which changes nothing, and a cell loaded as zero adds +0. -/
def fpRow (x : List Fp) (w : List (List Fp)) (n : Nat) : List Nat :=
  let y := (x.zip w).foldl (fun acc p => List.zipWith (fun a b => fadd32 a (Fmt.pat .fp32 (fpMul p.1 b))) acc p.2) (List.replicate n 0x80000000)
  if w.length < 128 then y.map fun a => fadd32 a 0 else y

/-- The exact value of some sum lies outside the INT32 range (R138). -/
def wraps (z : Int) : Bool := decide (z < -(2 ^ 31 : Int) ∨ (2 ^ 31 : Int) ≤ z)

/-- Contribution of one row, before any fault of a cell. -/
def Bank.rowOut (b : Bank) (a : ARow) : PRow :=
  if isIntFmt b.fmt then
    let z := intRow a.ints b.ints b.corrInts
    { poison := a.poison, wrap := !a.poison && z.any wraps, nonfin := false, vals := padRow (z.map (ofInt 32)) }
  else { poison := a.poison, wrap := false, nonfin := false, vals := padRow (fpRow (a.fps b.fmt) b.fps b.n) }

/-- Bits of a contribution that a cell inverts. -/
def flipVals (r : Nat) (faults : List CellFault) (l : List Nat) : List Nat :=
  faults.foldl (fun l f => if !f.adder ∧ f.row = r then l.set f.col (Nat.xor (l.getD f.col 0) f.flip.toNat) else l) l

/-! ## Checks (R143 to R145) -/

def sumInt (l : List Int) : Int := l.foldl (· + ·) 0

/-- Sum in FP32 in the order of a list. -/
def sum32 (l : List Nat) : Nat := l.foldl fadd32 0

/-- Sum in FP32 of exact values: each is added and rounded once. -/
def sumFp (l : List Fp) : Nat := l.foldl (fun a x => Fmt.pat .fp32 (fpAdd (f32 a) x)) 0

def fpAbs : Fp → Fp
  | .nan => .nan
  | .inf _ => .inf false
  | .fin _ m e => .fin false m e

/-- Rounding to FP32 toward +∞ of a value that is not negative (R145). -/
def f32Up (x : Fp) : Nat :=
  match x with
  | .nan => 0x7FC00000
  | .inf _ => 0x7F800000
  | .fin _ m e =>
    if m = 0 then 0
    else
      let q : Int := max (e + Nat.log2 m - 23) (-149)
      let n := if q ≤ e then m * 2 ^ (e - q).toNat else ceilDiv m (2 ^ (q - e).toNat)
      let p := (q + 149).toNat * 2 ^ 23 + n
      if p ≤ 0x7F7FFFFF then p else 0x7F800000

def sumUp (l : List Fp) : Nat := l.foldl (fun a x => f32Up (fpAdd (f32 a) (fpAbs x))) 0

/-- Σ a × b with the products exact and each addition rounded once. -/
def dotFma (a b : List Fp) : Nat := (a.zip b).foldl (fun acc p => Fmt.pat .fp32 (fpAdd (fpMul p.1 p.2) (f32 acc))) 0

/-- Σ |a| × |b| with each product and each addition rounded toward +∞. -/
def dotUp (a b : List Fp) : Nat := (a.zip b).foldl (fun acc p => f32Up (fpAdd (f32 (f32Up (fpMul (fpAbs p.1) (fpAbs p.2)))) (f32 acc))) 0

/-- Two FP32 values differ by at most A × 2^−TOL, exactly. -/
def within (a b mag tol : Nat) : Bool :=
  let bound : Fp := match f32 mag with
    | .fin s m e => .fin s m (e - tol)
    | .inf s => .inf s
    | .nan => .nan
  !fpLt bound (fpAbs (fpAdd (f32 a) (fpNeg (f32 b))))

/-- Outcome of a check: passed, failed, or exempt because something is not finite. -/
inductive Chk where
  | pass | fail | exempt
  deriving DecidableEq, Repr

def boundedChk (outs : List Nat) (a b mag tol : Nat) : Chk :=
  if outs.all isFin32 && isFin32 a && isFin32 b && isFin32 mag then (if within a b mag tol then .pass else .fail) else .exempt

/-- Row checks, one for each row; a poisoned row passes (R142). The sums over k run over the K rows that R131 loads: that a row of zeros
beyond them, met by an infinite or NaN activation, makes no check value non-finite is a DESIGN CHOICE (log 127; R145 leaves it open). -/
def Bank.rowChecks (b : Bank) (tol : Nat) (acts : List ARow) (outs : List PRow) : List Chk :=
  if isIntFmt b.fmt then
    let w := b.ints.map sumInt
    let c := sumInt b.corrInts
    List.zipWith (fun a o =>
      if o.poison then .pass
      else if (sumInt (o.vals.map Int.ofNat) - (sumInt (List.zipWith (· * ·) a.ints w) + c)) % 2 ^ 32 = 0 then .pass else .fail) acts outs
  else
    let w := b.fps.map fun r => f32 (sumFp r)
    let u := b.fps.map fun r => f32 (sumUp r)
    List.zipWith (fun a o =>
      if o.poison then .pass
      else boundedChk o.vals (sum32 o.vals) (dotFma (a.fps b.fmt) w) (dotUp (a.fps b.fmt) u) tol) acts outs

/-- Column `n` of a list of rows. -/
def column {α : Type} (d : α) (rows : List (List α)) (n : Nat) : List α := rows.map fun r => r.getD n d

/-- Column checks, one for each of the 128 columns, over the unpoisoned rows. -/
def Bank.colChecks (b : Bank) (tol : Nat) (acts : List ARow) (outs : List PRow) : List Chk :=
  let live := (acts.zip outs).filter fun p => !p.2.poison
  let ys := live.map fun p => p.2.vals
  if isIntFmt b.fmt then
    let xs := live.map fun p => p.1.ints
    let s := (List.range b.k).map fun k => sumInt (column 0 xs k)
    (List.range 128).map fun n =>
      let t := sumInt (List.zipWith (· * ·) s (column 0 b.ints n)) + live.length * b.corrInts.getD n 0
      if (sumInt ((column 0 ys n).map Int.ofNat) - t) % 2 ^ 32 = 0 then .pass else .fail
  else
    let xs := live.map fun p => p.1.fps b.fmt
    let zero : Fp := .fin false 0 0
    let s := (List.range b.k).map fun k => f32 (sumFp (column zero xs k))
    let u := (List.range b.k).map fun k => f32 (sumUp (column zero xs k))
    (List.range 128).map fun n =>
      let w := column zero b.fps n
      boundedChk (column 0 ys n) (sum32 (column 0 ys n)) (dotFma s w) (dotUp u w) tol

def firstFail (l : List Chk) : Option Nat := let i := l.findIdx (· == .fail); if i < l.length then some i else none

/-- What a pass leaves for its verdict: its rows, a non-finite column, and the first row and column that fail. -/
structure PassOut where
  rows : List PRow
  nonfinCol : Bool
  failRow : Option Nat
  failCol : Option Nat
  deriving DecidableEq, Repr

/-- A pass over a bank (R126 to R134, R140 to R145). `bad` tells that its weights are poisoned, its bank misaligned or its
activations mismatched: every output row is poisoned, and a pass with poisoned weights is not checked. -/
def Bank.pass (b : Bank) (tol : Nat) (acts : List ARow) (bad : Bool) (faults : List CellFault) : PassOut :=
  let rows := (List.range acts.length).map fun i =>
    let o := b.rowOut (acts.getD i { poison := true, elems := [], exps := (127, 127) })
    { o with poison := o.poison || bad, wrap := o.wrap && !bad, vals := flipVals i faults o.vals }
  if bad then { rows := rows, nonfinCol := false, failRow := none, failCol := none }
  else
    let rc := b.rowChecks tol acts rows
    let cc := b.colChecks tol acts rows
    { rows := List.zipWith (fun o c => { o with nonfin := !o.poison && (c == .exempt || (!isIntFmt b.fmt && o.vals.any fun v => !isFin32 v)) }) rows rc,
      nonfinCol := cc.contains .exempt && rows.any fun o => !o.poison, failRow := firstFail rc, failCol := firstFail cc }

/-- Adders of R137 that differ, within the rows of a pass that adds. -/
def adderFaults (acc : Bool) (rows : Nat) (faults : List CellFault) : List (Nat × Nat) :=
  if acc then (faults.filter fun f => f.adder && f.flip != 0 && decide (f.row < rows ∧ f.col < 128)).map fun f => (f.row, f.col) else []

/-- One value added into an accumulator, modulo 2^32 or in FP32 (R137), and the wrap of R138. -/
def accAdd (fp : Bool) (old new : Nat) : Nat × Bool :=
  if fp then (fadd32 old new, false) else ((old + new) % 2 ^ 32, wraps (sext 32 old + sext 32 new))

/-- A row added into an accumulator row (R134, R138, R141). -/
def PRow.plus (fp : Bool) (old new : PRow) : PRow :=
  let z := List.zipWith (accAdd fp) old.vals new.vals
  let bad := old.poison || new.poison
  let v := z.map (·.1)
  { poison := bad, wrap := !bad && (new.wrap || z.any (·.2)), nonfin := !bad && (new.nonfin || (fp && v.any fun a => !isFin32 a)), vals := v }

end Sys2Proof.Machine
end

