-- ==== Sys2Proof/Machine/Cores.lean ====
section
/-! DEFINITION. The operations of a core's arrays and its finished-tile queues: W_LOAD, PASS, the verdict of a pass, the
replay of a chain (04), FTQ_POP and ACC_READ (06). -/

namespace Sys2Proof.Machine

open Sys2Proof Host

/-! ## Accumulators (R134, R138, R139) -/

/-- Tag of an accumulator tile: POISON alone before a PASS has written it (R139). -/
def MemS.tag (m : MemS) (core tile : Nat) : Nat := smGet 4 m.tags (64 * core + tile)
def MemS.setTag (m : MemS) (core tile t : Nat) : MemS := { m with tags := smSet 4 m.tags (64 * core + tile) t }

/-- An accumulator row as it stands. -/
def MemS.accRow (m : MemS) (core tile row : Nat) : PRow :=
  let a := accAt core tile row
  { poison := m.anyPoison .accum a 512, wrap := false, nonfin := false, vals := (List.range 128).map fun c => readNat m.accum (a + 4 * c) 4 }

/-- Writes an accumulator row; a poisoned row has all 32 of its granules marked (R139). -/
def MemS.putRow (m : MemS) (core tile row : Nat) (r : PRow) : MemS :=
  m.writeGrans .accum (accAt core tile row) (mkGrans (fun _ => r.poison) (r.vals.flatMap (leBytes 4)) 32 0)

/-- Poisons every row of a tile (R147). -/
def MemS.poisonTile (m : MemS) (core tile : Nat) : MemS :=
  (List.range 4096).foldl (fun m g => m.markGran .accum (accAt core tile 0 + 16 * g) true) m

/-- Row `i` of a pass into tile `tile` is this row of the accumulators (R134). -/
def rowPlace (tile i : Nat) : Nat × Nat := (tile + i / 128, i % 128)

/-- Rows of a pass that lie in tile `j` of its span. -/
def rowsIn (l : List PRow) (j : Nat) : List PRow := (l.drop (128 * j)).take 128

/-- Writes the rows of a pass, replacing or adding (R134, R137, R141), and answers them as written. -/
def MemS.putRows (m : MemS) (core tile : Nat) (acc fp : Bool) : Nat → List PRow → MemS × List PRow
  | _, [] => (m, [])
  | i, r :: t =>
    let p := rowPlace tile i
    let w := if acc then PRow.plus fp (m.accRow core p.1 p.2) r else r
    let (m', ws) := (m.putRow core p.1 p.2 w).putRows core tile acc fp (i + 1) t
    (m', w :: ws)

/-! ## W_LOAD and PASS (R95, R126 to R133, R135, R140, R180) -/

/-- Two operations belong to one instance. -/
def sameRun (a : Option OpRef) (b : OpRef) : Bool := match a with | some q => q.ring == b.ring && q.seq == b.seq | none => false

/-- A comparison of block ordinals failed in a cycle: its entry and its charge (R180). -/
def State.ordinalFault (s : State) (o : OpAt) (e cyc role : Nat) (z : Nat × Nat × Nat × Nat × Nat × Nat) : State :=
  let (r, j, d, sc, ex, x) := z
  let s := s.note (.ordinal (4 * o.core + e) o.im.id o.r.step o.r.tile role r j d sc ex x)
  s.chargeAt cyc o.x.ring o.x.seq 0x0C { coreFault s o e (misCode role d sc ex) with dkind := 7, detail := 2 * r + j }

/-- Poison consumed by a feeder in a cycle (R140). -/
def State.feederPoison (s : State) (o : OpAt) (e cyc : Nat) : State := s.chargeAt cyc o.x.ring o.x.seq 0x02 (coreFault s o e 0x0201)

/-- The faults of a feeder, each in the cycle of its row: the first poisoned one, and the first comparison that failed (R140, R180, R181). -/
def State.feederFaults (s : State) (o : OpAt) (e cyc role : Nat) (at_ : Nat → Nat) (poison : Option Nat) (mis : Option (Nat × Nat × Nat × Nat × Nat × Nat)) : State :=
  let s := match poison with | some r => s.feederPoison o e (cyc + at_ r) | none => s
  let s := match mis with | some z => s.ordinalFault o e (cyc + at_ z.1) role z | none => s
  s.duesTo (cyc + 1)

/-- W_LOAD (R95, R131, R325): once the bank in the shadow has been taken by its PASS, the tile is read into the shadow bank. -/
def execWLoad (r : OpRef) (phase : Fin 7) (bad : List Blemish) (s : State) : Outcome State Fault Refusal :=
  match s.opAt r 1 with
  | none => .next (s.afterCharge r 1 phase.val)
  | some o =>
    let cyc := s.cycle phase.val
    if !s.mayConsider o cyc then .next s
    else
      let e := s.engineOf o
      let k := 4 * o.core + e
      let a := s.array k
      let d := OperandD.of (o.im.desc o.op.arg0)
      if cyc < a.loadEnd ∨ (a.fresh ∧ sameRun a.shadow.by_ r) then .next (s.holdOp o cyc 0)
      else
        match s.missing o cyc (d.reads o.core 0) with
        | some src => .next (s.holdOp o cyc src)
        | none =>
          let s := s.meetSram o.x.ctx (d.reads o.core 0) bad
          let (b, mis) := s.mem.loadBank d o.core r
          let t := (s.issue o cyc cyc).setArray k { a with shadow := b, fresh := true, loadEnd := cyc + loadCycles d.fmt, loadRead := cyc + loadCycles d.fmt }
          .next (t.feederFaults o e cyc 0 (loadAt d.fmt) (s.mem.poisonRow d o.core (d.kM1 + 1)) mis)

/-- W_LOADs of the instance stated before a PASS on its array have issued (R95). -/
def State.loadsIssued (s : State) (o : OpAt) : Bool :=
  (o.im.stepOps o.st).all fun p =>
    let q := o.im.op p.2
    !(q.loads && q.engine == o.op.engine && decide (o.im.statedAt o.x o.st p.1 p.2 < o.stated)) || s.hasIssued o.x o.im o.r.step p.1 p.2

/-- A pass that begins in `cyc` on array `e`, whose state is `a` (R126 to R134). Poisoned weights are not checked; two adders that differ fail
the verdict all the same (DESIGN CHOICE, log 120: R142 speaks of the checks, and R137's comparison is not one of them). -/
def State.beginPass (s : State) (o : OpAt) (e : Nat) (a : ArrayS) (d : OperandD) (cyc : Nat) (faults : List CellFault) : State :=
  let k := 4 * o.core + e
  let rows := o.op.rows
  let b := if a.fresh then a.shadow else a.active
  let wrong := !b.loaded || b.fmt != o.op.fmt
  let bank := if wrong then { Bank.empty with fmt := o.op.fmt } else b
  let acts := (List.range rows).map (s.mem.actRow d o.core)
  let mis := firstMis (s.mem.blocksOf d o.core 128 rows)
  let out := bank.pass d.tol acts (wrong || b.poison || b.misaligned || mis.isSome) faults
  let p : PassS :=
    { r := o.r, img := o.im.id, verdict := cyc + passSpan o.op, tile := o.op.accTile, ftq := o.op.ftq, acc := o.op.acc, fp := !isIntFmt o.op.fmt,
      queue := o.op.engine, rows := out.rows, nonfinCol := out.nonfinCol, failRow := out.failRow, failCol := out.failCol,
      adders := adderFaults o.op.acc rows faults }
  let t := (s.issue o cyc cyc).setArray k
    { a with active := b, shadow := if a.fresh then a.active else a.shadow, fresh := false, rowEnd := cyc + rows * rowCycles o.op.fmt, rowRead := cyc + rows * rowCycles o.op.fmt,
             passes := a.passes ++ [p] }
  let at_ := acts.findIdx (·.poison)
  t.feederFaults o e cyc 1 (feedAt o.op.fmt) (if wrong then some 0 else if at_ < rows ∧ !b.misaligned then some at_ else none) mis

/-- PASS (R90, R95, R126 to R134, R325): swaps banks if a W_LOAD has written the shadow bank, streams its rows, and forms its contribution
and its checks. A PASS of no rows occupies the row port for one cycle and does nothing else. -/
def execPass (r : OpRef) (phase : Fin 7) (faults : List CellFault) (bad : List Blemish) (s : State) : Outcome State Fault Refusal :=
  match s.opAt r 2 with
  | none => .next (s.afterCharge r 2 phase.val)
  | some o =>
    let cyc := s.cycle phase.val
    if !s.mayConsider o cyc then .next s
    else
      let k := 4 * o.core + s.engineOf o
      let a := s.array k
      let d := OperandD.of (o.im.desc o.op.arg0)
      if cyc < a.rowEnd then .next (s.holdOp o cyc 0)
      else if o.op.rows = 0 then .next ((s.issue o cyc cyc).setArray k { a with rowEnd := cyc + 1 })
      else if (a.fresh ∧ cyc < a.loadEnd) ∨ !s.loadsIssued o then .next (s.holdOp o cyc 0)
      else if s.queueFull o.core o.op then .next (s.holdOp o cyc 4)
      else
        match s.missing o cyc (d.reads o.core o.op.rows) with
        | some src => .next (s.holdOp o cyc src)
        | none => .next ((s.meetSram o.x.ctx (d.reads o.core o.op.rows) bad).beginPass o (s.engineOf o) a d cyc faults)

/-! ## Replays (R148 to R153) -/

/-- W_LOADs and PASSes of an instance on one array of a core, as (step, tile, operation), in the order in which they issue; a PASS goes
before a W_LOAD of the same cycle (R95). -/
def Image.arrayOps (im : Image) (x : Sub) (core engine : Nat) : List (Nat × Nat × Nat) :=
  let key := fun z : Nat × Nat × Nat => 2 * im.statedAt x (im.step z.1) z.2.1 z.2.2 + (if (im.op z.2.2).loads then 1 else 0)
  let steps := (im.stepsOf x).filter fun i => (im.step i).unitKind == 0 && im.coreNo (im.step i).unit == core
  let all := steps.flatMap fun i => (im.stepOps (im.step i)).map fun p => (i, p)
  sortBy key (all.filter fun z => (im.op z.2.2).engine == engine && ((im.op z.2.2).loads || (im.op z.2.2).isPass))

/-- The passes of the chain into a tile that holds the pass `p`: back to the last one with ACC 0, and on to the next (R148). -/
def Image.tileChain (im : Image) (passes : List (Nat × Nat × Nat)) (tile : Nat) (p : Nat × Nat × Nat) : List (Nat × Nat × Nat) :=
  let on := passes.filter fun z => (im.op z.2.2).holds tile
  let back := ((on.takeWhile (· != p)).reverse.takeWhile fun z => (im.op z.2.2).acc).reverse
  let first := ((on.takeWhile (· != p)).reverse.dropWhile fun z => (im.op z.2.2).acc).head?.toList
  let after := ((on.dropWhile (· != p)).drop 1).takeWhile fun z => (im.op z.2.2).acc
  (if (im.op p.2.2).acc then first ++ back else []) ++ p :: after

/-- Passes of the chain of a pass into one tile of its span, in its step (R148). -/
def Image.passesOf (im : Image) (x : Sub) (r : OpRef) (tile : Nat) : List (Nat × Nat × Nat) :=
  let l := im.arrayOps x (im.coreNo (im.step r.step).unit) (im.op r.op).engine
  im.tileChain (l.filter fun z => z.1 == r.step && (im.op z.2.2).isPass) tile (r.step, r.tile, r.op)

/-- The chains of a pass into some tiles of its span, in the order in which their operations issue: their passes in its step, and the
W_LOADs whose weights those use, of an earlier step as well (R126, R148). -/
def Image.chainOf (im : Image) (x : Sub) (r : OpRef) (tiles : List Nat) : List (Nat × Nat) :=
  let l := im.arrayOps x (im.coreNo (im.step r.step).unit) (im.op r.op).engine
  let ps := tiles.flatMap (im.passesOf x r)
  let loads := ps.flatMap fun p => (((l.takeWhile (· != p)).filter fun z => (im.op z.2.2).loads).getLast?).toList
  (l.filter fun z => ps.contains z || loads.contains z).map (·.2)

/-- Cycles that a chain takes as R95 lays it out: (weight-load port free, row port free, shadow bank free, weights loaded, last verdict). -/
def Image.layout (im : Image) (ops : List (Nat × Nat)) : Nat :=
  (ops.foldl (fun (z : Nat × Nat × Nat × Nat × Nat) x =>
    let (lp, rp, sf, ld, v) := z
    let k := im.op x.2
    if k.loads then
      let t := max lp sf + loadCycles (OperandD.of (im.desc k.arg0)).fmt
      (t, rp, sf, t, v)
    else
      let t := max rp ld
      (lp, t + k.rows * rowCycles k.fmt, t, ld, t + passSpan k)) (0, 0, 0, 0, 0)).2.2.2.2

/-- Whether a core runs under substitution for an image (R109). -/
def State.substituted (s : State) (im : Image) (core : Nat) : Bool := (List.range 4).any fun a => s.runsOnArray im core a != a

/-- A row that a replay has not written. -/
def PRow.unwritten : PRow := { poison := true, wrap := false, nonfin := false, vals := [] }

/-- A row of a replay under a pass that adds or replaces; one that adds into what the chain has not written adds into poison (R147). -/
def PRow.replayed (acc fp : Bool) (old new : PRow) : PRow :=
  if acc then PRow.plus fp (if old.vals = [] then { old with vals := List.replicate 128 0 } else old) new else new

/-- Runs a chain on REPLAY_ARRAY: its bank, the rows of `span` tiles from `tile` on as they come out, whether a verdict failed, and whether a
column's check value was not finite. Faults of cells strike its last PASS (log 48). -/
def Image.runChain (im : Image) (m : MemS) (core tile span : Nat) (r : OpRef) (faults : List CellFault) (ops : List (Nat × Nat)) :
    Bank × List PRow × Bool × Bool :=
  let last := ops.getLast?
  ops.foldl (fun z x =>
    let (b, rows, fail, nf) := z
    let k := im.op x.2
    let d := OperandD.of (im.desc k.arg0)
    if k.loads then ((m.loadBank d core r).1, rows, fail, nf)
    else
      let f := if some x = last then faults else []
      let wrong := !b.loaded || b.fmt != k.fmt
      let bank := if wrong then { Bank.empty with fmt := k.fmt } else b
      let mis := firstMis (m.blocksOf d core 128 k.rows)
      let out := bank.pass d.tol ((List.range k.rows).map (m.actRow d core)) (wrong || b.poison || b.misaligned || mis.isSome) f
      let new := (List.range rows.length).map fun i =>
        let old := rows.getD i PRow.unwritten
        if 128 * tile + i < 128 * k.accTile then old
        else
          match out.rows[128 * tile + i - 128 * k.accTile]? with
          | some o => PRow.replayed k.acc (!isIntFmt k.fmt) old o
          | none => old
      (b, new, fail || out.failRow.isSome || out.failCol.isSome || !(adderFaults k.acc k.rows f).isEmpty, nf || out.nonfinCol))
    (Bank.empty, List.replicate (128 * span) PRow.unwritten, false, false)

/-- First window of a run of `n` free ones from a cycle on (R148, R150). -/
def freeWindow (base now n tiles : Nat) (busy : List (Nat × Nat)) : Option Nat :=
  (List.range tiles).find? fun w => decide (now ≤ base + 512 * w) && decide (w + n ≤ tiles) &&
    busy.all fun b => decide (w + n ≤ b.1) || decide (b.1 + b.2 ≤ w)

/-- Cycle at which a step's replay windows begin (R106). -/
def Image.windowBase (im : Image) (x : Sub) (st : ImgStep) : Nat := 7 * (x.start + st.start) + im.lastEnd st

/-- The instance of a pass, with the image that it ran under. -/
def State.passOwner (s : State) (p : PassS) : Option (Sub × Image) := (s.started? p.r.ring.val p.r.seq.toNat).filter fun z => z.2.id == p.img

/-- Tiles of a failed pass whose chain no replay recomputes yet: a second failed pass of one chain requests none (R148). -/
def State.freshTiles (s : State) (core e : Nat) (x : Sub) (im : Image) (r : OpRef) : List Nat :=
  let mine := (s.core core).replays.filter fun q => q.r.ring == r.ring && q.r.seq == r.seq && q.r.step == r.step && q.target == e
  ((List.range (im.op r.op).span).map ((im.op r.op).accTile + ·)).filter fun t =>
    !mine.any fun q => q.tiles.contains t && (im.passesOf x r t).any fun z => q.ops.contains z.2

/-- Cycle from which a replay may begin: while a partition is held, windows stated at its latch or later are still to come (R459, R463). -/
def State.windowsFrom (s : State) (part cyc : Nat) : Nat := match (s.part part).hold with | some h => min cyc (7 * h.latch) | none => cyc

/-- The record of a failed verdict without a replay (R151). -/
def replayFault (s : State) (core e ctx part : Nat) : FaultRec :=
  { FaultRec.new s 0x0301 (some (core / 8)) (arrayUnit core e) with ctx := some ctx, part := some part }

/-- After a failed verdict a replay of its chains is placed in the first free windows, or 0x0301 is charged, which an instance that has failed
already only has recorded, its entry written or not (R106, R148, R151, R470). -/
def State.requestReplay (s : State) (core e ph : Nat) (p : PassS) : State :=
  match s.passOwner p with
  | none => s.raise (replayFault s core e (s.fld .hqRingCfg p.r.ring.val 30 19) (s.fld .hqRingCfg p.r.ring.val 17 12))
  | some (x, im) =>
    let st := im.step p.r.step
    let tiles := s.freshTiles core e x im p.r
    let ops := im.chainOf x p.r tiles
    let mine := (s.core core).replays.filter fun q => q.r.ring == p.r.ring && q.r.seq == p.r.seq && q.r.step == p.r.step
    let n := ceilDiv (im.layout ops) 512
    let base := im.windowBase x st
    if tiles.isEmpty then s
    else
      match (if st.replayRes && !s.substituted im core then
          freeWindow base (s.windowsFrom x.part (s.cycle ph)) n st.replayTiles (mine.map fun q => (q.window, q.nwin)) else none) with
      | none => s.charge x.ring x.seq ph (replayFault s core e x.ctx x.part)
      | some w =>
        let q : ReplayS := { array := (im.core st.unit).replay, target := e, r := p.r, tile := p.tile, tiles := tiles, queue := p.queue, fp := p.fp, ops := ops,
                             window := w, nwin := n, started := false, verdict := base + 512 * w + im.layout ops, failed := false, rows := [], tags := [] }
        s.setCore core { s.core core with replays := (s.core core).replays ++ [q] }

/-- One step of the LFSR with polynomial x^32 + x^22 + x^2 + x + 1 (R531; log 68). -/
def lfsr32 (x : Nat) : Nat := (2 * x) % 2 ^ 32 + ((bnat (x.testBit 31) + bnat (x.testBit 21) + bnat (x.testBit 1) + bnat (x.testBit 0)) % 2)

/-- Next seed of an array. -/
def State.nextSeed (s : State) (a : Nat) : Nat :=
  let x := (s.array a).seed
  if x = 0 then Config.sweepStart (a / 32) (a % 32) % 2 ^ 32 else lfsr32 x

/-- Writes the seed of a failed pass to the array's history (R525, R529). -/
def State.failSeed (s : State) (a seed : Nat) : State := s.setArea (a / 32) (a % 32) 0xD4 seed

/-- An array whose record is marked replay clean fails a verdict of any kind within 72 hours: it becomes SUSPECT (R153). -/
def State.afterClean (s : State) (core e code : Nat) : State :=
  let u := s.unit (256 * (core / 8) + arrayUnit core e)
  if u.replayClean && (decide (s.time.now < u.cleanTime) || decide (s.time.now - u.cleanTime ≤ hours72)) then s.classUnit (core / 8) (arrayUnit core e) 1 code
  else s

/-- Tags of the tiles of a span after a verdict (R138, R147). -/
def MemS.tagSpan (m : MemS) (core : Nat) (p : PassS) (written : List PRow) (fail : Bool) (kind : Nat) : MemS :=
  (List.range (ceilDiv p.rows.length 128)).foldl (fun m j =>
    let rs := rowsIn written j
    let t := p.tile + j
    let old := if !p.acc && rs.length == 128 then 0 else m.tag core t
    let new := tagOr old fail false (rs.any (·.wrap)) (p.nonfinCol || rs.any (·.nonfin)) kind
    let bad := m.anyPoison .accum (accAt core t 0) 65536
    m.setTag core t (if bad then Nat.lor new 4 else new - new % 8 / 4 * 4)) m

/-- Entries of a queue that name a tile carry its tag (R138, R151). -/
def State.retag (s : State) (core : Nat) (tiles : List Nat) : State :=
  (List.range 4).foldl (fun s q =>
    let a := s.array (4 * core + q)
    s.setArray (4 * core + q) { a with ftq := a.ftq.map fun e => if tiles.contains e.1 then (e.1, s.mem.tag core e.1) else e }) s

/-- The verdict of a pass (R137, R138, R147, R151, R153): its rows are in the accumulators, its tags set, and its queue entries pushed. -/
def State.passVerdict (s : State) (core e ph : Nat) (p : PassS) : State :=
  let k := 4 * core + e
  let a := s.array k
  let s := s.setArray k { a with passes := a.passes.drop 1 }
  let (m, written) := s.mem.putRows core p.tile p.acc p.fp 0 p.rows
  let fail := p.failRow.isSome || p.failCol.isSome || !p.adders.isEmpty
  let span := (List.range (ceilDiv p.rows.length 128)).map (p.tile + ·)
  let m := if fail then span.foldl (fun m t => m.poisonTile core t) m else m
  let s := s.setMem (m.tagSpan core p written fail (failKindOf p.failRow.isSome p.failCol.isSome (!p.adders.isEmpty)))
  let q := 4 * core + p.queue
  let s := if p.ftq then s.setArray q { s.array q with ftq := (s.array q).ftq ++ span.map fun t => (t, s.mem.tag core t) } else s
  if fail then
    let row := leastOf (p.failRow.toList ++ p.adders.map (·.1))
    let col := leastOf (p.failCol.toList ++ p.adders.map (·.2))
    let s := (s.note (.mismatch k p.img p.r.step p.r.tile p.r.op row col)).bump (core / 8) (arrayUnit core e) 0xC8 (2 ^ 32 - 1) 1
    let t := s.requestReplay core e ph p
    t.afterClean core e (if t.err.faults.length = s.err.faults.length then 0 else 0x0301)
  else s

/-- Marks an array's record replay clean, in MRAM too (R153, R526). -/
def State.markClean (s : State) (core e : Nat) : State :=
  let k := 256 * (core / 8) + arrayUnit core e
  (s.setUnit k { s.unit k with replayClean := true, cleanTime := s.time.now }).toMram k

/-- The verdict of a replay (R151 to R153): its rows replace the tile's, or 0x0302 is charged and both arrays record it. Rows that the chain
does not write stay as they stand, poisoned since the failed verdict, while the tag clears POISON (DESIGN CHOICE, log 128). WRAP and NONFIN
that the failed run left stay in the tag: R151 names no mark but POISON, CHK_FAIL and FAIL_KIND as cleared (DESIGN CHOICE, log 155). -/
def State.replayVerdict (s : State) (core ph : Nat) (q : ReplayS) : State :=
  let s := s.setCore core { s.core core with replays := (s.core core).replays.filter (· != q) }
  if q.failed then
    let f (e : Nat) : FaultRec := FaultRec.new s 0x0302 (some (core / 8)) (arrayUnit core e)
    let s := s.bump (core / 8) (arrayUnit core q.array) 0xC8 (2 ^ 32 - 1) 1
    ((s.charge q.r.ring.val q.r.seq.toNat ph (f q.target)).raise (f q.array)).afterClean core q.array 0x0302
  else
    let m := (List.range q.rows.length).foldl (fun m i =>
      let p := rowPlace q.tile i
      let w := q.rows.getD i PRow.unwritten
      if w.vals = [] ∨ !q.tiles.contains p.1 then m else m.putRow core p.1 p.2 w) s.mem
    let m := q.tiles.foldl (fun m t =>
      let rs := (rowsIn q.rows (t - q.tile)).filter fun w => w.vals != []
      let old := m.tag core t
      let keep := Nat.lor (Nat.lor (old % 32 / 8 * 8) (8 * bnat (rs.any (·.wrap)))) (16 * bnat (rs.any (·.nonfin) || q.tags.contains 16))
      m.setTag core t (keep + 2 + 4 * bnat (rs.any (·.poison)))) m
    ((s.setMem m).retag core q.tiles).markClean core q.target

/-- PASS_VERDICT (R147; R325 for the accumulators that the pass adds to): the oldest pass of the array whose verdict cycle has come, or the replay that ran on it. -/
def execPassVerdict (core : Fin 256) (array : Fin 4) (phase : Fin 7) (bad : List Blemish) (s : State) : Outcome State Fault Refusal :=
  let cyc := s.cycle phase.val
  match ((s.array (4 * core.val + array.val)).passes.head?).filter fun p => decide (p.verdict ≤ cyc) with
  | some p =>
    let reads : List Acc := if p.acc then [{ store := 7, unit := core.val, lo := 128 * p.tile, hi := 128 * p.tile + p.rows.length }] else []
    let ctx := (s.sub? p.r.ring.val p.r.seq.toNat).elim 0 (·.ctx)
    .next ((s.meetSram ctx reads bad).passVerdict core.val array.val phase.val p)
  | none =>
    match (s.core core.val).replays.find? fun q => q.started && q.array == array.val && decide (q.verdict ≤ cyc) with
    | some q => .next (s.replayVerdict core.val phase.val q)
    | none => .next s

/-- REPLAY_START (R148, R150, R325): the first replay of the core whose window has begun recomputes its whole chain on REPLAY_ARRAY. A
replay whose submission is gone is dropped. -/
def execReplayStart (core : Fin 256) (phase : Fin 7) (faults : List CellFault) (bad : List Blemish) (s : State) : Outcome State Fault Refusal :=
  let cyc := s.cycle phase.val
  let c := s.core core.val
  match c.replays.find? fun q => !q.started with
  | none => .next s
  | some q =>
    match s.started? q.r.ring.val q.r.seq.toNat with
    | none => .next (s.setCore core.val { c with replays := c.replays.filter (· != q) })
    | some (x, im) =>
      let begin_ := im.windowBase x (im.step q.r.step) + 512 * q.window
      if cyc < begin_ ∨ !s.partRuns x.part begin_ ∨ !s.cdieRuns (core.val / 8) begin_ then .next s
      else
        let s := s.meetSram x.ctx (q.ops.flatMap fun y => im.opReads core.val (im.op y.2)) bad
        let (b, rows, fail, nf) := im.runChain s.mem core.val q.tile (im.op q.r.op).span q.r faults q.ops
        let v := cyc + im.layout q.ops
        let q' : ReplayS := { q with started := true, verdict := v, failed := fail, rows := rows, tags := if nf then [16] else [] }
        let k := 4 * core.val + q.array
        let a := s.array k
        .next ((s.setCore core.val { c with replays := c.replays.map fun y => if y = q then q' else y }).setArray k
          { a with active := b, fresh := false, loadEnd := v, rowEnd := v })

/-! ## Finished-tile queues (R208 to R211) and the direct read (R212 to R214) -/

/-- Copies accumulator rows into a tile buffer with their poison marks (R209, R212). -/
def MemS.toTb (m : MemS) (core tile rows tb : Nat) : MemS :=
  m.writeGrans .tile (tbAt core tb 0) (m.readGrans .accum (accAt core tile 0) (32 * rows))

/-- FTQ_POP (R204, R209, R210, R325): held on an empty queue; the tile is copied over the accumulator read path in 32 cycles. -/
def execFtqPop (r : OpRef) (phase : Fin 7) (bad : List Blemish) (s : State) : Outcome State Fault Refusal :=
  match s.opAt r 4 with
  | none => .next (s.afterCharge r 4 phase.val)
  | some o =>
    let cyc := s.cycle phase.val
    if !s.mayConsider o cyc then .next s
    else
      let tb := bits o.op.arg0 1 0
      let k := 4 * o.core + bits o.op.arg1 1 0
      if cyc < (s.eng o.core 4).free then .next (s.holdOp o cyc 0)
      else if s.orderHeld o (o.im.opWrites o.core o.op) cyc then .next (s.holdOp o cyc 6)
      else
        match (s.array k).ftq with
        | [] => .next (s.holdOp o cyc 4)
        | (tile, tag) :: rest =>
          let s := s.meetSram o.x.ctx [{ store := 7, unit := o.core, lo := 128 * tile, hi := 128 * tile + 128 }] bad
          let t := (s.issue o cyc (cyc + 2)).setArray k { s.array k with ftq := rest }
          let c := t.core o.core
          let end_ := max (cyc + 2) c.readPath + 32
          let t := t.setCore o.core { c with readPath := end_, tbReady := smSet 0 c.tbReady tb end_, tbTag := smSet 0 c.tbTag tb tag }
          let t := t.setMem (t.mem.toTb o.core tile 128 tb)
          .next (if tagPoison tag then t.chargeOnce o.x.ring o.x.seq phase.val 0x21 { coreFault t o 4 0x0211 with tag := tag } else t)

/-- ACC_READ (R212 to R214): held until the verdict of the last PASS that writes the tile, with the source number 7, since R115 names none for
a verdict (DESIGN CHOICE, log 153); rows go to TB3 with their poison marks. The first consumption counts in the cycle of the issue (DESIGN
CHOICE, log 160). -/
def execAccRead (r : OpRef) (phase : Fin 7) (bad : List Blemish) (s : State) : Outcome State Fault Refusal :=
  match s.opAt r 6 with
  | none => .next (s.afterCharge r 6 phase.val)
  | some o =>
    let cyc := s.cycle phase.val
    if !s.mayConsider o cyc then .next s
    else
      let tile := bits o.op.arg0 5 0
      let rows := bits o.op.arg1 7 0
      if cyc < (s.eng o.core 4).free then .next (s.holdOp o cyc 0)
      else if s.tilePending o tile then .next (s.holdOp o cyc 7)
      else if s.orderHeld o (o.im.opWrites o.core o.op) cyc then .next (s.holdOp o cyc 6)
      else
        let end_ := cyc + 8 + ceilDiv rows 4
        let s := s.meetSram o.x.ctx [{ store := 7, unit := o.core, lo := 128 * tile, hi := 128 * tile + rows }] bad
        let t := s.issue o cyc end_
        let c := t.core o.core
        let t := t.setCore o.core { c with readPath := max c.readPath end_, tbReady := smSet 0 c.tbReady 3 end_, tbTag := smSet 0 c.tbTag 3 0 }
        let found := t.mem.anyPoison .accum (accAt o.core tile 0) (512 * rows)
        let t := t.setMem (t.mem.toTb o.core tile rows 3)
        .next (if found then t.chargeOnce o.x.ring o.x.seq phase.val 0x21 (coreFault t o 4 0x0211) else t)

end Sys2Proof.Machine
end

