-- ==== Sys2Proof/Machine/Vector.lean ====
section
/-! DEFINITION. The vector engine: the operations of a vector descriptor with their values, poison and counters (R188 to R204). -/

namespace Sys2Proof.Machine

open Sys2Proof Host

/-! ## Exact functions (R197) -/

/-- Sum of the terms of e^r in fixed point with 256 fraction bits, from term `i`. -/
def expTerms (r : Nat) : Nat → Nat → Nat → Nat
  | 0, _, _ => 0
  | k + 1, i, t => t + expTerms r k (i + 1) (t * r / 2 ^ 256 / (i + 1))

/-- A fixed-point number squared `n` times. -/
def sqTimes : Nat → Nat → Nat
  | 0, v => v
  | k + 1, v => sqTimes k (v * v / 2 ^ 256)

/-- e^x for a finite x below 128 in magnitude, to more than 200 bits, which leaves one rounding to FP32 no doubt: e^x is irrational
unless x is 0. The argument is divided by 2^8, and the series is squared eight times. -/
def expFin (neg : Bool) (m : Nat) (e : Int) : Fp :=
  let r := if e + 248 ≥ 0 then m * 2 ^ (e + 248).toNat else 0
  let v := sqTimes 8 (expTerms r 64 0 (2 ^ 256))
  if neg then .fin false (2 ^ 600 / v) (-344) else .fin false v (-256)

def fpExp (x : Fp) : Fp :=
  match x with
  | .nan => .nan
  | .inf s => if s then .fin false 0 0 else .inf false
  | .fin s m e =>
    if m = 0 then .fin false 1 0
    else if e + Nat.log2 m ≥ 7 then (if s then .fin false 0 0 else .inf false)
    else expFin s m e

/-- 1/√x with at least 80 bits and a sticky bit. -/
def fpRsqrt (x : Fp) : Fp :=
  match x with
  | .nan => .nan
  | .inf s => if s then .nan else .fin false 0 0
  | .fin s m e =>
    if m = 0 then .inf s
    else if s then .nan
    else
      let m' := if e % 2 = 0 then m else 2 * m
      let e' := if e % 2 = 0 then e else e - 1
      let n := 2 ^ 240 / m'
      let q := isqrt n (Nat.log2 n / 2 + 1) 0
      .fin false (2 * q + bnat (q * q * m' ≠ 2 ^ 240)) (-121 - e' / 2)

/-! ## Values in the compute format (R194 to R196) -/

/-- Larger or smaller of two values (R196). -/
def veMax (fp big : Bool) (a b : Nat) : Nat :=
  if fp then
    if isNan32 a || isNan32 b then 0x7FC00000
    else if fpLt (f32 a) (f32 b) then (if big then b else a)
    else if fpLt (f32 b) (f32 a) then (if big then a else b)
    else if a = b then a
    else if big then 0 else 0x80000000
  else if sext 32 a < sext 32 b then (if big then b else a) else (if big then a else b)

def veAdd (fp : Bool) (a b : Nat) : Nat := if fp then fadd32 a b else (a + b) % 2 ^ 32
def veSub (fp : Bool) (a b : Nat) : Nat := if fp then Fmt.pat .fp32 (fpAdd (f32 a) (fpNeg (f32 b))) else (a + 2 ^ 32 - b) % 2 ^ 32
def veMul (fp : Bool) (a b : Nat) : Nat := if fp then fmul32 a b else (a * b) % 2 ^ 32
def veFma (fp : Bool) (a b c : Nat) : Nat := if fp then fma32 a b c else (a * b + c) % 2 ^ 32

/-- The relation of CMP (R188, R196). -/
def veCmp (fp : Bool) (cmp a b : Nat) : Bool :=
  if fp && (isNan32 a || isNan32 b) then cmp == 1
  else
    let lt := if fp then fpLt (f32 a) (f32 b) else decide (sext 32 a < sext 32 b)
    let gt := if fp then fpLt (f32 b) (f32 a) else decide (sext 32 b < sext 32 a)
    match cmp with
    | 0 => !lt && !gt
    | 1 => lt || gt
    | 2 => lt
    | 3 => !gt
    | 4 => gt
    | _ => !lt

/-- Value of an elementwise, exponent, reciprocal or square-root operation on the widened sources (R191). -/
def veFn (op : Nat) (fp : Bool) (hasS1 : Bool) (a b c : Nat) : Nat :=
  match op with
  | 0x01 => veAdd fp a b
  | 0x02 => veSub fp a b
  | 0x03 => veMul fp a b
  | 0x04 => veFma fp a b c
  | 0x05 => veMax fp true a b
  | 0x06 => veMax fp false a b
  | 0x08 => if c ≠ 0 then a else b
  | 0x10 => Fmt.pat .fp32 (fpExp (f32 (if hasS1 then veSub true a b else a)))
  | 0x11 => fdiv32 0x3F800000 a
  | 0x12 => fsqrt32 a
  | 0x13 => Fmt.pat .fp32 (fpRsqrt (f32 a))
  | _ => a

/-! ## Elements -/

/-- An element or result: its bits and its poison (R202). -/
structure VEl where
  v : Nat
  p : Bool
  deriving DecidableEq, Repr

/-- Store and byte address of a nibble of an operand. -/
def VecRec.byteAt (r : VecRec) (core nib : Nat) : Space × Nat :=
  if r.loc = 1 then (.opsram, osAt core (nib / 2)) else (.tile, tbAt core (r.loc - 4) (nib / 2))

/-- The element at a nibble address, as its bit pattern. -/
def MemS.elem (m : MemS) (r : VecRec) (core nib : Nat) : VEl :=
  let (sp, a) := r.byteAt core nib
  let w := fmtBits r.fmt
  { v := if w = 4 then bits (readByte (m.cells sp) a).toNat (4 * (nib % 2) + 3) (4 * (nib % 2)) else readNat (m.cells sp) a (w / 8),
    p := m.poisoned sp a }

/-- Widened to the compute format (R194). -/
def widen (fmt : Nat) (fp : Bool) (b : Nat) : Nat :=
  match Fmt.ofCode fmt with
  | some f => convert f (if fp then .fp32 else .int32) 0 0 b
  | none => 0

/-- Source element (i0, i1, i2), widened where `wide` is set. -/
def MemS.src (m : MemS) (r : VecRec) (core : Nat) (fp wide : Bool) (i0 i1 i2 : Nat) : VEl :=
  if r.present then
    let x := m.elem r core (r.nib i0 i1 i2)
    if wide then { x with v := widen r.fmt fp x.v } else x
  else { v := 0, p := false }

/-- Results of one row of D, from position 0, in the compute format; a source read was poisoned; an index was not valid. -/
structure VRow where
  outs : List VEl
  bad : Bool
  oob : Bool
  deriving DecidableEq, Repr

/-- Inclusive value of a scan (R198). -/
def scanOp (op : Nat) (fp : Bool) (a b : Nat) : Nat :=
  if op = 0x20 ∨ op = 0x28 then veAdd fp a b else if op = 0x2A then veMax fp false a b else veMax fp true a b

/-- Identity of an exclusive scan (R198). -/
def scanId (op : Nat) (fp : Bool) : Nat := if op = 0x20 then 0 else if fp then 0xFF800000 else 0x80000000

/-- Inclusive values of a row, and whether each position begins a segment. -/
def scanRow (op : Nat) (fp : Bool) : Option VEl → List (VEl × Bool) → List VEl
  | _, [] => []
  | prev, (x, seg) :: t =>
    let y : VEl := match prev, seg with
      | some q, false => { v := scanOp op fp q.v x.v, p := q.p || x.p }
      | _, _ => x
    y :: scanRow op fp (some y) t

/-- The last value of each segment of a row (R199). -/
def segEnds : List (VEl × Bool) → List VEl
  | [] => []
  | [x] => [x.1]
  | x :: y :: t => if y.2 then x.1 :: segEnds (y :: t) else segEnds (y :: t)

/-- Row (i1, i2) of a VE_RUN (R191, R196 to R200, R202). -/
def VecD.row (v : VecD) (m : MemS) (core i1 i2 : Nat) : VRow :=
  let fp := v.computesFp
  let s0 (i : Nat) := m.src v.s0 core fp true i i1 i2
  if v.isGather then
    let j := m.src v.s1 core false false 0 i1 i2
    if j.p then { outs := List.replicate v.n0 { v := 0, p := true }, bad := true, oob := false }
    else if sext 32 j.v < 0 ∨ (v.tblRows : Int) ≤ sext 32 j.v then { outs := List.replicate v.n0 { v := 0, p := false }, bad := false, oob := true }
    else
      let l := (List.range v.n0).map fun i => m.elem v.s0 core (2 * (v.s0.off + 16 * v.s0.stride1 * j.v) + i * (fmtBits v.s0.fmt / 4))
      { outs := l, bad := l.any (·.p), oob := false }
  else if v.isScan || v.isRed then
    let flags := (List.range v.n0).map fun i => m.src v.s1 core false false i i1 i2
    let bad := flags.any (·.p)
    let x := (List.range v.n0).map s0
    let segs := (List.range v.n0).map fun i => i == 0 || (v.seg && (flags.getD i { v := 0, p := false }).v != 0)
    let inc := scanRow v.op fp none (x.zip segs)
    let outs :=
      if v.isRed then segEnds (inc.zip segs)
      else if v.excl then
        List.zipWith (fun (q : VEl × VEl) (seg : Bool) => if seg then { v := scanId v.op fp, p := q.2.p } else { v := q.1.v, p := q.2.p })
          (({ v := 0, p := false } :: inc).zip inc) segs
      else inc
    { outs := outs.map fun o => { o with p := o.p || bad }, bad := bad || x.any (·.p), oob := false }
  else
    let l := (List.range v.n0).map fun i =>
      let a := s0 i
      let b := m.src v.s1 core fp true i i1 i2
      let c := m.src v.s2 core fp (v.op != 8) i i1 i2
      let r := if v.op = 7 then bnat (veCmp fp v.cmp a.v b.v) else veFn v.op fp v.s1.present a.v b.v c.v
      ({ v := r, p := a.p || b.p || c.p } : VEl)
    { outs := l, bad := l.any (·.p), oob := false }

/-- A result in D's format (R194), and whether a NaN was converted to an integer (R201). A GATHER copies (R200) also where SHIFT or ZOUT is not
zero, though R194 would convert it under R170 (DESIGN CHOICE, log 158). -/
def VecD.toD (v : VecD) (x : VEl) : Nat × Bool :=
  match Fmt.ofCode v.d.fmt with
  | none => (0, false)
  | some f =>
    if v.op = 7 then (convert .int32 f v.shift (sext 8 v.zout) x.v, false)
    else if v.isGather then (if f.isNan x.v then f.nan else x.v, false)
    else
      let c : Fmt := if v.computesFp then .fp32 else .int32
      (convert c f v.shift (sext 8 v.zout) x.v, !x.p && f.isInt && c.isNan x.v)

/-! ## Writing D (R161, R190, R202, R203) -/

/-- Writes `w` bits at a nibble address. -/
def MemS.putElem (m : MemS) (r : VecRec) (core nib w x : Nat) : MemS :=
  let (sp, a) := r.byteAt core nib
  if w = 4 then
    let b := (readByte (m.cells sp) a).toNat
    let sh := 4 * (nib % 2)
    m.writeRaw sp a [BitVec.ofNat 8 (b - bits b (sh + 3) sh * 2 ^ sh + x % 16 * 2 ^ sh)]
  else m.writeRaw sp a (leBytes (w / 8) x)

/-- Elements of a row of D with their nibble addresses; an odd row of INT4 elements ends with a high nibble of 0 (R161), except that a segmented
reduction writes no element at or beyond the count of its segments (R199). -/
def VecD.cells (v : VecD) (i1 i2 : Nat) (outs : List VEl) : List (Nat × VEl) :=
  let l := (List.range outs.length).map fun k => (v.d.nib k i1 i2, { v := (v.toD (outs.getD k { v := 0, p := false })).1, p := (outs.getD k { v := 0, p := false }).p })
  if v.d.fmt = 0 ∧ outs.length % 2 = 1 ∧ ¬(v.isRed ∧ v.seg ∧ outs.length < v.n0) then l ++ [(v.d.nib outs.length i1 i2, { v := 0, p := false })] else l

/-- Nibbles written and poison put into each granule of D, by granule number within the store. -/
def touched (w : Nat) (l : List (Nat × VEl)) : SMap (Nat × Bool) :=
  l.foldl (fun t x =>
    let g := x.1 / 32
    let o := smGet (0, false) t g
    smPut t g (o.1 + w / 4, o.2 || x.2.p)) []

/-- Marks of the granules of D after its elements are written (R202, R203). -/
def MemS.markD (m : MemS) (r : VecRec) (core : Nat) (t : SMap (Nat × Bool)) : MemS :=
  t.foldl (fun m g =>
    let (sp, a) := r.byteAt core (32 * g.1)
    if g.2.2 then m.markGran sp a true else if g.2.1 ≥ 32 then m.markGran sp a false else m) m

/-- What a VE_RUN does: the stores after it, a poisoned read, and its counts of invalid indices and converted NaNs. -/
def VecD.run (v : VecD) (m : MemS) (core : Nat) : MemS × Bool × Nat × Nat :=
  if v.n = 0 then (m, false, 0, 0)
  else
    let rows := (List.range v.n2).flatMap fun i2 => (List.range v.n1).map fun i1 => (i1, i2, v.row m core i1 i2)
    let cells := rows.flatMap fun r => v.cells r.1 r.2.1 r.2.2.outs
    let w := fmtBits v.d.fmt
    let m' := cells.foldl (fun m c => m.putElem v.d core c.1 w c.2.v) m
    let nan := (rows.flatMap fun r => r.2.2.outs.filter fun x => (v.toD x).2).length
    (m'.markD v.d core (touched w cells), rows.any fun r => r.2.2.bad, (rows.filter fun r => r.2.2.oob).length, nan)

/-- The tag of the first tile buffer among the sources of a VE_RUN, 0 for none: its fault record shows it (R209). -/
def State.tagRead (s : State) (core : Nat) (v : VecD) : Nat :=
  (([v.s0, v.s1, v.s2].filter fun (r : VecRec) => r.present && decide (4 ≤ r.loc)).head?).elim 0 fun r => smGet 0 (s.core core).tbTag (r.loc - 4)

/-- A vector operation that issues in `cyc`: its stores, its counters and the poison that it read, of which the first
counts as consumed in the cycle of the issue (R191, R201 to R206; DESIGN CHOICE, log 160). -/
def State.veIssue (s : State) (o : OpAt) (v : VecD) (ph cyc : Nat) : State :=
  let (m, found, oob, nan) := v.run s.mem o.core
  let c := s.core o.core
  let t := (s.issue o cyc (cyc + v.cost)).setMem m
  let t := if v.n ≠ 0 ∧ v.d.loc ≥ 4 then t.setCore o.core { c with tbTag := smSet 0 c.tbTag (v.d.loc - 4) 0 } else t
  let u := engineUnit o.core 4
  let t := if oob = 0 then t else t.bump (o.core / 8) u 0xC0 (2 ^ 32 - 1) oob
  let t := if nan = 0 then t else t.bump (o.core / 8) u 0xC4 (2 ^ 32 - 1) nan
  if found then t.chargeOnce o.x.ring o.x.seq ph 0x21 { coreFault t o 4 0x0211 with tag := s.tagRead o.core v } else t

/-- VE_RUN (R184, R191, R193, R201, R204, R206, R207, R325). -/
def execVeRun (r : OpRef) (phase : Fin 7) (bad : List Blemish) (s : State) : Outcome State Fault Refusal :=
  match s.opAt r 3 with
  | none => .next (s.afterCharge r 3 phase.val)
  | some o =>
    let cyc := s.cycle phase.val
    if !s.mayConsider o cyc then .next s
    else
      let v := VecD.of (o.im.desc o.op.arg0)
      if cyc < (s.eng o.core 4).free then .next (s.holdOp o cyc 0)
      else if s.orderHeld o (v.writeAccs o.core) cyc then .next (s.holdOp o cyc 6)
      else
        match s.missing o cyc (v.readAccs o.core) with
        | some src => .next (s.holdOp o cyc src)
        | none => .next ((s.meetSram o.x.ctx (v.readAccs o.core) bad).veIssue o v phase.val cyc)

end Sys2Proof.Machine
end

