-- ==== Sys2Proof/Machine/Hosts.lean ====
section
/-! DEFINITION. Host accesses of a context: the window check, reads that wait for the host, and posted writes (R366, R367, R378,
R396, R397, R400, R408, R409, R473). -/

namespace Sys2Proof.Machine

open Sys2Proof

/-- Starts a host read that has passed its check. Through a fenced port it is delivered poisoned at once and recorded (R408);
otherwise it waits for its completion. -/
def State.sendRead (s : State) (purpose : ReadFor) (h ring seq ph part ctx addr len : Nat) : Option (List Gran) × State :=
  if (s.port h).fenced then
    (some (poisonGrans (ceilDiv len 16)), (s.raise (portFault s h 0x0902 ctx part)).fencedAccess h ring seq ph ctx part)
  else
    let rd : HostRead := { id := s.nextId, port := h, purpose := purpose, part := part, ctx := ctx, addr := addr, len := len, issued := s.time.now }
    (none, ((s.setReads (rd :: s.reads)).setNextId (s.nextId + 1)).emit (.hostRead h rd.id addr len))

/-- A `host:` read of a context (R366, R378): the granules where they are delivered at once. -/
def State.hostRead (s : State) (purpose : ReadFor) (ring seq ph part ctx addr len : Nat) (f : FaultRec) : Option (List Gran) × State :=
  match s.hostCheck ring seq ph ctx addr len f with
  | (false, s) => (some (poisonGrans (ceilDiv len 16)), s)
  | (true, s) => s.sendRead purpose (s.hport ctx) ring seq ph part ctx addr len

/-- Granules before the first poisoned one. -/
def cleanPrefix (l : List Gran) : List Gran := l.takeWhile fun g => !g.poison

/-- Marks that a submission has posted writes on a port (R401). -/
def State.usesPort (s : State) (ring seq h : Nat) : State :=
  match s.sub? ring seq with
  | some x => if x.wports.contains h then s else s.setSub { x with wports := x.wports ++ [h] }
  | none => s

/-- Posts granules to host memory on a context's port up to the first poisoned one, which is charged 0x0220 (R400, R408, R473);
`cut` is the number of bytes to post. -/
def State.hostPost (s : State) (ring seq ph part ctx addr cut : Nat) (l : List Gran) (f : FaultRec) : State :=
  let h := s.hport ctx
  let good := cleanPrefix l
  let bytes := (gransBytes good).take cut
  let s := if (s.port h).fenced then s.fencedAccess h ring seq ph ctx part
    else if s.portUp h ∧ !bytes.isEmpty then (s.emitHost h (addr + bytes.length - 1) (.hostData h addr bytes)).usesPort ring seq h else s
  if good.length < l.length then s.charge ring seq ph { f with code := 0x0220, dkind := 3, detail := addr + 16 * good.length } else s

end Sys2Proof.Machine
end

