-- ==== Sys2Proof/Machine/Dma.lean ====
section
/-! DEFINITION. The DMA engine and its expander: plain, converting and transposing transfers, codebooks and compressed streams
(09; R98, R333, R357, R363, R396). -/

namespace Sys2Proof.Machine

open Sys2Proof Host

/-! ## Conversion and transposition (R169, R279, R333, R334) -/

/-- Element `i` of `w` bits in a list of granules, with its poison. -/
def gransElem (l : List Gran) (w i : Nat) : VEl :=
  let b := i * w / 8
  match gransNat l b (max 1 (w / 8)), gransByte l b with
  | some x, some (_, p) => { v := if w = 4 then bits x (4 * (i % 2) + 3) (4 * (i % 2)) else x, p := p }
  | _, _ => { v := 0, p := true }

/-- Source element of destination element `j`: the same, or its place before transposition with `r` source rows (R333). -/
def turnElem (transpose : Bool) (r j : Nat) : Nat := if transpose then j % r * 128 + j / r else j

/-- The destination granules of a converting transfer from its source granules. A pair of formats that R169 has no row for is converted as
the others are: rounded once, saturated, NaNs made canonical (DESIGN CHOICE, log 157). -/
def DmaD.convert (d : DmaD) (l : List Gran) : List Gran :=
  match Fmt.ofCode d.srcFmt, Fmt.ofCode d.dstFmt with
  | some f, some g =>
    let per := 128 / g.bits
    let rows := d.bytes / (16 * g.bits)
    (List.range (d.bytes / 16)).map fun k =>
      let es := (List.range per).map fun e =>
        let x := gransElem l f.bits (turnElem d.transpose rows (k * per + e))
        (Machine.convert f g 0 0 x.v, x.p)
      { data := BitVec.ofNat 128 (pack ((List.range per).map fun e => (e * g.bits, g.bits, (es.getD e (0, false)).1))), poison := es.any (·.2) }
  | _, _ => poisonGrans (d.bytes / 16)

/-! ## Block index (R282 to R286) -/

/-- The entry's own conditions (R282 to R285). -/
def BlockIdx.ok (b : BlockIdx) (num : Nat) : Bool :=
  b.kind != 3 && !b.rsvd && b.ord == num % 256 && decide (b.stored ≤ 1024) && (b.last || decide (32 ≤ b.exp)) &&
    (match b.kind with
     | 0 => decide (2 ≤ b.stored ∧ b.stored ≤ b.exp) && b.cbTag != 0
     | 1 => b.stored == b.exp && b.cbTag == 0
     | _ => b.stored == 0 && b.cbTag == 0)

def sumNat (l : List Nat) : Nat := l.foldl (· + ·) 0

/-- First index of a list for which a condition fails. -/
def badAt (n : Nat) (ok : Nat → Bool) : Option Nat := (List.range n).find? fun i => !ok i

/-- The conditions of R285 in their order: the place in the transfer of the block that DETAIL names (R286), or none where all hold. -/
def blocksBad (l : List BlockIdx) (first bytes : Nat) : Option Nat :=
  let at_ (i : Nat) : BlockIdx := l.getD i (BlockIdx.of 0)
  let n := l.length
  let live := (List.range n).filter fun i => (at_ i).stored != 0
  let base := match live.head? with | some i => (at_ i).off | none => 0
  let before (i : Nat) : Option Nat := (live.takeWhile (· != i)).getLast?
  let lastOf (i : Nat) : Nat := (at_ i).off + (at_ i).stored
  firstOf
    [badAt n fun i => (at_ i).ok (first + i),
     badAt n fun i => !(at_ i).last || i + 1 == n,
     if 16 * sumNat (l.map (·.exp)) = bytes then none else some (n - 1),
     (live.find? fun i => match before i with
       | none => (at_ i).off % 16 != 0
       | some j => decide ((at_ i).off < lastOf j)),
     (match live.getLast? with
      | some i => if ceilDiv (lastOf i - base) 16 ≤ ceilDiv bytes 256 then none else some (n - 1)
      | none => none),
     live.find? fun i => decide (sumNat ((l.take (i + 1)).map (·.exp)) < lastOf i - base)]

/-- Index entries of an expanding transfer, and whether one is poisoned. -/
def State.indexOf (s : State) (d : DmaD) (core part : Nat) : List (BitVec 128) × Bool :=
  let g := if d.idxSp = 1 then (s.sharedRead (core / 8) part d.idxOff d.nBlk).1 else s.mem.readGrans .opsram (osAt core d.idxOff) d.nBlk
  (g.map (·.data), g.any (·.poison))

def blockIdx (l : List (BitVec 128)) : List BlockIdx := l.map fun w => BlockIdx.of w.toNat

/-! ## Coded blocks (R288 to R291) -/

/-- Mode codes of a region's bytes (R289). -/
def modeCodes (l : List Byte) : List Nat := l.flatMap fun b => [bits b.toNat 1 0, bits b.toNat 3 2, bits b.toNat 5 4, bits b.toNat 7 6]

/-- The bytes of a vector with the lanes of a mask XORed with residual bytes, and what is left of the residual region. -/
def residual (v : List Byte) (mask : Nat) (n : Nat) (res : List Byte) : Option (List Byte × List Byte) :=
  match v with
  | [] => some ([], res)
  | b :: t =>
    if mask.testBit n then
      match res with
      | [] => none
      | x :: res => (residual t mask (n + 1) res).map fun z => ((b ^^^ x) :: z.1, z.2)
    else (residual t mask (n + 1) res).map fun z => (b :: z.1, z.2)

/-- Decoding of R290: `out` holds the granules emitted, newest first. Answers them and the regions' leftovers, or the code. -/
def decodeGo (cb : List (BitVec 128)) (e : Nat) : Nat → List Nat → List Byte → List Byte → List (BitVec 128) → Except Nat (List (BitVec 128) × List Nat × List Byte × List Byte)
  | 0, ms, ix, rs, out => .ok (out, ms, ix, rs)
  | fuel + 1, ms, ix, rs, out =>
    if e ≤ out.length then .ok (out, ms, ix, rs)
    else
      match ms with
      | [] => .error 0x0684
      | m :: ms =>
        let prev := out.headD 0
        match m with
        | 0 =>
          match ix with
          | [] => .error 0x0684
          | c :: ix =>
            if e < out.length + c.toNat + 1 then .error 0x0683
            else decodeGo cb e fuel ms ix rs (List.replicate (c.toNat + 1) prev ++ out)
        | 1 =>
          match ix with
          | [] => .error 0x0684
          | i :: ix =>
            match cb[i.toNat]? with
            | none => .error 0x0687
            | some v => decodeGo cb e fuel ms ix rs (v :: out)
        | 2 =>
          match ix, rs with
          | i :: ix, a :: b :: rs =>
            match residual (leBytes 16 (cb.getD i.toNat 0).toNat) (a.toNat + 256 * b.toNat) 0 rs with
            | none => .error 0x0684
            | some (v, rs) => if i.toNat < cb.length then decodeGo cb e fuel ms ix rs (BitVec.ofNat 128 (leNat v) :: out) else .error 0x0687
          | _, _ => .error 0x0684
        | _ =>
          if rs.length < 16 then .error 0x0684
          else decodeGo cb e fuel ms ix (rs.drop 16) (BitVec.ofNat 128 (leNat (rs.take 16)) :: out)

/-- A coded block: its granules, or its code (R290). -/
def expandCoded (b : BlockIdx) (slot : Codebook) (l : List Gran) : Except Nat (List Gran) :=
  let h := (l.headD { data := 0, poison := false }).data.toNat
  let ig := fieldAt h 0 15 0
  let rg := fieldAt h 2 15 0
  if !(decide (2 ≤ ig ∧ ig ≤ b.stored ∧ ig ≤ rg ∧ rg ≤ b.stored) && fieldAt h 4 7 0 == b.ord && zeroAt h 5 0 88) then .error 0x0681
  else if !slot.full || slot.tag != b.cbTag then .error 0x0682
  else
    let region (lo hi : Nat) : List Byte := gransBytes ((l.drop lo).take (hi - lo))
    match decodeGo slot.entries b.exp b.exp (modeCodes (region 1 ig)) (region ig rg) (region rg b.stored) [] with
    | .error c => .error c
    | .ok (out, ms, ix, rs) =>
      if ms.any (· != 0) || ix.any (· != 0) || rs.any (· != 0) then .error 0x0685
      else .ok (out.reverse.map fun v => { data := v, poison := false })

/-- A block's destination granules, poisoned where it fails or is poisoned, and its code if it fails (R290, R293, R297, R298). -/
def expandBlock (b : BlockIdx) (slot : Codebook) (l : List Gran) : List Gran × Option Nat :=
  let bad := poisonGrans b.exp
  if l.any (·.poison) || (b.kind == 0 && slot.full && slot.poison) then (bad, none)
  else
    let out : Except Nat (List Gran) := match b.kind with
      | 0 => expandCoded b slot l
      | 1 => .ok l
      | _ => .ok (List.replicate b.exp { data := 0, poison := false })
    match out with
    | .error c => (bad, some c)
    | .ok g => if crc32c (gransBytes g) = b.check then (g, none) else (bad, some 0x0686)

/-! ## Moving the data -/

/-- Translation of a transfer (R357). -/
def Xfer.tr (x : Xfer) : Nat → Bool → Except Nat (Nat × Nat) := translateBy x.pages x.gen x.ctx

/-- The other die from which source granule `i` at `va` comes, and to which a destination granule at `va` goes (R98). -/
def State.otherDie (s : State) (x : Xfer) (sp die va : Nat) : Option Nat :=
  match sp with
  | 2 => some die
  | 3 => (s.hbmOf (translateBy x.pages x.gen x.ctx) (some (x.core / 8)) va).map (·.2.2)
  | 4 => some (dieH (s.hport x.ctx))
  | _ => none

/-- Source granules of a transfer behind the edges that they cross (R27); `n` numbers the first of them. -/
def State.comeIn (s : State) (x : Xfer) (d : DmaD) (va n : Nat) (l : List Gran) : List Gran × State :=
  s.crossEdges (fun i e => !e.out && (s.otherDie x d.srcSp d.srcDie (va + 16 * i)).any (between (x.core / 8) · e)) l
    ((x.edges.filter fun e => e.gran.any (n ≤ ·)).map fun e => { e with gran := e.gran.map (· - n) })

/-- Destination granules of a transfer behind the edges that they cross. -/
def State.goOut (s : State) (x : Xfer) (d : DmaD) (l : List Gran) : List Gran × State :=
  s.crossEdges (fun i e => e.out && (s.otherDie x d.dstSp d.dstDie (d.dst + 16 * i)).any (between (x.core / 8) · e)) l x.edges

/-- The dies to which packets of a transfer go and from which they come (R98). -/
def State.xferDies (s : State) (x : Xfer) (d : DmaD) (vas : List Nat) : List Nat :=
  ((vas.filterMap (s.otherDie x d.srcSp d.srcDie)) ++
    (((List.range (ceilDiv d.bytes 16)).map (d.dst + 16 * ·)).filterMap (s.otherDie x d.dstSp d.dstDie))).dedup

/-- A packet of the transfer whose header is lost: a request or its reply (R28). -/
def State.lostPacket (s : State) (x : Xfer) (d : DmaD) (vas : List Nat) : Option EdgeErr :=
  let dies := s.xferDies x d vas
  x.edges.find? fun e => edgeLost e && dies.any (between (x.core / 8) · e)

/-- Source granules of a transfer that does not expand, the code of a refusal, and the state. -/
def State.xferSource (s : State) (x : Xfer) (d : DmaD) : List Gran × Nat × State :=
  let n := ceilDiv d.srcSpan 16
  match d.srcSp with
  | 0 => (s.mem.readGrans .opsram (osAt x.core d.src) n, 0, s)
  | 1 => (s.mem.readGrans .tile (tbAt x.core d.srcTb d.src) n, 0, s)
  | 2 =>
    let (l, c) := s.sharedRead d.srcDie x.part d.src n
    (l, c, if c = 0 then s else s.raise (wayFault s d.srcDie x.ctx x.part d.src))
  | 3 => s.devReadBy x.tr (Who.core x.core) x.ctx d.src n
  | _ => ((x.host.getD (poisonGrans n)).take n, 0, s)

/-- A code that an agent gave and the engine owes, as against one that a lookup gave, which is charged at the issue (R357, R358). -/
def agentCode (c : Nat) : Bool := owed c && c != 0x0401 && c != 0x0402

/-- A block that fails: counted and written down in the engine's history, and charged, or recorded only where an earlier
block of the transfer was charged (R297). -/
def State.blockFault (s : State) (x : Xfer) (ph num code : Nat) (f : FaultRec) (later : Bool) : State :=
  let s := (s.bump (x.core / 8) (engineUnit x.core 5) 0xC0 (2 ^ 32 - 1) 1).note (.block x.core x.img x.r.step x.r.tile x.r.op num code)
  let f := { f with code := code, dkind := 7, detail := num }
  if later then s.raise f else s.charge x.r.ring.val x.r.seq.toNat ph f

/-- Expands the blocks of a transfer in order (R287, R295 to R298); `n` stored granules came before, and `hit` says that an
earlier block was charged, whose cycle is earlier. -/
def State.expandAll (s : State) (x : Xfer) (d : DmaD) (ph : Nat) (f : FaultRec) (slot : Codebook) : Bool → Nat → Nat → List BlockIdx → List Gran × State
  | _, _, _, [] => ([], s)
  | hit, num, n, b :: t =>
    let (l, c, s) := s.devReadBy x.tr (Who.core x.core) x.ctx (d.src + 16 * b.off) b.stored
    let s := if !agentCode c then s else if hit then s.raise { f with code := c } else s.charge x.r.ring.val x.r.seq.toNat ph { f with code := c }
    let (l, s) := if x.edges = [] then (l, s) else s.comeIn x d (d.src + 16 * b.off) n l
    let (g, e) := expandBlock b slot l
    let s := match e with | some c => s.blockFault x ph num c f (hit || agentCode c) | none => s
    let (gs, s) := s.expandAll x d ph f slot (hit || agentCode c || e.isSome) (num + 1) (n + b.stored) t
    (g ++ gs, s)

/-- A codebook image loads a slot (R292, R293). -/
def State.loadBook (s : State) (x : Xfer) (d : DmaD) (ph : Nat) (l : List Gran) (f : FaultRec) : State :=
  let h := (l.headD { data := 0, poison := false }).data.toNat
  let b : Codebook := { full := true, tag := fieldAt h 0 15 0, entries := (l.drop 1).map (·.data), poison := l.any (·.poison) }
  if b.poison || (b.tag != 0 && d.bytes == 16 * (fieldAt h 2 7 0 + 2) && zeroAt h 3 0 104) then s.setBook x.core d.cbSlot b
  else s.charge x.r.ring.val x.r.seq.toNat ph { f with code := 0x0688 }

/-- Writes a transfer's granules to its destination: the code of a refusal and the state. A transfer whose host-bound writes are cancelled
posts nothing (R74, R397). -/
def State.xferStore (s : State) (x : Xfer) (d : DmaD) (ph : Nat) (l : List Gran) (f : FaultRec) : Nat × State :=
  match d.dstSp with
  | 0 => (0, s.setMem (s.mem.writeGrans .opsram (osAt x.core d.dst) l))
  | 1 =>
    let c := s.core x.core
    (0, (s.setCore x.core { c with tbTag := smSet 0 c.tbTag d.dstTb 0 }).setMem (s.mem.writeGrans .tile (tbAt x.core d.dstTb d.dst) l))
  | 2 =>
    let (c, t) := s.sharedWrite d.dstDie x.part d.dst l
    (c, if c = 0 then t else t.raise (wayFault t d.dstDie x.ctx x.part d.dst))
  | 3 => s.devWriteBy x.tr (Who.core x.core) x.ctx d.dst l
  | 4 =>
    if (s.xfers.any fun y => y.r == x.r && y.cancelled) || !s.hostOk x.ctx d.dst d.bytes then (0, s)
    else (0, s.hostPost x.r.ring.val x.r.seq.toNat ph x.part x.ctx d.dst d.bytes l f)
  | _ => (0, s.loadBook x d ph l f)

/-! ## DMA_RUN and its data -/

/-- The pages of a span are looked up in order, each once; each lookup that fails charges its code, with the first `dev:` address that it
affects (R119, R357). -/
def State.chargePage (s : State) (o : OpAt) (ph ctx va n : Nat) (write : Bool) : State :=
  (pageStarts va n).foldl (fun s a =>
    match s.translateAt (o.core / 8) ctx a write with
    | .ok _ => s
    | .error c => s.charge o.x.ring o.x.seq ph { coreFault s o 5 c with dkind := 2, detail := a }) s

/-- `dev:` or other addresses of the source granules of a transfer, in order. -/
def Xfer.sourceVas (d : DmaD) (idx : List BlockIdx) : List Nat :=
  if d.expand then idx.flatMap fun b => (List.range b.stored).map fun i => d.src + 16 * (b.off + i)
  else (List.range (ceilDiv d.srcSpan 16)).map (d.src + 16 * ·)

/-- What a DMA_RUN's issue charges and empties: a codebook slot that it fills, an index that fails, pages and a window that are not there
(R285, R286, R292, R357, R366). -/
def State.xferCharges (s : State) (o : OpAt) (d : DmaD) (ph : Nat) (idx : List BlockIdx) (bad : Option Nat) (dead : Bool) : State :=
  let ctx := o.x.ctx
  let s := if d.dstSp = 5 then s.setBook o.core d.cbSlot Codebook.init else s
  let s := match bad with
    | some i => s.charge o.x.ring o.x.seq ph { coreFault s o 5 0x0680 with dkind := 7, detail := d.blkFirst + i }
    | none => s
  let s :=
    if d.srcSp = 3 && !dead then
      if d.expand then idx.foldl (fun s b => if b.stored = 0 then s else s.chargePage o ph ctx (d.src + 16 * b.off) (16 * b.stored) false) s
      else s.chargePage o ph ctx d.src d.srcSpan false
    else s
  let s := if d.dstSp = 3 then s.chargePage o ph ctx d.dst d.bytes true else s
  if d.dstSp = 4 then (s.hostCheck o.x.ring o.x.seq ph ctx d.dst d.bytes (coreFault s o 5 0x0420)).2 else s

/-- A transfer joins those under way; flaws in what it reads, and a packet lost on its way, come out (R28, R324, R325). -/
def State.addXfer (s : State) (d : DmaD) (x : Xfer) (idx : List BlockIdx) (flaws : List Blemish) : State :=
  if flaws = [] ∧ x.edges = [] then s.setXfers (s.xfers ++ [x])
  else
    let vas := Xfer.sourceVas d idx
    let s := if d.srcSp = 3 && !x.allPoison then s.meetHbm x.tr (some (x.core / 8)) x.ctx vas flaws else s
    let dies := s.xferDies x d vas
    let s := s.countHeaders (fun e => dies.any (between (x.core / 8) · e)) x.edges
    match s.lostPacket x d vas with
    | some e => (s.setXfers (s.xfers ++ [{ x with lost := true }])).raise (edgeFault s 0x0106 e)
    | none => s.setXfers (s.xfers ++ [x])

/-- What is done at the issue of a DMA_RUN with something to move: pages and window are looked up, the index is checked, a host read is
sent, a codebook slot is emptied (R285, R286, R292, R357, R366); flaws in what it reads, and a packet lost on its way, come out (R28, R324, R325). -/
def State.startXfer (s : State) (o : OpAt) (d : DmaD) (cyc ph : Nat) (flaws : List Blemish) (edges : List EdgeErr) : State :=
  let ctx := o.x.ctx
  let c := o.core / 8
  let l := o.im.rsvOf d.rsvFirst d.rsvN
  let s := s.meetSram ctx (d.readAccs o.core) flaws
  let (words, ip) := if d.expand then s.indexOf d o.core o.x.part else ([], false)
  let idx := blockIdx words
  let bad := if d.expand && !ip then blocksBad idx d.blkFirst d.bytes else none
  let dead := ip || bad.isSome
  let span := if d.expand then 16 * maxOf (idx.map fun b => b.off + b.stored) else d.srcSpan
  let pages := (if d.srcSp = 3 && !dead then s.pagesOf c ctx d.src span else []) ++ (if d.dstSp = 3 then s.pagesOf c ctx d.dst d.bytes else [])
  let s := (if d.srcSp = 3 && !dead then s.fillFirst (256 * c + engineUnit o.core 5) ctx d.src span else s)
  let s := (if d.dstSp = 3 then s.fillFirst (256 * c + engineUnit o.core 5) ctx d.dst d.bytes else s)
  let s := s.xferCharges o d ph idx bad dead
  let (host, s) : Option (List Gran) × State :=
    if d.srcSp = 4 then s.hostRead (ReadFor.xfer o.r) o.x.ring o.x.seq ph o.x.part ctx d.src d.srcSpan (coreFault s o 5 0x0420) else (none, s)
  let x : Xfer :=
    { core := o.core, r := o.r, part := o.x.part, ctx := ctx, gen := (s.ctxGen ctx).gen, pages := pages, desc := o.im.desc o.op.arg0, img := o.im.id,
      issued := cyc, ready := none, entries := words, allPoison := dead, host := host,
      cancelled := match s.sub? o.x.ring o.x.seq with | some y => y.cancelled | none => true,
      edges := edges, lost := false }
  let stacksOf := fun (sp die : Nat) (vas : List Nat) => if sp = 3 then some (vas.filterMap (s.otherDie x sp die)).dedup else none
  let vas := Xfer.sourceVas d idx
  let src := if d.expand && vas.isEmpty then none else stacksOf d.srcSp d.srcDie vas
  let dst := stacksOf d.dstSp d.dstDie ((List.range (ceilDiv d.bytes 16)).map (d.dst + 16 * ·))
  s.addXfer d { x with ready := (d.ready l c (s.hport ctx) src dst).map (cyc + ·) } idx flaws

/-- DMA_RUN (R98, R278 to R281): occupies its engine and starts its transfer. -/
def execDmaRun (r : OpRef) (phase : Fin 7) (bad : List Blemish) (edges : List EdgeErr) (s : State) : Outcome State Fault Refusal :=
  match s.opAt r 5 with
  | none => .next (s.afterCharge r 5 phase.val)
  | some o =>
    let cyc := s.cycle phase.val
    if !s.mayConsider o cyc then .next s
    else
      let d := DmaD.of (o.im.desc o.op.arg0)
      let w := d.writeAccs o.core
      if cyc < (s.eng o.core 5).free then .next (s.holdOp o cyc 0)
      else if s.orderHeld o w cyc then .next (s.holdOp o cyc 6)
      else
        match s.missing o cyc (d.readAccs o.core) with
        | some src => .next (s.holdOp o cyc src)
        | none =>
          let t := s.issue o cyc (cyc + d.occupancy)
          .next (if d.bytes = 0 then t else t.startXfer o d cyc phase.val bad edges)

/-- The bytes that a transfer brings to its destination, and the code of its source (R98, R286, R292). -/
def State.xferBytes (s : State) (x : Xfer) (d : DmaD) (ph : Nat) (f : FaultRec) : List Gran × Nat × State :=
  if x.allPoison then (poisonGrans (d.bytes / 16), 0, s)
  else if d.expand then
    let (g, t) := s.expandAll x d ph f (s.book x.core d.cbSlot) false d.blkFirst 0 (blockIdx x.entries)
    (g.take (d.bytes / 16), 0, t)
  else
    let (g, c, t) := s.xferSource x d
    let (g, t) := if x.edges = [] then (g, t) else t.comeIn x d d.src 0 g
    (if d.cvt then d.convert g else g, c, t)

/-- DMA_DATA_READY (R98, R286, R292, R297): from its data-ready cycle on, once any host data has arrived, the transfer's last byte is in
place. One that lost a packet never becomes ready, and goes with its
instance (R28). -/
def execDmaDataReady (r : OpRef) (phase : Fin 7) (s : State) : Outcome State Fault Refusal :=
  let cyc := s.cycle phase.val
  match s.xfers.find? fun x => x.r == r && decide (x.ready.getD (x.issued + 24) ≤ cyc) && (x.host.isSome || (DmaD.of x.desc).srcSp != 4) with
  | none => .next s
  | some x =>
    let done (s : State) : State := s.setXfers (s.xfers.filter (·.r != r))
    if x.lost then .next (if (s.instance? r.ring.val r.seq.toNat).isSome then s else done s)
    else
      let d := DmaD.of x.desc
      let f : FaultRec := { FaultRec.new s 0 (some (x.core / 8)) (engineUnit x.core 5) with ctx := some x.ctx, part := some x.part }
      let (l, c, t) := s.xferBytes x d phase.val f
      let t := if agentCode c then t.charge x.r.ring.val x.r.seq.toNat phase.val { f with code := c } else t
      let (l, t) := if x.edges = [] then (l, t) else t.goOut x d l
      let (c', t) := t.xferStore x d phase.val l f
      .next (done (if agentCode c' then t.charge x.r.ring.val x.r.seq.toNat phase.val { f with code := c' } else t))

end Sys2Proof.Machine
end

