-- ==== Sys2Proof/Machine/Regions.lean ====
section
/-! DEFINITION. The region table: enabling, releasing and row-locking a region (R307 to R311, R581). -/

namespace Sys2Proof.Machine

open Sys2Proof Host

/-- A refused write of a region's registers (R310, R581). -/
def State.rgnRefused (s : State) (g : RG) (i : Nat) : State := (s.setBit .memStatus 0 0).regErr (g.off i) 4

/-- The region that MEM_RGN_A to MEM_RGN_C and a word for MEM_RGN_D describe. -/
def State.regionWith (s : State) (i : Nat) (d : Word) : Region := (s.setReg .memRgnD i d).region i

/-- Bytes of the region on each of its pseudo-channels (R309). -/
def Region.share (r : Region) : Nat := r.size * gib / r.n

/-- Channel indices of a region (R301, R312); LOCAL takes them on every named stack. -/
def Region.channels (r : Region) : List Nat := r.stackList.flatMap fun m => r.chans.map fun c => 32 * m + c

def halfMib : Nat := 2 ^ 19

/-- Two regions meet in the memory address space or on a pseudo-channel (R310). -/
def Region.meets (a b : Region) : Bool :=
  decide (a.base < b.base + b.size ∧ b.base < a.base + a.size) ||
    (a.channels.any (b.channels.contains ·) &&
      decide (a.pcBase * halfMib < b.pcBase * halfMib + b.share ∧ b.pcBase * halfMib < a.pcBase * halfMib + a.share))

def isPow2 (n : Nat) : Bool := n == 2 ^ Nat.log2 n

/-- The conditions of R310 on a region by itself. -/
def Region.ok (r : Region) : Bool :=
  r.stackList != [] && r.chans != [] && (r.mode != 2 || r.stackList.length == 1) &&
    (r.mode != 0 || isPow2 r.stackList.length) && (r.mode == 1 || isPow2 r.chans.length) &&
    decide (1 ≤ r.size ∧ r.size ≤ 2048) && r.size * gib % (r.n * halfMib) == 0 && decide (r.pcBase * halfMib + r.share ≤ gib) &&
    decide (r.base + r.size ≤ 2048) && (r.trn == 0 || r.mode == 2 || r.mode == 3)

/-- A channel is owned by a partition and has been cleared (R328). -/
def State.channelReady (s : State) (p ch : Nat) : Bool :=
  s.flag .memChOwn ch 6 && s.fld .memChOwn ch 5 0 == p && !s.mem.clearing.contains ch

/-- Every condition of R310 on a region that is to become valid. -/
def State.regionOk (s : State) (i : Nat) (r : Region) : Bool :=
  r.ok && (r.channels.all fun ch => s.channelReady r.owner ch) &&
    (List.range 256).all fun j => j == i || !(s.region j).v || !r.meets (s.region j)

/-- Local rows of a table of a running or pending image lie in the region (R217, R311). -/
def State.rowsIn (s : State) (r : Region) : Bool :=
  (List.range 64).any fun q =>
    let x := s.part q
    let ims := x.image.toList ++ (match x.pending with | some y => y.image.toList | none => [])
    (ims.flatMap fun im => im.tables.flatMap (·.entries)).any fun e =>
      let hi := e.base + 256 * e.stride * e.localRows
      s.xlt.pages.any fun p =>
        let a := max p.va e.base
        let b := min (p.va + p.n * pageBytes p.psz) hi
        s.ctxPart p.ctx == q && decide (a < b ∧ p.mem + (a - p.va) < (r.base + r.size) * gib ∧ r.base * gib < p.mem + (b - p.va))

/-- ROWLOCK of a valid region (R311): set at any time, cleared only while no image's local rows lie in the region. -/
def State.writeRowlock (s : State) (i : Nat) (b : Bool) : State :=
  if b = s.flag .memRgnD i 22 then s
  else if b ∨ !s.rowsIn (s.region i) then s.setReg .memRgnD i (setBits (s.reg .memRgnD i) 22 22 (bnat b))
  else s.rgnRefused .memRgnD i

/-- Bits of MEM_RGN_D that are fixed while V is 1 (R309, R310). -/
def rgnFixed : Word := 0x3FFEFF

/-- A write of MEM_RGN_D (R310, R311, R581). -/
def State.writeRgnD (s : State) (i : Nat) (w : Word) : State :=
  let old := s.reg .memRgnD i
  let r := s.region i
  let other := decide ((w &&& rgnFixed) ≠ (old &&& rgnFixed))
  if !r.v then
    if !wbit w 8 then s.putRw .memRgnD i w
    else if s.regionOk i (s.regionWith i (w &&& RG.memRgnD.row.rw)) then s.putRw .memRgnD i w
    else (s.putRw .memRgnD i (setBits w 8 8 0)).rgnRefused .memRgnD i
  else if wbit w 8 then
    let s := if other then s.rgnRefused .memRgnD i else s
    s.writeRowlock i (wbit w 22)
  else if (s.part r.owner).st ≠ .idle then s.rgnRefused .memRgnD i
  else
    let s := (s.writeRowlock i (wbit w 22))
    let s := s.setReg .memRgnD i (setBits (s.reg .memRgnD i) 8 8 0)
    if other then s.rgnRefused .memRgnD i else s

/-- A write of MEM_RGN_A to MEM_RGN_C (R310, R581). -/
def State.writeRgn (s : State) (g : RG) (i : Nat) (w : Word) : State :=
  if !(s.region i).v then s.putRw g i w
  else if (w &&& g.row.rw) = (s.reg g i &&& g.row.rw) then s
  else s.rgnRefused g i

/-- REGION_ENABLE (R310): a write of V from 0 to 1. -/
def execRegionEnable (port : Fin 4) (i : Fin 256) (w : Word) (s : State) : Outcome State Fault Refusal :=
  if s.reach port.val ∧ wbit w 8 ∧ !s.flag .memRgnD i.val 8 then .next (s.writeRgnD i.val w) else .next s

/-- REGION_RELEASE (R310): a write of V from 1 to 0. -/
def execRegionRelease (port : Fin 4) (i : Fin 256) (w : Word) (s : State) : Outcome State Fault Refusal :=
  if s.reach port.val ∧ !wbit w 8 ∧ s.flag .memRgnD i.val 8 then .next (s.writeRgnD i.val w) else .next s

/-- ROWLOCK_WRITE (R311): a write of a valid region that keeps V and changes ROWLOCK. -/
def execRowlockWrite (port : Fin 4) (i : Fin 256) (w : Word) (s : State) : Outcome State Fault Refusal :=
  if s.reach port.val ∧ wbit w 8 ∧ s.flag .memRgnD i.val 8 ∧ wbit w 22 ≠ s.flag .memRgnD i.val 22 then .next (s.writeRgnD i.val w) else .next s

end Sys2Proof.Machine
end

