-- ==== Sys2Proof/Machine/Maps.lean ====
section
/-! DEFINITION. Contexts, pool windows and entry quotas, the page tables, and map submissions with their withdrawals (11). -/

namespace Sys2Proof.Machine

open Sys2Proof Host

/-! ## Memory that the device accesses for itself (R313, R348, R351) -/

/-- Pseudo-channel and line of a memory address, for an access of the device itself. -/
def State.ownPlace (s : State) (a : Nat) : Option (Nat × Nat) :=
  match s.regionOf a with
  | some i => (s.region i).place a none
  | none => none

/-- Granule that holds a memory address, as every read sees it. -/
def State.ownRead (s : State) (a : Nat) : Gran :=
  match s.ownPlace a with
  | some (pc, line) => (s.mem.seenLine pc line).getD (a % 256 / 16) { data := 0, poison := true }
  | none => { data := 0, poison := true }

/-- Memory with bytes of one line written at a memory address. -/
def State.ownWrite (s : State) (m : MemS) (a : Nat) (bs : List Byte) : MemS :=
  match s.ownPlace a with
  | some (pc, line) =>
    m.combine pc line (s.time.now / 4) (BitVec.ofNat 256 ((2 ^ bs.length - 1) * 2 ^ (a % 256))) (List.replicate (a % 256) 0 ++ bs) 0
  | none => m

/-- Memory with `n` lines written as zeros. -/
def State.ownZero (s : State) (m : MemS) (a n : Nat) : MemS :=
  (List.range n).foldl (fun m i => s.ownWrite m (a + 256 * i) (leBytes 256 0)) m

/-! ## Page tables (R349 to R351) -/

/-- Lowest bit of the index of a level, and the number of index bits (R349). -/
def levelBit (level : Nat) : Nat := match level with | 0 => 39 | 1 => 30 | 2 => 21 | _ => 16
def levelBits (level : Nat) : Nat := if level = 3 then 5 else 9

/-- Bytes and alignment of a table (R349). -/
def tableBytes (level : Nat) : Nat := if level = 3 then 256 else 4096

/-- Level of the leaf of a page size (R349). -/
def leafLevel (psz : Nat) : Nat := 3 - psz

def State.tableArea (s : State) (ctx : Nat) : Nat × Nat := (s.fld .xltCtxB ctx 28 0 * 4096, s.fld .xltCtxA ctx 27 12 * 2 ^ 20)

/-- Address of the table of a level that covers a `dev:` address; level 0 lies at ROOT. -/
def State.tableAt (s : State) (tabs : List PTable) (ctx level va : Nat) : Option Nat :=
  if level = 0 then some (s.tableArea ctx).1
  else (tabs.find? fun t => t.ctx == ctx && t.level == level && t.prefix_ == va / 2 ^ (levelBit level + levelBits level)).map (·.addr)

/-- Address of the entry of a level for a `dev:` address. -/
def State.entryAt (s : State) (tabs : List PTable) (ctx level va : Nat) : Option Nat :=
  (s.tableAt tabs ctx level va).map fun a => a + 8 * (va / 2 ^ levelBit level % 2 ^ levelBits level)

/-- Entry of R350. -/
def pageEntry (leaf w : Bool) (addr : Nat) : Nat := 1 + 2 * bnat leaf + 4 * bnat w + addr / 256 % 2 ^ 33 * 256

/-- An entry keeps the rules of R350 at its level. -/
def entryOk (level e : Nat) : Bool :=
  let leaf := e.testBit 1
  if !e.testBit 0 then e == 0
  else
    bits e 7 3 == 0 && bits e 63 41 == 0 && (if level = 0 then !leaf else if level = 3 then leaf else true) && (leaf || !e.testBit 2) &&
      (if leaf then bits e 40 0 / 256 * 256 % pageBytes (3 - level) == 0 else bits e 40 0 / 256 * 256 % tableBytes (level + 1) == 0)

/-- Place for a new table: the first free one of the area from a place that the spec leaves open, and for 256-byte tables one in a 4 KiB
that already holds such tables where there is one (R351; log 60). -/
def State.newTable (s : State) (tabs : List PTable) (ctx level pre : Nat) : Option Nat :=
  let (root, size) := s.tableArea ctx
  let mine := tabs.filter (·.ctx == ctx)
  let step := tableBytes level
  let n := size / step
  let k := Config.tablePlace ctx level pre % max 1 n
  let free := fun a : Nat => decide (root + 4096 ≤ a) && mine.all fun t => decide (a + step ≤ t.addr ∨ t.addr + tableBytes t.level ≤ a)
  let beside := fun a : Nat => level != 3 || mine.any fun t => t.level == 3 && t.addr / 4096 == a / 4096
  let all := (List.range n).map fun i => root + (k + i) % n * step
  match all.find? fun a => free a && beside a with
  | some a => some a
  | none => all.find? free

/-- Address prefixes of a level's tables that the pages of a span need. -/
def prefixes (level va len : Nat) : List Nat :=
  let sh := levelBit level + levelBits level
  (List.range ((va + len - 1) / 2 ^ sh - va / 2 ^ sh + 1)).map (va / 2 ^ sh + ·)

/-- Adds the tables of levels 1 to the leaf's level for a span, each written as zeros with the pointer to it (R349 to R351). -/
def State.addTables (s : State) (ctx va len leaf : Nat) (st : MemS × List PTable) : MemS × List PTable :=
  (List.range leaf).foldl (fun st l =>
    let level := l + 1
    (prefixes level va len).foldl (fun (st : MemS × List PTable) pre =>
      if st.2.any fun t => t.ctx == ctx && t.level == level && t.prefix_ == pre then st
      else
        match s.newTable st.2 ctx level pre, s.entryAt st.2 ctx l (pre * 2 ^ (levelBit level + levelBits level)) with
        | some a, some e =>
          (s.ownWrite (s.ownZero st.1 a (tableBytes level / 256)) e (leBytes 8 (pageEntry false false a)),
           { ctx := ctx, level := level, prefix_ := pre, addr := a } :: st.2)
        | _, _ => st) st) st

/-- Writes the leaf entries of a run; `valid` false clears them. -/
def State.putLeaves (s : State) (r : PageRun) (valid : Bool) (st : MemS × List PTable) : MemS × List PTable :=
  ((List.range r.n).foldl (fun m i =>
    match s.entryAt st.2 r.ctx (leafLevel r.psz) (r.va + i * pageBytes r.psz) with
    | some e => s.ownWrite m e (leBytes 8 (if valid then pageEntry true r.w (r.mem + i * pageBytes r.psz) else 0))
    | none => m) st.1, st.2)

/-- Returns the tables that hold no valid entry, deepest level first, clearing the pointers to them (R351). -/
def State.dropTables (s : State) (pages : List PageRun) (ctx : Nat) (st : MemS × List PTable) : MemS × List PTable :=
  [3, 2, 1].foldl (fun (st : MemS × List PTable) level =>
    let sh := levelBit level + levelBits level
    let used := fun t : PTable => pages.any fun p => p.ctx == ctx && decide (level ≤ leafLevel p.psz) &&
      decide (p.va < (t.prefix_ + 1) * 2 ^ sh ∧ t.prefix_ * 2 ^ sh < p.va + p.n * pageBytes p.psz)
    let gone := st.2.filter fun t => t.ctx == ctx && t.level == level && !used t
    let m := gone.foldl (fun m t =>
      match s.entryAt st.2 ctx (level - 1) (t.prefix_ * 2 ^ sh) with
      | some e => s.ownWrite m e (leBytes 8 0)
      | none => m) st.1
    (m, st.2.filter fun t => !gone.contains t)) st

/-! ## Present pages (R355) -/

def PageRun.len (p : PageRun) : Nat := p.n * pageBytes p.psz
def PageRun.end_ (p : PageRun) : Nat := p.va + p.len

/-- Two runs of one context that continue each other. -/
def PageRun.joins (a b : PageRun) : Bool :=
  a.ctx == b.ctx && a.psz == b.psz && a.w == b.w && b.va == a.end_ && b.mem == a.mem + a.len

/-- Puts a run into the sorted list of present runs, joining it with its neighbours. -/
def addRun (r : PageRun) : List PageRun → List PageRun
  | [] => [r]
  | p :: t =>
    if p.joins r then addRun { p with n := p.n + r.n } t
    else if r.joins p then { r with n := r.n + p.n } :: t
    else if r.ctx < p.ctx ∨ (r.ctx = p.ctx ∧ r.va < p.va) then r :: p :: t
    else p :: addRun r t

/-- What is left of a run outside a span of pages of its size. -/
def PageRun.minus (p : PageRun) (lo hi : Nat) : List PageRun :=
  let b := pageBytes p.psz
  if hi ≤ p.va ∨ p.end_ ≤ lo then [p]
  else
    (if p.va < lo then [{ p with n := (lo - p.va) / b }] else []) ++
      (if hi < p.end_ then [{ p with va := hi, n := (p.end_ - hi) / b, mem := p.mem + (hi - p.va) }] else [])

def removeRun (ctx lo hi : Nat) (l : List PageRun) : List PageRun :=
  l.flatMap fun p => if p.ctx = ctx then p.minus lo hi else [p]

/-- Aligned blocks of at most 2^k pages that cover pages `a` to `b − 1`, the largest first. -/
def blocks : Nat → Nat → Nat → Nat
  | 0, a, b => b - a
  | k + 1, a, b =>
    let sz := 2 ^ (k + 1)
    let lo := ceilDiv a sz
    let hi := b / sz
    if hi ≤ lo then blocks k a b else hi - lo + blocks k a (lo * sz) + blocks k (hi * sz) b

/-- Translation-buffer entries of a run: merged runs of 2, 4, 8 or 16 pages, aligned in both spaces (R355). -/
def PageRun.entries (p : PageRun) : Nat :=
  let a := p.va / pageBytes p.psz
  let m := p.mem / pageBytes p.psz
  let k := ((List.range 5).filter fun k => decide (a % 2 ^ k = m % 2 ^ k)).getLast?.getD 0
  blocks k a (a + p.n)

/-- Second-level entries of a partition's contexts on each die (R353, R356). -/
def State.entriesOf (s : State) (pages : List PageRun) (part : Nat) : Nat :=
  ((pages.filter fun p => s.ctxValid p.ctx && s.ctxPart p.ctx == part).map (·.entries)).foldl (· + ·) 0

/-! ## Contexts (R346 to R348) -/

def State.ctxRefused (s : State) (g : RG) (c : Nat) : State := (s.setBit .xltStatus 0 0).regErr (g.off c) 4

/-- Every GiB of a span of memory lies in valid regions of a partition; `local_` tells that LOCAL regions count. -/
def State.inRegions (s : State) (part lo hi : Nat) (local_ : Bool) : Bool :=
  (List.range ((hi - 1) / gib - lo / gib + 1)).all fun i =>
    match s.regionOf ((lo / gib + i) * gib) with
    | some r => (s.region r).owner == part && (local_ || (s.region r).mode != 3)
    | none => false

/-- The conditions of R348, with a word for XLT_CTX_A. -/
def State.ctxOk (s : State) (c : Nat) (w : Word) : Bool :=
  let part := wbits w 5 0
  let area := wbits w 27 12
  let root := s.fld .xltCtxB c 28 0 * 4096
  (s.part part).st != .idle && decide (1 ≤ area ∧ area ≤ 4096) && s.inRegions part root (root + area * 2 ^ 20) false &&
    (!wbit w 7 || s.dieOk (dieH (wbits w 9 8)))

/-- A context loses every translation-buffer entry and its tables. -/
def State.dropCtx (s : State) (c : Nat) : State :=
  (s.setXlt { s.xlt with pages := s.xlt.pages.filter (·.ctx != c), tables := s.xlt.tables.filter (·.ctx != c) }).setMem (s.mem.dropFirst (·.ctx == c))

/-- Bits of XLT_CTX_A that are fixed while V is 1. -/
def ctxFixed : Word := 0xFFFF7BF

/-- A write of XLT_CTX_A (R348, R581). -/
def State.writeCtxA (s : State) (c : Nat) (w : Word) : State :=
  let old := s.reg .xltCtxA c
  let other := decide ((w &&& ctxFixed) ≠ (old &&& ctxFixed))
  if !wbit old 6 then
    if !wbit w 6 then s.putRw .xltCtxA c w
    else if s.ctxOk c w then
      let s := ((s.putRw .xltCtxA c w).dropCtx c).setCtxGen c CtxGen.init
      s.setMem (s.ownZero s.mem (s.tableArea c).1 16)
    else (s.putRw .xltCtxA c (setBits w 6 6 0)).ctxRefused .xltCtxA c
  else if wbit w 6 then (if other then s.ctxRefused .xltCtxA c else s)
  else if (s.part (wbits old 5 0)).st ≠ .idle then s.ctxRefused .xltCtxA c
  else
    let s := (s.setReg .xltCtxA c (setBits old 6 6 0)).dropCtx c
    if other then s.ctxRefused .xltCtxA c else s

/-- A write of XLT_CTX_B to XLT_CTX_D (R348, R581). -/
def State.writeCtx (s : State) (g : RG) (c : Nat) (w : Word) : State :=
  if !s.flag .xltCtxA c 6 then s.putRw g c w
  else if (w &&& g.row.rw) = (s.reg g c &&& g.row.rw) then s
  else s.ctxRefused g c

/-- CONTEXT_ENABLE (R348): a write of V from 0 to 1. -/
def execContextEnable (port : Fin 4) (ctx : Fin 4096) (w : Word) (s : State) : Outcome State Fault Refusal :=
  if s.reach port.val ∧ wbit w 6 ∧ !s.flag .xltCtxA ctx.val 6 then .next (s.writeCtxA ctx.val w) else .next s

/-- CONTEXT_DISABLE (R348): a write of V from 1 to 0. -/
def execContextDisable (port : Fin 4) (ctx : Fin 4096) (w : Word) (s : State) : Outcome State Fault Refusal :=
  if s.reach port.val ∧ !wbit w 6 ∧ s.flag .xltCtxA ctx.val 6 then .next (s.writeCtxA ctx.val w) else .next s

/-! ## Quotas and pool windows (R356, R368, R369) -/

/-- A write of XLT_SLQ (R356, R569). -/
def State.writeSlq (s : State) (p : Nat) (w : Word) : State :=
  let v := wbits w 13 0
  let rest := (((List.range 64).filter (· != p)).map fun q => s.fld .xltSlq q 13 0).foldl (· + ·) 0
  if v > 8192 then (s.setBit .xltStatus 0 1).regErr (RG.off .xltSlq p) 5
  else if rest + v > 8192 ∨ v < s.entriesOf s.xlt.pages p then (s.setBit .xltStatus 0 1).regErr (RG.off .xltSlq p) 4
  else s.putRw .xltSlq p w

/-- XLT_SLQ_WRITE (R356). -/
def execXltSlqWrite (port : Fin 4) (part : Fin 64) (w : Word) (s : State) : Outcome State Fault Refusal :=
  if s.reach port.val then .next (s.writeSlq part.val w) else .next s

def State.pwinRefused (s : State) (g : RG) (i : Nat) : State := (s.setBit .xltStatus 0 2).regErr (g.off i) 4

/-- First pool unit, first `dev:` unit and size of a window, in 64 KiB units (R368). -/
def State.pwin (s : State) (i : Nat) : Nat × Nat × Nat :=
  ((s.reg .xltPwinB i).toNat, (s.reg .xltPwinC i).toNat, (s.reg .xltPwinD i).toNat)

/-- The conditions of R369 with a word for XLT_PWIN_A. -/
def State.pwinOk (s : State) (i : Nat) (w : Word) : Bool :=
  let (b, d, n) := s.pwin i
  s.ctxValid (wbits w 11 0) && decide (1 ≤ n ∧ n ≤ 0xFFFFFFFE) && decide (b + n ≤ 2 ^ 32) && decide (d + n ≤ 2 ^ 32) &&
    (List.range 64).all fun j => j == i || !s.flag .xltPwinA j 12 ||
      (let (b', _, n') := s.pwin j; decide (b + n ≤ b' ∨ b' + n' ≤ b))

/-- A write of XLT_PWIN_A (R369, R581). -/
def State.writePwinA (s : State) (i : Nat) (w : Word) : State :=
  let old := s.reg .xltPwinA i
  let other := decide ((w &&& 0x6FFF) ≠ (old &&& 0x6FFF))
  if !wbit old 12 then
    if !wbit w 12 || s.pwinOk i w then s.putRw .xltPwinA i w
    else (s.putRw .xltPwinA i (setBits w 12 12 0)).pwinRefused .xltPwinA i
  else
    let s := s.setReg .xltPwinA i (setBits old 12 12 (bnat (wbit w 12)))
    if other then s.pwinRefused .xltPwinA i else s

/-- A write of XLT_PWIN_B to XLT_PWIN_D (R369, R581). -/
def State.writePwin (s : State) (g : RG) (i : Nat) (w : Word) : State :=
  if !s.flag .xltPwinA i 12 ∨ w = s.reg g i then s.putRw g i w else s.pwinRefused g i

/-- PWIN_ENABLE (R369): a write of V from 0 to 1. -/
def execPwinEnable (port : Fin 4) (i : Fin 64) (w : Word) (s : State) : Outcome State Fault Refusal :=
  if s.reach port.val ∧ wbit w 12 ∧ !s.flag .xltPwinA i.val 12 then .next (s.writePwinA i.val w) else .next s

/-- PWIN_DISABLE (R369): a write of V from 1 to 0, at any time. -/
def execPwinDisable (port : Fin 4) (i : Fin 64) (w : Word) (s : State) : Outcome State Fault Refusal :=
  if s.reach port.val ∧ !wbit w 12 ∧ s.flag .xltPwinA i.val 12 then .next (s.writePwinA i.val w) else .next s

/-! ## Map lists (R360, R361) -/

/-- Fields of an operation's 128 bits (R360). -/
def opVa (o : Nat) : Nat := bits o 47 0
def opPsz (o : Nat) : Nat := bits o 49 48
def opW (o : Nat) : Bool := o.testBit 50
def opWithdraw (o : Nat) : Bool := o.testBit 51
def opMem (o : Nat) : Nat := bits o 104 64
def opN (o : Nat) : Nat := bits o 120 105 + 1
def opEnd (o : Nat) : Nat := opVa o + opN o * pageBytes (opPsz o)

/-- Pages of an INSTALL as a run. -/
def opRun (ctx o : Nat) : PageRun := { ctx := ctx, va := opVa o, psz := opPsz o, n := opN o, mem := opMem o, w := opW o }

/-- A failing check: its code and the operation that DETAIL names. -/
abbrev MapErr := Nat × Nat

def headErr : Nat := 0xFFFFFFFF

/-- First operation of a list that fails, with its code. -/
def firstOp (f : Nat → Nat → Option Nat) : List (Nat × Nat) → Option MapErr
  | [] => none
  | (i, o) :: t =>
    match f i o with
    | some c => some (c, i)
    | none => firstOp f t

/-- Check 3 on one operation. -/
def opRangeOk (o : Nat) : Bool :=
  opPsz o != 3 && opVa o != 2 ^ 48 - 1 && (if opWithdraw o then !opW o && opMem o == 0 else opMem o != 2 ^ 41 - 1) &&
    opVa o % pageBytes (opPsz o) == 0 && (opWithdraw o || opMem o % pageBytes (opPsz o) == 0) && decide (opEnd o ≤ 2 ^ 48)

/-- Pages of a size cover a span wholly. -/
def covered (l : List PageRun) (ctx psz lo hi : Nat) : Bool :=
  ((l.filter fun p => p.ctx == ctx && p.psz == psz).map fun p => min p.end_ hi - max p.va lo).foldl (· + ·) 0 == hi - lo

/-- Check 4: overlaps and unmatched withdrawals, the operations taken in list order (log 61). -/
def checkPages (present left : List PageRun) (seen : List (Nat × Nat)) (ctx : Nat) : List (Nat × Nat) → Option MapErr
  | [] => none
  | (i, o) :: t =>
    let lo := opVa o
    let hi := opEnd o
    if opWithdraw o then
      if covered left ctx (opPsz o) lo hi then checkPages present (removeRun ctx lo hi left) seen ctx t else some (0x0693, i)
    else if (present.any fun p => p.ctx == ctx && decide (p.va < hi ∧ lo < p.end_)) || seen.any fun q => decide (q.1 < hi ∧ lo < q.2) then some (0x0693, i)
    else checkPages present left ((lo, hi) :: seen) ctx t

/-- Present pages after an operation. -/
def afterOp (ctx o : Nat) (pages : List PageRun) : List PageRun :=
  if opWithdraw o then removeRun ctx (opVa o) (opEnd o) pages else addRun (opRun ctx o) pages

/-- Tables of a context after an operation that leaves `pages` present (R351): an INSTALL adds those that it needs, a WITHDRAW returns the
empty ones. -/
def State.tablesAfter (s : State) (ctx o : Nat) (pages : List PageRun) (tabs : List PTable) : List PTable :=
  if opWithdraw o then (s.dropTables pages ctx (s.mem, tabs)).2
  else (s.addTables ctx (opVa o) (opEnd o - opVa o) (leafLevel (opPsz o)) (s.mem, tabs)).2

/-- Every table that an operation needs has found a place in the table area (R351). -/
def tablesFit (tabs : List PTable) (ctx o : Nat) : Bool :=
  opWithdraw o || (List.range (leafLevel (opPsz o))).all fun l =>
    (prefixes (l + 1) (opVa o) (opEnd o - opVa o)).all fun pre => tabs.any fun t => t.ctx == ctx && t.level == l + 1 && t.prefix_ == pre

/-- Check 6: tables and entries after each operation; the tables take the places that they get when the list is carried out. -/
def State.checkFit (s : State) (ctx part : Nat) (pages : List PageRun) (tabs : List PTable) : List (Nat × Nat) → Option MapErr
  | [] => none
  | (i, o) :: t =>
    let pages := afterOp ctx o pages
    let tabs := s.tablesAfter ctx o pages tabs
    if tablesFit tabs ctx o && decide (s.entriesOf pages part ≤ s.fld .xltSlq part 13 0) then s.checkFit ctx part pages tabs t
    else some (0x0695, i)

/-- The operations of a list, as far as it lies within its buffer. -/
def mapOps (l : List Gran) (n : Nat) : List (Nat × Nat) := ((l.drop 1).take n).mapIdx fun i g => (i, g.data.toNat)

/-- The validation of R361 on the granules of buffer 0: the first failing check, or context and operations. -/
def State.checkMap (s : State) (part : Nat) (l : List Gran) : Except MapErr (Nat × List (Nat × Nat)) :=
  match l with
  | [] => .error (0x0692, headErr)
  | h :: rest =>
    let b := h.data.toNat
    let ctx := bits b 27 16
    let n := bits b 63 32
    let ops := mapOps l n
    if h.poison then .error (0x0240, headErr)
    else if bits b 15 0 ≠ 0x504D ∨ n = 0 ∨ n > 4096 ∨ !s.ctxValid ctx ∨ s.ctxPart ctx ≠ part then .error (0x0690, headErr)
    else if bits b 31 28 ≠ 0 ∨ bits b 127 64 ≠ 0 then .error (0x0691, headErr)
    else
      match firstOp (fun i o => if (rest.getD i h).poison then some 0x0240 else if bits o 63 52 ≠ 0 ∨ bits o 127 121 ≠ 0 then some 0x0691 else none) ops with
      | some e => .error e
      | none =>
        if ops.length < n then .error (0x0692, ops.length)
        else
          match firstOp (fun _ o => if opRangeOk o then none else some 0x0692) ops with
          | some e => .error e
          | none =>
            match checkPages s.xlt.pages s.xlt.pages [] ctx ops with
            | some e => .error e
            | none =>
              match firstOp (fun _ o => if opWithdraw o || s.inRegions part (opMem o) (opMem o + opN o * pageBytes (opPsz o)) true then none else some 0x0694) ops with
              | some e => .error e
              | none =>
                match s.checkFit ctx part s.xlt.pages s.xlt.tables ops with
                | some e => .error e
                | none => .ok (ctx, ops)

/-! ## Page-table entries that the device reads (R352) -/

/-- Entries of existing tables on the way of an operation: level and address. -/
def State.pathEntries (s : State) (ctx o : Nat) : List (Nat × Nat) :=
  (List.range (leafLevel (opPsz o) + 1)).flatMap fun level =>
    let lo := opVa o / 2 ^ levelBit level
    let hi := (opEnd o - 1) / 2 ^ levelBit level
    (List.range (hi - lo + 1)).filterMap fun k => (s.entryAt s.xlt.tables ctx level ((lo + k) * 2 ^ levelBit level)).map fun e => (level, e)

/-- An entry breaks R350 or is poisoned. -/
def State.entryBad (s : State) (level a : Nat) : Bool :=
  let g := s.ownRead a
  g.poison || !entryOk level (g.data.toNat / 2 ^ (8 * (a % 16)) % 2 ^ 64)

/-- First bad entry that the device reads while it carries out a list: the operation, the level and the address (R352). -/
def State.badPath (s : State) (ctx : Nat) : List (Nat × Nat) → Option (Nat × Nat × Nat)
  | [] => none
  | (i, o) :: t =>
    match (s.pathEntries ctx o).find? fun e => s.entryBad e.1 e.2 with
    | some (level, a) => some (i, level, a)
    | none => s.badPath ctx t

/-! ## Carrying out (R362 to R365) -/

/-- An INSTALL: the table entries are written, then the pages are present on every die (R362). -/
def State.install (s : State) (ctx o : Nat) : State :=
  let r := opRun ctx o
  let st := s.putLeaves r true (s.addTables ctx r.va r.len (leafLevel r.psz) (s.mem, s.xlt.tables))
  (s.setMem st.1).setXlt { s.xlt with pages := addRun r s.xlt.pages, tables := st.2 }

/-- Dies that hold the entries of a partition's contexts (R353). -/
def State.xltDies (s : State) (p : Nat) : List Nat :=
  (List.range 60).filter fun d =>
    s.dieOk d && s.xltHolds p d

/-- Memory agents and G-dies, which hold FLOOR (R364). -/
def State.floorDies (s : State) : List Nat := (List.range 48).filter s.dieOk

/-- The submission that a list belongs to: partition, ring and sequence number. -/
structure MapBy where
  part : Nat
  ring : Nat
  seq : Nat
  deriving DecidableEq, Repr

/-- Starts the withdrawal of an operation: steps 1 and 2 of R364. -/
def State.startWithdraw (s : State) (x : MapBy) (ctx : Nat) (op : Nat × Nat) (rest : List (Nat × Nat)) (failedOp : Option Nat) : State :=
  let g := (s.ctxGen ctx).gen
  let s := s.setCtxGen ctx { s.ctxGen ctx with gen := (g + 1) % 256, wdr := true }
  let s := s.setMem (s.mem.dropFirst fun p => p.ctx == ctx && decide (p.va < opEnd op.2 ∧ opVa op.2 < p.end_))
  s.setXlt { s.xlt with
    pages := removeRun ctx (opVa op.2) (opEnd op.2) s.xlt.pages,
    withdrawals := { ctx := ctx, part := x.part, ring := x.ring, seq := x.seq, gen := g, begun := s.time.now, phase := .counting,
                     dies := s.xltDies x.part, op := op, rest := rest, failedOp := failedOp } :: s.xlt.withdrawals }

/-- Fails a map submission: its completion and, where no address is named, its record give the operation (R361, R468, R469). -/
def State.failMap (s : State) (ring seq op : Nat) (f : FaultRec) : State :=
  match s.sub? ring seq with
  | none => s
  | some x => (s.setSub { x with detail := op, done := true, ran := true }).charge ring seq 0 (if f.dkind = 0 ∧ op ≠ headErr then { f with dkind := 7, detail := op } else f)

/-- Ends a map submission whose last operation has completed: a failure where R365 was met (R362, R365). -/
def State.endMap (s : State) (ring seq : Nat) (failedOp : Option Nat) : State :=
  match failedOp, s.sub? ring seq with
  | some i, some x => if x.code = 0 then s.endWith x 0x0410 i else s.finish ring seq
  | _, _ => s.finish ring seq

/-- Carries out operations up to the next withdrawal, which runs on by itself (R362). -/
def State.runOps (s : State) (x : MapBy) (ctx : Nat) (failedOp : Option Nat) : List (Nat × Nat) → State
  | [] => s.endMap x.ring x.seq failedOp
  | (i, o) :: t => if opWithdraw o then s.startWithdraw x ctx (i, o) t failedOp else (s.install ctx o).runOps x ctx failedOp t

/-- A list of the admitting H-die's map queue is being carried out (R362). -/
def State.mapBusy (s : State) (h : Nat) : Bool := s.xlt.withdrawals.any fun w => s.admitH w.part == h

/-- MAP_LIST (R27, R28, R324, R352, R360 to R362): validates the list and carries it out; `list` is what a list in host memory reads as.
`badEntry` is an entry that the device finds to break R350 or poisoned though nothing in memory says so: level and address, with the operation
that reads it. -/
def execMapList (ring : Fin 4096) (seq : Word) (list : List Gran) (bad : List Blemish) (edges : List EdgeErr) (badEntry : Option (Nat × BitVec 41 × Fin 4))
    (s : State) : Outcome State Fault Refusal :=
  match s.runnable ring.val seq.toNat 0x82 with
  | none => .next s
  | some x =>
    if s.mapBusy (s.admitH x.part) then .next s
    else
      let n := x.buf0.len / 16
      let (l, _, s) : Option (List Gran) × Nat × State :=
        if x.buf0.dev then s.readOver (Who.die_ (dieH (s.admitH x.part))) x.ctx x.buf0.addr n bad edges
        else
          let (l, s) := s.readList x list
          (some l, 0, s)
      match l with
      | none => .next (s.setSub { x with ran := true })
      | some l =>
      match s.checkMap x.part l with
      | .error (c, i) => .next (s.failMap x.ring x.seq i (tableFault s x.part c))
      | .ok (ctx, ops) =>
        let bad := match badEntry with
          | some (i, a, level) => some (i, level.val, a.toNat)
          | none => s.badPath ctx ops
        match bad with
        | some (i, level, a) =>
          .next (s.failMap x.ring x.seq i { tableFault s x.part 0x0696 with ctx := some ctx, dkind := 1, detail := a, aux := level })
        | none => .next ((s.setSub { x with ran := true }).runOps { part := x.part, ring := x.ring, seq := x.seq } ctx none ops)

/-! ## Withdrawal (R363 to R365) -/

/-- Die of a step that waits for a host or a remote answer. -/
def State.ustepDie (s : State) (u : UStep) : Option Nat := ((s.part u.part).image).map fun im => im.stepDie (im.step u.r.step)

/-- Requests of a context outstanding under a generation on a die, by their instances (R363). -/
def State.outstanding (s : State) (ctx gen die : Nat) : List (Nat × Nat) :=
  ((s.xfers.filter fun x => x.ctx == ctx && x.gen == gen && x.core / 8 == die && !x.pages.isEmpty).map fun x => (x.r.ring.val, x.r.seq.toNat)) ++
  ((s.gsteps.filter fun g => g.ctx == ctx && dieG g.gdie == die && g.keys.any fun (k : GKey) => k.away && !k.remote && k.gen == gen).map fun g =>
    (g.r.ring.val, g.r.seq.toNat)) ++
  ((s.usteps.filter fun u => u.ctx == ctx && u.gen == gen && s.ustepDie u == some die && !u.pages.isEmpty).map fun u => (u.r.ring.val, u.r.seq.toNat))

def State.setWithdraw (s : State) (w : Withdraw) : State :=
  s.setXlt { s.xlt with withdrawals := s.xlt.withdrawals.map fun v => if v.ctx == w.ctx then w else v }

def State.withdrawOf (s : State) (ctx : Nat) (ph : WdPhase) : Option Withdraw :=
  s.xlt.withdrawals.find? fun w => w.ctx == ctx && w.phase == ph

/-- Step 4 of R364: FLOOR moves at every memory agent and G-die. -/
def State.moveFloor (s : State) (w : Withdraw) : State :=
  let s := s.setCtxGen w.ctx { s.ctxGen w.ctx with floor := (w.gen + 1) % 256 }
  s.setWithdraw { w with phase := .flooring, dies := s.floorDies }

/-- WITHDRAW_COUNT_REPORT (R364): a die whose count for the generation is zero reports it; with the last one FLOOR moves. -/
def execWithdrawCountReport (ctx : Fin 4096) (die : Fin 64) (s : State) : Outcome State Fault Refusal :=
  match s.withdrawOf ctx.val .counting with
  | none => .next s
  | some w =>
    if w.dies.contains die.val ∧ (s.outstanding ctx.val w.gen die.val).isEmpty then
      let w := { w with dies := w.dies.filter (· != die.val) }
      .next (if w.dies.isEmpty then s.moveFloor w else s.setWithdraw w)
    else .next s

/-- WITHDRAW_TIMEOUT (R364, R365): where a count is not zero, 0x0410 is recorded and charged to the instances with requests outstanding; the
withdrawal goes on. -/
def execWithdrawTimeout (ctx : Fin 4096) (s : State) : Outcome State Fault Refusal :=
  match s.withdrawOf ctx.val .counting with
  | none => .next s
  | some w =>
    if s.time.now < w.begun + 10000 then .next s
    else
      let f := { tableFault s w.part 0x0410 with ctx := some ctx.val }
      let hit := (w.dies.flatMap fun d => s.outstanding ctx.val w.gen d).dedup
      if hit = [] then .next (s.moveFloor w) else
      let s := s.raise f
      let s := hit.foldl (fun s q => s.charge q.1 q.2 0 f) s
      .next (s.moveFloor { w with failedOp := some (w.failedOp.getD w.op.1) })

/-- Step 5 of R364: entries are cleared, empty tables are returned, and the list goes on. -/
def State.endWithdraw (s : State) (w : Withdraw) : State :=
  let o := w.op.2
  let st := s.dropTables s.xlt.pages w.ctx (s.putLeaves (opRun w.ctx o) false (s.mem, s.xlt.tables))
  let s := (s.setMem st.1).setXlt { s.xlt with tables := st.2, withdrawals := s.xlt.withdrawals.filter (·.ctx != w.ctx) }
  let s := s.setCtxGen w.ctx { s.ctxGen w.ctx with wdr := false }
  s.runOps { part := w.part, ring := w.ring, seq := w.seq } w.ctx w.failedOp w.rest

/-- FLOOR_ACK (R364): with the last acknowledgement the withdrawal completes. -/
def execFloorAck (ctx : Fin 4096) (die : Fin 64) (s : State) : Outcome State Fault Refusal :=
  match s.withdrawOf ctx.val .flooring with
  | none => .next s
  | some w =>
    if w.dies.contains die.val then
      let w := { w with dies := w.dies.filter (· != die.val) }
      .next (if w.dies.isEmpty then (s.setWithdraw w).endWithdraw w else s.setWithdraw w)
    else .next s

end Sys2Proof.Machine
end

