-- ==== Sys2Proof/Machine/Links.lean ====
section
/-! DEFINITION. The Vestad transport: frames, connections, acknowledgement, and the issue of requests to the pool (R415 to R427, R431,
R432, R444). -/

namespace Sys2Proof.Machine

open Sys2Proof Host

/-! ## Identity and frames (R418 to R420) -/

def State.devId (s : State) : Nat := s.fld .vstId 0 15 0
def State.devIdValid (s : State) : Bool := s.flag .vstId 0 16

/-- H-die that presents the CXL member with an ID (R439). -/
def State.memberOf (s : State) (id : Nat) : Option Nat :=
  (List.range 4).find? fun h => s.flag .vstCxl h 16 && s.fld .vstCxl h 15 0 == id

/-- An ID under which this device receives frames (R422). -/
def State.isSelf (s : State) (id : Nat) : Bool := s.devIdValid && (id == s.devId || (s.memberOf id).isSome)

/-- A frame with every field 0 but its class, operation and the two devices. -/
def frame0 (cls : FrameClass) (op src dst : Nat) : Frame :=
  { cls := cls, op := op, src := BitVec.ofNat 16 src, dst := BitVec.ofNat 16 dst, fence := false, timed := false, last := false,
    seq := 0, ack := 0, reqSeq := 0, status := 0, aop := 0, asz := false, offset := 0, issue := 0, bytes := 0, payload := [], bad := [] }

/-- Device ports of an F-die that its configuration gives it (R415). -/
def State.portsOf (s : State) (f : Nat) : List Nat :=
  (List.range (if s.flag .vstPortCfg f 0 then 4 else 8)).map (8 * f + ·)

/-- Up ports of an F-die, rising (R427). -/
def State.upOf (s : State) (f : Nat) : List Nat := (s.portsOf f).filter fun q => (s.fport q).link ≥ 2

/-- Unit-history count of a port (R525): DROPPED frames at 0xC0, DISCARDED responses at 0xC4. -/
def State.countPort (s : State) (q off : Nat) : State := s.bump (dieF (q / 8)) (0x20 + q % 8) off (2 ^ 32 - 1) 1

/-- A record of a device port (R523). -/
def devPortFault (s : State) (q code : Nat) : FaultRec := FaultRec.new s code (some (dieF (q / 8))) (0x20 + q % 8)

/-- MAC address of port `q` of a device: PREFIX, the port, and the device ID's two bytes, octet 0 in the low byte (R419). -/
def State.mac (s : State) (q dev : Nat) : BitVec 48 :=
  BitVec.ofNat 48 (pack [(0, 24, s.fld .vstMac 0 23 0), (24, 8, q), (32, 8, dev / 256), (40, 8, dev)])

/-- The group address 01-80-C2-00-00-0E of link HELLO frames (R422). -/
def groupMac : BitVec 48 := 0x0E0000C28001

/-- Where a frame goes from port `q`: to its peer's port of the same plane, or a link HELLO to the group address (R417, R419, R422). -/
def State.macTo (s : State) (q : Nat) (f : Frame) : BitVec 48 := if f.cls = .hello ∧ f.op = 1 then groupMac else s.mac q f.dst.toNat

def FrameClass.code (c : FrameClass) : Nat := match c with | .req => 0 | .rsp => 1 | .ack => 2 | .fm => 3 | .hello => 4

/-- The 48 bytes of a frame's header, with VER 1, GRANULES and HCHK (R420). -/
def Frame.header (f : Frame) : List Byte :=
  let bs := leBytes 44 (pack [(0, 4, 1), (4, 4, FrameClass.code f.cls), (8, 8, f.op), (16, 16, f.src.toNat), (32, 16, f.dst.toNat), (48, 1, bnat f.fence),
    (49, 1, bnat f.timed), (50, 1, bnat f.last), (64, 32, f.seq.toNat), (96, 32, f.ack.toNat), (128, 32, f.reqSeq.toNat), (160, 16, f.status.toNat),
    (176, 8, f.payload.length), (184, 4, f.aop.toNat), (188, 1, bnat f.asz), (192, 48, f.offset.toNat), (256, 64, f.issue.toNat), (320, 32, f.bytes.toNat)])
  bs ++ leBytes 4 (crc32c bs)

/-- The bytes of a frame after its EtherType: the header, and each granule with its two check bytes (R320, R420). -/
def Frame.wire (f : Frame) : List Byte := Frame.header f ++ f.payload.flatMap fun g => granBytes g ++ leBytes 2 (storedCheck g)

/-- A frame leaves a port with the EtherType of VST_CTRL; nothing leaves until VST_ID.V is 1 (R418, R420). -/
def State.tx (s : State) (q : Nat) (f : Frame) : State :=
  if s.devIdValid then s.emit (.frame q (s.macTo q f) (s.mac q s.devId) (BitVec.ofNat 16 (s.fld .vstCtrl 0 31 16)) f (Frame.wire f)) else s

/-! ## Connections (R423 to R426) -/

def State.conn? (s : State) (q peer self_ : Nat) : Option Conn := s.fab.conns.find? fun c => c.port == q && c.peer == peer && c.self_ == self_

def Conn.same (a b : Conn) : Bool := a.port == b.port && a.peer == b.peer && a.self_ == b.self_

def State.setConn (s : State) (c : Conn) : State :=
  s.setFab { s.fab with conns := c :: s.fab.conns.filter fun d => !c.same d }

def State.dropConn (s : State) (c : Conn) : State := s.setFab { s.fab with conns := s.fab.conns.filter fun d => !c.same d }

/-- The connect HELLO of R423: one granule with the cold-boot count. -/
def State.hello (s : State) (c : Conn) : Frame :=
  { frame0 .hello 2 c.self_ c.peer with payload := [{ data := BitVec.ofNat 128 (s.boot.colds % 2 ^ 32), poison := false }] }

/-- The F-die holds a connection more (R423). -/
def State.connRoom (s : State) (f : Nat) : Bool := decide ((s.fab.conns.filter fun c => c.port / 8 == f).length < 16384)

def State.newConn (s : State) (q peer self_ : Nat) (open_ : Bool) : Conn :=
  { port := q, peer := peer, self_ := self_, open_ := open_, helloAt := s.time.now, nextSeq := 0, expSeq := 0, unacked := [],
    lastFrame := s.time.now, ackDue := none, peerBoot := 0, parts := [] }

/-- Sends the frames of an open connection that have not been sent, within the 1,024 unacknowledged ones (R424). -/
def State.pump (s : State) (c : Conn) : State :=
  if !c.open_ then s.setConn c
  else
    let out := (c.unacked.take 1024).filter (·.sent.isNone)
    let c' := { c with unacked := c.unacked.mapIdx fun i (u : Unacked) => if i < 1024 && u.sent.isNone then { u with sent := some s.time.now } else u,
                       ackDue := if out.isEmpty then c.ackDue else none, lastFrame := if out.isEmpty then c.lastFrame else s.time.now }
    out.foldl (fun s u => s.tx c.port { u.f with ack := BitVec.ofNat 32 c.expSeq }) (s.setConn c')

/-- Numbers frames on a connection and queues them (R424). -/
def Conn.queue (c : Conn) (now : Nat) : List Frame → Conn
  | [] => c
  | f :: t =>
    Conn.queue { c with unacked := c.unacked ++ [{ f := { f with seq := BitVec.ofNat 32 c.nextSeq }, born := now, sent := none }],
                        nextSeq := (c.nextSeq + 1) % 2 ^ 32 } now t

/-- Sends frames to a peer from a port, opening a connection where none is (R423): the SEQ of the first, none where the table is full (R426). -/
def State.sendOn (s : State) (q peer self_ : Nat) (fs : List Frame) : Option (Nat × State) :=
  match s.conn? q peer self_ with
  | some c => some (c.nextSeq, s.pump (c.queue s.time.now fs))
  | none =>
    if s.connRoom (q / 8) then
      let c := s.newConn q peer self_ false
      some (0, (s.tx q (s.hello c)).pump (c.queue s.time.now fs))
    else none

/-- A send finds the connection table of its F-die full (R426). -/
def State.connFull (s : State) (q : Nat) : State := (s.setBit .vstEvt 0 5).raise (devPortFault s q 0x0804)

/-- Answers by the port on which a request arrived (R427): nothing leaves a port that is down, and a send to a peer that is down fails
(R442, R447). -/
def State.answer (s : State) (q peer self_ : Nat) (fs : List Frame) : State :=
  if s.fab.downPeers.contains peer then s.raise (devPortFault s q 0x0803)
  else if (s.fport q).link < 2 then s
  else
    match s.sendOn q peer self_ fs with
    | some (_, s) => s
    | none => s.connFull q

/-- The difference a − b modulo 2^32 counts frames that lie before `a`. -/
def ackedBy (ack seq : Nat) : Bool := let d := diff32 ack seq; decide (0 < d ∧ d < 2 ^ 31)

/-- An acknowledgement removes the frames before it (R424). -/
def Conn.acked (c : Conn) (ack : Nat) : Conn := { c with unacked := c.unacked.filter fun u => !(u.sent.isSome && ackedBy ack u.f.seq.toNat) }

/-! ## Requests (R427, R431, R432, R444) -/

/-- The code with which a send to a peer through an F-die fails at issue, 0 for none (R432, R444, R447). -/
def State.peerBar (s : State) (peer f : Nat) (timed : Bool) : Nat :=
  if s.isSelf peer then 0
  else if s.fab.downPeers.contains peer then 0x0803
  else if (s.upOf f).isEmpty then 0x0809
  else if timed && !(match s.fab.peerTime.find? fun p => p.1 == peer with | none => true | some (_, t) => t == 2 || t == 3) then 0x0805
  else 0

/-- The same for a context, which needs POOL_EN (R371, R427). -/
def State.sendBar (s : State) (ctx peer f : Nat) (timed : Bool) : Nat := if s.flag .xltCtxA ctx 10 then s.peerBar peer f timed else 0x0430

/-- The up port of an F-die by which requests to a device leave (R427). -/
def State.portTo (s : State) (f peer : Nat) : Nat := (s.upOf f).getD (peer % (s.upOf f).length) 0

/-- Sends a request's frames, issued at a tick, through an F-die: the code of a failed send, or the request as it is recorded. -/
def State.sendRequest (s : State) (purpose : RemoteFor) (f peer part ctx issue : Nat) (timed : Bool) (fs : List Frame) : Except Nat Nat × State :=
  let bar := s.sendBar ctx peer f timed
  let op := match fs with | x :: _ => x.op | [] => 0
  let mk (q seq : Nat) : RemoteReq :=
    { id := s.nextId, purpose := purpose, op := op, peer := peer, port := q, reqSeq := seq, part := part, ctx := ctx, issue := issue, got := [] }
  if bar ≠ 0 then (.error bar, s)
  else if s.isSelf peer then
    let id := s.nextId
    let fs := fs.map fun x => { x with seq := BitVec.ofNat 32 id }
    let s := s.setFab { s.fab with loop := s.fab.loop ++ fs.map (fun x => (8 * f, x)), reqs := mk (8 * f) (id % 2 ^ 32) :: s.fab.reqs }
    (.ok id, (s.setNextId (id + 1)))
  else
    let q := s.portTo f peer
    match s.sendOn q peer s.devId fs with
    | none => (.error 0x0804, s.setBit .vstEvt 0 5)
    | some (seq, t) =>
      let r := mk q seq
      let t := t.setFab { t.fab with reqs := r :: t.fab.reqs }
      (.ok r.id, (t.setNextId (s.nextId + 1)))

/-- A request frame of this device. -/
def State.reqFrame (s : State) (op peer off bytes : Nat) : Frame :=
  { frame0 .req op s.devId peer with offset := BitVec.ofNat 48 off, issue := BitVec.ofNat 64 s.time.now, bytes := BitVec.ofNat 32 bytes, last := true }

def State.dropReq (s : State) (id : Nat) : State := s.setFab { s.fab with reqs := s.fab.reqs.filter (·.id != id) }

/-! ## Receipt (R422 to R424) -/

/-- What becomes of a numbered frame that arrives on a port. -/
inductive Receipt where
  | dropped (s : State)
  | taken (s : State)

/-- A frame that fails R422 or R447 on arrival: it is dropped and counted. -/
def State.refuseFrame (s : State) (q : Nat) : State := s.countPort q 0xC0

/-- The port carries Vestad, the frame is for this device, and its peer is not down (R418, R422, R447). -/
def State.frameOk (s : State) (q : Nat) (f : Frame) : Bool :=
  decide ((s.fport q).link ≥ 2) && s.isSelf f.dst.toNat && !s.fab.downPeers.contains f.src.toNat

/-- Payload granules as they are delivered: an uncorrectable one poisoned (R422). -/
def Frame.grans (f : Frame) : List Gran := f.payload.mapIdx fun i (g : Gran) => if f.bad.contains i then { g with poison := true } else g

/-- Records the payload granules of a frame that decode as uncorrectable (R422). -/
def State.badGrans (s : State) (q : Nat) (f : Frame) : State :=
  (f.bad.filter (· < f.payload.length)).foldl (fun s _ => s.raise (devPortFault s q 0x0108)) s

/-- A REQ or RSP from a peer with no open connection is dropped and answered with a HELLO, which is sent again until it is answered (R423). -/
def State.wantHello (s : State) (q peer self_ : Nat) : State :=
  match s.conn? q peer self_ with
  | some c => (s.setConn { c with helloAt := s.time.now }).tx q (s.hello c)
  | none =>
    if s.connRoom (q / 8) then
      let c := s.newConn q peer self_ false
      (s.setConn c).tx q (s.hello c)
    else s.connFull q

/-- Receives a REQ, RSP or FM frame: only the frame whose SEQ is expected is delivered (R423, R424). -/
def State.receive (s : State) (q : Nat) (f : Frame) : Receipt :=
  if !s.frameOk q f then .dropped (s.refuseFrame q)
  else
    let peer := f.src.toNat
    let self_ := f.dst.toNat
    match (s.conn? q peer self_).filter (·.open_) with
    | none => .dropped (if f.cls = .fm then s.refuseFrame q else (s.refuseFrame q).wantHello q peer self_)
    | some c =>
      let c := { c.acked f.ack.toNat with lastFrame := s.time.now }
      if f.seq.toNat ≠ c.expSeq then .dropped ((s.refuseFrame q).pump c)
      else .taken ((s.badGrans q f).pump { c with expSeq := (c.expSeq + 1) % 2 ^ 32, ackDue := some (c.ackDue.getD s.time.now) })

/-- A request of this device on its way through the loop of an F-die (R371). -/
def State.loops (s : State) (q : Nat) (f : Frame) : Bool := s.fab.loop.contains (q, f)

end Sys2Proof.Machine
end

