-- ==== Sys2Proof/Machine/Extents.lean ====
section
/-! DEFINITION. Row extents as a G-die reads them (R218 to R224, R251, R359, R441), and its row cache (R233 to R236). -/

namespace Sys2Proof.Machine

open Sys2Proof Host

/-! ## Rows (R219 to R224) -/

/-- Element format of a tier (R219). -/
def tierFmt (tier : Nat) : Fmt := match tier with | 0 => .bf16 | 1 => .e4m3 | 2 => .int8 | _ => .int4

/-- Lines that a read of a row takes, whatever its own tier (R221). -/
def rowLines (twide dim : Nat) : Nat := ceilDiv (16 + tierBytes twide dim) 256

/-- Row header (R220). -/
structure RowHdr where
  version : Nat
  width : Nat
  tier : Nat
  opt : Nat
  tableId : Nat
  scale : Nat
  deriving DecidableEq, Repr

def RowHdr.of (n : Nat) : RowHdr :=
  { version := bits n 31 0, width := bits n 41 32 + 1, tier := bits n 43 42, opt := bits n 45 44, tableId := bits n 63 48, scale := bits n 95 64 }

/-- The header as a device engine writes it: reserved fields 0 (R220). -/
def RowHdr.word (h : RowHdr) : Nat :=
  pack [(0, 32, h.version), (32, 10, h.width - 1), (42, 2, h.tier), (44, 2, h.opt), (48, 16, h.tableId), (64, 32, h.scale)]

/-- What a table entry, or an update record, says of its table (R216, R251). -/
structure RowKind where
  tableId : Nat
  dim : Nat
  twide : Nat
  opt : Nat
  stride : Nat
  deriving DecidableEq, Repr

def TableEntry.kind (e : TableEntry) : RowKind := { tableId := e.tableId, dim := e.dim, twide := e.twide, opt := e.opt, stride := e.stride }

/-- The header check of R222. -/
def RowKind.hdrOk (k : RowKind) (h : RowHdr) : Bool := h.width == k.dim && h.opt == k.opt && h.tableId == k.tableId && decide (k.twide ≤ h.tier)

/-- v_j of an element of a tier under SCALE (R224). -/
def rowElem (tier scale b : Nat) : Nat :=
  let f := tierFmt tier
  if tier = 0 then convert .bf16 .fp32 0 0 b
  else Fmt.pat .fp32 (fpMul (if f.isInt then fpOfInt (f.intVal b) else f.value b) (f32 scale))

/-- The values v_j of a row from the granules of its extent (R219, R224). -/
def rowVals (l : List Gran) (h : RowHdr) (dim : Nat) : List Nat :=
  let w := (tierFmt h.tier).bits
  (List.range dim).map fun j => rowElem h.tier h.scale (gransElem l w (128 / w + j)).v

/-- Home G-die of a pseudo-channel's stack (R16). -/
def homeG (pc : Nat) : Nat := pcDie pc / 2

/-! ## Reading an extent -/

/-- The code with which a G-die refuses a line of an extent at a memory address: not on a home stack in service, or not the context's
(R223, R359); 0 where the request goes to the memory agent. -/
def State.extentCode (s : State) (g ctx gen a : Nat) : Nat :=
  match s.regionOf a with
  | none => 0
  | some i =>
    match (s.region i).place a none with
    | none => 0
    | some (pc, _) =>
      if homeG pc ≠ g ∨ !s.dieOk (dieG g) then 0x04C0 else if !s.ownerOk ctx gen (s.region i).owner then 0x0404 else 0

/-- Reads a line of an extent for its home G-die: its granules, the code with which it fails, and the state (R223, R359). -/
def State.extentLine (s : State) (g ctx : Nat) (tr : Nat → Bool → Except Nat (Nat × Nat)) (va : Nat) (upset : List Upset) : List Gran × Nat × State :=
  match tr va false with
  | .error c => (poisonLine, c, s)
  | .ok (a, gen) =>
    let q : Req := { addr := a, ctx := ctx, gen := gen, die := dieG g, cdie := none, upd := false }
    let code := s.extentCode g ctx gen a
    if code ≠ 0 then (poisonLine, code, s)
    else
      let s := match s.agentCheck q false with
        | .ok (_, pc, line) => if s.deaf pc then s else s.readUpsets pc line (a / 256 * 256) (some ctx) upset
        | .error _ => s
      s.agentRead q

/-- Reads `n` lines of an extent. Answers the granules, the first code met and the state; `upset` numbers granules over the extent. -/
def State.extentLines (s : State) (g ctx : Nat) (tr : Nat → Bool → Except Nat (Nat × Nat)) (va : Nat) (upset : List Upset) (i : Nat) : Nat → List Gran × Nat × State
  | 0 => ([], 0, s)
  | n + 1 =>
    let mine := (upset.filter fun u => u.gran / 16 == i).map fun u => { u with gran := u.gran % 16 }
    let (l, c, s) := s.extentLine g ctx tr va mine
    let (t, c', s) := s.extentLines g ctx tr (va + 256) upset (i + 1) n
    (l ++ t, if c ≠ 0 then c else c', s)

/-- Home G-die of the line that a translation gives (R251), none where it has none. -/
def State.homeOf (s : State) (tr : Nat → Bool → Except Nat (Nat × Nat)) (va : Nat) : Option Nat :=
  match tr va false with
  | .error _ => none
  | .ok (a, _) => (s.ownPlace a).map fun p => homeG p.1

/-- Memory address of the first line of an extent of `n` lines that does not lie on the home stacks of a G-die (R223, R314). -/
def State.strayLine (s : State) (g : Nat) (tr : Nat → Bool → Except Nat (Nat × Nat)) (va n : Nat) : Option Nat :=
  (List.range n).findSome? fun i =>
    match tr (va + 256 * i) false with
    | .error _ => none
    | .ok (a, _) => match s.ownPlace a with
      | some (pc, _) => if homeG pc = g then none else some a
      | none => none

/-! ## The row cache (R233 to R236) -/

/-- A row as the ways of one partition on one G-die know it; `place` is 0 for a local row, and otherwise its place in the pool plus 1, so that
a lookup never takes a line of another row of that TABLE_ID (R231). -/
structure CRow where
  gdie : Nat
  part : Nat
  tableId : Nat
  index : Nat
  place : Nat
  deriving DecidableEq, Repr

/-- Ways of a G-die's row cache that a partition owns. -/
def State.rways (s : State) (g part : Nat) : List Nat := (List.range 16).filter fun w => s.wayOwner .gthRway g w == some part

/-- Set of a line (R233). -/
def CRow.set (r : CRow) (line : Nat) : Nat := Config.rowHash r.tableId r.index line % 49152

/-- A cached line belongs to a row. -/
def State.ofRow (s : State) (r : CRow) (l : RLine) : Bool :=
  l.gdie == r.gdie && (s.rways r.gdie r.part).contains l.way && l.tableId == r.tableId && l.index == r.index && l.place == r.place

/-- The cached line of a row. -/
def State.rline (s : State) (r : CRow) (line : Nat) : Option RLine := s.mem.rlines.find? fun l => s.ofRow r l && l.line == line

/-- The way of lowest FREQ of a partition in a set, the least recently used of several, with its FREQ (R234). -/
def State.coldWay (s : State) (g part set : Nat) : Option (Nat × Nat) :=
  let at_ := fun w => s.mem.rlines.find? fun l => l.gdie == g && l.way == w && l.set == set
  let key := fun w : Nat => match at_ w with | some l => (l.freq + 1) * 2 ^ 64 + l.used | none => 0
  match sortBy key (s.rways g part) with
  | [] => none
  | w :: _ => some (w, match at_ w with | some l => l.freq | none => 0)

/-- Unit-history counters of a row-cache bank: bank b holds way b (R523, R525). -/
def State.countCache (s : State) (g way off : Nat) : State := s.bump (dieG g) (0x10 + way) off (2 ^ 64 - 1) 1

/-- Errors that a lookup finds in a cached line (R236, R325): whether the line still serves. One that is uncorrectable empties the line. The
byte offset in the record is the model's layout of the cache (log 38). -/
def State.meetCache (s : State) (l : RLine) : List Upset → Bool × State
  | [] => (true, s)
  | u :: t =>
    let g := l.data.getD u.gran { data := 0, poison := false }
    let f (code : Nat) : FaultRec :=
      { FaultRec.new s code (some (dieG l.gdie)) (0x10 + l.way) with dkind := 9, detail := 4096 * l.set + 256 * l.way + 16 * u.gran + 4 * 2 ^ 32 }
    let data := Nat.xor g.data.toNat u.data.toNat
    let o := decodeWord data (Nat.xor (storedCheck g) u.check.toNat)
    let l' := { l with data := l.data.set u.gran (o.gran data) }
    let kept := s.setMem { s.mem with rlines := s.mem.rlines.map fun x => if x = l then l' else x }
    match o with
    | .clean => kept.meetCache l' t
    | .corrected .. => (kept.raise (f 0x0101)).meetCache l' t
    | .uncorrectable | .poisoned =>
      let s := s.setMem { s.mem with rlines := s.mem.rlines.filter (· != l) }
      (false, ((s.bump (dieG l.gdie) (0x10 + l.way) 0xC0 (2 ^ 32 - 1) 1).countCache l.gdie l.way 0xD8).raise (f 0x0103))

/-- A lookup of a line (R234, R236): whether it serves. A hit raises FREQ, but not where an earlier fetch of the descriptor has (`again`). -/
def State.lookLine (s : State) (r : CRow) (line : Nat) (again : Bool) (bad : List Upset) : Bool × State :=
  match s.rline r line with
  | some l =>
    match s.meetCache l bad with
    | (false, s) => (false, s)
    | (true, s) =>
      let s := s.setMem { s.mem with rlines := s.mem.rlines.map fun x =>
        if (s.ofRow r x) && x.line == line then { x with freq := if again then x.freq else min 15 (x.freq + 1), used := s.time.now } else x }
      (true, s.countCache r.gdie l.way 0xC8)
  | none =>
    match s.coldWay r.gdie r.part (r.set line) with
    | some (w, _) => (false, s.countCache r.gdie w 0xD0)
    | none => (false, s)

/-- A missed line is filled where the coldest way allows it; otherwise the set's counts fall (R234). -/
def State.fillLine (s : State) (r : CRow) (line : Nat) (data : List Gran) : State :=
  let set := r.set line
  match s.coldWay r.gdie r.part set with
  | none => s
  | some (w, f) =>
    if f ≤ 1 then
      let l : RLine := { gdie := r.gdie, way := w, set := set, tableId := r.tableId, index := r.index, line := line, freq := 1, place := r.place, used := s.time.now, data := data }
      s.setMem { s.mem with rlines := l :: s.mem.rlines.filter fun x => !(x.gdie == r.gdie && x.way == w && x.set == set) }
    else
      s.setMem { s.mem with rlines := s.mem.rlines.map fun x =>
        if x.gdie == r.gdie && x.set == set && (s.rways r.gdie r.part).contains x.way then { x with freq := x.freq - 1 } else x }

/-- Fills the lines of a row from `i` on that are not cached. -/
def State.fillLines (s : State) (r : CRow) (l : List Gran) (i : Nat) : Nat → State
  | 0 => s
  | n + 1 => (if (s.rline r i).isSome then s else s.fillLine r i ((l.drop (16 * i)).take 16)).fillLines r l (i + 1) n

/-- Fills the `n` lines of a row. Lines of it that are cached take the new contents, and those beyond go, so that the cache never holds lines
of two versions of one remote row (R235). -/
def State.fillRow (s : State) (r : CRow) (l : List Gran) (n : Nat) : State :=
  let s := s.setMem { s.mem with rlines := (s.mem.rlines.filter fun x => !(s.ofRow r x && decide (n ≤ x.line))).map fun x =>
    if (s.ofRow r x) then { x with data := (l.drop (16 * x.line)).take 16 } else x }
  s.fillLines r l 0 n

/-- At a saddle every FREQ is halved and cached remote lines are invalid (R234, R235). -/
def State.ageCache (s : State) : State :=
  s.setMem { s.mem with rlines := (s.mem.rlines.filter (·.place == 0)).map fun l => { l with freq := l.freq / 2 } }

end Sys2Proof.Machine
end

