-- ==== Sys2Proof/Machine/Gather.lean ====
section
/-! DEFINITION. Gathers: the gather list, sort and deduplication, local and remote fetches, pooling and output (07; R100, R104 and R105 of 03). -/

namespace Sys2Proof.Machine

open Sys2Proof Host

/-! ## The gather list (R226, R227) -/

/-- Header and entries as the G-die reads them. -/
structure GHead where
  magic : Nat
  nTab : Nat
  total : Nat
  dropOff : Nat
  deriving DecidableEq, Repr

def GHead.of (n : Nat) : GHead := { magic := bits n 15 0, nTab := bits n 23 16, total := bits n 63 32, dropOff := bits n 95 64 }

structure GEntry where
  nIdx : Nat
  nBags : Nat
  idxOff : Nat
  lenOff : Nat
  deriving DecidableEq, Repr

def GEntry.of (n : Nat) : GEntry := { nIdx := bits n 31 0, nBags := bits n 63 32, idxOff := bits n 95 64, lenOff := bits n 127 96 }

/-- Output rows of a table (R243). -/
def TableEntry.outRows (e : TableEntry) (g : GEntry) : Nat := if e.pool = 0 then g.nIdx else g.nBags

/-- Rows of `n` that receiving C-die `c` of `k` takes under striping (R243). -/
def stripeRows (n stripe k c : Nat) : Nat :=
  let per := stripe * k
  n / per * stripe + min stripe (n % per - c * stripe)

/-- Largest number of output rows on one receiving C-die. -/
def TableEntry.worstRows (e : TableEntry) (d : GatherD) (n : Nat) : Nat :=
  if e.dist then maxOf ((List.range d.cN).map (stripeRows n e.stripe d.cN)) else n

def allOnes32 : Nat := 2 ^ 32 - 1

/-- Bag lengths of an entry. -/
def bagsOf (l : List Gran) (e : GEntry) : List Nat := (List.range e.nBags).map fun i => (gransNat l (e.lenOff + 4 * i) 4).getD 0

/-- Signed indices of an entry (R218, R226). -/
def indicesOf (l : List Gran) (e : GEntry) : List Int := (List.range e.nIdx).map fun i => sext 64 ((gransNat l (e.idxOff + 8 * i) 8).getD 0)

/-- Check 3 of R227 on one entry. -/
def GEntry.placed (e : GEntry) (len : Nat) : Bool :=
  e.nIdx != allOnes32 && e.nBags != allOnes32 && e.idxOff != allOnes32 && e.lenOff != allOnes32 && e.idxOff % 8 == 0 && e.lenOff % 4 == 0 &&
    decide (e.idxOff + 8 * e.nIdx ≤ len) && decide (e.lenOff + 4 * e.nBags ≤ len) && (e.nBags != 0 || e.lenOff == 0)

/-- The validation of R227 on the granules of a buffer: 0, or the code of the first check that fails. A poisoned granule fails the check
that reads it (R474); index arrays are read after the last check, before any fetch. `len` is the buffer's length in bytes (R578). -/
def listCode (l : List Gran) (len : Nat) (d : GatherD) (tabs : List TableEntry) : Nat :=
  let at_ := d.listOff
  if len < at_ + 3 then 0x0662
  else
    let h := (gransNat l at_ 16).getD 0
    let hd := GHead.of h
    let raws := (List.range d.nTab).map fun t => gransNat l (at_ + 16 + 16 * t) 16
    let es := raws.map fun r => GEntry.of (r.getD 0)
    let pairs := es.zip tabs
    if gransPoison l at_ 16 then 0x0240
    else if hd.magic ≠ 0x4C47 ∨ hd.nTab ≠ d.nTab then 0x0660
    else if len < at_ + 16 then 0x0662
    else if bits h 31 24 ≠ 0 ∨ bits h 127 96 ≠ 0 then 0x0661
    else if raws.any (·.isNone) ∨ at_ + 16 + 16 * d.nTab > len then 0x0662
    else if gransPoison l (at_ + 16) (16 * d.nTab) then 0x0240
    else if hd.total = allOnes32 ∨ hd.dropOff = allOnes32 ∨ hd.dropOff % 16 ≠ 0 ∨ hd.dropOff + 4 * d.nTab > len ∨ !es.all (·.placed len) then 0x0662
    else if !(es.all fun e => decide (e.nIdx ≤ 2 ^ 20 ∧ e.nBags ≤ 2 ^ 20)) || (es.map (·.nIdx)).foldl (· + ·) 0 != hd.total || decide (hd.total > d.maxIdx) then 0x0663
    else if pairs.any fun p => p.2.pool != 0 && gransPoison l p.1.lenOff (4 * p.1.nBags) then 0x0240
    else if pairs.any fun p => if p.2.pool = 0 then p.1.nBags != 0 else (bagsOf l p.1).foldl (· + ·) 0 != p.1.nIdx then 0x0664
    else if pairs.any fun p => decide (p.2.worstRows d (p.2.outRows p.1) * p.2.outBytes > p.2.outMax) then 0x0665
    else if es.any fun e => gransPoison l e.idxOff (8 * e.nIdx) then 0x0240
    else 0

/-- Entries of a valid list. -/
def listEntries (l : List Gran) (d : GatherD) : List GEntry :=
  (List.range d.nTab).map fun t => GEntry.of ((gransNat l (d.listOff + 16 + 16 * t) 16).getD 0)

/-! ## Gathers in progress -/

def State.gstep? (s : State) (r : StepRef) : Option GStep := s.gsteps.find? (·.r == r)

def State.setGstep (s : State) (g : GStep) : State := s.setGsteps (s.gsteps.map fun x => if x.r == g.r then g else x)

def State.dropGstep (s : State) (r : StepRef) : State := s.setGsteps (s.gsteps.filter (·.r != r))

/-- The record of a G-die unit for a gather (R523): 0 sort engine, 1 lookup, 3 pooling units. -/
def gdieFault (s : State) (g unit ctx part code : Nat) : FaultRec := { FaultRec.new s code (some (dieG g)) unit with ctx := some ctx, part := some part }

/-- The step, its image and its descriptor, where the instance runs. -/
def State.gatherAt (s : State) (r : StepRef) : Option (Sub × Image × ImgStep × GatherD) :=
  match s.stepAt r 1 with
  | some (x, im, st) => some (x, im, st, GatherD.of (im.desc st.first))
  | none => none

/-- Table entries of a gather step from the table store of its G-die (R217). -/
def Image.gtables (im : Image) (st : ImgStep) : List TableEntry :=
  (im.tables.find? fun t => t.gdie == st.unit - 32 && t.desc == st.first).elim [] (·.entries)

/-- New work of a step's unit may begin now (R451, R459, R479). -/
def State.unitRuns (s : State) (part : Nat) : Bool := s.partRuns part (7 * s.time.now)

/-- A buffer slot of a submission (R388). -/
def Sub.buf (x : Sub) (slot : Nat) : BufE := x.bufs.getD slot { addr := 0, len := 0, dev := true, rd := false, wr := false }

/-- Length in bytes of a buffer slot: slot 7 holds the inline data (R388). -/
def Sub.slotLen (x : Sub) (slot : Nat) : Nat := if slot = 7 then x.inline.length else (x.buf slot).len

/-- Granules of a buffer slot: the inline data, memory through the context's pages, or what a host read delivered; none where a packet of the
read was discarded. -/
def State.slotGrans (s : State) (w : Who) (x : Sub) (slot : Nat) (host : List Gran) (bad : List Blemish) (edges : List EdgeErr) :
    Option (List Gran) × Nat × State :=
  if slot = 7 then (some (mkGrans (fun _ => false) x.inline (ceilDiv x.inline.length 16) 0), 0, s)
  else if (x.buf slot).dev then s.readOver w x.ctx (x.buf slot).addr ((x.buf slot).len / 16) bad edges
  else (some (host.take ((x.buf slot).len / 16)), 0, s)

/-- GATHER_STEP_START (R245): the step begins and reads its gather list. -/
def execGatherStepStart (r : StepRef) (s : State) : Outcome State Fault Refusal :=
  match s.gatherAt r with
  | none => .next s
  | some (x, _, st, d) =>
    let g := st.unit - 32
    if x.ended.contains r.step ∨ (s.gstep? r).isSome ∨ s.time.now < x.start + st.start ∨ !s.unitRuns x.part ∨ !s.dieOk st.unit then .next s
    else
      let b := x.buf d.buf
      let (list, s) : Option (List Gran) × State :=
        if d.buf = 7 ∨ b.dev then (none, s)
        else s.hostRead (.glist r) x.ring x.seq 0 x.part x.ctx b.addr b.len (gdieFault s g 1 x.ctx x.part 0)
      .next (s.setGsteps ({ r := r, gdie := g, part := x.part, ctx := x.ctx, start := s.time.now, phase := .listing, list := list, sortEnd := 0, tabs := [],
                                 dropOff := 0, drops := [], keys := [], windowShut := false, cache := [], written := [], lost := false, missed := [] } :: s.gsteps))

/-- The list is on its way from the host. -/
def State.listPending (s : State) (r : StepRef) : Bool := s.reads.any fun q => q.purpose == ReadFor.glist r

/-- GATHER_LIST_ARRIVED (R27, R28, R226 to R228, R245): the whole list has arrived and is validated; the sort begins. -/
def execGatherListArrived (r : StepRef) (bad : List Blemish) (edges : List EdgeErr) (s : State) : Outcome State Fault Refusal :=
  match s.gatherAt r, s.gstep? r with
  | some (x, im, st, d), some g =>
    if g.phase ≠ .listing ∨ g.lost ∨ s.listPending r ∨ !s.unitRuns x.part then .next s
    else
      let tabs := im.gtables st
      match s.slotGrans (Who.die_ (dieG g.gdie)) x d.buf (g.list.getD []) bad edges with
      | (none, _, s) => .next (s.setGstep { g with lost := true })
      | (some l, c, s) =>
        let lc := listCode l (x.slotLen d.buf) d tabs
        let code := if owed c ∧ l.any (·.poison) ∧ lc = 0x0240 then c else lc
        if code ≠ 0 then .next ((s.dropGstep r).charge x.ring x.seq 0 (gdieFault s g.gdie 0 x.ctx x.part code))
        else
          let es := listEntries l d
          let h := GHead.of ((gransNat l d.listOff 16).getD 0)
          let gt : List GTab := es.map fun e => { idx := indicesOf l e, bags := bagsOf l e }
          .next (s.setGstep { g with phase := .sorting, sortEnd := s.time.now + 28 + ceilDiv h.total 256, tabs := gt, dropOff := h.dropOff })
  | _, _ => .next s

/-! ## Sort and issue (R229, R237) -/

/-- Equal neighbours of a sorted list, with their number. -/
def runLengths : List Nat → List (Nat × Nat)
  | [] => []
  | x :: t =>
    match runLengths t with
    | [] => [(x, 1)]
    | (y, n) :: rest => if x = y then (x, n + 1) :: rest else (x, 1) :: (y, n) :: rest

/-- Valid indices of a table. -/
def validIdx (e : TableEntry) (t : GTab) : List Nat := t.idx.filterMap (rowOf e)

/-- Distinct keys of a descriptor in increasing order of table, then of index (R229). -/
def sortKeys (tabs : List TableEntry) (gt : List GTab) : List GKey :=
  ((List.range gt.length).zip (tabs.zip gt)).flatMap fun (t, e, g) =>
    (runLengths (sortBy (fun i => i) (validIdx e g))).map fun (i, n) =>
      { t := t, i := i, mult := n, remote := decide (e.localRows ≤ i), st := .queued, issued := 0, gen := 0, pages := [], hits := [], vals := [], poison := false }

/-- Replaces key `k` of a gather. -/
def GStep.setKey (g : GStep) (k : Nat) (x : GKey) : GStep := { g with keys := g.keys.set k x }

/-- Byte offset of a row in its table's local or remote part (R218). -/
def TableEntry.rowOff (e : TableEntry) (i : Nat) : Nat := 256 * e.stride * (if i < e.localRows then i else i - e.localRows)

/-- A fetched row: its values, poisoned as a whole where a granule is, or where its header fails R222. A header that is read is checked
whatever the other granules are. -/
def State.takeRow (s : State) (g : GStep) (e : TableEntry) (key : GKey) (l : List Gran) : GKey × State :=
  let head := l.headD { data := 0, poison := true }
  let raw := head.data.toNat
  let h := RowHdr.of raw
  let dead := { key with st := .arrived, poison := true, vals := List.replicate e.dim 0 }
  if !head.poison && !e.kind.hdrOk h then
    let f := { gdieFault s g.gdie 1 g.ctx g.part 0x04C1 with dkind := 6, detail := key.i % 2 ^ 48 + key.t * 2 ^ 48 }
    (dead, ((s.setArea (dieG g.gdie) 1 0xC8 (raw % 2 ^ 64)).setArea (dieG g.gdie) 1 0xD0 s.time.now).raise f)
  else if l.any (·.poison) then (dead, s)
  else ({ key with st := .arrived, poison := false, vals := rowVals l h e.dim }, s)

/-- Delivers a remote row poisoned and records its code, or charges it where R437 does (R237, R371, R437). -/
def State.poisonRow (s : State) (g : GStep) (e : TableEntry) (key : GKey) (code : Nat) : GKey × State :=
  let f := { gdieFault s g.gdie 1 g.ctx g.part code with dkind := 4, detail := (e.poolOff + e.rowOff key.i) % 2 ^ 48 + e.poolDev * 2 ^ 48 }
  ({ key with st := .arrived, poison := true, vals := List.replicate e.dim 0 },
    if code = 0x0430 then s.charge g.r.ring.val g.r.seq.toNat 0 f else s.raise f)

/-- The record of a local row that is not read: its code at the G-die, with the address that the lookup or the check meets (R223, R357,
R359); none where an agent has recorded the code. -/
def State.rowRefused (s : State) (g : GStep) (tr : Nat → Bool → Except Nat (Nat × Nat)) (va : Nat) (code n : Nat) : State :=
  let f := gdieFault s g.gdie 1 g.ctx g.part code
  if code = 0x0401 then
    match (List.range n).find? fun i => (tr (va + 256 * i) false).toOption.isNone with
    | some i => s.raise { f with dkind := 2, detail := va + 256 * i }
    | none => s
  else if code = 0x04C0 ∨ code = 0x0404 then
    match (List.range n).findSome? fun i =>
      match tr (va + 256 * i) false with
      | .error _ => none
      | .ok (a, gen) => if s.extentCode g.gdie g.ctx gen a = code then some a else none with
    | some a => s.raise { f with dkind := 1, detail := a }
    | none => s
  else s

/-- C-die from which a granule of a local row comes (R14, R16). -/
def State.rowDie (s : State) (g : GStep) (e : TableEntry) (k : GKey) (i : Nat) : Option Nat :=
  match translateBy k.pages k.gen g.ctx (e.base + e.rowOff k.i + 16 * i) false with
  | .error _ => none
  | .ok (a, _) => ((s.regionOf a).bind fun i => (s.region i).place a none).map fun p => pcDie p.1

/-- A row of a key as the cache knows it. -/
def GStep.crow (g : GStep) (e : TableEntry) (key : GKey) : CRow :=
  { gdie := g.gdie, part := g.part, tableId := e.tableId, index := key.i,
    place := if key.remote then 1 + (e.poolOff + e.rowOff key.i) * 2 ^ 16 + e.poolDev else 0 }

/-- Reads a local row (R221 to R223). An extent with a line elsewhere than on the home stacks is not read (R314). -/
def State.readRow (s : State) (g : GStep) (e : TableEntry) (key : GKey) (upset : List Upset) (edges : List EdgeErr) : GKey × State :=
  let n := rowLines e.twide e.dim
  let tr := translateBy key.pages key.gen g.ctx
  let va := e.base + e.rowOff key.i
  let dead := { key with st := .arrived, poison := true, vals := List.replicate e.dim 0 }
  match s.strayLine g.gdie tr va e.stride with
  | some a => (dead, s.raise { gdieFault s g.gdie 1 g.ctx g.part 0x04C0 with dkind := 1, detail := a })
  | none =>
    let (l, c, s) := s.extentLines g.gdie g.ctx tr va upset 0 n
    if c ≠ 0 then (dead, s.rowRefused g tr va c n)
    else
      let (l, s) := s.crossEdges (fun i q => !q.out && (s.rowDie g e key i).any (between (dieG g.gdie) · q)) l edges
      let (key, s) := s.takeRow g e key l
      (key, if key.poison then s else s.fillRow (g.crow e key) [] n)

/-- Looks the lines of a row up in the cache from line `i` on (R234): those that hit. `again` says that an earlier fetch of the descriptor hit
a line, and `bad` gives the errors that a line shows. -/
def State.lookRow (s : State) (r : CRow) (again : Nat → Bool) (bad : Nat → List Upset) (i : Nat) : Nat → List Nat × State
  | 0 => ([], s)
  | n + 1 =>
    let (h, s) := s.lookLine r i (again i) (bad i)
    let (t, s) := s.lookRow r again bad (i + 1) n
    (if h then i :: t else t, s)

/-- What the cache holds of a remote row. -/
def State.cachedRow (s : State) (r : CRow) (n : Nat) : List Gran := (List.range n).flatMap fun i => (s.rline r i).elim [] (·.data)

/-- A remote row that cannot be issued any more, or has not come in time (R105, R237, R238). -/
def State.missRow (s : State) (g : GStep) (e : TableEntry) (key : GKey) (code : Nat) : GKey × State :=
  let (k, s) := s.poisonRow g e key code
  ({ k with st := .missing }, s)

/-- Issues the fetch of one key (R218, R234, R236, R237). -/
def State.issueKey (s : State) (g : GStep) (tabs : List TableEntry) (e : TableEntry) (k : Nat) (key : GKey) : GKey × State :=
  let n := rowLines e.twide e.dim
  let r := g.crow e key
  let same := (g.keys.take k).filter fun q => (tabs[q.t]?).any fun e' => g.crow e' q == r
  let bad := fun i => (g.cache.filter fun c => c.1 == k && c.2.1 == i).map (·.2.2)
  let (hits, s) := s.lookRow r (fun i => same.any (·.hits.contains i)) bad 0 n
  let key := { key with hits := hits }
  if !key.remote then
    let key := { key with st := .sent, issued := s.time.now, gen := (s.ctxGen g.ctx).gen,
                          pages := s.pagesOf (dieG g.gdie) g.ctx (e.base + e.rowOff key.i) (256 * e.stride) }
    let s := s.fillFirst (Who.first (Who.die_ (dieG g.gdie))) g.ctx (e.base + e.rowOff key.i) (256 * e.stride)
    if hits.length = n then s.readRow g e key [] [] else (key, s)
  else if hits.length = n then s.takeRow g e key (s.cachedRow r n)
  else
    let f := s.reqFrame 3 e.poolDev (e.poolOff + e.rowOff key.i) (256 * n)
    match s.sendRequest (.row g.r k) e.viaF e.poolDev g.part g.ctx s.time.now false [f] with
    | (.ok _, s) => ({ key with st := .sent, issued := s.time.now }, s)
    | (.error c, s) => s.poisonRow g e key c

/-- Issues up to `n` of the fetches that wait, in order (R229). -/
def State.issueNext (s : State) (r : StepRef) : Nat → State
  | 0 => s
  | n + 1 =>
    match s.gatherAt r, s.gstep? r with
    | some (_, im, st, _), some g =>
      match (g.keys.zipIdx.find? fun p => p.1.st == .queued) with
      | none => s
      | some (key, k) =>
        match (im.gtables st)[key.t]? with
        | none => s
        | some e =>
          let (key, s) := s.issueKey g (im.gtables st) e k key
          (s.setGstep (g.setKey k key)).issueNext r n
    | _, _ => s

/-- Marks remote keys missing with the remote-timeout code. -/
def State.missKeys (s : State) (g : GStep) (tabs : List TableEntry) (hit : GKey → Bool) : List GKey → List GKey × State
  | [] => ([], s)
  | key :: t =>
    let (key, s) : GKey × State :=
      match tabs[key.t]? with
      | some e => if key.remote && hit key then s.missRow g e key 0x0510 else (key, s)
      | none => (key, s)
    let (rest, s) := s.missKeys g tabs hit t
    (key :: rest, s)

/-- After the last tick of REMOTE_WIN the rows that wait for a remote read are missing, and none is issued (R86, R105). -/
def State.shutWindow (s : State) (r : StepRef) : State :=
  match s.gatherAt r, s.gstep? r with
  | some (x, im, st, _), some g =>
    if s.time.now ≤ x.start + st.start + st.remoteWin ∨ g.phase ≠ .fetching ∨ g.windowShut then s
    else
      let (keys, s) := s.missKeys g (im.gtables st) (·.st == .queued) g.keys
      s.setGstep { g with windowShut := true, keys := keys }
  | _, _ => s

/-- Distinct rows that a gather may issue in the present tick: what its lookup records reserve there, 40 a G-die at most (R100, R102). -/
def State.lookRate (s : State) (im : Image) (g : GStep) (d : GatherD) : Nat :=
  min 40 (sumAt ((im.rsvOf d.rsvFirst d.rsvN).map fun r => (r, im.cycle)) 5 g.gdie s.time.now)

/-- A remote row whose reply has not come 1,968 ticks after its issue is missing (R237). -/
def State.expireRows (s : State) (r : StepRef) : State :=
  match s.gatherAt r, s.gstep? r with
  | some (_, im, st, _), some g =>
    let late := fun k : GKey => k.st == .sent && decide (k.issued + 1968 < s.time.now)
    if !g.keys.any fun k => k.remote && late k then s
    else
      let (keys, s) := s.missKeys g (im.gtables st) late g.keys
      s.setGstep { g with keys := keys }
  | _, _ => s

/-- A tick of one gather's lookup (R100, R102, R105, R237, R245). -/
def State.pumpGather (s : State) (r : StepRef) : State :=
  match s.gatherAt r, s.gstep? r with
  | some (x, im, _, d), some g =>
    if g.phase ≠ .fetching ∨ g.lost ∨ !s.unitRuns x.part then s else ((s.expireRows r).shutWindow r).issueNext r (s.lookRate im g d)
  | _, _ => s

/-- At a tick boundary every gather issues the fetches that its lookup rate allows in the tick. -/
def State.pumpGathers (s : State) : State := s.gsteps.foldl (fun s g => s.pumpGather g.r) s

/-- Invalid indices of each table (R232). -/
def dropsOf (tabs : List TableEntry) (gt : List GTab) : List Nat := (tabs.zip gt).map fun (e, t) => t.idx.length - (validIdx e t).length

/-- Cuts a list into bags. -/
def cutBags {α : Type} (l : List α) : List Nat → List (List α)
  | [] => []
  | n :: t => l.take n :: cutBags (l.drop n) t

/-- SORT_END (R229 to R231, R236, R245): the distinct fetches wait for their lookups, which the ticks that follow make in order. `cache` gives
the errors that the lookups find in cached lines. -/
def execSortEnd (r : StepRef) (cache : List (Nat × Nat × Upset)) (s : State) : Outcome State Fault Refusal :=
  match s.gatherAt r, s.gstep? r with
  | some (x, im, st, _), some g =>
    if g.phase ≠ .sorting ∨ s.time.now < g.sortEnd ∨ !s.unitRuns x.part then .next s
    else
      let tabs := im.gtables st
      let keys := sortKeys tabs g.tabs
      .next ((s.setGstep { g with phase := .fetching, keys := keys, drops := dropsOf tabs g.tabs, cache := cache }).shutWindow r)
  | _, _ => .next s

/-! ## Replies (R222, R236 to R238) -/

/-- A gather whose instance no longer runs goes when nothing of it is outstanding. -/
def State.sweepGstep (s : State) (g : GStep) : State := if g.keys.any (·.st == .sent) then s.setGstep g else s.dropGstep g.r

/-- ROW_FETCH_REPLY (R27, R28, R222, R223): a local row arrives, or a packet of it was discarded and it never does. For an instance that a
fault has ended it only retires. -/
def execRowFetchReply (r : StepRef) (key : Nat) (upset : List Upset) (edges : List EdgeErr) (s : State) : Outcome State Fault Refusal :=
  match s.gstep? r with
  | none => .next s
  | some g =>
    match g.keys[key]? with
    | none => .next s
    | some k =>
      if k.st ≠ .sent ∨ k.remote then .next s
      else
        match s.gatherAt r with
        | none => .next (s.sweepGstep (g.setKey key { k with st := .arrived }))
        | some (_, im, st, _) =>
          match (im.gtables st)[k.t]? with
          | none => .next s
          | some e =>
            let n := 16 * rowLines e.twide e.dim
            let on := fun q : EdgeErr => (List.range n).any fun i => (s.rowDie g e k i).any (between (dieG g.gdie) · q)
            let s := s.countHeaders on edges
            match edges.find? fun q => edgeLost q && on q with
            | some q => .next ((s.setGstep (g.setKey key { k with st := .lost })).raise (edgeFault s 0x0106 q))
            | none =>
              let (k, s) := s.readRow g e k upset edges
              .next (s.setGstep (g.setKey key k))

/-- A reply of a remote row: its lines, or the code with which it failed (R235, R237, R238, R437). -/
def State.remoteRow (s : State) (r : StepRef) (key : Nat) (code : Nat) (l : List Gran) : State :=
  match s.gstep? r with
  | none => s
  | some g =>
    match g.keys[key]? with
    | none => s
    | some k =>
      if k.st ≠ .sent then s
      else
        match s.gatherAt r with
        | none => s.sweepGstep (g.setKey key { k with st := .arrived })
        | some (_, im, st, _) =>
          match (im.gtables st)[k.t]? with
          | none => s
          | some e =>
            if s.time.now > k.issued + 1968 then
              let (k, s) := s.missRow g e k 0x0510
              s.setGstep (g.setKey key k)
            else if code ≠ 0 then
              let (k, s) := s.poisonRow g e k code
              s.setGstep (g.setKey key k)
            else
              let (k', s) := s.takeRow g e k l
              let s := if e.rcache && !k'.poison && s.time.now / 4096 == k.issued / 4096 then
                  s.fillRow (g.crow e k) l (rowLines e.twide e.dim) else s
              s.setGstep (g.setKey key k')

/-- REMOTE_WINDOW_CLOSE (R105, R459): after the last tick of the window no remote read is issued. -/
def execRemoteWindowClose (r : StepRef) (s : State) : Outcome State Fault Refusal :=
  match s.gatherAt r with
  | none => .next s
  | some (x, _, _, _) => if s.unitRuns x.part then .next (s.shutWindow r) else .next s

/-! ## Pooling and output (R239 to R244) -/

/-- An output row: FP32 elements, whether any input was poisoned, whether it depends on a remote row, and whether a row of it has still
to come. -/
structure ORow where
  vals : List Nat
  poison : Bool
  remote : Bool
  out : Bool
  deriving DecidableEq, Repr

/-- The fetch of a key is still under way: not arrived and not missing. -/
def GKey.out (k : GKey) : Bool := !(k.st == .arrived || k.st == .missing)

/-- Row of a valid index. -/
def keyRow (keys : List GKey) (t i dim : Nat) : ORow :=
  match keys.find? fun k => k.t == t && k.i == i with
  | some k => { vals := k.vals, poison := k.poison, remote := k.remote, out := k.out }
  | none => { vals := List.replicate dim 0, poison := true, remote := false, out := true }

/-- One more term of a bag, element by element. -/
def poolTerm (pool : Nat) (acc x : ORow) : ORow :=
  { vals := (acc.vals.zip x.vals).map fun p => if pool = 3 then veMax true true p.1 p.2 else fadd32 p.1 p.2, poison := acc.poison || x.poison,
    remote := acc.remote || x.remote, out := acc.out || x.out }

/-- A bag pooled over its valid occurrences in increasing order of index (R240). An unpooled row is a bag of one occurrence. -/
def poolBag (pool dim : Nat) (rows : List ORow) : ORow :=
  match rows with
  | [] => { vals := List.replicate dim 0, poison := false, remote := false, out := false }
  | x :: t =>
    let acc := t.foldl (poolTerm pool) x
    if pool = 2 then
      let n := Fmt.pat .fp32 (fpOfInt rows.length)
      { acc with vals := acc.vals.map fun v => fdiv32 v n }
    else acc

/-- Valid indices of each output row of a table (R232, R240, R243). -/
def rowIdx (e : TableEntry) (g : GTab) : List (List Nat) :=
  if e.pool = 0 then g.idx.map fun z => (rowOf e z).toList else (cutBags g.idx g.bags).map fun bag => sortBy (fun i => i) (bag.filterMap (rowOf e))

/-- Output rows of a table (R232, R240, R243). -/
def outputRows (e : TableEntry) (t : Nat) (g : GTab) (keys : List GKey) : List ORow :=
  (rowIdx e g).map fun l => poolBag e.pool e.dim (l.map fun i => keyRow keys t i e.dim)

/-- Granules of an output row (R241, R242). -/
def ORow.grans (o : ORow) (e : TableEntry) : List Gran :=
  let f := (Fmt.ofCode e.outFmt).getD .fp32
  mkGrans (fun _ => o.poison) (o.vals.flatMap fun v => leBytes (f.bits / 8) (convert .fp32 f 0 0 v)) (e.outBytes / 16) 0

/-- A descriptor's writing of output rows: the state, the code with which a way refused one (0 for none), the granules sent so far, the
errors that still wait on the edges, and the C-dies to which a packet was discarded (R27, R28). -/
structure OutW where
  st : State
  code : Nat
  sent : Nat
  edges : List EdgeErr
  missed : List Nat
  deriving DecidableEq, Repr

/-- Sends one output row to one receiving C-die and offset. -/
def OutW.row (w : OutW) (g : GStep) (l : List Gran) (p : Nat × Nat) : OutW :=
  let on := between (dieG g.gdie) p.1
  let w' := { w with sent := w.sent + l.length }
  match w.edges.find? fun e => edgeLost e && e.out && on e with
  | some e => { w' with st := w.st.raise (edgeFault w.st 0x0106 e), edges := w.edges.erase e, missed := p.1 :: w.missed }
  | none =>
    let (l, s) := w.st.crossEdges (fun _ e => e.out && on e) l (edgesFrom w.sent w.edges)
    let (c, s) := s.sharedWrite p.1 g.part p.2 l
    { w' with st := s, code := if w.code ≠ 0 then w.code else c }

/-- Output rows of a gather that it has not written: table, row and what is written. -/
def GStep.unwritten (g : GStep) (tabs : List TableEntry) : List (Nat × Nat × ORow) :=
  ((tabs.zip g.tabs).zipIdx.flatMap fun p => (outputRows p.1.1 p.2 p.1.2 g.keys).zipIdx.map fun q => (p.2, q.2, q.1)).filter
    fun p => !g.written.contains (p.1, p.2.1)

/-- An output row as it is written when its time has passed (R238, R246). -/
def poisonOut (l : List (Nat × Nat × ORow)) : List (Nat × Nat × ORow) := l.map fun p => (p.1, p.2.1, { p.2.2 with poison := true })

/-- Writes output rows of a gather to their C-dies, and charges a way that refuses one. -/
def State.putOutputs (s : State) (g : GStep) (d : GatherD) (tabs : List TableEntry) (l : List (Nat × Nat × ORow)) (edges : List EdgeErr) : State :=
  let w : OutW := l.foldl (fun w p =>
    match tabs[p.1]? with
    | none => w
    | some e => (outPlaces d e p.2.1).foldl (fun w q => OutW.row w g (p.2.2.grans e) q) w) { st := s, code := 0, sent := 0, edges := edges, missed := [] }
  let s := w.st.setGstep { g with written := g.written ++ l.map fun p => (p.1, p.2.1), lost := g.lost || !w.missed.isEmpty, missed := w.missed ++ g.missed }
  if owed w.code then s.charge g.r.ring.val g.r.seq.toNat 0 { gdieFault s g.gdie 1 g.ctx g.part 0 with code := w.code } else s

/-- Bytes as a device engine writes them to `dev:` memory from a multiple of 16: whole granules (R316), the last one with the bytes beyond as
they stood, with the flaws that their read meets (R324; log 147). -/
def State.wholeGrans (s : State) (w : Who) (ctx va : Nat) (bs : List Byte) (bad : List Blemish) : List Gran × Nat × State :=
  let n := bs.length / 16
  let l := mkGrans (fun _ => false) bs n 0
  if bs.length % 16 = 0 then (l, 0, s)
  else
    let (g, c, s) := (s.meetDev ctx (va + 16 * n) 1 bad).devRead w ctx (va + 16 * n) 1
    (l ++ g.map fun (x : Gran) => { x with data := BitVec.ofNat 128 (leNat (bs.drop (16 * n) ++ (granBytes x).drop (bs.length % 16))) }, c, s)

/-- Writes bytes at an offset of a buffer slot that may be written; another slot is left as it is, and a suspect's replay writes none (R27, R28,
R232, R274, R388, R487). A packet that is discarded leaves its granules unwritten. -/
def State.slotPut (s : State) (w : Who) (x : Sub) (slot off : Nat) (bs : List Byte) (f : FaultRec) (bad : List Blemish) (edges : List EdgeErr) : State :=
  match x.bufs[slot]? with
  | none => s
  | some b =>
    if slot = 7 ∨ !b.wr ∨ bs.isEmpty ∨ x.replay then s
    else
      let va := b.addr + off
      if b.dev then
        let (l, c, s) := s.wholeGrans w x.ctx va bs bad
        let (c', s) := s.carryOver w.die (fun i => s.stackDie w x.ctx (va + 16 * i)) l edges fun i l s => s.devWrite w x.ctx (va + 16 * i) l
        let c := if owed c then c else c'.getD 0
        if owed c then s.charge x.ring x.seq 0 { f with code := c, dkind := 2, detail := va } else s
      else if (s.sub? x.ring x.seq).any (·.cancelled) then s
      else
        match s.sendOver w.die (dieH (s.hport x.ctx)) (mkGrans (fun _ => false) bs (ceilDiv bs.length 16) 0) edges with
        | (none, s) => s
        | (some l, s) => s.hostPost x.ring x.seq 0 x.part x.ctx va bs.length l f

/-- Every output of a gather is written: the drop counts are written and the step ends (R232). A gather of which a packet was lost does not
end by itself. -/
def State.gatherDone (s : State) (r : StepRef) (bad : List Blemish) (edges : List EdgeErr) : State :=
  match s.gatherAt r, s.gstep? r with
  | some (x, im, st, d), some g =>
    if g.phase ≠ .fetching ∨ g.lost ∨ !(g.unwritten (im.gtables st)).isEmpty then s
    else
      let s := s.slotPut (Who.die_ (dieG g.gdie)) x d.buf g.dropOff (g.drops.flatMap (leBytes 4)) (gdieFault s g.gdie 1 x.ctx x.part 0) bad edges
      let n := g.drops.foldl (· + ·) 0
      let s := s.bump (dieG g.gdie) 1 0xC0 (2 ^ 32 - 1) n
      let s := match s.sub? x.ring x.seq with
        | some y => s.setSub { y with drops := satAdd (2 ^ 32 - 1) y.drops n }
        | none => s
      ((s.dropGstep r).endStep x.ring x.seq r.step).endInstance x.ring x.seq
  | _, _ => s

/-- Every output row whose rows have come is written, those with remote rows first (R238). -/
def State.writeReady (s : State) (r : StepRef) (edges : List EdgeErr) : State :=
  match s.gatherAt r, s.gstep? r with
  | some (_, im, st, d), some g =>
    if g.phase ≠ .fetching then s
    else
      let l := (g.unwritten (im.gtables st)).filter fun p => !p.2.2.out
      s.putOutputs g d (im.gtables st) (l.filter (·.2.2.remote) ++ l.filter fun p => !p.2.2.remote) edges
  | _, _ => s

/-- A remote row that an unwritten output needs: one that is missing, or, from the bound on, one whose output is not written. -/
def GStep.needs (g : GStep) (tabs : List TableEntry) (k : GKey) : Bool :=
  k.out || (k.st != .missing && (g.unwritten tabs).any fun p => p.1 == k.t && ((tabs[p.1]?).bind fun e => (g.tabs[p.1]?).bind fun t => (rowIdx e t)[p.2.1]?).any (·.contains k.i))

/-- From the bound of R104 on, output rows with remote rows that are not written are written poisoned, with the remote-timeout code recorded for
each of those remote rows (R238). -/
def State.cutRemote (s : State) (r : StepRef) (edges : List EdgeErr) : State :=
  match s.gatherAt r, s.gstep? r with
  | some (x, im, st, d), some g =>
    let tabs := im.gtables st
    if s.time.now < x.start + st.start + st.remoteWin + 2000 ∨ g.phase ≠ .fetching then s
    else
      let l := (g.unwritten tabs).filter (·.2.2.remote)
      if l.isEmpty then s
      else
        let (keys, s) := s.missKeys g tabs (g.needs tabs) g.keys
        s.putOutputs { g with windowShut := true, keys := keys } d tabs (poisonOut l) edges
  | _, _ => s

/-- GATHER_OUTPUTS_WRITTEN (R27, R28, R232, R238 to R244): outputs whose rows have come are pooled, converted and written; with the last of them
the drop counts, and the step ends. -/
def execGatherOutputsWritten (r : StepRef) (bad : List Blemish) (edges : List EdgeErr) (s : State) : Outcome State Fault Refusal :=
  match s.gatherAt r with
  | none => .next s
  | some (x, _, _, _) =>
    if !s.unitRuns x.part then .next s else .next ((((s.cutRemote r edges).expireRows r).writeReady r edges).gatherDone r bad edges)

/-- REMOTE_CUTOFF (R27, R28, R104, R238, R459): at the bound, outputs that depend on remote rows and are not written are written poisoned. -/
def execRemoteCutoff (r : StepRef) (bad : List Blemish) (edges : List EdgeErr) (s : State) : Outcome State Fault Refusal :=
  match s.gatherAt r with
  | none => .next s
  | some (x, _, _, _) => if !s.unitRuns x.part then .next s else .next ((s.cutRemote r edges).gatherDone r bad edges)

/-- What a gather that reaches the end of its step writes (R246): rows without remote rows, and rows that wait for a local one, poisoned; rows
with remote rows as R238 has them, where a reply that is still out can no longer be taken and its row is missing (log 148). -/
def State.endGather (s : State) (g : GStep) (d : GatherD) (tabs : List TableEntry) (edges : List EdgeErr) : State :=
  let l := g.unwritten tabs
  let (keys, s) := s.missKeys g tabs GKey.out g.keys
  let dead := fun p : Nat × Nat × ORow => !p.2.2.remote || p.2.2.out
  s.putOutputs { g with keys := keys, lost := false } d tabs ((l.filter fun p => !dead p) ++ poisonOut (l.filter dead)) edges

/-- GSTEP_TIMEOUT (R27, R28, R246, R459): at START + LENGTH with outputs unwritten they are written poisoned, 0x0521 is charged, and no drop
count is written. Where only outputs with remote rows are left, they follow R238 and nothing is charged. -/
def execGstepTimeout (r : StepRef) (bad : List Blemish) (edges : List EdgeErr) (s : State) : Outcome State Fault Refusal :=
  match s.gatherAt r with
  | none => .next s
  | some (x, im, st, d) =>
    if !s.unitRuns x.part then .next s
    else
      let s := (s.cutRemote r edges).gatherDone r bad edges
      match s.gstep? r with
      | none => .next s
      | some g =>
        let tabs := im.gtables st
        let waits := g.phase == .fetching && !g.lost && (g.unwritten tabs).all fun p => p.2.2.remote
        if s.time.now < x.start + st.start + st.length ∨ waits then .next s
        else
          let s := s.endGather g d tabs edges
          let s := ((s.gstep? r).elim s s.sweepGstep).endStep x.ring x.seq r.step
          .next (s.charge x.ring x.seq 0 { gdieFault s g.gdie 1 x.ctx x.part 0x0521 with dkind := 7, detail := r.step })

end Sys2Proof.Machine
end

