-- ==== Sys2Proof/Machine/Update.lean ====
section
/-! DEFINITION. Table updates: ingest, staging, merging, commit and report (08; R438 and R441 of 13; R571 of 19). -/

namespace Sys2Proof.Machine

open Sys2Proof Host

/-! ## Records on their way (R251, R438) -/

/-- The record of a batch with the fields of its table and block (R251). -/
def updRecOf (src serial saddle pos : Nat) (e : TableEntry) (p : ParamB) (r : BatchR) (data : List Byte) (poison : Bool) : UpdRec :=
  { tableId := BitVec.ofNat 16 e.tableId, dimM1 := BitVec.ofNat 10 (e.dim - 1), twide := BitVec.ofNat 2 e.twide, opt := BitVec.ofNat 2 e.opt,
    stride := BitVec.ofNat 8 e.stride, mode := BitVec.ofNat 2 r.mode, tier := BitVec.ofNat 2 r.tier, gfmt := BitVec.ofNat 4 p.gfmt,
    index := BitVec.ofNat 64 r.raw, src := BitVec.ofNat 16 src, serial := BitVec.ofNat 32 serial, pos := BitVec.ofNat 32 pos,
    lr := BitVec.ofNat 32 p.lr, eps := BitVec.ofNat 32 p.eps, b1 := BitVec.ofNat 32 p.b1, b2 := BitVec.ofNat 32 p.b2,
    c1 := BitVec.ofNat 32 p.c1, c2 := BitVec.ofNat 32 p.c2, saddle := BitVec.ofNat 64 saddle, data := data, poison := poison }

/-- Table fields that a record carries (R251). -/
def UpdRec.kind (u : UpdRec) : RowKind :=
  { tableId := u.tableId.toNat, dim := u.dimM1.toNat + 1, twide := u.twide.toNat, opt := u.opt.toNat, stride := u.stride.toNat }

/-- The first three granules of an UPD_REC (R438). -/
def UpdRec.head (u : UpdRec) : List Gran :=
  let g := fun n => ({ data := BitVec.ofNat 128 n, poison := false } : Gran)
  g (pack [(0, 16, u.tableId.toNat), (16, 10, u.dimM1.toNat), (26, 2, u.twide.toNat), (28, 2, u.opt.toNat), (32, 8, u.stride.toNat), (40, 2, u.mode.toNat),
           (42, 2, u.tier.toNat), (44, 4, u.gfmt.toNat), (64, 32, u.serial.toNat), (96, 32, u.pos.toNat)]) ::
  g (pack [(0, 32, u.lr.toNat), (32, 32, u.eps.toNat), (64, 32, u.b1.toNat), (96, 32, u.b2.toNat)]) ::
  g (pack [(0, 32, u.c1.toNat), (32, 32, u.c2.toNat), (64, 64, u.saddle.toNat)]) :: []

/-- Granules in pieces of at most 64 (R420). -/
def chop64 : Nat → List Gran → List (List Gran)
  | 0, _ => []
  | k + 1, l => if l.isEmpty then [] else l.take 64 :: chop64 k (l.drop 64)

/-- Frames that carry a payload: the base frame with each piece, LAST on the last (R420). -/
def frames (f : Frame) (l : List Gran) : List Frame :=
  match chop64 (l.length / 64 + 1) l with
  | [] => [{ f with last := true }]
  | ps => ps.mapIdx fun i p => { f with payload := p, last := decide (i + 1 = ps.length) }

/-- Frames of an UPD_REC to a pool member (R438). -/
def State.updFrames (s : State) (u : UpdRec) (peer off : Nat) : List Frame :=
  frames { s.reqFrame 5 peer off u.data.length with last := false } (UpdRec.head u ++ mkGrans (fun _ => u.poison) u.data (ceilDiv u.data.length 16) 0)

/-- The record that the granules of an UPD_REC carry, from a source device (R438). -/
def updOf (src : Nat) (l : List Gran) : UpdRec :=
  let z : Gran := { data := 0, poison := false }
  let a := (l.getD 0 z).data.toNat
  let b := (l.getD 1 z).data.toNat
  let c := (l.getD 2 z).data.toNat
  { tableId := BitVec.ofNat 16 a, dimM1 := BitVec.ofNat 10 (a / 2 ^ 16), twide := BitVec.ofNat 2 (a / 2 ^ 26), opt := BitVec.ofNat 2 (a / 2 ^ 28),
    stride := BitVec.ofNat 8 (a / 2 ^ 32), mode := BitVec.ofNat 2 (a / 2 ^ 40), tier := BitVec.ofNat 2 (a / 2 ^ 42), gfmt := BitVec.ofNat 4 (a / 2 ^ 44),
    index := 0, src := BitVec.ofNat 16 src, serial := BitVec.ofNat 32 (a / 2 ^ 64), pos := BitVec.ofNat 32 (a / 2 ^ 96),
    lr := BitVec.ofNat 32 b, eps := BitVec.ofNat 32 (b / 2 ^ 32), b1 := BitVec.ofNat 32 (b / 2 ^ 64), b2 := BitVec.ofNat 32 (b / 2 ^ 96),
    c1 := BitVec.ofNat 32 c, c2 := BitVec.ofNat 32 (c / 2 ^ 32), saddle := BitVec.ofNat 64 (c / 2 ^ 64),
    data := gransBytes (l.drop 3), poison := l.any (·.poison) }

/-! ## Ingest (R250, R256) -/

/-- A fault record of the update unit of a G-die. -/
def updFault (s : State) (g ctx part code : Nat) : FaultRec := { FaultRec.new s code (some (dieG g)) 2 with ctx := some ctx, part := some part }

/-- A fault record about a staged record. A row on a CXL member belongs to no partition and no context (R439, R441; log 131). -/
def Staged.fault (st : Staged) (s : State) (code : Nat) : FaultRec :=
  if st.cxl.isSome then FaultRec.new s code (some (dieG st.gdie)) 2 else updFault s st.gdie st.ctx st.part code

/-- Counts records owed by a pool member. -/
def addOwed (dev n : Nat) : List (Nat × Nat) → List (Nat × Nat)
  | [] => [(dev, n)]
  | (d, k) :: t => if d = dev then (d, k + n) :: t else (d, k) :: addOwed dev n t

/-- A home that the batch reaches. -/
def Ingest.reach (i : Ingest) (dev gdie : Nat) : Ingest :=
  if i.homes.any fun h => h.dev == dev && h.gdie == gdie then i
  else { i with homes := i.homes ++ [{ dev := dev, gdie := gdie, done := false, status := 0, nonfin := 0, records := 0, rows := 0 }] }

/-- Changes the account of a home. -/
def Ingest.home (i : Ingest) (dev gdie : Nat) (f : HomeRep → HomeRep) : Ingest :=
  { i with homes := i.homes.map fun h => if h.dev == dev && h.gdie == gdie then f h else h }

/-- Sends one record to its home (R218, R250, R251). A record without a valid index has no extent, and so no home: the ingest G-die counts it
(log 62). -/
def State.sendRecord (s : State) (x : Sub) (im : Image) (i : Ingest) (b : Batch) (l : List Gran) (pos : Nat) (r : BatchR) : Ingest × State :=
  match b.params[r.tab]? with
  | none => (i, s)
  | some p =>
    match im.table p.tableId with
    | none => (i, s)
    | some e =>
      match rowOf e r.index with
      | none => ({ i with dropped := satAdd (2 ^ 32 - 1) i.dropped 1 }, s)
      | some k =>
        let gs := (l.drop (r.off / 16 + 1)).take (r.dataLen / 16)
        let u := updRecOf s.devId x.serial i.saddle pos e p r (gransBytes gs) (gs.any (·.poison))
        if k < e.localRows then
          let va := e.base + e.rowOff k
          let g := (s.homeOf (s.translateAt (dieG i.gdie) x.ctx) va).getD i.gdie
          if s.dieOk (dieG g) then
            (i.reach s.devId g, s.setUpd { s.upd with flight := s.upd.flight ++ [{ gdie := g, part := x.part, ctx := x.ctx, va := va, cxl := none, port := none, u := u, lost := false }] })
          else
            ((i.reach s.devId g).home s.devId g fun h =>
              { h with done := true, status := if h.status = 0 then 0x04C0 else h.status, records := h.records + 1 }, s)
        else
          let off := e.poolOff + e.rowOff k
          let f := { FaultRec.new s 0 (some (dieF e.viaF)) 0x28 with ctx := some x.ctx, part := some x.part, dkind := 4, detail := off + e.poolDev * 2 ^ 48 }
          let i' := { i with owed := addOwed e.poolDev 1 i.owed }
          match s.sendRequest (.upd i.gdie i.serial) e.viaF e.poolDev x.part x.ctx s.time.now false (s.updFrames u e.poolDev off) with
          | (.ok _, t) => (i', t)
          | (.error c, t) => if c = 0x0430 then (i', t.charge x.ring x.seq 0 { f with code := c }) else (i', t.raise { f with code := c })

/-- Sends the records of a batch in order. -/
def State.sendRecords (s : State) (x : Sub) (im : Image) (i : Ingest) (b : Batch) (l : List Gran) (pos : Nat) : List BatchR → Ingest × State
  | [] => (i, s)
  | r :: t =>
    let (i, s) := s.sendRecord x im i b l pos r
    s.sendRecords x im i b l (pos + 1) t

/-- The batch has been read: it is validated as a whole, then its records go to their homes (R250, R256, R474). -/
def State.batchDone (s : State) (x : Sub) (l : List Gran) : State :=
  let g := s.fld .gthUpdCtrl x.part 3 0
  let im := (s.imageAt x.part x.start).getD (Image.of 0)
  let b := Batch.of l im
  let code := batchCode l im x.nRec x.lines
  let code := if code = 0 ∧ gransPoison l b.h.recOff b.h.recBytes then 0x0240 else code
  if code ≠ 0 then (s.setSub { x with ran := true }).charge x.ring x.seq 0 (updFault s g x.ctx x.part code)
  else
    let s := s.setSub { x with ran := true }
    let i : Ingest := { ring := x.ring, seq := x.seq, serial := x.serial, saddle := x.start, gdie := g, part := x.part, window := im.saddleUpd,
                        reportOff := b.h.reportOff, reportMax := b.h.reportMax, dropped := 0, homes := [], owed := [] }
    let (i, s) := s.sendRecords x im i b l 0 b.recs
    s.setUpd { s.upd with ingests := i :: s.upd.ingests }

/-- An accepted update whose batch has not been read. -/
def State.batchSub (s : State) (ring seq : Nat) : Option Sub :=
  match s.sub? ring seq with
  | some x => if x.kind = 0x80 ∧ x.st = .accepted ∧ x.code = 0 ∧ !x.ran ∧ !x.done then some x else none
  | none => none

/-- UPDATE_BATCH_READ_DONE (R27, R28, R250, R256, R324): the ingest G-die has read the batch. `data` is what a batch in host memory reads as;
poison in it is recorded (R367), and through a port that is fenced it reads poisoned (R408, R409). A batch of which a packet is discarded
never comes. -/
def execUpdateBatchReadDone (ring : Fin 4096) (seq : Word) (data : List Gran) (bad : List Blemish) (edges : List EdgeErr) (s : State) :
    Outcome State Fault Refusal :=
  match s.batchSub ring.val seq.toNat with
  | none => .next s
  | some x =>
    if !s.domainRuns then .next s
    else if x.buf0.dev then
      match s.readOver (Who.die_ (dieG (s.fld .gthUpdCtrl x.part 3 0))) x.ctx x.buf0.addr (x.buf0.len / 16) bad edges with
      | (some l, _, s) => .next (s.batchDone x l)
      | (none, _, s) => .next (s.setSub { x with ran := true })
    else if s.reads.any fun q => q.purpose == ReadFor.batch x.ring x.seq then
      let s := s.setReads (s.reads.filter fun q => q.purpose != ReadFor.batch x.ring x.seq)
      let l := data.take (x.buf0.len / 16)
      .next ((s.hostPoison x.ctx x.part l).batchDone x l)
    else
      let h := s.admitH x.part
      let s := (s.raise (portFault s h 0x0902 x.ctx x.part)).fencedAccess h x.ring x.seq 0 x.ctx x.part
      .next (s.batchDone x (poisonGrans (x.buf0.len / 16)))

/-! ## Arrival at the home (R258, R261, R273) -/

/-- ID to which a record was addressed: the device's own, or that of the CXL member that holds the row (R439, R441; log 65). -/
def State.homeDev (s : State) (st : Staged) : Nat := match st.cxl with | some h => s.fld .vstCxl h 15 0 | none => s.devId

/-- The account of a source submission at a home, made where there is none. -/
def State.outcome (s : State) (st : Staged) : HomeOut :=
  match s.upd.outcomes.find? fun o => o.dev == s.homeDev st && o.gdie == st.gdie && o.src == st.u.src.toNat && o.serial == st.u.serial.toNat && !o.sent with
  | some o => o
  | none => { dev := s.homeDev st, gdie := st.gdie, src := st.u.src.toNat, serial := st.u.serial.toNat, saddle := st.u.saddle.toNat, part := st.part, port := st.port,
              ctx := if st.cxl.isSome then none else some st.ctx, status := 0, statusAt := 0, nonfin := 0, records := 0, rows := 0, sent := false }

def HomeOut.same (a b : HomeOut) : Bool := a.dev == b.dev && a.gdie == b.gdie && a.src == b.src && a.serial == b.serial && a.sent == b.sent

def State.setOutcome (s : State) (o : HomeOut) : State :=
  s.setUpd { s.upd with outcomes := o :: s.upd.outcomes.filter fun x => !x.same o }

/-- Index by which a home sorts a record's row (R262): a local record's own; where a record carries none, the number of the extent from the
BASE of the home partition's table, or on a CXL member from offset 0 (log 63). -/
def State.rowIndex (s : State) (st : Staged) : Nat :=
  let k := max 1 (256 * st.u.stride.toNat)
  if st.port.isNone then st.u.index.toNat
  else
    match st.cxl, (s.part st.part).image.bind fun im => im.table st.u.tableId.toNat with
    | none, some e => if e.base ≤ st.va then (st.va - e.base) / k else st.va / k
    | _, _ => st.va / k

/-- Place of a record's row in the order of R262, within one saddle. -/
def State.rowKey (s : State) (st : Staged) : Nat := st.u.tableId.toNat * 2 ^ 64 + s.rowIndex st

/-- What tells the rows at a home apart: the table and the extent, by its memory address or its place on a CXL member. -/
def State.extentOf (s : State) (st : Staged) : Nat × Nat :=
  (st.u.tableId.toNat,
    match st.cxl with
    | some h => 2 ^ 63 + h * 2 ^ 48 + st.va
    | none => match s.translate st.ctx st.va false with | .ok (a, _) => a | .error _ => 2 ^ 62 + st.va)

/-- The first code of a home in row order (R274). -/
def HomeOut.fail (o : HomeOut) (code key : Nat) : HomeOut :=
  if o.status = 0 ∨ key < o.statusAt then { o with status := code, statusAt := key } else o

/-- Lines of a cap-table entry for a source at a G-die, none where it has no entry (R258). -/
def State.capOf (s : State) (g src : Nat) : Option Nat :=
  ((List.range 256).find? fun e => s.flag .gthUpdCap (256 * g + e) 30 && s.fld .gthUpdCap (256 * g + e) 15 0 == src).map fun e => s.fld .gthUpdCap (256 * g + e) 29 16

def State.capUsed (s : State) (g src saddle : Nat) : Nat :=
  ((s.upd.cap.filter fun c => c.1 == g && c.2.1 == src && c.2.2.1 == saddle).map (·.2.2.2)).foldl (· + ·) 0

/-- The code with which a home rejects a record on arrival, 0 for none (R258, R261, R273). -/
def State.rejects (s : State) (st : Staged) : Nat :=
  let saddle := st.u.saddle.toNat
  if s.time.now > saddle - 256 ∨ saddle < 256 then 0x0530
  else
    match s.capOf st.gdie st.u.src.toNat with
    | none => 0x0674
    | some c =>
      if s.capUsed st.gdie st.u.src.toNat saddle + st.u.stride.toNat > c then 0x0674
      else if !s.dieOk (dieG st.gdie) || (st.cxl.isNone && (match s.homeOf (s.translate st.ctx) st.va with | some g => g != st.gdie | none => false)) then 0x04C0
      else 0

/-- Mesh die from which a record comes: the partition's ingest G-die, or the F-die of its port (R250, R438). -/
def State.recordFrom (s : State) (st : Staged) : Nat :=
  match st.port with
  | some q => dieF (q / 8)
  | none => dieG (s.fld .gthUpdCtrl st.part 3 0)

/-- A record at its home: received, and staged or rejected with a code. -/
def State.takeRecord (s : State) (st : Staged) (code : Nat) : State :=
  let o := s.outcome st
  let o := { o with records := satAdd (2 ^ 32 - 1) o.records 1 }
  if code ≠ 0 then (s.setOutcome (o.fail code (s.rowKey st))).raise (st.fault s code)
  else
    let s := s.setOutcome o
    s.setUpd { s.upd with staging := s.upd.staging ++ [st], cap := (st.gdie, st.u.src.toNat, st.u.saddle.toNat, st.u.stride.toNat) :: s.upd.cap }

/-- UPDATE_RECORD_ARRIVAL (R25, R27, R28, R258, R261): a record on its way reaches its home and is staged or rejected. Records from one die
arrive in the order sent. -/
def execUpdateRecordArrival (gdie : Fin 16) (u : UpdRec) (edges : List EdgeErr) (s : State) : Outcome State Fault Refusal :=
  match s.upd.flight.find? fun st => st.gdie == gdie.val && st.u == u with
  | none => .next s
  | some st =>
    if (s.upd.flight.find? fun x => x.gdie == st.gdie && s.recordFrom x == s.recordFrom st) ≠ some st then .next s
    else
      let s := s.setUpd { s.upd with flight := s.upd.flight.erase st }
      match s.sendOver (s.recordFrom st) (dieG gdie.val) (mkGrans (fun _ => u.poison) u.data (ceilDiv u.data.length 16) 0) edges with
      | (none, s) => .next s
      | (some l, s) =>
        let st := { st with u := { u with data := (gransBytes l).take u.data.length, poison := u.poison || l.any (·.poison) } }
        .next (s.takeRecord st (s.rejects st))

/-- UPDATE_CLOSE (R260, R261): at S − 256 the records staged for S leave the collecting bank. -/
def execUpdateClose (gdie : Fin 16) (s : State) : Outcome State Fault Refusal :=
  let due := fun st : Staged => st.gdie == gdie.val && decide (st.u.saddle.toNat ≤ s.time.now + 256)
  .next (s.setUpd { s.upd with staging := s.upd.staging.filter fun st => !due st, applying := s.upd.applying ++ s.upd.staging.filter due })

/-! ## The optimiser (R263 to R266) -/

def fsub32 (a b : Nat) : Nat := Fmt.pat .fp32 (fpAdd (f32 a) (fpNeg (f32 b)))

def one32 : Nat := 0x3F800000

/-- Optimiser state as FP32 patterns: G, or the moments m and v (R219, R264). -/
structure OptSt where
  a : List Nat
  b : List Nat
  deriving DecidableEq, Repr

/-- +0 state of an optimiser. -/
def OptSt.zero (opt dim : Nat) : OptSt :=
  if opt = 1 then { a := [0], b := [] } else if opt = 2 then { a := List.replicate dim 0, b := List.replicate dim 0 } else { a := [], b := [] }

/-- The state of an extent's granules (R219). -/
def OptSt.of (k : RowKind) (l : List Gran) : OptSt :=
  let at_ := optAt k.twide k.dim
  let bf := fun o => (List.range k.dim).map fun j => convert .bf16 .fp32 0 0 ((gransNat l (o + 2 * j) 2).getD 0)
  if k.opt = 1 then { a := [(gransNat l at_ 4).getD 0], b := [] }
  else if k.opt = 2 then { a := bf at_, b := bf (at_ + 2 * k.dim) }
  else { a := [], b := [] }

/-- The state as bytes, padded to granules (R219). -/
def OptSt.bytes (o : OptSt) (opt dim : Nat) : List Byte :=
  let bs := if opt = 1 then leBytes 4 (o.a.headD 0)
    else if opt = 2 then (o.a ++ o.b).flatMap fun v => leBytes 2 (convert .fp32 .bf16 0 0 v)
    else []
  bs ++ List.replicate (optBytes opt dim - bs.length) 0

/-- One step of SGD (R264). -/
def sgdStep (lr : Nat) (w g : List Nat) : List Nat := (w.zip g).map fun p => fsub32 p.1 (fmul32 lr p.2)

/-- Row-wise Adagrad (R264). -/
def adagradStep (lr eps : Nat) (w g : List Nat) (st : OptSt) : List Nat × OptSt :=
  let sq := g.map fun x => fmul32 x x
  let a := match sq with | [] => 0 | x :: t => t.foldl fadd32 x
  let gg := fadd32 (st.a.headD 0) (fdiv32 a (Fmt.pat .fp32 (fpOfInt g.length)))
  let d := fadd32 (fsqrt32 gg) eps
  ((w.zip g).map fun p => fsub32 p.1 (fdiv32 (fmul32 lr p.2) d), { a := [gg], b := [] })

/-- A value rounded to BF16 and widened again. -/
def toBf (v : Nat) : Nat := convert .bf16 .fp32 0 0 (convert .fp32 .bf16 0 0 v)

/-- Adam (R264): the step uses the rounded moments. -/
def adamStep (u : UpdRec) (w g : List Nat) (st : OptSt) : List Nat × OptSt :=
  let lr := u.lr.toNat
  let b1 := u.b1.toNat
  let b2 := u.b2.toNat
  let n1 := fsub32 one32 b1
  let n2 := fsub32 one32 b2
  let m := (st.a.zip g).map fun p => toBf (fadd32 (fmul32 b1 p.1) (fmul32 n1 p.2))
  let v := (st.b.zip g).map fun p => toBf (fadd32 (fmul32 b2 p.1) (fmul32 n2 (fmul32 p.2 p.2)))
  let step := (m.zip v).map fun p => fdiv32 (fmul32 p.1 u.c1.toNat) (fadd32 (fsqrt32 (fmul32 p.2 u.c2.toNat)) u.eps.toNat)
  ((w.zip step).map fun p => fsub32 p.1 (fmul32 lr p.2), { a := m, b := v })

/-- A row while its records merge (R263). -/
structure RowSt where
  w : List Nat
  st : OptSt
  tier : Nat
  g : Option (List Nat)
  /-- hyperparameters of the gradients -/
  by_ : Option UpdRec
  assigned : Bool
  deriving DecidableEq, Repr

/-- Elements of a record's data as FP32 (R255). -/
def UpdRec.elems (u : UpdRec) : List Nat :=
  (List.range (u.dimM1.toNat + 1)).map fun j =>
    if u.gfmt.toNat = 6 then leNat ((u.data.drop (4 * j)).take 4) else convert .bf16 .fp32 0 0 (leNat ((u.data.drop (2 * j)).take 2))

/-- One record of a row (R263). -/
def RowSt.apply (r : RowSt) (u : UpdRec) : RowSt :=
  match u.mode.toNat with
  | 1 => { w := (UpdRec.elems u), st := OptSt.zero u.opt.toNat (u.dimM1.toNat + 1), tier := u.tier.toNat, g := none, by_ := none, assigned := true }
  | 2 => { r with tier := u.tier.toNat }
  | _ => { r with g := some (match r.g with | none => (UpdRec.elems u) | some g => (g.zip (UpdRec.elems u)).map fun p => fadd32 p.1 p.2), by_ := some u }

/-- The one optimiser step of a row (R264). -/
def RowSt.optimise (r : RowSt) : RowSt :=
  match r.g, r.by_ with
  | some g, some u =>
    let (w, st) : List Nat × OptSt :=
      match u.opt.toNat with
      | 0 => (sgdStep u.lr.toNat r.w g, r.st)
      | 1 => adagradStep u.lr.toNat u.eps.toNat r.w g r.st
      | _ => adamStep u r.w g r.st
    { r with w := w, st := st }
  | _, _ => r

/-- Largest magnitude (R265). -/
def maxAbs (w : List Nat) : Nat := w.foldl (fun m x => veMax true true m (x % 2 ^ 31)) 0

/-- quantise of R265: element patterns of the tier and SCALE. -/
def quantise (w : List Nat) (tier scale : Nat) : List Nat × Nat :=
  if tier = 0 then (w.map (convert .fp32 .bf16 0 0), scale)
  else
    let m := maxAbs w
    let q := match tier with | 1 => 0x43E00000 | 2 => 0x42FE0000 | _ => 0x40E00000
    if m = 0 then (w.map fun _ => 0, one32)
    else
      let sc := fdiv32 m q
      (w.map fun x => convert .fp32 (tierFmt tier) 0 0 (fdiv32 x sc), sc)

/-- A pattern of a format is finite. -/
def Fmt.finite (f : Fmt) (b : Nat) : Bool := f.isInt || (match f.value b with | .fin .. => true | .nan => false | .inf _ => false)

/-- Elements of `w` bits packed into bytes, the first in the low bits (R161). -/
def packElems (w : Nat) (l : List Nat) : List Byte :=
  if w = 4 then
    leBytes (ceilDiv l.length 2) (leNat2 l)
  else l.flatMap fun x => leBytes (w / 8) x
where
  leNat2 : List Nat → Nat
    | [] => 0
    | x :: t => x % 16 + 16 * leNat2 t

/-- The row that a row's records give, or none where it is not finite (R263): tier, SCALE, data and state bytes. -/
def RowSt.result (r : RowSt) (k : RowKind) (scale : Nat) : Option (Nat × Nat × List Byte × List Byte) :=
  let r := r.optimise
  let (els, sc) := quantise r.w r.tier scale
  let f := tierFmt r.tier
  let fin := els.all (Fmt.finite f) && (r.st.a ++ r.st.b).all isFin32
  if fin then
    let d := packElems f.bits els
    some (r.tier, sc, d ++ List.replicate (ceilDiv (tierBytes k.twide k.dim) 16 * 16 - d.length) 0, r.st.bytes k.opt k.dim)
  else none

/-- Bytes of the new extent before those that it leaves as they were (R219, R220, R263). -/
def newRow (k : RowKind) (version : Nat) (res : Nat × Nat × List Byte × List Byte) : List Byte :=
  leBytes 16 (RowHdr.word { version := version % 2 ^ 32, width := k.dim, tier := res.1, opt := k.opt, tableId := k.tableId, scale := res.2.1 }) ++ res.2.2.1 ++ res.2.2.2

/-! ## Commit (R262, R263, R268, R273) -/

/-- Order of R262 on records of one row. -/
def recKey (u : UpdRec) : Nat := (u.src.toNat * 2 ^ 32 + u.serial.toNat) * 2 ^ 32 + u.pos.toNat

/-- SADDLE_UPD of a home for a partition's rows; rows on a CXL member follow the G-die's governing window (R110, R259; log 131). -/
def State.homeWindow (s : State) (g part : Nat) : Nat :=
  match (s.part part).image with
  | some im => if part < 64 then im.saddleUpd else s.window g []
  | none => s.window g []

/-- The home partition's image at the saddle updates this table (R273). A row on a CXL member has no home partition (log 131). -/
def State.updatable (s : State) (st : Staged) : Bool :=
  st.cxl.isSome || match (s.part st.part).image with
  | some im => im.upd && (im.table st.u.tableId.toNat).isSome
  | none => false

/-- The records of the next row that a home commits, in sorted order: those of the lowest saddle, then of the lowest row. Rows commit in the
window of their saddle (R110, R267), and those of a partition that is fenced no more (R273); rows that are only rejected have no window. -/
def State.nextRow (s : State) (g : Nat) : List Staged :=
  let due := s.upd.applying.filter fun st =>
    st.gdie == g && !st.lost && decide (st.u.saddle.toNat ≤ s.time.now) &&
      (decide (s.time.now ≤ st.u.saddle.toNat + s.homeWindow g st.part) || !s.updatable st) && (st.cxl.isSome || !fencedBy (s.part st.part).reset)
  let key := fun st : Staged => st.u.saddle.toNat * 2 ^ 96 + s.rowKey st
  match sortBy key due with
  | [] => []
  | x :: _ => sortBy (fun st : Staged => recKey st.u) (due.filter fun st => st.u.saddle == x.u.saddle && s.extentOf st == s.extentOf x)

/-- Accounts for every record of a row at its home. -/
def State.rowOutcome (s : State) (row : List Staged) (f : HomeOut → HomeOut) : State :=
  let subs := (row.map fun st => (st.u.src, st.u.serial)).dedup
  subs.foldl (fun s q =>
    match row.find? fun st => st.u.src == q.1 && st.u.serial == q.2 with
    | some st => s.setOutcome (f (s.outcome st))
    | none => s) s

/-- Removes a row's records from the bank that is being applied. -/
def State.rowGone (s : State) (row : List Staged) : State := s.setUpd { s.upd with applying := s.upd.applying.filter fun st => !row.contains st }

/-- A row that fails keeps its old version; its records carry the code (R273). -/
def State.rowFails (s : State) (row : List Staged) (code : Nat) : State :=
  match row with
  | [] => s
  | st :: _ => ((s.rowOutcome row (HomeOut.fail · code (s.rowKey st))).rowGone row).raise (st.fault s code)

/-- A row committed for its records (R274). -/
def HomeOut.committed (o : HomeOut) : HomeOut := { o with rows := satAdd (2 ^ 32 - 1) o.rows 1 }
def HomeOut.notFinite (o : HomeOut) : HomeOut := { o with nonfin := satAdd 65535 o.nonfin 1 }

/-- What the records of a row make of its extent: none where the row fails, with the code; otherwise the bytes to write, none where the
result is not finite (R263, R273). `free` stands for what a poisoned header does not tell. -/
def mergeRow (k : RowKind) (row : List Staged) (l : List Gran) (free : Nat) : Except Nat (Option (List Byte)) :=
  let hp := (l.headD { data := 0, poison := true }).poison
  let raw := (l.headD { data := 0, poison := true }).data.toNat
  let h := RowHdr.of (if hp then free % 2 ^ 128 else raw)
  let bad := l.any (·.poison)
  let assigns := row.any fun st => st.u.mode == 1
  if bad && !assigns then .error 0x0102
  else if !bad && !k.hdrOk h then .error 0x04C1
  else
    let r0 : RowSt := { w := if bad then List.replicate k.dim 0 else rowVals l h k.dim, st := if bad then OptSt.zero k.opt k.dim else OptSt.of k l, tier := h.tier,
                        g := none, by_ := none, assigned := false }
    let r := (row.map (·.u)).foldl RowSt.apply r0
    .ok ((r.result k h.scale).map (newRow k (h.version + 1)))

/-- Whole granules of the new extent: the bytes beyond the state stay as they were, unpoisoned (R219, R273). -/
def extentGrans (l : List Gran) (bs : List Byte) : List Gran :=
  let n := ceilDiv bs.length 16
  mkGrans (fun _ => false) bs n 0 ++ (l.drop n).map fun (g : Gran) => { g with poison := false }

/-- The records of a row whose packet was discarded stay in the bank: their home never reports (R28, R275). -/
def State.rowLost (s : State) (row : List Staged) : State :=
  s.setUpd { s.upd with applying := s.upd.applying.map fun (st : Staged) => if row.contains st then { st with lost := true } else st }

/-- C-die on whose stack a line of an extent lies. -/
def State.lineDie (s : State) (tr : Nat → Bool → Except Nat (Nat × Nat)) (va i : Nat) : Option Nat := (s.hbmOf tr none (va + 16 * i)).map (·.2.2)

/-- Commits a row in HBM (R27, R28, R268): every line's page is looked up for the write before the first one is written. `edges` are the
errors on the way of the read, `back` those on the way of the write. -/
def State.commitRow (s : State) (row : List Staged) (upset : List Upset) (edges back : List EdgeErr) : State :=
  match row with
  | [] => s
  | st :: _ =>
    let k := UpdRec.kind st.u
    let tr := s.translateAt (dieG st.gdie) st.ctx
    let die := s.lineDie tr st.va
    let s := s.fillFirst (Who.first (Who.updater st.gdie)) st.ctx st.va (256 * k.stride)
    match s.fetchOver (dieG st.gdie) die (16 * k.stride) edges fun _ _ s => s.extentLines st.gdie st.ctx tr st.va upset 0 k.stride with
    | (none, _, s) => s.rowLost row
    | (some l, c, s) =>
      if c ≠ 0 then s.rowFails row c
      else
        match (List.range k.stride).findSome? fun i => match tr (st.va + 256 * i) true with | .error c => some c | .ok _ => none with
        | some c => s.rowFails row c
        | none =>
          let (free, s) := s.draw
          match mergeRow k row l free with
          | .error c => s.rowFails row c
          | .ok none => (s.rowOutcome row HomeOut.notFinite).rowGone row
          | .ok (some bs) =>
            let (c, s) := s.carryOver (dieG st.gdie) die (extentGrans l bs) back fun i l s => s.devWrite (Who.updater st.gdie) st.ctx (st.va + 16 * i) l
            if c.getD 0 ≠ 0 then s.rowFails row (c.getD 0) else (s.rowOutcome row HomeOut.committed).rowGone row

/-- Starts a CXL.mem access of an H-die (R440, R441). -/
def State.cxlStart (s : State) (hdie : Nat) (purpose : CxlFor) (off n : Nat) (locked : Bool) (phase : CxlPhase) (data : List Gran) : State :=
  let q : CxlReq := { id := s.nextId, hdie := hdie, purpose := purpose, off := off, n := n, locked := locked, phase := phase, data := data }
  let s := (s.setFab { s.fab with cxl := s.fab.cxl ++ [q] }).setNextId (s.nextId + 1)
  match phase with
  | .reading => s.emit (.cxlRead hdie q.id off n)
  | .writing => s.emit (.cxlWrite hdie q.id off data)
  | .waiting | .read => s

/-- The access of HOME_G for the row that it commits. -/
def State.cxlRow (s : State) (g : Nat) : Option CxlReq := s.fab.cxl.find? fun q => q.purpose == CxlFor.row g

/-- The next step of a row on a CXL member (R27, R28, R441): its lines are read, the new version is computed, and every line is written
before the row is committed. It begins when no other access of its lines is under way, and holds them from then on (R269). `edges` are the
errors on the way from the G-die to the H-die. -/
def State.commitCxl (s : State) (row : List Staged) (hdie : Nat) (edges : List EdgeErr) : State :=
  match row with
  | [] => s
  | st :: _ =>
    let k := UpdRec.kind st.u
    match s.cxlRow st.gdie with
    | none =>
      let busy := s.fab.cxl.any fun q => q.hdie == hdie && q.phase != .waiting && decide (q.off < st.va + 256 * k.stride ∧ st.va < q.off + max 1 q.n)
      if busy then s
      else
        match s.sendOver (dieG st.gdie) (dieH hdie) [] edges with
        | (none, s) => s.rowLost row
        | (some _, s) => s.cxlStart hdie (.row st.gdie) st.va (256 * k.stride) true .reading []
    | some q =>
      if q.phase ≠ .read then s
      else
        let s := s.setFab { s.fab with cxl := s.fab.cxl.filter (·.id != q.id) }
        let (free, s) := s.draw
        match mergeRow k row q.data free with
        | .error c => s.rowFails row (if c = 0x0102 then 0x0109 else c)
        | .ok none => (s.rowOutcome row HomeOut.notFinite).rowGone row
        | .ok (some bs) =>
          match s.sendOver (dieG st.gdie) (dieH hdie) (extentGrans q.data bs) edges with
          | (none, s) => s.rowLost row
          | (some l, s) => s.cxlStart hdie (.row st.gdie) st.va (256 * k.stride) true .writing l

/-- A record with one granule of its data as it decoded; poison in it poisons the record (R322, R324). -/
def UpdRec.putGran (u : UpdRec) (j : Nat) (g : Gran) : UpdRec :=
  { u with data := (u.data.take (16 * j) ++ granBytes g ++ u.data.drop (16 * (j + 1))).take u.data.length, poison := u.poison || g.poison }

/-- What the update unit reads of a row's records in its staging SRAM (R325): a granule that is corrected, or that is uncorrectable and makes
its record poisoned. `l` names records of the row by their place in sorted order. The bank is that of the saddle, and the byte offset in the
record is the model's layout of it (log 38). -/
def State.meetStaged (s : State) (row : List Staged) : List (Nat × Upset) → List Staged × State
  | [] => (row, s)
  | (i, u) :: t =>
    match row[i]? with
    | none => s.meetStaged row t
    | some st =>
      let g := (mkGrans (fun _ => st.u.poison) st.u.data (ceilDiv st.u.data.length 16) 0).getD u.gran { data := 0, poison := false }
      let unit := 0x20 + st.u.saddle.toNat / 4096 % 2
      let f (code : Nat) : FaultRec := { FaultRec.new s code (some (dieG st.gdie)) unit with dkind := 9, detail := 2048 * i + 16 * u.gran + 5 * 2 ^ 32 }
      let data := Nat.xor g.data.toNat u.data.toNat
      let o := decodeWord data (Nat.xor (storedCheck g) u.check.toNat)
      let row := row.set i { st with u := UpdRec.putGran st.u u.gran (o.gran data) }
      match o with
      | .clean | .poisoned => s.meetStaged row t
      | .corrected .. => (s.raise (f 0x0101)).meetStaged row t
      | .uncorrectable => ((s.bump (dieG st.gdie) unit 0xC0 (2 ^ 32 - 1) 1).raise (f 0x0103)).meetStaged row t

/-- Records of the image of a row's home partition; a row on a CXL member has none (log 131). -/
def State.rowRsvs (s : State) (st : Staged) : Option (List (ImgRsv × Nat)) :=
  if st.cxl.isSome then none else (s.part st.part).image.map fun im => im.rsvs.map fun r => (r, im.cycle)

/-- Ticks since a saddle, the present one among them, in which a row's update unit runs: those that records of kind 0x6 reserve (R102, R110). -/
def State.updTicks (s : State) (st : Staged) : Nat :=
  let n := s.time.now + 1 - st.u.saddle.toNat
  match s.rowRsvs st with
  | some l => ((List.range n).filter fun i => decide (0 < sumAt l 6 st.gdie (st.u.saddle.toNat + i))).length
  | none => n

/-- The update unit reads and writes 16 lines a tick (R267): the lines up to which it has worked once it has done `n` more, none where it
cannot do them by the end of the present tick. -/
def State.paceAfter (s : State) (st : Staged) (n : Nat) : Option Nat :=
  let t := s.updTicks st
  let done := smGet 0 s.upd.pace st.gdie + n
  if done ≤ 16 * t then some (max done (16 * (t - 1) + min n 16)) else none

/-- Pseudo-channels of the lines of a row's extent. -/
def State.rowPcs (s : State) (st : Staged) : List Nat :=
  let tr := s.translateAt (dieG st.gdie) st.ctx
  (List.range st.u.stride.toNat).filterMap fun i =>
    match tr (st.va + 256 * i) false with
    | .error _ => none
    | .ok (a, _) => ((s.regionOf a).bind fun r => (s.region r).place a none).map (·.1)

/-- Lines on a pseudo-channel that records of kind 0x1 reserve in the memory slots since a saddle, the present one among them (R102, R110). -/
def State.updLines (s : State) (st : Staged) (pc : Nat) : Option Nat :=
  (s.rowRsvs st).map fun l =>
    ((List.range ((s.time.now - st.u.saddle.toNat) / 4 + 1)).map fun i => sumAt l 1 pc (st.u.saddle.toNat + 4 * i)).foldl (· + ·) 0

/-- The update unit draws a row's lines, read and written, on their pseudo-channels (R318): none where a pseudo-channel's records do not reach
so far yet. -/
def State.drawRow (s : State) (st : Staged) : Option (SMap Nat) :=
  let d := (s.rowPcs st).foldl (fun m pc => smSet 0 m pc (smGet 0 m pc + 2)) s.upd.drawn
  if (s.rowPcs st).all fun pc => (s.updLines st pc).all (smGet 0 d pc ≤ ·) then some d else none

/-- The row's turn under R102, R110 and R267, with what it takes; none where it waits for a later tick. -/
def State.paceRow (s : State) (st : Staged) : Option State :=
  match s.paceAfter st st.u.stride.toNat, s.drawRow st with
  | some done, some d => some (s.setUpd { s.upd with pace := smSet 0 s.upd.pace st.gdie done, drawn := d })
  | _, _ => none

/-- A row whose turn it is (R263, R268, R273, R325, R441): its records are read from the staging SRAM, and it fails or is committed. -/
def State.applyRow (s : State) (row : List Staged) (st : Staged) (upset : List Upset) (staged : List (Nat × Upset)) (edges back : List EdgeErr) : State :=
  let (seen, s) := s.meetStaged row staged
  if seen.any (·.u.poison) then s.rowFails row 0x0230
  else
    match st.cxl with
    | some h => s.commitCxl row h edges
    | none => s.commitRow row upset edges back

/-- ROW_COMMIT (R27, R28, R262 to R268, R273, R441): the next row of a home's saddle, in sorted order, is read, merged and committed. A row on a
CXL member that is being read goes on without drawing its lines again. -/
def execRowCommit (gdie : Fin 16) (upset : List Upset) (staged : List (Nat × Upset)) (edges back : List EdgeErr) (s : State) : Outcome State Fault Refusal :=
  let row := s.nextRow gdie.val
  match row with
  | [] => .next s
  | st :: _ =>
    if !s.domainRuns || !s.dieOk (dieG gdie.val) then .next s
    else if !s.updatable st then .next (s.rowFails row 0x0673)
    else if st.cxl.isSome && (s.cxlRow gdie.val).isSome then .next (s.applyRow row st upset staged edges back)
    else
      match s.paceRow st with
      | none => .next s
      | some s => .next (s.applyRow row st upset staged edges back)

/-! ## The report (R274 to R276) -/

/-- A record of the source submission is still staged or being applied at a home. -/
def State.homeBusy (s : State) (g src serial : Nat) : Bool :=
  (s.upd.staging ++ s.upd.applying).any fun st => st.gdie == g && st.u.src.toNat == src && st.u.serial.toNat == serial

/-- The UPD_RPT of an outcome (R438). -/
def State.rptFrame (s : State) (o : HomeOut) : Frame :=
  { s.reqFrame 6 o.src o.serial 16 with src := BitVec.ofNat 16 o.dev, payload :=
      [{ data := BitVec.ofNat 128 (pack [(0, 4, o.gdie), (16, 16, o.status), (32, 16, o.nonfin), (64, 32, o.records), (96, 32, o.rows)]), poison := false }] }

/-- An outcome on its way to the ingest G-die, behind those that went before it. -/
def State.sendOutcome (s : State) (o : HomeOut) : State := s.setUpd { s.upd with outcomes := s.upd.outcomes ++ [{ o with sent := true }] }

/-- Sends the outcome of a home by the fabric (R274, R427): through the F-die by which the source's first record came (log 161). A home in a
partition's memory needs POOL_EN of its context. -/
def State.sendReport (s : State) (o : HomeOut) (q : Nat) : State :=
  let f := q / 8
  let bar := match o.ctx with | some c => s.sendBar c o.src f false | none => s.peerBar o.src f false
  if bar ≠ 0 then s.raise { FaultRec.new s bar (some (dieF f)) 0x28 with ctx := o.ctx, part := o.ctx.map fun _ => o.part }
  else
    match s.sendOn (s.portTo f o.src) o.src o.dev [s.rptFrame o] with
    | some (_, s) => s
    | none => s.connFull (s.portTo f o.src)

/-- UPDATE_REPORT_SEND (R274): after the window of S a home sends its outcome to the ingest G-die, over the mesh or the fabric. -/
def execUpdateReportSend (gdie : Fin 16) (src : BitVec 16) (serial : Word) (s : State) : Outcome State Fault Refusal :=
  match s.upd.outcomes.find? fun o => o.gdie == gdie.val && o.src == src.toNat && o.serial == serial.toNat && !o.sent with
  | none => .next s
  | some o =>
    if s.time.now < o.saddle + s.homeWindow gdie.val o.part ∨ s.homeBusy gdie.val src.toNat serial.toNat then .next s
    else
      let s := s.setUpd { s.upd with outcomes := s.upd.outcomes.filter fun x => !x.same o }
      match o.port with
      | none => .next (s.sendOutcome o)
      | some q => if s.isSelf o.src then .next (s.sendOutcome o) else .next (s.sendReport o q)

/-- Order of R274 on homes. -/
def HomeRep.key (h : HomeRep) : Nat := h.dev * 16 + h.gdie

/-- The report's bytes (R274). -/
def Ingest.report (i : Ingest) : List Byte :=
  let homes := sortBy HomeRep.key i.homes
  leBytes 16 (pack [(0, 16, min 65535 homes.length), (32, 32, i.dropped), (64, 32, i.serial), (96, 32, bits i.saddle 43 12)]) ++
    (homes.take i.reportMax).flatMap fun h => leBytes 16 (pack [(0, 16, h.dev), (16, 4, h.gdie), (32, 16, h.status), (48, 16, h.nonfin), (64, 32, h.records), (96, 32, h.rows)])

/-- Every home has been accounted for. -/
def Ingest.complete (i : Ingest) : Bool := i.homes.all (·.done) && i.owed.all (·.2 == 0)

/-- The requests without the update records of a serial whose reports have come: of each member as many stay, the latest ones, as its reports
have not accounted for (R431; log 162). -/
def stillOwed (serial : Nat) (owed : List (Nat × Nat)) : List RemoteReq → List RemoteReq
  | [] => []
  | r :: t =>
    match r.purpose with
    | .upd _ n =>
      if n ≠ serial then r :: stillOwed serial owed t
      else if owed.any fun p => p.1 == r.peer && p.2 != 0 then
        r :: stillOwed serial (owed.map fun p => if p.1 = r.peer then (p.1, p.2 - 1) else p) t
      else stillOwed serial owed t
    | _ => r :: stillOwed serial owed t

/-- Update records that reports account for are outstanding no more (R431). -/
def State.settle (s : State) (serial : Nat) (owed : List (Nat × Nat)) : State := s.setFab { s.fab with reqs := stillOwed serial owed s.fab.reqs }

/-- Writes the report and completes the update (R274, R276). -/
def State.endIngest (s : State) (i : Ingest) (edges : List EdgeErr) : State :=
  let s := s.settle i.serial []
  let s := s.setUpd { s.upd with ingests := s.upd.ingests.filter fun j => j.serial != i.serial }
  match s.sub? i.ring i.seq with
  | none => s
  | some x =>
    let f := updFault s i.gdie x.ctx x.part 0
    let s := s.slotPut (Who.die_ (dieG i.gdie)) x 0 i.reportOff i.report f [] edges
    match (sortBy HomeRep.key i.homes).find? (·.status != 0) with
    | some h => s.charge i.ring i.seq 0 { f with code := h.status }
    | none => s.finish i.ring i.seq

/-- Stores an account, and ends it where it is complete and its saddle has come (R256, R274). -/
def State.putIngest (s : State) (i : Ingest) (edges : List EdgeErr) : State :=
  let s := (s.setUpd { s.upd with ingests := s.upd.ingests.map fun j => if j.serial == i.serial then i else j }).settle i.serial i.owed
  if i.complete && decide (i.saddle ≤ s.time.now) then s.endIngest i edges else s

/-- Takes a reply into an account. -/
def Ingest.reply (i : Ingest) (o : HomeOut) (own : Bool) : Ingest :=
  let i := (i.reach o.dev o.gdie).home o.dev o.gdie fun h =>
    { h with done := true, status := if h.status ≠ 0 then h.status else o.status, nonfin := o.nonfin, records := h.records + o.records, rows := o.rows }
  if own then i else { i with owed := i.owed.map fun p => if p.1 = o.dev then (p.1, p.2 - o.records) else p }

/-- Mesh die from which an outcome comes: the home G-die, or the F-die of its port (R274). -/
def HomeOut.origin (o : HomeOut) : Nat := match o.port with | some q => dieF (q / 8) | none => dieG o.gdie

/-- The ingest account of an outcome. -/
def State.ingestOf (s : State) (o : HomeOut) : Option Ingest := s.upd.ingests.find? fun i => i.serial == o.serial && i.saddle == o.saddle

/-- UPDATE_REPORT_ARRIVAL (R25, R27, R28, R274, R275): a home's outcome reaches the ingest G-die; with the last one the report is written.
Outcomes from one die to one ingest G-die arrive in the order sent; one that comes after its bound is discarded. -/
def execUpdateReportArrival (serial : Word) (dev : BitVec 16) (gdie : Fin 16) (edges : List EdgeErr) (s : State) : Outcome State Fault Refusal :=
  match s.upd.outcomes.find? fun o => o.sent && o.dev == dev.toNat && o.gdie == gdie.val && o.serial == serial.toNat with
  | none => .next s
  | some o =>
    let ends := fun x : HomeOut => (x.origin, (s.ingestOf x).map (·.gdie))
    if (s.upd.outcomes.find? fun x => x.sent && ends x == ends o) ≠ some o then .next s
    else
      let s := s.setUpd { s.upd with outcomes := s.upd.outcomes.filter fun x => !x.same o }
      match s.ingestOf o with
      | none => .next s
      | some i =>
        match s.sendOver o.origin (dieG i.gdie) [] edges with
        | (none, s) => .next s
        | (some _, s) =>
          if s.time.now > i.saddle + i.window + 2000 ∨ (i.homes.any fun h => h.dev == o.dev && h.gdie == o.gdie && h.done && h.status == 0x0510) then .next s
          else .next (s.putIngest (i.reply o o.port.isNone) edges)

/-- A home that has not replied in time, with the number of its records where it is on another device (R275). -/
def Ingest.silent (i : Ingest) (dev gdie records : Nat) : Ingest :=
  let own := i.homes.any fun h => h.dev == dev && h.gdie == gdie
  let i := (i.reach dev gdie).home dev gdie fun h => { h with done := true, status := 0x0510 }
  if own then i else { i with owed := i.owed.map fun p => if p.1 = dev then (p.1, p.2 - max 1 records) else p }

/-- UPDATE_REPORT_TIMEOUT (R275): a home's reply has not come by S + SADDLE_UPD + 2,000. `records` is the number of records that a home of
another device took, which the ingest G-die does not know (log 149). -/
def execUpdateReportTimeout (serial : Word) (dev : BitVec 16) (gdie : Fin 16) (records : Word) (edges : List EdgeErr) (s : State) :
    Outcome State Fault Refusal :=
  match s.upd.ingests.find? fun i => i.serial == serial.toNat with
  | none => .next s
  | some i =>
    let known := i.homes.find? fun h => h.dev == dev.toNat && h.gdie == gdie.val
    let waits := match known with
      | some h => !h.done
      | none => i.owed.any fun p => p.1 == dev.toNat && p.2 != 0
    if s.time.now ≤ i.saddle + i.window + 2000 ∨ !waits then .next s
    else .next (s.putIngest (i.silent dev.toNat gdie.val records.toNat) edges)

/-- At a saddle, an update without a home completes (R256), quota and cap charges of saddles past are gone, the update units begin anew, and
what the last saddle left in its bank goes: the bank collects the records of the next one (R260; log 150). -/
def State.saddleUpdates (s : State) : State :=
  let s := s.setUpd { s.upd with
    quota := s.upd.quota.filter fun q => decide (s.time.now < q.2.1), cap := s.upd.cap.filter fun c => decide (s.time.now < c.2.2.1)
    applying := s.upd.applying.filter fun st => decide (s.time.now < st.u.saddle.toNat + 4096), pace := [], drawn := [] }
  s.upd.ingests.foldl (fun s i => if i.complete && decide (i.saddle ≤ s.time.now) then s.endIngest i [] else s) s

/-- Discards the uncommitted records of a scope: their homes report 0x0705 (R273). Those whose close has not come stay, unless the scope takes
the staging SRAM. -/
def State.discardUpdates (s : State) (hit : Staged → Bool) (all : Bool) : State :=
  let gone := (if all then s.upd.staging.filter hit else []) ++ s.upd.applying.filter hit
  let s := gone.foldl (fun s st => s.setOutcome ((s.outcome st).fail 0x0705 (s.rowKey st))) s
  s.setUpd { s.upd with staging := if all then s.upd.staging.filter fun st => !hit st else s.upd.staging, applying := s.upd.applying.filter fun st => !hit st }

/-! ## Registers (R259, R571) -/

/-- A write of GTH_UPD_CTRL (R571). -/
def State.writeUpdCtrl (s : State) (p : Nat) (w : Word) : State :=
  let g := wbits w 3 0
  let busy := s.subs.any fun x => x.part == p && x.kind == 0x80 && x.st == .accepted
  let owns := (List.range 16).any fun k => s.wayOwner .gthRway g k == some p
  if (wbit w 4 && !owns) || !s.dieOk (dieG g) || busy then (s.setBit .gthUpdStatus 0 1).regErr (RG.off .gthUpdCtrl p) 4
  else s.putRw .gthUpdCtrl p w

/-- GTH_UPD_CTRL_WRITE (R571). -/
def execGthUpdCtrlWrite (port : Fin 4) (part : Fin 64) (w : Word) (s : State) : Outcome State Fault Refusal :=
  if s.reach port.val then .next (s.writeUpdCtrl part.val w) else .next s

/-- A write of GTH_UPD_QUOTA (R571). -/
def State.writeUpdQuota (s : State) (p : Nat) (w : Word) : State :=
  if wbits w 26 0 > 2 ^ 26 then (s.setBit .gthUpdStatus 0 2).regErr (RG.off .gthUpdQuota p) 4 else s.putRw .gthUpdQuota p w

/-- GTH_UPD_QUOTA_WRITE (R571). -/
def execGthUpdQuotaWrite (port : Fin 4) (part : Fin 64) (w : Word) (s : State) : Outcome State Fault Refusal :=
  if s.reach port.val then .next (s.writeUpdQuota part.val w) else .next s

/-- A write of a cap-table entry (R259, R571). -/
def State.writeUpdCap (s : State) (g e : Nat) (w : Word) : State :=
  let i := 256 * g + e
  let t := s.putRw .gthUpdCap i w
  let clash := wbit w 30 && (List.range 256).any fun j => j != e && s.flag .gthUpdCap (256 * g + j) 30 && s.fld .gthUpdCap (256 * g + j) 15 0 == wbits w 15 0
  if clash || !capFits (t.capSum g) (s.window g []) then (s.setBit .gthUpdStatus 0 0).regErr (RG.off .gthUpdCap i) 4 else t

/-- GTH_UPD_CAP_WRITE (R259, R571). -/
def execGthUpdCapWrite (port : Fin 4) (gdie : Fin 16) (entry : Fin 256) (w : Word) (s : State) : Outcome State Fault Refusal :=
  if s.reach port.val then .next (s.writeUpdCap gdie.val entry.val w) else .next s

end Sys2Proof.Machine
end

