-- ==== Sys2Proof/Machine/Transfers.lean ====
section
/-! DEFINITION. Steps of H- and F-dies: host transfers (12; R393 to R397) and fabric sends (13; R427 to R432). -/

namespace Sys2Proof.Machine

open Sys2Proof Host

/-! ## Steps that wait -/

def State.ustep? (s : State) (r : StepRef) : Option UStep := s.usteps.find? (·.r == r)

def State.dropUstep (s : State) (r : StepRef) : State := s.setUsteps (s.usteps.filter (·.r != r))

/-- Marks the step of a unit ended, and with it the instance's work where it was the last (R86). -/
def State.unitStepEnd (s : State) (r : StepRef) : State :=
  ((s.dropUstep r).endStep r.ring.val r.seq.toNat r.step).endInstance r.ring.val r.seq.toNat

/-- A step of an H- or F-die may begin: not ended, not begun, its time has come, and its unit takes new work (R77, R451, R459). -/
def State.unitMay (s : State) (x : Sub) (st : ImgStep) (r : StepRef) : Bool :=
  !x.ended.contains r.step && (s.ustep? r).isNone && decide (x.start + st.start ≤ s.time.now) && s.unitRuns x.part && s.dieOk st.unit

/-! ## The device end of a step -/

/-- Bytes from `exact` on become 0 (R393). -/
def zeroTail (exact : Nat) (l : List Gran) : List Gran :=
  l.mapIdx fun i (g : Gran) => if 16 * (i + 1) ≤ exact then g else { g with data := BitVec.ofNat 128 (g.data.toNat % 2 ^ (8 * (exact - 16 * i))) }

/-- Flawed codewords among `n` granules of die-shared SRAM that a die reads (R325). -/
def State.meetShared (s : State) (ctx cdie off n : Nat) (l : List Blemish) : State :=
  s.meetSram ctx [{ store := 5, unit := cdie, lo := off, hi := off + 16 * n }] l

/-- Reads `n` granules at the device end of a step (LOC_SP, LOC_DIE and LOC), with the flaws and the edges' errors that the read meets: no
granules where a packet of it was discarded. -/
def State.locRead (s : State) (die part ctx sp locDie loc n : Nat) (bad : List Blemish) (edges : List EdgeErr) : Option (List Gran) × Nat × State :=
  if sp = 2 then
    (s.meetShared ctx locDie loc n bad).fetchOver die (fun _ => some locDie) n edges fun i k s =>
      let (l, c) := s.sharedRead locDie part (loc + 16 * i) k
      (l, c, if c = 0 then s else s.raise (wayFault s locDie ctx part loc))
  else s.readOver (Who.die_ die) ctx loc n bad edges

/-- Writes granules at the device end of a step under the translation of its start: none where a packet of them was discarded. -/
def State.locWrite (s : State) (tr : Nat → Bool → Except Nat (Nat × Nat)) (die part ctx sp locDie loc : Nat) (l : List Gran) (edges : List EdgeErr) :
    Option Nat × State :=
  if sp = 2 then
    s.carryOver die (fun _ => some locDie) l edges fun i l s =>
      let (c, t) := s.sharedWrite locDie part (loc + 16 * i) l
      (c, if c = 0 then t else t.raise (wayFault t locDie ctx part (loc + 16 * i)))
  else
    s.carryOver die (fun i => (s.hbmOf tr none (loc + 16 * i)).map (·.2.2)) l edges fun i l s => s.devWriteBy tr (Who.die_ die) ctx (loc + 16 * i) l

/-- A step of which a packet was discarded waits for what never comes (R28), until the schedule catches it. -/
def State.strand (s : State) (u : UStep) : State := s.setUsteps (u :: s.usteps.filter (·.r != u.r))

/-- Charges a code that an access of a step met, where the requester owes one. -/
def State.chargeStep (s : State) (r : StepRef) (f : FaultRec) (code : Nat) : State :=
  if owed code then s.charge r.ring.val r.seq.toNat 0 { f with code := code } else s

/-- The code with which a request of a step failed: the requester charges or records it as a local fault of that code; 0x0411, 0x0480 and
0x0481 are only recorded (R431, R437, R470; log 132). -/
def State.chargeStatus (s : State) (r : StepRef) (f : FaultRec) (code : Nat) : State :=
  if code = 0 then s
  else if code = 0x0411 ∨ code = 0x0480 ∨ code = 0x0481 then s.raise { f with code := code }
  else s.charge r.ring.val r.seq.toNat 0 { f with code := code }

/-- A step looks the pages of its device end up: the failed lookups are charged, each with the first `dev:` address that it affects, and the
engine's first-level buffer is filled (R354, R357). -/
def State.lookUp (s : State) (r : StepRef) (die ctx va n : Nat) (write : Bool) (f : FaultRec) : State :=
  (pageStarts va n).foldl (fun s a =>
    match s.translateAt die ctx a write with
    | .ok _ => s
    | .error c => s.chargeStep r { f with dkind := 2, detail := a } c) (s.fillFirst (Who.first (Who.die_ die)) ctx va n)

/-- A code that a write under pages looked up earlier meets, beyond those that the lookup charged (R357). -/
def afterLookup (c : Nat) : Nat := if c = 0x0401 ∨ c = 0x0402 then 0 else c

/-- Translation that a waiting step looked up (R357). -/
def UStep.tr (u : UStep) : Nat → Bool → Except Nat (Nat × Nat) := translateBy u.pages u.gen u.ctx

def State.newUstep (s : State) (x : Sub) (r : StepRef) (desc exact : Nat) (pages : List PageRun) : UStep :=
  { r := r, part := x.part, ctx := x.ctx, gen := (s.ctxGen x.ctx).gen, pages := pages, desc := desc, exact := exact, start := s.time.now }

/-- Bytes that a step may have moved on a resource by the end of the present tick, from its start on: what the records that its descriptor
names reserve there (R102; log 151). None where it names none. -/
def State.allowance (s : State) (x : Sub) (im : Image) (st : ImgStep) (first n kind id : Nat) : Option Nat :=
  let l := ((im.rsvOf first n).filter fun r => r.kind == kind && r.id == id).map fun r => (r, im.cycle)
  let at_ := x.start + st.start
  if l.isEmpty then none else some (((List.range (s.time.now + 1 - at_)).map fun i => sumAt l kind id (at_ + i)).foldl (· + ·) 0)

/-! ## Host transfers (R393 to R397) -/

/-- A record of the H-die of a host transfer. -/
def xferFault (s : State) (u : UStep) (die : Nat) (d : XferD) : FaultRec :=
  { FaultRec.new s 0 (some die) 0x10 with ctx := some u.ctx, part := some u.part, dkind := if d.locSp = 2 then 0 else 2, detail := if d.locSp = 2 then 0 else d.loc }

/-- Mesh index of the die of a waiting step. -/
def State.dieOfStep (s : State) (u : UStep) : Nat := (s.ustepDie u).getD 0

/-- The data of a transfer toward the device have come: they are written and the step ends. -/
def State.storeIn (s : State) (u : UStep) (l : List Gran) (edges : List EdgeErr) : State :=
  let d := XferD.of u.desc
  let die := s.dieOfStep u
  match s.locWrite u.tr die u.part u.ctx d.locSp d.locDie d.loc (zeroTail u.exact l) edges with
  | (none, t) => t.strand u
  | (some c, t) => (t.chargeStep u.r (xferFault t u die d) (afterLookup c)).unitStepEnd u.r

/-- Starts a transfer toward the device. What slot 7 holds is padded with zero bytes to whole granules. -/
def State.transferIn (s : State) (x : Sub) (r : StepRef) (u : UStep) (die : Nat) (d : XferD) (b : Nat) (bad : List Blemish) (edges : List EdgeErr) : State :=
  let buf := x.bufs.getD d.buf { addr := 0, len := 0, dev := true, rd := false, wr := false }
  if d.buf = 7 then s.storeIn u (mkGrans (fun _ => false) ((x.inline.drop d.bufOff).take b) (b / 16) 0) edges
  else if buf.dev then
    match s.readOver (Who.die_ die) x.ctx (buf.addr + d.bufOff) (b / 16) bad edges with
    | (none, _, s) => s.strand u
    | (some l, c, s) => (s.chargeStep r { xferFault s u die d with dkind := 2, detail := buf.addr + d.bufOff } c).storeIn u l edges
  else
    match s.hostRead (.transfer r) x.ring x.seq 0 x.part x.ctx (buf.addr + d.bufOff) b (xferFault s u die d) with
    | (some l, s) => s.storeIn u l edges
    | (none, s) => s.strand u

/-- Carries out a transfer toward a buffer. -/
def State.transferOut (s : State) (x : Sub) (r : StepRef) (u : UStep) (die : Nat) (d : XferD) (b : Nat) (bad : List Blemish) (edges : List EdgeErr) : State :=
  let buf := x.bufs.getD d.buf { addr := 0, len := 0, dev := true, rd := false, wr := false }
  let at_ := buf.addr + d.bufOff
  match s.locRead die x.part x.ctx d.locSp d.locDie d.loc (b / 16) bad edges with
  | (none, _, s) => s.strand u
  | (some l, c, s) =>
    let f := xferFault s u die d
    let s := s.chargeStep r f c
    let l := zeroTail u.exact l
    if x.replay then s.unitStepEnd r
    else if buf.dev then
      match (s.fillFirst (Who.first (Who.die_ die)) x.ctx at_ b).locWrite (s.translateAt die x.ctx) die x.part x.ctx 3 0 at_ l edges with
      | (none, s) => s.strand u
      | (some c, s) => (s.chargeStep r { f with dkind := 2, detail := at_ } c).unitStepEnd r
    else
      match s.hostCheck x.ring x.seq 0 x.ctx at_ b f with
      | (false, s) => s.unitStepEnd r
      | (true, s) =>
        let gone := match s.sub? x.ring x.seq with | some y => y.cancelled | none => true
        (if gone then s else s.hostPost x.ring x.seq 0 x.part x.ctx at_ b l f).unitStepEnd r

/-- The records of a transfer to host memory do not cover its bytes yet: it waits for a later tick (R102). -/
def State.portWaits (s : State) (x : Sub) (im : Image) (st : ImgStep) (d : XferD) (b : Nat) : Bool :=
  d.toBuf && !(x.bufs.getD d.buf { addr := 0, len := 0, dev := true, rd := false, wr := false }).dev &&
    !(s.allowance x im st d.rsvFirst d.rsvN 9 (s.hport x.ctx)).all (b ≤ ·)

/-- HOST_TRANSFER_STEP (R27, R28, R102, R324, R325, R393, R394, R396): an H-die step moves data between a buffer slot and device memory. -/
def execHostTransferStep (r : StepRef) (bad : List Blemish) (edges : List EdgeErr) (s : State) : Outcome State Fault Refusal :=
  match s.stepAt r 3 with
  | none => .next s
  | some (x, im, st) =>
    if !s.unitMay x st r then .next s
    else
      let n := im.desc st.first
      let d := XferD.of n
      let b := d.len x.items
      let pages := if d.locSp = 2 then [] else s.pagesOf st.unit x.ctx d.loc b
      let u := s.newUstep x r n (if d.perItem then d.bytes * x.items else b) pages
      if b = 0 then .next (s.unitStepEnd r)
      else if s.portWaits x im st d b then .next s
      else if d.toBuf then .next (s.transferOut x r u st.unit d b bad edges)
      else
        let s := if d.locSp = 2 then s else s.lookUp r st.unit x.ctx d.loc b true (xferFault s u st.unit d)
        .next (s.transferIn x r u st.unit d b bad edges)

/-! ## Fabric sends (R427 to R432) -/

/-- A record of the F-die of a fabric send (R523): its router, with the pool address. -/
def sendFault (s : State) (u : UStep) (die : Nat) (d : SendD) : FaultRec :=
  { FaultRec.new s 0 (some die) 0x28 with ctx := some u.ctx, part := some u.part, dkind := 4, detail := d.poolOff + d.dev * 2 ^ 48 }

/-- Bytes that a send writes at its device end. -/
def SendD.destBytes (d : SendD) : Nat := if d.op = 0 then 0 else if d.op = 2 then 16 else d.bytes

/-- A send has ended: what has come is written at its device end, a code is charged, and the step ends. -/
def State.endSend (s : State) (u : UStep) (code : Nat) (l : List Gran) (edges : List EdgeErr) : State :=
  let d := SendD.of u.desc
  let die := s.dieOfStep u
  let n := d.destBytes / 16
  let l := if code = 0 then (l ++ poisonGrans n).take n else poisonGrans n
  let f := sendFault s u die d
  match (if n = 0 then (some 0, s) else s.locWrite u.tr die u.part u.ctx d.locSp d.locDie d.loc l edges) with
  | (none, t) => (t.chargeStatus u.r f code).strand u
  | (some c, t) => ((t.chargeStatus u.r f code).chargeStep u.r f (afterLookup c)).unitStepEnd u.r

/-- Request frames of a send (R428, R429): a WRITE carries its data, each frame with the pool offset of its first byte. ISSUE is the step's
START. -/
def State.sendFrames (s : State) (d : SendD) (issue : Nat) (l : List Gran) : List Frame :=
  let f := { s.reqFrame (d.op + 1) d.dev d.poolOff d.bytes with fence := d.fence, timed := d.timed, issue := BitVec.ofNat 64 issue }
  if d.op = 0 then (frames f l).mapIdx fun i (x : Frame) => { x with offset := BitVec.ofNat 48 (d.poolOff + 1024 * i) }
  else if d.op = 1 then [f]
  else
    [{ f with op := 4, aop := BitVec.ofNat 4 d.aop, asz := d.asz, bytes := 32,
              payload := [{ data := BitVec.ofNat 128 d.opa, poison := false }, { data := BitVec.ofNat 128 d.opb, poison := false }] }]

/-- FABRIC_SEND_STEP (R27, R28, R102, R324, R371, R428, R429, R431, R432, R444): an F-die step sends its request; it ends with the response, or
where the request fails. With the pool disabled the send itself owes the code, which no response carries (R371). -/
def execFabricSendStep (r : StepRef) (bad : List Blemish) (edges : List EdgeErr) (s : State) : Outcome State Fault Refusal :=
  match s.stepAt r 2 with
  | none => .next s
  | some (x, im, st) =>
    if !s.unitMay x st r then .next s
    else
      let n := im.desc st.first
      let d := SendD.of n
      let pages := if d.locSp = 2 then [] else s.pagesOf st.unit x.ctx d.loc (max 16 d.bytes)
      let u := s.newUstep x r n d.destBytes pages
      if d.op ≠ 2 ∧ d.bytes = 0 then .next (s.unitStepEnd r)
      else if !(s.allowance x im st d.rsvFirst d.rsvN 7 (st.unit - 48)).all (d.wire ≤ ·) then .next s
      else
        let s := if d.op = 0 ∨ d.locSp = 2 then s else s.lookUp r st.unit x.ctx d.loc d.destBytes true (sendFault s u st.unit d)
        match (if d.op = 0 then s.locRead st.unit x.part x.ctx d.locSp d.locDie d.loc (d.bytes / 16) bad edges else (some [], 0, s)) with
        | (none, _, t) => .next (t.strand u)
        | (some l, c, t) =>
          let t := t.chargeStep r { sendFault t u st.unit d with dkind := if d.locSp = 2 then 0 else 2, detail := if d.locSp = 2 then 0 else d.loc } c
          match t.sendRequest (.send r) (st.unit - 48) d.dev x.part x.ctx (x.start + st.start) d.timed (t.sendFrames d (x.start + st.start) l) with
          | (.ok _, t) => .next (t.strand u)
          | (.error c, t) => .next (t.endSend u c [] edges)

end Sys2Proof.Machine
end

