-- ==== Sys2Proof/Machine/Resets.lean ====
section
/-! DEFINITION. Resets: decision, fence, drain and clear, with the suspects of unattributed faults (15; R478 to R492). -/

namespace Sys2Proof.Machine

open Sys2Proof Host

/-! ## What a reset acts on (R478, R479) -/

/-- Accepted queries with no fault, with the images in which they run. -/
def State.instances (s : State) : List (Sub × Image) :=
  s.subs.filterMap fun (x : Sub) => if isQuery x.kind && x.st == .accepted && x.code == 0 then ((s.part x.part).image).map fun im => (x, im) else none

/-- The span of an instance, from its start to its reserved end, holds the present tick, or the instance is held (R464, R479). -/
def State.inSpan (s : State) (x : Sub) : Bool := x.held || decide (x.start ≤ s.time.now ∧ s.time.now < x.resEnd)

/-- An instance has a step of some kind. -/
def hasStep (hit : Image → ImgStep → Bool) (z : Sub × Image) : Bool := (z.2.stepsOf z.1).any fun i => hit z.2 (z.2.step i)

/-- Instances that hold work of some kind of step at the present tick. -/
def State.working (s : State) (hit : Image → ImgStep → Bool) : List Sub :=
  (s.instances.filter fun z => z.1.running && (z.2.stepsOf z.1).any fun i =>
    let st := z.2.step i
    hit z.2 st && ((st.unitKind == 0 && !z.1.held) || !z.1.ended.contains i) &&
      (z.1.held || decide (z.1.start + st.start ≤ s.time.now ∧ s.time.now < z.1.start + st.start + st.length))).map (·.1)

/-- Steps on a C-die, on one of its cores, on a die of another kind, and on every C- and G-die. -/
def onCdie (c : Nat) (im : Image) (st : ImgStep) : Bool := st.unitKind == 0 && (im.core st.unit).cdie == c
def onCoreNo (k : Nat) (im : Image) (st : ImgStep) : Bool := st.unitKind == 0 && im.coreNo st.unit == k
def onDie (d : Nat) (_ : Image) (st : ImgStep) : Bool := st.unitKind != 0 && st.unit == d
def onDomain (_ : Image) (st : ImgStep) : Bool := st.unitKind == 0 || st.unitKind == 1

/-- A held instance has state on a C-die: a step there, or one that writes its die-shared SRAM, had begun before the hold's latch (R464). -/
def State.heldOn (s : State) (c : Nat) (z : Sub × Image) : Bool :=
  match (s.part z.1.part).hold with
  | none => false
  | some h => (z.2.stepsOf z.1).any fun i =>
    let st := z.2.step i
    decide (z.1.start + st.start < h.latch) && (onCdie c z.2 st || (z.2.stepWrites st).any (·.unit == c))

/-- Charges at a fence (R479): the trigger's code to the instances that it marks, `other` to the rest in scope. -/
def State.chargeFence (s : State) (hit : Sub × Image → Bool) (code other : Nat) (mark : List Sub) (suspect : Bool) (f : FaultRec) : State :=
  (s.instances.filter fun z => s.inSpan z.1 && hit z).foldl (fun s z =>
    if mark.any fun y => y.ring == z.1.ring && y.seq == z.1.seq then s.charge z.1.ring z.1.seq 0 { f with code := code, suspect := suspect }
    else s.charge z.1.ring z.1.seq 0 { f with code := other }) s

/-! ## Suspects (R486) -/

/-- The first submission of each context, in increasing context ID. -/
def byContext (l : List Sub) : List Sub :=
  (sortBy (fun (c : Nat) => c) (l.map (·.ctx)).dedup).filterMap fun c => l.find? (·.ctx == c)

/-- Opens a suspect set of a partition, or queues it behind the open one. -/
def State.openSet (s : State) (p : Nat) (z : SuspectSet) : State :=
  let x := s.part p
  match x.suspects with
  | none => s.setPart p { x with suspects := some z, lastSet := none }
  | some _ => s.setPart p { x with waiting := x.waiting ++ [z] }

/-- Makes suspects of the contexts of some instances, by partition, 63 at most. -/
def State.suspect (s : State) (kind : ResetKind) (code die unit : Nat) (l : List Sub) : State :=
  ((l.map (·.part)).dedup).foldl (fun s p =>
    let subs := (byContext (l.filter (·.part == p))).take 63
    s.openSet p { code := code, kind := kind, die := die, unit := unit, suspects := subs.map fun (x : Sub) => { ctx := x.ctx, sub := x, mark := 0 },
                  replay := none, lastEnd := 0, ready := none }) s

/-- The reset that sets waited for has ended: their suspects may be replayed (R487). -/
def State.readySets (s : State) (hit : Nat → Bool) : State :=
  let go := fun z : SuspectSet => if hit z.die && z.ready == none then { z with ready := some s.time.now } else z
  s.setParts (smMap PartS.init (fun _ (x : PartS) => { x with suspects := x.suspects.map go, waiting := x.waiting.map go }) s.parts)

/-! ## Engines of cores -/

def ArrayS.emptied (a : ArrayS) : ArrayS :=
  { a with active := Bank.empty, shadow := Bank.empty, fresh := false, loadEnd := 0, rowEnd := 0, loadRead := 0, rowRead := 0, passes := [], ftq := [], sweep := none, again := none }

/-- What is under way on a core goes: held operations, slip, passes, replays (R479). -/
def State.stopCore (s : State) (k : Nat) : State :=
  let s := (List.range 6).foldl (fun s e => s.setEng k e EngS.init) s
  let s := (List.range 4).foldl (fun s a => s.setArray (4 * k + a) { s.array (4 * k + a) with passes := [], sweep := none, again := none }) s
  s.setCore k { s.core k with replays := [] }

/-- Weight banks, finished-tile queues and codebook slots of a core are emptied, slip and replays cleared (R453, R481, R482). -/
def State.emptyCore (s : State) (k : Nat) : State :=
  let s := s.stopCore k
  let s := (List.range 4).foldl (fun s a => s.setArray (4 * k + a) (s.array (4 * k + a)).emptied) s
  (List.range 4).foldl (fun s i => s.setBook k i Codebook.init) s

/-- A core is cleared: its SRAM is written, operand SRAM with `p` as poison, everything else poisoned (R453, R482). -/
def State.clearCore (s : State) (k : Nat) (p : Bool) : State :=
  let s := s.emptyCore k
  let m := ((s.mem.wipeOps k p).wipe .accum (k * 2 ^ 22) ((k + 1) * 2 ^ 22)).wipe .tile (k * 2 ^ 18) ((k + 1) * 2 ^ 18)
  let s := s.setMem { m with tags := m.tags.filter fun t => t.1 / 64 != k }
  s.setCore k { s.core k with readPath := 0, tbReady := [], tbTag := [] }

/-- Cores of a partition. -/
def State.coresOf (s : State) (p : Nat) : List Nat := (List.range 256).filter fun k => s.flag .sysCoreOwn k 6 && s.fld .sysCoreOwn k 5 0 == p

/-! ## Drains (R480) -/

/-- A transfer has left its core: one of its ends lies beyond it. -/
def Xfer.left (x : Xfer) : Bool :=
  let d := DmaD.of x.desc
  d.srcSp == 2 || d.srcSp == 3 || d.srcSp == 4 || d.dstSp == 2 || d.dstSp == 3 || d.dstSp == 4

/-- A host read of the image's engines, as against an update's batch or a flush. -/
def ReadFor.engine : ReadFor → Bool
  | .xfer _ | .glist _ | .transfer _ => true
  | .batch _ _ | .flush _ _ => false

/-- The core of the transfer that waits for a host read. -/
def State.readCore (s : State) (q : HostRead) : Option Nat :=
  match q.purpose with
  | .xfer r => (s.xfers.find? (·.r == r)).map (·.core)
  | _ => none

/-- A host read has left a reset scope. -/
def State.readIn (s : State) (sc : Scope) (q : HostRead) : Bool :=
  q.purpose.engine && match sc with
  | .partition p => q.part == p.val
  | .cdie c => (s.readCore q).any fun k => k / 8 == c.val
  | .device => true

/-- Some request that left the scope is outstanding. -/
def State.busyScope (s : State) (sc : Scope) : Bool :=
  s.reads.any (s.readIn sc) ||
    match sc with
    | .partition p => s.xfers.any (·.part == p.val) || s.usteps.any (·.part == p.val) || s.fab.reqs.any (·.part == p.val) ||
        s.gsteps.any fun g => g.part == p.val && g.keys.any (·.away)
    | .cdie c => s.xfers.any fun x => x.core / 8 == c.val
    | .device => !s.fab.reqs.isEmpty

/-- The reset of a scope. -/
def State.resetOf (s : State) : Scope → Option ResetS
  | .partition p => (s.part p.val).reset
  | .cdie c => (s.cdie c.val).reset
  | .device => s.err.devReset

def State.setReset (s : State) (sc : Scope) (r : ResetS) : State :=
  match sc with
  | .partition p => s.setPart p.val { s.part p.val with reset := some r }
  | .cdie c => s.setCdie c.val { s.cdie c.val with reset := some r }
  | .device => s.setErr { s.err with devReset := some r }

/-- Decisions of a log within a window of the present tick; a later time counts as within it (R492). -/
def recentLog (now window : Nat) (l : List Nat) : Nat := (l.filter fun t => decide (t > now) || decide (now - t ≤ window)).length

def hour : Nat := 360000000000
def day : Nat := 8640000000000

/-- The device goes out of service (R491, R494). -/
def State.deviceOut (s : State) : State :=
  let s := (s.setErr { s.err with devOut := true, devReset := none }).saveRoot.setMem { s.mem with selfRefresh := true }
  (((s.sysEvt 3).sendFm 3 0 s.err.devCode 0 0).telReset 2 0 true s.err.devCode).readySets fun _ => true

/-- A reset of a C-die is the third counted one within an hour (R485, R490). -/
def State.thirdReset (s : State) (c : Nat) (r : ResetS) : Bool := r.counted && decide (recentLog r.decided hour (s.cdie c).log ≥ 3)

/-- C-dies whose third counted reset became part of a reset of the device go out of service at the end of its drain (R485, R490). -/
def State.outWithDevice (s : State) : State :=
  (List.range 32).foldl (fun s c => match (s.cdie c).reset with | some r => s.cdieOut c r.code | none => s) s

/-- The drain of a scope ends: the clear begins, or the unit goes out of service (R480, R483, R490, R491). -/
def State.endDrain (s : State) (sc : Scope) (r : ResetS) : State :=
  match sc with
  | .partition _ => s.setReset sc { r with phase := .clearing }
  | .cdie c =>
    if s.thirdReset c.val r then (s.cdieOut c.val r.code).readySets (· == c.val)
    else s.setReset sc { r with phase := .clearing }
  | .device =>
    let s := s.flushAgents.outWithDevice
    if r.counted && decide (recentLog r.decided day s.err.devLog ≥ 8) then s.deviceOut
    else (s.setReset sc { r with phase := .clearing }).setMem { s.mem with selfRefresh := true }

/-- Ends the drain of a scope if nothing that left it is outstanding. -/
def State.tryDrain (s : State) (sc : Scope) : State :=
  match s.resetOf sc with
  | some r => if r.phase = .draining && !s.busyScope sc then s.endDrain sc r else s
  | none => s

/-! ## Decisions (R481 to R485) -/

/-- A warden or an F-die restarts on a new image: a counted reset waits (R514). -/
def State.dieRestarts (s : State) : Bool := match s.boot.fwAct with | some a => a.started && a.domain != 2 | none => false

def State.waitReset (s : State) (w : WaitReset) : State := s.setErr { s.err with waiting := s.err.waiting ++ [w] }

/-- Requests of a C-die's cores that have not left it, and what runs on them, are gone at the fence. -/
def State.fenceCdie (s : State) (c : Nat) : State :=
  let s := s.setXfers (s.xfers.filter fun x => x.core / 8 != c || x.left)
  (List.range 8).foldl (fun s k => s.stopCore (8 * c + k)) s

/-- A counted decision enters a C-die's log; one that a reset under way already counts is not counted again (R485, R492). -/
def State.countCdie (s : State) (c code : Nat) : State :=
  (s.setCdie c { s.cdie c with log := (s.time.now :: (s.cdie c).log).take 3, lastCode := code }).saveRoot

/-- Decides a compute-domain reset of a C-die, with its fence (R479, R482, R484, R485; the fence comes with the decision, log 64). `mark` are
the instances that the trigger names, suspects where `suspect` is set. -/
def State.resetCdie (s : State) (c : Fin 32) (code unit : Nat) (counted : Bool) (mark : List Sub) (suspect : Bool) : State :=
  let d := s.cdie c.val
  if s.excluded c.val || d.outOfService || s.err.devOut || s.standing || s.err.devReset.isSome then s
  else if counted && s.dieRestarts then s.waitReset { cdie := some c, code := code, die := c.val, unit := unit, mark := mark, suspect := suspect }
  else
    match d.reset with
    | some r => if counted && !r.counted then (s.countCdie c.val code).setReset (.cdie c) { r with counted := true } else s
    | none =>
      let s := if counted then s.countCdie c.val code else (s.setCdie c.val { d with lastCode := code }).saveRoot
      let s := s.setReset (.cdie c) { decided := s.time.now, fence := s.time.now, phase := .draining, code := code, counted := counted, ring := 0, seq := 0 }
      let s := ((s.sysEvt 0).sendFm 1 1 code c.val 0).telReset 1 c.val false code
      let s := s.chargeFence (fun z => if z.1.held then s.heldOn c.val z else hasStep (onCdie c.val) z) code 0x0720 mark suspect (FaultRec.new s code (some c.val) unit)
      let s := if suspect then s.suspect .cdie code c.val unit mark else s
      (s.fenceCdie c.val).tryDrain (.cdie c)

/-- What a device reset does to a partition (R483): one that is not IDLE is RESETTING, its hold is over, a pending load is cancelled. -/
def State.resetPart (s : State) (p : Nat) : State :=
  let x := s.part p
  if x.st = .idle then s
  else
    let s :=
      match x.pending with
      | some q => if q.image.isSome then (match s.sub? q.ring q.seq with | some y => if y.code = 0 then s.endWith y 0x0705 0 else s | none => s) else s
      | none => s
    s.setPart p { s.part p with st := .resetting, hold := none, pending := x.pending.filter fun q => q.image.isNone }

/-- The fence of the device (R479, R483): instances are charged, partitions are RESETTING, engines stop, and updates that are not committed are
discarded. -/
def State.fenceDevice (s : State) (code die unit : Nat) (mark : List Sub) (suspect : Bool) : State :=
  let s := s.chargeFence (hasStep onDomain) code 0x0721 mark suspect (FaultRec.new s code (some die) unit)
  let s := if suspect then s.suspect .device code die unit mark else s
  let s := (List.range 64).foldl (fun s p => s.resetPart p) s
  let s := s.setErr { s.err with cdies := smMap CdieS.init (fun c (d : CdieS) => { d with reset := d.reset.filter (s.thirdReset c) }) s.err.cdies }
  let s := (s.setMem { s.mem with waits := [] }).setXfers []
  let s := s.setGsteps []
  let s := (List.range 256).foldl (fun s k => s.stopCore k) s
  let s := s.setUpd { s.upd with staging := s.upd.staging ++ s.upd.flight, flight := [] }
  s.discardUpdates (fun _ => true) true

/-- Decides a compute-domain reset of the device, with its fence (R479, R483 to R485, R494; log 64). -/
def State.resetDevice (s : State) (code die unit : Nat) (counted : Bool) (mark : List Sub) (suspect : Bool) : State :=
  if s.err.devOut || s.standing then s
  else if counted && s.dieRestarts then s.waitReset { cdie := none, code := code, die := die, unit := unit, mark := mark, suspect := suspect }
  else
    let log := (s.time.now :: s.err.devLog).take 8
    match s.err.devReset with
    | some r => if counted && !r.counted then (s.setErr { s.err with devLog := log, devCode := code }).saveRoot.setReset .device { r with counted := true } else s
    | none =>
      let s := (s.setErr { s.err with devLog := if counted then log else s.err.devLog, devCode := code, resets := (s.err.resets + 1) % 2 ^ 32 }).saveRoot
      let s := s.setReset .device { decided := s.time.now, fence := s.time.now, phase := .draining, code := code, counted := counted, ring := 0, seq := 0 }
      let s := ((s.sysEvt 1).sendFm 1 0 code 0 0).telReset 2 0 false code
      (s.fenceDevice code die unit mark suspect).tryDrain .device

/-- The counted resets that waited are decided, in order (R514). -/
def State.runWaiting (s : State) : State :=
  let l := s.err.waiting
  l.foldl (fun s w => match w.cdie with
    | some c => s.resetCdie c w.code w.unit true w.mark w.suspect
    | none => s.resetDevice w.code w.die w.unit true w.mark w.suspect) (s.setErr { s.err with waiting := [] })

/-- The fence of a partition reset (R479, R481). -/
def State.fencePart (s : State) (p : Fin 64) (r : ResetS) : State :=
  let s := s.setReset (.partition p) { r with phase := .draining }
  let s := (s.sendFm 5 2 r.code p.val 0).telReset 0 p.val false r.code
  let mine := s.instances.filter fun z => z.1.part == p.val && s.inSpan z.1
  let s := mine.foldl (fun s z => s.charge z.1.ring z.1.seq 0 { tableFault s p.val 0x0722 with part := some p.val }) s
  let s := s.setXfers (s.xfers.filter fun x => x.part != p.val || x.left)
  let s := (s.coresOf p.val).foldl (fun s k => s.stopCore k) s
  let s := (s.gsteps.filter (·.part == p.val)).foldl (fun s g => s.sweepGstep g) s
  s.tryDrain (.partition p)

/-! ## Attribution (R471, R486) -/

/-- A trigger met work of these instances: with one context it is attributed to it, otherwise its instances are suspects. -/
def shared? (l : List Sub) : Bool := decide (((l.map (·.ctx)).dedup).length > 1)

/-- The record of a trigger, with the context where it is attributed. -/
def triggerFault (s : State) (code die unit : Nat) (l : List Sub) : FaultRec :=
  { FaultRec.new s code (some die) unit with ctx := if shared? l then none else l.head?.map (·.ctx), part := if shared? l then none else l.head?.map (·.part) }

/-- Submissions, open or failed, by ring and sequence number. -/
def State.subsAt (s : State) (l : List (Nat × Nat)) : List Sub := (s.subs ++ s.err.gone).filter fun x => l.contains (x.ring, x.seq)

/-- Submissions whose work has left a scope and is outstanding: with transfers of a C-die's cores, or gather rows that are away. -/
def State.owedOf (s : State) (hit : Xfer → Bool) (away : GStep → Bool) : List Sub :=
  s.subsAt ((s.xfers.filter hit).map (fun x => (x.r.ring.val, x.r.seq.toNat)) ++
    (s.gsteps.filter fun g => away g && g.keys.any (·.away)).map fun g => (g.r.ring.val, g.r.seq.toNat))

/-- A trigger of a C-die reset: recorded, then decided. -/
def State.triggerCdie (s : State) (c : Fin 32) (code unit : Nat) (l : List Sub) : State :=
  (s.raise (triggerFault s code c.val unit l)).resetCdie c code unit true l (shared? l)

/-- A trigger of a device reset: recorded, then decided. -/
def State.triggerDevice (s : State) (code die unit : Nat) (l : List Sub) : State :=
  (s.raise (triggerFault s code die unit l)).resetDevice code die unit true l (shared? l)

end Sys2Proof.Machine
end

