-- ==== Sys2Proof/Machine/HostPort.lean ====
section
/-! DEFINITION. Host ports: the data of host reads, the loss of a host, and the return of its link (12; R367, R375 to R378, R406 to R413;
R552 of 18, R574 of 19). -/

namespace Sys2Proof.Machine

open Sys2Proof Host

/-! ## The data of host reads (R367) -/

/-- Delivers the granules of a host read to what waits for them. Data that nothing waits for are discarded. -/
def State.deliver (s : State) (q : HostRead) (l : List Gran) (ok : Bool) (edges : List EdgeErr) : State :=
  match q.purpose with
  | .xfer r => s.setXfers (s.xfers.map fun (x : Xfer) => if x.r == r && x.host.isNone then { x with host := some l } else x)
  | .glist r => match s.gstep? r with | some g => s.setGstep { g with list := some l } | none => s
  | .transfer r => match s.ustep? r with | some u => s.storeIn u l edges | none => s
  | .batch ring seq => match s.batchSub ring seq with | some x => s.batchDone x l | none => s
  | .flush ring seq => s.flushDone ring seq q.port ok

/-- Mesh die that waits for a host read (R20). -/
def State.readerOf (s : State) (q : HostRead) : Nat :=
  match q.purpose with
  | .xfer r => match s.xfers.find? (·.r == r) with | some x => x.core / 8 | none => dieH q.port
  | .glist r => match s.gstep? r with | some g => dieG g.gdie | none => dieH q.port
  | .transfer r => match s.ustep? r with | some u => s.dieOfStep u | none => dieH q.port
  | .batch _ _ => dieG (s.fld .gthUpdCtrl q.part 3 0)
  | .flush _ _ => dieH q.port

def State.dropRead (s : State) (id : Nat) : State := s.setReads (s.reads.filter (·.id != id))

/-- What a completion delivers: every granule poisoned where its status is not Successful Completion, the marked ones where data came
poisoned, all of them where none is marked (R367). Granules that did not come are poisoned. -/
def readData (n : Nat) (status : ReadStatus) (data : List Gran) : List Gran :=
  match status with
  | .ok => ((data.map fun (g : Gran) => { g with poison := false }) ++ poisonGrans n).take n
  | .poisoned => if data.any (·.poison) then (data ++ poisonGrans n).take n else poisonGrans n
  | .unsuccessful => poisonGrans n

/-- HOST_READ_COMPLETION (R27, R28, R367, R401): a completion delivers its data, or poison with 0x0421 recorded; a flush read ends with it.
Data of which a packet is discarded on the mesh never arrive. -/
def execHostReadCompletion (port : Fin 4) (id : Nat) (status : ReadStatus) (data : List Gran) (edges : List EdgeErr) (s : State) :
    Outcome State Fault Refusal :=
  match s.reads.find? fun q => q.id == id && q.port == port.val with
  | none => .next s
  | some q =>
    let t := if status = .ok then s else s.raise (portFault s port.val 0x0421 q.ctx q.part)
    let n := ceilDiv q.len 16
    match (t.dropRead id).fetchOver (t.readerOf q) (fun _ => some (dieH port.val)) n edges fun _ _ s => (readData n status data, 0, s) with
    | (none, _, t) => .next t
    | (some l, _, t) => .next (t.deliver q l (decide (status = .ok)) edges)

/-! ## Host loss (R407 to R410) -/

/-- Descriptor fetches outstanding at the loss of the host are poisoned, and recorded (R408): those of the slots that have not been taken. -/
def State.poisonFetches (s : State) (r : Nat) : State :=
  let x := s.ring r
  if x.st = .active then (List.range (diff32 x.tail x.head)).foldl (fun s _ => s.raise (fetchFault s (s.ringH r))) s else s

/-- A ring of a port whose host is lost (R408): one that is armed enters FENCED. -/
def State.fenceRing (s : State) (r : Nat) : State :=
  if (s.ring r).st = .disabled then s else (s.setRing r { s.ring r with st := .fenced }).setBit .hqRingEvt r 3

/-- Rings that anything has been written of, and so every ring that may be armed. -/
def State.knownRings (s : State) : List Nat := s.rings.map (·.1)

/-- The ring lies on the port. -/
def State.ringsOn (s : State) (p : Nat) : List Nat := s.knownRings.filter fun r => s.ringH r == p

/-- The submission is charged at the fence of a port (R409). -/
def State.lostWith (s : State) (p : Nat) (x : Sub) : Bool := s.ringH x.ring == p || (s.flag .xltCtxA x.ctx 7 && s.hport x.ctx == p)

/-- Reads outstanding on a fenced port are delivered poisoned, with 0x0902 recorded (R408). -/
def State.poisonReads (s : State) (l : List HostRead) : State :=
  l.foldl (fun s q =>
    let t := (s.dropRead q.id).raise (portFault s q.port 0x0902 q.ctx q.part)
    t.deliver q (poisonGrans (ceilDiv q.len 16)) false []) s

/-- The host is lost on a port (R407 to R409): `evt` is its bit of HQ_PORT_EVT, `link` what becomes of the link. -/
def State.loseHost (s : State) (p evt : Nat) (link : LinkSt) : State :=
  let s := s.setBit .hqPortEvt p evt
  let x := s.port p
  let armed := (s.ringsOn p).any fun r => (s.ring r).st != .disabled
  let down := link = .down || link = .training
  let s := s.setPort p { x with link := link, fenced := true, due := [], lostAt := if down then some (x.lostAt.getD s.time.now) else none,
                                lostArmed := down && (armed || (x.lostAt.isSome && x.lostArmed)) }
  let s := (s.ringsOn p).foldl (fun s r => (s.poisonFetches r).fenceRing r) s
  let s := if s.fld .hltRingCfg 0 7 6 = p && s.hlt.armed then s.setHlt { s.hlt with fenced := true } else s
  let s := (s.subs.filter (s.lostWith p)).foldl (fun s x => s.charge x.ring x.seq 0 (portFault s p 0x0901 x.ctx x.part)) s
  s.poisonReads (s.reads.filter (·.port == p))

/-- The link of a port is in DL_Active. -/
def PortS.active (x : PortS) : Bool := x.link == .up || x.link == .degraded

/-- The loss of a link: host loss in PCIe mode, loss of the expander in CXL mode (R407, R552). -/
def State.loseLink (s : State) (p evt : Nat) : State :=
  if (s.port p).cxl then (s.setBit .hqPortEvt p evt).setPort p { s.port p with link := .down } else s.loseHost p evt .down

/-- LINK_DOWN (R407, R408): a transition to DL_Down. -/
def execLinkDown (port : Fin 4) (s : State) : Outcome State Fault Refusal :=
  if (s.port port.val).active then .next (s.loseLink port.val 0) else .next s

/-- HOST_RESET (R407, R413): a Hot Reset, a link disable, or the assertion of PERST_N. -/
def execHostReset (port : Fin 4) (perst : Bool) (s : State) : Outcome State Fault Refusal :=
  let x := s.port port.val
  if (!x.active ∧ !perst) ∨ s.excluded (dieH port.val) then .next s
  else
    let s := s.setPort port.val { x with perst := x.perst || perst }
    .next (s.loseLink port.val 3)

/-- FLR (R407, R412): a Function Level Reset is a loss of the host that leaves the link up. -/
def execFlr (port : Fin 4) (s : State) : Outcome State Fault Refusal :=
  let x := s.port port.val
  if x.active ∧ !x.cxl then .next (s.loseHost port.val 4 x.link) else .next s

/-- The rate and width at which the figures of R98 hold (R377, R413). -/
def fullLink (width rate : Nat) : Bool := width == 16 && rate == 7

/-- LINK_UP (R375, R377, R411, R413): the link enters DL_Active; a fence stands. The port's mode is the one selected when the link trained. -/
def execLinkUp (port : Fin 4) (width : BitVec 5) (rate : BitVec 4) (s : State) : Outcome State Fault Refusal :=
  let x := s.port port.val
  if x.active ∨ x.perst ∨ !x.refclk ∨ s.excluded (dieH port.val) then .next s
  else
    let cxl := s.flag .hqPortCfg port.val 0
    let full := if cxl then width.toNat == 16 && rate.toNat == 6 else fullLink width.toNat rate.toNat
    let s := s.setPort port.val { x with link := if full then .up else .degraded, width := width.toNat, rate := rate.toNat, cxl := cxl, lostAt := none, lostArmed := false }
    .next (s.setBit .hqPortEvt port.val 2)

/-- RETRAIN (R406): the link stays in DL_Active; writes that it holds go on in their order, and only the event is seen. -/
def execRetrain (port : Fin 4) (s : State) : Outcome State Fault Refusal :=
  let x := s.port port.val
  if x.active ∧ !x.cxl then .next (s.setBit .hqPortEvt port.val 1) else .next s

/-- HOST_LINK_GIVEUP (R412, R484, R485): the link is not back within 1 s of a loss that met an armed ring. -/
def execHostLinkGiveup (port : Fin 4) (s : State) : Outcome State Fault Refusal :=
  let x := s.port port.val
  match x.lostAt with
  | none => .next s
  | some t =>
    if x.active ∨ !x.lostArmed ∨ s.time.now < t + 100000000 then .next s
    else
      let s := (s.setPort port.val { x with lostAt := none, lostArmed := false }).setBit .hqPortEvt port.val 5
      let s := s.raise (FaultRec.new s 0x0903 (some (dieH port.val)) 0x10)
      .next (s.resetDevice 0x0903 (dieH port.val) 0x10 true [] false)

/-! ## Port registers and pins (R413, R552, R574) -/

/-- Another port stays in PCIe mode and in service (R376). -/
def State.otherPcie (s : State) (n : Nat) : Bool :=
  (List.range 4).any fun h => h != n && !s.excluded (dieH h) && !(s.port h).cxl && !(s.flag .hqPortCfg h 0)

/-- The checks of a write of 1 to HQ_PORT_CFG.MODE (R574). -/
def State.mayCxl (s : State) (n : Nat) : Bool :=
  s.otherPcie n && (s.ringsOn n).all (fun r => (s.ring r).st == .disabled) && !(s.hlt.armed && s.fld .hltRingCfg 0 7 6 == n) &&
    !((List.range 64).any fun p => s.flag .sysPartCtrl p 0 && s.admitH p == n) &&
    !((List.range 4096).any fun c => s.ctxValid c && s.flag .xltCtxA c 7 && s.hport c == n)

/-- A write of HQ_PORT_CFG (R32, R574): write-once; an accepted 1 retrains the port in CXL mode. An excluded H-die has no port to retrain. -/
def State.writePortCfg (s : State) (n : Nat) (w : Word) : State :=
  let off := RG.off .hqPortCfg n
  if s.locks.contains off then s.regErr off 3
  else if wbit w 0 then
    if s.mayCxl n then
      let s := ((s.putRw .hqPortCfg n w).setLocks (off :: s.locks))
      if s.excluded (dieH n) then s
      else
        let s := s.loseHost n 0 .training
        s.setPort n { s.port n with cxl := true, lostAt := none, lostArmed := false }
    else s.regErr off 4
  else ((s.putRw .hqPortCfg n w).setLocks (off :: s.locks))

/-- PORT_MODE_WRITE (R574). -/
def execPortModeWrite (port : Fin 4) (n : Fin 4) (w : Word) (s : State) : Outcome State Fault Refusal :=
  if s.reach port.val then .next (s.writePortCfg n.val w) else .next s

/-- REFCLK_LOST (R548, R552): the port's reference clock is lost, and its link goes down. -/
def execRefclkLost (port : Fin 4) (s : State) : Outcome State Fault Refusal :=
  let x := s.port port.val
  if !x.refclk then .next s
  else
    let s := (s.setPort port.val { x with refclk := false }).setBit .pwrEvt 0 (6 + port.val)
    if x.link = .down then .next s else .next (s.loseLink port.val 0)

/-- REFCLK_RETURN (R548). -/
def execRefclkReturn (port : Fin 4) (s : State) : Outcome State Fault Refusal :=
  .next (s.setPort port.val { s.port port.val with refclk := true })

/-- PERST_N_DEASSERT (R32, R413): the port begins to train in the mode that HQ_PORT_CFG.MODE selects; the port of an excluded H-die does
nothing. -/
def execPerstNDeassert (port : Fin 4) (s : State) : Outcome State Fault Refusal :=
  let x := s.port port.val
  if x.perst ∧ !s.excluded (dieH port.val) then .next (s.setPort port.val { x with perst := false, link := .training, cxl := s.flag .hqPortCfg port.val 0 }) else .next s

end Sys2Proof.Machine
end

