-- ==== Sys2Proof/Machine/Pool.lean ====
section
/-! DEFINITION. The pool: requests that end, requests that arrive, and CXL members (13; R430 to R441; R370 and R371 of 11). -/

namespace Sys2Proof.Machine

open Sys2Proof Host

/-! ## Requests that end (R425, R431, R437) -/

/-- A request of this device ends with a code and what has come of its data, with the errors on the edges over which the data go on: from
the F-die to the G-die of a row, or to the device end of a send. A row whose packet is discarded never arrives (R28). The failure
of an update record is recorded (R425). -/
def State.finishReq (s : State) (r : RemoteReq) (code : Nat) (l : List Gran) (edges : List EdgeErr) : State :=
  let s := s.dropReq r.id
  match r.purpose with
  | .row g key =>
    match s.gstep? g with
    | none => s
    | some y =>
      match s.sendOver (dieF (r.port / 8)) (dieG y.gdie) l edges with
      | (none, s) => s
      | (some l, s) => s.remoteRow g key code l
  | .send g =>
    match s.ustep? g with
    | some u => s.endSend u code l edges
    | none => s
  | .upd _ _ =>
    if code = 0 then s else s.raise { FaultRec.new s code (some (dieF (r.port / 8))) 0x28 with ctx := some r.ctx, part := some r.part }

/-- A request fails. -/
def State.failReq (s : State) (r : RemoteReq) (code : Nat) : State := s.finishReq r code [] []

/-- Every request of a kind fails. -/
def State.failReqs (s : State) (hit : RemoteReq → Bool) (code : Nat) : State := (s.fab.reqs.filter hit).foldl (fun s r => s.failReq r code) s

/-- A connection closes: what is outstanding on it fails, an update report that was not acknowledged among it, and its frames are gone (R425,
R442). -/
def State.closeConn (s : State) (c : Conn) (code : Nat) : State :=
  let s := (c.unacked.filter fun u => u.f.cls == .req && u.f.op == 6).foldl (fun s _ => s.raise (devPortFault s c.port code)) s
  (s.dropConn c).failReqs (fun r => r.port == c.port && r.peer == c.peer && !s.isSelf r.peer) code

def State.closeConns (s : State) (hit : Conn → Bool) (code : Nat) : State := (s.fab.conns.filter hit).foldl (fun s c => s.closeConn c code) s

/-- REMOTE_BOUND (R431, R460): at issue + 2,000 a request other than an update record is abandoned. While its partition is held or reaching its hold, the instance is
charged at once. -/
def execRemoteBound (id : Nat) (s : State) : Outcome State Fault Refusal :=
  match s.fab.reqs.find? (·.id == id) with
  | none => .next s
  | some r =>
    if s.time.now < r.issue + 2000 ∨ r.op = 5 then .next s
    else
      let held := match (s.part r.part).hold with | some h => decide (h.latch ≤ s.time.now) | none => false
      let t := s.failReq r 0x0510
      match r.purpose with
      | .row g _ =>
        if held then
          .next (t.charge g.ring.val g.seq.toNat 0 { FaultRec.new t 0x0510 (some (dieF (r.port / 8))) 0x28 with ctx := some r.ctx, part := some r.part })
        else .next t
      | .send _ | .upd _ _ => .next t

/-! ## The target (R433 to R437) -/

/-- A time state in which the device serves no request (R433). -/
def TimeState.unserving (t : TimeState) : Bool := t == .acquiring || t == .lost || t == .stepping

/-- A request needs a G-die or a memory agent (R483): all but a read, write or atomic of a CXL member (R441). -/
def State.needsDomain (s : State) (f : Frame) : Bool := (s.memberOf f.dst.toNat).isNone || f.op == 3 || f.op == 5 || f.op == 6

/-- A request's time at the target is over (R433). -/
def State.expired (s : State) (f : Frame) : Bool := s.time.state != .free && decide (s.time.now > f.issue.toNat + 1800)

/-- The code with which a request is refused before it is looked at, 0 for none (R433, R483, R491). -/
def State.gate (s : State) (f : Frame) (timed : Bool) : Nat :=
  if s.time.state.unserving then 0x0806
  else if s.err.devOut || s.standing || (s.err.devReset.isSome && s.needsDomain f) then 0x0705
  else if timed && s.expired f then 0x0807
  else 0

/-- The window that serves a pool offset (R370). -/
def State.windowAt (s : State) (o : Nat) : Option Nat :=
  (List.range 64).find? fun i =>
    let (b, _, n) := s.pwin i
    s.flag .xltPwinA i 12 && decide (b * 65536 ≤ o ∧ o < (b + n) * 65536)

/-- Context and `dev:` address of a pool offset, for a read, a write or an atomic, or the code (R370, R437). -/
def State.poolTo (s : State) (o : Nat) (write atom : Bool) : Except Nat (Nat × Nat) :=
  match s.windowAt o with
  | none => .error 0x0430
  | some i =>
    let (b, d, _) := s.pwin i
    let ctx := s.fld .xltPwinA i 11 0
    if (write && !s.flag .xltPwinA i 13) || (atom && !s.flag .xltPwinA i 14) then .error 0x0430
    else if (s.part (s.ctxPart ctx)).st = .idle then .error 0x0705
    else .ok (ctx, o - b * 65536 + d * 65536)

/-- Reads granules from a pool offset: the first code met. -/
def State.poolRead (s : State) (die o : Nat) : Nat → List Gran × Nat × State
  | 0 => ([], 0, s)
  | k + 1 =>
    let (g, c, s) : List Gran × Nat × State :=
      match s.poolTo o false false with
      | .error c => ([{ data := 0, poison := true }], c, s)
      | .ok (ctx, va) => s.devRead (Who.die_ die) ctx va 1
    let (gs, c', s) := s.poolRead die (o + 16) k
    (g ++ gs, if c ≠ 0 then c else c', s)

/-- Writes granules at a pool offset; a granule that is refused is not written. -/
def State.poolWrite (s : State) (die o : Nat) : List Gran → Nat × State
  | [] => (0, s)
  | g :: t =>
    let (c, s) : Nat × State :=
      match s.poolTo o true false with
      | .error c => (c, s)
      | .ok (ctx, va) => s.devWrite (Who.die_ die) ctx va [g]
    let (c', s) := s.poolWrite die (o + 16) t
    (if c ≠ 0 then c else c', s)

/-- C-die on whose stack the granule at a pool offset lies. -/
def State.poolDie (s : State) (die o : Nat) : Option Nat :=
  match s.poolTo o false false with
  | .error _ => none
  | .ok (ctx, va) => s.stackDie (Who.die_ die) ctx va

/-- Flaws that a read of `n` granules from a pool offset meets (R324). -/
def State.meetPool (s : State) (o n : Nat) (bad : List Blemish) : State :=
  match s.poolTo o false false with
  | .error _ => s
  | .ok (ctx, va) => s.meetDev ctx va n bad

/-- Operation of an AOP code (R430). -/
def aopOf (code : Nat) : Option Aop :=
  match code with
  | 1 => some .add
  | 2 => some .fadd
  | 3 => some .swap
  | 4 => some .cas
  | 5 => some .and
  | 6 => some .or
  | _ => none

/-- A well-formed ATOMIC: a defined operation on a naturally aligned operand (R430). -/
def Frame.atomOf (f : Frame) : Option Aop :=
  match aopOf f.aop.toNat with
  | none => none
  | some op => if f.offset.toNat % (if f.asz then 8 else 4) ≠ 0 ∨ (op = .fadd ∧ f.asz) then none else some op

/-- 64-bit operand `i` of an ATOMIC. -/
def Frame.operand (f : Frame) (i : Nat) : Nat := (f.payload.getD i { data := 0, poison := false }).data.toNat % 2 ^ 64

/-- Executes an atomic at a pool offset: the granule that answers and the code. -/
def State.poolAtomic (s : State) (die : Nat) (f : Frame) (op : Aop) : Gran × Nat × State :=
  let bad : Gran := { data := 0, poison := true }
  match s.poolTo f.offset.toNat false true with
  | .error c => (bad, c, s)
  | .ok (ctx, va) =>
    match s.translateAt die ctx va true with
    | .error c => (bad, c, s)
    | .ok (a, gen) =>
      let q : Req := { addr := a, ctx := ctx, gen := gen, die := die, cdie := none, upd := false }
      let (g, c, s) := s.agentAtomic q op f.asz (Frame.operand f 0) (Frame.operand f 1) (f.payload.any (·.poison))
      (g, c, s)

/-- A G-die runs the activation of its microcode (R513). -/
def State.gRestarts (s : State) (g : Nat) : Bool := match s.boot.fwAct with | some a => a.started && a.domain == 2 && a.die == dieG g && decide (a.begun ≤ s.time.now) | none => false

/-- Serves a ROW_READ at the extent's home G-die, for the F-die on which it came (R269, R435), with the upsets that the extent's lines meet
and the errors on the edges: none where a packet was discarded. -/
def State.poolRow (s : State) (die o n : Nat) (upset : List Upset) (edges : List EdgeErr) : Option (List Gran) × Nat × State :=
  match s.poolTo o false false with
  | .error c => (some [], c, s)
  | .ok (ctx, va) =>
    match s.translateAt die ctx va false with
    | .error c => (some [], c, s)
    | .ok (a, _) =>
      match s.ownPlace a with
      | none => (some [], 0x0480, s)
      | some (pc, _) =>
        let g := homeG pc
        let s := s.fillFirst (Who.first (Who.die_ die)) ctx va (256 * n)
        if s.gRestarts g then (some [], 0x0705, s)
        else
          match s.fetchOver (dieG g) (fun _ => some (pcDie pc)) (16 * n) edges fun _ _ s => s.extentLines g ctx (s.translateAt die ctx) va upset 0 n with
          | (none, c, s) => (none, c, s)
          | (some l, c, s) => s.fetchOver die (fun _ => some (dieG g)) (16 * n) edges fun _ _ s => (l, c, s)

/-! ## Responses (R427, R431) -/

/-- A record of the F-die that a request met (R437): its pool-window unit. -/
def poolFault (s : State) (q code : Nat) (f : Frame) : FaultRec :=
  { FaultRec.new s code (some (dieF (q / 8))) 0x29 with dkind := 4, detail := f.offset.toNat + f.dst.toNat * 2 ^ 48 }

/-- A response reaches its request; one that nothing waits for, or that comes after the
bound of its request, is discarded and counted (R431). -/
def State.takeRsp (s : State) (q peer reqSeq status : Nat) (l : List Gran) (last : Bool) (edges : List EdgeErr) : State :=
  match s.fab.reqs.find? fun r => r.port == q && r.peer == peer && r.reqSeq == reqSeq && decide (s.time.now ≤ r.issue + 2000 ∧ r.op ≠ 5) with
  | none => s.countPort q 0xC4
  | some r =>
    let got := r.got ++ l
    if last then s.finishReq r status got edges
    else s.setFab { s.fab with reqs := s.fab.reqs.map fun (x : RemoteReq) => if x.id == r.id then { x with got := got } else x }

/-- Answers a request: by the port on which it came, or to the device itself where it looped back. A code is recorded and carries no data
(R437). -/
def State.respond (s : State) (q : Nat) (f : Frame) (status : Nat) (l : List Gran) : State :=
  let s := if status = 0 then s else s.raise (poolFault s q status f)
  let l := if status = 0 then l else []
  if s.isSelf f.src.toNat then s.takeRsp q f.dst.toNat f.seq.toNat status l true []
  else
    let base := { frame0 .rsp f.op f.dst.toNat f.src.toNat with reqSeq := f.seq, status := BitVec.ofNat 16 status }
    s.answer q f.src.toNat f.dst.toNat (frames base l)

/-! ## Requests as they arrive (R420, R424, R434) -/

/-- Frames of one request, oldest first. -/
structure Arrived where
  s : State
  fs : List Frame

/-- Takes a request frame: none where it is dropped or more frames of its request are to come. Frames that loop back are taken with the
last one. -/
def State.arrive (s : State) (q op : Nat) (f : Frame) : State × Option Arrived :=
  if f.cls ≠ .req ∨ f.op ≠ op then (s, none)
  else if s.loops q f then
    if !f.last then (s, none)
    else
      let mine := fun z : Nat × Frame => z.1 == q && z.2.seq == f.seq
      (s, some { s := s.setFab { s.fab with loop := s.fab.loop.filter fun z => !mine z }, fs := (s.fab.loop.filter mine).map (·.2) })
  else
    match s.receive q f with
    | .dropped t => (t, none)
    | .taken t =>
      match t.conn? q f.src.toNat f.dst.toNat with
      | none => (t, none)
      | some c =>
        let f := { f with payload := Frame.grans f }
        if f.last then (t, some { s := t.setConn { c with parts := [] }, fs := c.parts ++ [f] })
        else (t.setConn { c with parts := c.parts ++ [f] }, none)

/-- The first frame of a request and all its granules. -/
def Arrived.head (a : Arrived) (f : Frame) : Frame := a.fs.headD f
def Arrived.data (a : Arrived) : List Gran := a.fs.flatMap (·.payload)

/-! ## CXL members (R439 to R441) -/

/-- Accesses that a connection has waiting at an H-die (R434). -/
def State.cxlBusy (s : State) (q : Nat) (f : Frame) : Bool :=
  s.fab.cxl.any fun x => match x.purpose with | .pool p g => p == q && g.src == f.src && g.dst == f.dst | .row _ => false

/-- 64-byte lines of two accesses meet. -/
def CxlReq.meets (a b : CxlReq) : Bool := a.hdie == b.hdie && decide (a.off / 64 < (b.off + max 1 b.n + 63) / 64 ∧ b.off / 64 < (a.off + max 1 a.n + 63) / 64)

/-- An access may not begin: it meets a locked line, it locks a line that another access uses, or an earlier one of its lines waits (R434,
R440). -/
def State.cxlBlocked (s : State) (x : CxlReq) : Bool :=
  s.fab.cxl.any fun y => y.meets x && (if y.phase == .waiting then decide (y.id < x.id) else y.id != x.id && (y.locked || x.locked))

/-- Starts an access of a pool request, or lets it wait for a lock. -/
def State.cxlPool (s : State) (h q : Nat) (f : Frame) (n : Nat) (phase : CxlPhase) (data : List Gran) : State :=
  let x : CxlReq := { id := s.nextId, hdie := h, purpose := .pool q f, off := f.offset.toNat, n := n, locked := f.op == 4, phase := phase, data := data }
  s.cxlStart h x.purpose x.off n x.locked (if s.cxlBlocked x then .waiting else phase) data

/-- Accesses that waited and now may begin; one whose time is over expires (R433, R440). -/
def State.cxlWake (s : State) : State :=
  (s.fab.cxl.filter (·.phase == .waiting)).foldl (fun s x =>
    if s.cxlBlocked x then s
    else
      match x.purpose with
      | .pool q f =>
        if s.expired f then
          let t := s.setFab { s.fab with cxl := s.fab.cxl.filter (·.id != x.id) }
          t.respond q f 0x0807 []
        else
          let ph := if f.op = 1 then CxlPhase.writing else CxlPhase.reading
          (s.setFab { s.fab with cxl := s.fab.cxl.map fun (y : CxlReq) => if y.id == x.id then { y with phase := ph } else y }).emit
            (if f.op = 1 then .cxlWrite x.hdie x.id x.off x.data else .cxlRead x.hdie x.id x.off x.n)
      | .row _ =>
        (s.setFab { s.fab with cxl := s.fab.cxl.map fun (y : CxlReq) => if y.id == x.id then { y with phase := .reading } else y }).emit (.cxlRead x.hdie x.id x.off x.n)) s

/-- A request to a member (R27, R28, R440, R441): refused beyond its capacity or without its permission, a row also while its home G-die is
restarting or out of service (log 163). -/
def State.memberReq (s : State) (h q : Nat) (f : Frame) (n : Nat) (data : List Gran) (edges : List EdgeErr) : State :=
  let o := f.offset.toNat
  let home := s.fld .vstCxl h 22 19
  if f.op = 3 ∧ (s.gRestarts home ∨ !s.dieOk (dieG home)) then s.respond q f 0x0705 []
  else if o + n > Config.cxlCapacity h ∨ (f.op = 1 ∧ !s.flag .vstCxl h 17) ∨ (f.op = 4 ∧ !s.flag .vstCxl h 18) then s.respond q f 0x0430 []
  else
    match s.sendOver (dieF (q / 8)) (dieH h) data edges with
    | (none, s) => s
    | (some l, s) =>
      let f := if f.op = 4 then { f with payload := l } else f
      s.cxlPool h q f n (if f.op = 1 then .writing else .reading) (if f.op = 1 then l else [])

/-- Answers a request that a member has served, over the mesh: from the H-die, or for a row from its home G-die, to the F-die (R27, R28, R441).
A response of which a packet is discarded is never sent. -/
def State.memberAnswer (s : State) (x : CxlReq) (q : Nat) (f : Frame) (l : List Gran) (edges : List EdgeErr) : State :=
  let s := s.setFab { s.fab with cxl := s.fab.cxl.filter (·.id != x.id) }
  let home := dieG (s.fld .vstCxl x.hdie 22 19)
  let (at_, r) : Nat × (Option (List Gran) × State) := if f.op = 3 then (home, s.sendOver (dieH x.hdie) home l edges) else (dieH x.hdie, (some l, s))
  match r with
  | (none, s) => s
  | (some l, s) =>
    match s.sendOver at_ (dieF (q / 8)) l edges with
    | (none, s) => s
    | (some l, s) => s.respond q f 0 l

/-- The 64-byte line of an atomic's access, and the granule of its operand. -/
def CxlReq.line (x : CxlReq) : Nat := x.off / 64 * 64

/-- A completed read of a pool request (R430, R433, R440): its data are sent; an atomic goes on to its write, unless its time is over. Operands
that came poisoned poison what they are written into (R323). -/
def State.cxlReadDone (s : State) (x : CxlReq) (q : Nat) (f : Frame) (l : List Gran) (edges : List EdgeErr) : State :=
  if f.op ≠ 4 then s.memberAnswer x q f l edges
  else
    let bad : Gran := { data := 0, poison := true }
    let g := l.headD bad
    match Frame.atomOf f with
    | none => s.memberAnswer x q f [bad] edges
    | some op =>
      if g.poison then s.memberAnswer x q f [bad] edges
      else if s.expired f then (s.setFab { s.fab with cxl := s.fab.cxl.filter (·.id != x.id) }).respond q f 0x0807 []
      else
        let n := if f.asz then 8 else 4
        let at_ := x.off % 16
        let old := g.data.toNat / 2 ^ (8 * at_) % 2 ^ (8 * n)
        let new := Aop.value op f.asz old (Frame.operand f 0) (Frame.operand f 1)
        let w := g.data.toNat - old * 2 ^ (8 * at_) + new * 2 ^ (8 * at_)
        let wg : Gran := { data := BitVec.ofNat 128 w, poison := f.payload.any (·.poison) }
        let y := { x with phase := .writing, data := [{ data := BitVec.ofNat 128 old, poison := false }, wg] }
        (s.setFab { s.fab with cxl := s.fab.cxl.map fun (z : CxlReq) => if z.id == x.id then y else z }).emit (.cxlWrite x.hdie x.id (x.off / 16 * 16) [wg])

/-- The staged records of the row at a byte of an expander, of the earliest saddle, in sorted order (R262, R441). -/
def State.memberRow (s : State) (g h off : Nat) : List Staged :=
  let due := s.upd.applying.filter fun st => st.gdie == g && st.cxl == some h && st.va == off
  match sortBy (fun st : Staged => st.u.saddle.toNat) due with
  | [] => []
  | x :: _ => sortBy (fun st : Staged => recKey st.u) (due.filter fun st => st.u.saddle == x.u.saddle)

/-- A row of HOME_G has been written, or its write has failed (R441). -/
def State.cxlRowDone (s : State) (x : CxlReq) (g : Nat) (error : Bool) : State :=
  let s := s.setFab { s.fab with cxl := s.fab.cxl.filter (·.id != x.id) }
  let row := s.memberRow g x.hdie x.off
  if error then s.rowFails row 0x0109 else (s.rowOutcome row HomeOut.committed).rowGone row

/-- CXL_MEM_COMPLETION (R27, R28, R440, R441): a read or write of an expander completes; poison or an error delivers poison and records 0x0109.
A write that fails is answered as one that was accepted: no STATUS of R437 says otherwise (log 164). -/
def execCxlMemCompletion (hdie : Fin 4) (id : Nat) (error : Bool) (data : List Gran) (edges : List EdgeErr) (s : State) : Outcome State Fault Refusal :=
  match s.fab.cxl.find? fun x => x.id == id && x.hdie == hdie.val && (x.phase == .reading || x.phase == .writing) with
  | none => .next s
  | some x =>
    let n := ceilDiv (max 16 x.n) 16
    let l := if error then poisonGrans n else (data ++ poisonGrans n).take n
    let t := if error || (x.phase == .reading && l.any (·.poison)) then s.raise (FaultRec.new s 0x0109 (some (dieH hdie.val)) 0x10) else s
    let t :=
      match x.phase, x.purpose with
      | .reading, .pool q f => t.cxlReadDone x q f l edges
      | .reading, .row g =>
        match t.sendOver (dieH hdie.val) (dieG g) l edges with
        | (none, t) => (t.setFab { t.fab with cxl := t.fab.cxl.filter (·.id != x.id) }).rowLost (t.memberRow g x.hdie x.off)
        | (some l, t) => t.setFab { t.fab with cxl := t.fab.cxl.map fun (y : CxlReq) => if y.id == x.id then { y with phase := .read, data := l } else y }
      | _, .pool q f => t.memberAnswer x q f (if f.op = 4 then x.data.take 1 else []) edges
      | _, .row g => t.cxlRowDone x g error
    .next t.cxlWake

/-! ## The requests (R430, R433 to R438) -/

/-- WRITE (R27, R28, R433 to R435, R437): executed at its last frame, granule by granule; the response follows when every granule has been
accepted or refused. A request that a fence makes wait has not been taken yet; one of which a packet is discarded on the mesh is never answered. -/
def execWrite (port : Fin 64) (f : Frame) (edges : List EdgeErr) (s : State) : Outcome State Fault Refusal :=
  match s.arrive port.val 1 f with
  | (t, none) => .next t
  | (_, some a) =>
    let h := a.head f
    let c := a.s.gate h true
    if h.fence && a.s.cxlBusy port.val h then .next s
    else if c ≠ 0 then .next (a.s.respond port.val h c [])
    else
      match a.s.memberOf h.dst.toNat with
      | some m => .next (a.s.memberReq m port.val h (16 * a.data.length) a.data edges)
      | none =>
        let die := dieF (port.val / 8)
        match a.s.carryOver die (fun i => a.s.poolDie die (h.offset.toNat + 16 * i)) a.data edges fun i l s => s.poolWrite die (h.offset.toNat + 16 * i) l with
        | (none, t) => .next t
        | (some c, t) => .next (t.respond port.val h c [])

/-- READ (R27, R28, R324, R434, R435, R437). -/
def execRead (port : Fin 64) (f : Frame) (bad : List Blemish) (edges : List EdgeErr) (s : State) : Outcome State Fault Refusal :=
  match s.arrive port.val 2 f with
  | (t, none) => .next t
  | (_, some a) =>
    let c := a.s.gate f true
    if f.fence && a.s.cxlBusy port.val f then .next s
    else if c ≠ 0 then .next (a.s.respond port.val f c [])
    else
      match a.s.memberOf f.dst.toNat with
      | some m => .next (a.s.memberReq m port.val f f.bytes.toNat [] edges)
      | none =>
        let die := dieF (port.val / 8)
        let o := f.offset.toNat
        let n := f.bytes.toNat / 16
        match (a.s.meetPool o n bad).fetchOver die (fun i => a.s.poolDie die (o + 16 * i)) n edges fun i k s => s.poolRead die (o + 16 * i) k with
        | (none, _, t) => .next t
        | (some l, c, t) => .next (t.respond port.val f c l)

/-- ROW_READ (R27, R28, R269, R324, R435, R437, R441): served whole by the home G-die of the extent, or for a member through its H-die. -/
def execRowRead (port : Fin 64) (f : Frame) (upset : List Upset) (edges : List EdgeErr) (s : State) : Outcome State Fault Refusal :=
  match s.arrive port.val 3 f with
  | (t, none) => .next t
  | (_, some a) =>
    let c := a.s.gate f true
    if f.fence && a.s.cxlBusy port.val f then .next s
    else if c ≠ 0 then .next (a.s.respond port.val f c [])
    else
      match a.s.memberOf f.dst.toNat with
      | some m => .next (a.s.memberReq m port.val f f.bytes.toNat [] edges)
      | none =>
        match a.s.poolRow (dieF (port.val / 8)) f.offset.toNat (f.bytes.toNat / 256) upset edges with
        | (none, _, t) => .next t
        | (some l, c, t) => .next (t.respond port.val f c l)

/-- ATOMIC (R27, R28, R324, R430, R434, R435): executed at the agent; the response follows the write of the new value. A malformed one is
dropped. -/
def execAtomic (port : Fin 64) (f : Frame) (bad : List Blemish) (edges : List EdgeErr) (s : State) : Outcome State Fault Refusal :=
  match s.arrive port.val 4 f with
  | (t, none) => .next t
  | (_, some a) =>
    match Frame.atomOf f with
    | none => .next (a.s.refuseFrame port.val)
    | some op =>
      let c := a.s.gate f true
      if f.fence && a.s.cxlBusy port.val f then .next s
      else if c ≠ 0 then .next (a.s.respond port.val f c [])
      else
        match a.s.memberOf f.dst.toNat with
        | some m => .next (a.s.memberReq m port.val f (if f.asz then 8 else 4) a.data edges)
        | none =>
          let die := dieF (port.val / 8)
          let at_ := a.s.poolDie die f.offset.toNat
          let run := fun (_ _ : Nat) (s : State) =>
            let (l, s) := s.crossEdges (fun _ e => e.out && at_.any (between die · e)) a.data edges
            let (g, c, s) := s.poolAtomic die { f with payload := l } op
            ([g], c, s)
          match (a.s.meetPool (f.offset.toNat / 16 * 16) 1 bad).fetchOver die (fun _ => at_) 1 edges run with
          | (none, _, t) => .next t
          | (some l, c, t) => .next (t.respond port.val f c l)

/-- Sends a record that has arrived to its home G-die (R251, R435, R441): the home, or the code. -/
def State.recordHome (s : State) (q : Nat) (f : Frame) (u : UpdRec) : Except Nat Staged :=
  let o := f.offset.toNat
  match s.memberOf f.dst.toNat with
  | some h =>
    if o + 256 * u.stride.toNat > Config.cxlCapacity h then .error 0x0430
    else .ok { gdie := s.fld .vstCxl h 22 19, part := 64, ctx := 0, va := o, cxl := some h, port := some q, u := u, lost := false }
  | none =>
    match s.poolTo o false false with
    | .error c => .error c
    | .ok (ctx, va) =>
      match s.translateAt (dieF (q / 8)) ctx va false with
      | .error c => .error c
      | .ok (a, _) =>
        match s.ownPlace a with
        | none => .error 0x0480
        | some (pc, _) => .ok { gdie := homeG pc, part := s.ctxPart ctx, ctx := ctx, va := va, cxl := none, port := some q, u := u, lost := false }

/-- UPD_REC (R433, R435, R438): a record goes to its home G-die. It is not answered; one that is refused is recorded only. -/
def execUpdRec (port : Fin 64) (f : Frame) (s : State) : Outcome State Fault Refusal :=
  match s.arrive port.val 5 f with
  | (t, none) => .next t
  | (_, some a) =>
    let h := a.head f
    let u := updOf h.src.toNat a.data
    let c := a.s.gate h false
    if c ≠ 0 then .next (a.s.raise (poolFault a.s port.val c h))
    else
      match a.s.recordHome port.val h u with
      | .error c => .next (a.s.raise (poolFault a.s port.val c h))
      | .ok st => .next (a.s.setUpd { a.s.upd with flight := a.s.upd.flight ++ [st] })

/-- UPD_RPT (R274, R435, R438): a home's outcome goes to the G-die that ingested the serial. -/
def execUpdRpt (port : Fin 64) (f : Frame) (s : State) : Outcome State Fault Refusal :=
  match s.arrive port.val 6 f with
  | (t, none) => .next t
  | (_, some a) =>
    let c := a.s.gate f false
    if c ≠ 0 then .next (a.s.raise (poolFault a.s port.val c f))
    else
      let n := (a.data.headD { data := 0, poison := false }).data.toNat
      let serial := f.offset.toNat % 2 ^ 32
      match a.s.upd.ingests.find? fun i => i.serial == serial with
      | none => .next a.s
      | some i =>
        let o : HomeOut := { dev := f.src.toNat, gdie := bits n 3 0, src := a.s.devId, serial := serial, saddle := i.saddle, part := i.part, ctx := none, port := some port.val,
                             status := bits n 31 16, statusAt := 0, nonfin := bits n 47 32, records := bits n 95 64, rows := bits n 127 96, sent := true }
        .next (a.s.setUpd { a.s.upd with outcomes := a.s.upd.outcomes ++ [o] })

/-- RSP (R27, R28, R422, R424, R431): a response frame is delivered to its request. -/
def execRsp (port : Fin 64) (f : Frame) (edges : List EdgeErr) (s : State) : Outcome State Fault Refusal :=
  if f.cls ≠ .rsp then .next s
  else
    match s.receive port.val f with
    | .dropped t => .next t
    | .taken t => .next (t.takeRsp port.val f.src.toNat f.reqSeq.toNat f.status.toNat (Frame.grans f) f.last edges)

end Sys2Proof.Machine
end

