-- ==== Sys2Proof/Machine/Fabric.lean ====
section
/-! DEFINITION. Connections, timers and ports of the fabric, the fabric manager, and the Vestad registers (13; R415 to R448). -/

namespace Sys2Proof.Machine

open Sys2Proof Host

/-! ## Fabric-manager messages that leave (R445, R446) -/

/-- The payload of a message. -/
def FmMsg.grans (m : FmMsg) : List Gran :=
  let n := pack [(0, 8, m.type), (8, 8, m.scope), (16, 16, m.subject), (32, 16, m.code), (48, 8, m.unit), (56, 8, m.state), (64, 64, m.time),
    (128, 32, m.resets), (160, 32, m.msgSeq)]
  [{ data := BitVec.ofNat 128 n, poison := false }, { data := BitVec.ofNat 128 (n / 2 ^ 128), poison := false }]

/-- The F-die of lowest index that has a port up sends what waits, in order, to the fabric manager (R445): a message is unsent until its
connection is open and has room for its frame. A send that fails takes what waits with it (R426, R447). -/
def State.pumpFm (s : State) : State :=
  let f := s.fmDie
  if s.fab.fmQueue.isEmpty || !s.devIdValid || !s.flag .vstCtrl 0 1 || !s.flag .vstFm 0 16 || f = 8 then s
  else
    let peer := s.fld .vstFm 0 15 0
    let q := s.portTo f peer
    if s.fab.downPeers.contains peer then (s.setFab { s.fab with fmQueue := [] }).raise (devPortFault s q 0x0803)
    else
      match s.conn? q peer s.devId with
      | none =>
        if s.connRoom f then s.wantHello q peer s.devId else (s.setFab { s.fab with fmQueue := [] }).connFull q
      | some c =>
        if !c.open_ then s
        else
          let k := 1024 - c.unacked.length
          let fs := (s.fab.fmQueue.take k).map fun (m : FmMsg) => { frame0 .fm 0 s.devId peer with payload := m.grans }
          (s.setFab { s.fab with fmQueue := s.fab.fmQueue.drop k }).pump (c.queue s.time.now fs)

/-- FABRIC_TICK (R34, R51, R445, R464): fabric time rises by one while PTCK runs, the messages that fell due in the tick before are posted (R402), faults that feeders meet in the new tick are charged, withdrawals that waited
for a resume take effect, gathers issue the fetches of the tick (R100, R102), and messages to the fabric manager leave. -/
def execFabricTick (s : State) : Outcome State Fault Refusal := .next s.dueFaults.tellCharges.postMsix.tick.wakeArrays.pumpGathers.pumpFm

/-! ## Connections (R423 to R426) -/

/-- ACK (R424): an acknowledgement frees frames of its connection. -/
def execAck (port : Fin 64) (f : Frame) (s : State) : Outcome State Fault Refusal :=
  if f.cls ≠ .ack then .next s
  else if !s.frameOk port.val f then .next (s.refuseFrame port.val)
  else
    match s.conn? port.val f.src.toNat f.dst.toNat with
    | none => .next (s.refuseFrame port.val)
    | some c => if c.open_ then .next (s.pump { c.acked f.ack.toNat with lastFrame := s.time.now }) else .next (s.refuseFrame port.val)

/-- The cold-boot count of a connect HELLO (R423), `old` where its granule came poisoned (R422). -/
def helloBoot (f : Frame) (old : Nat) : Nat :=
  let g := (Frame.grans f).headD { data := 0, poison := false }
  if g.poison then old else bits g.data.toNat 31 0

/-- HELLO_CONNECT (R422, R423): it opens a connection, answers one that waits, or closes and reopens one that is open. -/
def execHelloConnect (port : Fin 64) (f : Frame) (s : State) : Outcome State Fault Refusal :=
  let q := port.val
  let peer := f.src.toNat
  let self_ := f.dst.toNat
  if f.cls ≠ .hello ∨ f.op ≠ 2 then .next s
  else if !s.frameOk q f then .next (s.refuseFrame q)
  else
    let s := s.badGrans q f
    match s.conn? q peer self_ with
    | none =>
      if s.connRoom (q / 8) then
        let c := { s.newConn q peer self_ true with peerBoot := helloBoot f 0 }
        .next ((s.setConn c).tx q (s.hello c))
      else .next (s.refuseFrame q)
    | some c =>
      if c.open_ then
        let s := s.closeConn c 0x0803
        let c := { s.newConn q peer self_ true with peerBoot := helloBoot f c.peerBoot }
        .next ((s.setConn c).tx q (s.hello c))
      else .next (s.pump { c with open_ := true, lastFrame := s.time.now, peerBoot := helloBoot f c.peerBoot })

/-- HELLO_LINK (R443): the port meets a Z6416 partner directly; the frame goes to a group address, so DST names no one. -/
def execHelloLink (port : Fin 64) (f : Frame) (s : State) : Outcome State Fault Refusal :=
  let p := s.fport port.val
  if f.cls = .hello ∧ f.op = 1 ∧ p.link ≥ 2 ∧ s.devIdValid then
    .next (s.setFport port.val { p with direct := true, partner := f.src.toNat })
  else .next s

/-- Connections of a port with a peer, under every ID of this device. -/
def State.connsOf (s : State) (q peer : Nat) : List Conn := s.fab.conns.filter fun c => c.port == q && c.peer == peer

/-- Acts on each connection of a port with a peer as it stands. -/
def State.onConns (s : State) (q peer : Nat) (f : State → Conn → State) : State := (s.connsOf q peer).foldl f s

def State.rto (s : State) : Nat := s.fld .vstTmo 0 11 0

/-- ACK_TIMER (R424): 8 ticks have passed without a frame to carry an acknowledgement. -/
def execAckTimer (port : Fin 64) (peer : BitVec 16) (s : State) : Outcome State Fault Refusal :=
  .next (s.onConns port.val peer.toNat fun s c =>
    match c.ackDue with
    | none => s
    | some t =>
      if s.time.now < t + 8 then s
      else (s.setConn { c with ackDue := none, lastFrame := s.time.now }).tx c.port { frame0 .ack 0 c.self_ c.peer with ack := BitVec.ofNat 32 c.expSeq })

/-- RETRANSMIT (R424): the oldest unacknowledged frame has waited RTO since its last transmission; every unacknowledged frame that has been
sent goes out again, in order. -/
def execRetransmit (port : Fin 64) (peer : BitVec 16) (s : State) : Outcome State Fault Refusal :=
  .next (s.onConns port.val peer.toNat fun s c =>
    match c.unacked.head?.bind (·.sent) with
    | none => s
    | some t =>
      if !c.open_ || decide (s.time.now < t + s.rto) then s
      else
        let again := c.unacked.filter (·.sent.isSome)
        let c' := { c with unacked := c.unacked.map fun (u : Unacked) => if u.sent.isSome then { u with sent := some s.time.now } else u,
                           ackDue := none, lastFrame := s.time.now }
        again.foldl (fun s u => s.tx c.port { u.f with ack := BitVec.ofNat 32 c.expSeq }) (s.setConn c'))

/-- HELLO_RESEND (R423). -/
def execHelloResend (port : Fin 64) (peer : BitVec 16) (s : State) : Outcome State Fault Refusal :=
  .next (s.onConns port.val peer.toNat fun s c =>
    if c.open_ || decide (s.time.now < c.helloAt + s.rto) then s
    else (s.setConn { c with helloAt := s.time.now, lastFrame := s.time.now }).tx c.port (s.hello c))

/-- PEER_TIMEOUT (R425): the oldest unacknowledged frame has waited PEER_TMO × 16 ticks. -/
def execPeerTimeout (port : Fin 64) (peer : BitVec 16) (s : State) : Outcome State Fault Refusal :=
  .next (s.onConns port.val peer.toNat fun s c =>
    match c.unacked.head? with
    | none => s
    | some u =>
      if s.time.now < u.born + 16 * s.fld .vstTmo 0 27 12 then s
      else ((s.setBit .vstEvt 0 2).sendFmAbout c.peer 8 0 0x0803 0 0).closeConn c 0x0803)

/-- CONNECTION_IDLE (R426): no frame in either direction for 1 s. -/
def execConnectionIdle (port : Fin 64) (peer : BitVec 16) (s : State) : Outcome State Fault Refusal :=
  .next (s.onConns port.val peer.toNat fun s c =>
    if c.unacked.isEmpty && decide (s.time.now ≥ c.lastFrame + 100000000) then s.closeConn c 0x0803 else s)

/-- FRAME_DROPPED (R418, R422): the frame is dropped and counted in the port's unit history. -/
def execFrameDropped (port : Fin 64) (_cause : DropCause) (s : State) : Outcome State Fault Refusal := .next (s.refuseFrame port.val)

/-! ## Fabric-manager messages that arrive (R445 to R447) -/

/-- TYPE, SUBJECT, STATE and MSG_SEQ of a message; none where a granule of it is poisoned or missing. -/
def fmFields (f : Frame) : Option (Nat × Nat × Nat × Nat) :=
  match Frame.grans f with
  | a :: b :: _ =>
    if a.poison || b.poison then none
    else some (bits a.data.toNat 7 0, bits a.data.toNat 31 16, bits a.data.toNat 63 56, bits b.data.toNat 63 32)
  | _ => none

/-- The device accepts the message: it comes from the fabric manager, and MSG_SEQ is later than the last (R445). -/
def State.fmAccepts (s : State) (f : Frame) : Bool :=
  match fmFields f with
  | none => false
  | some (_, _, _, n) =>
    s.flag .vstFm 0 16 && s.fld .vstFm 0 15 0 == f.src.toNat &&
      (match s.fab.fmLast with | none => true | some m => ackedBy n m)

def fmType (f : Frame) : Nat := (fmFields f).elim 0 (·.1)

def State.refuseFm (s : State) (q : Nat) : State := (s.raise (devPortFault s q 0x0808)).setBit .vstEvt 0 3

/-- What an accepted message does (R447): one of an unknown TYPE is ignored and recorded. -/
def State.fmAct (s : State) (q type subject state n : Nat) : State :=
  let s := s.setFab { s.fab with fmLast := some n }
  if type = 0x81 then
    let s := s.setFab { s.fab with downPeers := subject :: s.fab.downPeers.filter (· != subject) }
    (s.failReqs (fun r => r.peer == subject && !s.isSelf subject) 0x0803).closeConns (fun c => c.peer == subject) 0x0803
  else if type = 0x82 then s.setFab { s.fab with downPeers := s.fab.downPeers.filter (· != subject) }
  else if type = 0x83 then s.setFab { s.fab with peerTime := smPut s.fab.peerTime subject state }
  else s.raise (devPortFault s q 0x0808)

/-- An FM frame: the transport delivers it, and it is accepted or refused. -/
def State.fmFrame (s : State) (q : Nat) (f : Frame) : State :=
  match s.receive q f with
  | .dropped t => t
  | .taken t =>
    if t.fmAccepts f then
      match fmFields f with
      | none => t
      | some (type, subject, state, n) => t.fmAct q type subject state n
    else t.refuseFm q

/-- PEER_DOWN (R447): requests to the subject fail, its connections close, and its frames are dropped until PEER_UP. -/
def execPeerDown (port : Fin 64) (f : Frame) (s : State) : Outcome State Fault Refusal :=
  if f.cls = .fm ∧ fmType f = 0x81 then .next (s.fmFrame port.val f) else .next s

/-- PEER_UP (R447). -/
def execPeerUp (port : Fin 64) (f : Frame) (s : State) : Outcome State Fault Refusal :=
  if f.cls = .fm ∧ fmType f = 0x82 then .next (s.fmFrame port.val f) else .next s

/-- PEER_TIME (R447): the subject's time state for R432. -/
def execPeerTime (port : Fin 64) (f : Frame) (s : State) : Outcome State Fault Refusal :=
  if f.cls = .fm ∧ fmType f = 0x83 then .next (s.fmFrame port.val f) else .next s

/-- FM_FRAME_REFUSED (R445, R447): a frame from another source, with a stale MSG_SEQ, or of another TYPE, which is ignored. -/
def execFmFrameRefused (port : Fin 64) (f : Frame) (s : State) : Outcome State Fault Refusal :=
  if f.cls = .fm ∧ (!s.fmAccepts f ∨ !(0x81 ≤ fmType f ∧ fmType f ≤ 0x83)) then .next (s.fmFrame port.val f) else .next s

/-! ## Ports (R415, R442, R443) -/

/-- Lanes of a port of an F-die, as LANES shows them. -/
def State.allLanes (s : State) (f : Nat) : Nat := if s.flag .vstPortCfg f 0 then 0xFF else 0x0F

/-- A port leaves link-up (R442). -/
def State.losePort (s : State) (q link : Nat) : State :=
  let s := s.setFport q { s.fport q with link := link, lanes := 0 }
  let s := ((s.raise (devPortFault s q 0x0801)).setBit .vstEvt 0 0).sendFm 7 3 0x0801 q 0
  s.closeConns (fun c => c.port == q) 0x0801

/-- PORT_DOWN (R442). -/
def execPortDown (port : Fin 64) (s : State) : Outcome State Fault Refusal :=
  if (s.fport port.val).link ≥ 2 then .next (s.losePort port.val 0) else .next s

/-- PORT_UP (R415, R442, R443, R448): a port of an F-die in service trains with every lane, and a link HELLO leaves. -/
def execPortUp (port : Fin 64) (s : State) : Outcome State Fault Refusal :=
  let q := port.val
  let f := q / 8
  if s.opened && s.flag .vstCtrl 0 0 && (s.portsOf f).contains q && !s.excluded (dieF f) && decide ((s.fport q).link < 2) then
    let s := s.setFport q { link := 2, direct := false, partner := 0, lanes := s.allLanes f }
    .next ((s.sendFm 7 3 0 q 2).tx q (frame0 .hello 1 s.devId 0))
  else .next s

/-- LANE_REPAIR (R443): a direct link trains again on one half of its lanes; its connections stay. -/
def execLaneRepair (port : Fin 64) (upper : Bool) (s : State) : Outcome State Fault Refusal :=
  let q := port.val
  let p := s.fport q
  if s.flag .vstCtrl 0 0 && p.direct && s.flag .vstPortCfg (q / 8) 1 && p.link != 3 then
    let half := if s.flag .vstPortCfg (q / 8) 0 then (if upper then 0xF0 else 0x0F) else (if upper then 0x0C else 0x03)
    let s := s.setFport q { p with link := 3, lanes := half }
    .next (((s.raise (devPortFault s q 0x0802)).setBit .vstEvt 0 1).sendFm 7 3 0x0802 q 3)
  else .next s

/-! ## Registers (R418, R419, R436, R439, R448) -/

def State.vstRefused (s : State) (g : RG) (i : Nat) : State := (s.setBit .vstEvt 0 6).regErr (g.off i) 4

/-- A write of VST_ID (R418, R574): the first with V at 1 locks it. -/
def State.writeVstId (s : State) (w : Word) : State :=
  let off := RG.off .vstId 0
  if s.locks.contains off then s.regErr off 3
  else if wbit w 16 then ((s.putRw .vstId 0 w).setLocks (off :: s.locks))
  else s.regErr off 4

/-- VST_ID_WRITE (R418). -/
def execVstIdWrite (port : Fin 4) (w : Word) (s : State) : Outcome State Fault Refusal :=
  if s.reach port.val then .next (s.writeVstId w) else .next s

/-- A register that is fixed while VST_CTRL.EN is 1 would change (R448, R581). -/
def State.vstFixed (s : State) (g : RG) (i : Nat) (w : Word) : Bool :=
  s.flag .vstCtrl 0 0 && decide ((w &&& g.row.rw) ≠ (s.reg g i &&& g.row.rw))

/-- A write of VST_MAC (R419, R448): octet 0 of PREFIX has bit 0 clear and bit 1 set. -/
def State.writeVstMac (s : State) (w : Word) : State :=
  if s.vstFixed .vstMac 0 w || wbit w 0 || !wbit w 1 then s.vstRefused .vstMac 0 else s.putRw .vstMac 0 w

/-- VST_MAC_WRITE (R419). -/
def execVstMacWrite (port : Fin 4) (w : Word) (s : State) : Outcome State Fault Refusal :=
  if s.reach port.val then .next (s.writeVstMac w) else .next s

/-- A write of VST_PORT_CFG (R415, R448). -/
def State.writeVstPortCfg (s : State) (f : Nat) (w : Word) : State :=
  if s.vstFixed .vstPortCfg f w then s.vstRefused .vstPortCfg f else s.putRw .vstPortCfg f w

/-- A write of VST_TMO (R448, R569): RTO is 16 to 1,000 and PEER_TMO 64 to 65,535. -/
def State.writeVstTmo (s : State) (w : Word) : State :=
  let rto := wbits w 11 0
  let bad := decide (rto < 16 ∨ 1000 < rto)
  if bad || decide (wbits w 27 12 < 64) then
    State.regErr (if bad then s.setBit .vstEvt 0 6 else s) (RG.off .vstTmo 0) 5
  else s.putRw .vstTmo 0 w

/-- Some partition is not IDLE (R577). -/
def State.anyServes (s : State) : Bool := s.parts.any fun p => p.2.st != .idle

/-- A write of VST_CTRL (R448, R577): EN set, the ports train; EN cleared, they leave link-up. While a partition is not IDLE, EN is not
cleared and ETYPE is fixed while EN is 1. -/
def State.writeVstCtrl (s : State) (w : Word) : State :=
  let old := s.flag .vstCtrl 0 0
  let fixed := old && s.anyServes
  let keepE := fixed && decide (wbits w 31 16 ≠ s.fld .vstCtrl 0 31 16)
  let keepN := fixed && !wbit w 0
  let w := if keepE then setBits w 31 16 (s.fld .vstCtrl 0 31 16) else w
  let w := if keepN then setBits w 0 0 1 else w
  let s := s.putRw .vstCtrl 0 w
  let s := if keepN then s.regErr (RG.off .vstCtrl 0) 4 else s
  let s := if keepE then s.vstRefused .vstCtrl 0 else s
  if wbit w 0 = old then s
  else if wbit w 0 then
    ((List.range 8).filter fun f => !s.excluded (dieF f)).foldl
      (fun s f => (s.portsOf f).foldl (fun s q => s.setFport q { FPort.init with link := 1 }) s) s
  else
    (List.range 64).foldl (fun s q => if (s.fport q).link ≥ 2 then s.losePort q 0 else s.setFport q { s.fport q with link := 0 }) s

/-- A write of VST_FM (R445): the first message after it is accepted whatever its MSG_SEQ. -/
def State.writeVstFm (s : State) (w : Word) : State :=
  let s := s.putRw .vstFm 0 w
  s.setFab { s.fab with fmLast := none }

/-- The conditions of R439 on a member that becomes valid. -/
def State.memberOk (s : State) (n : Nat) (w : Word) : Bool :=
  let dev := wbits w 15 0
  (s.port n).cxl && (s.port n).active && !(s.devIdValid && s.devId == dev) &&
    ((List.range 4).all fun h => h == n || !(s.flag .vstCxl h 16 && s.fld .vstCxl h 15 0 == dev)) && s.dieOk (dieG (wbits w 22 19))

/-- A write of VST_CXL (R439, R448, R581). -/
def State.writeVstCxl (s : State) (n : Nat) (w : Word) : State :=
  let old := s.reg .vstCxl n
  if !wbit old 16 then
    if !wbit w 16 || s.memberOk n w then s.putRw .vstCxl n w
    else (s.putRw .vstCxl n (setBits w 16 16 0)).vstRefused .vstCxl n
  else
    let other := decide ((w &&& 0x7EFFFF) ≠ (old &&& 0x7EFFFF))
    let s := s.setReg .vstCxl n (setBits old 16 16 (bnat (wbit w 16)))
    if other then s.vstRefused .vstCxl n else s

/-- CXL_MEMBER_ENABLE (R439): a write of V from 0 to 1. -/
def execCxlMemberEnable (port : Fin 4) (n : Fin 4) (w : Word) (s : State) : Outcome State Fault Refusal :=
  if s.reach port.val ∧ wbit w 16 ∧ !s.flag .vstCxl n.val 16 then .next (s.writeVstCxl n.val w) else .next s

/-- A budget fits a resource beside the running and pending images (R103, R436). -/
def State.budgetFits (s : State) (kind id v : Nat) : Bool :=
  let all := ((s.otherImages 64).flatMap Image.withCycle).filter fun x => x.1.kind == kind && x.1.id == id
  let m := maxOf (all.map (·.2))
  (startsIn all m).all fun k => decide (sumAt all kind id k + v ≤ rsvCap kind)

/-- A write of VST_SERVE_F or VST_SERVE_G (R436, R569). -/
def State.writeServe (s : State) (gdie : Bool) (n : Nat) (w : Word) : State :=
  let g := if gdie then RG.vstServeG else RG.vstServeF
  let v := if gdie then wbits w 5 0 else wbits w 12 0
  if v > (if gdie then 40 else 7680) then s.regErr (g.off n) 5
  else if (if gdie then s.budgetFits 5 n v else s.budgetFits 7 n v && s.budgetFits 8 n v) then s.putRw g n w
  else (s.setBit .vstEvt 0 4).regErr (g.off n) 4

/-- SERVE_BUDGET_WRITE (R436): there are eight F-dies and sixteen G-dies. -/
def execServeBudgetWrite (port : Fin 4) (gdie : Bool) (n : Fin 16) (w : Word) (s : State) : Outcome State Fault Refusal :=
  if s.reach port.val && (gdie || decide (n.val < 8)) then .next (s.writeServe gdie n.val w) else .next s

end Sys2Proof.Machine
end

