-- ==== Sys2Proof/Machine/Boot.lean ====
section
/-! DEFINITION. Starts: the boot steps, their ways, the cairns, and the choice of the image set (16; R497 to R510). -/

namespace Sys2Proof.Machine

open Sys2Proof Host

/-! ## What a start keeps (R497, R543, R568) -/

/-- A record of the root of trust (R522), with its bit of SEC_EVT (R521). -/
def State.secRecord (s : State) (code : Nat) : State :=
  if code = 0 then s
  else
    let s := s.raise (FaultRec.new s code (some (dieS 0)) 4)
    if code = 0x0B01 ∨ code = 0x0B02 then s.setBit .secEvt 0 1 else if code = 0x0B03 then s.setBit .secEvt 0 2 else s

/-- Offsets of the PWR_ registers. -/
def isPwr (off : Nat) : Bool := decide (0x110000 ≤ off ∧ off < 0x120000)

/-- What the root state in MRAM gives back (R492, R497, R510, R568): the escalation logs, the out-of-service states and the good record. -/
def State.loadRoot (s : State) : State :=
  let r := s.rootRead
  let s := s.setErr { s.err with devOut := r.devOut, devLog := r.devLog, devCode := r.devCode, cdies := [] }
  let s := s.setMem { s.mem with selfRefresh := r.devOut }
  let s := r.cdies.foldl (fun s p => s.setCdie p.1 { CdieS.init with outOfService := p.2.1, log := p.2.2.1, lastCode := p.2.2.2 }) s
  (List.range 5).foldl (fun s d =>
    let g := r.good.getD d (0, shippedVersion)
    s.setDom d { s.dom d with good := g.1, goodVer := g.2 }) s

/-- The unit-history records as MRAM gives them back (R524, R526). -/
def State.loadUnits (s : State) : State :=
  s.setHlt { s.hlt with units := ((s.hlt.mram.map (·.1 / 4)).dedup).foldl (fun m k => smSet UnitRec.init m k (s.history k)) [] }

/-- Everything as at power-up but what MRAM, the fuses and the pins hold (R492, R497, R524, R543, R568). The PWR_ registers stay where `pwr`
is set. -/
def State.wiped (s : State) (pwr : Bool) : State :=
  let z := State.reset
  let b := s.boot
  State.loadUnits <| State.loadRoot { z with
    regs := if pwr then s.regs.filter fun r => isPwr r.1 else []
    time := if pwr then { z.time with trefOk := s.time.trefOk, ppsOk := s.time.ppsOk, tickOk := s.time.tickOk, tickInt := s.time.tickInt } else { z.time with tickOk := s.time.tickOk }
    ports := smMap PortS.init (fun _ (p : PortS) => { PortS.init with refclk := p.refclk, perst := p.perst }) s.ports
    err := { z.err with roots := s.err.roots }
    boot := { z.boot with
      start := b.start, tries := b.tries, colds := b.colds, alt := b.alt, retry := b.retry, exclKept := b.exclKept, stackMask := b.stackMask,
      sfwFailed := b.sfwFailed, failCode := b.failCode, mram := b.mram, doms := b.doms, lmsBuilding := b.lmsBuilding }
    hlt := { z.hlt with
      mram := s.hlt.mram
      sensors := smMap Sensor.init (fun _ (x : Sensor) => { x with reported := none, quiet := 0 }) s.hlt.sensors }
    pwr := s.pwr, out := s.out, free := s.free, pending := s.pending }

/-- Stepping word of a die kind, 0 C, 1 G, 2 F, 3 H, 4 S (R507). -/
def steppingWord (k : Nat) : Nat := k + 16 * (Config.stepping k).toNat + (if k = 4 then 256 * (Config.fuseEpoch 0).toNat else 0)

/-! ## The ways of the steps (R498, R500) -/

/-- Dies whose failure a step answers by exclusion (R498). -/
def stepDies (k : Nat) : BitVec 64 :=
  match k with
  | 2 => 0xC000000000000000
  | 8 => 0x0F00000000000000
  | 10 => 0x0000FFFF00000000
  | 11 => 0x00FF000000000000
  | 12 => 0x00000000FFFFFFFF
  | _ => 0

/-- C-dies out of service (R492, R498). -/
def State.outCdies (s : State) : BitVec 64 :=
  (List.range 32).foldl (fun (m : BitVec 64) c => if (s.cdie c).outOfService then m ||| BitVec.ofNat 64 (2 ^ c) else m) 0

/-- Dies that a step excludes in this start. -/
def State.stepExcl (s : State) (k : Nat) : BitVec 64 :=
  (s.boot.exclKept ||| (if k = 12 then s.outCdies else 0)) &&& stepDies k

/-- WAY of a step in this start: 0 normal, 1 alternative, 2 skipped (R498, R503). -/
def State.bootWay (s : State) (k : Nat) : Nat :=
  let alt := s.boot.alt
  if k = 13 then (if alt.contains 13 then 2 else 0)
  else if alt.contains k || (k == 6 && (List.range 5).any fun d => alt.contains (100 + d)) || (k == 9 && s.boot.stackMask != 0) || s.stepExcl k != 0 then 1
  else 0

/-- Bound of a step in µs (R498). -/
def State.stepBound (s : State) (k : Nat) : Nat :=
  match k with
  | 1 => 50000
  | 2 => 200000
  | 3 => 500000
  | 4 => 100000
  | 5 => 20000
  | 6 => 1000000
  | 7 => 20000
  | 8 => 500000
  | 9 => if s.boot.stackMask = 0 then 3000000 else 20000000
  | 10 => 300000
  | 11 => 1000000
  | 12 => 500000
  | 13 => 5000000
  | _ => 10000

/-- Dies whose failure a failure of step 2 is: those that the report names; where it names none, S0 and S1, whose ROMs run the step (DEDUCED,
log 144). -/
def sfwDies (failed : BitVec 64) : BitVec 64 := if failed = 0 then 0x3000000000000000 else failed

/-- Step 2 has failed on both slots of S0 or S1 (R501). -/
def BootS.romsOnly (b : BootS) (failed : BitVec 64) : Bool := b.alt.contains 2 && decide (sfwDies failed &&& b.sfwFailed &&& 0x3000000000000000 ≠ 0)

/-- The way that the next start takes after a step has failed: none where the step has no further way (R498, R500). `doms` are the domains that
failed step 6. -/
def State.failWay (s : State) (k : Nat) (failed : BitVec 64) (stk : Word) (doms : BitVec 5) : Option BootS :=
  let b := s.boot
  let dies := failed &&& stepDies k
  match k with
  | 2 =>
    if !b.alt.contains 2 then some { b with alt := 2 :: b.alt, sfwFailed := sfwDies failed }
    else if failed &&& stepDies 2 ≠ 0 ∧ failed &&& ~~~(stepDies 2 &&& b.sfwFailed) = 0 then some { b with exclKept := b.exclKept ||| failed }
    else none
  | 5 =>
    if !b.alt.contains 5 then some { b with alt := 5 :: b.alt }
    else if !b.alt.contains 500 then some { b with alt := 500 :: b.alt }
    else none
  | 6 =>
    let d := (List.range 5).filter fun d => doms.toNat.testBit d
    if d.any fun x => b.alt.contains (100 + x) then none else some { b with alt := d.map (100 + ·) ++ b.alt }
  | 7 => if b.alt.contains 7 then none else some { b with alt := 7 :: b.alt }
  | 8 =>
    let m := b.exclKept ||| dies
    if m &&& stepDies 8 = stepDies 8 then none else some { b with exclKept := m }
  | 9 => if b.stackMask &&& stk ≠ 0 then none else some { b with stackMask := b.stackMask ||| stk }
  | 10 | 11 | 12 => some { b with exclKept := b.exclKept ||| dies }
  | 13 => some { b with alt := 13 :: b.alt.filter (· != 13) }
  | _ => some b

/-- Steps that host software has asked to try the normal way again (R500). -/
def BootS.retried (b : BootS) : BootS :=
  (List.range 14).foldl (fun (c : BootS) i =>
    if b.retry.toNat.testBit i then
      let k := i + 1
      { c with alt := c.alt.filter fun a => a != k && !(k == 6 && decide (100 ≤ a ∧ a < 105)) && !(k == 5 && a == 500),
               exclKept := c.exclKept &&& ~~~(stepDies k), stackMask := if k = 9 then 0 else c.stackMask }
    else c) { b with retry := 0 }

/-! ## Cairns (R503) -/

def State.slotBits (s : State) : Nat := ((List.range 5).map fun d => (s.dom d).run * 2 ^ d).foldl (· + ·) 0

/-- TIME of a cairn. -/
def State.cairnTime (s : State) : Nat :=
  if s.boot.ptck && (s.time.state == .free || s.time.timeSet || s.time.state != .acquiring) then s.time.now else 0

/-- The 60 bytes of a cairn before its CRC. -/
def Cairn.body (c : Cairn) : Nat :=
  pack [(0, 16, 0x4B43), (16, 8, c.step), (24, 1, bnat c.isEnd), (25, 2, c.way), (27, 2, c.result), (32, 32, c.start), (64, 64, c.time),
    (128, 32, c.elapsed), (160, 16, c.code), (176, 5, c.slots), (192, 64, c.failed.toNat), (256, 64, c.excl.toNat), (320, 32, c.stackMask.toNat),
    (352, 16, c.chWd)]

/-- The 64 bytes of a cairn. -/
def Cairn.word (c : Cairn) : BitVec 512 := BitVec.ofNat 512 (c.body + 2 ^ 480 * crc32c (leBytes 60 c.body))

/-- The cairn that 64 bytes hold; one whose CRC fails is absent. -/
def cairnOf (w : BitVec 512) : Option Cairn :=
  let n := w.toNat
  if bits n 511 480 = crc32c (leBytes 60 (bits n 479 0)) ∧ bits n 15 0 = 0x4B43 then
    some { step := bits n 23 16, isEnd := n.testBit 24, way := bits n 26 25, result := bits n 28 27, start := bits n 63 32, time := bits n 127 64,
           elapsed := bits n 159 128, code := bits n 175 160, slots := bits n 180 176, failed := BitVec.ofNat 64 (bits n 255 192),
           excl := BitVec.ofNat 64 (bits n 319 256), stackMask := BitVec.ofNat 32 (bits n 351 320), chWd := bits n 367 352 }
  else none

/-- How far a copy of the journal has come: START, step and event of its newest cairn. -/
def journalAge (l : List Cairn) : Nat := match l with | [] => 0 | c :: _ => (c.start + 1) * 64 + 2 * c.step + bnat c.isEnd

/-- The journal as a reader finds it, newest first: the copy whose newest valid cairn has the highest START, and of those with one START the
one that has come furthest (R497). -/
def State.journal (s : State) : List Cairn :=
  (s.sdies.map fun n => (s.mram n).journal.filterMap cairnOf).foldl (fun (b : List Cairn) l => if journalAge b < journalAge l then l else b) []

/-- Writes a cairn to the journal copy of every S-die in service, a ring of 16,384. -/
def State.putCairn (s : State) (c : Cairn) : State :=
  s.sdies.foldl (fun s n => s.setMram n { s.mram n with journal := (c.word :: (s.mram n).journal).take 16384 }) s

/-- Writes the cairn of a step's beginning or end. -/
def State.cairn (s : State) (k : Nat) (isEnd : Bool) (result code : Nat) (failed : BitVec 64) (stk : Word) : State :=
  let b := s.boot
  s.putCairn
    { step := k, isEnd := isEnd, way := s.bootWay k, result := result, start := b.start, time := s.cairnTime, elapsed := b.elapsed, code := code,
      slots := s.slotBits, failed := failed, excl := b.excl, stackMask := if k = 9 then stk ||| b.stackMask else 0,
      chWd := if k = 9 then s.mem.withdrawn.length else 0 }

/-! ## Images (R504, R505, R507) -/

def FwDom.slot (x : FwDom) (i : Nat) : FwSlot := if i = 0 then x.a else x.b

/-- A slot holds a verified image (R512, R521). -/
def FwSlot.valid (x : FwSlot) : Bool := x.whole && x.verified

/-- Kweoth's manifest of the images with which the module ships: every stepping of the part, and every peer (log 66). -/
def shippedManifest : List Byte :=
  leBytes 2 0x4D46 ++ leBytes 1 5 ++ leBytes 1 5 ++ leBytes 12 0 ++ leBytes 64 (pack ((List.range 5).map fun k => (16 * k, 16, steppingWord k))) ++
    (List.range 5).flatMap fun d => leBytes 4 d ++ leBytes 4 shippedVersion.toNat

/-- The image of a domain with which the module ships: its body is the manifest, padded to whole granules. -/
def shippedImage (d : Nat) : List Byte :=
  let body := shippedManifest ++ leBytes 8 0
  leBytes 4 0x5A464957 ++ leBytes 4 d ++ leBytes 4 shippedVersion.toNat ++ leBytes 4 body.length ++ leBytes 4 0 ++ leBytes 4 shippedManifest.length ++
    leBytes 48 (Config.sha384 body).toNat ++ leBytes 97 (Config.shippedKeys d 0) ++ leBytes 7 0 ++ leBytes 60 (Config.shippedKeys d 1) ++ leBytes 20 0 ++
    leBytes 96 (Config.shippedKeys d 2) ++ leBytes 3604 (Config.shippedKeys d 3) ++ leBytes 140 0 ++ body

/-- The S-dies whose MRAM holds a slot (R497). -/
def slotDies (i : Nat) : List Nat := if i = 0 then [0, 2] else [1, 3]

/-- An image as it stands in a slot: the valid copy with the highest START (R497). -/
def State.image (s : State) (d i : Nat) : List Byte :=
  let l := ((slotDies i).filter fun n => s.sdies.contains n).map fun n => smGet (MCopy.init none) (s.mram n).images d
  match (l.filter (·.flaw == 0)).foldl (fun (b : Option (MCopy (Option (List Byte)))) c =>
      match b with | some x => if x.start < c.start then some c else b | none => some c) none with
  | some c => c.val.getD (if i = 0 then shippedImage d else [])
  | none => []

/-- Writes an image into a slot, one copy on each of its S-dies in service (R497, R512). -/
def State.putImage (s : State) (d i : Nat) (l : List Byte) : State :=
  ((slotDies i).filter fun n => s.sdies.contains n).foldl (fun s n =>
    s.setMram n { s.mram n with images := smSet (MCopy.init none) (s.mram n).images d { start := s.boot.start, val := some l, flaw := 0 } }) s

/-- Field of an image: `n` bytes from an offset, as a number. -/
def imgNat (l : List Byte) (off n : Nat) : Nat := leNat ((l.drop off).take n)

/-- Largest image of a domain in bytes (R504). -/
def maxImage (d : Nat) : Nat :=
  match d with
  | 1 => 12 * 2 ^ 20
  | 3 => 4 * 2 ^ 20
  | _ => 2 * 2 ^ 20

def imgHeader (l : List Byte) : List Byte := l.take 4096
def imgBody (l : List Byte) : List Byte := (l.drop 4096).take (imgNat l 0x00C 4)

/-- MAGIC, DOMAIN, reserved fields and sizes of an image (R504). -/
def imgShape (d : Nat) (l : List Byte) : Bool :=
  let body := imgNat l 0x00C 4
  let man := imgNat l 0x010 4
  decide (4096 + body ≤ l.length ∧ 4096 + body ≤ maxImage d ∧ body % 16 = 0 ∧ man % 16 = 0 ∧ man + imgNat l 0x014 4 ≤ body) &&
    imgNat l 0 4 == 0x5A464957 && imgNat l 4 1 == d && decide (imgNat l 5 1 < 4) && imgNat l 6 2 == 0 && imgNat l 0x0A9 7 == 0 &&
    imgNat l 0x0EC 20 == 0 && imgNat l 0xF74 140 == 0

/-- The checks of R505 by one root, in its order: 0 for a pass. -/
def rootCheck (root d : Nat) (l : List Byte) : Nat :=
  let key := imgNat l 5 1
  let msg := l.take 0x100
  let pub := (l.drop 0x048).take 97
  let hss := (l.drop 0x0B0).take 60
  if !imgShape d l then 0x0B01
  else if Config.sha384 pub ≠ Config.ecdsaKeyHash root key ∨ Config.keyRevoked root key then 0x0B01
  else if !Config.ecdsaValid pub msg ((l.drop 0x100).take 96) then 0x0B01
  else if Config.sha384 hss ≠ Config.hssKeyHash root key then 0x0B02
  else if !Config.hssValid hss msg ((l.drop 0x160).take 3604) then 0x0B02
  else if (Config.sha384 (imgBody l)).toNat ≠ imgNat l 0x018 48 then 0x0B01
  else 0

/-- An image as a root reads it. -/
def readBy (root d : Nat) (bad : List Misread) (l : List Byte) : List Byte :=
  (bad.filter fun m => m.root.val == root && m.domain.val == d).foldl (fun (l : List Byte) m => l.set m.offset (l.getD m.offset 0 ^^^ m.flip)) l

/-- The code with which both roots together refuse an image, 0 where it is verified (R505). -/
def verifyCode (d : Nat) (bad : List Misread) (l : List Byte) : Nat :=
  let x := readBy 0 d bad l
  let y := readBy 1 d bad l
  if rootCheck 0 d x ≠ rootCheck 1 d y ∨ imgNat x 0x018 48 ≠ imgNat y 0x018 48 then 0x0B03 else rootCheck 0 d x

/-- The manifest of an image; one that breaks the form of R507 lists nothing (DEDUCED, log 145). -/
def imgManifest (l : List Byte) : Manifest :=
  let m := ((imgBody l).drop (imgNat l 0x010 4)).take (imgNat l 0x014 4)
  let nStep := imgNat m 2 1
  let nPeer := imgNat m 3 1
  let version := BitVec.ofNat 32 (imgNat l 8 4)
  let ok := m.length == 0x50 + 8 * nPeer && imgNat m 0 2 == 0x4D46 && decide (1 ≤ nStep ∧ nStep ≤ 32) && imgNat m 4 12 == 0 &&
    (List.range 32).all (fun i => decide (i < nStep) || imgNat m (0x10 + 2 * i) 2 == 0) && (List.range nPeer).all fun j => imgNat m (0x51 + 8 * j) 3 == 0
  if ok then
    { version := version, steps := (List.range nStep).map fun i => imgNat m (0x10 + 2 * i) 2,
      peers := (List.range nPeer).map fun j => (imgNat m (0x50 + 8 * j) 1, imgNat m (0x54 + 8 * j) 4) }
  else { version := version, steps := [], peers := [] }

/-- Manifest and VERSION of the image in a slot. -/
def State.manifest (s : State) (d i : Nat) : Manifest := imgManifest (s.image d i)
def State.version (s : State) (d i : Nat) : Word := BitVec.ofNat 32 (imgNat (s.image d i) 8 4)

/-! ## Beginning a step and a start (R498 to R500) -/

/-- A step begins: the dies that it excludes leave, and its BEGIN cairn is written. -/
def State.beginStep (s : State) (k : Nat) : State :=
  let b := s.boot
  let s := s.setBoot { b with phase := .step k, excl := b.excl ||| s.stepExcl k, altNow := if s.bootWay k = 0 then b.altNow else k :: b.altNow }
  s.cairn k false 0 0 0 0

/-- BOOT_FAILED: the dies other than S0 and S1 are held in reset (R501). What this start's step 3 gave stays. -/
def State.bootFailed (s : State) (roms : Bool) : State :=
  let b := s.boot
  let s := s.wiped true
  s.setBoot { s.boot with phase := .failed, romOnly := roms, idented := b.idented, ident := b.ident, excl := b.excl }

/-- The slot that a start chooses for a domain: NEXT, or the other by the ways of steps 2 and 6; never one that an update has marked invalid
(R498, R512). -/
def State.chooseSlot (s : State) (d : Nat) : Nat :=
  let x := s.dom d
  let flip := s.boot.alt.contains (100 + d) || (d == 0 && s.boot.alt.contains 2)
  let n := if flip then 1 - x.next else x.next
  if (x.slot n).whole then n else 1 - n

/-- A BEGIN cairn without its END counts as a failure of its step, whose END cairn is written (R499, R503). -/
def State.tornStep (s : State) : Option Cairn :=
  match s.journal.head? with
  | some c => if c.isEnd then none else some c
  | none => none

/-- A start begins (R498 to R500, R568). Four starts that did not end step 14 within one application of power are the last. -/
def State.beginStart (s : State) (pwr : Bool) : State :=
  let s := s.wiped pwr
  let torn := s.tornStep
  let s := match torn with | some c => s.putCairn { c with isEnd := true, result := 1, code := 0 } | none => s
  match (match torn with | some c => s.failWay c.step 0 0 0 | none => some s.boot) with
  | none => s.bootFailed (torn.any fun c => c.step == 2 && s.boot.romsOnly 0)
  | some b =>
    let b := b.retried
    if b.tries ≥ 4 then (s.setBoot b).bootFailed false
    else
      let s := s.setBoot { b with start := (b.start + 1) % 2 ^ 32, tries := b.tries + 1, colds := (b.colds + 1) % 2 ^ 32, lastCode := b.failCode, failCode := 0 }
      let s := (List.range 5).foldl (fun s d => s.setDom d { s.dom d with run := s.chooseSlot d, pend := false }) s
      s.beginStep 1

/-- A step fails: its END cairn is written and the package restarts, or the boot ends in BOOT_FAILED (R499, R500). The END cairn shows EXCL as
it was during the start; a die that the failure excludes shows from the next start on (DESIGN CHOICE, log 135; R32 names no cairn). `doms` are
the domains whose chosen image step 6 did not verify. -/
def State.failStep (s : State) (k result : Nat) (codes : List Nat) (failed : BitVec 64) (stk : Word) (doms : BitVec 5) (elapsed : Word) : State :=
  let code := codes.headD 0
  let s := s.setBoot { s.boot with elapsed := elapsed.toNat, failCode := code }
  let s := (codes.foldl (fun s c => s.secRecord c) s).cairn k true result code failed stk
  match s.failWay k failed stk doms with
  | none => s.bootFailed (k == 2 && s.boot.romsOnly failed)
  | some b => if b.tries ≥ 4 then (s.setBoot b).bootFailed false else (s.setBoot b).beginStart true

/-! ## The image set (R508, R509) -/

/-- Die kind of a domain's stepping word (R507). -/
def domainKind (d : Nat) : Nat :=
  match d with
  | 0 => 4
  | 1 => 3
  | 2 => 1
  | 3 => 2
  | _ => 0

/-- The image's manifest holds the device's stepping word. -/
def stepFits (d : Nat) (x : Manifest) : Bool := x.steps.contains (steppingWord (domainKind d))

/-- Either of two images lists the other. -/
def pairFits (d e : Nat) (x y : Manifest) : Bool := x.peers.contains (e, y.version.toNat) || y.peers.contains (d, x.version.toNat)

/-- Domains of a set, given by its slots, that fail a stepping check or lie in a failing pair. -/
def State.misfits (s : State) (set : List Nat) : List Nat :=
  let im := fun d => s.manifest d (set.getD d 0)
  (List.range 5).filter fun d => !stepFits d (im d) || (List.range 5).any fun e => e != d && !pairFits d e (im d) (im e)

/-- The code of the first failing check of a set, 0 where it is tested together. -/
def State.setCode (s : State) (set : List Nat) : Nat :=
  if (List.range 5).any fun d => !stepFits d (s.manifest d (set.getD d 0)) then 0x0A02
  else if (s.misfits set).isEmpty then 0 else 0x0A01

/-- The verified slot that holds a domain's good-record image. -/
def State.goodSlot (s : State) (d : Nat) : Option Nat :=
  let x := s.dom d
  [x.good, 1 - x.good].find? fun i => (x.slot i).valid && s.version d i == x.goodVer

/-- The image set of step 7: its slots, the codes recorded, and the domains that are not started (R509). -/
def State.chooseSet (s : State) : List Nat × List Nat × List Nat :=
  let good := fun d => (s.goodSlot d).getD (s.dom d).good
  let lost := fun l : List Nat => l.filter fun d => (s.goodSlot d).isNone
  let all := List.range 5
  let run := all.map fun d => (s.dom d).run
  if s.boot.alt.contains 7 then (all.map good, (lost all).map fun _ => 0x0A04, lost all)
  else
    let code := s.setCode run
    if code = 0 then (run, [], [])
    else
      let bad := s.misfits run
      let set := all.map fun d => if bad.contains d then good d else run.getD d 0
      let codes := code :: bad.map fun _ => 0x0A03
      if s.setCode set = 0 then (set, codes ++ (lost bad).map (fun _ => 0x0A04), lost bad)
      else (all.map good, codes ++ [0x0A03] ++ (lost all).map (fun _ => 0x0A04), lost all)

/-- Step 7 ends (R509): none where a domain that is not started ends the boot. -/
def State.compat (s : State) : Option State :=
  let (set, codes, lost) := s.chooseSet
  let s := codes.foldl (fun s c => s.secRecord c) s
  let s := if codes.contains 0x0A03 then s.setBit .secEvt 0 0 else s
  let s := (List.range 5).foldl (fun s d => s.setDom d { s.dom d with run := set.getD d 0 }) s
  if lost.contains 0 || lost.contains 1 || lost.contains 4 then none
  else
    let m : BitVec 64 := (if lost.contains 2 then stepDies 10 else 0) ||| (if lost.contains 3 then stepDies 11 else 0)
    let s := s.setBoot { s.boot with excl := s.boot.excl ||| m }
    some (if lost.contains 3 then s.timeAnew else s)

/-! ## The signing state (R516, R517) -/

/-- The leaf that a root finds: the largest of the copies that it finds valid. -/
def State.leafSeen (s : State) (blind : BitVec 4) : Option Nat :=
  ((s.sdies.filter fun n => (s.mram n).lms.2 == 0 && !blind.getLsbD n).map fun n => (s.mram n).lms.1).foldl
    (fun (b : Option Nat) i => some (match b with | some j => max i j | none => i)) none

/-- The next unused leaf (SEC_LMS of R521). -/
def State.lmsNext (s : State) : Nat := (s.leafSeen 0).getD 0

/-- Both roots find leaf `i` and write the next one to every copy (R517, step 2). A new bottom-level tree begins at each 2^20 leaves. -/
def State.writeLeaf (s : State) (g : Signing) (i : Nat) : State :=
  let t := s.sdies.foldl (fun s n =>
    let v := match g.lost.find? (·.1.val == n) with | some x => x.2 | none => (i + 1, 0)
    s.setMram n { s.mram n with lms := v }) s
  let t := if 2 ^ 40 - (i + 1) < 2 ^ 32 then t.setBit .secEvt 0 6 else t
  if (i + 1) % 2 ^ 20 = 0 then t.setBoot { t.boot with lmsBuilding := true } else t

/-- The leaf with which S0 and S1 sign, or the code with which they release nothing (R516, R517). With no valid copy no leaf is known, and
nothing is released (DEDUCED, log 146). -/
def State.signLeaf (s : State) (g : Signing) : State × Except Nat Nat :=
  if s.leafSeen g.blind0 ≠ s.leafSeen g.blind1 then (s, .error 0x0B03)
  else
    match s.leafSeen g.blind0 with
    | none => (s, .error 0x0B04)
    | some i =>
      if i ≥ 2 ^ 40 then (s, .error 0x0B05)
      else
        let t := s.writeLeaf g i
        if (t.sdies.filter fun n => (t.mram n).lms == (i + 1, 0)).length < 2 then (t, .error 0x0B04)
        else if !g.same then (t, .error 0x0B03)
        else (t, .ok i)

/-! ## Identity (R515, R516) -/

/-- SHA-384 of the header of a domain's running image. -/
def State.headerHash (s : State) (d : Nat) : BitVec 384 := Config.sha384 (imgHeader (s.image d (s.dom d).run))

def hashBytes (h : BitVec 384) : List Byte := leBytes 48 h.toNat

/-- Layer 0: the ROM derives the DeviceID seeds. -/
def State.deriveDevice (s : State) : State :=
  s.setBoot { s.boot with ident := { s.boot.ident with seed := Config.hmac384 Config.uds Config.deviceIdLabel } }

/-- Layer 1: the ROM derives CDI_1 and closes the read gate of the UDS. -/
def State.deriveLayer1 (s : State) : State :=
  if s.boot.ident.gate then
    let cdi := Config.hmac384 Config.uds (hashBytes (s.headerHash 0) ++ [BitVec.ofNat 8 (Config.fuseEpoch 0).toNat])
    s.setBoot { s.boot with ident := { s.boot.ident with cdi1 := cdi, gate := false } }
  else s

/-- Layer 2: the S-die firmware derives CDI_2, and the DeviceID key issues the Alias certificate in both forms. The HSS form takes a leaf
(DEDUCED, log 146). -/
def State.deriveAlias (s : State) (g : Signing) : State :=
  let msg := (List.range 4).flatMap (fun d => hashBytes (s.headerHash (d + 1))) ++ [BitVec.ofNat 8 s.slotBits]
  let cdi := Config.hmac384 s.boot.ident.cdi1 msg
  let hashes := (List.range 5).map s.headerHash
  match s.signLeaf g with
  | (t, .ok i) => t.setBoot { t.boot with ident := { t.boot.ident with cdi2 := cdi, hashes := hashes, leaf := some i } }
  | (t, .error c) => (t.setBoot { t.boot with ident := { t.boot.ident with cdi2 := cdi, hashes := hashes, leaf := none } }).secRecord c

/-- A signing at which every copy takes the write and both roots agree. -/
def Signing.sound : Signing := { blind0 := 0, blind1 := 0, lost := [], same := true }

/-! ## Verification and delivery of images (R505, R506) -/

/-- The code with which the chosen image of a domain is refused; an image that an update has marked invalid is never one to run (R505, R512). -/
def State.chosenCode (s : State) (bad : List Misread) (d : Nat) : Nat :=
  let x := s.dom d
  if (x.slot x.run).whole then verifyCode d bad (s.image d x.run) else 0x0B01

def FwDom.setSlot (x : FwDom) (i : Nat) (y : FwSlot) : FwDom := if i = 0 then { x with a := y } else { x with b := y }

/-- The roots have verified the chosen image of a domain, or refused it. -/
def State.noteVerified (s : State) (d : Nat) (ok : Bool) : State :=
  let x := s.dom d
  s.setDom d (x.setSlot x.run { x.slot x.run with verified := ok })

/-- The domain whose image a step delivers, and its target dies (R498, R506). -/
def stepTargets (k : Nat) : Option (Nat × List Nat) :=
  match k with
  | 2 => some (0, [62, 63])
  | 8 => some (1, (List.range 4).map dieH)
  | 9 => some (4, List.range 32)
  | 10 => some (2, (List.range 16).map dieG)
  | 11 => some (3, (List.range 8).map dieF)
  | _ => none

/-- A target die computes the hash of what it receives, and does not start an image whose hash is another (R506). -/
def State.takesImage (s : State) (d : Nat) (bad : List Garbled) (die : Nat) : Bool :=
  let l := bad.filter (·.die.val == die)
  let b := imgBody (s.image d (s.dom d).run)
  l.isEmpty || Config.sha384 (l.foldl (fun (b : List Byte) g => b.set g.offset (b.getD g.offset 0 ^^^ g.flip)) b) == Config.sha384 b

/-- Target dies in service that did not take the image of a step. -/
def State.untaken (s : State) (k : Nat) (r : StepReport) : BitVec 64 :=
  match stepTargets k with
  | some (d, l) => (l.filter fun i => !s.excluded i && !s.takesImage d r.garbled i).foldl (fun (m : BitVec 64) i => m ||| BitVec.ofNat 64 (2 ^ i)) 0
  | none => 0

/-- Domains whose chosen image a step verifies (R498). -/
def stepVerifies (k : Nat) : List Nat := match k with | 2 => [0] | 6 => List.range 5 | _ => []

/-! ## Units of excluded dies (R524, R528, R530) -/

/-- STATE of a unit changes as its die is excluded or re-admitted. -/
def State.relabel (s : State) (die unit st : Nat) : State :=
  let k := 256 * die + unit
  let u := s.unit k
  let s := (s.setUnit k { u with st := st, was := if st = 3 then u.st else 0, stateTime := s.time.now }).toMram k
  s.telemetry 2 (pack [(0, 8, die), (8, 8, unit), (16, 8, u.st), (24, 8, st)])

/-- Units of the excluded dies are EXCLUDED, and those of dies that are re-admitted show again what they were (R528, R530). Every exclusion of a
start is decided when step 12 begins. -/
def State.labelUnits (s : State) : State :=
  let s := ((List.range 64).filter fun d => s.excluded d).foldl (fun s d =>
    ((List.range 256).filter fun u => unitListed d u && (s.unit (256 * d + u)).st != 3).foldl (fun s u => s.relabel d u 3) s) s
  (s.hlt.units.filter fun p => p.2.st == 3 && !s.excluded (p.1 / 256)).foldl (fun s p => s.relabel (p.1 / 256) (p.1 % 256) p.2.was) s

/-! ## The steps' own effects -/

/-- Step 5: PTCK starts; the time die is F0, or F1, or PTCK runs from TICK (R38, R39, R498). A die that an earlier start excluded is
not chosen. With both down TIME_DIE shows F1, and where a time die is lost later it shows the last one (DESIGN CHOICE, log 136; R57). -/
def State.startClock (s : State) : State :=
  let failed := if s.boot.alt.contains 500 then [0, 1] else if s.boot.alt.contains 5 then [0] else []
  let down := failed ++ (List.range 2).filter fun i => (s.boot.excl ||| s.boot.exclKept).toNat.testBit (dieF i)
  let s := (s.setTime { s.time with timeDie := if down.contains 0 then 1 else 0, synthDown := down }).setBoot { s.boot with ptck := true }
  s.timeAnew

/-- Step 12: compute domains start and clear; arrays and cores that MRAM records as suspect or permanent stay out of service (R498, R524, R530). -/
def State.startCdies (s : State) : State :=
  let s := ((List.range 256).filter fun k => !s.excluded (k / 8)).foldl (fun s k => s.clearCore k true) s
  s.hlt.units.foldl (fun s u =>
    let die := u.1 / 256
    let unit := u.1 % 256
    if die < 32 && unit < 0x20 && (u.2.st == 1 || u.2.st == 2) then
      let a := 32 * die + unit
      s.setArray a { s.array a with withdrawn := true }
    else if die < 32 && decide (0x20 ≤ unit ∧ unit < 0x80) && u.2.perm then
      let k := 8 * die + (if unit < 0x30 then unit % 8 else if unit < 0x70 then (unit - 0x30) / 8 else unit % 8)
      s.setCore k { s.core k with outOfService := true }
    else s) s

/-- Step 13: an array's sweep, with the next seed of the array (R498, R525, R531). -/
def State.testSweep (s : State) (k : Nat) : State :=
  let x := s.array k
  let s := s.setArray k { x with seed := s.nextSeed k }
  (s.bump (k / 32) (k % 32) 0xCC (2 ^ 32 - 1) 1).setArea (k / 32) (k % 32) 0xD8 s.time.now

/-- Step 13: a unit that the self-test finds faulty (R498, R525, R527, R529). A failed sweep of a marked array makes it suspect (R153). -/
def State.selfTest (s : State) (die unit : Nat) : State :=
  if !unitListed die unit then s
  else if die < 32 && unit < 0x20 then
    let k := 32 * die + unit
    let s := (s.bump die unit 0xD0 (2 ^ 32 - 1) 1).failSeed k (s.array k).seed
    (s.raise { FaultRec.new s 0x0310 (some die) unit with test := true }).afterClean (k / 4) (k % 4) 0x0310
  else (s.bump die unit 0xC4 (2 ^ 32 - 1) 1).raise (FaultRec.new s 0x0103 (some die) unit)

/-- H-die that holds the registers (R564). -/
def State.homeDie (s : State) : Nat := ((List.range 4).find? fun h => !s.excluded (dieH h)).getD 0

/-- What the end of a step brings: none where it ends the boot. -/
def State.stepDone (s : State) (k : Nat) (r : StepReport) : Option State :=
  match k with
  | 1 => some s.deriveDevice
  | 2 => some (s.noteVerified 0 true).deriveLayer1
  | 3 => some ((s.setBoot { s.boot with idented := true }).deriveAlias r.sign)
  | 5 => some s.startClock
  | 6 => some ((List.range 5).foldl (fun s d => s.noteVerified d true) s)
  | 7 => s.compat.map fun t => if t.slotBits = s.slotBits then t else t.deriveAlias r.sign
  | 8 => some (s.setBoot { s.boot with home := s.homeDie })
  | 9 => some (s.setMem { s.mem with withdrawn := (r.channels.map (·.val)).dedup })
  | 12 => some s.labelUnits.startCdies
  | 13 =>
    if s.bootWay 13 = 2 then some s
    else
      let arrays := (List.range 1024).filter fun a => !s.excluded (a / 32)
      let s := arrays.foldl (fun s a => s.testSweep a) s
      some (r.units.foldl (fun s u => s.selfTest u.1.val u.2.toNat) s)
  | _ => some s

/-- The next step begins; after step 14 the setup registers are open (R498, R502). -/
def State.nextStep (s : State) (k : Nat) : State :=
  if k = 14 then s.setBoot { s.boot with phase := .open_, tries := 0, served := s.time.now } else s.beginStep (k + 1)

/-- CODE of a step that has ended: the first fault code that it recorded, or the one reported (R503, R509). -/
def State.endCode (s : State) (k : Nat) (r : StepReport) : Nat :=
  match k with
  | 7 => s.chooseSet.2.1.headD r.code.toNat
  | 13 =>
    match r.units.head? with
    | some u => if s.bootWay 13 = 2 then r.code.toNat else if u.1.val < 32 ∧ u.2.toNat < 0x20 then 0x0310 else 0x0103
    | none => r.code.toNat
  | _ => r.code.toNat

/-- A domain that is not started ends the boot at step 7, its codes recorded (R509). -/
def State.compatFails (s : State) (code : Nat) : State :=
  let s := s.chooseSet.2.1.foldl (fun s c => s.secRecord c) s
  ((s.setBoot { s.boot with failCode := code }).cairn 7 true 1 code 0 0).bootFailed false

/-- BOOT_STEP_END (R498 to R509): a step ends within its bound. It fails where it reports a failure (SELFTEST does not), where the roots record
different outcomes, where they refuse an image that it verifies, or where a die does not take its image. -/
def execBootStepEnd (r : StepReport) (s : State) : Outcome State Fault Refusal :=
  match s.boot.phase with
  | .step k =>
    let b := s.boot
    let bad := (stepVerifies k).filter fun d => s.chosenCode r.misread d != 0
    let codes := bad.map (s.chosenCode r.misread)
    let away := s.untaken k r
    if r.elapsed.toNat < b.elapsed ∨ r.elapsed.toNat > b.elapsed + s.stepBound k then .next s
    else if !r.agree then .next (s.failStep k 1 [0x0B03] r.failed r.stackMask 0 r.elapsed)
    else if bad ≠ [] then
      let t := bad.foldl (fun s d => s.noteVerified d false) s
      let doms := BitVec.ofNat 5 ((bad.map fun d => 2 ^ d).foldl (· + ·) 0)
      .next (t.failStep k 1 codes (if k = 2 then r.failed ||| 0x3000000000000000 else r.failed) r.stackMask doms r.elapsed)
    else if away ≠ 0 then
      let stk := if k = 9 then r.stackMask ||| BitVec.ofNat 32 away.toNat else r.stackMask
      .next (s.failStep k 1 [0x0B01] (r.failed ||| away) stk 0 r.elapsed)
    else if !r.ok && k != 13 then .next (s.failStep k 1 [r.code.toNat] r.failed r.stackMask 0 r.elapsed)
    else
      let s := s.setBoot { b with elapsed := r.elapsed.toNat }
      let code := s.endCode k r
      match s.stepDone k r with
      | none => .next (s.compatFails code)
      | some s => .next ((s.cairn k true 0 code r.failed r.stackMask).nextStep k)
  | _ => .next s

/-- BOOT_STEP_TIMEOUT (R499): a step does not end within its bound; the report names what has not ended and the first code that the step
recorded. -/
def execBootStepTimeout (r : StepReport) (s : State) : Outcome State Fault Refusal :=
  match s.boot.phase with
  | .step k =>
    if r.elapsed.toNat < s.boot.elapsed + s.stepBound k then .next s
    else .next (s.failStep k 2 (if r.code = 0 then [] else [r.code.toNat]) r.failed r.stackMask 0 r.elapsed)
  | _ => .next s

/-- A PCIe-mode port answers every configuration request with Request Retry Status until step 14 ends (R502). -/
def State.retryStatus (s : State) (port : Nat) : Bool := !s.opened && !(s.port port).cxl

/-! ## SEC_BOOT_CTRL and the good record (R500, R510, R521) -/

/-- The running set becomes the good record, which is written to every S-die in service (R510). -/
def State.makeGood (s : State) : State :=
  ((List.range 5).foldl (fun s d =>
    let x := s.dom d
    s.setDom d { x with good := x.run, goodVer := s.version d x.run }) s).saveRoot

/-- CONFIRMED: the running set is the good record (R510, R521). -/
def State.confirmed (s : State) : Bool :=
  (List.range 5).all fun d => let x := s.dom d; x.good == x.run && x.goodVer == s.version d x.run

/-- A write of SEC_BOOT_CTRL (R521). -/
def State.writeBootCtrl (s : State) (w : Word) : State :=
  if s.rootsGone then s.regErr (RG.off .secBootCtrl 0) 4
  else
    let s := s.setBoot { s.boot with retry := s.boot.retry ||| BitVec.ofNat 14 (wbits w 13 0), confirm := s.boot.confirm || wbit w 16 }
    if wbit w 16 then s.makeGood else s

/-- RETRY (R500): steps to be tried the normal way at the next start. -/
def execRetry (port : Fin 4) (w : Word) (s : State) : Outcome State Fault Refusal :=
  if s.reach port.val ∧ wbits w 13 0 ≠ 0 then .next (s.writeBootCtrl w) else .next s

/-- CONFIRM (R510). -/
def execConfirm (port : Fin 4) (w : Word) (s : State) : Outcome State Fault Refusal :=
  if s.reach port.val ∧ wbit w 16 then .next (s.writeBootCtrl w) else .next s

/-- SCLK runs: it is made from TICK directly, so it stops with TICK, and the S-dies answer nothing meanwhile (R550, R551; log 172). -/
def State.sclk (s : State) : Bool := s.time.tickOk

/-- An activation is pending or under way. -/
def State.actPending (s : State) : Bool := s.boot.fwAct.isSome || (List.range 5).any fun d => (s.dom d).pend

/-- GOOD_RECORD_TIMER (R510): an hour of service without a counted device reset and with no activation pending. -/
def execGoodRecordTimer (s : State) : Outcome State Fault Refusal :=
  if s.opened && !s.err.devOut && decide (s.boot.served + hour ≤ s.time.now) && !s.actPending && recentLog s.time.now hour s.err.devLog == 0 then
    .next s.makeGood
  else .next s

end Sys2Proof.Machine
end

