-- ==== Sys2Proof/Machine/Firmware.lean ====
section
/-! DEFINITION. Firmware updates over PLDM and the activation of domains (16; R511 to R514). Command and completion codes are those of
DSP0267 (log 41). -/

namespace Sys2Proof.Machine

open Sys2Proof Host

/-- The S-dies answer PLDM: after step SFW, in service and in BOOT_FAILED (R501, R511), while their clock runs. -/
def State.pldmUp (s : State) : Bool :=
  s.sclk && match s.boot.phase with
    | .open_ | .failed => true
    | .step k => decide (2 < k)
    | .off | .reset | .standby => false

/-- A message of the management protocols can come on a channel (R501, R511, R518, R536): the sideband always; a PCIe-mode port whose link is up,
which in BOOT_FAILED none is, for the H-dies are held in reset. -/
def State.viaUp (s : State) : Via → Bool
  | none => true
  | some p => s.boot.phase != .failed && ((s.port p.val).link == .up || (s.port p.val).link == .degraded) && !(s.port p.val).cxl && !s.excluded (dieH p.val)

/-- A PLDM message can come and is answered. -/
def State.pldmVia (s : State) (via : Via) : Bool := s.pldmUp && s.viaUp via

/-- A message to a management channel: command, completion code, data. Completion codes: 0x00 success, 0x80 not in update mode, 0x81
ALREADY_IN_UPDATE_MODE, 0x82 data out of range, 0x84 invalid state. -/
def State.pldm (s : State) (via : Via) (command code data : Nat) : State := s.emit (.pldm via command code data)

def State.setFw (s : State) (m : FwMode) (comps : List Nat) (cur : Option FwXfer) (ready : List Nat) : State :=
  s.setBoot { s.boot with fw := m, fwComps := comps, fwCur := cur, fwReady := ready }

/-- QUERY_DEVICE_IDENTIFIERS (R511). -/
def execQueryDeviceIdentifiers (via : Via) (s : State) : Outcome State Fault Refusal :=
  if s.pldmVia via then .next (s.pldm via 0x01 0 (Config.pldmAnswer 0x01 0)) else .next s

/-- Component classification, firmware, and the component identifier of a domain (R511). -/
def fwClass : BitVec 16 := 0x000A
def fwIdent (d : Nat) : BitVec 16 := BitVec.ofNat 16 (1 + d)

/-- The domain that a component's classification and identifier name. -/
def fwDomain (cls ident : BitVec 16) : Option Nat :=
  if cls = fwClass then (List.range 5).find? fun d => fwIdent d == ident else none

/-- What the firmware parameters tell: of every domain its component, slots and versions. -/
def State.fwParams (s : State) : Nat :=
  (List.range 5).foldl (fun n d =>
    let x := s.dom d
    n * 2 ^ 112 + pack [(0, 1, x.run), (1, 1, x.next), (2, 1, bnat x.pend), (3, 1, bnat x.a.valid), (4, 1, bnat x.b.valid), (8, 32, (s.version d 0).toNat),
      (40, 32, (s.version d 1).toNat), (80, 16, fwClass.toNat), (96, 16, (fwIdent d).toNat)]) 0

/-- GET_FIRMWARE_PARAMETERS (R511). -/
def execGetFirmwareParameters (via : Via) (s : State) : Outcome State Fault Refusal :=
  if s.pldmVia via then .next (s.pldm via 0x02 0 (Config.pldmAnswer 0x02 s.fwParams)) else .next s

/-- REQUEST_UPDATE (R511): one update runs at a time. -/
def execRequestUpdate (via : Via) (s : State) : Outcome State Fault Refusal :=
  if !s.pldmVia via then .next s
  else if s.boot.fw = .idle then .next (((s.setFw .learn [] none []).setBoot { (s.setFw .learn [] none []).boot with fwVia := via }).pldm via 0x10 0 0)
  else .next (s.pldm via 0x10 0x81 0)

/-- The refusal of a command that the present mode does not allow. -/
def State.fwDeny (s : State) (via : Via) (command : Nat) : State := s.pldm via command (if s.boot.fw = .idle then 0x80 else 0x84) 0

/-- The domains that a component table names, none where it names something else; where only the ROMs run, domain 0 alone (R501). -/
def State.fwTable (s : State) (l : List (BitVec 16 × BitVec 16)) : Option (List Nat) :=
  let ds := l.filterMap fun c => fwDomain c.1 c.2
  if ds.length < l.length || (s.boot.romOnly && ds.any (· != 0)) then none else some ((List.range 5).filter ds.contains)

/-- PASS_COMPONENT_TABLE (R511). -/
def execPassComponentTable (via : Via) (comps : List (BitVec 16 × BitVec 16)) (s : State) : Outcome State Fault Refusal :=
  if !s.pldmVia via then .next s
  else if s.boot.fw = .learn then
    match s.fwTable comps with
    | none => .next (s.pldm via 0x13 0x82 0)
    | some l => .next ((s.setFw .ready l none []).pldm via 0x13 0 0)
  else .next (s.fwDeny via 0x13)

/-- The device asks for the next bytes of the image, 4,096 at most (R511). -/
def State.askData (s : State) (x : FwXfer) : State :=
  s.pldm s.boot.fwVia 0x15 0 (x.got.length + 2 ^ 32 * min 4096 (x.size - x.got.length))

/-- UPDATE_COMPONENT (R512): the image is to go into the slot that is not running. -/
def execUpdateComponent (via : Via) (cls ident : BitVec 16) (_version : Word) (size : Nat) (s : State) : Outcome State Fault Refusal :=
  if !s.pldmVia via then .next s
  else if s.boot.fw ≠ .ready then .next (s.fwDeny via 0x14)
  else
    match fwDomain cls ident with
    | none => .next (s.pldm via 0x14 0x82 0)
    | some d =>
      if !s.boot.fwComps.contains d || size = 0 || decide (size > maxImage d) then .next (s.pldm via 0x14 0x82 0)
      else
        let x : FwXfer := { domain := d, size := size, got := [] }
        .next (((s.setFw .download s.boot.fwComps (some x) s.boot.fwReady).pldm via 0x14 0 0).askData x)

/-- The slot of a domain that does not run. -/
def FwDom.spare (x : FwDom) : Nat := 1 - x.run

/-- The set of running images with one slot replaced, as R512 checks it. -/
def State.setWith (s : State) (d : Nat) : Nat :=
  s.setCode ((List.range 5).map fun e => if e = d then (s.dom e).spare else (s.dom e).run)

/-- Bytes come for the slot that does not run, which is invalid from the first one on (R512). -/
def State.fwWrite (s : State) (d : Nat) (l : List Byte) : State :=
  let x := s.dom d
  (s.setDom d (x.setSlot x.spare { whole := false, verified := false })).putImage d x.spare l

/-- The code with which a new image is refused, 0 where it passes: both roots verify it under R505, then the new set is checked under R508. -/
def State.fwCode (s : State) (d : Nat) (misread : List Misread) : Nat :=
  let root := verifyCode d misread (s.image d (s.dom d).spare)
  if root ≠ 0 then root else s.setWith d

/-- The transfer has ended (R511, R512): TransferComplete, then VerifyComplete with its result; a slot that passes is valid, and ApplyComplete sets
it as NEXT. -/
def State.fwJudge (s : State) (d : Nat) (misread : List Misread) : State :=
  let via := s.boot.fwVia
  let code := s.fwCode d misread
  let s := s.pldm via 0x16 0 0
  if code ≠ 0 then ((s.secRecord code).setFw .ready s.boot.fwComps none s.boot.fwReady).pldm via 0x17 0x01 0
  else
    let x := s.dom d
    let s := (s.setDom d { x.setSlot x.spare { whole := true, verified := true } with next := x.spare }).pldm via 0x17 0 0
    (s.setFw .ready s.boot.fwComps none (d :: s.boot.fwReady.filter (· != d))).pldm via 0x18 0 0

/-- FIRMWARE_DATA_RECEIVED (R511, R512): the bytes that the device asked for, which it writes to the slot; it asks for the next, or judges the
image. -/
def execFirmwareDataReceived (via : Via) (data : List Byte) (misread : List Misread) (s : State) : Outcome State Fault Refusal :=
  match s.boot.fwCur with
  | none => .next s
  | some x =>
    if !s.pldmVia via ∨ via ≠ s.boot.fwVia ∨ s.boot.fw ≠ .download ∨ data = [] ∨ data.length ≠ min 4096 (x.size - x.got.length) then .next s
    else
      let y := { x with got := x.got ++ data }
      let s := (s.setFw .download s.boot.fwComps (some y) s.boot.fwReady).fwWrite x.domain y.got
      if y.got.length < x.size then .next (s.askData y) else .next (s.fwJudge x.domain misread)

/-! ## Activation (R513) -/

/-- Ports of an F-die go down for its activation, and the standby synthesiser takes over (R38, R442). -/
def State.stopFdie (s : State) (f : Nat) : State :=
  let s := (List.range 8).foldl (fun s k => if (s.fport (8 * f + k)).link ≥ 2 then s.losePort (8 * f + k) 0 else s.setFport (8 * f + k) { s.fport (8 * f + k) with link := 0 }) s
  if s.time.timeDie = f && !s.time.unsteered then s.timeDieFails else s

/-- An F-die runs again: its ports train, and its synthesiser stands by. -/
def State.startFdie (s : State) (f : Nat) : State :=
  let s := s.setTime { s.time with synthDown := s.time.synthDown.filter (· != f) }
  if s.flag .vstCtrl 0 0 then (s.portsOf f).foldl (fun s q => s.setFport q { FPort.init with link := 1 }) s else s

/-- The next die of an activation begins; a G-die waits for a saddle. The hour of R510 counts from the end of the last. -/
def State.startAct (s : State) : List (Nat × Nat) → State
  | [] => s.setBoot { s.boot with fwAct := none, fw := .idle, fwComps := [], fwCur := none, fwReady := [], served := s.time.now }
  | (d, die) :: t =>
    let s := s.setBoot { s.boot with fwAct := some { domain := d, die := die, rest := t, begun := s.time.now, started := d != 2 } }
    if d = 3 then s.stopFdie (die - 48) else s

/-- Dies in service that run a domain's image. -/
def State.domainDies (s : State) (d : Nat) : List Nat :=
  (match d with
   | 1 => (List.range 4).map dieH
   | 2 => (List.range 16).map dieG
   | 3 => (List.range 8).map dieF
   | _ => []).filter fun i => !s.excluded i

/-- Domains that wait for a reset or a cold boot (R513, R514). -/
def State.actWaits (s : State) (d : Nat) : Bool := d == 0 || d == 4 || (d == 2 && s.err.devOut)

/-- ACTIVATE_FIRMWARE (R511, R513): the updated domains in increasing order. -/
def execActivateFirmware (via : Via) (s : State) : Outcome State Fault Refusal :=
  if !s.pldmVia via then .next s
  else if s.boot.fw ≠ .ready ∨ s.boot.fwReady = [] then .next (s.fwDeny via 0x1A)
  else
    let l := (List.range 5).filter fun d => s.boot.fwReady.contains d
    let s := l.foldl (fun s d => if s.actWaits d then s.setDom d { s.dom d with pend := true } else s) s
    let todo := (l.filter fun d => !s.actWaits d).flatMap fun d => (s.domainDies d).map fun i => (d, i)
    let s := s.setBoot { s.boot with fw := .activate, confirm := false, fwAbandoned := [] }
    .next ((s.startAct todo).pldm via 0x1A 0 0)

/-- Ticks within which a die runs its new image (R513). -/
def actBound (d : Nat) : Nat :=
  match d with
  | 1 => 2000000
  | 2 => 2000
  | _ => 50000000

/-- Tick after which a die has missed the bound of its activation: that of its domain, and for a G-die the close of the next saddle (R513). -/
def FwAct.limit (a : FwAct) : Nat :=
  let t := a.begun + actBound a.domain
  if a.domain = 2 then min t ((a.begun / 4096 + 1) * 4096 - 257) else t

/-- A die has ended its activation: the domain runs its new image once no die of it is left, and the Alias key is derived again; resets that
waited are decided, and the next die begins (R513 to R515). -/
def State.endDie (s : State) (a : FwAct) (rest : List (Nat × Nat)) (runs : Bool) (g : Signing) : State :=
  let x := s.dom a.domain
  let s := if runs && !rest.any (·.1 == a.domain) then (s.setDom a.domain { x with run := x.next }).deriveAlias g else s
  let s := if a.domain = 3 then s.startFdie (a.die - 48) else s
  let s := (s.setBoot { s.boot with fwAct := none }).runWaiting
  s.startAct rest

/-- ACTIVATION_DONE (R513): the die runs its new image within its bound. -/
def execActivationDone (sign : Signing) (s : State) : Outcome State Fault Refusal :=
  match s.boot.fwAct with
  | none => .next s
  | some a =>
    if !a.started ∨ s.time.now < a.begun ∨ s.time.now > a.limit then .next s
    else .next ((s.setBit .secEvt 0 3).endDie a a.rest true sign)

/-- ACTIVATION_TIMEOUT (R513): the die restarts on the other slot; NEXT returns to the running slot, so the domain's other dies stay. -/
def execActivationTimeout (s : State) : Outcome State Fault Refusal :=
  match s.boot.fwAct with
  | none => .next s
  | some a =>
    if !a.started ∨ s.time.now ≤ a.limit then .next s
    else
      let s := (s.secRecord 0x0A03).setBit .secEvt 0 4
      let s := s.setDom a.domain { s.dom a.domain with next := (s.dom a.domain).run }
      .next (s.endDie a (a.rest.filter (·.1 != a.domain)) false Signing.sound)

/-- ACTIVATION_ABANDON (R513): the condition for a G-die has not held within 100 saddles. -/
def execActivationAbandon (s : State) : Outcome State Fault Refusal :=
  match s.boot.fwAct with
  | none => .next s
  | some a =>
    if a.started ∨ s.time.now < a.begun + 409600 then .next s
    else
      let gone := a.die :: s.boot.fwAbandoned
      let s := s.setBoot { s.boot with fwAbandoned := gone }
      .next (s.endDie a a.rest ((s.domainDies 2).any fun i => !gone.contains i) Signing.sound)

/-- An image names a G-die by a step, by table entries, or by the ingest of its updates (R513). -/
def State.imageNamesG (s : State) (p : Nat) (im : Image) (g : Nat) : Bool :=
  (im.steps.any fun st => st.unitKind == 1 && st.unit == dieG g) || (im.tables.any fun t => t.gdie == g) ||
    (im.upd && s.flag .gthUpdCtrl p 4 && s.fld .gthUpdCtrl p 3 0 == g)

/-- At a saddle the activation of a G-die starts, if every partition whose image names it is HELD or has none (R513). -/
def State.startGdie (s : State) : State :=
  match s.boot.fwAct with
  | none => s
  | some a =>
    let g := a.die - 32
    let free := (List.range 64).all fun p =>
      match (s.part p).image with
      | some im => !s.imageNamesG p im g || (s.part p).st == .held
      | none => true
    if a.domain = 2 && !a.started && free then
      s.setBoot { s.boot with fwAct := some { a with started := true, begun := s.time.now + s.window g [] } }
    else s

/-- A device reset restarts the G-dies on NEXT, and domain 4 takes effect, each where its slot holds a verified image (R513 to R515). -/
def State.fwAtReset (s : State) : State :=
  let active := match s.boot.fwAct with | some a => a.domain == 2 | none => false
  let l := [2, 4].filter fun d => (s.dom d).pend || (d == 2 && active)
  let go := l.filter fun d => ((s.dom d).slot (s.dom d).next).valid
  let s := l.foldl (fun s d => s.setDom d { s.dom d with pend := false }) s
  let s := go.foldl (fun s d => (s.setDom d { s.dom d with run := (s.dom d).next }).setBit .secEvt 0 3) s
  let s := if l = [] then s else s.setBoot { s.boot with served := s.time.now }
  let s := if go = [] then s else s.deriveAlias Signing.sound
  match s.boot.fwAct with
  | some a => if a.domain = 2 then s.startAct (a.rest.filter (·.1 != 2)) else s
  | none => s

/-- Power is lost during an activation: NEXT of the domains that are not through stays at the good slot (R514). -/
def State.fwPowerLost (s : State) : State :=
  match s.boot.fwAct with
  | none => s
  | some a => ((a.domain :: a.rest.map (·.1)).dedup).foldl (fun s d => s.setDom d { s.dom d with next := (s.dom d).good }) s

/-! ## Status and cancelling (R511, R514) -/

/-- GET_STATUS (R511, R513): the mode, and the G-dies whose activation was abandoned. -/
def execGetStatus (via : Via) (s : State) : Outcome State Fault Refusal :=
  if s.pldmVia via then
    let mode : Nat := match s.boot.fw with | .idle => 0 | .learn => 1 | .ready => 2 | .download => 3 | .activate => 6
    .next (s.pldm via 0x1B 0 (Config.pldmAnswer 0x1B (mode + 8 * ((s.boot.fwAbandoned.map fun i => 2 ^ (i - 32)).foldl (· + ·) 0))))
  else .next s

/-- CANCEL_UPDATE_COMPONENT (R511): a slot that bytes were written into stays invalid. -/
def execCancelUpdateComponent (via : Via) (s : State) : Outcome State Fault Refusal :=
  if !s.pldmVia via then .next s
  else if s.boot.fw = .download then .next ((s.setFw .ready s.boot.fwComps none s.boot.fwReady).pldm via 0x1C 0 0)
  else .next (s.fwDeny via 0x1C)

/-- An update that is not yet activating ends. -/
def State.fwCancel (s : State) : State := s.setFw .idle [] none []

/-- CANCEL_UPDATE (R511). -/
def execCancelUpdate (via : Via) (s : State) : Outcome State Fault Refusal :=
  if !s.pldmVia via then .next s
  else if s.boot.fw = .idle ∨ s.boot.fw = .activate then .next (s.fwDeny via 0x1D)
  else .next (s.fwCancel.pldm via 0x1D 0 0)

/-- FIRMWARE_UPDATE_TIMEOUT (R514): the update is cancelled, and the written slot stays invalid. -/
def execFirmwareUpdateTimeout (s : State) : Outcome State Fault Refusal :=
  if s.boot.fw = .learn ∨ s.boot.fw = .ready ∨ s.boot.fw = .download then .next s.fwCancel else .next s

end Sys2Proof.Machine
end

