-- ==== Sys2Proof/Machine/Partition.lean ====
section
/-! DEFINITION. Partitions: enabling, cores, hold and resume, reset, stop and repair (14; R450 to R466; R481 of 15). -/

namespace Sys2Proof.Machine

open Sys2Proof Host

/-- A partition control submission that was accepted and whose effect has not begun (R457). -/
def State.control (s : State) (ring seq kind : Nat) : Option Sub :=
  match s.sub? ring seq with
  | some x => if x.kind = kind ∧ x.st = .accepted ∧ x.code = 0 ∧ !x.ran ∧ !x.done then some x else none
  | none => none

/-- Its effect begins. -/
def State.began (s : State) (x : Sub) (info : Nat) : State := s.setSub { x with ran := true, info := info }

/-- Its effect has ended: it completes. -/
def State.completes (s : State) (x : Sub) (info : Nat) : State := (s.began x info).finish x.ring x.seq

/-! ## Hold and resume (R458 to R464) -/

/-- HOLD (R458): from the decision at A the partition is HOLDING, and its latch tick is A + 64. -/
def execHold (ring : Fin 4096) (seq : Word) (s : State) : Outcome State Fault Refusal :=
  match s.control ring.val seq.toNat 0x85 with
  | none => .next s
  | some x =>
    let p := s.part x.part
    if p.st ≠ .serving ∨ p.image.isNone then .next (s.endWith x 0x06A1 0)
    else
      let l := x.decided + 64
      let s := s.setPart x.part { p with st := .holding, hold := some { latch := l, resumeAt := x.arg0, ring := x.ring, seq := x.seq, latched := false } }
      .next (s.began x l)

/-- HOLD_LATCH (R459): at tick L the engines begin to reach their hold points; instances whose reserved end comes later are held. -/
def execHoldLatch (part : Fin 64) (s : State) : Outcome State Fault Refusal :=
  let p := s.part part.val
  match p.hold with
  | none => .next s
  | some h =>
    if p.st ≠ .holding ∨ h.latched ∨ s.time.now < h.latch then .next s
    else
      let s := s.setPart part.val { p with hold := some { h with latched := true } }
      .next (s.setSubs (s.subs.map fun (x : Sub) =>
        if x.part == part.val && isQuery x.kind && x.st == .accepted && x.code == 0 && !x.done && decide (h.latch < x.resEnd) then { x with held := true } else x))

/-- A tile that begins before the latch has not ended (R459). -/
def State.inTile (s : State) (l : Nat) (z : Sub × Image) : Bool :=
  z.1.running && (z.2.stepsOf z.1).any fun i =>
    let st := z.2.step i
    st.unitKind == 0 && (List.range st.nTiles).any fun k =>
      let t := z.2.tile (st.first + k)
      let at_ := 7 * (z.1.start + st.start) + t.start
      decide (at_ < 7 * l ∧ 7 * s.time.now < at_ + t.len)

/-- A core's engines are at their hold points: no operation is held, no pass is in flight and no replay runs. -/
def State.coreHeld (s : State) (k : Nat) : Bool :=
  ((List.range 6).all fun e => (s.eng k e).held.isNone) && ((List.range 4).all fun a => (s.array (4 * k + a)).passes.isEmpty) &&
    (s.core k).replays.all fun r => !r.started

/-- Every engine is held and every request issued before the latch has retired or been abandoned (R461). -/
def State.allHeld (s : State) (p l : Nat) : Bool :=
  ((s.coresOf p).all s.coreHeld) && ((s.instances.filter (·.1.part == p)).all fun z => !s.inTile l z) &&
    !(s.xfers.any (·.part == p)) && !(s.usteps.any (·.part == p)) && !(s.fab.reqs.any (·.part == p)) &&
    !(s.reads.any fun q => q.part == p && q.purpose.engine) &&
    !(s.gsteps.any fun g => g.part == p && g.keys.any (·.away))

/-- Δ of R463: the smallest multiple of CYCLE for which L + Δ is at least B + 64. -/
def shiftOf (cycle l b : Nat) : Nat := ceilDiv (b + 64 - l) cycle * cycle

/-- Held instances whose shifted end passes their deadline fail (R462, R463). -/
def State.failShifted (s : State) (p d : Nat) : State :=
  (s.subs.filter fun x => x.part == p && x.held && x.code == 0 && !x.done && decide (x.deadline < x.resEnd + d)).foldl
    (fun s x => s.charge x.ring x.seq 0 (tableFault s p 0x0712)) s

def State.cycleOf (s : State) (p : Nat) : Nat := match (s.part p).image with | some im => im.cycle | none => 4096

/-- HELD_ENTERED (R461, R462): every engine is held and every request has retired; the HOLD completes. -/
def execHeldEntered (part : Fin 64) (s : State) : Outcome State Fault Refusal :=
  let p := s.part part.val
  match p.hold with
  | none => .next s
  | some h =>
    if p.st ≠ .holding ∨ !h.latched ∨ !s.allHeld part.val h.latch then .next s
    else
      let s := (s.setPart part.val { p with st := .held }).finish h.ring h.seq
      if h.resumeAt = 0 then .next s else .next (s.failShifted part.val (shiftOf (s.cycleOf part.val) h.latch h.resumeAt))

/-- HOLD_HOST_READ_TIMEOUT (R460): host reads of the engines outstanding at L + 2,000 are delivered poisoned and charged. -/
def execHoldHostReadTimeout (part : Fin 64) (s : State) : Outcome State Fault Refusal :=
  let p := s.part part.val
  match p.hold with
  | none => .next s
  | some h =>
    if p.st ≠ .holding ∨ s.time.now < h.latch + 2000 then .next s
    else
      .next ((s.reads.filter fun q => q.part == part.val && q.purpose.engine).foldl (fun s q =>
        let f := { FaultRec.new s 0x0550 (some (dieH q.port)) 0x10 with ctx := some q.ctx, part := some q.part, dkind := 3, detail := q.addr }
        let s :=
          match q.purpose with
          | .xfer r => s.charge r.ring.val r.seq.toNat 0 f
          | .glist r | .transfer r => s.charge r.ring.val r.seq.toNat 0 f
          | .batch _ _ | .flush _ _ => s
        let s := s.dropRead q.id
        s.deliver q (readData (ceilDiv q.len 16) .poisoned []) false []) s)

/-- A resume decided at B (R463): what is stated at L or later moves by Δ, and the partition serves again. -/
def State.resumeAt (s : State) (p : Nat) (h : HoldS) (b : Nat) : State :=
  let cyc := s.cycleOf p
  let d := shiftOf cyc h.latch b
  let s := s.failShifted p d
  let moved := s.subs.filter fun x => x.part == p && x.held && x.code == 0 && !x.done
  let s := s.setSubs (s.subs.map fun (x : Sub) =>
    if x.part == p && x.held then
      (if x.code == 0 && !x.done then { x with held := false, start := x.start + d, resEnd := x.resEnd + d } else { x with held := false })
    else x)
  let s := s.setSlots (s.slots.map fun (q : SlotS) =>
    if moved.any fun x => x.ring == q.ring && x.seq == q.seq then { q with start := q.start + d, resEnd := q.resEnd + d } else q)
  let s := s.setGsteps (s.gsteps.map fun (g : GStep) =>
    if g.part == p then { g with start := g.start + d, sortEnd := if h.latch ≤ g.sortEnd then g.sortEnd + d else g.sortEnd } else g)
  let x := s.part p
  s.setPart p { x with
    st := .serving, hold := none, delta := (x.delta + d / 4096) % 2 ^ 32, fromTick := h.latch + d,
    pending := x.pending.map fun (q : Pending) => if h.latch ≤ q.saddle then { q with saddle := q.saddle + d } else q }

/-- RESUME (R463): completes with the tick L + Δ. -/
def execResume (ring : Fin 4096) (seq : Word) (s : State) : Outcome State Fault Refusal :=
  match s.control ring.val seq.toNat 0x86 with
  | none => .next s
  | some x =>
    let p := s.part x.part
    match p.hold with
    | none => .next (s.endWith x 0x06A1 0)
    | some h =>
      if p.st ≠ .held then .next (s.endWith x 0x06A1 0)
      else
        let info := h.latch + shiftOf (s.cycleOf x.part) h.latch x.decided
        .next ((s.resumeAt x.part h x.decided).completes x info)

/-- RESUME_AT_ARRIVAL (R463): fabric time reaches RESUME_AT. -/
def execResumeAtArrival (part : Fin 64) (s : State) : Outcome State Fault Refusal :=
  let p := s.part part.val
  match p.hold with
  | none => .next s
  | some h =>
    if p.st ≠ .held ∨ h.resumeAt = 0 ∨ s.time.now < h.resumeAt then .next s else .next (s.resumeAt part.val h h.resumeAt)

/-! ## Partition reset (R481) -/

/-- PARTITION_RESET (R457, R481): RESETTING from the decision; a pending load is cancelled (R114). -/
def execPartitionReset (ring : Fin 4096) (seq : Word) (s : State) : Outcome State Fault Refusal :=
  match s.control ring.val seq.toNat 0x87 with
  | none => .next s
  | some x =>
    let p := s.part x.part
    if !(p.st == .serving || p.st == .holding || p.st == .held) then .next (s.endWith x 0x06A1 0)
    else
      let s := s.began x 0
      let s :=
        match p.pending with
        | some q => if q.image.isSome then (match s.sub? q.ring q.seq with | some y => if y.code = 0 then s.endWith y 0x0705 0 else s | none => s) else s
        | none => s
      .next (s.setPart x.part { s.part x.part with
        st := .resetting, pending := p.pending.filter fun q => q.image.isNone,
        reset := some { decided := x.decided, fence := x.decided + 64, phase := .decided, code := 0x0722, counted := false, ring := x.ring, seq := x.seq } })

/-- PARTITION_RESET_FENCE (R479, R481): at A + 64. -/
def execPartitionResetFence (part : Fin 64) (s : State) : Outcome State Fault Refusal :=
  match (s.part part.val).reset with
  | none => .next s
  | some r => if r.phase = .decided ∧ r.fence ≤ s.time.now ∧ s.err.devReset.isNone then .next (s.fencePart part r) else .next s

/-- A row-cache line lies in a way of a partition. -/
def State.rlineOf (s : State) (p : Nat) (l : RLine) : Bool := s.wayOwner .gthRway l.gdie l.way == some p

/-- PARTITION_CLEAR_END (R481, R485): banks, queues, codebooks, slip, replays and G-die descriptors are cleared, row-cache ways
invalidated and staged updates discarded; the partition serves again once no C-die of it is being reset. -/
def execPartitionClearEnd (part : Fin 64) (s : State) : Outcome State Fault Refusal :=
  let p := part.val
  match (s.part p).reset with
  | none => .next s
  | some r =>
    if r.phase ≠ .clearing ∨ s.cdieResetting p ∨ s.err.devReset.isSome then .next s
    else
      let s := (s.coresOf p).foldl (fun s k => s.emptyCore k) s
      let s := s.setGsteps (s.gsteps.filter (·.part != p))
      let s := s.setMem { s.mem with rlines := s.mem.rlines.filter fun l => !s.rlineOf p l }
      let s := s.discardUpdates (fun st => st.part == p) false
      let s := s.setSubs (s.subs.map fun (x : Sub) => if x.part == p then { x with held := false } else x)
      let s := s.setPart p { s.part p with st := .serving, hold := none, reset := none, fromTick := s.time.now }
      .next ((s.telReset 0 p true r.code).finish r.ring r.seq)

/-! ## Stop and repair (R465, R466) -/

/-- STOP (R465): a pending stop at a saddle, with the checks of a load's switch saddle. -/
def execStop (ring : Fin 4096) (seq : Word) (s : State) : Outcome State Fault Refusal :=
  match s.control ring.val seq.toNat 0x88 with
  | none => .next s
  | some x =>
    let p := s.part x.part
    if p.st ≠ .serving ∨ p.image.isNone then .next (s.endWith x 0x06A1 0)
    else if !saddleOk x.arg0 (x.decided + x.queueLen []) then .next (s.endWith x 0x064C 0)
    else
      let sad := s.switchSaddle x.part x.arg0
      .next ((s.setPending x.part { image := none, saddle := sad, ring := x.ring, seq := x.seq }).completes x sad)

/-- The next saddle. -/
def nextSaddle (t : Nat) : Nat := (t / 4096 + 1) * 4096

/-- REPAIR_WITHDRAW (R466): the array is withdrawn at the next saddle. -/
def execRepairWithdraw (ring : Fin 4096) (seq : Word) (s : State) : Outcome State Fault Refusal :=
  match s.control ring.val seq.toNat 0x89 with
  | none => .next s
  | some x =>
    if x.repairReturn then .next s
    else
      let a := 4 * x.repairCore + x.repairArray
      .next ((s.setArray a { s.array a with toWithdraw := true }).completes x (nextSaddle s.time.now))

/-- REPAIR_RETURN (R466): the confirmation sweep of a withdrawn array begins. -/
def execRepairReturn (ring : Fin 4096) (seq : Word) (s : State) : Outcome State Fault Refusal :=
  match s.control ring.val seq.toNat 0x89 with
  | none => .next s
  | some x =>
    if !x.repairReturn then .next s
    else
      let a := 4 * x.repairCore + x.repairArray
      let s := s.setArray a { s.array a with confirm := 2, confirmRing := x.ring, confirmSeq := x.seq, confirmBy := s.time.now }
      .next (s.began x 0)

/-- Passes of a confirmation sweep, each of 512 cycles (R466). -/
def confirmCycles : Nat := 4096 * 512

/-- Steps of the seeds' LFSR. -/
def lfsrAfter (x : Nat) : Nat → Nat
  | 0 => x
  | n + 1 => lfsrAfter (lfsr32 x) n

/-- Format of a pass of 512 cycles that follows `n` passes: INT8, INT4 weights, E4M3 and E5M2 in turn (R531; log 97). -/
def sweepFmt (n : Nat) : Nat := n % 4

/-- Every eighth pass uses corner operands (R531). -/
def sweepCorner (n : Nat) : Bool := (n + 1) % 8 == 0

/-- Rows that a sweep pass streams (R531). -/
def sweepRows (fmt : Nat) : Nat := if fmt = 4 then 126 else 120

/-- The weight tile of a sweep pass, from its seed (R155, R531). -/
def sweepBank (seed : Nat) (corner : Bool) (fmt : Nat) : Bank :=
  { loaded := true, fmt := fmt, k := weightRows fmt, n := 128,
    rows := (List.range (weightRows fmt)).map fun k => (List.range 128).map fun n =>
      Config.sweepElem seed corner fmt 0 k n % 2 ^ (passFmt fmt 0).bits,
    scales := [], corr := [], poison := false, misaligned := false, by_ := none }

/-- Activation rows of a sweep pass. -/
def sweepActs (seed : Nat) (corner : Bool) (fmt : Nat) : List ARow :=
  (List.range (sweepRows fmt)).map fun r =>
    { poison := false, exps := (127, 127),
      elems := (List.range (weightRows fmt)).map fun k => Config.sweepElem seed corner fmt 1 r k % 2 ^ (passFmt fmt 1).bits }

/-- The checks of R143 to R146 on a sweep pass in which cells of the array work as `faults` says: one of them fails (R155). -/
def sweepFails (seed : Nat) (corner : Bool) (fmt : Nat) (faults : List CellFault) : Bool :=
  let o := (sweepBank seed corner fmt).pass Config.sweepTol (sweepActs seed corner fmt) false faults
  o.failRow.isSome || o.failCol.isSome

/-- Seed of the first pass of a confirmation sweep that its checks find wrong: passes that no fault names run on a healthy array, whose
checks pass (R144, R146). -/
def State.confirmFail (s : State) (a : Nat) (faults : List (Fin 4096 × List CellFault)) : Option Nat :=
  let x := s.array a
  let bad := fun p : Fin 4096 × List CellFault =>
    sweepFails (lfsrAfter (s.nextSeed a) p.1.val) (sweepCorner (x.sweeps + p.1.val)) (sweepFmt (x.sweeps + p.1.val)) p.2
  (leastOf ((faults.filter bad).map (·.1.val))).map fun n => lfsrAfter (s.nextSeed a) n

/-- CONFIRMATION_SWEEP_END (R153, R155, R466, R529): a sweep of 4,096 passes, in which the array's cells work as `faults` says of the passes
it names. One that fails is a test mismatch and makes the array PERMANENT; a clean one returns the array at the next saddle where REPAIR asked
for it, and otherwise leaves it SUSPECT. -/
def execConfirmationSweepEnd (core : Fin 256) (array : Fin 4) (faults : List (Fin 4096 × List CellFault)) (s : State) : Outcome State Fault Refusal :=
  let a := 4 * core.val + array.val
  let x := s.array a
  let held := match s.coreOwner core.val with | some p => (s.part p).st == .holding || (s.part p).st == .held | none => false
  if x.confirm = 0 || held || decide (7 * s.time.now + 7 < 7 * x.confirmBy + confirmCycles) then .next s
  else
    let failed := s.confirmFail a faults
    let clean := failed.isNone
    let s := s.setArray a { x with confirm := 0, toReturn := clean && x.confirm == 2, sumPasses := x.sumPasses + 4096, sumFails := x.sumFails + bnat (!clean),
                                   sweeps := x.sweeps + 4096, seed := lfsrAfter (s.nextSeed a) 4095 }
    let s := (s.bump (a / 32) (a % 32) 0xCC (2 ^ 32 - 1) 4096).setArea (a / 32) (a % 32) 0xD8 s.time.now
    if clean then
      if x.confirm = 2 then
        match s.sub? x.confirmRing x.confirmSeq with
        | some y => .next ((s.setSub { y with info := nextSaddle s.time.now }).finish y.ring y.seq)
        | none => .next s
      else .next s
    else
      let s := (s.bump (a / 32) (a % 32) 0xD0 (2 ^ 32 - 1) 1).failSeed a (failed.getD 0)
      let s := s.raise { FaultRec.new s 0x0310 (some (a / 32)) (a % 32) with test := true }
      let s := if x.confirm = 2 then s.charge x.confirmRing x.confirmSeq 0 { FaultRec.new s 0x0303 (some (a / 32)) (a % 32) with test := true } else s
      .next (s.classUnit (a / 32) (a % 32) 2 0x0310)

/-! ## Registers (R450, R452 to R454) -/

/-- A write of SYS_PART_CTRL is refused. -/
def State.partRefused (s : State) (p : Nat) : State := (s.setBit .sysStatus 0 0).regErr (RG.off .sysPartCtrl p) 4

/-- The H-die that ADMIT_H names can admit (R452). -/
def State.mayAdmit (s : State) (h : Nat) : Bool := s.dieOk (dieH h) && !(s.port h).cxl && !s.flag .hqPortCfg h 0

/-- A partition may be disabled (R452). -/
def State.mayIdle (s : State) (p : Nat) : Bool :=
  let x := s.part p
  x.st == .serving && x.image.isNone && x.pending.isNone && s.rings.all fun r => s.ringPart r.1 != p || r.2.st == .disabled

/-- A write of SYS_PART_CTRL (R450, R452, R581). A partition that is enabled while the device resets or is out of service shows RESETTING
(R491; that a reset under way counts alike is log 169). -/
def State.writePartCtrl (s : State) (p : Nat) (w : Word) : State :=
  let old := s.reg .sysPartCtrl p
  if !wbit old 0 then
    if !wbit w 0 then s.putRw .sysPartCtrl p w
    else if s.mayAdmit (wbits w 2 1) then
      (s.putRw .sysPartCtrl p w).setPart p { s.part p with st := if s.deviceStopped then .resetting else .serving, delta := 0, fromTick := 0, noAdmit := false }
    else (s.putRw .sysPartCtrl p (setBits w 0 0 0)).partRefused p
  else
    let other := decide (wbits w 2 1 ≠ wbits old 2 1)
    if wbit w 0 then (if other then s.partRefused p else s)
    else if s.mayIdle p then
      let s := (s.setReg .sysPartCtrl p (setBits old 0 0 0)).setPart p { s.part p with st := .idle }
      if other then s.partRefused p else s
    else s.partRefused p

/-- PART_ENABLE (R452): a write of EN from 0 to 1. -/
def execPartEnable (port : Fin 4) (part : Fin 64) (w : Word) (s : State) : Outcome State Fault Refusal :=
  if s.reach port.val ∧ wbit w 0 ∧ !s.flag .sysPartCtrl part.val 0 then .next (s.writePartCtrl part.val w) else .next s

/-- PART_DISABLE (R452): a write of EN from 1 to 0. -/
def execPartDisable (port : Fin 4) (part : Fin 64) (w : Word) (s : State) : Outcome State Fault Refusal :=
  if s.reach port.val ∧ !wbit w 0 ∧ s.flag .sysPartCtrl part.val 0 then .next (s.writePartCtrl part.val w) else .next s

/-- The running or pending image of a partition names a core (R454). -/
def State.coreNamed (s : State) (p k : Nat) : Bool :=
  let x := s.part p
  let ims := x.image.toList ++ (match x.pending with | some q => q.image.toList | none => [])
  ims.any fun im => im.cores.any fun c => 8 * c.cdie + c.core == k

/-- A write of SYS_CORE_OWN (R453, R454): one that changes PART of an owned core, or a release of a core that an image names, is ignored. -/
def State.writeCoreOwn (s : State) (k : Nat) (w : Word) : State :=
  let old := s.reg .sysCoreOwn k
  let no := (s.setBit .sysStatus 0 1).regErr (RG.off .sysCoreOwn k) 4
  if !wbit old 6 then
    let s := s.putRw .sysCoreOwn k w
    if wbit w 6 then s.setCore k { s.core k with clearing := true } else s
  else if wbits w 5 0 ≠ wbits old 5 0 then no
  else if !wbit w 6 ∧ s.coreNamed (wbits old 5 0) k then no
  else s.putRw .sysCoreOwn k w

/-- CORE_ASSIGN (R453): a write of V from 0 to 1; the core is cleared. -/
def execCoreAssign (port : Fin 4) (core : Fin 256) (w : Word) (s : State) : Outcome State Fault Refusal :=
  if s.reach port.val ∧ wbit w 6 ∧ !s.flag .sysCoreOwn core.val 6 then .next (s.writeCoreOwn core.val w) else .next s

/-- CORE_RELEASE (R454): a write of V from 1 to 0. -/
def execCoreRelease (port : Fin 4) (core : Fin 256) (w : Word) (s : State) : Outcome State Fault Refusal :=
  if s.reach port.val ∧ !wbit w 6 ∧ s.flag .sysCoreOwn core.val 6 then .next (s.writeCoreOwn core.val w) else .next s

/-- CORE_CLEAR_DONE (R453): the clear has written the core's SRAM and emptied its banks, queues and codebooks. -/
def execCoreClearDone (core : Fin 256) (s : State) : Outcome State Fault Refusal :=
  if (s.core core.val).clearing then
    let s := s.clearCore core.val false
    .next (s.setCore core.val { s.core core.val with clearing := false })
  else .next s

end Sys2Proof.Machine
end

