-- ==== Sys2Proof/Machine/Recovery.lean ====
section
/-! DEFINITION. Triggers of resets, drains, clears, suspect replays and re-enabling (15; R476 to R493; R555 and R556 of 18). -/

namespace Sys2Proof.Machine

open Sys2Proof Host

/-! ## Suspect sets (R486 to R489) -/

/-- The suspect whose turn it is. -/
def SuspectSet.next (z : SuspectSet) : Option Suspect := z.suspects.find? (·.mark == 0)

/-- The unit of a suspect set lies under a step: on a C-die the core of a core's unit, or any core of the die (R487). -/
def onUnit (die unit : Nat) (im : Image) (st : ImgStep) : Bool :=
  if die < 32 then
    onCdie die im st && (decide (0x80 ≤ unit) ||
      im.coreNo st.unit % 8 == (if unit < 0x20 then unit / 4 else if unit < 0x30 then unit % 8 else if unit < 0x70 then (unit - 0x30) / 8 else unit % 8))
  else onDie die im st

/-- A set closes (R488, R489); the one that waits behind it opens. With no guilty context the fault is a qualifying event (R527). -/
def State.closeSet (s : State) (p : Nat) (guilty : Option Nat) : State :=
  let x := s.part p
  match x.suspects with
  | none => s
  | some z =>
    let s := s.setPart p { x with suspects := x.waiting.head?, waiting := x.waiting.tail,
                                  lastSet := if x.waiting.isEmpty then some (z.suspects.length, guilty.getD 0, guilty.isSome) else none }
    let s :=
      match guilty with
      | some c => (s.setBit .sysGuilty (c / 32) (c % 32)).sysEvt 4
      | none => s
    let s := s.sysEvt 5
    if guilty.isNone then s.qualify z.die z.unit z.code else s

/-- Marks the suspect whose turn it is; the set closes when none is left. -/
def State.markSuspect (s : State) (p m : Nat) (lastEnd : Nat) : State :=
  let x := s.part p
  match x.suspects with
  | none => s
  | some z =>
    match z.next with
    | none => s
    | some c =>
      let l := z.suspects.map fun (y : Suspect) => if y.ctx == c.ctx then { y with mark := m } else y
      let s := s.setPart p { x with suspects := some { z with suspects := l, replay := none, lastEnd := lastEnd } }
      if l.any (·.mark == 0) then s else s.closeSet p none

/-- The submission that a replay runs. -/
def State.replaySub (s : State) (c : Suspect) : Option Sub := s.subs.find? fun x => x.replay && x.ring == c.sub.ring && x.seq == c.sub.seq

/-- A replay is over: nothing of it stays. -/
def State.endReplay (s : State) (c : Suspect) : State :=
  s.setSubs (s.subs.filter fun x => !(x.replay && x.ring == c.sub.ring && x.seq == c.sub.seq))

/-- A fault on a unit meets the replays that run (R488): the state with their sets judged, and the context named guilty. -/
def State.judgeReplays (s : State) (code die unit : Nat) (l : List Sub) : State × Option Nat :=
  ((l.filter (·.replay)).map (·.part)).dedup.foldl (fun (r : State × Option Nat) p =>
    match (r.1.part p).suspects with
    | some z =>
      match z.replay, z.next with
      | some (_, _, e), some c =>
        if z.code = code ∧ z.die = die ∧ z.unit = unit then ((r.1.endReplay c).closeSet p (some c.ctx), some c.ctx)
        else ((r.1.endReplay c).markSuspect p 1 e, r.2)
      | _, _ => r
    | none => r) (s, none)

/-- A trigger of a C-die reset, with the replays that it meets (R484, R486, R488). -/
def State.hitCdie (s : State) (c : Fin 32) (code unit : Nat) (l : List Sub) : State :=
  match s.judgeReplays code c.val unit l with
  | (s, some g) => (s.raise { FaultRec.new s code (some c.val) unit with ctx := some g }).resetCdie c code unit true [] false
  | (s, none) => s.triggerCdie c code unit (l.filter fun x => !x.replay)

/-- A trigger of a device reset, with the replays that it meets. -/
def State.hitDevice (s : State) (code die unit : Nat) (l : List Sub) : State :=
  match s.judgeReplays code die unit l with
  | (s, some g) => (s.raise { FaultRec.new s code (some die) unit with ctx := some g }).resetDevice code die unit true [] false
  | (s, none) => s.triggerDevice code die unit (l.filter fun x => !x.replay)

/-- A suspect that cannot be replayed (R487): its submission was no query, its ring is not ACTIVE or its context not valid. -/
def State.unreplayable (s : State) (c : Suspect) : Bool :=
  !isQuery c.sub.kind || (s.ring c.sub.ring).st != .active || !s.ctxValid c.ctx

/-- Start and reserved end of a replay (R487): a free start point of the submission's class whose group uses the faulting unit. -/
def State.replaySlot (s : State) (p : Nat) (z : SuspectSet) (x : Sub) : Option (Nat × Nat) :=
  let q := s.part p
  match q.image with
  | none => none
  | some im =>
    let c := im.cls x.cls
    if q.st != .serving || q.noAdmit || c.kind != x.kind then none
    else
      let hi := q.pending.map (·.saddle)
      let t := (c.startsFrom s.time.now).find? fun t =>
        decide (z.lastEnd ≤ t ∧ q.fromTick ≤ t) && (match hi with | some h => decide (t + c.need x.xpath ≤ h) | none => true) &&
          im.fits c (c.groupAt t) x && !s.slotTaken (256 * p + x.cls) t && !s.resetTakes im c t &&
          (im.stepsOf { x with start := t }).any fun i => onUnit z.die z.unit im (im.step i)
      t.map fun t => (t, t + c.need x.xpath)

/-- SUSPECT_REPLAY_START (R487): the next suspect's submission is to run again, with no buffer slot written and no entry. -/
def execSuspectReplayStart (part : Fin 64) (s : State) : Outcome State Fault Refusal :=
  let p := part.val
  match (s.part p).suspects with
  | none => .next s
  | some z =>
    match z.replay, z.ready, z.next with
    | none, some _, some c =>
      if s.unreplayable c then .next (s.markSuspect p 2 z.lastEnd)
      else if (s.sub? c.sub.ring c.sub.seq).isSome then .next s
      else
        match s.replaySlot p z c.sub with
        | none => .next s
        | some (a, e) =>
          let x := { c.sub with st := .accepted, decided := s.time.now, start := a, resEnd := e, code := 0, chargedAt := 0, done := false, ran := false,
                                running := false, cancelled := true, held := false, wports := [], flush := [], flushed := false, once := [],
                                drops := 0, ended := [], replay := true }
          let s := ((s.setSubs (s.subs ++ [x])).setSlots ({ q := 256 * p + x.cls, start := a, resEnd := e, ring := x.ring, seq := x.seq } :: s.slots))
          .next (s.setPart p { s.part p with suspects := some { z with replay := some (x.cls, a, e) } })
    | _, _, _ => .next s

/-- The reset that the fault of a suspect set triggered is triggered again, and counted (R488). -/
def State.sameReset (s : State) (z : SuspectSet) : State :=
  match z.kind with
  | .none_ => s
  | .cdie => if h : z.die < 32 then s.resetCdie ⟨z.die, h⟩ z.code z.unit true [] false else s
  | .device => s.resetDevice z.code z.die z.unit true [] false

/-- SUSPECT_REPLAY_END (R488): a clean replay clears its suspect at its reserved end; a fault of the same code on the same unit names the
guilty context and is handled like the original; any other clears the suspect. A UNIT that R523 does not list names no unit. -/
def execSuspectReplayEnd (part : Fin 64) (e : ReplayEnd) (s : State) : Outcome State Fault Refusal :=
  let p := part.val
  match (s.part p).suspects with
  | none => .next s
  | some z =>
    match z.replay, z.next with
    | some (_, _, end_), some c =>
      match e with
      | .clean =>
        let ok := match s.replaySub c with | some x => x.code == 0 | none => true
        if ok && decide (end_ ≤ s.time.now) then .next ((s.endReplay c).markSuspect p 1 end_) else .next s
      | .faulted code die unit =>
        if !unitListed die.val unit.toNat then .next s
        else
          let f := { FaultRec.new s code.toNat (some die.val) unit.toNat with ctx := some c.ctx, part := some p }
          let s := match s.replaySub c with | some x => if x.code = code.toNat then s else s.charge x.ring x.seq 0 f | none => s.raise f
          let s := s.endReplay c
          if z.code = code.toNat ∧ z.die = die.val ∧ z.unit = unit.toNat then .next ((s.closeSet p (some c.ctx)).sameReset z)
          else .next (s.markSuspect p 1 end_)
    | _, _ => .next s

/-- SUSPECT_REPLAY_GIVEUP (R487): no start point is found within 100 saddles. -/
def execSuspectReplayGiveup (part : Fin 64) (s : State) : Outcome State Fault Refusal :=
  let p := part.val
  match (s.part p).suspects with
  | none => .next s
  | some z =>
    match z.replay, z.ready with
    | none, some t => if s.time.now ≥ max t z.lastEnd + 409600 then .next (s.markSuspect p 2 s.time.now) else .next s
    | _, _ => .next s

/-! ## Triggers (R477, R484, R556) -/

/-- A record of a crossing by its die and unit (R556), attributed where the unit held work of one context alone (R471). -/
def State.crossingRecord (s : State) (die unit : Nat) (l : List Sub) : State := s.raise (triggerFault s 0x0501 die unit l)

/-- Reservation records of a step: those that its descriptor, or its DMA_RUNs' descriptors, name. -/
def Image.stepRsvs (im : Image) (st : ImgStep) : List ImgRsv :=
  let n := im.desc st.first
  match st.unitKind with
  | 0 => (im.stepOps st).flatMap fun o =>
    if (im.op o.2).opcode = 5 then
      let d := DmaD.of (im.desc (im.op o.2).arg0)
      im.rsvOf d.rsvFirst d.rsvN
    else []
  | 1 => im.rsvOf (GatherD.of n).rsvFirst (GatherD.of n).rsvN
  | 2 => im.rsvOf (SendD.of n).rsvFirst (SendD.of n).rsvN
  | _ => im.rsvOf (XferD.of n).rsvFirst (XferD.of n).rsvN

/-- A step draws on a channel of HBM. -/
def onChannel (ch : Nat) (im : Image) (st : ImgStep) : Bool := (im.stepRsvs st).any fun r => r.kind == 1 && r.id / 2 == ch

/-- Instances whose work a host port holds: its H-die's steps and the reads that it waits for. -/
def State.hostWork (s : State) (h : Nat) : List Sub :=
  s.working (onDie (dieH h)) ++ s.subsAt ((s.reads.filter (·.port == h)).filterMap fun q => match q.purpose with
    | .xfer r => some (r.ring.val, r.seq.toNat)
    | .glist r | .transfer r => some (r.ring.val, r.seq.toNat)
    | .batch k n | .flush k n => some (k, n))

/-- Instances whose requests a fabric port holds. -/
def State.fabricWork (s : State) (q : Nat) : List Sub :=
  s.subsAt ((s.fab.reqs.filter (·.port == q)).filterMap fun x => match x.purpose with
    | .row r _ | .send r => some (r.ring.val, r.seq.toNat)
    | .upd _ _ => none)

/-- A pool window reaches a channel: a page that it opens lies in a region of the channel (R368, R370). -/
def State.poolReaches (s : State) (ch : Nat) : Bool :=
  (List.range 64).any fun i =>
    let (_, d, n) := s.pwin i
    s.flag .xltPwinA i 12 && s.xlt.pages.any fun p =>
      let a := max p.va (d * 65536)
      let b := min (p.va + p.n * pageBytes p.psz) ((d + n) * 65536)
      p.ctx == s.fld .xltPwinA i 11 0 && decide (a < b) && (List.range 256).any fun r =>
        let z := s.region r
        z.v && z.channels.contains ch && decide (p.mem + (a - p.va) < (z.base + z.size) * gib ∧ z.base * gib < p.mem + (b - p.va))

/-- A channel that serves pool accesses leaves service: the fabric manager is told once (R447, R477, R494; log 111). -/
def State.channelGone (s : State) (ch : Nat) : State :=
  if !s.mem.deaf.contains ch && s.poolReaches ch then s.sendFm 9 4 0x0501 (ch / 32) 0 else s

/-- CROSSING_TIMEOUT (R477, R556). -/
def execCrossingTimeout (place : Crossing) (s : State) : Outcome State Fault Refusal :=
  match place with
  | .cdieCompute c => .next (s.hitCdie c 0x0501 0xC0 (s.working (onCdie c.val)))
  | .cdieAgent c => .next (s.hitDevice 0x0501 c.val 0xC0 (s.working (onCdie c.val)))
  | .gdie g => .next (s.hitDevice 0x0501 (dieG g.val) 0xC0 (s.working (onDie (dieG g.val))))
  | .hbmChannel ch =>
    let s := (s.crossingRecord (ch.val / 32) (0x90 + ch.val % 32) (s.working (onChannel ch.val))).channelGone ch.val
    .next (s.setMem { s.mem with deaf := ch.val :: s.mem.deaf.filter (· != ch.val) })
  | .hostPort h =>
    let s := s.crossingRecord (dieH h.val) 0x10 (s.hostWork h.val)
    if (s.port h.val).link = .down then .next s else .next (s.loseLink h.val 0)
  | .fabricPort q =>
    let s := s.crossingRecord (dieF (q.val / 8)) (0x20 + q.val % 8) (s.fabricWork q.val)
    if (s.fport q.val).link ≥ 2 then .next (s.losePort q.val 0) else .next s
  | .sdie i =>
    let s := s.crossingRecord (dieS i.val) 0xC1 []
    .next (s.setErr { s.err with sdown := i.val :: s.err.sdown.filter (· != i.val) })

/-- Instances that hold work on a unit of a C-die or a G-die. -/
def State.workingOn (s : State) (die unit : Nat) : List Sub := s.working (onUnit die unit)

/-- UNIT_STATE_ERROR (R471, R484): a core's unit resets its C-die, a G-die's unit the device; for other units of a C-die no rule decides
a reset, and the error is recorded. A UNIT that R523 does not list names no unit. -/
def execUnitStateError (die : Fin 48) (unit : BitVec 8) (ctx : Option (Fin 4096)) (s : State) : Outcome State Fault Refusal :=
  let l := s.workingOn die.val unit.toNat
  if !unitListed die.val unit.toNat then .next s
  else if h : die.val < 32 then
    if unit.toNat < 0x80 then .next (s.hitCdie ⟨die.val, h⟩ 0x0103 unit.toNat l)
    else .next (s.raise { FaultRec.new s 0x0103 (some die.val) unit.toNat with ctx := ctx.map (·.val) })
  else .next (s.hitDevice 0x0103 die.val unit.toNat l)

/-- The engine of a core that is not at its hold point, by its UNIT (R461). -/
def State.lateEngine (s : State) (k : Nat) : Option Nat :=
  match (List.range 6).find? fun e => (s.eng k e).held.isSome with
  | some e => some (engineUnit k e)
  | none => ((List.range 4).find? fun a => !(s.array (4 * k + a)).passes.isEmpty).map fun a => arrayUnit k a

/-- HOLD_POINT_TIMEOUT (R484): a core engine of a HOLDING partition is not at its hold point by L + 2,000. -/
def execHoldPointTimeout (part : Fin 64) (core : Fin 256) (s : State) : Outcome State Fault Refusal :=
  let p := s.part part.val
  match p.hold with
  | none => .next s
  | some h =>
    if p.st ≠ .holding ∨ s.time.now < h.latch + 2000 ∨ !(s.coresOf part.val).contains core.val then .next s
    else
      match s.lateEngine core.val with
      | none => .next s
      | some u => .next (s.hitCdie ⟨core.val / 8, by omega⟩ 0x0560 u (s.working (onCoreNo core.val)))

/-! ## Drains (R480) -/

/-- DRAIN_END (R480). -/
def execDrainEnd (scope : Scope) (s : State) : Outcome State Fault Refusal := .next (s.tryDrain scope)

/-- What waits for a host read is given up with it. -/
def State.giveUp (s : State) (q : HostRead) : State :=
  let s := s.dropRead q.id
  match q.purpose with
  | .xfer r => s.setXfers (s.xfers.filter fun x => x.r != r)
  | .glist r => s.dropGstep r
  | .transfer r => s.dropUstep r
  | .batch _ _ | .flush _ _ => s

/-- DRAIN_HOST_READ_TIMEOUT (R480): host reads from the scope outstanding at fence + 2,000 are abandoned. -/
def execDrainHostReadTimeout (scope : Scope) (s : State) : Outcome State Fault Refusal :=
  match s.resetOf scope with
  | none => .next s
  | some r =>
    if r.phase ≠ .draining ∨ s.time.now < r.fence + 2000 then .next s
    else .next (((s.reads.filter (s.readIn scope)).foldl (fun s q => s.giveUp q) s).tryDrain scope)

/-- C-dies that hold a unit of a partition with work outstanding. -/
def State.busyCdies (s : State) (p : Nat) : List Nat := ((s.xfers.filter (·.part == p)).map (·.core / 8)).dedup

/-- The escalation of a partition's drain (R471, R480): the overrun is attributed where the work outstanding is of one context. -/
def State.overrunPart (s : State) (p : Nat) : State :=
  let all := s.owedOf (·.part == p) (·.part == p)
  let s := s.raise { tableFault s p 0x0560 with ctx := if shared? all then none else all.head?.map (·.ctx) }
  match s.gsteps.find? fun g => g.part == p && g.keys.any (·.away) with
  | some g =>
    let l := s.owedOf (fun _ => false) fun x => x.part == p && x.gdie == g.gdie
    s.resetDevice 0x0560 (dieG g.gdie) 0xC0 true l (shared? l)
  | none =>
    (s.busyCdies p).foldl (fun s c =>
      let l := s.owedOf (fun x => x.part == p && x.core / 8 == c) fun _ => false
      if h : c < 32 then s.resetCdie ⟨c, h⟩ 0x0560 0xC0 true l (shared? l) else s) s

/-- DRAIN_OVERRUN (R480): the drain has not ended at fence + 10,000. -/
def execDrainOverrun (scope : Scope) (s : State) : Outcome State Fault Refusal :=
  match s.resetOf scope with
  | none => .next s
  | some r =>
    if r.phase ≠ .draining ∨ s.time.now < r.fence + 10000 then .next s
    else
      match scope with
      | .partition p => .next (s.overrunPart p.val)
      | .cdie c => .next (s.hitDevice 0x0560 c.val 0xC0 (s.owedOf (·.core / 8 == c.val) fun _ => false))
      | .device =>
        let l := s.subsAt (s.fab.reqs.filterMap fun q => match q.purpose with
          | .row r _ | .send r => some (r.ring.val, r.seq.toNat)
          | .upd _ _ => none)
        .next ((s.raise (triggerFault s 0x0560 (dieS 0) 4 l)).endDrain .device r)

/-! ## Clears (R482, R483) -/

/-- CDIE_CLEAR_END (R482): the cores rejoin at the first saddle at or after E + 64. -/
def execCdieClearEnd (cdie : Fin 32) (s : State) : Outcome State Fault Refusal :=
  let c := cdie.val
  match (s.cdie c).reset with
  | none => .next s
  | some r =>
    if r.phase ≠ .clearing then .next s
    else
      let s := (List.range 8).foldl (fun s k => s.clearCore (8 * c + k) true) s
      let s := s.setCdie c { s.cdie c with reset := none, rejoin := some (saddleAtOrAfter (s.time.now + 64)) }
      .next (((s.sendFm 2 1 r.code c 0).telReset 1 c true r.code).readySets (· == c))

/-- The partitions after a device reset (R483): each that is not IDLE serves again from the rejoin saddle, and a RESET completes. -/
def State.partsAnew (s : State) (sad : Nat) : State :=
  (List.range 64).foldl (fun s p =>
    let x := s.part p
    if x.st = .idle then s
    else
      let s := s.setPart p { x with st := .serving, hold := none, reset := none, fromTick := sad }
      match x.reset with
      | some r => s.finish r.ring r.seq
      | none => s) s

/-- A loss of the host during a reset of the device asks for no further one (R412, R485). -/
def State.settleLosses (s : State) (decided : Nat) : State :=
  s.setPorts (smMap PortS.init (fun _ (x : PortS) => if x.lostAt.any fun t => decide (decided ≤ t) then { x with lostArmed := false } else x) s.ports)

/-- DEVICE_CLEAR_END (R478, R483): every C-die and G-die is cleared, die-shared SRAM as their other SRAM (log 84), HBM leaves self-refresh, the
update serial returns to 0 and the time state is set anew. -/
def execDeviceClearEnd (s : State) : Outcome State Fault Refusal :=
  match s.err.devReset with
  | none => .next s
  | some r =>
    if r.phase ≠ .clearing then .next s
    else
      let sad := saddleAtOrAfter (s.time.now + 64)
      let s := (List.range 256).foldl (fun s k => s.clearCore k true) s
      let s := (s.setMem { (List.range 512).foldl (fun m w => m.wipeWay w true) s.mem with rlines := [], deaf := [], selfRefresh := false }).settleLosses r.decided
      let s := s.setUpd { s.upd with serial := 0 }
      let s := s.setSubs (s.subs.map fun (x : Sub) => { x with held := false })
      let s := s.setErr { s.err with devReset := none }
      let s := (List.range 32).foldl (fun s c => s.setCdie c { s.cdie c with rejoin := some sad }) s
      let s := (s.partsAnew sad).timeAnew.fwAtReset
      .next (((s.sendFm 2 0 r.code 0 0).telReset 2 0 true r.code).readySets fun _ => true)

/-! ## SYS_RESET_CTRL (R484, R493, R495) -/

/-- A C-die is re-enabled (R493): its cores are cleared as R453 gives, and its log is emptied. The exclusion that its being out of service
brought about in this start is over; one that a failure of a step decided lasts (DESIGN CHOICE, log 168). -/
def State.enableCdie (s : State) (c : Nat) : State :=
  let s := (s.setCdie c { s.cdie c with outOfService := false, log := [], rejoin := none }).saveRoot
  let s := if s.excluded c && !s.boot.exclKept.toNat.testBit c then
      (s.setBoot { s.boot with excl := s.boot.excl &&& ~~~(BitVec.ofNat 64 (2 ^ c)) }).labelUnits
    else s
  let s := (List.range 8).foldl (fun s k => s.setCore (8 * c + k) { s.core (8 * c + k) with clearing := true }) s
  (s.sendFm 4 1 0 c 0).telReset 1 c true 0

/-- The device is re-enabled (R493): the clear of R483 from step 3 onward, not counted, with an empty log. -/
def State.enableDevice (s : State) : State :=
  let r : ResetS := { decided := s.time.now, fence := s.time.now, phase := .clearing, code := s.err.devCode, counted := false, ring := 0, seq := 0 }
  let s := s.setBoot { s.boot with served := s.time.now }
  ((s.setErr { s.err with devOut := false, devLog := [], devReset := some r }).saveRoot.sendFm 4 0 0 0 0).telReset 2 0 false 0

/-- A reset of the device that software or the board controller requests (R484), charged by the root of trust. -/
def State.askDevice (s : State) : State := s.resetDevice 0x0721 (dieS 0) 4 false [] false

/-- A write of SYS_RESET_CTRL (R484, R493): the device's bits, then those of the C-die that CDIE names. -/
def State.writeResetCtrl (s : State) (w : Word) : State :=
  let off := RG.off .sysResetCtrl 0
  let s := s.putRw .sysResetCtrl 0 w
  let c : Fin 32 := ⟨wbits w 6 2 % 32, Nat.mod_lt _ (by decide)⟩
  let s := if wbit w 1 then (if s.err.devOut then s.enableDevice else s.regErr off 4) else s
  let s := if wbit w 0 then s.askDevice else s
  let out := s.excluded c.val || (s.cdie c.val).outOfService
  let s := if wbit w 8 then (if (s.cdie c.val).outOfService then s.enableCdie c.val else s.regErr off 4) else s
  if wbit w 7 then (if out then s.regErr off 4 else s.resetCdie c 0x0720 0xC0 false [] false) else s

/-- SYS_DEV_RESET (R484): a write with DEV_RESET 1. -/
def execSysDevReset (port : Fin 4) (w : Word) (s : State) : Outcome State Fault Refusal :=
  if s.reach port.val ∧ wbit w 0 then .next (s.writeResetCtrl w) else .next s

/-- SYS_DEV_ENABLE (R493): a write with DEV_ENABLE 1. -/
def execSysDevEnable (port : Fin 4) (w : Word) (s : State) : Outcome State Fault Refusal :=
  if s.reach port.val ∧ wbit w 1 then .next (s.writeResetCtrl w) else .next s

/-- CDIE_RESET (R484): a write with CDIE_RESET 1. -/
def execCdieReset (port : Fin 4) (w : Word) (s : State) : Outcome State Fault Refusal :=
  if s.reach port.val ∧ wbit w 7 then .next (s.writeResetCtrl w) else .next s

/-- CDIE_ENABLE (R493): a write with CDIE_ENABLE 1. -/
def execCdieEnable (port : Fin 4) (w : Word) (s : State) : Outcome State Fault Refusal :=
  if s.reach port.val ∧ wbit w 8 then .next (s.writeResetCtrl w) else .next s

end Sys2Proof.Machine
end

