-- ==== Sys2Proof/Machine/Spdm.lean ====
section
/-! DEFINITION. Attestation over SPDM (16; R515 to R520). Request and error codes, and the bytes of an answer that DSP0274 fixes, lie outside
the spec (log 67). -/

namespace Sys2Proof.Machine

open Sys2Proof Host

/-- Step IDENT has ended in this start, or in the start that ended in BOOT_FAILED (R520). -/
def State.identEnded (s : State) : Bool :=
  match s.boot.phase with
  | .open_ | .step _ | .failed => s.boot.idented
  | .off | .reset | .standby => false

/-- The S-dies run and may be asked (R518); with S0 or S1 withdrawn nothing answers (R477). -/
def State.spdmUp (s : State) : Bool :=
  s.sclk && (match s.boot.phase with | .open_ | .failed | .step _ => true | .off | .reset | .standby => false) &&
    !s.err.sdown.contains 0 && !s.err.sdown.contains 1

/-- An answer with ERROR, whose code is that of DSP0274. -/
def State.spdmError (s : State) (via : Via) (command err : Nat) : State := s.emit (.spdm via command false [err])

/-- A refusal that R520 records: the cause's code, where it has one, then 0x0B06. -/
def State.attestRefused (s : State) (via : Via) (command err cause : Nat) : State :=
  (((s.secRecord cause).secRecord 0x0B06).setBit .secEvt 0 5).spdmError via command err

/-- A request that needs `need` stages before it: refused before step 3 ends (R520), not ready while a bottom-level tree is built (R518),
unexpected out of sequence, otherwise answered by `f`. -/
def State.spdmAsk (s : State) (via : Via) (command need : Nat) (f : State → State) : State :=
  if !s.spdmUp || !s.viaUp via then s
  else if !s.identEnded then s.attestRefused via command 0x05 0
  else if s.boot.lmsBuilding then s.spdmError via command 0x42
  else if s.boot.spdm < need then s.spdmError via command 0x04
  else f s

/-- A stage of the negotiation is reached. -/
def State.spdmStage (s : State) (n : Nat) : State := s.setBoot { s.boot with spdm := n }

/-- GET_VERSION (R518): the negotiation begins anew. -/
def execGetVersion (via : Via) (s : State) : Outcome State Fault Refusal :=
  .next (s.spdmAsk via 0x84 0 fun s => (s.spdmStage 1).emit (.spdm via 0x84 true [0x13]))

/-- GET_CAPABILITIES (R518). -/
def execGetCapabilities (via : Via) (s : State) : Outcome State Fault Refusal :=
  .next (s.spdmAsk via 0xE1 1 fun s => (s.spdmStage 2).emit (.spdm via 0xE1 true [Config.pldmAnswer 0xE1 0]))

/-- NEGOTIATE_ALGORITHMS (R518): ECDSA P-384 and SHA-384. -/
def execNegotiateAlgorithms (via : Via) (s : State) : Outcome State Fault Refusal :=
  .next (s.spdmAsk via 0xE3 2 fun s => (s.spdmStage 3).emit (.spdm via 0xE3 true [Config.pldmAnswer 0xE3 0]))

/-- The chain of certificate slot 0 (R515, R516, R518): manufacturing CA, DeviceID and Alias certificates, in the ECDSA form or, for `true`, in
the HSS form, which an Alias certificate that no leaf has signed has not. -/
def State.chain (s : State) (hss : Bool) : List Byte :=
  let x := s.boot.ident
  Config.caCert hss ++ Config.deviceCert hss ++
    (if hss then (match x.leaf with | some i => Config.aliasCertHss x.seed i x.cdi2 x.hashes | none => []) else Config.aliasCert x.seed x.cdi2 x.hashes)

/-- GET_DIGESTS (R518): slot 0 alone. -/
def execGetDigests (via : Via) (s : State) : Outcome State Fault Refusal :=
  .next (s.spdmAsk via 0x81 3 fun s => s.emit (.spdm via 0x81 true [Config.pldmAnswer 0x81 (leNat (s.chain false))]))

/-- GET_CERTIFICATE (R518): a part of the chain; an offset beyond it is malformed (R520). -/
def execGetCertificate (via : Via) (offset length : Nat) (s : State) : Outcome State Fault Refusal :=
  .next (s.spdmAsk via 0x82 3 fun s =>
    if (s.chain false).length ≤ offset then s.attestRefused via 0x82 0x01 0
    else s.emit (.spdm via 0x82 true ((((s.chain false).drop offset).take length).map (·.toNat))))

/-! ## Signatures (R516 to R518) -/

/-- The message that a signature covers, as a number. -/
def transcript (l : List Nat) : Nat := l.foldl (fun n x => n * 2 ^ 384 + x) 1

/-- A signed answer: the data, the nonce, the ECDSA signature by the Alias key, and the vendor-defined element with the HSS signature by the
DeviceID key over the same message and the HSS-form chain (R518); or the refusal of its signatures (R520). -/
def State.signedAnswer (s : State) (via : Via) (command : Nat) (g : Signing) (nonce : Nat) (data : List Nat) : State :=
  let msg := transcript (nonce :: data)
  match s.signLeaf g with
  | (t, .ok i) =>
    t.emit (.spdm via command true (data ++ [nonce, Config.ecdsaSignature t.boot.ident.cdi2 msg, Config.hssSignature t.boot.ident.seed i msg] ++
      (t.chain true).map (·.toNat)))
  | (t, .error code) => t.attestRefused via command 0x05 code

/-- CHALLENGE (R518). -/
def execChallenge (via : Via) (nonce : Nat) (sign : Signing) (s : State) : Outcome State Fault Refusal :=
  .next (s.spdmAsk via 0x83 3 fun s => s.signedAnswer via 0x83 sign nonce [leNat (s.chain false)])

/-- A measurement block (R519). -/
def State.measurement (s : State) (n : Nat) : Nat :=
  let all := List.range 5
  match n with
  | 6 => pack (all.flatMap fun d => let x := s.dom d; [(40 * d, 32, x.goodVer.toNat), (40 * d + 32, 1, x.good), (40 * d + 33, 1, x.run)])
  | 7 => transcript ([(Config.fuseEpoch 0).toNat, pack ((List.range 4).map fun i => (i, 1, bnat (Config.keyRevoked 0 i)))] ++ all.map steppingWord)
  | 8 =>
    let c := s.journal.find? fun c => c.step == 9 && c.isEnd && c.start == s.boot.start
    s.boot.excl.toNat + 2 ^ 64 * (match c with | some c => c.stackMask.toNat | none => 0)
  | _ => (s.headerHash (n - 1)).toNat

/-- GET_MEASUREMENTS (R519): index 0 asks for the number of blocks and 255 for all; another index is malformed (R520). -/
def execGetMeasurements (via : Via) (index : Nat) (signed : Bool) (nonce : Nat) (sign : Signing) (s : State) : Outcome State Fault Refusal :=
  .next (s.spdmAsk via 0xE0 3 fun s =>
    if index > 8 ∧ index ≠ 255 then s.attestRefused via 0xE0 0x01 0
    else
      let l := if index = 0 then [] else if index = 255 then (List.range 8).map (· + 1) else [index]
      let data := if index = 0 then [8] else l.map s.measurement
      if signed then s.signedAnswer via 0xE0 sign nonce data else s.emit (.spdm via 0xE0 true data))

/-- MALFORMED_SPDM_REQUEST (R518, R520): answered with ERROR, and 0x0B06 recorded. -/
def execMalformedSpdmRequest (via : Via) (unsupported : Bool) (s : State) : Outcome State Fault Refusal :=
  if s.spdmUp && s.viaUp via then .next (s.attestRefused via 0 (if unsupported then 0x07 else 0x01) 0) else .next s

/-- BOTTOM_LEVEL_TREE_BUILT (R518): attestation requests are answered again. -/
def execBottomLevelTreeBuilt (s : State) : Outcome State Fault Refusal := .next (s.setBoot { s.boot with lmsBuilding := false })

end Sys2Proof.Machine
end

