-- ==== Sys2Proof/Machine/Health.lean ====
section
/-! DEFINITION. Pattern sweeps, sensors, unit-history records, the telemetry ring's registers and PLDM monitoring (17; R524 to R537). PLDM
codes are those of DSP0248 (log 41). -/

namespace Sys2Proof.Machine

open Sys2Proof Host

/-! ## Pattern sweeps (R108, R155, R529, R531) -/

/-- The replay windows of a step of a start point hold an array in some of the `len` cycles from `cyc` on (R106, R109). -/
def State.windowsHold (s : State) (im : Image) (core a cyc len start i : Nat) : Bool :=
  let st := im.step i
  let b := 7 * (start + st.start) + im.lastEnd st
  st.unitKind == 0 && im.coreNo st.unit == core && st.replayRes && (im.core st.unit).replay == a && !s.substituted im core &&
    decide (cyc < b + 512 * st.replayTiles ∧ b < cyc + len)

/-- Accepted instances whose operations are still to come use an array neither within a span of cycles nor, before its next W_LOAD, the
weights that it holds (R108, R155). -/
def State.lull (s : State) (core a cyc len : Nat) : Bool :=
  s.instances.all fun z =>
    let x := z.1
    let im := z.2
    let mine := fun e : Nat => decide (e ≤ 3) && s.runsOnArray im core e == a
    let steps := (im.stepsOf x).filter fun i => (im.step i).unitKind == 0 && im.coreNo (im.step i).unit == core && !x.ended.contains i
    let ops : List (Nat × Bool) := steps.flatMap fun i =>
      let st := im.step i
      ((im.stepOps st).filter fun p => mine (im.op p.2).engine && !s.hasIssued x im i p.1 p.2).map fun p => (im.statedAt x st p.1 p.2, (im.op p.2).loads)
    (steps.all fun i =>
      let st := im.step i
      let from_ := 7 * (x.start + st.start)
      !((List.range 4).any fun e => st.engines.testBit e && mine e) || decide (cyc + len ≤ from_ ∨ from_ + 7 * st.length ≤ cyc)) &&
      (ops.all fun p => decide (cyc + len ≤ p.1)) &&
      ((im.stepsOf x).all fun i => !s.windowsHold im core a cyc len x.start i) &&
      match (sortBy (fun (p : Nat × Bool) => p.1) ops).head? with
      | some p => p.2
      | none => true

/-- An array on which a routine sweep may run: its core runs and serves, and nothing of it is under way. -/
def State.sweepable (s : State) (core a cyc : Nat) : Bool :=
  let x := s.array (4 * core + a)
  let owner := s.coreOwner core
  s.opened && s.flag .hltSweep 0 0 && s.domainRuns && s.cdieRuns (core / 8) cyc && !(s.core core).clearing && !(s.core core).outOfService &&
    !x.withdrawn && x.sweep == none && x.confirm == 0 && !x.fresh && x.passes.isEmpty && decide (x.loadEnd ≤ cyc ∧ x.rowEnd ≤ cyc) &&
    !((s.core core).replays.any (·.array == a)) &&
    (match owner with | some p => (s.part p).st != .holding && (s.part p).st != .held | none => true)

/-- Start points that a submission may still take bring no tile to an array before a cycle: a pass is started only when its verdict falls
before the array's next tile (R67, R108, R531). -/
def State.lullAhead (s : State) (core a until_ : Nat) : Bool :=
  match s.coreOwner core with
  | none => true
  | some p => (s.slotImages p).all fun z =>
      let im := z.1
      let mine := fun st : ImgStep =>
        st.unitKind == 0 && im.coreNo st.unit == core && (List.range 4).any fun e => st.engines.testBit e && s.runsOnArray im core e == a
      im.classes.all fun c => (c.startsFrom s.time.now).all fun t =>
        decide (t < z.2.1) || z.2.2.any (decide <| · ≤ t) || decide (until_ ≤ 7 * t) ||
          c.stepIdx.all fun i =>
            let st := im.step i
            st.group != c.groupAt t || ((!mine st || decide (until_ ≤ 7 * (t + st.start))) && !s.windowsHold im core a 0 until_ t i)

/-- SWEEP_PASS_START (R108, R155, R531): a pass of 512 cycles, or of 1,024 in BF16, on an idle array; after a mismatch, the same pass again. It
loads its own operands and is checked as every pass is; `faults` says what the array's cells do wrong in it. -/
def execSweepPassStart (core : Fin 256) (array : Fin 4) (bf16 : Bool) (phase : Fin 7) (faults : List CellFault) (s : State) : Outcome State Fault Refusal :=
  let k := 4 * core.val + array.val
  let x := s.array k
  let cyc := s.cycle phase.val
  let w : SweepS := match x.again with
    | some w => { w with repeat_ := true }
    | none => { seed := s.nextSeed k, failed := false, verdict := 0, fmt := if bf16 then 4 else sweepFmt x.sweeps, corner := sweepCorner x.sweeps, repeat_ := false }
  let len := if w.fmt = 4 then 1024 else 512
  if !(s.sweepable core.val array.val cyc && s.lull core.val array.val cyc len && s.lullAhead core.val array.val (cyc + len)) then .next s
  else
    let w := { w with verdict := cyc + len, failed := sweepFails w.seed w.corner w.fmt faults }
    let seed := if w.repeat_ then x.seed else w.seed
    .next (s.setArray k { x with active := Bank.empty, shadow := Bank.empty, fresh := false, loadEnd := cyc + len / 4,
                                 rowEnd := cyc + len - 264, sweeps := x.sweeps + 1, seed := seed, sweep := some w, again := none })

/-- SWEEP_VERDICT (R153, R529, R531): a mismatch is recorded as 0x0310 with TEST set and is run again; a repeat that mismatches confirms it.
It is a failed verdict of an array whose record may be marked replay clean. -/
def execSweepVerdict (core : Fin 256) (array : Fin 4) (phase : Fin 7) (s : State) : Outcome State Fault Refusal :=
  let k := 4 * core.val + array.val
  let x := s.array k
  match x.sweep with
  | none => .next s
  | some w =>
    if s.cycle phase.val < w.verdict then .next s
    else
      let die := k / 32
      let unit := k % 32
      let s := s.setArray k { x with sweep := none, again := if !w.failed || w.repeat_ then none else some w, sumPasses := x.sumPasses + 1,
                                     sumFails := x.sumFails + bnat w.failed }
      let s := (s.bump die unit 0xCC (2 ^ 32 - 1) 1).setArea die unit 0xD8 s.time.now
      if !w.failed then .next s
      else
        let s := (s.bump die unit 0xD0 (2 ^ 32 - 1) 1).failSeed k w.seed
        let s := s.raise { FaultRec.new s 0x0310 (some die) unit with test := true }
        .next (if w.repeat_ then s.classUnit die unit 2 0x0310 else s.afterClean core.val array.val 0x0310)

/-- SWEEP_SUMMARY (R534): every hour an entry for each array, with its counts since the entry before. -/
def execSweepSummary (s : State) : Outcome State Fault Refusal :=
  if !s.opened ∨ (s.hlt.lastSweepSum ≤ s.time.now ∧ s.time.now < s.hlt.lastSweepSum + hour) then .next s
  else
    let s := s.setHlt { s.hlt with lastSweepSum := s.time.now }
    .next (((List.range 1024).filter fun k => !s.excluded (k / 32)).foldl (fun s k =>
      let x := s.array k
      (s.telemetry 6 (pack [(0, 8, k / 32), (8, 8, k % 32), (32, 32, x.sumPasses), (64, 32, x.sumFails)])).setArray k { x with sumPasses := 0, sumFails := 0 }) s)

/-! ## Sensors (R532, R533) -/

inductive SensorKind where
  | temp | volt | slack | aging | stackTemp | refresh | eye
  deriving DecidableEq, Repr

/-- Temperature sensors of a die, and its critical-path monitors (R532). -/
def tempSensors (die : Nat) : Nat := if die < 32 then 16 else if die < 56 then 8 else if die < 60 then 4 else 2
def slackSensors (die : Nat) : Nat := if die < 60 then tempSensors die else 0

/-- Kind of the sensor of an ID (R532, R534). -/
def sensorKind (id : Nat) : Option SensorKind :=
  let die := id / 256
  let c := id % 256
  if die < 64 then
    if c < 0x20 then (if c < tempSensors die then some .temp else none)
    else if c < 0x30 then (if c < 0x24 then some .volt else none)
    else if c < 0x40 then (if c < 0x30 + slackSensors die then some .slack else none)
    else if c < 0x44 then some .aging else none
  else if id < 0x4000 + 256 * 32 then (if c = 0 then some .stackTemp else if c = 1 then some .refresh else none)
  else if 0x6000 ≤ id ∧ id < 0x6100 then some .eye
  else none

/-- Die by which a sensor reports: a stack's is its C-die. -/
def sensorDie (id : Nat) : Nat := if id < 0x4000 then id / 256 else if id < 0x6000 then (id - 0x4000) / 256 else dieF ((id - 0x6000) / 32)

/-- Threshold of HLT_THR for a kind of sensor, in the sensor's unit (R532, R537). -/
def State.threshold (s : State) (k : SensorKind) : Option Nat :=
  match k with
  | .temp => some (2 * s.fld .hltThr 0 7 0)
  | .stackTemp => some (s.fld .hltThr 0 7 0)
  | .slack => some (10 * s.fld .hltThr 0 15 8)
  | .aging => some (1000 * s.fld .hltThr 0 23 16)
  | .eye => some (2 * s.fld .hltThr 0 31 24)
  | .volt | .refresh => none

/-- Saddles for which further crossings of a sensor are counted only (R533). -/
def quietTicks : Nat := 4096 * 4096

/-- A sensor is sampled: its lowest and highest, its hour, and a crossing of its threshold (R533, log 69). -/
def State.reading (s : State) (k : SensorKind) (id : Nat) (v : Int) : State :=
  let x := s.sensor id
  let h := s.time.now / hour
  let hours := match x.hours with
    | [] => [(v, v)]
    | p :: t => if x.hour = h then (min p.1 v, max p.2 v) :: t else ((v, v) :: p :: t).take 720
  let y : Sensor := { x with last := v, low := if x.seen then min x.low v else v, high := if x.seen then max x.high v else v, seen := true,
                             hours := hours, hour := h }
  match s.threshold k with
  | none => s.setSensor id y
  | some thr =>
    let up := decide ((thr : Int) ≤ v)
    if !x.seen || decide ((thr : Int) ≤ x.last) == up then s.setSensor id y
    else if (match x.reported with | some t => decide (t ≤ s.time.now ∧ s.time.now < t + quietTicks) | none => false) then
      s.setSensor id { y with quiet := x.quiet + 1 }
    else
      let s := s.setSensor id { y with reported := some s.time.now, quiet := 0 }
      (s.setBit .hltEvt 0 2).telemetry 3 (pack [(0, 16, id), (16, 16, ofInt 16 v), (32, 16, thr), (48, 1, bnat up), (64, 32, x.quiet)])

/-- Highest DRAM temperature and refresh multiplier of a stack in the history of its channels (R525). -/
def State.stackArea (s : State) (n lo v : Nat) : State :=
  (List.range 32).foldl (fun s c =>
    let old := smGet 0 (s.unit (256 * n + 0x90 + c)).area 0xDC
    s.setArea n (0x90 + c) 0xDC (old - bits old (lo + 7) lo * 2 ^ lo + v % 256 * 2 ^ lo)) s

/-- A sensor reports: those of an excluded die do not, but a stack stays in service beside its C-die (R30, R532). -/
def State.sensing (s : State) (id : Nat) (k : SensorKind) : Bool := !s.excluded (sensorDie id) || k == .stackTemp || k == .refresh

/-- Takes readings of the sensors whose kinds are sampled now. -/
def State.readings (s : State) (ok : SensorKind → Bool) (l : List (Nat × Int)) : State :=
  l.foldl (fun s p =>
    match sensorKind p.1 with
    | none => s
    | some k =>
      if ok k && s.sensing p.1 k then
        let s := s.reading k p.1 p.2
        if k = .stackTemp then s.stackArea (sensorDie p.1) 8 p.2.toNat
        else if k = .refresh then s.stackArea (sensorDie p.1) 0 p.2.toNat
        else s
      else s) s

/-- AGING_SAMPLE (R532): every hour. -/
def execAgingSample (readings : List (Nat × Int)) (s : State) : Outcome State Fault Refusal :=
  if !s.opened ∨ (s.hlt.lastAging ≤ s.time.now ∧ s.time.now < s.hlt.lastAging + hour) then .next s
  else .next ((s.setHlt { s.hlt with lastAging := s.time.now }).readings (· == .aging) readings)

/-- A lane's eye: last height and width, and the lowest of each since manufacture (R525, R532). -/
def State.eye (s : State) (lane height width : Nat) : State :=
  let die := dieF (lane / 32)
  let unit := lane % 32
  let old := smGet 0 (s.unit (256 * die + unit)).area 0xC4
  let seen := (s.sensor (0x6000 + lane)).seen
  let h := if seen then min (bits old 15 0) height else height
  let w := if seen then min (bits old 31 16) width else width
  let s := (s.setArea die unit 0xC0 (pack [(0, 16, height), (16, 16, width)])).setArea die unit 0xC4 (pack [(0, 16, h), (16, 16, w)])
  s.reading .eye (0x6000 + lane) height

/-- A lane's FEC counts, of 64 bits (R525). -/
def State.laneFec (s : State) (p : LaneSample) : State :=
  let die := dieF (p.lane.val / 32)
  let unit := p.lane.val % 32
  (s.bump die unit 0xC8 (2 ^ 64 - 1) p.fecCorr).bump die unit 0xD0 (2 ^ 64 - 1) p.fecUncorr

/-- EYE_SAMPLE (R525, R532): every second each lane reports its eye and its FEC counts. -/
def execEyeSample (samples : List LaneSample) (s : State) : Outcome State Fault Refusal :=
  if !s.opened ∨ (s.hlt.lastEye ≤ s.time.now ∧ s.time.now < s.hlt.lastEye + 100000000) then .next s
  else
    let s := s.setHlt { s.hlt with lastEye := s.time.now }
    .next ((samples.filter fun p => !s.excluded (dieF (p.lane.val / 32))).foldl (fun s p => (s.eye p.lane.val p.height p.width).laneFec p) s)

/-! ## Unit-history records (R523 to R526) -/

/-- COUNTER_WRITEBACK (R526): the counters of every record that has changed are written to MRAM. -/
def State.writeBack (s : State) : State :=
  let l := (s.hlt.units.map (·.1)).filter fun k => decide (s.unit k ≠ s.history k)
  let s := l.foldl (fun s k => s.toMram k) s
  s.setHlt { s.hlt with lastWriteback := s.time.now }

def execCounterWriteback (s : State) : Outcome State Fault Refusal := if s.pwr.converters && s.opened then .next s.writeBack else .next s

/-- The 256-byte record of R524 as a number, less its CRC. -/
def unitBody (die unit : Nat) (u : UnitRec) : Nat :=
  let recent := (List.range u.recent.length).flatMap fun i =>
    match u.recent[i]? with
    | some r => [(8 * (0x40 + 16 * i), 16, r.1), (8 * (0x42 + 16 * i), 1, bnat r.2.1), (8 * (0x42 + 16 * i) + 1, 1, bnat r.2.2.1), (8 * (0x48 + 16 * i), 64, r.2.2.2)]
    | none => []
  let area := u.area.map fun p => (8 * p.1, 64, p.2)
  let spare := if die < 32 && unit < 0x20 then [(8 * 0xC0, 64, (Config.spareMap (32 * die + unit)).toNat)] else []
  pack ([(0, 16, 0x4855), (16, 6, die), (24, 8, unit), (32, 3, u.st), (35, 1, bnat u.replayClean), (36, 1, bnat u.perm),
    (40, 8, u.recent.length), (64, 32, u.wseq), (128, 64, u.stateTime), (192, 64, u.cleanTime), (256, 64, u.qtimes.getD 0 0),
    (320, 64, u.qtimes.getD 1 0), (384, 64, u.qtimes.getD 2 0), (448, 32, u.recorded), (480, 32, u.corrected)] ++ recent ++ spare ++ area)

/-- Word `i` of a unit's record as last written to MRAM (R537). -/
def State.histWord (s : State) (die unit i : Nat) : Word :=
  if unitListed die unit then
    let n := unitBody die unit (s.history (256 * die + unit))
    BitVec.ofNat 32 (if i = 3 then crc32c (leBytes 256 n) else bits n (32 * i + 31) (32 * i))
  else 0

/-! ## Registers of the telemetry ring (R535, R537) -/

/-- A write of HLT_RING_BASE while EN is 1 changes nothing (R537, R581). -/
def State.writeHltBase (s : State) (g : RG) (w : Word) : State :=
  if s.flag .hltRingCfg 0 5 then
    if w = s.reg g 0 then s else (s.setBit .hltEvt 0 4).regErr (g.off 0) 4
  else s.setReg g 0 w

/-- The checks of an arming of the telemetry ring (R535). -/
def State.mayArmHlt (s : State) : Bool :=
  let h := s.fld .hltRingCfg 0 7 6
  s.fld .hltRingBaseLo 0 11 0 == 0 && decide (6 ≤ s.fld .hltRingCfg 0 4 0 ∧ s.fld .hltRingCfg 0 4 0 ≤ 16) && !s.excluded (dieH h) && !(s.port h).cxl

/-- A write of HLT_RING_CFG (R535, R537): LOG2 and HDIE are fixed while EN is 1. -/
def State.writeHltCfg (s : State) (w : Word) : State :=
  let old := s.reg .hltRingCfg 0
  let was := wbit old 5
  let off := RG.off .hltRingCfg 0
  let fixed : Word := 0xDF
  let clash := was && decide ((w &&& fixed) ≠ (old &&& fixed))
  let v := if was then (w &&& ~~~fixed) ||| (old &&& fixed) else w
  let s := s.putRw .hltRingCfg 0 (setBits v 5 5 (bnat (was && wbit w 5)))
  let s := if clash then (s.setBit .hltEvt 0 4).regErr off 4 else s
  if was && !wbit w 5 then s.setHlt { s.hlt with armed := false, fenced := false }
  else if !was && wbit w 5 then
    if s.mayArmHlt then
      let s := s.setReg .hltRingCfg 0 (setBits (s.reg .hltRingCfg 0) 5 5 1)
      let s := (s.setHlt { s.hlt with armed := true, fenced := false, written := 0, winEnd := 0, winHit := false }).setReg .hltRingHead 0 0
      s.liftFence (s.fld .hltRingCfg 0 7 6)
    else (s.setBit .hltEvt 0 4).regErr off 4
  else s

/-- HLT_, SEC_ and PWR_ registers are gone with S0 and S1 (R564): a write is ignored and recorded with CAUSE 4. -/
def State.rootWrite (s : State) (off : Nat) (f : State → State) : State := if s.rootsGone then s.regErr off 4 else f s

/-- HLT_RING_ARM (R535): a write of EN from 0 to 1. -/
def execHltRingArm (port : Fin 4) (w : Word) (s : State) : Outcome State Fault Refusal :=
  if s.reach port.val ∧ wbit w 5 ∧ !s.flag .hltRingCfg 0 5 then .next (s.rootWrite (RG.off .hltRingCfg 0) fun s => s.writeHltCfg w) else .next s

/-- HLT_RING_HEAD_WRITE (R535). -/
def execHltRingHeadWrite (port : Fin 4) (w : Word) (s : State) : Outcome State Fault Refusal :=
  if s.reach port.val then .next (s.rootWrite (RG.off .hltRingHead 0) fun s => s.setReg .hltRingHead 0 w) else .next s

/-! ## PLDM for platform monitoring and control (R536) -/

/-- GET_PDR (R536). -/
def execGetPdr (via : Via) (record : Nat) (s : State) : Outcome State Fault Refusal :=
  if s.pldmVia via then .next (s.pldm via 0x51 0 (Config.pldmAnswer 0x51 record)) else .next s

/-- GET_SENSOR_READING (R536): the last reading of a sensor of R532; 0x80 for an ID that no sensor has. -/
def execGetSensorReading (via : Via) (sensor : Nat) (s : State) : Outcome State Fault Refusal :=
  if !s.pldmVia via then .next s
  else if (sensorKind sensor).isSome then .next (s.pldm via 0x11 0 (ofInt 16 (s.sensor sensor).last))
  else .next (s.pldm via 0x11 0x80 0)

/-- GET_STATE_SENSOR_READINGS (R536): the STATE of unit 256 × mesh index + UNIT, or with 0x4000 the time state. -/
def execGetStateSensorReadings (via : Via) (sensor : Nat) (s : State) : Outcome State Fault Refusal :=
  if !s.pldmVia via then .next s
  else if sensor = timeSensor then .next (s.pldm via 0x21 0 s.time.state.code)
  else if sensor < timeSensor && unitListed (sensor / 256) (sensor % 256) then .next (s.pldm via 0x21 0 (s.unit sensor).st)
  else .next (s.pldm via 0x21 0x80 0)

/-- SET_EVENT_RECEIVER (R536): events that were held are sent, oldest first. -/
def execSetEventReceiver (via : Via) (receiver : Nat) (s : State) : Outcome State Fault Refusal :=
  if !s.pldmVia via then .next s
  else
    let held := s.hlt.events
    let s := (s.setHlt { s.hlt with receiver := receiver, events := if receiver = 0 then held else [] }).pldm via 0x04 0 0
    .next (if receiver = 0 then s else held.foldl (fun s e => s.emit (.event e.cls e)) s)

/-- POLL_FOR_PLATFORM_EVENT_MESSAGE (R536): the oldest event held, if any. -/
def execPollForPlatformEventMessage (via : Via) (s : State) : Outcome State Fault Refusal :=
  if !s.pldmVia via then .next s
  else
    match s.hlt.events with
    | [] => .next (s.pldm via 0x0B 0 0)
    | e :: t => .next (((s.setHlt { s.hlt with events := t }).pldm via 0x0B 0 1).emit (.event e.cls e))

end Sys2Proof.Machine
end

