-- ==== Sys2Proof/Machine/Power.lean ====
section
/-! DEFINITION. Power, the module's signals and the board controller's commands (18; R538 to R547). -/

namespace Sys2Proof.Machine

open Sys2Proof Host

/-- The S-dies are powered and out of reset. -/
def State.sdiesUp (s : State) : Bool := match s.boot.phase with | .step _ | .open_ | .failed | .standby => true | .off | .reset => false

/-- The S-dies run: powered, out of reset, and with their clock. -/
def State.sdiesRun (s : State) : Bool := s.sclk && s.sdiesUp

/-! ## Module signals (R541 to R544, R547, R559) -/

/-- A write to MRAM that the loss of power tears (R499, R503): the record differs in some bits from what was to be written, or its CRC does. -/
def State.tear (s : State) (t : Tear) : State :=
  let n := t.sdie.val
  let x := s.mram n
  let w : Word := BitVec.ofNat 32 t.bits
  match t.place with
  | .journal => match x.journal with
    | c :: l => s.setMram n { x with journal := (c ^^^ BitVec.ofNat 512 t.bits) :: l }
    | [] => s
  | .lms => s.setMram n { x with lms := (x.lms.1, x.lms.2 ^^^ w) }
  | .image d =>
    let c := smGet (MCopy.init none) x.images d.val
    s.setMram n { x with images := smSet (MCopy.init none) x.images d.val { c with flaw := c.flaw ^^^ w } }
  | .root =>
    let c := smGet (MCopy.init RootRec.init) s.err.roots n
    s.setErr { s.err with roots := smSet (MCopy.init RootRec.init) s.err.roots n { c with flaw := c.flaw ^^^ w } }
  | .unit die unit =>
    let k := 4 * (256 * die.val + unit.toNat) + n
    let c := smGet noCopy s.hlt.mram k
    s.setHlt { s.hlt with mram := smSet noCopy s.hlt.mram k (c.1, c.2 ^^^ w) }

/-- The dies lose their power: what MRAM and the fuses do not hold is gone, and PERST_N is low while MOD_PWR_GOOD is (R544, R559). -/
def State.powerOff (s : State) (torn : List Tear) : State :=
  let s := (torn.foldl (fun s t => s.tear t) s.fwPowerLost).wiped false
  let s := { s with ports := smMap PortS.init (fun _ (p : PortS) => { p with perst := true }) s.ports }
  (s.setBoot { s.boot with phase := .off, tries := 0, elapsed := 0 }).setPwr { s.pwr with pwrGood := false }

/-- MOD_PWR_EN_ASSERT (R542): the rails come up in order, with MOD_RST_N low. -/
def execModPwrEnAssert (s : State) : Outcome State Fault Refusal :=
  if s.pwr.pwrEn ∨ !s.pwr.rstLow then .next s
  else .next ((s.setPwr { s.pwr with pwrEn := true, converters := true, upFailed := false }).setBoot { s.boot with phase := .reset })

/-- MOD_PWR_GOOD (R542, R543): every rail is in regulation. -/
def execModPwrGood (s : State) : Outcome State Fault Refusal :=
  if s.pwr.pwrEn && s.pwr.converters && !s.pwr.upFailed && !s.pwr.pwrGood then .next (s.setPwr { s.pwr with pwrGood := true }) else .next s

/-- POWER_UP_TIMEOUT (R542): MOD_PWR_GOOD stays low and every die is held in reset until MOD_PWR_EN falls. -/
def execPowerUpTimeout (s : State) : Outcome State Fault Refusal :=
  if s.pwr.pwrEn && !s.pwr.pwrGood then .next (s.setPwr { s.pwr with upFailed := true }) else .next s

/-- MOD_PWR_EN_DEASSERT (R541, R544, R547): power is removed, and a thermal trip is no longer latched. -/
def execModPwrEnDeassert (torn : List Tear) (s : State) : Outcome State Fault Refusal :=
  if s.pwr.pwrEn then .next ((s.powerOff torn).setPwr { s.pwr with pwrEn := false, pwrGood := false, thermTrip := false, upFailed := false }) else .next s

/-- MOD_RST_N_DEASSERT (R542): boot step ROOT begins. -/
def execModRstNDeassert (s : State) : Outcome State Fault Refusal :=
  if !s.pwr.rstLow then .next s
  else
    let s := s.setPwr { s.pwr with rstLow := false }
    if s.pwr.pwrGood && s.boot.phase == .reset then .next (s.beginStart false) else .next s

/-- MOD_RST_N_ASSERT (R501, R543): every die is reset, and in BOOT_FAILED a new count of starts begins. -/
def execModRstNAssert (s : State) : Outcome State Fault Refusal :=
  if s.pwr.rstLow then .next s
  else
    let s := s.setPwr { s.pwr with rstLow := true }
    if !s.sdiesUp then .next s
    else
      let tries := if s.boot.phase = .failed then 0 else s.boot.tries
      let s := s.wiped false
      .next (s.setBoot { s.boot with phase := .reset, tries := tries, elapsed := 0 })

/-- The carrier stops its 6 V converters (R541): the dies lose their power. -/
def State.converterStop (s : State) (torn : List Tear) : State := (s.powerOff torn).setPwr { s.pwr with pwrGood := false, converters := false }

/-- POWER_FAILURE (R541). -/
def execPowerFailure (torn : List Tear) (s : State) : Outcome State Fault Refusal := if s.pwr.pwrEn && s.pwr.converters then .next (s.converterStop torn) else .next s

/-- UV (R540): reported only; ALERT_N is low while any bit of PWR_EVT is set (R559). -/
def execUv (s : State) : Outcome State Fault Refusal := if s.sdiesRun then .next (s.setBit .pwrEvt 0 0) else .next s

/-- OV (R540). -/
def execOv (s : State) : Outcome State Fault Refusal := if s.sdiesRun then .next (s.setBit .pwrEvt 0 1) else .next s

/-- OVERPOWER (R540). -/
def execOverpower (s : State) : Outcome State Fault Refusal := if s.sdiesRun then .next (s.setBit .pwrEvt 0 2) else .next s

/-- ALERT_N is driven low (R559). -/
def State.alert (s : State) : Bool := s.reg .pwrEvt 0 != 0

/-- The boundary-scan port answers: it is disabled once S0 and S1 have completed IDENT (R560). -/
def State.scanPort (s : State) : Bool := s.sdiesUp && !s.identEnded

/-- THERMAL_TRIP (R547): THERMTRIP_N is latched until MOD_PWR_EN falls; nothing else happens. -/
def execThermalTrip (s : State) : Outcome State Fault Refusal :=
  if s.pwr.pwrEn && s.pwr.converters then .next (s.setPwr { s.pwr with thermTrip := true }) else .next s

/-- THERMTRIP_TIMEOUT (R547, R541): MOD_PWR_EN is still asserted 500 ms after THERMTRIP_N. -/
def execThermtripTimeout (torn : List Tear) (s : State) : Outcome State Fault Refusal :=
  if s.pwr.thermTrip && s.pwr.pwrEn && s.pwr.converters then .next (s.converterStop torn) else .next s

/-! ## Commands of the board controller (R545) -/

/-- A response: 0x00 success, 0x01 not allowed in the present state, 0x02 malformed. -/
def State.sbAnswer (s : State) (command code data : Nat) : State :=
  s.emit (.sideband (BitVec.ofNat 8 command) (BitVec.ofNat 8 code) (BitVec.ofNat 16 data))

/-- A command that is allowed where `ok` holds, with its action. -/
def State.command (s : State) (command : Nat) (ok : Bool) (f : State → State) : State :=
  if !s.sdiesRun then s else if ok then (f s).sbAnswer command 0 0 else s.sbAnswer command 1 0

/-- The action of STANDBY, with its drain (R479, R480, R526, R545): requests that left the scope are abandoned at the end of the drain. -/
def State.standBy (s : State) : State :=
  let s :=
    if s.boot.phase = .open_ then
      let s := (s.fenceDevice 0x0721 (dieS 0) 4 [] false).flushAgents
      let s := s.sendFm 3 0 0 0 0
      let s := s.setErr { s.err with devReset := none }
      ((s.setUsteps []).setReads (s.reads.filter fun q => !q.purpose.engine)).setFab { s.fab with reqs := [] }
    else s
  let s := s.writeBack
  (s.setMem { s.mem with selfRefresh := true }).setBoot { s.boot with phase := .standby }

/-- STANDBY (R545): in any state after step SFW. -/
def execStandby (s : State) : Outcome State Fault Refusal := .next (s.command 0x01 s.pldmUp fun s => s.standBy)

/-- RESTART (R499, R501, R545): a package restart; in BOOT_FAILED a new count of starts begins. -/
def execRestart (s : State) : Outcome State Fault Refusal :=
  .next (s.command 0x02 true fun s => (s.setBoot { s.boot with tries := if s.boot.phase = .failed then 0 else s.boot.tries, elapsed := 0 }).beginStart true)

/-- The device serves: the registers are open and it is not out of service. -/
def State.servingNow (s : State) : Bool := s.boot.phase == .open_ && !s.err.devOut

/-- DEV_RESET (R484, R545). -/
def execDevReset (s : State) : Outcome State Fault Refusal := .next (s.command 0x03 s.servingNow fun s => s.askDevice)

/-- DEV_ENABLE (R493, R545). -/
def execDevEnable (s : State) : Outcome State Fault Refusal :=
  .next (s.command 0x04 (s.boot.phase == .open_ && s.err.devOut) fun s => s.enableDevice)

/-- DATA of GET_STATE. -/
def State.moduleState (s : State) : Nat :=
  match s.boot.phase with
  | .step k => 256 * k
  | .open_ => if s.err.devOut then 2 else 1
  | .failed => 3
  | .standby => 4
  | .off | .reset => 0

/-- GET_STATE (R545). -/
def execGetState (s : State) : Outcome State Fault Refusal :=
  if !s.sdiesRun then .next s
  else if s.pldmUp || s.standing then .next (s.sbAnswer 0x05 0 s.moduleState)
  else .next (s.sbAnswer 0x05 1 0)

/-- PPS_LOAD (R44, R545): the effect of the same writes by host software. -/
def execPpsLoad (value : BitVec 64) (s : State) : Outcome State Fault Refusal :=
  .next (s.command 0x06 (s.boot.phase == .open_) fun s =>
    let s := (s.setReg .timPpsLoadLo 0 (BitVec.ofNat 32 value.toNat)).setReg .timPpsLoadHi 0 (BitVec.ofNat 32 (value.toNat / 2 ^ 32))
    s.writeTimCtrl (s.reg .timCtrl 0 ||| maskWord 30))

/-- MALFORMED_COMMAND (R545). -/
def execMalformedCommand (command : BitVec 8) (s : State) : Outcome State Fault Refusal :=
  if s.sdiesRun then .next (s.sbAnswer command.toNat 2 0) else .next s

end Sys2Proof.Machine
end

