-- ==== Sys2Proof/Machine/Saddle.lean ====
section
/-! DEFINITION. What takes effect at a saddle (R78; R53, R55, R109, R112, R234, R235, R256, R262, R405, R465, R482, R513, R530, R532, R561). -/

namespace Sys2Proof.Machine

open Sys2Proof Host

/-- In STEPPING, at a saddle with no accepted submission open, the step value is fixed: fabric time at the next tick boundary plus the last
offset estimate, in whole ticks (R53). -/
def State.fixStep (s : State) : State :=
  if s.time.state = .stepping ∧ s.time.stepFix = none ∧ !(s.subs.any fun x => x.st == .accepted) then
    let z : Int := (10 * ((s.time.now : Int) + 1) + s.time.offset + 5) / 10
    s.setTime { s.time with stepFix := some z.toNat }
  else s

/-- The partition that owns a core holds or is held (R464). -/
def State.ownerHeld (s : State) (k : Nat) : Bool :=
  match s.coreOwner k with
  | some p => (s.part p).st == .holding || (s.part p).st == .held
  | none => false

/-- An array returns to service: a SUSPECT one is IN_SERVICE again (R466, R528, R529). -/
def State.returnArray (s : State) (a : Nat) : State :=
  let key := 256 * (a / 32) + a % 32
  let u := s.unit key
  let s := s.setArray a { s.array a with withdrawn := false, toReturn := false, confirm := 0 }
  if u.st = 1 then
    let s := (s.setUnit key { u with st := 0, stateTime := s.time.now }).toMram key
    s.telemetry 2 (pack [(0, 8, a / 32), (8, 8, a % 32), (16, 8, 1), (24, 8, 0)])
  else s

/-- Arrays leave and return, cores leave, and images that cannot go on stop admission (R109, R464, R466, R530). -/
def State.saddleUnits (s : State) : State :=
  let s := (s.arrays.filter fun a => a.2.toReturn).foldl (fun s a => s.returnArray a.1) s
  let s := (s.arrays.filter fun a => a.2.toWithdraw).foldl (fun s a =>
    if s.ownerHeld (a.1 / 4) then s.setArray a.1 { s.array a.1 with toWithdraw := false, due := true } else s.withdrawArray a.1) s
  let s := (s.cores.filter fun c => c.2.leaving).foldl (fun s c =>
    (s.setCore c.1 { s.core c.1 with leaving := false, outOfService := true }).stopAdmitting fun k => k == c.1) s
  (List.range 64).foldl (fun s p => s.judgeImage p) s

/-- The saddle is the RSR_INT-th of a ring, counted in fabric time (R405). -/
def State.recordDue (s : State) (r : Nat) : Bool :=
  let n := s.fld .hqRingCtrl r 9 2
  ((s.ring r).st == .active || (s.ring r).st == .draining) && n != 0 && (s.time.now / 4096) % n == 0

/-- C-dies whose rejoin saddle has come (R482). -/
def State.rejoin (s : State) : State :=
  s.setErr { s.err with cdies := smMap CdieS.init (fun _ (d : CdieS) =>
    { d with rejoin := d.rejoin.filter fun r => decide (s.time.now < r) }) s.err.cdies }

/-- SADDLE (R78): once at each fabric time that is a multiple of 4,096 ticks, in the order of log 63. -/
def execSaddle (readings : List (Nat × Int)) (volt : BitVec 10) (curr : BitVec 10) (power : BitVec 12) (s : State) : Outcome State Fault Refusal :=
  if !s.boot.ptck ∨ s.time.now % 4096 ≠ 0 ∨ s.time.saddleAt = some s.time.now then .next s
  else
    let s := s.setTime { s.time with saddleAt := some s.time.now }
    let s := (List.range 64).foldl (fun s p => s.switchImage p) s
    let s := s.saddleUnits.rejoin.ageCache.saddleUpdates
    let s := s.startGdie
    let s := s.fixStep.takeSource.sendBeacons
    let s := (s.knownRings.filter s.recordDue).foldl (fun s r => s.writeRecord r) s
    let s := s.setReg .pwrIn 0 (BitVec.ofNat 32 (pack [(0, 10, volt.toNat), (10, 10, curr.toNat), (20, 12, power.toNat)]))
    .next (s.readings (fun k => k != .aging && k != .eye) readings)

end Sys2Proof.Machine
end

