-- ==== Sys2Proof/Machine/RegRead.lean ====
section
/-! DEFINITION. Reads of the setup registers (19; R563 to R567, with the RO fields of R57, R59, R347, R379, R413, R448, R450, R495, R521,
R537, R561). -/

namespace Sys2Proof.Machine

open Sys2Proof Host

def word (l : List (Nat × Nat × Nat)) : Word := BitVec.ofNat 32 (pack l)

/-- STATE of SYS_CDIE_STATE (R495). -/
def State.cdieState (s : State) (c : Nat) : Nat :=
  let d := s.cdie c
  if s.excluded c then 3 else if d.outOfService then 2 else if d.reset.isSome then 1 else 0

def PartSt.code : PartSt → Nat
  | .idle => 0
  | .serving => 1
  | .holding => 2
  | .held => 3
  | .resetting => 4

/-- SYS_SUSPECT of a partition (R495). -/
def State.suspectWord (s : State) (p : Nat) : Word :=
  let x := s.part p
  match x.suspects with
  | some z =>
    let ctx := if z.replay.isSome then (match z.next with | some c => c.ctx | none => 0) else 0
    word [(0, 2, if z.ready.isSome then 2 else 1), (2, 6, z.suspects.length), (8, 12, ctx)]
  | none =>
    match x.lastSet with
    | some (n, ctx, guilty) => word [(0, 2, 3), (2, 6, n), (8, 12, ctx), (20, 1, bnat guilty)]
    | none => 0

def LinkSt.code : LinkSt → Nat
  | .down => 0
  | .training => 1
  | .up => 2
  | .degraded => 3

/-- TIM_HOLD.BOUND, in ns: 0 outside HOLDOVER and LOST (R59). -/
def State.boundField (s : State) : Nat :=
  if s.time.state = .holdover ∨ s.time.state = .lost then min 0xFFFF (s.time.bound / 10 ^ 9) else 0

/-- ALT of SEC_BOOT_STATUS (R521). -/
def State.altField (s : State) : Nat := ((List.range 14).map fun i => if s.boot.altNow.contains (i + 1) then 2 ^ i else 0).foldl (· + ·) 0

/-- Value of a register as it reads, apart from the _HI registers that latch. -/
def State.readValue (s : State) (g : RG) (i : Nat) : Word :=
  let b := s.boot
  let tg := s.tg (s.fld .memTgSel 0 9 0)
  match g with
  | .sysResetStatus =>
    word [(0, 2, if s.err.devOut then 2 else bnat s.err.devReset.isSome), (2, 4, recentLog s.time.now day s.err.devLog), (16, 16, s.err.devCode)]
  | .sysCdieState => word [(0, 2, s.cdieState i), (2, 2, recentLog s.time.now hour (s.cdie i).log), (16, 16, (s.cdie i).lastCode)]
  | .sysPartStatus => word [(0, 3, (s.part i).st.code), (3, 1, bnat (s.part i).image.isSome), (4, 1, bnat (s.part i).pending.isSome)]
  | .sysPartOfs => BitVec.ofNat 32 (s.part i).delta
  | .sysSuspect => s.suspectWord i
  | .sysCoreOwn => s.reg g i ||| word [(7, 1, bnat (s.core i).clearing)]
  | .timStatus => word [(0, 3, s.time.state.code), (3, 3, s.time.timeDie), (6, 2, s.time.srcActive), (16, 16, offsetField s.time.offset)]
  | .timNowLo => BitVec.ofNat 32 s.time.now
  | .timNowHi => BitVec.ofNat 32 (s.time.now / 2 ^ 32)
  | .timHold => s.reg g i ||| word [(16, 16, s.boundField)]
  | .pwrClkStatus =>
    if s.pwr.rstLow then 0 else word [(0, 1, bnat s.time.tickOk), (1, 1, bnat s.time.trefOk), (2, 1, bnat s.time.ppsOk), (3, 1, bnat (s.port 0).refclk), (4, 1, bnat (s.port 1).refclk),
      (5, 1, bnat (s.port 2).refclk), (6, 1, bnat (s.port 3).refclk), (7, 1, bnat s.time.tickInt)]
  | .hqPortStatus => word [(0, 2, (s.port i).link.code), (2, 5, (s.port i).width), (7, 4, (s.port i).rate), (11, 1, bnat (s.port i).fenced)]
  | .hqRingStatus => word [(0, 3, (s.ring i).st.code), (16, 16, (s.ring i).err)]
  | .xltCtxE => word [(0, 8, (s.ctxGen i).gen), (8, 8, (s.ctxGen i).floor), (16, 1, bnat (s.ctxGen i).wdr)]
  | .memTgCtrl => tg.ctrl ||| word [(2, 1, bnat tg.busy)]
  | .memTgCfg => tg.cfg
  | .memTgLen => tg.len
  | .memTgInj => tg.inj
  | .memTgStatus => tg.status
  | .memTgErrs => tg.errs
  | .memTgFirst => tg.first
  | .memChOwn => s.reg g i ||| word [(7, 1, bnat (s.mem.clearing.contains i))]
  | .vstPortStatus =>
    let q := s.fport i
    word [(0, 2, q.link), (2, 1, bnat q.direct), (3, 16, q.partner), (19, 8, q.lanes)]
  | .hltRingStatus => BitVec.ofNat 32 s.hlt.written
  | .hltLost => BitVec.ofNat 32 s.hlt.lostAll
  | .hltHistData => s.histWord (s.fld .hltHistSel 0 5 0) (s.fld .hltHistSel 0 13 6) i
  | .secBootStatus => word [(0, 14, s.altField), (14, 1, bnat s.confirmed), (16, 16, b.lastCode)]
  | .secBootStart => BitVec.ofNat 32 b.start
  | .secBootCtrl => word [(0, 14, b.retry.toNat), (16, 1, bnat b.confirm)]
  | .secExclLo => BitVec.ofNat 32 b.excl.toNat
  | .secExclHi => BitVec.ofNat 32 (b.excl.toNat / 2 ^ 32)
  | .secLmsLo => BitVec.ofNat 32 s.lmsNext
  | .secLmsHi => BitVec.ofNat 32 (s.lmsNext / 2 ^ 32 % 256)
  | .secFw =>
    let x := s.dom i
    word [(0, 1, x.run), (1, 1, x.next), (2, 1, x.good), (3, 1, bnat x.pend), (4, 1, bnat x.a.valid), (5, 1, bnat x.b.valid)]
  | .secFwVer => if ((s.dom (i / 2)).slot (i % 2)).valid then s.version (i / 2) (i % 2) else 0
  | .sysStatus | .sysResetCtrl | .sysEvt | .sysEvtCfg | .sysOverrun | .sysOverrunLast | .sysRegerr | .sysPartCtrl | .sysGuilty | .timCtrl
  | .timPpsLoadLo | .timPpsLoadHi | .timEvent | .pwrIn | .pwrEvt | .hqPortCfg | .hqPortEvt | .hqSqBaseLo | .hqSqBaseHi | .hqCqBaseLo
  | .hqCqBaseHi | .hqRsrBaseLo | .hqRsrBaseHi | .hqRingCfg | .hqRingCtrl | .hqRingSeq | .hqRingEvt | .xltStatus | .xltSlq | .xltPwinA
  | .xltPwinB | .xltPwinC | .xltPwinD | .xltCtxA | .xltCtxB | .xltCtxC | .xltCtxD | .memStatus | .memTgSel | .memSway | .memRgnA | .memRgnB
  | .memRgnC | .memRgnD | .gthUpdStatus | .gthUpdCtrl | .gthUpdQuota | .gthRway | .gthUpdCap | .vstId | .vstCtrl | .vstMac | .vstFm | .vstTmo
  | .vstEvt | .vstPortCfg | .vstServeF | .vstServeG | .vstCxl | .hltRingBaseLo | .hltRingBaseHi | .hltRingCfg | .hltRingHead | .hltThr
  | .hltSweep | .hltHistSel | .hltEvt | .secEvt => s.reg g i

/-- Registers that S0 holds: HLT_, SEC_ and PWR_ (R564). -/
def isRoot (off : Nat) : Bool := isPwr off || decide (0xC00000 ≤ off)

/-- The _HI register that a read of an RO _LO register latches (R566). -/
def latchOf : RG → Option RG
  | .timNowLo => some .timNowHi
  | .secExclLo => some .secExclHi
  | .secLmsLo => some .secLmsHi
  | _ => none

/-- A _HI register that reads as its port's latch. -/
def isLatched : RG → Bool
  | .timNowHi | .secExclHi | .secLmsHi => true
  | _ => false

/-- A read through a port: its value, and the latch that it sets (R58, R563, R564, R566). -/
def State.readReg (s : State) (port off : Nat) : Word × State :=
  if off % 4 ≠ 0 then (0, s)
  else
    match regAt off with
    | none => (0, s)
    | some (g, i) =>
      if isRoot off && s.rootsGone then (0, s)
      else if isLatched g then (smGet 0 s.latches (2 ^ 24 * port + off), s)
      else
        match latchOf g with
        | some h => (s.readValue g i, (s.setLatches (smSet 0 s.latches (2 ^ 24 * port + h.off 0) (s.readValue h 0))))
        | none => (s.readValue g i, s)

/-- A read through a port, with its answer. -/
def State.answerRead (s : State) (port off : Nat) : State :=
  let (v, t) := s.readReg port off
  t.emit (.regRead port v)

/-- TIM_NOW_LO_READ (R58): fabric time, with its upper half in the port's latch. -/
def execTimNowLoRead (port : Fin 4) (s : State) : Outcome State Fault Refusal :=
  if s.reach port.val then .next (s.answerRead port.val (RG.off .timNowLo 0)) else .next s

/-- LO_READ_LATCH (R383, R502, R563, R566): a read of a register; one of an RO _LO register latches the matching _HI register for the port, and
a _HI register reads as latched. A read that is no aligned 32-bit access, and one of a doorbell page, returns 0. A configuration request is
answered with Request Retry Status until step 14 of the start has ended; what configuration space then holds is not in the spec (log 166). -/
def execLoReadLatch (port : Fin 4) (at_ : ReadAt) (s : State) : Outcome State Fault Refusal :=
  match at_ with
  | .bar0 offset size =>
    if !s.reach port.val then .next s
    else if size = 4 then .next (s.answerRead port.val offset.toNat)
    else .next (s.emit (.regRead port.val 0))
  | .bell _ => if s.reach port.val then .next (s.emit (.regRead port.val 0)) else .next s
  | .config => if !s.opened && s.boot.phase != .off && !(s.port port.val).cxl then .next (s.emit (.retry port.val)) else .next s

end Sys2Proof.Machine
end

