-- ==== Sys2Proof/Machine/RegWrite.lean ====
section
/-! DEFINITION. Writes of the setup registers (19; R563, R569, R570, R575 to R577, R581): each register's own rule, by its offset. -/

namespace Sys2Proof.Machine

open Sys2Proof Host

/-- Bits set in a word. -/
def popCount (w : Word) : Nat := ((List.range 32).filter fun i => wbit w i).length

/-- Clears that met sets are counted (R570, R575). -/
def State.overrun (s : State) (g : RG) (i : Nat) (hit : Word) : State :=
  if hit = 0 then s
  else
    let low := ((List.range 32).find? fun b => wbit hit b).getD 0
    let s := s.setReg .sysOverrun 0 (BitVec.ofNat 32 (satAdd (2 ^ 32 - 1) (s.reg .sysOverrun 0).toNat (popCount hit)))
    s.setReg .sysOverrunLast 0 (BitVec.ofNat 32 (g.off i + low * 2 ^ 24))

/-- A write of W1C bits, with the bits that hardware sets in the same cycle: a set wins, and sends what it sends (R575). -/
def State.clearEvents (s : State) (g : RG) (i : Nat) (w hwset : Word) : State :=
  let sets := hwset &&& g.row.w1c
  let s := (s.writeEvents g i w hwset).overrun g i (w &&& sets)
  if g = .sysEvt && sets != 0 && s.flag .sysEvtCfg 0 11 then s.msix (s.fld .sysEvtCfg 0 13 12) (s.fld .sysEvtCfg 0 10 0) else s

/-- A write of MEM_TG_STATUS of the selected generator (R339, R575). -/
def State.clearTg (s : State) (w hwset : Word) : State :=
  let ch := s.fld .memTgSel 0 9 0
  let m := RG.memTgStatus.row.w1c
  let t := s.tg ch
  (s.setTg ch { t with status := w1cNext t.status w hwset m &&& m }).overrun .memTgStatus 0 (w &&& hwset &&& m)

/-- A write of a register by its own rule. -/
def State.writeReg (s : State) (g : RG) (i : Nat) (w hwset : Word) : State :=
  let ch := s.fld .memTgSel 0 9 0
  match g with
  | .sysResetCtrl => s.writeResetCtrl w
  | .sysPartCtrl => s.writePartCtrl i w
  | .sysCoreOwn => s.writeCoreOwn i w
  | .timCtrl => s.writeTimCtrl w
  | .hqPortCfg => s.writePortCfg i w
  | .hqSqBaseLo | .hqSqBaseHi | .hqCqBaseLo | .hqCqBaseHi | .hqRsrBaseLo | .hqRsrBaseHi | .hqRingCfg => s.writeRingCfg g i w
  | .hqRingCtrl => s.writeRingCtrl i w
  | .hqRingSeq => s.writeRingSeq i w
  | .xltSlq => s.writeSlq i w
  | .xltPwinA => s.writePwinA i w
  | .xltPwinB | .xltPwinC | .xltPwinD => s.writePwin g i w
  | .xltCtxA => s.writeCtxA i w
  | .xltCtxB | .xltCtxC | .xltCtxD => s.writeCtx g i w
  | .memTgCtrl => s.writeTgCtrl w
  | .memTgCfg => s.setTg ch { s.tg ch with cfg := w }
  | .memTgLen => s.setTg ch { s.tg ch with len := w &&& 0xFFFFFF }
  | .memTgInj => s.setTg ch { s.tg ch with inj := w &&& 0x1FFFFF }
  | .memTgStatus => s.clearTg w hwset
  | .memSway | .gthRway => s.writeWays g (i / 4) (i % 4) w
  | .memRgnA | .memRgnB | .memRgnC => s.writeRgn g i w
  | .memRgnD => s.writeRgnD i w
  | .memChOwn => s.writeChOwn i w
  | .gthUpdCtrl => s.writeUpdCtrl i w
  | .gthUpdQuota => s.writeUpdQuota i w
  | .gthUpdCap => s.writeUpdCap (i / 256) (i % 256) w
  | .vstId => s.writeVstId w
  | .vstCtrl => s.writeVstCtrl w
  | .vstMac => s.writeVstMac w
  | .vstFm => s.writeVstFm w
  | .vstTmo => s.writeVstTmo w
  | .vstPortCfg => s.writeVstPortCfg i w
  | .vstServeF => s.writeServe false i w
  | .vstServeG => s.writeServe true i w
  | .vstCxl => s.writeVstCxl i w
  | .hltRingBaseLo | .hltRingBaseHi => s.writeHltBase g w
  | .hltRingCfg => s.writeHltCfg w
  | .secBootCtrl => s.writeBootCtrl w
  | .sysEvtCfg | .timPpsLoadLo | .timPpsLoadHi | .timHold | .memTgSel | .hltRingHead | .hltThr | .hltSweep | .hltHistSel => s.putRw g i w
  | .sysStatus | .sysEvt | .sysGuilty | .timEvent | .pwrEvt | .hqPortEvt | .hqRingEvt | .xltStatus | .memStatus | .gthUpdStatus | .vstEvt
  | .hltEvt | .secEvt => s.clearEvents g i w hwset
  | .sysResetStatus | .sysOverrun | .sysOverrunLast | .sysRegerr | .sysCdieState | .sysPartStatus | .sysPartOfs | .sysSuspect | .timStatus
  | .timNowLo | .timNowHi | .pwrIn | .pwrClkStatus | .hqPortStatus | .hqRingStatus | .xltCtxE | .memTgErrs | .memTgFirst | .vstPortStatus
  | .hltRingStatus | .hltLost | .hltHistData | .secBootStatus | .secBootStart | .secExclLo | .secExclHi | .secLmsLo | .secLmsHi | .secFw
  | .secFwVer => s

/-- A write that reaches the registers (R563, R564, R569): one that is not an aligned 32-bit access is CAUSE 1, an offset without a register
CAUSE 2, and HLT_, SEC_ and PWR_ registers that are gone CAUSE 4. -/
def State.write (s : State) (off size : Nat) (w hwset : Word) : State :=
  if size ≠ 4 ∨ off % 4 ≠ 0 then s.regErr off 1
  else
    match regAt off with
    | none => s.regErr off 2
    | some (g, i) => if isRoot off && s.rootsGone then s.regErr off 4 else s.writeReg g i w hwset

/-- REGISTER_WRITE (R563, R569, R575): `hwset` names the event bits of the register that hardware sets in the same cycle. -/
def execRegisterWrite (port : Fin 4) (offset : BitVec 24) (size : Nat) (w : Word) (hwset : Word) (s : State) : Outcome State Fault Refusal :=
  if s.reach port.val then .next (s.write offset.toNat size w hwset) else .next s

end Sys2Proof.Machine
end

