-- ==== Sys2Proof/Machine/Dispatch.lean ====
section
/-! DEFINITION. What each command does: one arm a constructor. -/

namespace Sys2Proof.Machine

open Sys2Proof

/-- The effect of a command on the block (its waiting commands apart). -/
def exec (i : Instr) (s : State) : Host.Outcome State Fault Refusal :=
  match i with
  | .fabricTick => Sys2Proof.Machine.execFabricTick s
  | .saddle readings volt curr power => Sys2Proof.Machine.execSaddle readings volt curr power s
  | .memorySlot => Sys2Proof.Machine.execMemorySlot s
  | .timeBeacon die own => Sys2Proof.Machine.execTimeBeacon die own s
  | .ppsEdge offset => Sys2Proof.Machine.execPpsEdge offset s
  | .ppsLost => Sys2Proof.Machine.execPpsLost s
  | .trefLost => Sys2Proof.Machine.execTrefLost s
  | .ptpSyncReceived port domain twoStep sec nsec offset => Sys2Proof.Machine.execPtpSyncReceived port domain twoStep sec nsec offset s
  | .ptpSyncSend => Sys2Proof.Machine.execPtpSyncSend s
  | .announceTimeout port => Sys2Proof.Machine.execAnnounceTimeout port s
  | .holdoverBoundExceeded => Sys2Proof.Machine.execHoldoverBoundExceeded s
  | .timeStep => Sys2Proof.Machine.execTimeStep s
  | .timeDieFailure => Sys2Proof.Machine.execTimeDieFailure s
  | .timSrcWrite port w => Sys2Proof.Machine.execTimSrcWrite port w s
  | .ppsArm port w => Sys2Proof.Machine.execPpsArm port w s
  | .timHoldRateWrite port w => Sys2Proof.Machine.execTimHoldRateWrite port w s
  | .timNowLoRead port => Sys2Proof.Machine.execTimNowLoRead port s
  | .loReadLatch port at_ => Sys2Proof.Machine.execLoReadLatch port at_ s
  | .sqTail port ring size stray value => Sys2Proof.Machine.execSqTail port ring size stray value s
  | .cqHead port ring size stray value => Sys2Proof.Machine.execCqHead port ring size stray value s
  | .doorbellStateReq port ring size stray value => Sys2Proof.Machine.execDoorbellStateReq port ring size stray value s
  | .descriptorFetchDone ring status slots => Sys2Proof.Machine.execDescriptorFetchDone ring status slots s
  | .forwardedDescriptor ring seq => Sys2Proof.Machine.execForwardedDescriptor ring seq s
  | .admissionDecision ring seq list => Sys2Proof.Machine.execAdmissionDecision ring seq list s
  | .admissionTimeout ring => Sys2Proof.Machine.execAdmissionTimeout ring s
  | .completionEntryIssue ring seq => Sys2Proof.Machine.execCompletionEntryIssue ring seq s
  | .deadlineWatch hdie => Sys2Proof.Machine.execDeadlineWatch hdie s
  | .flushReadDone ring seq port ok => Sys2Proof.Machine.execFlushReadDone ring seq port ok s
  | .msixWindowEnd ring => Sys2Proof.Machine.execMsixWindowEnd ring s
  | .ringEnArm port ring w => Sys2Proof.Machine.execRingEnArm port ring w s
  | .ringEnDisarm port ring w => Sys2Proof.Machine.execRingEnDisarm port ring w s
  | .ringStateReq port ring w => Sys2Proof.Machine.execRingStateReq port ring w s
  | .hqRingSeqWrite port ring w => Sys2Proof.Machine.execHqRingSeqWrite port ring w s
  | .slotStart part cls => Sys2Proof.Machine.execSlotStart part cls s
  | .stateSubmission ring seq => Sys2Proof.Machine.execStateSubmission ring seq s
  | .nopSubmission ring seq => Sys2Proof.Machine.execNopSubmission ring seq s
  | .imageLoad ring seq bad edges => Sys2Proof.Machine.execImageLoad ring seq bad edges s
  | .mapList ring seq list bad edges badEntry => Sys2Proof.Machine.execMapList ring seq list bad edges badEntry s
  | .withdrawCountReport ctx die => Sys2Proof.Machine.execWithdrawCountReport ctx die s
  | .withdrawTimeout ctx => Sys2Proof.Machine.execWithdrawTimeout ctx s
  | .floorAck ctx die => Sys2Proof.Machine.execFloorAck ctx die s
  | .hold ring seq => Sys2Proof.Machine.execHold ring seq s
  | .holdLatch part => Sys2Proof.Machine.execHoldLatch part s
  | .heldEntered part => Sys2Proof.Machine.execHeldEntered part s
  | .holdHostReadTimeout part => Sys2Proof.Machine.execHoldHostReadTimeout part s
  | .resume ring seq => Sys2Proof.Machine.execResume ring seq s
  | .resumeAtArrival part => Sys2Proof.Machine.execResumeAtArrival part s
  | .partitionReset ring seq => Sys2Proof.Machine.execPartitionReset ring seq s
  | .partitionResetFence part => Sys2Proof.Machine.execPartitionResetFence part s
  | .partitionClearEnd part => Sys2Proof.Machine.execPartitionClearEnd part s
  | .stop ring seq => Sys2Proof.Machine.execStop ring seq s
  | .repairWithdraw ring seq => Sys2Proof.Machine.execRepairWithdraw ring seq s
  | .repairReturn ring seq => Sys2Proof.Machine.execRepairReturn ring seq s
  | .confirmationSweepEnd core array faults => Sys2Proof.Machine.execConfirmationSweepEnd core array faults s
  | .wLoad r phase bad => Sys2Proof.Machine.execWLoad r phase bad s
  | .pass r phase faults bad => Sys2Proof.Machine.execPass r phase faults bad s
  | .veRun r phase bad => Sys2Proof.Machine.execVeRun r phase bad s
  | .ftqPop r phase bad => Sys2Proof.Machine.execFtqPop r phase bad s
  | .dmaRun r phase bad edges => Sys2Proof.Machine.execDmaRun r phase bad edges s
  | .accRead r phase bad => Sys2Proof.Machine.execAccRead r phase bad s
  | .nop r phase => Sys2Proof.Machine.execNop r phase s
  | .passVerdict core array phase bad => Sys2Proof.Machine.execPassVerdict core array phase bad s
  | .replayStart core phase faults bad => Sys2Proof.Machine.execReplayStart core phase faults bad s
  | .dmaDataReady r phase => Sys2Proof.Machine.execDmaDataReady r phase s
  | .slipLimit core engine phase => Sys2Proof.Machine.execSlipLimit core engine phase s
  | .stepEnd r phase => Sys2Proof.Machine.execStepEnd r phase s
  | .gatherStepStart r => Sys2Proof.Machine.execGatherStepStart r s
  | .gatherListArrived r bad edges => Sys2Proof.Machine.execGatherListArrived r bad edges s
  | .sortEnd r cache => Sys2Proof.Machine.execSortEnd r cache s
  | .rowFetchReply r key upset edges => Sys2Proof.Machine.execRowFetchReply r key upset edges s
  | .gatherOutputsWritten r bad edges => Sys2Proof.Machine.execGatherOutputsWritten r bad edges s
  | .remoteCutoff r bad edges => Sys2Proof.Machine.execRemoteCutoff r bad edges s
  | .gstepTimeout r bad edges => Sys2Proof.Machine.execGstepTimeout r bad edges s
  | .fabricSendStep r bad edges => Sys2Proof.Machine.execFabricSendStep r bad edges s
  | .hostTransferStep r bad edges => Sys2Proof.Machine.execHostTransferStep r bad edges s
  | .updateBatchReadDone ring seq data bad edges => Sys2Proof.Machine.execUpdateBatchReadDone ring seq data bad edges s
  | .updateRecordArrival gdie u edges => Sys2Proof.Machine.execUpdateRecordArrival gdie u edges s
  | .updateClose gdie => Sys2Proof.Machine.execUpdateClose gdie s
  | .rowCommit gdie upset staged edges back => Sys2Proof.Machine.execRowCommit gdie upset staged edges back s
  | .updateReportSend gdie src serial => Sys2Proof.Machine.execUpdateReportSend gdie src serial s
  | .updateReportArrival serial dev gdie edges => Sys2Proof.Machine.execUpdateReportArrival serial dev gdie edges s
  | .updateReportTimeout serial dev gdie records edges => Sys2Proof.Machine.execUpdateReportTimeout serial dev gdie records edges s
  | .memRead q upset edges => Sys2Proof.Machine.execMemRead q upset edges s
  | .memWrite q mask data upset edges => Sys2Proof.Machine.execMemWrite q mask data upset edges s
  | .memAtomic q aop wide opa opb upset edges => Sys2Proof.Machine.execMemAtomic q aop wide opa opb upset edges s
  | .eccCorrectedRewrite pc line => Sys2Proof.Machine.execEccCorrectedRewrite pc line s
  | .patrolScrub pc line upset ecs => Sys2Proof.Machine.execPatrolScrub pc line upset ecs s
  | .transposeBlockTimeout cdie block => Sys2Proof.Machine.execTransposeBlockTimeout cdie block s
  | .regionEnable port n w => Sys2Proof.Machine.execRegionEnable port n w s
  | .regionRelease port n w => Sys2Proof.Machine.execRegionRelease port n w s
  | .rowlockWrite port n w => Sys2Proof.Machine.execRowlockWrite port n w s
  | .channelAssign port ch w => Sys2Proof.Machine.execChannelAssign port ch w s
  | .channelRelease port ch w => Sys2Proof.Machine.execChannelRelease port ch w s
  | .channelClearDone ch => Sys2Proof.Machine.execChannelClearDone ch s
  | .swayAssign port cdie q w => Sys2Proof.Machine.execSwayAssign port cdie q w s
  | .swayRelease port cdie q w => Sys2Proof.Machine.execSwayRelease port cdie q w s
  | .wayClearDone cdie way => Sys2Proof.Machine.execWayClearDone cdie way s
  | .rwayAssign port gdie q w => Sys2Proof.Machine.execRwayAssign port gdie q w s
  | .rwayRelease port gdie q w => Sys2Proof.Machine.execRwayRelease port gdie q w s
  | .tgStart port w => Sys2Proof.Machine.execTgStart port w s
  | .tgStop port w => Sys2Proof.Machine.execTgStop port w s
  | .tgRunEnd ch upset => Sys2Proof.Machine.execTgRunEnd ch upset s
  | .contextEnable port ctx w => Sys2Proof.Machine.execContextEnable port ctx w s
  | .contextDisable port ctx w => Sys2Proof.Machine.execContextDisable port ctx w s
  | .xltSlqWrite port part w => Sys2Proof.Machine.execXltSlqWrite port part w s
  | .pwinEnable port n w => Sys2Proof.Machine.execPwinEnable port n w s
  | .pwinDisable port n w => Sys2Proof.Machine.execPwinDisable port n w s
  | .linkDown port => Sys2Proof.Machine.execLinkDown port s
  | .hostReset port perst => Sys2Proof.Machine.execHostReset port perst s
  | .flr port => Sys2Proof.Machine.execFlr port s
  | .linkUp port width rate => Sys2Proof.Machine.execLinkUp port width rate s
  | .retrain port => Sys2Proof.Machine.execRetrain port s
  | .hostLinkGiveup port => Sys2Proof.Machine.execHostLinkGiveup port s
  | .hostReadCompletion port id status data edges => Sys2Proof.Machine.execHostReadCompletion port id status data edges s
  | .portModeWrite port n w => Sys2Proof.Machine.execPortModeWrite port n w s
  | .write port f edges => Sys2Proof.Machine.execWrite port f edges s
  | .read port f bad edges => Sys2Proof.Machine.execRead port f bad edges s
  | .rowRead port f upset edges => Sys2Proof.Machine.execRowRead port f upset edges s
  | .atomic port f bad edges => Sys2Proof.Machine.execAtomic port f bad edges s
  | .updRec port f => Sys2Proof.Machine.execUpdRec port f s
  | .updRpt port f => Sys2Proof.Machine.execUpdRpt port f s
  | .rsp port f edges => Sys2Proof.Machine.execRsp port f edges s
  | .ack port f => Sys2Proof.Machine.execAck port f s
  | .helloConnect port f => Sys2Proof.Machine.execHelloConnect port f s
  | .helloLink port f => Sys2Proof.Machine.execHelloLink port f s
  | .peerDown port f => Sys2Proof.Machine.execPeerDown port f s
  | .peerUp port f => Sys2Proof.Machine.execPeerUp port f s
  | .peerTime port f => Sys2Proof.Machine.execPeerTime port f s
  | .ackTimer port peer => Sys2Proof.Machine.execAckTimer port peer s
  | .retransmit port peer => Sys2Proof.Machine.execRetransmit port peer s
  | .helloResend port peer => Sys2Proof.Machine.execHelloResend port peer s
  | .peerTimeout port peer => Sys2Proof.Machine.execPeerTimeout port peer s
  | .connectionIdle port peer => Sys2Proof.Machine.execConnectionIdle port peer s
  | .remoteBound id => Sys2Proof.Machine.execRemoteBound id s
  | .portDown port => Sys2Proof.Machine.execPortDown port s
  | .portUp port => Sys2Proof.Machine.execPortUp port s
  | .laneRepair port upper => Sys2Proof.Machine.execLaneRepair port upper s
  | .vstIdWrite port w => Sys2Proof.Machine.execVstIdWrite port w s
  | .vstMacWrite port w => Sys2Proof.Machine.execVstMacWrite port w s
  | .cxlMemberEnable port n w => Sys2Proof.Machine.execCxlMemberEnable port n w s
  | .serveBudgetWrite port gdie n w => Sys2Proof.Machine.execServeBudgetWrite port gdie n w s
  | .crossingTimeout place => Sys2Proof.Machine.execCrossingTimeout place s
  | .unitStateError die unit ctx => Sys2Proof.Machine.execUnitStateError die unit ctx s
  | .drainEnd scope => Sys2Proof.Machine.execDrainEnd scope s
  | .drainOverrun scope => Sys2Proof.Machine.execDrainOverrun scope s
  | .cdieClearEnd cdie => Sys2Proof.Machine.execCdieClearEnd cdie s
  | .deviceClearEnd => Sys2Proof.Machine.execDeviceClearEnd s
  | .sysDevReset port w => Sys2Proof.Machine.execSysDevReset port w s
  | .sysDevEnable port w => Sys2Proof.Machine.execSysDevEnable port w s
  | .cdieReset port w => Sys2Proof.Machine.execCdieReset port w s
  | .cdieEnable port w => Sys2Proof.Machine.execCdieEnable port w s
  | .suspectReplayStart part => Sys2Proof.Machine.execSuspectReplayStart part s
  | .suspectReplayEnd part e => Sys2Proof.Machine.execSuspectReplayEnd part e s
  | .suspectReplayGiveup part => Sys2Proof.Machine.execSuspectReplayGiveup part s
  | .partEnable port part w => Sys2Proof.Machine.execPartEnable port part w s
  | .partDisable port part w => Sys2Proof.Machine.execPartDisable port part w s
  | .coreAssign port core w => Sys2Proof.Machine.execCoreAssign port core w s
  | .coreRelease port core w => Sys2Proof.Machine.execCoreRelease port core w s
  | .coreClearDone core => Sys2Proof.Machine.execCoreClearDone core s
  | .gthUpdCtrlWrite port part w => Sys2Proof.Machine.execGthUpdCtrlWrite port part w s
  | .gthUpdQuotaWrite port part w => Sys2Proof.Machine.execGthUpdQuotaWrite port part w s
  | .gthUpdCapWrite port gdie entry w => Sys2Proof.Machine.execGthUpdCapWrite port gdie entry w s
  | .registerWrite port offset size w hwset => Sys2Proof.Machine.execRegisterWrite port offset size w hwset s
  | .bootStepEnd r => Sys2Proof.Machine.execBootStepEnd r s
  | .bootStepTimeout r => Sys2Proof.Machine.execBootStepTimeout r s
  | .retry port w => Sys2Proof.Machine.execRetry port w s
  | .confirm port w => Sys2Proof.Machine.execConfirm port w s
  | .goodRecordTimer => Sys2Proof.Machine.execGoodRecordTimer s
  | .queryDeviceIdentifiers via => Sys2Proof.Machine.execQueryDeviceIdentifiers via s
  | .getFirmwareParameters via => Sys2Proof.Machine.execGetFirmwareParameters via s
  | .requestUpdate via => Sys2Proof.Machine.execRequestUpdate via s
  | .passComponentTable via comps => Sys2Proof.Machine.execPassComponentTable via comps s
  | .updateComponent via cls ident version size => Sys2Proof.Machine.execUpdateComponent via cls ident version size s
  | .firmwareDataReceived via data misread => Sys2Proof.Machine.execFirmwareDataReceived via data misread s
  | .activateFirmware via => Sys2Proof.Machine.execActivateFirmware via s
  | .getStatus via => Sys2Proof.Machine.execGetStatus via s
  | .cancelUpdateComponent via => Sys2Proof.Machine.execCancelUpdateComponent via s
  | .cancelUpdate via => Sys2Proof.Machine.execCancelUpdate via s
  | .activationTimeout => Sys2Proof.Machine.execActivationTimeout s
  | .activationAbandon => Sys2Proof.Machine.execActivationAbandon s
  | .getVersion via => Sys2Proof.Machine.execGetVersion via s
  | .getCapabilities via => Sys2Proof.Machine.execGetCapabilities via s
  | .negotiateAlgorithms via => Sys2Proof.Machine.execNegotiateAlgorithms via s
  | .getDigests via => Sys2Proof.Machine.execGetDigests via s
  | .getCertificate via offset length => Sys2Proof.Machine.execGetCertificate via offset length s
  | .challenge via nonce sign => Sys2Proof.Machine.execChallenge via nonce sign s
  | .getMeasurements via index signed nonce sign => Sys2Proof.Machine.execGetMeasurements via index signed nonce sign s
  | .sweepPassStart core array bf16 phase faults => Sys2Proof.Machine.execSweepPassStart core array bf16 phase faults s
  | .sweepVerdict core array phase => Sys2Proof.Machine.execSweepVerdict core array phase s
  | .counterWriteback => Sys2Proof.Machine.execCounterWriteback s
  | .eyeSample samples => Sys2Proof.Machine.execEyeSample samples s
  | .agingSample readings => Sys2Proof.Machine.execAgingSample readings s
  | .sweepSummary => Sys2Proof.Machine.execSweepSummary s
  | .hltRingArm port w => Sys2Proof.Machine.execHltRingArm port w s
  | .hltRingHeadWrite port w => Sys2Proof.Machine.execHltRingHeadWrite port w s
  | .getPdr via record => Sys2Proof.Machine.execGetPdr via record s
  | .getSensorReading via sensor => Sys2Proof.Machine.execGetSensorReading via sensor s
  | .getStateSensorReadings via sensor => Sys2Proof.Machine.execGetStateSensorReadings via sensor s
  | .setEventReceiver via receiver => Sys2Proof.Machine.execSetEventReceiver via receiver s
  | .pollForPlatformEventMessage via => Sys2Proof.Machine.execPollForPlatformEventMessage via s
  | .modPwrEnAssert => Sys2Proof.Machine.execModPwrEnAssert s
  | .modPwrGood => Sys2Proof.Machine.execModPwrGood s
  | .powerUpTimeout => Sys2Proof.Machine.execPowerUpTimeout s
  | .modPwrEnDeassert torn => Sys2Proof.Machine.execModPwrEnDeassert torn s
  | .modRstNDeassert => Sys2Proof.Machine.execModRstNDeassert s
  | .modRstNAssert => Sys2Proof.Machine.execModRstNAssert s
  | .powerFailure torn => Sys2Proof.Machine.execPowerFailure torn s
  | .uv => Sys2Proof.Machine.execUv s
  | .ov => Sys2Proof.Machine.execOv s
  | .overpower => Sys2Proof.Machine.execOverpower s
  | .thermalTrip => Sys2Proof.Machine.execThermalTrip s
  | .thermtripTimeout torn => Sys2Proof.Machine.execThermtripTimeout torn s
  | .tickLost => Sys2Proof.Machine.execTickLost s
  | .tickReturn => Sys2Proof.Machine.execTickReturn s
  | .refclkLost port => Sys2Proof.Machine.execRefclkLost port s
  | .standby => Sys2Proof.Machine.execStandby s
  | .restart => Sys2Proof.Machine.execRestart s
  | .devReset => Sys2Proof.Machine.execDevReset s
  | .devEnable => Sys2Proof.Machine.execDevEnable s
  | .getState => Sys2Proof.Machine.execGetState s
  | .ppsLoad value => Sys2Proof.Machine.execPpsLoad value s
  | .holdPointTimeout part core => Sys2Proof.Machine.execHoldPointTimeout part core s
  | .drainHostReadTimeout scope => Sys2Proof.Machine.execDrainHostReadTimeout scope s
  | .remoteWindowClose r => Sys2Proof.Machine.execRemoteWindowClose r s
  | .cxlMemCompletion hdie id error data edges => Sys2Proof.Machine.execCxlMemCompletion hdie id error data edges s
  | .activationDone sign => Sys2Proof.Machine.execActivationDone sign s
  | .firmwareUpdateTimeout => Sys2Proof.Machine.execFirmwareUpdateTimeout s
  | .announceReceived port domain ds => Sys2Proof.Machine.execAnnounceReceived port domain ds s
  | .followUpReceived port domain sec nsec offset => Sys2Proof.Machine.execFollowUpReceived port domain sec nsec offset s
  | .announceSend => Sys2Proof.Machine.execAnnounceSend s
  | .trefPresent => Sys2Proof.Machine.execTrefPresent s
  | .refclkReturn port => Sys2Proof.Machine.execRefclkReturn port s
  | .perstNDeassert port => Sys2Proof.Machine.execPerstNDeassert port s
  | .fmFrameRefused port f => Sys2Proof.Machine.execFmFrameRefused port f s
  | .frameDropped port cause => Sys2Proof.Machine.execFrameDropped port cause s
  | .malformedSpdmRequest via unsupported => Sys2Proof.Machine.execMalformedSpdmRequest via unsupported s
  | .malformedCommand command => Sys2Proof.Machine.execMalformedCommand command s
  | .bottomLevelTreeBuilt => Sys2Proof.Machine.execBottomLevelTreeBuilt s

end Sys2Proof.Machine
end

