-- ==== Sys2Proof/Safety.lean ====
section
/-! DEFINITION. What the statements say of a run: which part of the state a command may change, what has left the
block, and the canonical form of every sparse store. -/

namespace Sys2Proof.Machine

open Sys2Proof

/-! ## Frames -/

/-- A part of the state: one for each of its fields. -/
inductive Piece where
  | regs | latches | locks | time | parts | rings | ports | subs | slots | reads | nextId | arrays | cores | engines | books
  | xfers | gsteps | usteps | upd | mem | xlt | fab | err | boot | hlt | pwr | notes | out | free | pending
  deriving DecidableEq, Repr

/-- Place of a part in a set of parts. -/
def Piece.bit (p : Piece) : Nat :=
  match p with
  | .regs => 0
  | .latches => 1
  | .locks => 2
  | .time => 3
  | .parts => 4
  | .rings => 5
  | .ports => 6
  | .subs => 7
  | .slots => 8
  | .reads => 9
  | .nextId => 10
  | .arrays => 11
  | .cores => 12
  | .engines => 13
  | .books => 14
  | .xfers => 15
  | .gsteps => 16
  | .usteps => 17
  | .upd => 18
  | .mem => 19
  | .xlt => 20
  | .fab => 21
  | .err => 22
  | .boot => 23
  | .hlt => 24
  | .pwr => 25
  | .notes => 26
  | .out => 27
  | .free => 28
  | .pending => 29

/-- The part of one state is that of the other. -/
def Piece.same (p : Piece) (b s : State) : Prop :=
  match p with
  | .regs => s.regs = b.regs
  | .latches => s.latches = b.latches
  | .locks => s.locks = b.locks
  | .time => s.time = b.time
  | .parts => s.parts = b.parts
  | .rings => s.rings = b.rings
  | .ports => s.ports = b.ports
  | .subs => s.subs = b.subs
  | .slots => s.slots = b.slots
  | .reads => s.reads = b.reads
  | .nextId => s.nextId = b.nextId
  | .arrays => s.arrays = b.arrays
  | .cores => s.cores = b.cores
  | .engines => s.engines = b.engines
  | .books => s.books = b.books
  | .xfers => s.xfers = b.xfers
  | .gsteps => s.gsteps = b.gsteps
  | .usteps => s.usteps = b.usteps
  | .upd => s.upd = b.upd
  | .mem => s.mem = b.mem
  | .xlt => s.xlt = b.xlt
  | .fab => s.fab = b.fab
  | .err => s.err = b.err
  | .boot => s.boot = b.boot
  | .hlt => s.hlt = b.hlt
  | .pwr => s.pwr = b.pwr
  | .notes => s.notes = b.notes
  | .out => s.out = b.out
  | .free => s.free = b.free
  | .pending => s.pending = b.pending

/-- A list of parts as a set: bit `p.bit` is 1 where the list names `p`. -/
def pieces (l : List Piece) : Nat := l.foldr (fun p m => Nat.lor (2 ^ p.bit) m) 0

/-- Every part outside the set is the same in both states. -/
def Within (m : Nat) (b s : State) : Prop := ∀ p : Piece, m.testBit p.bit = false → p.same b s

/-! ## Canonical forms -/

/-- The byte stores of the block hold their one canonical form. -/
def MemS.wf (m : MemS) : Bool := Memory.wf m.hbm && Memory.wf m.opsram && Memory.wf m.tile && Memory.wf m.accum && Memory.wf m.shared

/-- What the poison mark of granule `g` of the operand SRAM reads as where it is not listed. -/
def MemS.opCold (m : MemS) (g : Nat) : Bool := smGet true m.opFill (16 * g / 2 ^ 25)

/-- What the poison mark of granule `g` of die-shared SRAM reads as where it is not listed. -/
def MemS.shCold (m : MemS) (g : Nat) : Bool := smGet false m.shFill (16 * g / 2 ^ 21)

/-- The byte stores, their poison marks, tags and generators hold their canonical form. -/
structure MemS.Canonical (m : MemS) : Prop where
  bytes : m.wf = true
  hbm : smWf (fun _ => false) m.hbmPoison = true
  ops : smWf m.opCold m.opPoison = true
  fill : smWf (fun _ => true) m.opFill = true
  tile : smWf (fun _ => true) m.tilePoison = true
  acc : smWf (fun _ => true) m.accPoison = true
  shared : smWf m.shCold m.shPoison = true
  ways : smWf (fun _ => false) m.shFill = true
  tags : smWf (fun _ => 4) m.tags = true
  tg : smWf (fun _ => TgS.init) m.tg = true

/-- Fabric time is a count of 64 bits (R34), and every store whose default is one value for all keys is in canonical form, so
that equal stores are equal data. -/
structure State.Canonical (s : State) : Prop where
  mem : s.mem.Canonical
  now : s.time.now < 2 ^ 64
  beacons : smWf (fun _ => 0) s.time.beacons = true
  latches : smWf (fun _ => 0) s.latches = true
  parts : smWf (fun _ => PartS.init) s.parts = true
  rings : smWf (fun _ => RingS.init) s.rings = true
  ports : smWf (fun _ => PortS.init) s.ports = true
  arrays : smWf (fun _ => ArrayS.init) s.arrays = true
  cores : smWf (fun _ => CoreS.init) s.cores = true
  engines : smWf (fun _ => EngS.init) s.engines = true
  books : smWf (fun _ => Codebook.init) s.books = true
  gens : smWf (fun _ => CtxGen.init) s.xlt.gens = true
  fports : smWf (fun _ => FPort.init) s.fab.ports = true
  cdies : smWf (fun _ => CdieS.init) s.err.cdies = true
  doms : smWf (fun _ => FwDom.init) s.boot.doms = true
  boot : smWf (fun _ => MramS.init) s.boot.mram = true
  roots : smWf (fun _ => MCopy.init RootRec.init) s.err.roots = true
  units : smWf (fun _ => UnitRec.init) s.hlt.units = true
  mram : smWf (fun _ => noCopy) s.hlt.mram = true
  sensors : smWf (fun _ => Sensor.init) s.hlt.sensors = true

/-! ## What every command keeps -/

/-- From `b` to `s` only the parts of the set `m` changed, what has been sent stays sent, free values are drawn in order, and
canonical forms are kept. -/
structure Kept (m : Nat) (b s : State) : Prop where
  within : Within m b s
  out : b.out <:+ s.out
  free : b.free ≤ s.free
  canon : b.Canonical → s.Canonical

end Sys2Proof.Machine
end

