-- ==== Sys2Proof/Machine/Frames.lean ====
section
/-! DEFINITION. Which parts of the state each command may change. -/

namespace Sys2Proof.Machine

open Sys2Proof

/-- What recording a fault may change: the faults and histories of units, what they bring about, and telemetry (R468, R527 to R530). -/
def raised : List Piece := [.arrays, .boot, .cores, .err, .fab, .hlt, .out, .parts, .regs]

/-- What charging a submission may change besides (R119, R470). -/
def charged : List Piece := raised ++ [.engines, .subs, .xfers]

/-- What the end of a submission may change besides: the reads that make its writes visible (R395). -/
def finished : List Piece := charged ++ [.nextId, .reads]

/-- What the end of steps and transfers may change besides. -/
def unwound : List Piece := finished ++ [.gsteps, .mem, .usteps]

/-- What loses its content with the power or at a start: all but what has been sent and the free values drawn (R544). -/
def erased : List Piece := [.regs, .latches, .locks, .time, .parts, .rings, .ports, .subs, .slots, .reads, .nextId, .arrays, .cores, .engines, .books, .xfers, .gsteps, .usteps, .upd, .mem, .xlt, .fab, .err, .boot, .hlt, .pwr, .notes]

/-- The parts of the state that a command may change. No command changes the queue: `step` alone takes from it. -/
def touches (i : Instr) : List Piece :=
  match i with
  | .fabricTick =>
    charged ++ [.time, .ports, .nextId, .gsteps, .mem]
  | .saddle _ _ _ _ =>
    finished ++ [.time, .rings, .ports, .slots, .upd, .mem]
  | .memorySlot | .replayStart _ _ _ _ | .memRead _ _ _ | .memWrite _ _ _ _ _ | .memAtomic _ _ _ _ _ _ _ | .patrolScrub _ _ _ _
  | .transposeBlockTimeout _ _ | .drainEnd _ =>
    raised ++ [.ports, .mem]
  | .timeBeacon _ _ =>
    raised ++ [.time, .ports]
  | .ppsEdge _ | .ppsLost | .trefLost | .ptpSyncReceived _ _ _ _ _ _ | .announceTimeout _ | .holdoverBoundExceeded | .timeStep | .tickReturn
  | .announceReceived _ _ _ | .followUpReceived _ _ _ _ _ | .trefPresent =>
    charged ++ [.time, .rings, .ports, .slots, .reads, .mem]
  | .ptpSyncSend | .announceSend =>
    [.time, .out]
  | .timeDieFailure | .timSrcWrite _ _ | .ppsArm _ _ | .tickLost | .ppsLoad _ =>
    charged ++ [.time, .ports]
  | .timHoldRateWrite _ _ | .hqRingSeqWrite _ _ _ | .regionEnable _ _ _ | .regionRelease _ _ _ | .rowlockWrite _ _ _ | .xltSlqWrite _ _ _
  | .pwinEnable _ _ _ | .pwinDisable _ _ _ | .retrain _ | .vstMacWrite _ _ | .cxlMemberEnable _ _ _ | .serveBudgetWrite _ _ _ _
  | .gthUpdCtrlWrite _ _ _ | .gthUpdQuotaWrite _ _ _ | .gthUpdCapWrite _ _ _ _ | .hltRingHeadWrite _ _ | .uv | .ov | .overpower =>
    [.regs]
  | .timNowLoRead _ | .loReadLatch _ _ =>
    [.latches, .out]
  | .sqTail _ _ _ _ _ | .cqHead _ _ _ _ _ =>
    raised ++ [.rings, .ports]
  | .doorbellStateReq _ _ _ _ _ | .eyeSample _ | .agingSample _ =>
    [.regs, .ports, .hlt, .out]
  | .descriptorFetchDone _ _ _ | .admissionTimeout _ =>
    raised ++ [.rings, .ports, .subs]
  | .forwardedDescriptor _ _ =>
    [.subs]
  | .admissionDecision _ _ _ =>
    finished ++ [.ports, .slots, .upd, .mem]
  | .completionEntryIssue _ _ =>
    charged ++ [.rings, .ports]
  | .deadlineWatch _ | .slipLimit _ _ _ =>
    charged ++ [.ports]
  | .flushReadDone _ _ _ _ =>
    charged ++ [.ports, .reads]
  | .msixWindowEnd _ =>
    [.rings, .ports]
  | .ringEnArm _ _ _ | .ringEnDisarm _ _ _ | .ringStateReq _ _ _ =>
    [.regs, .rings, .ports, .subs, .err, .out]
  | .slotStart _ _ | .stateSubmission _ _ | .nopSubmission _ _ | .heldEntered _ | .stop _ _ | .repairWithdraw _ _ | .confirmationSweepEnd _ _ _ =>
    finished ++ [.ports]
  | .imageLoad _ _ _ _ =>
    finished ++ [.ports, .mem]
  | .mapList _ _ _ _ _ _ | .floorAck _ _ =>
    finished ++ [.ports, .mem, .xlt]
  | .withdrawCountReport _ _ =>
    [.xlt]
  | .withdrawTimeout _ =>
    charged ++ [.ports, .xlt]
  | .hold _ _ | .holdLatch _ | .partitionReset _ _ =>
    [.parts, .subs]
  | .holdHostReadTimeout _ | .hostReadCompletion _ _ _ _ _ | .cxlMemCompletion _ _ _ _ _ =>
    unwound ++ [.ports, .upd]
  | .resume _ _ =>
    finished ++ [.ports, .slots, .gsteps]
  | .resumeAtArrival _ =>
    charged ++ [.ports, .slots, .gsteps]
  | .partitionResetFence _ | .gatherListArrived _ _ _ =>
    charged ++ [.ports, .gsteps, .mem]
  | .partitionClearEnd _ =>
    finished ++ [.ports, .books, .gsteps, .upd, .mem]
  | .repairReturn _ _ =>
    [.subs, .arrays]
  | .wLoad _ _ _ | .pass _ _ _ _ | .veRun _ _ _ | .ftqPop _ _ _ | .accRead _ _ _ | .passVerdict _ _ _ _ =>
    charged ++ [.ports, .mem, .notes]
  | .dmaRun _ _ _ _ =>
    finished ++ [.ports, .books, .mem, .notes]
  | .nop _ _ =>
    [.arrays, .engines, .notes]
  | .dmaDataReady _ _ =>
    charged ++ [.ports, .books, .mem, .notes]
  | .stepEnd _ _ =>
    finished ++ [.ports, .notes]
  | .gatherStepStart _ =>
    finished ++ [.ports, .gsteps]
  | .sortEnd _ _ | .remoteWindowClose _ =>
    charged ++ [.ports, .gsteps]
  | .rowFetchReply _ _ _ _ =>
    raised ++ [.ports, .gsteps, .mem]
  | .gatherOutputsWritten _ _ _ | .remoteCutoff _ _ _ | .gstepTimeout _ _ _ =>
    finished ++ [.ports, .gsteps, .mem]
  | .fabricSendStep _ _ _ | .hostTransferStep _ _ _ =>
    finished ++ [.ports, .usteps, .mem]
  | .updateBatchReadDone _ _ _ _ _ | .updateReportArrival _ _ _ _ | .updateReportTimeout _ _ _ _ _ =>
    finished ++ [.ports, .upd, .mem]
  | .updateRecordArrival _ _ _ | .updateReportSend _ _ _ | .updRec _ _ | .updRpt _ _ =>
    raised ++ [.ports, .upd]
  | .updateClose _ =>
    [.upd]
  | .rowCommit _ _ _ _ _ =>
    raised ++ [.ports, .nextId, .upd, .mem, .free]
  | .eccCorrectedRewrite _ _ | .channelClearDone _ | .wayClearDone _ _ | .tgStart _ _ | .tgStop _ _ =>
    [.mem]
  | .channelAssign _ _ _ | .channelRelease _ _ _ | .swayAssign _ _ _ _ | .swayRelease _ _ _ _ | .rwayAssign _ _ _ _ | .rwayRelease _ _ _ _ =>
    [.regs, .mem]
  | .tgRunEnd _ _ =>
    raised ++ [.ports, .mem, .free]
  | .contextEnable _ _ _ | .contextDisable _ _ _ =>
    [.regs, .mem, .xlt]
  | .linkDown _ | .hostReset _ _ | .flr _ | .crossingTimeout _ | .refclkLost _ =>
    unwound ++ [.rings, .ports, .upd]
  | .linkUp _ _ _ =>
    [.regs, .ports]
  | .hostLinkGiveup _ | .unitStateError _ _ _ | .drainOverrun _ | .sysDevReset _ _ | .sysDevEnable _ _ | .cdieReset _ _ | .cdieEnable _ _
  | .suspectReplayEnd _ _ | .devReset =>
    charged ++ [.ports, .gsteps, .upd, .mem]
  | .portModeWrite _ _ _ =>
    unwound ++ [.locks, .rings, .ports, .upd]
  | .write _ _ _ | .read _ _ _ _ | .rowRead _ _ _ _ | .atomic _ _ _ _ | .rsp _ _ _ | .helloConnect _ _ | .peerDown _ _ | .peerUp _ _ | .peerTime _ _
  | .peerTimeout _ _ | .connectionIdle _ _ | .remoteBound _ | .portDown _ | .fmFrameRefused _ _ =>
    unwound ++ [.ports]
  | .ack _ _ | .portUp _ =>
    [.fab, .hlt, .out]
  | .helloLink _ _ =>
    [.fab]
  | .ackTimer _ _ | .retransmit _ _ | .helloResend _ _ =>
    [.fab, .out]
  | .laneRepair _ _ | .suspectReplayGiveup _ | .firmwareDataReceived _ _ _ | .getVersion _ | .getCapabilities _ | .negotiateAlgorithms _
  | .getDigests _ | .getCertificate _ _ _ | .challenge _ _ _ | .getMeasurements _ _ _ _ _ | .sweepVerdict _ _ _ | .malformedSpdmRequest _ _ =>
    raised ++ [.ports]
  | .vstIdWrite _ _ =>
    [.regs, .locks]
  | .cdieClearEnd _ =>
    [.regs, .parts, .ports, .arrays, .cores, .engines, .books, .mem, .fab, .err, .hlt, .out]
  | .deviceClearEnd =>
    unwound ++ [.time, .ports, .books, .upd]
  | .suspectReplayStart _ =>
    raised ++ [.ports, .subs, .slots]
  | .partEnable _ _ _ | .partDisable _ _ _ =>
    [.regs, .parts]
  | .coreAssign _ _ _ | .coreRelease _ _ _ =>
    [.regs, .cores]
  | .coreClearDone _ =>
    [.arrays, .cores, .engines, .books, .mem]
  | .registerWrite _ _ _ _ _ =>
    unwound ++ [.locks, .time, .rings, .ports, .upd, .xlt]
  | .bootStepEnd _ | .bootStepTimeout _ | .restart =>
    erased ++ [.out]
  | .retry _ _ | .confirm _ _ =>
    [.regs, .err, .boot]
  | .goodRecordTimer =>
    [.err, .boot]
  | .queryDeviceIdentifiers _ | .getFirmwareParameters _ | .getStatus _ | .getPdr _ _ | .getSensorReading _ _ | .getStateSensorReadings _ _
  | .getState | .malformedCommand _ =>
    [.out]
  | .requestUpdate _ | .passComponentTable _ _ | .updateComponent _ _ _ _ _ | .cancelUpdateComponent _ | .cancelUpdate _ =>
    [.boot, .out]
  | .activateFirmware _ =>
    unwound ++ [.time, .ports]
  | .activationTimeout | .activationAbandon | .activationDone _ =>
    unwound ++ [.time, .ports, .upd]
  | .sweepPassStart _ _ _ _ _ =>
    [.arrays]
  | .counterWriteback | .frameDropped _ _ =>
    [.hlt]
  | .sweepSummary =>
    [.regs, .ports, .arrays, .hlt, .out]
  | .hltRingArm _ _ =>
    [.regs, .ports, .hlt]
  | .setEventReceiver _ _ | .pollForPlatformEventMessage _ =>
    [.hlt, .out]
  | .modPwrEnAssert =>
    [.boot, .pwr]
  | .modPwrGood | .powerUpTimeout | .thermalTrip =>
    [.pwr]
  | .modPwrEnDeassert _ | .modRstNDeassert | .modRstNAssert | .powerFailure _ | .thermtripTimeout _ =>
    erased
  | .standby =>
    charged ++ [.ports, .reads, .gsteps, .usteps, .upd, .mem]
  | .devEnable =>
    [.regs, .ports, .fab, .err, .boot, .hlt, .out]
  | .holdPointTimeout _ _ =>
    charged ++ [.ports, .mem]
  | .drainHostReadTimeout _ =>
    raised ++ [.ports, .reads, .xfers, .gsteps, .usteps, .mem]
  | .firmwareUpdateTimeout | .bottomLevelTreeBuilt =>
    [.boot]
  | .refclkReturn _ | .perstNDeassert _ =>
    [.ports]

end Sys2Proof.Machine
end

