-- ==== Sys2Proof/Certificates/Slice0/Obligations.lean ====
section
/-!
DEFINITION.
The statements about the model, one `Prop` each, for the provers; none is proved here.
A statement whose docstring names rules rests on parts of them; only those that OBLIGATIONS.json lists as `stated` say a rule whole.
The conclusion of a clause about a command is what `exec` answers: the next state itself, or that there is one and what it holds.
`Within (pieces [...]) s t` says that `t` differs from `s` in the named parts of the state at most, and `pieces` are named in Machine/Frames.lean.
-/

open Sys2Proof Sys2Proof.Machine Host

/-- A step takes the command at the front of the queue and runs exactly it, on the state with the queue's rest. -/
def Obligations.StepRunsTheFrontCommand : Prop :=
  ∀ (c : Instr) (s : State), step { s with pending := c :: s.pending } = exec c s

/-- An empty queue leaves the block as it is. This is the model's choice (log 5), not a rule of the spec. -/
def Obligations.EmptyQueueIdles : Prop :=
  ∀ s : State, s.pending = [] → step s = .next s

/-- What reset leaves (from parts of R568): every register of the map holds the value of its Reset column and no command waits. The rest of the clauses
name values of the model's choice (log 2): fabric time 0, every byte store empty, no partition, ring or port in use. -/
def Obligations.ResetLeavesResetValues : Prop :=
  (∀ (g : RG) (i : Nat), State.reset.reg g i = g.row.reset) ∧ State.reset.pending = [] ∧ State.reset.out = [] ∧ State.reset.time.now = 0 ∧
  (∀ p, (State.reset.part p).st = .idle) ∧ (∀ r, (State.reset.ring r).st = .disabled) ∧ (∀ a, readByte State.reset.mem.hbm a = 0) ∧
  (∀ (sp : Space) (a : Nat), State.reset.mem.poisoned sp a = (sp == .opsram || sp == .tile || sp == .accum)) ∧ State.reset.subs = [] ∧
  State.reset.opened = false

/-- At reset every store is in canonical form. -/
def Obligations.ResetIsCanonical : Prop :=
  State.reset.Canonical

/-- Canonical form is an invariant: from every state that has it, every step that answers a next state gives one that has it. -/
def Obligations.StepKeepsCanonicalForm : Prop :=
  ∀ s t : State, s.Canonical → step s = .next t → t.Canonical

/-- Every command completes in every state, changes no part of the state outside those that `touches` names for it, and in particular leaves the queue
alone. What has left the block stays sent, and free values are drawn in order and never again, whatever the command. -/
def Obligations.CommandsKeepTheirFrame : Prop :=
  (∀ (c : Instr) (s : State), ∃ t, exec c s = .next t ∧ Within (pieces (touches c)) s t) ∧
  (∀ (c : Instr) (s t : State), exec c s = .next t → s.out <:+ t.out ∧ s.free ≤ t.free ∧ t.pending = s.pending)

/-- Fabric time (from parts of R34, R49, R51) moves by one at a tick, to the value that a step has fixed, once in ACQUIRING to the source's value, and to
0 where a start or a loss of power sets everything anew, the last a reset value of the model's choice (log 2): every other command leaves it. -/
def Obligations.FabricTimeMovesOnlyByItsRules : Prop :=
  ∀ (c : Instr) (s t : State), exec c s = .next t → t.time.now ≠ s.time.now →
    (c = .fabricTick ∧ s.boot.ptck = true ∧ t.time.now = (s.time.now + 1) % 2 ^ 64) ∨
      (c = .timeStep ∧ s.time.stepFix.map (· % 2 ^ 64) = some t.time.now) ∨
      (s.time.state = .acquiring ∧ s.time.timeSet = false ∧ t.time.timeSet = true) ∨
      (t.time.now = 0 ∧ ((∃ r, c = .bootStepEnd r) ∨ (∃ r, c = .bootStepTimeout r) ∨ (∃ l, c = .modPwrEnDeassert l) ∨ c = .modRstNDeassert ∨ c = .modRstNAssert ∨
        (∃ l, c = .powerFailure l) ∨ (∃ l, c = .thermtripTimeout l) ∨ c = .restart))

/-- A lock of a write-once register (from parts of R7, R418, R574) stays until a start or a loss of power clears the registers, whatever else is
commanded. -/
def Obligations.LocksStayUntilAStart : Prop :=
  ∀ (c : Instr) (s t : State) (o : Nat), exec c s = .next t → o ∈ s.locks → o ∈ t.locks ∨ (∃ r, c = .bootStepEnd r) ∨ (∃ r, c = .bootStepTimeout r) ∨
    (∃ l, c = .modPwrEnDeassert l) ∨ c = .modRstNDeassert ∨ c = .modRstNAssert ∨ (∃ l, c = .powerFailure l) ∨ (∃ l, c = .thermtripTimeout l) ∨ c = .restart

/-- A write of a setup register, accepted or refused, changes that register, the status register of its chapter and SYS_REGERR, and no other register of
the map. -/
def Obligations.SetupWritesKeepOtherRegisters : Prop :=
  let keeps := fun (c : Instr) (own : RG) (i : Nat) (status : RG) => ∀ s t : State, exec c s = .next t →
    (∀ g j, j < g.row.count → g ≠ own → g ≠ status → g ≠ .sysRegerr → t.reg g j = s.reg g j) ∧
      (∀ j, j < own.row.count → j ≠ i → t.reg own j = s.reg own j)
  ∀ (port : Fin 4) (w : Word),
    (∀ i : Fin 256, keeps (.regionEnable port i w) .memRgnD i.val .memStatus ∧ keeps (.regionRelease port i w) .memRgnD i.val .memStatus ∧
      keeps (.rowlockWrite port i w) .memRgnD i.val .memStatus ∧ keeps (.coreAssign port i w) .sysCoreOwn i.val .sysStatus ∧
      keeps (.coreRelease port i w) .sysCoreOwn i.val .sysStatus) ∧
    (∀ i : Fin 4096, keeps (.contextEnable port i w) .xltCtxA i.val .xltStatus ∧ keeps (.contextDisable port i w) .xltCtxA i.val .xltStatus ∧
      keeps (.hqRingSeqWrite port i w) .hqRingSeq i.val .hqRingSeq) ∧
    (∀ i : Fin 64, keeps (.xltSlqWrite port i w) .xltSlq i.val .xltStatus ∧ keeps (.pwinEnable port i w) .xltPwinA i.val .xltStatus ∧
      keeps (.pwinDisable port i w) .xltPwinA i.val .xltStatus ∧ keeps (.partEnable port i w) .sysPartCtrl i.val .sysStatus ∧
      keeps (.partDisable port i w) .sysPartCtrl i.val .sysStatus ∧ keeps (.gthUpdCtrlWrite port i w) .gthUpdCtrl i.val .gthUpdStatus ∧
      keeps (.gthUpdQuotaWrite port i w) .gthUpdQuota i.val .gthUpdStatus) ∧
    (∀ i : Fin 1024, keeps (.channelAssign port i w) .memChOwn i.val .memStatus ∧ keeps (.channelRelease port i w) .memChOwn i.val .memStatus) ∧
    (∀ (die : Fin 32) (q : Fin 4), keeps (.swayAssign port die q w) .memSway (4 * die.val + q.val) .memStatus ∧
      keeps (.swayRelease port die q w) .memSway (4 * die.val + q.val) .memStatus) ∧
    (∀ (die : Fin 16) (q : Fin 4), keeps (.rwayAssign port die q w) .gthRway (4 * die.val + q.val) .memStatus ∧
      keeps (.rwayRelease port die q w) .gthRway (4 * die.val + q.val) .memStatus) ∧
    (∀ (g : Fin 16) (e : Fin 256), keeps (.gthUpdCapWrite port g e w) .gthUpdCap (256 * g.val + e.val) .gthUpdStatus) ∧
    (∀ n : Fin 4, keeps (.cxlMemberEnable port n w) .vstCxl n.val .vstEvt) ∧ (∀ n : Fin 16, keeps (.serveBudgetWrite port true n w) .vstServeG n.val .vstEvt) ∧
    (∀ n : Fin 16, n.val < 8 → keeps (.serveBudgetWrite port false n w) .vstServeF n.val .vstEvt) ∧ keeps (.vstMacWrite port w) .vstMac 0 .vstEvt ∧
    keeps (.vstIdWrite port w) .vstId 0 .vstId ∧ keeps (.timHoldRateWrite port w) .timHold 0 .timHold ∧ keeps (.hltRingHeadWrite port w) .hltRingHead 0 .hltRingHead

/-- TIME_BEACON, PPS_EDGE, PPS_LOST, TREF_LOST, TREF_PRESENT, TICK_LOST, TICK_RETURN, HOLDOVER_BOUND_EXCEEDED, TIME_STEP, TIME_DIE_FAILURE (from parts of
R38, R41, R44, R45, R48, R53, R551): each takes its effect whenever its condition holds. Fabric time and its tick (from parts of R34, R51, R535):
while PTCK runs and no step is pending, a tick adds one to the 64-bit count and, in HOLDOVER and LOST, the rate of TIM_HOLD to the bound; else it
leaves time as it stands. -/
def Obligations.TimeEventsTakeTheirEffect : Prop :=
  ((∀ (die : Fin 64) (own : BitVec 64) (s : State), s.boot.ptck = true → s.time.now ≠ 0 → smGet 0 s.time.beacons die.val = s.time.now →
    let u := s.setTime { s.time with beacons := smSet 0 s.time.beacons die.val 0 }
    (own.toNat = s.time.now → exec (.timeBeacon die own) s = .next u) ∧
    (own.toNat ≠ s.time.now → ∃ t, exec (.timeBeacon die own) s = .next t ∧ t.time = u.time ∧
      smGet 0 (t.unit (256 * die.val + 0xC8)).area 0xC0 = min (2 ^ 32 - 1) (smGet 0 (s.unit (256 * die.val + 0xC8)).area 0xC0 + 1) ∧
      smGet 0 (t.unit (256 * die.val + 0xC8)).area 0xC8 = s.time.now)) ∧
  (∀ (z : Int) (s : State), s.boot.ptck = true →
    exec (.ppsEdge z) s = .next (if s.time.state = .locked ∧ z.natAbs > 100 then s.judgeLoad.strayEdge s.loadGood s.loadValue
      else s.judgeLoad.takeEdge s.loadGood s.loadValue z)) ∧
  (∀ (s : State), s.time.ppsOk = true → (s.time.now : Int) > s.time.lastPps + 150000000 →
    exec .ppsLost s = .next ((s.setBit .pwrEvt 0 5).setTime { s.time with ppsOk := false }).resource) ∧
  (∀ (s : State), s.time.trefOk = true → exec .trefLost s = .next ((s.setBit .pwrEvt 0 4).setTime { s.time with trefOk := false }).resource) ∧
  (∀ (s : State), exec .trefPresent s = .next (s.setTime { s.time with trefOk := true }).resource) ∧
  (∀ (s : State), s.boot.ptck = true → s.time.tickOk = true →
    let t := (s.setBit .pwrEvt 0 3).setTime { s.time with tickOk := false, tickInt := true }
    exec .tickLost s = .next (if s.time.state = .free then t else t.enter .lost)) ∧
  (∀ (s : State), s.time.tickOk = false →
    let t := s.setTime { s.time with tickOk := true, tickInt := false }
    exec .tickReturn s = .next (if s.time.state = .lost ∧ s.time.srcActive ≠ 0 then t.sourcePresent else t)) ∧
  (∀ (s : State), s.time.state = .holdover → s.time.bound > 1000 * 10 ^ 9 →
    let t := s.enter .lost
    exec .holdoverBoundExceeded s = .next (if t.time.srcActive ≠ 0 then t.sourcePresent else t)) ∧
  (∀ (s : State) (v : Nat), s.time.stepFix = some v →
    ∃ t, exec .timeStep s = .next t ∧ t.time.now = v % 2 ^ 64 ∧ t.time.state = .acquiring ∧ t.time.stepFix = none ∧ t.time.timeSet = true) ∧
  (∀ (s : State), s.boot.ptck = true → s.time.unsteered = false →
    s.excluded (dieF (1 - s.time.timeDie)) = false → (s.time.timeDie :: s.time.synthDown).contains (1 - s.time.timeDie) = false →
    exec .timeDieFailure s =
      .next ((s.setTime { s.time with synthDown := s.time.timeDie :: s.time.synthDown, timeDie := 1 - s.time.timeDie }).setBit .timEvent 0 7))) ∧
  ((∀ (s : State), s.boot.ptck = true → s.time.stepFix = none →
    ∃ t, exec .fabricTick s = .next t ∧ t.time.now = (s.time.now + 1) % 2 ^ 64 ∧
      (s.time.state = .holdover ∨ s.time.state = .lost → t.time.bound = s.time.bound + 10 * s.fld .timHold 0 15 0) ∧
      (s.time.state ≠ .holdover → s.time.state ≠ .lost → t.time.bound = s.time.bound) ∧ t.time.state = s.time.state ∧ t.time.ptp = s.time.ptp) ∧
  (∀ (s : State), s.boot.ptck = false ∨ s.time.stepFix ≠ none → ∃ t, exec .fabricTick s = .next t ∧ t.time = s.time))

/-- The registers of fabric time (from parts of R44, R51, R55, R58, R566): TIM_CTRL, TIM_HOLD and the reads that latch an upper half. An armed
TIM_PPS_LOAD value is judged at the edge (from parts of R44): a whole number of seconds is taken, PPS_ARM is cleared and PPS_LOADED is set; any other
is not taken and sets PPS_BAD, and PPS_ARM stays as it is. Every other register keeps its value. -/
def Obligations.TimeRegistersTakeTheirWrites : Prop :=
  ((∀ (port : Fin 4) (w : Word) (s : State), s.reach port.val = true → wbits w 1 0 ≠ s.fld .timCtrl 0 1 0 →
    exec (.timSrcWrite port w) s = .next (s.writeTimCtrl w) ∧
    (wbits w 1 0 ≠ 3 → s.writeTimCtrl w = (s.putRw .timCtrl 0 w).setTime { s.time with srcWritten := true, srcOld := s.src }) ∧
    (wbits w 1 0 = 3 → s.time.unsteered = false →
      ∃ t, s.writeTimCtrl w = t ∧ t.time.state = .free ∧ t.time.srcActive = 0 ∧ t.time.srcWritten = false)) ∧
  (∀ (port : Fin 4) (w : Word) (s : State), s.reach port.val = true → wbit w 30 = true → wbits w 1 0 = s.fld .timCtrl 0 1 0 →
    exec (.ppsArm port w) s = .next (s.putRw .timCtrl 0 w) ∧ (s.putRw .timCtrl 0 w).flag .timCtrl 0 30 = true) ∧
  (∀ (port : Fin 4) (w : Word) (s : State), s.reach port.val = true →
    ∃ t, exec (.timHoldRateWrite port w) s = .next t ∧ t.fld .timHold 0 15 0 = wbits w 15 0 ∧ t.time = s.time ∧ Within (pieces [.regs]) s t) ∧
  (∀ (port : Fin 4) (s : State), s.reach port.val = true →
    ∃ t, exec (.timNowLoRead port) s = .next t ∧ t.out = .regRead port.val (BitVec.ofNat 32 s.time.now) :: s.out ∧
      smGet 0 t.latches (2 ^ 24 * port.val + RG.off .timNowHi 0) = BitVec.ofNat 32 (s.time.now / 2 ^ 32) ∧ Within (pieces [.latches, .out]) s t) ∧
  (∀ (port : Fin 4) (off : BitVec 24) (g h : RG) (i : Nat) (s : State), s.reach port.val = true → off.toNat % 4 = 0 →
    regAt off.toNat = some (g, i) → latchOf g = some h → (isRoot off.toNat && s.rootsGone) = false →
    ∃ t, exec (.loReadLatch port (.bar0 off 4)) s = .next t ∧ t.out = .regRead port.val (s.readValue g i) :: s.out ∧
      smGet 0 t.latches (2 ^ 24 * port.val + h.off 0) = s.readValue h 0 ∧ Within (pieces [.latches, .out]) s t) ∧
  (∀ (port : Fin 4) (off : BitVec 24) (g : RG) (i : Nat) (s : State), s.reach port.val = true → off.toNat % 4 = 0 →
    regAt off.toNat = some (g, i) → latchOf g = none → (isRoot off.toNat && s.rootsGone) = false →
    exec (.loReadLatch port (.bar0 off 4)) s =
      .next (s.emit (.regRead port.val (if isLatched g then smGet 0 s.latches (2 ^ 24 * port.val + off.toNat) else s.readValue g i)))) ∧
  (∀ (port : Fin 4) (off : BitVec 24) (size : Nat) (s : State), s.reach port.val = true →
    (size ≠ 4 → exec (.loReadLatch port (.bar0 off size)) s = .next (s.emit (.regRead port.val 0))) ∧
    exec (.loReadLatch port (.bell off)) s = .next (s.emit (.regRead port.val 0))) ∧
  (∀ (port : Fin 4) (s : State), s.opened = false → s.boot.phase ≠ .off → (s.port port.val).cxl = false →
    exec (.loReadLatch port .config) s = .next (s.emit (.retry port.val)))) ∧
  (∀ (s : State), s.flag .timCtrl 0 30 = true →
    (s.loadValue % 100000000 = 0 →
      s.judgeLoad.flag .timCtrl 0 30 = false ∧ s.judgeLoad.flag .timEvent 0 4 = true ∧ s.judgeLoad.flag .timEvent 0 5 = s.flag .timEvent 0 5) ∧
    (s.loadValue % 100000000 ≠ 0 → s.judgeLoad.reg .timCtrl 0 = s.reg .timCtrl 0 ∧ s.judgeLoad.flag .timEvent 0 5 = true) ∧
    (∀ (g : RG) (i : Nat), g.off i ≠ RG.off .timCtrl 0 → g.off i ≠ RG.off .timEvent 0 → s.judgeLoad.reg g i = s.reg g i) ∧
    Within (pieces [.regs]) s s.judgeLoad)

/-- PTP (from parts of R43, R46, R49): Sync, Follow_Up and Announce frames of the device's domain, their sending and their timeout. -/
def Obligations.PtpEventsTakeTheirEffect : Prop :=
  (∀ (port : Fin 64) (dom : Fin 128) (sec nsec : Nat) (z : Int) (l : PtpLink) (s : State),
    bestLink s.time.ptp = some l → s.ptpRuns dom.val = true → l.port = port.val →
    exec (.ptpSyncReceived port dom true sec nsec z) s =
      .next (s.setTime { s.time with ptp := s.time.ptp.map fun x => if x.port = port.val then { x with twoStep := true } else x }) ∧
    (s.time.srcActive = 2 →
      exec (.ptpSyncReceived port dom false sec nsec z) s = .next ((s.setOnce (sec * 100000000 + nsec / 10)).estimate z))) ∧
  (∀ (port : Fin 64) (dom : Fin 128) (sec nsec : Nat) (z : Int) (l : PtpLink) (s : State),
    bestLink s.time.ptp = some l → s.ptpRuns dom.val = true → l.port = port.val → l.twoStep = true →
    let t := s.setTime { s.time with ptp := s.time.ptp.map fun x => if x.port = port.val then { x with twoStep := false } else x }
    exec (.followUpReceived port dom sec nsec z) s =
      .next (if s.time.srcActive = 2 then (t.setOnce (sec * 100000000 + nsec / 10)).estimate z else t)) ∧
  (∀ (port : Fin 64) (dom : Fin 128) (ds : PtpDataset) (s : State), s.ptpRuns dom.val = true →
    let l : PtpLink :=
      { port := port.val, ds := ds, heard := s.time.now, twoStep := (s.time.ptp.find? (·.port == port.val)).elim false (·.twoStep) }
    exec (.announceReceived port dom ds) s = .next (s.setTime { s.time with ptp := l :: s.time.ptp.filter (·.port != port.val) }).resource) ∧
  (∀ (port : Fin 64) (l : PtpLink) (s : State), l ∈ s.time.ptp → l.port = port.val → (s.time.now : Int) ≥ l.heard + 300000000 →
    exec (.announceTimeout port) s = .next (s.setTime { s.time with ptp := s.time.ptp.filter (·.port != port.val) }).resource) ∧
  (∀ (s : State), s.transmits = true → (s.time.now : Int) ≥ s.time.syncSent + 100000000 / 2 ^ s.fld .timCtrl 0 29 27 →
    ∃ t, exec .ptpSyncSend s = .next t ∧ t.time = { s.time with syncSent := s.time.now } ∧
      t.out = (s.masterPorts.map fun q => Out.sync q (s.fld .timCtrl 0 10 4) (s.time.now / 100000000) (10 * (s.time.now % 100000000))).reverse ++ s.out ∧
      Within (pieces [.time, .out]) s t) ∧
  (∀ (s : State), s.transmits = true → (s.time.now : Int) ≥ s.time.annSent + 100000000 →
    ∃ t, exec .announceSend s = .next t ∧ t.time = { s.time with annSent := s.time.now } ∧
      t.out = (s.masterPorts.map fun q => Out.announce q (s.fld .timCtrl 0 10 4) s.ownDataset).reverse ++ s.out ∧ Within (pieces [.time, .out]) s t)

/-- Reading TIM_NOW (R58): a read of TIM_NOW_LO answers bits [31:0] and latches bits [63:32] for its port; a read of TIM_NOW_HI answers the latch and
changes nothing; no other command but a start or a loss of power changes the latch, and those set it to 0, its reset value; TIM_NOW ignores writes,
and TIM_PPS_LOAD takes them. -/
def Obligations.NowIsReadThroughItsLatch : Prop :=
  let key := fun port : Fin 4 => 2 ^ 24 * port.val + RG.off .timNowHi 0
  (∀ (port : Fin 4) (s : State), s.reach port.val = true →
    ∃ t, exec (.timNowLoRead port) s = .next t ∧ t.out = .regRead port.val (BitVec.ofNat 32 s.time.now) :: s.out ∧
      smGet 0 t.latches (key port) = BitVec.ofNat 32 (s.time.now / 2 ^ 32) ∧ (∀ k, k ≠ key port → smGet 0 t.latches k = smGet 0 s.latches k)) ∧
  (∀ (port : Fin 4) (s : State), s.reach port.val = true →
    exec (.loReadLatch port (.bar0 0x100008 4)) s = exec (.timNowLoRead port) s ∧
    exec (.loReadLatch port (.bar0 0x10000C 4)) s = .next (s.emit (.regRead port.val (smGet 0 s.latches (key port))))) ∧
  (∀ (c : Instr) (port : Fin 4) (s t : State), exec c s = .next t → smGet 0 t.latches (key port) ≠ smGet 0 s.latches (key port) →
    c = .timNowLoRead port ∨ c = .loReadLatch port (.bar0 0x100008 4) ∨ smGet 0 t.latches (key port) = 0) ∧
  smGet 0 State.reset.latches (2 ^ 24 * 0 + RG.off .timNowHi 0) = 0 ∧ State.reset.reg .timPpsLoadLo 0 = 0 ∧ State.reset.reg .timPpsLoadHi 0 = 0 ∧
  (∀ (port : Fin 4) (size : Nat) (w h : Word) (s : State), s.reach port.val = true → size = 4 →
    exec (.registerWrite port 0x100008 size w h) s = .next s ∧ exec (.registerWrite port 0x10000C size w h) s = .next s ∧
    (∃ t, exec (.registerWrite port 0x100010 size w h) s = .next t ∧ t.reg .timPpsLoadLo 0 = w) ∧
    ∃ t, exec (.registerWrite port 0x100014 size w h) s = .next t ∧ t.reg .timPpsLoadHi 0 = w)

/-- Doorbell writes of an open ring through its port (from parts of R383, R385, R405): SQ_TAIL makes descriptors visible, CQ_HEAD frees completion
entries, STATE_REQ writes a ring-state record. A value out of range halts the ring with 0x0610. -/
def Obligations.DoorbellsTakeTheirWrites : Prop :=
  (∀ (port : Fin 4) (ring : Fin 4096) (size : Nat) (stray : Bool) (v : Word) (s : State), s.reach port.val = true → s.bellOk port.val ring.val size stray = true →
    let x := s.ring ring.val
    (diff32 v.toNat x.head > s.sqCap ring.val → exec (.sqTail port ring size stray v) s = .next (s.haltRing ring.val 0x0610)) ∧
    (diff32 v.toNat x.head ≤ s.sqCap ring.val → v.toNat ≠ x.head → v.toNat ≠ x.tail → diff32 v.toNat x.head < diff32 x.tail x.head →
      exec (.sqTail port ring size stray v) s = .next (s.setRing ring.val { x with tail := v.toNat, bells := cutBells x.head v.toNat x.bells })) ∧
    (diff32 v.toNat x.head ≤ s.sqCap ring.val → v.toNat ≠ x.head → v.toNat ≠ x.tail → diff32 x.tail x.head ≤ diff32 v.toNat x.head →
      exec (.sqTail port ring size stray v) s = .next
        ((s.setRing ring.val { x with tail := v.toNat, bells := x.bells ++ [(v.toNat, s.time.now)] }).fetchSlots ring.val x.tail (diff32 v.toNat x.tail)))) ∧
  (∀ (port : Fin 4) (ring : Fin 4096) (size : Nat) (stray : Bool) (v : Word) (s : State), s.reach port.val = true → s.bellOk port.val ring.val size stray = true →
    let x := s.ring ring.val
    (diff32 x.cqw v.toNat > s.cqCap ring.val → exec (.cqHead port ring size stray v) s = .next (s.haltRing ring.val 0x0610)) ∧
    (diff32 x.cqw v.toNat ≤ s.cqCap ring.val → exec (.cqHead port ring size stray v) s = .next (s.setRing ring.val { x with cqHead := v.toNat }))) ∧
  (∀ (port : Fin 4) (ring : Fin 4096) (size : Nat) (stray : Bool) (v : Word) (s : State), s.reach port.val = true → s.bellOk port.val ring.val size stray = true →
    exec (.doorbellStateReq port ring size stray v) s = .next (s.writeRecord ring.val)) ∧
  (∀ (port : Fin 4) (ring : Fin 4096) (size : Nat) (stray : Bool) (v : Word) (s : State), s.reach port.val = true → s.bellOk port.val ring.val size stray = false →
    exec (.sqTail port ring size stray v) s = .next (s.dbIgnored port.val ring.val) ∧ exec (.cqHead port ring size stray v) s = .next (s.dbIgnored port.val ring.val) ∧
    exec (.doorbellStateReq port ring size stray v) s = .next (s.dbIgnored port.val ring.val))

/-- DESCRIPTOR_FETCH_DONE (from parts of R378, R392, R396): with descriptors visible, a fetched descriptor with the next sequence number and its slots
visible is taken while a completion entry is free; a read that fails, a wrong sequence number, and 100 ticks without a free entry halt the ring. The
life of a submission (from parts of R65 to R67, R72, R386, R398, R401, R405): it reaches the admitting H-die, is decided or refused, is watched for
its deadline, and its entry is written. -/
def Obligations.SubmissionsAreTakenAndCompleted : Prop :=
  (∀ (ring : Fin 4096) (slots : List (BitVec 512)) (s : State),
    let r := ring.val
    let x := s.ring r
    let b := (slots.map (·.toNat)).getD 0 0
    let n := 1 + bits b 10 8
    x.st = .active → diff32 x.tail x.head ≠ 0 →
    (∀ st, st ≠ .ok → exec (.descriptorFetchDone ring st slots) s = .next (s.haltRing r 0x0612)) ∧
    (slots ≠ [] → bits b 63 32 ≠ s.taken r → exec (.descriptorFetchDone ring .ok slots) s = .next (s.haltRing r 0x0602)) ∧
    (slots ≠ [] → bits b 63 32 = s.taken r → diff32 x.tail x.head < n →
      exec (.descriptorFetchDone ring .ok slots) s = .next (s.haltRing r 0x060A)) ∧
    (slots ≠ [] → bits b 63 32 = s.taken r → n ≤ diff32 x.tail x.head → diff32 x.claimed x.cqHead ≥ s.cqCap r →
      exec (.descriptorFetchDone ring .ok slots) s =
        .next (if s.time.now ≥ bellTick x.head n s.time.now x.bells + 100 then s.haltRing r 0x0611 else s)) ∧
    (slots ≠ [] → bits b 63 32 = s.taken r → n ≤ diff32 x.tail x.head → diff32 x.claimed x.cqHead < s.cqCap r →
      ∃ t sub, exec (.descriptorFetchDone ring .ok slots) s = .next t ∧ t.subs = s.subs ++ [sub] ∧ sub.seq = bits b 63 32 ∧ sub.ring = r ∧
        (t.ring r).head = (x.head + n) % 2 ^ 32 ∧ (t.ring r).claimed = (x.claimed + 1) % 2 ^ 32 ∧
        t.reg .hqRingSeq r = s.reg .hqRingSeq r + 1 ∧ Within (pieces [.rings, .regs, .subs]) s t)) ∧
  ((∀ (ring : Fin 4096) (seq : Word) (x : Sub) (s : State), s.sub? ring.val seq.toNat = some x →
    s.subs.find? (fun y => !y.replay && !y.here && s.ringH y.ring == s.ringH x.ring && s.admitH y.part == s.admitH x.part) = some x →
    exec (.forwardedDescriptor ring seq) s = .next (s.setSub { x with here := true })) ∧
  (∀ (ring : Fin 4096) (seq : Word) (list : List Gran) (x : Sub) (s : State), s.nextOf ring.val = some x → x.seq = seq.toNat → x.here = true →
    s.wardenRestarts (s.admitH x.part) = false →
    let own := if x.buf0.dev && (x.kind == 0x80 || x.kind == 0x82) then
        (s.devRead (Who.die_ (dieH (s.admitH x.part))) x.ctx x.buf0.addr (x.buf0.len / 16)).1 else list
    (s.time.now > x.adm + 100 → exec (.admissionDecision ring seq list) s = .next (s.setSub (x.refuse 0x0706 (x.adm + 100)))) ∧
    let p := if !x.buf0.dev && x.kind == 0x82 && s.validate x == 0 then s.readList x own else (own, s)
    let refused := (p.2.sub? x.ring x.seq).any (·.st == .refused)
    (s.time.now ≤ x.adm + 100 → refused = true → exec (.admissionDecision ring seq list) s = .next p.2) ∧
    (∀ c, s.time.now ≤ x.adm + 100 → refused = false → p.2.decide_ x p.1 = .error c →
      exec (.admissionDecision ring seq list) s = .next (p.2.setSub (x.refuse c p.2.time.now))) ∧
    (∀ f, s.time.now ≤ x.adm + 100 → refused = false → p.2.decide_ x p.1 = .ok f →
      exec (.admissionDecision ring seq list) s = .next (p.2.accept x f))) ∧
  (∀ (ring : Fin 4096) (s : State),
    let t := s.setSubs (s.subs.map fun x => if x.ring = ring.val ∧ x.st = .waiting ∧ s.time.now ≥ x.adm + 100 then x.refuse 0x0706 (x.adm + 100) else x)
    exec (.admissionTimeout ring) s = .next (if t.noEntry ring.val then t.haltRing ring.val 0x0611 else t)) ∧
  (∀ (ring : Fin 4096) (seq : Word) (x y : Sub) (s : State),
    let u := s.dueFaults
    u.sub? ring.val seq.toNat = some x → x.mayIssue = true → (u.lateResult x).sub? ring.val seq.toNat = some y →
    exec (.completionEntryIssue ring seq) s = .next ((u.lateResult x).issueEntry y)) ∧
  (∀ (hdie : Fin 4) (s : State),
    exec (.deadlineWatch hdie) s =
      .next ((s.subs.filter fun x => !x.replay && x.st == .accepted && x.code == 0 && decide (x.deadline ≤ s.time.now) && s.admitH x.part == hdie.val).foldl
        (fun s x => s.charge x.ring x.seq 6 (tableFault s x.part (if x.held && !x.done then 0x0712 else if x.done then 0x0711 else 0x0710))) s)) ∧
  (∀ (ring : Fin 4096) (seq : Word) (port : Fin 4) (ok : Bool) (s : State),
    exec (.flushReadDone ring seq port ok) s = .next (s.flushDone ring.val seq.toNat port.val ok)) ∧
  (∀ (ring : Fin 4096) (s : State), (s.ring ring.val).winHit = true → s.time.now ≥ (s.ring ring.val).winEnd →
    let t := s.setRing ring.val { s.ring ring.val with winEnd := s.time.now + 8 * s.fld .hqRingCtrl ring.val 31 22, winHit := false }
    exec (.msixWindowEnd ring) s =
      .next (if s.flag .hqRingCtrl ring.val 21 then t.msix (t.ringH ring.val) (s.fld .hqRingCtrl ring.val 20 10) else t)) ∧
  (∀ (ring : Fin 4096) (seq : Word) (x : Sub) (s : State), s.sub? ring.val seq.toNat = some x → x.st = .accepted → x.code = 0 → x.done = false →
    (x.kind = 0x83 → exec (.stateSubmission ring seq) s =
      .next (((s.writeRecord ring.val).setSub { x with info := s.time.now }).finish ring.val seq.toNat)) ∧
    (x.kind = 0x84 → exec (.nopSubmission ring seq) s = .next (s.finish ring.val seq.toNat))))

/-- The ring registers (from parts of R378 to R381, R405): arming, disarming, STATE_REQ and HQ_RING_SEQ, written through a port whose link is up. -/
def Obligations.RingRegistersTakeTheirWrites : Prop :=
  (∀ (port : Fin 4) (ring : Fin 4096) (w : Word) (s : State), s.reach port.val = true → wbit w 0 = true → s.flag .hqRingCtrl ring.val 0 = false →
    let r := ring.val
    (s.mayArm r = true → ∃ t, exec (.ringEnArm port ring w) s = .next t ∧ (t.ring r).st = .active ∧ (t.ring r).head = 0 ∧ (t.ring r).claimed = 0 ∧
      (t.ring r).cqw = 0 ∧ t.flag .hqRingCtrl r 0 = true ∧ t.reg .hqRingSeq r = s.reg .hqRingSeq r ∧
      Within (pieces [.regs, .rings, .ports, .out]) s t) ∧
    (s.mayArm r = false → ∃ t, exec (.ringEnArm port ring w) s = .next t ∧ t.flag .hqRingCtrl r 0 = false ∧ t.flag .hqRingEvt r 0 = true ∧
      Within (pieces [.regs, .ports, .out]) s t)) ∧
  (∀ (port : Fin 4) (ring : Fin 4096) (w : Word) (s : State), s.reach port.val = true → wbit w 0 = false → s.flag .hqRingCtrl ring.val 0 = true →
    ∃ t, exec (.ringEnDisarm port ring w) s = .next t ∧ t.flag .hqRingCtrl ring.val 0 = false ∧
      ((s.ring ring.val).st = .fenced → (t.ring ring.val).st = .disabled) ∧
      ((s.ring ring.val).st = .active ∨ (s.ring ring.val).st = .halted → (t.ring ring.val).st = .draining ∨ (t.ring ring.val).st = .disabled) ∧
      ((s.ring ring.val).st ≠ .fenced → Within (pieces [.regs, .rings, .ports, .out]) s t) ∧
      Within (pieces [.regs, .rings, .ports, .subs, .err, .out]) s t) ∧
  (∀ (port : Fin 4) (ring : Fin 4096) (w : Word) (s : State), s.reach port.val = true → wbit w 1 = true → wbit w 0 = s.flag .hqRingCtrl ring.val 0 →
    exec (.ringStateReq port ring w) s =
      .next ((s.putRw .hqRingCtrl ring.val (setBits w 0 0 (bnat (s.flag .hqRingCtrl ring.val 0)))).writeRecord ring.val)) ∧
  (∀ (port : Fin 4) (ring : Fin 4096) (w : Word) (s : State), s.reach port.val = true →
    ∃ t, exec (.hqRingSeqWrite port ring w) s = .next t ∧ Within (pieces [.regs]) s t ∧
      t.reg .hqRingSeq ring.val = if (s.ring ring.val).st = .active ∨ (s.ring ring.val).st = .draining then s.reg .hqRingSeq ring.val else w)

/-- MEM_READ (from parts of R307, R315, R324): an agent answers a request that passes its checks with the line and its poison, and one that fails them
with poison and the code. Here no codeword read is upset, none in HBM is flawed and no packet is lost. MEM_READ under upsets and edge errors (from parts of R27, R28, R316,
R324): corrected headers are counted, a lost request is not served, the codewords read are corrected or poisoned, and the reply's payload passes its
edges. What a read does with one upset codeword (from parts of R322, R324): the codeword stays as it decodes, one corrected symbol is counted and its
line's rewrite is owed within 64 ticks, an uncorrectable codeword is stored poisoned, and no other granule changes. -/
def Obligations.AgentReadsAnswer : Prop :=
  (∀ (q : MemReq) (s : State), s.agentsRun = true →
    let r := MemReq.req q
    (∀ c, s.agentCheck r false = .error c →
      ∃ t, exec (.memRead q [] []) s = .next t ∧ t.out.take 2 = [.memRefused r.ctx c, .memReply r.ctx poisonLine] ∧ t.mem = s.mem) ∧
    (∀ i pc line, s.agentCheck r false = .ok (i, pc, line) → s.deaf pc = true →
      ∃ t, exec (.memRead q [] []) s = .next t ∧ t.out.head? = some (.memReply r.ctx poisonLine) ∧ t.mem = s.mem) ∧
    (∀ i pc line, s.agentCheck r false = .ok (i, pc, line) → s.deaf pc = false → s.mem.flaws = [] →
      exec (.memRead q [] []) s = .next (s.emit (.memReply r.ctx (s.lineOf i pc line r.addr))))) ∧
  (∀ (q : MemReq) (upset : List Upset) (edges : List EdgeErr) (i pc line : Nat) (s : State), s.agentsRun = true →
    let r := MemReq.req q
    let u := s.headers r edges
    (∀ e, u.lostOut r edges = some e → exec (.memRead q upset edges) s = .next (u.raise (edgeFault u 0x0106 e))) ∧
    (u.lostOut r edges = none → u.agentCheck r false = .ok (i, pc, line) → u.deaf pc = false →
      let a := (u.readUpsets pc line (r.addr / 256 * 256) (some r.ctx) upset).agentRead r
      let b := a.2.2.crossEdges (fun _ e => !e.out && between r.die (pcDie pc) e) a.1 edges
      (a.2.2.agentDie r).bind (fun d => lostHeader edges false r.die d) = none →
      exec (.memRead q upset edges) s = .next (b.2.emit (.memReply r.ctx b.1)))) ∧
  (∀ (pc line addr : Nat) (ctx : Option Nat) (u : Upset) (s : State), u.gran < 16 →
    let at_ := hbmAt pc line + 16 * u.gran
    let w := s.mem.word at_ u.data.toNat u.check.toNat
    let t := s.readUpset pc line addr ctx u
    t.mem.poisoned .hbm at_ = (w.2.gran w.1).poison ∧
    ((w.2.gran w.1).poison = false → t.mem.readGran .hbm at_ = w.2.gran w.1) ∧
    ((w.2.gran w.1).poison = true → t.mem.hbm = s.mem.hbm) ∧
    (∀ a, a < at_ ∨ at_ + 16 ≤ a → readByte t.mem.hbm a = readByte s.mem.hbm a) ∧
    (∀ a, a / 16 ≠ at_ / 16 → t.mem.poisoned .hbm a = s.mem.poisoned .hbm a) ∧
    t.mem.rewrites = s.mem.rewrites ++ (match w.2 with | .corrected .. => [(pc, line, s.time.now + 64)] | _ => []))

/-- MEM_WRITE and MEM_ATOMIC (from parts of R307, R315, R332, R336, R430): a write that passes its checks enters the write-combining buffer of its
pseudo-channel or its transposing block; an atomic answers the old value and writes the new one; a request that fails its checks stores nothing. -/
def Obligations.AgentWritesTakeEffect : Prop :=
  (∀ (q : MemReq) (mask : BitVec 256) (data : List Gran) (s : State), s.agentsRun = true →
    let r := MemReq.req q
    let gp := BitVec.ofNat 16 (pack ((List.range 16).map fun j => (j, 1, bnat (data.getD j { data := 0, poison := false }).poison)))
    let a := (s.mergeRead r mask []).agentWrite r mask (gransBytes data) gp
    exec (.memWrite q mask data [] []) s = .next (if a.1 = 0 then a.2 else a.2.emit (.memRefused q.ctx.val a.1)) ∧
    (∀ i pc line, s.agentCheck r true = .ok (i, pc, line) → s.deaf pc = false → s.mem.flaws = [] → (s.region i).trn = 0 →
      exec (.memWrite q mask data [] []) s = .next (s.writeLine pc line mask (gransBytes data) gp)) ∧
    (∀ i pc line, s.agentCheck r true = .ok (i, pc, line) → s.deaf pc = false → s.mem.flaws = [] → (s.region i).trn ≠ 0 →
      exec (.memWrite q mask data [] []) s = .next (s.writeBlock
        { region := i, pc := pc, addr := r.addr, ctx := r.ctx, mask := mask, data := gransBytes data, gpoison := gp })) ∧
    (∀ c, s.agentCheck r true = .error c →
      ∃ t, exec (.memWrite q mask data [] []) s = .next t ∧ t.out.head? = some (.memRefused q.ctx.val c) ∧ t.mem = s.mem)) ∧
  (∀ (q : MemReq) (op : Aop) (wide : Bool) (a b : BitVec 64) (s : State), s.agentsRun = true →
    q.addr.toNat % (if wide then 8 else 4) = 0 → ¬(wide = true ∧ op = .fadd) →
    let z := (s.mergeRead (MemReq.req q) (BitVec.ofNat 256 1) []).agentAtomic (MemReq.req q) op wide a.toNat b.toNat false
    let u := z.2.2.emit (.memReply q.ctx.val [z.1])
    exec (.memAtomic q op wide a b [] []) s = .next (if z.2.1 = 0 then u else u.emit (.memRefused q.ctx.val z.2.1)))

/-- What a write to a line leaves (from parts of R315, R332): until the agent writes the line to its pseudo-channel, no byte of HBM changes, and a read of
the line sees the new bytes where the mask is set and the old ones elsewhere. MEMORY_SLOT (from parts of R303, R332, R337): at a slot boundary the
agents write combined lines whose slot has passed and complete transposing blocks. No byte of HBM changes but those of the lines written, where no
block is complete. -/
def Obligations.LineWritesAreSeenAtOnce : Prop :=
  (∀ (pc line : Nat) (mask : BitVec 256) (data : List Byte) (s : State), data.length = 256 → subGranule mask = false →
    (s.mem.wcb.find? fun e => e.pc == pc && e.line == line) = none →
    let t := s.writeLine pc line mask data 0
    t.mem.hbm = s.mem.hbm ∧ t.mem.hbmPoison = s.mem.hbmPoison ∧
    t.mem.seenLine pc line = mixLine mask 0 0 (s.mem.storedLine pc line) data) ∧
  ((∀ (s : State), s.agentsRun = true → s.time.now % 4 = 0 →
    let slot := s.time.now / 4
    let due := fun e : WcEntry => if e.sub then decide (e.slot + 1 < slot) else decide (e.slot < slot)
    let m := (s.mem.wcb.filter due).foldl (fun m e => m.putEntry e) s.mem
    let m := { m with wcb := (m.wcb.filter fun e => !due e).map fun e => if e.sub ∧ e.slot < slot then { e with reading := true } else e }
    exec .memorySlot s = .next ((s.mem.blocks.filter (·.complete)).foldl (fun s b => s.storeBlock b) (s.setMem m))) ∧
  (∀ (a : Nat) (s t : State), exec .memorySlot s = .next t → (∀ b ∈ s.mem.blocks, b.complete = false) →
    (∀ e ∈ s.mem.wcb, a < hbmAt e.pc e.line ∨ hbmAt e.pc e.line + 256 ≤ a) → readByte t.mem.hbm a = readByte s.mem.hbm a))

/-- ECC_CORRECTED_REWRITE, PATROL_SCRUB and TRANSPOSE_BLOCK_TIMEOUT (from parts of R324, R326, R337). Traffic generators (from parts of R338 to R340):
START begins a run on an unassigned channel with its fields in range, STOP ends it after the line in progress, and the end of a run sets DONE and
leaves no byte of another channel changed. -/
def Obligations.AgentUpkeepTakesEffect : Prop :=
  ((∀ (pc : Fin 2048) (line : BitVec 22) (s : State),
    exec (.eccCorrectedRewrite pc line) s =
      .next (s.setMem { s.mem with rewrites := s.mem.rewrites.filter fun r => !(r.1 == pc.val && r.2.1 == line.toNat) })) ∧
  (∀ (pc : Fin 2048) (line : BitVec 22) (upset : List Upset) (ecs : Word) (s : State), s.agentsRun = true →
    exec (.patrolScrub pc line upset ecs) s = .next ((s.mem.withFlaws pc.val line.toNat upset).foldl
      (fun s u => if u.gran < 16 then s.scrubWord pc.val line.toNat u else s) (s.setArea (pcDie pc.val) (pcUnit pc.val) 0xD8 ecs.toNat))) ∧
  (∀ (pc : Fin 2048) (line : BitVec 22) (u : Upset) (ecs : Word) (s : State), s.agentsRun = true → u.gran < 16 → s.mem.flaws = [] →
    let at_ := hbmAt pc.val line.toNat + 16 * u.gran
    let w := s.mem.word at_ u.data.toNat u.check.toNat
    exec (.patrolScrub pc line [u] ecs) s =
      .next ((s.setArea (pcDie pc.val) (pcUnit pc.val) 0xD8 ecs.toNat).scrubWord pc.val line.toNat u) ∧
    (w.2 = .uncorrectable → ∃ t, exec (.patrolScrub pc line [u] ecs) s = .next t ∧ t.mem.poisoned .hbm at_ = true ∧ t.mem.hbm = s.mem.hbm ∧
      ∀ b, b / 16 ≠ at_ / 16 → t.mem.poisoned .hbm b = s.mem.poisoned .hbm b) ∧
    (∀ pos d, w.2 = .corrected pos d → ∃ t, exec (.patrolScrub pc line [u] ecs) s = .next t ∧
      t.mem.readGran .hbm at_ = { data := BitVec.ofNat 128 d, poison := false } ∧
      ∀ b, b < at_ ∨ at_ + 16 ≤ b → readByte t.mem.hbm b = readByte s.mem.hbm b)) ∧
  (∀ (cdie : Fin 32) (block : Nat) (b : TBlock) (s : State),
    (s.mem.blocks.find? fun b => b.cdie == cdie.val && b.block == block && !b.complete && decide (s.time.now ≥ b.opened + 2000)) = some b →
    let f := { FaultRec.new s 0x0540 (some cdie.val) 0xC0 with
      ctx := some b.ctx, part := some (s.ctxPart b.ctx), dkind := 1, detail := block * blockBytes b.esize }
    exec (.transposeBlockTimeout cdie block) s = .next ((s.storeBlock b).raise f))) ∧
  ((∀ (port : Fin 4) (w : Word) (s : State), s.reach port.val = true → wbit w 0 = true →
    let ch := s.fld .memTgSel 0 9 0
    let u := { s.tg ch with ctrl := w &&& 0xFF8 }
    (s.tg ch).busy = false → s.flag .memChOwn ch 6 = false → u.bad = false → wbits (s.tg ch).len 23 0 ≠ 0 →
    exec (.tgStart port w) s = .next (s.setTg ch { u with errs := 0, busy := true, stopped := false })) ∧
  (∀ (port : Fin 4) (w : Word) (s : State), s.reach port.val = true → wbit w 1 = true → wbit w 0 = false →
    let ch := s.fld .memTgSel 0 9 0
    (s.tg ch).busy = true → exec (.tgStop port w) s = .next (s.setTg ch { s.tg ch with ctrl := w &&& 0xFF8, stopped := true })) ∧
  (∀ (ch : Fin 1024) (upset : List TgUpset) (s : State), (s.tg ch.val).busy = true → (s.tg ch.val).stopped = false →
    let r := TgRun.pass { st := s, bad := 0, first := none, fix := [] } (s.tg ch.val) ch.val (wbits (s.tg ch.val).len 23 0) upset
    ∃ t, exec (.tgRunEnd ch upset) s = .next t ∧ (t.tg ch.val).busy = false ∧
      (t.tg ch.val).status = (s.tg ch.val).status ||| (if r.bad = 0 then 1 else 3) ∧
      (t.tg ch.val).errs = BitVec.ofNat 32 (min (2 ^ 32 - 1) r.bad) ∧
      t.mem.hbm = (r.fix.reverse.foldl (fun m p => m.restore p.1 p.2) r.st.mem).hbm ∧
      ∀ a, a < hbmAt (2 * ch.val) 0 ∨ hbmAt (2 * ch.val + 2) 0 ≤ a → readByte t.mem.hbm a = readByte s.mem.hbm a) ∧
  (∀ (ch : Fin 1024) (upset : List TgUpset) (s : State), (s.tg ch.val).busy = true → (s.tg ch.val).stopped = true →
    ∃ t, exec (.tgRunEnd ch upset) s = .next t ∧ (t.tg ch.val).busy = false ∧
      ∀ a, a < hbmAt (2 * ch.val) 0 ∨ hbmAt (2 * ch.val + 2) 0 ≤ a → readByte t.mem.hbm a = readByte s.mem.hbm a))

/-- Channels and ways (from parts of R328, R330, R572, R573): assignment shows V and starts the clear, release clears V, and the end of a clear leaves
zeros without poison. -/
def Obligations.ChannelsAndWaysTakeTheirWrites : Prop :=
  (∀ (port : Fin 4) (ch : Fin 1024) (w : Word) (s : State), s.reach port.val = true → wbit w 6 = true → s.flag .memChOwn ch.val 6 = false →
    s.permanent (ch.val / 32) (0x90 + ch.val % 32) = false → s.mem.withdrawn.contains ch.val = false → (s.tg ch.val).busy = false →
    ∃ t, exec (.channelAssign port ch w) s = .next t ∧ t.flag .memChOwn ch.val 6 = true ∧ t.fld .memChOwn ch.val 5 0 = wbits w 5 0 ∧
      t.mem = { s.mem with clearing := ch.val :: s.mem.clearing } ∧ Within (pieces [.regs, .mem]) s t) ∧
  (∀ (port : Fin 4) (ch : Fin 1024) (w : Word) (s : State), s.reach port.val = true → wbit w 6 = false → s.flag .memChOwn ch.val 6 = true →
    s.chUsed ch.val = false →
    ∃ t, exec (.channelRelease port ch w) s = .next t ∧ t.flag .memChOwn ch.val 6 = false ∧
      t.mem = { s.mem with clearing := s.mem.clearing.filter (· != ch.val) } ∧ Within (pieces [.regs, .mem]) s t) ∧
  (∀ (ch : Fin 1024) (s : State), s.mem.clearing.contains ch.val = true →
    ∃ t, exec (.channelClearDone ch) s = .next t ∧ t.mem.clearing.contains ch.val = false ∧ Within (pieces [.mem]) s t ∧
      (∀ a, hbmAt (2 * ch.val) 0 ≤ a → a < hbmAt (2 * ch.val + 2) 0 → readByte t.mem.hbm a = 0 ∧ t.mem.poisoned .hbm a = false) ∧
      (∀ a, a < hbmAt (2 * ch.val) 0 ∨ hbmAt (2 * ch.val + 2) 0 ≤ a →
        readByte t.mem.hbm a = readByte s.mem.hbm a ∧ t.mem.poisoned .hbm a = s.mem.poisoned .hbm a)) ∧
  (∀ (port : Fin 4) (cdie : Fin 32) (q j : Fin 4) (w : Word) (s : State), s.reach port.val = true →
    s.flag .memSway (4 * cdie.val + q.val) (8 * j.val + 6) = false → wbit w (8 * j.val + 6) = true →
    s.permanent cdie.val (0x80 + (4 * q.val + j.val)) = false →
    ∃ t, exec (.swayAssign port cdie q w) s = .next t ∧ t.flag .memSway (4 * cdie.val + q.val) (8 * j.val + 6) = true ∧
      t.mem.wayClear.contains (16 * cdie.val + (4 * q.val + j.val)) = true) ∧
  (∀ (port : Fin 4) (cdie : Fin 32) (q j : Fin 4) (w : Word) (s : State), s.reach port.val = true →
    s.flag .memSway (4 * cdie.val + q.val) (8 * j.val + 6) = true → wbit w (8 * j.val + 6) = false →
    s.imgOrPend (s.fld .memSway (4 * cdie.val + q.val) (8 * j.val + 5) (8 * j.val)) = false →
    ∃ t, exec (.swayRelease port cdie q w) s = .next t ∧ t.flag .memSway (4 * cdie.val + q.val) (8 * j.val + 6) = false) ∧
  (∀ (cdie : Fin 32) (way : Fin 16) (s : State), s.mem.wayClear.contains (16 * cdie.val + way.val) = true →
    ∃ t, exec (.wayClearDone cdie way) s = .next t ∧ t.mem.wayClear.contains (16 * cdie.val + way.val) = false ∧ Within (pieces [.mem]) s t ∧
      (∀ a, shAt cdie.val (way.val * 2 ^ 21) ≤ a → a < shAt cdie.val ((way.val + 1) * 2 ^ 21) →
        readByte t.mem.shared a = 0 ∧ t.mem.poisoned .shared a = false) ∧
      (∀ a, a < shAt cdie.val (way.val * 2 ^ 21) ∨ shAt cdie.val ((way.val + 1) * 2 ^ 21) ≤ a →
        readByte t.mem.shared a = readByte s.mem.shared a ∧ t.mem.poisoned .shared a = s.mem.poisoned .shared a)) ∧
  (∀ (port : Fin 4) (gdie : Fin 16) (q j : Fin 4) (w : Word) (s : State), s.reach port.val = true →
    s.flag .gthRway (4 * gdie.val + q.val) (8 * j.val + 6) = false → wbit w (8 * j.val + 6) = true →
    ∃ t, exec (.rwayAssign port gdie q w) s = .next t ∧ t.flag .gthRway (4 * gdie.val + q.val) (8 * j.val + 6) = true ∧
      ∀ l ∈ t.mem.rlines, ¬(l.gdie = gdie.val ∧ l.way = 4 * q.val + j.val)) ∧
  (∀ (port : Fin 4) (gdie : Fin 16) (q j : Fin 4) (w : Word) (s : State), s.reach port.val = true →
    s.flag .gthRway (4 * gdie.val + q.val) (8 * j.val + 6) = true → wbit w (8 * j.val + 6) = false →
    s.imgOrPend (s.fld .gthRway (4 * gdie.val + q.val) (8 * j.val + 5) (8 * j.val)) = false →
    ∃ t, exec (.rwayRelease port gdie q w) s = .next t ∧ t.flag .gthRway (4 * gdie.val + q.val) (8 * j.val + 6) = false)

/-- Releasing ways (R573): a write that only takes V of one way from 1 to 0 is accepted where IMG and PEND of the owning partition are both 0, and only V
changes; otherwise the register stays as it is and WAY_REFUSED is set. -/
def Obligations.WaysAreReleasedFreeOfImages : Prop :=
  (∀ (port : Fin 4) (cdie : Fin 32) (q j : Fin 4) (s : State), s.reach port.val = true →
    let i := 4 * cdie.val + q.val
    s.flag .memSway i (8 * j.val + 6) = true →
    let owner := s.fld .memSway i (8 * j.val + 5) (8 * j.val)
    let w := setBits (s.reg .memSway i) (8 * j.val + 6) (8 * j.val + 6) 0
    ((s.part owner).image = none → (s.part owner).pending = none →
      ∃ t, exec (.swayRelease port cdie q w) s = .next t ∧ t.reg .memSway i = w ∧ t.flag .memStatus 0 2 = s.flag .memStatus 0 2 ∧ Within (pieces [.regs]) s t) ∧
    ((s.part owner).image ≠ none ∨ (s.part owner).pending ≠ none →
      ∃ t, exec (.swayRelease port cdie q w) s = .next t ∧ t.reg .memSway i = s.reg .memSway i ∧ t.flag .memStatus 0 2 = true ∧ Within (pieces [.regs]) s t)) ∧
  (∀ (port : Fin 4) (gdie : Fin 16) (q j : Fin 4) (s : State), s.reach port.val = true →
    let i := 4 * gdie.val + q.val
    s.flag .gthRway i (8 * j.val + 6) = true →
    let owner := s.fld .gthRway i (8 * j.val + 5) (8 * j.val)
    let w := setBits (s.reg .gthRway i) (8 * j.val + 6) (8 * j.val + 6) 0
    ((s.part owner).image = none → (s.part owner).pending = none →
      ∃ t, exec (.rwayRelease port gdie q w) s = .next t ∧ t.reg .gthRway i = w ∧ t.flag .memStatus 0 2 = s.flag .memStatus 0 2 ∧ Within (pieces [.regs]) s t) ∧
    ((s.part owner).image ≠ none ∨ (s.part owner).pending ≠ none →
      ∃ t, exec (.rwayRelease port gdie q w) s = .next t ∧ t.reg .gthRway i = s.reg .gthRway i ∧ t.flag .memStatus 0 2 = true ∧ Within (pieces [.regs]) s t))

/-- Regions, contexts, entry quotas and pool windows (from parts of R310, R311, R348, R356, R369): a write that the checks pass shows V or the new quota,
a release clears V, and a context that is enabled or removed loses its pages. -/
def Obligations.RegionsAndContextsTakeTheirWrites : Prop :=
  (∀ (port : Fin 4) (i : Fin 256) (w : Word) (s : State), s.reach port.val = true → wbit w 8 = true → s.flag .memRgnD i.val 8 = false →
    s.regionOk i.val (s.regionWith i.val (w &&& RG.memRgnD.row.rw)) = true →
    ∃ t, exec (.regionEnable port i w) s = .next t ∧ t.flag .memRgnD i.val 8 = true ∧ t.reg .memRgnD i.val = (s.reg .memRgnD i.val &&& ~~~RG.memRgnD.row.rw) ||| (w &&& RG.memRgnD.row.rw) ∧
      Within (pieces [.regs]) s t) ∧
  (∀ (port : Fin 4) (i : Fin 256) (w : Word) (s : State), s.reach port.val = true → wbit w 8 = false → s.flag .memRgnD i.val 8 = true →
    (s.part (s.region i.val).owner).st = .idle →
    ∃ t, exec (.regionRelease port i w) s = .next t ∧ t.flag .memRgnD i.val 8 = false ∧ Within (pieces [.regs]) s t) ∧
  (∀ (port : Fin 4) (i : Fin 256) (w : Word) (s : State), s.reach port.val = true → wbit w 8 = true → s.flag .memRgnD i.val 8 = true →
    wbit w 22 ≠ s.flag .memRgnD i.val 22 → (wbit w 22 = true ∨ s.rowsIn (s.region i.val) = false) →
    ∃ t, exec (.rowlockWrite port i w) s = .next t ∧ t.flag .memRgnD i.val 22 = wbit w 22 ∧ t.flag .memRgnD i.val 8 = true ∧ Within (pieces [.regs]) s t) ∧
  (∀ (port : Fin 4) (c : Fin 4096) (w : Word) (s : State), s.reach port.val = true → wbit w 6 = true → s.flag .xltCtxA c.val 6 = false → s.ctxOk c.val w = true →
    ∃ t, exec (.contextEnable port c w) s = .next t ∧ t.flag .xltCtxA c.val 6 = true ∧ t.fld .xltCtxA c.val 5 0 = wbits w 5 0 ∧
      t.ctxGen c.val = CtxGen.init ∧ (∀ p ∈ t.xlt.pages, p.ctx ≠ c.val) ∧ (∀ p ∈ s.xlt.pages, p.ctx ≠ c.val → p ∈ t.xlt.pages) ∧
      Within (pieces [.regs, .xlt, .mem]) s t) ∧
  (∀ (port : Fin 4) (c : Fin 4096) (w : Word) (s : State), s.reach port.val = true → wbit w 6 = false → s.flag .xltCtxA c.val 6 = true →
    (s.part (s.fld .xltCtxA c.val 5 0)).st = .idle →
    ∃ t, exec (.contextDisable port c w) s = .next t ∧ t.flag .xltCtxA c.val 6 = false ∧ (∀ p ∈ t.xlt.pages, p.ctx ≠ c.val) ∧
      (∀ p ∈ s.xlt.pages, p.ctx ≠ c.val → p ∈ t.xlt.pages) ∧ Within (pieces [.regs, .xlt]) s t) ∧
  (∀ (port : Fin 4) (p : Fin 64) (w : Word) (s : State), s.reach port.val = true → wbits w 13 0 ≤ 8192 →
    (((List.range 64).filter (· != p.val)).map fun q => s.fld .xltSlq q 13 0).foldl (· + ·) 0 + wbits w 13 0 ≤ 8192 →
    s.entriesOf s.xlt.pages p.val ≤ wbits w 13 0 →
    ∃ t, exec (.xltSlqWrite port p w) s = .next t ∧ t.fld .xltSlq p.val 13 0 = wbits w 13 0 ∧ Within (pieces [.regs]) s t) ∧
  (∀ (port : Fin 4) (i : Fin 64) (w : Word) (s : State), s.reach port.val = true → wbit w 12 = true → s.flag .xltPwinA i.val 12 = false → s.pwinOk i.val w = true →
    ∃ t, exec (.pwinEnable port i w) s = .next t ∧ t.flag .xltPwinA i.val 12 = true ∧ t.fld .xltPwinA i.val 11 0 = wbits w 11 0 ∧ Within (pieces [.regs]) s t) ∧
  (∀ (port : Fin 4) (i : Fin 64) (w : Word) (s : State), s.reach port.val = true → wbit w 12 = false → s.flag .xltPwinA i.val 12 = true →
    ∃ t, exec (.pwinDisable port i w) s = .next t ∧ t.flag .xltPwinA i.val 12 = false ∧ Within (pieces [.regs]) s t)

/-- MAP_LIST and the steps of a withdrawal (from parts of R360 to R365): a list that passes its checks is carried out, and one that fails one completes
with the code and the operation; counts and acknowledgements are taken die by die. -/
def Obligations.MapListsAreCarriedOut : Prop :=
  (∀ (ring : Fin 4096) (seq : Word) (list : List Gran) (bad : List Blemish) (edges : List EdgeErr) (x : Sub) (s : State),
    s.runnable ring.val seq.toNat 0x82 = some x → s.mapBusy (s.admitH x.part) = false →
    let n := x.buf0.len / 16
    let r := if x.buf0.dev then s.readOver (Who.die_ (dieH (s.admitH x.part))) x.ctx x.buf0.addr n bad edges
      else (some (s.readList x list).1, 0, (s.readList x list).2)
    let u := r.2.2
    (r.1 = none → ∀ e, exec (.mapList ring seq list bad edges e) s = .next (u.setSub { x with ran := true })) ∧
    ∀ l, r.1 = some l →
    (∀ c i e, u.checkMap x.part l = .error (c, i) →
      exec (.mapList ring seq list bad edges e) s = .next (u.failMap x.ring x.seq i (tableFault u x.part c))) ∧
    (∀ ctx ops, u.checkMap x.part l = .ok (ctx, ops) → u.badPath ctx ops = none →
      exec (.mapList ring seq list bad edges none) s =
        .next ((u.setSub { x with ran := true }).runOps { part := x.part, ring := x.ring, seq := x.seq } ctx none ops)) ∧
    (∀ ctx ops i level a, u.checkMap x.part l = .ok (ctx, ops) → u.badPath ctx ops = some (i, level, a) →
      let f := { tableFault u x.part 0x0696 with ctx := some ctx, dkind := 1, detail := a, aux := level }
      exec (.mapList ring seq list bad edges none) s = .next (u.failMap x.ring x.seq i f)) ∧
    (∀ ctx ops i (a : BitVec 41) (level : Fin 4), u.checkMap x.part l = .ok (ctx, ops) →
      let f := { tableFault u x.part 0x0696 with ctx := some ctx, dkind := 1, detail := a.toNat, aux := level.val }
      exec (.mapList ring seq list bad edges (some (i, a, level))) s = .next (u.failMap x.ring x.seq i f))) ∧
  (∀ (c : Fin 4096) (die : Fin 64) (w : Withdraw) (s : State), s.withdrawOf c.val .counting = some w → w.dies.contains die.val = true →
    s.outstanding c.val w.gen die.val = [] →
    let w' := { w with dies := w.dies.filter (· != die.val) }
    exec (.withdrawCountReport c die) s = .next (if w'.dies = [] then s.moveFloor w' else s.setWithdraw w')) ∧
  (∀ (c : Fin 4096) (w : Withdraw) (s : State), s.withdrawOf c.val .counting = some w → w.begun + 10000 ≤ s.time.now →
    let f := { tableFault s w.part 0x0410 with ctx := some c.val }
    let hit := (w.dies.flatMap fun d => s.outstanding c.val w.gen d).dedup
    (hit = [] → exec (.withdrawTimeout c) s = .next (s.moveFloor w)) ∧
    (hit ≠ [] → exec (.withdrawTimeout c) s =
      .next ((hit.foldl (fun s q => s.charge q.1 q.2 0 f) (s.raise f)).moveFloor { w with failedOp := some (w.failedOp.getD w.op.1) }))) ∧
  (∀ (c : Fin 4096) (die : Fin 64) (w : Withdraw) (s : State), s.withdrawOf c.val .flooring = some w → w.dies.contains die.val = true →
    let w' := { w with dies := w.dies.filter (· != die.val) }
    exec (.floorAck c die) s = .next (if w'.dies = [] then (s.setWithdraw w').endWithdraw w' else s.setWithdraw w'))

/-- An installed page translates (from parts of R343, R350, R362): after an INSTALL, every address of its pages translates to the memory address at the
same distance, and a write faults where W is 0. Here no page of the context covered the addresses before. -/
def Obligations.InstalledPagesTranslate : Prop :=
  ∀ (c o va : Nat) (s : State), opVa o ≤ va → va < opEnd o →
    (∀ p ∈ s.xlt.pages, p.ctx = c → p.end_ ≤ opVa o ∨ opEnd o ≤ p.va) →
    let t := s.install c o
    ∃ g, t.translate c va false = .ok (opMem o + (va - opVa o), g) ∧ (opW o = true → t.translate c va true = .ok (opMem o + (va - opVa o), g)) ∧
      (opW o = false → ∃ k, t.translate c va true = .error k)

/-- IMAGE_LOAD (from parts of R111 to R113): a LOAD whose image passes every check is recorded as pending with its switch saddle; one that fails a check
completes with the code of that check. Slots, steps and NOPs (from parts of R79, R86, R89, R95, R115 to R118): an instance begins at its start point,
a held operation whose slip reaches 448 cycles charges 0x0520, a step ends with its slips judged, and a NOP occupies its engine. A step whose slip
stays within SLACK charges nothing (from parts of R118): judging the slips of such a step records no fault and fails no submission. -/
def Obligations.SlotsAndStepsTakeEffect : Prop :=
  (∀ (ring : Fin 4096) (seq : Word) (bad : List Blemish) (edges : List EdgeErr) (x : Sub) (b : BufE) (s : State),
    s.runnable ring.val seq.toNat 0x81 = some x → x.bufs.head? = some b →
    let a := s.readOver (Who.die_ (dieH (s.admitH x.part))) x.ctx b.addr (b.len / 16) bad edges
    let u := a.2.2
    (a.1 = none → exec (.imageLoad ring seq bad edges) s = .next (u.setSub { x with ran := true })) ∧
    ∀ l, a.1 = some l →
    (a.2.1 ≠ 0 ∨ (l.any fun g => g.poison) = true → exec (.imageLoad ring seq bad edges) s = .next (u.endWith x 0x0641 0)) ∧
    (a.2.1 = 0 → (l.any fun g => g.poison) = false →
      (∀ c d t, u.checkImage x l bad = (.error (c, d), t) → exec (.imageLoad ring seq bad edges) s = .next (t.endWith x c d)) ∧
      (∀ im t, u.checkImage x l bad = (.ok im, t) →
        let sad := t.switchSaddle x.part (bits x.args 63 0)
        exec (.imageLoad ring seq bad edges) s =
          .next (((t.setPending x.part { image := some im, saddle := sad, ring := x.ring, seq := x.seq }).setSub
            { x with ran := true, info := sad }).finish x.ring x.seq)))) ∧
  ((∀ (p : Fin 64) (cls : Nat) (x : Sub) (s : State),
    (s.subs.find? fun x => x.part == p.val && isQuery x.kind && x.st == .accepted && x.cls == cls && !x.running && x.code == 0 &&
      decide (x.start ≤ s.time.now) && s.partRuns p.val (7 * x.start)) = some x →
    exec (.slotStart p cls) s = .next ((s.setSub { x with running := true }).endInstance x.ring x.seq)) ∧
  (∀ (core : Fin 256) (e : Fin 6) (phase : Fin 7) (r : OpRef) (s : State), (s.eng core.val e.val).held = some r →
    s.cycle phase.val ≥ (s.eng core.val e.val).stated + 448 →
    exec (.slipLimit core e phase) s =
      .next (s.charge r.ring.val r.seq.toNat phase.val (FaultRec.new s 0x0520 (some (core.val / 8)) (engineUnit core.val e.val)))) ∧
  (∀ (r : StepRef) (phase : Fin 7) (x : Sub) (im : Image) (s : State), s.instance? r.ring.val r.seq.toNat = some (x, im) →
    (im.stepsOf x).contains r.step = true → (im.step r.step).unitKind = 0 → x.ended.contains r.step = false →
    let st := im.step r.step
    let cyc := s.cycle phase.val
    let tooFar := (s.slipsOf x im st r.step cyc).any fun p => decide (st.slack < p.2)
    7 * (x.start + st.start) + im.lastEnd st ≤ cyc → s.partRuns x.part (7 * (x.start + st.start) + im.lastTile st) = true →
    (tooFar = false → s.stepGoesOn x im r.step cyc = true → exec (.stepEnd r phase) s = .next s) ∧
    (tooFar = true ∨ s.stepGoesOn x im r.step cyc = false →
      exec (.stepEnd r phase) s = .next (((s.judgeSlips x im st r.step cyc phase.val).endStep x.ring x.seq r.step).endInstance x.ring x.seq))) ∧
  (∀ (r : OpRef) (phase : Fin 7) (o : OpAt) (s : State), s.opAt r 7 = some o → s.mayConsider o (s.cycle phase.val) = true →
    let cyc := s.cycle phase.val
    let e := s.engineOf o
    let until_ := cyc + bits o.op.arg1 9 0
    (e ≤ 3 → cyc < (s.array (4 * o.core + e)).rowEnd → exec (.nop r phase) s = .next (s.holdOp o cyc 0)) ∧
    (e > 3 → cyc < (s.eng o.core e).free → exec (.nop r phase) s = .next (s.holdOp o cyc 0)) ∧
    (e ≤ 3 → (s.array (4 * o.core + e)).rowEnd ≤ cyc →
      exec (.nop r phase) s = .next ((s.issue o cyc until_).setArray (4 * o.core + e) { s.array (4 * o.core + e) with rowEnd := until_ })) ∧
    (e > 3 → (s.eng o.core e).free ≤ cyc → exec (.nop r phase) s = .next (s.issue o cyc until_)))) ∧
  (∀ (x : Sub) (im : Image) (st : ImgStep) (step cyc ph : Nat) (s : State),
    (∀ e, e < 6 → st.engines.testBit e = true →
      (s.eng (im.coreNo st.unit) (if e ≤ 3 then s.runsOnArray im (im.coreNo st.unit) e else e)).slipIn cyc x.ring x.seq step ≤ st.slack) →
    Within (pieces [.hlt, .notes]) s (s.judgeSlips x im st step cyc ph))

/-- The slip limit (R117): where the slip of a held operation has reached 448 cycles, fault 0x0520 is charged to the instance that owns the step; before,
nothing happens. -/
def Obligations.SlipLimitCharges : Prop :=
  ∀ (core : Fin 256) (e : Fin 6) (phase : Fin 7) (r : OpRef) (s : State), (s.eng core.val e.val).held = some r →
    let slip := s.cycle phase.val - (s.eng core.val e.val).stated
    (448 ≤ slip → exec (.slipLimit core e phase) s =
      .next (s.charge r.ring.val r.seq.toNat phase.val (FaultRec.new s 0x0520 (some (core.val / 8)) (engineUnit core.val e.val)))) ∧
    (slip < 448 → exec (.slipLimit core e phase) s = .next s) ∧
    (∀ x, s.sub? r.ring.val r.seq.toNat = some x → x.st = .accepted → x.code = 0 → 448 ≤ slip →
      ∃ t y, exec (.slipLimit core e phase) s = .next t ∧ t.sub? r.ring.val r.seq.toNat = some y ∧ y.code = 0x0520 ∧ y.cancelled = true ∧ (t.eng core.val e.val).held ≠ some r)

/-- The matrix commands (from parts of R90, R95, R115, R126 to R134, R147 to R150, R209, R212): an operation whose port is free and whose inputs are ready
issues in the cycle; otherwise the engine holds it with the reason. A verdict judges the oldest pass, and a replay recomputes its chain. -/
def Obligations.MatrixOperationsIssue : Prop :=
  (∀ (r : OpRef) (phase : Fin 7) (bad : List Blemish) (o : OpAt) (s : State), s.opAt r 1 = some o → s.mayConsider o (s.cycle phase.val) = true →
    let cyc := s.cycle phase.val
    let e := s.engineOf o
    let k := 4 * o.core + e
    let a := s.array k
    let d := OperandD.of (o.im.desc o.op.arg0)
    (cyc < a.loadEnd ∨ (a.fresh = true ∧ sameRun a.shadow.by_ r) → exec (.wLoad r phase bad) s = .next (s.holdOp o cyc 0)) ∧
    (a.loadEnd ≤ cyc → ¬(a.fresh = true ∧ sameRun a.shadow.by_ r) →
      (∀ src, s.missing o cyc (d.reads o.core 0) = some src → exec (.wLoad r phase bad) s = .next (s.holdOp o cyc src)) ∧
      (s.missing o cyc (d.reads o.core 0) = none →
        let s1 := s.meetSram o.x.ctx (d.reads o.core 0) bad
        let lb := s1.mem.loadBank d o.core r
        let t := (s1.issue o cyc cyc).setArray k { a with shadow := lb.1, fresh := true, loadEnd := cyc + loadCycles d.fmt, loadRead := cyc + loadCycles d.fmt }
        exec (.wLoad r phase bad) s = .next (t.feederFaults o e cyc 0 (loadAt d.fmt) (s1.mem.poisonRow d o.core (d.kM1 + 1)) lb.2)))) ∧
  (∀ (r : OpRef) (phase : Fin 7) (faults : List CellFault) (bad : List Blemish) (o : OpAt) (s : State), s.opAt r 2 = some o →
    s.mayConsider o (s.cycle phase.val) = true →
    let cyc := s.cycle phase.val
    let k := 4 * o.core + s.engineOf o
    let a := s.array k
    let d := OperandD.of (o.im.desc o.op.arg0)
    (cyc < a.rowEnd → exec (.pass r phase faults bad) s = .next (s.holdOp o cyc 0)) ∧
    (a.rowEnd ≤ cyc → o.op.rows = 0 → exec (.pass r phase faults bad) s = .next ((s.issue o cyc cyc).setArray k { a with rowEnd := cyc + 1 })) ∧
    (a.rowEnd ≤ cyc → o.op.rows ≠ 0 → (a.fresh = true → a.loadEnd ≤ cyc) → s.loadsIssued o = true →
      (s.queueFull o.core o.op = true → exec (.pass r phase faults bad) s = .next (s.holdOp o cyc 4)) ∧
      (s.queueFull o.core o.op = false → ∀ src, s.missing o cyc (d.reads o.core o.op.rows) = some src →
        exec (.pass r phase faults bad) s = .next (s.holdOp o cyc src)) ∧
      (s.queueFull o.core o.op = false → s.missing o cyc (d.reads o.core o.op.rows) = none →
        exec (.pass r phase faults bad) s =
          .next ((s.meetSram o.x.ctx (d.reads o.core o.op.rows) bad).beginPass o (s.engineOf o) a d cyc faults)))) ∧
  (∀ (core : Fin 256) (array : Fin 4) (phase : Fin 7) (bad : List Blemish) (p : PassS) (l : List PassS) (s : State),
    (s.array (4 * core.val + array.val)).passes = p :: l → p.verdict ≤ s.cycle phase.val →
    let reads : List Acc := if p.acc then [{ store := 7, unit := core.val, lo := 128 * p.tile, hi := 128 * p.tile + p.rows.length }] else []
    let ctx := (s.sub? p.r.ring.val p.r.seq.toNat).elim 0 (·.ctx)
    exec (.passVerdict core array phase bad) s = .next ((s.meetSram ctx reads bad).passVerdict core.val array.val phase.val p)) ∧
  (∀ (core : Fin 256) (phase : Fin 7) (faults : List CellFault) (bad : List Blemish) (q : ReplayS) (x : Sub) (im : Image) (s : State),
    ((s.core core.val).replays.find? fun q => !q.started) = some q → s.started? q.r.ring.val q.r.seq.toNat = some (x, im) →
    let cyc := s.cycle phase.val
    let begin_ := im.windowBase x (im.step q.r.step) + 512 * q.window
    begin_ ≤ cyc → s.partRuns x.part begin_ = true → s.cdieRuns (core.val / 8) begin_ = true →
    ∃ t, exec (.replayStart core phase faults bad) s = .next t ∧ (t.array (4 * core.val + q.array)).rowEnd = cyc + im.layout q.ops ∧
      (t.core core.val).replays.length = (s.core core.val).replays.length ∧
      (∃ q' ∈ (t.core core.val).replays, q'.r = q.r ∧ q'.started = true ∧ q'.verdict = cyc + im.layout q.ops) ∧
      (bad = [] → Within (pieces [.cores, .arrays]) s t)) ∧
  (∀ (r : OpRef) (phase : Fin 7) (bad : List Blemish) (o : OpAt) (tile tag : Nat) (rest : List (Nat × Nat)) (s : State), s.opAt r 4 = some o →
    s.mayConsider o (s.cycle phase.val) = true →
    let cyc := s.cycle phase.val
    let tb := bits o.op.arg0 1 0
    let k := 4 * o.core + bits o.op.arg1 1 0
    (cyc < (s.eng o.core 4).free → exec (.ftqPop r phase bad) s = .next (s.holdOp o cyc 0)) ∧
    ((s.eng o.core 4).free ≤ cyc → s.orderHeld o (o.im.opWrites o.core o.op) cyc = true → exec (.ftqPop r phase bad) s = .next (s.holdOp o cyc 6)) ∧
    ((s.eng o.core 4).free ≤ cyc → s.orderHeld o (o.im.opWrites o.core o.op) cyc = false → (s.array k).ftq = [] →
      exec (.ftqPop r phase bad) s = .next (s.holdOp o cyc 4)) ∧
    ((s.eng o.core 4).free ≤ cyc → s.orderHeld o (o.im.opWrites o.core o.op) cyc = false → (s.array k).ftq = (tile, tag) :: rest → tagPoison tag = false →
    ∃ t, exec (.ftqPop r phase bad) s = .next t ∧ (t.array k).ftq = rest ∧ smGet 0 (t.core o.core).tbTag tb = tag ∧
      t.mem = (s.meetSram o.x.ctx [{ store := 7, unit := o.core, lo := 128 * tile, hi := 128 * tile + 128 }] bad).mem.toTb o.core tile 128 tb)) ∧
  (∀ (r : OpRef) (phase : Fin 7) (bad : List Blemish) (o : OpAt) (s : State), s.opAt r 6 = some o → s.mayConsider o (s.cycle phase.val) = true →
    let cyc := s.cycle phase.val
    let tile := bits o.op.arg0 5 0
    let rows := bits o.op.arg1 7 0
    (cyc < (s.eng o.core 4).free → exec (.accRead r phase bad) s = .next (s.holdOp o cyc 0)) ∧
    ((s.eng o.core 4).free ≤ cyc → s.tilePending o tile = true → exec (.accRead r phase bad) s = .next (s.holdOp o cyc 7)) ∧
    ((s.eng o.core 4).free ≤ cyc → s.tilePending o tile = false → s.orderHeld o (o.im.opWrites o.core o.op) cyc = true →
      exec (.accRead r phase bad) s = .next (s.holdOp o cyc 6)) ∧
    ((s.eng o.core 4).free ≤ cyc → s.tilePending o tile = false → s.orderHeld o (o.im.opWrites o.core o.op) cyc = false →
    ∃ t, exec (.accRead r phase bad) s = .next t ∧
      t.mem = (s.meetSram o.x.ctx [{ store := 7, unit := o.core, lo := 128 * tile, hi := 128 * tile + rows }] bad).mem.toTb o.core tile rows 3)) ∧
  (∀ (r : OpRef) (phase : Fin 7) (faults : List CellFault) (bad : List Blemish) (s : State),
    (s.opAt r 1 = none → exec (.wLoad r phase bad) s = .next (s.afterCharge r 1 phase.val)) ∧
    (s.opAt r 2 = none → exec (.pass r phase faults bad) s = .next (s.afterCharge r 2 phase.val)) ∧
    (s.opAt r 4 = none → exec (.ftqPop r phase bad) s = .next (s.afterCharge r 4 phase.val)) ∧
    (s.opAt r 6 = none → exec (.accRead r phase bad) s = .next (s.afterCharge r 6 phase.val)))

/-- VE_RUN, DMA_RUN and DMA_DATA_READY (from parts of R98, R115, R184 to R206). -/
def Obligations.VectorAndDmaOperationsIssue : Prop :=
  (∀ (r : OpRef) (phase : Fin 7) (bad : List Blemish) (o : OpAt) (s : State), s.opAt r 3 = some o → s.mayConsider o (s.cycle phase.val) = true →
    let cyc := s.cycle phase.val
    let v := VecD.of (o.im.desc o.op.arg0)
    (cyc < (s.eng o.core 4).free → exec (.veRun r phase bad) s = .next (s.holdOp o cyc 0)) ∧
    ((s.eng o.core 4).free ≤ cyc → s.orderHeld o (v.writeAccs o.core) cyc = true → exec (.veRun r phase bad) s = .next (s.holdOp o cyc 6)) ∧
    ((s.eng o.core 4).free ≤ cyc → s.orderHeld o (v.writeAccs o.core) cyc = false → ∀ src, s.missing o cyc (v.readAccs o.core) = some src →
      exec (.veRun r phase bad) s = .next (s.holdOp o cyc src)) ∧
    ((s.eng o.core 4).free ≤ cyc → s.orderHeld o (v.writeAccs o.core) cyc = false → s.missing o cyc (v.readAccs o.core) = none →
    let a := s.meetSram o.x.ctx (v.readAccs o.core) bad
    exec (.veRun r phase bad) s = .next (a.veIssue o v phase.val cyc) ∧ (a.veIssue o v phase.val cyc).mem = (v.run a.mem o.core).1)) ∧
  (∀ (r : OpRef) (phase : Fin 7) (bad : List Blemish) (edges : List EdgeErr) (o : OpAt) (s : State), s.opAt r 5 = some o →
    s.mayConsider o (s.cycle phase.val) = true →
    let cyc := s.cycle phase.val
    let d := DmaD.of (o.im.desc o.op.arg0)
    let w := d.writeAccs o.core
    (cyc < (s.eng o.core 5).free → exec (.dmaRun r phase bad edges) s = .next (s.holdOp o cyc 0)) ∧
    ((s.eng o.core 5).free ≤ cyc → s.orderHeld o w cyc = true →
      exec (.dmaRun r phase bad edges) s = .next (s.holdOp o cyc 6)) ∧
    ((s.eng o.core 5).free ≤ cyc → s.orderHeld o w cyc = false → ∀ src, s.missing o cyc (d.readAccs o.core) = some src →
      exec (.dmaRun r phase bad edges) s = .next (s.holdOp o cyc src)) ∧
    ((s.eng o.core 5).free ≤ cyc → s.orderHeld o w cyc = false → s.missing o cyc (d.readAccs o.core) = none →
    let t := s.issue o cyc (cyc + d.occupancy)
    exec (.dmaRun r phase bad edges) s = .next (if d.bytes = 0 then t else t.startXfer o d cyc phase.val bad edges))) ∧
  (∀ (r : OpRef) (phase : Fin 7) (bad : List Blemish) (edges : List EdgeErr) (s : State),
    (s.opAt r 3 = none → exec (.veRun r phase bad) s = .next (s.afterCharge r 3 phase.val)) ∧
    (s.opAt r 5 = none → exec (.dmaRun r phase bad edges) s = .next (s.afterCharge r 5 phase.val))) ∧
  (∀ (r : OpRef) (phase : Fin 7) (x : Xfer) (s : State),
    (s.xfers.find? fun x => x.r == r && decide (x.ready.getD (x.issued + 24) ≤ s.cycle phase.val) && (x.host.isSome || (DmaD.of x.desc).srcSp != 4)) = some x →
    (x.lost = true → exec (.dmaDataReady r phase) s =
      .next (if (s.instance? r.ring.val r.seq.toNat).isSome then s else s.setXfers (s.xfers.filter (·.r != r)))) ∧
    (x.lost = false →
      let d := DmaD.of x.desc
      let f : FaultRec := { FaultRec.new s 0 (some (x.core / 8)) (engineUnit x.core 5) with ctx := some x.ctx, part := some x.part }
      let charged (u : State) (c : Nat) : State := if agentCode c then u.charge x.r.ring.val x.r.seq.toNat phase.val { f with code := c } else u
      let b := s.xferBytes x d phase.val f
      let a := s.xferSource x d
      (x.allPoison = true → b = (poisonGrans (d.bytes / 16), 0, s)) ∧
      (x.allPoison = false → d.expand = false → x.edges = [] → b = (if d.cvt then d.convert a.1 else a.1, a.2.1, a.2.2)) ∧
      let o := if x.edges = [] then (b.1, charged b.2.2 b.2.1) else (charged b.2.2 b.2.1).goOut x d b.1
      let w := o.2.xferStore x d phase.val o.1 f
      exec (.dmaDataReady r phase) s = .next ((charged w.2 w.1).setXfers ((charged w.2 w.1).xfers.filter (·.r != r)))))

/-- A DMA_RUN with BYTES 0 (from parts of R280) reads and writes nothing, and it occupies its engine for 24 cycles: no store, transfer or submission
changes, and the engine is free again, and every operation that waits for it may issue, at its issue cycle + 24. -/
def Obligations.EmptyDmaMovesNothing : Prop :=
  ∀ (r : OpRef) (phase : Fin 7) (bad : List Blemish) (edges : List EdgeErr) (o : OpAt) (s : State), s.opAt r 5 = some o →
    s.mayConsider o (s.cycle phase.val) = true →
    let cyc := s.cycle phase.val
    let d := DmaD.of (o.im.desc o.op.arg0)
    (s.eng o.core 5).free ≤ cyc → s.orderHeld o (d.writeAccs o.core) cyc = false →
    s.missing o cyc (d.readAccs o.core) = none → d.bytes = 0 → s.engineOf o = 5 →
    ∃ t, exec (.dmaRun r phase bad edges) s = .next t ∧ (t.eng o.core 5).free = cyc + 24 ∧ (t.eng o.core 5).held = none ∧
      (t.eng o.core 5).lastB = (if o.op.loads then (s.eng o.core 5).lastB else some o.r) ∧ Within (pieces [.engines]) s t

/-- The steps of a gather (from parts of R226 to R246): a step starts at its start point, its index list is read and judged, its keys are sorted and wait
for their lookups, which the ticks make, the remote window and the cut-off turn what is still owed into misses, and the outputs are written as their
rows come, the others poisoned at the step's end. -/
def Obligations.GatherStepsTakeEffect : Prop :=
  (∀ (r : StepRef) (x : Sub) (im : Image) (st : ImgStep) (d : GatherD) (s : State), s.gatherAt r = some (x, im, st, d) →
    x.ended.contains r.step = false → s.gstep? r = none → x.start + st.start ≤ s.time.now → s.unitRuns x.part = true → s.dieOk st.unit = true →
    let b := x.buf d.buf
    let a := s.hostRead (.glist r) x.ring x.seq 0 x.part x.ctx b.addr b.len (gdieFault s (st.unit - 32) 1 x.ctx x.part 0)
    let begun : State → Option (List Gran) → GStep := fun t l =>
      { r := r, gdie := st.unit - 32, part := x.part, ctx := x.ctx, start := t.time.now, phase := .listing, list := l, sortEnd := 0, tabs := [],
        dropOff := 0, drops := [], keys := [], windowShut := false, cache := [], written := [], lost := false, missed := [] }
    (d.buf = 7 ∨ b.dev = true → exec (.gatherStepStart r) s = .next (s.setGsteps (begun s none :: s.gsteps))) ∧
    (d.buf ≠ 7 → b.dev = false → exec (.gatherStepStart r) s = .next (a.2.setGsteps (begun a.2 a.1 :: a.2.gsteps)))) ∧
  (∀ (r : StepRef) (bad : List Blemish) (edges : List EdgeErr) (x : Sub) (im : Image) (st : ImgStep) (d : GatherD) (g : GStep) (s : State),
    s.gatherAt r = some (x, im, st, d) → s.gstep? r = some g → g.phase = .listing → g.lost = false → s.listPending r = false → s.unitRuns x.part = true →
    let a := s.slotGrans (Who.die_ (dieG g.gdie)) x d.buf (g.list.getD []) bad edges
    let u := a.2.2
    (a.1 = none → exec (.gatherListArrived r bad edges) s = .next (u.setGstep { g with lost := true })) ∧
    ∀ l, a.1 = some l →
      let found := listCode l (x.slotLen d.buf) d (im.gtables st)
      let code := if owed a.2.1 ∧ (l.any fun g => g.poison) = true ∧ found = 0x0240 then a.2.1 else found
      (code ≠ 0 →
        exec (.gatherListArrived r bad edges) s = .next ((u.dropGstep r).charge x.ring x.seq 0 (gdieFault u g.gdie 0 x.ctx x.part code))) ∧
      (code = 0 →
        let h := GHead.of ((gransNat l d.listOff 16).getD 0)
        let gt : List GTab := (listEntries l d).map fun e => { idx := indicesOf l e, bags := bagsOf l e }
        exec (.gatherListArrived r bad edges) s =
          .next (u.setGstep { g with phase := .sorting, sortEnd := u.time.now + 28 + ceilDiv h.total 256, tabs := gt, dropOff := h.dropOff }))) ∧
  (∀ (r : StepRef) (cache : List (Nat × Nat × Upset)) (x : Sub) (im : Image) (st : ImgStep) (d : GatherD) (g : GStep) (s : State),
    s.gatherAt r = some (x, im, st, d) → s.gstep? r = some g → g.phase = .sorting → g.sortEnd ≤ s.time.now → s.unitRuns x.part = true →
    let keys := sortKeys (im.gtables st) g.tabs
    ∃ g' : GStep, exec (.sortEnd r cache) s = .next ((s.setGstep g').shutWindow r) ∧ g'.r = g.r ∧ g'.phase = .fetching ∧ g'.keys = keys ∧
      g'.drops = dropsOf (im.gtables st) g.tabs ∧ g'.cache = cache ∧ g'.tabs = g.tabs ∧ g'.written = g.written ∧
      (∀ k ∈ g'.keys, k.st = .queued)) ∧
  (∀ (r : StepRef) (key : Nat) (upset : List Upset) (edges : List EdgeErr) (x : Sub) (im : Image) (st : ImgStep) (d : GatherD) (g : GStep) (k : GKey)
    (e : TableEntry) (s : State), s.gatherAt r = some (x, im, st, d) → s.gstep? r = some g → g.keys[key]? = some k → k.st = .sent → k.remote = false →
    (im.gtables st)[k.t]? = some e →
    let on := fun q : EdgeErr => (List.range (16 * rowLines e.twide e.dim)).any fun i => (s.rowDie g e k i).any (between (dieG g.gdie) · q)
    let u := s.countHeaders on edges
    (∀ q, (edges.find? fun q => edgeLost q && on q) = some q →
      exec (.rowFetchReply r key upset edges) s = .next ((u.setGstep (g.setKey key { k with st := .lost })).raise (edgeFault u 0x0106 q))) ∧
    ((edges.find? fun q => edgeLost q && on q) = none →
      let a := u.readRow g e k upset edges
      exec (.rowFetchReply r key upset edges) s = .next (a.2.setGstep (g.setKey key a.1)))) ∧
  (∀ (r : StepRef) (x : Sub) (im : Image) (st : ImgStep) (d : GatherD) (g : GStep) (s : State), s.gatherAt r = some (x, im, st, d) →
    s.gstep? r = some g → s.unitRuns x.part = true → g.phase = .fetching → g.windowShut = false →
    (s.time.now ≤ x.start + st.start + st.remoteWin → exec (.remoteWindowClose r) s = .next s) ∧
    (x.start + st.start + st.remoteWin < s.time.now →
      let a := s.missKeys g (im.gtables st) (·.st == .queued) g.keys
      exec (.remoteWindowClose r) s = .next (a.2.setGstep { g with windowShut := true, keys := a.1 }))) ∧
  (∀ (r : StepRef) (bad : List Blemish) (edges : List EdgeErr) (x : Sub) (im : Image) (st : ImgStep) (d : GatherD) (g : GStep) (s : State),
    s.gatherAt r = some (x, im, st, d) → s.gstep? r = some g → s.unitRuns x.part = true → g.phase = .fetching →
    x.start + st.start + st.remoteWin + 2000 ≤ s.time.now →
    let l := (g.unwritten (im.gtables st)).filter (·.2.2.remote)
    let a := s.missKeys g (im.gtables st) (g.needs (im.gtables st)) g.keys
    (l = [] → exec (.remoteCutoff r bad edges) s = .next (s.gatherDone r bad edges)) ∧
    (l ≠ [] → exec (.remoteCutoff r bad edges) s =
      .next ((a.2.putOutputs { g with windowShut := true, keys := a.1 } d (im.gtables st) (poisonOut l) edges).gatherDone r bad edges))) ∧
  (∀ (r : StepRef) (bad : List Blemish) (edges : List EdgeErr) (x : Sub) (im : Image) (st : ImgStep) (d : GatherD) (g : GStep) (s : State),
    s.gatherAt r = some (x, im, st, d) → s.gstep? r = some g → s.unitRuns x.part = true → s.time.now < x.start + st.start + st.remoteWin + 2000 →
    g.phase = .fetching → (∀ k ∈ g.keys, k.remote = true → k.st = .sent → s.time.now ≤ k.issued + 1968) →
    let l := (g.unwritten (im.gtables st)).filter fun p => !p.2.2.out
    exec (.gatherOutputsWritten r bad edges) s = .next ((s.putOutputs g d (im.gtables st)
      (l.filter (·.2.2.remote) ++ l.filter fun p => !p.2.2.remote) edges).gatherDone r bad edges)) ∧
  (∀ (r : StepRef) (bad : List Blemish) (edges : List EdgeErr) (x : Sub) (im : Image) (st : ImgStep) (d : GatherD) (g : GStep) (s : State),
    let u := (s.cutRemote r edges).gatherDone r bad edges
    s.gatherAt r = some (x, im, st, d) → s.unitRuns x.part = true → u.gstep? r = some g → x.start + st.start + st.length ≤ u.time.now →
    let tabs := im.gtables st
    let remoteLeft := g.phase == .fetching && !g.lost && (g.unwritten tabs).all fun p => p.2.2.remote
    let a := u.missKeys g tabs GKey.out g.keys
    let dead := fun p : Nat × Nat × ORow => !p.2.2.remote || p.2.2.out
    let v := a.2.putOutputs { g with keys := a.1, lost := false } d tabs
      (((g.unwritten tabs).filter fun p => !dead p) ++ poisonOut ((g.unwritten tabs).filter dead)) edges
    let t := ((v.gstep? r).elim v v.sweepGstep).endStep x.ring x.seq r.step
    (remoteLeft = true → exec (.gstepTimeout r bad edges) s = .next u) ∧
    (remoteLeft = false → exec (.gstepTimeout r bad edges) s =
      .next (t.charge x.ring x.seq 0 { gdieFault t g.gdie 1 x.ctx x.part 0x0521 with dkind := 7, detail := r.step })))

/-- Host transfer and fabric send steps (from parts of R393, R428): a step that its unit may run moves its bytes or issues its requests. -/
def Obligations.TransferStepsTakeEffect : Prop :=
  (∀ (r : StepRef) (bad : List Blemish) (edges : List EdgeErr) (x : Sub) (im : Image) (st : ImgStep) (s : State),
    s.stepAt r 3 = some (x, im, st) → s.unitMay x st r = true →
    let n := im.desc st.first
    let d := XferD.of n
    let b := d.len x.items
    let u := s.newUstep x r n (if d.perItem then d.bytes * x.items else b) (if d.locSp = 2 then [] else s.pagesOf st.unit x.ctx d.loc b)
    (b = 0 → exec (.hostTransferStep r bad edges) s = .next (s.unitStepEnd r)) ∧
    (b ≠ 0 → s.portWaits x im st d b = true → exec (.hostTransferStep r bad edges) s = .next s) ∧
    (b ≠ 0 → s.portWaits x im st d b = false → d.toBuf = true →
      exec (.hostTransferStep r bad edges) s = .next (s.transferOut x r u st.unit d b bad edges)) ∧
    (b ≠ 0 → s.portWaits x im st d b = false → d.toBuf = false →
      let v := if d.locSp = 2 then s else s.lookUp r st.unit x.ctx d.loc b true (xferFault s u st.unit d)
      exec (.hostTransferStep r bad edges) s = .next (v.transferIn x r u st.unit d b bad edges))) ∧
  (∀ (r : StepRef) (bad : List Blemish) (edges : List EdgeErr) (x : Sub) (im : Image) (st : ImgStep) (s : State),
    s.stepAt r 2 = some (x, im, st) → s.unitMay x st r = true →
    let n := im.desc st.first
    let d := SendD.of n
    let u := s.newUstep x r n d.destBytes (if d.locSp = 2 then [] else s.pagesOf st.unit x.ctx d.loc (max 16 d.bytes))
    (d.op ≠ 2 → d.bytes = 0 → exec (.fabricSendStep r bad edges) s = .next (s.unitStepEnd r)) ∧
    let may := (s.allowance x im st d.rsvFirst d.rsvN 7 (st.unit - 48)).all (d.wire ≤ ·)
    (¬(d.op ≠ 2 ∧ d.bytes = 0) → may = false → exec (.fabricSendStep r bad edges) s = .next s) ∧
    (¬(d.op ≠ 2 ∧ d.bytes = 0) → may = true →
      let v := if d.op = 0 ∨ d.locSp = 2 then s else s.lookUp r st.unit x.ctx d.loc d.destBytes true (sendFault s u st.unit d)
      let a := if d.op = 0 then v.locRead st.unit x.part x.ctx d.locSp d.locDie d.loc (d.bytes / 16) bad edges else (some [], 0, v)
      (a.1 = none → exec (.fabricSendStep r bad edges) s = .next (a.2.2.strand u)) ∧
      ∀ l, a.1 = some l →
        let f := { sendFault a.2.2 u st.unit d with dkind := if d.locSp = 2 then 0 else 2, detail := if d.locSp = 2 then 0 else d.loc }
        let t := a.2.2.chargeStep r f a.2.1
        let issue := x.start + st.start
        (∀ b v, t.sendRequest (.send r) (st.unit - 48) d.dev x.part x.ctx issue d.timed (t.sendFrames d issue l) = (.ok b, v) →
          exec (.fabricSendStep r bad edges) s = .next (v.strand u)) ∧
        (∀ c v, t.sendRequest (.send r) (st.unit - 48) d.dev x.part x.ctx issue d.timed (t.sendFrames d issue l) = (.error c, v) →
          exec (.fabricSendStep r bad edges) s = .next (v.endSend u c [] edges))))

/-- Embedding updates (from parts of R266 to R291): a batch is read and sent, a record is admitted or refused with its code, the records of a row are
committed at their saddle, and the outcome is reported once the window is past. The update registers (from parts of R257, R259, R571): GTH_UPD_CTRL,
GTH_UPD_QUOTA and the cap table take a write that their rules allow; a refused one changes nothing of them and sets the bit of GTH_UPD_STATUS that
names the rule. -/
def Obligations.UpdatesTakeTheirEffect : Prop :=
  ((∀ (ring : Fin 4096) (seq : Word) (data : List Gran) (bad : List Blemish) (edges : List EdgeErr) (x : Sub) (s : State),
    s.batchSub ring.val seq.toNat = some x → s.domainRuns = true →
    (x.buf0.dev = true →
      let a := s.readOver (Who.die_ (dieG (s.fld .gthUpdCtrl x.part 3 0))) x.ctx x.buf0.addr (x.buf0.len / 16) bad edges
      (∀ l, a.1 = some l → exec (.updateBatchReadDone ring seq data bad edges) s = .next (a.2.2.batchDone x l)) ∧
      (a.1 = none → exec (.updateBatchReadDone ring seq data bad edges) s = .next (a.2.2.setSub { x with ran := true }))) ∧
    (x.buf0.dev = false →
      let came := s.reads.any fun q => q.purpose == ReadFor.batch x.ring x.seq
      let l := data.take (x.buf0.len / 16)
      let h := s.admitH x.part
      (came = true → exec (.updateBatchReadDone ring seq data bad edges) s =
        .next (((s.setReads (s.reads.filter fun q => q.purpose != ReadFor.batch x.ring x.seq)).hostPoison x.ctx x.part l).batchDone x l)) ∧
      (came = false → exec (.updateBatchReadDone ring seq data bad edges) s =
        .next (((s.raise (portFault s h 0x0902 x.ctx x.part)).fencedAccess h x.ring x.seq 0 x.ctx x.part).batchDone x
          (poisonGrans (x.buf0.len / 16)))))) ∧
  (∀ (gdie : Fin 16) (u : UpdRec) (edges : List EdgeErr) (st : Staged) (s : State),
    (s.upd.flight.find? fun st => st.gdie == gdie.val && st.u == u) = some st →
    let first := s.upd.flight.find? fun x => x.gdie == st.gdie && s.recordFrom x == s.recordFrom st
    let t := s.setUpd { s.upd with flight := s.upd.flight.erase st }
    let a := t.sendOver (t.recordFrom st) (dieG gdie.val) (mkGrans (fun _ => u.poison) u.data (ceilDiv u.data.length 16) 0) edges
    (first ≠ some st → exec (.updateRecordArrival gdie u edges) s = .next s) ∧
    (first = some st → a.1 = none → exec (.updateRecordArrival gdie u edges) s = .next a.2) ∧
    (first = some st → ∀ l, a.1 = some l →
      let u' := { u with data := (gransBytes l).take u.data.length, poison := u.poison || l.any (·.poison) }
      let st' := { st with u := u' }
      let code := a.2.rejects st'
      let o := { a.2.outcome st' with records := satAdd (2 ^ 32 - 1) (a.2.outcome st').records 1 }
      (code ≠ 0 → exec (.updateRecordArrival gdie u edges) s =
        .next ((a.2.setOutcome (o.fail code (a.2.rowKey st'))).raise (st'.fault a.2 code))) ∧
      (code = 0 → ∃ v, exec (.updateRecordArrival gdie u edges) s = .next v ∧ v.upd.staging = a.2.upd.staging ++ [st'] ∧
        v.upd.cap = (gdie.val, u.src.toNat, u.saddle.toNat, u.stride.toNat) :: a.2.upd.cap ∧ Within (pieces [.upd]) a.2 v))) ∧
  (∀ (gdie : Fin 16) (s : State),
    ∃ t, exec (.updateClose gdie) s = .next t ∧
      (∀ st ∈ t.upd.staging, st.gdie = gdie.val → s.time.now + 256 < st.u.saddle.toNat) ∧
      (∀ st ∈ s.upd.staging, st.gdie = gdie.val → st.u.saddle.toNat ≤ s.time.now + 256 → st ∈ t.upd.applying) ∧
      (∀ st ∈ s.upd.staging, st ∈ t.upd.staging ∨ st ∈ t.upd.applying) ∧ s.upd.applying <+: t.upd.applying ∧ Within (pieces [.upd]) s t) ∧
  (∀ (gdie : Fin 16) (upset : List Upset) (staged : List (Nat × Upset)) (edges back : List EdgeErr) (st : Staged) (rest : List Staged) (s : State),
    s.nextRow gdie.val = st :: rest → s.domainRuns = true → s.dieOk (dieG gdie.val) = true →
    let row := st :: rest
    let underWay := st.cxl.isSome && (s.cxlRow gdie.val).isSome
    (s.updatable st = false → exec (.rowCommit gdie upset staged edges back) s = .next (s.rowFails row 0x0673)) ∧
    (s.updatable st = true → underWay = true → exec (.rowCommit gdie upset staged edges back) s = .next (s.applyRow row st upset staged edges back)) ∧
    (s.updatable st = true → underWay = false → s.paceRow st = none → exec (.rowCommit gdie upset staged edges back) s = .next s) ∧
    (∀ t, s.updatable st = true → underWay = false → s.paceRow st = some t →
      exec (.rowCommit gdie upset staged edges back) s = .next (t.applyRow row st upset staged edges back))) ∧
  (∀ (row : List Staged) (st : Staged) (upset : List Upset) (staged : List (Nat × Upset)) (edges back : List EdgeErr) (s : State),
    let a := s.meetStaged row staged
    (a.1.any (·.u.poison) = true → s.applyRow row st upset staged edges back = a.2.rowFails row 0x0230) ∧
    (a.1.any (·.u.poison) = false → st.cxl = none → s.applyRow row st upset staged edges back = a.2.commitRow row upset edges back) ∧
    (∀ h, a.1.any (·.u.poison) = false → st.cxl = some h → s.applyRow row st upset staged edges back = a.2.commitCxl row h edges)) ∧
  (∀ (gdie : Fin 16) (src : BitVec 16) (serial : Word) (o : HomeOut) (s : State),
    (s.upd.outcomes.find? fun o => o.gdie == gdie.val && o.src == src.toNat && o.serial == serial.toNat && !o.sent) = some o →
    o.saddle + s.homeWindow gdie.val o.part ≤ s.time.now → s.homeBusy gdie.val src.toNat serial.toNat = false →
    let t := s.setUpd { s.upd with outcomes := s.upd.outcomes.filter fun x => !x.same o }
    (∀ q, o.port = some q → t.isSelf o.src = false → exec (.updateReportSend gdie src serial) s = .next (t.sendReport o q)) ∧
    (o.port = none ∨ t.isSelf o.src = true → exec (.updateReportSend gdie src serial) s = .next (t.sendOutcome o))) ∧
  (∀ (serial : Word) (dev : BitVec 16) (gdie : Fin 16) (edges : List EdgeErr) (o : HomeOut) (s : State),
    (s.upd.outcomes.find? fun o => o.sent && o.dev == dev.toNat && o.gdie == gdie.val && o.serial == serial.toNat) = some o →
    let ends := fun x : HomeOut => (x.origin, (s.ingestOf x).map (·.gdie))
    let first := s.upd.outcomes.find? fun x => x.sent && ends x == ends o
    let t := s.setUpd { s.upd with outcomes := s.upd.outcomes.filter fun x => !x.same o }
    (first ≠ some o → exec (.updateReportArrival serial dev gdie edges) s = .next s) ∧
    (first = some o → ∀ i, s.ingestOf o = some i →
      let a := t.sendOver o.origin (dieG i.gdie) [] edges
      let late := decide (a.2.time.now > i.saddle + i.window + 2000) || i.homes.any fun h => h.dev == o.dev && h.gdie == o.gdie && h.done && h.status == 0x0510
      (a.1 = none ∨ late = true → exec (.updateReportArrival serial dev gdie edges) s = .next a.2) ∧
      (a.1 ≠ none → late = false → exec (.updateReportArrival serial dev gdie edges) s = .next (a.2.putIngest (i.reply o o.port.isNone) edges)))) ∧
  (∀ (serial : Word) (dev : BitVec 16) (gdie : Fin 16) (records : Word) (edges : List EdgeErr) (i : Ingest) (s : State),
    (s.upd.ingests.find? fun i => i.serial == serial.toNat) = some i →
    let known := i.homes.find? fun h => h.dev == dev.toNat && h.gdie == gdie.val
    let waits := known.elim (i.owed.any fun p => p.1 == dev.toNat && p.2 != 0) fun h => !h.done
    (i.saddle + i.window + 2000 < s.time.now → waits = true →
      exec (.updateReportTimeout serial dev gdie records edges) s = .next (s.putIngest (i.silent dev.toNat gdie.val records.toNat) edges)) ∧
    (s.time.now ≤ i.saddle + i.window + 2000 ∨ waits = false → exec (.updateReportTimeout serial dev gdie records edges) s = .next s)) ∧
  (∀ (i : Ingest) (dev gdie records : Nat),
    (∃ h ∈ (i.silent dev gdie records).homes, h.dev = dev ∧ h.gdie = gdie ∧ h.done = true ∧ h.status = 0x0510) ∧
    (∀ h ∈ i.homes, ¬(h.dev = dev ∧ h.gdie = gdie) → h ∈ (i.silent dev gdie records).homes))) ∧
  ((∀ (port : Fin 4) (p : Fin 64) (w : Word) (s : State), s.reach port.val = true →
    (wbit w 4 = true → ∃ k, k < 16 ∧ s.wayOwner .gthRway (wbits w 3 0) k = some p.val) → s.dieOk (dieG (wbits w 3 0)) = true →
    (∀ x ∈ s.subs, ¬(x.part = p.val ∧ x.kind = 0x80 ∧ x.st = .accepted)) →
    exec (.gthUpdCtrlWrite port p w) s = .next (s.putRw .gthUpdCtrl p.val w)) ∧
  (∀ (port : Fin 4) (p : Fin 64) (w : Word) (s : State), s.reach port.val = true →
    (wbits w 26 0 ≤ 2 ^ 26 → exec (.gthUpdQuotaWrite port p w) s = .next (s.putRw .gthUpdQuota p.val w)) ∧
    (2 ^ 26 < wbits w 26 0 →
      exec (.gthUpdQuotaWrite port p w) s = .next ((s.setBit .gthUpdStatus 0 2).regErr (RG.off .gthUpdQuota p.val) 4))) ∧
  (∀ (port : Fin 4) (g : Fin 16) (e : Fin 256) (w : Word) (s : State), s.reach port.val = true →
    let i := 256 * g.val + e.val
    let t := s.putRw .gthUpdCap i w
    (wbit w 30 = true → ∀ j, j < 256 → j ≠ e.val → s.flag .gthUpdCap (256 * g.val + j) 30 = true →
      s.fld .gthUpdCap (256 * g.val + j) 15 0 ≠ wbits w 15 0) →
    capFits (t.capSum g.val) (s.window g.val []) = true → exec (.gthUpdCapWrite port g e w) s = .next t))

/-- Host ports (from parts of R375, R377, R384, R407 to R413, R548, R552, R574): the events of a port's link, reset and reference clock, its mode, and the
completion of a host read. The loss of a host (from parts of R383, R407): its port is fenced, and every ring the port serves is fenced with it. -/
def Obligations.HostPortEventsTakeTheirEffect : Prop :=
  ((∀ (port : Fin 4) (id : Nat) (status : ReadStatus) (data : List Gran) (edges : List EdgeErr) (q : HostRead) (s : State),
    (s.reads.find? fun q => q.id == id && q.port == port.val) = some q →
    let n := ceilDiv q.len 16
    let u := if status = .ok then s else s.raise (portFault s port.val 0x0421 q.ctx q.part)
    let a := (u.dropRead id).fetchOver (u.readerOf q) (fun _ => some (dieH port.val)) n edges fun _ _ s => (readData n status data, 0, s)
    (a.1 = none → exec (.hostReadCompletion port id status data edges) s = .next a.2.2) ∧
    (∀ l, a.1 = some l → exec (.hostReadCompletion port id status data edges) s = .next (a.2.2.deliver q l (decide (status = .ok)) edges))) ∧
  (∀ (port : Fin 4) (s : State), (s.port port.val).active = true →
    ((s.port port.val).cxl = true → exec (.linkDown port) s =
      .next ((s.setBit .hqPortEvt port.val 0).setPort port.val { s.port port.val with link := .down })) ∧
    ((s.port port.val).cxl = false → exec (.linkDown port) s = .next (s.loseHost port.val 0 .down) ∧
      exec (.flr port) s = .next (s.loseHost port.val 4 (s.port port.val).link) ∧ exec (.retrain port) s = .next (s.setBit .hqPortEvt port.val 1))) ∧
  (∀ (port : Fin 4) (perst : Bool) (s : State), (s.port port.val).active = true ∨ perst = true → s.excluded (dieH port.val) = false →
    exec (.hostReset port perst) s =
      .next ((s.setPort port.val { s.port port.val with perst := (s.port port.val).perst || perst }).loseLink port.val 3)) ∧
  (∀ (port : Fin 4) (width : BitVec 5) (rate : BitVec 4) (s : State), (s.port port.val).active = false → (s.port port.val).perst = false →
    (s.port port.val).refclk = true → s.excluded (dieH port.val) = false →
    ∃ t, exec (.linkUp port width rate) s = .next t ∧ (t.port port.val).active = true ∧ (t.port port.val).width = width.toNat ∧
      (t.port port.val).rate = rate.toNat ∧ (t.port port.val).fenced = (s.port port.val).fenced ∧
      (t.port port.val).cxl = s.flag .hqPortCfg port.val 0 ∧ (t.port port.val).lostAt = none ∧
      ((t.port port.val).link = .up ↔ width = 16 ∧ rate.toNat = if s.flag .hqPortCfg port.val 0 then 6 else 7) ∧
      t.flag .hqPortEvt port.val 2 = true ∧ (∀ p, p ≠ port.val → t.port p = s.port p) ∧ Within (pieces [.ports, .regs]) s t) ∧
  (∀ (port : Fin 4) (lost : Nat) (s : State), (s.port port.val).lostAt = some lost → (s.port port.val).active = false →
    (s.port port.val).lostArmed = true → lost + 100000000 ≤ s.time.now →
    let t := (s.setPort port.val { s.port port.val with lostAt := none, lostArmed := false }).setBit .hqPortEvt port.val 5
    exec (.hostLinkGiveup port) s =
      .next ((t.raise (FaultRec.new t 0x0903 (some (dieH port.val)) 0x10)).resetDevice 0x0903 (dieH port.val) 0x10 true [] false)) ∧
  (∀ (port n : Fin 4) (w : Word) (s : State), s.reach port.val = true → s.locks.contains (RG.off .hqPortCfg n.val) = false →
    let t := (s.putRw .hqPortCfg n.val w).setLocks (RG.off .hqPortCfg n.val :: s.locks)
    (wbit w 0 = false → exec (.portModeWrite port n w) s = .next t) ∧
    (wbit w 0 = true → s.mayCxl n.val = false → exec (.portModeWrite port n w) s = .next (s.regErr (RG.off .hqPortCfg n.val) 4)) ∧
    (wbit w 0 = true → s.mayCxl n.val = true → s.excluded (dieH n.val) = true → exec (.portModeWrite port n w) s = .next t) ∧
    (wbit w 0 = true → s.mayCxl n.val = true → s.excluded (dieH n.val) = false →
      let u := t.loseHost n.val 0 .training
      exec (.portModeWrite port n w) s = .next (u.setPort n.val { u.port n.val with cxl := true, lostAt := none, lostArmed := false }))) ∧
  (∀ (port : Fin 4) (s : State), (s.port port.val).refclk = true →
    let t := (s.setPort port.val { s.port port.val with refclk := false }).setBit .pwrEvt 0 (6 + port.val)
    exec (.refclkLost port) s = .next (if (s.port port.val).link = .down then t else t.loseLink port.val 0)) ∧
  (∀ (port : Fin 4) (s : State), exec (.refclkReturn port) s = .next (s.setPort port.val { s.port port.val with refclk := true })) ∧
  (∀ (port : Fin 4) (s : State), (s.port port.val).perst = true → s.excluded (dieH port.val) = false →
    exec (.perstNDeassert port) s =
      .next (s.setPort port.val { s.port port.val with perst := false, link := .training, cxl := s.flag .hqPortCfg port.val 0 })) ∧
  (∀ (port : Fin 4) (perst : Bool) (width : BitVec 5) (rate : BitVec 4) (s : State), s.excluded (dieH port.val) = true →
    exec (.hostReset port perst) s = .next s ∧ exec (.linkUp port width rate) s = .next s ∧ exec (.perstNDeassert port) s = .next s)) ∧
  (∀ (p : Fin 4) (evt : Nat) (link : LinkSt) (s : State),
    let t := s.loseHost p.val evt link
    (t.port p.val).fenced = true ∧ (t.port p.val).link = link ∧
      (∀ r ∈ s.ringsOn p.val, (s.ring r).st ≠ .disabled → (t.ring r).st = .fenced) ∧
      (∀ q, q ≠ p.val → { t.port q with due := [], lastLine := 0 } = { s.port q with due := [], lastLine := 0 }))

/-- The loss of a reference clock (R552) takes the port's link down: in PCIe mode as a host loss, with the port and its rings fenced, in CXL mode as the
loss of the expander. -/
def Obligations.ClockLossTakesTheLinkDown : Prop :=
  ∀ (port : Fin 4) (s : State), (s.port port.val).refclk = true →
    ∃ t, exec (.refclkLost port) s = .next t ∧ (t.port port.val).link = .down ∧ (t.port port.val).refclk = false ∧
      ((s.port port.val).link ≠ .down → (s.port port.val).cxl = false → (t.port port.val).fenced = true ∧
        ∀ r ∈ s.ringsOn port.val, (s.ring r).st ≠ .disabled → (t.ring r).st = .fenced) ∧
      ((s.port port.val).cxl = true → t.subs = s.subs ∧ t.rings = s.rings) ∧
      (∀ p, p ≠ port.val → { t.port p with due := [], lastLine := 0 } = { s.port p with due := [], lastLine := 0 })

/-- The pool's request frames (from parts of R28, R370, R420, R429, R430, R434, R435, R437): a frame of a request that is complete, gated by nothing and
addressed to memory of this device is carried out and answered, unless a packet of it is discarded on the mesh; one that the gate stops is answered
with the gate's code, and one for a CXL member goes to the member. A request that a CXL member serves (from parts of R439 to R441): an access past the
member's capacity or without its right is answered with 0x0430, any other waits for the expander, whose completion answers it. Update records, update
reports and responses that arrive by the fabric (from parts of R274, R427, R432, R444). A remote request whose reply has not come 2,000 ticks after
its issue fails with 0x0510 (from parts of R431, R461). -/
def Obligations.PoolRequestsAreServed : Prop :=
  ((∀ (port : Fin 64) (f : Frame) (edges : List EdgeErr) (t : State) (a : Arrived) (s : State), s.arrive port.val 1 f = (t, some a) →
    let h := a.head f
    let die := dieF (port.val / 8)
    (h.fence && a.s.cxlBusy port.val h) = false →
    (a.s.gate h true ≠ 0 → exec (.write port f edges) s = .next (a.s.respond port.val h (a.s.gate h true) [])) ∧
    (a.s.gate h true = 0 → ∀ m, a.s.memberOf h.dst.toNat = some m →
      exec (.write port f edges) s = .next (a.s.memberReq m port.val h (16 * a.data.length) a.data edges)) ∧
    (a.s.gate h true = 0 → a.s.memberOf h.dst.toNat = none →
      let r := a.s.carryOver die (fun i => a.s.poolDie die (h.offset.toNat + 16 * i)) a.data edges fun i l s =>
        s.poolWrite die (h.offset.toNat + 16 * i) l
      (r.1 = none → exec (.write port f edges) s = .next r.2) ∧
      (∀ c, r.1 = some c → exec (.write port f edges) s = .next (r.2.respond port.val h c [])))) ∧
  (∀ (port : Fin 64) (f : Frame) (bad : List Blemish) (edges : List EdgeErr) (t : State) (a : Arrived) (s : State), s.arrive port.val 2 f = (t, some a) →
    (f.fence && a.s.cxlBusy port.val f) = false → a.s.gate f true = 0 → a.s.memberOf f.dst.toNat = none →
    let die := dieF (port.val / 8)
    let o := f.offset.toNat
    let n := f.bytes.toNat / 16
    let r := (a.s.meetPool o n bad).fetchOver die (fun i => a.s.poolDie die (o + 16 * i)) n edges fun i k s => s.poolRead die (o + 16 * i) k
    (r.1 = none → exec (.read port f bad edges) s = .next r.2.2) ∧
    (∀ l, r.1 = some l → exec (.read port f bad edges) s = .next (r.2.2.respond port.val f r.2.1 l))) ∧
  (∀ (port : Fin 64) (f : Frame) (upset : List Upset) (edges : List EdgeErr) (t : State) (a : Arrived) (s : State), s.arrive port.val 3 f = (t, some a) →
    (f.fence && a.s.cxlBusy port.val f) = false → a.s.gate f true = 0 → a.s.memberOf f.dst.toNat = none →
    let r := a.s.poolRow (dieF (port.val / 8)) f.offset.toNat (f.bytes.toNat / 256) upset edges
    (r.1 = none → exec (.rowRead port f upset edges) s = .next r.2.2) ∧
    (∀ l, r.1 = some l → exec (.rowRead port f upset edges) s = .next (r.2.2.respond port.val f r.2.1 l))) ∧
  (∀ (port : Fin 64) (f : Frame) (bad : List Blemish) (edges : List EdgeErr) (t : State) (a : Arrived) (op : Aop) (s : State),
    s.arrive port.val 4 f = (t, some a) → Frame.atomOf f = some op → (f.fence && a.s.cxlBusy port.val f) = false → a.s.gate f true = 0 →
    a.s.memberOf f.dst.toNat = none →
    let die := dieF (port.val / 8)
    let u := a.s.meetPool (f.offset.toNat / 16 * 16) 1 bad
    let r := u.fetchOver die (fun _ => a.s.poolDie die f.offset.toNat) 1 edges fun _ _ s =>
      let l := s.crossEdges (fun _ e => e.out && (a.s.poolDie die f.offset.toNat).any (between die · e)) a.data edges
      let g := l.2.poolAtomic die { f with payload := l.1 } op
      ([g.1], g.2.1, g.2.2)
    (r.1 = none → exec (.atomic port f bad edges) s = .next r.2.2) ∧
    (∀ l, r.1 = some l → exec (.atomic port f bad edges) s = .next (r.2.2.respond port.val f r.2.1 l))) ∧
  (∀ (port : Fin 64) (f : Frame) (bad : List Blemish) (upset : List Upset) (edges : List EdgeErr) (t : State) (a : Arrived) (s : State),
    (f.fence && a.s.cxlBusy port.val f) = false →
    (s.arrive port.val 2 f = (t, some a) → a.s.gate f true ≠ 0 →
      exec (.read port f bad edges) s = .next (a.s.respond port.val f (a.s.gate f true) [])) ∧
    (s.arrive port.val 3 f = (t, some a) → a.s.gate f true ≠ 0 →
      exec (.rowRead port f upset edges) s = .next (a.s.respond port.val f (a.s.gate f true) [])) ∧
    (s.arrive port.val 4 f = (t, some a) → Frame.atomOf f ≠ none → a.s.gate f true ≠ 0 →
      exec (.atomic port f bad edges) s = .next (a.s.respond port.val f (a.s.gate f true) [])) ∧
    (∀ m, a.s.gate f true = 0 → a.s.memberOf f.dst.toNat = some m →
      (s.arrive port.val 2 f = (t, some a) → exec (.read port f bad edges) s = .next (a.s.memberReq m port.val f f.bytes.toNat [] edges)) ∧
      (s.arrive port.val 3 f = (t, some a) → exec (.rowRead port f upset edges) s = .next (a.s.memberReq m port.val f f.bytes.toNat [] edges)) ∧
      (s.arrive port.val 4 f = (t, some a) → Frame.atomOf f ≠ none →
        exec (.atomic port f bad edges) s = .next (a.s.memberReq m port.val f (if f.asz then 8 else 4) a.data edges))))) ∧
  ((∀ (h q : Nat) (f : Frame) (n : Nat) (data : List Gran) (edges : List EdgeErr) (s : State),
    let home := s.fld .vstCxl h 22 19
    let out := f.op == 3 && (s.gRestarts home || !s.dieOk (dieG home))
    let bad := decide (f.offset.toNat + n > Config.cxlCapacity h) || (f.op == 1 && !s.flag .vstCxl h 17) || (f.op == 4 && !s.flag .vstCxl h 18)
    let a := s.sendOver (dieF (q / 8)) (dieH h) data edges
    (out = true → s.memberReq h q f n data edges = s.respond q f 0x0705 []) ∧
    (out = false → bad = true → s.memberReq h q f n data edges = s.respond q f 0x0430 []) ∧
    (out = false → bad = false → a.1 = none → s.memberReq h q f n data edges = a.2) ∧
    (∀ l, out = false → bad = false → a.1 = some l → s.memberReq h q f n data edges =
      a.2.cxlPool h q (if f.op = 4 then { f with payload := l } else f) n (if f.op = 1 then .writing else .reading) (if f.op = 1 then l else []))) ∧
  (∀ (hdie : Fin 4) (id : Nat) (data : List Gran) (edges : List EdgeErr) (x : CxlReq) (q : Nat) (f : Frame) (s : State),
    (s.fab.cxl.find? fun x => x.id == id && x.hdie == hdie.val && (x.phase == .reading || x.phase == .writing)) = some x → x.purpose = .pool q f →
    let n := ceilDiv (max 16 x.n) 16
    let l := (data ++ poisonGrans n).take n
    let u := s.raise (FaultRec.new s 0x0109 (some (dieH hdie.val)) 0x10)
    let ends := if f.op = 4 then x.data.take 1 else []
    (x.phase = .reading → l.any (·.poison) = false →
      exec (.cxlMemCompletion hdie id false data edges) s = .next (s.cxlReadDone x q f l edges).cxlWake) ∧
    (x.phase = .reading → l.any (·.poison) = true →
      exec (.cxlMemCompletion hdie id false data edges) s = .next (u.cxlReadDone x q f l edges).cxlWake) ∧
    (x.phase = .reading → exec (.cxlMemCompletion hdie id true data edges) s = .next (u.cxlReadDone x q f (poisonGrans n) edges).cxlWake) ∧
    (x.phase = .writing → exec (.cxlMemCompletion hdie id false data edges) s = .next (s.memberAnswer x q f ends edges).cxlWake) ∧
    (x.phase = .writing → exec (.cxlMemCompletion hdie id true data edges) s = .next (u.memberAnswer x q f ends edges).cxlWake)) ∧
  (∀ (x : CxlReq) (q : Nat) (f : Frame) (l : List Gran) (s : State),
    let t := s.setFab { s.fab with cxl := s.fab.cxl.filter (·.id != x.id) }
    s.memberAnswer x q f l [] = t.respond q f 0 l ∧ (f.op ≠ 4 → s.cxlReadDone x q f l [] = t.respond q f 0 l) ∧
    (f.op = 4 → Frame.atomOf f ≠ none → (l.headD { data := 0, poison := true }).poison = false → s.expired f = true →
      s.cxlReadDone x q f l [] = t.respond q f 0x0807 [])) ∧
  (∀ (hdie : Fin 4) (id : Nat) (data : List Gran) (edges : List EdgeErr) (x : CxlReq) (g : Nat) (s : State),
    (s.fab.cxl.find? fun x => x.id == id && x.hdie == hdie.val && (x.phase == .reading || x.phase == .writing)) = some x → x.purpose = .row g →
    let u := s.raise (FaultRec.new s 0x0109 (some (dieH hdie.val)) 0x10)
    let gone := fun v : State => v.setFab { v.fab with cxl := v.fab.cxl.filter (·.id != x.id) }
    let row := fun v : State => v.memberRow g x.hdie x.off
    (x.phase = .writing →
      exec (.cxlMemCompletion hdie id false data edges) s =
        .next ((((gone s).rowOutcome (row (gone s)) HomeOut.committed).rowGone (row (gone s))).cxlWake) ∧
      exec (.cxlMemCompletion hdie id true data edges) s = .next (((gone u).rowFails (row (gone u)) 0x0109).cxlWake)) ∧
    (x.phase = .reading → edges = [] →
      let n := ceilDiv (max 16 x.n) 16
      let l := (data ++ poisonGrans n).take n
      let took := s.fab.cxl.map fun (y : CxlReq) => if y.id == x.id then { y with phase := .read, data := l } else y
      l.any (·.poison) = false → exec (.cxlMemCompletion hdie id false data edges) s = .next (s.setFab { s.fab with cxl := took }).cxlWake))) ∧
  ((∀ (port : Fin 64) (f : Frame) (t : State) (a : Arrived) (s : State), s.arrive port.val 5 f = (t, some a) →
    let h := a.head f
    (a.s.gate h false ≠ 0 → exec (.updRec port f) s = .next (a.s.raise (poolFault a.s port.val (a.s.gate h false) h))) ∧
    (∀ st, a.s.gate h false = 0 → a.s.recordHome port.val h (updOf h.src.toNat a.data) = .ok st →
      exec (.updRec port f) s = .next (a.s.setUpd { a.s.upd with flight := a.s.upd.flight ++ [st] })) ∧
    (∀ c, a.s.gate h false = 0 → a.s.recordHome port.val h (updOf h.src.toNat a.data) = .error c →
      exec (.updRec port f) s = .next (a.s.raise (poolFault a.s port.val c h)))) ∧
  (∀ (port : Fin 64) (f : Frame) (t : State) (a : Arrived) (i : Ingest) (s : State), s.arrive port.val 6 f = (t, some a) → a.s.gate f false = 0 →
    (a.s.upd.ingests.find? fun i => i.serial == f.offset.toNat % 2 ^ 32) = some i →
    ∃ v o, exec (.updRpt port f) s = .next v ∧ v = a.s.setUpd { a.s.upd with outcomes := a.s.upd.outcomes ++ [o] } ∧
      o.dev = f.src.toNat ∧ o.src = a.s.devId ∧ o.serial = f.offset.toNat % 2 ^ 32 ∧ o.saddle = i.saddle ∧ o.part = i.part ∧ o.sent = true ∧
      o.gdie = bits (a.data.headD { data := 0, poison := false }).data.toNat 3 0 ∧
      o.status = bits (a.data.headD { data := 0, poison := false }).data.toNat 31 16) ∧
  (∀ (port : Fin 64) (f : Frame) (edges : List EdgeErr) (t : State) (s : State), f.cls = .rsp → s.receive port.val f = .taken t →
    exec (.rsp port f edges) s = .next (t.takeRsp port.val f.src.toNat f.reqSeq.toNat f.status.toNat (Frame.grans f) f.last edges))) ∧
  (∀ (id : Nat) (r : RemoteReq) (s : State), s.fab.reqs.find? (·.id == id) = some r → r.issue + 2000 ≤ s.time.now → r.op ≠ 5 →
    let t := s.failReq r 0x0510
    (∀ g k, r.purpose = .row g k →
      (∀ h, (s.part r.part).hold = some h → h.latch ≤ s.time.now →
        exec (.remoteBound id) s = .next (t.charge g.ring.val g.seq.toNat 0
          { FaultRec.new t 0x0510 (some (dieF (r.port / 8))) 0x28 with ctx := some r.ctx, part := some r.part })) ∧
      ((s.part r.part).hold = none → exec (.remoteBound id) s = .next t)) ∧
    (∀ g, r.purpose = .send g → exec (.remoteBound id) s = .next t))

/-- A numbered frame is delivered in order only (from parts of R422 to R424): one for another device, from a peer that is down or on a port without a link
is counted and dropped, and so is one whose SEQ is not the one expected; the one expected moves the connection on by one; one without a connection is
dropped, and but for a fabric-manager frame answered with a HELLO. Connections (from parts of
R423, R424, R426): acknowledgements, HELLO frames, and the timers of a connection that stands alone between its port and its peer. -/
def Obligations.FramesAndConnectionsFollowTheirRules : Prop :=
  ((∀ (q : Nat) (f : Frame) (s : State), s.frameOk q f = false → s.receive q f = .dropped (s.refuseFrame q)) ∧
  (∀ (q : Nat) (f : Frame) (c : Conn) (s : State), s.frameOk q f = true → s.conn? q f.src.toNat f.dst.toNat = some c → c.open_ = true →
    let d := { c.acked f.ack.toNat with lastFrame := s.time.now }
    (f.seq.toNat ≠ c.expSeq → s.receive q f = .dropped ((s.refuseFrame q).pump d)) ∧
    (f.seq.toNat = c.expSeq →
      s.receive q f = .taken ((s.badGrans q f).pump { d with expSeq := (c.expSeq + 1) % 2 ^ 32, ackDue := some (c.ackDue.getD s.time.now) }))) ∧
  (∀ (q : Nat) (f : Frame) (s : State), f.bad = [] → s.badGrans q f = s) ∧
  (∀ (q : Nat) (f : Frame) (s : State), s.frameOk q f = true → (s.conn? q f.src.toNat f.dst.toNat).filter (·.open_) = none →
    (f.cls = .fm → s.receive q f = .dropped (s.refuseFrame q)) ∧
    (f.cls ≠ .fm → s.receive q f = .dropped ((s.refuseFrame q).wantHello q f.src.toNat f.dst.toNat))) ∧
  (∀ (port : Fin 64) (cause : DropCause) (s : State), exec (.frameDropped port cause) s = .next (s.refuseFrame port.val))) ∧
  ((∀ (port : Fin 64) (f : Frame) (c : Conn) (s : State), f.cls = .ack → s.frameOk port.val f = true →
    s.conn? port.val f.src.toNat f.dst.toNat = some c → c.open_ = true →
    exec (.ack port f) s = .next (s.pump { c.acked f.ack.toNat with lastFrame := s.time.now })) ∧
  (∀ (port : Fin 64) (f : Frame) (s : State), f.cls = .hello → f.op = 2 → s.frameOk port.val f = true →
    let u := s.badGrans port.val f
    (u.conn? port.val f.src.toNat f.dst.toNat = none → u.connRoom (port.val / 8) = true →
      let c := { u.newConn port.val f.src.toNat f.dst.toNat true with peerBoot := helloBoot f 0 }
      exec (.helloConnect port f) s = .next ((u.setConn c).tx port.val (u.hello c))) ∧
    (u.conn? port.val f.src.toNat f.dst.toNat = none → u.connRoom (port.val / 8) = false →
      exec (.helloConnect port f) s = .next (u.refuseFrame port.val)) ∧
    (∀ c, u.conn? port.val f.src.toNat f.dst.toNat = some c → c.open_ = true →
      let t := u.closeConn c 0x0803
      let d := { t.newConn port.val f.src.toNat f.dst.toNat true with peerBoot := helloBoot f c.peerBoot }
      exec (.helloConnect port f) s = .next ((t.setConn d).tx port.val (t.hello d))) ∧
    (∀ c, u.conn? port.val f.src.toNat f.dst.toNat = some c → c.open_ = false →
      exec (.helloConnect port f) s = .next (u.pump { c with open_ := true, lastFrame := u.time.now, peerBoot := helloBoot f c.peerBoot }))) ∧
  (∀ (port : Fin 64) (f : Frame) (s : State), f.cls = .hello → f.op = 1 → 2 ≤ (s.fport port.val).link → s.devIdValid = true →
    exec (.helloLink port f) s = .next (s.setFport port.val { s.fport port.val with direct := true, partner := f.src.toNat })) ∧
  (∀ (port : Fin 64) (peer : BitVec 16) (c : Conn) (s : State), s.connsOf port.val peer.toNat = [c] →
    (∀ t, c.ackDue = some t → t + 8 ≤ s.time.now →
      exec (.ackTimer port peer) s = .next ((s.setConn { c with ackDue := none, lastFrame := s.time.now }).tx c.port
        { frame0 .ack 0 c.self_ c.peer with ack := BitVec.ofNat 32 c.expSeq })) ∧
    (∀ t, s.devIdValid = true → c.unacked.head?.bind (·.sent) = some t → c.open_ = true → t + s.fld .vstTmo 0 11 0 ≤ s.time.now →
      ∃ u, exec (.retransmit port peer) s = .next u ∧
        u.out = ((c.unacked.filter (·.sent.isSome)).map fun x =>
          Out.frame c.port (s.macTo c.port x.f) (s.mac c.port s.devId) (BitVec.ofNat 16 (s.fld .vstCtrl 0 31 16))
            { x.f with ack := BitVec.ofNat 32 c.expSeq } (Frame.wire { x.f with ack := BitVec.ofNat 32 c.expSeq })).reverse ++ s.out ∧
        (u.conn? c.port c.peer c.self_).map (·.unacked) =
          some (c.unacked.map fun (x : Unacked) => if x.sent.isSome then { x with sent := some s.time.now } else x) ∧
        Within (pieces [.fab, .out]) s u) ∧
    (c.open_ = false → c.helloAt + s.fld .vstTmo 0 11 0 ≤ s.time.now →
      exec (.helloResend port peer) s = .next ((s.setConn { c with helloAt := s.time.now, lastFrame := s.time.now }).tx c.port (s.hello c))) ∧
    (∀ u, c.unacked.head? = some u → u.born + 16 * s.fld .vstTmo 0 27 12 ≤ s.time.now →
      exec (.peerTimeout port peer) s = .next (((s.setBit .vstEvt 0 2).sendFmAbout c.peer 8 0 0x0803 0 0).closeConn c 0x0803)) ∧
    (c.unacked = [] → c.lastFrame + 100000000 ≤ s.time.now → exec (.connectionIdle port peer) s = .next (s.closeConn c 0x0803))))

/-- Idle and absent connections (R426): a connection without a frame for 100,000,000 ticks closes; while something is outstanding it does not. A send that
needs a new connection on an F-die whose 16,384 entries are in use fails with 0x0804 and sets CONN_FULL, be it a request or an answer. -/
def Obligations.IdleConnectionsCloseAndFullTablesRefuse : Prop :=
  (∀ (port : Fin 64) (peer : BitVec 16) (c : Conn) (s : State), s.connsOf port.val peer.toNat = [c] →
    (c.unacked = [] → c.lastFrame + 100000000 ≤ s.time.now → s.fab.reqs = [] →
      ∃ t, exec (.connectionIdle port peer) s = .next t ∧ t.conn? c.port c.peer c.self_ = none ∧ (∀ d ∈ t.fab.conns, d ∈ s.fab.conns) ∧ Within (pieces [.fab]) s t) ∧
    (c.unacked ≠ [] ∨ s.time.now < c.lastFrame + 100000000 → exec (.connectionIdle port peer) s = .next s)) ∧
  (∀ (purpose : RemoteFor) (f peer part ctx issue : Nat) (timed : Bool) (fs : List Frame) (s : State), s.sendBar ctx peer f timed = 0 → s.isSelf peer = false → f < 8 →
    (s.fab.conns.filter fun c => c.port / 8 == f).length = 16384 → s.conn? ((s.upOf f).getD (peer % (s.upOf f).length) 0) peer s.devId = none →
    s.upOf f ≠ [] →
    ∃ t, s.sendRequest purpose f peer part ctx issue timed fs = (.error 0x0804, t) ∧ t.flag .vstEvt 0 5 = true ∧ Within (pieces [.regs]) s t) ∧
  (∀ (q peer self_ : Nat) (fs : List Frame) (s : State), s.fab.downPeers.contains peer = false → 2 ≤ (s.fport q).link →
    (s.fab.conns.filter fun c => c.port / 8 == q / 8).length = 16384 → s.conn? q peer self_ = none →
    let t := s.answer q peer self_ fs
    t.flag .vstEvt 0 5 = true ∧ t.fab.conns = s.fab.conns ∧ ∃ r ∈ t.err.faults, r.code = 0x0804)

/-- The fabric manager (from parts of R445 to R447): an accepted message of each TYPE takes its effect, one of
an unknown TYPE is recorded with 0x0808, and one that is not accepted is refused with 0x0808 and VST_EVT.
Fabric ports (from parts of R415, R442, R443, R448): a link that goes down loses its lanes and its connections, one that comes up trains with every
lane of its port, and a direct link may go on with one half of them. -/
def Obligations.FabricManagerAndPortsAreFollowed : Prop :=
  ((∀ (port : Fin 64) (f : Frame) (t : State) (type subject state n : Nat) (s : State), f.cls = .fm → fmFields f = some (type, subject, state, n) →
    s.receive port.val f = .taken t → t.fmAccepts f = true →
    let u := t.setFab { t.fab with fmLast := some n }
    (type = 0x81 →
      let v := u.setFab { u.fab with downPeers := subject :: u.fab.downPeers.filter (· != subject) }
      exec (.peerDown port f) s =
        .next ((v.failReqs (fun r => r.peer == subject && !v.isSelf subject) 0x0803).closeConns (fun c => c.peer == subject) 0x0803)) ∧
    (type = 0x82 → exec (.peerUp port f) s = .next (u.setFab { u.fab with downPeers := u.fab.downPeers.filter (· != subject) })) ∧
    (type = 0x83 → exec (.peerTime port f) s = .next (u.setFab { u.fab with peerTime := smPut u.fab.peerTime subject state })) ∧
    (fmType f = type → type < 0x81 ∨ 0x83 < type → exec (.fmFrameRefused port f) s = .next (u.raise (devPortFault u port.val 0x0808)))) ∧
  (∀ (port : Fin 64) (f : Frame) (t : State) (s : State), f.cls = .fm → s.fmAccepts f = false → s.receive port.val f = .taken t → t.fmAccepts f = false →
    exec (.fmFrameRefused port f) s = .next ((t.raise (devPortFault t port.val 0x0808)).setBit .vstEvt 0 3))) ∧
  ((∀ (port : Fin 64) (s : State), 2 ≤ (s.fport port.val).link →
    ∃ t, exec (.portDown port) s = .next t ∧ (t.fport port.val).link = 0 ∧ (t.fport port.val).lanes = 0 ∧
      (∀ c ∈ t.fab.conns, c.port ≠ port.val)) ∧
  (∀ (port : Fin 64) (s : State), s.opened = true → s.devIdValid = true → s.flag .vstCtrl 0 0 = true → (s.portsOf (port.val / 8)).contains port.val = true →
    s.excluded (dieF (port.val / 8)) = false → (s.fport port.val).link < 2 →
    ∃ t, exec (.portUp port) s = .next t ∧ t.fport port.val = { link := 2, direct := false, partner := 0, lanes := s.allLanes (port.val / 8) } ∧
      t.out = .frame port.val groupMac (s.mac port.val s.devId) (BitVec.ofNat 16 (s.fld .vstCtrl 0 31 16)) (frame0 .hello 1 s.devId 0)
        (Frame.wire (frame0 .hello 1 s.devId 0)) :: s.out ∧
      (∀ q, q ≠ port.val → t.fport q = s.fport q)) ∧
  (∀ (port : Fin 64) (upper : Bool) (s : State), s.flag .vstCtrl 0 0 = true → (s.fport port.val).direct = true →
    s.flag .vstPortCfg (port.val / 8) 1 = true → (s.fport port.val).link ≠ 3 →
    ∃ t, exec (.laneRepair port upper) s = .next t ∧ (t.fport port.val).link = 3 ∧
      (t.fport port.val).lanes = (if s.flag .vstPortCfg (port.val / 8) 0 then (if upper then 0xF0 else 0x0F) else (if upper then 0x0C else 0x03)) ∧
      t.flag .vstEvt 0 1 = true ∧ t.fab.conns = s.fab.conns))

/-- The registers of the fabric (from parts of R418, R419, R436, R439, R448, R569, R574): VST_ID is written once with V set, VST_MAC while EN is 0,
VST_CXL where the member fits, and a budget where the running and pending images leave room. -/
def Obligations.FabricRegistersTakeTheirWrites : Prop :=
  (∀ (port : Fin 4) (w : Word) (s : State), s.reach port.val = true →
    (s.locks.contains (RG.off .vstId 0) = true → exec (.vstIdWrite port w) s = .next (s.regErr (RG.off .vstId 0) 3)) ∧
    (s.locks.contains (RG.off .vstId 0) = false → wbit w 16 = true →
      exec (.vstIdWrite port w) s = .next ((s.putRw .vstId 0 w).setLocks (RG.off .vstId 0 :: s.locks))) ∧
    (s.locks.contains (RG.off .vstId 0) = false → wbit w 16 = false → exec (.vstIdWrite port w) s = .next (s.regErr (RG.off .vstId 0) 4))) ∧
  (∀ (port : Fin 4) (w : Word) (s : State), s.reach port.val = true → s.flag .vstCtrl 0 0 = false →
    (wbit w 0 = false → wbit w 1 = true → exec (.vstMacWrite port w) s = .next (s.putRw .vstMac 0 w)) ∧
    (wbit w 0 = true ∨ wbit w 1 = false → exec (.vstMacWrite port w) s = .next (s.vstRefused .vstMac 0))) ∧
  (∀ (port n : Fin 4) (w : Word) (s : State), s.reach port.val = true → wbit w 16 = true → s.flag .vstCxl n.val 16 = false →
    (s.memberOk n.val w = true → exec (.cxlMemberEnable port n w) s = .next (s.putRw .vstCxl n.val w)) ∧
    (s.memberOk n.val w = false → exec (.cxlMemberEnable port n w) s = .next ((s.putRw .vstCxl n.val (setBits w 16 16 0)).vstRefused .vstCxl n.val))) ∧
  (∀ (port : Fin 4) (n : Fin 16) (w : Word) (s : State), s.reach port.val = true →
    (wbits w 5 0 ≤ 40 → s.budgetFits 5 n.val (wbits w 5 0) = true → exec (.serveBudgetWrite port true n w) s = .next (s.putRw .vstServeG n.val w)) ∧
    (n.val < 8 → wbits w 12 0 ≤ 7680 → s.budgetFits 7 n.val (wbits w 12 0) = true → s.budgetFits 8 n.val (wbits w 12 0) = true →
      exec (.serveBudgetWrite port false n w) s = .next (s.putRw .vstServeF n.val w)))

/-- Boot steps (from parts of R498 to R509): a step ends within its bound where the two roots agree and the report is good, and step 14 opens the
registers; a disagreement is 0x0B03, a bad report fails the step, and so does its bound. A step that fails (from parts of R499, R500): the package
restarts the way that its step's failures leave, and after the fourth start that fails, or where no way is left, the boot ends in BOOT_FAILED.
SEC_BOOT_CTRL and the good record (from parts of R500, R510, R521). -/
def Obligations.BootStepsEndOrFail : Prop :=
  ((∀ (r : StepReport) (k : Nat) (s : State), s.boot.phase = .step k → s.boot.elapsed ≤ r.elapsed.toNat →
    r.elapsed.toNat ≤ s.boot.elapsed + s.stepBound k →
    let bad := (stepVerifies k).filter fun d => s.chosenCode r.misread d != 0
    (r.agree = false → exec (.bootStepEnd r) s = .next (s.failStep k 1 [0x0B03] r.failed r.stackMask 0 r.elapsed)) ∧
    (r.agree = true → bad ≠ [] →
      exec (.bootStepEnd r) s =
        .next ((bad.foldl (fun s d => s.noteVerified d false) s).failStep k 1 (bad.map (s.chosenCode r.misread))
          (if k = 2 then r.failed ||| 0x3000000000000000 else r.failed) r.stackMask
          (BitVec.ofNat 5 ((bad.map fun d => 2 ^ d).foldl (· + ·) 0)) r.elapsed)) ∧
    (r.agree = true → bad = [] →
      let t := s.setBoot { s.boot with elapsed := r.elapsed.toNat }
      exec (.bootStepEnd r) s = .next (
        if s.untaken k r ≠ 0 then
          s.failStep k 1 [0x0B01] (r.failed ||| s.untaken k r) (if k = 9 then r.stackMask ||| BitVec.ofNat 32 (s.untaken k r).toNat else r.stackMask) 0 r.elapsed
        else if r.ok = false ∧ k ≠ 13 then s.failStep k 1 [r.code.toNat] r.failed r.stackMask 0 r.elapsed
        else match t.stepDone k r with
          | some u => (u.cairn k true 0 (t.endCode k r) r.failed r.stackMask).nextStep k
          | none => t.compatFails (t.endCode k r)))) ∧
  (∀ (r : StepReport) (s : State), s.boot.phase = .step 14 → s.boot.elapsed ≤ r.elapsed.toNat → r.elapsed.toNat ≤ s.boot.elapsed + 10000 →
    r.agree = true → r.ok = true →
    ∃ t, exec (.bootStepEnd r) s = .next t ∧ t.boot.phase = .open_ ∧ t.boot.tries = 0 ∧ t.boot.served = s.time.now ∧ Within (pieces [.boot]) s t) ∧
  (∀ (r : StepReport) (k : Nat) (s : State), s.boot.phase = .step k → s.boot.elapsed + s.stepBound k ≤ r.elapsed.toNat →
    exec (.bootStepTimeout r) s = .next (s.failStep k 2 (if r.code = 0 then [] else [r.code.toNat]) r.failed r.stackMask 0 r.elapsed))) ∧
  ((∀ (k result : Nat) (codes : List Nat) (failed : BitVec 64) (stk : Word) (doms : BitVec 5) (elapsed : Word) (s : State),
    let u := s.setBoot { s.boot with elapsed := elapsed.toNat, failCode := codes.headD 0 }
    let t := (codes.foldl (fun s c => s.secRecord c) u).cairn k true result (codes.headD 0) failed stk
    (t.failWay k failed stk doms = none → (s.failStep k result codes failed stk doms elapsed).boot.phase = .failed) ∧
    (∀ b, t.failWay k failed stk doms = some b → 4 ≤ b.tries → (s.failStep k result codes failed stk doms elapsed).boot.phase = .failed) ∧
    (∀ b, t.failWay k failed stk doms = some b → b.tries < 4 →
      s.failStep k result codes failed stk doms elapsed = (t.setBoot b).beginStart true)) ∧
  (∀ (pwr : Bool) (s : State), (s.wiped pwr).tornStep = none →
    (4 ≤ (s.wiped pwr).boot.retried.tries → (s.beginStart pwr).boot.phase = .failed) ∧
    ((s.wiped pwr).boot.retried.tries < 4 →
      (s.beginStart pwr).boot.phase = .step 1 ∧ (s.beginStart pwr).boot.tries = (s.wiped pwr).boot.retried.tries + 1))) ∧
  ((∀ (port : Fin 4) (w : Word) (s : State), s.reach port.val = true → wbits w 13 0 ≠ 0 → s.rootsGone = false →
    ∃ t, exec (.retry port w) s = .next t ∧ t.boot.retry = s.boot.retry ||| BitVec.ofNat 14 (wbits w 13 0) ∧
      t.boot.confirm = (s.boot.confirm || wbit w 16) ∧ Within (pieces [.boot, .err]) s t) ∧
  (∀ (port : Fin 4) (w : Word) (s : State), s.reach port.val = true → wbit w 16 = true → s.rootsGone = false →
    ∃ t, exec (.confirm port w) s = .next t ∧ t.boot.confirm = true ∧ t.confirmed = true ∧ Within (pieces [.boot, .err]) s t) ∧
  (∀ (s : State), s.opened = true → s.err.devOut = false → s.boot.served + hour ≤ s.time.now → s.actPending = false →
    recentLog s.time.now hour s.err.devLog = 0 →
    ∃ t, exec .goodRecordTimer s = .next t ∧ t.confirmed = true ∧ t.boot.confirm = s.boot.confirm ∧ Within (pieces [.boot, .err]) s t))

/-- The commands of a firmware update (from parts of R511, R512, R514): on a channel that is up each is answered in every mode, and takes its effect
in the mode that allows it. -/
def Obligations.FirmwareCommandsAreAnswered : Prop :=
  ∀ (via : Via) (s : State), s.pldmVia via = true →
    (exec (.queryDeviceIdentifiers via) s = .next (s.pldm via 0x01 0 (Config.pldmAnswer 0x01 0)) ∧
    exec (.getFirmwareParameters via) s = .next (s.pldm via 0x02 0 (Config.pldmAnswer 0x02 s.fwParams)) ∧
    (s.boot.fw = .idle → ∃ t, exec (.requestUpdate via) s = .next t ∧ t.boot.fw = .learn ∧ t.boot.fwVia = via ∧ t.boot.fwComps = [] ∧ t.boot.fwReady = [] ∧
      t.out = .pldm via 0x10 0 0 :: s.out ∧ Within (pieces [.boot, .out]) s t) ∧
    (s.boot.fw ≠ .idle → exec (.requestUpdate via) s = .next (s.pldm via 0x10 0x81 0))) ∧
    (∀ comps : List (BitVec 16 × BitVec 16),
      (s.boot.fw = .learn → s.fwTable comps = none → exec (.passComponentTable via comps) s = .next (s.pldm via 0x13 0x82 0)) ∧
      (∀ l, s.boot.fw = .learn → s.fwTable comps = some l →
        exec (.passComponentTable via comps) s = .next ((s.setFw .ready l none []).pldm via 0x13 0 0)) ∧
      (s.boot.fw ≠ .learn → exec (.passComponentTable via comps) s = .next (s.fwDeny via 0x13))) ∧
    (∀ (cls ident : BitVec 16) (version : Word) (size d : Nat), s.boot.fw = .ready → fwDomain cls ident = some d →
      (s.boot.fwComps.contains d = true → 0 < size → size ≤ maxImage d →
        let x : FwXfer := { domain := d, size := size, got := [] }
        exec (.updateComponent via cls ident version size) s =
          .next (((s.setFw .download s.boot.fwComps (some x) s.boot.fwReady).pldm via 0x14 0 0).askData x)) ∧
      (s.boot.fwComps.contains d = false ∨ size = 0 ∨ maxImage d < size →
        exec (.updateComponent via cls ident version size) s = .next (s.pldm via 0x14 0x82 0))) ∧
    (∀ m, s.boot.fw = m →
      let mode : Nat := match m with | .idle => 0 | .learn => 1 | .ready => 2 | .download => 3 | .activate => 6
      exec (.getStatus via) s = .next (s.pldm via 0x1B 0
        (Config.pldmAnswer 0x1B (mode + 8 * ((s.boot.fwAbandoned.map fun i => 2 ^ (i - 32)).foldl (· + ·) 0))))) ∧
    ((s.boot.fw = .download →
      exec (.cancelUpdateComponent via) s = .next ((s.setFw .ready s.boot.fwComps none s.boot.fwReady).pldm via 0x1C 0 0)) ∧
    (s.boot.fw ≠ .download → exec (.cancelUpdateComponent via) s = .next (s.fwDeny via 0x1C)) ∧
    (s.boot.fw ≠ .idle → s.boot.fw ≠ .activate → exec (.cancelUpdate via) s = .next (s.fwCancel.pldm via 0x1D 0 0)) ∧
    (s.boot.fw = .learn ∨ s.boot.fw = .ready ∨ s.boot.fw = .download → exec .firmwareUpdateTimeout s = .next s.fwCancel))

/-- Data of a download (from parts of R512): the slot that does not run holds the bytes and is invalid from the first one; the device asks for the
next bytes, and after the last an image that both roots and the image set accept becomes NEXT, and any other leaves the slot as it is with the code
recorded. Activation (from parts of R513, R514): the dies of the updated domains run their new images one by one, each within its bound. -/
def Obligations.DownloadsAreVerifiedAndActivated : Prop :=
  (∀ (via : Via) (data : List Byte) (misread : List Misread) (x : FwXfer) (s : State), s.pldmVia via = true → s.boot.fwCur = some x → s.boot.fw = .download →
    s.boot.fwVia = via → data ≠ [] → data.length = min 4096 (x.size - x.got.length) →
    let y := { x with got := x.got ++ data }
    let t := (s.setFw .download s.boot.fwComps (some y) s.boot.fwReady).fwWrite x.domain y.got
    (y.got.length < x.size →
      ∃ u, exec (.firmwareDataReceived via data misread) s = .next u ∧ u = t.askData y ∧
        u.out = .pldm via 0x15 0 (y.got.length + 2 ^ 32 * min 4096 (x.size - y.got.length)) :: s.out ∧ Within (pieces [.boot, .out]) s u) ∧
    (x.size ≤ y.got.length →
      let code := t.fwCode x.domain misread
      let q := t.pldm via 0x16 0 0
      let d := q.dom x.domain
      let v := (q.setDom x.domain { d.setSlot d.spare { whole := true, verified := true } with next := d.spare }).pldm via 0x17 0 0
      exec (.firmwareDataReceived via data misread) s = .next (
        if code = 0 then (v.setFw .ready v.boot.fwComps none (x.domain :: v.boot.fwReady.filter (· != x.domain))).pldm via 0x18 0 0
        else ((q.secRecord code).setFw .ready q.boot.fwComps none q.boot.fwReady).pldm via 0x17 0x01 0))) ∧
  (∀ (d : Nat) (l : List Byte) (s : State), d < 5 →
    (((s.fwWrite d l).dom d).slot (s.dom d).spare).whole = false ∧ ((s.fwWrite d l).dom d).run = (s.dom d).run ∧
    ((s.fwWrite d l).dom d).next = (s.dom d).next) ∧
  ((∀ (via : Via) (s : State), s.pldmVia via = true → s.boot.fw = .ready → s.boot.fwReady ≠ [] →
    let l := (List.range 5).filter fun d => s.boot.fwReady.contains d
    let t := l.foldl (fun s d => if s.actWaits d then s.setDom d { s.dom d with pend := true } else s) s
    exec (.activateFirmware via) s =
      .next (((t.setBoot { t.boot with fw := .activate, confirm := false, fwAbandoned := [] }).startAct
        (((l.filter fun d => !t.actWaits d).flatMap fun d => (t.domainDies d).map fun i => (d, i)))).pldm via 0x1A 0 0)) ∧
  (∀ (a : FwAct) (sign : Signing) (s : State), s.boot.fwAct = some a → a.started = true →
    (a.begun ≤ s.time.now → s.time.now ≤ a.limit → exec (.activationDone sign) s = .next ((s.setBit .secEvt 0 3).endDie a a.rest true sign)) ∧
    (a.limit < s.time.now →
      let t := (s.secRecord 0x0A03).setBit .secEvt 0 4
      exec .activationTimeout s =
        .next ((t.setDom a.domain { t.dom a.domain with next := (t.dom a.domain).run }).endDie a (a.rest.filter (·.1 != a.domain)) false Signing.sound))) ∧
  (∀ (a : FwAct) (s : State), s.boot.fwAct = some a → a.started = false → a.begun + 409600 ≤ s.time.now →
    let gone := a.die :: s.boot.fwAbandoned
    let t := s.setBoot { s.boot with fwAbandoned := gone }
    exec .activationAbandon s = .next (t.endDie a a.rest ((t.domainDies 2).any fun i => !gone.contains i) Signing.sound)))

/-- Power and the module's signals (from parts of R540 to R544, R547): each takes its effect whenever its condition holds. -/
def Obligations.PowerSignalsTakeTheirEffect : Prop :=
  (∀ (s : State), s.pwr.pwrEn = false → s.pwr.rstLow = true →
    ∃ t, exec .modPwrEnAssert s = .next t ∧ t.pwr.pwrEn = true ∧ t.pwr.converters = true ∧ t.boot.phase = .reset ∧ Within (pieces [.pwr, .boot]) s t) ∧
  (∀ (s : State), s.pwr.pwrEn = true → s.pwr.converters = true → s.pwr.upFailed = false → s.pwr.pwrGood = false →
    exec .modPwrGood s = .next (s.setPwr { s.pwr with pwrGood := true })) ∧
  (∀ (s : State), s.pwr.pwrEn = true → s.pwr.pwrGood = false → exec .powerUpTimeout s = .next (s.setPwr { s.pwr with upFailed := true })) ∧
  (∀ (torn : List Tear) (s : State), s.pwr.pwrEn = true →
    ∃ t, exec (.modPwrEnDeassert torn) s = .next t ∧ t.boot.phase = .off ∧ t.pwr.pwrEn = false ∧ t.pwr.pwrGood = false ∧ t.pwr.thermTrip = false ∧
      (torn = [] → t.boot.mram = s.boot.mram ∧ t.hlt.mram = s.hlt.mram)) ∧
  (∀ (s : State), s.pwr.rstLow = true →
    let t := s.setPwr { s.pwr with rstLow := false }
    exec .modRstNDeassert s = .next (if s.pwr.pwrGood && s.boot.phase == .reset then t.beginStart false else t)) ∧
  (∀ (s : State), s.pwr.rstLow = false → s.sdiesUp = true →
    ∃ t, exec .modRstNAssert s = .next t ∧ t.boot.phase = .reset ∧ t.pwr.rstLow = true ∧
      t.boot.tries = (if s.boot.phase = .failed then 0 else s.boot.tries) ∧ t.boot.mram = s.boot.mram ∧ t.hlt.mram = s.hlt.mram) ∧
  (∀ (torn : List Tear) (s : State), s.pwr.pwrEn = true → s.pwr.converters = true →
    exec (.powerFailure torn) s = .next (s.converterStop torn) ∧ exec .thermalTrip s = .next (s.setPwr { s.pwr with thermTrip := true }) ∧
    (s.pwr.thermTrip = true → exec (.thermtripTimeout torn) s = .next (s.converterStop torn)) ∧ (s.converterStop torn).boot.phase = .off ∧
    (s.converterStop torn).pwr.converters = false ∧ (s.converterStop torn).pwr.pwrEn = true) ∧
  (∀ (s : State), s.sdiesRun = true →
    exec .uv s = .next (s.setBit .pwrEvt 0 0) ∧ exec .ov s = .next (s.setBit .pwrEvt 0 1) ∧ exec .overpower s = .next (s.setBit .pwrEvt 0 2) ∧
    (∀ b, b < 16 → (s.setBit .pwrEvt 0 b).alert = true))

/-- The board controller's commands (from parts of R545): each is answered with 0x00 where its state allows it and has its effect, with 0x01 where it does
not, and a malformed one with 0x02. -/
def Obligations.SidebandCommandsAreAnswered : Prop :=
  ∀ (s : State), s.sdiesRun = true →
    (s.pldmUp = true → ∃ t, exec .standby s = .next t ∧ t.boot.phase = .standby ∧ t.mem.selfRefresh = true ∧ t.out.head? = some (.sideband 1 0 0)) ∧
    (s.pldmUp = false → exec .standby s = .next (s.emit (.sideband 1 1 0))) ∧
    exec .restart s =
      .next (((s.setBoot { s.boot with tries := if s.boot.phase = .failed then 0 else s.boot.tries, elapsed := 0 }).beginStart true).emit (.sideband 2 0 0)) ∧
    (s.servingNow = true → exec .devReset s = .next (s.askDevice.emit (.sideband 3 0 0))) ∧
    (s.servingNow = false → exec .devReset s = .next (s.emit (.sideband 3 1 0))) ∧
    (s.boot.phase = .open_ → s.err.devOut = true → exec .devEnable s = .next (s.enableDevice.emit (.sideband 4 0 0))) ∧
    (s.boot.phase ≠ .open_ ∨ s.err.devOut = false → exec .devEnable s = .next (s.emit (.sideband 4 1 0))) ∧
    (s.pldmUp = true ∨ s.standing = true → exec .getState s = .next (s.emit (.sideband 5 0 (BitVec.ofNat 16 s.moduleState)))) ∧
    (s.pldmUp = false → s.standing = false → exec .getState s = .next (s.emit (.sideband 5 1 0))) ∧
    (∀ v : BitVec 64, s.boot.phase ≠ .open_ → exec (.ppsLoad v) s = .next (s.emit (.sideband 6 1 0))) ∧
    (∀ v : BitVec 64, s.boot.phase = .open_ →
      let t := (s.setReg .timPpsLoadLo 0 (BitVec.ofNat 32 v.toNat)).setReg .timPpsLoadHi 0 (BitVec.ofNat 32 (v.toNat / 2 ^ 32))
      exec (.ppsLoad v) s = .next ((t.writeTimCtrl (t.reg .timCtrl 0 ||| maskWord 30)).emit (.sideband 6 0 0))) ∧
    (∀ c : BitVec 8, exec (.malformedCommand c) s = .next (s.emit (.sideband c 2 0)))

/-- A saddle (from parts of R36, R39, R51): at a multiple of 4,096 ticks, once, the images switch, the units take their saddle actions in the order of the
rules, and PWR_IN and the sensors take the readings. -/
def Obligations.SaddlesAct : Prop :=
  ∀ (readings : List (Nat × Int)) (volt curr : BitVec 10) (power : BitVec 12) (s : State), s.boot.ptck = true → s.time.now % 4096 = 0 →
    s.time.saddleAt ≠ some s.time.now →
    let a := (List.range 64).foldl (fun s p => s.switchImage p) (s.setTime { s.time with saddleAt := some s.time.now })
    let b := a.saddleUnits.rejoin.ageCache.saddleUpdates.startGdie.fixStep.takeSource.sendBeacons
    let c := (b.knownRings.filter b.recordDue).foldl (fun s r => s.writeRecord r) b
    let d := c.setReg .pwrIn 0 (BitVec.ofNat 32 (pack [(0, 10, volt.toNat), (10, 10, curr.toNat), (20, 12, power.toNat)]))
    exec (.saddle readings volt curr power) s = .next (d.readings (fun k => k != .aging && k != .eye) readings) ∧
      exec (.saddle readings volt curr power) (s.setTime { s.time with saddleAt := some s.time.now }) =
        .next (s.setTime { s.time with saddleAt := some s.time.now })

/-- HOLD and RESUME (from parts of R458 to R464): from the decision of a HOLD the partition is HOLDING with its latch 64 ticks later, it is HELD once
nothing of it runs, and it goes on from the tick of its RESUME, its cycle count shifted by what it stood. The shift of a hold (from parts of R463):
the smallest multiple of CYCLE for which L + Δ is at least B + 64. -/
def Obligations.HoldAndResumeTakeEffect : Prop :=
  ((∀ (ring : Fin 4096) (seq : Word) (x : Sub) (s : State), s.control ring.val seq.toNat 0x85 = some x →
    ((s.part x.part).st = .serving → (s.part x.part).image.isSome = true →
      ∃ t, exec (.hold ring seq) s = .next t ∧ (t.part x.part).st = .holding ∧
        (t.part x.part).hold = some { latch := x.decided + 64, resumeAt := x.arg0, ring := x.ring, seq := x.seq, latched := false } ∧
        (∀ p, p ≠ x.part → t.part p = s.part p) ∧ Within (pieces [.parts, .subs]) s t) ∧
    ((s.part x.part).st ≠ .serving ∨ (s.part x.part).image.isNone = true → exec (.hold ring seq) s = .next (s.endWith x 0x06A1 0))) ∧
  (∀ (part : Fin 64) (h : HoldS) (s : State), (s.part part.val).hold = some h → (s.part part.val).st = .holding →
    (h.latched = false → h.latch ≤ s.time.now →
      let t := s.setPart part.val { s.part part.val with hold := some { h with latched := true } }
      exec (.holdLatch part) s = .next (t.setSubs (t.subs.map fun (x : Sub) =>
        if x.part == part.val && isQuery x.kind && x.st == .accepted && x.code == 0 && !x.done && decide (h.latch < x.resEnd) then { x with held := true } else x))) ∧
    (h.latched = true → s.allHeld part.val h.latch = true →
      let t := (s.setPart part.val { s.part part.val with st := .held }).finish h.ring h.seq
      exec (.heldEntered part) s =
        .next (if h.resumeAt = 0 then t else t.failShifted part.val (shiftOf (t.cycleOf part.val) h.latch h.resumeAt)))) ∧
  (∀ (ring : Fin 4096) (seq : Word) (x : Sub) (h : HoldS) (s : State), s.control ring.val seq.toNat 0x86 = some x →
    (s.part x.part).hold = some h →
    ((s.part x.part).st = .held → exec (.resume ring seq) s =
      .next ((s.resumeAt x.part h x.decided).completes x (h.latch + shiftOf (s.cycleOf x.part) h.latch x.decided))) ∧
    ((s.part x.part).st ≠ .held → exec (.resume ring seq) s = .next (s.endWith x 0x06A1 0))) ∧
  (∀ (part : Fin 64) (h : HoldS) (s : State), (s.part part.val).hold = some h → (s.part part.val).st = .held → h.resumeAt ≠ 0 →
    h.resumeAt ≤ s.time.now → exec (.resumeAtArrival part) s = .next (s.resumeAt part.val h h.resumeAt)) ∧
  (∀ (part : Fin 64) (h : HoldS) (s : State), (s.part part.val).hold = some h → (s.part part.val).st = .holding → h.latch + 2000 ≤ s.time.now →
    (s.reads.filter fun q => q.part == part.val && q.purpose.engine) = [] → exec (.holdHostReadTimeout part) s = .next s) ∧
  (∀ (part : Fin 64) (h : HoldS) (q : HostRead) (r : StepRef) (s : State), (s.part part.val).hold = some h → (s.part part.val).st = .holding →
    h.latch + 2000 ≤ s.time.now → (s.reads.filter fun q => q.part == part.val && q.purpose.engine) = [q] → q.purpose = .transfer r →
    let f := { FaultRec.new s 0x0550 (some (dieH q.port)) 0x10 with ctx := some q.ctx, part := some q.part, dkind := 3, detail := q.addr }
    let t := (s.charge r.ring.val r.seq.toNat 0 f).dropRead q.id
    exec (.holdHostReadTimeout part) s = .next (t.deliver q (readData (ceilDiv q.len 16) .poisoned []) false []))) ∧
  (∀ (cyc latch b : Nat), 0 < cyc → latch ≤ b + 64 →
    cyc ∣ shiftOf cyc latch b ∧ b + 64 ≤ latch + shiftOf cyc latch b ∧ ∀ d, cyc ∣ d → b + 64 ≤ latch + d → shiftOf cyc latch b ≤ d)

/-- PARTITION_RESET, STOP and REPAIR (from parts of R466, R479, R481, R484, R519, R532). -/
def Obligations.PartitionCommandsTakeEffect : Prop :=
  (∀ (ring : Fin 4096) (seq : Word) (x : Sub) (s : State), s.control ring.val seq.toNat 0x87 = some x →
    ((s.part x.part).st = .serving ∨ (s.part x.part).st = .holding ∨ (s.part x.part).st = .held → (s.part x.part).pending = none →
      ∃ t, exec (.partitionReset ring seq) s = .next t ∧ (t.part x.part).st = .resetting ∧
        (t.part x.part).reset = some { decided := x.decided, fence := x.decided + 64, phase := .decided, code := 0x0722, counted := false, ring := x.ring, seq := x.seq } ∧
        Within (pieces [.parts, .subs]) s t) ∧
    ((s.part x.part).st = .idle ∨ (s.part x.part).st = .resetting → exec (.partitionReset ring seq) s = .next (s.endWith x 0x06A1 0))) ∧
  (∀ (part : Fin 64) (r : ResetS) (s : State), (s.part part.val).reset = some r → r.phase = .decided → r.fence ≤ s.time.now →
    s.err.devReset = none → exec (.partitionResetFence part) s = .next (s.fencePart part r)) ∧
  (∀ (part : Fin 64) (r : ResetS) (s : State), (s.part part.val).reset = some r → r.phase = .clearing → s.cdieResetting part.val = false →
    s.err.devReset = none →
    ∃ t, exec (.partitionClearEnd part) s = .next t ∧ (t.part part.val).st = .serving ∧ (t.part part.val).hold = none ∧
      (t.part part.val).reset = none ∧ (t.part part.val).fromTick = s.time.now ∧ (∀ g ∈ t.gsteps, g.part ≠ part.val)) ∧
  (∀ (ring : Fin 4096) (seq : Word) (x : Sub) (s : State), s.control ring.val seq.toNat 0x88 = some x →
    ((s.part x.part).st = .serving → (s.part x.part).image.isSome = true → saddleOk x.arg0 (x.decided + x.queueLen []) = true →
      exec (.stop ring seq) s = .next ((s.setPending x.part { image := none, saddle := s.switchSaddle x.part x.arg0, ring := x.ring, seq := x.seq }).completes x
        (s.switchSaddle x.part x.arg0))) ∧
    ((s.part x.part).st = .serving → (s.part x.part).image.isSome = true → saddleOk x.arg0 (x.decided + x.queueLen []) = false →
      exec (.stop ring seq) s = .next (s.endWith x 0x064C 0)) ∧
    ((s.part x.part).st ≠ .serving ∨ (s.part x.part).image.isNone = true → exec (.stop ring seq) s = .next (s.endWith x 0x06A1 0))) ∧
  (∀ (ring : Fin 4096) (seq : Word) (x : Sub) (s : State), s.control ring.val seq.toNat 0x89 = some x →
    let a := 4 * x.repairCore + x.repairArray
    (x.repairReturn = false →
      exec (.repairWithdraw ring seq) s = .next ((s.setArray a { s.array a with toWithdraw := true }).completes x (nextSaddle s.time.now))) ∧
    (x.repairReturn = true →
      exec (.repairReturn ring seq) s = .next ((s.setArray a { s.array a with confirm := 2, confirmRing := x.ring, confirmSeq := x.seq, confirmBy := s.time.now }).began x 0))) ∧
  (∀ (core : Fin 256) (array : Fin 4) (faults : List (Fin 4096 × List CellFault)) (s : State),
    let a := 4 * core.val + array.val
    (s.array a).confirm = 1 → (∀ p, s.coreOwner core.val = some p → (s.part p).st ≠ .holding ∧ (s.part p).st ≠ .held) →
    7 * (s.array a).confirmBy + confirmCycles ≤ 7 * s.time.now + 7 → s.confirmFail a faults = none →
    ∃ t, exec (.confirmationSweepEnd core array faults) s = .next t ∧ (t.array a).confirm = 0 ∧ (t.array a).toReturn = false ∧
      (t.array a).sumPasses = (s.array a).sumPasses + 4096 ∧ (t.array a).sumFails = (s.array a).sumFails ∧ Within (pieces [.arrays, .hlt]) s t) ∧
  (∀ (core : Fin 256) (array : Fin 4) (faults : List (Fin 4096 × List CellFault)) (y : Sub) (s : State),
    let a := 4 * core.val + array.val
    (s.array a).confirm = 2 → (∀ p, s.coreOwner core.val = some p → (s.part p).st ≠ .holding ∧ (s.part p).st ≠ .held) →
    7 * (s.array a).confirmBy + confirmCycles ≤ 7 * s.time.now + 7 → s.confirmFail a faults = none →
    s.sub? (s.array a).confirmRing (s.array a).confirmSeq = some y →
    ∃ t, exec (.confirmationSweepEnd core array faults) s = .next t ∧ (t.array a).confirm = 0 ∧ (t.array a).toReturn = true)

/-- Partitions and cores are given out and taken back by SYS_PART_CTRL and SYS_CORE_OWN (from parts of R450 to R453): a write that its rules allow shows
the new V, and an assigned core is cleared before it serves. -/
def Obligations.PartitionsAndCoresAreGivenOut : Prop :=
  (∀ (port : Fin 4) (part : Fin 64) (w : Word) (s : State), s.reach port.val = true → wbit w 0 = true → s.flag .sysPartCtrl part.val 0 = false →
    (s.mayAdmit (wbits w 2 1) = true →
      ∃ t, exec (.partEnable port part w) s = .next t ∧ (t.part part.val).st = (if s.deviceStopped then .resetting else .serving) ∧ t.flag .sysPartCtrl part.val 0 = true ∧
        (∀ p, p ≠ part.val → t.part p = s.part p) ∧ Within (pieces [.regs, .parts]) s t) ∧
    (s.mayAdmit (wbits w 2 1) = false →
      exec (.partEnable port part w) s = .next ((s.putRw .sysPartCtrl part.val (setBits w 0 0 0)).partRefused part.val))) ∧
  (∀ (port : Fin 4) (part : Fin 64) (w : Word) (s : State), s.reach port.val = true → wbit w 0 = false → s.flag .sysPartCtrl part.val 0 = true →
    (s.mayIdle part.val = true →
      ∃ t, exec (.partDisable port part w) s = .next t ∧ (t.part part.val).st = .idle ∧ t.flag .sysPartCtrl part.val 0 = false) ∧
    (s.mayIdle part.val = false → exec (.partDisable port part w) s = .next (s.partRefused part.val))) ∧
  (∀ (port : Fin 4) (core : Fin 256) (w : Word) (s : State), s.reach port.val = true → wbit w 6 = true → s.flag .sysCoreOwn core.val 6 = false →
    ∃ t, exec (.coreAssign port core w) s = .next t ∧ (t.core core.val).clearing = true ∧ t.flag .sysCoreOwn core.val 6 = true ∧
      t.fld .sysCoreOwn core.val 5 0 = wbits w 5 0 ∧ (∀ k, k ≠ core.val → t.core k = s.core k) ∧ Within (pieces [.regs, .cores]) s t) ∧
  (∀ (port : Fin 4) (core : Fin 256) (w : Word) (s : State), s.reach port.val = true → wbit w 6 = false → s.flag .sysCoreOwn core.val 6 = true →
    (wbits w 5 0 = s.fld .sysCoreOwn core.val 5 0 → s.coreNamed (s.fld .sysCoreOwn core.val 5 0) core.val = false →
      ∃ t, exec (.coreRelease port core w) s = .next t ∧ t.flag .sysCoreOwn core.val 6 = false ∧ Within (pieces [.regs]) s t) ∧
    (wbits w 5 0 ≠ s.fld .sysCoreOwn core.val 5 0 ∨ s.coreNamed (s.fld .sysCoreOwn core.val 5 0) core.val = true →
      exec (.coreRelease port core w) s = .next ((s.setBit .sysStatus 0 1).regErr (RG.off .sysCoreOwn core.val) 4))) ∧
  (∀ (core : Fin 256) (s : State), (s.core core.val).clearing = true →
    ∃ t, exec (.coreClearDone core) s = .next t ∧ (t.core core.val).clearing = false ∧ (t.core core.val).tbTag = [] ∧
      (∀ a, core.val * 2 ^ 22 ≤ a → a < (core.val + 1) * 2 ^ 22 → readByte t.mem.accum a = 0) ∧
      (∀ a, core.val * 2 ^ 18 ≤ a → a < (core.val + 1) * 2 ^ 18 → readByte t.mem.tile a = 0))

/-- Suspect replays (from parts of R486 to R489): the next suspect is replayed on the unit as soon as a slot on it is free, and marked by how its replay
ends; where none has run in 100 saddles it is marked as not replayed. What a unit that stops answering and one whose state is wrong bring about (from
parts of R474, R475, R494): a C-die or device reset, a channel, port or S-die that is lost, or a record. -/
def Obligations.SuspectsAndLostUnitsAreAnsweredFor : Prop :=
  ((∀ (part : Fin 64) (z : SuspectSet) (c : Suspect) (tick : Nat) (s : State), (s.part part.val).suspects = some z → z.replay = none → z.ready = some tick →
    z.next = some c →
    (s.unreplayable c = true → exec (.suspectReplayStart part) s = .next (s.markSuspect part.val 2 z.lastEnd)) ∧
    (∀ a e, s.unreplayable c = false → s.sub? c.sub.ring c.sub.seq = none → s.replaySlot part.val z c.sub = some (a, e) →
      ∃ t, exec (.suspectReplayStart part) s = .next t ∧ (t.part part.val).suspects = some { z with replay := some (c.sub.cls, a, e) } ∧
        t.slots = { q := 256 * part.val + c.sub.cls, start := a, resEnd := e, ring := c.sub.ring, seq := c.sub.seq } :: s.slots ∧
        (∃ x, t.subs = s.subs ++ [x] ∧ x.ring = c.sub.ring ∧ x.seq = c.sub.seq ∧ x.replay = true ∧ x.start = a ∧ x.resEnd = e ∧ x.code = 0) ∧
        Within (pieces [.subs, .slots, .parts]) s t)) ∧
  (∀ (part : Fin 64) (z : SuspectSet) (c : Suspect) (k a e : Nat) (s : State), (s.part part.val).suspects = some z → z.replay = some (k, a, e) →
    z.next = some c →
    ((∀ x, s.replaySub c = some x → x.code = 0) → e ≤ s.time.now → exec (.suspectReplayEnd part .clean) s = .next ((s.endReplay c).markSuspect part.val 1 e)) ∧
    (∀ (code : BitVec 16) (die : Fin 64) (unit : BitVec 8), s.replaySub c = none → unitListed die.val unit.toNat = true →
      let f := { FaultRec.new s code.toNat (some die.val) unit.toNat with ctx := some c.ctx, part := some part.val }
      let t := (s.raise f).endReplay c
      (z.code = code.toNat → z.die = die.val → z.unit = unit.toNat →
        exec (.suspectReplayEnd part (.faulted code die unit)) s = .next ((t.closeSet part.val (some c.ctx)).sameReset z)) ∧
      (¬(z.code = code.toNat ∧ z.die = die.val ∧ z.unit = unit.toNat) →
        exec (.suspectReplayEnd part (.faulted code die unit)) s = .next (t.markSuspect part.val 1 e)))) ∧
  (∀ (part : Fin 64) (z : SuspectSet) (tick : Nat) (s : State), (s.part part.val).suspects = some z → z.replay = none → z.ready = some tick →
    max tick z.lastEnd + 409600 ≤ s.time.now → exec (.suspectReplayGiveup part) s = .next (s.markSuspect part.val 2 s.time.now))) ∧
  ((∀ (c : Fin 32) (s : State),
    exec (.crossingTimeout (.cdieCompute c)) s = .next (s.hitCdie c 0x0501 0xC0 (s.working (onCdie c.val))) ∧
    exec (.crossingTimeout (.cdieAgent c)) s = .next (s.hitDevice 0x0501 c.val 0xC0 (s.working (onCdie c.val)))) ∧
  (∀ (g : Fin 16) (s : State), exec (.crossingTimeout (.gdie g)) s = .next (s.hitDevice 0x0501 (dieG g.val) 0xC0 (s.working (onDie (dieG g.val))))) ∧
  (∀ (ch : Fin 1024) (s : State), ∃ t, exec (.crossingTimeout (.hbmChannel ch)) s = .next t ∧ ch.val ∈ t.mem.deaf ∧
    (∀ c ∈ s.mem.deaf, c ∈ t.mem.deaf) ∧ t.mem.hbm = s.mem.hbm ∧ ∃ r ∈ t.err.faults,
      r.code = 0x0501 ∧ r.die = some (ch.val / 32) ∧ r.unit = 0x90 + ch.val % 32) ∧
  (∀ (h : Fin 4) (s : State), (s.port h.val).link ≠ .down →
    exec (.crossingTimeout (.hostPort h)) s = .next ((s.crossingRecord (dieH h.val) 0x10 (s.hostWork h.val)).loseLink h.val 0)) ∧
  (∀ (q : Fin 64) (s : State), 2 ≤ (s.fport q.val).link →
    exec (.crossingTimeout (.fabricPort q)) s = .next ((s.crossingRecord (dieF (q.val / 8)) (0x20 + q.val % 8) (s.fabricWork q.val)).losePort q.val 0)) ∧
  (∀ (i : Fin 4) (s : State), ∃ t, exec (.crossingTimeout (.sdie i)) s = .next t ∧ i.val ∈ t.err.sdown) ∧
  (∀ (die : Fin 48) (unit : BitVec 8) (ctx : Option (Fin 4096)) (s : State), unitListed die.val unit.toNat = true →
    (∀ h : die.val < 32, unit.toNat < 0x80 →
      exec (.unitStateError die unit ctx) s = .next (s.hitCdie ⟨die.val, h⟩ 0x0103 unit.toNat (s.workingOn die.val unit.toNat))) ∧
    (die.val < 32 → 0x80 ≤ unit.toNat →
      exec (.unitStateError die unit ctx) s = .next (s.raise { FaultRec.new s 0x0103 (some die.val) unit.toNat with ctx := ctx.map (·.val) })) ∧
    (32 ≤ die.val → exec (.unitStateError die unit ctx) s = .next (s.hitDevice 0x0103 die.val unit.toNat (s.workingOn die.val unit.toNat)))) ∧
  (∀ (part : Fin 64) (core : Fin 256) (h : HoldS) (u : Nat) (s : State), (s.part part.val).hold = some h → (s.part part.val).st = .holding →
    h.latch + 2000 ≤ s.time.now → (s.coresOf part.val).contains core.val = true → s.lateEngine core.val = some u →
    exec (.holdPointTimeout part core) s = .next (s.hitCdie ⟨core.val / 8, by omega⟩ 0x0560 u (s.working (onCoreNo core.val)))))

/-- Drains and clears (from parts of R480 to R484, R491, R493): a scope that drains ends its drain once nothing of it is busy, gives up its host reads
2,000 ticks after its fence and overruns at 10,000; a clear that ends returns the cores empty and rejoins at a saddle. SYS_RESET_CTRL (from parts of
R479, R492, R493, R570): the four commands of the register, each written alone. -/
def Obligations.ResetsDrainAndClear : Prop :=
  ((∀ (scope : Scope) (r : ResetS) (s : State), s.resetOf scope = some r → r.phase = .draining →
    (s.busyScope scope = false → exec (.drainEnd scope) s = .next (s.endDrain scope r)) ∧
    (r.fence + 2000 ≤ s.time.now →
      exec (.drainHostReadTimeout scope) s = .next (((s.reads.filter (s.readIn scope)).foldl (fun s q => s.giveUp q) s).tryDrain scope)) ∧
    (r.fence + 10000 ≤ s.time.now →
      (∀ p, scope = .partition p → exec (.drainOverrun scope) s = .next (s.overrunPart p.val)) ∧
      (∀ c, scope = .cdie c → exec (.drainOverrun scope) s = .next (s.hitDevice 0x0560 c.val 0xC0 (s.owedOf (·.core / 8 == c.val) fun _ => false))) ∧
      (scope = .device → ∃ l, exec (.drainOverrun scope) s = .next ((s.raise (triggerFault s 0x0560 (dieS 0) 4 l)).endDrain .device r)))) ∧
  (∀ (cdie : Fin 32) (r : ResetS) (s : State), (s.cdie cdie.val).reset = some r → r.phase = .clearing →
    let a := (List.range 8).foldl (fun s k => s.clearCore (8 * cdie.val + k) true) s
    let b := a.setCdie cdie.val { a.cdie cdie.val with reset := none, rejoin := some (saddleAtOrAfter (a.time.now + 64)) }
    exec (.cdieClearEnd cdie) s = .next (((b.sendFm 2 1 r.code cdie.val 0).telReset 1 cdie.val true r.code).readySets (· == cdie.val))) ∧
  (∀ (r : ResetS) (s : State), s.err.devReset = some r → r.phase = .clearing →
    let sad := saddleAtOrAfter (s.time.now + 64)
    let a := (List.range 256).foldl (fun s k => s.clearCore k true) s
    let b := (a.setMem { (List.range 512).foldl (fun m w => m.wipeWay w true) a.mem with rlines := [], deaf := [], selfRefresh := false }).settleLosses r.decided
    let c := (b.setUpd { b.upd with serial := 0 }).setSubs (b.subs.map fun (x : Sub) => { x with held := false })
    let d := c.setErr { c.err with devReset := none }
    let e := (List.range 32).foldl (fun s c => s.setCdie c { s.cdie c with rejoin := some sad }) d
    exec .deviceClearEnd s = .next (((((e.partsAnew sad).timeAnew.fwAtReset).sendFm 2 0 r.code 0 0).telReset 2 0 true r.code).readySets fun _ => true))) ∧
  (∀ (port : Fin 4) (w : Word) (s : State), s.reach port.val = true →
    let t := s.putRw .sysResetCtrl 0 w
    let c : Fin 32 := ⟨wbits w 6 2 % 32, Nat.mod_lt _ (by decide)⟩
    (wbit w 0 = true → wbit w 1 = false → wbit w 7 = false → wbit w 8 = false → exec (.sysDevReset port w) s = .next t.askDevice) ∧
    (wbit w 0 = false → wbit w 1 = true → wbit w 7 = false → wbit w 8 = false →
      exec (.sysDevEnable port w) s = .next (if t.err.devOut then t.enableDevice else t.regErr (RG.off .sysResetCtrl 0) 4)) ∧
    (wbit w 0 = false → wbit w 1 = false → wbit w 7 = true → wbit w 8 = false →
      exec (.cdieReset port w) s = .next (if t.excluded c.val || (t.cdie c.val).outOfService then t.regErr (RG.off .sysResetCtrl 0) 4
        else t.resetCdie c 0x0720 0xC0 false [] false)) ∧
    (wbit w 0 = false → wbit w 1 = false → wbit w 7 = false → wbit w 8 = true →
      exec (.cdieEnable port w) s = .next (if (t.cdie c.val).outOfService then t.enableCdie c.val
        else t.regErr (RG.off .sysResetCtrl 0) 4)))

/-- Attestation (from parts of R515 to R520): on a channel that is up a request is refused before step IDENT has ended, is not ready while a
bottom-level tree is built, is unexpected out of sequence, and is answered otherwise. -/
def Obligations.AttestationIsAnswered : Prop :=
  (∀ (via : Via) (s : State), s.spdmUp = true → s.viaUp via = true → s.identEnded = true → s.boot.lmsBuilding = false →
    exec (.getVersion via) s = .next ((s.spdmStage 1).emit (.spdm via 0x84 true [0x13])) ∧
    (1 ≤ s.boot.spdm → exec (.getCapabilities via) s = .next ((s.spdmStage 2).emit (.spdm via 0xE1 true [Config.pldmAnswer 0xE1 0]))) ∧
    (2 ≤ s.boot.spdm → exec (.negotiateAlgorithms via) s = .next ((s.spdmStage 3).emit (.spdm via 0xE3 true [Config.pldmAnswer 0xE3 0]))) ∧
    (s.boot.spdm < 2 → exec (.negotiateAlgorithms via) s = .next (s.spdmError via 0xE3 0x04)) ∧
    (3 ≤ s.boot.spdm →
      let chain := s.chain false
      exec (.getDigests via) s = .next (s.emit (.spdm via 0x81 true [Config.pldmAnswer 0x81 (leNat chain)])) ∧
      (∀ offset length, exec (.getCertificate via offset length) s = .next (
        if chain.length ≤ offset then s.attestRefused via 0x82 0x01 0
        else s.emit (.spdm via 0x82 true (((chain.drop offset).take length).map (·.toNat))))) ∧
      (∀ nonce sign, exec (.challenge via nonce sign) s = .next (s.signedAnswer via 0x83 sign nonce [leNat chain])) ∧
      (∀ nonce sign, exec (.getMeasurements via 0 false nonce sign) s = .next (s.emit (.spdm via 0xE0 true [8]))) ∧
      (∀ index nonce sign, 1 ≤ index → index ≤ 8 →
        exec (.getMeasurements via index true nonce sign) s = .next (s.signedAnswer via 0xE0 sign nonce [s.measurement index])) ∧
      (∀ index signed nonce sign, 8 < index → index ≠ 255 →
        exec (.getMeasurements via index signed nonce sign) s = .next (s.attestRefused via 0xE0 0x01 0)))) ∧
  (∀ (via : Via) (s : State), s.spdmUp = true → s.viaUp via = true → s.identEnded = false →
    exec (.getVersion via) s = .next (s.attestRefused via 0x84 0x05 0)) ∧
  (∀ (via : Via) (s : State), s.spdmUp = true → s.viaUp via = true → s.identEnded = true → s.boot.lmsBuilding = true →
    exec (.getVersion via) s = .next (s.spdmError via 0x84 0x42)) ∧
  (∀ (via : Via) (unsupported : Bool) (s : State), s.spdmUp = true → s.viaUp via = true →
    exec (.malformedSpdmRequest via unsupported) s = .next (s.attestRefused via 0 (if unsupported then 0x07 else 0x01) 0)) ∧
  (∀ (s : State), exec .bottomLevelTreeBuilt s = .next (s.setBoot { s.boot with lmsBuilding := false }))

/-- A leaf signs once (from parts of R516, R517): the roots sign only with a leaf on which both agree, after the next leaf is written to every copy
and two copies read back; a copy that takes the write holds the next leaf whatever becomes of the signature; and a later signature takes a later
leaf, though a root then finds any one copy invalid. -/
def Obligations.LeavesAreUsedOnce : Prop :=
  ∀ (g : Signing) (s : State),
    let r := s.signLeaf g
    (s.leafSeen g.blind0 ≠ s.leafSeen g.blind1 → r = (s, .error 0x0B03)) ∧
    (∀ i, s.leafSeen g.blind0 = some i → s.leafSeen g.blind1 = some i →
      (2 ^ 40 ≤ i → r = (s, .error 0x0B05)) ∧
      (i < 2 ^ 40 → (∀ n ∈ s.sdies, (∀ x ∈ g.lost, x.1.val ≠ n) → (r.1.mram n).lms = (i + 1, 0)) ∧ (∀ n, n ∉ s.sdies → r.1.mram n = s.mram n))) ∧
    (∀ l, r.2 = .ok l → g.same = true ∧ s.leafSeen g.blind0 = some l ∧ s.leafSeen g.blind1 = some l ∧ l < 2 ^ 40 ∧
      2 ≤ (s.sdies.filter fun n => (r.1.mram n).lms == (l + 1, 0)).length ∧
      ∀ (h : Signing) (m : Nat), (r.1.signLeaf h).2 = .ok m → (∀ a b, a < 4 → b < 4 → a ≠ b → h.blind0.getLsbD a = false ∨ h.blind0.getLsbD b = false) → l < m) ∧
    Within (pieces [.regs, .boot]) s r.1

/-- Array sweeps (from parts of R531, R532): a pass runs on an idle array, a clean verdict is counted, a mismatch is a test fault, and a second mismatch
of one pass makes the array PERMANENT. Summaries, samples and write-backs (from parts of R526, R532, R533): each is taken once its interval has
passed. The telemetry ring (from parts of R535): it is armed where its place allows it, and its HEAD is the host's. -/
def Obligations.HealthIsSampledAndSwept : Prop :=
  ((∀ (core : Fin 256) (array : Fin 4) (bf16 : Bool) (phase : Fin 7) (faults : List CellFault) (s : State),
    let k := 4 * core.val + array.val
    let cyc := s.cycle phase.val
    let w : SweepS := match (s.array k).again with
      | some w => { w with repeat_ := true }
      | none => { seed := s.nextSeed k, failed := false, verdict := 0, fmt := if bf16 then 4 else sweepFmt (s.array k).sweeps,
                  corner := sweepCorner (s.array k).sweeps, repeat_ := false }
    let len := if w.fmt = 4 then 1024 else 512
    s.sweepable core.val array.val cyc = true → s.lull core.val array.val cyc len = true → s.lullAhead core.val array.val (cyc + len) = true →
    ∃ t, exec (.sweepPassStart core array bf16 phase faults) s = .next t ∧ (t.array k).sweeps = (s.array k).sweeps + 1 ∧
      (t.array k).sweep = some { w with verdict := cyc + len, failed := sweepFails w.seed w.corner w.fmt faults } ∧ (t.array k).again = none ∧
      (t.array k).active = Bank.empty ∧ (t.array k).shadow = Bank.empty ∧ (t.array k).rowEnd = cyc + len - 264 ∧
      (∀ j, j ≠ k → t.array j = s.array j) ∧ Within (pieces [.arrays]) s t) ∧
  (∀ (core : Fin 256) (array : Fin 4) (phase : Fin 7) (w : SweepS) (s : State),
    let k := 4 * core.val + array.val
    (s.array k).sweep = some w → w.verdict ≤ s.cycle phase.val →
    (w.failed = false → ∃ t, exec (.sweepVerdict core array phase) s = .next t ∧ (t.array k).sweep = none ∧ (t.array k).again = none ∧
      (t.array k).sumPasses = (s.array k).sumPasses + 1 ∧ (t.array k).sumFails = (s.array k).sumFails ∧ Within (pieces [.arrays, .hlt]) s t) ∧
    (w.failed = true → w.repeat_ = false → ∃ t, exec (.sweepVerdict core array phase) s = .next t ∧ (t.array k).again = some w ∧
      (t.array k).sumPasses = (s.array k).sumPasses + 1 ∧ (t.array k).sumFails = (s.array k).sumFails + 1))) ∧
  ((∀ (s : State), s.opened = true → s.time.now < s.hlt.lastSweepSum ∨ s.hlt.lastSweepSum + hour ≤ s.time.now →
    ∃ t, exec .sweepSummary s = .next t ∧ t.hlt.lastSweepSum = s.time.now ∧
      (∀ k, k < 1024 → s.excluded (k / 32) = false → (t.array k).sumPasses = 0 ∧ (t.array k).sumFails = 0)) ∧
  (∀ (readings : List (Nat × Int)) (s : State), s.opened = true → s.time.now < s.hlt.lastAging ∨ s.hlt.lastAging + hour ≤ s.time.now →
    exec (.agingSample readings) s = .next ((s.setHlt { s.hlt with lastAging := s.time.now }).readings (· == .aging) readings)) ∧
  (∀ (samples : List LaneSample) (s : State), s.opened = true → s.time.now < s.hlt.lastEye ∨ s.hlt.lastEye + 100000000 ≤ s.time.now →
    let t := s.setHlt { s.hlt with lastEye := s.time.now }
    exec (.eyeSample samples) s =
      .next ((samples.filter fun p => !t.excluded (dieF (p.lane.val / 32))).foldl (fun s p => (s.eye p.lane.val p.height p.width).laneFec p) t)) ∧
  (∀ (s : State), s.pwr.converters = true → s.opened = true →
    ∃ t, exec .counterWriteback s = .next t ∧ t.hlt.lastWriteback = s.time.now ∧
      (s.sdies ≠ [] → ∀ k ∈ s.hlt.units.map (·.1), t.history k = t.unit k) ∧ (∀ k, (t.unit k).area = (s.unit k).area) ∧ Within (pieces [.hlt]) s t)) ∧
  ((∀ (port : Fin 4) (w : Word) (s : State), s.reach port.val = true → s.rootsGone = false → wbit w 5 = true → s.flag .hltRingCfg 0 5 = false →
    let t := s.putRw .hltRingCfg 0 (setBits w 5 5 0)
    exec (.hltRingArm port w) s = .next (s.writeHltCfg w) ∧
    (t.mayArmHlt = true → (s.writeHltCfg w).hlt.armed = true ∧ (s.writeHltCfg w).hlt.written = 0 ∧ (s.writeHltCfg w).hlt.fenced = false)) ∧
  (∀ (port : Fin 4) (w : Word) (s : State), s.reach port.val = true →
    (s.rootsGone = false → ∃ t, exec (.hltRingHeadWrite port w) s = .next t ∧ t.reg .hltRingHead 0 = w ∧ Within (pieces [.regs]) s t) ∧
    (s.rootsGone = true → exec (.hltRingHeadWrite port w) s = .next (s.regErr (RG.off .hltRingHead 0) 4))))

/-- PLDM for monitoring (from parts of R536): on a channel that is up records, sensors and state sensors answer, and events go to the receiver or are
polled in order. -/
def Obligations.MonitoringIsAnswered : Prop :=
  ∀ (via : Via) (s : State), s.pldmVia via = true →
    (∀ n, exec (.getPdr via n) s = .next (s.pldm via 0x51 0 (Config.pldmAnswer 0x51 n))) ∧
    (∀ n, (sensorKind n).isSome = true → exec (.getSensorReading via n) s = .next (s.pldm via 0x11 0 (ofInt 16 (s.sensor n).last))) ∧
    (∀ n, sensorKind n = none → exec (.getSensorReading via n) s = .next (s.pldm via 0x11 0x80 0)) ∧
    exec (.getStateSensorReadings via 0x4000) s = .next (s.pldm via 0x21 0 s.time.state.code) ∧
    (∀ n, n < 0x4000 → unitListed (n / 256) (n % 256) = true →
      exec (.getStateSensorReadings via n) s = .next (s.pldm via 0x21 0 (s.unit n).st)) ∧
    (∀ n, 0x4000 < n ∨ (n < 0x4000 ∧ unitListed (n / 256) (n % 256) = false) →
      exec (.getStateSensorReadings via n) s = .next (s.pldm via 0x21 0x80 0)) ∧
    (∀ n, n ≠ 0 →
      ∃ t, exec (.setEventReceiver via n) s = .next t ∧ t.hlt.receiver = n ∧ t.hlt.events = [] ∧
        t.out = (s.hlt.events.map fun e => Out.event e.cls e).reverse ++ .pldm via 0x04 0 0 :: s.out ∧ Within (pieces [.hlt, .out]) s t) ∧
    (∃ t, exec (.setEventReceiver via 0) s = .next t ∧ t.hlt = { s.hlt with receiver := 0 } ∧ t.out = .pldm via 0x04 0 0 :: s.out) ∧
    (s.hlt.events = [] → exec (.pollForPlatformEventMessage via) s = .next (s.pldm via 0x0B 0 0)) ∧
    (∀ e l, s.hlt.events = e :: l →
      exec (.pollForPlatformEventMessage via) s = .next (((s.setHlt { s.hlt with events := l }).pldm via 0x0B 0 1).emit (.event e.cls e)))

/-- Writes that change no register (from parts of R563, R564, R569): one that is not an aligned 32-bit access, one at an offset without a register, one of
the S-dies' registers while they are gone, and one of a read-only register; the first three are recorded with CAUSE 1, 2 and 4 in SYS_REGERR. A
register without a rule of its own takes the RW bits of a write and keeps the rest, and no other register changes (from parts of R7, R569). -/
def Obligations.PlainWritesTakeAndBadWritesRecord : Prop :=
  (∀ (port : Fin 4) (off : BitVec 24) (size : Nat) (w hwset : Word) (s : State), s.reach port.val = true →
    (size ≠ 4 ∨ off.toNat % 4 ≠ 0 → exec (.registerWrite port off size w hwset) s = .next (s.regErr off.toNat 1)) ∧
    (size = 4 → off.toNat % 4 = 0 → regAt off.toNat = none → exec (.registerWrite port off size w hwset) s = .next (s.regErr off.toNat 2)) ∧
    (∀ g i, size = 4 → off.toNat % 4 = 0 → regAt off.toNat = some (g, i) → (isRoot off.toNat && s.rootsGone) = true →
      exec (.registerWrite port off size w hwset) s = .next (s.regErr off.toNat 4)) ∧
    (∀ g i, size = 4 → off.toNat % 4 = 0 → regAt off.toNat = some (g, i) → (isRoot off.toNat && s.rootsGone) = false →
      g.row.rw = 0 → g.row.w1c = 0 → g ≠ .secBootCtrl → exec (.registerWrite port off size w hwset) s = .next s) ∧
    (∀ cause, cause < 256 →
      (s.regErr off.toNat cause).fld .sysRegerr 0 23 0 = off.toNat ∧ (s.regErr off.toNat cause).fld .sysRegerr 0 31 24 = cause ∧
      (∀ g i, g.off i ≠ RG.off .sysRegerr 0 → (s.regErr off.toNat cause).reg g i = s.reg g i) ∧ Within (pieces [.regs]) s (s.regErr off.toNat cause))) ∧
  (∀ (port : Fin 4) (off : BitVec 24) (w hwset : Word) (g : RG) (i : Nat) (s : State), s.reach port.val = true → regAt off.toNat = some (g, i) →
    (isRoot off.toNat && s.rootsGone) = false → off.toNat % 4 = 0 →
    g ∈ [RG.sysEvtCfg, RG.timPpsLoadLo, RG.timPpsLoadHi, RG.timHold, RG.memTgSel, RG.hltRingHead, RG.hltThr, RG.hltSweep, RG.hltHistSel] →
    ∃ t, exec (.registerWrite port off 4 w hwset) s = .next t ∧ t.reg g i = (s.reg g i &&& ~~~ g.row.rw) ||| (w &&& g.row.rw) ∧
      (∀ h j, h.off j ≠ off.toNat → t.reg h j = s.reg h j) ∧ Within (pieces [.regs]) s t)

/-- Event registers (R575): a written 1 clears its bit and a written 0 leaves it; a bit that hardware sets in the same cycle is 1 after it. Each clear
that met such a set is counted in SYS_OVERRUN, and SYS_OVERRUN_LAST names the register and the lowest such bit; a set that met none is not counted. A
set of SYS_EVT sends its vector. -/
def Obligations.EventBitsClearUnlessSet : Prop :=
  (∀ (port : Fin 4) (off : BitVec 24) (w hwset : Word) (g : RG) (i : Nat) (s : State), s.reach port.val = true → regAt off.toNat = some (g, i) →
    (isRoot off.toNat && s.rootsGone) = false → off.toNat % 4 = 0 →
    g ∈ [RG.sysStatus, RG.sysEvt, RG.sysGuilty, RG.timEvent, RG.pwrEvt, RG.hqPortEvt, RG.hqRingEvt, RG.xltStatus, RG.memStatus, RG.gthUpdStatus, RG.vstEvt,
      RG.hltEvt, RG.secEvt] →
    let met := w &&& hwset &&& g.row.w1c
    ∃ t, exec (.registerWrite port off 4 w hwset) s = .next t ∧
      (∀ b, b < 32 → wbit g.row.w1c b = true → t.flag g i b = (wbit hwset b || (s.flag g i b && !wbit w b))) ∧
      (∀ b, b < 32 → wbit g.row.w1c b = false → t.flag g i b = s.flag g i b) ∧
      (met = 0 → ∀ h j, h.off j ≠ off.toNat → t.reg h j = s.reg h j) ∧
      (met ≠ 0 → (t.reg .sysOverrun 0).toNat = min (2 ^ 32 - 1) ((s.reg .sysOverrun 0).toNat + ((List.range 32).filter fun b => wbit met b).length) ∧
        t.fld .sysOverrunLast 0 23 0 = off.toNat ∧ wbit met (t.fld .sysOverrunLast 0 28 24) = true ∧
        ∀ b, b < t.fld .sysOverrunLast 0 28 24 → wbit met b = false) ∧
      (g = .sysEvt → hwset &&& g.row.w1c ≠ 0 → s.flag .sysEvtCfg 0 11 = true →
        t.ports = (s.msix (s.fld .sysEvtCfg 0 13 12) (s.fld .sysEvtCfg 0 10 0)).ports) ∧
      Within (pieces [.regs, .ports]) s t) ∧
  (∀ (port : Fin 4) (w hwset : Word) (s : State), s.reach port.val = true →
    let ch := s.fld .memTgSel 0 9 0
    ∃ t, exec (.registerWrite port 0x600024 4 w hwset) s = .next t ∧
      (∀ b, b < 4 → wbit (t.tg ch).status b = (wbit hwset b || (wbit (s.tg ch).status b && !wbit w b))) ∧
      (w &&& hwset &&& 0xF ≠ 0 →
        (t.reg .sysOverrun 0).toNat = min (2 ^ 32 - 1) ((s.reg .sysOverrun 0).toNat + ((List.range 32).filter fun b => wbit (w &&& hwset &&& 0xF) b).length)) ∧
      (∀ k, k ≠ ch → t.tg k = s.tg k) ∧ Within (pieces [.regs, .mem]) s t)

/-- Every register of the map stands at the offset of its name (from parts of R567): its own offset names it and no other register. -/
def Obligations.RegistersStandAtTheirOffsets : Prop :=
  (∀ (g : RG) (i : Nat), i < g.row.count → regAt (g.off i) = some (g, i) ∧ g.off i % 4 = 0 ∧ g.off i < 2 ^ 24) ∧
  (∀ (o : Nat) (g : RG) (i : Nat), regAt o = some (g, i) → g.off i = o ∧ i < g.row.count) ∧
  (∀ (g h : RG) (i j : Nat), i < g.row.count → j < h.row.count → g.off i = h.off j → g = h ∧ i = j)

/-- The device's code (from parts of R320 to R322): a reader decodes by the syndrome alone; what the encoder gives reads clean; a granule with one symbol
in error is corrected; a clean granule with two symbols in error never reads as clean, corrected or poisoned; a poisoned granule reads poisoned, and
as uncorrectable with one symbol in error. `e * 16 ^ i` puts the error e into symbol i: symbols 0 to 31 are the data, 32 to 35 the check value. -/
def Obligations.CodeCorrectsOneAndDetectsTwo : Prop :=
  let word := fun (x p : Nat) => decodeWord (x % 2 ^ 128) (Nat.xor (x / 2 ^ 128) p)
  (∀ data check : Nat,
    (syndrome data check = 0 → decodeWord data check = .clean) ∧ (syndrome data check = mkSyn 0 0 1 0 → decodeWord data check = .poisoned) ∧
    (∀ i e, i < 36 → 0 < e → e < 16 → syndrome data check = synScale e (codeCol i) →
      decodeWord data check = .corrected i (if i < 32 then Nat.xor data (e * 2 ^ (4 * i)) else data)) ∧
    (syndrome data check ≠ 0 → syndrome data check ≠ mkSyn 0 0 1 0 →
      (∀ i e, i < 36 → 0 < e → e < 16 → syndrome data check ≠ synScale e (codeCol i)) → decodeWord data check = .uncorrectable)) ∧
  ∀ d : Nat, d < 2 ^ 128 →
    let x := d + 2 ^ 128 * encodeCheck d
    word x 0 = .clean ∧ word x poisonMask = .poisoned ∧
    ∀ i e, i < 36 → 0 < e → e < 16 →
      word (Nat.xor x (e * 16 ^ i)) 0 = .corrected i d ∧
      word (Nat.xor x (e * 16 ^ i)) poisonMask = .uncorrectable ∧
      ∀ j f, j < 36 → j ≠ i → 0 < f → f < 16 → word (Nat.xor (Nat.xor x (e * 16 ^ i)) (f * 16 ^ j)) 0 = .uncorrectable

/-- Byte stores: a byte that is written reads back, and every other byte reads as before; writing keeps the canonical form. Granules carry their poison
(from parts of R323): a granule that is written reads back with its data and its poison, and every other granule of the store and every other store
read as before. -/
def Obligations.StoresReadBack : Prop :=
  ((∀ (m : List Host.Cell) (a b : Nat) (v : Byte), readByte (writeByte m a v) b = if b = a then v else readByte m b) ∧
  (∀ (m : List Host.Cell) (a : Nat) (l : List Byte) (b : Nat),
    readByte (writeBytes m a l) b = if a ≤ b ∧ b < a + l.length then l.getD (b - a) 0 else readByte m b) ∧
  (∀ (m : List Host.Cell) (a : Nat) (v : Byte), Memory.wf m = true → Memory.wf (writeByte m a v) = true)) ∧
  (∀ (m : MemS) (sp : Space) (a : Nat) (l : List Gran), a % 16 = 0 →
    (∀ i, (h : i < l.length) → (m.writeGrans sp a l).readGran sp (a + 16 * i) = l[i]) ∧
    (∀ b, b % 16 = 0 → (b + 16 ≤ a ∨ a + 16 * l.length ≤ b) → (m.writeGrans sp a l).readGran sp b = m.readGran sp b) ∧
    (∀ sq b, sq ≠ sp → (m.writeGrans sp a l).readGran sq b = m.readGran sq b))
end

