-- ==== Sys2Proof/Laws/Maps.lean ====
section
/-! SUPPORT. Sparse maps: a read after a write, and that every map operation keeps the canonical form. -/

namespace Sys2Proof.Machine

/-! ## Reads -/

theorem smGet_put {α : Type} (d v : α) (m : SMap α) (k j : Nat) :
    smGet d (smPut m k v) j = if j = k then v else smGet d m j := by
  induction m with
  | nil => simp only [smPut, smGet]; grind
  | cons p t ih =>
    obtain ⟨i, u⟩ := p
    simp only [smPut]
    split
    · simp only [smGet]; grind
    · split
      · simp only [smGet]; grind
      · simp only [smGet, ih]; grind

theorem smGet_erase_other {α : Type} (d : α) (m : SMap α) (k j : Nat) (h : j ≠ k) :
    smGet d (smErase m k) j = smGet d m j := by
  induction m with
  | nil => rfl
  | cons p t ih =>
    obtain ⟨i, u⟩ := p
    simp only [smErase]
    split
    · simp only [smGet]; grind
    · simp only [smGet, ih]

/-! ## The canonical form -/

/-- The bound of the form: a key lies above it. -/
theorem smAbove_weaken {α : Type} [DecidableEq α] (d : Nat → α) (m : SMap α) (x : Nat) (b : Option Nat)
    (h : smAbove d (some x) m = true) (hb : ∀ y, b = some y → y ≤ x) : smAbove d b m = true := by
  cases m with
  | nil => rfl
  | cons p t =>
    obtain ⟨k, v⟩ := p
    cases b with
    | none => simp_all [smAbove]
    | some y => have := hb y rfl; simp_all [smAbove]; omega

/-- A key at or below the bound is not listed. -/
theorem smGet_above {α : Type} [DecidableEq α] (d : Nat → α) (c : α) (m : SMap α) (x k : Nat)
    (h : smAbove d (some x) m = true) (hk : k ≤ x) : smGet c m k = c := by
  induction m generalizing x with
  | nil => rfl
  | cons p t ih =>
    obtain ⟨i, u⟩ := p
    simp only [smAbove, Bool.and_eq_true, decide_eq_true_eq, Option.all_some] at h
    have hne : ¬ i = k := by omega
    simp only [smGet, if_neg hne]
    exact ih i h.2 (by omega)

theorem smGet_erase_same {α : Type} (c : α) (m : SMap α) (k : Nat) : smGet c (smErase m k) k = c := by
  induction m with
  | nil => rfl
  | cons p t ih =>
    obtain ⟨i, u⟩ := p
    simp only [smErase]
    split
    · exact ih
    · rename_i e
      simp only [smGet, if_neg e]
      exact ih

theorem smAbove_erase {α : Type} [DecidableEq α] (d : Nat → α) (m : SMap α) (b : Option Nat) (k : Nat)
    (h : smAbove d b m = true) : smAbove d b (smErase m k) = true := by
  induction m generalizing b with
  | nil => rfl
  | cons p t ih =>
    obtain ⟨i, u⟩ := p
    simp only [smAbove, Bool.and_eq_true] at h
    simp only [smErase]
    split
    · refine smAbove_weaken d _ i b (ih (some i) h.2) ?_
      rintro y rfl
      have := h.1.1
      simp only [decide_eq_true_eq, Option.all_some] at this
      omega
    · simp only [smAbove, Bool.and_eq_true]
      exact ⟨h.1, ih (some i) h.2⟩

theorem above_key (b : Option Nat) (k : Nat) (hk : ∀ y, b = some y → y < k) : b.all (fun x => decide (x < k)) = true := by
  cases b with
  | none => rfl
  | some y => simp [hk y rfl]

theorem smAbove_put {α : Type} [DecidableEq α] (d : Nat → α) (m : SMap α) (b : Option Nat) (k : Nat) (v : α)
    (h : smAbove d b m = true) (hk : ∀ y, b = some y → y < k) (hv : v ≠ d k) : smAbove d b (smPut m k v) = true := by
  induction m generalizing b with
  | nil => simp only [smPut, smAbove, Bool.and_eq_true, decide_eq_true_eq, Option.all_some]; exact ⟨⟨above_key b k hk, hv⟩, trivial⟩
  | cons p t ih =>
    obtain ⟨i, u⟩ := p
    simp only [smAbove, Bool.and_eq_true] at h
    simp only [smPut]
    split
    · simp only [smAbove, Bool.and_eq_true, decide_eq_true_eq, Option.all_some]
      refine ⟨⟨above_key b k hk, hv⟩, ⟨?_, ?_⟩, h.2⟩
      · omega
      · simpa using h.1.2
    · split
      · rename_i e; subst e
        simp only [smAbove, Bool.and_eq_true, decide_eq_true_eq, Option.all_some]
        exact ⟨⟨above_key b i hk, hv⟩, h.2⟩
      · simp only [smAbove, Bool.and_eq_true]
        refine ⟨h.1, ih (some i) h.2 ?_⟩
        rintro y ⟨rfl⟩; omega

/-- A write keeps the canonical form. -/
theorem smWf_set {α : Type} [DecidableEq α] (d : Nat → α) (m : SMap α) (k : Nat) (v : α) (h : smWf d m = true) :
    smWf d (smSet (d k) m k v) = true := by
  unfold smSet smWf at *
  split
  · exact smAbove_erase d m none k h
  · rename_i hv; exact smAbove_put d m none k v h (by simp) hv

/-- The value read after a write. -/
theorem smGet_set_same {α : Type} [DecidableEq α] (d : α) (m : SMap α) (k : Nat) (v : α) : smGet d (smSet d m k v) k = v := by
  unfold smSet
  split
  · rename_i hv; rw [smGet_erase_same, hv]
  · rw [smGet_put, if_pos rfl]

/-- A write leaves the other keys alone. -/
theorem smGet_set_other {α : Type} [DecidableEq α] (d : α) (m : SMap α) (k : Nat) (v : α) (j : Nat) (hj : j ≠ k) :
    smGet d (smSet d m k v) j = smGet d m j := by
  unfold smSet
  split
  · exact smGet_erase_other _ _ _ _ hj
  · rw [smGet_put, if_neg hj]

theorem smAbove_filter {α : Type} [DecidableEq α] (d : Nat → α) (f : Nat × α → Bool) (m : SMap α) (b : Option Nat)
    (h : smAbove d b m = true) : smAbove d b (m.filter f) = true := by
  induction m generalizing b with
  | nil => rfl
  | cons p t ih =>
    obtain ⟨i, u⟩ := p
    simp only [smAbove, Bool.and_eq_true] at h
    simp only [List.filter_cons]
    split
    · simp only [smAbove, Bool.and_eq_true]
      exact ⟨h.1, ih (some i) h.2⟩
    · refine smAbove_weaken d _ i b (ih (some i) h.2) ?_
      rintro y rfl
      have := h.1.1
      simp only [decide_eq_true_eq, Option.all_some] at this
      omega

/-- Dropping entries keeps the canonical form. -/
theorem smWf_filter {α : Type} [DecidableEq α] (d : Nat → α) (f : Nat × α → Bool) (m : SMap α) (h : smWf d m = true) :
    smWf d (m.filter f) = true := smAbove_filter d f m none h

theorem smAbove_map {α : Type} [DecidableEq α] (d : α) (f : Nat → α → α) (m : SMap α) (b : Option Nat)
    (h : smAbove (fun _ => d) b m = true) : smAbove (fun _ => d) b (smMap d f m) = true := by
  induction m generalizing b with
  | nil => rfl
  | cons p t ih =>
    obtain ⟨i, u⟩ := p
    simp only [smAbove, Bool.and_eq_true] at h
    have ih' := ih (some i) h.2
    unfold smMap at ih' ⊢
    simp only [List.filterMap_cons]
    by_cases hd : f i u = d
    · simp only [hd, if_true]
      refine smAbove_weaken _ _ i b ih' ?_
      rintro y rfl
      have := h.1.1
      simp only [decide_eq_true_eq, Option.all_some] at this
      omega
    · simp only [hd, if_false, smAbove, Bool.and_eq_true]
      exact ⟨⟨h.1.1, by simpa using hd⟩, ih'⟩

/-- A change of every value keeps the canonical form. -/
theorem smWf_map {α : Type} [DecidableEq α] (d : α) (f : Nat → α → α) (m : SMap α) (h : smWf (fun _ => d) m = true) :
    smWf (fun _ => d) (smMap d f m) = true := smAbove_map d f m none h

/-- Storing a list of values keeps the canonical form. -/
theorem smWf_fold {α β : Type} [DecidableEq α] (d : Nat → α) (f : β → Nat) (g : β → α) (l : List β) {m : SMap α} (h : smWf d m = true) :
    smWf d (l.foldl (fun m x => smSet (d (f x)) m (f x) (g x)) m) = true := by
  induction l generalizing m with
  | nil => exact h
  | cons x t ih => exact ih (smWf_set _ _ _ _ h)

end Sys2Proof.Machine
end

