-- ==== Sys2Proof/Laws/Memory.lean ====
section
/-! SUPPORT. The byte stores: a read after a write, and that every operation over them keeps the canonical form. -/

namespace Sys2Proof.Machine

open Sys2Proof

/-! ## Bytes -/

/-- A byte reads back as written. -/
@[simp] theorem readByte_writeByte_same (c : List Host.Cell) (a : Nat) (b : Byte) : readByte (writeByte c a b) a = b :=
  smGet_set_same _ _ _ _

/-- A write of one byte leaves every other byte alone. -/
theorem readByte_writeByte_other (c : List Host.Cell) (a x : Nat) (b : Byte) (h : x ≠ a) : readByte (writeByte c a b) x = readByte c x :=
  smGet_set_other _ _ _ _ _ h

/-- A write of bytes leaves the bytes before and after them alone. -/
theorem readByte_writeBytes_other (c : List Host.Cell) (a x : Nat) (l : List Byte) (h : x < a ∨ a + l.length ≤ x) :
    readByte (writeBytes c a l) x = readByte c x := by
  induction l generalizing c a with
  | nil => rfl
  | cons b t ih =>
    simp only [writeBytes, List.length_cons] at *
    rw [ih (writeByte c a b) (a + 1) (by omega), readByte_writeByte_other _ _ _ _ (by omega)]

/-- The bytes written read back. -/
theorem readBytes_writeBytes (c : List Host.Cell) (a : Nat) (l : List Byte) : readBytes (writeBytes c a l) a l.length = l := by
  induction l generalizing c a with
  | nil => rfl
  | cons b t ih =>
    simp only [writeBytes, List.length_cons, readBytes]
    rw [ih, readByte_writeBytes_other _ _ _ _ (by omega), readByte_writeByte_same]

theorem readBytes_writeBytes_other (c : List Host.Cell) (a x n : Nat) (l : List Byte) (h : x + n ≤ a ∨ a + l.length ≤ x) :
    readBytes (writeBytes c a l) x n = readBytes c x n := by
  induction n generalizing x with
  | zero => rfl
  | succ k ih => simp only [readBytes]; rw [ih (x + 1) (by omega), readByte_writeBytes_other _ _ _ _ (by omega)]

theorem wf_writeByte (c : List Host.Cell) (a : Nat) (b : Byte) (h : Memory.wf c = true) : Memory.wf (writeByte c a b) = true :=
  smWf_set (fun _ => Memory.unwritten) c a b h

theorem wf_writeBytes (c : List Host.Cell) (a : Nat) (l : List Byte) (h : Memory.wf c = true) : Memory.wf (writeBytes c a l) = true := by
  induction l generalizing c a with
  | nil => exact h
  | cons b t ih => exact ih _ _ (wf_writeByte c a b h)

/-! ## Granules of the stores -/

theorem MemS.wf_cells (m : MemS) (h : m.wf = true) (sp : Space) : Memory.wf (m.cells sp) = true := by
  simp only [MemS.wf, Bool.and_eq_true] at h
  cases sp <;> simp only [MemS.cells, h]

/-- The default of the poison marks of a store, by granule. -/
def MemS.coldAt (m : MemS) (sp : Space) (g : Nat) : Bool := m.cold sp (16 * g)

theorem MemS.coldAt_div (m : MemS) (sp : Space) (a : Nat) : m.coldAt sp (a / 16) = m.cold sp a := by
  cases sp <;> simp only [MemS.coldAt, MemS.cold]
  · rw [show 16 * (a / 16) / 2 ^ 25 = a / 2 ^ 25 by omega]
  · rw [show 16 * (a / 16) / 2 ^ 21 = a / 2 ^ 21 by omega]

theorem MemS.Canonical.poisons {m : MemS} (h : m.Canonical) (sp : Space) : smWf (m.coldAt sp) (m.poisons sp) = true := by
  cases sp
  · exact h.hbm
  · exact h.ops
  · exact h.tile
  · exact h.acc
  · exact h.shared

theorem MemS.Canonical.store {m : MemS} (h : m.Canonical) (sp : Space) (c : List Host.Cell) (p : SMap Bool)
    (hc : Memory.wf c = true) (hp : smWf (m.coldAt sp) p = true) : (m.store sp c p).Canonical := by
  have hb := h.bytes
  simp only [MemS.wf, Bool.and_eq_true] at hb
  obtain ⟨⟨⟨⟨b1, b2⟩, b3⟩, b4⟩, b5⟩ := hb
  cases sp
  · exact ⟨by simp only [MemS.store, MemS.wf, Bool.and_eq_true]; exact ⟨⟨⟨⟨hc, b2⟩, b3⟩, b4⟩, b5⟩, hp, h.ops, h.fill, h.tile, h.acc, h.shared, h.ways, h.tags, h.tg⟩
  · exact ⟨by simp only [MemS.store, MemS.wf, Bool.and_eq_true]; exact ⟨⟨⟨⟨b1, hc⟩, b3⟩, b4⟩, b5⟩, h.hbm, hp, h.fill, h.tile, h.acc, h.shared, h.ways, h.tags, h.tg⟩
  · exact ⟨by simp only [MemS.store, MemS.wf, Bool.and_eq_true]; exact ⟨⟨⟨⟨b1, b2⟩, hc⟩, b4⟩, b5⟩, h.hbm, h.ops, h.fill, hp, h.acc, h.shared, h.ways, h.tags, h.tg⟩
  · exact ⟨by simp only [MemS.store, MemS.wf, Bool.and_eq_true]; exact ⟨⟨⟨⟨b1, b2⟩, b3⟩, hc⟩, b5⟩, h.hbm, h.ops, h.fill, h.tile, hp, h.shared, h.ways, h.tags, h.tg⟩
  · exact ⟨by simp only [MemS.store, MemS.wf, Bool.and_eq_true]; exact ⟨⟨⟨⟨b1, b2⟩, b3⟩, b4⟩, hc⟩, h.hbm, h.ops, h.fill, h.tile, h.acc, hp, h.ways, h.tags, h.tg⟩

theorem MemS.Canonical.mark {m : MemS} (h : m.Canonical) (sp : Space) (a : Nat) (p : Bool) :
    smWf (m.coldAt sp) (smSet (m.cold sp a) (m.poisons sp) (a / 16) p) = true := by
  rw [← MemS.coldAt_div]; exact smWf_set _ _ _ _ (h.poisons sp)

theorem MemS.Canonical.writeGran {m : MemS} {sp : Space} {a : Nat} {g : Gran} (h : m.Canonical) : (m.writeGran sp a g).Canonical :=
  h.store _ _ _ (wf_writeBytes _ _ _ (m.wf_cells h.bytes sp)) (h.mark sp a g.poison)

theorem MemS.writeGran_imp {q_ : Prop} {m : MemS} {sp : Space} {a : Nat} {g : Gran} (h : q_ → m.Canonical) : q_ → (m.writeGran sp a g).Canonical := fun x => MemS.Canonical.writeGran (h x)

theorem MemS.Canonical.writeGrans {m : MemS} {sp : Space} {a : Nat} {l : List Gran} (h : m.Canonical) : (m.writeGrans sp a l).Canonical := by
  induction l generalizing m a with
  | nil => exact h
  | cons g t ih => exact ih h.writeGran

theorem MemS.writeGrans_imp {q_ : Prop} {m : MemS} {sp : Space} {a : Nat} {l : List Gran} (h : q_ → m.Canonical) : q_ → (m.writeGrans sp a l).Canonical := fun x => MemS.Canonical.writeGrans (h x)

theorem MemS.Canonical.writeRaw {m : MemS} {sp : Space} {a : Nat} {l : List Byte} (h : m.Canonical) : (m.writeRaw sp a l).Canonical :=
  h.store _ _ _ (wf_writeBytes _ _ _ (m.wf_cells h.bytes sp)) (h.poisons sp)

theorem MemS.writeRaw_imp {q_ : Prop} {m : MemS} {sp : Space} {a : Nat} {l : List Byte} (h : q_ → m.Canonical) : q_ → (m.writeRaw sp a l).Canonical := fun x => MemS.Canonical.writeRaw (h x)

theorem MemS.Canonical.markGran {m : MemS} {sp : Space} {a : Nat} {p : Bool} (h : m.Canonical) : (m.markGran sp a p).Canonical :=
  h.store _ _ _ (m.wf_cells h.bytes sp) (h.mark sp a p)

theorem MemS.markGran_imp {q_ : Prop} {m : MemS} {sp : Space} {a : Nat} {p : Bool} (h : q_ → m.Canonical) : q_ → (m.markGran sp a p).Canonical := fun x => MemS.Canonical.markGran (h x)

theorem MemS.Canonical.wipe {m : MemS} {sp : Space} {lo hi : Nat} (h : m.Canonical) : (m.wipe sp lo hi).Canonical :=
  h.store _ _ _ (smWf_filter _ _ _ (m.wf_cells h.bytes sp)) (smWf_filter _ _ _ (h.poisons sp))

theorem MemS.wipe_imp {q_ : Prop} {m : MemS} {sp : Space} {lo hi : Nat} (h : q_ → m.Canonical) : q_ → (m.wipe sp lo hi).Canonical := fun x => MemS.Canonical.wipe (h x)

/-- A change of the default where no key stands keeps the form. -/
theorem smAbove_congr {α : Type} [DecidableEq α] (d e : Nat → α) (m : SMap α) (b : Option Nat) (hd : ∀ p ∈ m, d p.1 = e p.1)
    (h : smAbove d b m = true) : smAbove e b m = true := by
  induction m generalizing b with
  | nil => rfl
  | cons p t ih =>
    obtain ⟨i, u⟩ := p
    have he : d i = e i := hd (i, u) (by simp)
    simp only [smAbove, Bool.and_eq_true] at h ⊢
    rw [← he]
    exact ⟨h.1, ih (some i) (fun q hq => hd q (by simp [hq])) h.2⟩

theorem MemS.Canonical.wipeOps {m : MemS} {core : Nat} {p : Bool} (h : m.Canonical) : (m.wipeOps core p).Canonical := by
  have w : (m.wipe .opsram (core * 2 ^ 25) ((core + 1) * 2 ^ 25)).Canonical := h.wipe
  refine ⟨w.bytes, w.hbm, ?_, smWf_set _ _ _ _ w.fill, w.tile, w.acc, w.shared, w.ways, w.tags, w.tg⟩
  refine smAbove_congr _ _ _ none ?_ w.ops
  intro q hq
  have hk : q.1 < core * 2 ^ 25 / 16 ∨ q.1 ≥ (core + 1) * 2 ^ 25 / 16 := by
    have hq' : q ∈ (m.opPoison.filter fun x => x.1 < core * 2 ^ 25 / 16 || x.1 ≥ (core + 1) * 2 ^ 25 / 16) := hq
    simpa using (List.mem_filter.mp hq').2
  have hne : 16 * q.1 / 2 ^ 25 ≠ core := by omega
  exact (smGet_set_other _ _ _ _ _ hne).symm

theorem MemS.wipeOps_imp {q_ : Prop} {m : MemS} {core : Nat} {p : Bool} (h : q_ → m.Canonical) : q_ → (m.wipeOps core p).Canonical := fun x => MemS.Canonical.wipeOps (h x)

theorem MemS.Canonical.wipeWay {m : MemS} {way : Nat} {p : Bool} (h : m.Canonical) : (m.wipeWay way p).Canonical := by
  have w : (m.wipe .shared (way * 2 ^ 21) ((way + 1) * 2 ^ 21)).Canonical := h.wipe
  refine ⟨w.bytes, w.hbm, w.ops, w.fill, w.tile, w.acc, ?_, smWf_set _ _ _ _ w.ways, w.tags, w.tg⟩
  refine smAbove_congr _ _ _ none ?_ w.shared
  intro q hq
  have hk : q.1 < way * 2 ^ 21 / 16 ∨ q.1 ≥ (way + 1) * 2 ^ 21 / 16 := by
    have hq' : q ∈ (m.shPoison.filter fun x => x.1 < way * 2 ^ 21 / 16 || x.1 ≥ (way + 1) * 2 ^ 21 / 16) := hq
    simpa using (List.mem_filter.mp hq').2
  have hne : 16 * q.1 / 2 ^ 21 ≠ way := by omega
  exact (smGet_set_other _ _ _ _ _ hne).symm

theorem MemS.wipeWay_imp {q_ : Prop} {m : MemS} {way : Nat} {p : Bool} (h : q_ → m.Canonical) : q_ → (m.wipeWay way p).Canonical := fun x => MemS.Canonical.wipeWay (h x)

theorem MemS.Canonical.foldl {α : Type} {f : MemS → α → MemS} {l : List α} (hf : ∀ m x, MemS.Canonical m → (f m x).Canonical)
    {m : MemS} (h : m.Canonical) : (l.foldl f m).Canonical := by
  induction l generalizing m with
  | nil => exact h
  | cons x t ih => exact ih (hf m x h)

/-- A change of what the canonical form does not speak of. -/
theorem MemS.Canonical.same {m n : MemS} (h : m.Canonical)
    (e : (n.hbm, n.hbmPoison, n.opsram, n.opPoison, n.opFill, n.tile, n.tilePoison, n.accum, n.accPoison, n.tags, n.shared, n.shPoison, n.shFill, n.tg) =
      (m.hbm, m.hbmPoison, m.opsram, m.opPoison, m.opFill, m.tile, m.tilePoison, m.accum, m.accPoison, m.tags, m.shared, m.shPoison, m.shFill, m.tg)) :
    n.Canonical := by
  simp only [Prod.mk.injEq] at e
  obtain ⟨e1, e2, e3, e4, e5, e6, e7, e8, e9, e10, e11, e12, e13, e14⟩ := e
  have ho : n.opCold = m.opCold := by funext g; simp only [MemS.opCold, e5]
  have hs : n.shCold = m.shCold := by funext g; simp only [MemS.shCold, e13]
  refine ⟨?_, e2 ▸ h.hbm, by rw [ho, e4]; exact h.ops, e5 ▸ h.fill, e7 ▸ h.tile, e9 ▸ h.acc, by rw [hs, e12]; exact h.shared, e13 ▸ h.ways,
    e10 ▸ h.tags, e14 ▸ h.tg⟩
  have hb := h.bytes
  simp only [MemS.wf] at hb ⊢
  rw [e1, e3, e6, e8, e11]; exact hb

theorem MemS.foldl_imp {α : Type} {p : Prop} {f : MemS → α → MemS} {l : List α} (hf : ∀ m x, MemS.Canonical m → (f m x).Canonical)
    {m : MemS} (h : p → m.Canonical) : p → (l.foldl f m).Canonical := fun x => MemS.Canonical.foldl hf (h x)

theorem MemS.Canonical.setTags {m : MemS} (h : m.Canonical) {v : SMap Nat} (hv : smWf (fun _ => 4) v = true) : MemS.Canonical { m with tags := v } :=
  ⟨h.bytes, h.hbm, h.ops, h.fill, h.tile, h.acc, h.shared, h.ways, hv, h.tg⟩

theorem MemS.dropTags_imp {q_ : Prop} {m : MemS} {f : Nat × Nat → Bool} (h : q_ → m.Canonical) :
    q_ → MemS.Canonical { m with tags := m.tags.filter f } := fun x => (h x).setTags (smWf_filter _ _ _ (h x).tags)

theorem MemS.imp {m n : MemS} {p : Prop} (f : m.Canonical → n.Canonical) (h : p → m.Canonical) : p → n.Canonical := fun x => f (h x)

theorem MemS.imp_pair {α : Type} {m : MemS} {w : α} {p : Prop} {q : MemS × α} (e : q = (m, w)) (h : p → q.1.Canonical) : p → m.Canonical := by
  subst e; exact h

end Sys2Proof.Machine
end

