-- ==== Sys2Proof/Laws/Kept.lean ====
section
/-! SUPPORT. `Kept`: it composes, and each update of one part of the state keeps it. -/

namespace Sys2Proof.Machine

theorem cv {m k j : Nat} (a : Nat.land k j = j) (h : Nat.land m k = k) : Nat.land m j = j := by
  have a' : k &&& j = j := a
  have h' : m &&& k = k := h
  show m &&& j = j
  rw [← a', ← Nat.land_assoc, h']

theorem bit_of {m k i : Nat} (h : Nat.land m k = k) (hk : k.testBit i = true) : m.testBit i = true := by
  have h' : m &&& k = k := h
  have := congrArg (fun n => n.testBit i) h'
  simpa [Nat.testBit_and, hk] using this

theorem kept_refl {m : Nat} {s : State} : Kept m s s :=
  ⟨fun p _ => by cases p <;> rfl, List.suffix_refl _, Nat.le_refl _, id⟩

theorem Within.trans {m : Nat} {a b c : State} (h : Within m a b) (g : Within m b c) : Within m a c := by
  intro p hp
  have h1 := h p hp
  have h2 := g p hp
  cases p <;> simp only [Piece.same] at * <;> rw [h2, h1]

theorem Kept.trans {m : Nat} {a b c : State} (h : Kept m a b) (g : Kept m b c) : Kept m a c :=
  ⟨h.within.trans g.within, h.out.trans g.out, Nat.le_trans h.free g.free, fun x => g.canon (h.canon x)⟩

theorem kept_foldl {α : Type} {m : Nat} {b : State} {l : List α} {f : State → α → State} (hf : ∀ s x, Kept m b s → Kept m b (f s x))
    {s : State} (h : Kept m b s) : Kept m b (l.foldl f s) := by
  induction l generalizing s with
  | nil => exact h
  | cons x t ih => exact ih (hf s x h)

theorem within_set {m i : Nat} {b s t : State} (hi : m.testBit i = true) (ht : ∀ p : Piece, p.bit ≠ i → p.same s t) (h : Within m b s) :
    Within m b t := by
  intro p hp
  have hne : p.bit ≠ i := by rintro rfl; rw [hi] at hp; exact Bool.noConfusion hp
  have h1 := h p hp
  have h2 := ht p hne
  cases p <;> simp only [Piece.same] at * <;> rw [h2, h1]

/-- The same for what may not come about: the state in the answer, if there is one. -/
def OKept {α : Type} (m : Nat) (b : State) (f : α → State) (o : Option α) : Prop := ∀ x, o = some x → Kept m b (f x)

theorem okept_none {α : Type} {m : Nat} {b : State} {f : α → State} : OKept m b f none := fun _ h => by cases h

theorem okept_some {α : Type} {m : Nat} {b : State} {f : α → State} {x : α} (h : Kept m b (f x)) : OKept m b f (some x) := by
  intro y e; cases e; exact h

theorem okept_map {α β : Type} {m : Nat} {b : State} {f : β → State} {g : α → β} {o : Option α} (h : OKept m b (fun x => f (g x)) o) :
    OKept m b f (o.map g) := by
  intro y e
  cases o with
  | none => cases e
  | some x => cases e; exact h x rfl

theorem okept_const {α : Type} {m : Nat} {b s : State} {o : Option α} (h : Kept m b s) : OKept m b (fun _ => s) o := fun _ _ => h

theorem kept_opt1 {m : Nat} {b t : State} {o : Option State} (e : o = some t) (h : OKept m b (fun x => x) o) : Kept m b t := h t e

theorem kept_opt2 {α : Type} {m : Nat} {b t : State} {x : α} {o : Option (α × State)} (e : o = some (x, t)) (h : OKept m b (fun x => x.2) o) :
    Kept m b t := h _ e

theorem kept_opt3 {α β : Type} {m : Nat} {b t : State} {x : α} {y : β} {o : Option (α × β × State)} (e : o = some (x, y, t))
    (h : OKept m b (fun x => x.2.2) o) : Kept m b t := h _ e

theorem kept_pair {α : Type} {m : Nat} {b t : State} {x : α} {p : α × State} (e : p = (x, t)) (h : Kept m b p.2) : Kept m b t := by
  subst e; exact h

theorem kept_pair3 {α β : Type} {m : Nat} {b t : State} {x : α} {y : β} {p : α × β × State} (e : p = (x, y, t)) (h : Kept m b p.2.2) :
    Kept m b t := by
  subst e; exact h

theorem kept_fst {α : Type} {m : Nat} {b t : State} {x : α} {p : State × α} (e : p = (t, x)) (h : Kept m b p.1) : Kept m b t := by
  subst e; exact h

theorem kept_getD {m : Nat} {b s : State} {o : Option State} (ho : OKept m b (fun x => x) o) (h : Kept m b s) : Kept m b (o.getD s) := by
  cases o with
  | none => exact h
  | some t => exact ho t rfl

theorem kept_getD2 {α : Type} {m : Nat} {b : State} {o : Option (α × State)} {p : α × State} (ho : OKept m b (fun x => x.2) o)
    (h : Kept m b p.2) : Kept m b (o.getD p).2 := by
  cases o with
  | none => exact h
  | some t => exact ho t rfl

theorem kept_foldl1 {α β : Type} {m : Nat} {b : State} {l : List α} {f : State × β → α → State × β}
    (hf : ∀ p x, Kept m b p.1 → Kept m b (f p x).1) {p : State × β} (h : Kept m b p.1) : Kept m b (l.foldl f p).1 := by
  induction l generalizing p with
  | nil => exact h
  | cons x t ih => exact ih (hf p x h)

theorem kept_foldl2 {α β : Type} {m : Nat} {b : State} {l : List α} {f : β × State → α → β × State}
    (hf : ∀ p x, Kept m b p.2 → Kept m b (f p x).2) {p : β × State} (h : Kept m b p.2) : Kept m b (l.foldl f p).2 := by
  induction l generalizing p with
  | nil => exact h
  | cons x t ih => exact ih (hf p x h)

theorem kept_foldl3 {α β γ : Type} {m : Nat} {b : State} {l : List α} {f : β × γ × State → α → β × γ × State}
    (hf : ∀ p x, Kept m b p.2.2 → Kept m b (f p x).2.2) {p : β × γ × State} (h : Kept m b p.2.2) : Kept m b (l.foldl f p).2.2 := by
  induction l generalizing p with
  | nil => exact h
  | cons x t ih => exact ih (hf p x h)

/-! ## One part at a time -/

theorem kept_regs {m : Nat} {b s : State} {v} (hm : Nat.land m 1 = 1)  (h : Kept m b s) :
    Kept m b { s with regs := v } :=
  ⟨within_set (i := 0) (bit_of hm rfl) (fun p hp => by cases p <;> first | rfl | exact absurd rfl hp) h.within, h.out, h.free,
    fun a => have c := h.canon a; ⟨c.mem, c.now, c.beacons, c.latches, c.parts, c.rings, c.ports, c.arrays, c.cores, c.engines, c.books, c.gens, c.fports, c.cdies, c.doms, c.boot, c.roots, c.units, c.mram, c.sensors⟩⟩

theorem kept_latches {m : Nat} {b s : State} {v} (hm : Nat.land m 2 = 2) (hv : smWf (fun _ => 0) s.latches = true → smWf (fun _ => 0) v = true) (h : Kept m b s) :
    Kept m b { s with latches := v } :=
  ⟨within_set (i := 1) (bit_of hm rfl) (fun p hp => by cases p <;> first | rfl | exact absurd rfl hp) h.within, h.out, h.free,
    fun a => have c := h.canon a; ⟨c.mem, c.now, c.beacons, hv c.latches, c.parts, c.rings, c.ports, c.arrays, c.cores, c.engines, c.books, c.gens, c.fports, c.cdies, c.doms, c.boot, c.roots, c.units, c.mram, c.sensors⟩⟩

theorem kept_locks {m : Nat} {b s : State} {v} (hm : Nat.land m 4 = 4)  (h : Kept m b s) :
    Kept m b { s with locks := v } :=
  ⟨within_set (i := 2) (bit_of hm rfl) (fun p hp => by cases p <;> first | rfl | exact absurd rfl hp) h.within, h.out, h.free,
    fun a => have c := h.canon a; ⟨c.mem, c.now, c.beacons, c.latches, c.parts, c.rings, c.ports, c.arrays, c.cores, c.engines, c.books, c.gens, c.fports, c.cdies, c.doms, c.boot, c.roots, c.units, c.mram, c.sensors⟩⟩

theorem kept_time {m : Nat} {b s : State} {v} (hm : Nat.land m 8 = 8) (hv : s.time.now < 2 ^ 64 ∧ smWf (fun _ => 0) s.time.beacons = true → v.now < 2 ^ 64 ∧ smWf (fun _ => 0) v.beacons = true) (h : Kept m b s) :
    Kept m b { s with time := v } :=
  ⟨within_set (i := 3) (bit_of hm rfl) (fun p hp => by cases p <;> first | rfl | exact absurd rfl hp) h.within, h.out, h.free,
    fun a => have c := h.canon a; ⟨c.mem, (hv ⟨c.now, c.beacons⟩).1, (hv ⟨c.now, c.beacons⟩).2, c.latches, c.parts, c.rings, c.ports, c.arrays, c.cores, c.engines, c.books, c.gens, c.fports, c.cdies, c.doms, c.boot, c.roots, c.units, c.mram, c.sensors⟩⟩

theorem kept_parts {m : Nat} {b s : State} {v} (hm : Nat.land m 16 = 16) (hv : smWf (fun _ => PartS.init) s.parts = true → smWf (fun _ => PartS.init) v = true) (h : Kept m b s) :
    Kept m b { s with parts := v } :=
  ⟨within_set (i := 4) (bit_of hm rfl) (fun p hp => by cases p <;> first | rfl | exact absurd rfl hp) h.within, h.out, h.free,
    fun a => have c := h.canon a; ⟨c.mem, c.now, c.beacons, c.latches, hv c.parts, c.rings, c.ports, c.arrays, c.cores, c.engines, c.books, c.gens, c.fports, c.cdies, c.doms, c.boot, c.roots, c.units, c.mram, c.sensors⟩⟩

theorem kept_rings {m : Nat} {b s : State} {v} (hm : Nat.land m 32 = 32) (hv : smWf (fun _ => RingS.init) s.rings = true → smWf (fun _ => RingS.init) v = true) (h : Kept m b s) :
    Kept m b { s with rings := v } :=
  ⟨within_set (i := 5) (bit_of hm rfl) (fun p hp => by cases p <;> first | rfl | exact absurd rfl hp) h.within, h.out, h.free,
    fun a => have c := h.canon a; ⟨c.mem, c.now, c.beacons, c.latches, c.parts, hv c.rings, c.ports, c.arrays, c.cores, c.engines, c.books, c.gens, c.fports, c.cdies, c.doms, c.boot, c.roots, c.units, c.mram, c.sensors⟩⟩

theorem kept_ports {m : Nat} {b s : State} {v} (hm : Nat.land m 64 = 64) (hv : smWf (fun _ => PortS.init) s.ports = true → smWf (fun _ => PortS.init) v = true) (h : Kept m b s) :
    Kept m b { s with ports := v } :=
  ⟨within_set (i := 6) (bit_of hm rfl) (fun p hp => by cases p <;> first | rfl | exact absurd rfl hp) h.within, h.out, h.free,
    fun a => have c := h.canon a; ⟨c.mem, c.now, c.beacons, c.latches, c.parts, c.rings, hv c.ports, c.arrays, c.cores, c.engines, c.books, c.gens, c.fports, c.cdies, c.doms, c.boot, c.roots, c.units, c.mram, c.sensors⟩⟩

theorem kept_subs {m : Nat} {b s : State} {v} (hm : Nat.land m 128 = 128)  (h : Kept m b s) :
    Kept m b { s with subs := v } :=
  ⟨within_set (i := 7) (bit_of hm rfl) (fun p hp => by cases p <;> first | rfl | exact absurd rfl hp) h.within, h.out, h.free,
    fun a => have c := h.canon a; ⟨c.mem, c.now, c.beacons, c.latches, c.parts, c.rings, c.ports, c.arrays, c.cores, c.engines, c.books, c.gens, c.fports, c.cdies, c.doms, c.boot, c.roots, c.units, c.mram, c.sensors⟩⟩

theorem kept_slots {m : Nat} {b s : State} {v} (hm : Nat.land m 256 = 256)  (h : Kept m b s) :
    Kept m b { s with slots := v } :=
  ⟨within_set (i := 8) (bit_of hm rfl) (fun p hp => by cases p <;> first | rfl | exact absurd rfl hp) h.within, h.out, h.free,
    fun a => have c := h.canon a; ⟨c.mem, c.now, c.beacons, c.latches, c.parts, c.rings, c.ports, c.arrays, c.cores, c.engines, c.books, c.gens, c.fports, c.cdies, c.doms, c.boot, c.roots, c.units, c.mram, c.sensors⟩⟩

theorem kept_reads {m : Nat} {b s : State} {v} (hm : Nat.land m 512 = 512)  (h : Kept m b s) :
    Kept m b { s with reads := v } :=
  ⟨within_set (i := 9) (bit_of hm rfl) (fun p hp => by cases p <;> first | rfl | exact absurd rfl hp) h.within, h.out, h.free,
    fun a => have c := h.canon a; ⟨c.mem, c.now, c.beacons, c.latches, c.parts, c.rings, c.ports, c.arrays, c.cores, c.engines, c.books, c.gens, c.fports, c.cdies, c.doms, c.boot, c.roots, c.units, c.mram, c.sensors⟩⟩

theorem kept_nextId {m : Nat} {b s : State} {v} (hm : Nat.land m 1024 = 1024)  (h : Kept m b s) :
    Kept m b { s with nextId := v } :=
  ⟨within_set (i := 10) (bit_of hm rfl) (fun p hp => by cases p <;> first | rfl | exact absurd rfl hp) h.within, h.out, h.free,
    fun a => have c := h.canon a; ⟨c.mem, c.now, c.beacons, c.latches, c.parts, c.rings, c.ports, c.arrays, c.cores, c.engines, c.books, c.gens, c.fports, c.cdies, c.doms, c.boot, c.roots, c.units, c.mram, c.sensors⟩⟩

theorem kept_arrays {m : Nat} {b s : State} {v} (hm : Nat.land m 2048 = 2048) (hv : smWf (fun _ => ArrayS.init) s.arrays = true → smWf (fun _ => ArrayS.init) v = true) (h : Kept m b s) :
    Kept m b { s with arrays := v } :=
  ⟨within_set (i := 11) (bit_of hm rfl) (fun p hp => by cases p <;> first | rfl | exact absurd rfl hp) h.within, h.out, h.free,
    fun a => have c := h.canon a; ⟨c.mem, c.now, c.beacons, c.latches, c.parts, c.rings, c.ports, hv c.arrays, c.cores, c.engines, c.books, c.gens, c.fports, c.cdies, c.doms, c.boot, c.roots, c.units, c.mram, c.sensors⟩⟩

theorem kept_cores {m : Nat} {b s : State} {v} (hm : Nat.land m 4096 = 4096) (hv : smWf (fun _ => CoreS.init) s.cores = true → smWf (fun _ => CoreS.init) v = true) (h : Kept m b s) :
    Kept m b { s with cores := v } :=
  ⟨within_set (i := 12) (bit_of hm rfl) (fun p hp => by cases p <;> first | rfl | exact absurd rfl hp) h.within, h.out, h.free,
    fun a => have c := h.canon a; ⟨c.mem, c.now, c.beacons, c.latches, c.parts, c.rings, c.ports, c.arrays, hv c.cores, c.engines, c.books, c.gens, c.fports, c.cdies, c.doms, c.boot, c.roots, c.units, c.mram, c.sensors⟩⟩

theorem kept_engines {m : Nat} {b s : State} {v} (hm : Nat.land m 8192 = 8192) (hv : smWf (fun _ => EngS.init) s.engines = true → smWf (fun _ => EngS.init) v = true) (h : Kept m b s) :
    Kept m b { s with engines := v } :=
  ⟨within_set (i := 13) (bit_of hm rfl) (fun p hp => by cases p <;> first | rfl | exact absurd rfl hp) h.within, h.out, h.free,
    fun a => have c := h.canon a; ⟨c.mem, c.now, c.beacons, c.latches, c.parts, c.rings, c.ports, c.arrays, c.cores, hv c.engines, c.books, c.gens, c.fports, c.cdies, c.doms, c.boot, c.roots, c.units, c.mram, c.sensors⟩⟩

theorem kept_books {m : Nat} {b s : State} {v} (hm : Nat.land m 16384 = 16384) (hv : smWf (fun _ => Codebook.init) s.books = true → smWf (fun _ => Codebook.init) v = true) (h : Kept m b s) :
    Kept m b { s with books := v } :=
  ⟨within_set (i := 14) (bit_of hm rfl) (fun p hp => by cases p <;> first | rfl | exact absurd rfl hp) h.within, h.out, h.free,
    fun a => have c := h.canon a; ⟨c.mem, c.now, c.beacons, c.latches, c.parts, c.rings, c.ports, c.arrays, c.cores, c.engines, hv c.books, c.gens, c.fports, c.cdies, c.doms, c.boot, c.roots, c.units, c.mram, c.sensors⟩⟩

theorem kept_xfers {m : Nat} {b s : State} {v} (hm : Nat.land m 32768 = 32768)  (h : Kept m b s) :
    Kept m b { s with xfers := v } :=
  ⟨within_set (i := 15) (bit_of hm rfl) (fun p hp => by cases p <;> first | rfl | exact absurd rfl hp) h.within, h.out, h.free,
    fun a => have c := h.canon a; ⟨c.mem, c.now, c.beacons, c.latches, c.parts, c.rings, c.ports, c.arrays, c.cores, c.engines, c.books, c.gens, c.fports, c.cdies, c.doms, c.boot, c.roots, c.units, c.mram, c.sensors⟩⟩

theorem kept_gsteps {m : Nat} {b s : State} {v} (hm : Nat.land m 65536 = 65536)  (h : Kept m b s) :
    Kept m b { s with gsteps := v } :=
  ⟨within_set (i := 16) (bit_of hm rfl) (fun p hp => by cases p <;> first | rfl | exact absurd rfl hp) h.within, h.out, h.free,
    fun a => have c := h.canon a; ⟨c.mem, c.now, c.beacons, c.latches, c.parts, c.rings, c.ports, c.arrays, c.cores, c.engines, c.books, c.gens, c.fports, c.cdies, c.doms, c.boot, c.roots, c.units, c.mram, c.sensors⟩⟩

theorem kept_usteps {m : Nat} {b s : State} {v} (hm : Nat.land m 131072 = 131072)  (h : Kept m b s) :
    Kept m b { s with usteps := v } :=
  ⟨within_set (i := 17) (bit_of hm rfl) (fun p hp => by cases p <;> first | rfl | exact absurd rfl hp) h.within, h.out, h.free,
    fun a => have c := h.canon a; ⟨c.mem, c.now, c.beacons, c.latches, c.parts, c.rings, c.ports, c.arrays, c.cores, c.engines, c.books, c.gens, c.fports, c.cdies, c.doms, c.boot, c.roots, c.units, c.mram, c.sensors⟩⟩

theorem kept_upd {m : Nat} {b s : State} {v} (hm : Nat.land m 262144 = 262144)  (h : Kept m b s) :
    Kept m b { s with upd := v } :=
  ⟨within_set (i := 18) (bit_of hm rfl) (fun p hp => by cases p <;> first | rfl | exact absurd rfl hp) h.within, h.out, h.free,
    fun a => have c := h.canon a; ⟨c.mem, c.now, c.beacons, c.latches, c.parts, c.rings, c.ports, c.arrays, c.cores, c.engines, c.books, c.gens, c.fports, c.cdies, c.doms, c.boot, c.roots, c.units, c.mram, c.sensors⟩⟩

theorem kept_mem {m : Nat} {b s : State} {v} (hm : Nat.land m 524288 = 524288) (hv : s.mem.Canonical → v.Canonical) (h : Kept m b s) :
    Kept m b { s with mem := v } :=
  ⟨within_set (i := 19) (bit_of hm rfl) (fun p hp => by cases p <;> first | rfl | exact absurd rfl hp) h.within, h.out, h.free,
    fun a => have c := h.canon a; ⟨hv c.mem, c.now, c.beacons, c.latches, c.parts, c.rings, c.ports, c.arrays, c.cores, c.engines, c.books, c.gens, c.fports, c.cdies, c.doms, c.boot, c.roots, c.units, c.mram, c.sensors⟩⟩

theorem kept_xlt {m : Nat} {b s : State} {v} (hm : Nat.land m 1048576 = 1048576) (hv : smWf (fun _ => CtxGen.init) s.xlt.gens = true → smWf (fun _ => CtxGen.init) v.gens = true) (h : Kept m b s) :
    Kept m b { s with xlt := v } :=
  ⟨within_set (i := 20) (bit_of hm rfl) (fun p hp => by cases p <;> first | rfl | exact absurd rfl hp) h.within, h.out, h.free,
    fun a => have c := h.canon a; ⟨c.mem, c.now, c.beacons, c.latches, c.parts, c.rings, c.ports, c.arrays, c.cores, c.engines, c.books, hv c.gens, c.fports, c.cdies, c.doms, c.boot, c.roots, c.units, c.mram, c.sensors⟩⟩

theorem kept_fab {m : Nat} {b s : State} {v} (hm : Nat.land m 2097152 = 2097152) (hv : smWf (fun _ => FPort.init) s.fab.ports = true → smWf (fun _ => FPort.init) v.ports = true) (h : Kept m b s) :
    Kept m b { s with fab := v } :=
  ⟨within_set (i := 21) (bit_of hm rfl) (fun p hp => by cases p <;> first | rfl | exact absurd rfl hp) h.within, h.out, h.free,
    fun a => have c := h.canon a; ⟨c.mem, c.now, c.beacons, c.latches, c.parts, c.rings, c.ports, c.arrays, c.cores, c.engines, c.books, c.gens, hv c.fports, c.cdies, c.doms, c.boot, c.roots, c.units, c.mram, c.sensors⟩⟩

theorem kept_err {m : Nat} {b s : State} {v} (hm : Nat.land m 4194304 = 4194304) (hv : smWf (fun _ => CdieS.init) s.err.cdies = true ∧ smWf (fun _ => MCopy.init RootRec.init) s.err.roots = true →
    smWf (fun _ => CdieS.init) v.cdies = true ∧ smWf (fun _ => MCopy.init RootRec.init) v.roots = true) (h : Kept m b s) :
    Kept m b { s with err := v } :=
  ⟨within_set (i := 22) (bit_of hm rfl) (fun p hp => by cases p <;> first | rfl | exact absurd rfl hp) h.within, h.out, h.free,
    fun a => have c := h.canon a; ⟨c.mem, c.now, c.beacons, c.latches, c.parts, c.rings, c.ports, c.arrays, c.cores, c.engines, c.books, c.gens, c.fports, (hv ⟨c.cdies, c.roots⟩).1, c.doms, c.boot, (hv ⟨c.cdies, c.roots⟩).2, c.units, c.mram, c.sensors⟩⟩

theorem kept_boot {m : Nat} {b s : State} {v} (hm : Nat.land m 8388608 = 8388608) (hv : smWf (fun _ => FwDom.init) s.boot.doms = true ∧ smWf (fun _ => MramS.init) s.boot.mram = true → smWf (fun _ => FwDom.init) v.doms = true ∧ smWf (fun _ => MramS.init) v.mram = true) (h : Kept m b s) :
    Kept m b { s with boot := v } :=
  ⟨within_set (i := 23) (bit_of hm rfl) (fun p hp => by cases p <;> first | rfl | exact absurd rfl hp) h.within, h.out, h.free,
    fun a => have c := h.canon a; ⟨c.mem, c.now, c.beacons, c.latches, c.parts, c.rings, c.ports, c.arrays, c.cores, c.engines, c.books, c.gens, c.fports, c.cdies, (hv ⟨c.doms, c.boot⟩).1, (hv ⟨c.doms, c.boot⟩).2, c.roots, c.units, c.mram, c.sensors⟩⟩

theorem kept_hlt {m : Nat} {b s : State} {v} (hm : Nat.land m 16777216 = 16777216) (hv : smWf (fun _ => UnitRec.init) s.hlt.units = true ∧ smWf (fun _ => noCopy) s.hlt.mram = true ∧ smWf (fun _ => Sensor.init) s.hlt.sensors = true →
    smWf (fun _ => UnitRec.init) v.units = true ∧ smWf (fun _ => noCopy) v.mram = true ∧ smWf (fun _ => Sensor.init) v.sensors = true) (h : Kept m b s) :
    Kept m b { s with hlt := v } :=
  ⟨within_set (i := 24) (bit_of hm rfl) (fun p hp => by cases p <;> first | rfl | exact absurd rfl hp) h.within, h.out, h.free,
    fun a => have c := h.canon a; ⟨c.mem, c.now, c.beacons, c.latches, c.parts, c.rings, c.ports, c.arrays, c.cores, c.engines, c.books, c.gens, c.fports, c.cdies, c.doms, c.boot, c.roots, (hv ⟨c.units, c.mram, c.sensors⟩).1, (hv ⟨c.units, c.mram, c.sensors⟩).2.1, (hv ⟨c.units, c.mram, c.sensors⟩).2.2⟩⟩

theorem kept_pwr {m : Nat} {b s : State} {v} (hm : Nat.land m 33554432 = 33554432)  (h : Kept m b s) :
    Kept m b { s with pwr := v } :=
  ⟨within_set (i := 25) (bit_of hm rfl) (fun p hp => by cases p <;> first | rfl | exact absurd rfl hp) h.within, h.out, h.free,
    fun a => have c := h.canon a; ⟨c.mem, c.now, c.beacons, c.latches, c.parts, c.rings, c.ports, c.arrays, c.cores, c.engines, c.books, c.gens, c.fports, c.cdies, c.doms, c.boot, c.roots, c.units, c.mram, c.sensors⟩⟩

theorem kept_notes {m : Nat} {b s : State} {v} (hm : Nat.land m 67108864 = 67108864)  (h : Kept m b s) :
    Kept m b { s with notes := v } :=
  ⟨within_set (i := 26) (bit_of hm rfl) (fun p hp => by cases p <;> first | rfl | exact absurd rfl hp) h.within, h.out, h.free,
    fun a => have c := h.canon a; ⟨c.mem, c.now, c.beacons, c.latches, c.parts, c.rings, c.ports, c.arrays, c.cores, c.engines, c.books, c.gens, c.fports, c.cdies, c.doms, c.boot, c.roots, c.units, c.mram, c.sensors⟩⟩

theorem kept_out {m : Nat} {b s : State} {o : Out} (hm : Nat.land m 134217728 = 134217728) (h : Kept m b s) : Kept m b { s with out := o :: s.out } :=
  ⟨within_set (i := 27) (bit_of hm rfl) (fun p hp => by cases p <;> first | rfl | exact absurd rfl hp) h.within,
    h.out.trans (List.suffix_cons _ _), h.free, fun a => have c := h.canon a; ⟨c.mem, c.now, c.beacons, c.latches, c.parts, c.rings, c.ports, c.arrays, c.cores, c.engines, c.books, c.gens, c.fports, c.cdies, c.doms, c.boot, c.roots, c.units, c.mram, c.sensors⟩⟩

theorem kept_free {m : Nat} {b s : State} {v : Nat} (hm : Nat.land m 268435456 = 268435456) (hv : s.free ≤ v) (h : Kept m b s) :
    Kept m b { s with free := v } :=
  ⟨within_set (i := 28) (bit_of hm rfl) (fun p hp => by cases p <;> first | rfl | exact absurd rfl hp) h.within,
    h.out, h.free.trans hv, fun a => have c := h.canon a; ⟨c.mem, c.now, c.beacons, c.latches, c.parts, c.rings, c.ports, c.arrays, c.cores, c.engines, c.books, c.gens, c.fports, c.cdies, c.doms, c.boot, c.roots, c.units, c.mram, c.sensors⟩⟩

/-! ## The named updates -/

theorem State.setUpd_kept {m : Nat} {b s : State} {x} (hm : Nat.land m 262144 = 262144) (h : Kept m b s) :
    Kept m b (s.setUpd x) := kept_upd hm h

theorem State.setPwr_kept {m : Nat} {b s : State} {x} (hm : Nat.land m 33554432 = 33554432) (h : Kept m b s) :
    Kept m b (s.setPwr x) := kept_pwr hm h

theorem State.setLocks_kept {m : Nat} {b s : State} {x} (hm : Nat.land m 4 = 4) (h : Kept m b s) :
    Kept m b (s.setLocks x) := kept_locks hm h

theorem State.setSubs_kept {m : Nat} {b s : State} {x} (hm : Nat.land m 128 = 128) (h : Kept m b s) :
    Kept m b (s.setSubs x) := kept_subs hm h

theorem State.setSlots_kept {m : Nat} {b s : State} {x} (hm : Nat.land m 256 = 256) (h : Kept m b s) :
    Kept m b (s.setSlots x) := kept_slots hm h

theorem State.setReads_kept {m : Nat} {b s : State} {x} (hm : Nat.land m 512 = 512) (h : Kept m b s) :
    Kept m b (s.setReads x) := kept_reads hm h

theorem State.setNextId_kept {m : Nat} {b s : State} {x} (hm : Nat.land m 1024 = 1024) (h : Kept m b s) :
    Kept m b (s.setNextId x) := kept_nextId hm h

theorem State.setXfers_kept {m : Nat} {b s : State} {x} (hm : Nat.land m 32768 = 32768) (h : Kept m b s) :
    Kept m b (s.setXfers x) := kept_xfers hm h

theorem State.setGsteps_kept {m : Nat} {b s : State} {x} (hm : Nat.land m 65536 = 65536) (h : Kept m b s) :
    Kept m b (s.setGsteps x) := kept_gsteps hm h

theorem State.setUsteps_kept {m : Nat} {b s : State} {x} (hm : Nat.land m 131072 = 131072) (h : Kept m b s) :
    Kept m b (s.setUsteps x) := kept_usteps hm h

theorem State.setTime_kept {m : Nat} {b s : State} {v} (hm : Nat.land m 8 = 8) (hv : s.time.now < 2 ^ 64 ∧ smWf (fun _ => 0) s.time.beacons = true → v.now < 2 ^ 64 ∧ smWf (fun _ => 0) v.beacons = true) (h : Kept m b s) :
    Kept m b (s.setTime v) := kept_time hm hv h

theorem State.setMem_kept {m : Nat} {b s : State} {v} (hm : Nat.land m 524288 = 524288) (hv : s.mem.Canonical → v.Canonical) (h : Kept m b s) :
    Kept m b (s.setMem v) := kept_mem hm hv h

theorem State.setXlt_kept {m : Nat} {b s : State} {v} (hm : Nat.land m 1048576 = 1048576) (hv : smWf (fun _ => CtxGen.init) s.xlt.gens = true → smWf (fun _ => CtxGen.init) v.gens = true) (h : Kept m b s) :
    Kept m b (s.setXlt v) := kept_xlt hm hv h

theorem State.setFab_kept {m : Nat} {b s : State} {v} (hm : Nat.land m 2097152 = 2097152) (hv : smWf (fun _ => FPort.init) s.fab.ports = true → smWf (fun _ => FPort.init) v.ports = true) (h : Kept m b s) :
    Kept m b (s.setFab v) := kept_fab hm hv h

theorem State.setErr_kept {m : Nat} {b s : State} {v} (hm : Nat.land m 4194304 = 4194304) (hv : smWf (fun _ => CdieS.init) s.err.cdies = true ∧ smWf (fun _ => MCopy.init RootRec.init) s.err.roots = true →
    smWf (fun _ => CdieS.init) v.cdies = true ∧ smWf (fun _ => MCopy.init RootRec.init) v.roots = true) (h : Kept m b s) :
    Kept m b (s.setErr v) := kept_err hm hv h

theorem State.setBoot_kept {m : Nat} {b s : State} {v} (hm : Nat.land m 8388608 = 8388608) (hv : smWf (fun _ => FwDom.init) s.boot.doms = true ∧ smWf (fun _ => MramS.init) s.boot.mram = true → smWf (fun _ => FwDom.init) v.doms = true ∧ smWf (fun _ => MramS.init) v.mram = true) (h : Kept m b s) :
    Kept m b (s.setBoot v) := kept_boot hm hv h

theorem State.setHlt_kept {m : Nat} {b s : State} {v} (hm : Nat.land m 16777216 = 16777216) (hv : smWf (fun _ => UnitRec.init) s.hlt.units = true ∧ smWf (fun _ => noCopy) s.hlt.mram = true ∧ smWf (fun _ => Sensor.init) s.hlt.sensors = true →
    smWf (fun _ => UnitRec.init) v.units = true ∧ smWf (fun _ => noCopy) v.mram = true ∧ smWf (fun _ => Sensor.init) v.sensors = true) (h : Kept m b s) :
    Kept m b (s.setHlt v) := kept_hlt hm hv h

theorem State.setLatches_kept {m : Nat} {b s : State} {v} (hm : Nat.land m 2 = 2) (hv : smWf (fun _ => 0) s.latches = true → smWf (fun _ => 0) v = true) (h : Kept m b s) :
    Kept m b (s.setLatches v) := kept_latches hm hv h

theorem State.setEngines_kept {m : Nat} {b s : State} {v} (hm : Nat.land m 8192 = 8192) (hv : smWf (fun _ => EngS.init) s.engines = true → smWf (fun _ => EngS.init) v = true) (h : Kept m b s) :
    Kept m b (s.setEngines v) := kept_engines hm hv h

theorem State.setRings_kept {m : Nat} {b s : State} {v} (hm : Nat.land m 32 = 32) (hv : smWf (fun _ => RingS.init) s.rings = true → smWf (fun _ => RingS.init) v = true) (h : Kept m b s) :
    Kept m b (s.setRings v) := kept_rings hm hv h

theorem State.setPorts_kept {m : Nat} {b s : State} {v} (hm : Nat.land m 64 = 64) (hv : smWf (fun _ => PortS.init) s.ports = true → smWf (fun _ => PortS.init) v = true) (h : Kept m b s) :
    Kept m b (s.setPorts v) := kept_ports hm hv h

theorem State.setArrays_kept {m : Nat} {b s : State} {v} (hm : Nat.land m 2048 = 2048) (hv : smWf (fun _ => ArrayS.init) s.arrays = true → smWf (fun _ => ArrayS.init) v = true) (h : Kept m b s) :
    Kept m b (s.setArrays v) := kept_arrays hm hv h

theorem State.setCores_kept {m : Nat} {b s : State} {v} (hm : Nat.land m 4096 = 4096) (hv : smWf (fun _ => CoreS.init) s.cores = true → smWf (fun _ => CoreS.init) v = true) (h : Kept m b s) :
    Kept m b (s.setCores v) := kept_cores hm hv h

theorem State.setParts_kept {m : Nat} {b s : State} {v} (hm : Nat.land m 16 = 16) (hv : smWf (fun _ => PartS.init) s.parts = true → smWf (fun _ => PartS.init) v = true) (h : Kept m b s) :
    Kept m b (s.setParts v) := kept_parts hm hv h

theorem State.setPart_kept {m : Nat} {b s : State} {p x} (hm : Nat.land m 16 = 16) (h : Kept m b s) :
    Kept m b (s.setPart p x) := kept_parts hm (fun w => smWf_set _ _ _ _ w) h

theorem State.setRing_kept {m : Nat} {b s : State} {p x} (hm : Nat.land m 32 = 32) (h : Kept m b s) :
    Kept m b (s.setRing p x) := kept_rings hm (fun w => smWf_set _ _ _ _ w) h

theorem State.setPort_kept {m : Nat} {b s : State} {p x} (hm : Nat.land m 64 = 64) (h : Kept m b s) :
    Kept m b (s.setPort p x) := kept_ports hm (fun w => smWf_set _ _ _ _ w) h

theorem State.setArray_kept {m : Nat} {b s : State} {p x} (hm : Nat.land m 2048 = 2048) (h : Kept m b s) :
    Kept m b (s.setArray p x) := kept_arrays hm (fun w => smWf_set _ _ _ _ w) h

theorem State.setCore_kept {m : Nat} {b s : State} {p x} (hm : Nat.land m 4096 = 4096) (h : Kept m b s) :
    Kept m b (s.setCore p x) := kept_cores hm (fun w => smWf_set _ _ _ _ w) h

theorem State.setEng_kept {m : Nat} {b s : State} {p q x} (hm : Nat.land m 8192 = 8192) (h : Kept m b s) :
    Kept m b (s.setEng p q x) := kept_engines hm (fun w => smWf_set _ _ _ _ w) h

theorem State.setBook_kept {m : Nat} {b s : State} {p q x} (hm : Nat.land m 16384 = 16384) (h : Kept m b s) :
    Kept m b (s.setBook p q x) := kept_books hm (fun w => smWf_set _ _ _ _ w) h

theorem State.setFport_kept {m : Nat} {b s : State} {p x} (hm : Nat.land m 2097152 = 2097152) (h : Kept m b s) :
    Kept m b (s.setFport p x) := kept_fab hm (fun w => smWf_set _ _ _ _ w) h

theorem State.setCdie_kept {m : Nat} {b s : State} {p x} (hm : Nat.land m 4194304 = 4194304) (h : Kept m b s) :
    Kept m b (s.setCdie p x) := kept_err hm (fun w => ⟨smWf_set _ _ _ _ w.1, w.2⟩) h

theorem State.setCtxGen_kept {m : Nat} {b s : State} {p x} (hm : Nat.land m 1048576 = 1048576) (h : Kept m b s) :
    Kept m b (s.setCtxGen p x) := kept_xlt hm (fun w => smWf_set _ _ _ _ w) h

theorem State.setUnit_kept {m : Nat} {b s : State} {p x} (hm : Nat.land m 16777216 = 16777216) (h : Kept m b s) :
    Kept m b (s.setUnit p x) := kept_hlt hm (fun w => ⟨smWf_set _ _ _ _ w.1, w.2⟩) h

theorem State.setSensor_kept {m : Nat} {b s : State} {p x} (hm : Nat.land m 16777216 = 16777216) (h : Kept m b s) :
    Kept m b (s.setSensor p x) := kept_hlt hm (fun w => ⟨w.1, w.2.1, smWf_set _ _ _ _ w.2.2⟩) h

theorem State.setDom_kept {m : Nat} {b s : State} {p x} (hm : Nat.land m 8388608 = 8388608) (h : Kept m b s) :
    Kept m b (s.setDom p x) := kept_boot hm (fun w => ⟨smWf_set _ _ _ _ w.1, w.2⟩) h

theorem State.setMram_kept {m : Nat} {b s : State} {p x} (hm : Nat.land m 8388608 = 8388608) (h : Kept m b s) :
    Kept m b (s.setMram p x) := kept_boot hm (fun w => ⟨w.1, smWf_set _ _ _ _ w.2⟩) h

theorem State.setTg_kept {m : Nat} {b s : State} {p x} (hm : Nat.land m 524288 = 524288) (h : Kept m b s) :
    Kept m b (s.setTg p x) := kept_mem hm (fun c => ⟨c.bytes, c.hbm, c.ops, c.fill, c.tile, c.acc, c.shared, c.ways, c.tags, smWf_set _ _ _ _ c.tg⟩) h

theorem State.note_kept {m : Nat} {b s : State} {n} (hm : Nat.land m 67108864 = 67108864) (h : Kept m b s) :
    Kept m b (s.note n) := kept_notes hm h

theorem State.emit_kept {m : Nat} {b s : State} {x} (hm : Nat.land m 134217728 = 134217728) (h : Kept m b s) :
    Kept m b (s.emit x) := kept_out hm h

theorem State.draw_kept {m : Nat} {b s : State}  (hm : Nat.land m 268435456 = 268435456) (h : Kept m b s) :
    Kept m b (s.draw.2) := kept_free hm (Nat.le_succ _) h

theorem State.setReg_kept {m : Nat} {b s : State} {g i w} (hm : Nat.land m 1 = 1) (h : Kept m b s) :
    Kept m b (s.setReg g i w) := kept_regs hm h

theorem State.draw_of {m : Nat} {b s t : State} {x : Nat} (hm : Nat.land m 268435456 = 268435456) (e : s.draw = (x, t)) (h : Kept m b s) : Kept m b t := by
  have q := State.draw_kept hm h
  rw [e] at q; exact q

theorem State.emitHost_kept {m : Nat} {b s : State} {port last : Nat} {o : Out} (hm : Nat.land m 134217792 = 134217792) (h : Kept m b s) :
    Kept m b (s.emitHost port last o) := State.setPort_kept (cv rfl hm) (State.emit_kept (cv rfl hm) h)

end Sys2Proof.Machine
end

