-- ==== Sys2Proof/Laws/KeptRegs.lean ====
section
/-! SUPPORT. What the definitions of Machine/Regs.lean keep. -/

namespace Sys2Proof.Machine

open Sys2Proof Host

theorem State.orReg_kept {ks : Nat} {s0 : State} {s : State} {g : RG} {i : Nat} {m : Word} (hks : Nat.land ks 1 = 1) (hk : Kept ks s0 s) :
    Kept ks s0 (State.orReg s g i m) := by
  unfold State.orReg
  repeat' first
    | with_reducible assumption
    | with_reducible refine State.setReg_kept (cv rfl hks) ?_

theorem State.setBit_kept {ks : Nat} {s0 : State} {s : State} {g : RG} {i b : Nat} (hks : Nat.land ks 1 = 1) (hk : Kept ks s0 s) :
    Kept ks s0 (State.setBit s g i b) := by
  unfold State.setBit
  repeat' first
    | with_reducible assumption
    | with_reducible refine State.orReg_kept (cv rfl hks) ?_

theorem State.regErr_kept {ks : Nat} {s0 : State} {s : State} {off cause : Nat} (hks : Nat.land ks 1 = 1) (hk : Kept ks s0 s) :
    Kept ks s0 (State.regErr s off cause) := by
  unfold State.regErr
  repeat' first
    | with_reducible assumption
    | with_reducible refine State.setReg_kept (cv rfl hks) ?_

theorem State.putRw_kept {ks : Nat} {s0 : State} {s : State} {g : RG} {i : Nat} {w : Word} (hks : Nat.land ks 1 = 1) (hk : Kept ks s0 s) :
    Kept ks s0 (State.putRw s g i w) := by
  unfold State.putRw
  repeat' first
    | with_reducible assumption
    | with_reducible refine State.setReg_kept (cv rfl hks) ?_

end Sys2Proof.Machine
end

