-- ==== Sys2Proof/Laws/KeptFaults.lean ====
section
/-! SUPPORT. What the definitions of Machine/Faults.lean keep. -/

namespace Sys2Proof.Machine

open Sys2Proof Host

theorem State.msix_kept {ks : Nat} {s0 : State} {s : State} {port vec : Nat} (hks : Nat.land ks 64 = 64) (hk : Kept ks s0 s) :
    Kept ks s0 (State.msix s port vec) := by
  unfold State.msix
  repeat' first
    | with_reducible assumption
    | with_reducible refine State.setPort_kept (cv rfl hks) ?_
    | dsimp only
    | with_reducible intro _
    | split

theorem State.postMsix_kept {ks : Nat} {s0 : State} {s : State} (hks : Nat.land ks 134217792 = 134217792) (hk : Kept ks s0 s) :
    Kept ks s0 (State.postMsix s) := by
  unfold State.postMsix
  repeat' first
    | with_reducible assumption
    | with_reducible refine kept_foldl (fun _ _ _ => ?_) ?_
    | with_reducible refine State.msix_kept (cv rfl hks) ?_
    | with_reducible refine State.emit_kept (cv rfl hks) ?_
    | with_reducible refine State.setPort_kept (cv rfl hks) ?_
    | dsimp only
    | with_reducible intro _
    | split

theorem State.hltMsix_kept {ks : Nat} {s0 : State} {s : State} (hks : Nat.land ks 16777280 = 16777280) (hk : Kept ks s0 s) :
    Kept ks s0 (State.hltMsix s) := by
  unfold State.hltMsix
  repeat' first
    | with_reducible assumption
    | with_reducible refine State.msix_kept (cv rfl hks) ?_
    | with_reducible refine State.setHlt_kept (cv rfl hks) ?_ ?_
    | dsimp only
    | with_reducible exact fun w => smWf_set _ _ _ _ w
    | with_reducible exact fun w => smWf_map _ _ _ w
    | with_reducible exact fun w => ⟨w.1, smWf_set _ _ _ _ w.2.1, w.2.2⟩
    | with_reducible exact fun w => ⟨smWf_set _ _ _ _ w.1, w.2⟩
    | with_reducible exact fun w => ⟨w.1, smWf_set _ _ _ _ w.2⟩
    | with_reducible exact fun w => ⟨smWf_map _ _ _ w.1, w.2⟩
    | with_reducible exact fun w => ⟨Nat.mod_lt _ (by decide), w.2⟩
    | exact id
    | dsimp only
    | with_reducible intro _
    | split

theorem State.pldmEvent_kept {ks : Nat} {s0 : State} {s : State} {e : PldmEvent} (hks : Nat.land ks 150994944 = 150994944) (hk : Kept ks s0 s) :
    Kept ks s0 (State.pldmEvent s e) := by
  unfold State.pldmEvent
  repeat' first
    | with_reducible assumption
    | with_reducible refine State.emit_kept (cv rfl hks) ?_
    | with_reducible refine State.setHlt_kept (cv rfl hks) ?_ ?_
    | dsimp only
    | with_reducible exact fun w => smWf_set _ _ _ _ w
    | with_reducible exact fun w => smWf_map _ _ _ w
    | with_reducible exact fun w => ⟨w.1, smWf_set _ _ _ _ w.2.1, w.2.2⟩
    | with_reducible exact fun w => ⟨smWf_set _ _ _ _ w.1, w.2⟩
    | with_reducible exact fun w => ⟨w.1, smWf_set _ _ _ _ w.2⟩
    | with_reducible exact fun w => ⟨smWf_map _ _ _ w.1, w.2⟩
    | with_reducible exact fun w => ⟨Nat.mod_lt _ (by decide), w.2⟩
    | exact id
    | dsimp only
    | with_reducible intro _
    | split

theorem State.telLost_kept {ks : Nat} {s0 : State} {s : State} (hks : Nat.land ks 16777217 = 16777217) (hk : Kept ks s0 s) :
    Kept ks s0 (State.telLost s) := by
  unfold State.telLost
  repeat' first
    | with_reducible assumption
    | with_reducible refine State.setBit_kept (cv rfl hks) ?_
    | with_reducible refine State.setHlt_kept (cv rfl hks) ?_ ?_
    | dsimp only
    | with_reducible exact fun w => smWf_set _ _ _ _ w
    | with_reducible exact fun w => smWf_map _ _ _ w
    | with_reducible exact fun w => ⟨w.1, smWf_set _ _ _ _ w.2.1, w.2.2⟩
    | with_reducible exact fun w => ⟨smWf_set _ _ _ _ w.1, w.2⟩
    | with_reducible exact fun w => ⟨w.1, smWf_set _ _ _ _ w.2⟩
    | with_reducible exact fun w => ⟨smWf_map _ _ _ w.1, w.2⟩
    | exact id

theorem State.telemetry_kept {ks : Nat} {s0 : State} {s : State} {type : Nat} {body : Nat} (hks : Nat.land ks 150995009 = 150995009) (hk : Kept ks s0 s) :
    Kept ks s0 (State.telemetry s type body) := by
  unfold State.telemetry
  repeat' first
    | with_reducible assumption
    | with_reducible refine kept_foldl (fun _ _ _ => ?_) ?_
    | with_reducible refine State.emitHost_kept (cv rfl hks) ?_
    | with_reducible refine State.hltMsix_kept (cv rfl hks) ?_
    | with_reducible refine State.pldmEvent_kept (cv rfl hks) ?_
    | with_reducible refine State.telLost_kept (cv rfl hks) ?_
    | with_reducible refine State.setHlt_kept (cv rfl hks) ?_ ?_
    | dsimp only
    | with_reducible exact fun w => smWf_set _ _ _ _ w
    | with_reducible exact fun w => smWf_map _ _ _ w
    | with_reducible exact fun w => ⟨w.1, smWf_set _ _ _ _ w.2.1, w.2.2⟩
    | with_reducible exact fun w => ⟨smWf_set _ _ _ _ w.1, w.2⟩
    | with_reducible exact fun w => ⟨w.1, smWf_set _ _ _ _ w.2⟩
    | with_reducible exact fun w => ⟨smWf_map _ _ _ w.1, w.2⟩
    | with_reducible exact fun w => ⟨Nat.mod_lt _ (by decide), w.2⟩
    | exact id
    | dsimp only
    | with_reducible intro _
    | split

theorem State.telReset_kept {ks : Nat} {s0 : State} {s : State} {scope unit : Nat} {atEnd : Bool} {code : Nat} (hks : Nat.land ks 150995009 = 150995009) (hk : Kept ks s0 s) :
    Kept ks s0 (State.telReset s scope unit atEnd code) := by
  unfold State.telReset
  repeat' first
    | with_reducible assumption
    | with_reducible refine State.telemetry_kept (cv rfl hks) ?_

theorem State.sysEvt_kept {ks : Nat} {s0 : State} {s : State} {b : Nat} (hks : Nat.land ks 65 = 65) (hk : Kept ks s0 s) :
    Kept ks s0 (State.sysEvt s b) := by
  unfold State.sysEvt
  repeat' first
    | with_reducible assumption
    | with_reducible refine State.msix_kept (cv rfl hks) ?_
    | with_reducible refine State.setBit_kept (cv rfl hks) ?_
    | dsimp only
    | with_reducible intro _
    | split

theorem State.bump_kept {ks : Nat} {s0 : State} {s : State} {die unit off top n : Nat} (hks : Nat.land ks 16777216 = 16777216) (hk : Kept ks s0 s) :
    Kept ks s0 (State.bump s die unit off top n) := by
  unfold State.bump
  repeat' first
    | with_reducible assumption
    | with_reducible refine State.setUnit_kept (cv rfl hks) ?_

theorem State.setArea_kept {ks : Nat} {s0 : State} {s : State} {die unit off v : Nat} (hks : Nat.land ks 16777216 = 16777216) (hk : Kept ks s0 s) :
    Kept ks s0 (State.setArea s die unit off v) := by
  unfold State.setArea
  repeat' first
    | with_reducible assumption
    | with_reducible refine State.setUnit_kept (cv rfl hks) ?_

theorem State.sendFmAbout_kept {ks : Nat} {s0 : State} {s : State} {subject type scope code unit state : Nat} (hks : Nat.land ks 18874368 = 18874368) (hk : Kept ks s0 s) :
    Kept ks s0 (State.sendFmAbout s subject type scope code unit state) := by
  unfold State.sendFmAbout
  repeat' first
    | with_reducible assumption
    | with_reducible refine State.bump_kept (cv rfl hks) ?_
    | with_reducible refine State.setFab_kept (cv rfl hks) ?_ ?_
    | dsimp only
    | with_reducible exact fun w => smWf_set _ _ _ _ w
    | with_reducible exact fun w => smWf_map _ _ _ w
    | with_reducible exact fun w => ⟨w.1, smWf_set _ _ _ _ w.2.1, w.2.2⟩
    | with_reducible exact fun w => ⟨smWf_set _ _ _ _ w.1, w.2⟩
    | with_reducible exact fun w => ⟨w.1, smWf_set _ _ _ _ w.2⟩
    | with_reducible exact fun w => ⟨smWf_map _ _ _ w.1, w.2⟩
    | exact id
    | dsimp only
    | with_reducible intro _
    | split

theorem State.sendFm_kept {ks : Nat} {s0 : State} {s : State} {type scope code unit state : Nat} (hks : Nat.land ks 18874368 = 18874368) (hk : Kept ks s0 s) :
    Kept ks s0 (State.sendFm s type scope code unit state) := by
  unfold State.sendFm
  repeat' first
    | with_reducible assumption
    | with_reducible refine State.sendFmAbout_kept (cv rfl hks) ?_

theorem State.toMram_kept {ks : Nat} {s0 s : State} {k : Nat} (hks : Nat.land ks 16777216 = 16777216) (hk : Kept ks s0 s) :
    Kept ks s0 (State.toMram s k) := by
  unfold State.toMram
  exact State.setHlt_kept (cv rfl hks) (fun w => ⟨w.1, smWf_fold (fun _ => noCopy) (fun n => 4 * k + n) (fun _ => _) _ w.2.1, w.2.2⟩)
    (State.setUnit_kept (cv rfl hks) hk)

theorem State.saveRoot_kept {ks : Nat} {s0 s : State} (hks : Nat.land ks 4194304 = 4194304) (hk : Kept ks s0 s) :
    Kept ks s0 (State.saveRoot s) := by
  unfold State.saveRoot
  exact State.setErr_kept (cv rfl hks) (fun w => ⟨w.1, smWf_fold (fun _ => MCopy.init RootRec.init) id (fun _ => _) _ w.2⟩) hk

theorem State.stopAdmitting_kept {ks : Nat} {s0 : State} {s : State} {cores : Nat → Bool} (hks : Nat.land ks 16 = 16) (hk : Kept ks s0 s) :
    Kept ks s0 (State.stopAdmitting s cores) := by
  unfold State.stopAdmitting
  repeat' first
    | with_reducible assumption
    | with_reducible refine kept_foldl (fun _ _ _ => ?_) ?_
    | with_reducible refine State.setPart_kept (cv rfl hks) ?_
    | dsimp only
    | with_reducible intro _
    | split

theorem State.cdieOut_kept {ks : Nat} {s0 : State} {s : State} {c code : Nat} (hks : Nat.land ks 157286481 = 157286481) (hk : Kept ks s0 s) :
    Kept ks s0 (State.cdieOut s c code) := by
  unfold State.cdieOut
  repeat' first
    | with_reducible assumption
    | with_reducible refine State.saveRoot_kept (cv rfl hks) ?_
    | with_reducible refine State.sendFm_kept (cv rfl hks) ?_
    | with_reducible refine State.stopAdmitting_kept (cv rfl hks) ?_
    | with_reducible refine State.sysEvt_kept (cv rfl hks) ?_
    | with_reducible refine State.telReset_kept (cv rfl hks) ?_
    | with_reducible refine State.setCdie_kept (cv rfl hks) ?_

theorem State.unitActs_kept {ks : Nat} {s0 : State} {s : State} {die unit st code : Nat} (hks : Nat.land ks 165681233 = 165681233) (hk : Kept ks s0 s) :
    Kept ks s0 (State.unitActs s die unit st code) := by
  unfold State.unitActs
  repeat' first
    | with_reducible assumption
    | with_reducible refine State.cdieOut_kept (cv rfl hks) ?_
    | with_reducible refine State.setArray_kept (cv rfl hks) ?_
    | with_reducible refine State.setBoot_kept (cv rfl hks) ?_ ?_
    | with_reducible refine State.setCore_kept (cv rfl hks) ?_
    | dsimp only
    | with_reducible exact fun w => smWf_set _ _ _ _ w
    | with_reducible exact fun w => smWf_map _ _ _ w
    | with_reducible exact fun w => ⟨w.1, smWf_set _ _ _ _ w.2.1, w.2.2⟩
    | with_reducible exact fun w => ⟨smWf_set _ _ _ _ w.1, w.2⟩
    | with_reducible exact fun w => ⟨w.1, smWf_set _ _ _ _ w.2⟩
    | with_reducible exact fun w => ⟨smWf_map _ _ _ w.1, w.2⟩
    | with_reducible exact fun w => ⟨Nat.mod_lt _ (by decide), w.2⟩
    | exact id
    | dsimp only
    | with_reducible intro _
    | split

theorem State.classUnit_kept {ks : Nat} {s0 : State} {s : State} {die unit st code : Nat} (hks : Nat.land ks 165681233 = 165681233) (hk : Kept ks s0 s) :
    Kept ks s0 (State.classUnit s die unit st code) := by
  unfold State.classUnit
  repeat' first
    | with_reducible assumption
    | with_reducible refine State.setBit_kept (cv rfl hks) ?_
    | with_reducible refine State.telemetry_kept (cv rfl hks) ?_
    | with_reducible refine State.toMram_kept (cv rfl hks) ?_
    | with_reducible refine State.unitActs_kept (cv rfl hks) ?_
    | with_reducible refine State.setUnit_kept (cv rfl hks) ?_
    | dsimp only
    | with_reducible intro _
    | split

theorem State.qualify_kept {ks : Nat} {s0 : State} {s : State} {die unit code : Nat} (hks : Nat.land ks 165681233 = 165681233) (hk : Kept ks s0 s) :
    Kept ks s0 (State.qualify s die unit code) := by
  unfold State.qualify
  repeat' first
    | with_reducible assumption
    | with_reducible refine State.classUnit_kept (cv rfl hks) ?_
    | with_reducible refine State.toMram_kept (cv rfl hks) ?_
    | with_reducible refine State.setUnit_kept (cv rfl hks) ?_
    | dsimp only
    | with_reducible intro _
    | split

theorem State.record_kept {ks : Nat} {s0 : State} {s : State} {r : FaultRec} {q : Bool} (hks : Nat.land ks 165681233 = 165681233) (hk : Kept ks s0 s) :
    Kept ks s0 (State.record s r q) := by
  unfold State.record
  repeat' first
    | with_reducible assumption
    | with_reducible refine State.qualify_kept (cv rfl hks) ?_
    | with_reducible refine State.setErr_kept (cv rfl hks) ?_ ?_
    | with_reducible refine State.setUnit_kept (cv rfl hks) ?_
    | dsimp only
    | with_reducible exact fun w => smWf_set _ _ _ _ w
    | with_reducible exact fun w => smWf_map _ _ _ w
    | with_reducible exact fun w => ⟨w.1, smWf_set _ _ _ _ w.2.1, w.2.2⟩
    | with_reducible exact fun w => ⟨smWf_set _ _ _ _ w.1, w.2⟩
    | with_reducible exact fun w => ⟨w.1, smWf_set _ _ _ _ w.2⟩
    | with_reducible exact fun w => ⟨smWf_map _ _ _ w.1, w.2⟩
    | with_reducible exact fun w => ⟨Nat.mod_lt _ (by decide), w.2⟩
    | exact id
    | dsimp only
    | with_reducible intro _
    | split

theorem State.raiseAs_kept {ks : Nat} {s0 : State} {s : State} {r : FaultRec} {q : Bool} (hks : Nat.land ks 165681233 = 165681233) (hk : Kept ks s0 s) :
    Kept ks s0 (State.raiseAs s r q) := by
  unfold State.raiseAs
  repeat' first
    | with_reducible assumption
    | with_reducible refine State.record_kept (cv rfl hks) ?_
    | with_reducible refine State.telemetry_kept (cv rfl hks) ?_

theorem State.raise_kept {ks : Nat} {s0 : State} {s : State} {r : FaultRec} (hks : Nat.land ks 165681233 = 165681233) (hk : Kept ks s0 s) :
    Kept ks s0 (State.raise s r) := by
  unfold State.raise
  repeat' first
    | with_reducible assumption
    | with_reducible refine State.raiseAs_kept (cv rfl hks) ?_

theorem State.setSub_kept {ks : Nat} {s0 : State} {s : State} {x : Sub} (hks : Nat.land ks 128 = 128) (hk : Kept ks s0 s) :
    Kept ks s0 (State.setSub s x) := by
  unfold State.setSub
  repeat' first
    | with_reducible assumption
    | with_reducible refine State.setSubs_kept (cv rfl hks) ?_

theorem State.dropHeld_kept {ks : Nat} {s0 : State} {s : State} {ring seq cyc : Nat} (hks : Nat.land ks 8192 = 8192) (hk : Kept ks s0 s) :
    Kept ks s0 (State.dropHeld s ring seq cyc) := by
  unfold State.dropHeld
  repeat' first
    | with_reducible assumption
    | with_reducible refine State.setEngines_kept (cv rfl hks) ?_ ?_
    | dsimp only
    | with_reducible exact fun w => smWf_set _ _ _ _ w
    | with_reducible exact fun w => smWf_map _ _ _ w

theorem State.uncharge_kept {ks : Nat} {s0 : State} {s : State} {ring seq : Nat} (hks : Nat.land ks 20971520 = 20971520) (hk : Kept ks s0 s) :
    Kept ks s0 (State.uncharge s ring seq) := by
  unfold State.uncharge
  repeat' first
    | with_reducible assumption
    | with_reducible refine kept_foldl (fun _ _ _ => ?_) ?_
    | with_reducible refine State.setErr_kept (cv rfl hks) ?_ ?_
    | with_reducible refine State.setUnit_kept (cv rfl hks) ?_
    | dsimp only
    | with_reducible exact fun w => smWf_set _ _ _ _ w
    | with_reducible exact fun w => smWf_map _ _ _ w
    | with_reducible exact fun w => ⟨w.1, smWf_set _ _ _ _ w.2.1, w.2.2⟩
    | with_reducible exact fun w => ⟨smWf_set _ _ _ _ w.1, w.2⟩
    | with_reducible exact fun w => ⟨w.1, smWf_set _ _ _ _ w.2⟩
    | with_reducible exact fun w => ⟨smWf_map _ _ _ w.1, w.2⟩
    | with_reducible exact fun w => ⟨Nat.mod_lt _ (by decide), w.2⟩
    | exact id
    | dsimp only
    | with_reducible intro _
    | split

theorem State.charge_kept {ks : Nat} {s0 : State} {s : State} {ring seq ph : Nat} {r : FaultRec} (hks : Nat.land ks 165722321 = 165722321) (hk : Kept ks s0 s) :
    Kept ks s0 (State.charge s ring seq ph r) := by
  unfold State.charge
  repeat' first
    | with_reducible assumption
    | with_reducible refine kept_getD ?_ ?_
    | with_reducible refine State.dropHeld_kept (cv rfl hks) ?_
    | with_reducible refine State.raise_kept (cv rfl hks) ?_
    | with_reducible refine State.record_kept (cv rfl hks) ?_
    | with_reducible refine State.setSub_kept (cv rfl hks) ?_
    | with_reducible refine State.uncharge_kept (cv rfl hks) ?_
    | with_reducible refine State.setErr_kept (cv rfl hks) ?_ ?_
    | with_reducible refine State.setXfers_kept (cv rfl hks) ?_
    | dsimp only
    | with_reducible exact fun w => smWf_set _ _ _ _ w
    | with_reducible exact fun w => smWf_map _ _ _ w
    | with_reducible exact fun w => ⟨w.1, smWf_set _ _ _ _ w.2.1, w.2.2⟩
    | with_reducible exact fun w => ⟨smWf_set _ _ _ _ w.1, w.2⟩
    | with_reducible exact fun w => ⟨w.1, smWf_set _ _ _ _ w.2⟩
    | with_reducible exact fun w => ⟨smWf_map _ _ _ w.1, w.2⟩
    | with_reducible exact fun w => ⟨Nat.mod_lt _ (by decide), w.2⟩
    | exact id
    | dsimp only
    | with_reducible intro _
    | split

theorem State.tellCharges_kept {ks : Nat} {s0 : State} {s : State} (hks : Nat.land ks 155189313 = 155189313) (hk : Kept ks s0 s) :
    Kept ks s0 (State.tellCharges s) := by
  unfold State.tellCharges
  repeat' first
    | with_reducible assumption
    | with_reducible refine kept_foldl (fun _ _ _ => ?_) ?_
    | with_reducible refine State.telemetry_kept (cv rfl hks) ?_
    | with_reducible refine State.setErr_kept (cv rfl hks) ?_ ?_
    | dsimp only
    | with_reducible exact fun w => smWf_set _ _ _ _ w
    | with_reducible exact fun w => smWf_map _ _ _ w
    | with_reducible exact fun w => ⟨w.1, smWf_set _ _ _ _ w.2.1, w.2.2⟩
    | with_reducible exact fun w => ⟨smWf_set _ _ _ _ w.1, w.2⟩
    | with_reducible exact fun w => ⟨w.1, smWf_set _ _ _ _ w.2⟩
    | with_reducible exact fun w => ⟨smWf_map _ _ _ w.1, w.2⟩
    | with_reducible exact fun w => ⟨Nat.mod_lt _ (by decide), w.2⟩
    | exact id

theorem State.chargeOnce_kept {ks : Nat} {s0 : State} {s : State} {ring seq ph cause : Nat} {r : FaultRec} (hks : Nat.land ks 165722321 = 165722321) (hk : Kept ks s0 s) :
    Kept ks s0 (State.chargeOnce s ring seq ph cause r) := by
  unfold State.chargeOnce
  repeat' first
    | with_reducible assumption
    | with_reducible refine State.charge_kept (cv rfl hks) ?_
    | with_reducible refine State.raise_kept (cv rfl hks) ?_
    | with_reducible refine State.setSub_kept (cv rfl hks) ?_
    | dsimp only
    | with_reducible intro _
    | split

theorem State.fencedAccess_kept {ks : Nat} {s0 : State} {s : State} {h ring seq ph ctx part : Nat} (hks : Nat.land ks 165722321 = 165722321) (hk : Kept ks s0 s) :
    Kept ks s0 (State.fencedAccess s h ring seq ph ctx part) := by
  unfold State.fencedAccess
  repeat' first
    | with_reducible assumption
    | with_reducible refine State.chargeOnce_kept (cv rfl hks) ?_

theorem State.chargeDue_kept {ks : Nat} {s0 : State} {s : State} {d : DueFault} (hks : Nat.land ks 165722321 = 165722321) (hk : Kept ks s0 s) :
    Kept ks s0 (State.chargeDue s d) := by
  unfold State.chargeDue
  repeat' first
    | with_reducible assumption
    | with_reducible refine State.chargeOnce_kept (cv rfl hks) ?_
    | with_reducible refine State.setErr_kept (cv rfl hks) ?_ ?_
    | dsimp only
    | with_reducible exact fun w => smWf_set _ _ _ _ w
    | with_reducible exact fun w => smWf_map _ _ _ w
    | with_reducible exact fun w => ⟨w.1, smWf_set _ _ _ _ w.2.1, w.2.2⟩
    | with_reducible exact fun w => ⟨smWf_set _ _ _ _ w.1, w.2⟩
    | with_reducible exact fun w => ⟨w.1, smWf_set _ _ _ _ w.2⟩
    | with_reducible exact fun w => ⟨smWf_map _ _ _ w.1, w.2⟩
    | with_reducible exact fun w => ⟨Nat.mod_lt _ (by decide), w.2⟩
    | exact id

theorem State.duesTo_kept {ks : Nat} {s0 : State} {s : State} {cyc : Nat} (hks : Nat.land ks 165722321 = 165722321) (hk : Kept ks s0 s) :
    Kept ks s0 (State.duesTo s cyc) := by
  unfold State.duesTo
  repeat' first
    | with_reducible assumption
    | with_reducible refine kept_foldl (fun _ _ _ => ?_) ?_
    | with_reducible refine State.chargeDue_kept (cv rfl hks) ?_
    | dsimp only
    | with_reducible intro _
    | split

theorem State.chargeAt_kept {ks : Nat} {s0 : State} {s : State} {cyc ring seq cause : Nat} {r : FaultRec} (hks : Nat.land ks 4194304 = 4194304) (hk : Kept ks s0 s) :
    Kept ks s0 (State.chargeAt s cyc ring seq cause r) := by
  unfold State.chargeAt
  repeat' first
    | with_reducible assumption
    | with_reducible refine State.setErr_kept (cv rfl hks) ?_ ?_
    | dsimp only
    | with_reducible exact fun w => smWf_set _ _ _ _ w
    | with_reducible exact fun w => smWf_map _ _ _ w
    | with_reducible exact fun w => ⟨w.1, smWf_set _ _ _ _ w.2.1, w.2.2⟩
    | with_reducible exact fun w => ⟨smWf_set _ _ _ _ w.1, w.2⟩
    | with_reducible exact fun w => ⟨w.1, smWf_set _ _ _ _ w.2⟩
    | with_reducible exact fun w => ⟨smWf_map _ _ _ w.1, w.2⟩
    | with_reducible exact fun w => ⟨Nat.mod_lt _ (by decide), w.2⟩
    | exact id
    | dsimp only
    | with_reducible intro _
    | split

theorem State.dueFaults_kept {ks : Nat} {s0 : State} {s : State} (hks : Nat.land ks 165722321 = 165722321) (hk : Kept ks s0 s) :
    Kept ks s0 (State.dueFaults s) := by
  unfold State.dueFaults
  repeat' first
    | with_reducible assumption
    | with_reducible refine State.duesTo_kept (cv rfl hks) ?_

end Sys2Proof.Machine
end

