-- ==== Sys2Proof/Laws/KeptTime.lean ====
section
/-! SUPPORT. What the definitions of Machine/Time.lean keep. -/

namespace Sys2Proof.Machine

open Sys2Proof Host

theorem State.enter_kept {ks : Nat} {s0 : State} {s : State} {n : TimeState} (hks : Nat.land ks 165722329 = 165722329) (hk : Kept ks s0 s) :
    Kept ks s0 (State.enter s n) := by
  unfold State.enter
  repeat' first
    | with_reducible assumption
    | with_reducible refine kept_foldl (fun _ _ _ => ?_) ?_
    | with_reducible refine State.charge_kept (cv rfl hks) ?_
    | with_reducible refine State.sendFm_kept (cv rfl hks) ?_
    | with_reducible refine State.setBit_kept (cv rfl hks) ?_
    | with_reducible refine State.telemetry_kept (cv rfl hks) ?_
    | with_reducible refine State.setTime_kept (cv rfl hks) ?_ ?_
    | dsimp only
    | with_reducible exact fun w => smWf_set _ _ _ _ w
    | with_reducible exact fun w => smWf_map _ _ _ w
    | with_reducible exact fun w => ⟨w.1, smWf_set _ _ _ _ w.2.1, w.2.2⟩
    | with_reducible exact fun w => ⟨smWf_set _ _ _ _ w.1, w.2⟩
    | with_reducible exact fun w => ⟨w.1, smWf_set _ _ _ _ w.2⟩
    | with_reducible exact fun w => ⟨smWf_map _ _ _ w.1, w.2⟩
    | with_reducible exact fun w => ⟨Nat.mod_lt _ (by decide), w.2⟩
    | exact id
    | dsimp only
    | with_reducible intro _
    | split

theorem State.enterFree55_kept {ks : Nat} {s0 : State} {s : State} (hks : Nat.land ks 165722329 = 165722329) (hk : Kept ks s0 s) :
    Kept ks s0 (State.enterFree55 s) := by
  unfold State.enterFree55
  repeat' first
    | with_reducible assumption
    | with_reducible refine State.enter_kept (cv rfl hks) ?_
    | with_reducible refine State.setTime_kept (cv rfl hks) ?_ ?_
    | dsimp only
    | with_reducible exact fun w => smWf_set _ _ _ _ w
    | with_reducible exact fun w => smWf_map _ _ _ w
    | with_reducible exact fun w => ⟨w.1, smWf_set _ _ _ _ w.2.1, w.2.2⟩
    | with_reducible exact fun w => ⟨smWf_set _ _ _ _ w.1, w.2⟩
    | with_reducible exact fun w => ⟨w.1, smWf_set _ _ _ _ w.2⟩
    | with_reducible exact fun w => ⟨smWf_map _ _ _ w.1, w.2⟩
    | with_reducible exact fun w => ⟨Nat.mod_lt _ (by decide), w.2⟩
    | exact id

theorem State.setSource_kept {ks : Nat} {s0 : State} {s : State} {v : Nat} (hks : Nat.land ks 9 = 9) (hk : Kept ks s0 s) :
    Kept ks s0 (State.setSource s v) := by
  unfold State.setSource
  repeat' first
    | with_reducible assumption
    | with_reducible refine State.setBit_kept (cv rfl hks) ?_
    | with_reducible refine State.setTime_kept (cv rfl hks) ?_ ?_
    | dsimp only
    | with_reducible exact fun w => smWf_set _ _ _ _ w
    | with_reducible exact fun w => smWf_map _ _ _ w
    | with_reducible exact fun w => ⟨w.1, smWf_set _ _ _ _ w.2.1, w.2.2⟩
    | with_reducible exact fun w => ⟨smWf_set _ _ _ _ w.1, w.2⟩
    | with_reducible exact fun w => ⟨w.1, smWf_set _ _ _ _ w.2⟩
    | with_reducible exact fun w => ⟨smWf_map _ _ _ w.1, w.2⟩
    | exact id
    | dsimp only
    | with_reducible intro _
    | split

theorem State.movedHost_kept {ks : Nat} {s0 s : State} {d : Int} (hks : Nat.land ks 31996912 = 31996912) (hk : Kept ks s0 s) :
    Kept ks s0 (State.movedHost s d) :=
  State.setReads_kept (cv rfl hks) <| State.setPorts_kept (cv rfl hks) (fun w => smWf_map _ _ _ w) <| State.setRings_kept (cv rfl hks) (fun w => smWf_map _ _ _ w) <|
    State.setSlots_kept (cv rfl hks) <| State.setSubs_kept (cv rfl hks) <| State.setParts_kept (cv rfl hks) (fun w => smWf_map _ _ _ w) hk

theorem State.movedCores_kept {ks : Nat} {s0 s : State} {d : Int} (hks : Nat.land ks 31996912 = 31996912) (hk : Kept ks s0 s) :
    Kept ks s0 (State.movedCores s d) :=
  State.setEngines_kept (cv rfl hks) (fun w => smWf_map _ _ _ w) <| State.setCores_kept (cv rfl hks) (fun w => smWf_map _ _ _ w) <| State.setArrays_kept (cv rfl hks) (fun w => smWf_map _ _ _ w) hk

theorem HltS.moved_wf {d : Int} {h : HltS}
    (w : smWf (fun _ => UnitRec.init) h.units = true ∧ smWf (fun _ => noCopy) h.mram = true ∧ smWf (fun _ => Sensor.init) h.sensors = true) :
    smWf (fun _ => UnitRec.init) (h.moved d).units = true ∧ smWf (fun _ => noCopy) (h.moved d).mram = true ∧
      smWf (fun _ => Sensor.init) (h.moved d).sensors = true := by
  unfold HltS.moved
  dsimp only
  exact ⟨w.1, w.2.1, smWf_map _ _ _ w.2.2⟩

theorem RecS.moved_wf {d : Int} {e : RecS} (w : smWf (fun _ => CdieS.init) e.cdies = true ∧ smWf (fun _ => MCopy.init RootRec.init) e.roots = true) :
    smWf (fun _ => CdieS.init) (e.moved d).cdies = true ∧ smWf (fun _ => MCopy.init RootRec.init) (e.moved d).roots = true := by
  unfold RecS.moved
  dsimp only
  exact ⟨smWf_map _ _ _ w.1, w.2⟩

theorem State.movedUnits_kept {ks : Nat} {s0 s : State} {d : Int} (hks : Nat.land ks 31996912 = 31996912) (hk : Kept ks s0 s) :
    Kept ks s0 (State.movedUnits s d) :=
  State.setHlt_kept (cv rfl hks) HltS.moved_wf <| State.setBoot_kept (cv rfl hks) id <|
    State.setErr_kept (cv rfl hks) RecS.moved_wf <| State.setFab_kept (cv rfl hks) id <|
    State.setMem_kept (cv rfl hks) (fun c => MemS.Canonical.same c rfl) hk

theorem State.moved_kept {ks : Nat} {s0 : State} {s : State} {d : Int} (hks : Nat.land ks 31996912 = 31996912) (hk : Kept ks s0 s) :
    Kept ks s0 (State.moved s d) := by
  unfold State.moved
  repeat' first
    | with_reducible assumption
    | with_reducible refine State.movedCores_kept (cv rfl hks) ?_
    | with_reducible refine State.movedHost_kept (cv rfl hks) ?_
    | with_reducible refine State.movedUnits_kept (cv rfl hks) ?_

theorem State.setNow_kept {ks : Nat} {s0 : State} {s : State} {v : Nat} {d : Int} (hks : Nat.land ks 31996920 = 31996920) (hv : v < 2 ^ 64) (hk : Kept ks s0 s) :
    Kept ks s0 (State.setNow s v d) :=
  State.moved_kept (cv rfl hks) (State.setTime_kept (cv rfl hks) (fun w => ⟨hv, by dsimp only; exact smWf_map _ _ _ w.2⟩) hk)

theorem State.sourceLost_kept {ks : Nat} {s0 : State} {s : State} {other : Bool} (hks : Nat.land ks 165722329 = 165722329) (hk : Kept ks s0 s) :
    Kept ks s0 (State.sourceLost s other) := by
  unfold State.sourceLost
  repeat' first
    | with_reducible assumption
    | with_reducible refine State.enter_kept (cv rfl hks) ?_
    | with_reducible refine State.enterFree55_kept (cv rfl hks) ?_
    | dsimp only
    | with_reducible intro _
    | split

theorem State.sourcePresent_kept {ks : Nat} {s0 : State} {s : State} (hks : Nat.land ks 166247417 = 166247417) (hk : Kept ks s0 s) :
    Kept ks s0 (State.sourcePresent s) := by
  unfold State.sourcePresent
  repeat' first
    | with_reducible assumption
    | with_reducible refine State.enter_kept (cv rfl hks) ?_
    | with_reducible refine State.setNow_kept (cv rfl hks) (Nat.mod_lt _ (by decide)) ?_
    | with_reducible refine State.setTime_kept (cv rfl hks) ?_ ?_
    | dsimp only
    | with_reducible exact fun w => smWf_set _ _ _ _ w
    | with_reducible exact fun w => smWf_map _ _ _ w
    | with_reducible exact fun w => ⟨w.1, smWf_set _ _ _ _ w.2.1, w.2.2⟩
    | with_reducible exact fun w => ⟨smWf_set _ _ _ _ w.1, w.2⟩
    | with_reducible exact fun w => ⟨w.1, smWf_set _ _ _ _ w.2⟩
    | with_reducible exact fun w => ⟨smWf_map _ _ _ w.1, w.2⟩
    | with_reducible exact fun w => ⟨Nat.mod_lt _ (by decide), w.2⟩
    | exact id
    | dsimp only
    | with_reducible intro _
    | split

theorem State.resource_kept {ks : Nat} {s0 : State} {s : State} (hks : Nat.land ks 166247417 = 166247417) (hk : Kept ks s0 s) :
    Kept ks s0 (State.resource s) := by
  unfold State.resource
  repeat' first
    | with_reducible assumption
    | with_reducible refine State.setSource_kept (cv rfl hks) ?_
    | with_reducible refine State.sourceLost_kept (cv rfl hks) ?_
    | with_reducible refine State.sourcePresent_kept (cv rfl hks) ?_
    | dsimp only
    | with_reducible intro _
    | split

theorem State.takeSource_kept {ks : Nat} {s0 : State} {s : State} (hks : Nat.land ks 166247417 = 166247417) (hk : Kept ks s0 s) :
    Kept ks s0 (State.takeSource s) := by
  unfold State.takeSource
  repeat' first
    | with_reducible assumption
    | with_reducible refine State.enter_kept (cv rfl hks) ?_
    | with_reducible refine State.setSource_kept (cv rfl hks) ?_
    | with_reducible refine State.sourceLost_kept (cv rfl hks) ?_
    | with_reducible refine State.sourcePresent_kept (cv rfl hks) ?_
    | with_reducible refine State.setTime_kept (cv rfl hks) ?_ ?_
    | dsimp only
    | with_reducible exact fun w => smWf_set _ _ _ _ w
    | with_reducible exact fun w => smWf_map _ _ _ w
    | with_reducible exact fun w => ⟨w.1, smWf_set _ _ _ _ w.2.1, w.2.2⟩
    | with_reducible exact fun w => ⟨smWf_set _ _ _ _ w.1, w.2⟩
    | with_reducible exact fun w => ⟨w.1, smWf_set _ _ _ _ w.2⟩
    | with_reducible exact fun w => ⟨smWf_map _ _ _ w.1, w.2⟩
    | with_reducible exact fun w => ⟨Nat.mod_lt _ (by decide), w.2⟩
    | exact id
    | dsimp only
    | with_reducible intro _
    | split

theorem State.estimate_kept {ks : Nat} {s0 : State} {s : State} {z : Int} (hks : Nat.land ks 166247417 = 166247417) (hk : Kept ks s0 s) :
    Kept ks s0 (State.estimate s z) := by
  unfold State.estimate
  repeat' first
    | with_reducible assumption
    | with_reducible refine State.enter_kept (cv rfl hks) ?_
    | with_reducible refine State.sourcePresent_kept (cv rfl hks) ?_
    | with_reducible refine State.setTime_kept (cv rfl hks) ?_ ?_
    | dsimp only
    | with_reducible exact fun w => smWf_set _ _ _ _ w
    | with_reducible exact fun w => smWf_map _ _ _ w
    | with_reducible exact fun w => ⟨w.1, smWf_set _ _ _ _ w.2.1, w.2.2⟩
    | with_reducible exact fun w => ⟨smWf_set _ _ _ _ w.1, w.2⟩
    | with_reducible exact fun w => ⟨w.1, smWf_set _ _ _ _ w.2⟩
    | with_reducible exact fun w => ⟨smWf_map _ _ _ w.1, w.2⟩
    | with_reducible exact fun w => ⟨Nat.mod_lt _ (by decide), w.2⟩
    | exact id
    | dsimp only
    | with_reducible intro _
    | split

theorem State.setOnce_kept {ks : Nat} {s0 : State} {s : State} {v : Nat} (hks : Nat.land ks 31996920 = 31996920) (hk : Kept ks s0 s) :
    Kept ks s0 (State.setOnce s v) := by
  unfold State.setOnce
  repeat' first
    | with_reducible assumption
    | with_reducible refine State.setNow_kept (cv rfl hks) (Nat.mod_lt _ (by decide)) ?_
    | with_reducible refine State.setTime_kept (cv rfl hks) ?_ ?_
    | dsimp only
    | with_reducible exact fun w => smWf_set _ _ _ _ w
    | with_reducible exact fun w => smWf_map _ _ _ w
    | with_reducible exact fun w => ⟨w.1, smWf_set _ _ _ _ w.2.1, w.2.2⟩
    | with_reducible exact fun w => ⟨smWf_set _ _ _ _ w.1, w.2⟩
    | with_reducible exact fun w => ⟨w.1, smWf_set _ _ _ _ w.2⟩
    | with_reducible exact fun w => ⟨smWf_map _ _ _ w.1, w.2⟩
    | with_reducible exact fun w => ⟨Nat.mod_lt _ (by decide), w.2⟩
    | exact id
    | dsimp only
    | with_reducible intro _
    | split

theorem State.timeAnew_kept {ks : Nat} {s0 : State} {s : State} (hks : Nat.land ks 165722329 = 165722329) (hk : Kept ks s0 s) :
    Kept ks s0 (State.timeAnew s) := by
  unfold State.timeAnew
  repeat' first
    | with_reducible assumption
    | with_reducible refine State.enter_kept (cv rfl hks) ?_
    | with_reducible refine State.enterFree55_kept (cv rfl hks) ?_
    | with_reducible refine State.setSource_kept (cv rfl hks) ?_
    | with_reducible refine State.setTime_kept (cv rfl hks) ?_ ?_
    | dsimp only
    | with_reducible exact fun w => smWf_set _ _ _ _ w
    | with_reducible exact fun w => smWf_map _ _ _ w
    | with_reducible exact fun w => ⟨w.1, smWf_set _ _ _ _ w.2.1, w.2.2⟩
    | with_reducible exact fun w => ⟨smWf_set _ _ _ _ w.1, w.2⟩
    | with_reducible exact fun w => ⟨w.1, smWf_set _ _ _ _ w.2⟩
    | with_reducible exact fun w => ⟨smWf_map _ _ _ w.1, w.2⟩
    | with_reducible exact fun w => ⟨Nat.mod_lt _ (by decide), w.2⟩
    | exact id
    | dsimp only
    | with_reducible intro _
    | split

theorem State.writeTimCtrl_kept {ks : Nat} {s0 : State} {s : State} {w : Word} (hks : Nat.land ks 165722329 = 165722329) (hk : Kept ks s0 s) :
    Kept ks s0 (State.writeTimCtrl s w) := by
  unfold State.writeTimCtrl
  repeat' first
    | with_reducible assumption
    | with_reducible refine State.enter_kept (cv rfl hks) ?_
    | with_reducible refine State.putRw_kept (cv rfl hks) ?_
    | with_reducible refine State.setSource_kept (cv rfl hks) ?_
    | with_reducible refine State.setTime_kept (cv rfl hks) ?_ ?_
    | dsimp only
    | with_reducible exact fun w => smWf_set _ _ _ _ w
    | with_reducible exact fun w => smWf_map _ _ _ w
    | with_reducible exact fun w => ⟨w.1, smWf_set _ _ _ _ w.2.1, w.2.2⟩
    | with_reducible exact fun w => ⟨smWf_set _ _ _ _ w.1, w.2⟩
    | with_reducible exact fun w => ⟨w.1, smWf_set _ _ _ _ w.2⟩
    | with_reducible exact fun w => ⟨smWf_map _ _ _ w.1, w.2⟩
    | with_reducible exact fun w => ⟨Nat.mod_lt _ (by decide), w.2⟩
    | exact id
    | dsimp only
    | with_reducible intro _
    | split

theorem State.tick_kept {ks : Nat} {s0 : State} {s : State} (hks : Nat.land ks 16777288 = 16777288) (hk : Kept ks s0 s) :
    Kept ks s0 (State.tick s) := by
  unfold State.tick
  repeat' first
    | with_reducible assumption
    | with_reducible refine State.msix_kept (cv rfl hks) ?_
    | with_reducible refine State.setHlt_kept (cv rfl hks) ?_ ?_
    | with_reducible refine State.setTime_kept (cv rfl hks) ?_ ?_
    | dsimp only
    | with_reducible exact fun w => smWf_set _ _ _ _ w
    | with_reducible exact fun w => smWf_map _ _ _ w
    | with_reducible exact fun w => ⟨w.1, smWf_set _ _ _ _ w.2.1, w.2.2⟩
    | with_reducible exact fun w => ⟨smWf_set _ _ _ _ w.1, w.2⟩
    | with_reducible exact fun w => ⟨w.1, smWf_set _ _ _ _ w.2⟩
    | with_reducible exact fun w => ⟨smWf_map _ _ _ w.1, w.2⟩
    | with_reducible exact fun w => ⟨Nat.mod_lt _ (by decide), w.2⟩
    | exact id
    | dsimp only
    | with_reducible intro _
    | split

theorem State.sendBeacons_kept {ks : Nat} {s0 : State} {s : State} (hks : Nat.land ks 8 = 8) (hk : Kept ks s0 s) :
    Kept ks s0 (State.sendBeacons s) := by
  unfold State.sendBeacons
  repeat' first
    | with_reducible assumption
    | with_reducible refine kept_foldl (fun _ _ _ => ?_) ?_
    | with_reducible refine State.setTime_kept (cv rfl hks) ?_ ?_
    | dsimp only
    | with_reducible exact fun w => smWf_set _ _ _ _ w
    | with_reducible exact fun w => smWf_map _ _ _ w
    | with_reducible exact fun w => ⟨w.1, smWf_set _ _ _ _ w.2.1, w.2.2⟩
    | with_reducible exact fun w => ⟨smWf_set _ _ _ _ w.1, w.2⟩
    | with_reducible exact fun w => ⟨w.1, smWf_set _ _ _ _ w.2⟩
    | with_reducible exact fun w => ⟨smWf_map _ _ _ w.1, w.2⟩
    | with_reducible exact fun w => ⟨w.1, smWf_fold (fun _ => 0) (fun d => d) _ _ w.2⟩
    | exact id
    | dsimp only
    | with_reducible intro _
    | split

theorem State.judgeLoad_kept {ks : Nat} {s0 : State} {s : State} (hks : Nat.land ks 1 = 1) (hk : Kept ks s0 s) :
    Kept ks s0 (State.judgeLoad s) := by
  unfold State.judgeLoad
  repeat' first
    | with_reducible assumption
    | with_reducible refine State.setBit_kept (cv rfl hks) ?_
    | with_reducible refine State.setReg_kept (cv rfl hks) ?_
    | dsimp only
    | with_reducible intro _
    | split

theorem State.nameEdge_kept {ks : Nat} {s0 : State} {s : State} {good : Bool} {v : Nat} (hks : Nat.land ks 8 = 8) (hk : Kept ks s0 s) :
    Kept ks s0 (State.nameEdge s good v) := by
  unfold State.nameEdge
  repeat' first
    | with_reducible assumption
    | with_reducible refine State.setTime_kept (cv rfl hks) ?_ ?_
    | dsimp only
    | with_reducible exact fun w => smWf_set _ _ _ _ w
    | with_reducible exact fun w => smWf_map _ _ _ w
    | with_reducible exact fun w => ⟨w.1, smWf_set _ _ _ _ w.2.1, w.2.2⟩
    | with_reducible exact fun w => ⟨smWf_set _ _ _ _ w.1, w.2⟩
    | with_reducible exact fun w => ⟨w.1, smWf_set _ _ _ _ w.2⟩
    | with_reducible exact fun w => ⟨smWf_map _ _ _ w.1, w.2⟩
    | with_reducible exact fun w => ⟨Nat.mod_lt _ (by decide), w.2⟩
    | exact id

theorem State.strayEdge_kept {ks : Nat} {s0 : State} {s : State} {good : Bool} {v : Nat} (hks : Nat.land ks 166247417 = 166247417) (hk : Kept ks s0 s) :
    Kept ks s0 (State.strayEdge s good v) := by
  unfold State.strayEdge
  repeat' first
    | with_reducible assumption
    | with_reducible refine State.nameEdge_kept (cv rfl hks) ?_
    | with_reducible refine State.resource_kept (cv rfl hks) ?_
    | with_reducible refine State.setBit_kept (cv rfl hks) ?_
    | with_reducible refine State.setTime_kept (cv rfl hks) ?_ ?_
    | dsimp only
    | with_reducible exact fun w => smWf_set _ _ _ _ w
    | with_reducible exact fun w => smWf_map _ _ _ w
    | with_reducible exact fun w => ⟨w.1, smWf_set _ _ _ _ w.2.1, w.2.2⟩
    | with_reducible exact fun w => ⟨smWf_set _ _ _ _ w.1, w.2⟩
    | with_reducible exact fun w => ⟨w.1, smWf_set _ _ _ _ w.2⟩
    | with_reducible exact fun w => ⟨smWf_map _ _ _ w.1, w.2⟩
    | with_reducible exact fun w => ⟨Nat.mod_lt _ (by decide), w.2⟩
    | exact id

theorem State.takeEdge_kept {ks : Nat} {s0 : State} {s : State} {good : Bool} {v : Nat} {offset : Int} (hks : Nat.land ks 166247417 = 166247417) (hk : Kept ks s0 s) :
    Kept ks s0 (State.takeEdge s good v offset) := by
  unfold State.takeEdge
  repeat' first
    | with_reducible assumption
    | with_reducible refine State.estimate_kept (cv rfl hks) ?_
    | with_reducible refine State.nameEdge_kept (cv rfl hks) ?_
    | with_reducible refine State.resource_kept (cv rfl hks) ?_
    | with_reducible refine State.setOnce_kept (cv rfl hks) ?_
    | with_reducible refine State.setTime_kept (cv rfl hks) ?_ ?_
    | dsimp only
    | with_reducible exact fun w => smWf_set _ _ _ _ w
    | with_reducible exact fun w => smWf_map _ _ _ w
    | with_reducible exact fun w => ⟨w.1, smWf_set _ _ _ _ w.2.1, w.2.2⟩
    | with_reducible exact fun w => ⟨smWf_set _ _ _ _ w.1, w.2⟩
    | with_reducible exact fun w => ⟨w.1, smWf_set _ _ _ _ w.2⟩
    | with_reducible exact fun w => ⟨smWf_map _ _ _ w.1, w.2⟩
    | with_reducible exact fun w => ⟨Nat.mod_lt _ (by decide), w.2⟩
    | exact id
    | dsimp only
    | with_reducible intro _
    | split

theorem State.movePending_kept {ks : Nat} {s0 : State} {s : State} {t : Nat} (hks : Nat.land ks 16 = 16) (hk : Kept ks s0 s) :
    Kept ks s0 (State.movePending s t) := by
  unfold State.movePending
  repeat' first
    | with_reducible assumption
    | with_reducible refine State.setParts_kept (cv rfl hks) ?_ ?_
    | with_reducible refine kept_pending (cv rfl hks) ?_
    | dsimp only
    | with_reducible exact fun w => smWf_set _ _ _ _ w
    | with_reducible exact fun w => smWf_map _ _ _ w

theorem State.timeDieFails_kept {ks : Nat} {s0 : State} {s : State} (hks : Nat.land ks 165722329 = 165722329) (hk : Kept ks s0 s) :
    Kept ks s0 (State.timeDieFails s) := by
  unfold State.timeDieFails
  repeat' first
    | with_reducible assumption
    | with_reducible refine State.enter_kept (cv rfl hks) ?_
    | with_reducible refine State.setBit_kept (cv rfl hks) ?_
    | with_reducible refine State.setSource_kept (cv rfl hks) ?_
    | with_reducible refine State.setTime_kept (cv rfl hks) ?_ ?_
    | dsimp only
    | with_reducible exact fun w => smWf_set _ _ _ _ w
    | with_reducible exact fun w => smWf_map _ _ _ w
    | with_reducible exact fun w => ⟨w.1, smWf_set _ _ _ _ w.2.1, w.2.2⟩
    | with_reducible exact fun w => ⟨smWf_set _ _ _ _ w.1, w.2⟩
    | with_reducible exact fun w => ⟨w.1, smWf_set _ _ _ _ w.2⟩
    | with_reducible exact fun w => ⟨smWf_map _ _ _ w.1, w.2⟩
    | with_reducible exact fun w => ⟨Nat.mod_lt _ (by decide), w.2⟩
    | exact id
    | dsimp only
    | with_reducible intro _
    | split

end Sys2Proof.Machine
end

