-- ==== Sys2Proof/Laws/KeptRings.lean ====
section
/-! SUPPORT. What the definitions of Machine/Rings.lean keep. -/

namespace Sys2Proof.Machine

open Sys2Proof Host

theorem State.writeRecord_kept {ks : Nat} {s0 : State} {s : State} {r : Nat} (hks : Nat.land ks 134217792 = 134217792) (hk : Kept ks s0 s) :
    Kept ks s0 (State.writeRecord s r) := by
  unfold State.writeRecord
  repeat' first
    | with_reducible assumption
    | with_reducible refine State.emitHost_kept (cv rfl hks) ?_
    | dsimp only
    | with_reducible intro _
    | split

theorem State.haltRing_kept {ks : Nat} {s0 : State} {s : State} {r code : Nat} (hks : Nat.land ks 165681265 = 165681265) (hk : Kept ks s0 s) :
    Kept ks s0 (State.haltRing s r code) := by
  unfold State.haltRing
  repeat' first
    | with_reducible assumption
    | with_reducible refine State.raise_kept (cv rfl hks) ?_
    | with_reducible refine State.setBit_kept (cv rfl hks) ?_
    | with_reducible refine State.writeRecord_kept (cv rfl hks) ?_
    | with_reducible refine State.setRing_kept (cv rfl hks) ?_

theorem State.ringMsix_kept {ks : Nat} {s0 : State} {s : State} {r : Nat} (hks : Nat.land ks 96 = 96) (hk : Kept ks s0 s) :
    Kept ks s0 (State.ringMsix s r) := by
  unfold State.ringMsix
  repeat' first
    | with_reducible assumption
    | with_reducible refine State.msix_kept (cv rfl hks) ?_
    | with_reducible refine State.setRing_kept (cv rfl hks) ?_
    | dsimp only
    | with_reducible intro _
    | split

theorem State.drained_kept {ks : Nat} {s0 : State} {s : State} {r : Nat} (hks : Nat.land ks 134217824 = 134217824) (hk : Kept ks s0 s) :
    Kept ks s0 (State.drained s r) := by
  unfold State.drained
  repeat' first
    | with_reducible assumption
    | with_reducible refine State.writeRecord_kept (cv rfl hks) ?_
    | with_reducible refine State.setRing_kept (cv rfl hks) ?_
    | dsimp only
    | with_reducible intro _
    | split

theorem State.dbIgnored_kept {ks : Nat} {s0 : State} {s : State} {port r : Nat} (hks : Nat.land ks 16777217 = 16777217) (hk : Kept ks s0 s) :
    Kept ks s0 (State.dbIgnored s port r) := by
  unfold State.dbIgnored
  repeat' first
    | with_reducible assumption
    | with_reducible refine State.bump_kept (cv rfl hks) ?_
    | with_reducible refine State.setBit_kept (cv rfl hks) ?_

theorem State.fetchSlots_kept {ks : Nat} {s0 : State} {s : State} {r from_ n : Nat} (hks : Nat.land ks 165681265 = 165681265) (hk : Kept ks s0 s) :
    Kept ks s0 (State.fetchSlots s r from_ n) := by
  unfold State.fetchSlots
  repeat' first
    | with_reducible assumption
    | with_reducible refine kept_foldl (fun _ _ _ => ?_) ?_
    | with_reducible refine State.haltRing_kept (cv rfl hks) ?_
    | with_reducible refine State.raise_kept (cv rfl hks) ?_
    | with_reducible refine State.emit_kept (cv rfl hks) ?_
    | dsimp only
    | with_reducible intro _
    | split

theorem State.finish_kept {ks : Nat} {s0 : State} {s : State} {ring seq : Nat} (hks : Nat.land ks 165723857 = 165723857) (hk : Kept ks s0 s) :
    Kept ks s0 (State.finish s ring seq) := by
  unfold State.finish
  repeat' first
    | with_reducible assumption
    | with_reducible refine kept_foldl (fun _ _ _ => ?_) ?_
    | with_reducible refine kept_foldl2 (fun _ _ _ => ?_) ?_
    | with_reducible refine kept_foldl3 (fun _ _ _ => ?_) ?_
    | with_reducible refine State.fencedAccess_kept (cv rfl hks) ?_
    | with_reducible refine State.hostRead_kept (cv rfl hks) ?_
    | with_reducible refine State.raise_kept (cv rfl hks) ?_
    | with_reducible refine State.setSub_kept (cv rfl hks) ?_
    | with_reducible refine State.emit_kept (cv rfl hks) ?_
    | with_reducible refine State.setNextId_kept (cv rfl hks) ?_
    | with_reducible refine State.setReads_kept (cv rfl hks) ?_
    | with_reducible refine kept_pair (by with_reducible assumption) ?_
    | dsimp only
    | with_reducible intro _
    | split

theorem State.dropEntry_kept {ks : Nat} {s0 : State} {s : State} {x : Sub} (hks : Nat.land ks 32 = 32) (hk : Kept ks s0 s) :
    Kept ks s0 (State.dropEntry s x) := by
  unfold State.dropEntry
  repeat' first
    | with_reducible assumption
    | with_reducible refine State.setRing_kept (cv rfl hks) ?_

theorem State.closeSub_kept {ks : Nat} {s0 : State} {s : State} {ring seq : Nat} (hks : Nat.land ks 4194432 = 4194432) (hk : Kept ks s0 s) :
    Kept ks s0 (State.closeSub s ring seq) := by
  unfold State.closeSub
  repeat' first
    | with_reducible assumption
    | with_reducible refine State.setErr_kept (cv rfl hks) ?_ ?_
    | with_reducible refine State.setSubs_kept (cv rfl hks) ?_
    | dsimp only
    | with_reducible exact fun w => smWf_set _ _ _ _ w
    | with_reducible exact fun w => smWf_map _ _ _ w
    | with_reducible exact fun w => ⟨w.1, smWf_set _ _ _ _ w.2.1, w.2.2⟩
    | with_reducible exact fun w => ⟨smWf_set _ _ _ _ w.1, w.2⟩
    | with_reducible exact fun w => ⟨w.1, smWf_set _ _ _ _ w.2⟩
    | with_reducible exact fun w => ⟨smWf_map _ _ _ w.1, w.2⟩
    | exact id

theorem State.lateResult_kept {ks : Nat} {s0 : State} {s : State} {x : Sub} (hks : Nat.land ks 165722321 = 165722321) (hk : Kept ks s0 s) :
    Kept ks s0 (State.lateResult s x) := by
  unfold State.lateResult
  repeat' first
    | with_reducible assumption
    | with_reducible refine State.charge_kept (cv rfl hks) ?_
    | dsimp only
    | with_reducible intro _
    | split

theorem State.issueEntry_kept {ks : Nat} {s0 : State} {s : State} {x : Sub} (hks : Nat.land ks 138412256 = 138412256) (hk : Kept ks s0 s) :
    Kept ks s0 (State.issueEntry s x) := by
  unfold State.issueEntry
  repeat' first
    | with_reducible assumption
    | with_reducible refine State.closeSub_kept (cv rfl hks) ?_
    | with_reducible refine State.drained_kept (cv rfl hks) ?_
    | with_reducible refine State.dropEntry_kept (cv rfl hks) ?_
    | with_reducible refine State.emitHost_kept (cv rfl hks) ?_
    | with_reducible refine State.ringMsix_kept (cv rfl hks) ?_
    | with_reducible refine State.setRing_kept (cv rfl hks) ?_
    | dsimp only
    | with_reducible intro _
    | split

theorem State.flushDone_kept {ks : Nat} {s0 : State} {s : State} {ring seq port : Nat} {ok : Bool} (hks : Nat.land ks 165722833 = 165722833) (hk : Kept ks s0 s) :
    Kept ks s0 (State.flushDone s ring seq port ok) := by
  unfold State.flushDone
  repeat' first
    | with_reducible assumption
    | with_reducible refine State.charge_kept (cv rfl hks) ?_
    | with_reducible refine State.setSub_kept (cv rfl hks) ?_
    | with_reducible refine State.setReads_kept (cv rfl hks) ?_
    | dsimp only
    | with_reducible intro _
    | split

theorem State.liftFence_kept {ks : Nat} {s0 : State} {s : State} {h : Nat} (hks : Nat.land ks 64 = 64) (hk : Kept ks s0 s) :
    Kept ks s0 (State.liftFence s h) := by
  unfold State.liftFence
  repeat' first
    | with_reducible assumption
    | with_reducible refine State.setPort_kept (cv rfl hks) ?_
    | dsimp only
    | with_reducible intro _
    | split

theorem State.armRing_kept {ks : Nat} {s0 : State} {s : State} {r : Nat} (hks : Nat.land ks 134217825 = 134217825) (hk : Kept ks s0 s) :
    Kept ks s0 (State.armRing s r) := by
  unfold State.armRing
  repeat' first
    | with_reducible assumption
    | with_reducible refine State.liftFence_kept (cv rfl hks) ?_
    | with_reducible refine State.writeRecord_kept (cv rfl hks) ?_
    | with_reducible refine State.setReg_kept (cv rfl hks) ?_
    | with_reducible refine State.setRing_kept (cv rfl hks) ?_

theorem State.disarmRing_kept {ks : Nat} {s0 : State} {s : State} {r : Nat} (hks : Nat.land ks 138412257 = 138412257) (hk : Kept ks s0 s) :
    Kept ks s0 (State.disarmRing s r) := by
  unfold State.disarmRing
  repeat' first
    | with_reducible assumption
    | with_reducible refine kept_foldl (fun _ _ _ => ?_) ?_
    | with_reducible refine State.closeSub_kept (cv rfl hks) ?_
    | with_reducible refine State.drained_kept (cv rfl hks) ?_
    | with_reducible refine State.dropEntry_kept (cv rfl hks) ?_
    | with_reducible refine State.setReg_kept (cv rfl hks) ?_
    | with_reducible refine State.setRing_kept (cv rfl hks) ?_
    | dsimp only
    | with_reducible intro _
    | split

theorem State.writeRingCtrl_kept {ks : Nat} {s0 : State} {s : State} {r : Nat} {w : Word} (hks : Nat.land ks 138412257 = 138412257) (hk : Kept ks s0 s) :
    Kept ks s0 (State.writeRingCtrl s r w) := by
  unfold State.writeRingCtrl
  repeat' first
    | with_reducible assumption
    | with_reducible refine State.armRing_kept (cv rfl hks) ?_
    | with_reducible refine State.disarmRing_kept (cv rfl hks) ?_
    | with_reducible refine State.putRw_kept (cv rfl hks) ?_
    | with_reducible refine State.regErr_kept (cv rfl hks) ?_
    | with_reducible refine State.setBit_kept (cv rfl hks) ?_
    | with_reducible refine State.writeRecord_kept (cv rfl hks) ?_
    | dsimp only
    | with_reducible intro _
    | split

theorem State.writeRingSeq_kept {ks : Nat} {s0 : State} {s : State} {r : Nat} {w : Word} (hks : Nat.land ks 1 = 1) (hk : Kept ks s0 s) :
    Kept ks s0 (State.writeRingSeq s r w) := by
  unfold State.writeRingSeq
  repeat' first
    | with_reducible assumption
    | with_reducible refine State.regErr_kept (cv rfl hks) ?_
    | with_reducible refine State.setReg_kept (cv rfl hks) ?_
    | dsimp only
    | with_reducible intro _
    | split

theorem State.writeRingCfg_kept {ks : Nat} {s0 : State} {s : State} {g : RG} {r : Nat} {w : Word} (hks : Nat.land ks 1 = 1) (hk : Kept ks s0 s) :
    Kept ks s0 (State.writeRingCfg s g r w) := by
  unfold State.writeRingCfg
  repeat' first
    | with_reducible assumption
    | with_reducible refine State.putRw_kept (cv rfl hks) ?_
    | with_reducible refine State.regErr_kept (cv rfl hks) ?_
    | with_reducible refine State.setBit_kept (cv rfl hks) ?_
    | dsimp only
    | with_reducible intro _
    | split

end Sys2Proof.Machine
end

