-- ==== Sys2Proof/Laws/KeptAgents.lean ====
section
/-! SUPPORT. What the definitions of Machine/Agents.lean keep. -/

namespace Sys2Proof.Machine

open Sys2Proof Host

theorem MemS.Canonical.combine {m : MemS} {pc line slot : Nat} {mask : BitVec 256} {data : List Byte} {gp : BitVec 16} (h : m.Canonical) :
    (m.combine pc line slot mask data gp).Canonical := by
  unfold MemS.combine; dsimp only
  split <;> exact h.same rfl

theorem MemS.combine_imp {q_ : Prop} {m : MemS} {pc line slot : Nat} {mask : BitVec 256} {data : List Byte} {gp : BitVec 16} (h : q_ → m.Canonical) : q_ → (m.combine pc line slot mask data gp).Canonical := fun x => MemS.Canonical.combine (h x)

theorem State.lostBytes_kept {ks : Nat} {s0 : State} {s : State} {pc : Nat} {mask live : BitVec 256} (hks : Nat.land ks 16777216 = 16777216) (hk : Kept ks s0 s) :
    Kept ks s0 (State.lostBytes s pc mask live) := by
  unfold State.lostBytes
  repeat' first
    | with_reducible assumption
    | with_reducible refine State.bump_kept (cv rfl hks) ?_
    | dsimp only
    | with_reducible intro _
    | split

theorem State.writeLine_kept {ks : Nat} {s0 : State} {s : State} {pc line : Nat} {mask : BitVec 256} {data : List Byte} {gp : BitVec 16} (hks : Nat.land ks 17301504 = 17301504) (hk : Kept ks s0 s) :
    Kept ks s0 (State.writeLine s pc line mask data gp) := by
  unfold State.writeLine
  repeat' first
    | with_reducible assumption
    | with_reducible apply MemS.combine_imp
    | with_reducible exact fun c => MemS.Canonical.same c rfl
    | with_reducible refine State.lostBytes_kept (cv rfl hks) ?_
    | with_reducible refine State.setMem_kept (cv rfl hks) ?_ ?_
    | dsimp only
    | with_reducible exact fun w => smWf_set _ _ _ _ w
    | with_reducible exact fun w => smWf_map _ _ _ w
    | with_reducible exact fun w => ⟨w.1, smWf_set _ _ _ _ w.2.1, w.2.2⟩
    | with_reducible exact fun w => ⟨smWf_set _ _ _ _ w.1, w.2⟩
    | with_reducible exact fun w => ⟨w.1, smWf_set _ _ _ _ w.2⟩
    | with_reducible exact fun w => ⟨smWf_map _ _ _ w.1, w.2⟩
    | exact id
    | dsimp only
    | with_reducible intro _
    | split

theorem State.enterBlock_kept {ks : Nat} {s0 : State} {s : State} {w : TWait} (hks : Nat.land ks 17301504 = 17301504) (hk : Kept ks s0 s) :
    OKept ks s0 (fun x => x) (State.enterBlock s w) := by
  unfold State.enterBlock
  repeat' first
    | with_reducible assumption
    | with_reducible exact fun c => MemS.Canonical.same c rfl
    | with_reducible refine State.lostBytes_kept (cv rfl hks) ?_
    | with_reducible refine State.setMem_kept (cv rfl hks) ?_ ?_
    | with_reducible refine okept_map ?_
    | with_reducible refine okept_const ?_
    | exact okept_none
    | with_reducible refine okept_some ?_
    | dsimp only
    | with_reducible exact fun w => smWf_set _ _ _ _ w
    | with_reducible exact fun w => smWf_map _ _ _ w
    | with_reducible exact fun w => ⟨w.1, smWf_set _ _ _ _ w.2.1, w.2.2⟩
    | with_reducible exact fun w => ⟨smWf_set _ _ _ _ w.1, w.2⟩
    | with_reducible exact fun w => ⟨w.1, smWf_set _ _ _ _ w.2⟩
    | with_reducible exact fun w => ⟨smWf_map _ _ _ w.1, w.2⟩
    | exact id
    | dsimp only
    | with_reducible intro _
    | split

theorem State.writeBlock_kept {ks : Nat} {s0 : State} {s : State} {w : TWait} (hks : Nat.land ks 17301504 = 17301504) (hk : Kept ks s0 s) :
    Kept ks s0 (State.writeBlock s w) := by
  unfold State.writeBlock
  repeat' first
    | with_reducible assumption
    | with_reducible exact fun c => MemS.Canonical.same c rfl
    | with_reducible refine State.enterBlock_kept (cv rfl hks) ?_
    | with_reducible refine State.setMem_kept (cv rfl hks) ?_ ?_
    | dsimp only
    | with_reducible exact fun w => smWf_set _ _ _ _ w
    | with_reducible exact fun w => smWf_map _ _ _ w
    | with_reducible exact fun w => ⟨w.1, smWf_set _ _ _ _ w.2.1, w.2.2⟩
    | with_reducible exact fun w => ⟨smWf_set _ _ _ _ w.1, w.2⟩
    | with_reducible exact fun w => ⟨w.1, smWf_set _ _ _ _ w.2⟩
    | with_reducible exact fun w => ⟨smWf_map _ _ _ w.1, w.2⟩
    | exact id
    | with_reducible refine kept_opt1 (by with_reducible assumption) ?_
    | dsimp only
    | with_reducible intro _
    | split

theorem State.freeBlock_kept {ks : Nat} {s0 : State} {s : State} {b : TBlock} (hks : Nat.land ks 17301504 = 17301504) (hk : Kept ks s0 s) :
    Kept ks s0 (State.freeBlock s b) := by
  unfold State.freeBlock
  repeat' first
    | with_reducible assumption
    | with_reducible apply MemS.foldl_imp
    | with_reducible exact fun c => MemS.Canonical.same c rfl
    | with_reducible refine kept_foldl (fun _ _ _ => ?_) ?_
    | with_reducible refine State.writeBlock_kept (cv rfl hks) ?_
    | with_reducible refine State.setMem_kept (cv rfl hks) ?_ ?_

theorem State.storeTurned_kept {ks : Nat} {s0 : State} {s : State} {b : TBlock} {k : Nat} (hks : Nat.land ks 524288 = 524288) (hk : Kept ks s0 s) :
    Kept ks s0 (State.storeTurned s b k) := by
  unfold State.storeTurned
  repeat' first
    | with_reducible assumption
    | with_reducible apply MemS.writeGrans_imp
    | with_reducible exact fun c => MemS.Canonical.same c rfl
    | with_reducible refine kept_getD ?_ ?_
    | with_reducible refine State.setMem_kept (cv rfl hks) ?_ ?_

theorem State.storeBlock_kept {ks : Nat} {s0 : State} {s : State} {b : TBlock} (hks : Nat.land ks 166205521 = 166205521) (hk : Kept ks s0 s) :
    Kept ks s0 (State.storeBlock s b) := by
  unfold State.storeBlock
  repeat' first
    | with_reducible assumption
    | with_reducible refine kept_foldl (fun _ _ _ => ?_) ?_
    | with_reducible refine State.freeBlock_kept (cv rfl hks) ?_
    | with_reducible refine State.raise_kept (cv rfl hks) ?_
    | with_reducible refine State.storeTurned_kept (cv rfl hks) ?_
    | with_reducible refine State.emit_kept (cv rfl hks) ?_
    | dsimp only
    | with_reducible intro _
    | split

theorem State.agentRead_kept {ks : Nat} {s0 : State} {s : State} {q : Req} (hks : Nat.land ks 165681233 = 165681233) (hk : Kept ks s0 s) :
    Kept ks s0 (State.agentRead s q).2.2 := by
  unfold State.agentRead
  repeat' first
    | with_reducible assumption
    | with_reducible refine State.raise_kept (cv rfl hks) ?_
    | dsimp only
    | with_reducible intro _
    | split

theorem State.agentWrite_kept {ks : Nat} {s0 : State} {s : State} {q : Req} {mask : BitVec 256} {data : List Byte} {gp : BitVec 16} (hks : Nat.land ks 166205521 = 166205521) (hk : Kept ks s0 s) :
    Kept ks s0 (State.agentWrite s q mask data gp).2 := by
  unfold State.agentWrite
  repeat' first
    | with_reducible assumption
    | with_reducible refine State.raise_kept (cv rfl hks) ?_
    | with_reducible refine State.writeBlock_kept (cv rfl hks) ?_
    | with_reducible refine State.writeLine_kept (cv rfl hks) ?_
    | dsimp only
    | with_reducible intro _
    | split

theorem State.fillFirst_kept {ks : Nat} {s0 : State} {s : State} {k ctx va n : Nat} (hks : Nat.land ks 524288 = 524288) (hk : Kept ks s0 s) :
    Kept ks s0 (State.fillFirst s k ctx va n) := by
  unfold State.fillFirst
  repeat' first
    | with_reducible assumption
    | with_reducible exact fun c => MemS.Canonical.same c rfl
    | with_reducible refine State.setMem_kept (cv rfl hks) ?_ ?_
    | dsimp only
    | with_reducible exact fun w => smWf_set _ _ _ _ w
    | with_reducible exact fun w => smWf_map _ _ _ w
    | with_reducible exact fun w => ⟨w.1, smWf_set _ _ _ _ w.2.1, w.2.2⟩
    | with_reducible exact fun w => ⟨smWf_set _ _ _ _ w.1, w.2⟩
    | with_reducible exact fun w => ⟨w.1, smWf_set _ _ _ _ w.2⟩
    | with_reducible exact fun w => ⟨smWf_map _ _ _ w.1, w.2⟩
    | exact id
    | dsimp only
    | with_reducible intro _
    | split

theorem State.devReadFrom_kept {ks : Nat} {s0 : State} {s : State} {tr : Nat → Bool → Except Nat (Nat × Nat)} {w : Who} {ctx : Nat} {first : Bool} {va : Nat} {a0 : Nat} (hks : Nat.land ks 165681233 = 165681233) (hk : Kept ks s0 s) :
    Kept ks s0 (State.devReadFrom s tr w ctx first va a0).2.2 := by
  induction a0 generalizing s tr w ctx first va with
  | zero =>
    unfold State.devReadFrom
    repeat' first
      | with_reducible assumption
  | succ k ih =>
    unfold State.devReadFrom
    repeat' first
      | with_reducible assumption
      | with_reducible refine kept_getD ?_ ?_
      | with_reducible refine State.agentRead_kept (cv rfl hks) ?_
      | with_reducible refine kept_pair3 (by with_reducible assumption) ?_
      | with_reducible apply ih
      | dsimp only
      | with_reducible intro _
      | split

theorem State.devReadBy_kept {ks : Nat} {s0 : State} {s : State} {tr : Nat → Bool → Except Nat (Nat × Nat)} {w : Who} {ctx va n : Nat} (hks : Nat.land ks 165681233 = 165681233) (hk : Kept ks s0 s) :
    Kept ks s0 (State.devReadBy s tr w ctx va n).2.2 := by
  unfold State.devReadBy
  repeat' first
    | with_reducible assumption
    | with_reducible refine State.devReadFrom_kept (cv rfl hks) ?_

theorem State.devWriteFrom_kept {ks : Nat} {s0 : State} {s : State} {tr : Nat → Bool → Except Nat (Nat × Nat)} {w : Who} {ctx : Nat} {first : Bool} {va : Nat} {a0 : List Gran} (hks : Nat.land ks 166205521 = 166205521) (hk : Kept ks s0 s) :
    Kept ks s0 (State.devWriteFrom s tr w ctx first va a0).2 := by
  induction a0 generalizing s tr w ctx first va with
  | nil =>
    unfold State.devWriteFrom
    repeat' first
      | with_reducible assumption
  | cons x t ih =>
    unfold State.devWriteFrom
    repeat' first
      | with_reducible assumption
      | with_reducible refine State.agentWrite_kept (cv rfl hks) ?_
      | with_reducible refine kept_pair (by with_reducible assumption) ?_
      | with_reducible apply ih
      | dsimp only
      | with_reducible intro _
      | split

theorem State.devWriteBy_kept {ks : Nat} {s0 : State} {s : State} {tr : Nat → Bool → Except Nat (Nat × Nat)} {w : Who} {ctx va : Nat} {l : List Gran} (hks : Nat.land ks 166205521 = 166205521) (hk : Kept ks s0 s) :
    Kept ks s0 (State.devWriteBy s tr w ctx va l).2 := by
  unfold State.devWriteBy
  repeat' first
    | with_reducible assumption
    | with_reducible refine State.devWriteFrom_kept (cv rfl hks) ?_

theorem State.devRead_kept {ks : Nat} {s0 : State} {s : State} {w : Who} {ctx va n : Nat} (hks : Nat.land ks 166205521 = 166205521) (hk : Kept ks s0 s) :
    Kept ks s0 (State.devRead s w ctx va n).2.2 := by
  unfold State.devRead
  repeat' first
    | with_reducible assumption
    | with_reducible refine State.devReadBy_kept (cv rfl hks) ?_
    | with_reducible refine State.fillFirst_kept (cv rfl hks) ?_

theorem State.devWrite_kept {ks : Nat} {s0 : State} {s : State} {w : Who} {ctx va : Nat} {l : List Gran} (hks : Nat.land ks 166205521 = 166205521) (hk : Kept ks s0 s) :
    Kept ks s0 (State.devWrite s w ctx va l).2 := by
  unfold State.devWrite
  repeat' first
    | with_reducible assumption
    | with_reducible refine State.devWriteBy_kept (cv rfl hks) ?_
    | with_reducible refine State.fillFirst_kept (cv rfl hks) ?_

theorem State.sharedWrite_kept {ks : Nat} {s0 : State} {s : State} {cdie part off : Nat} {a0 : List Gran} (hks : Nat.land ks 524288 = 524288) (hk : Kept ks s0 s) :
    Kept ks s0 (State.sharedWrite s cdie part off a0).2 := by
  induction a0 generalizing s cdie part off with
  | nil =>
    unfold State.sharedWrite
    repeat' first
      | with_reducible assumption
  | cons x t ih =>
    unfold State.sharedWrite
    repeat' first
      | with_reducible assumption
      | with_reducible apply MemS.writeGran_imp
      | with_reducible exact fun c => MemS.Canonical.same c rfl
      | with_reducible refine State.setMem_kept (cv rfl hks) ?_ ?_
      | dsimp only
      | with_reducible exact fun w => smWf_set _ _ _ _ w
      | with_reducible exact fun w => smWf_map _ _ _ w
      | with_reducible exact fun w => ⟨w.1, smWf_set _ _ _ _ w.2.1, w.2.2⟩
      | with_reducible exact fun w => ⟨smWf_set _ _ _ _ w.1, w.2⟩
      | with_reducible exact fun w => ⟨w.1, smWf_set _ _ _ _ w.2⟩
      | with_reducible exact fun w => ⟨smWf_map _ _ _ w.1, w.2⟩
      | exact id
      | with_reducible refine kept_pair (by with_reducible assumption) ?_
      | with_reducible apply ih
      | dsimp only
      | with_reducible intro _
      | split

end Sys2Proof.Machine
end

