-- ==== Sys2Proof/Laws/KeptMemory.lean ====
section
/-! SUPPORT. What the definitions of Machine/Memory.lean keep. -/

namespace Sys2Proof.Machine

open Sys2Proof Host

theorem MemS.Canonical.putEntry {m : MemS} {e : WcEntry} (h : m.Canonical) : (m.putEntry e).Canonical := h.writeGrans

theorem MemS.putEntry_imp {q_ : Prop} {m : MemS} {e : WcEntry} (h : q_ → m.Canonical) : q_ → (m.putEntry e).Canonical := fun x => MemS.Canonical.putEntry (h x)

theorem MemS.Canonical.restore {m : MemS} {a : Nat} {g : Gran} (h : m.Canonical) : (m.restore a g).Canonical := by
  unfold MemS.restore
  split
  · exact MemS.Canonical.same (MemS.Canonical.markGran h) rfl
  · exact MemS.Canonical.same (MemS.Canonical.writeGran h) rfl

theorem MemS.restore_imp {q_ : Prop} {m : MemS} {a : Nat} {g : Gran} (h : q_ → m.Canonical) : q_ → (m.restore a g).Canonical := fun x => MemS.Canonical.restore (h x)

theorem MemS.Canonical.tgWrite {m : MemS} {t : TgS} {k a j : Nat} (h : m.Canonical) : (m.tgWrite t k a j).Canonical :=
  MemS.Canonical.same (MemS.Canonical.writeGran h) rfl

theorem MemS.tgWrite_imp {q_ : Prop} {m : MemS} {t : TgS} {k a j : Nat} (h : q_ → m.Canonical) : q_ → (m.tgWrite t k a j).Canonical := fun x => MemS.Canonical.tgWrite (h x)

theorem kept_run {α : Type} {ks : Nat} {s0 : State} {l : List α} {f : TgRun → α → TgRun} (hf : ∀ r x, Kept ks s0 r.st → Kept ks s0 (f r x).st)
    {r : TgRun} (h : Kept ks s0 r.st) : Kept ks s0 (l.foldl f r).st := by
  induction l generalizing r with
  | nil => exact h
  | cons x t ih => exact ih (hf r x h)

theorem State.readUpset_kept {ks : Nat} {s0 : State} {s : State} {pc line addr : Nat} {ctx : Option Nat} {u : Upset} (hks : Nat.land ks 166205521 = 166205521) (hk : Kept ks s0 s) :
    Kept ks s0 (State.readUpset s pc line addr ctx u) := by
  unfold State.readUpset
  repeat' first
    | with_reducible assumption
    | with_reducible apply MemS.restore_imp
    | with_reducible exact fun c => MemS.Canonical.same c rfl
    | with_reducible refine State.bump_kept (cv rfl hks) ?_
    | with_reducible refine State.raise_kept (cv rfl hks) ?_
    | with_reducible refine State.setArea_kept (cv rfl hks) ?_
    | with_reducible refine State.setMem_kept (cv rfl hks) ?_ ?_
    | dsimp only
    | with_reducible exact fun w => smWf_set _ _ _ _ w
    | with_reducible exact fun w => smWf_map _ _ _ w
    | with_reducible exact fun w => ⟨w.1, smWf_set _ _ _ _ w.2.1, w.2.2⟩
    | with_reducible exact fun w => ⟨smWf_set _ _ _ _ w.1, w.2⟩
    | with_reducible exact fun w => ⟨w.1, smWf_set _ _ _ _ w.2⟩
    | with_reducible exact fun w => ⟨smWf_map _ _ _ w.1, w.2⟩
    | exact id
    | dsimp only
    | with_reducible intro _
    | split

theorem State.readUpsets_kept {ks : Nat} {s0 : State} {s : State} {pc line addr : Nat} {ctx : Option Nat} {l : List Upset} (hks : Nat.land ks 166205521 = 166205521) (hk : Kept ks s0 s) :
    Kept ks s0 (State.readUpsets s pc line addr ctx l) := by
  unfold State.readUpsets
  repeat' first
    | with_reducible assumption
    | with_reducible refine kept_foldl (fun _ _ _ => ?_) ?_
    | with_reducible refine State.readUpset_kept (cv rfl hks) ?_
    | dsimp only
    | with_reducible intro _
    | split

theorem State.meet_kept {ks : Nat} {s0 : State} {s : State} {ctx : Option Nat} {maddr : Nat} {b : Blemish} (hks : Nat.land ks 166205521 = 166205521) (hk : Kept ks s0 s) :
    Kept ks s0 (State.meet s ctx maddr b) := by
  unfold State.meet
  repeat' first
    | with_reducible assumption
    | with_reducible apply MemS.writeGran_imp
    | with_reducible apply MemS.markGran_imp
    | with_reducible exact fun c => MemS.Canonical.same c rfl
    | with_reducible refine State.bump_kept (cv rfl hks) ?_
    | with_reducible refine State.raise_kept (cv rfl hks) ?_
    | with_reducible refine State.readUpset_kept (cv rfl hks) ?_
    | with_reducible refine State.setMem_kept (cv rfl hks) ?_ ?_
    | dsimp only
    | with_reducible exact fun w => smWf_set _ _ _ _ w
    | with_reducible exact fun w => smWf_map _ _ _ w
    | with_reducible exact fun w => ⟨w.1, smWf_set _ _ _ _ w.2.1, w.2.2⟩
    | with_reducible exact fun w => ⟨smWf_set _ _ _ _ w.1, w.2⟩
    | with_reducible exact fun w => ⟨w.1, smWf_set _ _ _ _ w.2⟩
    | with_reducible exact fun w => ⟨smWf_map _ _ _ w.1, w.2⟩
    | exact id
    | dsimp only
    | with_reducible intro _
    | split

theorem State.meetHbm_kept {ks : Nat} {s0 : State} {s : State} {tr : Nat → Bool → Except Nat (Nat × Nat)} {cdie : Option Nat} {ctx : Nat} {vas : List Nat} {l : List Blemish} (hks : Nat.land ks 166205521 = 166205521) (hk : Kept ks s0 s) :
    Kept ks s0 (State.meetHbm s tr cdie ctx vas l) := by
  unfold State.meetHbm
  repeat' first
    | with_reducible assumption
    | with_reducible refine kept_foldl1 (fun _ _ _ => ?_) ?_
    | with_reducible refine kept_foldl (fun _ _ _ => ?_) ?_
    | with_reducible refine State.meet_kept (cv rfl hks) ?_
    | dsimp only
    | with_reducible intro _
    | split

theorem State.meetDev_kept {ks : Nat} {s0 : State} {s : State} {ctx va n : Nat} {l : List Blemish} (hks : Nat.land ks 166205521 = 166205521) (hk : Kept ks s0 s) :
    Kept ks s0 (State.meetDev s ctx va n l) := by
  unfold State.meetDev
  repeat' first
    | with_reducible assumption
    | with_reducible refine State.meetHbm_kept (cv rfl hks) ?_
    | dsimp only
    | with_reducible intro _
    | split

theorem State.countEdge_kept {ks : Nat} {s0 : State} {s : State} {e : EdgeErr} (hks : Nat.land ks 16777216 = 16777216) (hk : Kept ks s0 s) :
    Kept ks s0 (State.countEdge s e) := by
  unfold State.countEdge
  repeat' first
    | with_reducible assumption
    | with_reducible refine State.setUnit_kept (cv rfl hks) ?_

theorem State.crossEdge_kept {ks : Nat} {s0 : State} {s : State} {e : EdgeErr} {g : Gran} (hks : Nat.land ks 165681233 = 165681233) (hk : Kept ks s0 s) :
    Kept ks s0 (State.crossEdge s e g).2 := by
  unfold State.crossEdge
  repeat' first
    | with_reducible assumption
    | with_reducible refine State.countEdge_kept (cv rfl hks) ?_
    | with_reducible refine State.raise_kept (cv rfl hks) ?_
    | dsimp only
    | with_reducible intro _
    | split

theorem State.crossEdges_kept {ks : Nat} {s0 : State} {s : State} {hit : Nat → EdgeErr → Bool} {l : List Gran} {a0 : List EdgeErr} (hks : Nat.land ks 165681233 = 165681233) (hk : Kept ks s0 s) :
    Kept ks s0 (State.crossEdges s hit l a0).2 := by
  induction a0 generalizing s hit l with
  | nil =>
    unfold State.crossEdges
    repeat' first
      | with_reducible assumption
  | cons x t ih =>
    unfold State.crossEdges
    repeat' first
      | with_reducible assumption
      | with_reducible refine State.crossEdge_kept (cv rfl hks) ?_
      | with_reducible refine kept_pair (by with_reducible assumption) ?_
      | with_reducible apply ih
      | dsimp only
      | with_reducible intro _
      | split

theorem State.countHeaders_kept {ks : Nat} {s0 : State} {s : State} {on : EdgeErr → Bool} {l : List EdgeErr} (hks : Nat.land ks 16777216 = 16777216) (hk : Kept ks s0 s) :
    Kept ks s0 (State.countHeaders s on l) := by
  unfold State.countHeaders
  repeat' first
    | with_reducible assumption
    | with_reducible refine kept_foldl (fun _ _ _ => ?_) ?_
    | with_reducible refine State.countEdge_kept (cv rfl hks) ?_

theorem State.reply_kept {ks : Nat} {s0 : State} {s : State} {q : Req} {edges : List EdgeErr} {out : State → State} (hf : ∀ s, Kept ks s0 s → Kept ks s0 (out s)) (hks : Nat.land ks 165681233 = 165681233) (hk : Kept ks s0 s) :
    Kept ks s0 (State.reply s q edges out) := by
  unfold State.reply
  repeat' first
    | with_reducible assumption
    | with_reducible refine hf _ ?_
    | with_reducible refine State.raise_kept (cv rfl hks) ?_
    | dsimp only
    | with_reducible intro _
    | split

theorem State.headers_kept {ks : Nat} {s0 : State} {s : State} {q : Req} {edges : List EdgeErr} (hks : Nat.land ks 16777216 = 16777216) (hk : Kept ks s0 s) :
    Kept ks s0 (State.headers s q edges) := by
  unfold State.headers
  repeat' first
    | with_reducible assumption
    | with_reducible refine State.countHeaders_kept (cv rfl hks) ?_
    | dsimp only
    | with_reducible intro _
    | split

theorem State.discards_kept {ks : Nat} {s0 : State} {s : State} {home : Nat} {die : Nat → Option Nat} {n : Nat} {edges : List EdgeErr} (hks : Nat.land ks 165681233 = 165681233) (hk : Kept ks s0 s) :
    Kept ks s0 (State.discards s home die n edges) := by
  unfold State.discards
  repeat' first
    | with_reducible assumption
    | with_reducible refine kept_foldl (fun _ _ _ => ?_) ?_
    | with_reducible refine State.raise_kept (cv rfl hks) ?_

theorem kept_foldl_run {α β γ : Type} {ks : Nat} {s0 : State} {l : List α} {f : β × γ × State → α → β × γ × State}
    (hf : ∀ a x, Kept ks s0 a.2.2 → Kept ks s0 (f a x).2.2) {a : β × γ × State} (h : Kept ks s0 a.2.2) : Kept ks s0 (l.foldl f a).2.2 := by
  induction l generalizing a with
  | nil => exact h
  | cons x t ih => exact ih (hf a x h)

theorem State.fetchOver_kept {ks : Nat} {s0 s : State} {home n : Nat} {die : Nat → Option Nat} {edges : List EdgeErr}
    {read : Nat → Nat → State → List Gran × Nat × State} (hf : ∀ i k t, Kept ks s0 t → Kept ks s0 (read i k t).2.2)
    (hks : Nat.land ks 165681233 = 165681233) (hk : Kept ks s0 s) : Kept ks s0 (State.fetchOver s home die n edges read).2.2 := by
  unfold State.fetchOver
  split
  · exact hf _ _ _ hk
  · dsimp only
    have h := kept_foldl_run (l := runsOf (fun i => !goneAt home die edges true i) n)
      (f := fun (a : List Gran × Nat × State) r => if r.1 then
        let (l, c, s) := read r.2.1 r.2.2 a.2.2
        (a.1 ++ l, if a.2.1 = 0 then c else a.2.1, s)
      else (a.1 ++ poisonGrans r.2.2, a.2.1, a.2.2))
      (fun a r h => by dsimp only; split; exacts [hf _ _ _ h, h]) (a := ([], 0, _))
      (State.discards_kept (home := home) (die := die) (n := n) (edges := edges) (cv rfl hks)
        (State.countHeaders_kept (on := fun e => (List.range n).any fun i => (die i).any (between home · e)) (l := edges) (cv rfl hks) hk))
    split
    · exact State.crossEdges_kept (cv rfl hks) h
    · exact State.crossEdges_kept (cv rfl hks) h

theorem kept_foldl_pair {α β : Type} {ks : Nat} {s0 : State} {l : List α} {f : β × State → α → β × State}
    (hf : ∀ a x, Kept ks s0 a.2 → Kept ks s0 (f a x).2) {a : β × State} (h : Kept ks s0 a.2) : Kept ks s0 (l.foldl f a).2 := by
  induction l generalizing a with
  | nil => exact h
  | cons x t ih => exact ih (hf a x h)

theorem State.carryOver_kept {ks : Nat} {s0 s : State} {home : Nat} {die : Nat → Option Nat} {l : List Gran} {edges : List EdgeErr}
    {put : Nat → List Gran → State → Nat × State} (hf : ∀ i l t, Kept ks s0 t → Kept ks s0 (put i l t).2)
    (hks : Nat.land ks 165681233 = 165681233) (hk : Kept ks s0 s) : Kept ks s0 (State.carryOver s home die l edges put).2 := by
  unfold State.carryOver
  split
  · exact hf _ _ _ hk
  · dsimp only
    refine kept_foldl_pair ?_ ?_
    · intro a r h; exact hf _ _ _ h
    exact State.crossEdges_kept (cv rfl hks) (State.discards_kept (cv rfl hks) (State.countHeaders_kept (cv rfl hks) hk))

theorem State.sendOver_kept {ks : Nat} {s0 : State} {s : State} {src dst : Nat} {l : List Gran} {edges : List EdgeErr} (hks : Nat.land ks 165681233 = 165681233) (hk : Kept ks s0 s) :
    Kept ks s0 (State.sendOver s src dst l edges).2 := by
  unfold State.sendOver
  repeat' first
    | with_reducible assumption
    | with_reducible refine State.countHeaders_kept (cv rfl hks) ?_
    | with_reducible refine State.crossEdges_kept (cv rfl hks) ?_
    | with_reducible refine State.raise_kept (cv rfl hks) ?_
    | with_reducible refine kept_pair (by with_reducible assumption) ?_
    | dsimp only
    | with_reducible intro _
    | split

theorem State.readOver_kept {ks : Nat} {s0 : State} {s : State} {w : Who} {ctx va n : Nat} {bad : List Blemish} {edges : List EdgeErr} (hks : Nat.land ks 166205521 = 166205521) (hk : Kept ks s0 s) :
    Kept ks s0 (State.readOver s w ctx va n bad edges).2.2 := by
  unfold State.readOver
  repeat' first
    | with_reducible assumption
    | with_reducible refine State.devRead_kept (cv rfl hks) ?_
    | with_reducible refine State.fetchOver_kept (fun _ _ _ _ => ?_) (cv rfl hks) ?_
    | with_reducible refine State.meetDev_kept (cv rfl hks) ?_

theorem State.mergeRead_kept {ks : Nat} {s0 : State} {s : State} {q : Req} {mask : BitVec 256} {upset : List Upset} (hks : Nat.land ks 166205521 = 166205521) (hk : Kept ks s0 s) :
    Kept ks s0 (State.mergeRead s q mask upset) := by
  unfold State.mergeRead
  repeat' first
    | with_reducible assumption
    | with_reducible refine State.readUpsets_kept (cv rfl hks) ?_
    | dsimp only
    | with_reducible intro _
    | split

theorem State.agentAtomic_kept {ks : Nat} {s0 : State} {s : State} {q : Req} {op : Aop} {wide : Bool} {a b : Nat} {p : Bool} (hks : Nat.land ks 166205521 = 166205521) (hk : Kept ks s0 s) :
    Kept ks s0 (State.agentAtomic s q op wide a b p).2.2 := by
  unfold State.agentAtomic
  repeat' first
    | with_reducible assumption
    | with_reducible refine kept_getD ?_ ?_
    | with_reducible refine State.agentWrite_kept (cv rfl hks) ?_
    | with_reducible refine State.bump_kept (cv rfl hks) ?_
    | with_reducible refine kept_pair (by with_reducible assumption) ?_
    | dsimp only
    | with_reducible intro _
    | split

theorem State.scrubWord_kept {ks : Nat} {s0 : State} {s : State} {pc line : Nat} {u : Upset} (hks : Nat.land ks 166205521 = 166205521) (hk : Kept ks s0 s) :
    Kept ks s0 (State.scrubWord s pc line u) := by
  unfold State.scrubWord
  repeat' first
    | with_reducible assumption
    | with_reducible apply MemS.restore_imp
    | with_reducible exact fun c => MemS.Canonical.same c rfl
    | with_reducible refine State.bump_kept (cv rfl hks) ?_
    | with_reducible refine State.raise_kept (cv rfl hks) ?_
    | with_reducible refine State.setMem_kept (cv rfl hks) ?_ ?_
    | dsimp only
    | with_reducible exact fun w => smWf_set _ _ _ _ w
    | with_reducible exact fun w => smWf_map _ _ _ w
    | with_reducible exact fun w => ⟨w.1, smWf_set _ _ _ _ w.2.1, w.2.2⟩
    | with_reducible exact fun w => ⟨smWf_set _ _ _ _ w.1, w.2⟩
    | with_reducible exact fun w => ⟨w.1, smWf_set _ _ _ _ w.2⟩
    | with_reducible exact fun w => ⟨smWf_map _ _ _ w.1, w.2⟩
    | exact id
    | dsimp only
    | with_reducible intro _
    | split

theorem State.closeBlock_kept {ks : Nat} {s0 : State} {s : State} {b : TBlock} (hks : Nat.land ks 166205521 = 166205521) (hk : Kept ks s0 s) :
    Kept ks s0 (State.closeBlock s b) := by
  unfold State.closeBlock
  repeat' first
    | with_reducible assumption
    | with_reducible refine State.raise_kept (cv rfl hks) ?_
    | with_reducible refine State.storeBlock_kept (cv rfl hks) ?_

theorem State.flushAgents_kept {ks : Nat} {s0 s : State} (hks : Nat.land ks 166205521 = 166205521) (hk : Kept ks s0 s) : Kept ks s0 (State.flushAgents s) := by
  unfold State.flushAgents
  dsimp only
  refine State.setMem_kept (cv rfl hks) (fun c => (MemS.Canonical.foldl (fun _ _ h => h.putEntry) c).same rfl) ?_
  refine kept_foldl (fun _ _ h => ?_) (State.setMem_kept (cv rfl hks) (fun c => c.same rfl) hk)
  split
  · exact State.storeBlock_kept (cv rfl hks) h
  · exact State.closeBlock_kept (cv rfl hks) h

theorem State.ownRefused_kept {ks : Nat} {s0 : State} {s : State} {ch : Nat} (hks : Nat.land ks 1 = 1) (hk : Kept ks s0 s) :
    Kept ks s0 (State.ownRefused s ch) := by
  unfold State.ownRefused
  repeat' first
    | with_reducible assumption
    | with_reducible refine State.regErr_kept (cv rfl hks) ?_
    | with_reducible refine State.setBit_kept (cv rfl hks) ?_

theorem State.assignCh_kept {ks : Nat} {s0 : State} {s : State} {ch : Nat} {w : Word} (hks : Nat.land ks 524289 = 524289) (hk : Kept ks s0 s) :
    Kept ks s0 (State.assignCh s ch w) := by
  unfold State.assignCh
  repeat' first
    | with_reducible assumption
    | with_reducible exact fun c => MemS.Canonical.same c rfl
    | with_reducible refine State.putRw_kept (cv rfl hks) ?_
    | with_reducible refine State.setMem_kept (cv rfl hks) ?_ ?_

theorem State.writeChOwn_kept {ks : Nat} {s0 : State} {s : State} {ch : Nat} {w : Word} (hks : Nat.land ks 524289 = 524289) (hk : Kept ks s0 s) :
    Kept ks s0 (State.writeChOwn s ch w) := by
  unfold State.writeChOwn
  repeat' first
    | with_reducible assumption
    | with_reducible exact fun c => MemS.Canonical.same c rfl
    | with_reducible refine State.assignCh_kept (cv rfl hks) ?_
    | with_reducible refine State.ownRefused_kept (cv rfl hks) ?_
    | with_reducible refine State.putRw_kept (cv rfl hks) ?_
    | with_reducible refine State.setMem_kept (cv rfl hks) ?_ ?_
    | with_reducible refine State.setReg_kept (cv rfl hks) ?_
    | dsimp only
    | with_reducible exact fun w => smWf_set _ _ _ _ w
    | with_reducible exact fun w => smWf_map _ _ _ w
    | with_reducible exact fun w => ⟨w.1, smWf_set _ _ _ _ w.2.1, w.2.2⟩
    | with_reducible exact fun w => ⟨smWf_set _ _ _ _ w.1, w.2⟩
    | with_reducible exact fun w => ⟨w.1, smWf_set _ _ _ _ w.2⟩
    | with_reducible exact fun w => ⟨smWf_map _ _ _ w.1, w.2⟩
    | exact id
    | dsimp only
    | with_reducible intro _
    | split

theorem State.wayRefused_kept {ks : Nat} {s0 : State} {s : State} {g : RG} {i : Nat} (hks : Nat.land ks 1 = 1) (hk : Kept ks s0 s) :
    Kept ks s0 (State.wayRefused s g i) := by
  unfold State.wayRefused
  repeat' first
    | with_reducible assumption
    | with_reducible refine State.regErr_kept (cv rfl hks) ?_
    | with_reducible refine State.setBit_kept (cv rfl hks) ?_

theorem State.writeWay_kept {ks : Nat} {s0 : State} {s : State} {g : RG} {i k die way : Nat} {w : Word} (hks : Nat.land ks 524289 = 524289) (hk : Kept ks s0 s) :
    Kept ks s0 (State.writeWay s g i k die way w) := by
  unfold State.writeWay
  repeat' first
    | with_reducible assumption
    | with_reducible exact fun c => MemS.Canonical.same c rfl
    | with_reducible refine State.wayRefused_kept (cv rfl hks) ?_
    | with_reducible refine State.setMem_kept (cv rfl hks) ?_ ?_
    | with_reducible refine State.setReg_kept (cv rfl hks) ?_
    | dsimp only
    | with_reducible exact fun w => smWf_set _ _ _ _ w
    | with_reducible exact fun w => smWf_map _ _ _ w
    | with_reducible exact fun w => ⟨w.1, smWf_set _ _ _ _ w.2.1, w.2.2⟩
    | with_reducible exact fun w => ⟨smWf_set _ _ _ _ w.1, w.2⟩
    | with_reducible exact fun w => ⟨w.1, smWf_set _ _ _ _ w.2⟩
    | with_reducible exact fun w => ⟨smWf_map _ _ _ w.1, w.2⟩
    | exact id
    | dsimp only
    | with_reducible intro _
    | split

theorem State.writeWays_kept {ks : Nat} {s0 : State} {s : State} {g : RG} {die q : Nat} {w : Word} (hks : Nat.land ks 524289 = 524289) (hk : Kept ks s0 s) :
    Kept ks s0 (State.writeWays s g die q w) := by
  unfold State.writeWays
  repeat' first
    | with_reducible assumption
    | with_reducible refine kept_foldl (fun _ _ _ => ?_) ?_
    | with_reducible refine State.writeWay_kept (cv rfl hks) ?_

theorem State.writeTgCtrl_kept {ks : Nat} {s0 : State} {s : State} {w : Word} (hks : Nat.land ks 524288 = 524288) (hk : Kept ks s0 s) :
    Kept ks s0 (State.writeTgCtrl s w) := by
  unfold State.writeTgCtrl
  repeat' first
    | with_reducible assumption
    | with_reducible refine State.setTg_kept (cv rfl hks) ?_
    | dsimp only
    | with_reducible intro _
    | split

theorem State.tgEvent_kept {ks : Nat} {s0 : State} {s : State} {pc line : Nat} {o : Decoded} (hks : Nat.land ks 165681233 = 165681233) (hk : Kept ks s0 s) :
    Kept ks s0 (State.tgEvent s pc line o) := by
  unfold State.tgEvent
  repeat' first
    | with_reducible assumption
    | with_reducible refine State.bump_kept (cv rfl hks) ?_
    | with_reducible refine State.raiseAs_kept (cv rfl hks) ?_
    | with_reducible refine State.setArea_kept (cv rfl hks) ?_
    | dsimp only
    | with_reducible intro _
    | split

theorem TgRun.read_kept {ks : Nat} {s0 : State} {r : TgRun} {t : TgS} {ch k pc j : Nat} {u : List TgUpset} (hks : Nat.land ks 165681233 = 165681233)
    (hk : Kept ks s0 r.st) : Kept ks s0 (TgRun.read r t ch k pc j u).st := by
  unfold TgRun.read
  dsimp only
  split <;> exact State.tgEvent_kept (cv rfl hks) hk

theorem TgRun.writeLine_kept {ks : Nat} {s0 : State} {r : TgRun} {t : TgS} {ch k : Nat} (hks : Nat.land ks 524288 = 524288)
    (hk : Kept ks s0 r.st) : Kept ks s0 (TgRun.writeLine r t ch k).st :=
  State.setMem_kept (cv rfl hks) (fun c => MemS.Canonical.foldl (fun _ _ h => h.tgWrite) c) hk

theorem TgRun.readLine_kept {ks : Nat} {s0 : State} {r : TgRun} {t : TgS} {ch k : Nat} {u : List TgUpset} (hks : Nat.land ks 165681233 = 165681233)
    (hk : Kept ks s0 r.st) : Kept ks s0 (TgRun.readLine r t ch k u).st := kept_run (fun _ _ h => TgRun.read_kept (cv rfl hks) h) hk

theorem TgRun.pass_kept {ks : Nat} {s0 : State} {r : TgRun} {t : TgS} {ch lines : Nat} {u : List TgUpset} (hks : Nat.land ks 166205521 = 166205521)
    (hk : Kept ks s0 r.st) : Kept ks s0 (TgRun.pass r t ch lines u).st := by
  have hr : ∀ r : TgRun, ∀ k : Nat, Kept ks s0 r.st → Kept ks s0 (TgRun.readLine r t ch k u).st := fun _ _ h => TgRun.readLine_kept (cv rfl hks) h
  have hw : ∀ r : TgRun, ∀ k : Nat, Kept ks s0 r.st → Kept ks s0 (TgRun.writeLine r t ch k).st := fun _ _ h => TgRun.writeLine_kept (cv rfl hks) h
  unfold TgRun.pass
  dsimp only
  split
  · exact kept_run hr (kept_run hw hk)
  · exact kept_run hw hk
  · exact kept_run hr hk
  · exact kept_run (fun r k h => hr _ k (hw r k h)) hk

end Sys2Proof.Machine
end

