-- ==== Sys2Proof/Laws/KeptFlags.lean ====
section
/-! SUPPORT. What the definitions of Machine/Flags.lean keep. -/

namespace Sys2Proof.Machine

open Sys2Proof Host

theorem State.writeEvents_kept {ks : Nat} {s0 : State} {s : State} {g : RG} {i : Nat} {w hwset : Word} (hks : Nat.land ks 1 = 1) (hk : Kept ks s0 s) :
    Kept ks s0 (State.writeEvents s g i w hwset) := by
  unfold State.writeEvents
  repeat' first
    | with_reducible assumption
    | with_reducible refine State.setReg_kept (cv rfl hks) ?_

end Sys2Proof.Machine
end

