-- ==== Sys2Proof/Laws/KeptImages.lean ====
section
/-! SUPPORT. What the definitions of Machine/Images.lean keep. -/

namespace Sys2Proof.Machine

open Sys2Proof Host

theorem State.readTables_kept {ks : Nat} {s0 : State} {s : State} {p ctx : Nat} {n : Nat} {bad : List Blemish} (hks : Nat.land ks 166205521 = 166205521) (hk : Kept ks s0 s) :
    Kept ks s0 (State.readTables s p ctx n bad).2 := by
  unfold State.readTables
  repeat' first
    | with_reducible assumption
    | with_reducible refine kept_getD ?_ ?_
    | with_reducible refine State.devRead_kept (cv rfl hks) ?_
    | with_reducible refine State.meetDev_kept (cv rfl hks) ?_
    | with_reducible refine kept_pair3 (by with_reducible assumption) ?_
    | dsimp only
    | with_reducible intro _
    | split

theorem State.tablesFrom_kept {ks : Nat} {s0 : State} {s : State} {p ctx : Nat} {im : Image} {bad : List Blemish} {a0 : List (Nat × Nat)} (hks : Nat.land ks 166205521 = 166205521) (hk : Kept ks s0 s) :
    Kept ks s0 (State.tablesFrom s p ctx im bad a0).2 := by
  induction a0 generalizing s p ctx im bad with
  | nil =>
    unfold State.tablesFrom
    repeat' first
      | with_reducible assumption
  | cons x t ih =>
    unfold State.tablesFrom
    repeat' first
      | with_reducible assumption
      | with_reducible refine State.readTables_kept (cv rfl hks) ?_
      | with_reducible refine kept_pair (by with_reducible assumption) ?_
      | with_reducible apply ih
      | dsimp only
      | with_reducible intro _
      | split

theorem State.checkImage_kept {ks : Nat} {s0 : State} {s : State} {x : Sub} {l : List Gran} {bad : List Blemish} (hks : Nat.land ks 166205521 = 166205521) (hk : Kept ks s0 s) :
    Kept ks s0 (State.checkImage s x l bad).2 := by
  unfold State.checkImage
  repeat' first
    | with_reducible assumption
    | with_reducible refine State.tablesFrom_kept (cv rfl hks) ?_
    | with_reducible refine kept_pair (by with_reducible assumption) ?_
    | dsimp only
    | with_reducible intro _
    | split

theorem State.endWith_kept {ks : Nat} {s0 : State} {s : State} {x : Sub} {code detail : Nat} (hks : Nat.land ks 128 = 128) (hk : Kept ks s0 s) :
    Kept ks s0 (State.endWith s x code detail) := by
  unfold State.endWith
  repeat' first
    | with_reducible assumption
    | with_reducible refine State.setSub_kept (cv rfl hks) ?_

theorem State.setPending_kept {ks : Nat} {s0 : State} {s : State} {p : Nat} {q : Pending} (hks : Nat.land ks 144 = 144) (hk : Kept ks s0 s) :
    Kept ks s0 (State.setPending s p q) := by
  unfold State.setPending
  repeat' first
    | with_reducible assumption
    | with_reducible refine State.endWith_kept (cv rfl hks) ?_
    | with_reducible refine State.setPart_kept (cv rfl hks) ?_
    | dsimp only
    | with_reducible intro _
    | split

theorem State.withdrawArray_kept {ks : Nat} {s0 : State} {s : State} {a : Nat} (hks : Nat.land ks 2048 = 2048) (hk : Kept ks s0 s) :
    Kept ks s0 (State.withdrawArray s a) := by
  unfold State.withdrawArray
  repeat' first
    | with_reducible assumption
    | with_reducible refine State.setArray_kept (cv rfl hks) ?_

theorem State.judgeImage_kept {ks : Nat} {s0 : State} {s : State} {p : Nat} (hks : Nat.land ks 16 = 16) (hk : Kept ks s0 s) :
    Kept ks s0 (State.judgeImage s p) := by
  unfold State.judgeImage
  repeat' first
    | with_reducible assumption
    | with_reducible refine State.setPart_kept (cv rfl hks) ?_
    | dsimp only
    | with_reducible intro _
    | split

theorem State.switchImage_kept {ks : Nat} {s0 : State} {s : State} {p : Nat} (hks : Nat.land ks 16 = 16) (hk : Kept ks s0 s) :
    Kept ks s0 (State.switchImage s p) := by
  unfold State.switchImage
  repeat' first
    | with_reducible assumption
    | with_reducible refine State.setPart_kept (cv rfl hks) ?_
    | dsimp only
    | with_reducible intro _
    | split

theorem State.wakeArrays_kept {ks : Nat} {s0 : State} {s : State} (hks : Nat.land ks 2064 = 2064) (hk : Kept ks s0 s) :
    Kept ks s0 (State.wakeArrays s) := by
  unfold State.wakeArrays
  repeat' first
    | with_reducible assumption
    | with_reducible refine kept_foldl1 (fun _ _ _ => ?_) ?_
    | with_reducible refine kept_foldl (fun _ _ _ => ?_) ?_
    | with_reducible refine State.judgeImage_kept (cv rfl hks) ?_
    | with_reducible refine State.withdrawArray_kept (cv rfl hks) ?_
    | dsimp only
    | with_reducible intro _
    | split

end Sys2Proof.Machine
end

