-- ==== Sys2Proof/Laws/KeptAdmission.lean ====
section
/-! SUPPORT. What the definitions of Machine/Admission.lean keep. -/

namespace Sys2Proof.Machine

open Sys2Proof Host

theorem State.accept_kept {ks : Nat} {s0 : State} {s : State} {x : Sub} {f : Found} (hks : Nat.land ks 165986257 = 165986257) (hk : Kept ks s0 s) :
    Kept ks s0 (State.accept s x f) := by
  unfold State.accept
  repeat' first
    | with_reducible assumption
    | with_reducible refine State.hostRead_kept (cv rfl hks) ?_
    | with_reducible refine State.setSub_kept (cv rfl hks) ?_
    | with_reducible refine State.emit_kept (cv rfl hks) ?_
    | with_reducible refine State.setNextId_kept (cv rfl hks) ?_
    | with_reducible refine State.setReads_kept (cv rfl hks) ?_
    | with_reducible refine State.setSlots_kept (cv rfl hks) ?_
    | with_reducible refine State.setUpd_kept (cv rfl hks) ?_
    | with_reducible refine kept_pair (by with_reducible assumption) ?_
    | dsimp only
    | with_reducible intro _
    | split

theorem State.hostCheck_kept {ks : Nat} {s0 : State} {s : State} {ring seq ph ctx addr len : Nat} {f : FaultRec} (hks : Nat.land ks 165722321 = 165722321) (hk : Kept ks s0 s) :
    Kept ks s0 (State.hostCheck s ring seq ph ctx addr len f).2 := by
  unfold State.hostCheck
  repeat' first
    | with_reducible assumption
    | with_reducible refine State.charge_kept (cv rfl hks) ?_
    | dsimp only
    | with_reducible intro _
    | split

theorem State.hostPoison_kept {ks : Nat} {s0 : State} {s : State} {ctx part : Nat} {l : List Gran} (hks : Nat.land ks 165681233 = 165681233) (hk : Kept ks s0 s) :
    Kept ks s0 (State.hostPoison s ctx part l) := by
  unfold State.hostPoison
  repeat' first
    | with_reducible assumption
    | with_reducible refine State.raise_kept (cv rfl hks) ?_
    | dsimp only
    | with_reducible intro _
    | split

theorem State.readList_kept {ks : Nat} {s0 : State} {s : State} {x : Sub} {list : List Gran} (hks : Nat.land ks 165723857 = 165723857) (hk : Kept ks s0 s) :
    Kept ks s0 (State.readList s x list).2 := by
  unfold State.readList
  repeat' first
    | with_reducible assumption
    | with_reducible refine State.fencedAccess_kept (cv rfl hks) ?_
    | with_reducible refine State.hostCheck_kept (cv rfl hks) ?_
    | with_reducible refine State.hostPoison_kept (cv rfl hks) ?_
    | with_reducible refine State.hostRead_kept (cv rfl hks) ?_
    | with_reducible refine State.raise_kept (cv rfl hks) ?_
    | with_reducible refine State.emit_kept (cv rfl hks) ?_
    | with_reducible refine State.setNextId_kept (cv rfl hks) ?_
    | with_reducible refine kept_pair (by with_reducible assumption) ?_
    | dsimp only
    | with_reducible intro _
    | split

end Sys2Proof.Machine
end

