-- ==== Sys2Proof/Laws/KeptSlots.lean ====
section
/-! SUPPORT. What the definitions of Machine/Slots.lean keep. -/

namespace Sys2Proof.Machine

open Sys2Proof Host

theorem State.holdOp_kept {ks : Nat} {s0 : State} {s : State} {o : OpAt} {cyc source : Nat} (hks : Nat.land ks 67117056 = 67117056) (hk : Kept ks s0 s) :
    Kept ks s0 (State.holdOp s o cyc source) := by
  unfold State.holdOp
  repeat' first
    | with_reducible assumption
    | with_reducible refine State.note_kept (cv rfl hks) ?_
    | with_reducible refine State.setEng_kept (cv rfl hks) ?_
    | dsimp only
    | with_reducible intro _
    | split

theorem State.issue_kept {ks : Nat} {s0 : State} {s : State} {o : OpAt} {cyc free : Nat} (hks : Nat.land ks 8192 = 8192) (hk : Kept ks s0 s) :
    Kept ks s0 (State.issue s o cyc free) := by
  unfold State.issue
  repeat' first
    | with_reducible assumption
    | with_reducible refine State.setEng_kept (cv rfl hks) ?_

theorem State.afterCharge_kept {ks : Nat} {s0 : State} {s : State} {r : OpRef} {opcode phase : Nat} (hks : Nat.land ks 67108864 = 67108864) (hk : Kept ks s0 s) :
    Kept ks s0 (State.afterCharge s r opcode phase) := by
  unfold State.afterCharge
  repeat' first
    | with_reducible assumption
    | with_reducible refine State.note_kept (cv rfl hks) ?_
    | dsimp only
    | with_reducible intro _
    | split

theorem State.endInstance_kept {ks : Nat} {s0 : State} {s : State} {ring seq : Nat} (hks : Nat.land ks 165723857 = 165723857) (hk : Kept ks s0 s) :
    Kept ks s0 (State.endInstance s ring seq) := by
  unfold State.endInstance
  repeat' first
    | with_reducible assumption
    | with_reducible refine State.finish_kept (cv rfl hks) ?_
    | dsimp only
    | with_reducible intro _
    | split

theorem State.endStep_kept {ks : Nat} {s0 : State} {s : State} {ring seq step : Nat} (hks : Nat.land ks 128 = 128) (hk : Kept ks s0 s) :
    Kept ks s0 (State.endStep s ring seq step) := by
  unfold State.endStep
  repeat' first
    | with_reducible assumption
    | with_reducible refine State.setSub_kept (cv rfl hks) ?_
    | dsimp only
    | with_reducible intro _
    | split

theorem State.absorb_kept {ks : Nat} {s0 : State} {s : State} {core e step slip : Nat} (hks : Nat.land ks 83886080 = 83886080) (hk : Kept ks s0 s) :
    Kept ks s0 (State.absorb s core e step slip) := by
  unfold State.absorb
  repeat' first
    | with_reducible assumption
    | with_reducible refine State.bump_kept (cv rfl hks) ?_
    | with_reducible refine State.note_kept (cv rfl hks) ?_
    | dsimp only
    | with_reducible intro _
    | split

theorem State.judgeSlips_kept {ks : Nat} {s0 : State} {s : State} {x : Sub} {im : Image} {st : ImgStep} {step cyc ph : Nat} (hks : Nat.land ks 232831185 = 232831185) (hk : Kept ks s0 s) :
    Kept ks s0 (State.judgeSlips s x im st step cyc ph) := by
  unfold State.judgeSlips
  repeat' first
    | with_reducible assumption
    | with_reducible refine kept_foldl1 (fun _ _ _ => ?_) ?_
    | with_reducible refine kept_foldl (fun _ _ _ => ?_) ?_
    | with_reducible refine State.absorb_kept (cv rfl hks) ?_
    | with_reducible refine State.charge_kept (cv rfl hks) ?_
    | dsimp only
    | with_reducible intro _
    | split

end Sys2Proof.Machine
end

