-- ==== Sys2Proof/Laws/KeptMatrix.lean ====
section
/-! SUPPORT. What the definitions of Machine/Matrix.lean keep. -/

namespace Sys2Proof.Machine

open Sys2Proof Host

theorem State.meetSram_kept {ks : Nat} {s0 : State} {s : State} {ctx : Nat} {reads : List Acc} {l : List Blemish} (hks : Nat.land ks 166205521 = 166205521) (hk : Kept ks s0 s) :
    Kept ks s0 (State.meetSram s ctx reads l) := by
  unfold State.meetSram
  repeat' first
    | with_reducible assumption
    | with_reducible refine kept_foldl (fun _ _ _ => ?_) ?_
    | with_reducible refine State.meet_kept (cv rfl hks) ?_
    | dsimp only
    | with_reducible intro _
    | split

end Sys2Proof.Machine
end

