-- ==== Sys2Proof/Laws/KeptCores.lean ====
section
/-! SUPPORT. What the definitions of Machine/Cores.lean keep. -/

namespace Sys2Proof.Machine

open Sys2Proof Host

theorem MemS.Canonical.setTag {m : MemS} {core tile t : Nat} (h : m.Canonical) : (m.setTag core tile t).Canonical :=
  h.setTags (smWf_set _ _ _ _ h.tags)

theorem MemS.setTag_imp {q_ : Prop} {m : MemS} {core tile t : Nat} (h : q_ → m.Canonical) : q_ → (m.setTag core tile t).Canonical := fun x => MemS.Canonical.setTag (h x)

theorem MemS.Canonical.putRow {m : MemS} {core tile row : Nat} {r : PRow} (h : m.Canonical) : (m.putRow core tile row r).Canonical := h.writeGrans

theorem MemS.putRow_imp {q_ : Prop} {m : MemS} {core tile row : Nat} {r : PRow} (h : q_ → m.Canonical) : q_ → (m.putRow core tile row r).Canonical := fun x => MemS.Canonical.putRow (h x)

theorem MemS.Canonical.poisonTile {m : MemS} {core tile : Nat} (h : m.Canonical) : (m.poisonTile core tile).Canonical :=
  MemS.Canonical.foldl (fun _ _ h => h.markGran) h

theorem MemS.poisonTile_imp {q_ : Prop} {m : MemS} {core tile : Nat} (h : q_ → m.Canonical) : q_ → (m.poisonTile core tile).Canonical := fun x => MemS.Canonical.poisonTile (h x)

theorem MemS.Canonical.putRows {m : MemS} {core tile : Nat} {acc fp : Bool} {i : Nat} {l : List PRow} (h : m.Canonical) :
    (m.putRows core tile acc fp i l).1.Canonical := by
  induction l generalizing m i with
  | nil => exact h
  | cons r t ih => unfold MemS.putRows; dsimp only; exact ih h.putRow

theorem MemS.putRows_imp {q_ : Prop} {m : MemS} {core tile : Nat} {acc fp : Bool} {i : Nat} {l : List PRow} (h : q_ → m.Canonical) : q_ → (m.putRows core tile acc fp i l).1.Canonical := fun x => MemS.Canonical.putRows (h x)

theorem MemS.Canonical.tagSpan {m : MemS} {core : Nat} {p : PassS} {w : List PRow} {fail : Bool} {kind : Nat} (h : m.Canonical) :
    (m.tagSpan core p w fail kind).Canonical :=
  MemS.Canonical.foldl (fun _ _ h => h.setTag) h

theorem MemS.tagSpan_imp {q_ : Prop} {m : MemS} {core : Nat} {p : PassS} {w : List PRow} {fail : Bool} {kind : Nat} (h : q_ → m.Canonical) : q_ → (m.tagSpan core p w fail kind).Canonical := fun x => MemS.Canonical.tagSpan (h x)

theorem MemS.Canonical.toTb {m : MemS} {core tile rows tb : Nat} (h : m.Canonical) : (m.toTb core tile rows tb).Canonical := h.writeGrans

theorem MemS.toTb_imp {q_ : Prop} {m : MemS} {core tile rows tb : Nat} (h : q_ → m.Canonical) : q_ → (m.toTb core tile rows tb).Canonical := fun x => MemS.Canonical.toTb (h x)

theorem State.ordinalFault_kept {ks : Nat} {s0 : State} {s : State} {o : OpAt} {e cyc role : Nat} {z : Nat × Nat × Nat × Nat × Nat × Nat} (hks : Nat.land ks 71303168 = 71303168) (hk : Kept ks s0 s) :
    Kept ks s0 (State.ordinalFault s o e cyc role z) := by
  unfold State.ordinalFault
  repeat' first
    | with_reducible assumption
    | with_reducible refine State.chargeAt_kept (cv rfl hks) ?_
    | with_reducible refine State.note_kept (cv rfl hks) ?_

theorem State.feederPoison_kept {ks : Nat} {s0 : State} {s : State} {o : OpAt} {e cyc : Nat} (hks : Nat.land ks 4194304 = 4194304) (hk : Kept ks s0 s) :
    Kept ks s0 (State.feederPoison s o e cyc) := by
  unfold State.feederPoison
  repeat' first
    | with_reducible assumption
    | with_reducible refine State.chargeAt_kept (cv rfl hks) ?_

theorem State.feederFaults_kept {ks : Nat} {s0 : State} {s : State} {o : OpAt} {e cyc role : Nat} {at_ : Nat → Nat} {poison : Option Nat} {mis : Option (Nat × Nat × Nat × Nat × Nat × Nat)} (hks : Nat.land ks 232831185 = 232831185) (hk : Kept ks s0 s) :
    Kept ks s0 (State.feederFaults s o e cyc role at_ poison mis) := by
  unfold State.feederFaults
  repeat' first
    | with_reducible assumption
    | with_reducible refine State.duesTo_kept (cv rfl hks) ?_
    | with_reducible refine State.feederPoison_kept (cv rfl hks) ?_
    | with_reducible refine State.ordinalFault_kept (cv rfl hks) ?_
    | dsimp only
    | with_reducible intro _
    | split

theorem State.beginPass_kept {ks : Nat} {s0 : State} {s : State} {o : OpAt} {e : Nat} {a : ArrayS} {d : OperandD} {cyc : Nat} {faults : List CellFault} (hks : Nat.land ks 232831185 = 232831185) (hk : Kept ks s0 s) :
    Kept ks s0 (State.beginPass s o e a d cyc faults) := by
  unfold State.beginPass
  repeat' first
    | with_reducible assumption
    | with_reducible refine State.feederFaults_kept (cv rfl hks) ?_
    | with_reducible refine State.issue_kept (cv rfl hks) ?_
    | with_reducible refine State.setArray_kept (cv rfl hks) ?_

theorem State.requestReplay_kept {ks : Nat} {s0 : State} {s : State} {core e ph : Nat} {p : PassS} (hks : Nat.land ks 165722321 = 165722321) (hk : Kept ks s0 s) :
    Kept ks s0 (State.requestReplay s core e ph p) := by
  unfold State.requestReplay
  repeat' first
    | with_reducible assumption
    | with_reducible refine State.charge_kept (cv rfl hks) ?_
    | with_reducible refine State.raise_kept (cv rfl hks) ?_
    | with_reducible refine State.setCore_kept (cv rfl hks) ?_
    | dsimp only
    | with_reducible intro _
    | split

theorem State.failSeed_kept {ks : Nat} {s0 : State} {s : State} {a seed : Nat} (hks : Nat.land ks 16777216 = 16777216) (hk : Kept ks s0 s) :
    Kept ks s0 (State.failSeed s a seed) := by
  unfold State.failSeed
  repeat' first
    | with_reducible assumption
    | with_reducible refine State.setArea_kept (cv rfl hks) ?_

theorem State.afterClean_kept {ks : Nat} {s0 : State} {s : State} {core e code : Nat} (hks : Nat.land ks 165681233 = 165681233) (hk : Kept ks s0 s) :
    Kept ks s0 (State.afterClean s core e code) := by
  unfold State.afterClean
  repeat' first
    | with_reducible assumption
    | with_reducible refine State.classUnit_kept (cv rfl hks) ?_
    | dsimp only
    | with_reducible intro _
    | split

theorem State.retag_kept {ks : Nat} {s0 : State} {s : State} {core : Nat} {tiles : List Nat} (hks : Nat.land ks 2048 = 2048) (hk : Kept ks s0 s) :
    Kept ks s0 (State.retag s core tiles) := by
  unfold State.retag
  repeat' first
    | with_reducible assumption
    | with_reducible refine kept_foldl1 (fun _ _ _ => ?_) ?_
    | with_reducible refine kept_foldl (fun _ _ _ => ?_) ?_
    | with_reducible refine State.setArray_kept (cv rfl hks) ?_

theorem State.passVerdict_kept {ks : Nat} {s0 : State} {s : State} {core e ph : Nat} {p : PassS} (hks : Nat.land ks 233355473 = 233355473) (hk : Kept ks s0 s) :
    Kept ks s0 (State.passVerdict s core e ph p) := by
  unfold State.passVerdict
  repeat' first
    | with_reducible assumption
    | with_reducible apply MemS.poisonTile_imp
    | with_reducible apply MemS.putRows_imp
    | with_reducible apply MemS.tagSpan_imp
    | with_reducible refine MemS.imp_pair (by with_reducible assumption) ?_
    | with_reducible apply MemS.foldl_imp
    | with_reducible exact fun c => MemS.Canonical.same c rfl
    | with_reducible refine kept_foldl1 (fun _ _ _ => ?_) ?_
    | with_reducible refine kept_foldl (fun _ _ _ => ?_) ?_
    | with_reducible refine State.afterClean_kept (cv rfl hks) ?_
    | with_reducible refine State.bump_kept (cv rfl hks) ?_
    | with_reducible refine State.requestReplay_kept (cv rfl hks) ?_
    | with_reducible refine State.note_kept (cv rfl hks) ?_
    | with_reducible refine State.setArray_kept (cv rfl hks) ?_
    | with_reducible refine State.setMem_kept (cv rfl hks) ?_ ?_
    | dsimp only
    | with_reducible exact fun w => smWf_set _ _ _ _ w
    | with_reducible exact fun w => smWf_map _ _ _ w
    | with_reducible exact fun w => ⟨w.1, smWf_set _ _ _ _ w.2.1, w.2.2⟩
    | with_reducible exact fun w => ⟨smWf_set _ _ _ _ w.1, w.2⟩
    | with_reducible exact fun w => ⟨w.1, smWf_set _ _ _ _ w.2⟩
    | with_reducible exact fun w => ⟨smWf_map _ _ _ w.1, w.2⟩
    | exact id
    | dsimp only
    | with_reducible intro _
    | split

theorem State.markClean_kept {ks : Nat} {s0 : State} {s : State} {core e : Nat} (hks : Nat.land ks 16777216 = 16777216) (hk : Kept ks s0 s) :
    Kept ks s0 (State.markClean s core e) := by
  unfold State.markClean
  repeat' first
    | with_reducible assumption
    | with_reducible refine State.toMram_kept (cv rfl hks) ?_
    | with_reducible refine State.setUnit_kept (cv rfl hks) ?_

theorem State.replayVerdict_kept {ks : Nat} {s0 : State} {s : State} {core ph : Nat} {q : ReplayS} (hks : Nat.land ks 166246609 = 166246609) (hk : Kept ks s0 s) :
    Kept ks s0 (State.replayVerdict s core ph q) := by
  unfold State.replayVerdict
  repeat' first
    | with_reducible assumption
    | with_reducible apply MemS.setTag_imp
    | with_reducible apply MemS.putRow_imp
    | with_reducible apply MemS.foldl_imp
    | with_reducible exact fun c => MemS.Canonical.same c rfl
    | with_reducible refine kept_foldl1 (fun _ _ _ => ?_) ?_
    | with_reducible refine kept_foldl (fun _ _ _ => ?_) ?_
    | with_reducible refine kept_getD ?_ ?_
    | with_reducible refine State.afterClean_kept (cv rfl hks) ?_
    | with_reducible refine State.bump_kept (cv rfl hks) ?_
    | with_reducible refine State.charge_kept (cv rfl hks) ?_
    | with_reducible refine State.markClean_kept (cv rfl hks) ?_
    | with_reducible refine State.raise_kept (cv rfl hks) ?_
    | with_reducible refine State.retag_kept (cv rfl hks) ?_
    | with_reducible refine State.setCore_kept (cv rfl hks) ?_
    | with_reducible refine State.setMem_kept (cv rfl hks) ?_ ?_
    | dsimp only
    | with_reducible exact fun w => smWf_set _ _ _ _ w
    | with_reducible exact fun w => smWf_map _ _ _ w
    | with_reducible exact fun w => ⟨w.1, smWf_set _ _ _ _ w.2.1, w.2.2⟩
    | with_reducible exact fun w => ⟨smWf_set _ _ _ _ w.1, w.2⟩
    | with_reducible exact fun w => ⟨w.1, smWf_set _ _ _ _ w.2⟩
    | with_reducible exact fun w => ⟨smWf_map _ _ _ w.1, w.2⟩
    | exact id
    | dsimp only
    | with_reducible intro _
    | split

end Sys2Proof.Machine
end

