-- ==== Sys2Proof/Laws/KeptVector.lean ====
section
/-! SUPPORT. What the definitions of Machine/Vector.lean keep. -/

namespace Sys2Proof.Machine

open Sys2Proof Host

theorem MemS.Canonical.putElem {m : MemS} {r : VecRec} {core nib w x : Nat} (h : m.Canonical) : (m.putElem r core nib w x).Canonical := by
  unfold MemS.putElem; dsimp only
  split <;> exact h.writeRaw

theorem MemS.putElem_imp {q_ : Prop} {m : MemS} {r : VecRec} {core nib w x : Nat} (h : q_ → m.Canonical) : q_ → (m.putElem r core nib w x).Canonical := fun x => MemS.Canonical.putElem (h x)

theorem MemS.Canonical.markD {m : MemS} {r : VecRec} {core : Nat} {t : SMap (Nat × Bool)} (h : m.Canonical) : (m.markD r core t).Canonical := by
  refine MemS.Canonical.foldl (fun m g h => ?_) h
  dsimp only
  split
  · exact h.markGran
  · split
    · exact h.markGran
    · exact h

theorem MemS.markD_imp {q_ : Prop} {m : MemS} {r : VecRec} {core : Nat} {t : SMap (Nat × Bool)} (h : q_ → m.Canonical) : q_ → (m.markD r core t).Canonical := fun x => MemS.Canonical.markD (h x)

theorem VecD.run_canonical {v : VecD} {m : MemS} {core : Nat} (h : m.Canonical) : (v.run m core).1.Canonical := by
  unfold VecD.run
  split
  · exact h
  · exact MemS.Canonical.markD (MemS.Canonical.foldl (fun _ _ h => h.putElem) h)

theorem VecD.run_imp {q_ : Prop} {v : VecD} {m : MemS} {core : Nat} (h : q_ → m.Canonical) : q_ → (v.run m core).1.Canonical := fun x => VecD.run_canonical (h x)

theorem State.veIssue_kept {ks : Nat} {s0 : State} {s : State} {o : OpAt} {v : VecD} {ph cyc : Nat} (hks : Nat.land ks 166246609 = 166246609) (hk : Kept ks s0 s) :
    Kept ks s0 (State.veIssue s o v ph cyc) := by
  unfold State.veIssue
  repeat' first
    | with_reducible assumption
    | with_reducible refine MemS.imp_pair (by with_reducible assumption) ?_
    | with_reducible apply VecD.run_imp
    | with_reducible exact fun c => MemS.Canonical.same c rfl
    | with_reducible refine State.bump_kept (cv rfl hks) ?_
    | with_reducible refine State.chargeOnce_kept (cv rfl hks) ?_
    | with_reducible refine State.issue_kept (cv rfl hks) ?_
    | with_reducible refine State.setCore_kept (cv rfl hks) ?_
    | with_reducible refine State.setMem_kept (cv rfl hks) ?_ ?_
    | dsimp only
    | with_reducible exact fun w => smWf_set _ _ _ _ w
    | with_reducible exact fun w => smWf_map _ _ _ w
    | with_reducible exact fun w => ⟨w.1, smWf_set _ _ _ _ w.2.1, w.2.2⟩
    | with_reducible exact fun w => ⟨smWf_set _ _ _ _ w.1, w.2⟩
    | with_reducible exact fun w => ⟨w.1, smWf_set _ _ _ _ w.2⟩
    | with_reducible exact fun w => ⟨smWf_map _ _ _ w.1, w.2⟩
    | exact id
    | dsimp only
    | with_reducible intro _
    | split

end Sys2Proof.Machine
end

