-- ==== Sys2Proof/Laws/KeptHosts.lean ====
section
/-! SUPPORT. What the definitions of Machine/Hosts.lean keep. -/

namespace Sys2Proof.Machine

open Sys2Proof Host

theorem State.sendRead_kept {ks : Nat} {s0 : State} {s : State} {purpose : ReadFor} {h ring seq ph part ctx addr len : Nat} (hks : Nat.land ks 165723857 = 165723857) (hk : Kept ks s0 s) :
    Kept ks s0 (State.sendRead s purpose h ring seq ph part ctx addr len).2 := by
  unfold State.sendRead
  repeat' first
    | with_reducible assumption
    | with_reducible refine State.fencedAccess_kept (cv rfl hks) ?_
    | with_reducible refine State.hostRead_kept (cv rfl hks) ?_
    | with_reducible refine State.raise_kept (cv rfl hks) ?_
    | with_reducible refine State.emit_kept (cv rfl hks) ?_
    | with_reducible refine State.setNextId_kept (cv rfl hks) ?_
    | with_reducible refine State.setReads_kept (cv rfl hks) ?_
    | with_reducible refine kept_pair (by with_reducible assumption) ?_
    | dsimp only
    | with_reducible intro _
    | split

theorem State.hostRead_kept {ks : Nat} {s0 : State} {s : State} {purpose : ReadFor} {ring seq ph part ctx addr len : Nat} {f : FaultRec} (hks : Nat.land ks 165723857 = 165723857) (hk : Kept ks s0 s) :
    Kept ks s0 (State.hostRead s purpose ring seq ph part ctx addr len f).2 := by
  unfold State.hostRead
  repeat' first
    | with_reducible assumption
    | with_reducible refine State.hostCheck_kept (cv rfl hks) ?_
    | with_reducible refine State.sendRead_kept (cv rfl hks) ?_
    | with_reducible refine kept_pair (by with_reducible assumption) ?_
    | dsimp only
    | with_reducible intro _
    | split

theorem State.usesPort_kept {ks : Nat} {s0 : State} {s : State} {ring seq h : Nat} (hks : Nat.land ks 128 = 128) (hk : Kept ks s0 s) :
    Kept ks s0 (State.usesPort s ring seq h) := by
  unfold State.usesPort
  repeat' first
    | with_reducible assumption
    | with_reducible refine State.setSub_kept (cv rfl hks) ?_
    | dsimp only
    | with_reducible intro _
    | split

theorem State.hostPost_kept {ks : Nat} {s0 : State} {s : State} {ring seq ph part ctx addr cut : Nat} {l : List Gran} {f : FaultRec} (hks : Nat.land ks 165722321 = 165722321) (hk : Kept ks s0 s) :
    Kept ks s0 (State.hostPost s ring seq ph part ctx addr cut l f) := by
  unfold State.hostPost
  repeat' first
    | with_reducible assumption
    | with_reducible refine State.charge_kept (cv rfl hks) ?_
    | with_reducible refine State.emitHost_kept (cv rfl hks) ?_
    | with_reducible refine State.fencedAccess_kept (cv rfl hks) ?_
    | with_reducible refine State.usesPort_kept (cv rfl hks) ?_
    | dsimp only
    | with_reducible intro _
    | split

end Sys2Proof.Machine
end

