-- ==== Sys2Proof/Laws/KeptDma.lean ====
section
/-! SUPPORT. What the definitions of Machine/Dma.lean keep. -/

namespace Sys2Proof.Machine

open Sys2Proof Host

theorem State.comeIn_kept {ks : Nat} {s0 : State} {s : State} {x : Xfer} {d : DmaD} {va n : Nat} {l : List Gran} (hks : Nat.land ks 165681233 = 165681233) (hk : Kept ks s0 s) :
    Kept ks s0 (State.comeIn s x d va n l).2 := by
  unfold State.comeIn
  repeat' first
    | with_reducible assumption
    | with_reducible refine State.crossEdges_kept (cv rfl hks) ?_

theorem State.goOut_kept {ks : Nat} {s0 : State} {s : State} {x : Xfer} {d : DmaD} {l : List Gran} (hks : Nat.land ks 165681233 = 165681233) (hk : Kept ks s0 s) :
    Kept ks s0 (State.goOut s x d l).2 := by
  unfold State.goOut
  repeat' first
    | with_reducible assumption
    | with_reducible refine State.crossEdges_kept (cv rfl hks) ?_

theorem State.xferSource_kept {ks : Nat} {s0 : State} {s : State} {x : Xfer} {d : DmaD} (hks : Nat.land ks 165681233 = 165681233) (hk : Kept ks s0 s) :
    Kept ks s0 (State.xferSource s x d).2.2 := by
  unfold State.xferSource
  repeat' first
    | with_reducible assumption
    | with_reducible refine kept_getD ?_ ?_
    | with_reducible refine State.devReadBy_kept (cv rfl hks) ?_
    | with_reducible refine State.raise_kept (cv rfl hks) ?_
    | with_reducible refine kept_pair3 (by with_reducible assumption) ?_
    | dsimp only
    | with_reducible intro _
    | split

theorem State.blockFault_kept {ks : Nat} {s0 : State} {s : State} {x : Xfer} {ph num code : Nat} {f : FaultRec} {later : Bool} (hks : Nat.land ks 232831185 = 232831185) (hk : Kept ks s0 s) :
    Kept ks s0 (State.blockFault s x ph num code f later) := by
  unfold State.blockFault
  repeat' first
    | with_reducible assumption
    | with_reducible refine State.bump_kept (cv rfl hks) ?_
    | with_reducible refine State.charge_kept (cv rfl hks) ?_
    | with_reducible refine State.raise_kept (cv rfl hks) ?_
    | with_reducible refine State.note_kept (cv rfl hks) ?_
    | dsimp only
    | with_reducible intro _
    | split

theorem State.expandAll_kept {ks : Nat} {s0 : State} {s : State} {x : Xfer} {d : DmaD} {ph : Nat} {f : FaultRec} {slot : Codebook} {a0 : Bool} {a1 : Nat} {a2 : Nat} {a3 : List BlockIdx} (hks : Nat.land ks 232831185 = 232831185) (hk : Kept ks s0 s) :
    Kept ks s0 (State.expandAll s x d ph f slot a0 a1 a2 a3).2 := by
  induction a3 generalizing s x d ph f slot a0 a1 a2 with
  | nil =>
    unfold State.expandAll
    repeat' first
      | with_reducible assumption
  | cons x t ih =>
    unfold State.expandAll
    repeat' first
      | with_reducible assumption
      | with_reducible refine State.blockFault_kept (cv rfl hks) ?_
      | with_reducible refine State.charge_kept (cv rfl hks) ?_
      | with_reducible refine State.comeIn_kept (cv rfl hks) ?_
      | with_reducible refine State.devReadBy_kept (cv rfl hks) ?_
      | with_reducible refine State.raise_kept (cv rfl hks) ?_
      | with_reducible refine kept_pair (by with_reducible assumption) ?_
      | with_reducible refine kept_pair3 (by with_reducible assumption) ?_
      | with_reducible apply ih
      | dsimp only
      | with_reducible intro _
      | split

theorem State.loadBook_kept {ks : Nat} {s0 : State} {s : State} {x : Xfer} {d : DmaD} {ph : Nat} {l : List Gran} {f : FaultRec} (hks : Nat.land ks 165738705 = 165738705) (hk : Kept ks s0 s) :
    Kept ks s0 (State.loadBook s x d ph l f) := by
  unfold State.loadBook
  repeat' first
    | with_reducible assumption
    | with_reducible refine State.charge_kept (cv rfl hks) ?_
    | with_reducible refine State.setBook_kept (cv rfl hks) ?_
    | dsimp only
    | with_reducible intro _
    | split

theorem State.xferStore_kept {ks : Nat} {s0 : State} {s : State} {x : Xfer} {d : DmaD} {ph : Nat} {l : List Gran} {f : FaultRec} (hks : Nat.land ks 166262993 = 166262993) (hk : Kept ks s0 s) :
    Kept ks s0 (State.xferStore s x d ph l f).2 := by
  unfold State.xferStore
  repeat' first
    | with_reducible assumption
    | with_reducible apply MemS.writeGrans_imp
    | with_reducible exact fun c => MemS.Canonical.same c rfl
    | with_reducible refine State.devWriteBy_kept (cv rfl hks) ?_
    | with_reducible refine State.hostPost_kept (cv rfl hks) ?_
    | with_reducible refine State.loadBook_kept (cv rfl hks) ?_
    | with_reducible refine State.raise_kept (cv rfl hks) ?_
    | with_reducible refine State.sharedWrite_kept (cv rfl hks) ?_
    | with_reducible refine State.setCore_kept (cv rfl hks) ?_
    | with_reducible refine State.setMem_kept (cv rfl hks) ?_ ?_
    | dsimp only
    | with_reducible exact fun w => smWf_set _ _ _ _ w
    | with_reducible exact fun w => smWf_map _ _ _ w
    | with_reducible exact fun w => ⟨w.1, smWf_set _ _ _ _ w.2.1, w.2.2⟩
    | with_reducible exact fun w => ⟨smWf_set _ _ _ _ w.1, w.2⟩
    | with_reducible exact fun w => ⟨w.1, smWf_set _ _ _ _ w.2⟩
    | with_reducible exact fun w => ⟨smWf_map _ _ _ w.1, w.2⟩
    | exact id
    | with_reducible refine kept_pair (by with_reducible assumption) ?_
    | dsimp only
    | with_reducible intro _
    | split

theorem State.chargePage_kept {ks : Nat} {s0 : State} {s : State} {o : OpAt} {ph ctx va n : Nat} {write : Bool} (hks : Nat.land ks 165722321 = 165722321) (hk : Kept ks s0 s) :
    Kept ks s0 (State.chargePage s o ph ctx va n write) := by
  unfold State.chargePage
  repeat' first
    | with_reducible assumption
    | with_reducible refine kept_foldl (fun _ _ _ => ?_) ?_
    | with_reducible refine State.charge_kept (cv rfl hks) ?_
    | dsimp only
    | with_reducible intro _
    | split

theorem State.xferCharges_kept {ks : Nat} {s0 : State} {s : State} {o : OpAt} {d : DmaD} {ph : Nat} {idx : List BlockIdx} {bad : Option Nat} {dead : Bool} (hks : Nat.land ks 165738705 = 165738705) (hk : Kept ks s0 s) :
    Kept ks s0 (State.xferCharges s o d ph idx bad dead) := by
  unfold State.xferCharges
  repeat' first
    | with_reducible assumption
    | with_reducible refine kept_foldl (fun _ _ _ => ?_) ?_
    | with_reducible refine kept_foldl2 (fun _ _ _ => ?_) ?_
    | with_reducible refine kept_foldl3 (fun _ _ _ => ?_) ?_
    | with_reducible refine State.charge_kept (cv rfl hks) ?_
    | with_reducible refine State.chargePage_kept (cv rfl hks) ?_
    | with_reducible refine State.hostCheck_kept (cv rfl hks) ?_
    | with_reducible refine State.setBook_kept (cv rfl hks) ?_
    | with_reducible refine kept_pair (by with_reducible assumption) ?_
    | dsimp only
    | with_reducible intro _
    | split

theorem State.addXfer_kept {ks : Nat} {s0 : State} {s : State} {d : DmaD} {x : Xfer} {idx : List BlockIdx} {flaws : List Blemish} (hks : Nat.land ks 166238289 = 166238289) (hk : Kept ks s0 s) :
    Kept ks s0 (State.addXfer s d x idx flaws) := by
  unfold State.addXfer
  repeat' first
    | with_reducible assumption
    | with_reducible refine State.countHeaders_kept (cv rfl hks) ?_
    | with_reducible refine State.meetHbm_kept (cv rfl hks) ?_
    | with_reducible refine State.raise_kept (cv rfl hks) ?_
    | with_reducible refine State.setXfers_kept (cv rfl hks) ?_
    | dsimp only
    | with_reducible intro _
    | split

theorem State.startXfer_kept {ks : Nat} {s0 : State} {s : State} {o : OpAt} {d : DmaD} {cyc ph : Nat} {flaws : List Blemish} {edges : List EdgeErr} (hks : Nat.land ks 166264529 = 166264529) (hk : Kept ks s0 s) :
    Kept ks s0 (State.startXfer s o d cyc ph flaws edges) := by
  unfold State.startXfer
  repeat' first
    | with_reducible assumption
    | with_reducible refine State.addXfer_kept (cv rfl hks) ?_
    | with_reducible refine State.fillFirst_kept (cv rfl hks) ?_
    | with_reducible refine State.hostRead_kept (cv rfl hks) ?_
    | with_reducible refine State.meetSram_kept (cv rfl hks) ?_
    | with_reducible refine State.xferCharges_kept (cv rfl hks) ?_
    | with_reducible refine kept_pair (by with_reducible assumption) ?_
    | dsimp only
    | with_reducible intro _
    | split

theorem State.xferBytes_kept {ks : Nat} {s0 : State} {s : State} {x : Xfer} {d : DmaD} {ph : Nat} {f : FaultRec} (hks : Nat.land ks 232831185 = 232831185) (hk : Kept ks s0 s) :
    Kept ks s0 (State.xferBytes s x d ph f).2.2 := by
  unfold State.xferBytes
  repeat' first
    | with_reducible assumption
    | with_reducible refine State.comeIn_kept (cv rfl hks) ?_
    | with_reducible refine State.expandAll_kept (cv rfl hks) ?_
    | with_reducible refine State.xferSource_kept (cv rfl hks) ?_
    | with_reducible refine kept_pair (by with_reducible assumption) ?_
    | with_reducible refine kept_pair3 (by with_reducible assumption) ?_
    | dsimp only
    | with_reducible intro _
    | split

end Sys2Proof.Machine
end

