-- ==== Sys2Proof/Laws/KeptRegions.lean ====
section
/-! SUPPORT. What the definitions of Machine/Regions.lean keep. -/

namespace Sys2Proof.Machine

open Sys2Proof Host

theorem State.rgnRefused_kept {ks : Nat} {s0 : State} {s : State} {g : RG} {i : Nat} (hks : Nat.land ks 1 = 1) (hk : Kept ks s0 s) :
    Kept ks s0 (State.rgnRefused s g i) := by
  unfold State.rgnRefused
  repeat' first
    | with_reducible assumption
    | with_reducible refine State.regErr_kept (cv rfl hks) ?_
    | with_reducible refine State.setBit_kept (cv rfl hks) ?_

theorem State.writeRowlock_kept {ks : Nat} {s0 : State} {s : State} {i : Nat} {b : Bool} (hks : Nat.land ks 1 = 1) (hk : Kept ks s0 s) :
    Kept ks s0 (State.writeRowlock s i b) := by
  unfold State.writeRowlock
  repeat' first
    | with_reducible assumption
    | with_reducible refine State.rgnRefused_kept (cv rfl hks) ?_
    | with_reducible refine State.setReg_kept (cv rfl hks) ?_
    | dsimp only
    | with_reducible intro _
    | split

theorem State.writeRgnD_kept {ks : Nat} {s0 : State} {s : State} {i : Nat} {w : Word} (hks : Nat.land ks 1 = 1) (hk : Kept ks s0 s) :
    Kept ks s0 (State.writeRgnD s i w) := by
  unfold State.writeRgnD
  repeat' first
    | with_reducible assumption
    | with_reducible refine State.putRw_kept (cv rfl hks) ?_
    | with_reducible refine State.rgnRefused_kept (cv rfl hks) ?_
    | with_reducible refine State.writeRowlock_kept (cv rfl hks) ?_
    | with_reducible refine State.setReg_kept (cv rfl hks) ?_
    | dsimp only
    | with_reducible intro _
    | split

theorem State.writeRgn_kept {ks : Nat} {s0 : State} {s : State} {g : RG} {i : Nat} {w : Word} (hks : Nat.land ks 1 = 1) (hk : Kept ks s0 s) :
    Kept ks s0 (State.writeRgn s g i w) := by
  unfold State.writeRgn
  repeat' first
    | with_reducible assumption
    | with_reducible refine State.putRw_kept (cv rfl hks) ?_
    | with_reducible refine State.rgnRefused_kept (cv rfl hks) ?_
    | dsimp only
    | with_reducible intro _
    | split

end Sys2Proof.Machine
end

