-- ==== Sys2Proof/Laws/KeptMaps.lean ====
section
/-! SUPPORT. What the definitions of Machine/Maps.lean keep. -/

namespace Sys2Proof.Machine

open Sys2Proof Host

theorem State.ownWrite_canonical {s : State} {m : MemS} {a : Nat} {bs : List Byte} (h : m.Canonical) : (s.ownWrite m a bs).Canonical := by
  unfold State.ownWrite
  split
  · exact h.combine
  · exact h

theorem State.ownWrite_imp {q_ : Prop} {s : State} {m : MemS} {a : Nat} {bs : List Byte} (h : q_ → m.Canonical) : q_ → (s.ownWrite m a bs).Canonical := fun x => State.ownWrite_canonical (h x)

theorem State.ownZero_canonical {s : State} {m : MemS} {a n : Nat} (h : m.Canonical) : (s.ownZero m a n).Canonical :=
  MemS.Canonical.foldl (fun _ _ h => s.ownWrite_canonical h) h

theorem State.ownZero_imp {q_ : Prop} {s : State} {m : MemS} {a n : Nat} (h : q_ → m.Canonical) : q_ → (s.ownZero m a n).Canonical := fun x => State.ownZero_canonical (h x)

theorem foldl_fst_canonical {α β : Type} {f : MemS × β → α → MemS × β} {l : List α} (hf : ∀ p x, p.1.Canonical → (f p x).1.Canonical)
    {p : MemS × β} (h : p.1.Canonical) : (l.foldl f p).1.Canonical := by
  induction l generalizing p with
  | nil => exact h
  | cons x t ih => exact ih (hf p x h)

theorem State.addTables_canonical {s : State} {ctx va len leaf : Nat} {st : MemS × List PTable} (h : st.1.Canonical) :
    (s.addTables ctx va len leaf st).1.Canonical := by
  refine foldl_fst_canonical (fun p l h => ?_) h
  refine foldl_fst_canonical (fun p l h => ?_) h
  split
  · exact h
  · split
    · exact s.ownWrite_canonical (s.ownZero_canonical h)
    · exact h

theorem State.addTables_imp {q_ : Prop} {s : State} {ctx va len leaf : Nat} {st : MemS × List PTable} (h : q_ → st.1.Canonical) : q_ → (s.addTables ctx va len leaf st).1.Canonical := fun x => State.addTables_canonical (h x)

theorem State.putLeaves_canonical {s : State} {r : PageRun} {valid : Bool} {st : MemS × List PTable} (h : st.1.Canonical) :
    (s.putLeaves r valid st).1.Canonical := by
  refine MemS.Canonical.foldl (fun m i h => ?_) h
  split
  · exact s.ownWrite_canonical h
  · exact h

theorem State.putLeaves_imp {q_ : Prop} {s : State} {r : PageRun} {valid : Bool} {st : MemS × List PTable} (h : q_ → st.1.Canonical) : q_ → (s.putLeaves r valid st).1.Canonical := fun x => State.putLeaves_canonical (h x)

theorem State.dropTables_canonical {s : State} {pages : List PageRun} {ctx : Nat} {st : MemS × List PTable} (h : st.1.Canonical) :
    (s.dropTables pages ctx st).1.Canonical := by
  refine foldl_fst_canonical (fun p l h => ?_) h
  refine MemS.Canonical.foldl (fun m i h => ?_) h
  split
  · exact s.ownWrite_canonical h
  · exact h

theorem State.dropTables_imp {q_ : Prop} {s : State} {pages : List PageRun} {ctx : Nat} {st : MemS × List PTable} (h : q_ → st.1.Canonical) : q_ → (s.dropTables pages ctx st).1.Canonical := fun x => State.dropTables_canonical (h x)

theorem State.ctxRefused_kept {ks : Nat} {s0 : State} {s : State} {g : RG} {c : Nat} (hks : Nat.land ks 1 = 1) (hk : Kept ks s0 s) :
    Kept ks s0 (State.ctxRefused s g c) := by
  unfold State.ctxRefused
  repeat' first
    | with_reducible assumption
    | with_reducible refine State.regErr_kept (cv rfl hks) ?_
    | with_reducible refine State.setBit_kept (cv rfl hks) ?_

theorem State.dropCtx_kept {ks : Nat} {s0 : State} {s : State} {c : Nat} (hks : Nat.land ks 1572864 = 1572864) (hk : Kept ks s0 s) :
    Kept ks s0 (State.dropCtx s c) := by
  unfold State.dropCtx
  repeat' first
    | with_reducible assumption
    | with_reducible exact fun c => MemS.Canonical.same c rfl
    | with_reducible refine State.setMem_kept (cv rfl hks) ?_ ?_
    | with_reducible refine State.setXlt_kept (cv rfl hks) ?_ ?_
    | dsimp only
    | with_reducible exact fun w => smWf_set _ _ _ _ w
    | with_reducible exact fun w => smWf_map _ _ _ w
    | with_reducible exact fun w => ⟨w.1, smWf_set _ _ _ _ w.2.1, w.2.2⟩
    | with_reducible exact fun w => ⟨smWf_set _ _ _ _ w.1, w.2⟩
    | with_reducible exact fun w => ⟨w.1, smWf_set _ _ _ _ w.2⟩
    | with_reducible exact fun w => ⟨smWf_map _ _ _ w.1, w.2⟩
    | exact id

theorem State.writeCtxA_kept {ks : Nat} {s0 : State} {s : State} {c : Nat} {w : Word} (hks : Nat.land ks 1572865 = 1572865) (hk : Kept ks s0 s) :
    Kept ks s0 (State.writeCtxA s c w) := by
  unfold State.writeCtxA
  repeat' first
    | with_reducible assumption
    | with_reducible apply State.ownZero_imp
    | with_reducible exact fun c => MemS.Canonical.same c rfl
    | with_reducible refine State.ctxRefused_kept (cv rfl hks) ?_
    | with_reducible refine State.dropCtx_kept (cv rfl hks) ?_
    | with_reducible refine State.putRw_kept (cv rfl hks) ?_
    | with_reducible refine State.setCtxGen_kept (cv rfl hks) ?_
    | with_reducible refine State.setMem_kept (cv rfl hks) ?_ ?_
    | with_reducible refine State.setReg_kept (cv rfl hks) ?_
    | dsimp only
    | with_reducible exact fun w => smWf_set _ _ _ _ w
    | with_reducible exact fun w => smWf_map _ _ _ w
    | with_reducible exact fun w => ⟨w.1, smWf_set _ _ _ _ w.2.1, w.2.2⟩
    | with_reducible exact fun w => ⟨smWf_set _ _ _ _ w.1, w.2⟩
    | with_reducible exact fun w => ⟨w.1, smWf_set _ _ _ _ w.2⟩
    | with_reducible exact fun w => ⟨smWf_map _ _ _ w.1, w.2⟩
    | exact id
    | dsimp only
    | with_reducible intro _
    | split

theorem State.writeCtx_kept {ks : Nat} {s0 : State} {s : State} {g : RG} {c : Nat} {w : Word} (hks : Nat.land ks 1 = 1) (hk : Kept ks s0 s) :
    Kept ks s0 (State.writeCtx s g c w) := by
  unfold State.writeCtx
  repeat' first
    | with_reducible assumption
    | with_reducible refine State.ctxRefused_kept (cv rfl hks) ?_
    | with_reducible refine State.putRw_kept (cv rfl hks) ?_
    | dsimp only
    | with_reducible intro _
    | split

theorem State.writeSlq_kept {ks : Nat} {s0 : State} {s : State} {p : Nat} {w : Word} (hks : Nat.land ks 1 = 1) (hk : Kept ks s0 s) :
    Kept ks s0 (State.writeSlq s p w) := by
  unfold State.writeSlq
  repeat' first
    | with_reducible assumption
    | with_reducible refine kept_foldl (fun _ _ _ => ?_) ?_
    | with_reducible refine State.putRw_kept (cv rfl hks) ?_
    | with_reducible refine State.regErr_kept (cv rfl hks) ?_
    | with_reducible refine State.setBit_kept (cv rfl hks) ?_
    | dsimp only
    | with_reducible intro _
    | split

theorem State.pwinRefused_kept {ks : Nat} {s0 : State} {s : State} {g : RG} {i : Nat} (hks : Nat.land ks 1 = 1) (hk : Kept ks s0 s) :
    Kept ks s0 (State.pwinRefused s g i) := by
  unfold State.pwinRefused
  repeat' first
    | with_reducible assumption
    | with_reducible refine State.regErr_kept (cv rfl hks) ?_
    | with_reducible refine State.setBit_kept (cv rfl hks) ?_

theorem State.writePwinA_kept {ks : Nat} {s0 : State} {s : State} {i : Nat} {w : Word} (hks : Nat.land ks 1 = 1) (hk : Kept ks s0 s) :
    Kept ks s0 (State.writePwinA s i w) := by
  unfold State.writePwinA
  repeat' first
    | with_reducible assumption
    | with_reducible refine State.putRw_kept (cv rfl hks) ?_
    | with_reducible refine State.pwinRefused_kept (cv rfl hks) ?_
    | with_reducible refine State.setReg_kept (cv rfl hks) ?_
    | dsimp only
    | with_reducible intro _
    | split

theorem State.writePwin_kept {ks : Nat} {s0 : State} {s : State} {g : RG} {i : Nat} {w : Word} (hks : Nat.land ks 1 = 1) (hk : Kept ks s0 s) :
    Kept ks s0 (State.writePwin s g i w) := by
  unfold State.writePwin
  repeat' first
    | with_reducible assumption
    | with_reducible refine State.putRw_kept (cv rfl hks) ?_
    | with_reducible refine State.pwinRefused_kept (cv rfl hks) ?_
    | dsimp only
    | with_reducible intro _
    | split

theorem State.install_kept {ks : Nat} {s0 : State} {s : State} {ctx o : Nat} (hks : Nat.land ks 1572864 = 1572864) (hk : Kept ks s0 s) :
    Kept ks s0 (State.install s ctx o) := by
  unfold State.install
  repeat' first
    | with_reducible assumption
    | with_reducible apply State.addTables_imp
    | with_reducible apply State.putLeaves_imp
    | with_reducible exact fun c => MemS.Canonical.same c rfl
    | with_reducible refine State.setMem_kept (cv rfl hks) ?_ ?_
    | with_reducible refine State.setXlt_kept (cv rfl hks) ?_ ?_
    | dsimp only
    | with_reducible exact fun w => smWf_set _ _ _ _ w
    | with_reducible exact fun w => smWf_map _ _ _ w
    | with_reducible exact fun w => ⟨w.1, smWf_set _ _ _ _ w.2.1, w.2.2⟩
    | with_reducible exact fun w => ⟨smWf_set _ _ _ _ w.1, w.2⟩
    | with_reducible exact fun w => ⟨w.1, smWf_set _ _ _ _ w.2⟩
    | with_reducible exact fun w => ⟨smWf_map _ _ _ w.1, w.2⟩
    | exact id

theorem State.startWithdraw_kept {ks : Nat} {s0 : State} {s : State} {x : MapBy} {ctx : Nat} {op : Nat × Nat} {rest : List (Nat × Nat)} {failedOp : Option Nat} (hks : Nat.land ks 1572864 = 1572864) (hk : Kept ks s0 s) :
    Kept ks s0 (State.startWithdraw s x ctx op rest failedOp) := by
  unfold State.startWithdraw
  repeat' first
    | with_reducible assumption
    | with_reducible exact fun c => MemS.Canonical.same c rfl
    | with_reducible refine State.setCtxGen_kept (cv rfl hks) ?_
    | with_reducible refine State.setMem_kept (cv rfl hks) ?_ ?_
    | with_reducible refine State.setXlt_kept (cv rfl hks) ?_ ?_
    | dsimp only
    | with_reducible exact fun w => smWf_set _ _ _ _ w
    | with_reducible exact fun w => smWf_map _ _ _ w
    | with_reducible exact fun w => ⟨w.1, smWf_set _ _ _ _ w.2.1, w.2.2⟩
    | with_reducible exact fun w => ⟨smWf_set _ _ _ _ w.1, w.2⟩
    | with_reducible exact fun w => ⟨w.1, smWf_set _ _ _ _ w.2⟩
    | with_reducible exact fun w => ⟨smWf_map _ _ _ w.1, w.2⟩
    | exact id

theorem State.failMap_kept {ks : Nat} {s0 : State} {s : State} {ring seq op : Nat} {f : FaultRec} (hks : Nat.land ks 165722321 = 165722321) (hk : Kept ks s0 s) :
    Kept ks s0 (State.failMap s ring seq op f) := by
  unfold State.failMap
  repeat' first
    | with_reducible assumption
    | with_reducible refine State.charge_kept (cv rfl hks) ?_
    | with_reducible refine State.setSub_kept (cv rfl hks) ?_
    | dsimp only
    | with_reducible intro _
    | split

theorem State.endMap_kept {ks : Nat} {s0 : State} {s : State} {ring seq : Nat} {failedOp : Option Nat} (hks : Nat.land ks 165723857 = 165723857) (hk : Kept ks s0 s) :
    Kept ks s0 (State.endMap s ring seq failedOp) := by
  unfold State.endMap
  repeat' first
    | with_reducible assumption
    | with_reducible refine State.endWith_kept (cv rfl hks) ?_
    | with_reducible refine State.finish_kept (cv rfl hks) ?_
    | dsimp only
    | with_reducible intro _
    | split

theorem State.runOps_kept {ks : Nat} {s0 : State} {s : State} {x : MapBy} {ctx : Nat} {failedOp : Option Nat} {a0 : List (Nat × Nat)} (hks : Nat.land ks 167296721 = 167296721) (hk : Kept ks s0 s) :
    Kept ks s0 (State.runOps s x ctx failedOp a0) := by
  induction a0 generalizing s x ctx failedOp with
  | nil =>
    unfold State.runOps
    repeat' first
      | with_reducible assumption
      | with_reducible refine State.endMap_kept (cv rfl hks) ?_
  | cons x t ih =>
    unfold State.runOps
    repeat' first
      | with_reducible assumption
      | with_reducible refine State.endMap_kept (cv rfl hks) ?_
      | with_reducible refine State.install_kept (cv rfl hks) ?_
      | with_reducible refine State.startWithdraw_kept (cv rfl hks) ?_
      | with_reducible apply ih
      | dsimp only
      | with_reducible intro _
      | split

theorem State.setWithdraw_kept {ks : Nat} {s0 : State} {s : State} {w : Withdraw} (hks : Nat.land ks 1048576 = 1048576) (hk : Kept ks s0 s) :
    Kept ks s0 (State.setWithdraw s w) := by
  unfold State.setWithdraw
  repeat' first
    | with_reducible assumption
    | with_reducible refine State.setXlt_kept (cv rfl hks) ?_ ?_
    | dsimp only
    | with_reducible exact fun w => smWf_set _ _ _ _ w
    | with_reducible exact fun w => smWf_map _ _ _ w
    | with_reducible exact fun w => ⟨w.1, smWf_set _ _ _ _ w.2.1, w.2.2⟩
    | with_reducible exact fun w => ⟨smWf_set _ _ _ _ w.1, w.2⟩
    | with_reducible exact fun w => ⟨w.1, smWf_set _ _ _ _ w.2⟩
    | with_reducible exact fun w => ⟨smWf_map _ _ _ w.1, w.2⟩
    | exact id

theorem State.moveFloor_kept {ks : Nat} {s0 : State} {s : State} {w : Withdraw} (hks : Nat.land ks 1048576 = 1048576) (hk : Kept ks s0 s) :
    Kept ks s0 (State.moveFloor s w) := by
  unfold State.moveFloor
  repeat' first
    | with_reducible assumption
    | with_reducible refine State.setWithdraw_kept (cv rfl hks) ?_
    | with_reducible refine State.setCtxGen_kept (cv rfl hks) ?_

theorem State.endWithdraw_kept {ks : Nat} {s0 : State} {s : State} {w : Withdraw} (hks : Nat.land ks 167296721 = 167296721) (hk : Kept ks s0 s) :
    Kept ks s0 (State.endWithdraw s w) := by
  unfold State.endWithdraw
  repeat' first
    | with_reducible assumption
    | with_reducible apply State.putLeaves_imp
    | with_reducible apply State.dropTables_imp
    | with_reducible exact fun c => MemS.Canonical.same c rfl
    | with_reducible refine State.runOps_kept (cv rfl hks) ?_
    | with_reducible refine State.setCtxGen_kept (cv rfl hks) ?_
    | with_reducible refine State.setMem_kept (cv rfl hks) ?_ ?_
    | with_reducible refine State.setXlt_kept (cv rfl hks) ?_ ?_
    | dsimp only
    | with_reducible exact fun w => smWf_set _ _ _ _ w
    | with_reducible exact fun w => smWf_map _ _ _ w
    | with_reducible exact fun w => ⟨w.1, smWf_set _ _ _ _ w.2.1, w.2.2⟩
    | with_reducible exact fun w => ⟨smWf_set _ _ _ _ w.1, w.2⟩
    | with_reducible exact fun w => ⟨w.1, smWf_set _ _ _ _ w.2⟩
    | with_reducible exact fun w => ⟨smWf_map _ _ _ w.1, w.2⟩
    | exact id

end Sys2Proof.Machine
end

