-- ==== Sys2Proof/Laws/KeptLinks.lean ====
section
/-! SUPPORT. What the definitions of Machine/Links.lean keep. -/

namespace Sys2Proof.Machine

open Sys2Proof Host

/-- Whatever becomes of a frame, the machine is kept. -/
def RKept (ks : Nat) (s0 : State) (r : Receipt) : Prop := ∀ t, r = .dropped t ∨ r = .taken t → Kept ks s0 t

theorem rkept_dropped {ks : Nat} {s0 t : State} (h : Kept ks s0 t) : RKept ks s0 (.dropped t) := by
  rintro u (h' | h')
  · cases h'; exact h
  · cases h'

theorem rkept_taken {ks : Nat} {s0 t : State} (h : Kept ks s0 t) : RKept ks s0 (.taken t) := by
  rintro u (h' | h')
  · cases h'
  · cases h'; exact h

theorem kept_dropped {ks : Nat} {s0 t : State} {r : Receipt} (h : r = .dropped t) (hk : RKept ks s0 r) : Kept ks s0 t := hk t (.inl h)

theorem kept_taken {ks : Nat} {s0 t : State} {r : Receipt} (h : r = .taken t) (hk : RKept ks s0 r) : Kept ks s0 t := hk t (.inr h)

theorem State.countPort_kept {ks : Nat} {s0 : State} {s : State} {q off : Nat} (hks : Nat.land ks 16777216 = 16777216) (hk : Kept ks s0 s) :
    Kept ks s0 (State.countPort s q off) := by
  unfold State.countPort
  repeat' first
    | with_reducible assumption
    | with_reducible refine State.bump_kept (cv rfl hks) ?_

theorem State.tx_kept {ks : Nat} {s0 : State} {s : State} {q : Nat} {f : Frame} (hks : Nat.land ks 134217728 = 134217728) (hk : Kept ks s0 s) :
    Kept ks s0 (State.tx s q f) := by
  unfold State.tx
  repeat' first
    | with_reducible assumption
    | with_reducible refine State.emit_kept (cv rfl hks) ?_
    | dsimp only
    | with_reducible intro _
    | split

theorem State.setConn_kept {ks : Nat} {s0 : State} {s : State} {c : Conn} (hks : Nat.land ks 2097152 = 2097152) (hk : Kept ks s0 s) :
    Kept ks s0 (State.setConn s c) := by
  unfold State.setConn
  repeat' first
    | with_reducible assumption
    | with_reducible refine State.setFab_kept (cv rfl hks) ?_ ?_
    | dsimp only
    | with_reducible exact fun w => smWf_set _ _ _ _ w
    | with_reducible exact fun w => smWf_map _ _ _ w
    | with_reducible exact fun w => ⟨w.1, smWf_set _ _ _ _ w.2.1, w.2.2⟩
    | with_reducible exact fun w => ⟨smWf_set _ _ _ _ w.1, w.2⟩
    | with_reducible exact fun w => ⟨w.1, smWf_set _ _ _ _ w.2⟩
    | with_reducible exact fun w => ⟨smWf_map _ _ _ w.1, w.2⟩
    | exact id

theorem State.dropConn_kept {ks : Nat} {s0 : State} {s : State} {c : Conn} (hks : Nat.land ks 2097152 = 2097152) (hk : Kept ks s0 s) :
    Kept ks s0 (State.dropConn s c) := by
  unfold State.dropConn
  repeat' first
    | with_reducible assumption
    | with_reducible refine State.setFab_kept (cv rfl hks) ?_ ?_
    | dsimp only
    | with_reducible exact fun w => smWf_set _ _ _ _ w
    | with_reducible exact fun w => smWf_map _ _ _ w
    | with_reducible exact fun w => ⟨w.1, smWf_set _ _ _ _ w.2.1, w.2.2⟩
    | with_reducible exact fun w => ⟨smWf_set _ _ _ _ w.1, w.2⟩
    | with_reducible exact fun w => ⟨w.1, smWf_set _ _ _ _ w.2⟩
    | with_reducible exact fun w => ⟨smWf_map _ _ _ w.1, w.2⟩
    | exact id

theorem State.pump_kept {ks : Nat} {s0 : State} {s : State} {c : Conn} (hks : Nat.land ks 136314880 = 136314880) (hk : Kept ks s0 s) :
    Kept ks s0 (State.pump s c) := by
  unfold State.pump
  repeat' first
    | with_reducible assumption
    | with_reducible refine kept_foldl (fun _ _ _ => ?_) ?_
    | with_reducible refine State.setConn_kept (cv rfl hks) ?_
    | with_reducible refine State.tx_kept (cv rfl hks) ?_
    | dsimp only
    | with_reducible intro _
    | split

theorem State.sendOn_kept {ks : Nat} {s0 : State} {s : State} {q peer self_ : Nat} {fs : List Frame} (hks : Nat.land ks 136314880 = 136314880) (hk : Kept ks s0 s) :
    OKept ks s0 (fun x => x.2) (State.sendOn s q peer self_ fs) := by
  unfold State.sendOn
  repeat' first
    | with_reducible assumption
    | with_reducible refine State.pump_kept (cv rfl hks) ?_
    | with_reducible refine State.tx_kept (cv rfl hks) ?_
    | exact okept_none
    | with_reducible refine okept_some ?_
    | dsimp only
    | with_reducible intro _
    | split

theorem State.connFull_kept {ks : Nat} {s0 : State} {s : State} {q : Nat} (hks : Nat.land ks 165681233 = 165681233) (hk : Kept ks s0 s) :
    Kept ks s0 (State.connFull s q) := by
  unfold State.connFull
  repeat' first
    | with_reducible assumption
    | with_reducible refine State.raise_kept (cv rfl hks) ?_
    | with_reducible refine State.setBit_kept (cv rfl hks) ?_

theorem State.answer_kept {ks : Nat} {s0 : State} {s : State} {q peer self_ : Nat} {fs : List Frame} (hks : Nat.land ks 165681233 = 165681233) (hk : Kept ks s0 s) :
    Kept ks s0 (State.answer s q peer self_ fs) := by
  unfold State.answer
  repeat' first
    | with_reducible assumption
    | with_reducible refine State.connFull_kept (cv rfl hks) ?_
    | with_reducible refine State.raise_kept (cv rfl hks) ?_
    | with_reducible refine State.sendOn_kept (cv rfl hks) ?_
    | with_reducible refine kept_opt2 (by with_reducible assumption) ?_
    | dsimp only
    | with_reducible intro _
    | split

theorem State.sendRequest_kept {ks : Nat} {s0 : State} {s : State} {purpose : RemoteFor} {f peer part ctx issue : Nat} {timed : Bool} {fs : List Frame} (hks : Nat.land ks 136315905 = 136315905) (hk : Kept ks s0 s) :
    Kept ks s0 (State.sendRequest s purpose f peer part ctx issue timed fs).2 := by
  unfold State.sendRequest
  repeat' first
    | with_reducible assumption
    | with_reducible refine State.sendOn_kept (cv rfl hks) ?_
    | with_reducible refine State.setBit_kept (cv rfl hks) ?_
    | with_reducible refine State.setFab_kept (cv rfl hks) ?_ ?_
    | with_reducible refine State.setNextId_kept (cv rfl hks) ?_
    | dsimp only
    | with_reducible exact fun w => smWf_set _ _ _ _ w
    | with_reducible exact fun w => smWf_map _ _ _ w
    | with_reducible exact fun w => ⟨w.1, smWf_set _ _ _ _ w.2.1, w.2.2⟩
    | with_reducible exact fun w => ⟨smWf_set _ _ _ _ w.1, w.2⟩
    | with_reducible exact fun w => ⟨w.1, smWf_set _ _ _ _ w.2⟩
    | with_reducible exact fun w => ⟨smWf_map _ _ _ w.1, w.2⟩
    | exact id
    | with_reducible refine kept_opt2 (by with_reducible assumption) ?_
    | dsimp only
    | with_reducible intro _
    | split

theorem State.dropReq_kept {ks : Nat} {s0 : State} {s : State} {id : Nat} (hks : Nat.land ks 2097152 = 2097152) (hk : Kept ks s0 s) :
    Kept ks s0 (State.dropReq s id) := by
  unfold State.dropReq
  repeat' first
    | with_reducible assumption
    | with_reducible refine State.setFab_kept (cv rfl hks) ?_ ?_
    | dsimp only
    | with_reducible exact fun w => smWf_set _ _ _ _ w
    | with_reducible exact fun w => smWf_map _ _ _ w
    | with_reducible exact fun w => ⟨w.1, smWf_set _ _ _ _ w.2.1, w.2.2⟩
    | with_reducible exact fun w => ⟨smWf_set _ _ _ _ w.1, w.2⟩
    | with_reducible exact fun w => ⟨w.1, smWf_set _ _ _ _ w.2⟩
    | with_reducible exact fun w => ⟨smWf_map _ _ _ w.1, w.2⟩
    | exact id
    | dsimp only
    | with_reducible intro _

theorem State.refuseFrame_kept {ks : Nat} {s0 : State} {s : State} {q : Nat} (hks : Nat.land ks 16777216 = 16777216) (hk : Kept ks s0 s) :
    Kept ks s0 (State.refuseFrame s q) := by
  unfold State.refuseFrame
  repeat' first
    | with_reducible assumption
    | with_reducible refine State.countPort_kept (cv rfl hks) ?_

theorem State.badGrans_kept {ks : Nat} {s0 : State} {s : State} {q : Nat} {f : Frame} (hks : Nat.land ks 165681233 = 165681233) (hk : Kept ks s0 s) :
    Kept ks s0 (State.badGrans s q f) := by
  unfold State.badGrans
  repeat' first
    | with_reducible assumption
    | with_reducible refine kept_foldl (fun _ _ _ => ?_) ?_
    | with_reducible refine State.raise_kept (cv rfl hks) ?_

theorem State.wantHello_kept {ks : Nat} {s0 : State} {s : State} {q peer self_ : Nat} (hks : Nat.land ks 165681233 = 165681233) (hk : Kept ks s0 s) :
    Kept ks s0 (State.wantHello s q peer self_) := by
  unfold State.wantHello
  repeat' first
    | with_reducible assumption
    | with_reducible refine State.connFull_kept (cv rfl hks) ?_
    | with_reducible refine State.setConn_kept (cv rfl hks) ?_
    | with_reducible refine State.tx_kept (cv rfl hks) ?_
    | dsimp only
    | with_reducible intro _
    | split

theorem State.receive_kept {ks : Nat} {s0 : State} {s : State} {q : Nat} {f : Frame} (hks : Nat.land ks 165681233 = 165681233) (hk : Kept ks s0 s) :
    RKept ks s0 (State.receive s q f) := by
  unfold State.receive
  repeat' first
    | with_reducible assumption
    | with_reducible refine kept_getD ?_ ?_
    | with_reducible refine State.badGrans_kept (cv rfl hks) ?_
    | with_reducible refine State.pump_kept (cv rfl hks) ?_
    | with_reducible refine State.refuseFrame_kept (cv rfl hks) ?_
    | with_reducible refine State.wantHello_kept (cv rfl hks) ?_
    | with_reducible refine rkept_dropped ?_
    | with_reducible refine rkept_taken ?_
    | dsimp only
    | with_reducible intro _
    | split

end Sys2Proof.Machine
end

