-- ==== Sys2Proof/Laws/KeptExtents.lean ====
section
/-! SUPPORT. What the definitions of Machine/Extents.lean keep. -/

namespace Sys2Proof.Machine

open Sys2Proof Host

theorem State.extentLine_kept {ks : Nat} {s0 : State} {s : State} {g ctx : Nat} {tr : Nat → Bool → Except Nat (Nat × Nat)} {va : Nat} {upset : List Upset} (hks : Nat.land ks 166205521 = 166205521) (hk : Kept ks s0 s) :
    Kept ks s0 (State.extentLine s g ctx tr va upset).2.2 := by
  unfold State.extentLine
  repeat' first
    | with_reducible assumption
    | with_reducible refine State.agentRead_kept (cv rfl hks) ?_
    | with_reducible refine State.readUpsets_kept (cv rfl hks) ?_
    | with_reducible refine kept_pair3 (by with_reducible assumption) ?_
    | dsimp only
    | with_reducible intro _
    | split

theorem State.extentLines_kept {ks : Nat} {s0 : State} {s : State} {g ctx : Nat} {tr : Nat → Bool → Except Nat (Nat × Nat)} {va : Nat} {upset : List Upset} {i : Nat} {a0 : Nat} (hks : Nat.land ks 166205521 = 166205521) (hk : Kept ks s0 s) :
    Kept ks s0 (State.extentLines s g ctx tr va upset i a0).2.2 := by
  induction a0 generalizing s g ctx tr va upset i with
  | zero =>
    unfold State.extentLines
    repeat' first
      | with_reducible assumption
  | succ k ih =>
    unfold State.extentLines
    repeat' first
      | with_reducible assumption
      | with_reducible refine State.extentLine_kept (cv rfl hks) ?_
      | with_reducible refine kept_pair3 (by with_reducible assumption) ?_
      | with_reducible apply ih

theorem State.countCache_kept {ks : Nat} {s0 : State} {s : State} {g way off : Nat} (hks : Nat.land ks 16777216 = 16777216) (hk : Kept ks s0 s) :
    Kept ks s0 (State.countCache s g way off) := by
  unfold State.countCache
  repeat' first
    | with_reducible assumption
    | with_reducible refine State.bump_kept (cv rfl hks) ?_

theorem State.meetCache_kept {ks : Nat} {s0 : State} {s : State} {l : RLine} {a0 : List Upset} (hks : Nat.land ks 166205521 = 166205521) (hk : Kept ks s0 s) :
    Kept ks s0 (State.meetCache s l a0).2 := by
  induction a0 generalizing s l with
  | nil =>
    unfold State.meetCache
    repeat' first
      | with_reducible assumption
  | cons x t ih =>
    unfold State.meetCache
    repeat' first
      | with_reducible assumption
      | with_reducible exact fun c => MemS.Canonical.same c rfl
      | with_reducible refine kept_getD ?_ ?_
      | with_reducible refine State.bump_kept (cv rfl hks) ?_
      | with_reducible refine State.countCache_kept (cv rfl hks) ?_
      | with_reducible refine State.raise_kept (cv rfl hks) ?_
      | with_reducible refine State.setMem_kept (cv rfl hks) ?_ ?_
      | dsimp only
      | with_reducible exact fun w => smWf_set _ _ _ _ w
      | with_reducible exact fun w => smWf_map _ _ _ w
      | with_reducible exact fun w => ⟨w.1, smWf_set _ _ _ _ w.2.1, w.2.2⟩
      | with_reducible exact fun w => ⟨smWf_set _ _ _ _ w.1, w.2⟩
      | with_reducible exact fun w => ⟨w.1, smWf_set _ _ _ _ w.2⟩
      | with_reducible exact fun w => ⟨smWf_map _ _ _ w.1, w.2⟩
      | exact id
      | with_reducible refine kept_pair (by with_reducible assumption) ?_
      | with_reducible apply ih
      | dsimp only
      | with_reducible intro _
      | split

theorem State.lookLine_kept {ks : Nat} {s0 : State} {s : State} {r : CRow} {line : Nat} {again : Bool} {bad : List Upset} (hks : Nat.land ks 166205521 = 166205521) (hk : Kept ks s0 s) :
    Kept ks s0 (State.lookLine s r line again bad).2 := by
  unfold State.lookLine
  repeat' first
    | with_reducible assumption
    | with_reducible exact fun c => MemS.Canonical.same c rfl
    | with_reducible refine State.countCache_kept (cv rfl hks) ?_
    | with_reducible refine State.meetCache_kept (cv rfl hks) ?_
    | with_reducible refine State.setMem_kept (cv rfl hks) ?_ ?_
    | dsimp only
    | with_reducible exact fun w => smWf_set _ _ _ _ w
    | with_reducible exact fun w => smWf_map _ _ _ w
    | with_reducible exact fun w => ⟨w.1, smWf_set _ _ _ _ w.2.1, w.2.2⟩
    | with_reducible exact fun w => ⟨smWf_set _ _ _ _ w.1, w.2⟩
    | with_reducible exact fun w => ⟨w.1, smWf_set _ _ _ _ w.2⟩
    | with_reducible exact fun w => ⟨smWf_map _ _ _ w.1, w.2⟩
    | exact id
    | with_reducible refine kept_pair (by with_reducible assumption) ?_
    | dsimp only
    | with_reducible intro _
    | split

theorem State.fillLine_kept {ks : Nat} {s0 : State} {s : State} {r : CRow} {line : Nat} {data : List Gran} (hks : Nat.land ks 524288 = 524288) (hk : Kept ks s0 s) :
    Kept ks s0 (State.fillLine s r line data) := by
  unfold State.fillLine
  repeat' first
    | with_reducible assumption
    | with_reducible exact fun c => MemS.Canonical.same c rfl
    | with_reducible refine State.setMem_kept (cv rfl hks) ?_ ?_
    | dsimp only
    | with_reducible exact fun w => smWf_set _ _ _ _ w
    | with_reducible exact fun w => smWf_map _ _ _ w
    | with_reducible exact fun w => ⟨w.1, smWf_set _ _ _ _ w.2.1, w.2.2⟩
    | with_reducible exact fun w => ⟨smWf_set _ _ _ _ w.1, w.2⟩
    | with_reducible exact fun w => ⟨w.1, smWf_set _ _ _ _ w.2⟩
    | with_reducible exact fun w => ⟨smWf_map _ _ _ w.1, w.2⟩
    | exact id
    | dsimp only
    | with_reducible intro _
    | split

theorem State.fillLines_kept {ks : Nat} {s0 : State} {s : State} {r : CRow} {l : List Gran} {i : Nat} {a0 : Nat} (hks : Nat.land ks 524288 = 524288) (hk : Kept ks s0 s) :
    Kept ks s0 (State.fillLines s r l i a0) := by
  induction a0 generalizing s r l i with
  | zero =>
    unfold State.fillLines
    repeat' first
      | with_reducible assumption
  | succ k ih =>
    unfold State.fillLines
    repeat' first
      | with_reducible assumption
      | with_reducible refine State.fillLine_kept (cv rfl hks) ?_
      | with_reducible apply ih
      | dsimp only
      | with_reducible intro _
      | split

theorem State.fillRow_kept {ks : Nat} {s0 : State} {s : State} {r : CRow} {l : List Gran} {n : Nat} (hks : Nat.land ks 524288 = 524288) (hk : Kept ks s0 s) :
    Kept ks s0 (State.fillRow s r l n) := by
  unfold State.fillRow
  repeat' first
    | with_reducible assumption
    | with_reducible exact fun c => MemS.Canonical.same c rfl
    | with_reducible refine State.fillLines_kept (cv rfl hks) ?_
    | with_reducible refine State.setMem_kept (cv rfl hks) ?_ ?_

theorem State.ageCache_kept {ks : Nat} {s0 : State} {s : State} (hks : Nat.land ks 524288 = 524288) (hk : Kept ks s0 s) :
    Kept ks s0 (State.ageCache s) := by
  unfold State.ageCache
  repeat' first
    | with_reducible assumption
    | with_reducible exact fun c => MemS.Canonical.same c rfl
    | with_reducible refine State.setMem_kept (cv rfl hks) ?_ ?_

end Sys2Proof.Machine
end

