-- ==== Sys2Proof/Laws/KeptGather.lean ====
section
/-! SUPPORT. What the definitions of Machine/Gather.lean keep. -/

namespace Sys2Proof.Machine

open Sys2Proof Host

theorem State.setGstep_kept {ks : Nat} {s0 : State} {s : State} {g : GStep} (hks : Nat.land ks 65536 = 65536) (hk : Kept ks s0 s) :
    Kept ks s0 (State.setGstep s g) := by
  unfold State.setGstep
  repeat' first
    | with_reducible assumption
    | with_reducible refine State.setGsteps_kept (cv rfl hks) ?_

theorem State.dropGstep_kept {ks : Nat} {s0 : State} {s : State} {r : StepRef} (hks : Nat.land ks 65536 = 65536) (hk : Kept ks s0 s) :
    Kept ks s0 (State.dropGstep s r) := by
  unfold State.dropGstep
  repeat' first
    | with_reducible assumption
    | with_reducible refine State.setGsteps_kept (cv rfl hks) ?_

theorem State.slotGrans_kept {ks : Nat} {s0 : State} {s : State} {w : Who} {x : Sub} {slot : Nat} {host : List Gran} {bad : List Blemish} {edges : List EdgeErr} (hks : Nat.land ks 166205521 = 166205521) (hk : Kept ks s0 s) :
    Kept ks s0 (State.slotGrans s w x slot host bad edges).2.2 := by
  unfold State.slotGrans
  repeat' first
    | with_reducible assumption
    | with_reducible refine State.readOver_kept (cv rfl hks) ?_
    | with_reducible refine kept_pair3 (by with_reducible assumption) ?_
    | dsimp only
    | with_reducible intro _
    | split

theorem State.takeRow_kept {ks : Nat} {s0 : State} {s : State} {g : GStep} {e : TableEntry} {key : GKey} {l : List Gran} (hks : Nat.land ks 165681233 = 165681233) (hk : Kept ks s0 s) :
    Kept ks s0 (State.takeRow s g e key l).2 := by
  unfold State.takeRow
  repeat' first
    | with_reducible assumption
    | with_reducible refine State.raise_kept (cv rfl hks) ?_
    | with_reducible refine State.setArea_kept (cv rfl hks) ?_
    | dsimp only
    | with_reducible intro _
    | split

theorem State.poisonRow_kept {ks : Nat} {s0 : State} {s : State} {g : GStep} {e : TableEntry} {key : GKey} {code : Nat} (hks : Nat.land ks 165722321 = 165722321) (hk : Kept ks s0 s) :
    Kept ks s0 (State.poisonRow s g e key code).2 := by
  unfold State.poisonRow
  repeat' first
    | with_reducible assumption
    | with_reducible refine State.charge_kept (cv rfl hks) ?_
    | with_reducible refine State.raise_kept (cv rfl hks) ?_
    | dsimp only
    | with_reducible intro _
    | split

theorem State.rowRefused_kept {ks : Nat} {s0 : State} {s : State} {g : GStep} {tr : Nat → Bool → Except Nat (Nat × Nat)} {va : Nat} {code n : Nat} (hks : Nat.land ks 165681233 = 165681233) (hk : Kept ks s0 s) :
    Kept ks s0 (State.rowRefused s g tr va code n) := by
  unfold State.rowRefused
  repeat' first
    | with_reducible assumption
    | with_reducible refine State.raise_kept (cv rfl hks) ?_
    | dsimp only
    | with_reducible intro _
    | split

theorem State.readRow_kept {ks : Nat} {s0 : State} {s : State} {g : GStep} {e : TableEntry} {key : GKey} {upset : List Upset} {edges : List EdgeErr} (hks : Nat.land ks 166205521 = 166205521) (hk : Kept ks s0 s) :
    Kept ks s0 (State.readRow s g e key upset edges).2 := by
  unfold State.readRow
  repeat' first
    | with_reducible assumption
    | with_reducible refine State.crossEdges_kept (cv rfl hks) ?_
    | with_reducible refine State.extentLines_kept (cv rfl hks) ?_
    | with_reducible refine State.fillRow_kept (cv rfl hks) ?_
    | with_reducible refine State.raise_kept (cv rfl hks) ?_
    | with_reducible refine State.rowRefused_kept (cv rfl hks) ?_
    | with_reducible refine State.takeRow_kept (cv rfl hks) ?_
    | with_reducible refine kept_pair (by with_reducible assumption) ?_
    | with_reducible refine kept_pair3 (by with_reducible assumption) ?_
    | dsimp only
    | with_reducible intro _
    | split

theorem State.lookRow_kept {ks : Nat} {s0 : State} {s : State} {r : CRow} {again : Nat → Bool} {bad : Nat → List Upset} {i : Nat} {a0 : Nat} (hks : Nat.land ks 166205521 = 166205521) (hk : Kept ks s0 s) :
    Kept ks s0 (State.lookRow s r again bad i a0).2 := by
  induction a0 generalizing s r again bad i with
  | zero =>
    unfold State.lookRow
    repeat' first
      | with_reducible assumption
  | succ k ih =>
    unfold State.lookRow
    repeat' first
      | with_reducible assumption
      | with_reducible refine State.lookLine_kept (cv rfl hks) ?_
      | with_reducible refine kept_pair (by with_reducible assumption) ?_
      | with_reducible apply ih

theorem State.missRow_kept {ks : Nat} {s0 : State} {s : State} {g : GStep} {e : TableEntry} {key : GKey} {code : Nat} (hks : Nat.land ks 165722321 = 165722321) (hk : Kept ks s0 s) :
    Kept ks s0 (State.missRow s g e key code).2 := by
  unfold State.missRow
  repeat' first
    | with_reducible assumption
    | with_reducible refine State.poisonRow_kept (cv rfl hks) ?_

theorem State.issueKey_kept {ks : Nat} {s0 : State} {s : State} {g : GStep} {tabs : List TableEntry} {e : TableEntry} {k : Nat} {key : GKey} (hks : Nat.land ks 166247633 = 166247633) (hk : Kept ks s0 s) :
    Kept ks s0 (State.issueKey s g tabs e k key).2 := by
  unfold State.issueKey
  repeat' first
    | with_reducible assumption
    | with_reducible refine State.fillFirst_kept (cv rfl hks) ?_
    | with_reducible refine State.lookRow_kept (cv rfl hks) ?_
    | with_reducible refine State.poisonRow_kept (cv rfl hks) ?_
    | with_reducible refine State.readRow_kept (cv rfl hks) ?_
    | with_reducible refine State.sendRequest_kept (cv rfl hks) ?_
    | with_reducible refine State.takeRow_kept (cv rfl hks) ?_
    | with_reducible refine kept_pair (by with_reducible assumption) ?_
    | dsimp only
    | with_reducible intro _
    | split

theorem State.issueNext_kept {ks : Nat} {s0 : State} {s : State} {r : StepRef} {a0 : Nat} (hks : Nat.land ks 166313169 = 166313169) (hk : Kept ks s0 s) :
    Kept ks s0 (State.issueNext s r a0) := by
  induction a0 generalizing s r with
  | zero =>
    unfold State.issueNext
    repeat' first
      | with_reducible assumption
  | succ k ih =>
    unfold State.issueNext
    repeat' first
      | with_reducible assumption
      | with_reducible refine State.issueKey_kept (cv rfl hks) ?_
      | with_reducible refine State.setGstep_kept (cv rfl hks) ?_
      | with_reducible refine kept_pair (by with_reducible assumption) ?_
      | with_reducible apply ih
      | dsimp only
      | with_reducible intro _
      | split

theorem State.missKeys_kept {ks : Nat} {s0 : State} {s : State} {g : GStep} {tabs : List TableEntry} {hit : GKey → Bool} {a0 : List GKey} (hks : Nat.land ks 165722321 = 165722321) (hk : Kept ks s0 s) :
    Kept ks s0 (State.missKeys s g tabs hit a0).2 := by
  induction a0 generalizing s g tabs hit with
  | nil =>
    unfold State.missKeys
    repeat' first
      | with_reducible assumption
  | cons x t ih =>
    unfold State.missKeys
    repeat' first
      | with_reducible assumption
      | with_reducible refine State.missRow_kept (cv rfl hks) ?_
      | with_reducible refine kept_pair (by with_reducible assumption) ?_
      | with_reducible apply ih
      | dsimp only
      | with_reducible intro _
      | split

theorem State.shutWindow_kept {ks : Nat} {s0 : State} {s : State} {r : StepRef} (hks : Nat.land ks 165787857 = 165787857) (hk : Kept ks s0 s) :
    Kept ks s0 (State.shutWindow s r) := by
  unfold State.shutWindow
  repeat' first
    | with_reducible assumption
    | with_reducible refine State.missKeys_kept (cv rfl hks) ?_
    | with_reducible refine State.setGstep_kept (cv rfl hks) ?_
    | with_reducible refine kept_pair (by with_reducible assumption) ?_
    | dsimp only
    | with_reducible intro _
    | split

theorem State.expireRows_kept {ks : Nat} {s0 : State} {s : State} {r : StepRef} (hks : Nat.land ks 165787857 = 165787857) (hk : Kept ks s0 s) :
    Kept ks s0 (State.expireRows s r) := by
  unfold State.expireRows
  repeat' first
    | with_reducible assumption
    | with_reducible refine State.missKeys_kept (cv rfl hks) ?_
    | with_reducible refine State.setGstep_kept (cv rfl hks) ?_
    | with_reducible refine kept_pair (by with_reducible assumption) ?_
    | dsimp only
    | with_reducible intro _
    | split

theorem State.pumpGather_kept {ks : Nat} {s0 : State} {s : State} {r : StepRef} (hks : Nat.land ks 166313169 = 166313169) (hk : Kept ks s0 s) :
    Kept ks s0 (State.pumpGather s r) := by
  unfold State.pumpGather
  repeat' first
    | with_reducible assumption
    | with_reducible refine State.expireRows_kept (cv rfl hks) ?_
    | with_reducible refine State.issueNext_kept (cv rfl hks) ?_
    | with_reducible refine State.shutWindow_kept (cv rfl hks) ?_
    | dsimp only
    | with_reducible intro _
    | split

theorem State.pumpGathers_kept {ks : Nat} {s0 : State} {s : State} (hks : Nat.land ks 166313169 = 166313169) (hk : Kept ks s0 s) :
    Kept ks s0 (State.pumpGathers s) := by
  unfold State.pumpGathers
  repeat' first
    | with_reducible assumption
    | with_reducible refine kept_foldl (fun _ _ _ => ?_) ?_
    | with_reducible refine State.pumpGather_kept (cv rfl hks) ?_

theorem State.sweepGstep_kept {ks : Nat} {s0 : State} {s : State} {g : GStep} (hks : Nat.land ks 65536 = 65536) (hk : Kept ks s0 s) :
    Kept ks s0 (State.sweepGstep s g) := by
  unfold State.sweepGstep
  repeat' first
    | with_reducible assumption
    | with_reducible refine State.dropGstep_kept (cv rfl hks) ?_
    | with_reducible refine State.setGstep_kept (cv rfl hks) ?_
    | dsimp only
    | with_reducible intro _
    | split

theorem State.remoteRow_kept {ks : Nat} {s0 : State} {s : State} {r : StepRef} {key : Nat} {code : Nat} {l : List Gran} (hks : Nat.land ks 166312145 = 166312145) (hk : Kept ks s0 s) :
    Kept ks s0 (State.remoteRow s r key code l) := by
  unfold State.remoteRow
  repeat' first
    | with_reducible assumption
    | with_reducible refine State.fillRow_kept (cv rfl hks) ?_
    | with_reducible refine State.missRow_kept (cv rfl hks) ?_
    | with_reducible refine State.poisonRow_kept (cv rfl hks) ?_
    | with_reducible refine State.setGstep_kept (cv rfl hks) ?_
    | with_reducible refine State.sweepGstep_kept (cv rfl hks) ?_
    | with_reducible refine State.takeRow_kept (cv rfl hks) ?_
    | with_reducible refine kept_pair (by with_reducible assumption) ?_
    | dsimp only
    | with_reducible intro _
    | split

theorem OutW.row_kept {ks : Nat} {s0 : State} {w : OutW} {g : GStep} {p : Nat × Nat} {l : List Gran} (hks : Nat.land ks 166205521 = 166205521)
    (hk : Kept ks s0 w.st) : Kept ks s0 (OutW.row w g l p).st := by
  unfold OutW.row
  dsimp only
  split
  · dsimp only
    exact State.raise_kept (cv rfl hks) hk
  · dsimp only
    exact State.sharedWrite_kept (cv rfl hks) (State.crossEdges_kept (cv rfl hks) hk)

theorem kept_outw {α : Type} {ks : Nat} {s0 : State} {l : List α} {f : OutW → α → OutW} (hf : ∀ w x, Kept ks s0 w.st → Kept ks s0 (f w x).st)
    {w : OutW} (h : Kept ks s0 w.st) : Kept ks s0 (l.foldl f w).st := by
  induction l generalizing w with
  | nil => exact h
  | cons x t ih => exact ih (hf w x h)

theorem State.putOutputs_kept {ks : Nat} {s0 : State} {s : State} {g : GStep} {d : GatherD} {tabs : List TableEntry} {l : List (Nat × Nat × ORow)} {edges : List EdgeErr} (hks : Nat.land ks 166312145 = 166312145) (hk : Kept ks s0 s) :
    Kept ks s0 (State.putOutputs s g d tabs l edges) := by
  unfold State.putOutputs
  dsimp only
  split
  · refine State.charge_kept (cv rfl hks) (State.setGstep_kept (cv rfl hks) (kept_outw (fun w x h => ?_) hk))
    split
    · exact h
    · exact kept_outw (fun _ _ h => OutW.row_kept (cv rfl hks) h) h
  · refine State.setGstep_kept (cv rfl hks) (kept_outw (fun w x h => ?_) hk)
    split
    · exact h
    · exact kept_outw (fun _ _ h => OutW.row_kept (cv rfl hks) h) h

theorem State.wholeGrans_kept {ks : Nat} {s0 : State} {s : State} {w : Who} {ctx va : Nat} {bs : List Byte} {bad : List Blemish} (hks : Nat.land ks 166205521 = 166205521) (hk : Kept ks s0 s) :
    Kept ks s0 (State.wholeGrans s w ctx va bs bad).2.2 := by
  unfold State.wholeGrans
  repeat' first
    | with_reducible assumption
    | with_reducible refine State.devRead_kept (cv rfl hks) ?_
    | with_reducible refine State.meetDev_kept (cv rfl hks) ?_
    | with_reducible refine kept_pair3 (by with_reducible assumption) ?_
    | dsimp only
    | with_reducible intro _
    | split

theorem State.slotPut_kept {ks : Nat} {s0 : State} {s : State} {w : Who} {x : Sub} {slot off : Nat} {bs : List Byte} {f : FaultRec} {bad : List Blemish} {edges : List EdgeErr} (hks : Nat.land ks 166246609 = 166246609) (hk : Kept ks s0 s) :
    Kept ks s0 (State.slotPut s w x slot off bs f bad edges) := by
  unfold State.slotPut
  repeat' first
    | with_reducible assumption
    | with_reducible refine kept_getD ?_ ?_
    | with_reducible refine State.carryOver_kept (fun _ _ _ _ => ?_) (cv rfl hks) ?_
    | with_reducible refine State.charge_kept (cv rfl hks) ?_
    | with_reducible refine State.devWrite_kept (cv rfl hks) ?_
    | with_reducible refine State.hostPost_kept (cv rfl hks) ?_
    | with_reducible refine State.sendOver_kept (cv rfl hks) ?_
    | with_reducible refine State.wholeGrans_kept (cv rfl hks) ?_
    | with_reducible refine kept_pair (by with_reducible assumption) ?_
    | with_reducible refine kept_pair3 (by with_reducible assumption) ?_
    | dsimp only
    | with_reducible intro _
    | split

theorem State.gatherDone_kept {ks : Nat} {s0 : State} {s : State} {r : StepRef} {bad : List Blemish} {edges : List EdgeErr} (hks : Nat.land ks 166313681 = 166313681) (hk : Kept ks s0 s) :
    Kept ks s0 (State.gatherDone s r bad edges) := by
  unfold State.gatherDone
  repeat' first
    | with_reducible assumption
    | with_reducible refine kept_foldl (fun _ _ _ => ?_) ?_
    | with_reducible refine State.bump_kept (cv rfl hks) ?_
    | with_reducible refine State.dropGstep_kept (cv rfl hks) ?_
    | with_reducible refine State.endInstance_kept (cv rfl hks) ?_
    | with_reducible refine State.endStep_kept (cv rfl hks) ?_
    | with_reducible refine State.setSub_kept (cv rfl hks) ?_
    | with_reducible refine State.slotPut_kept (cv rfl hks) ?_
    | dsimp only
    | with_reducible intro _
    | split

theorem State.writeReady_kept {ks : Nat} {s0 : State} {s : State} {r : StepRef} {edges : List EdgeErr} (hks : Nat.land ks 166312145 = 166312145) (hk : Kept ks s0 s) :
    Kept ks s0 (State.writeReady s r edges) := by
  unfold State.writeReady
  repeat' first
    | with_reducible assumption
    | with_reducible refine State.putOutputs_kept (cv rfl hks) ?_
    | dsimp only
    | with_reducible intro _
    | split

theorem State.cutRemote_kept {ks : Nat} {s0 : State} {s : State} {r : StepRef} {edges : List EdgeErr} (hks : Nat.land ks 166312145 = 166312145) (hk : Kept ks s0 s) :
    Kept ks s0 (State.cutRemote s r edges) := by
  unfold State.cutRemote
  repeat' first
    | with_reducible assumption
    | with_reducible refine State.missKeys_kept (cv rfl hks) ?_
    | with_reducible refine State.putOutputs_kept (cv rfl hks) ?_
    | with_reducible refine kept_pair (by with_reducible assumption) ?_
    | dsimp only
    | with_reducible intro _
    | split

theorem State.endGather_kept {ks : Nat} {s0 : State} {s : State} {g : GStep} {d : GatherD} {tabs : List TableEntry} {edges : List EdgeErr} (hks : Nat.land ks 166312145 = 166312145) (hk : Kept ks s0 s) :
    Kept ks s0 (State.endGather s g d tabs edges) := by
  unfold State.endGather
  repeat' first
    | with_reducible assumption
    | with_reducible refine State.missKeys_kept (cv rfl hks) ?_
    | with_reducible refine State.putOutputs_kept (cv rfl hks) ?_

end Sys2Proof.Machine
end

