-- ==== Sys2Proof/Laws/KeptUpdate.lean ====
section
/-! SUPPORT. What the definitions of Machine/Update.lean keep. -/

namespace Sys2Proof.Machine

open Sys2Proof Host

theorem State.sendRecord_kept {ks : Nat} {s0 : State} {s : State} {x : Sub} {im : Image} {i : Ingest} {b : Batch} {l : List Gran} {pos : Nat} {r : BatchR} (hks : Nat.land ks 165985489 = 165985489) (hk : Kept ks s0 s) :
    Kept ks s0 (State.sendRecord s x im i b l pos r).2 := by
  unfold State.sendRecord
  repeat' first
    | with_reducible assumption
    | with_reducible refine kept_getD ?_ ?_
    | with_reducible refine State.charge_kept (cv rfl hks) ?_
    | with_reducible refine State.raise_kept (cv rfl hks) ?_
    | with_reducible refine State.sendRequest_kept (cv rfl hks) ?_
    | with_reducible refine State.setUpd_kept (cv rfl hks) ?_
    | with_reducible refine kept_pair (by with_reducible assumption) ?_
    | dsimp only
    | with_reducible intro _
    | split

theorem State.sendRecords_kept {ks : Nat} {s0 : State} {s : State} {x : Sub} {im : Image} {i : Ingest} {b : Batch} {l : List Gran} {pos : Nat} {a0 : List BatchR} (hks : Nat.land ks 165985489 = 165985489) (hk : Kept ks s0 s) :
    Kept ks s0 (State.sendRecords s x im i b l pos a0).2 := by
  induction a0 generalizing s x im i b l pos with
  | nil =>
    unfold State.sendRecords
    repeat' first
      | with_reducible assumption
  | cons x t ih =>
    unfold State.sendRecords
    repeat' first
      | with_reducible assumption
      | with_reducible refine State.sendRecord_kept (cv rfl hks) ?_
      | with_reducible refine kept_pair (by with_reducible assumption) ?_
      | with_reducible apply ih

theorem State.batchDone_kept {ks : Nat} {s0 : State} {s : State} {x : Sub} {l : List Gran} (hks : Nat.land ks 165985489 = 165985489) (hk : Kept ks s0 s) :
    Kept ks s0 (State.batchDone s x l) := by
  unfold State.batchDone
  repeat' first
    | with_reducible assumption
    | with_reducible refine kept_getD ?_ ?_
    | with_reducible refine State.charge_kept (cv rfl hks) ?_
    | with_reducible refine State.sendRecords_kept (cv rfl hks) ?_
    | with_reducible refine State.setSub_kept (cv rfl hks) ?_
    | with_reducible refine State.setUpd_kept (cv rfl hks) ?_
    | with_reducible refine kept_pair (by with_reducible assumption) ?_
    | dsimp only
    | with_reducible intro _
    | split

theorem State.setOutcome_kept {ks : Nat} {s0 : State} {s : State} {o : HomeOut} (hks : Nat.land ks 262144 = 262144) (hk : Kept ks s0 s) :
    Kept ks s0 (State.setOutcome s o) := by
  unfold State.setOutcome
  repeat' first
    | with_reducible assumption
    | with_reducible refine State.setUpd_kept (cv rfl hks) ?_

theorem State.takeRecord_kept {ks : Nat} {s0 : State} {s : State} {st : Staged} {code : Nat} (hks : Nat.land ks 165943377 = 165943377) (hk : Kept ks s0 s) :
    Kept ks s0 (State.takeRecord s st code) := by
  unfold State.takeRecord
  repeat' first
    | with_reducible assumption
    | with_reducible refine State.raise_kept (cv rfl hks) ?_
    | with_reducible refine State.setOutcome_kept (cv rfl hks) ?_
    | with_reducible refine State.setUpd_kept (cv rfl hks) ?_
    | dsimp only
    | with_reducible intro _
    | split

theorem State.rowOutcome_kept {ks : Nat} {s0 : State} {s : State} {row : List Staged} {f : HomeOut → HomeOut} (hks : Nat.land ks 262144 = 262144) (hk : Kept ks s0 s) :
    Kept ks s0 (State.rowOutcome s row f) := by
  unfold State.rowOutcome
  repeat' first
    | with_reducible assumption
    | with_reducible refine kept_foldl1 (fun _ _ _ => ?_) ?_
    | with_reducible refine kept_foldl (fun _ _ _ => ?_) ?_
    | with_reducible refine State.setOutcome_kept (cv rfl hks) ?_
    | dsimp only
    | with_reducible intro _
    | split

theorem State.rowGone_kept {ks : Nat} {s0 : State} {s : State} {row : List Staged} (hks : Nat.land ks 262144 = 262144) (hk : Kept ks s0 s) :
    Kept ks s0 (State.rowGone s row) := by
  unfold State.rowGone
  repeat' first
    | with_reducible assumption
    | with_reducible refine State.setUpd_kept (cv rfl hks) ?_

theorem State.rowFails_kept {ks : Nat} {s0 : State} {s : State} {row : List Staged} {code : Nat} (hks : Nat.land ks 165943377 = 165943377) (hk : Kept ks s0 s) :
    Kept ks s0 (State.rowFails s row code) := by
  unfold State.rowFails
  repeat' first
    | with_reducible assumption
    | with_reducible refine State.raise_kept (cv rfl hks) ?_
    | with_reducible refine State.rowGone_kept (cv rfl hks) ?_
    | with_reducible refine State.rowOutcome_kept (cv rfl hks) ?_
    | dsimp only
    | with_reducible intro _
    | split

theorem State.rowLost_kept {ks : Nat} {s0 : State} {s : State} {row : List Staged} (hks : Nat.land ks 262144 = 262144) (hk : Kept ks s0 s) :
    Kept ks s0 (State.rowLost s row) := by
  unfold State.rowLost
  repeat' first
    | with_reducible assumption
    | with_reducible refine State.setUpd_kept (cv rfl hks) ?_

theorem State.commitRow_kept {ks : Nat} {s0 : State} {s : State} {row : List Staged} {upset : List Upset} {edges back : List EdgeErr} (hks : Nat.land ks 434903121 = 434903121) (hk : Kept ks s0 s) :
    Kept ks s0 (State.commitRow s row upset edges back) := by
  unfold State.commitRow
  repeat' first
    | with_reducible assumption
    | with_reducible refine kept_getD ?_ ?_
    | with_reducible refine State.carryOver_kept (fun _ _ _ _ => ?_) (cv rfl hks) ?_
    | with_reducible refine State.devWrite_kept (cv rfl hks) ?_
    | with_reducible refine State.extentLines_kept (cv rfl hks) ?_
    | with_reducible refine State.fetchOver_kept (fun _ _ _ _ => ?_) (cv rfl hks) ?_
    | with_reducible refine State.fillFirst_kept (cv rfl hks) ?_
    | with_reducible refine State.rowFails_kept (cv rfl hks) ?_
    | with_reducible refine State.rowGone_kept (cv rfl hks) ?_
    | with_reducible refine State.rowLost_kept (cv rfl hks) ?_
    | with_reducible refine State.rowOutcome_kept (cv rfl hks) ?_
    | with_reducible refine State.draw_kept (cv rfl hks) ?_
    | with_reducible refine kept_pair (by with_reducible assumption) ?_
    | with_reducible refine kept_pair3 (by with_reducible assumption) ?_
    | dsimp only
    | with_reducible intro _
    | split

theorem State.cxlStart_kept {ks : Nat} {s0 : State} {s : State} {hdie : Nat} {purpose : CxlFor} {off n : Nat} {locked : Bool} {phase : CxlPhase} {data : List Gran} (hks : Nat.land ks 136315904 = 136315904) (hk : Kept ks s0 s) :
    Kept ks s0 (State.cxlStart s hdie purpose off n locked phase data) := by
  unfold State.cxlStart
  repeat' first
    | with_reducible assumption
    | with_reducible refine State.emit_kept (cv rfl hks) ?_
    | with_reducible refine State.setFab_kept (cv rfl hks) ?_ ?_
    | with_reducible refine State.setNextId_kept (cv rfl hks) ?_
    | dsimp only
    | with_reducible exact fun w => smWf_set _ _ _ _ w
    | with_reducible exact fun w => smWf_map _ _ _ w
    | with_reducible exact fun w => ⟨w.1, smWf_set _ _ _ _ w.2.1, w.2.2⟩
    | with_reducible exact fun w => ⟨smWf_set _ _ _ _ w.1, w.2⟩
    | with_reducible exact fun w => ⟨w.1, smWf_set _ _ _ _ w.2⟩
    | with_reducible exact fun w => ⟨smWf_map _ _ _ w.1, w.2⟩
    | exact id
    | dsimp only
    | with_reducible intro _
    | split

theorem State.commitCxl_kept {ks : Nat} {s0 : State} {s : State} {row : List Staged} {hdie : Nat} {edges : List EdgeErr} (hks : Nat.land ks 434379857 = 434379857) (hk : Kept ks s0 s) :
    Kept ks s0 (State.commitCxl s row hdie edges) := by
  unfold State.commitCxl
  repeat' first
    | with_reducible assumption
    | with_reducible refine State.cxlStart_kept (cv rfl hks) ?_
    | with_reducible refine State.rowFails_kept (cv rfl hks) ?_
    | with_reducible refine State.rowGone_kept (cv rfl hks) ?_
    | with_reducible refine State.rowLost_kept (cv rfl hks) ?_
    | with_reducible refine State.rowOutcome_kept (cv rfl hks) ?_
    | with_reducible refine State.sendOver_kept (cv rfl hks) ?_
    | with_reducible refine State.draw_kept (cv rfl hks) ?_
    | with_reducible refine State.setFab_kept (cv rfl hks) ?_ ?_
    | dsimp only
    | with_reducible exact fun w => smWf_set _ _ _ _ w
    | with_reducible exact fun w => smWf_map _ _ _ w
    | with_reducible exact fun w => ⟨w.1, smWf_set _ _ _ _ w.2.1, w.2.2⟩
    | with_reducible exact fun w => ⟨smWf_set _ _ _ _ w.1, w.2⟩
    | with_reducible exact fun w => ⟨w.1, smWf_set _ _ _ _ w.2⟩
    | with_reducible exact fun w => ⟨smWf_map _ _ _ w.1, w.2⟩
    | exact id
    | with_reducible refine kept_pair (by with_reducible assumption) ?_
    | dsimp only
    | with_reducible intro _
    | split

theorem State.meetStaged_kept {ks : Nat} {s0 : State} {s : State} {row : List Staged} {a0 : List (Nat × Upset)} (hks : Nat.land ks 165681233 = 165681233) (hk : Kept ks s0 s) :
    Kept ks s0 (State.meetStaged s row a0).2 := by
  induction a0 generalizing s row with
  | nil =>
    unfold State.meetStaged
    repeat' first
      | with_reducible assumption
  | cons x t ih =>
    unfold State.meetStaged
    repeat' first
      | with_reducible assumption
      | with_reducible refine kept_getD ?_ ?_
      | with_reducible refine State.bump_kept (cv rfl hks) ?_
      | with_reducible refine State.raise_kept (cv rfl hks) ?_
      | with_reducible refine kept_pair (by with_reducible assumption) ?_
      | with_reducible apply ih
      | dsimp only
      | with_reducible intro _
      | split

theorem State.paceRow_kept {ks : Nat} {s0 : State} {s : State} {st : Staged} (hks : Nat.land ks 262144 = 262144) (hk : Kept ks s0 s) :
    OKept ks s0 (fun x => x) (State.paceRow s st) := by
  unfold State.paceRow
  repeat' first
    | with_reducible assumption
    | with_reducible refine State.setUpd_kept (cv rfl hks) ?_
    | exact okept_none
    | with_reducible refine okept_some ?_
    | dsimp only
    | with_reducible intro _
    | split

theorem State.applyRow_kept {ks : Nat} {s0 : State} {s : State} {row : List Staged} {st : Staged} {upset : List Upset} {staged : List (Nat × Upset)} {edges back : List EdgeErr} (hks : Nat.land ks 434904145 = 434904145) (hk : Kept ks s0 s) :
    Kept ks s0 (State.applyRow s row st upset staged edges back) := by
  unfold State.applyRow
  repeat' first
    | with_reducible assumption
    | with_reducible refine State.commitCxl_kept (cv rfl hks) ?_
    | with_reducible refine State.commitRow_kept (cv rfl hks) ?_
    | with_reducible refine State.meetStaged_kept (cv rfl hks) ?_
    | with_reducible refine State.rowFails_kept (cv rfl hks) ?_
    | with_reducible refine kept_pair (by with_reducible assumption) ?_
    | dsimp only
    | with_reducible intro _
    | split

theorem State.sendOutcome_kept {ks : Nat} {s0 : State} {s : State} {o : HomeOut} (hks : Nat.land ks 262144 = 262144) (hk : Kept ks s0 s) :
    Kept ks s0 (State.sendOutcome s o) := by
  unfold State.sendOutcome
  repeat' first
    | with_reducible assumption
    | with_reducible refine State.setUpd_kept (cv rfl hks) ?_

theorem State.sendReport_kept {ks : Nat} {s0 : State} {s : State} {o : HomeOut} {q : Nat} (hks : Nat.land ks 165681233 = 165681233) (hk : Kept ks s0 s) :
    Kept ks s0 (State.sendReport s o q) := by
  unfold State.sendReport
  repeat' first
    | with_reducible assumption
    | with_reducible refine State.connFull_kept (cv rfl hks) ?_
    | with_reducible refine State.raise_kept (cv rfl hks) ?_
    | with_reducible refine State.sendOn_kept (cv rfl hks) ?_
    | with_reducible refine kept_opt2 (by with_reducible assumption) ?_
    | dsimp only
    | with_reducible intro _
    | split

theorem State.settle_kept {ks : Nat} {s0 : State} {s : State} {serial : Nat} {owed : List (Nat × Nat)} (hks : Nat.land ks 2097152 = 2097152) (hk : Kept ks s0 s) :
    Kept ks s0 (State.settle s serial owed) := by
  unfold State.settle
  repeat' first
    | with_reducible assumption
    | with_reducible refine State.setFab_kept (cv rfl hks) ?_ ?_
    | dsimp only
    | with_reducible exact fun w => smWf_set _ _ _ _ w
    | with_reducible exact fun w => smWf_map _ _ _ w
    | with_reducible exact fun w => ⟨w.1, smWf_set _ _ _ _ w.2.1, w.2.2⟩
    | with_reducible exact fun w => ⟨smWf_set _ _ _ _ w.1, w.2⟩
    | with_reducible exact fun w => ⟨w.1, smWf_set _ _ _ _ w.2⟩
    | with_reducible exact fun w => ⟨smWf_map _ _ _ w.1, w.2⟩
    | exact id

theorem State.endIngest_kept {ks : Nat} {s0 : State} {s : State} {i : Ingest} {edges : List EdgeErr} (hks : Nat.land ks 166510289 = 166510289) (hk : Kept ks s0 s) :
    Kept ks s0 (State.endIngest s i edges) := by
  unfold State.endIngest
  repeat' first
    | with_reducible assumption
    | with_reducible refine State.charge_kept (cv rfl hks) ?_
    | with_reducible refine State.finish_kept (cv rfl hks) ?_
    | with_reducible refine State.settle_kept (cv rfl hks) ?_
    | with_reducible refine State.slotPut_kept (cv rfl hks) ?_
    | with_reducible refine State.setUpd_kept (cv rfl hks) ?_
    | dsimp only
    | with_reducible intro _
    | split

theorem State.putIngest_kept {ks : Nat} {s0 : State} {s : State} {i : Ingest} {edges : List EdgeErr} (hks : Nat.land ks 166510289 = 166510289) (hk : Kept ks s0 s) :
    Kept ks s0 (State.putIngest s i edges) := by
  unfold State.putIngest
  repeat' first
    | with_reducible assumption
    | with_reducible refine State.endIngest_kept (cv rfl hks) ?_
    | with_reducible refine State.settle_kept (cv rfl hks) ?_
    | with_reducible refine State.setUpd_kept (cv rfl hks) ?_
    | dsimp only
    | with_reducible intro _
    | split

theorem State.saddleUpdates_kept {ks : Nat} {s0 : State} {s : State} (hks : Nat.land ks 166510289 = 166510289) (hk : Kept ks s0 s) :
    Kept ks s0 (State.saddleUpdates s) := by
  unfold State.saddleUpdates
  repeat' first
    | with_reducible assumption
    | with_reducible refine kept_foldl1 (fun _ _ _ => ?_) ?_
    | with_reducible refine kept_foldl (fun _ _ _ => ?_) ?_
    | with_reducible refine State.endIngest_kept (cv rfl hks) ?_
    | with_reducible refine State.setUpd_kept (cv rfl hks) ?_
    | dsimp only
    | with_reducible intro _
    | split

theorem State.discardUpdates_kept {ks : Nat} {s0 : State} {s : State} {hit : Staged → Bool} {all : Bool} (hks : Nat.land ks 262144 = 262144) (hk : Kept ks s0 s) :
    Kept ks s0 (State.discardUpdates s hit all) := by
  unfold State.discardUpdates
  repeat' first
    | with_reducible assumption
    | with_reducible refine kept_foldl (fun _ _ _ => ?_) ?_
    | with_reducible refine State.setOutcome_kept (cv rfl hks) ?_
    | with_reducible refine State.setUpd_kept (cv rfl hks) ?_

theorem State.writeUpdCtrl_kept {ks : Nat} {s0 : State} {s : State} {p : Nat} {w : Word} (hks : Nat.land ks 1 = 1) (hk : Kept ks s0 s) :
    Kept ks s0 (State.writeUpdCtrl s p w) := by
  unfold State.writeUpdCtrl
  repeat' first
    | with_reducible assumption
    | with_reducible refine State.putRw_kept (cv rfl hks) ?_
    | with_reducible refine State.regErr_kept (cv rfl hks) ?_
    | with_reducible refine State.setBit_kept (cv rfl hks) ?_
    | dsimp only
    | with_reducible intro _
    | split

theorem State.writeUpdQuota_kept {ks : Nat} {s0 : State} {s : State} {p : Nat} {w : Word} (hks : Nat.land ks 1 = 1) (hk : Kept ks s0 s) :
    Kept ks s0 (State.writeUpdQuota s p w) := by
  unfold State.writeUpdQuota
  repeat' first
    | with_reducible assumption
    | with_reducible refine State.putRw_kept (cv rfl hks) ?_
    | with_reducible refine State.regErr_kept (cv rfl hks) ?_
    | with_reducible refine State.setBit_kept (cv rfl hks) ?_
    | dsimp only
    | with_reducible intro _
    | split

theorem State.writeUpdCap_kept {ks : Nat} {s0 : State} {s : State} {g e : Nat} {w : Word} (hks : Nat.land ks 1 = 1) (hk : Kept ks s0 s) :
    Kept ks s0 (State.writeUpdCap s g e w) := by
  unfold State.writeUpdCap
  repeat' first
    | with_reducible assumption
    | with_reducible refine State.putRw_kept (cv rfl hks) ?_
    | with_reducible refine State.regErr_kept (cv rfl hks) ?_
    | with_reducible refine State.setBit_kept (cv rfl hks) ?_
    | dsimp only
    | with_reducible intro _
    | split

end Sys2Proof.Machine
end

