-- ==== Sys2Proof/Laws/KeptTransfers.lean ====
section
/-! SUPPORT. What the definitions of Machine/Transfers.lean keep. -/

namespace Sys2Proof.Machine

open Sys2Proof Host

theorem State.dropUstep_kept {ks : Nat} {s0 : State} {s : State} {r : StepRef} (hks : Nat.land ks 131072 = 131072) (hk : Kept ks s0 s) :
    Kept ks s0 (State.dropUstep s r) := by
  unfold State.dropUstep
  repeat' first
    | with_reducible assumption
    | with_reducible refine State.setUsteps_kept (cv rfl hks) ?_

theorem State.unitStepEnd_kept {ks : Nat} {s0 : State} {s : State} {r : StepRef} (hks : Nat.land ks 165854929 = 165854929) (hk : Kept ks s0 s) :
    Kept ks s0 (State.unitStepEnd s r) := by
  unfold State.unitStepEnd
  repeat' first
    | with_reducible assumption
    | with_reducible refine State.dropUstep_kept (cv rfl hks) ?_
    | with_reducible refine State.endInstance_kept (cv rfl hks) ?_
    | with_reducible refine State.endStep_kept (cv rfl hks) ?_

theorem State.meetShared_kept {ks : Nat} {s0 : State} {s : State} {ctx cdie off n : Nat} {l : List Blemish} (hks : Nat.land ks 166205521 = 166205521) (hk : Kept ks s0 s) :
    Kept ks s0 (State.meetShared s ctx cdie off n l) := by
  unfold State.meetShared
  repeat' first
    | with_reducible assumption
    | with_reducible refine State.meetSram_kept (cv rfl hks) ?_

theorem State.locRead_kept {ks : Nat} {s0 : State} {s : State} {die part ctx sp locDie loc n : Nat} {bad : List Blemish} {edges : List EdgeErr} (hks : Nat.land ks 166205521 = 166205521) (hk : Kept ks s0 s) :
    Kept ks s0 (State.locRead s die part ctx sp locDie loc n bad edges).2.2 := by
  unfold State.locRead
  repeat' first
    | with_reducible assumption
    | with_reducible refine State.fetchOver_kept (fun _ _ _ _ => ?_) (cv rfl hks) ?_
    | with_reducible refine State.meetShared_kept (cv rfl hks) ?_
    | with_reducible refine State.raise_kept (cv rfl hks) ?_
    | with_reducible refine State.readOver_kept (cv rfl hks) ?_
    | with_reducible refine kept_pair3 (by with_reducible assumption) ?_
    | dsimp only
    | with_reducible intro _
    | split

theorem State.locWrite_kept {ks : Nat} {s0 : State} {s : State} {tr : Nat → Bool → Except Nat (Nat × Nat)} {die part ctx sp locDie loc : Nat} {l : List Gran} {edges : List EdgeErr} (hks : Nat.land ks 166205521 = 166205521) (hk : Kept ks s0 s) :
    Kept ks s0 (State.locWrite s tr die part ctx sp locDie loc l edges).2 := by
  unfold State.locWrite
  repeat' first
    | with_reducible assumption
    | with_reducible refine State.carryOver_kept (fun _ _ _ _ => ?_) (cv rfl hks) ?_
    | with_reducible refine State.devWriteBy_kept (cv rfl hks) ?_
    | with_reducible refine State.raise_kept (cv rfl hks) ?_
    | with_reducible refine State.sharedWrite_kept (cv rfl hks) ?_
    | with_reducible refine kept_pair (by with_reducible assumption) ?_
    | dsimp only
    | with_reducible intro _
    | split

theorem State.strand_kept {ks : Nat} {s0 : State} {s : State} {u : UStep} (hks : Nat.land ks 131072 = 131072) (hk : Kept ks s0 s) :
    Kept ks s0 (State.strand s u) := by
  unfold State.strand
  repeat' first
    | with_reducible assumption
    | with_reducible refine State.setUsteps_kept (cv rfl hks) ?_

theorem State.chargeStep_kept {ks : Nat} {s0 : State} {s : State} {r : StepRef} {f : FaultRec} {code : Nat} (hks : Nat.land ks 165722321 = 165722321) (hk : Kept ks s0 s) :
    Kept ks s0 (State.chargeStep s r f code) := by
  unfold State.chargeStep
  repeat' first
    | with_reducible assumption
    | with_reducible refine State.charge_kept (cv rfl hks) ?_
    | dsimp only
    | with_reducible intro _
    | split

theorem State.chargeStatus_kept {ks : Nat} {s0 : State} {s : State} {r : StepRef} {f : FaultRec} {code : Nat} (hks : Nat.land ks 165722321 = 165722321) (hk : Kept ks s0 s) :
    Kept ks s0 (State.chargeStatus s r f code) := by
  unfold State.chargeStatus
  repeat' first
    | with_reducible assumption
    | with_reducible refine State.charge_kept (cv rfl hks) ?_
    | with_reducible refine State.raise_kept (cv rfl hks) ?_
    | dsimp only
    | with_reducible intro _
    | split

theorem State.lookUp_kept {ks : Nat} {s0 : State} {s : State} {r : StepRef} {die ctx va n : Nat} {write : Bool} {f : FaultRec} (hks : Nat.land ks 166246609 = 166246609) (hk : Kept ks s0 s) :
    Kept ks s0 (State.lookUp s r die ctx va n write f) := by
  unfold State.lookUp
  repeat' first
    | with_reducible assumption
    | with_reducible refine kept_foldl (fun _ _ _ => ?_) ?_
    | with_reducible refine State.chargeStep_kept (cv rfl hks) ?_
    | with_reducible refine State.fillFirst_kept (cv rfl hks) ?_
    | dsimp only
    | with_reducible intro _
    | split

theorem State.storeIn_kept {ks : Nat} {s0 : State} {s : State} {u : UStep} {l : List Gran} {edges : List EdgeErr} (hks : Nat.land ks 166379217 = 166379217) (hk : Kept ks s0 s) :
    Kept ks s0 (State.storeIn s u l edges) := by
  unfold State.storeIn
  repeat' first
    | with_reducible assumption
    | with_reducible refine State.chargeStep_kept (cv rfl hks) ?_
    | with_reducible refine State.locWrite_kept (cv rfl hks) ?_
    | with_reducible refine State.strand_kept (cv rfl hks) ?_
    | with_reducible refine State.unitStepEnd_kept (cv rfl hks) ?_
    | with_reducible refine kept_pair (by with_reducible assumption) ?_
    | dsimp only
    | with_reducible intro _
    | split

theorem State.transferIn_kept {ks : Nat} {s0 : State} {s : State} {x : Sub} {r : StepRef} {u : UStep} {die : Nat} {d : XferD} {b : Nat} {bad : List Blemish} {edges : List EdgeErr} (hks : Nat.land ks 166379217 = 166379217) (hk : Kept ks s0 s) :
    Kept ks s0 (State.transferIn s x r u die d b bad edges) := by
  unfold State.transferIn
  repeat' first
    | with_reducible assumption
    | with_reducible refine kept_getD ?_ ?_
    | with_reducible refine State.chargeStep_kept (cv rfl hks) ?_
    | with_reducible refine State.hostRead_kept (cv rfl hks) ?_
    | with_reducible refine State.readOver_kept (cv rfl hks) ?_
    | with_reducible refine State.storeIn_kept (cv rfl hks) ?_
    | with_reducible refine State.strand_kept (cv rfl hks) ?_
    | with_reducible refine kept_pair (by with_reducible assumption) ?_
    | with_reducible refine kept_pair3 (by with_reducible assumption) ?_
    | dsimp only
    | with_reducible intro _
    | split

theorem State.transferOut_kept {ks : Nat} {s0 : State} {s : State} {x : Sub} {r : StepRef} {u : UStep} {die : Nat} {d : XferD} {b : Nat} {bad : List Blemish} {edges : List EdgeErr} (hks : Nat.land ks 166379217 = 166379217) (hk : Kept ks s0 s) :
    Kept ks s0 (State.transferOut s x r u die d b bad edges) := by
  unfold State.transferOut
  repeat' first
    | with_reducible assumption
    | with_reducible refine kept_getD ?_ ?_
    | with_reducible refine State.chargeStep_kept (cv rfl hks) ?_
    | with_reducible refine State.fillFirst_kept (cv rfl hks) ?_
    | with_reducible refine State.hostCheck_kept (cv rfl hks) ?_
    | with_reducible refine State.hostPost_kept (cv rfl hks) ?_
    | with_reducible refine State.locRead_kept (cv rfl hks) ?_
    | with_reducible refine State.locWrite_kept (cv rfl hks) ?_
    | with_reducible refine State.strand_kept (cv rfl hks) ?_
    | with_reducible refine State.unitStepEnd_kept (cv rfl hks) ?_
    | with_reducible refine kept_pair (by with_reducible assumption) ?_
    | with_reducible refine kept_pair3 (by with_reducible assumption) ?_
    | dsimp only
    | with_reducible intro _
    | split

theorem State.endSend_kept {ks : Nat} {s0 : State} {s : State} {u : UStep} {code : Nat} {l : List Gran} {edges : List EdgeErr} (hks : Nat.land ks 166379217 = 166379217) (hk : Kept ks s0 s) :
    Kept ks s0 (State.endSend s u code l edges) := by
  unfold State.endSend
  repeat' first
    | with_reducible assumption
    | with_reducible refine State.chargeStatus_kept (cv rfl hks) ?_
    | with_reducible refine State.chargeStep_kept (cv rfl hks) ?_
    | with_reducible refine State.locWrite_kept (cv rfl hks) ?_
    | with_reducible refine State.strand_kept (cv rfl hks) ?_
    | with_reducible refine State.unitStepEnd_kept (cv rfl hks) ?_
    | with_reducible refine kept_pair (by with_reducible assumption) ?_
    | dsimp only
    | with_reducible intro _
    | split

end Sys2Proof.Machine
end

