-- ==== Sys2Proof/Laws/KeptResets.lean ====
section
/-! SUPPORT. What the definitions of Machine/Resets.lean keep. -/

namespace Sys2Proof.Machine

open Sys2Proof Host

theorem State.chargeFence_kept {ks : Nat} {s0 : State} {s : State} {hit : Sub × Image → Bool} {code other : Nat} {mark : List Sub} {suspect : Bool} {f : FaultRec} (hks : Nat.land ks 165722321 = 165722321) (hk : Kept ks s0 s) :
    Kept ks s0 (State.chargeFence s hit code other mark suspect f) := by
  unfold State.chargeFence
  repeat' first
    | with_reducible assumption
    | with_reducible refine kept_foldl1 (fun _ _ _ => ?_) ?_
    | with_reducible refine kept_foldl (fun _ _ _ => ?_) ?_
    | with_reducible refine State.charge_kept (cv rfl hks) ?_
    | dsimp only
    | with_reducible intro _
    | split

theorem State.openSet_kept {ks : Nat} {s0 : State} {s : State} {p : Nat} {z : SuspectSet} (hks : Nat.land ks 16 = 16) (hk : Kept ks s0 s) :
    Kept ks s0 (State.openSet s p z) := by
  unfold State.openSet
  repeat' first
    | with_reducible assumption
    | with_reducible refine State.setPart_kept (cv rfl hks) ?_
    | dsimp only
    | with_reducible intro _
    | split

theorem State.suspect_kept {ks : Nat} {s0 : State} {s : State} {kind : ResetKind} {code die unit : Nat} {l : List Sub} (hks : Nat.land ks 16 = 16) (hk : Kept ks s0 s) :
    Kept ks s0 (State.suspect s kind code die unit l) := by
  unfold State.suspect
  repeat' first
    | with_reducible assumption
    | with_reducible refine kept_foldl (fun _ _ _ => ?_) ?_
    | with_reducible refine State.openSet_kept (cv rfl hks) ?_

theorem State.readySets_kept {ks : Nat} {s0 : State} {s : State} {hit : Nat → Bool} (hks : Nat.land ks 16 = 16) (hk : Kept ks s0 s) :
    Kept ks s0 (State.readySets s hit) := by
  unfold State.readySets
  repeat' first
    | with_reducible assumption
    | with_reducible refine State.setParts_kept (cv rfl hks) ?_ ?_
    | dsimp only
    | with_reducible exact fun w => smWf_set _ _ _ _ w
    | with_reducible exact fun w => smWf_map _ _ _ w

theorem State.stopCore_kept {ks : Nat} {s0 : State} {s : State} {k : Nat} (hks : Nat.land ks 14336 = 14336) (hk : Kept ks s0 s) :
    Kept ks s0 (State.stopCore s k) := by
  unfold State.stopCore
  repeat' first
    | with_reducible assumption
    | with_reducible refine kept_foldl (fun _ _ _ => ?_) ?_
    | with_reducible refine State.setArray_kept (cv rfl hks) ?_
    | with_reducible refine State.setCore_kept (cv rfl hks) ?_
    | with_reducible refine State.setEng_kept (cv rfl hks) ?_

theorem State.emptyCore_kept {ks : Nat} {s0 : State} {s : State} {k : Nat} (hks : Nat.land ks 30720 = 30720) (hk : Kept ks s0 s) :
    Kept ks s0 (State.emptyCore s k) := by
  unfold State.emptyCore
  repeat' first
    | with_reducible assumption
    | with_reducible refine kept_foldl (fun _ _ _ => ?_) ?_
    | with_reducible refine State.stopCore_kept (cv rfl hks) ?_
    | with_reducible refine State.setArray_kept (cv rfl hks) ?_
    | with_reducible refine State.setBook_kept (cv rfl hks) ?_

theorem State.clearCore_kept {ks : Nat} {s0 : State} {s : State} {k : Nat} {p : Bool} (hks : Nat.land ks 555008 = 555008) (hk : Kept ks s0 s) :
    Kept ks s0 (State.clearCore s k p) := by
  unfold State.clearCore
  repeat' first
    | with_reducible assumption
    | with_reducible apply MemS.wipe_imp
    | with_reducible apply MemS.wipeOps_imp
    | with_reducible apply MemS.dropTags_imp
    | with_reducible exact fun c => MemS.Canonical.same c rfl
    | with_reducible refine State.emptyCore_kept (cv rfl hks) ?_
    | with_reducible refine State.setCore_kept (cv rfl hks) ?_
    | with_reducible refine State.setMem_kept (cv rfl hks) ?_ ?_

theorem State.setReset_kept {ks : Nat} {s0 : State} {s : State} {sc : Scope} {r : ResetS} (hks : Nat.land ks 4194320 = 4194320) (hk : Kept ks s0 s) :
    Kept ks s0 (State.setReset s sc r) := by
  unfold State.setReset
  repeat' first
    | with_reducible assumption
    | with_reducible refine State.setCdie_kept (cv rfl hks) ?_
    | with_reducible refine State.setErr_kept (cv rfl hks) ?_ ?_
    | with_reducible refine State.setPart_kept (cv rfl hks) ?_
    | dsimp only
    | with_reducible exact fun w => smWf_set _ _ _ _ w
    | with_reducible exact fun w => smWf_map _ _ _ w
    | with_reducible exact fun w => ⟨w.1, smWf_set _ _ _ _ w.2.1, w.2.2⟩
    | with_reducible exact fun w => ⟨smWf_set _ _ _ _ w.1, w.2⟩
    | with_reducible exact fun w => ⟨w.1, smWf_set _ _ _ _ w.2⟩
    | with_reducible exact fun w => ⟨smWf_map _ _ _ w.1, w.2⟩
    | with_reducible exact fun w => ⟨Nat.mod_lt _ (by decide), w.2⟩
    | exact id
    | dsimp only
    | with_reducible intro _
    | split

theorem State.deviceOut_kept {ks : Nat} {s0 : State} {s : State} (hks : Nat.land ks 157810769 = 157810769) (hk : Kept ks s0 s) :
    Kept ks s0 (State.deviceOut s) := by
  unfold State.deviceOut
  repeat' first
    | with_reducible assumption
    | with_reducible exact fun c => MemS.Canonical.same c rfl
    | with_reducible refine State.readySets_kept (cv rfl hks) ?_
    | with_reducible refine State.saveRoot_kept (cv rfl hks) ?_
    | with_reducible refine State.sendFm_kept (cv rfl hks) ?_
    | with_reducible refine State.sysEvt_kept (cv rfl hks) ?_
    | with_reducible refine State.telReset_kept (cv rfl hks) ?_
    | with_reducible refine State.setErr_kept (cv rfl hks) ?_ ?_
    | with_reducible refine State.setMem_kept (cv rfl hks) ?_ ?_
    | dsimp only
    | with_reducible exact fun w => smWf_set _ _ _ _ w
    | with_reducible exact fun w => smWf_map _ _ _ w
    | with_reducible exact fun w => ⟨w.1, smWf_set _ _ _ _ w.2.1, w.2.2⟩
    | with_reducible exact fun w => ⟨smWf_set _ _ _ _ w.1, w.2⟩
    | with_reducible exact fun w => ⟨w.1, smWf_set _ _ _ _ w.2⟩
    | with_reducible exact fun w => ⟨smWf_map _ _ _ w.1, w.2⟩
    | with_reducible exact fun w => ⟨Nat.mod_lt _ (by decide), w.2⟩
    | exact id

theorem State.outWithDevice_kept {ks : Nat} {s0 : State} {s : State} (hks : Nat.land ks 157286481 = 157286481) (hk : Kept ks s0 s) :
    Kept ks s0 (State.outWithDevice s) := by
  unfold State.outWithDevice
  repeat' first
    | with_reducible assumption
    | with_reducible refine kept_foldl (fun _ _ _ => ?_) ?_
    | with_reducible refine State.cdieOut_kept (cv rfl hks) ?_
    | dsimp only
    | with_reducible intro _
    | split

theorem State.endDrain_kept {ks : Nat} {s0 : State} {s : State} {sc : Scope} {r : ResetS} (hks : Nat.land ks 166205521 = 166205521) (hk : Kept ks s0 s) :
    Kept ks s0 (State.endDrain s sc r) := by
  unfold State.endDrain
  split
  · exact State.setReset_kept (cv rfl hks) hk
  · split
    · exact State.readySets_kept (cv rfl hks) (State.cdieOut_kept (cv rfl hks) hk)
    · exact State.setReset_kept (cv rfl hks) hk
  · have h : Kept ks s0 s.flushAgents.outWithDevice := State.outWithDevice_kept (cv rfl hks) (State.flushAgents_kept (cv rfl hks) hk)
    generalize s.flushAgents.outWithDevice = u at h
    dsimp only
    split
    · exact State.deviceOut_kept (cv rfl hks) h
    · exact State.setMem_kept (cv rfl hks) (fun c => c.same rfl) (State.setReset_kept (cv rfl hks) h)

theorem State.tryDrain_kept {ks : Nat} {s0 : State} {s : State} {sc : Scope} (hks : Nat.land ks 166205521 = 166205521) (hk : Kept ks s0 s) :
    Kept ks s0 (State.tryDrain s sc) := by
  unfold State.tryDrain
  repeat' first
    | with_reducible assumption
    | with_reducible refine State.endDrain_kept (cv rfl hks) ?_
    | dsimp only
    | with_reducible intro _
    | split

theorem State.waitReset_kept {ks : Nat} {s0 : State} {s : State} {w : WaitReset} (hks : Nat.land ks 4194304 = 4194304) (hk : Kept ks s0 s) :
    Kept ks s0 (State.waitReset s w) := by
  unfold State.waitReset
  repeat' first
    | with_reducible assumption
    | with_reducible refine State.setErr_kept (cv rfl hks) ?_ ?_
    | dsimp only
    | with_reducible exact fun w => smWf_set _ _ _ _ w
    | with_reducible exact fun w => smWf_map _ _ _ w
    | with_reducible exact fun w => ⟨w.1, smWf_set _ _ _ _ w.2.1, w.2.2⟩
    | with_reducible exact fun w => ⟨smWf_set _ _ _ _ w.1, w.2⟩
    | with_reducible exact fun w => ⟨w.1, smWf_set _ _ _ _ w.2⟩
    | with_reducible exact fun w => ⟨smWf_map _ _ _ w.1, w.2⟩
    | with_reducible exact fun w => ⟨Nat.mod_lt _ (by decide), w.2⟩
    | exact id

theorem State.fenceCdie_kept {ks : Nat} {s0 : State} {s : State} {c : Nat} (hks : Nat.land ks 47104 = 47104) (hk : Kept ks s0 s) :
    Kept ks s0 (State.fenceCdie s c) := by
  unfold State.fenceCdie
  repeat' first
    | with_reducible assumption
    | with_reducible refine kept_foldl (fun _ _ _ => ?_) ?_
    | with_reducible refine State.stopCore_kept (cv rfl hks) ?_
    | with_reducible refine State.setXfers_kept (cv rfl hks) ?_

theorem State.countCdie_kept {ks : Nat} {s0 : State} {s : State} {c code : Nat} (hks : Nat.land ks 4194304 = 4194304) (hk : Kept ks s0 s) :
    Kept ks s0 (State.countCdie s c code) := by
  unfold State.countCdie
  repeat' first
    | with_reducible assumption
    | with_reducible refine State.saveRoot_kept (cv rfl hks) ?_
    | with_reducible refine State.setCdie_kept (cv rfl hks) ?_

theorem State.resetCdie_kept {ks : Nat} {s0 : State} {s : State} {c : Fin 32} {code unit : Nat} {counted : Bool} {mark : List Sub} {suspect : Bool} (hks : Nat.land ks 166246609 = 166246609) (hk : Kept ks s0 s) :
    Kept ks s0 (State.resetCdie s c code unit counted mark suspect) := by
  unfold State.resetCdie
  repeat' first
    | with_reducible assumption
    | with_reducible refine State.chargeFence_kept (cv rfl hks) ?_
    | with_reducible refine State.countCdie_kept (cv rfl hks) ?_
    | with_reducible refine State.fenceCdie_kept (cv rfl hks) ?_
    | with_reducible refine State.saveRoot_kept (cv rfl hks) ?_
    | with_reducible refine State.sendFm_kept (cv rfl hks) ?_
    | with_reducible refine State.setReset_kept (cv rfl hks) ?_
    | with_reducible refine State.suspect_kept (cv rfl hks) ?_
    | with_reducible refine State.sysEvt_kept (cv rfl hks) ?_
    | with_reducible refine State.telReset_kept (cv rfl hks) ?_
    | with_reducible refine State.tryDrain_kept (cv rfl hks) ?_
    | with_reducible refine State.waitReset_kept (cv rfl hks) ?_
    | with_reducible refine State.setCdie_kept (cv rfl hks) ?_
    | dsimp only
    | with_reducible intro _
    | split

theorem State.resetPart_kept {ks : Nat} {s0 : State} {s : State} {p : Nat} (hks : Nat.land ks 144 = 144) (hk : Kept ks s0 s) :
    Kept ks s0 (State.resetPart s p) := by
  unfold State.resetPart
  repeat' first
    | with_reducible assumption
    | with_reducible refine State.endWith_kept (cv rfl hks) ?_
    | with_reducible refine State.setPart_kept (cv rfl hks) ?_
    | dsimp only
    | with_reducible intro _
    | split

theorem State.fenceDevice_kept {ks : Nat} {s0 : State} {s : State} {code die unit : Nat} {mark : List Sub} {suspect : Bool} (hks : Nat.land ks 166574289 = 166574289) (hk : Kept ks s0 s) :
    Kept ks s0 (State.fenceDevice s code die unit mark suspect) := by
  unfold State.fenceDevice
  repeat' first
    | with_reducible assumption
    | with_reducible apply MemS.foldl_imp
    | with_reducible exact fun c => MemS.Canonical.same c rfl
    | with_reducible refine kept_foldl (fun _ _ _ => ?_) ?_
    | with_reducible refine State.chargeFence_kept (cv rfl hks) ?_
    | with_reducible refine State.discardUpdates_kept (cv rfl hks) ?_
    | with_reducible refine State.resetPart_kept (cv rfl hks) ?_
    | with_reducible refine State.stopCore_kept (cv rfl hks) ?_
    | with_reducible refine State.suspect_kept (cv rfl hks) ?_
    | with_reducible refine State.setErr_kept (cv rfl hks) ?_ ?_
    | with_reducible refine State.setGsteps_kept (cv rfl hks) ?_
    | with_reducible refine State.setMem_kept (cv rfl hks) ?_ ?_
    | with_reducible refine State.setUpd_kept (cv rfl hks) ?_
    | with_reducible refine State.setXfers_kept (cv rfl hks) ?_
    | dsimp only
    | with_reducible exact fun w => smWf_set _ _ _ _ w
    | with_reducible exact fun w => smWf_map _ _ _ w
    | with_reducible exact fun w => ⟨w.1, smWf_set _ _ _ _ w.2.1, w.2.2⟩
    | with_reducible exact fun w => ⟨smWf_set _ _ _ _ w.1, w.2⟩
    | with_reducible exact fun w => ⟨w.1, smWf_set _ _ _ _ w.2⟩
    | with_reducible exact fun w => ⟨smWf_map _ _ _ w.1, w.2⟩
    | exact id
    | dsimp only
    | with_reducible intro _
    | split

theorem State.resetDevice_kept {ks : Nat} {s0 : State} {s : State} {code die unit : Nat} {counted : Bool} {mark : List Sub} {suspect : Bool} (hks : Nat.land ks 166574289 = 166574289) (hk : Kept ks s0 s) :
    Kept ks s0 (State.resetDevice s code die unit counted mark suspect) := by
  unfold State.resetDevice
  repeat' first
    | with_reducible assumption
    | with_reducible refine State.fenceDevice_kept (cv rfl hks) ?_
    | with_reducible refine State.saveRoot_kept (cv rfl hks) ?_
    | with_reducible refine State.sendFm_kept (cv rfl hks) ?_
    | with_reducible refine State.setReset_kept (cv rfl hks) ?_
    | with_reducible refine State.sysEvt_kept (cv rfl hks) ?_
    | with_reducible refine State.telReset_kept (cv rfl hks) ?_
    | with_reducible refine State.tryDrain_kept (cv rfl hks) ?_
    | with_reducible refine State.waitReset_kept (cv rfl hks) ?_
    | with_reducible refine State.setErr_kept (cv rfl hks) ?_ ?_
    | dsimp only
    | with_reducible exact fun w => smWf_set _ _ _ _ w
    | with_reducible exact fun w => smWf_map _ _ _ w
    | with_reducible exact fun w => ⟨w.1, smWf_set _ _ _ _ w.2.1, w.2.2⟩
    | with_reducible exact fun w => ⟨smWf_set _ _ _ _ w.1, w.2⟩
    | with_reducible exact fun w => ⟨w.1, smWf_set _ _ _ _ w.2⟩
    | with_reducible exact fun w => ⟨smWf_map _ _ _ w.1, w.2⟩
    | with_reducible exact fun w => ⟨Nat.mod_lt _ (by decide), w.2⟩
    | exact id
    | dsimp only
    | with_reducible intro _
    | split

theorem State.runWaiting_kept {ks : Nat} {s0 : State} {s : State} (hks : Nat.land ks 166574289 = 166574289) (hk : Kept ks s0 s) :
    Kept ks s0 (State.runWaiting s) := by
  unfold State.runWaiting
  repeat' first
    | with_reducible assumption
    | with_reducible refine kept_foldl (fun _ _ _ => ?_) ?_
    | with_reducible refine State.resetCdie_kept (cv rfl hks) ?_
    | with_reducible refine State.resetDevice_kept (cv rfl hks) ?_
    | with_reducible refine State.setErr_kept (cv rfl hks) ?_ ?_
    | dsimp only
    | with_reducible exact fun w => smWf_set _ _ _ _ w
    | with_reducible exact fun w => smWf_map _ _ _ w
    | with_reducible exact fun w => ⟨w.1, smWf_set _ _ _ _ w.2.1, w.2.2⟩
    | with_reducible exact fun w => ⟨smWf_set _ _ _ _ w.1, w.2⟩
    | with_reducible exact fun w => ⟨w.1, smWf_set _ _ _ _ w.2⟩
    | with_reducible exact fun w => ⟨smWf_map _ _ _ w.1, w.2⟩
    | with_reducible exact fun w => ⟨Nat.mod_lt _ (by decide), w.2⟩
    | exact id
    | dsimp only
    | with_reducible intro _
    | split

theorem State.fencePart_kept {ks : Nat} {s0 : State} {s : State} {p : Fin 64} {r : ResetS} (hks : Nat.land ks 166312145 = 166312145) (hk : Kept ks s0 s) :
    Kept ks s0 (State.fencePart s p r) := by
  unfold State.fencePart
  repeat' first
    | with_reducible assumption
    | with_reducible refine kept_foldl1 (fun _ _ _ => ?_) ?_
    | with_reducible refine kept_foldl (fun _ _ _ => ?_) ?_
    | with_reducible refine State.charge_kept (cv rfl hks) ?_
    | with_reducible refine State.sendFm_kept (cv rfl hks) ?_
    | with_reducible refine State.setReset_kept (cv rfl hks) ?_
    | with_reducible refine State.stopCore_kept (cv rfl hks) ?_
    | with_reducible refine State.sweepGstep_kept (cv rfl hks) ?_
    | with_reducible refine State.telReset_kept (cv rfl hks) ?_
    | with_reducible refine State.tryDrain_kept (cv rfl hks) ?_
    | with_reducible refine State.setXfers_kept (cv rfl hks) ?_

theorem State.triggerCdie_kept {ks : Nat} {s0 : State} {s : State} {c : Fin 32} {code unit : Nat} {l : List Sub} (hks : Nat.land ks 166246609 = 166246609) (hk : Kept ks s0 s) :
    Kept ks s0 (State.triggerCdie s c code unit l) := by
  unfold State.triggerCdie
  repeat' first
    | with_reducible assumption
    | with_reducible refine State.raise_kept (cv rfl hks) ?_
    | with_reducible refine State.resetCdie_kept (cv rfl hks) ?_

theorem State.triggerDevice_kept {ks : Nat} {s0 : State} {s : State} {code die unit : Nat} {l : List Sub} (hks : Nat.land ks 166574289 = 166574289) (hk : Kept ks s0 s) :
    Kept ks s0 (State.triggerDevice s code die unit l) := by
  unfold State.triggerDevice
  repeat' first
    | with_reducible assumption
    | with_reducible refine State.raise_kept (cv rfl hks) ?_
    | with_reducible refine State.resetDevice_kept (cv rfl hks) ?_

end Sys2Proof.Machine
end

