-- ==== Sys2Proof/Laws/KeptHostPort.lean ====
section
/-! SUPPORT. What the definitions of Machine/HostPort.lean keep. -/

namespace Sys2Proof.Machine

open Sys2Proof Host

theorem State.deliver_kept {ks : Nat} {s0 : State} {s : State} {q : HostRead} {l : List Gran} {ok : Bool} {edges : List EdgeErr} (hks : Nat.land ks 166706897 = 166706897) (hk : Kept ks s0 s) :
    Kept ks s0 (State.deliver s q l ok edges) := by
  unfold State.deliver
  repeat' first
    | with_reducible assumption
    | with_reducible refine State.batchDone_kept (cv rfl hks) ?_
    | with_reducible refine State.flushDone_kept (cv rfl hks) ?_
    | with_reducible refine State.setGstep_kept (cv rfl hks) ?_
    | with_reducible refine State.storeIn_kept (cv rfl hks) ?_
    | with_reducible refine State.setXfers_kept (cv rfl hks) ?_
    | dsimp only
    | with_reducible intro _
    | split

theorem State.dropRead_kept {ks : Nat} {s0 : State} {s : State} {id : Nat} (hks : Nat.land ks 512 = 512) (hk : Kept ks s0 s) :
    Kept ks s0 (State.dropRead s id) := by
  unfold State.dropRead
  repeat' first
    | with_reducible assumption
    | with_reducible refine State.setReads_kept (cv rfl hks) ?_

theorem State.poisonFetches_kept {ks : Nat} {s0 : State} {s : State} {r : Nat} (hks : Nat.land ks 165681233 = 165681233) (hk : Kept ks s0 s) :
    Kept ks s0 (State.poisonFetches s r) := by
  unfold State.poisonFetches
  repeat' first
    | with_reducible assumption
    | with_reducible refine kept_foldl (fun _ _ _ => ?_) ?_
    | with_reducible refine State.raise_kept (cv rfl hks) ?_
    | dsimp only
    | with_reducible intro _
    | split

theorem State.fenceRing_kept {ks : Nat} {s0 : State} {s : State} {r : Nat} (hks : Nat.land ks 33 = 33) (hk : Kept ks s0 s) :
    Kept ks s0 (State.fenceRing s r) := by
  unfold State.fenceRing
  repeat' first
    | with_reducible assumption
    | with_reducible refine State.setBit_kept (cv rfl hks) ?_
    | with_reducible refine State.setRing_kept (cv rfl hks) ?_
    | dsimp only
    | with_reducible intro _
    | split

theorem State.poisonReads_kept {ks : Nat} {s0 : State} {s : State} {l : List HostRead} (hks : Nat.land ks 166706897 = 166706897) (hk : Kept ks s0 s) :
    Kept ks s0 (State.poisonReads s l) := by
  unfold State.poisonReads
  repeat' first
    | with_reducible assumption
    | with_reducible refine kept_foldl (fun _ _ _ => ?_) ?_
    | with_reducible refine State.deliver_kept (cv rfl hks) ?_
    | with_reducible refine State.dropRead_kept (cv rfl hks) ?_
    | with_reducible refine State.raise_kept (cv rfl hks) ?_

theorem State.loseHost_kept {ks : Nat} {s0 : State} {s : State} {p evt : Nat} {link : LinkSt} (hks : Nat.land ks 166706929 = 166706929) (hk : Kept ks s0 s) :
    Kept ks s0 (State.loseHost s p evt link) := by
  unfold State.loseHost
  repeat' first
    | with_reducible assumption
    | with_reducible refine kept_foldl (fun _ _ _ => ?_) ?_
    | with_reducible refine kept_getD ?_ ?_
    | with_reducible refine State.charge_kept (cv rfl hks) ?_
    | with_reducible refine State.fenceRing_kept (cv rfl hks) ?_
    | with_reducible refine State.poisonFetches_kept (cv rfl hks) ?_
    | with_reducible refine State.poisonReads_kept (cv rfl hks) ?_
    | with_reducible refine State.setBit_kept (cv rfl hks) ?_
    | with_reducible refine State.setHlt_kept (cv rfl hks) ?_ ?_
    | with_reducible refine State.setPort_kept (cv rfl hks) ?_
    | dsimp only
    | with_reducible exact fun w => smWf_set _ _ _ _ w
    | with_reducible exact fun w => smWf_map _ _ _ w
    | with_reducible exact fun w => ⟨w.1, smWf_set _ _ _ _ w.2.1, w.2.2⟩
    | with_reducible exact fun w => ⟨smWf_set _ _ _ _ w.1, w.2⟩
    | with_reducible exact fun w => ⟨w.1, smWf_set _ _ _ _ w.2⟩
    | with_reducible exact fun w => ⟨smWf_map _ _ _ w.1, w.2⟩
    | with_reducible exact fun w => ⟨Nat.mod_lt _ (by decide), w.2⟩
    | exact id
    | dsimp only
    | with_reducible intro _
    | split

theorem State.loseLink_kept {ks : Nat} {s0 : State} {s : State} {p evt : Nat} (hks : Nat.land ks 166706929 = 166706929) (hk : Kept ks s0 s) :
    Kept ks s0 (State.loseLink s p evt) := by
  unfold State.loseLink
  repeat' first
    | with_reducible assumption
    | with_reducible refine State.loseHost_kept (cv rfl hks) ?_
    | with_reducible refine State.setBit_kept (cv rfl hks) ?_
    | with_reducible refine State.setPort_kept (cv rfl hks) ?_
    | dsimp only
    | with_reducible intro _
    | split

theorem State.writePortCfg_kept {ks : Nat} {s0 : State} {s : State} {n : Nat} {w : Word} (hks : Nat.land ks 166706933 = 166706933) (hk : Kept ks s0 s) :
    Kept ks s0 (State.writePortCfg s n w) := by
  unfold State.writePortCfg
  repeat' first
    | with_reducible assumption
    | with_reducible refine State.loseHost_kept (cv rfl hks) ?_
    | with_reducible refine State.putRw_kept (cv rfl hks) ?_
    | with_reducible refine State.regErr_kept (cv rfl hks) ?_
    | with_reducible refine State.setLocks_kept (cv rfl hks) ?_
    | with_reducible refine State.setPort_kept (cv rfl hks) ?_
    | dsimp only
    | with_reducible intro _
    | split

end Sys2Proof.Machine
end

