-- ==== Sys2Proof/Laws/KeptPool.lean ====
section
/-! SUPPORT. What the definitions of Machine/Pool.lean keep. -/

namespace Sys2Proof.Machine

open Sys2Proof Host

theorem State.finishReq_kept {ks : Nat} {s0 : State} {s : State} {r : RemoteReq} {code : Nat} {l : List Gran} {edges : List EdgeErr} (hks : Nat.land ks 166444753 = 166444753) (hk : Kept ks s0 s) :
    Kept ks s0 (State.finishReq s r code l edges) := by
  unfold State.finishReq
  repeat' first
    | with_reducible assumption
    | with_reducible refine State.dropReq_kept (cv rfl hks) ?_
    | with_reducible refine State.endSend_kept (cv rfl hks) ?_
    | with_reducible refine State.raise_kept (cv rfl hks) ?_
    | with_reducible refine State.remoteRow_kept (cv rfl hks) ?_
    | with_reducible refine State.sendOver_kept (cv rfl hks) ?_
    | with_reducible refine kept_pair (by with_reducible assumption) ?_
    | dsimp only
    | with_reducible intro _
    | split

theorem State.failReq_kept {ks : Nat} {s0 : State} {s : State} {r : RemoteReq} {code : Nat} (hks : Nat.land ks 166444753 = 166444753) (hk : Kept ks s0 s) :
    Kept ks s0 (State.failReq s r code) := by
  unfold State.failReq
  repeat' first
    | with_reducible assumption
    | with_reducible refine State.finishReq_kept (cv rfl hks) ?_

theorem State.failReqs_kept {ks : Nat} {s0 : State} {s : State} {hit : RemoteReq → Bool} {code : Nat} (hks : Nat.land ks 166444753 = 166444753) (hk : Kept ks s0 s) :
    Kept ks s0 (State.failReqs s hit code) := by
  unfold State.failReqs
  repeat' first
    | with_reducible assumption
    | with_reducible refine kept_foldl (fun _ _ _ => ?_) ?_
    | with_reducible refine State.failReq_kept (cv rfl hks) ?_

theorem State.closeConn_kept {ks : Nat} {s0 : State} {s : State} {c : Conn} {code : Nat} (hks : Nat.land ks 166444753 = 166444753) (hk : Kept ks s0 s) :
    Kept ks s0 (State.closeConn s c code) := by
  unfold State.closeConn
  repeat' first
    | with_reducible assumption
    | with_reducible refine kept_foldl (fun _ _ _ => ?_) ?_
    | with_reducible refine State.dropConn_kept (cv rfl hks) ?_
    | with_reducible refine State.failReqs_kept (cv rfl hks) ?_
    | with_reducible refine State.raise_kept (cv rfl hks) ?_

theorem State.closeConns_kept {ks : Nat} {s0 : State} {s : State} {hit : Conn → Bool} {code : Nat} (hks : Nat.land ks 166444753 = 166444753) (hk : Kept ks s0 s) :
    Kept ks s0 (State.closeConns s hit code) := by
  unfold State.closeConns
  repeat' first
    | with_reducible assumption
    | with_reducible refine kept_foldl (fun _ _ _ => ?_) ?_
    | with_reducible refine State.closeConn_kept (cv rfl hks) ?_

theorem State.poolRead_kept {ks : Nat} {s0 : State} {s : State} {die o : Nat} {a0 : Nat} (hks : Nat.land ks 166205521 = 166205521) (hk : Kept ks s0 s) :
    Kept ks s0 (State.poolRead s die o a0).2.2 := by
  induction a0 generalizing s die o with
  | zero =>
    unfold State.poolRead
    repeat' first
      | with_reducible assumption
  | succ k ih =>
    unfold State.poolRead
    repeat' first
      | with_reducible assumption
      | with_reducible refine State.devRead_kept (cv rfl hks) ?_
      | with_reducible refine kept_pair3 (by with_reducible assumption) ?_
      | with_reducible apply ih
      | dsimp only
      | with_reducible intro _
      | split

theorem State.poolWrite_kept {ks : Nat} {s0 : State} {s : State} {die o : Nat} {a0 : List Gran} (hks : Nat.land ks 166205521 = 166205521) (hk : Kept ks s0 s) :
    Kept ks s0 (State.poolWrite s die o a0).2 := by
  induction a0 generalizing s die o with
  | nil =>
    unfold State.poolWrite
    repeat' first
      | with_reducible assumption
  | cons x t ih =>
    unfold State.poolWrite
    repeat' first
      | with_reducible assumption
      | with_reducible refine State.devWrite_kept (cv rfl hks) ?_
      | with_reducible refine kept_pair (by with_reducible assumption) ?_
      | with_reducible apply ih
      | dsimp only
      | with_reducible intro _
      | split

theorem State.meetPool_kept {ks : Nat} {s0 : State} {s : State} {o n : Nat} {bad : List Blemish} (hks : Nat.land ks 166205521 = 166205521) (hk : Kept ks s0 s) :
    Kept ks s0 (State.meetPool s o n bad) := by
  unfold State.meetPool
  repeat' first
    | with_reducible assumption
    | with_reducible refine State.meetDev_kept (cv rfl hks) ?_
    | dsimp only
    | with_reducible intro _
    | split

theorem State.poolAtomic_kept {ks : Nat} {s0 : State} {s : State} {die : Nat} {f : Frame} {op : Aop} (hks : Nat.land ks 166205521 = 166205521) (hk : Kept ks s0 s) :
    Kept ks s0 (State.poolAtomic s die f op).2.2 := by
  unfold State.poolAtomic
  repeat' first
    | with_reducible assumption
    | with_reducible refine State.agentAtomic_kept (cv rfl hks) ?_
    | with_reducible refine kept_pair3 (by with_reducible assumption) ?_
    | dsimp only
    | with_reducible intro _
    | split

theorem State.poolRow_kept {ks : Nat} {s0 : State} {s : State} {die o n : Nat} {upset : List Upset} {edges : List EdgeErr} (hks : Nat.land ks 166205521 = 166205521) (hk : Kept ks s0 s) :
    Kept ks s0 (State.poolRow s die o n upset edges).2.2 := by
  unfold State.poolRow
  repeat' first
    | with_reducible assumption
    | with_reducible refine State.extentLines_kept (cv rfl hks) ?_
    | with_reducible refine State.fetchOver_kept (fun _ _ _ _ => ?_) (cv rfl hks) ?_
    | with_reducible refine State.fillFirst_kept (cv rfl hks) ?_
    | with_reducible refine kept_pair3 (by with_reducible assumption) ?_
    | dsimp only
    | with_reducible intro _
    | split

theorem State.takeRsp_kept {ks : Nat} {s0 : State} {s : State} {q peer reqSeq status : Nat} {l : List Gran} {last : Bool} {edges : List EdgeErr} (hks : Nat.land ks 166444753 = 166444753) (hk : Kept ks s0 s) :
    Kept ks s0 (State.takeRsp s q peer reqSeq status l last edges) := by
  unfold State.takeRsp
  repeat' first
    | with_reducible assumption
    | with_reducible refine State.countPort_kept (cv rfl hks) ?_
    | with_reducible refine State.finishReq_kept (cv rfl hks) ?_
    | with_reducible refine State.issue_kept (cv rfl hks) ?_
    | with_reducible refine State.setFab_kept (cv rfl hks) ?_ ?_
    | dsimp only
    | with_reducible exact fun w => smWf_set _ _ _ _ w
    | with_reducible exact fun w => smWf_map _ _ _ w
    | with_reducible exact fun w => ⟨w.1, smWf_set _ _ _ _ w.2.1, w.2.2⟩
    | with_reducible exact fun w => ⟨smWf_set _ _ _ _ w.1, w.2⟩
    | with_reducible exact fun w => ⟨w.1, smWf_set _ _ _ _ w.2⟩
    | with_reducible exact fun w => ⟨smWf_map _ _ _ w.1, w.2⟩
    | exact id
    | dsimp only
    | with_reducible intro _
    | split

theorem State.respond_kept {ks : Nat} {s0 : State} {s : State} {q : Nat} {f : Frame} {status : Nat} {l : List Gran} (hks : Nat.land ks 166444753 = 166444753) (hk : Kept ks s0 s) :
    Kept ks s0 (State.respond s q f status l) := by
  unfold State.respond
  repeat' first
    | with_reducible assumption
    | with_reducible refine State.answer_kept (cv rfl hks) ?_
    | with_reducible refine State.raise_kept (cv rfl hks) ?_
    | with_reducible refine State.takeRsp_kept (cv rfl hks) ?_
    | dsimp only
    | with_reducible intro _
    | split

theorem State.arrive_cases {ks : Nat} {s0 : State} {s : State} {q op : Nat} {f : Frame} (hks : Nat.land ks 165681233 = 165681233) (hk : Kept ks s0 s) :
    Kept ks s0 (State.arrive s q op f).1 ∧ ∀ a ∈ (State.arrive s q op f).2, Kept ks s0 a.s := by
  have hc (t : State) (c : Conn) (h : Kept ks s0 t) : Kept ks s0 (t.setConn c) := State.setConn_kept (cv rfl hks) h
  unfold State.arrive
  split
  · exact ⟨hk, fun a h => nomatch h⟩
  · split
    · split
      · exact ⟨hk, fun a h => nomatch h⟩
      · refine ⟨hk, fun a h => ?_⟩
        cases h
        exact State.setFab_kept (cv rfl hks) id hk
    · have hr : RKept ks s0 (s.receive q f) := State.receive_kept (cv rfl hks) hk
      split
      · exact ⟨kept_dropped (by assumption) hr, fun a h => nomatch h⟩
      · have ht := kept_taken (by assumption) hr
        split
        · exact ⟨ht, fun a h => nomatch h⟩
        · dsimp only
          split
          · refine ⟨ht, fun a h => ?_⟩
            cases h
            exact hc _ _ ht
          · exact ⟨hc _ _ ht, fun a h => nomatch h⟩

theorem State.arrive_kept {ks : Nat} {s0 : State} {s : State} {q op : Nat} {f : Frame} (hks : Nat.land ks 165681233 = 165681233) (hk : Kept ks s0 s) :
    Kept ks s0 (State.arrive s q op f).1 := (State.arrive_cases hks hk).1

theorem State.arrive_some_kept {ks : Nat} {s0 : State} {s t : State} {q op : Nat} {f : Frame} {a : Arrived} (h : State.arrive s q op f = (t, some a))
    (hks : Nat.land ks 165681233 = 165681233) (hk : Kept ks s0 s) : Kept ks s0 a.s := by
  have := (State.arrive_cases (q := q) (op := op) (f := f) hks hk).2
  rw [h] at this
  exact this a rfl

theorem State.cxlPool_kept {ks : Nat} {s0 : State} {s : State} {h q : Nat} {f : Frame} {n : Nat} {phase : CxlPhase} {data : List Gran} (hks : Nat.land ks 136315904 = 136315904) (hk : Kept ks s0 s) :
    Kept ks s0 (State.cxlPool s h q f n phase data) := by
  unfold State.cxlPool
  repeat' first
    | with_reducible assumption
    | with_reducible refine State.cxlStart_kept (cv rfl hks) ?_

theorem State.cxlWake_kept {ks : Nat} {s0 : State} {s : State} (hks : Nat.land ks 166444753 = 166444753) (hk : Kept ks s0 s) :
    Kept ks s0 (State.cxlWake s) := by
  unfold State.cxlWake
  repeat' first
    | with_reducible assumption
    | with_reducible refine kept_foldl (fun _ _ _ => ?_) ?_
    | with_reducible refine State.respond_kept (cv rfl hks) ?_
    | with_reducible refine State.emit_kept (cv rfl hks) ?_
    | with_reducible refine State.setFab_kept (cv rfl hks) ?_ ?_
    | dsimp only
    | with_reducible exact fun w => smWf_set _ _ _ _ w
    | with_reducible exact fun w => smWf_map _ _ _ w
    | with_reducible exact fun w => ⟨w.1, smWf_set _ _ _ _ w.2.1, w.2.2⟩
    | with_reducible exact fun w => ⟨smWf_set _ _ _ _ w.1, w.2⟩
    | with_reducible exact fun w => ⟨w.1, smWf_set _ _ _ _ w.2⟩
    | with_reducible exact fun w => ⟨smWf_map _ _ _ w.1, w.2⟩
    | exact id
    | dsimp only
    | with_reducible intro _
    | split

theorem State.memberReq_kept {ks : Nat} {s0 : State} {s : State} {h q : Nat} {f : Frame} {n : Nat} {data : List Gran} {edges : List EdgeErr} (hks : Nat.land ks 166444753 = 166444753) (hk : Kept ks s0 s) :
    Kept ks s0 (State.memberReq s h q f n data edges) := by
  unfold State.memberReq
  repeat' first
    | with_reducible assumption
    | with_reducible refine State.cxlPool_kept (cv rfl hks) ?_
    | with_reducible refine State.respond_kept (cv rfl hks) ?_
    | with_reducible refine State.sendOver_kept (cv rfl hks) ?_
    | with_reducible refine kept_pair (by with_reducible assumption) ?_
    | dsimp only
    | with_reducible intro _
    | split

theorem State.memberAnswer_kept {ks : Nat} {s0 : State} {s : State} {x : CxlReq} {q : Nat} {f : Frame} {l : List Gran} {edges : List EdgeErr} (hks : Nat.land ks 166444753 = 166444753) (hk : Kept ks s0 s) :
    Kept ks s0 (State.memberAnswer s x q f l edges) := by
  unfold State.memberAnswer
  repeat' first
    | with_reducible assumption
    | with_reducible refine State.respond_kept (cv rfl hks) ?_
    | with_reducible refine State.sendOver_kept (cv rfl hks) ?_
    | with_reducible refine State.setFab_kept (cv rfl hks) ?_ ?_
    | dsimp only
    | with_reducible exact fun w => smWf_set _ _ _ _ w
    | with_reducible exact fun w => smWf_map _ _ _ w
    | with_reducible exact fun w => ⟨w.1, smWf_set _ _ _ _ w.2.1, w.2.2⟩
    | with_reducible exact fun w => ⟨smWf_set _ _ _ _ w.1, w.2⟩
    | with_reducible exact fun w => ⟨w.1, smWf_set _ _ _ _ w.2⟩
    | with_reducible exact fun w => ⟨smWf_map _ _ _ w.1, w.2⟩
    | exact id
    | with_reducible refine kept_pair (by with_reducible assumption) ?_
    | dsimp only
    | with_reducible intro _
    | split

theorem State.cxlReadDone_kept {ks : Nat} {s0 : State} {s : State} {x : CxlReq} {q : Nat} {f : Frame} {l : List Gran} {edges : List EdgeErr} (hks : Nat.land ks 166444753 = 166444753) (hk : Kept ks s0 s) :
    Kept ks s0 (State.cxlReadDone s x q f l edges) := by
  unfold State.cxlReadDone
  repeat' first
    | with_reducible assumption
    | with_reducible refine State.memberAnswer_kept (cv rfl hks) ?_
    | with_reducible refine State.respond_kept (cv rfl hks) ?_
    | with_reducible refine State.emit_kept (cv rfl hks) ?_
    | with_reducible refine State.setFab_kept (cv rfl hks) ?_ ?_
    | dsimp only
    | with_reducible exact fun w => smWf_set _ _ _ _ w
    | with_reducible exact fun w => smWf_map _ _ _ w
    | with_reducible exact fun w => ⟨w.1, smWf_set _ _ _ _ w.2.1, w.2.2⟩
    | with_reducible exact fun w => ⟨smWf_set _ _ _ _ w.1, w.2⟩
    | with_reducible exact fun w => ⟨w.1, smWf_set _ _ _ _ w.2⟩
    | with_reducible exact fun w => ⟨smWf_map _ _ _ w.1, w.2⟩
    | exact id
    | dsimp only
    | with_reducible intro _
    | split

theorem State.cxlRowDone_kept {ks : Nat} {s0 : State} {s : State} {x : CxlReq} {g : Nat} {error : Bool} (hks : Nat.land ks 165943377 = 165943377) (hk : Kept ks s0 s) :
    Kept ks s0 (State.cxlRowDone s x g error) := by
  unfold State.cxlRowDone
  repeat' first
    | with_reducible assumption
    | with_reducible refine State.rowFails_kept (cv rfl hks) ?_
    | with_reducible refine State.rowGone_kept (cv rfl hks) ?_
    | with_reducible refine State.rowOutcome_kept (cv rfl hks) ?_
    | with_reducible refine State.setFab_kept (cv rfl hks) ?_ ?_
    | dsimp only
    | with_reducible exact fun w => smWf_set _ _ _ _ w
    | with_reducible exact fun w => smWf_map _ _ _ w
    | with_reducible exact fun w => ⟨w.1, smWf_set _ _ _ _ w.2.1, w.2.2⟩
    | with_reducible exact fun w => ⟨smWf_set _ _ _ _ w.1, w.2⟩
    | with_reducible exact fun w => ⟨w.1, smWf_set _ _ _ _ w.2⟩
    | with_reducible exact fun w => ⟨smWf_map _ _ _ w.1, w.2⟩
    | exact id
    | dsimp only
    | with_reducible intro _
    | split

end Sys2Proof.Machine
end

