-- ==== Sys2Proof/Laws/KeptFabric.lean ====
section
/-! SUPPORT. What the definitions of Machine/Fabric.lean keep. -/

namespace Sys2Proof.Machine

open Sys2Proof Host

theorem State.pumpFm_kept {ks : Nat} {s0 : State} {s : State} (hks : Nat.land ks 165681233 = 165681233) (hk : Kept ks s0 s) :
    Kept ks s0 (State.pumpFm s) := by
  unfold State.pumpFm
  repeat' first
    | with_reducible assumption
    | with_reducible refine State.connFull_kept (cv rfl hks) ?_
    | with_reducible refine State.pump_kept (cv rfl hks) ?_
    | with_reducible refine State.raise_kept (cv rfl hks) ?_
    | with_reducible refine State.wantHello_kept (cv rfl hks) ?_
    | with_reducible refine State.setFab_kept (cv rfl hks) ?_ ?_
    | dsimp only
    | with_reducible exact fun w => smWf_set _ _ _ _ w
    | with_reducible exact fun w => smWf_map _ _ _ w
    | with_reducible exact fun w => ⟨w.1, smWf_set _ _ _ _ w.2.1, w.2.2⟩
    | with_reducible exact fun w => ⟨smWf_set _ _ _ _ w.1, w.2⟩
    | with_reducible exact fun w => ⟨w.1, smWf_set _ _ _ _ w.2⟩
    | with_reducible exact fun w => ⟨smWf_map _ _ _ w.1, w.2⟩
    | exact id
    | dsimp only
    | with_reducible intro _
    | split

theorem State.onConns_kept {ks : Nat} {s0 s : State} {q peer : Nat} {f : State → Conn → State} (hf : ∀ s c, Kept ks s0 s → Kept ks s0 (f s c))
    (hk : Kept ks s0 s) : Kept ks s0 (State.onConns s q peer f) := kept_foldl hf hk

theorem State.refuseFm_kept {ks : Nat} {s0 : State} {s : State} {q : Nat} (hks : Nat.land ks 165681233 = 165681233) (hk : Kept ks s0 s) :
    Kept ks s0 (State.refuseFm s q) := by
  unfold State.refuseFm
  repeat' first
    | with_reducible assumption
    | with_reducible refine State.raise_kept (cv rfl hks) ?_
    | with_reducible refine State.setBit_kept (cv rfl hks) ?_

theorem State.fmAct_kept {ks : Nat} {s0 : State} {s : State} {q type subject state n : Nat} (hks : Nat.land ks 166444753 = 166444753) (hk : Kept ks s0 s) :
    Kept ks s0 (State.fmAct s q type subject state n) := by
  unfold State.fmAct
  repeat' first
    | with_reducible assumption
    | with_reducible refine State.closeConns_kept (cv rfl hks) ?_
    | with_reducible refine State.failReqs_kept (cv rfl hks) ?_
    | with_reducible refine State.raise_kept (cv rfl hks) ?_
    | with_reducible refine State.setFab_kept (cv rfl hks) ?_ ?_
    | dsimp only
    | with_reducible exact fun w => smWf_set _ _ _ _ w
    | with_reducible exact fun w => smWf_map _ _ _ w
    | with_reducible exact fun w => ⟨w.1, smWf_set _ _ _ _ w.2.1, w.2.2⟩
    | with_reducible exact fun w => ⟨smWf_set _ _ _ _ w.1, w.2⟩
    | with_reducible exact fun w => ⟨w.1, smWf_set _ _ _ _ w.2⟩
    | with_reducible exact fun w => ⟨smWf_map _ _ _ w.1, w.2⟩
    | exact id
    | dsimp only
    | with_reducible intro _
    | split

theorem State.fmFrame_kept {ks : Nat} {s0 : State} {s : State} {q : Nat} {f : Frame} (hks : Nat.land ks 166444753 = 166444753) (hk : Kept ks s0 s) :
    Kept ks s0 (State.fmFrame s q f) := by
  unfold State.fmFrame
  repeat' first
    | with_reducible assumption
    | with_reducible refine State.fmAct_kept (cv rfl hks) ?_
    | with_reducible refine State.receive_kept (cv rfl hks) ?_
    | with_reducible refine State.refuseFm_kept (cv rfl hks) ?_
    | with_reducible refine kept_dropped (by with_reducible assumption) ?_
    | with_reducible refine kept_taken (by with_reducible assumption) ?_
    | dsimp only
    | with_reducible intro _
    | split

theorem State.losePort_kept {ks : Nat} {s0 : State} {s : State} {q link : Nat} (hks : Nat.land ks 166444753 = 166444753) (hk : Kept ks s0 s) :
    Kept ks s0 (State.losePort s q link) := by
  unfold State.losePort
  repeat' first
    | with_reducible assumption
    | with_reducible refine State.closeConns_kept (cv rfl hks) ?_
    | with_reducible refine State.raise_kept (cv rfl hks) ?_
    | with_reducible refine State.sendFm_kept (cv rfl hks) ?_
    | with_reducible refine State.setBit_kept (cv rfl hks) ?_
    | with_reducible refine State.setFport_kept (cv rfl hks) ?_

theorem State.vstRefused_kept {ks : Nat} {s0 : State} {s : State} {g : RG} {i : Nat} (hks : Nat.land ks 1 = 1) (hk : Kept ks s0 s) :
    Kept ks s0 (State.vstRefused s g i) := by
  unfold State.vstRefused
  repeat' first
    | with_reducible assumption
    | with_reducible refine State.regErr_kept (cv rfl hks) ?_
    | with_reducible refine State.setBit_kept (cv rfl hks) ?_

theorem State.writeVstId_kept {ks : Nat} {s0 : State} {s : State} {w : Word} (hks : Nat.land ks 5 = 5) (hk : Kept ks s0 s) :
    Kept ks s0 (State.writeVstId s w) := by
  unfold State.writeVstId
  repeat' first
    | with_reducible assumption
    | with_reducible refine State.putRw_kept (cv rfl hks) ?_
    | with_reducible refine State.regErr_kept (cv rfl hks) ?_
    | with_reducible refine State.setLocks_kept (cv rfl hks) ?_
    | dsimp only
    | with_reducible intro _
    | split

theorem State.writeVstMac_kept {ks : Nat} {s0 : State} {s : State} {w : Word} (hks : Nat.land ks 1 = 1) (hk : Kept ks s0 s) :
    Kept ks s0 (State.writeVstMac s w) := by
  unfold State.writeVstMac
  repeat' first
    | with_reducible assumption
    | with_reducible refine State.putRw_kept (cv rfl hks) ?_
    | with_reducible refine State.vstRefused_kept (cv rfl hks) ?_
    | dsimp only
    | with_reducible intro _
    | split

theorem State.writeVstPortCfg_kept {ks : Nat} {s0 : State} {s : State} {f : Nat} {w : Word} (hks : Nat.land ks 1 = 1) (hk : Kept ks s0 s) :
    Kept ks s0 (State.writeVstPortCfg s f w) := by
  unfold State.writeVstPortCfg
  repeat' first
    | with_reducible assumption
    | with_reducible refine State.putRw_kept (cv rfl hks) ?_
    | with_reducible refine State.vstRefused_kept (cv rfl hks) ?_
    | dsimp only
    | with_reducible intro _
    | split

theorem State.writeVstTmo_kept {ks : Nat} {s0 : State} {s : State} {w : Word} (hks : Nat.land ks 1 = 1) (hk : Kept ks s0 s) :
    Kept ks s0 (State.writeVstTmo s w) := by
  unfold State.writeVstTmo
  repeat' first
    | with_reducible assumption
    | with_reducible refine State.putRw_kept (cv rfl hks) ?_
    | with_reducible refine State.regErr_kept (cv rfl hks) ?_
    | with_reducible refine State.setBit_kept (cv rfl hks) ?_
    | dsimp only
    | with_reducible intro _
    | split

theorem State.writeVstCtrl_kept {ks : Nat} {s0 : State} {s : State} {w : Word} (hks : Nat.land ks 166444753 = 166444753) (hk : Kept ks s0 s) :
    Kept ks s0 (State.writeVstCtrl s w) := by
  unfold State.writeVstCtrl
  repeat' first
    | with_reducible assumption
    | with_reducible refine kept_foldl (fun _ _ _ => ?_) ?_
    | with_reducible refine State.losePort_kept (cv rfl hks) ?_
    | with_reducible refine State.putRw_kept (cv rfl hks) ?_
    | with_reducible refine State.regErr_kept (cv rfl hks) ?_
    | with_reducible refine State.vstRefused_kept (cv rfl hks) ?_
    | with_reducible refine State.setFport_kept (cv rfl hks) ?_
    | dsimp only
    | with_reducible intro _
    | split

theorem State.writeVstFm_kept {ks : Nat} {s0 : State} {s : State} {w : Word} (hks : Nat.land ks 2097153 = 2097153) (hk : Kept ks s0 s) :
    Kept ks s0 (State.writeVstFm s w) := by
  unfold State.writeVstFm
  repeat' first
    | with_reducible assumption
    | with_reducible refine State.putRw_kept (cv rfl hks) ?_
    | with_reducible refine State.setFab_kept (cv rfl hks) ?_ ?_
    | dsimp only
    | with_reducible exact fun w => smWf_set _ _ _ _ w
    | with_reducible exact fun w => smWf_map _ _ _ w
    | with_reducible exact fun w => ⟨w.1, smWf_set _ _ _ _ w.2.1, w.2.2⟩
    | with_reducible exact fun w => ⟨smWf_set _ _ _ _ w.1, w.2⟩
    | with_reducible exact fun w => ⟨w.1, smWf_set _ _ _ _ w.2⟩
    | with_reducible exact fun w => ⟨smWf_map _ _ _ w.1, w.2⟩
    | exact id

theorem State.writeVstCxl_kept {ks : Nat} {s0 : State} {s : State} {n : Nat} {w : Word} (hks : Nat.land ks 1 = 1) (hk : Kept ks s0 s) :
    Kept ks s0 (State.writeVstCxl s n w) := by
  unfold State.writeVstCxl
  repeat' first
    | with_reducible assumption
    | with_reducible refine State.putRw_kept (cv rfl hks) ?_
    | with_reducible refine State.vstRefused_kept (cv rfl hks) ?_
    | with_reducible refine State.setReg_kept (cv rfl hks) ?_
    | dsimp only
    | with_reducible intro _
    | split

theorem State.writeServe_kept {ks : Nat} {s0 : State} {s : State} {gdie : Bool} {n : Nat} {w : Word} (hks : Nat.land ks 1 = 1) (hk : Kept ks s0 s) :
    Kept ks s0 (State.writeServe s gdie n w) := by
  unfold State.writeServe
  repeat' first
    | with_reducible assumption
    | with_reducible refine State.putRw_kept (cv rfl hks) ?_
    | with_reducible refine State.regErr_kept (cv rfl hks) ?_
    | with_reducible refine State.setBit_kept (cv rfl hks) ?_
    | dsimp only
    | with_reducible intro _
    | split

end Sys2Proof.Machine
end

