-- ==== Sys2Proof/Laws/KeptBoot.lean ====
section
/-! SUPPORT. What the definitions of Machine/Boot.lean keep. -/

namespace Sys2Proof.Machine

open Sys2Proof Host

theorem okept_with {m : Nat} {b : State} {f : State → State} {o : Option State} (h : OKept m b (fun x => x) o)
    (hf : ∀ t, Kept m b t → Kept m b (f t)) : OKept m b f o := fun y e => hf y (h y e)

theorem State.secRecord_kept {ks : Nat} {s0 : State} {s : State} {code : Nat} (hks : Nat.land ks 165681233 = 165681233) (hk : Kept ks s0 s) :
    Kept ks s0 (State.secRecord s code) := by
  unfold State.secRecord
  repeat' first
    | with_reducible assumption
    | with_reducible refine State.raise_kept (cv rfl hks) ?_
    | with_reducible refine State.setBit_kept (cv rfl hks) ?_
    | dsimp only
    | with_reducible intro _
    | split

theorem State.loadRoot_kept {ks : Nat} {s0 : State} {s : State} (hks : Nat.land ks 13107200 = 13107200) (hk : Kept ks s0 s) :
    Kept ks s0 (State.loadRoot s) := by
  unfold State.loadRoot
  dsimp only
  refine kept_foldl (fun _ _ h => State.setDom_kept (cv rfl hks) h) (kept_foldl (fun _ _ h => State.setCdie_kept (cv rfl hks) h) ?_)
  exact State.setMem_kept (cv rfl hks) (fun c => c.same rfl) (State.setErr_kept (cv rfl hks) (fun w => ⟨rfl, w.2⟩) hk)

theorem State.loadUnits_kept {ks : Nat} {s0 : State} {s : State} (hks : Nat.land ks 16777216 = 16777216) (hk : Kept ks s0 s) :
    Kept ks s0 (State.loadUnits s) := by
  unfold State.loadUnits
  exact State.setHlt_kept (cv rfl hks) (fun w => ⟨smWf_fold (fun _ => UnitRec.init) id s.history _ rfl, w.2⟩) hk

theorem State.wiped_kept {ks : Nat} {s0 s : State} {pwr : Bool} (hks : Nat.land ks 134217727 = 134217727) (hk : Kept ks s0 s) :
    Kept ks s0 (State.wiped s pwr) := by
  refine State.loadUnits_kept (cv rfl hks) (State.loadRoot_kept (cv rfl hks) (Kept.trans hk ⟨fun p hp => ?_, List.suffix_refl _, Nat.le_refl _, fun c => ?_⟩))
  · cases p
    case pending => rfl
    case out => rfl
    case free => rfl
    all_goals exact absurd (bit_of hks (by decide)) (Bool.eq_false_iff.mp hp)
  · refine ⟨⟨rfl, rfl, rfl, rfl, rfl, rfl, rfl, rfl, rfl, rfl⟩, ?_, ?_, rfl, rfl, rfl, ?_, rfl, rfl, rfl, rfl, rfl, rfl, rfl, c.doms, c.boot, c.roots,
      rfl, c.mram, ?_⟩
    · cases pwr <;> exact (by decide : (0 : Nat) < 2 ^ 64)
    · cases pwr <;> rfl
    · dsimp only; exact smWf_map _ _ _ c.ports
    · dsimp only; exact smWf_map _ _ _ c.sensors

/-- The ways of a step's failure leave the firmware domains and the copies in MRAM alone. -/
theorem State.failWay_kept {s : State} {k : Nat} {failed : BitVec 64} {stk : Word} {doms : BitVec 5} {b : BootS}
    (h : s.failWay k failed stk doms = some b) : b.doms = s.boot.doms ∧ b.mram = s.boot.mram := by
  unfold State.failWay at h
  split at h <;> dsimp only at h <;> (repeat' split at h) <;> first | cases h; exact ⟨rfl, rfl⟩ | cases h

theorem BootS.retried_kept {b : BootS} : b.retried.doms = b.doms ∧ b.retried.mram = b.mram := by
  unfold BootS.retried
  have aux (f : BootS → Nat → BootS) (hf : ∀ c i, (f c i).doms = c.doms ∧ (f c i).mram = c.mram) :
      ∀ (l : List Nat) (c : BootS), (l.foldl f c).doms = c.doms ∧ (l.foldl f c).mram = c.mram := by
    intro l
    induction l with
    | nil => exact fun c => ⟨rfl, rfl⟩
    | cons i l ih => exact fun c => ⟨(ih (f c i)).1.trans (hf c i).1, (ih (f c i)).2.trans (hf c i).2⟩
  refine aux _ (fun c i => ?_) _ _
  split <;> exact ⟨rfl, rfl⟩

theorem State.setBoot_same {ks : Nat} {s0 s : State} {b : BootS} (hks : Nat.land ks 8388608 = 8388608)
    (h : b.doms = s.boot.doms ∧ b.mram = s.boot.mram) (hk : Kept ks s0 s) : Kept ks s0 (s.setBoot b) :=
  State.setBoot_kept (cv rfl hks) (by rw [h.1, h.2]; exact id) hk

theorem State.putCairn_kept {ks : Nat} {s0 : State} {s : State} {c : Cairn} (hks : Nat.land ks 8388608 = 8388608) (hk : Kept ks s0 s) :
    Kept ks s0 (State.putCairn s c) := by
  unfold State.putCairn
  repeat' first
    | with_reducible assumption
    | with_reducible refine kept_foldl (fun _ _ _ => ?_) ?_
    | with_reducible refine State.setMram_kept (cv rfl hks) ?_

theorem State.cairn_kept {ks : Nat} {s0 : State} {s : State} {k : Nat} {isEnd : Bool} {result code : Nat} {failed : BitVec 64} {stk : Word} (hks : Nat.land ks 8388608 = 8388608) (hk : Kept ks s0 s) :
    Kept ks s0 (State.cairn s k isEnd result code failed stk) := by
  unfold State.cairn
  repeat' first
    | with_reducible assumption
    | with_reducible refine State.putCairn_kept (cv rfl hks) ?_

theorem State.putImage_kept {ks : Nat} {s0 : State} {s : State} {d i : Nat} {l : List Byte} (hks : Nat.land ks 8388608 = 8388608) (hk : Kept ks s0 s) :
    Kept ks s0 (State.putImage s d i l) := by
  unfold State.putImage
  repeat' first
    | with_reducible assumption
    | with_reducible refine kept_foldl (fun _ _ _ => ?_) ?_
    | with_reducible refine State.setMram_kept (cv rfl hks) ?_

theorem State.beginStep_kept {ks : Nat} {s0 : State} {s : State} {k : Nat} (hks : Nat.land ks 8388608 = 8388608) (hk : Kept ks s0 s) :
    Kept ks s0 (State.beginStep s k) := by
  unfold State.beginStep
  repeat' first
    | with_reducible assumption
    | with_reducible refine State.cairn_kept (cv rfl hks) ?_
    | with_reducible refine State.setBoot_kept (cv rfl hks) ?_ ?_
    | dsimp only
    | with_reducible exact fun w => smWf_set _ _ _ _ w
    | with_reducible exact fun w => smWf_map _ _ _ w
    | with_reducible exact fun w => ⟨w.1, smWf_set _ _ _ _ w.2.1, w.2.2⟩
    | with_reducible exact fun w => ⟨smWf_set _ _ _ _ w.1, w.2⟩
    | with_reducible exact fun w => ⟨w.1, smWf_set _ _ _ _ w.2⟩
    | with_reducible exact fun w => ⟨smWf_map _ _ _ w.1, w.2⟩
    | with_reducible exact fun w => ⟨Nat.mod_lt _ (by decide), w.2⟩
    | exact id

theorem State.bootFailed_kept {ks : Nat} {s0 : State} {s : State} {roms : Bool} (hks : Nat.land ks 134217727 = 134217727) (hk : Kept ks s0 s) :
    Kept ks s0 (State.bootFailed s roms) := by
  unfold State.bootFailed
  repeat' first
    | with_reducible assumption
    | with_reducible refine State.wiped_kept (cv rfl hks) ?_
    | with_reducible refine State.setBoot_kept (cv rfl hks) ?_ ?_
    | dsimp only
    | with_reducible exact fun w => smWf_set _ _ _ _ w
    | with_reducible exact fun w => smWf_map _ _ _ w
    | with_reducible exact fun w => ⟨w.1, smWf_set _ _ _ _ w.2.1, w.2.2⟩
    | with_reducible exact fun w => ⟨smWf_set _ _ _ _ w.1, w.2⟩
    | with_reducible exact fun w => ⟨w.1, smWf_set _ _ _ _ w.2⟩
    | with_reducible exact fun w => ⟨smWf_map _ _ _ w.1, w.2⟩
    | with_reducible exact fun w => ⟨Nat.mod_lt _ (by decide), w.2⟩
    | exact id

theorem State.beginStart_kept {ks : Nat} {s0 s : State} {pwr : Bool} (hks : Nat.land ks 134217727 = 134217727) (hk : Kept ks s0 s) :
    Kept ks s0 (State.beginStart s pwr) := by
  have hw : Kept ks s0 (s.wiped pwr) := State.wiped_kept (cv rfl hks) hk
  have fin (t : State) (b : BootS) (ht : Kept ks s0 t) (hm : b.doms = t.boot.doms ∧ b.mram = t.boot.mram) :
      Kept ks s0 (if b.retried.tries ≥ 4 then (t.setBoot b.retried).bootFailed false else
        ((List.range 5).foldl (fun s d => s.setDom d { s.dom d with run := s.chooseSlot d, pend := false })
          (t.setBoot { b.retried with start := (b.retried.start + 1) % 2 ^ 32, tries := b.retried.tries + 1, colds := (b.retried.colds + 1) % 2 ^ 32,
                                      lastCode := b.retried.failCode, failCode := 0 })).beginStep 1) := by
    have hr : b.retried.doms = t.boot.doms ∧ b.retried.mram = t.boot.mram := ⟨BootS.retried_kept.1.trans hm.1, BootS.retried_kept.2.trans hm.2⟩
    split
    · exact State.bootFailed_kept (cv rfl hks) (State.setBoot_same (cv rfl hks) hr ht)
    · exact State.beginStep_kept (cv rfl hks) (kept_foldl (fun _ _ h => State.setDom_kept (cv rfl hks) h) (State.setBoot_same (cv rfl hks) hr ht))
  unfold State.beginStart
  dsimp only
  generalize s.wiped pwr = w at hw
  generalize w.tornStep = tn
  cases tn with
  | none => exact fin w _ hw ⟨rfl, rfl⟩
  | some c =>
    have ht : Kept ks s0 (w.putCairn { c with isEnd := true, result := 1, code := 0 }) := State.putCairn_kept (cv rfl hks) hw
    dsimp only
    split
    · exact State.bootFailed_kept (cv rfl hks) ht
    · exact fin _ _ ht (State.failWay_kept (by assumption))

theorem State.failStep_kept {ks : Nat} {s0 s : State} {k result : Nat} {codes : List Nat} {failed : BitVec 64} {stk : Word} {doms : BitVec 5}
    {elapsed : Word} (hks : Nat.land ks 268435455 = 268435455) (hk : Kept ks s0 s) : Kept ks s0 (State.failStep s k result codes failed stk doms elapsed) := by
  unfold State.failStep
  dsimp only
  have h (t : State) (ht : Kept ks s0 t) : Kept ks s0 (match t.failWay k failed stk doms with
      | none => t.bootFailed (k == 2 && t.boot.romsOnly failed)
      | some b => if b.tries ≥ 4 then (t.setBoot b).bootFailed false else (t.setBoot b).beginStart true) := by
    split
    · exact State.bootFailed_kept (cv rfl hks) ht
    · have hb := State.setBoot_same (cv rfl hks) (State.failWay_kept (by assumption)) ht
      split
      · exact State.bootFailed_kept (cv rfl hks) hb
      · exact State.beginStart_kept (cv rfl hks) hb
  refine h _ (State.cairn_kept (cv rfl hks) (kept_foldl (fun _ _ h => State.secRecord_kept (cv rfl hks) h) ?_))
  exact State.setBoot_kept (cv rfl hks) id hk

theorem State.compat_kept {ks : Nat} {s0 : State} {s : State} (hks : Nat.land ks 165722329 = 165722329) (hk : Kept ks s0 s) :
    OKept ks s0 (fun x => x) (State.compat s) := by
  unfold State.compat
  repeat' first
    | with_reducible assumption
    | with_reducible refine kept_foldl (fun _ _ _ => ?_) ?_
    | with_reducible refine kept_getD ?_ ?_
    | with_reducible refine State.secRecord_kept (cv rfl hks) ?_
    | with_reducible refine State.setBit_kept (cv rfl hks) ?_
    | with_reducible refine State.timeAnew_kept (cv rfl hks) ?_
    | with_reducible refine State.setBoot_kept (cv rfl hks) ?_ ?_
    | with_reducible refine State.setDom_kept (cv rfl hks) ?_
    | exact okept_none
    | with_reducible refine okept_some ?_
    | dsimp only
    | with_reducible exact fun w => smWf_set _ _ _ _ w
    | with_reducible exact fun w => smWf_map _ _ _ w
    | with_reducible exact fun w => ⟨w.1, smWf_set _ _ _ _ w.2.1, w.2.2⟩
    | with_reducible exact fun w => ⟨smWf_set _ _ _ _ w.1, w.2⟩
    | with_reducible exact fun w => ⟨w.1, smWf_set _ _ _ _ w.2⟩
    | with_reducible exact fun w => ⟨smWf_map _ _ _ w.1, w.2⟩
    | with_reducible exact fun w => ⟨Nat.mod_lt _ (by decide), w.2⟩
    | exact id
    | dsimp only
    | with_reducible intro _
    | split

theorem State.writeLeaf_kept {ks : Nat} {s0 : State} {s : State} {g : Signing} {i : Nat} (hks : Nat.land ks 8388609 = 8388609) (hk : Kept ks s0 s) :
    Kept ks s0 (State.writeLeaf s g i) := by
  unfold State.writeLeaf
  repeat' first
    | with_reducible assumption
    | with_reducible refine kept_foldl1 (fun _ _ _ => ?_) ?_
    | with_reducible refine kept_foldl (fun _ _ _ => ?_) ?_
    | with_reducible refine State.setBit_kept (cv rfl hks) ?_
    | with_reducible refine State.setBoot_kept (cv rfl hks) ?_ ?_
    | with_reducible refine State.setMram_kept (cv rfl hks) ?_
    | dsimp only
    | with_reducible exact fun w => smWf_set _ _ _ _ w
    | with_reducible exact fun w => smWf_map _ _ _ w
    | with_reducible exact fun w => ⟨w.1, smWf_set _ _ _ _ w.2.1, w.2.2⟩
    | with_reducible exact fun w => ⟨smWf_set _ _ _ _ w.1, w.2⟩
    | with_reducible exact fun w => ⟨w.1, smWf_set _ _ _ _ w.2⟩
    | with_reducible exact fun w => ⟨smWf_map _ _ _ w.1, w.2⟩
    | with_reducible exact fun w => ⟨Nat.mod_lt _ (by decide), w.2⟩
    | with_reducible exact fun w => lmsFold _ _ w.2 w.1
    | exact id
    | dsimp only
    | with_reducible intro _
    | split

theorem State.signLeaf_kept {ks : Nat} {s0 : State} {s : State} {g : Signing} (hks : Nat.land ks 8388609 = 8388609) (hk : Kept ks s0 s) :
    Kept ks s0 (State.signLeaf s g).1 := by
  unfold State.signLeaf
  repeat' first
    | with_reducible assumption
    | with_reducible refine State.writeLeaf_kept (cv rfl hks) ?_
    | dsimp only
    | with_reducible intro _
    | split

theorem State.deriveDevice_kept {ks : Nat} {s0 : State} {s : State} (hks : Nat.land ks 8388608 = 8388608) (hk : Kept ks s0 s) :
    Kept ks s0 (State.deriveDevice s) := by
  unfold State.deriveDevice
  repeat' first
    | with_reducible assumption
    | with_reducible refine State.setBoot_kept (cv rfl hks) ?_ ?_
    | dsimp only
    | with_reducible exact fun w => smWf_set _ _ _ _ w
    | with_reducible exact fun w => smWf_map _ _ _ w
    | with_reducible exact fun w => ⟨w.1, smWf_set _ _ _ _ w.2.1, w.2.2⟩
    | with_reducible exact fun w => ⟨smWf_set _ _ _ _ w.1, w.2⟩
    | with_reducible exact fun w => ⟨w.1, smWf_set _ _ _ _ w.2⟩
    | with_reducible exact fun w => ⟨smWf_map _ _ _ w.1, w.2⟩
    | with_reducible exact fun w => ⟨Nat.mod_lt _ (by decide), w.2⟩
    | exact id

theorem State.deriveLayer1_kept {ks : Nat} {s0 : State} {s : State} (hks : Nat.land ks 8388608 = 8388608) (hk : Kept ks s0 s) :
    Kept ks s0 (State.deriveLayer1 s) := by
  unfold State.deriveLayer1
  repeat' first
    | with_reducible assumption
    | with_reducible refine State.setBoot_kept (cv rfl hks) ?_ ?_
    | dsimp only
    | with_reducible exact fun w => smWf_set _ _ _ _ w
    | with_reducible exact fun w => smWf_map _ _ _ w
    | with_reducible exact fun w => ⟨w.1, smWf_set _ _ _ _ w.2.1, w.2.2⟩
    | with_reducible exact fun w => ⟨smWf_set _ _ _ _ w.1, w.2⟩
    | with_reducible exact fun w => ⟨w.1, smWf_set _ _ _ _ w.2⟩
    | with_reducible exact fun w => ⟨smWf_map _ _ _ w.1, w.2⟩
    | with_reducible exact fun w => ⟨Nat.mod_lt _ (by decide), w.2⟩
    | exact id
    | dsimp only
    | with_reducible intro _
    | split

theorem State.deriveAlias_kept {ks : Nat} {s0 : State} {s : State} {g : Signing} (hks : Nat.land ks 165681233 = 165681233) (hk : Kept ks s0 s) :
    Kept ks s0 (State.deriveAlias s g) := by
  unfold State.deriveAlias
  repeat' first
    | with_reducible assumption
    | with_reducible refine State.secRecord_kept (cv rfl hks) ?_
    | with_reducible refine State.signLeaf_kept (cv rfl hks) ?_
    | with_reducible refine State.setBoot_kept (cv rfl hks) ?_ ?_
    | dsimp only
    | with_reducible exact fun w => smWf_set _ _ _ _ w
    | with_reducible exact fun w => smWf_map _ _ _ w
    | with_reducible exact fun w => ⟨w.1, smWf_set _ _ _ _ w.2.1, w.2.2⟩
    | with_reducible exact fun w => ⟨smWf_set _ _ _ _ w.1, w.2⟩
    | with_reducible exact fun w => ⟨w.1, smWf_set _ _ _ _ w.2⟩
    | with_reducible exact fun w => ⟨smWf_map _ _ _ w.1, w.2⟩
    | with_reducible exact fun w => ⟨Nat.mod_lt _ (by decide), w.2⟩
    | exact id
    | with_reducible refine kept_fst (by with_reducible assumption) ?_
    | dsimp only
    | with_reducible intro _
    | split

theorem State.noteVerified_kept {ks : Nat} {s0 : State} {s : State} {d : Nat} {ok : Bool} (hks : Nat.land ks 8388608 = 8388608) (hk : Kept ks s0 s) :
    Kept ks s0 (State.noteVerified s d ok) := by
  unfold State.noteVerified
  repeat' first
    | with_reducible assumption
    | with_reducible refine State.setDom_kept (cv rfl hks) ?_

theorem State.relabel_kept {ks : Nat} {s0 : State} {s : State} {die unit st : Nat} (hks : Nat.land ks 150995009 = 150995009) (hk : Kept ks s0 s) :
    Kept ks s0 (State.relabel s die unit st) := by
  unfold State.relabel
  repeat' first
    | with_reducible assumption
    | with_reducible refine State.telemetry_kept (cv rfl hks) ?_
    | with_reducible refine State.toMram_kept (cv rfl hks) ?_
    | with_reducible refine State.setUnit_kept (cv rfl hks) ?_

theorem State.labelUnits_kept {ks : Nat} {s0 : State} {s : State} (hks : Nat.land ks 150995009 = 150995009) (hk : Kept ks s0 s) :
    Kept ks s0 (State.labelUnits s) := by
  unfold State.labelUnits
  repeat' first
    | with_reducible assumption
    | with_reducible refine kept_foldl1 (fun _ _ _ => ?_) ?_
    | with_reducible refine kept_foldl (fun _ _ _ => ?_) ?_
    | with_reducible refine State.relabel_kept (cv rfl hks) ?_

theorem State.startClock_kept {ks : Nat} {s0 : State} {s : State} (hks : Nat.land ks 165722329 = 165722329) (hk : Kept ks s0 s) :
    Kept ks s0 (State.startClock s) := by
  unfold State.startClock
  repeat' first
    | with_reducible assumption
    | with_reducible refine State.timeAnew_kept (cv rfl hks) ?_
    | with_reducible refine State.setBoot_kept (cv rfl hks) ?_ ?_
    | with_reducible refine State.setTime_kept (cv rfl hks) ?_ ?_
    | dsimp only
    | with_reducible exact fun w => smWf_set _ _ _ _ w
    | with_reducible exact fun w => smWf_map _ _ _ w
    | with_reducible exact fun w => ⟨w.1, smWf_set _ _ _ _ w.2.1, w.2.2⟩
    | with_reducible exact fun w => ⟨smWf_set _ _ _ _ w.1, w.2⟩
    | with_reducible exact fun w => ⟨w.1, smWf_set _ _ _ _ w.2⟩
    | with_reducible exact fun w => ⟨smWf_map _ _ _ w.1, w.2⟩
    | with_reducible exact fun w => ⟨Nat.mod_lt _ (by decide), w.2⟩
    | exact id

theorem State.startCdies_kept {ks : Nat} {s0 : State} {s : State} (hks : Nat.land ks 555008 = 555008) (hk : Kept ks s0 s) :
    Kept ks s0 (State.startCdies s) := by
  unfold State.startCdies
  repeat' first
    | with_reducible assumption
    | with_reducible refine kept_foldl1 (fun _ _ _ => ?_) ?_
    | with_reducible refine kept_foldl (fun _ _ _ => ?_) ?_
    | with_reducible refine State.clearCore_kept (cv rfl hks) ?_
    | with_reducible refine State.setArray_kept (cv rfl hks) ?_
    | with_reducible refine State.setCore_kept (cv rfl hks) ?_
    | dsimp only
    | with_reducible intro _
    | split

theorem State.testSweep_kept {ks : Nat} {s0 : State} {s : State} {k : Nat} (hks : Nat.land ks 16779264 = 16779264) (hk : Kept ks s0 s) :
    Kept ks s0 (State.testSweep s k) := by
  unfold State.testSweep
  repeat' first
    | with_reducible assumption
    | with_reducible refine State.bump_kept (cv rfl hks) ?_
    | with_reducible refine State.setArea_kept (cv rfl hks) ?_
    | with_reducible refine State.setArray_kept (cv rfl hks) ?_

theorem State.selfTest_kept {ks : Nat} {s0 : State} {s : State} {die unit : Nat} (hks : Nat.land ks 165681233 = 165681233) (hk : Kept ks s0 s) :
    Kept ks s0 (State.selfTest s die unit) := by
  unfold State.selfTest
  repeat' first
    | with_reducible assumption
    | with_reducible refine State.afterClean_kept (cv rfl hks) ?_
    | with_reducible refine State.bump_kept (cv rfl hks) ?_
    | with_reducible refine State.failSeed_kept (cv rfl hks) ?_
    | with_reducible refine State.raise_kept (cv rfl hks) ?_
    | dsimp only
    | with_reducible intro _
    | split

theorem State.stepDone_kept {ks : Nat} {s0 : State} {s : State} {k : Nat} {r : StepReport} (hks : Nat.land ks 166263001 = 166263001) (hk : Kept ks s0 s) :
    OKept ks s0 (fun x => x) (State.stepDone s k r) := by
  unfold State.stepDone
  repeat' first
    | exact okept_with (State.compat_kept (cv rfl hks) hk) fun t h => by split; exacts [h, State.deriveAlias_kept (cv rfl hks) h]
    | with_reducible assumption
    | with_reducible apply MemS.foldl_imp
    | with_reducible exact fun c => MemS.Canonical.same c rfl
    | with_reducible refine kept_foldl1 (fun _ _ _ => ?_) ?_
    | with_reducible refine kept_foldl (fun _ _ _ => ?_) ?_
    | with_reducible refine State.compat_kept (cv rfl hks) ?_
    | with_reducible refine State.deriveAlias_kept (cv rfl hks) ?_
    | with_reducible refine State.deriveDevice_kept (cv rfl hks) ?_
    | with_reducible refine State.deriveLayer1_kept (cv rfl hks) ?_
    | with_reducible refine State.labelUnits_kept (cv rfl hks) ?_
    | with_reducible refine State.noteVerified_kept (cv rfl hks) ?_
    | with_reducible refine State.selfTest_kept (cv rfl hks) ?_
    | with_reducible refine State.startCdies_kept (cv rfl hks) ?_
    | with_reducible refine State.startClock_kept (cv rfl hks) ?_
    | with_reducible refine State.testSweep_kept (cv rfl hks) ?_
    | with_reducible refine State.setBoot_kept (cv rfl hks) ?_ ?_
    | with_reducible refine State.setMem_kept (cv rfl hks) ?_ ?_
    | with_reducible refine okept_map ?_
    | with_reducible refine okept_const ?_
    | exact okept_none
    | with_reducible refine okept_some ?_
    | dsimp only
    | with_reducible exact fun w => smWf_set _ _ _ _ w
    | with_reducible exact fun w => smWf_map _ _ _ w
    | with_reducible exact fun w => ⟨w.1, smWf_set _ _ _ _ w.2.1, w.2.2⟩
    | with_reducible exact fun w => ⟨smWf_set _ _ _ _ w.1, w.2⟩
    | with_reducible exact fun w => ⟨w.1, smWf_set _ _ _ _ w.2⟩
    | with_reducible exact fun w => ⟨smWf_map _ _ _ w.1, w.2⟩
    | with_reducible exact fun w => ⟨Nat.mod_lt _ (by decide), w.2⟩
    | exact id
    | with_reducible refine kept_opt1 (by with_reducible assumption) ?_
    | dsimp only
    | with_reducible intro _
    | split

theorem State.nextStep_kept {ks : Nat} {s0 : State} {s : State} {k : Nat} (hks : Nat.land ks 8388608 = 8388608) (hk : Kept ks s0 s) :
    Kept ks s0 (State.nextStep s k) := by
  unfold State.nextStep
  repeat' first
    | with_reducible assumption
    | with_reducible refine State.beginStep_kept (cv rfl hks) ?_
    | with_reducible refine State.setBoot_kept (cv rfl hks) ?_ ?_
    | dsimp only
    | with_reducible exact fun w => smWf_set _ _ _ _ w
    | with_reducible exact fun w => smWf_map _ _ _ w
    | with_reducible exact fun w => ⟨w.1, smWf_set _ _ _ _ w.2.1, w.2.2⟩
    | with_reducible exact fun w => ⟨smWf_set _ _ _ _ w.1, w.2⟩
    | with_reducible exact fun w => ⟨w.1, smWf_set _ _ _ _ w.2⟩
    | with_reducible exact fun w => ⟨smWf_map _ _ _ w.1, w.2⟩
    | with_reducible exact fun w => ⟨Nat.mod_lt _ (by decide), w.2⟩
    | exact id
    | dsimp only
    | with_reducible intro _
    | split

theorem State.compatFails_kept {ks : Nat} {s0 : State} {s : State} {code : Nat} (hks : Nat.land ks 268435455 = 268435455) (hk : Kept ks s0 s) :
    Kept ks s0 (State.compatFails s code) := by
  unfold State.compatFails
  repeat' first
    | with_reducible assumption
    | with_reducible refine kept_foldl1 (fun _ _ _ => ?_) ?_
    | with_reducible refine kept_foldl (fun _ _ _ => ?_) ?_
    | with_reducible refine State.bootFailed_kept (cv rfl hks) ?_
    | with_reducible refine State.cairn_kept (cv rfl hks) ?_
    | with_reducible refine State.secRecord_kept (cv rfl hks) ?_
    | with_reducible refine State.setBoot_kept (cv rfl hks) ?_ ?_
    | dsimp only
    | with_reducible exact fun w => smWf_set _ _ _ _ w
    | with_reducible exact fun w => smWf_map _ _ _ w
    | with_reducible exact fun w => ⟨w.1, smWf_set _ _ _ _ w.2.1, w.2.2⟩
    | with_reducible exact fun w => ⟨smWf_set _ _ _ _ w.1, w.2⟩
    | with_reducible exact fun w => ⟨w.1, smWf_set _ _ _ _ w.2⟩
    | with_reducible exact fun w => ⟨smWf_map _ _ _ w.1, w.2⟩
    | with_reducible exact fun w => ⟨Nat.mod_lt _ (by decide), w.2⟩
    | exact id

theorem State.makeGood_kept {ks : Nat} {s0 : State} {s : State} (hks : Nat.land ks 12582912 = 12582912) (hk : Kept ks s0 s) :
    Kept ks s0 (State.makeGood s) := by
  unfold State.makeGood
  repeat' first
    | with_reducible assumption
    | with_reducible refine kept_foldl (fun _ _ _ => ?_) ?_
    | with_reducible refine State.saveRoot_kept (cv rfl hks) ?_
    | with_reducible refine State.setDom_kept (cv rfl hks) ?_

theorem State.writeBootCtrl_kept {ks : Nat} {s0 : State} {s : State} {w : Word} (hks : Nat.land ks 12582913 = 12582913) (hk : Kept ks s0 s) :
    Kept ks s0 (State.writeBootCtrl s w) := by
  unfold State.writeBootCtrl
  repeat' first
    | with_reducible assumption
    | with_reducible refine State.makeGood_kept (cv rfl hks) ?_
    | with_reducible refine State.regErr_kept (cv rfl hks) ?_
    | with_reducible refine State.setBoot_kept (cv rfl hks) ?_ ?_
    | dsimp only
    | with_reducible exact fun w => smWf_set _ _ _ _ w
    | with_reducible exact fun w => smWf_map _ _ _ w
    | with_reducible exact fun w => ⟨w.1, smWf_set _ _ _ _ w.2.1, w.2.2⟩
    | with_reducible exact fun w => ⟨smWf_set _ _ _ _ w.1, w.2⟩
    | with_reducible exact fun w => ⟨w.1, smWf_set _ _ _ _ w.2⟩
    | with_reducible exact fun w => ⟨smWf_map _ _ _ w.1, w.2⟩
    | with_reducible exact fun w => ⟨Nat.mod_lt _ (by decide), w.2⟩
    | exact id
    | dsimp only
    | with_reducible intro _
    | split

end Sys2Proof.Machine
end

