-- ==== Sys2Proof/Laws/KeptFirmware.lean ====
section
/-! SUPPORT. What the definitions of Machine/Firmware.lean keep. -/

namespace Sys2Proof.Machine

open Sys2Proof Host

theorem State.pldm_kept {ks : Nat} {s0 : State} {s : State} {via : Via} {command code data : Nat} (hks : Nat.land ks 134217728 = 134217728) (hk : Kept ks s0 s) :
    Kept ks s0 (State.pldm s via command code data) := by
  unfold State.pldm
  repeat' first
    | with_reducible assumption
    | with_reducible refine State.emit_kept (cv rfl hks) ?_

theorem State.setFw_kept {ks : Nat} {s0 : State} {s : State} {m : FwMode} {comps : List Nat} {cur : Option FwXfer} {ready : List Nat} (hks : Nat.land ks 8388608 = 8388608) (hk : Kept ks s0 s) :
    Kept ks s0 (State.setFw s m comps cur ready) := by
  unfold State.setFw
  repeat' first
    | with_reducible assumption
    | with_reducible refine State.setBoot_kept (cv rfl hks) ?_ ?_
    | dsimp only
    | with_reducible exact fun w => smWf_set _ _ _ _ w
    | with_reducible exact fun w => smWf_map _ _ _ w
    | with_reducible exact fun w => ⟨w.1, smWf_set _ _ _ _ w.2.1, w.2.2⟩
    | with_reducible exact fun w => ⟨smWf_set _ _ _ _ w.1, w.2⟩
    | with_reducible exact fun w => ⟨w.1, smWf_set _ _ _ _ w.2⟩
    | with_reducible exact fun w => ⟨smWf_map _ _ _ w.1, w.2⟩
    | with_reducible exact fun w => ⟨Nat.mod_lt _ (by decide), w.2⟩
    | exact id

theorem State.fwDeny_kept {ks : Nat} {s0 : State} {s : State} {via : Via} {command : Nat} (hks : Nat.land ks 134217728 = 134217728) (hk : Kept ks s0 s) :
    Kept ks s0 (State.fwDeny s via command) := by
  unfold State.fwDeny
  repeat' first
    | with_reducible assumption
    | with_reducible refine State.pldm_kept (cv rfl hks) ?_

theorem State.askData_kept {ks : Nat} {s0 : State} {s : State} {x : FwXfer} (hks : Nat.land ks 134217728 = 134217728) (hk : Kept ks s0 s) :
    Kept ks s0 (State.askData s x) := by
  unfold State.askData
  repeat' first
    | with_reducible assumption
    | with_reducible refine State.pldm_kept (cv rfl hks) ?_

theorem State.fwWrite_kept {ks : Nat} {s0 : State} {s : State} {d : Nat} {l : List Byte} (hks : Nat.land ks 8388608 = 8388608) (hk : Kept ks s0 s) :
    Kept ks s0 (State.fwWrite s d l) := by
  unfold State.fwWrite
  repeat' first
    | with_reducible assumption
    | with_reducible refine State.putImage_kept (cv rfl hks) ?_
    | with_reducible refine State.setDom_kept (cv rfl hks) ?_

theorem State.fwJudge_kept {ks : Nat} {s0 : State} {s : State} {d : Nat} {misread : List Misread} (hks : Nat.land ks 165681233 = 165681233) (hk : Kept ks s0 s) :
    Kept ks s0 (State.fwJudge s d misread) := by
  unfold State.fwJudge
  repeat' first
    | with_reducible assumption
    | with_reducible refine State.pldm_kept (cv rfl hks) ?_
    | with_reducible refine State.secRecord_kept (cv rfl hks) ?_
    | with_reducible refine State.setFw_kept (cv rfl hks) ?_
    | with_reducible refine State.setDom_kept (cv rfl hks) ?_
    | dsimp only
    | with_reducible intro _
    | split

theorem State.stopFdie_kept {ks : Nat} {s0 : State} {s : State} {f : Nat} (hks : Nat.land ks 166444761 = 166444761) (hk : Kept ks s0 s) :
    Kept ks s0 (State.stopFdie s f) := by
  unfold State.stopFdie
  repeat' first
    | with_reducible assumption
    | with_reducible refine kept_foldl (fun _ _ _ => ?_) ?_
    | with_reducible refine State.losePort_kept (cv rfl hks) ?_
    | with_reducible refine State.timeDieFails_kept (cv rfl hks) ?_
    | with_reducible refine State.setFport_kept (cv rfl hks) ?_
    | dsimp only
    | with_reducible intro _
    | split

theorem State.startFdie_kept {ks : Nat} {s0 : State} {s : State} {f : Nat} (hks : Nat.land ks 2097160 = 2097160) (hk : Kept ks s0 s) :
    Kept ks s0 (State.startFdie s f) := by
  unfold State.startFdie
  repeat' first
    | with_reducible assumption
    | with_reducible refine kept_foldl (fun _ _ _ => ?_) ?_
    | with_reducible refine State.setFport_kept (cv rfl hks) ?_
    | with_reducible refine State.setTime_kept (cv rfl hks) ?_ ?_
    | dsimp only
    | with_reducible exact fun w => smWf_set _ _ _ _ w
    | with_reducible exact fun w => smWf_map _ _ _ w
    | with_reducible exact fun w => ⟨w.1, smWf_set _ _ _ _ w.2.1, w.2.2⟩
    | with_reducible exact fun w => ⟨smWf_set _ _ _ _ w.1, w.2⟩
    | with_reducible exact fun w => ⟨w.1, smWf_set _ _ _ _ w.2⟩
    | with_reducible exact fun w => ⟨smWf_map _ _ _ w.1, w.2⟩
    | with_reducible exact fun w => ⟨Nat.mod_lt _ (by decide), w.2⟩
    | exact id
    | dsimp only
    | with_reducible intro _
    | split

theorem State.startAct_kept {ks : Nat} {s0 : State} {s : State} {a0 : List (Nat × Nat)} (hks : Nat.land ks 166444761 = 166444761) (hk : Kept ks s0 s) :
    Kept ks s0 (State.startAct s a0) := by
  unfold State.startAct
  repeat' first
    | with_reducible assumption
    | with_reducible refine State.stopFdie_kept (cv rfl hks) ?_
    | with_reducible refine State.setBoot_kept (cv rfl hks) ?_ ?_
    | dsimp only
    | with_reducible exact fun w => smWf_set _ _ _ _ w
    | with_reducible exact fun w => smWf_map _ _ _ w
    | with_reducible exact fun w => ⟨w.1, smWf_set _ _ _ _ w.2.1, w.2.2⟩
    | with_reducible exact fun w => ⟨smWf_set _ _ _ _ w.1, w.2⟩
    | with_reducible exact fun w => ⟨w.1, smWf_set _ _ _ _ w.2⟩
    | with_reducible exact fun w => ⟨smWf_map _ _ _ w.1, w.2⟩
    | with_reducible exact fun w => ⟨Nat.mod_lt _ (by decide), w.2⟩
    | exact id
    | dsimp only
    | with_reducible intro _
    | split

theorem State.endDie_kept {ks : Nat} {s0 : State} {s : State} {a : FwAct} {rest : List (Nat × Nat)} {runs : Bool} {g : Signing} (hks : Nat.land ks 166706905 = 166706905) (hk : Kept ks s0 s) :
    Kept ks s0 (State.endDie s a rest runs g) := by
  unfold State.endDie
  repeat' first
    | with_reducible assumption
    | with_reducible refine State.deriveAlias_kept (cv rfl hks) ?_
    | with_reducible refine State.runWaiting_kept (cv rfl hks) ?_
    | with_reducible refine State.startAct_kept (cv rfl hks) ?_
    | with_reducible refine State.startFdie_kept (cv rfl hks) ?_
    | with_reducible refine State.setBoot_kept (cv rfl hks) ?_ ?_
    | with_reducible refine State.setDom_kept (cv rfl hks) ?_
    | dsimp only
    | with_reducible exact fun w => smWf_set _ _ _ _ w
    | with_reducible exact fun w => smWf_map _ _ _ w
    | with_reducible exact fun w => ⟨w.1, smWf_set _ _ _ _ w.2.1, w.2.2⟩
    | with_reducible exact fun w => ⟨smWf_set _ _ _ _ w.1, w.2⟩
    | with_reducible exact fun w => ⟨w.1, smWf_set _ _ _ _ w.2⟩
    | with_reducible exact fun w => ⟨smWf_map _ _ _ w.1, w.2⟩
    | with_reducible exact fun w => ⟨Nat.mod_lt _ (by decide), w.2⟩
    | exact id
    | dsimp only
    | with_reducible intro _
    | split

theorem State.startGdie_kept {ks : Nat} {s0 : State} {s : State} (hks : Nat.land ks 8388608 = 8388608) (hk : Kept ks s0 s) :
    Kept ks s0 (State.startGdie s) := by
  unfold State.startGdie
  repeat' first
    | with_reducible assumption
    | with_reducible refine State.setBoot_kept (cv rfl hks) ?_ ?_
    | dsimp only
    | with_reducible exact fun w => smWf_set _ _ _ _ w
    | with_reducible exact fun w => smWf_map _ _ _ w
    | with_reducible exact fun w => ⟨w.1, smWf_set _ _ _ _ w.2.1, w.2.2⟩
    | with_reducible exact fun w => ⟨smWf_set _ _ _ _ w.1, w.2⟩
    | with_reducible exact fun w => ⟨w.1, smWf_set _ _ _ _ w.2⟩
    | with_reducible exact fun w => ⟨smWf_map _ _ _ w.1, w.2⟩
    | with_reducible exact fun w => ⟨Nat.mod_lt _ (by decide), w.2⟩
    | exact id
    | dsimp only
    | with_reducible intro _
    | split

theorem State.fwAtReset_kept {ks : Nat} {s0 : State} {s : State} (hks : Nat.land ks 166444761 = 166444761) (hk : Kept ks s0 s) :
    Kept ks s0 (State.fwAtReset s) := by
  unfold State.fwAtReset
  repeat' first
    | with_reducible assumption
    | with_reducible refine kept_foldl1 (fun _ _ _ => ?_) ?_
    | with_reducible refine kept_foldl (fun _ _ _ => ?_) ?_
    | with_reducible refine State.deriveAlias_kept (cv rfl hks) ?_
    | with_reducible refine State.setBit_kept (cv rfl hks) ?_
    | with_reducible refine State.startAct_kept (cv rfl hks) ?_
    | with_reducible refine State.setBoot_kept (cv rfl hks) ?_ ?_
    | with_reducible refine State.setDom_kept (cv rfl hks) ?_
    | dsimp only
    | with_reducible exact fun w => smWf_set _ _ _ _ w
    | with_reducible exact fun w => smWf_map _ _ _ w
    | with_reducible exact fun w => ⟨w.1, smWf_set _ _ _ _ w.2.1, w.2.2⟩
    | with_reducible exact fun w => ⟨smWf_set _ _ _ _ w.1, w.2⟩
    | with_reducible exact fun w => ⟨w.1, smWf_set _ _ _ _ w.2⟩
    | with_reducible exact fun w => ⟨smWf_map _ _ _ w.1, w.2⟩
    | with_reducible exact fun w => ⟨Nat.mod_lt _ (by decide), w.2⟩
    | exact id
    | dsimp only
    | with_reducible intro _
    | split

theorem State.fwPowerLost_kept {ks : Nat} {s0 : State} {s : State} (hks : Nat.land ks 8388608 = 8388608) (hk : Kept ks s0 s) :
    Kept ks s0 (State.fwPowerLost s) := by
  unfold State.fwPowerLost
  repeat' first
    | with_reducible assumption
    | with_reducible refine kept_foldl1 (fun _ _ _ => ?_) ?_
    | with_reducible refine kept_foldl (fun _ _ _ => ?_) ?_
    | with_reducible refine State.setDom_kept (cv rfl hks) ?_
    | dsimp only
    | with_reducible intro _
    | split

theorem State.fwCancel_kept {ks : Nat} {s0 : State} {s : State} (hks : Nat.land ks 8388608 = 8388608) (hk : Kept ks s0 s) :
    Kept ks s0 (State.fwCancel s) := by
  unfold State.fwCancel
  repeat' first
    | with_reducible assumption
    | with_reducible refine State.setFw_kept (cv rfl hks) ?_

end Sys2Proof.Machine
end

