-- ==== Sys2Proof/Laws/KeptPartition.lean ====
section
/-! SUPPORT. What the definitions of Machine/Partition.lean keep. -/

namespace Sys2Proof.Machine

open Sys2Proof Host

theorem State.began_kept {ks : Nat} {s0 : State} {s : State} {x : Sub} {info : Nat} (hks : Nat.land ks 128 = 128) (hk : Kept ks s0 s) :
    Kept ks s0 (State.began s x info) := by
  unfold State.began
  repeat' first
    | with_reducible assumption
    | with_reducible refine State.setSub_kept (cv rfl hks) ?_

theorem State.completes_kept {ks : Nat} {s0 : State} {s : State} {x : Sub} {info : Nat} (hks : Nat.land ks 165723857 = 165723857) (hk : Kept ks s0 s) :
    Kept ks s0 (State.completes s x info) := by
  unfold State.completes
  repeat' first
    | with_reducible assumption
    | with_reducible refine State.began_kept (cv rfl hks) ?_
    | with_reducible refine State.finish_kept (cv rfl hks) ?_

theorem State.failShifted_kept {ks : Nat} {s0 : State} {s : State} {p d : Nat} (hks : Nat.land ks 165722321 = 165722321) (hk : Kept ks s0 s) :
    Kept ks s0 (State.failShifted s p d) := by
  unfold State.failShifted
  repeat' first
    | with_reducible assumption
    | with_reducible refine kept_foldl (fun _ _ _ => ?_) ?_
    | with_reducible refine State.charge_kept (cv rfl hks) ?_

theorem State.resumeAt_kept {ks : Nat} {s0 : State} {s : State} {p : Nat} {h : HoldS} {b : Nat} (hks : Nat.land ks 165788113 = 165788113) (hk : Kept ks s0 s) :
    Kept ks s0 (State.resumeAt s p h b) := by
  unfold State.resumeAt
  repeat' first
    | with_reducible assumption
    | with_reducible refine State.failShifted_kept (cv rfl hks) ?_
    | with_reducible refine State.setGsteps_kept (cv rfl hks) ?_
    | with_reducible refine State.setPart_kept (cv rfl hks) ?_
    | with_reducible refine State.setSlots_kept (cv rfl hks) ?_
    | with_reducible refine State.setSubs_kept (cv rfl hks) ?_

theorem State.partRefused_kept {ks : Nat} {s0 : State} {s : State} {p : Nat} (hks : Nat.land ks 1 = 1) (hk : Kept ks s0 s) :
    Kept ks s0 (State.partRefused s p) := by
  unfold State.partRefused
  repeat' first
    | with_reducible assumption
    | with_reducible refine State.regErr_kept (cv rfl hks) ?_
    | with_reducible refine State.setBit_kept (cv rfl hks) ?_

theorem State.writePartCtrl_kept {ks : Nat} {s0 : State} {s : State} {p : Nat} {w : Word} (hks : Nat.land ks 17 = 17) (hk : Kept ks s0 s) :
    Kept ks s0 (State.writePartCtrl s p w) := by
  unfold State.writePartCtrl
  repeat' first
    | with_reducible assumption
    | with_reducible refine State.partRefused_kept (cv rfl hks) ?_
    | with_reducible refine State.putRw_kept (cv rfl hks) ?_
    | with_reducible refine State.setPart_kept (cv rfl hks) ?_
    | with_reducible refine State.setReg_kept (cv rfl hks) ?_
    | dsimp only
    | with_reducible intro _
    | split

theorem State.writeCoreOwn_kept {ks : Nat} {s0 : State} {s : State} {k : Nat} {w : Word} (hks : Nat.land ks 4097 = 4097) (hk : Kept ks s0 s) :
    Kept ks s0 (State.writeCoreOwn s k w) := by
  unfold State.writeCoreOwn
  repeat' first
    | with_reducible assumption
    | with_reducible refine State.putRw_kept (cv rfl hks) ?_
    | with_reducible refine State.regErr_kept (cv rfl hks) ?_
    | with_reducible refine State.setBit_kept (cv rfl hks) ?_
    | with_reducible refine State.setCore_kept (cv rfl hks) ?_
    | dsimp only
    | with_reducible intro _
    | split

end Sys2Proof.Machine
end

