-- ==== Sys2Proof/Laws/KeptRecovery.lean ====
section
/-! SUPPORT. What the definitions of Machine/Recovery.lean keep. -/

namespace Sys2Proof.Machine

open Sys2Proof Host

theorem State.closeSet_kept {ks : Nat} {s0 : State} {s : State} {p : Nat} {guilty : Option Nat} (hks : Nat.land ks 165681233 = 165681233) (hk : Kept ks s0 s) :
    Kept ks s0 (State.closeSet s p guilty) := by
  unfold State.closeSet
  repeat' first
    | with_reducible assumption
    | with_reducible refine kept_getD ?_ ?_
    | with_reducible refine State.qualify_kept (cv rfl hks) ?_
    | with_reducible refine State.setBit_kept (cv rfl hks) ?_
    | with_reducible refine State.sysEvt_kept (cv rfl hks) ?_
    | with_reducible refine State.setPart_kept (cv rfl hks) ?_
    | dsimp only
    | with_reducible intro _
    | split

theorem State.markSuspect_kept {ks : Nat} {s0 : State} {s : State} {p m : Nat} {lastEnd : Nat} (hks : Nat.land ks 165681233 = 165681233) (hk : Kept ks s0 s) :
    Kept ks s0 (State.markSuspect s p m lastEnd) := by
  unfold State.markSuspect
  repeat' first
    | with_reducible assumption
    | with_reducible refine State.closeSet_kept (cv rfl hks) ?_
    | with_reducible refine State.setPart_kept (cv rfl hks) ?_
    | dsimp only
    | with_reducible intro _
    | split

theorem State.endReplay_kept {ks : Nat} {s0 : State} {s : State} {c : Suspect} (hks : Nat.land ks 128 = 128) (hk : Kept ks s0 s) :
    Kept ks s0 (State.endReplay s c) := by
  unfold State.endReplay
  repeat' first
    | with_reducible assumption
    | with_reducible refine State.setSubs_kept (cv rfl hks) ?_

theorem State.judgeReplays_kept {ks : Nat} {s0 : State} {s : State} {code die unit : Nat} {l : List Sub} (hks : Nat.land ks 165681361 = 165681361) (hk : Kept ks s0 s) :
    Kept ks s0 (State.judgeReplays s code die unit l).1 := by
  unfold State.judgeReplays
  repeat' first
    | with_reducible assumption
    | with_reducible refine kept_foldl1 (fun _ _ _ => ?_) ?_
    | with_reducible refine kept_foldl (fun _ _ _ => ?_) ?_
    | with_reducible refine State.closeSet_kept (cv rfl hks) ?_
    | with_reducible refine State.endReplay_kept (cv rfl hks) ?_
    | with_reducible refine State.markSuspect_kept (cv rfl hks) ?_
    | dsimp only
    | with_reducible intro _
    | split

theorem State.hitCdie_kept {ks : Nat} {s0 : State} {s : State} {c : Fin 32} {code unit : Nat} {l : List Sub} (hks : Nat.land ks 166246609 = 166246609) (hk : Kept ks s0 s) :
    Kept ks s0 (State.hitCdie s c code unit l) := by
  unfold State.hitCdie
  repeat' first
    | with_reducible assumption
    | with_reducible refine State.judgeReplays_kept (cv rfl hks) ?_
    | with_reducible refine State.raise_kept (cv rfl hks) ?_
    | with_reducible refine State.resetCdie_kept (cv rfl hks) ?_
    | with_reducible refine State.triggerCdie_kept (cv rfl hks) ?_
    | with_reducible refine kept_fst (by with_reducible assumption) ?_
    | dsimp only
    | with_reducible intro _
    | split

theorem State.hitDevice_kept {ks : Nat} {s0 : State} {s : State} {code die unit : Nat} {l : List Sub} (hks : Nat.land ks 166574289 = 166574289) (hk : Kept ks s0 s) :
    Kept ks s0 (State.hitDevice s code die unit l) := by
  unfold State.hitDevice
  repeat' first
    | with_reducible assumption
    | with_reducible refine State.judgeReplays_kept (cv rfl hks) ?_
    | with_reducible refine State.raise_kept (cv rfl hks) ?_
    | with_reducible refine State.resetDevice_kept (cv rfl hks) ?_
    | with_reducible refine State.triggerDevice_kept (cv rfl hks) ?_
    | with_reducible refine kept_fst (by with_reducible assumption) ?_
    | dsimp only
    | with_reducible intro _
    | split

theorem State.sameReset_kept {ks : Nat} {s0 : State} {s : State} {z : SuspectSet} (hks : Nat.land ks 166574289 = 166574289) (hk : Kept ks s0 s) :
    Kept ks s0 (State.sameReset s z) := by
  unfold State.sameReset
  repeat' first
    | with_reducible assumption
    | with_reducible refine State.resetCdie_kept (cv rfl hks) ?_
    | with_reducible refine State.resetDevice_kept (cv rfl hks) ?_
    | dsimp only
    | with_reducible intro _
    | split

theorem State.crossingRecord_kept {ks : Nat} {s0 : State} {s : State} {die unit : Nat} {l : List Sub} (hks : Nat.land ks 165681233 = 165681233) (hk : Kept ks s0 s) :
    Kept ks s0 (State.crossingRecord s die unit l) := by
  unfold State.crossingRecord
  repeat' first
    | with_reducible assumption
    | with_reducible refine State.raise_kept (cv rfl hks) ?_

theorem State.channelGone_kept {ks : Nat} {s0 : State} {s : State} {ch : Nat} (hks : Nat.land ks 18874368 = 18874368) (hk : Kept ks s0 s) :
    Kept ks s0 (State.channelGone s ch) := by
  unfold State.channelGone
  repeat' first
    | with_reducible assumption
    | with_reducible refine State.sendFm_kept (cv rfl hks) ?_
    | dsimp only
    | with_reducible intro _
    | split

theorem State.giveUp_kept {ks : Nat} {s0 : State} {s : State} {q : HostRead} (hks : Nat.land ks 229888 = 229888) (hk : Kept ks s0 s) :
    Kept ks s0 (State.giveUp s q) := by
  unfold State.giveUp
  repeat' first
    | with_reducible assumption
    | with_reducible refine State.dropGstep_kept (cv rfl hks) ?_
    | with_reducible refine State.dropRead_kept (cv rfl hks) ?_
    | with_reducible refine State.dropUstep_kept (cv rfl hks) ?_
    | with_reducible refine State.setXfers_kept (cv rfl hks) ?_
    | dsimp only
    | with_reducible intro _
    | split

theorem State.overrunPart_kept {ks : Nat} {s0 : State} {s : State} {p : Nat} (hks : Nat.land ks 166574289 = 166574289) (hk : Kept ks s0 s) :
    Kept ks s0 (State.overrunPart s p) := by
  unfold State.overrunPart
  repeat' first
    | with_reducible assumption
    | with_reducible refine kept_foldl (fun _ _ _ => ?_) ?_
    | with_reducible refine State.raise_kept (cv rfl hks) ?_
    | with_reducible refine State.resetCdie_kept (cv rfl hks) ?_
    | with_reducible refine State.resetDevice_kept (cv rfl hks) ?_
    | dsimp only
    | with_reducible intro _
    | split

theorem State.partsAnew_kept {ks : Nat} {s0 : State} {s : State} {sad : Nat} (hks : Nat.land ks 165723857 = 165723857) (hk : Kept ks s0 s) :
    Kept ks s0 (State.partsAnew s sad) := by
  unfold State.partsAnew
  repeat' first
    | with_reducible assumption
    | with_reducible refine kept_foldl (fun _ _ _ => ?_) ?_
    | with_reducible refine State.finish_kept (cv rfl hks) ?_
    | with_reducible refine State.setPart_kept (cv rfl hks) ?_
    | dsimp only
    | with_reducible intro _
    | split

theorem State.settleLosses_kept {ks : Nat} {s0 : State} {s : State} {decided : Nat} (hks : Nat.land ks 64 = 64) (hk : Kept ks s0 s) :
    Kept ks s0 (State.settleLosses s decided) := by
  unfold State.settleLosses
  repeat' first
    | with_reducible assumption
    | with_reducible refine State.setPorts_kept (cv rfl hks) ?_ ?_
    | dsimp only
    | with_reducible exact fun w => smWf_set _ _ _ _ w
    | with_reducible exact fun w => smWf_map _ _ _ w

theorem State.enableCdie_kept {ks : Nat} {s0 : State} {s : State} {c : Nat} (hks : Nat.land ks 165679169 = 165679169) (hk : Kept ks s0 s) :
    Kept ks s0 (State.enableCdie s c) := by
  unfold State.enableCdie
  repeat' first
    | with_reducible assumption
    | with_reducible refine kept_foldl (fun _ _ _ => ?_) ?_
    | with_reducible refine State.labelUnits_kept (cv rfl hks) ?_
    | with_reducible refine State.saveRoot_kept (cv rfl hks) ?_
    | with_reducible refine State.sendFm_kept (cv rfl hks) ?_
    | with_reducible refine State.telReset_kept (cv rfl hks) ?_
    | with_reducible refine State.setBoot_kept (cv rfl hks) ?_ ?_
    | with_reducible refine State.setCdie_kept (cv rfl hks) ?_
    | with_reducible refine State.setCore_kept (cv rfl hks) ?_
    | dsimp only
    | with_reducible exact fun w => smWf_set _ _ _ _ w
    | with_reducible exact fun w => smWf_map _ _ _ w
    | with_reducible exact fun w => ⟨w.1, smWf_set _ _ _ _ w.2.1, w.2.2⟩
    | with_reducible exact fun w => ⟨smWf_set _ _ _ _ w.1, w.2⟩
    | with_reducible exact fun w => ⟨w.1, smWf_set _ _ _ _ w.2⟩
    | with_reducible exact fun w => ⟨smWf_map _ _ _ w.1, w.2⟩
    | with_reducible exact fun w => ⟨Nat.mod_lt _ (by decide), w.2⟩
    | exact id
    | dsimp only
    | with_reducible intro _
    | split

theorem State.enableDevice_kept {ks : Nat} {s0 : State} {s : State} (hks : Nat.land ks 165675073 = 165675073) (hk : Kept ks s0 s) :
    Kept ks s0 (State.enableDevice s) := by
  unfold State.enableDevice
  repeat' first
    | with_reducible assumption
    | with_reducible refine State.saveRoot_kept (cv rfl hks) ?_
    | with_reducible refine State.sendFm_kept (cv rfl hks) ?_
    | with_reducible refine State.telReset_kept (cv rfl hks) ?_
    | with_reducible refine State.setBoot_kept (cv rfl hks) ?_ ?_
    | with_reducible refine State.setErr_kept (cv rfl hks) ?_ ?_
    | dsimp only
    | with_reducible exact fun w => smWf_set _ _ _ _ w
    | with_reducible exact fun w => smWf_map _ _ _ w
    | with_reducible exact fun w => ⟨w.1, smWf_set _ _ _ _ w.2.1, w.2.2⟩
    | with_reducible exact fun w => ⟨smWf_set _ _ _ _ w.1, w.2⟩
    | with_reducible exact fun w => ⟨w.1, smWf_set _ _ _ _ w.2⟩
    | with_reducible exact fun w => ⟨smWf_map _ _ _ w.1, w.2⟩
    | with_reducible exact fun w => ⟨Nat.mod_lt _ (by decide), w.2⟩
    | exact id

theorem State.askDevice_kept {ks : Nat} {s0 : State} {s : State} (hks : Nat.land ks 166574289 = 166574289) (hk : Kept ks s0 s) :
    Kept ks s0 (State.askDevice s) := by
  unfold State.askDevice
  repeat' first
    | with_reducible assumption
    | with_reducible refine State.resetDevice_kept (cv rfl hks) ?_

theorem State.writeResetCtrl_kept {ks : Nat} {s0 : State} {s : State} {w : Word} (hks : Nat.land ks 166574289 = 166574289) (hk : Kept ks s0 s) :
    Kept ks s0 (State.writeResetCtrl s w) := by
  unfold State.writeResetCtrl
  repeat' first
    | with_reducible assumption
    | with_reducible refine State.askDevice_kept (cv rfl hks) ?_
    | with_reducible refine State.enableCdie_kept (cv rfl hks) ?_
    | with_reducible refine State.enableDevice_kept (cv rfl hks) ?_
    | with_reducible refine State.putRw_kept (cv rfl hks) ?_
    | with_reducible refine State.regErr_kept (cv rfl hks) ?_
    | with_reducible refine State.resetCdie_kept (cv rfl hks) ?_
    | dsimp only
    | with_reducible intro _
    | split

end Sys2Proof.Machine
end

