-- ==== Sys2Proof/Laws/KeptSpdm.lean ====
section
/-! SUPPORT. What the definitions of Machine/Spdm.lean keep. -/

namespace Sys2Proof.Machine

open Sys2Proof Host

theorem State.spdmError_kept {ks : Nat} {s0 : State} {s : State} {via : Via} {command err : Nat} (hks : Nat.land ks 134217728 = 134217728) (hk : Kept ks s0 s) :
    Kept ks s0 (State.spdmError s via command err) := by
  unfold State.spdmError
  repeat' first
    | with_reducible assumption
    | with_reducible refine State.emit_kept (cv rfl hks) ?_

theorem State.attestRefused_kept {ks : Nat} {s0 : State} {s : State} {via : Via} {command err cause : Nat} (hks : Nat.land ks 165681233 = 165681233) (hk : Kept ks s0 s) :
    Kept ks s0 (State.attestRefused s via command err cause) := by
  unfold State.attestRefused
  repeat' first
    | with_reducible assumption
    | with_reducible refine State.secRecord_kept (cv rfl hks) ?_
    | with_reducible refine State.setBit_kept (cv rfl hks) ?_
    | with_reducible refine State.spdmError_kept (cv rfl hks) ?_

theorem State.spdmAsk_kept {ks : Nat} {s0 : State} {s : State} {via : Via} {command need : Nat} {f : State → State} (hf : ∀ s, Kept ks s0 s → Kept ks s0 (f s)) (hks : Nat.land ks 165681233 = 165681233) (hk : Kept ks s0 s) :
    Kept ks s0 (State.spdmAsk s via command need f) := by
  unfold State.spdmAsk
  repeat' first
    | with_reducible assumption
    | with_reducible refine hf _ ?_
    | with_reducible refine State.attestRefused_kept (cv rfl hks) ?_
    | with_reducible refine State.spdmError_kept (cv rfl hks) ?_
    | dsimp only
    | with_reducible intro _
    | split

theorem State.spdmStage_kept {ks : Nat} {s0 : State} {s : State} {n : Nat} (hks : Nat.land ks 8388608 = 8388608) (hk : Kept ks s0 s) :
    Kept ks s0 (State.spdmStage s n) := by
  unfold State.spdmStage
  repeat' first
    | with_reducible assumption
    | with_reducible refine State.setBoot_kept (cv rfl hks) ?_ ?_
    | dsimp only
    | with_reducible exact fun w => smWf_set _ _ _ _ w
    | with_reducible exact fun w => smWf_map _ _ _ w
    | with_reducible exact fun w => ⟨w.1, smWf_set _ _ _ _ w.2.1, w.2.2⟩
    | with_reducible exact fun w => ⟨smWf_set _ _ _ _ w.1, w.2⟩
    | with_reducible exact fun w => ⟨w.1, smWf_set _ _ _ _ w.2⟩
    | with_reducible exact fun w => ⟨smWf_map _ _ _ w.1, w.2⟩
    | with_reducible exact fun w => ⟨Nat.mod_lt _ (by decide), w.2⟩
    | exact id

theorem State.signedAnswer_kept {ks : Nat} {s0 : State} {s : State} {via : Via} {command : Nat} {g : Signing} {nonce : Nat} {data : List Nat} (hks : Nat.land ks 165681233 = 165681233) (hk : Kept ks s0 s) :
    Kept ks s0 (State.signedAnswer s via command g nonce data) := by
  unfold State.signedAnswer
  repeat' first
    | with_reducible assumption
    | with_reducible refine State.attestRefused_kept (cv rfl hks) ?_
    | with_reducible refine State.signLeaf_kept (cv rfl hks) ?_
    | with_reducible refine State.emit_kept (cv rfl hks) ?_
    | with_reducible refine kept_fst (by with_reducible assumption) ?_
    | dsimp only
    | with_reducible intro _
    | split

end Sys2Proof.Machine
end

