-- ==== Sys2Proof/Laws/KeptHealth.lean ====
section
/-! SUPPORT. What the definitions of Machine/Health.lean keep. -/

namespace Sys2Proof.Machine

open Sys2Proof Host

theorem State.reading_kept {ks : Nat} {s0 : State} {s : State} {k : SensorKind} {id : Nat} {v : Int} (hks : Nat.land ks 150995009 = 150995009) (hk : Kept ks s0 s) :
    Kept ks s0 (State.reading s k id v) := by
  unfold State.reading
  repeat' first
    | with_reducible assumption
    | with_reducible refine State.setBit_kept (cv rfl hks) ?_
    | with_reducible refine State.telemetry_kept (cv rfl hks) ?_
    | with_reducible refine State.setSensor_kept (cv rfl hks) ?_
    | dsimp only
    | with_reducible intro _
    | split

theorem State.stackArea_kept {ks : Nat} {s0 : State} {s : State} {n lo v : Nat} (hks : Nat.land ks 16777216 = 16777216) (hk : Kept ks s0 s) :
    Kept ks s0 (State.stackArea s n lo v) := by
  unfold State.stackArea
  repeat' first
    | with_reducible assumption
    | with_reducible refine kept_foldl (fun _ _ _ => ?_) ?_
    | with_reducible refine State.setArea_kept (cv rfl hks) ?_

theorem State.readings_kept {ks : Nat} {s0 : State} {s : State} {ok : SensorKind → Bool} {l : List (Nat × Int)} (hks : Nat.land ks 150995009 = 150995009) (hk : Kept ks s0 s) :
    Kept ks s0 (State.readings s ok l) := by
  unfold State.readings
  repeat' first
    | with_reducible assumption
    | with_reducible refine kept_foldl1 (fun _ _ _ => ?_) ?_
    | with_reducible refine kept_foldl (fun _ _ _ => ?_) ?_
    | with_reducible refine State.reading_kept (cv rfl hks) ?_
    | with_reducible refine State.stackArea_kept (cv rfl hks) ?_
    | dsimp only
    | with_reducible intro _
    | split

theorem State.eye_kept {ks : Nat} {s0 : State} {s : State} {lane height width : Nat} (hks : Nat.land ks 150995009 = 150995009) (hk : Kept ks s0 s) :
    Kept ks s0 (State.eye s lane height width) := by
  unfold State.eye
  repeat' first
    | with_reducible assumption
    | with_reducible refine State.reading_kept (cv rfl hks) ?_
    | with_reducible refine State.setArea_kept (cv rfl hks) ?_

theorem State.laneFec_kept {ks : Nat} {s0 : State} {s : State} {p : LaneSample} (hks : Nat.land ks 16777216 = 16777216) (hk : Kept ks s0 s) :
    Kept ks s0 (State.laneFec s p) := by
  unfold State.laneFec
  repeat' first
    | with_reducible assumption
    | with_reducible refine State.bump_kept (cv rfl hks) ?_

theorem State.writeBack_kept {ks : Nat} {s0 : State} {s : State} (hks : Nat.land ks 16777216 = 16777216) (hk : Kept ks s0 s) :
    Kept ks s0 (State.writeBack s) := by
  unfold State.writeBack
  repeat' first
    | with_reducible assumption
    | with_reducible refine kept_foldl1 (fun _ _ _ => ?_) ?_
    | with_reducible refine kept_foldl (fun _ _ _ => ?_) ?_
    | with_reducible refine State.toMram_kept (cv rfl hks) ?_
    | with_reducible refine State.setHlt_kept (cv rfl hks) ?_ ?_
    | dsimp only
    | with_reducible exact fun w => smWf_set _ _ _ _ w
    | with_reducible exact fun w => smWf_map _ _ _ w
    | with_reducible exact fun w => ⟨w.1, smWf_set _ _ _ _ w.2.1, w.2.2⟩
    | with_reducible exact fun w => ⟨smWf_set _ _ _ _ w.1, w.2⟩
    | with_reducible exact fun w => ⟨w.1, smWf_set _ _ _ _ w.2⟩
    | with_reducible exact fun w => ⟨smWf_map _ _ _ w.1, w.2⟩
    | with_reducible exact fun w => ⟨Nat.mod_lt _ (by decide), w.2⟩
    | exact id

theorem State.writeHltBase_kept {ks : Nat} {s0 : State} {s : State} {g : RG} {w : Word} (hks : Nat.land ks 1 = 1) (hk : Kept ks s0 s) :
    Kept ks s0 (State.writeHltBase s g w) := by
  unfold State.writeHltBase
  repeat' first
    | with_reducible assumption
    | with_reducible refine State.regErr_kept (cv rfl hks) ?_
    | with_reducible refine State.setBit_kept (cv rfl hks) ?_
    | with_reducible refine State.setReg_kept (cv rfl hks) ?_
    | dsimp only
    | with_reducible intro _
    | split

theorem State.writeHltCfg_kept {ks : Nat} {s0 : State} {s : State} {w : Word} (hks : Nat.land ks 16777281 = 16777281) (hk : Kept ks s0 s) :
    Kept ks s0 (State.writeHltCfg s w) := by
  unfold State.writeHltCfg
  repeat' first
    | with_reducible assumption
    | with_reducible refine State.liftFence_kept (cv rfl hks) ?_
    | with_reducible refine State.putRw_kept (cv rfl hks) ?_
    | with_reducible refine State.regErr_kept (cv rfl hks) ?_
    | with_reducible refine State.setBit_kept (cv rfl hks) ?_
    | with_reducible refine State.setHlt_kept (cv rfl hks) ?_ ?_
    | with_reducible refine State.setReg_kept (cv rfl hks) ?_
    | dsimp only
    | with_reducible exact fun w => smWf_set _ _ _ _ w
    | with_reducible exact fun w => smWf_map _ _ _ w
    | with_reducible exact fun w => ⟨w.1, smWf_set _ _ _ _ w.2.1, w.2.2⟩
    | with_reducible exact fun w => ⟨smWf_set _ _ _ _ w.1, w.2⟩
    | with_reducible exact fun w => ⟨w.1, smWf_set _ _ _ _ w.2⟩
    | with_reducible exact fun w => ⟨smWf_map _ _ _ w.1, w.2⟩
    | with_reducible exact fun w => ⟨Nat.mod_lt _ (by decide), w.2⟩
    | exact id
    | dsimp only
    | with_reducible intro _
    | split

theorem State.rootWrite_kept {ks : Nat} {s0 : State} {s : State} {off : Nat} {f : State → State} (hf : ∀ s, Kept ks s0 s → Kept ks s0 (f s)) (hks : Nat.land ks 1 = 1) (hk : Kept ks s0 s) :
    Kept ks s0 (State.rootWrite s off f) := by
  unfold State.rootWrite
  repeat' first
    | with_reducible assumption
    | with_reducible refine hf _ ?_
    | with_reducible refine State.regErr_kept (cv rfl hks) ?_
    | dsimp only
    | with_reducible intro _
    | split

end Sys2Proof.Machine
end

