-- ==== Sys2Proof/Laws/KeptPower.lean ====
section
/-! SUPPORT. What the definitions of Machine/Power.lean keep. -/

namespace Sys2Proof.Machine

open Sys2Proof Host

theorem State.tear_kept {ks : Nat} {s0 : State} {s : State} {t : Tear} (hks : Nat.land ks 29360128 = 29360128) (hk : Kept ks s0 s) :
    Kept ks s0 (State.tear s t) := by
  unfold State.tear
  repeat' first
    | with_reducible assumption
    | with_reducible refine State.setErr_kept (cv rfl hks) ?_ ?_
    | with_reducible refine State.setHlt_kept (cv rfl hks) ?_ ?_
    | with_reducible refine State.setMram_kept (cv rfl hks) ?_
    | dsimp only
    | with_reducible exact fun w => smWf_set _ _ _ _ w
    | with_reducible exact fun w => smWf_map _ _ _ w
    | with_reducible exact fun w => ⟨w.1, smWf_set _ _ _ _ w.2.1, w.2.2⟩
    | with_reducible exact fun w => ⟨smWf_set _ _ _ _ w.1, w.2⟩
    | with_reducible exact fun w => ⟨w.1, smWf_set _ _ _ _ w.2⟩
    | with_reducible exact fun w => ⟨smWf_map _ _ _ w.1, w.2⟩
    | exact id
    | dsimp only
    | with_reducible intro _
    | split

theorem State.powerOff_kept {ks : Nat} {s0 : State} {s : State} {torn : List Tear} (hks : Nat.land ks 134217727 = 134217727) (hk : Kept ks s0 s) :
    Kept ks s0 (State.powerOff s torn) := by
  unfold State.powerOff
  repeat' first
    | with_reducible assumption
    | with_reducible refine kept_foldl (fun _ _ _ => ?_) ?_
    | with_reducible refine State.fwPowerLost_kept (cv rfl hks) ?_
    | with_reducible refine State.tear_kept (cv rfl hks) ?_
    | with_reducible refine State.wiped_kept (cv rfl hks) ?_
    | with_reducible refine State.setBoot_kept (cv rfl hks) ?_ ?_
    | with_reducible refine State.setPwr_kept (cv rfl hks) ?_
    | with_reducible refine kept_ports (cv rfl hks) ?_ ?_
    | dsimp only
    | with_reducible exact fun w => smWf_set _ _ _ _ w
    | with_reducible exact fun w => smWf_map _ _ _ w
    | with_reducible exact fun w => ⟨w.1, smWf_set _ _ _ _ w.2.1, w.2.2⟩
    | with_reducible exact fun w => ⟨smWf_set _ _ _ _ w.1, w.2⟩
    | with_reducible exact fun w => ⟨w.1, smWf_set _ _ _ _ w.2⟩
    | with_reducible exact fun w => ⟨smWf_map _ _ _ w.1, w.2⟩
    | with_reducible exact fun w => ⟨Nat.mod_lt _ (by decide), w.2⟩
    | exact id

theorem State.converterStop_kept {ks : Nat} {s0 : State} {s : State} {torn : List Tear} (hks : Nat.land ks 134217727 = 134217727) (hk : Kept ks s0 s) :
    Kept ks s0 (State.converterStop s torn) := by
  unfold State.converterStop
  repeat' first
    | with_reducible assumption
    | with_reducible refine State.powerOff_kept (cv rfl hks) ?_
    | with_reducible refine State.setPwr_kept (cv rfl hks) ?_

theorem State.sbAnswer_kept {ks : Nat} {s0 : State} {s : State} {command code data : Nat} (hks : Nat.land ks 134217728 = 134217728) (hk : Kept ks s0 s) :
    Kept ks s0 (State.sbAnswer s command code data) := by
  unfold State.sbAnswer
  repeat' first
    | with_reducible assumption
    | with_reducible refine State.emit_kept (cv rfl hks) ?_

theorem State.command_kept {ks : Nat} {s0 : State} {s : State} {command : Nat} {ok : Bool} {f : State → State} (hf : ∀ s, Kept ks s0 s → Kept ks s0 (f s)) (hks : Nat.land ks 134217728 = 134217728) (hk : Kept ks s0 s) :
    Kept ks s0 (State.command s command ok f) := by
  unfold State.command
  repeat' first
    | with_reducible assumption
    | with_reducible refine hf _ ?_
    | with_reducible refine State.sbAnswer_kept (cv rfl hks) ?_
    | dsimp only
    | with_reducible intro _
    | split

theorem State.standBy_kept {ks : Nat} {s0 : State} {s : State} (hks : Nat.land ks 166705873 = 166705873) (hk : Kept ks s0 s) :
    Kept ks s0 (State.standBy s) := by
  unfold State.standBy
  repeat' first
    | with_reducible assumption
    | with_reducible exact fun c => MemS.Canonical.same c rfl
    | with_reducible refine State.fenceDevice_kept (cv rfl hks) ?_
    | with_reducible refine State.flushAgents_kept (cv rfl hks) ?_
    | with_reducible refine State.sendFm_kept (cv rfl hks) ?_
    | with_reducible refine State.writeBack_kept (cv rfl hks) ?_
    | with_reducible refine State.setBoot_kept (cv rfl hks) ?_ ?_
    | with_reducible refine State.setErr_kept (cv rfl hks) ?_ ?_
    | with_reducible refine State.setFab_kept (cv rfl hks) ?_ ?_
    | with_reducible refine State.setMem_kept (cv rfl hks) ?_ ?_
    | with_reducible refine State.setReads_kept (cv rfl hks) ?_
    | with_reducible refine State.setUsteps_kept (cv rfl hks) ?_
    | dsimp only
    | with_reducible exact fun w => smWf_set _ _ _ _ w
    | with_reducible exact fun w => smWf_map _ _ _ w
    | with_reducible exact fun w => ⟨w.1, smWf_set _ _ _ _ w.2.1, w.2.2⟩
    | with_reducible exact fun w => ⟨smWf_set _ _ _ _ w.1, w.2⟩
    | with_reducible exact fun w => ⟨w.1, smWf_set _ _ _ _ w.2⟩
    | with_reducible exact fun w => ⟨smWf_map _ _ _ w.1, w.2⟩
    | with_reducible exact fun w => ⟨Nat.mod_lt _ (by decide), w.2⟩
    | exact id
    | dsimp only
    | with_reducible intro _
    | split

end Sys2Proof.Machine
end

