-- ==== Sys2Proof/Laws/KeptSaddle.lean ====
section
/-! SUPPORT. What the definitions of Machine/Saddle.lean keep. -/

namespace Sys2Proof.Machine

open Sys2Proof Host

theorem State.fixStep_kept {ks : Nat} {s0 : State} {s : State} (hks : Nat.land ks 8 = 8) (hk : Kept ks s0 s) :
    Kept ks s0 (State.fixStep s) := by
  unfold State.fixStep
  repeat' first
    | with_reducible assumption
    | with_reducible refine State.setTime_kept (cv rfl hks) ?_ ?_
    | dsimp only
    | with_reducible exact fun w => smWf_set _ _ _ _ w
    | with_reducible exact fun w => smWf_map _ _ _ w
    | with_reducible exact fun w => ⟨w.1, smWf_set _ _ _ _ w.2.1, w.2.2⟩
    | with_reducible exact fun w => ⟨smWf_set _ _ _ _ w.1, w.2⟩
    | with_reducible exact fun w => ⟨w.1, smWf_set _ _ _ _ w.2⟩
    | with_reducible exact fun w => ⟨smWf_map _ _ _ w.1, w.2⟩
    | with_reducible exact fun w => ⟨Nat.mod_lt _ (by decide), w.2⟩
    | exact id
    | dsimp only
    | with_reducible intro _
    | split

theorem State.returnArray_kept {ks : Nat} {s0 : State} {s : State} {a : Nat} (hks : Nat.land ks 150997057 = 150997057) (hk : Kept ks s0 s) :
    Kept ks s0 (State.returnArray s a) := by
  unfold State.returnArray
  repeat' first
    | with_reducible assumption
    | with_reducible refine State.telemetry_kept (cv rfl hks) ?_
    | with_reducible refine State.toMram_kept (cv rfl hks) ?_
    | with_reducible refine State.setArray_kept (cv rfl hks) ?_
    | with_reducible refine State.setUnit_kept (cv rfl hks) ?_
    | dsimp only
    | with_reducible intro _
    | split

theorem State.saddleUnits_kept {ks : Nat} {s0 : State} {s : State} (hks : Nat.land ks 151001169 = 151001169) (hk : Kept ks s0 s) :
    Kept ks s0 (State.saddleUnits s) := by
  unfold State.saddleUnits
  repeat' first
    | with_reducible assumption
    | with_reducible refine kept_foldl1 (fun _ _ _ => ?_) ?_
    | with_reducible refine kept_foldl (fun _ _ _ => ?_) ?_
    | with_reducible refine State.judgeImage_kept (cv rfl hks) ?_
    | with_reducible refine State.returnArray_kept (cv rfl hks) ?_
    | with_reducible refine State.stopAdmitting_kept (cv rfl hks) ?_
    | with_reducible refine State.withdrawArray_kept (cv rfl hks) ?_
    | with_reducible refine State.setArray_kept (cv rfl hks) ?_
    | with_reducible refine State.setCore_kept (cv rfl hks) ?_
    | dsimp only
    | with_reducible intro _
    | split

theorem State.rejoin_kept {ks : Nat} {s0 : State} {s : State} (hks : Nat.land ks 4194304 = 4194304) (hk : Kept ks s0 s) :
    Kept ks s0 (State.rejoin s) := by
  unfold State.rejoin
  repeat' first
    | with_reducible assumption
    | with_reducible refine State.setErr_kept (cv rfl hks) ?_ ?_
    | dsimp only
    | with_reducible exact fun w => smWf_set _ _ _ _ w
    | with_reducible exact fun w => smWf_map _ _ _ w
    | with_reducible exact fun w => ⟨w.1, smWf_set _ _ _ _ w.2.1, w.2.2⟩
    | with_reducible exact fun w => ⟨smWf_set _ _ _ _ w.1, w.2⟩
    | with_reducible exact fun w => ⟨w.1, smWf_set _ _ _ _ w.2⟩
    | with_reducible exact fun w => ⟨smWf_map _ _ _ w.1, w.2⟩

end Sys2Proof.Machine
end

