-- ==== Sys2Proof/Laws/KeptRegRead.lean ====
section
/-! SUPPORT. What the definitions of Machine/RegRead.lean keep. -/

namespace Sys2Proof.Machine

open Sys2Proof Host

theorem State.readReg_kept {ks : Nat} {s0 : State} {s : State} {port off : Nat} (hks : Nat.land ks 2 = 2) (hk : Kept ks s0 s) :
    Kept ks s0 (State.readReg s port off).2 := by
  unfold State.readReg
  repeat' first
    | with_reducible assumption
    | with_reducible refine State.setLatches_kept (cv rfl hks) ?_ ?_
    | dsimp only
    | with_reducible exact fun w => smWf_set _ _ _ _ w
    | with_reducible exact fun w => smWf_map _ _ _ w
    | with_reducible exact fun w => ⟨w.1, smWf_set _ _ _ _ w.2.1, w.2.2⟩
    | with_reducible exact fun w => ⟨smWf_set _ _ _ _ w.1, w.2⟩
    | with_reducible exact fun w => ⟨w.1, smWf_set _ _ _ _ w.2⟩
    | with_reducible exact fun w => ⟨smWf_map _ _ _ w.1, w.2⟩
    | exact id
    | dsimp only
    | with_reducible intro _
    | split

theorem State.answerRead_kept {ks : Nat} {s0 : State} {s : State} {port off : Nat} (hks : Nat.land ks 134217730 = 134217730) (hk : Kept ks s0 s) :
    Kept ks s0 (State.answerRead s port off) := by
  unfold State.answerRead
  repeat' first
    | with_reducible assumption
    | with_reducible refine State.readReg_kept (cv rfl hks) ?_
    | with_reducible refine State.emit_kept (cv rfl hks) ?_

end Sys2Proof.Machine
end

