-- ==== Sys2Proof/Laws/KeptRegWrite.lean ====
section
/-! SUPPORT. What the definitions of Machine/RegWrite.lean keep. -/

namespace Sys2Proof.Machine

open Sys2Proof Host

theorem State.overrun_kept {ks : Nat} {s0 : State} {s : State} {g : RG} {i : Nat} {hit : Word} (hks : Nat.land ks 1 = 1) (hk : Kept ks s0 s) :
    Kept ks s0 (State.overrun s g i hit) := by
  unfold State.overrun
  repeat' first
    | with_reducible assumption
    | with_reducible refine kept_getD ?_ ?_
    | with_reducible refine State.setReg_kept (cv rfl hks) ?_
    | dsimp only
    | with_reducible intro _
    | split

theorem State.clearEvents_kept {ks : Nat} {s0 : State} {s : State} {g : RG} {i : Nat} {w hwset : Word} (hks : Nat.land ks 65 = 65) (hk : Kept ks s0 s) :
    Kept ks s0 (State.clearEvents s g i w hwset) := by
  unfold State.clearEvents
  repeat' first
    | with_reducible assumption
    | with_reducible refine State.msix_kept (cv rfl hks) ?_
    | with_reducible refine State.overrun_kept (cv rfl hks) ?_
    | with_reducible refine State.sysEvt_kept (cv rfl hks) ?_
    | with_reducible refine State.writeEvents_kept (cv rfl hks) ?_
    | dsimp only
    | with_reducible intro _
    | split

theorem State.clearTg_kept {ks : Nat} {s0 : State} {s : State} {w hwset : Word} (hks : Nat.land ks 524289 = 524289) (hk : Kept ks s0 s) :
    Kept ks s0 (State.clearTg s w hwset) := by
  unfold State.clearTg
  repeat' first
    | with_reducible assumption
    | with_reducible refine State.overrun_kept (cv rfl hks) ?_
    | with_reducible refine State.setTg_kept (cv rfl hks) ?_

theorem State.writeReg_kept {ks : Nat} {s0 : State} {s : State} {g : RG} {i : Nat} {w hwset : Word} (hks : Nat.land ks 167755517 = 167755517) (hk : Kept ks s0 s) :
    Kept ks s0 (State.writeReg s g i w hwset) := by
  unfold State.writeReg
  repeat' first
    | with_reducible assumption
    | with_reducible refine State.clearEvents_kept (cv rfl hks) ?_
    | with_reducible refine State.clearTg_kept (cv rfl hks) ?_
    | with_reducible refine State.putRw_kept (cv rfl hks) ?_
    | with_reducible refine State.sysEvt_kept (cv rfl hks) ?_
    | with_reducible refine State.writeBootCtrl_kept (cv rfl hks) ?_
    | with_reducible refine State.writeChOwn_kept (cv rfl hks) ?_
    | with_reducible refine State.writeCoreOwn_kept (cv rfl hks) ?_
    | with_reducible refine State.writeCtx_kept (cv rfl hks) ?_
    | with_reducible refine State.writeCtxA_kept (cv rfl hks) ?_
    | with_reducible refine State.writeHltBase_kept (cv rfl hks) ?_
    | with_reducible refine State.writeHltCfg_kept (cv rfl hks) ?_
    | with_reducible refine State.writePartCtrl_kept (cv rfl hks) ?_
    | with_reducible refine State.writePortCfg_kept (cv rfl hks) ?_
    | with_reducible refine State.writePwin_kept (cv rfl hks) ?_
    | with_reducible refine State.writePwinA_kept (cv rfl hks) ?_
    | with_reducible refine State.writeResetCtrl_kept (cv rfl hks) ?_
    | with_reducible refine State.writeRgn_kept (cv rfl hks) ?_
    | with_reducible refine State.writeRgnD_kept (cv rfl hks) ?_
    | with_reducible refine State.writeRingCfg_kept (cv rfl hks) ?_
    | with_reducible refine State.writeRingCtrl_kept (cv rfl hks) ?_
    | with_reducible refine State.writeRingSeq_kept (cv rfl hks) ?_
    | with_reducible refine State.writeServe_kept (cv rfl hks) ?_
    | with_reducible refine State.writeSlq_kept (cv rfl hks) ?_
    | with_reducible refine State.writeTgCtrl_kept (cv rfl hks) ?_
    | with_reducible refine State.writeTimCtrl_kept (cv rfl hks) ?_
    | with_reducible refine State.writeUpdCap_kept (cv rfl hks) ?_
    | with_reducible refine State.writeUpdCtrl_kept (cv rfl hks) ?_
    | with_reducible refine State.writeUpdQuota_kept (cv rfl hks) ?_
    | with_reducible refine State.writeVstCtrl_kept (cv rfl hks) ?_
    | with_reducible refine State.writeVstCxl_kept (cv rfl hks) ?_
    | with_reducible refine State.writeVstFm_kept (cv rfl hks) ?_
    | with_reducible refine State.writeVstId_kept (cv rfl hks) ?_
    | with_reducible refine State.writeVstMac_kept (cv rfl hks) ?_
    | with_reducible refine State.writeVstPortCfg_kept (cv rfl hks) ?_
    | with_reducible refine State.writeVstTmo_kept (cv rfl hks) ?_
    | with_reducible refine State.writeWays_kept (cv rfl hks) ?_
    | with_reducible refine State.setTg_kept (cv rfl hks) ?_
    | dsimp only
    | with_reducible intro _
    | split

theorem State.write_kept {ks : Nat} {s0 : State} {s : State} {off size : Nat} {w hwset : Word} (hks : Nat.land ks 167755517 = 167755517) (hk : Kept ks s0 s) :
    Kept ks s0 (State.write s off size w hwset) := by
  unfold State.write
  repeat' first
    | with_reducible assumption
    | with_reducible refine State.regErr_kept (cv rfl hks) ?_
    | with_reducible refine State.writeReg_kept (cv rfl hks) ?_
    | dsimp only
    | with_reducible intro _
    | split

end Sys2Proof.Machine
end

