-- ==== Sys2Proof/Laws/Exec.lean ====
section
/-! SUPPORT. What a command's answer keeps: it is a next state, and `Kept` says of it what the lemmas of Laws/Kept.lean say of an operation. -/

namespace Sys2Proof.Machine

open Sys2Proof Host

/-- The answer `o` is a next state that differs from `b` only where the pieces `m` say. -/
def ENext (m : Nat) (b : State) (o : Outcome State Fault Refusal) : Prop := ∃ t, o = .next t ∧ Kept m b t

/-- A next state that is kept is such an answer. -/
theorem enext_mk {m : Nat} {b t : State} (h : Kept m b t) : ENext m b (.next t) := ⟨t, rfl, h⟩

end Sys2Proof.Machine
end

