-- ==== Sys2Proof/Laws/ExecBoot.lean ====
section
/-! SUPPORT. Each command of Machine/Boot, Machine/Firmware, Machine/Spdm, Machine/Power answers a next state, and what it keeps. -/

namespace Sys2Proof.Machine

open Sys2Proof Host

theorem execBootStepEnd_kept {ks : Nat} {s0 : State} {r : StepReport} {s : State} (hks : Nat.land ks 268435455 = 268435455) (hk : Kept ks s0 s) : ENext ks s0 (execBootStepEnd r s) := by

  unfold execBootStepEnd
  repeat' first
    | with_reducible assumption
    | with_reducible refine enext_mk ?_
    | exact okept_none
    | with_reducible refine okept_some ?_
    | with_reducible refine State.onConns_kept (fun _ _ _ => ?_) ?_
    | with_reducible refine kept_foldl (fun _ _ _ => ?_) ?_
    | with_reducible refine State.cairn_kept (cv rfl hks) ?_
    | with_reducible refine State.compatFails_kept (cv rfl hks) ?_
    | with_reducible refine State.failStep_kept (cv rfl hks) ?_
    | with_reducible refine State.nextStep_kept (cv rfl hks) ?_
    | with_reducible refine State.noteVerified_kept (cv rfl hks) ?_
    | with_reducible refine State.stepDone_kept (cv rfl hks) ?_
    | with_reducible refine State.setBoot_kept (cv rfl hks) ?_ ?_
    | dsimp only
    | with_reducible exact fun w => smWf_set _ _ _ _ w
    | with_reducible exact fun w => smWf_map _ _ _ w
    | with_reducible exact fun w => ⟨w.1, smWf_set _ _ _ _ w.2.1, w.2.2⟩
    | with_reducible exact fun w => ⟨smWf_set _ _ _ _ w.1, w.2⟩
    | with_reducible exact fun w => ⟨w.1, smWf_set _ _ _ _ w.2⟩
    | with_reducible exact fun w => ⟨smWf_map _ _ _ w.1, w.2⟩
    | with_reducible exact fun w => ⟨Nat.mod_lt _ (by decide), w.2⟩
    | with_reducible exact fun w => ⟨w.1, smWf_set _ _ _ _ w.2⟩
    | exact id
    | with_reducible refine kept_opt1 (by with_reducible assumption) ?_
    | dsimp only
    | with_reducible intro _
    | split

theorem execBootStepTimeout_kept {ks : Nat} {s0 : State} {r : StepReport} {s : State} (hks : Nat.land ks 268435455 = 268435455) (hk : Kept ks s0 s) : ENext ks s0 (execBootStepTimeout r s) := by

  unfold execBootStepTimeout
  repeat' first
    | with_reducible assumption
    | with_reducible refine enext_mk ?_
    | exact okept_none
    | with_reducible refine okept_some ?_
    | with_reducible refine State.onConns_kept (fun _ _ _ => ?_) ?_
    | with_reducible refine State.failStep_kept (cv rfl hks) ?_
    | dsimp only
    | with_reducible intro _
    | split

theorem execRetry_kept {ks : Nat} {s0 : State} {port : Fin 4} {w : Word} {s : State} (hks : Nat.land ks 12582913 = 12582913) (hk : Kept ks s0 s) : ENext ks s0 (execRetry port w s) := by

  unfold execRetry
  repeat' first
    | with_reducible assumption
    | with_reducible refine enext_mk ?_
    | exact okept_none
    | with_reducible refine okept_some ?_
    | with_reducible refine State.onConns_kept (fun _ _ _ => ?_) ?_
    | with_reducible refine State.writeBootCtrl_kept (cv rfl hks) ?_
    | dsimp only
    | with_reducible intro _
    | split

theorem execConfirm_kept {ks : Nat} {s0 : State} {port : Fin 4} {w : Word} {s : State} (hks : Nat.land ks 12582913 = 12582913) (hk : Kept ks s0 s) : ENext ks s0 (execConfirm port w s) := by

  unfold execConfirm
  repeat' first
    | with_reducible assumption
    | with_reducible refine enext_mk ?_
    | exact okept_none
    | with_reducible refine okept_some ?_
    | with_reducible refine State.onConns_kept (fun _ _ _ => ?_) ?_
    | with_reducible refine State.writeBootCtrl_kept (cv rfl hks) ?_
    | dsimp only
    | with_reducible intro _
    | split

theorem execGoodRecordTimer_kept {ks : Nat} {s0 : State} {s : State} (hks : Nat.land ks 12582912 = 12582912) (hk : Kept ks s0 s) : ENext ks s0 (execGoodRecordTimer s) := by

  unfold execGoodRecordTimer
  repeat' first
    | with_reducible assumption
    | with_reducible refine enext_mk ?_
    | exact okept_none
    | with_reducible refine okept_some ?_
    | with_reducible refine State.onConns_kept (fun _ _ _ => ?_) ?_
    | with_reducible refine State.makeGood_kept (cv rfl hks) ?_
    | dsimp only
    | with_reducible intro _
    | split

theorem execQueryDeviceIdentifiers_kept {ks : Nat} {s0 : State} {via : Via} {s : State} (hks : Nat.land ks 134217728 = 134217728) (hk : Kept ks s0 s) : ENext ks s0 (execQueryDeviceIdentifiers via s) := by

  unfold execQueryDeviceIdentifiers
  repeat' first
    | with_reducible assumption
    | with_reducible refine enext_mk ?_
    | exact okept_none
    | with_reducible refine okept_some ?_
    | with_reducible refine State.onConns_kept (fun _ _ _ => ?_) ?_
    | with_reducible refine State.pldm_kept (cv rfl hks) ?_
    | dsimp only
    | with_reducible intro _
    | split

theorem execGetFirmwareParameters_kept {ks : Nat} {s0 : State} {via : Via} {s : State} (hks : Nat.land ks 134217728 = 134217728) (hk : Kept ks s0 s) : ENext ks s0 (execGetFirmwareParameters via s) := by

  unfold execGetFirmwareParameters
  repeat' first
    | with_reducible assumption
    | with_reducible refine enext_mk ?_
    | exact okept_none
    | with_reducible refine okept_some ?_
    | with_reducible refine State.onConns_kept (fun _ _ _ => ?_) ?_
    | with_reducible refine State.pldm_kept (cv rfl hks) ?_
    | dsimp only
    | with_reducible intro _
    | split

theorem execRequestUpdate_kept {ks : Nat} {s0 : State} {via : Via} {s : State} (hks : Nat.land ks 142606336 = 142606336) (hk : Kept ks s0 s) : ENext ks s0 (execRequestUpdate via s) := by

  unfold execRequestUpdate
  repeat' first
    | with_reducible assumption
    | with_reducible refine enext_mk ?_
    | exact okept_none
    | with_reducible refine okept_some ?_
    | with_reducible refine State.onConns_kept (fun _ _ _ => ?_) ?_
    | with_reducible refine State.pldm_kept (cv rfl hks) ?_
    | with_reducible refine State.setFw_kept (cv rfl hks) ?_
    | with_reducible refine State.setBoot_kept (cv rfl hks) ?_ ?_
    | dsimp only
    | with_reducible exact fun w => smWf_set _ _ _ _ w
    | with_reducible exact fun w => smWf_map _ _ _ w
    | with_reducible exact fun w => ⟨w.1, smWf_set _ _ _ _ w.2.1, w.2.2⟩
    | with_reducible exact fun w => ⟨smWf_set _ _ _ _ w.1, w.2⟩
    | with_reducible exact fun w => ⟨w.1, smWf_set _ _ _ _ w.2⟩
    | with_reducible exact fun w => ⟨smWf_map _ _ _ w.1, w.2⟩
    | with_reducible exact fun w => ⟨Nat.mod_lt _ (by decide), w.2⟩
    | with_reducible exact fun w => ⟨w.1, smWf_set _ _ _ _ w.2⟩
    | exact id
    | dsimp only
    | with_reducible intro _
    | split

theorem execPassComponentTable_kept {ks : Nat} {s0 : State} {via : Via} {comps : List (BitVec 16 × BitVec 16)} {s : State} (hks : Nat.land ks 142606336 = 142606336) (hk : Kept ks s0 s) : ENext ks s0 (execPassComponentTable via comps s) := by

  unfold execPassComponentTable
  repeat' first
    | with_reducible assumption
    | with_reducible refine enext_mk ?_
    | exact okept_none
    | with_reducible refine okept_some ?_
    | with_reducible refine State.onConns_kept (fun _ _ _ => ?_) ?_
    | with_reducible refine State.fwDeny_kept (cv rfl hks) ?_
    | with_reducible refine State.pldm_kept (cv rfl hks) ?_
    | with_reducible refine State.setFw_kept (cv rfl hks) ?_
    | dsimp only
    | with_reducible intro _
    | split

theorem execUpdateComponent_kept {ks : Nat} {s0 : State} {via : Via} {cls ident : BitVec 16} {_version : Word} {size : Nat} {s : State} (hks : Nat.land ks 142606336 = 142606336) (hk : Kept ks s0 s) : ENext ks s0 (execUpdateComponent via cls ident _version size s) := by

  unfold execUpdateComponent
  repeat' first
    | with_reducible assumption
    | with_reducible refine enext_mk ?_
    | exact okept_none
    | with_reducible refine okept_some ?_
    | with_reducible refine State.onConns_kept (fun _ _ _ => ?_) ?_
    | with_reducible refine State.askData_kept (cv rfl hks) ?_
    | with_reducible refine State.fwDeny_kept (cv rfl hks) ?_
    | with_reducible refine State.pldm_kept (cv rfl hks) ?_
    | with_reducible refine State.setFw_kept (cv rfl hks) ?_
    | dsimp only
    | with_reducible intro _
    | split

theorem execFirmwareDataReceived_kept {ks : Nat} {s0 : State} {via : Via} {data : List Byte} {misread : List Misread} {s : State} (hks : Nat.land ks 165681233 = 165681233) (hk : Kept ks s0 s) : ENext ks s0 (execFirmwareDataReceived via data misread s) := by

  unfold execFirmwareDataReceived
  repeat' first
    | with_reducible assumption
    | with_reducible refine enext_mk ?_
    | exact okept_none
    | with_reducible refine okept_some ?_
    | with_reducible refine State.onConns_kept (fun _ _ _ => ?_) ?_
    | with_reducible refine State.askData_kept (cv rfl hks) ?_
    | with_reducible refine State.fwJudge_kept (cv rfl hks) ?_
    | with_reducible refine State.fwWrite_kept (cv rfl hks) ?_
    | with_reducible refine State.setFw_kept (cv rfl hks) ?_
    | dsimp only
    | with_reducible intro _
    | split

theorem execActivateFirmware_kept {ks : Nat} {s0 : State} {via : Via} {s : State} (hks : Nat.land ks 166444761 = 166444761) (hk : Kept ks s0 s) : ENext ks s0 (execActivateFirmware via s) := by

  unfold execActivateFirmware
  repeat' first
    | with_reducible assumption
    | with_reducible refine enext_mk ?_
    | exact okept_none
    | with_reducible refine okept_some ?_
    | with_reducible refine State.onConns_kept (fun _ _ _ => ?_) ?_
    | with_reducible refine kept_foldl (fun _ _ _ => ?_) ?_
    | with_reducible refine State.fwDeny_kept (cv rfl hks) ?_
    | with_reducible refine State.pldm_kept (cv rfl hks) ?_
    | with_reducible refine State.startAct_kept (cv rfl hks) ?_
    | with_reducible refine State.setBoot_kept (cv rfl hks) ?_ ?_
    | with_reducible refine State.setDom_kept (cv rfl hks) ?_
    | dsimp only
    | with_reducible exact fun w => smWf_set _ _ _ _ w
    | with_reducible exact fun w => smWf_map _ _ _ w
    | with_reducible exact fun w => ⟨w.1, smWf_set _ _ _ _ w.2.1, w.2.2⟩
    | with_reducible exact fun w => ⟨smWf_set _ _ _ _ w.1, w.2⟩
    | with_reducible exact fun w => ⟨w.1, smWf_set _ _ _ _ w.2⟩
    | with_reducible exact fun w => ⟨smWf_map _ _ _ w.1, w.2⟩
    | with_reducible exact fun w => ⟨Nat.mod_lt _ (by decide), w.2⟩
    | with_reducible exact fun w => ⟨w.1, smWf_set _ _ _ _ w.2⟩
    | exact id
    | dsimp only
    | with_reducible intro _
    | split

theorem execActivationDone_kept {ks : Nat} {s0 : State} {sign : Signing} {s : State} (hks : Nat.land ks 166706905 = 166706905) (hk : Kept ks s0 s) : ENext ks s0 (execActivationDone sign s) := by

  unfold execActivationDone
  repeat' first
    | with_reducible assumption
    | with_reducible refine enext_mk ?_
    | exact okept_none
    | with_reducible refine okept_some ?_
    | with_reducible refine State.onConns_kept (fun _ _ _ => ?_) ?_
    | with_reducible refine State.endDie_kept (cv rfl hks) ?_
    | with_reducible refine State.setBit_kept (cv rfl hks) ?_
    | dsimp only
    | with_reducible intro _
    | split

theorem execActivationTimeout_kept {ks : Nat} {s0 : State} {s : State} (hks : Nat.land ks 166706905 = 166706905) (hk : Kept ks s0 s) : ENext ks s0 (execActivationTimeout s) := by

  unfold execActivationTimeout
  repeat' first
    | with_reducible assumption
    | with_reducible refine enext_mk ?_
    | exact okept_none
    | with_reducible refine okept_some ?_
    | with_reducible refine State.onConns_kept (fun _ _ _ => ?_) ?_
    | with_reducible refine State.endDie_kept (cv rfl hks) ?_
    | with_reducible refine State.secRecord_kept (cv rfl hks) ?_
    | with_reducible refine State.setBit_kept (cv rfl hks) ?_
    | with_reducible refine State.setDom_kept (cv rfl hks) ?_
    | dsimp only
    | with_reducible intro _
    | split

theorem execActivationAbandon_kept {ks : Nat} {s0 : State} {s : State} (hks : Nat.land ks 166706905 = 166706905) (hk : Kept ks s0 s) : ENext ks s0 (execActivationAbandon s) := by

  unfold execActivationAbandon
  repeat' first
    | with_reducible assumption
    | with_reducible refine enext_mk ?_
    | exact okept_none
    | with_reducible refine okept_some ?_
    | with_reducible refine State.onConns_kept (fun _ _ _ => ?_) ?_
    | with_reducible refine State.endDie_kept (cv rfl hks) ?_
    | with_reducible refine State.setBoot_kept (cv rfl hks) ?_ ?_
    | dsimp only
    | with_reducible exact fun w => smWf_set _ _ _ _ w
    | with_reducible exact fun w => smWf_map _ _ _ w
    | with_reducible exact fun w => ⟨w.1, smWf_set _ _ _ _ w.2.1, w.2.2⟩
    | with_reducible exact fun w => ⟨smWf_set _ _ _ _ w.1, w.2⟩
    | with_reducible exact fun w => ⟨w.1, smWf_set _ _ _ _ w.2⟩
    | with_reducible exact fun w => ⟨smWf_map _ _ _ w.1, w.2⟩
    | with_reducible exact fun w => ⟨Nat.mod_lt _ (by decide), w.2⟩
    | with_reducible exact fun w => ⟨w.1, smWf_set _ _ _ _ w.2⟩
    | exact id
    | dsimp only
    | with_reducible intro _
    | split

theorem execGetStatus_kept {ks : Nat} {s0 : State} {via : Via} {s : State} (hks : Nat.land ks 134217728 = 134217728) (hk : Kept ks s0 s) : ENext ks s0 (execGetStatus via s) := by

  unfold execGetStatus
  repeat' first
    | with_reducible assumption
    | with_reducible refine enext_mk ?_
    | exact okept_none
    | with_reducible refine okept_some ?_
    | with_reducible refine State.onConns_kept (fun _ _ _ => ?_) ?_
    | with_reducible refine kept_foldl (fun _ _ _ => ?_) ?_
    | with_reducible refine State.pldm_kept (cv rfl hks) ?_
    | dsimp only
    | with_reducible intro _
    | split

theorem execCancelUpdateComponent_kept {ks : Nat} {s0 : State} {via : Via} {s : State} (hks : Nat.land ks 142606336 = 142606336) (hk : Kept ks s0 s) : ENext ks s0 (execCancelUpdateComponent via s) := by

  unfold execCancelUpdateComponent
  repeat' first
    | with_reducible assumption
    | with_reducible refine enext_mk ?_
    | exact okept_none
    | with_reducible refine okept_some ?_
    | with_reducible refine State.onConns_kept (fun _ _ _ => ?_) ?_
    | with_reducible refine State.fwDeny_kept (cv rfl hks) ?_
    | with_reducible refine State.pldm_kept (cv rfl hks) ?_
    | with_reducible refine State.setFw_kept (cv rfl hks) ?_
    | dsimp only
    | with_reducible intro _
    | split

theorem execCancelUpdate_kept {ks : Nat} {s0 : State} {via : Via} {s : State} (hks : Nat.land ks 142606336 = 142606336) (hk : Kept ks s0 s) : ENext ks s0 (execCancelUpdate via s) := by

  unfold execCancelUpdate
  repeat' first
    | with_reducible assumption
    | with_reducible refine enext_mk ?_
    | exact okept_none
    | with_reducible refine okept_some ?_
    | with_reducible refine State.onConns_kept (fun _ _ _ => ?_) ?_
    | with_reducible refine State.fwCancel_kept (cv rfl hks) ?_
    | with_reducible refine State.fwDeny_kept (cv rfl hks) ?_
    | with_reducible refine State.pldm_kept (cv rfl hks) ?_
    | dsimp only
    | with_reducible intro _
    | split

theorem execFirmwareUpdateTimeout_kept {ks : Nat} {s0 : State} {s : State} (hks : Nat.land ks 8388608 = 8388608) (hk : Kept ks s0 s) : ENext ks s0 (execFirmwareUpdateTimeout s) := by

  unfold execFirmwareUpdateTimeout
  repeat' first
    | with_reducible assumption
    | with_reducible refine enext_mk ?_
    | exact okept_none
    | with_reducible refine okept_some ?_
    | with_reducible refine State.onConns_kept (fun _ _ _ => ?_) ?_
    | with_reducible refine State.fwCancel_kept (cv rfl hks) ?_
    | dsimp only
    | with_reducible intro _
    | split

theorem execGetVersion_kept {ks : Nat} {s0 : State} {via : Via} {s : State} (hks : Nat.land ks 165681233 = 165681233) (hk : Kept ks s0 s) : ENext ks s0 (execGetVersion via s) := by

  unfold execGetVersion
  repeat' first
    | with_reducible assumption
    | with_reducible refine enext_mk ?_
    | exact okept_none
    | with_reducible refine okept_some ?_
    | with_reducible refine State.onConns_kept (fun _ _ _ => ?_) ?_
    | with_reducible refine State.spdmAsk_kept (fun _ _ => ?_) (cv rfl hks) ?_
    | with_reducible refine State.spdmStage_kept (cv rfl hks) ?_
    | with_reducible refine State.emit_kept (cv rfl hks) ?_

theorem execGetCapabilities_kept {ks : Nat} {s0 : State} {via : Via} {s : State} (hks : Nat.land ks 165681233 = 165681233) (hk : Kept ks s0 s) : ENext ks s0 (execGetCapabilities via s) := by

  unfold execGetCapabilities
  repeat' first
    | with_reducible assumption
    | with_reducible refine enext_mk ?_
    | exact okept_none
    | with_reducible refine okept_some ?_
    | with_reducible refine State.onConns_kept (fun _ _ _ => ?_) ?_
    | with_reducible refine State.spdmAsk_kept (fun _ _ => ?_) (cv rfl hks) ?_
    | with_reducible refine State.spdmStage_kept (cv rfl hks) ?_
    | with_reducible refine State.emit_kept (cv rfl hks) ?_

theorem execNegotiateAlgorithms_kept {ks : Nat} {s0 : State} {via : Via} {s : State} (hks : Nat.land ks 165681233 = 165681233) (hk : Kept ks s0 s) : ENext ks s0 (execNegotiateAlgorithms via s) := by

  unfold execNegotiateAlgorithms
  repeat' first
    | with_reducible assumption
    | with_reducible refine enext_mk ?_
    | exact okept_none
    | with_reducible refine okept_some ?_
    | with_reducible refine State.onConns_kept (fun _ _ _ => ?_) ?_
    | with_reducible refine State.spdmAsk_kept (fun _ _ => ?_) (cv rfl hks) ?_
    | with_reducible refine State.spdmStage_kept (cv rfl hks) ?_
    | with_reducible refine State.emit_kept (cv rfl hks) ?_

theorem execGetDigests_kept {ks : Nat} {s0 : State} {via : Via} {s : State} (hks : Nat.land ks 165681233 = 165681233) (hk : Kept ks s0 s) : ENext ks s0 (execGetDigests via s) := by

  unfold execGetDigests
  repeat' first
    | with_reducible assumption
    | with_reducible refine enext_mk ?_
    | exact okept_none
    | with_reducible refine okept_some ?_
    | with_reducible refine State.onConns_kept (fun _ _ _ => ?_) ?_
    | with_reducible refine State.spdmAsk_kept (fun _ _ => ?_) (cv rfl hks) ?_
    | with_reducible refine State.emit_kept (cv rfl hks) ?_

theorem execGetCertificate_kept {ks : Nat} {s0 : State} {via : Via} {offset length : Nat} {s : State} (hks : Nat.land ks 165681233 = 165681233) (hk : Kept ks s0 s) : ENext ks s0 (execGetCertificate via offset length s) := by

  unfold execGetCertificate
  repeat' first
    | with_reducible assumption
    | with_reducible refine enext_mk ?_
    | exact okept_none
    | with_reducible refine okept_some ?_
    | with_reducible refine State.onConns_kept (fun _ _ _ => ?_) ?_
    | with_reducible refine State.attestRefused_kept (cv rfl hks) ?_
    | with_reducible refine State.spdmAsk_kept (fun _ _ => ?_) (cv rfl hks) ?_
    | with_reducible refine State.emit_kept (cv rfl hks) ?_
    | dsimp only
    | with_reducible intro _
    | split

theorem execChallenge_kept {ks : Nat} {s0 : State} {via : Via} {nonce : Nat} {sign : Signing} {s : State} (hks : Nat.land ks 165681233 = 165681233) (hk : Kept ks s0 s) : ENext ks s0 (execChallenge via nonce sign s) := by

  unfold execChallenge
  repeat' first
    | with_reducible assumption
    | with_reducible refine enext_mk ?_
    | exact okept_none
    | with_reducible refine okept_some ?_
    | with_reducible refine State.onConns_kept (fun _ _ _ => ?_) ?_
    | with_reducible refine State.signedAnswer_kept (cv rfl hks) ?_
    | with_reducible refine State.spdmAsk_kept (fun _ _ => ?_) (cv rfl hks) ?_

theorem execGetMeasurements_kept {ks : Nat} {s0 : State} {via : Via} {index : Nat} {signed : Bool} {nonce : Nat} {sign : Signing} {s : State} (hks : Nat.land ks 165681233 = 165681233) (hk : Kept ks s0 s) : ENext ks s0 (execGetMeasurements via index signed nonce sign s) := by

  unfold execGetMeasurements
  repeat' first
    | with_reducible assumption
    | with_reducible refine enext_mk ?_
    | exact okept_none
    | with_reducible refine okept_some ?_
    | with_reducible refine State.onConns_kept (fun _ _ _ => ?_) ?_
    | with_reducible refine State.attestRefused_kept (cv rfl hks) ?_
    | with_reducible refine State.signedAnswer_kept (cv rfl hks) ?_
    | with_reducible refine State.spdmAsk_kept (fun _ _ => ?_) (cv rfl hks) ?_
    | with_reducible refine State.emit_kept (cv rfl hks) ?_
    | dsimp only
    | with_reducible intro _
    | split

theorem execMalformedSpdmRequest_kept {ks : Nat} {s0 : State} {via : Via} {unsupported : Bool} {s : State} (hks : Nat.land ks 165681233 = 165681233) (hk : Kept ks s0 s) : ENext ks s0 (execMalformedSpdmRequest via unsupported s) := by

  unfold execMalformedSpdmRequest
  repeat' first
    | with_reducible assumption
    | with_reducible refine enext_mk ?_
    | exact okept_none
    | with_reducible refine okept_some ?_
    | with_reducible refine State.onConns_kept (fun _ _ _ => ?_) ?_
    | with_reducible refine State.attestRefused_kept (cv rfl hks) ?_
    | dsimp only
    | with_reducible intro _
    | split

theorem execBottomLevelTreeBuilt_kept {ks : Nat} {s0 : State} {s : State} (hks : Nat.land ks 8388608 = 8388608) (hk : Kept ks s0 s) : ENext ks s0 (execBottomLevelTreeBuilt s) := by

  unfold execBottomLevelTreeBuilt
  repeat' first
    | with_reducible assumption
    | with_reducible refine enext_mk ?_
    | exact okept_none
    | with_reducible refine okept_some ?_
    | with_reducible refine State.onConns_kept (fun _ _ _ => ?_) ?_
    | with_reducible refine State.setBoot_kept (cv rfl hks) ?_ ?_
    | dsimp only
    | with_reducible exact fun w => smWf_set _ _ _ _ w
    | with_reducible exact fun w => smWf_map _ _ _ w
    | with_reducible exact fun w => ⟨w.1, smWf_set _ _ _ _ w.2.1, w.2.2⟩
    | with_reducible exact fun w => ⟨smWf_set _ _ _ _ w.1, w.2⟩
    | with_reducible exact fun w => ⟨w.1, smWf_set _ _ _ _ w.2⟩
    | with_reducible exact fun w => ⟨smWf_map _ _ _ w.1, w.2⟩
    | with_reducible exact fun w => ⟨Nat.mod_lt _ (by decide), w.2⟩
    | with_reducible exact fun w => ⟨w.1, smWf_set _ _ _ _ w.2⟩
    | exact id

theorem execModPwrEnAssert_kept {ks : Nat} {s0 : State} {s : State} (hks : Nat.land ks 41943040 = 41943040) (hk : Kept ks s0 s) : ENext ks s0 (execModPwrEnAssert s) := by

  unfold execModPwrEnAssert
  repeat' first
    | with_reducible assumption
    | with_reducible refine enext_mk ?_
    | exact okept_none
    | with_reducible refine okept_some ?_
    | with_reducible refine State.onConns_kept (fun _ _ _ => ?_) ?_
    | with_reducible refine State.setBoot_kept (cv rfl hks) ?_ ?_
    | with_reducible refine State.setPwr_kept (cv rfl hks) ?_
    | dsimp only
    | with_reducible exact fun w => smWf_set _ _ _ _ w
    | with_reducible exact fun w => smWf_map _ _ _ w
    | with_reducible exact fun w => ⟨w.1, smWf_set _ _ _ _ w.2.1, w.2.2⟩
    | with_reducible exact fun w => ⟨smWf_set _ _ _ _ w.1, w.2⟩
    | with_reducible exact fun w => ⟨w.1, smWf_set _ _ _ _ w.2⟩
    | with_reducible exact fun w => ⟨smWf_map _ _ _ w.1, w.2⟩
    | with_reducible exact fun w => ⟨w.1, smWf_set _ _ _ _ w.2⟩
    | exact id
    | dsimp only
    | with_reducible intro _
    | split

theorem execModPwrGood_kept {ks : Nat} {s0 : State} {s : State} (hks : Nat.land ks 33554432 = 33554432) (hk : Kept ks s0 s) : ENext ks s0 (execModPwrGood s) := by

  unfold execModPwrGood
  repeat' first
    | with_reducible assumption
    | with_reducible refine enext_mk ?_
    | exact okept_none
    | with_reducible refine okept_some ?_
    | with_reducible refine State.onConns_kept (fun _ _ _ => ?_) ?_
    | with_reducible refine State.setPwr_kept (cv rfl hks) ?_
    | dsimp only
    | with_reducible intro _
    | split

theorem execPowerUpTimeout_kept {ks : Nat} {s0 : State} {s : State} (hks : Nat.land ks 33554432 = 33554432) (hk : Kept ks s0 s) : ENext ks s0 (execPowerUpTimeout s) := by

  unfold execPowerUpTimeout
  repeat' first
    | with_reducible assumption
    | with_reducible refine enext_mk ?_
    | exact okept_none
    | with_reducible refine okept_some ?_
    | with_reducible refine State.onConns_kept (fun _ _ _ => ?_) ?_
    | with_reducible refine State.setPwr_kept (cv rfl hks) ?_
    | dsimp only
    | with_reducible intro _
    | split

theorem execModPwrEnDeassert_kept {ks : Nat} {s0 : State} {torn : List Tear} {s : State} (hks : Nat.land ks 134217727 = 134217727) (hk : Kept ks s0 s) : ENext ks s0 (execModPwrEnDeassert torn s) := by

  unfold execModPwrEnDeassert
  repeat' first
    | with_reducible assumption
    | with_reducible refine enext_mk ?_
    | exact okept_none
    | with_reducible refine okept_some ?_
    | with_reducible refine State.onConns_kept (fun _ _ _ => ?_) ?_
    | with_reducible refine State.powerOff_kept (cv rfl hks) ?_
    | with_reducible refine State.setPwr_kept (cv rfl hks) ?_
    | dsimp only
    | with_reducible intro _
    | split

theorem execModRstNDeassert_kept {ks : Nat} {s0 : State} {s : State} (hks : Nat.land ks 134217727 = 134217727) (hk : Kept ks s0 s) : ENext ks s0 (execModRstNDeassert s) := by

  unfold execModRstNDeassert
  repeat' first
    | with_reducible assumption
    | with_reducible refine enext_mk ?_
    | exact okept_none
    | with_reducible refine okept_some ?_
    | with_reducible refine State.onConns_kept (fun _ _ _ => ?_) ?_
    | with_reducible refine State.beginStart_kept (cv rfl hks) ?_
    | with_reducible refine State.setPwr_kept (cv rfl hks) ?_
    | dsimp only
    | with_reducible intro _
    | split

theorem execModRstNAssert_kept {ks : Nat} {s0 : State} {s : State} (hks : Nat.land ks 134217727 = 134217727) (hk : Kept ks s0 s) : ENext ks s0 (execModRstNAssert s) := by

  unfold execModRstNAssert
  repeat' first
    | with_reducible assumption
    | with_reducible refine enext_mk ?_
    | exact okept_none
    | with_reducible refine okept_some ?_
    | with_reducible refine State.onConns_kept (fun _ _ _ => ?_) ?_
    | with_reducible refine State.wiped_kept (cv rfl hks) ?_
    | with_reducible refine State.setBoot_kept (cv rfl hks) ?_ ?_
    | with_reducible refine State.setPwr_kept (cv rfl hks) ?_
    | dsimp only
    | with_reducible exact fun w => smWf_set _ _ _ _ w
    | with_reducible exact fun w => smWf_map _ _ _ w
    | with_reducible exact fun w => ⟨w.1, smWf_set _ _ _ _ w.2.1, w.2.2⟩
    | with_reducible exact fun w => ⟨smWf_set _ _ _ _ w.1, w.2⟩
    | with_reducible exact fun w => ⟨w.1, smWf_set _ _ _ _ w.2⟩
    | with_reducible exact fun w => ⟨smWf_map _ _ _ w.1, w.2⟩
    | with_reducible exact fun w => ⟨Nat.mod_lt _ (by decide), w.2⟩
    | with_reducible exact fun w => ⟨w.1, smWf_set _ _ _ _ w.2⟩
    | exact id
    | dsimp only
    | with_reducible intro _
    | split

theorem execPowerFailure_kept {ks : Nat} {s0 : State} {torn : List Tear} {s : State} (hks : Nat.land ks 134217727 = 134217727) (hk : Kept ks s0 s) : ENext ks s0 (execPowerFailure torn s) := by

  unfold execPowerFailure
  repeat' first
    | with_reducible assumption
    | with_reducible refine enext_mk ?_
    | exact okept_none
    | with_reducible refine okept_some ?_
    | with_reducible refine State.onConns_kept (fun _ _ _ => ?_) ?_
    | with_reducible refine State.converterStop_kept (cv rfl hks) ?_
    | dsimp only
    | with_reducible intro _
    | split

theorem execUv_kept {ks : Nat} {s0 : State} {s : State} (hks : Nat.land ks 1 = 1) (hk : Kept ks s0 s) : ENext ks s0 (execUv s) := by

  unfold execUv
  repeat' first
    | with_reducible assumption
    | with_reducible refine enext_mk ?_
    | exact okept_none
    | with_reducible refine okept_some ?_
    | with_reducible refine State.onConns_kept (fun _ _ _ => ?_) ?_
    | with_reducible refine State.setBit_kept (cv rfl hks) ?_
    | dsimp only
    | with_reducible intro _
    | split

theorem execOv_kept {ks : Nat} {s0 : State} {s : State} (hks : Nat.land ks 1 = 1) (hk : Kept ks s0 s) : ENext ks s0 (execOv s) := by

  unfold execOv
  repeat' first
    | with_reducible assumption
    | with_reducible refine enext_mk ?_
    | exact okept_none
    | with_reducible refine okept_some ?_
    | with_reducible refine State.onConns_kept (fun _ _ _ => ?_) ?_
    | with_reducible refine State.setBit_kept (cv rfl hks) ?_
    | dsimp only
    | with_reducible intro _
    | split

theorem execOverpower_kept {ks : Nat} {s0 : State} {s : State} (hks : Nat.land ks 1 = 1) (hk : Kept ks s0 s) : ENext ks s0 (execOverpower s) := by

  unfold execOverpower
  repeat' first
    | with_reducible assumption
    | with_reducible refine enext_mk ?_
    | exact okept_none
    | with_reducible refine okept_some ?_
    | with_reducible refine State.onConns_kept (fun _ _ _ => ?_) ?_
    | with_reducible refine State.setBit_kept (cv rfl hks) ?_
    | dsimp only
    | with_reducible intro _
    | split

theorem execThermalTrip_kept {ks : Nat} {s0 : State} {s : State} (hks : Nat.land ks 33554432 = 33554432) (hk : Kept ks s0 s) : ENext ks s0 (execThermalTrip s) := by

  unfold execThermalTrip
  repeat' first
    | with_reducible assumption
    | with_reducible refine enext_mk ?_
    | exact okept_none
    | with_reducible refine okept_some ?_
    | with_reducible refine State.onConns_kept (fun _ _ _ => ?_) ?_
    | with_reducible refine State.setPwr_kept (cv rfl hks) ?_
    | dsimp only
    | with_reducible intro _
    | split

theorem execThermtripTimeout_kept {ks : Nat} {s0 : State} {torn : List Tear} {s : State} (hks : Nat.land ks 134217727 = 134217727) (hk : Kept ks s0 s) : ENext ks s0 (execThermtripTimeout torn s) := by

  unfold execThermtripTimeout
  repeat' first
    | with_reducible assumption
    | with_reducible refine enext_mk ?_
    | exact okept_none
    | with_reducible refine okept_some ?_
    | with_reducible refine State.onConns_kept (fun _ _ _ => ?_) ?_
    | with_reducible refine State.converterStop_kept (cv rfl hks) ?_
    | dsimp only
    | with_reducible intro _
    | split

theorem execStandby_kept {ks : Nat} {s0 : State} {s : State} (hks : Nat.land ks 166705873 = 166705873) (hk : Kept ks s0 s) : ENext ks s0 (execStandby s) := by

  unfold execStandby
  repeat' first
    | with_reducible assumption
    | with_reducible refine enext_mk ?_
    | exact okept_none
    | with_reducible refine okept_some ?_
    | with_reducible refine State.onConns_kept (fun _ _ _ => ?_) ?_
    | with_reducible refine State.command_kept (fun _ _ => ?_) (cv rfl hks) ?_
    | with_reducible refine State.standBy_kept (cv rfl hks) ?_

theorem execRestart_kept {ks : Nat} {s0 : State} {s : State} (hks : Nat.land ks 268435455 = 268435455) (hk : Kept ks s0 s) : ENext ks s0 (execRestart s) := by

  unfold execRestart
  repeat' first
    | with_reducible assumption
    | with_reducible refine enext_mk ?_
    | exact okept_none
    | with_reducible refine okept_some ?_
    | with_reducible refine State.onConns_kept (fun _ _ _ => ?_) ?_
    | with_reducible refine State.beginStart_kept (cv rfl hks) ?_
    | with_reducible refine State.command_kept (fun _ _ => ?_) (cv rfl hks) ?_
    | with_reducible refine State.setBoot_kept (cv rfl hks) ?_ ?_
    | dsimp only
    | with_reducible exact fun w => smWf_set _ _ _ _ w
    | with_reducible exact fun w => smWf_map _ _ _ w
    | with_reducible exact fun w => ⟨w.1, smWf_set _ _ _ _ w.2.1, w.2.2⟩
    | with_reducible exact fun w => ⟨smWf_set _ _ _ _ w.1, w.2⟩
    | with_reducible exact fun w => ⟨w.1, smWf_set _ _ _ _ w.2⟩
    | with_reducible exact fun w => ⟨smWf_map _ _ _ w.1, w.2⟩
    | with_reducible exact fun w => ⟨Nat.mod_lt _ (by decide), w.2⟩
    | with_reducible exact fun w => ⟨w.1, smWf_set _ _ _ _ w.2⟩
    | exact id

theorem execDevReset_kept {ks : Nat} {s0 : State} {s : State} (hks : Nat.land ks 166574289 = 166574289) (hk : Kept ks s0 s) : ENext ks s0 (execDevReset s) := by

  unfold execDevReset
  repeat' first
    | with_reducible assumption
    | with_reducible refine enext_mk ?_
    | exact okept_none
    | with_reducible refine okept_some ?_
    | with_reducible refine State.onConns_kept (fun _ _ _ => ?_) ?_
    | with_reducible refine State.askDevice_kept (cv rfl hks) ?_
    | with_reducible refine State.command_kept (fun _ _ => ?_) (cv rfl hks) ?_

theorem execDevEnable_kept {ks : Nat} {s0 : State} {s : State} (hks : Nat.land ks 165675073 = 165675073) (hk : Kept ks s0 s) : ENext ks s0 (execDevEnable s) := by

  unfold execDevEnable
  repeat' first
    | with_reducible assumption
    | with_reducible refine enext_mk ?_
    | exact okept_none
    | with_reducible refine okept_some ?_
    | with_reducible refine State.onConns_kept (fun _ _ _ => ?_) ?_
    | with_reducible refine State.command_kept (fun _ _ => ?_) (cv rfl hks) ?_
    | with_reducible refine State.enableDevice_kept (cv rfl hks) ?_

theorem execGetState_kept {ks : Nat} {s0 : State} {s : State} (hks : Nat.land ks 134217728 = 134217728) (hk : Kept ks s0 s) : ENext ks s0 (execGetState s) := by

  unfold execGetState
  repeat' first
    | with_reducible assumption
    | with_reducible refine enext_mk ?_
    | exact okept_none
    | with_reducible refine okept_some ?_
    | with_reducible refine State.onConns_kept (fun _ _ _ => ?_) ?_
    | with_reducible refine State.sbAnswer_kept (cv rfl hks) ?_
    | dsimp only
    | with_reducible intro _
    | split

theorem execPpsLoad_kept {ks : Nat} {s0 : State} {value : BitVec 64} {s : State} (hks : Nat.land ks 165722329 = 165722329) (hk : Kept ks s0 s) : ENext ks s0 (execPpsLoad value s) := by

  unfold execPpsLoad
  repeat' first
    | with_reducible assumption
    | with_reducible refine enext_mk ?_
    | exact okept_none
    | with_reducible refine okept_some ?_
    | with_reducible refine State.onConns_kept (fun _ _ _ => ?_) ?_
    | with_reducible refine State.command_kept (fun _ _ => ?_) (cv rfl hks) ?_
    | with_reducible refine State.writeTimCtrl_kept (cv rfl hks) ?_
    | with_reducible refine State.setReg_kept (cv rfl hks) ?_

theorem execMalformedCommand_kept {ks : Nat} {s0 : State} {command : BitVec 8} {s : State} (hks : Nat.land ks 134217728 = 134217728) (hk : Kept ks s0 s) : ENext ks s0 (execMalformedCommand command s) := by

  unfold execMalformedCommand
  repeat' first
    | with_reducible assumption
    | with_reducible refine enext_mk ?_
    | exact okept_none
    | with_reducible refine okept_some ?_
    | with_reducible refine State.onConns_kept (fun _ _ _ => ?_) ?_
    | with_reducible refine State.sbAnswer_kept (cv rfl hks) ?_
    | dsimp only
    | with_reducible intro _
    | split

end Sys2Proof.Machine
end

