-- ==== Sys2Proof/Laws/ExecCores.lean ====
section
/-! SUPPORT. Each command of Machine/Cores, Machine/Vector, Machine/Dma answers a next state, and what it keeps. -/

namespace Sys2Proof.Machine

open Sys2Proof Host

theorem execWLoad_kept {ks : Nat} {s0 : State} {r : OpRef} {phase : Fin 7} {bad : List Blemish} {s : State} (hks : Nat.land ks 233355473 = 233355473) (hk : Kept ks s0 s) : ENext ks s0 (execWLoad r phase bad s) := by

  unfold execWLoad
  repeat' first
    | with_reducible assumption
    | with_reducible refine enext_mk ?_
    | exact okept_none
    | with_reducible refine okept_some ?_
    | with_reducible refine State.onConns_kept (fun _ _ _ => ?_) ?_
    | with_reducible refine State.afterCharge_kept (cv rfl hks) ?_
    | with_reducible refine State.feederFaults_kept (cv rfl hks) ?_
    | with_reducible refine State.holdOp_kept (cv rfl hks) ?_
    | with_reducible refine State.issue_kept (cv rfl hks) ?_
    | with_reducible refine State.meetSram_kept (cv rfl hks) ?_
    | with_reducible refine State.poisonRow_kept (cv rfl hks) ?_
    | with_reducible refine State.setArray_kept (cv rfl hks) ?_
    | with_reducible refine kept_pair (by with_reducible assumption) ?_
    | dsimp only
    | with_reducible intro _
    | split

theorem execPass_kept {ks : Nat} {s0 : State} {r : OpRef} {phase : Fin 7} {faults : List CellFault} {bad : List Blemish} {s : State} (hks : Nat.land ks 233355473 = 233355473) (hk : Kept ks s0 s) : ENext ks s0 (execPass r phase faults bad s) := by

  unfold execPass
  repeat' first
    | with_reducible assumption
    | with_reducible refine enext_mk ?_
    | exact okept_none
    | with_reducible refine okept_some ?_
    | with_reducible refine State.onConns_kept (fun _ _ _ => ?_) ?_
    | with_reducible refine State.afterCharge_kept (cv rfl hks) ?_
    | with_reducible refine State.beginPass_kept (cv rfl hks) ?_
    | with_reducible refine State.holdOp_kept (cv rfl hks) ?_
    | with_reducible refine State.issue_kept (cv rfl hks) ?_
    | with_reducible refine State.meetSram_kept (cv rfl hks) ?_
    | with_reducible refine State.setArray_kept (cv rfl hks) ?_
    | dsimp only
    | with_reducible intro _
    | split

theorem execPassVerdict_kept {ks : Nat} {s0 : State} {core : Fin 256} {array : Fin 4} {phase : Fin 7} {bad : List Blemish} {s : State} (hks : Nat.land ks 233355473 = 233355473) (hk : Kept ks s0 s) : ENext ks s0 (execPassVerdict core array phase bad s) := by

  unfold execPassVerdict
  repeat' first
    | with_reducible assumption
    | with_reducible refine enext_mk ?_
    | exact okept_none
    | with_reducible refine okept_some ?_
    | with_reducible refine State.onConns_kept (fun _ _ _ => ?_) ?_
    | with_reducible refine State.meetSram_kept (cv rfl hks) ?_
    | with_reducible refine State.passVerdict_kept (cv rfl hks) ?_
    | with_reducible refine State.replayVerdict_kept (cv rfl hks) ?_
    | dsimp only
    | with_reducible intro _
    | split

theorem execReplayStart_kept {ks : Nat} {s0 : State} {core : Fin 256} {phase : Fin 7} {faults : List CellFault} {bad : List Blemish} {s : State} (hks : Nat.land ks 166205521 = 166205521) (hk : Kept ks s0 s) : ENext ks s0 (execReplayStart core phase faults bad s) := by

  unfold execReplayStart
  repeat' first
    | with_reducible assumption
    | with_reducible refine enext_mk ?_
    | exact okept_none
    | with_reducible refine okept_some ?_
    | with_reducible refine State.onConns_kept (fun _ _ _ => ?_) ?_
    | with_reducible refine State.meetSram_kept (cv rfl hks) ?_
    | with_reducible refine State.setArray_kept (cv rfl hks) ?_
    | with_reducible refine State.setCore_kept (cv rfl hks) ?_
    | dsimp only
    | with_reducible intro _
    | split

theorem execFtqPop_kept {ks : Nat} {s0 : State} {r : OpRef} {phase : Fin 7} {bad : List Blemish} {s : State} (hks : Nat.land ks 233355473 = 233355473) (hk : Kept ks s0 s) : ENext ks s0 (execFtqPop r phase bad s) := by

  unfold execFtqPop
  repeat' first
    | with_reducible assumption
    | with_reducible refine enext_mk ?_
    | exact okept_none
    | with_reducible refine okept_some ?_
    | with_reducible refine State.onConns_kept (fun _ _ _ => ?_) ?_
    | with_reducible apply MemS.toTb_imp
    | with_reducible exact fun c => MemS.Canonical.same c rfl
    | with_reducible refine State.afterCharge_kept (cv rfl hks) ?_
    | with_reducible refine State.chargeOnce_kept (cv rfl hks) ?_
    | with_reducible refine State.holdOp_kept (cv rfl hks) ?_
    | with_reducible refine State.issue_kept (cv rfl hks) ?_
    | with_reducible refine State.meetSram_kept (cv rfl hks) ?_
    | with_reducible refine State.setArray_kept (cv rfl hks) ?_
    | with_reducible refine State.setCore_kept (cv rfl hks) ?_
    | with_reducible refine State.setMem_kept (cv rfl hks) ?_ ?_
    | dsimp only
    | with_reducible exact fun w => smWf_set _ _ _ _ w
    | with_reducible exact fun w => smWf_map _ _ _ w
    | with_reducible exact fun w => ⟨w.1, smWf_set _ _ _ _ w.2.1, w.2.2⟩
    | with_reducible exact fun w => ⟨smWf_set _ _ _ _ w.1, w.2⟩
    | with_reducible exact fun w => ⟨w.1, smWf_set _ _ _ _ w.2⟩
    | with_reducible exact fun w => ⟨smWf_map _ _ _ w.1, w.2⟩
    | with_reducible exact fun w => ⟨w.1, smWf_set _ _ _ _ w.2⟩
    | exact id
    | dsimp only
    | with_reducible intro _
    | split

theorem execAccRead_kept {ks : Nat} {s0 : State} {r : OpRef} {phase : Fin 7} {bad : List Blemish} {s : State} (hks : Nat.land ks 233355473 = 233355473) (hk : Kept ks s0 s) : ENext ks s0 (execAccRead r phase bad s) := by

  unfold execAccRead
  repeat' first
    | with_reducible assumption
    | with_reducible refine enext_mk ?_
    | exact okept_none
    | with_reducible refine okept_some ?_
    | with_reducible refine State.onConns_kept (fun _ _ _ => ?_) ?_
    | with_reducible apply MemS.toTb_imp
    | with_reducible exact fun c => MemS.Canonical.same c rfl
    | with_reducible refine State.afterCharge_kept (cv rfl hks) ?_
    | with_reducible refine State.chargeOnce_kept (cv rfl hks) ?_
    | with_reducible refine State.holdOp_kept (cv rfl hks) ?_
    | with_reducible refine State.issue_kept (cv rfl hks) ?_
    | with_reducible refine State.meetSram_kept (cv rfl hks) ?_
    | with_reducible refine State.setCore_kept (cv rfl hks) ?_
    | with_reducible refine State.setMem_kept (cv rfl hks) ?_ ?_
    | dsimp only
    | with_reducible exact fun w => smWf_set _ _ _ _ w
    | with_reducible exact fun w => smWf_map _ _ _ w
    | with_reducible exact fun w => ⟨w.1, smWf_set _ _ _ _ w.2.1, w.2.2⟩
    | with_reducible exact fun w => ⟨smWf_set _ _ _ _ w.1, w.2⟩
    | with_reducible exact fun w => ⟨w.1, smWf_set _ _ _ _ w.2⟩
    | with_reducible exact fun w => ⟨smWf_map _ _ _ w.1, w.2⟩
    | with_reducible exact fun w => ⟨w.1, smWf_set _ _ _ _ w.2⟩
    | exact id
    | dsimp only
    | with_reducible intro _
    | split

theorem execVeRun_kept {ks : Nat} {s0 : State} {r : OpRef} {phase : Fin 7} {bad : List Blemish} {s : State} (hks : Nat.land ks 233355473 = 233355473) (hk : Kept ks s0 s) : ENext ks s0 (execVeRun r phase bad s) := by

  unfold execVeRun
  repeat' first
    | with_reducible assumption
    | with_reducible refine enext_mk ?_
    | exact okept_none
    | with_reducible refine okept_some ?_
    | with_reducible refine State.onConns_kept (fun _ _ _ => ?_) ?_
    | with_reducible refine State.afterCharge_kept (cv rfl hks) ?_
    | with_reducible refine State.holdOp_kept (cv rfl hks) ?_
    | with_reducible refine State.meetSram_kept (cv rfl hks) ?_
    | with_reducible refine State.veIssue_kept (cv rfl hks) ?_
    | dsimp only
    | with_reducible intro _
    | split

theorem execDmaRun_kept {ks : Nat} {s0 : State} {r : OpRef} {phase : Fin 7} {bad : List Blemish} {edges : List EdgeErr} {s : State} (hks : Nat.land ks 233373393 = 233373393) (hk : Kept ks s0 s) : ENext ks s0 (execDmaRun r phase bad edges s) := by

  unfold execDmaRun
  repeat' first
    | with_reducible assumption
    | with_reducible refine enext_mk ?_
    | exact okept_none
    | with_reducible refine okept_some ?_
    | with_reducible refine State.onConns_kept (fun _ _ _ => ?_) ?_
    | with_reducible refine State.afterCharge_kept (cv rfl hks) ?_
    | with_reducible refine State.holdOp_kept (cv rfl hks) ?_
    | with_reducible refine State.issue_kept (cv rfl hks) ?_
    | with_reducible refine State.startXfer_kept (cv rfl hks) ?_
    | dsimp only
    | with_reducible intro _
    | split

theorem execDmaDataReady_kept {ks : Nat} {s0 : State} {r : OpRef} {phase : Fin 7} {s : State} (hks : Nat.land ks 233371857 = 233371857) (hk : Kept ks s0 s) : ENext ks s0 (execDmaDataReady r phase s) := by

  unfold execDmaDataReady
  repeat' first
    | with_reducible assumption
    | with_reducible refine enext_mk ?_
    | exact okept_none
    | with_reducible refine okept_some ?_
    | with_reducible refine State.onConns_kept (fun _ _ _ => ?_) ?_
    | with_reducible refine kept_getD ?_ ?_
    | with_reducible refine State.charge_kept (cv rfl hks) ?_
    | with_reducible refine State.goOut_kept (cv rfl hks) ?_
    | with_reducible refine State.xferBytes_kept (cv rfl hks) ?_
    | with_reducible refine State.xferStore_kept (cv rfl hks) ?_
    | with_reducible refine State.setXfers_kept (cv rfl hks) ?_
    | with_reducible refine kept_pair (by with_reducible assumption) ?_
    | with_reducible refine kept_pair3 (by with_reducible assumption) ?_
    | dsimp only
    | with_reducible intro _
    | split

end Sys2Proof.Machine
end

