-- ==== Sys2Proof/Laws/ExecFabric.lean ====
section
/-! SUPPORT. Each command of Machine/HostPort, Machine/Pool, Machine/Fabric answers a next state, and what it keeps. -/

namespace Sys2Proof.Machine

open Sys2Proof Host

theorem execHostReadCompletion_kept {ks : Nat} {s0 : State} {port : Fin 4} {id : Nat} {status : ReadStatus} {data : List Gran} {edges : List EdgeErr} {s : State} (hks : Nat.land ks 166706897 = 166706897) (hk : Kept ks s0 s) : ENext ks s0 (execHostReadCompletion port id status data edges s) := by

  unfold execHostReadCompletion
  repeat' first
    | with_reducible assumption
    | with_reducible refine enext_mk ?_
    | exact okept_none
    | with_reducible refine okept_some ?_
    | with_reducible refine State.onConns_kept (fun _ _ _ => ?_) ?_
    | with_reducible refine State.deliver_kept (cv rfl hks) ?_
    | with_reducible refine State.dropRead_kept (cv rfl hks) ?_
    | with_reducible refine State.fetchOver_kept (fun _ _ _ _ => ?_) (cv rfl hks) ?_
    | with_reducible refine State.raise_kept (cv rfl hks) ?_
    | with_reducible refine kept_pair3 (by with_reducible assumption) ?_
    | dsimp only
    | with_reducible intro _
    | split

theorem execLinkDown_kept {ks : Nat} {s0 : State} {port : Fin 4} {s : State} (hks : Nat.land ks 166706929 = 166706929) (hk : Kept ks s0 s) : ENext ks s0 (execLinkDown port s) := by

  unfold execLinkDown
  repeat' first
    | with_reducible assumption
    | with_reducible refine enext_mk ?_
    | exact okept_none
    | with_reducible refine okept_some ?_
    | with_reducible refine State.onConns_kept (fun _ _ _ => ?_) ?_
    | with_reducible refine State.loseLink_kept (cv rfl hks) ?_
    | dsimp only
    | with_reducible intro _
    | split

theorem execHostReset_kept {ks : Nat} {s0 : State} {port : Fin 4} {perst : Bool} {s : State} (hks : Nat.land ks 166706929 = 166706929) (hk : Kept ks s0 s) : ENext ks s0 (execHostReset port perst s) := by

  unfold execHostReset
  repeat' first
    | with_reducible assumption
    | with_reducible refine enext_mk ?_
    | exact okept_none
    | with_reducible refine okept_some ?_
    | with_reducible refine State.onConns_kept (fun _ _ _ => ?_) ?_
    | with_reducible refine State.loseLink_kept (cv rfl hks) ?_
    | with_reducible refine State.setPort_kept (cv rfl hks) ?_
    | dsimp only
    | with_reducible intro _
    | split

theorem execFlr_kept {ks : Nat} {s0 : State} {port : Fin 4} {s : State} (hks : Nat.land ks 166706929 = 166706929) (hk : Kept ks s0 s) : ENext ks s0 (execFlr port s) := by

  unfold execFlr
  repeat' first
    | with_reducible assumption
    | with_reducible refine enext_mk ?_
    | exact okept_none
    | with_reducible refine okept_some ?_
    | with_reducible refine State.onConns_kept (fun _ _ _ => ?_) ?_
    | with_reducible refine State.loseHost_kept (cv rfl hks) ?_
    | dsimp only
    | with_reducible intro _
    | split

theorem execLinkUp_kept {ks : Nat} {s0 : State} {port : Fin 4} {width : BitVec 5} {rate : BitVec 4} {s : State} (hks : Nat.land ks 65 = 65) (hk : Kept ks s0 s) : ENext ks s0 (execLinkUp port width rate s) := by

  unfold execLinkUp
  repeat' first
    | with_reducible assumption
    | with_reducible refine enext_mk ?_
    | exact okept_none
    | with_reducible refine okept_some ?_
    | with_reducible refine State.onConns_kept (fun _ _ _ => ?_) ?_
    | with_reducible refine State.setBit_kept (cv rfl hks) ?_
    | with_reducible refine State.setPort_kept (cv rfl hks) ?_
    | dsimp only
    | with_reducible intro _
    | split

theorem execRetrain_kept {ks : Nat} {s0 : State} {port : Fin 4} {s : State} (hks : Nat.land ks 1 = 1) (hk : Kept ks s0 s) : ENext ks s0 (execRetrain port s) := by

  unfold execRetrain
  repeat' first
    | with_reducible assumption
    | with_reducible refine enext_mk ?_
    | exact okept_none
    | with_reducible refine okept_some ?_
    | with_reducible refine State.onConns_kept (fun _ _ _ => ?_) ?_
    | with_reducible refine State.setBit_kept (cv rfl hks) ?_
    | dsimp only
    | with_reducible intro _
    | split

theorem execHostLinkGiveup_kept {ks : Nat} {s0 : State} {port : Fin 4} {s : State} (hks : Nat.land ks 166574289 = 166574289) (hk : Kept ks s0 s) : ENext ks s0 (execHostLinkGiveup port s) := by

  unfold execHostLinkGiveup
  repeat' first
    | with_reducible assumption
    | with_reducible refine enext_mk ?_
    | exact okept_none
    | with_reducible refine okept_some ?_
    | with_reducible refine State.onConns_kept (fun _ _ _ => ?_) ?_
    | with_reducible refine State.raise_kept (cv rfl hks) ?_
    | with_reducible refine State.resetDevice_kept (cv rfl hks) ?_
    | with_reducible refine State.setBit_kept (cv rfl hks) ?_
    | with_reducible refine State.setPort_kept (cv rfl hks) ?_
    | dsimp only
    | with_reducible intro _
    | split

theorem execPortModeWrite_kept {ks : Nat} {s0 : State} {port : Fin 4} {n : Fin 4} {w : Word} {s : State} (hks : Nat.land ks 166706933 = 166706933) (hk : Kept ks s0 s) : ENext ks s0 (execPortModeWrite port n w s) := by

  unfold execPortModeWrite
  repeat' first
    | with_reducible assumption
    | with_reducible refine enext_mk ?_
    | exact okept_none
    | with_reducible refine okept_some ?_
    | with_reducible refine State.onConns_kept (fun _ _ _ => ?_) ?_
    | with_reducible refine State.writePortCfg_kept (cv rfl hks) ?_
    | dsimp only
    | with_reducible intro _
    | split

theorem execRefclkLost_kept {ks : Nat} {s0 : State} {port : Fin 4} {s : State} (hks : Nat.land ks 166706929 = 166706929) (hk : Kept ks s0 s) : ENext ks s0 (execRefclkLost port s) := by

  unfold execRefclkLost
  repeat' first
    | with_reducible assumption
    | with_reducible refine enext_mk ?_
    | exact okept_none
    | with_reducible refine okept_some ?_
    | with_reducible refine State.onConns_kept (fun _ _ _ => ?_) ?_
    | with_reducible refine State.loseLink_kept (cv rfl hks) ?_
    | with_reducible refine State.setBit_kept (cv rfl hks) ?_
    | with_reducible refine State.setPort_kept (cv rfl hks) ?_
    | dsimp only
    | with_reducible intro _
    | split

theorem execRefclkReturn_kept {ks : Nat} {s0 : State} {port : Fin 4} {s : State} (hks : Nat.land ks 64 = 64) (hk : Kept ks s0 s) : ENext ks s0 (execRefclkReturn port s) := by

  unfold execRefclkReturn
  repeat' first
    | with_reducible assumption
    | with_reducible refine enext_mk ?_
    | exact okept_none
    | with_reducible refine okept_some ?_
    | with_reducible refine State.onConns_kept (fun _ _ _ => ?_) ?_
    | with_reducible refine State.setPort_kept (cv rfl hks) ?_

theorem execPerstNDeassert_kept {ks : Nat} {s0 : State} {port : Fin 4} {s : State} (hks : Nat.land ks 64 = 64) (hk : Kept ks s0 s) : ENext ks s0 (execPerstNDeassert port s) := by

  unfold execPerstNDeassert
  repeat' first
    | with_reducible assumption
    | with_reducible refine enext_mk ?_
    | exact okept_none
    | with_reducible refine okept_some ?_
    | with_reducible refine State.onConns_kept (fun _ _ _ => ?_) ?_
    | with_reducible refine State.setPort_kept (cv rfl hks) ?_
    | dsimp only
    | with_reducible intro _
    | split

theorem execRemoteBound_kept {ks : Nat} {s0 : State} {id : Nat} {s : State} (hks : Nat.land ks 166444753 = 166444753) (hk : Kept ks s0 s) : ENext ks s0 (execRemoteBound id s) := by

  unfold execRemoteBound
  repeat' first
    | with_reducible assumption
    | with_reducible refine enext_mk ?_
    | exact okept_none
    | with_reducible refine okept_some ?_
    | with_reducible refine State.onConns_kept (fun _ _ _ => ?_) ?_
    | with_reducible refine State.charge_kept (cv rfl hks) ?_
    | with_reducible refine State.failReq_kept (cv rfl hks) ?_
    | dsimp only
    | with_reducible intro _
    | split

theorem execCxlMemCompletion_kept {ks : Nat} {s0 : State} {hdie : Fin 4} {id : Nat} {error : Bool} {data : List Gran} {edges : List EdgeErr} {s : State} (hks : Nat.land ks 166706897 = 166706897) (hk : Kept ks s0 s) : ENext ks s0 (execCxlMemCompletion hdie id error data edges s) := by

  unfold execCxlMemCompletion
  repeat' first
    | with_reducible assumption
    | with_reducible refine enext_mk ?_
    | exact okept_none
    | with_reducible refine okept_some ?_
    | with_reducible refine State.onConns_kept (fun _ _ _ => ?_) ?_
    | with_reducible refine State.cxlReadDone_kept (cv rfl hks) ?_
    | with_reducible refine State.cxlRowDone_kept (cv rfl hks) ?_
    | with_reducible refine State.cxlWake_kept (cv rfl hks) ?_
    | with_reducible refine State.memberAnswer_kept (cv rfl hks) ?_
    | with_reducible refine State.raise_kept (cv rfl hks) ?_
    | with_reducible refine State.rowLost_kept (cv rfl hks) ?_
    | with_reducible refine State.sendOver_kept (cv rfl hks) ?_
    | with_reducible refine State.setFab_kept (cv rfl hks) ?_ ?_
    | dsimp only
    | with_reducible exact fun w => smWf_set _ _ _ _ w
    | with_reducible exact fun w => smWf_map _ _ _ w
    | with_reducible exact fun w => ⟨w.1, smWf_set _ _ _ _ w.2.1, w.2.2⟩
    | with_reducible exact fun w => ⟨smWf_set _ _ _ _ w.1, w.2⟩
    | with_reducible exact fun w => ⟨w.1, smWf_set _ _ _ _ w.2⟩
    | with_reducible exact fun w => ⟨smWf_map _ _ _ w.1, w.2⟩
    | with_reducible exact fun w => ⟨w.1, smWf_set _ _ _ _ w.2⟩
    | exact id
    | with_reducible refine kept_pair (by with_reducible assumption) ?_
    | dsimp only
    | with_reducible intro _
    | split

theorem execWrite_kept {ks : Nat} {s0 : State} {port : Fin 64} {f : Frame} {edges : List EdgeErr} {s : State} (hks : Nat.land ks 166444753 = 166444753) (hk : Kept ks s0 s) : ENext ks s0 (execWrite port f edges s) := by

  unfold execWrite
  repeat' first
    | with_reducible assumption
    | with_reducible refine enext_mk ?_
    | exact okept_none
    | with_reducible refine okept_some ?_
    | with_reducible refine State.onConns_kept (fun _ _ _ => ?_) ?_
    | with_reducible refine State.arrive_kept (cv rfl hks) ?_
    | with_reducible refine State.carryOver_kept (fun _ _ _ _ => ?_) (cv rfl hks) ?_
    | with_reducible refine State.memberReq_kept (cv rfl hks) ?_
    | with_reducible refine State.poolWrite_kept (cv rfl hks) ?_
    | with_reducible refine State.respond_kept (cv rfl hks) ?_
    | with_reducible refine kept_pair (by with_reducible assumption) ?_
    | with_reducible refine State.arrive_some_kept (by with_reducible assumption) (cv rfl hks) ?_
    | with_reducible refine kept_fst (by with_reducible assumption) ?_
    | dsimp only
    | with_reducible intro _
    | split

theorem execRead_kept {ks : Nat} {s0 : State} {port : Fin 64} {f : Frame} {bad : List Blemish} {edges : List EdgeErr} {s : State} (hks : Nat.land ks 166444753 = 166444753) (hk : Kept ks s0 s) : ENext ks s0 (execRead port f bad edges s) := by

  unfold execRead
  repeat' first
    | with_reducible assumption
    | with_reducible refine enext_mk ?_
    | exact okept_none
    | with_reducible refine okept_some ?_
    | with_reducible refine State.onConns_kept (fun _ _ _ => ?_) ?_
    | with_reducible refine State.arrive_kept (cv rfl hks) ?_
    | with_reducible refine State.fetchOver_kept (fun _ _ _ _ => ?_) (cv rfl hks) ?_
    | with_reducible refine State.meetPool_kept (cv rfl hks) ?_
    | with_reducible refine State.memberReq_kept (cv rfl hks) ?_
    | with_reducible refine State.poolRead_kept (cv rfl hks) ?_
    | with_reducible refine State.respond_kept (cv rfl hks) ?_
    | with_reducible refine kept_pair3 (by with_reducible assumption) ?_
    | with_reducible refine State.arrive_some_kept (by with_reducible assumption) (cv rfl hks) ?_
    | with_reducible refine kept_fst (by with_reducible assumption) ?_
    | dsimp only
    | with_reducible intro _
    | split

theorem execRowRead_kept {ks : Nat} {s0 : State} {port : Fin 64} {f : Frame} {upset : List Upset} {edges : List EdgeErr} {s : State} (hks : Nat.land ks 166444753 = 166444753) (hk : Kept ks s0 s) : ENext ks s0 (execRowRead port f upset edges s) := by

  unfold execRowRead
  repeat' first
    | with_reducible assumption
    | with_reducible refine enext_mk ?_
    | exact okept_none
    | with_reducible refine okept_some ?_
    | with_reducible refine State.onConns_kept (fun _ _ _ => ?_) ?_
    | with_reducible refine State.arrive_kept (cv rfl hks) ?_
    | with_reducible refine State.memberReq_kept (cv rfl hks) ?_
    | with_reducible refine State.poolRow_kept (cv rfl hks) ?_
    | with_reducible refine State.respond_kept (cv rfl hks) ?_
    | with_reducible refine kept_pair3 (by with_reducible assumption) ?_
    | with_reducible refine State.arrive_some_kept (by with_reducible assumption) (cv rfl hks) ?_
    | with_reducible refine kept_fst (by with_reducible assumption) ?_
    | dsimp only
    | with_reducible intro _
    | split

theorem execAtomic_kept {ks : Nat} {s0 : State} {port : Fin 64} {f : Frame} {bad : List Blemish} {edges : List EdgeErr} {s : State} (hks : Nat.land ks 166444753 = 166444753) (hk : Kept ks s0 s) : ENext ks s0 (execAtomic port f bad edges s) := by

  unfold execAtomic
  repeat' first
    | with_reducible assumption
    | with_reducible refine enext_mk ?_
    | exact okept_none
    | with_reducible refine okept_some ?_
    | with_reducible refine State.onConns_kept (fun _ _ _ => ?_) ?_
    | with_reducible refine State.arrive_kept (cv rfl hks) ?_
    | with_reducible refine State.crossEdges_kept (cv rfl hks) ?_
    | with_reducible refine State.fetchOver_kept (fun _ _ _ _ => ?_) (cv rfl hks) ?_
    | with_reducible refine State.meetPool_kept (cv rfl hks) ?_
    | with_reducible refine State.memberReq_kept (cv rfl hks) ?_
    | with_reducible refine State.poolAtomic_kept (cv rfl hks) ?_
    | with_reducible refine State.refuseFrame_kept (cv rfl hks) ?_
    | with_reducible refine State.respond_kept (cv rfl hks) ?_
    | with_reducible refine kept_pair (by with_reducible assumption) ?_
    | with_reducible refine kept_pair3 (by with_reducible assumption) ?_
    | with_reducible refine State.arrive_some_kept (by with_reducible assumption) (cv rfl hks) ?_
    | with_reducible refine kept_fst (by with_reducible assumption) ?_
    | dsimp only
    | with_reducible intro _
    | split

theorem execUpdRec_kept {ks : Nat} {s0 : State} {port : Fin 64} {f : Frame} {s : State} (hks : Nat.land ks 165943377 = 165943377) (hk : Kept ks s0 s) : ENext ks s0 (execUpdRec port f s) := by

  unfold execUpdRec
  repeat' first
    | with_reducible assumption
    | with_reducible refine enext_mk ?_
    | exact okept_none
    | with_reducible refine okept_some ?_
    | with_reducible refine State.onConns_kept (fun _ _ _ => ?_) ?_
    | with_reducible refine State.arrive_kept (cv rfl hks) ?_
    | with_reducible refine State.raise_kept (cv rfl hks) ?_
    | with_reducible refine State.setUpd_kept (cv rfl hks) ?_
    | with_reducible refine State.arrive_some_kept (by with_reducible assumption) (cv rfl hks) ?_
    | with_reducible refine kept_fst (by with_reducible assumption) ?_
    | dsimp only
    | with_reducible intro _
    | split

theorem execUpdRpt_kept {ks : Nat} {s0 : State} {port : Fin 64} {f : Frame} {s : State} (hks : Nat.land ks 165943377 = 165943377) (hk : Kept ks s0 s) : ENext ks s0 (execUpdRpt port f s) := by

  unfold execUpdRpt
  repeat' first
    | with_reducible assumption
    | with_reducible refine enext_mk ?_
    | exact okept_none
    | with_reducible refine okept_some ?_
    | with_reducible refine State.onConns_kept (fun _ _ _ => ?_) ?_
    | with_reducible refine State.arrive_kept (cv rfl hks) ?_
    | with_reducible refine State.raise_kept (cv rfl hks) ?_
    | with_reducible refine State.setUpd_kept (cv rfl hks) ?_
    | with_reducible refine State.arrive_some_kept (by with_reducible assumption) (cv rfl hks) ?_
    | with_reducible refine kept_fst (by with_reducible assumption) ?_
    | dsimp only
    | with_reducible intro _
    | split

theorem execRsp_kept {ks : Nat} {s0 : State} {port : Fin 64} {f : Frame} {edges : List EdgeErr} {s : State} (hks : Nat.land ks 166444753 = 166444753) (hk : Kept ks s0 s) : ENext ks s0 (execRsp port f edges s) := by

  unfold execRsp
  repeat' first
    | with_reducible assumption
    | with_reducible refine enext_mk ?_
    | exact okept_none
    | with_reducible refine okept_some ?_
    | with_reducible refine State.onConns_kept (fun _ _ _ => ?_) ?_
    | with_reducible refine State.receive_kept (cv rfl hks) ?_
    | with_reducible refine State.takeRsp_kept (cv rfl hks) ?_
    | with_reducible refine kept_dropped (by with_reducible assumption) ?_
    | with_reducible refine kept_taken (by with_reducible assumption) ?_
    | dsimp only
    | with_reducible intro _
    | split

theorem execFabricTick_kept {ks : Nat} {s0 : State} {s : State} (hks : Nat.land ks 166313177 = 166313177) (hk : Kept ks s0 s) : ENext ks s0 (execFabricTick s) := by

  unfold execFabricTick
  repeat' first
    | with_reducible assumption
    | with_reducible refine enext_mk ?_
    | exact okept_none
    | with_reducible refine okept_some ?_
    | with_reducible refine State.onConns_kept (fun _ _ _ => ?_) ?_
    | with_reducible refine State.dueFaults_kept (cv rfl hks) ?_
    | with_reducible refine State.postMsix_kept (cv rfl hks) ?_
    | with_reducible refine State.pumpFm_kept (cv rfl hks) ?_
    | with_reducible refine State.pumpGathers_kept (cv rfl hks) ?_
    | with_reducible refine State.tellCharges_kept (cv rfl hks) ?_
    | with_reducible refine State.tick_kept (cv rfl hks) ?_
    | with_reducible refine State.wakeArrays_kept (cv rfl hks) ?_

theorem execAck_kept {ks : Nat} {s0 : State} {port : Fin 64} {f : Frame} {s : State} (hks : Nat.land ks 153092096 = 153092096) (hk : Kept ks s0 s) : ENext ks s0 (execAck port f s) := by

  unfold execAck
  repeat' first
    | with_reducible assumption
    | with_reducible refine enext_mk ?_
    | exact okept_none
    | with_reducible refine okept_some ?_
    | with_reducible refine State.onConns_kept (fun _ _ _ => ?_) ?_
    | with_reducible refine State.pump_kept (cv rfl hks) ?_
    | with_reducible refine State.refuseFrame_kept (cv rfl hks) ?_
    | dsimp only
    | with_reducible intro _
    | split

theorem execHelloConnect_kept {ks : Nat} {s0 : State} {port : Fin 64} {f : Frame} {s : State} (hks : Nat.land ks 166444753 = 166444753) (hk : Kept ks s0 s) : ENext ks s0 (execHelloConnect port f s) := by

  unfold execHelloConnect
  repeat' first
    | with_reducible assumption
    | with_reducible refine enext_mk ?_
    | exact okept_none
    | with_reducible refine okept_some ?_
    | with_reducible refine State.onConns_kept (fun _ _ _ => ?_) ?_
    | with_reducible refine State.badGrans_kept (cv rfl hks) ?_
    | with_reducible refine State.closeConn_kept (cv rfl hks) ?_
    | with_reducible refine State.pump_kept (cv rfl hks) ?_
    | with_reducible refine State.refuseFrame_kept (cv rfl hks) ?_
    | with_reducible refine State.setConn_kept (cv rfl hks) ?_
    | with_reducible refine State.tx_kept (cv rfl hks) ?_
    | dsimp only
    | with_reducible intro _
    | split

theorem execHelloLink_kept {ks : Nat} {s0 : State} {port : Fin 64} {f : Frame} {s : State} (hks : Nat.land ks 2097152 = 2097152) (hk : Kept ks s0 s) : ENext ks s0 (execHelloLink port f s) := by

  unfold execHelloLink
  repeat' first
    | with_reducible assumption
    | with_reducible refine enext_mk ?_
    | exact okept_none
    | with_reducible refine okept_some ?_
    | with_reducible refine State.onConns_kept (fun _ _ _ => ?_) ?_
    | with_reducible refine State.setFport_kept (cv rfl hks) ?_
    | dsimp only
    | with_reducible intro _
    | split

theorem execAckTimer_kept {ks : Nat} {s0 : State} {port : Fin 64} {peer : BitVec 16} {s : State} (hks : Nat.land ks 136314880 = 136314880) (hk : Kept ks s0 s) : ENext ks s0 (execAckTimer port peer s) := by

  unfold execAckTimer
  repeat' first
    | with_reducible assumption
    | with_reducible refine enext_mk ?_
    | exact okept_none
    | with_reducible refine okept_some ?_
    | with_reducible refine State.onConns_kept (fun _ _ _ => ?_) ?_
    | with_reducible refine State.onConns_kept (cv rfl hks) ?_
    | with_reducible refine State.setConn_kept (cv rfl hks) ?_
    | with_reducible refine State.tx_kept (cv rfl hks) ?_
    | dsimp only
    | with_reducible intro _
    | split

theorem execRetransmit_kept {ks : Nat} {s0 : State} {port : Fin 64} {peer : BitVec 16} {s : State} (hks : Nat.land ks 136314880 = 136314880) (hk : Kept ks s0 s) : ENext ks s0 (execRetransmit port peer s) := by

  unfold execRetransmit
  repeat' first
    | with_reducible assumption
    | with_reducible refine enext_mk ?_
    | exact okept_none
    | with_reducible refine okept_some ?_
    | with_reducible refine State.onConns_kept (fun _ _ _ => ?_) ?_
    | with_reducible refine kept_foldl (fun _ _ _ => ?_) ?_
    | with_reducible refine State.onConns_kept (cv rfl hks) ?_
    | with_reducible refine State.setConn_kept (cv rfl hks) ?_
    | with_reducible refine State.tx_kept (cv rfl hks) ?_
    | dsimp only
    | with_reducible intro _
    | split

theorem execHelloResend_kept {ks : Nat} {s0 : State} {port : Fin 64} {peer : BitVec 16} {s : State} (hks : Nat.land ks 136314880 = 136314880) (hk : Kept ks s0 s) : ENext ks s0 (execHelloResend port peer s) := by

  unfold execHelloResend
  repeat' first
    | with_reducible assumption
    | with_reducible refine enext_mk ?_
    | exact okept_none
    | with_reducible refine okept_some ?_
    | with_reducible refine State.onConns_kept (fun _ _ _ => ?_) ?_
    | with_reducible refine State.onConns_kept (cv rfl hks) ?_
    | with_reducible refine State.setConn_kept (cv rfl hks) ?_
    | with_reducible refine State.tx_kept (cv rfl hks) ?_
    | dsimp only
    | with_reducible intro _
    | split

theorem execPeerTimeout_kept {ks : Nat} {s0 : State} {port : Fin 64} {peer : BitVec 16} {s : State} (hks : Nat.land ks 166444753 = 166444753) (hk : Kept ks s0 s) : ENext ks s0 (execPeerTimeout port peer s) := by

  unfold execPeerTimeout
  repeat' first
    | with_reducible assumption
    | with_reducible refine enext_mk ?_
    | exact okept_none
    | with_reducible refine okept_some ?_
    | with_reducible refine State.onConns_kept (fun _ _ _ => ?_) ?_
    | with_reducible refine State.closeConn_kept (cv rfl hks) ?_
    | with_reducible refine State.onConns_kept (cv rfl hks) ?_
    | with_reducible refine State.sendFmAbout_kept (cv rfl hks) ?_
    | with_reducible refine State.setBit_kept (cv rfl hks) ?_
    | dsimp only
    | with_reducible intro _
    | split

theorem execConnectionIdle_kept {ks : Nat} {s0 : State} {port : Fin 64} {peer : BitVec 16} {s : State} (hks : Nat.land ks 166444753 = 166444753) (hk : Kept ks s0 s) : ENext ks s0 (execConnectionIdle port peer s) := by

  unfold execConnectionIdle
  repeat' first
    | with_reducible assumption
    | with_reducible refine enext_mk ?_
    | exact okept_none
    | with_reducible refine okept_some ?_
    | with_reducible refine State.onConns_kept (fun _ _ _ => ?_) ?_
    | with_reducible refine State.closeConn_kept (cv rfl hks) ?_
    | with_reducible refine State.onConns_kept (cv rfl hks) ?_
    | dsimp only
    | with_reducible intro _
    | split

theorem execFrameDropped_kept {ks : Nat} {s0 : State} {port : Fin 64} {_cause : DropCause} {s : State} (hks : Nat.land ks 16777216 = 16777216) (hk : Kept ks s0 s) : ENext ks s0 (execFrameDropped port _cause s) := by

  unfold execFrameDropped
  repeat' first
    | with_reducible assumption
    | with_reducible refine enext_mk ?_
    | exact okept_none
    | with_reducible refine okept_some ?_
    | with_reducible refine State.onConns_kept (fun _ _ _ => ?_) ?_
    | with_reducible refine State.refuseFrame_kept (cv rfl hks) ?_

theorem execPeerDown_kept {ks : Nat} {s0 : State} {port : Fin 64} {f : Frame} {s : State} (hks : Nat.land ks 166444753 = 166444753) (hk : Kept ks s0 s) : ENext ks s0 (execPeerDown port f s) := by

  unfold execPeerDown
  repeat' first
    | with_reducible assumption
    | with_reducible refine enext_mk ?_
    | exact okept_none
    | with_reducible refine okept_some ?_
    | with_reducible refine State.onConns_kept (fun _ _ _ => ?_) ?_
    | with_reducible refine State.fmFrame_kept (cv rfl hks) ?_
    | dsimp only
    | with_reducible intro _
    | split

theorem execPeerUp_kept {ks : Nat} {s0 : State} {port : Fin 64} {f : Frame} {s : State} (hks : Nat.land ks 166444753 = 166444753) (hk : Kept ks s0 s) : ENext ks s0 (execPeerUp port f s) := by

  unfold execPeerUp
  repeat' first
    | with_reducible assumption
    | with_reducible refine enext_mk ?_
    | exact okept_none
    | with_reducible refine okept_some ?_
    | with_reducible refine State.onConns_kept (fun _ _ _ => ?_) ?_
    | with_reducible refine State.fmFrame_kept (cv rfl hks) ?_
    | dsimp only
    | with_reducible intro _
    | split

theorem execPeerTime_kept {ks : Nat} {s0 : State} {port : Fin 64} {f : Frame} {s : State} (hks : Nat.land ks 166444753 = 166444753) (hk : Kept ks s0 s) : ENext ks s0 (execPeerTime port f s) := by

  unfold execPeerTime
  repeat' first
    | with_reducible assumption
    | with_reducible refine enext_mk ?_
    | exact okept_none
    | with_reducible refine okept_some ?_
    | with_reducible refine State.onConns_kept (fun _ _ _ => ?_) ?_
    | with_reducible refine State.fmFrame_kept (cv rfl hks) ?_
    | dsimp only
    | with_reducible intro _
    | split

theorem execFmFrameRefused_kept {ks : Nat} {s0 : State} {port : Fin 64} {f : Frame} {s : State} (hks : Nat.land ks 166444753 = 166444753) (hk : Kept ks s0 s) : ENext ks s0 (execFmFrameRefused port f s) := by

  unfold execFmFrameRefused
  repeat' first
    | with_reducible assumption
    | with_reducible refine enext_mk ?_
    | exact okept_none
    | with_reducible refine okept_some ?_
    | with_reducible refine State.onConns_kept (fun _ _ _ => ?_) ?_
    | with_reducible refine State.fmFrame_kept (cv rfl hks) ?_
    | dsimp only
    | with_reducible intro _
    | split

theorem execPortDown_kept {ks : Nat} {s0 : State} {port : Fin 64} {s : State} (hks : Nat.land ks 166444753 = 166444753) (hk : Kept ks s0 s) : ENext ks s0 (execPortDown port s) := by

  unfold execPortDown
  repeat' first
    | with_reducible assumption
    | with_reducible refine enext_mk ?_
    | exact okept_none
    | with_reducible refine okept_some ?_
    | with_reducible refine State.onConns_kept (fun _ _ _ => ?_) ?_
    | with_reducible refine State.losePort_kept (cv rfl hks) ?_
    | dsimp only
    | with_reducible intro _
    | split

theorem execPortUp_kept {ks : Nat} {s0 : State} {port : Fin 64} {s : State} (hks : Nat.land ks 153092096 = 153092096) (hk : Kept ks s0 s) : ENext ks s0 (execPortUp port s) := by

  unfold execPortUp
  repeat' first
    | with_reducible assumption
    | with_reducible refine enext_mk ?_
    | exact okept_none
    | with_reducible refine okept_some ?_
    | with_reducible refine State.onConns_kept (fun _ _ _ => ?_) ?_
    | with_reducible refine State.sendFm_kept (cv rfl hks) ?_
    | with_reducible refine State.tx_kept (cv rfl hks) ?_
    | with_reducible refine State.setFport_kept (cv rfl hks) ?_
    | dsimp only
    | with_reducible intro _
    | split

theorem execLaneRepair_kept {ks : Nat} {s0 : State} {port : Fin 64} {upper : Bool} {s : State} (hks : Nat.land ks 165681233 = 165681233) (hk : Kept ks s0 s) : ENext ks s0 (execLaneRepair port upper s) := by

  unfold execLaneRepair
  repeat' first
    | with_reducible assumption
    | with_reducible refine enext_mk ?_
    | exact okept_none
    | with_reducible refine okept_some ?_
    | with_reducible refine State.onConns_kept (fun _ _ _ => ?_) ?_
    | with_reducible refine State.raise_kept (cv rfl hks) ?_
    | with_reducible refine State.sendFm_kept (cv rfl hks) ?_
    | with_reducible refine State.setBit_kept (cv rfl hks) ?_
    | with_reducible refine State.setFport_kept (cv rfl hks) ?_
    | dsimp only
    | with_reducible intro _
    | split

theorem execVstIdWrite_kept {ks : Nat} {s0 : State} {port : Fin 4} {w : Word} {s : State} (hks : Nat.land ks 5 = 5) (hk : Kept ks s0 s) : ENext ks s0 (execVstIdWrite port w s) := by

  unfold execVstIdWrite
  repeat' first
    | with_reducible assumption
    | with_reducible refine enext_mk ?_
    | exact okept_none
    | with_reducible refine okept_some ?_
    | with_reducible refine State.onConns_kept (fun _ _ _ => ?_) ?_
    | with_reducible refine State.writeVstId_kept (cv rfl hks) ?_
    | dsimp only
    | with_reducible intro _
    | split

theorem execVstMacWrite_kept {ks : Nat} {s0 : State} {port : Fin 4} {w : Word} {s : State} (hks : Nat.land ks 1 = 1) (hk : Kept ks s0 s) : ENext ks s0 (execVstMacWrite port w s) := by

  unfold execVstMacWrite
  repeat' first
    | with_reducible assumption
    | with_reducible refine enext_mk ?_
    | exact okept_none
    | with_reducible refine okept_some ?_
    | with_reducible refine State.onConns_kept (fun _ _ _ => ?_) ?_
    | with_reducible refine State.writeVstMac_kept (cv rfl hks) ?_
    | dsimp only
    | with_reducible intro _
    | split

theorem execCxlMemberEnable_kept {ks : Nat} {s0 : State} {port : Fin 4} {n : Fin 4} {w : Word} {s : State} (hks : Nat.land ks 1 = 1) (hk : Kept ks s0 s) : ENext ks s0 (execCxlMemberEnable port n w s) := by

  unfold execCxlMemberEnable
  repeat' first
    | with_reducible assumption
    | with_reducible refine enext_mk ?_
    | exact okept_none
    | with_reducible refine okept_some ?_
    | with_reducible refine State.onConns_kept (fun _ _ _ => ?_) ?_
    | with_reducible refine State.writeVstCxl_kept (cv rfl hks) ?_
    | dsimp only
    | with_reducible intro _
    | split

theorem execServeBudgetWrite_kept {ks : Nat} {s0 : State} {port : Fin 4} {gdie : Bool} {n : Fin 16} {w : Word} {s : State} (hks : Nat.land ks 1 = 1) (hk : Kept ks s0 s) : ENext ks s0 (execServeBudgetWrite port gdie n w s) := by

  unfold execServeBudgetWrite
  repeat' first
    | with_reducible assumption
    | with_reducible refine enext_mk ?_
    | exact okept_none
    | with_reducible refine okept_some ?_
    | with_reducible refine State.onConns_kept (fun _ _ _ => ?_) ?_
    | with_reducible refine State.writeServe_kept (cv rfl hks) ?_
    | dsimp only
    | with_reducible intro _
    | split

end Sys2Proof.Machine
end

