-- ==== Sys2Proof/Laws/ExecGather.lean ====
section
/-! SUPPORT. Each command of Machine/Gather, Machine/Transfers, Machine/Update answers a next state, and what it keeps. -/

namespace Sys2Proof.Machine

open Sys2Proof Host

theorem execGatherStepStart_kept {ks : Nat} {s0 : State} {r : StepRef} {s : State} (hks : Nat.land ks 165789393 = 165789393) (hk : Kept ks s0 s) : ENext ks s0 (execGatherStepStart r s) := by

  unfold execGatherStepStart
  repeat' first
    | with_reducible assumption
    | with_reducible refine enext_mk ?_
    | exact okept_none
    | with_reducible refine okept_some ?_
    | with_reducible refine State.onConns_kept (fun _ _ _ => ?_) ?_
    | with_reducible refine State.hostRead_kept (cv rfl hks) ?_
    | with_reducible refine State.setGsteps_kept (cv rfl hks) ?_
    | with_reducible refine kept_pair (by with_reducible assumption) ?_
    | dsimp only
    | with_reducible intro _
    | split

theorem execGatherListArrived_kept {ks : Nat} {s0 : State} {r : StepRef} {bad : List Blemish} {edges : List EdgeErr} {s : State} (hks : Nat.land ks 166312145 = 166312145) (hk : Kept ks s0 s) : ENext ks s0 (execGatherListArrived r bad edges s) := by

  unfold execGatherListArrived
  repeat' first
    | with_reducible assumption
    | with_reducible refine enext_mk ?_
    | exact okept_none
    | with_reducible refine okept_some ?_
    | with_reducible refine State.onConns_kept (fun _ _ _ => ?_) ?_
    | with_reducible refine kept_getD ?_ ?_
    | with_reducible refine State.charge_kept (cv rfl hks) ?_
    | with_reducible refine State.dropGstep_kept (cv rfl hks) ?_
    | with_reducible refine State.setGstep_kept (cv rfl hks) ?_
    | with_reducible refine State.slotGrans_kept (cv rfl hks) ?_
    | with_reducible refine kept_pair3 (by with_reducible assumption) ?_
    | dsimp only
    | with_reducible intro _
    | split

theorem execSortEnd_kept {ks : Nat} {s0 : State} {r : StepRef} {cache : List (Nat × Nat × Upset)} {s : State} (hks : Nat.land ks 165787857 = 165787857) (hk : Kept ks s0 s) : ENext ks s0 (execSortEnd r cache s) := by

  unfold execSortEnd
  repeat' first
    | with_reducible assumption
    | with_reducible refine enext_mk ?_
    | exact okept_none
    | with_reducible refine okept_some ?_
    | with_reducible refine State.onConns_kept (fun _ _ _ => ?_) ?_
    | with_reducible refine State.setGstep_kept (cv rfl hks) ?_
    | with_reducible refine State.shutWindow_kept (cv rfl hks) ?_
    | dsimp only
    | with_reducible intro _
    | split

theorem execRowFetchReply_kept {ks : Nat} {s0 : State} {r : StepRef} {key : Nat} {upset : List Upset} {edges : List EdgeErr} {s : State} (hks : Nat.land ks 166271057 = 166271057) (hk : Kept ks s0 s) : ENext ks s0 (execRowFetchReply r key upset edges s) := by

  unfold execRowFetchReply
  repeat' first
    | with_reducible assumption
    | with_reducible refine enext_mk ?_
    | exact okept_none
    | with_reducible refine okept_some ?_
    | with_reducible refine State.onConns_kept (fun _ _ _ => ?_) ?_
    | with_reducible refine State.countHeaders_kept (cv rfl hks) ?_
    | with_reducible refine State.raise_kept (cv rfl hks) ?_
    | with_reducible refine State.readRow_kept (cv rfl hks) ?_
    | with_reducible refine State.setGstep_kept (cv rfl hks) ?_
    | with_reducible refine State.sweepGstep_kept (cv rfl hks) ?_
    | with_reducible refine kept_pair (by with_reducible assumption) ?_
    | with_reducible refine State.arrive_some_kept (by with_reducible assumption) (cv rfl hks) ?_
    | dsimp only
    | with_reducible intro _
    | split

theorem execRemoteWindowClose_kept {ks : Nat} {s0 : State} {r : StepRef} {s : State} (hks : Nat.land ks 165787857 = 165787857) (hk : Kept ks s0 s) : ENext ks s0 (execRemoteWindowClose r s) := by

  unfold execRemoteWindowClose
  repeat' first
    | with_reducible assumption
    | with_reducible refine enext_mk ?_
    | exact okept_none
    | with_reducible refine okept_some ?_
    | with_reducible refine State.onConns_kept (fun _ _ _ => ?_) ?_
    | with_reducible refine State.shutWindow_kept (cv rfl hks) ?_
    | dsimp only
    | with_reducible intro _
    | split

theorem execGatherOutputsWritten_kept {ks : Nat} {s0 : State} {r : StepRef} {bad : List Blemish} {edges : List EdgeErr} {s : State} (hks : Nat.land ks 166313681 = 166313681) (hk : Kept ks s0 s) : ENext ks s0 (execGatherOutputsWritten r bad edges s) := by

  unfold execGatherOutputsWritten
  repeat' first
    | with_reducible assumption
    | with_reducible refine enext_mk ?_
    | exact okept_none
    | with_reducible refine okept_some ?_
    | with_reducible refine State.onConns_kept (fun _ _ _ => ?_) ?_
    | with_reducible refine State.cutRemote_kept (cv rfl hks) ?_
    | with_reducible refine State.expireRows_kept (cv rfl hks) ?_
    | with_reducible refine State.gatherDone_kept (cv rfl hks) ?_
    | with_reducible refine State.writeReady_kept (cv rfl hks) ?_
    | dsimp only
    | with_reducible intro _
    | split

theorem execRemoteCutoff_kept {ks : Nat} {s0 : State} {r : StepRef} {bad : List Blemish} {edges : List EdgeErr} {s : State} (hks : Nat.land ks 166313681 = 166313681) (hk : Kept ks s0 s) : ENext ks s0 (execRemoteCutoff r bad edges s) := by

  unfold execRemoteCutoff
  repeat' first
    | with_reducible assumption
    | with_reducible refine enext_mk ?_
    | exact okept_none
    | with_reducible refine okept_some ?_
    | with_reducible refine State.onConns_kept (fun _ _ _ => ?_) ?_
    | with_reducible refine State.cutRemote_kept (cv rfl hks) ?_
    | with_reducible refine State.gatherDone_kept (cv rfl hks) ?_
    | dsimp only
    | with_reducible intro _
    | split

theorem execGstepTimeout_kept {ks : Nat} {s0 : State} {r : StepRef} {bad : List Blemish} {edges : List EdgeErr} {s : State} (hks : Nat.land ks 166313681 = 166313681) (hk : Kept ks s0 s) : ENext ks s0 (execGstepTimeout r bad edges s) := by

  unfold execGstepTimeout
  split
  · exact enext_mk hk
  · split
    · exact enext_mk hk
    · have h : Kept ks s0 ((s.cutRemote r edges).gatherDone r bad edges) := State.gatherDone_kept (cv rfl hks) (State.cutRemote_kept (cv rfl hks) hk)
      dsimp only
      split
      · exact enext_mk h
      · split
        · exact enext_mk h
        · refine enext_mk (State.charge_kept (cv rfl hks) (State.endStep_kept (cv rfl hks) ?_))
          have he := State.endGather_kept (g := ‹_›) (d := ‹_›) (tabs := ‹Image›.gtables ‹ImgStep›) (edges := edges) (cv rfl hks) h
          cases State.gstep? _ r with
          | none => exact he
          | some g => exact State.sweepGstep_kept (cv rfl hks) he

theorem execUpdateBatchReadDone_kept {ks : Nat} {s0 : State} {ring : Fin 4096} {seq : Word} {data : List Gran} {bad : List Blemish} {edges : List EdgeErr} {s : State} (hks : Nat.land ks 166510289 = 166510289) (hk : Kept ks s0 s) : ENext ks s0 (execUpdateBatchReadDone ring seq data bad edges s) := by

  unfold execUpdateBatchReadDone
  repeat' first
    | with_reducible assumption
    | with_reducible refine enext_mk ?_
    | exact okept_none
    | with_reducible refine okept_some ?_
    | with_reducible refine State.onConns_kept (fun _ _ _ => ?_) ?_
    | with_reducible refine State.batchDone_kept (cv rfl hks) ?_
    | with_reducible refine State.fencedAccess_kept (cv rfl hks) ?_
    | with_reducible refine State.hostPoison_kept (cv rfl hks) ?_
    | with_reducible refine State.raise_kept (cv rfl hks) ?_
    | with_reducible refine State.readOver_kept (cv rfl hks) ?_
    | with_reducible refine State.setSub_kept (cv rfl hks) ?_
    | with_reducible refine State.setReads_kept (cv rfl hks) ?_
    | with_reducible refine kept_pair3 (by with_reducible assumption) ?_
    | dsimp only
    | with_reducible intro _
    | split

theorem execUpdateRecordArrival_kept {ks : Nat} {s0 : State} {gdie : Fin 16} {u : UpdRec} {edges : List EdgeErr} {s : State} (hks : Nat.land ks 165943377 = 165943377) (hk : Kept ks s0 s) : ENext ks s0 (execUpdateRecordArrival gdie u edges s) := by

  unfold execUpdateRecordArrival
  repeat' first
    | with_reducible assumption
    | with_reducible refine enext_mk ?_
    | exact okept_none
    | with_reducible refine okept_some ?_
    | with_reducible refine State.onConns_kept (fun _ _ _ => ?_) ?_
    | with_reducible refine State.sendOver_kept (cv rfl hks) ?_
    | with_reducible refine State.takeRecord_kept (cv rfl hks) ?_
    | with_reducible refine State.setUpd_kept (cv rfl hks) ?_
    | with_reducible refine kept_pair (by with_reducible assumption) ?_
    | dsimp only
    | with_reducible intro _
    | split

theorem execUpdateClose_kept {ks : Nat} {s0 : State} {gdie : Fin 16} {s : State} (hks : Nat.land ks 262144 = 262144) (hk : Kept ks s0 s) : ENext ks s0 (execUpdateClose gdie s) := by

  unfold execUpdateClose
  repeat' first
    | with_reducible assumption
    | with_reducible refine enext_mk ?_
    | exact okept_none
    | with_reducible refine okept_some ?_
    | with_reducible refine State.onConns_kept (fun _ _ _ => ?_) ?_
    | with_reducible refine State.setUpd_kept (cv rfl hks) ?_

theorem execRowCommit_kept {ks : Nat} {s0 : State} {gdie : Fin 16} {upset : List Upset} {staged : List (Nat × Upset)} {edges back : List EdgeErr} {s : State} (hks : Nat.land ks 434904145 = 434904145) (hk : Kept ks s0 s) : ENext ks s0 (execRowCommit gdie upset staged edges back s) := by

  unfold execRowCommit
  repeat' first
    | with_reducible assumption
    | with_reducible refine enext_mk ?_
    | exact okept_none
    | with_reducible refine okept_some ?_
    | with_reducible refine State.onConns_kept (fun _ _ _ => ?_) ?_
    | with_reducible refine State.applyRow_kept (cv rfl hks) ?_
    | with_reducible refine State.paceRow_kept (cv rfl hks) ?_
    | with_reducible refine State.rowFails_kept (cv rfl hks) ?_
    | with_reducible refine kept_opt1 (by with_reducible assumption) ?_
    | dsimp only
    | with_reducible intro _
    | split

theorem execUpdateReportSend_kept {ks : Nat} {s0 : State} {gdie : Fin 16} {src : BitVec 16} {serial : Word} {s : State} (hks : Nat.land ks 165943377 = 165943377) (hk : Kept ks s0 s) : ENext ks s0 (execUpdateReportSend gdie src serial s) := by

  unfold execUpdateReportSend
  repeat' first
    | with_reducible assumption
    | with_reducible refine enext_mk ?_
    | exact okept_none
    | with_reducible refine okept_some ?_
    | with_reducible refine State.onConns_kept (fun _ _ _ => ?_) ?_
    | with_reducible refine State.sendOutcome_kept (cv rfl hks) ?_
    | with_reducible refine State.sendReport_kept (cv rfl hks) ?_
    | with_reducible refine State.setUpd_kept (cv rfl hks) ?_
    | dsimp only
    | with_reducible intro _
    | split

theorem execUpdateReportArrival_kept {ks : Nat} {s0 : State} {serial : Word} {dev : BitVec 16} {gdie : Fin 16} {edges : List EdgeErr} {s : State} (hks : Nat.land ks 166510289 = 166510289) (hk : Kept ks s0 s) : ENext ks s0 (execUpdateReportArrival serial dev gdie edges s) := by

  unfold execUpdateReportArrival
  repeat' first
    | with_reducible assumption
    | with_reducible refine enext_mk ?_
    | exact okept_none
    | with_reducible refine okept_some ?_
    | with_reducible refine State.onConns_kept (fun _ _ _ => ?_) ?_
    | with_reducible refine State.putIngest_kept (cv rfl hks) ?_
    | with_reducible refine State.reply_kept (fun _ _ => ?_) (cv rfl hks) ?_
    | with_reducible refine State.sendOver_kept (cv rfl hks) ?_
    | with_reducible refine State.setUpd_kept (cv rfl hks) ?_
    | with_reducible refine kept_pair (by with_reducible assumption) ?_
    | dsimp only
    | with_reducible intro _
    | split

theorem execUpdateReportTimeout_kept {ks : Nat} {s0 : State} {serial : Word} {dev : BitVec 16} {gdie : Fin 16} {records : Word} {edges : List EdgeErr} {s : State} (hks : Nat.land ks 166510289 = 166510289) (hk : Kept ks s0 s) : ENext ks s0 (execUpdateReportTimeout serial dev gdie records edges s) := by

  unfold execUpdateReportTimeout
  repeat' first
    | with_reducible assumption
    | with_reducible refine enext_mk ?_
    | exact okept_none
    | with_reducible refine okept_some ?_
    | with_reducible refine State.onConns_kept (fun _ _ _ => ?_) ?_
    | with_reducible refine State.putIngest_kept (cv rfl hks) ?_
    | dsimp only
    | with_reducible intro _
    | split

theorem execGthUpdCtrlWrite_kept {ks : Nat} {s0 : State} {port : Fin 4} {part : Fin 64} {w : Word} {s : State} (hks : Nat.land ks 1 = 1) (hk : Kept ks s0 s) : ENext ks s0 (execGthUpdCtrlWrite port part w s) := by

  unfold execGthUpdCtrlWrite
  repeat' first
    | with_reducible assumption
    | with_reducible refine enext_mk ?_
    | exact okept_none
    | with_reducible refine okept_some ?_
    | with_reducible refine State.onConns_kept (fun _ _ _ => ?_) ?_
    | with_reducible refine State.writeUpdCtrl_kept (cv rfl hks) ?_
    | dsimp only
    | with_reducible intro _
    | split

theorem execGthUpdQuotaWrite_kept {ks : Nat} {s0 : State} {port : Fin 4} {part : Fin 64} {w : Word} {s : State} (hks : Nat.land ks 1 = 1) (hk : Kept ks s0 s) : ENext ks s0 (execGthUpdQuotaWrite port part w s) := by

  unfold execGthUpdQuotaWrite
  repeat' first
    | with_reducible assumption
    | with_reducible refine enext_mk ?_
    | exact okept_none
    | with_reducible refine okept_some ?_
    | with_reducible refine State.onConns_kept (fun _ _ _ => ?_) ?_
    | with_reducible refine State.writeUpdQuota_kept (cv rfl hks) ?_
    | dsimp only
    | with_reducible intro _
    | split

theorem execGthUpdCapWrite_kept {ks : Nat} {s0 : State} {port : Fin 4} {gdie : Fin 16} {entry : Fin 256} {w : Word} {s : State} (hks : Nat.land ks 1 = 1) (hk : Kept ks s0 s) : ENext ks s0 (execGthUpdCapWrite port gdie entry w s) := by

  unfold execGthUpdCapWrite
  repeat' first
    | with_reducible assumption
    | with_reducible refine enext_mk ?_
    | exact okept_none
    | with_reducible refine okept_some ?_
    | with_reducible refine State.onConns_kept (fun _ _ _ => ?_) ?_
    | with_reducible refine State.writeUpdCap_kept (cv rfl hks) ?_
    | dsimp only
    | with_reducible intro _
    | split

theorem execHostTransferStep_kept {ks : Nat} {s0 : State} {r : StepRef} {bad : List Blemish} {edges : List EdgeErr} {s : State} (hks : Nat.land ks 166379217 = 166379217) (hk : Kept ks s0 s) : ENext ks s0 (execHostTransferStep r bad edges s) := by

  unfold execHostTransferStep
  repeat' first
    | with_reducible assumption
    | with_reducible refine enext_mk ?_
    | exact okept_none
    | with_reducible refine okept_some ?_
    | with_reducible refine State.onConns_kept (fun _ _ _ => ?_) ?_
    | with_reducible refine State.lookUp_kept (cv rfl hks) ?_
    | with_reducible refine State.transferIn_kept (cv rfl hks) ?_
    | with_reducible refine State.transferOut_kept (cv rfl hks) ?_
    | with_reducible refine State.unitStepEnd_kept (cv rfl hks) ?_
    | dsimp only
    | with_reducible intro _
    | split

theorem execFabricSendStep_kept {ks : Nat} {s0 : State} {r : StepRef} {bad : List Blemish} {edges : List EdgeErr} {s : State} (hks : Nat.land ks 166379217 = 166379217) (hk : Kept ks s0 s) : ENext ks s0 (execFabricSendStep r bad edges s) := by

  unfold execFabricSendStep
  repeat' first
    | with_reducible assumption
    | with_reducible refine enext_mk ?_
    | exact okept_none
    | with_reducible refine okept_some ?_
    | with_reducible refine State.onConns_kept (fun _ _ _ => ?_) ?_
    | with_reducible refine State.chargeStep_kept (cv rfl hks) ?_
    | with_reducible refine State.endSend_kept (cv rfl hks) ?_
    | with_reducible refine State.locRead_kept (cv rfl hks) ?_
    | with_reducible refine State.lookUp_kept (cv rfl hks) ?_
    | with_reducible refine State.sendRequest_kept (cv rfl hks) ?_
    | with_reducible refine State.strand_kept (cv rfl hks) ?_
    | with_reducible refine State.unitStepEnd_kept (cv rfl hks) ?_
    | with_reducible refine kept_pair (by with_reducible assumption) ?_
    | with_reducible refine kept_pair3 (by with_reducible assumption) ?_
    | dsimp only
    | with_reducible intro _
    | split

end Sys2Proof.Machine
end

