-- ==== Sys2Proof/Laws/ExecHealth.lean ====
section
/-! SUPPORT. Each command of Machine/Health, Machine/Recovery, Machine/RegRead, Machine/RegWrite answers a next state, and what it keeps. -/

namespace Sys2Proof.Machine

open Sys2Proof Host

theorem execSuspectReplayStart_kept {ks : Nat} {s0 : State} {part : Fin 64} {s : State} (hks : Nat.land ks 165681617 = 165681617) (hk : Kept ks s0 s) : ENext ks s0 (execSuspectReplayStart part s) := by

  unfold execSuspectReplayStart
  repeat' first
    | with_reducible assumption
    | with_reducible refine enext_mk ?_
    | exact okept_none
    | with_reducible refine okept_some ?_
    | with_reducible refine State.onConns_kept (fun _ _ _ => ?_) ?_
    | with_reducible refine State.markSuspect_kept (cv rfl hks) ?_
    | with_reducible refine State.setPart_kept (cv rfl hks) ?_
    | with_reducible refine State.setSlots_kept (cv rfl hks) ?_
    | with_reducible refine State.setSubs_kept (cv rfl hks) ?_
    | dsimp only
    | with_reducible intro _
    | split

theorem execSuspectReplayEnd_kept {ks : Nat} {s0 : State} {part : Fin 64} {e : ReplayEnd} {s : State} (hks : Nat.land ks 166574289 = 166574289) (hk : Kept ks s0 s) : ENext ks s0 (execSuspectReplayEnd part e s) := by

  unfold execSuspectReplayEnd
  repeat' first
    | with_reducible assumption
    | with_reducible refine enext_mk ?_
    | exact okept_none
    | with_reducible refine okept_some ?_
    | with_reducible refine State.onConns_kept (fun _ _ _ => ?_) ?_
    | with_reducible refine State.charge_kept (cv rfl hks) ?_
    | with_reducible refine State.closeSet_kept (cv rfl hks) ?_
    | with_reducible refine State.endReplay_kept (cv rfl hks) ?_
    | with_reducible refine State.markSuspect_kept (cv rfl hks) ?_
    | with_reducible refine State.raise_kept (cv rfl hks) ?_
    | with_reducible refine State.sameReset_kept (cv rfl hks) ?_
    | dsimp only
    | with_reducible intro _
    | split

theorem execSuspectReplayGiveup_kept {ks : Nat} {s0 : State} {part : Fin 64} {s : State} (hks : Nat.land ks 165681233 = 165681233) (hk : Kept ks s0 s) : ENext ks s0 (execSuspectReplayGiveup part s) := by

  unfold execSuspectReplayGiveup
  repeat' first
    | with_reducible assumption
    | with_reducible refine enext_mk ?_
    | exact okept_none
    | with_reducible refine okept_some ?_
    | with_reducible refine State.onConns_kept (fun _ _ _ => ?_) ?_
    | with_reducible refine State.markSuspect_kept (cv rfl hks) ?_
    | dsimp only
    | with_reducible intro _
    | split

theorem execCrossingTimeout_kept {ks : Nat} {s0 : State} {place : Crossing} {s : State} (hks : Nat.land ks 166706929 = 166706929) (hk : Kept ks s0 s) : ENext ks s0 (execCrossingTimeout place s) := by

  unfold execCrossingTimeout
  repeat' first
    | with_reducible assumption
    | with_reducible refine enext_mk ?_
    | exact okept_none
    | with_reducible refine okept_some ?_
    | with_reducible refine State.onConns_kept (fun _ _ _ => ?_) ?_
    | with_reducible exact fun c => MemS.Canonical.same c rfl
    | with_reducible refine State.channelGone_kept (cv rfl hks) ?_
    | with_reducible refine State.crossingRecord_kept (cv rfl hks) ?_
    | with_reducible refine State.hitCdie_kept (cv rfl hks) ?_
    | with_reducible refine State.hitDevice_kept (cv rfl hks) ?_
    | with_reducible refine State.loseLink_kept (cv rfl hks) ?_
    | with_reducible refine State.losePort_kept (cv rfl hks) ?_
    | with_reducible refine State.setErr_kept (cv rfl hks) ?_ ?_
    | with_reducible refine State.setMem_kept (cv rfl hks) ?_ ?_
    | dsimp only
    | with_reducible exact fun w => smWf_set _ _ _ _ w
    | with_reducible exact fun w => smWf_map _ _ _ w
    | with_reducible exact fun w => ⟨w.1, smWf_set _ _ _ _ w.2.1, w.2.2⟩
    | with_reducible exact fun w => ⟨smWf_set _ _ _ _ w.1, w.2⟩
    | with_reducible exact fun w => ⟨w.1, smWf_set _ _ _ _ w.2⟩
    | with_reducible exact fun w => ⟨smWf_map _ _ _ w.1, w.2⟩
    | with_reducible exact fun w => ⟨Nat.mod_lt _ (by decide), w.2⟩
    | with_reducible exact fun w => ⟨w.1, smWf_set _ _ _ _ w.2⟩
    | exact id
    | dsimp only
    | with_reducible intro _
    | split

theorem execUnitStateError_kept {ks : Nat} {s0 : State} {die : Fin 48} {unit : BitVec 8} {ctx : Option (Fin 4096)} {s : State} (hks : Nat.land ks 166574289 = 166574289) (hk : Kept ks s0 s) : ENext ks s0 (execUnitStateError die unit ctx s) := by

  unfold execUnitStateError
  repeat' first
    | with_reducible assumption
    | with_reducible refine enext_mk ?_
    | exact okept_none
    | with_reducible refine okept_some ?_
    | with_reducible refine State.onConns_kept (fun _ _ _ => ?_) ?_
    | with_reducible refine State.hitCdie_kept (cv rfl hks) ?_
    | with_reducible refine State.hitDevice_kept (cv rfl hks) ?_
    | with_reducible refine State.raise_kept (cv rfl hks) ?_
    | dsimp only
    | with_reducible intro _
    | split

theorem execHoldPointTimeout_kept {ks : Nat} {s0 : State} {part : Fin 64} {core : Fin 256} {s : State} (hks : Nat.land ks 166246609 = 166246609) (hk : Kept ks s0 s) : ENext ks s0 (execHoldPointTimeout part core s) := by

  unfold execHoldPointTimeout
  repeat' first
    | with_reducible assumption
    | with_reducible refine enext_mk ?_
    | exact okept_none
    | with_reducible refine okept_some ?_
    | with_reducible refine State.onConns_kept (fun _ _ _ => ?_) ?_
    | with_reducible refine State.hitCdie_kept (cv rfl hks) ?_
    | dsimp only
    | with_reducible intro _
    | split

theorem execDrainEnd_kept {ks : Nat} {s0 : State} {scope : Scope} {s : State} (hks : Nat.land ks 166205521 = 166205521) (hk : Kept ks s0 s) : ENext ks s0 (execDrainEnd scope s) := by

  unfold execDrainEnd
  repeat' first
    | with_reducible assumption
    | with_reducible refine enext_mk ?_
    | exact okept_none
    | with_reducible refine okept_some ?_
    | with_reducible refine State.onConns_kept (fun _ _ _ => ?_) ?_
    | with_reducible refine State.tryDrain_kept (cv rfl hks) ?_

theorem execDrainHostReadTimeout_kept {ks : Nat} {s0 : State} {scope : Scope} {s : State} (hks : Nat.land ks 166435409 = 166435409) (hk : Kept ks s0 s) : ENext ks s0 (execDrainHostReadTimeout scope s) := by

  unfold execDrainHostReadTimeout
  repeat' first
    | with_reducible assumption
    | with_reducible refine enext_mk ?_
    | exact okept_none
    | with_reducible refine okept_some ?_
    | with_reducible refine State.onConns_kept (fun _ _ _ => ?_) ?_
    | with_reducible refine kept_foldl (fun _ _ _ => ?_) ?_
    | with_reducible refine State.giveUp_kept (cv rfl hks) ?_
    | with_reducible refine State.tryDrain_kept (cv rfl hks) ?_
    | dsimp only
    | with_reducible intro _
    | split

theorem execDrainOverrun_kept {ks : Nat} {s0 : State} {scope : Scope} {s : State} (hks : Nat.land ks 166574289 = 166574289) (hk : Kept ks s0 s) : ENext ks s0 (execDrainOverrun scope s) := by

  unfold execDrainOverrun
  repeat' first
    | with_reducible assumption
    | with_reducible refine enext_mk ?_
    | exact okept_none
    | with_reducible refine okept_some ?_
    | with_reducible refine State.onConns_kept (fun _ _ _ => ?_) ?_
    | with_reducible refine State.endDrain_kept (cv rfl hks) ?_
    | with_reducible refine State.hitDevice_kept (cv rfl hks) ?_
    | with_reducible refine State.overrunPart_kept (cv rfl hks) ?_
    | with_reducible refine State.raise_kept (cv rfl hks) ?_
    | dsimp only
    | with_reducible intro _
    | split

theorem execCdieClearEnd_kept {ks : Nat} {s0 : State} {cdie : Fin 32} {s : State} (hks : Nat.land ks 157841489 = 157841489) (hk : Kept ks s0 s) : ENext ks s0 (execCdieClearEnd cdie s) := by

  unfold execCdieClearEnd
  repeat' first
    | with_reducible assumption
    | with_reducible refine enext_mk ?_
    | exact okept_none
    | with_reducible refine okept_some ?_
    | with_reducible refine State.onConns_kept (fun _ _ _ => ?_) ?_
    | with_reducible refine kept_foldl (fun _ _ _ => ?_) ?_
    | with_reducible refine State.clearCore_kept (cv rfl hks) ?_
    | with_reducible refine State.readySets_kept (cv rfl hks) ?_
    | with_reducible refine State.sendFm_kept (cv rfl hks) ?_
    | with_reducible refine State.telReset_kept (cv rfl hks) ?_
    | with_reducible refine State.setCdie_kept (cv rfl hks) ?_
    | dsimp only
    | with_reducible intro _
    | split

theorem execDeviceClearEnd_kept {ks : Nat} {s0 : State} {s : State} (hks : Nat.land ks 166723289 = 166723289) (hk : Kept ks s0 s) : ENext ks s0 (execDeviceClearEnd s) := by

  have aux (m : MemS) (c : m.Canonical) (l : List Nat) :
      MemS.Canonical { l.foldl (fun m w => m.wipeWay w true) m with rlines := [], deaf := [], selfRefresh := false } :=
    (MemS.Canonical.foldl (fun _ _ h => h.wipeWay) c).same rfl
  unfold execDeviceClearEnd
  split
  · exact enext_mk hk
  · split
    · exact enext_mk hk
    · dsimp only
      refine enext_mk (State.readySets_kept (cv rfl hks) (State.telReset_kept (cv rfl hks) (State.sendFm_kept (cv rfl hks) ?_)))
      refine State.fwAtReset_kept (cv rfl hks) (State.timeAnew_kept (cv rfl hks) (State.partsAnew_kept (cv rfl hks) ?_))
      refine kept_foldl (fun _ _ h => State.setCdie_kept (cv rfl hks) h) (State.setErr_kept (cv rfl hks) (by dsimp only; exact fun w => w) (State.setSubs_kept (cv rfl hks) ?_))
      refine State.setUpd_kept (cv rfl hks) (State.settleLosses_kept (cv rfl hks) (State.setMem_kept (cv rfl hks) (fun c => aux _ c _) ?_))
      exact kept_foldl (fun _ _ h => State.clearCore_kept (cv rfl hks) h) hk

theorem execSysDevReset_kept {ks : Nat} {s0 : State} {port : Fin 4} {w : Word} {s : State} (hks : Nat.land ks 166574289 = 166574289) (hk : Kept ks s0 s) : ENext ks s0 (execSysDevReset port w s) := by

  unfold execSysDevReset
  repeat' first
    | with_reducible assumption
    | with_reducible refine enext_mk ?_
    | exact okept_none
    | with_reducible refine okept_some ?_
    | with_reducible refine State.onConns_kept (fun _ _ _ => ?_) ?_
    | with_reducible refine State.writeResetCtrl_kept (cv rfl hks) ?_
    | dsimp only
    | with_reducible intro _
    | split

theorem execSysDevEnable_kept {ks : Nat} {s0 : State} {port : Fin 4} {w : Word} {s : State} (hks : Nat.land ks 166574289 = 166574289) (hk : Kept ks s0 s) : ENext ks s0 (execSysDevEnable port w s) := by

  unfold execSysDevEnable
  repeat' first
    | with_reducible assumption
    | with_reducible refine enext_mk ?_
    | exact okept_none
    | with_reducible refine okept_some ?_
    | with_reducible refine State.onConns_kept (fun _ _ _ => ?_) ?_
    | with_reducible refine State.writeResetCtrl_kept (cv rfl hks) ?_
    | dsimp only
    | with_reducible intro _
    | split

theorem execCdieReset_kept {ks : Nat} {s0 : State} {port : Fin 4} {w : Word} {s : State} (hks : Nat.land ks 166574289 = 166574289) (hk : Kept ks s0 s) : ENext ks s0 (execCdieReset port w s) := by

  unfold execCdieReset
  repeat' first
    | with_reducible assumption
    | with_reducible refine enext_mk ?_
    | exact okept_none
    | with_reducible refine okept_some ?_
    | with_reducible refine State.onConns_kept (fun _ _ _ => ?_) ?_
    | with_reducible refine State.writeResetCtrl_kept (cv rfl hks) ?_
    | dsimp only
    | with_reducible intro _
    | split

theorem execCdieEnable_kept {ks : Nat} {s0 : State} {port : Fin 4} {w : Word} {s : State} (hks : Nat.land ks 166574289 = 166574289) (hk : Kept ks s0 s) : ENext ks s0 (execCdieEnable port w s) := by

  unfold execCdieEnable
  repeat' first
    | with_reducible assumption
    | with_reducible refine enext_mk ?_
    | exact okept_none
    | with_reducible refine okept_some ?_
    | with_reducible refine State.onConns_kept (fun _ _ _ => ?_) ?_
    | with_reducible refine State.writeResetCtrl_kept (cv rfl hks) ?_
    | dsimp only
    | with_reducible intro _
    | split

theorem execSweepPassStart_kept {ks : Nat} {s0 : State} {core : Fin 256} {array : Fin 4} {bf16 : Bool} {phase : Fin 7} {faults : List CellFault} {s : State} (hks : Nat.land ks 2048 = 2048) (hk : Kept ks s0 s) : ENext ks s0 (execSweepPassStart core array bf16 phase faults s) := by

  unfold execSweepPassStart
  repeat' first
    | with_reducible assumption
    | with_reducible refine enext_mk ?_
    | exact okept_none
    | with_reducible refine okept_some ?_
    | with_reducible refine State.onConns_kept (fun _ _ _ => ?_) ?_
    | with_reducible refine State.setArray_kept (cv rfl hks) ?_
    | dsimp only
    | with_reducible intro _
    | split

theorem execSweepVerdict_kept {ks : Nat} {s0 : State} {core : Fin 256} {array : Fin 4} {phase : Fin 7} {s : State} (hks : Nat.land ks 165681233 = 165681233) (hk : Kept ks s0 s) : ENext ks s0 (execSweepVerdict core array phase s) := by

  unfold execSweepVerdict
  repeat' first
    | with_reducible assumption
    | with_reducible refine enext_mk ?_
    | exact okept_none
    | with_reducible refine okept_some ?_
    | with_reducible refine State.onConns_kept (fun _ _ _ => ?_) ?_
    | with_reducible refine State.afterClean_kept (cv rfl hks) ?_
    | with_reducible refine State.bump_kept (cv rfl hks) ?_
    | with_reducible refine State.classUnit_kept (cv rfl hks) ?_
    | with_reducible refine State.failSeed_kept (cv rfl hks) ?_
    | with_reducible refine State.raise_kept (cv rfl hks) ?_
    | with_reducible refine State.setArea_kept (cv rfl hks) ?_
    | with_reducible refine State.setArray_kept (cv rfl hks) ?_
    | dsimp only
    | with_reducible intro _
    | split

theorem execSweepSummary_kept {ks : Nat} {s0 : State} {s : State} (hks : Nat.land ks 150997057 = 150997057) (hk : Kept ks s0 s) : ENext ks s0 (execSweepSummary s) := by

  unfold execSweepSummary
  repeat' first
    | with_reducible assumption
    | with_reducible refine enext_mk ?_
    | exact okept_none
    | with_reducible refine okept_some ?_
    | with_reducible refine State.onConns_kept (fun _ _ _ => ?_) ?_
    | with_reducible refine kept_foldl (fun _ _ _ => ?_) ?_
    | with_reducible refine State.telemetry_kept (cv rfl hks) ?_
    | with_reducible refine State.setArray_kept (cv rfl hks) ?_
    | with_reducible refine State.setHlt_kept (cv rfl hks) ?_ ?_
    | dsimp only
    | with_reducible exact fun w => smWf_set _ _ _ _ w
    | with_reducible exact fun w => smWf_map _ _ _ w
    | with_reducible exact fun w => ⟨w.1, smWf_set _ _ _ _ w.2.1, w.2.2⟩
    | with_reducible exact fun w => ⟨smWf_set _ _ _ _ w.1, w.2⟩
    | with_reducible exact fun w => ⟨w.1, smWf_set _ _ _ _ w.2⟩
    | with_reducible exact fun w => ⟨smWf_map _ _ _ w.1, w.2⟩
    | with_reducible exact fun w => ⟨Nat.mod_lt _ (by decide), w.2⟩
    | with_reducible exact fun w => ⟨w.1, smWf_set _ _ _ _ w.2⟩
    | exact id
    | dsimp only
    | with_reducible intro _
    | split

theorem execAgingSample_kept {ks : Nat} {s0 : State} {readings : List (Nat × Int)} {s : State} (hks : Nat.land ks 150995009 = 150995009) (hk : Kept ks s0 s) : ENext ks s0 (execAgingSample readings s) := by

  unfold execAgingSample
  repeat' first
    | with_reducible assumption
    | with_reducible refine enext_mk ?_
    | exact okept_none
    | with_reducible refine okept_some ?_
    | with_reducible refine State.onConns_kept (fun _ _ _ => ?_) ?_
    | with_reducible refine State.readings_kept (cv rfl hks) ?_
    | with_reducible refine State.setHlt_kept (cv rfl hks) ?_ ?_
    | dsimp only
    | with_reducible exact fun w => smWf_set _ _ _ _ w
    | with_reducible exact fun w => smWf_map _ _ _ w
    | with_reducible exact fun w => ⟨w.1, smWf_set _ _ _ _ w.2.1, w.2.2⟩
    | with_reducible exact fun w => ⟨smWf_set _ _ _ _ w.1, w.2⟩
    | with_reducible exact fun w => ⟨w.1, smWf_set _ _ _ _ w.2⟩
    | with_reducible exact fun w => ⟨smWf_map _ _ _ w.1, w.2⟩
    | with_reducible exact fun w => ⟨Nat.mod_lt _ (by decide), w.2⟩
    | with_reducible exact fun w => ⟨w.1, smWf_set _ _ _ _ w.2⟩
    | exact id
    | dsimp only
    | with_reducible intro _
    | split

theorem execEyeSample_kept {ks : Nat} {s0 : State} {samples : List LaneSample} {s : State} (hks : Nat.land ks 150995009 = 150995009) (hk : Kept ks s0 s) : ENext ks s0 (execEyeSample samples s) := by

  unfold execEyeSample
  repeat' first
    | with_reducible assumption
    | with_reducible refine enext_mk ?_
    | exact okept_none
    | with_reducible refine okept_some ?_
    | with_reducible refine State.onConns_kept (fun _ _ _ => ?_) ?_
    | with_reducible refine kept_foldl (fun _ _ _ => ?_) ?_
    | with_reducible refine State.eye_kept (cv rfl hks) ?_
    | with_reducible refine State.laneFec_kept (cv rfl hks) ?_
    | with_reducible refine State.setHlt_kept (cv rfl hks) ?_ ?_
    | dsimp only
    | with_reducible exact fun w => smWf_set _ _ _ _ w
    | with_reducible exact fun w => smWf_map _ _ _ w
    | with_reducible exact fun w => ⟨w.1, smWf_set _ _ _ _ w.2.1, w.2.2⟩
    | with_reducible exact fun w => ⟨smWf_set _ _ _ _ w.1, w.2⟩
    | with_reducible exact fun w => ⟨w.1, smWf_set _ _ _ _ w.2⟩
    | with_reducible exact fun w => ⟨smWf_map _ _ _ w.1, w.2⟩
    | with_reducible exact fun w => ⟨Nat.mod_lt _ (by decide), w.2⟩
    | with_reducible exact fun w => ⟨w.1, smWf_set _ _ _ _ w.2⟩
    | exact id
    | dsimp only
    | with_reducible intro _
    | split

theorem execCounterWriteback_kept {ks : Nat} {s0 : State} {s : State} (hks : Nat.land ks 16777216 = 16777216) (hk : Kept ks s0 s) : ENext ks s0 (execCounterWriteback s) := by

  unfold execCounterWriteback
  repeat' first
    | with_reducible assumption
    | with_reducible refine enext_mk ?_
    | exact okept_none
    | with_reducible refine okept_some ?_
    | with_reducible refine State.onConns_kept (fun _ _ _ => ?_) ?_
    | with_reducible refine State.writeBack_kept (cv rfl hks) ?_
    | dsimp only
    | with_reducible intro _
    | split

theorem execHltRingArm_kept {ks : Nat} {s0 : State} {port : Fin 4} {w : Word} {s : State} (hks : Nat.land ks 16777281 = 16777281) (hk : Kept ks s0 s) : ENext ks s0 (execHltRingArm port w s) := by

  unfold execHltRingArm
  repeat' first
    | with_reducible assumption
    | with_reducible refine enext_mk ?_
    | exact okept_none
    | with_reducible refine okept_some ?_
    | with_reducible refine State.onConns_kept (fun _ _ _ => ?_) ?_
    | with_reducible refine State.rootWrite_kept (fun _ _ => ?_) (cv rfl hks) ?_
    | with_reducible refine State.writeHltCfg_kept (cv rfl hks) ?_
    | dsimp only
    | with_reducible intro _
    | split

theorem execHltRingHeadWrite_kept {ks : Nat} {s0 : State} {port : Fin 4} {w : Word} {s : State} (hks : Nat.land ks 1 = 1) (hk : Kept ks s0 s) : ENext ks s0 (execHltRingHeadWrite port w s) := by

  unfold execHltRingHeadWrite
  repeat' first
    | with_reducible assumption
    | with_reducible refine enext_mk ?_
    | exact okept_none
    | with_reducible refine okept_some ?_
    | with_reducible refine State.onConns_kept (fun _ _ _ => ?_) ?_
    | with_reducible refine State.rootWrite_kept (fun _ _ => ?_) (cv rfl hks) ?_
    | with_reducible refine State.setReg_kept (cv rfl hks) ?_
    | dsimp only
    | with_reducible intro _
    | split

theorem execGetPdr_kept {ks : Nat} {s0 : State} {via : Via} {record : Nat} {s : State} (hks : Nat.land ks 134217728 = 134217728) (hk : Kept ks s0 s) : ENext ks s0 (execGetPdr via record s) := by

  unfold execGetPdr
  repeat' first
    | with_reducible assumption
    | with_reducible refine enext_mk ?_
    | exact okept_none
    | with_reducible refine okept_some ?_
    | with_reducible refine State.onConns_kept (fun _ _ _ => ?_) ?_
    | with_reducible refine State.pldm_kept (cv rfl hks) ?_
    | dsimp only
    | with_reducible intro _
    | split

theorem execGetSensorReading_kept {ks : Nat} {s0 : State} {via : Via} {sensor : Nat} {s : State} (hks : Nat.land ks 134217728 = 134217728) (hk : Kept ks s0 s) : ENext ks s0 (execGetSensorReading via sensor s) := by

  unfold execGetSensorReading
  repeat' first
    | with_reducible assumption
    | with_reducible refine enext_mk ?_
    | exact okept_none
    | with_reducible refine okept_some ?_
    | with_reducible refine State.onConns_kept (fun _ _ _ => ?_) ?_
    | with_reducible refine State.pldm_kept (cv rfl hks) ?_
    | dsimp only
    | with_reducible intro _
    | split

theorem execGetStateSensorReadings_kept {ks : Nat} {s0 : State} {via : Via} {sensor : Nat} {s : State} (hks : Nat.land ks 134217728 = 134217728) (hk : Kept ks s0 s) : ENext ks s0 (execGetStateSensorReadings via sensor s) := by

  unfold execGetStateSensorReadings
  repeat' first
    | with_reducible assumption
    | with_reducible refine enext_mk ?_
    | exact okept_none
    | with_reducible refine okept_some ?_
    | with_reducible refine State.onConns_kept (fun _ _ _ => ?_) ?_
    | with_reducible refine State.pldm_kept (cv rfl hks) ?_
    | dsimp only
    | with_reducible intro _
    | split

theorem execSetEventReceiver_kept {ks : Nat} {s0 : State} {via : Via} {receiver : Nat} {s : State} (hks : Nat.land ks 150994944 = 150994944) (hk : Kept ks s0 s) : ENext ks s0 (execSetEventReceiver via receiver s) := by

  unfold execSetEventReceiver
  repeat' first
    | with_reducible assumption
    | with_reducible refine enext_mk ?_
    | exact okept_none
    | with_reducible refine okept_some ?_
    | with_reducible refine State.onConns_kept (fun _ _ _ => ?_) ?_
    | with_reducible refine kept_foldl (fun _ _ _ => ?_) ?_
    | with_reducible refine State.pldm_kept (cv rfl hks) ?_
    | with_reducible refine State.emit_kept (cv rfl hks) ?_
    | with_reducible refine State.setHlt_kept (cv rfl hks) ?_ ?_
    | dsimp only
    | with_reducible exact fun w => smWf_set _ _ _ _ w
    | with_reducible exact fun w => smWf_map _ _ _ w
    | with_reducible exact fun w => ⟨w.1, smWf_set _ _ _ _ w.2.1, w.2.2⟩
    | with_reducible exact fun w => ⟨smWf_set _ _ _ _ w.1, w.2⟩
    | with_reducible exact fun w => ⟨w.1, smWf_set _ _ _ _ w.2⟩
    | with_reducible exact fun w => ⟨smWf_map _ _ _ w.1, w.2⟩
    | with_reducible exact fun w => ⟨Nat.mod_lt _ (by decide), w.2⟩
    | with_reducible exact fun w => ⟨w.1, smWf_set _ _ _ _ w.2⟩
    | exact id
    | dsimp only
    | with_reducible intro _
    | split

theorem execPollForPlatformEventMessage_kept {ks : Nat} {s0 : State} {via : Via} {s : State} (hks : Nat.land ks 150994944 = 150994944) (hk : Kept ks s0 s) : ENext ks s0 (execPollForPlatformEventMessage via s) := by

  unfold execPollForPlatformEventMessage
  repeat' first
    | with_reducible assumption
    | with_reducible refine enext_mk ?_
    | exact okept_none
    | with_reducible refine okept_some ?_
    | with_reducible refine State.onConns_kept (fun _ _ _ => ?_) ?_
    | with_reducible refine State.pldm_kept (cv rfl hks) ?_
    | with_reducible refine State.emit_kept (cv rfl hks) ?_
    | with_reducible refine State.setHlt_kept (cv rfl hks) ?_ ?_
    | dsimp only
    | with_reducible exact fun w => smWf_set _ _ _ _ w
    | with_reducible exact fun w => smWf_map _ _ _ w
    | with_reducible exact fun w => ⟨w.1, smWf_set _ _ _ _ w.2.1, w.2.2⟩
    | with_reducible exact fun w => ⟨smWf_set _ _ _ _ w.1, w.2⟩
    | with_reducible exact fun w => ⟨w.1, smWf_set _ _ _ _ w.2⟩
    | with_reducible exact fun w => ⟨smWf_map _ _ _ w.1, w.2⟩
    | with_reducible exact fun w => ⟨Nat.mod_lt _ (by decide), w.2⟩
    | with_reducible exact fun w => ⟨w.1, smWf_set _ _ _ _ w.2⟩
    | exact id
    | dsimp only
    | with_reducible intro _
    | split

theorem execTimNowLoRead_kept {ks : Nat} {s0 : State} {port : Fin 4} {s : State} (hks : Nat.land ks 134217730 = 134217730) (hk : Kept ks s0 s) : ENext ks s0 (execTimNowLoRead port s) := by

  unfold execTimNowLoRead
  repeat' first
    | with_reducible assumption
    | with_reducible refine enext_mk ?_
    | exact okept_none
    | with_reducible refine okept_some ?_
    | with_reducible refine State.onConns_kept (fun _ _ _ => ?_) ?_
    | with_reducible refine State.answerRead_kept (cv rfl hks) ?_
    | dsimp only
    | with_reducible intro _
    | split

theorem execLoReadLatch_kept {ks : Nat} {s0 : State} {port : Fin 4} {at_ : ReadAt} {s : State} (hks : Nat.land ks 134217730 = 134217730) (hk : Kept ks s0 s) : ENext ks s0 (execLoReadLatch port at_ s) := by

  unfold execLoReadLatch
  repeat' first
    | with_reducible assumption
    | with_reducible refine enext_mk ?_
    | exact okept_none
    | with_reducible refine okept_some ?_
    | with_reducible refine State.onConns_kept (fun _ _ _ => ?_) ?_
    | with_reducible refine State.answerRead_kept (cv rfl hks) ?_
    | with_reducible refine State.emit_kept (cv rfl hks) ?_
    | dsimp only
    | with_reducible intro _
    | split

theorem execRegisterWrite_kept {ks : Nat} {s0 : State} {port : Fin 4} {offset : BitVec 24} {size : Nat} {w : Word} {hwset : Word} {s : State} (hks : Nat.land ks 167755517 = 167755517) (hk : Kept ks s0 s) : ENext ks s0 (execRegisterWrite port offset size w hwset s) := by

  unfold execRegisterWrite
  repeat' first
    | with_reducible assumption
    | with_reducible refine enext_mk ?_
    | exact okept_none
    | with_reducible refine okept_some ?_
    | with_reducible refine State.onConns_kept (fun _ _ _ => ?_) ?_
    | with_reducible refine State.write_kept (cv rfl hks) ?_
    | dsimp only
    | with_reducible intro _
    | split

end Sys2Proof.Machine
end

