-- ==== Sys2Proof/Laws/ExecMemory.lean ====
section
/-! SUPPORT. Each command of Machine/Memory, Machine/Regions, Machine/Maps answers a next state, and what it keeps. -/

namespace Sys2Proof.Machine

open Sys2Proof Host

theorem execMemRead_kept {ks : Nat} {s0 : State} {q : MemReq} {upset : List Upset} {edges : List EdgeErr} {s : State} (hks : Nat.land ks 166205521 = 166205521) (hk : Kept ks s0 s) : ENext ks s0 (execMemRead q upset edges s) := by

  unfold execMemRead
  repeat' first
    | with_reducible assumption
    | with_reducible refine enext_mk ?_
    | exact okept_none
    | with_reducible refine okept_some ?_
    | with_reducible refine State.onConns_kept (fun _ _ _ => ?_) ?_
    | with_reducible refine State.agentRead_kept (cv rfl hks) ?_
    | with_reducible refine State.crossEdges_kept (cv rfl hks) ?_
    | with_reducible refine State.headers_kept (cv rfl hks) ?_
    | with_reducible refine State.raise_kept (cv rfl hks) ?_
    | with_reducible refine State.readUpsets_kept (cv rfl hks) ?_
    | with_reducible refine State.reply_kept (fun _ _ => ?_) (cv rfl hks) ?_
    | with_reducible refine State.emit_kept (cv rfl hks) ?_
    | with_reducible refine kept_pair (by with_reducible assumption) ?_
    | with_reducible refine kept_pair3 (by with_reducible assumption) ?_
    | dsimp only
    | with_reducible intro _
    | split

theorem execMemWrite_kept {ks : Nat} {s0 : State} {q : MemReq} {mask : BitVec 256} {data : List Gran} {upset : List Upset} {edges : List EdgeErr} {s : State} (hks : Nat.land ks 166205521 = 166205521) (hk : Kept ks s0 s) : ENext ks s0 (execMemWrite q mask data upset edges s) := by

  unfold execMemWrite
  repeat' first
    | with_reducible assumption
    | with_reducible refine enext_mk ?_
    | exact okept_none
    | with_reducible refine okept_some ?_
    | with_reducible refine State.onConns_kept (fun _ _ _ => ?_) ?_
    | with_reducible refine kept_getD ?_ ?_
    | with_reducible refine State.agentWrite_kept (cv rfl hks) ?_
    | with_reducible refine State.crossEdges_kept (cv rfl hks) ?_
    | with_reducible refine State.headers_kept (cv rfl hks) ?_
    | with_reducible refine State.mergeRead_kept (cv rfl hks) ?_
    | with_reducible refine State.raise_kept (cv rfl hks) ?_
    | with_reducible refine State.reply_kept (fun _ _ => ?_) (cv rfl hks) ?_
    | with_reducible refine State.emit_kept (cv rfl hks) ?_
    | with_reducible refine kept_pair (by with_reducible assumption) ?_
    | dsimp only
    | with_reducible intro _
    | split

theorem execMemAtomic_kept {ks : Nat} {s0 : State} {q : MemReq} {aop : Aop} {wide : Bool} {opa opb : BitVec 64} {upset : List Upset} {edges : List EdgeErr} {s : State} (hks : Nat.land ks 166205521 = 166205521) (hk : Kept ks s0 s) : ENext ks s0 (execMemAtomic q aop wide opa opb upset edges s) := by

  unfold execMemAtomic
  repeat' first
    | with_reducible assumption
    | with_reducible refine enext_mk ?_
    | exact okept_none
    | with_reducible refine okept_some ?_
    | with_reducible refine State.onConns_kept (fun _ _ _ => ?_) ?_
    | with_reducible refine kept_getD ?_ ?_
    | with_reducible refine State.agentAtomic_kept (cv rfl hks) ?_
    | with_reducible refine State.crossEdges_kept (cv rfl hks) ?_
    | with_reducible refine State.headers_kept (cv rfl hks) ?_
    | with_reducible refine State.mergeRead_kept (cv rfl hks) ?_
    | with_reducible refine State.raise_kept (cv rfl hks) ?_
    | with_reducible refine State.reply_kept (fun _ _ => ?_) (cv rfl hks) ?_
    | with_reducible refine State.emit_kept (cv rfl hks) ?_
    | with_reducible refine kept_pair (by with_reducible assumption) ?_
    | with_reducible refine kept_pair3 (by with_reducible assumption) ?_
    | dsimp only
    | with_reducible intro _
    | split

theorem execEccCorrectedRewrite_kept {ks : Nat} {s0 : State} {pc : Fin 2048} {line : BitVec 22} {s : State} (hks : Nat.land ks 524288 = 524288) (hk : Kept ks s0 s) : ENext ks s0 (execEccCorrectedRewrite pc line s) := by

  unfold execEccCorrectedRewrite
  repeat' first
    | with_reducible assumption
    | with_reducible refine enext_mk ?_
    | exact okept_none
    | with_reducible refine okept_some ?_
    | with_reducible refine State.onConns_kept (fun _ _ _ => ?_) ?_
    | with_reducible exact fun c => MemS.Canonical.same c rfl
    | with_reducible refine State.setMem_kept (cv rfl hks) ?_ ?_

theorem execPatrolScrub_kept {ks : Nat} {s0 : State} {pc : Fin 2048} {line : BitVec 22} {upset : List Upset} {ecs : Word} {s : State} (hks : Nat.land ks 166205521 = 166205521) (hk : Kept ks s0 s) : ENext ks s0 (execPatrolScrub pc line upset ecs s) := by

  unfold execPatrolScrub
  repeat' first
    | with_reducible assumption
    | with_reducible refine enext_mk ?_
    | exact okept_none
    | with_reducible refine okept_some ?_
    | with_reducible refine State.onConns_kept (fun _ _ _ => ?_) ?_
    | with_reducible refine kept_foldl (fun _ _ _ => ?_) ?_
    | with_reducible refine State.scrubWord_kept (cv rfl hks) ?_
    | with_reducible refine State.setArea_kept (cv rfl hks) ?_
    | dsimp only
    | with_reducible intro _
    | split

theorem execMemorySlot_kept {ks : Nat} {s0 : State} {s : State} (hks : Nat.land ks 166205521 = 166205521) (hk : Kept ks s0 s) : ENext ks s0 (execMemorySlot s) := by

  unfold execMemorySlot
  split
  · exact ⟨_, rfl, hk⟩
  · refine ⟨_, rfl, ?_⟩
    dsimp only
    refine kept_foldl (fun _ _ h => State.storeBlock_kept (cv rfl hks) h) ?_
    refine State.setMem_kept (cv rfl hks) (fun c => ?_) hk
    refine MemS.Canonical.same (m := List.foldl _ s.mem _) ?_ rfl
    exact MemS.Canonical.foldl (fun _ _ h => MemS.Canonical.writeGrans h) c

theorem execTransposeBlockTimeout_kept {ks : Nat} {s0 : State} {cdie : Fin 32} {block : Nat} {s : State} (hks : Nat.land ks 166205521 = 166205521) (hk : Kept ks s0 s) : ENext ks s0 (execTransposeBlockTimeout cdie block s) := by

  unfold execTransposeBlockTimeout
  repeat' first
    | with_reducible assumption
    | with_reducible refine enext_mk ?_
    | exact okept_none
    | with_reducible refine okept_some ?_
    | with_reducible refine State.onConns_kept (fun _ _ _ => ?_) ?_
    | with_reducible refine State.closeBlock_kept (cv rfl hks) ?_
    | dsimp only
    | with_reducible intro _
    | split

theorem execChannelAssign_kept {ks : Nat} {s0 : State} {port : Fin 4} {ch : Fin 1024} {w : Word} {s : State} (hks : Nat.land ks 524289 = 524289) (hk : Kept ks s0 s) : ENext ks s0 (execChannelAssign port ch w s) := by

  unfold execChannelAssign
  repeat' first
    | with_reducible assumption
    | with_reducible refine enext_mk ?_
    | exact okept_none
    | with_reducible refine okept_some ?_
    | with_reducible refine State.onConns_kept (fun _ _ _ => ?_) ?_
    | with_reducible refine State.writeChOwn_kept (cv rfl hks) ?_
    | dsimp only
    | with_reducible intro _
    | split

theorem execChannelRelease_kept {ks : Nat} {s0 : State} {port : Fin 4} {ch : Fin 1024} {w : Word} {s : State} (hks : Nat.land ks 524289 = 524289) (hk : Kept ks s0 s) : ENext ks s0 (execChannelRelease port ch w s) := by

  unfold execChannelRelease
  repeat' first
    | with_reducible assumption
    | with_reducible refine enext_mk ?_
    | exact okept_none
    | with_reducible refine okept_some ?_
    | with_reducible refine State.onConns_kept (fun _ _ _ => ?_) ?_
    | with_reducible refine State.writeChOwn_kept (cv rfl hks) ?_
    | dsimp only
    | with_reducible intro _
    | split

theorem execChannelClearDone_kept {ks : Nat} {s0 : State} {ch : Fin 1024} {s : State} (hks : Nat.land ks 524288 = 524288) (hk : Kept ks s0 s) : ENext ks s0 (execChannelClearDone ch s) := by

  unfold execChannelClearDone
  dsimp only
  split
  · refine ⟨_, rfl, State.setMem_kept (cv rfl hks) (fun c => ?_) hk⟩
    exact MemS.Canonical.same (m := s.mem.wipe .hbm (hbmAt (2 * ch.val) 0) (hbmAt (2 * ch.val + 2) 0)) (MemS.Canonical.wipe c) rfl
  · exact ⟨_, rfl, hk⟩

theorem execSwayAssign_kept {ks : Nat} {s0 : State} {port : Fin 4} {cdie : Fin 32} {q : Fin 4} {w : Word} {s : State} (hks : Nat.land ks 524289 = 524289) (hk : Kept ks s0 s) : ENext ks s0 (execSwayAssign port cdie q w s) := by

  unfold execSwayAssign
  repeat' first
    | with_reducible assumption
    | with_reducible refine enext_mk ?_
    | exact okept_none
    | with_reducible refine okept_some ?_
    | with_reducible refine State.onConns_kept (fun _ _ _ => ?_) ?_
    | with_reducible refine State.writeWays_kept (cv rfl hks) ?_
    | dsimp only
    | with_reducible intro _
    | split

theorem execSwayRelease_kept {ks : Nat} {s0 : State} {port : Fin 4} {cdie : Fin 32} {q : Fin 4} {w : Word} {s : State} (hks : Nat.land ks 524289 = 524289) (hk : Kept ks s0 s) : ENext ks s0 (execSwayRelease port cdie q w s) := by

  unfold execSwayRelease
  repeat' first
    | with_reducible assumption
    | with_reducible refine enext_mk ?_
    | exact okept_none
    | with_reducible refine okept_some ?_
    | with_reducible refine State.onConns_kept (fun _ _ _ => ?_) ?_
    | with_reducible refine State.writeWays_kept (cv rfl hks) ?_
    | dsimp only
    | with_reducible intro _
    | split

theorem execWayClearDone_kept {ks : Nat} {s0 : State} {cdie : Fin 32} {way : Fin 16} {s : State} (hks : Nat.land ks 524288 = 524288) (hk : Kept ks s0 s) : ENext ks s0 (execWayClearDone cdie way s) := by

  unfold execWayClearDone
  dsimp only
  split
  · exact enext_mk (State.setMem_kept (cv rfl hks) (fun c => MemS.Canonical.same (m := s.mem.wipeWay (16 * cdie.val + way.val) false) c.wipeWay rfl) hk)
  · exact enext_mk hk

theorem execRwayAssign_kept {ks : Nat} {s0 : State} {port : Fin 4} {gdie : Fin 16} {q : Fin 4} {w : Word} {s : State} (hks : Nat.land ks 524289 = 524289) (hk : Kept ks s0 s) : ENext ks s0 (execRwayAssign port gdie q w s) := by

  unfold execRwayAssign
  repeat' first
    | with_reducible assumption
    | with_reducible refine enext_mk ?_
    | exact okept_none
    | with_reducible refine okept_some ?_
    | with_reducible refine State.onConns_kept (fun _ _ _ => ?_) ?_
    | with_reducible refine State.writeWays_kept (cv rfl hks) ?_
    | dsimp only
    | with_reducible intro _
    | split

theorem execRwayRelease_kept {ks : Nat} {s0 : State} {port : Fin 4} {gdie : Fin 16} {q : Fin 4} {w : Word} {s : State} (hks : Nat.land ks 524289 = 524289) (hk : Kept ks s0 s) : ENext ks s0 (execRwayRelease port gdie q w s) := by

  unfold execRwayRelease
  repeat' first
    | with_reducible assumption
    | with_reducible refine enext_mk ?_
    | exact okept_none
    | with_reducible refine okept_some ?_
    | with_reducible refine State.onConns_kept (fun _ _ _ => ?_) ?_
    | with_reducible refine State.writeWays_kept (cv rfl hks) ?_
    | dsimp only
    | with_reducible intro _
    | split

theorem execTgStart_kept {ks : Nat} {s0 : State} {port : Fin 4} {w : Word} {s : State} (hks : Nat.land ks 524288 = 524288) (hk : Kept ks s0 s) : ENext ks s0 (execTgStart port w s) := by

  unfold execTgStart
  repeat' first
    | with_reducible assumption
    | with_reducible refine enext_mk ?_
    | exact okept_none
    | with_reducible refine okept_some ?_
    | with_reducible refine State.onConns_kept (fun _ _ _ => ?_) ?_
    | with_reducible refine State.writeTgCtrl_kept (cv rfl hks) ?_
    | dsimp only
    | with_reducible intro _
    | split

theorem execTgStop_kept {ks : Nat} {s0 : State} {port : Fin 4} {w : Word} {s : State} (hks : Nat.land ks 524288 = 524288) (hk : Kept ks s0 s) : ENext ks s0 (execTgStop port w s) := by

  unfold execTgStop
  repeat' first
    | with_reducible assumption
    | with_reducible refine enext_mk ?_
    | exact okept_none
    | with_reducible refine okept_some ?_
    | with_reducible refine State.onConns_kept (fun _ _ _ => ?_) ?_
    | with_reducible refine State.writeTgCtrl_kept (cv rfl hks) ?_
    | dsimp only
    | with_reducible intro _
    | split

theorem execTgRunEnd_kept {ks : Nat} {s0 : State} {ch : Fin 1024} {upset : List TgUpset} {s : State} (hks : Nat.land ks 434640977 = 434640977) (hk : Kept ks s0 s) : ENext ks s0 (execTgRunEnd ch upset s) := by

  unfold execTgRunEnd
  repeat' first
    | with_reducible assumption
    | with_reducible refine enext_mk ?_
    | exact okept_none
    | with_reducible refine okept_some ?_
    | with_reducible refine State.onConns_kept (fun _ _ _ => ?_) ?_
    | with_reducible apply MemS.restore_imp
    | with_reducible apply MemS.foldl_imp
    | with_reducible exact fun c => MemS.Canonical.same c rfl
    | with_reducible refine kept_foldl1 (fun _ _ _ => ?_) ?_
    | with_reducible refine kept_foldl (fun _ _ _ => ?_) ?_
    | with_reducible refine kept_getD ?_ ?_
    | with_reducible refine State.raiseAs_kept (cv rfl hks) ?_
    | with_reducible refine State.writeChOwn_kept (cv rfl hks) ?_
    | with_reducible refine TgRun.pass_kept (cv rfl hks) ?_
    | with_reducible refine State.draw_kept (cv rfl hks) ?_
    | with_reducible refine State.setMem_kept (cv rfl hks) ?_ ?_
    | with_reducible refine State.setTg_kept (cv rfl hks) ?_
    | dsimp only
    | with_reducible exact fun w => smWf_set _ _ _ _ w
    | with_reducible exact fun w => smWf_map _ _ _ w
    | with_reducible exact fun w => ⟨w.1, smWf_set _ _ _ _ w.2.1, w.2.2⟩
    | with_reducible exact fun w => ⟨smWf_set _ _ _ _ w.1, w.2⟩
    | with_reducible exact fun w => ⟨w.1, smWf_set _ _ _ _ w.2⟩
    | with_reducible exact fun w => ⟨smWf_map _ _ _ w.1, w.2⟩
    | with_reducible exact fun w => ⟨w.1, smWf_set _ _ _ _ w.2⟩
    | exact id
    | dsimp only
    | with_reducible intro _
    | split

theorem execRegionEnable_kept {ks : Nat} {s0 : State} {port : Fin 4} {i : Fin 256} {w : Word} {s : State} (hks : Nat.land ks 1 = 1) (hk : Kept ks s0 s) : ENext ks s0 (execRegionEnable port i w s) := by

  unfold execRegionEnable
  repeat' first
    | with_reducible assumption
    | with_reducible refine enext_mk ?_
    | exact okept_none
    | with_reducible refine okept_some ?_
    | with_reducible refine State.onConns_kept (fun _ _ _ => ?_) ?_
    | with_reducible refine State.writeRgnD_kept (cv rfl hks) ?_
    | dsimp only
    | with_reducible intro _
    | split

theorem execRegionRelease_kept {ks : Nat} {s0 : State} {port : Fin 4} {i : Fin 256} {w : Word} {s : State} (hks : Nat.land ks 1 = 1) (hk : Kept ks s0 s) : ENext ks s0 (execRegionRelease port i w s) := by

  unfold execRegionRelease
  repeat' first
    | with_reducible assumption
    | with_reducible refine enext_mk ?_
    | exact okept_none
    | with_reducible refine okept_some ?_
    | with_reducible refine State.onConns_kept (fun _ _ _ => ?_) ?_
    | with_reducible refine State.writeRgnD_kept (cv rfl hks) ?_
    | dsimp only
    | with_reducible intro _
    | split

theorem execRowlockWrite_kept {ks : Nat} {s0 : State} {port : Fin 4} {i : Fin 256} {w : Word} {s : State} (hks : Nat.land ks 1 = 1) (hk : Kept ks s0 s) : ENext ks s0 (execRowlockWrite port i w s) := by

  unfold execRowlockWrite
  repeat' first
    | with_reducible assumption
    | with_reducible refine enext_mk ?_
    | exact okept_none
    | with_reducible refine okept_some ?_
    | with_reducible refine State.onConns_kept (fun _ _ _ => ?_) ?_
    | with_reducible refine State.writeRgnD_kept (cv rfl hks) ?_
    | dsimp only
    | with_reducible intro _
    | split

theorem execContextEnable_kept {ks : Nat} {s0 : State} {port : Fin 4} {ctx : Fin 4096} {w : Word} {s : State} (hks : Nat.land ks 1572865 = 1572865) (hk : Kept ks s0 s) : ENext ks s0 (execContextEnable port ctx w s) := by

  unfold execContextEnable
  repeat' first
    | with_reducible assumption
    | with_reducible refine enext_mk ?_
    | exact okept_none
    | with_reducible refine okept_some ?_
    | with_reducible refine State.onConns_kept (fun _ _ _ => ?_) ?_
    | with_reducible refine State.writeCtxA_kept (cv rfl hks) ?_
    | dsimp only
    | with_reducible intro _
    | split

theorem execContextDisable_kept {ks : Nat} {s0 : State} {port : Fin 4} {ctx : Fin 4096} {w : Word} {s : State} (hks : Nat.land ks 1572865 = 1572865) (hk : Kept ks s0 s) : ENext ks s0 (execContextDisable port ctx w s) := by

  unfold execContextDisable
  repeat' first
    | with_reducible assumption
    | with_reducible refine enext_mk ?_
    | exact okept_none
    | with_reducible refine okept_some ?_
    | with_reducible refine State.onConns_kept (fun _ _ _ => ?_) ?_
    | with_reducible refine State.writeCtxA_kept (cv rfl hks) ?_
    | dsimp only
    | with_reducible intro _
    | split

theorem execXltSlqWrite_kept {ks : Nat} {s0 : State} {port : Fin 4} {part : Fin 64} {w : Word} {s : State} (hks : Nat.land ks 1 = 1) (hk : Kept ks s0 s) : ENext ks s0 (execXltSlqWrite port part w s) := by

  unfold execXltSlqWrite
  repeat' first
    | with_reducible assumption
    | with_reducible refine enext_mk ?_
    | exact okept_none
    | with_reducible refine okept_some ?_
    | with_reducible refine State.onConns_kept (fun _ _ _ => ?_) ?_
    | with_reducible refine State.writeSlq_kept (cv rfl hks) ?_
    | dsimp only
    | with_reducible intro _
    | split

theorem execPwinEnable_kept {ks : Nat} {s0 : State} {port : Fin 4} {i : Fin 64} {w : Word} {s : State} (hks : Nat.land ks 1 = 1) (hk : Kept ks s0 s) : ENext ks s0 (execPwinEnable port i w s) := by

  unfold execPwinEnable
  repeat' first
    | with_reducible assumption
    | with_reducible refine enext_mk ?_
    | exact okept_none
    | with_reducible refine okept_some ?_
    | with_reducible refine State.onConns_kept (fun _ _ _ => ?_) ?_
    | with_reducible refine State.writePwinA_kept (cv rfl hks) ?_
    | dsimp only
    | with_reducible intro _
    | split

theorem execPwinDisable_kept {ks : Nat} {s0 : State} {port : Fin 4} {i : Fin 64} {w : Word} {s : State} (hks : Nat.land ks 1 = 1) (hk : Kept ks s0 s) : ENext ks s0 (execPwinDisable port i w s) := by

  unfold execPwinDisable
  repeat' first
    | with_reducible assumption
    | with_reducible refine enext_mk ?_
    | exact okept_none
    | with_reducible refine okept_some ?_
    | with_reducible refine State.onConns_kept (fun _ _ _ => ?_) ?_
    | with_reducible refine State.writePwinA_kept (cv rfl hks) ?_
    | dsimp only
    | with_reducible intro _
    | split

theorem execMapList_kept {ks : Nat} {s0 : State} {ring : Fin 4096} {seq : Word} {list : List Gran} {bad : List Blemish} {edges : List EdgeErr} {badEntry : Option (Nat × BitVec 41 × Fin 4)} {s : State} (hks : Nat.land ks 167296721 = 167296721) (hk : Kept ks s0 s) : ENext ks s0 (execMapList ring seq list bad edges badEntry s) := by

  unfold execMapList
  repeat' first
    | with_reducible assumption
    | with_reducible refine enext_mk ?_
    | exact okept_none
    | with_reducible refine okept_some ?_
    | with_reducible refine State.onConns_kept (fun _ _ _ => ?_) ?_
    | with_reducible refine State.failMap_kept (cv rfl hks) ?_
    | with_reducible refine State.readList_kept (cv rfl hks) ?_
    | with_reducible refine State.readOver_kept (cv rfl hks) ?_
    | with_reducible refine State.runOps_kept (cv rfl hks) ?_
    | with_reducible refine State.setSub_kept (cv rfl hks) ?_
    | with_reducible refine kept_pair (by with_reducible assumption) ?_
    | with_reducible refine kept_pair3 (by with_reducible assumption) ?_
    | dsimp only
    | with_reducible intro _
    | split

theorem execWithdrawCountReport_kept {ks : Nat} {s0 : State} {ctx : Fin 4096} {die : Fin 64} {s : State} (hks : Nat.land ks 1048576 = 1048576) (hk : Kept ks s0 s) : ENext ks s0 (execWithdrawCountReport ctx die s) := by

  unfold execWithdrawCountReport
  repeat' first
    | with_reducible assumption
    | with_reducible refine enext_mk ?_
    | exact okept_none
    | with_reducible refine okept_some ?_
    | with_reducible refine State.onConns_kept (fun _ _ _ => ?_) ?_
    | with_reducible refine State.moveFloor_kept (cv rfl hks) ?_
    | with_reducible refine State.setWithdraw_kept (cv rfl hks) ?_
    | dsimp only
    | with_reducible intro _
    | split

theorem execWithdrawTimeout_kept {ks : Nat} {s0 : State} {ctx : Fin 4096} {s : State} (hks : Nat.land ks 166770897 = 166770897) (hk : Kept ks s0 s) : ENext ks s0 (execWithdrawTimeout ctx s) := by

  unfold execWithdrawTimeout
  repeat' first
    | with_reducible assumption
    | with_reducible refine enext_mk ?_
    | exact okept_none
    | with_reducible refine okept_some ?_
    | with_reducible refine State.onConns_kept (fun _ _ _ => ?_) ?_
    | with_reducible refine kept_foldl1 (fun _ _ _ => ?_) ?_
    | with_reducible refine kept_foldl (fun _ _ _ => ?_) ?_
    | with_reducible refine kept_getD ?_ ?_
    | with_reducible refine State.charge_kept (cv rfl hks) ?_
    | with_reducible refine State.moveFloor_kept (cv rfl hks) ?_
    | with_reducible refine State.raise_kept (cv rfl hks) ?_
    | dsimp only
    | with_reducible intro _
    | split

theorem execFloorAck_kept {ks : Nat} {s0 : State} {ctx : Fin 4096} {die : Fin 64} {s : State} (hks : Nat.land ks 167296721 = 167296721) (hk : Kept ks s0 s) : ENext ks s0 (execFloorAck ctx die s) := by

  unfold execFloorAck
  repeat' first
    | with_reducible assumption
    | with_reducible refine enext_mk ?_
    | exact okept_none
    | with_reducible refine okept_some ?_
    | with_reducible refine State.onConns_kept (fun _ _ _ => ?_) ?_
    | with_reducible refine State.endWithdraw_kept (cv rfl hks) ?_
    | with_reducible refine State.setWithdraw_kept (cv rfl hks) ?_
    | dsimp only
    | with_reducible intro _
    | split

end Sys2Proof.Machine
end

