-- ==== Sys2Proof/Laws/ExecRings.lean ====
section
/-! SUPPORT. Each command of Machine/Rings, Machine/Admission, Machine/Slots, Machine/Images, Machine/Partition answers a next state, and what it keeps. -/

namespace Sys2Proof.Machine

open Sys2Proof Host

theorem execSqTail_kept {ks : Nat} {s0 : State} {port : Fin 4} {ring : Fin 4096} {size : Nat} {stray : Bool} {value : Word} {s : State} (hks : Nat.land ks 165681265 = 165681265) (hk : Kept ks s0 s) : ENext ks s0 (execSqTail port ring size stray value s) := by

  unfold execSqTail
  repeat' first
    | with_reducible assumption
    | with_reducible refine enext_mk ?_
    | exact okept_none
    | with_reducible refine okept_some ?_
    | with_reducible refine State.onConns_kept (fun _ _ _ => ?_) ?_
    | with_reducible refine State.dbIgnored_kept (cv rfl hks) ?_
    | with_reducible refine State.fetchSlots_kept (cv rfl hks) ?_
    | with_reducible refine State.haltRing_kept (cv rfl hks) ?_
    | with_reducible refine State.setRing_kept (cv rfl hks) ?_
    | dsimp only
    | with_reducible intro _
    | split

theorem execCqHead_kept {ks : Nat} {s0 : State} {port : Fin 4} {ring : Fin 4096} {size : Nat} {stray : Bool} {value : Word} {s : State} (hks : Nat.land ks 165681265 = 165681265) (hk : Kept ks s0 s) : ENext ks s0 (execCqHead port ring size stray value s) := by

  unfold execCqHead
  repeat' first
    | with_reducible assumption
    | with_reducible refine enext_mk ?_
    | exact okept_none
    | with_reducible refine okept_some ?_
    | with_reducible refine State.onConns_kept (fun _ _ _ => ?_) ?_
    | with_reducible refine State.dbIgnored_kept (cv rfl hks) ?_
    | with_reducible refine State.haltRing_kept (cv rfl hks) ?_
    | with_reducible refine State.setRing_kept (cv rfl hks) ?_
    | dsimp only
    | with_reducible intro _
    | split

theorem execDoorbellStateReq_kept {ks : Nat} {s0 : State} {port : Fin 4} {ring : Fin 4096} {size : Nat} {stray : Bool} {_value : Word} {s : State} (hks : Nat.land ks 150995009 = 150995009) (hk : Kept ks s0 s) : ENext ks s0 (execDoorbellStateReq port ring size stray _value s) := by

  unfold execDoorbellStateReq
  repeat' first
    | with_reducible assumption
    | with_reducible refine enext_mk ?_
    | exact okept_none
    | with_reducible refine okept_some ?_
    | with_reducible refine State.onConns_kept (fun _ _ _ => ?_) ?_
    | with_reducible refine State.dbIgnored_kept (cv rfl hks) ?_
    | with_reducible refine State.writeRecord_kept (cv rfl hks) ?_
    | dsimp only
    | with_reducible intro _
    | split

theorem execDescriptorFetchDone_kept {ks : Nat} {s0 : State} {ring : Fin 4096} {status : ReadStatus} {slots : List (BitVec 512)} {s : State} (hks : Nat.land ks 165681393 = 165681393) (hk : Kept ks s0 s) : ENext ks s0 (execDescriptorFetchDone ring status slots s) := by

  unfold execDescriptorFetchDone
  repeat' first
    | with_reducible assumption
    | with_reducible refine enext_mk ?_
    | exact okept_none
    | with_reducible refine okept_some ?_
    | with_reducible refine State.onConns_kept (fun _ _ _ => ?_) ?_
    | with_reducible refine kept_getD ?_ ?_
    | with_reducible refine State.haltRing_kept (cv rfl hks) ?_
    | with_reducible refine State.setReg_kept (cv rfl hks) ?_
    | with_reducible refine State.setRing_kept (cv rfl hks) ?_
    | with_reducible refine State.setSubs_kept (cv rfl hks) ?_
    | dsimp only
    | with_reducible intro _
    | split

theorem execForwardedDescriptor_kept {ks : Nat} {s0 : State} {ring : Fin 4096} {seq : Word} {s : State} (hks : Nat.land ks 128 = 128) (hk : Kept ks s0 s) : ENext ks s0 (execForwardedDescriptor ring seq s) := by

  unfold execForwardedDescriptor
  repeat' first
    | with_reducible assumption
    | with_reducible refine enext_mk ?_
    | exact okept_none
    | with_reducible refine okept_some ?_
    | with_reducible refine State.onConns_kept (fun _ _ _ => ?_) ?_
    | with_reducible refine State.setSub_kept (cv rfl hks) ?_
    | dsimp only
    | with_reducible intro _
    | split

theorem execAdmissionTimeout_kept {ks : Nat} {s0 : State} {ring : Fin 4096} {s : State} (hks : Nat.land ks 165681393 = 165681393) (hk : Kept ks s0 s) : ENext ks s0 (execAdmissionTimeout ring s) := by

  unfold execAdmissionTimeout
  repeat' first
    | with_reducible assumption
    | with_reducible refine enext_mk ?_
    | exact okept_none
    | with_reducible refine okept_some ?_
    | with_reducible refine State.onConns_kept (fun _ _ _ => ?_) ?_
    | with_reducible refine State.haltRing_kept (cv rfl hks) ?_
    | with_reducible refine State.setSubs_kept (cv rfl hks) ?_
    | dsimp only
    | with_reducible intro _
    | split

theorem execCompletionEntryIssue_kept {ks : Nat} {s0 : State} {ring : Fin 4096} {seq : Word} {s : State} (hks : Nat.land ks 165722353 = 165722353) (hk : Kept ks s0 s) : ENext ks s0 (execCompletionEntryIssue ring seq s) := by

  unfold execCompletionEntryIssue
  repeat' first
    | with_reducible assumption
    | with_reducible refine enext_mk ?_
    | exact okept_none
    | with_reducible refine okept_some ?_
    | with_reducible refine State.onConns_kept (fun _ _ _ => ?_) ?_
    | with_reducible refine State.dueFaults_kept (cv rfl hks) ?_
    | with_reducible refine State.issueEntry_kept (cv rfl hks) ?_
    | with_reducible refine State.lateResult_kept (cv rfl hks) ?_
    | dsimp only
    | with_reducible intro _
    | split

theorem execDeadlineWatch_kept {ks : Nat} {s0 : State} {hdie : Fin 4} {s : State} (hks : Nat.land ks 165722321 = 165722321) (hk : Kept ks s0 s) : ENext ks s0 (execDeadlineWatch hdie s) := by

  unfold execDeadlineWatch
  repeat' first
    | with_reducible assumption
    | with_reducible refine enext_mk ?_
    | exact okept_none
    | with_reducible refine okept_some ?_
    | with_reducible refine State.onConns_kept (fun _ _ _ => ?_) ?_
    | with_reducible refine kept_foldl (fun _ _ _ => ?_) ?_
    | with_reducible refine State.charge_kept (cv rfl hks) ?_

theorem execFlushReadDone_kept {ks : Nat} {s0 : State} {ring : Fin 4096} {seq : Word} {port : Fin 4} {ok : Bool} {s : State} (hks : Nat.land ks 165722833 = 165722833) (hk : Kept ks s0 s) : ENext ks s0 (execFlushReadDone ring seq port ok s) := by

  unfold execFlushReadDone
  repeat' first
    | with_reducible assumption
    | with_reducible refine enext_mk ?_
    | exact okept_none
    | with_reducible refine okept_some ?_
    | with_reducible refine State.onConns_kept (fun _ _ _ => ?_) ?_
    | with_reducible refine State.flushDone_kept (cv rfl hks) ?_

theorem execMsixWindowEnd_kept {ks : Nat} {s0 : State} {ring : Fin 4096} {s : State} (hks : Nat.land ks 96 = 96) (hk : Kept ks s0 s) : ENext ks s0 (execMsixWindowEnd ring s) := by

  unfold execMsixWindowEnd
  repeat' first
    | with_reducible assumption
    | with_reducible refine enext_mk ?_
    | exact okept_none
    | with_reducible refine okept_some ?_
    | with_reducible refine State.onConns_kept (fun _ _ _ => ?_) ?_
    | with_reducible refine State.msix_kept (cv rfl hks) ?_
    | with_reducible refine State.setRing_kept (cv rfl hks) ?_
    | dsimp only
    | with_reducible intro _
    | split

theorem execStateSubmission_kept {ks : Nat} {s0 : State} {ring : Fin 4096} {seq : Word} {s : State} (hks : Nat.land ks 165723857 = 165723857) (hk : Kept ks s0 s) : ENext ks s0 (execStateSubmission ring seq s) := by

  unfold execStateSubmission
  repeat' first
    | with_reducible assumption
    | with_reducible refine enext_mk ?_
    | exact okept_none
    | with_reducible refine okept_some ?_
    | with_reducible refine State.onConns_kept (fun _ _ _ => ?_) ?_
    | with_reducible refine State.finish_kept (cv rfl hks) ?_
    | with_reducible refine State.setSub_kept (cv rfl hks) ?_
    | with_reducible refine State.writeRecord_kept (cv rfl hks) ?_
    | dsimp only
    | with_reducible intro _
    | split

theorem execNopSubmission_kept {ks : Nat} {s0 : State} {ring : Fin 4096} {seq : Word} {s : State} (hks : Nat.land ks 165723857 = 165723857) (hk : Kept ks s0 s) : ENext ks s0 (execNopSubmission ring seq s) := by

  unfold execNopSubmission
  repeat' first
    | with_reducible assumption
    | with_reducible refine enext_mk ?_
    | exact okept_none
    | with_reducible refine okept_some ?_
    | with_reducible refine State.onConns_kept (fun _ _ _ => ?_) ?_
    | with_reducible refine State.finish_kept (cv rfl hks) ?_
    | dsimp only
    | with_reducible intro _
    | split

theorem execRingEnArm_kept {ks : Nat} {s0 : State} {port : Fin 4} {ring : Fin 4096} {w : Word} {s : State} (hks : Nat.land ks 138412257 = 138412257) (hk : Kept ks s0 s) : ENext ks s0 (execRingEnArm port ring w s) := by

  unfold execRingEnArm
  repeat' first
    | with_reducible assumption
    | with_reducible refine enext_mk ?_
    | exact okept_none
    | with_reducible refine okept_some ?_
    | with_reducible refine State.onConns_kept (fun _ _ _ => ?_) ?_
    | with_reducible refine State.writeRingCtrl_kept (cv rfl hks) ?_
    | dsimp only
    | with_reducible intro _
    | split

theorem execRingEnDisarm_kept {ks : Nat} {s0 : State} {port : Fin 4} {ring : Fin 4096} {w : Word} {s : State} (hks : Nat.land ks 138412257 = 138412257) (hk : Kept ks s0 s) : ENext ks s0 (execRingEnDisarm port ring w s) := by

  unfold execRingEnDisarm
  repeat' first
    | with_reducible assumption
    | with_reducible refine enext_mk ?_
    | exact okept_none
    | with_reducible refine okept_some ?_
    | with_reducible refine State.onConns_kept (fun _ _ _ => ?_) ?_
    | with_reducible refine State.writeRingCtrl_kept (cv rfl hks) ?_
    | dsimp only
    | with_reducible intro _
    | split

theorem execRingStateReq_kept {ks : Nat} {s0 : State} {port : Fin 4} {ring : Fin 4096} {w : Word} {s : State} (hks : Nat.land ks 138412257 = 138412257) (hk : Kept ks s0 s) : ENext ks s0 (execRingStateReq port ring w s) := by

  unfold execRingStateReq
  repeat' first
    | with_reducible assumption
    | with_reducible refine enext_mk ?_
    | exact okept_none
    | with_reducible refine okept_some ?_
    | with_reducible refine State.onConns_kept (fun _ _ _ => ?_) ?_
    | with_reducible refine State.writeRingCtrl_kept (cv rfl hks) ?_
    | dsimp only
    | with_reducible intro _
    | split

theorem execHqRingSeqWrite_kept {ks : Nat} {s0 : State} {port : Fin 4} {ring : Fin 4096} {w : Word} {s : State} (hks : Nat.land ks 1 = 1) (hk : Kept ks s0 s) : ENext ks s0 (execHqRingSeqWrite port ring w s) := by

  unfold execHqRingSeqWrite
  repeat' first
    | with_reducible assumption
    | with_reducible refine enext_mk ?_
    | exact okept_none
    | with_reducible refine okept_some ?_
    | with_reducible refine State.onConns_kept (fun _ _ _ => ?_) ?_
    | with_reducible refine State.writeRingSeq_kept (cv rfl hks) ?_
    | dsimp only
    | with_reducible intro _
    | split

theorem execImageLoad_kept {ks : Nat} {s0 : State} {ring : Fin 4096} {seq : Word} {bad : List Blemish} {edges : List EdgeErr} {s : State} (hks : Nat.land ks 166248145 = 166248145) (hk : Kept ks s0 s) : ENext ks s0 (execImageLoad ring seq bad edges s) := by

  unfold execImageLoad
  repeat' first
    | with_reducible assumption
    | with_reducible refine enext_mk ?_
    | exact okept_none
    | with_reducible refine okept_some ?_
    | with_reducible refine State.onConns_kept (fun _ _ _ => ?_) ?_
    | with_reducible refine kept_getD ?_ ?_
    | with_reducible refine State.checkImage_kept (cv rfl hks) ?_
    | with_reducible refine State.endWith_kept (cv rfl hks) ?_
    | with_reducible refine State.finish_kept (cv rfl hks) ?_
    | with_reducible refine State.readOver_kept (cv rfl hks) ?_
    | with_reducible refine State.setPending_kept (cv rfl hks) ?_
    | with_reducible refine State.setSub_kept (cv rfl hks) ?_
    | with_reducible refine kept_pair (by with_reducible assumption) ?_
    | with_reducible refine kept_pair3 (by with_reducible assumption) ?_
    | dsimp only
    | with_reducible intro _
    | split

theorem execAdmissionDecision_kept {ks : Nat} {s0 : State} {ring : Fin 4096} {seq : Word} {list : List Gran} {s : State} (hks : Nat.land ks 166510545 = 166510545) (hk : Kept ks s0 s) : ENext ks s0 (execAdmissionDecision ring seq list s) := by

  unfold execAdmissionDecision
  repeat' first
    | with_reducible assumption
    | with_reducible refine enext_mk ?_
    | exact okept_none
    | with_reducible refine okept_some ?_
    | with_reducible refine State.onConns_kept (fun _ _ _ => ?_) ?_
    | with_reducible refine State.accept_kept (cv rfl hks) ?_
    | with_reducible refine State.devRead_kept (cv rfl hks) ?_
    | with_reducible refine State.readList_kept (cv rfl hks) ?_
    | with_reducible refine State.setSub_kept (cv rfl hks) ?_
    | with_reducible refine kept_pair (by with_reducible assumption) ?_
    | with_reducible refine kept_pair3 (by with_reducible assumption) ?_
    | dsimp only
    | with_reducible intro _
    | split

theorem execSlotStart_kept {ks : Nat} {s0 : State} {part : Fin 64} {cls : Nat} {s : State} (hks : Nat.land ks 165723857 = 165723857) (hk : Kept ks s0 s) : ENext ks s0 (execSlotStart part cls s) := by

  unfold execSlotStart
  repeat' first
    | with_reducible assumption
    | with_reducible refine enext_mk ?_
    | exact okept_none
    | with_reducible refine okept_some ?_
    | with_reducible refine State.onConns_kept (fun _ _ _ => ?_) ?_
    | with_reducible refine State.endInstance_kept (cv rfl hks) ?_
    | with_reducible refine State.setSub_kept (cv rfl hks) ?_
    | dsimp only
    | with_reducible intro _
    | split

theorem execSlipLimit_kept {ks : Nat} {s0 : State} {core : Fin 256} {engine : Fin 6} {phase : Fin 7} {s : State} (hks : Nat.land ks 165722321 = 165722321) (hk : Kept ks s0 s) : ENext ks s0 (execSlipLimit core engine phase s) := by

  unfold execSlipLimit
  repeat' first
    | with_reducible assumption
    | with_reducible refine enext_mk ?_
    | exact okept_none
    | with_reducible refine okept_some ?_
    | with_reducible refine State.onConns_kept (fun _ _ _ => ?_) ?_
    | with_reducible refine State.charge_kept (cv rfl hks) ?_
    | dsimp only
    | with_reducible intro _
    | split

theorem execStepEnd_kept {ks : Nat} {s0 : State} {r : StepRef} {phase : Fin 7} {s : State} (hks : Nat.land ks 232832721 = 232832721) (hk : Kept ks s0 s) : ENext ks s0 (execStepEnd r phase s) := by

  unfold execStepEnd
  repeat' first
    | with_reducible assumption
    | with_reducible refine enext_mk ?_
    | exact okept_none
    | with_reducible refine okept_some ?_
    | with_reducible refine State.onConns_kept (fun _ _ _ => ?_) ?_
    | with_reducible refine State.endInstance_kept (cv rfl hks) ?_
    | with_reducible refine State.endStep_kept (cv rfl hks) ?_
    | with_reducible refine State.judgeSlips_kept (cv rfl hks) ?_
    | dsimp only
    | with_reducible intro _
    | split

theorem execNop_kept {ks : Nat} {s0 : State} {r : OpRef} {phase : Fin 7} {s : State} (hks : Nat.land ks 67119104 = 67119104) (hk : Kept ks s0 s) : ENext ks s0 (execNop r phase s) := by

  unfold execNop
  repeat' first
    | with_reducible assumption
    | with_reducible refine enext_mk ?_
    | exact okept_none
    | with_reducible refine okept_some ?_
    | with_reducible refine State.onConns_kept (fun _ _ _ => ?_) ?_
    | with_reducible refine State.afterCharge_kept (cv rfl hks) ?_
    | with_reducible refine State.holdOp_kept (cv rfl hks) ?_
    | with_reducible refine State.issue_kept (cv rfl hks) ?_
    | with_reducible refine State.setArray_kept (cv rfl hks) ?_
    | dsimp only
    | with_reducible intro _
    | split

theorem execHold_kept {ks : Nat} {s0 : State} {ring : Fin 4096} {seq : Word} {s : State} (hks : Nat.land ks 144 = 144) (hk : Kept ks s0 s) : ENext ks s0 (execHold ring seq s) := by

  unfold execHold
  repeat' first
    | with_reducible assumption
    | with_reducible refine enext_mk ?_
    | exact okept_none
    | with_reducible refine okept_some ?_
    | with_reducible refine State.onConns_kept (fun _ _ _ => ?_) ?_
    | with_reducible refine State.began_kept (cv rfl hks) ?_
    | with_reducible refine State.endWith_kept (cv rfl hks) ?_
    | with_reducible refine State.setPart_kept (cv rfl hks) ?_
    | dsimp only
    | with_reducible intro _
    | split

theorem execHoldLatch_kept {ks : Nat} {s0 : State} {part : Fin 64} {s : State} (hks : Nat.land ks 144 = 144) (hk : Kept ks s0 s) : ENext ks s0 (execHoldLatch part s) := by

  unfold execHoldLatch
  repeat' first
    | with_reducible assumption
    | with_reducible refine enext_mk ?_
    | exact okept_none
    | with_reducible refine okept_some ?_
    | with_reducible refine State.onConns_kept (fun _ _ _ => ?_) ?_
    | with_reducible refine State.setPart_kept (cv rfl hks) ?_
    | with_reducible refine State.setSubs_kept (cv rfl hks) ?_
    | dsimp only
    | with_reducible intro _
    | split

theorem execHeldEntered_kept {ks : Nat} {s0 : State} {part : Fin 64} {s : State} (hks : Nat.land ks 165723857 = 165723857) (hk : Kept ks s0 s) : ENext ks s0 (execHeldEntered part s) := by

  unfold execHeldEntered
  repeat' first
    | with_reducible assumption
    | with_reducible refine enext_mk ?_
    | exact okept_none
    | with_reducible refine okept_some ?_
    | with_reducible refine State.onConns_kept (fun _ _ _ => ?_) ?_
    | with_reducible refine State.failShifted_kept (cv rfl hks) ?_
    | with_reducible refine State.finish_kept (cv rfl hks) ?_
    | with_reducible refine State.setPart_kept (cv rfl hks) ?_
    | dsimp only
    | with_reducible intro _
    | split

theorem execHoldHostReadTimeout_kept {ks : Nat} {s0 : State} {part : Fin 64} {s : State} (hks : Nat.land ks 166706897 = 166706897) (hk : Kept ks s0 s) : ENext ks s0 (execHoldHostReadTimeout part s) := by

  unfold execHoldHostReadTimeout
  repeat' first
    | with_reducible assumption
    | with_reducible refine enext_mk ?_
    | exact okept_none
    | with_reducible refine okept_some ?_
    | with_reducible refine State.onConns_kept (fun _ _ _ => ?_) ?_
    | with_reducible refine kept_foldl (fun _ _ _ => ?_) ?_
    | with_reducible refine State.charge_kept (cv rfl hks) ?_
    | with_reducible refine State.deliver_kept (cv rfl hks) ?_
    | with_reducible refine State.dropRead_kept (cv rfl hks) ?_
    | dsimp only
    | with_reducible intro _
    | split

theorem execResume_kept {ks : Nat} {s0 : State} {ring : Fin 4096} {seq : Word} {s : State} (hks : Nat.land ks 165789649 = 165789649) (hk : Kept ks s0 s) : ENext ks s0 (execResume ring seq s) := by

  unfold execResume
  repeat' first
    | with_reducible assumption
    | with_reducible refine enext_mk ?_
    | exact okept_none
    | with_reducible refine okept_some ?_
    | with_reducible refine State.onConns_kept (fun _ _ _ => ?_) ?_
    | with_reducible refine State.completes_kept (cv rfl hks) ?_
    | with_reducible refine State.endWith_kept (cv rfl hks) ?_
    | with_reducible refine State.resumeAt_kept (cv rfl hks) ?_
    | dsimp only
    | with_reducible intro _
    | split

theorem execResumeAtArrival_kept {ks : Nat} {s0 : State} {part : Fin 64} {s : State} (hks : Nat.land ks 165788113 = 165788113) (hk : Kept ks s0 s) : ENext ks s0 (execResumeAtArrival part s) := by

  unfold execResumeAtArrival
  repeat' first
    | with_reducible assumption
    | with_reducible refine enext_mk ?_
    | exact okept_none
    | with_reducible refine okept_some ?_
    | with_reducible refine State.onConns_kept (fun _ _ _ => ?_) ?_
    | with_reducible refine State.resumeAt_kept (cv rfl hks) ?_
    | dsimp only
    | with_reducible intro _
    | split

theorem execPartitionReset_kept {ks : Nat} {s0 : State} {ring : Fin 4096} {seq : Word} {s : State} (hks : Nat.land ks 144 = 144) (hk : Kept ks s0 s) : ENext ks s0 (execPartitionReset ring seq s) := by

  unfold execPartitionReset
  repeat' first
    | with_reducible assumption
    | with_reducible refine enext_mk ?_
    | exact okept_none
    | with_reducible refine okept_some ?_
    | with_reducible refine State.onConns_kept (fun _ _ _ => ?_) ?_
    | with_reducible refine State.began_kept (cv rfl hks) ?_
    | with_reducible refine State.endWith_kept (cv rfl hks) ?_
    | with_reducible refine State.setPart_kept (cv rfl hks) ?_
    | dsimp only
    | with_reducible intro _
    | split

theorem execPartitionResetFence_kept {ks : Nat} {s0 : State} {part : Fin 64} {s : State} (hks : Nat.land ks 166312145 = 166312145) (hk : Kept ks s0 s) : ENext ks s0 (execPartitionResetFence part s) := by

  unfold execPartitionResetFence
  repeat' first
    | with_reducible assumption
    | with_reducible refine enext_mk ?_
    | exact okept_none
    | with_reducible refine okept_some ?_
    | with_reducible refine State.onConns_kept (fun _ _ _ => ?_) ?_
    | with_reducible refine State.fencePart_kept (cv rfl hks) ?_
    | dsimp only
    | with_reducible intro _
    | split

theorem execPartitionClearEnd_kept {ks : Nat} {s0 : State} {part : Fin 64} {s : State} (hks : Nat.land ks 166592209 = 166592209) (hk : Kept ks s0 s) : ENext ks s0 (execPartitionClearEnd part s) := by

  unfold execPartitionClearEnd
  repeat' first
    | with_reducible assumption
    | with_reducible refine enext_mk ?_
    | exact okept_none
    | with_reducible refine okept_some ?_
    | with_reducible refine State.onConns_kept (fun _ _ _ => ?_) ?_
    | with_reducible apply MemS.foldl_imp
    | with_reducible exact fun c => MemS.Canonical.same c rfl
    | with_reducible refine kept_foldl (fun _ _ _ => ?_) ?_
    | with_reducible refine State.discardUpdates_kept (cv rfl hks) ?_
    | with_reducible refine State.emptyCore_kept (cv rfl hks) ?_
    | with_reducible refine State.finish_kept (cv rfl hks) ?_
    | with_reducible refine State.telReset_kept (cv rfl hks) ?_
    | with_reducible refine State.setGsteps_kept (cv rfl hks) ?_
    | with_reducible refine State.setMem_kept (cv rfl hks) ?_ ?_
    | with_reducible refine State.setPart_kept (cv rfl hks) ?_
    | with_reducible refine State.setSubs_kept (cv rfl hks) ?_
    | dsimp only
    | with_reducible exact fun w => smWf_set _ _ _ _ w
    | with_reducible exact fun w => smWf_map _ _ _ w
    | with_reducible exact fun w => ⟨w.1, smWf_set _ _ _ _ w.2.1, w.2.2⟩
    | with_reducible exact fun w => ⟨smWf_set _ _ _ _ w.1, w.2⟩
    | with_reducible exact fun w => ⟨w.1, smWf_set _ _ _ _ w.2⟩
    | with_reducible exact fun w => ⟨smWf_map _ _ _ w.1, w.2⟩
    | with_reducible exact fun w => ⟨w.1, smWf_set _ _ _ _ w.2⟩
    | exact id
    | dsimp only
    | with_reducible intro _
    | split

theorem execStop_kept {ks : Nat} {s0 : State} {ring : Fin 4096} {seq : Word} {s : State} (hks : Nat.land ks 165723857 = 165723857) (hk : Kept ks s0 s) : ENext ks s0 (execStop ring seq s) := by

  unfold execStop
  repeat' first
    | with_reducible assumption
    | with_reducible refine enext_mk ?_
    | exact okept_none
    | with_reducible refine okept_some ?_
    | with_reducible refine State.onConns_kept (fun _ _ _ => ?_) ?_
    | with_reducible refine State.completes_kept (cv rfl hks) ?_
    | with_reducible refine State.endWith_kept (cv rfl hks) ?_
    | with_reducible refine State.setPending_kept (cv rfl hks) ?_
    | dsimp only
    | with_reducible intro _
    | split

theorem execRepairWithdraw_kept {ks : Nat} {s0 : State} {ring : Fin 4096} {seq : Word} {s : State} (hks : Nat.land ks 165723857 = 165723857) (hk : Kept ks s0 s) : ENext ks s0 (execRepairWithdraw ring seq s) := by

  unfold execRepairWithdraw
  repeat' first
    | with_reducible assumption
    | with_reducible refine enext_mk ?_
    | exact okept_none
    | with_reducible refine okept_some ?_
    | with_reducible refine State.onConns_kept (fun _ _ _ => ?_) ?_
    | with_reducible refine State.completes_kept (cv rfl hks) ?_
    | with_reducible refine State.setArray_kept (cv rfl hks) ?_
    | dsimp only
    | with_reducible intro _
    | split

theorem execRepairReturn_kept {ks : Nat} {s0 : State} {ring : Fin 4096} {seq : Word} {s : State} (hks : Nat.land ks 2176 = 2176) (hk : Kept ks s0 s) : ENext ks s0 (execRepairReturn ring seq s) := by

  unfold execRepairReturn
  repeat' first
    | with_reducible assumption
    | with_reducible refine enext_mk ?_
    | exact okept_none
    | with_reducible refine okept_some ?_
    | with_reducible refine State.onConns_kept (fun _ _ _ => ?_) ?_
    | with_reducible refine State.began_kept (cv rfl hks) ?_
    | with_reducible refine State.setArray_kept (cv rfl hks) ?_
    | dsimp only
    | with_reducible intro _
    | split

theorem execConfirmationSweepEnd_kept {ks : Nat} {s0 : State} {core : Fin 256} {array : Fin 4} {faults : List (Fin 4096 × List CellFault)} {s : State} (hks : Nat.land ks 165723857 = 165723857) (hk : Kept ks s0 s) : ENext ks s0 (execConfirmationSweepEnd core array faults s) := by

  unfold execConfirmationSweepEnd
  repeat' first
    | with_reducible assumption
    | with_reducible refine enext_mk ?_
    | exact okept_none
    | with_reducible refine okept_some ?_
    | with_reducible refine State.onConns_kept (fun _ _ _ => ?_) ?_
    | with_reducible refine kept_getD ?_ ?_
    | with_reducible refine State.bump_kept (cv rfl hks) ?_
    | with_reducible refine State.charge_kept (cv rfl hks) ?_
    | with_reducible refine State.classUnit_kept (cv rfl hks) ?_
    | with_reducible refine State.failSeed_kept (cv rfl hks) ?_
    | with_reducible refine State.finish_kept (cv rfl hks) ?_
    | with_reducible refine State.raise_kept (cv rfl hks) ?_
    | with_reducible refine State.setArea_kept (cv rfl hks) ?_
    | with_reducible refine State.setSub_kept (cv rfl hks) ?_
    | with_reducible refine State.setArray_kept (cv rfl hks) ?_
    | dsimp only
    | with_reducible intro _
    | split

theorem execPartEnable_kept {ks : Nat} {s0 : State} {port : Fin 4} {part : Fin 64} {w : Word} {s : State} (hks : Nat.land ks 17 = 17) (hk : Kept ks s0 s) : ENext ks s0 (execPartEnable port part w s) := by

  unfold execPartEnable
  repeat' first
    | with_reducible assumption
    | with_reducible refine enext_mk ?_
    | exact okept_none
    | with_reducible refine okept_some ?_
    | with_reducible refine State.onConns_kept (fun _ _ _ => ?_) ?_
    | with_reducible refine State.writePartCtrl_kept (cv rfl hks) ?_
    | dsimp only
    | with_reducible intro _
    | split

theorem execPartDisable_kept {ks : Nat} {s0 : State} {port : Fin 4} {part : Fin 64} {w : Word} {s : State} (hks : Nat.land ks 17 = 17) (hk : Kept ks s0 s) : ENext ks s0 (execPartDisable port part w s) := by

  unfold execPartDisable
  repeat' first
    | with_reducible assumption
    | with_reducible refine enext_mk ?_
    | exact okept_none
    | with_reducible refine okept_some ?_
    | with_reducible refine State.onConns_kept (fun _ _ _ => ?_) ?_
    | with_reducible refine State.writePartCtrl_kept (cv rfl hks) ?_
    | dsimp only
    | with_reducible intro _
    | split

theorem execCoreAssign_kept {ks : Nat} {s0 : State} {port : Fin 4} {core : Fin 256} {w : Word} {s : State} (hks : Nat.land ks 4097 = 4097) (hk : Kept ks s0 s) : ENext ks s0 (execCoreAssign port core w s) := by

  unfold execCoreAssign
  repeat' first
    | with_reducible assumption
    | with_reducible refine enext_mk ?_
    | exact okept_none
    | with_reducible refine okept_some ?_
    | with_reducible refine State.onConns_kept (fun _ _ _ => ?_) ?_
    | with_reducible refine State.writeCoreOwn_kept (cv rfl hks) ?_
    | dsimp only
    | with_reducible intro _
    | split

theorem execCoreRelease_kept {ks : Nat} {s0 : State} {port : Fin 4} {core : Fin 256} {w : Word} {s : State} (hks : Nat.land ks 4097 = 4097) (hk : Kept ks s0 s) : ENext ks s0 (execCoreRelease port core w s) := by

  unfold execCoreRelease
  repeat' first
    | with_reducible assumption
    | with_reducible refine enext_mk ?_
    | exact okept_none
    | with_reducible refine okept_some ?_
    | with_reducible refine State.onConns_kept (fun _ _ _ => ?_) ?_
    | with_reducible refine State.writeCoreOwn_kept (cv rfl hks) ?_
    | dsimp only
    | with_reducible intro _
    | split

theorem execCoreClearDone_kept {ks : Nat} {s0 : State} {core : Fin 256} {s : State} (hks : Nat.land ks 555008 = 555008) (hk : Kept ks s0 s) : ENext ks s0 (execCoreClearDone core s) := by

  unfold execCoreClearDone
  repeat' first
    | with_reducible assumption
    | with_reducible refine enext_mk ?_
    | exact okept_none
    | with_reducible refine okept_some ?_
    | with_reducible refine State.onConns_kept (fun _ _ _ => ?_) ?_
    | with_reducible refine State.clearCore_kept (cv rfl hks) ?_
    | with_reducible refine State.setCore_kept (cv rfl hks) ?_
    | dsimp only
    | with_reducible intro _
    | split

end Sys2Proof.Machine
end

