-- ==== Sys2Proof/Laws/ExecTime.lean ====
section
/-! SUPPORT. Each command of Machine/Time, Machine/Saddle answers a next state, and what it keeps. -/

namespace Sys2Proof.Machine

open Sys2Proof Host

theorem execTimeBeacon_kept {ks : Nat} {s0 : State} {die : Fin 64} {own : BitVec 64} {s : State} (hks : Nat.land ks 165681241 = 165681241) (hk : Kept ks s0 s) : ENext ks s0 (execTimeBeacon die own s) := by

  unfold execTimeBeacon
  repeat' first
    | with_reducible assumption
    | with_reducible refine enext_mk ?_
    | exact okept_none
    | with_reducible refine okept_some ?_
    | with_reducible refine State.onConns_kept (fun _ _ _ => ?_) ?_
    | with_reducible refine State.bump_kept (cv rfl hks) ?_
    | with_reducible refine State.classUnit_kept (cv rfl hks) ?_
    | with_reducible refine State.setArea_kept (cv rfl hks) ?_
    | with_reducible refine State.setTime_kept (cv rfl hks) ?_ ?_
    | dsimp only
    | with_reducible exact fun w => smWf_set _ _ _ _ w
    | with_reducible exact fun w => smWf_map _ _ _ w
    | with_reducible exact fun w => ⟨w.1, smWf_set _ _ _ _ w.2.1, w.2.2⟩
    | with_reducible exact fun w => ⟨smWf_set _ _ _ _ w.1, w.2⟩
    | with_reducible exact fun w => ⟨w.1, smWf_set _ _ _ _ w.2⟩
    | with_reducible exact fun w => ⟨smWf_map _ _ _ w.1, w.2⟩
    | with_reducible exact fun w => ⟨w.1, smWf_set _ _ _ _ w.2⟩
    | exact id
    | dsimp only
    | with_reducible intro _
    | split

theorem execPpsEdge_kept {ks : Nat} {s0 : State} {offset : Int} {s : State} (hks : Nat.land ks 166247417 = 166247417) (hk : Kept ks s0 s) : ENext ks s0 (execPpsEdge offset s) := by

  unfold execPpsEdge
  repeat' first
    | with_reducible assumption
    | with_reducible refine enext_mk ?_
    | exact okept_none
    | with_reducible refine okept_some ?_
    | with_reducible refine State.onConns_kept (fun _ _ _ => ?_) ?_
    | with_reducible refine State.judgeLoad_kept (cv rfl hks) ?_
    | with_reducible refine State.strayEdge_kept (cv rfl hks) ?_
    | with_reducible refine State.takeEdge_kept (cv rfl hks) ?_
    | dsimp only
    | with_reducible intro _
    | split

theorem execPpsLost_kept {ks : Nat} {s0 : State} {s : State} (hks : Nat.land ks 166247417 = 166247417) (hk : Kept ks s0 s) : ENext ks s0 (execPpsLost s) := by

  unfold execPpsLost
  repeat' first
    | with_reducible assumption
    | with_reducible refine enext_mk ?_
    | exact okept_none
    | with_reducible refine okept_some ?_
    | with_reducible refine State.onConns_kept (fun _ _ _ => ?_) ?_
    | with_reducible refine State.resource_kept (cv rfl hks) ?_
    | with_reducible refine State.setBit_kept (cv rfl hks) ?_
    | with_reducible refine State.setTime_kept (cv rfl hks) ?_ ?_
    | dsimp only
    | with_reducible exact fun w => smWf_set _ _ _ _ w
    | with_reducible exact fun w => smWf_map _ _ _ w
    | with_reducible exact fun w => ⟨w.1, smWf_set _ _ _ _ w.2.1, w.2.2⟩
    | with_reducible exact fun w => ⟨smWf_set _ _ _ _ w.1, w.2⟩
    | with_reducible exact fun w => ⟨w.1, smWf_set _ _ _ _ w.2⟩
    | with_reducible exact fun w => ⟨smWf_map _ _ _ w.1, w.2⟩
    | with_reducible exact fun w => ⟨w.1, smWf_set _ _ _ _ w.2⟩
    | exact id
    | dsimp only
    | with_reducible intro _
    | split

theorem execTrefLost_kept {ks : Nat} {s0 : State} {s : State} (hks : Nat.land ks 166247417 = 166247417) (hk : Kept ks s0 s) : ENext ks s0 (execTrefLost s) := by

  unfold execTrefLost
  repeat' first
    | with_reducible assumption
    | with_reducible refine enext_mk ?_
    | exact okept_none
    | with_reducible refine okept_some ?_
    | with_reducible refine State.onConns_kept (fun _ _ _ => ?_) ?_
    | with_reducible refine State.resource_kept (cv rfl hks) ?_
    | with_reducible refine State.setBit_kept (cv rfl hks) ?_
    | with_reducible refine State.setTime_kept (cv rfl hks) ?_ ?_
    | dsimp only
    | with_reducible exact fun w => smWf_set _ _ _ _ w
    | with_reducible exact fun w => smWf_map _ _ _ w
    | with_reducible exact fun w => ⟨w.1, smWf_set _ _ _ _ w.2.1, w.2.2⟩
    | with_reducible exact fun w => ⟨smWf_set _ _ _ _ w.1, w.2⟩
    | with_reducible exact fun w => ⟨w.1, smWf_set _ _ _ _ w.2⟩
    | with_reducible exact fun w => ⟨smWf_map _ _ _ w.1, w.2⟩
    | with_reducible exact fun w => ⟨w.1, smWf_set _ _ _ _ w.2⟩
    | exact id
    | dsimp only
    | with_reducible intro _
    | split

theorem execTrefPresent_kept {ks : Nat} {s0 : State} {s : State} (hks : Nat.land ks 166247417 = 166247417) (hk : Kept ks s0 s) : ENext ks s0 (execTrefPresent s) := by

  unfold execTrefPresent
  repeat' first
    | with_reducible assumption
    | with_reducible refine enext_mk ?_
    | exact okept_none
    | with_reducible refine okept_some ?_
    | with_reducible refine State.onConns_kept (fun _ _ _ => ?_) ?_
    | with_reducible refine State.resource_kept (cv rfl hks) ?_
    | with_reducible refine State.setTime_kept (cv rfl hks) ?_ ?_
    | dsimp only
    | with_reducible exact fun w => smWf_set _ _ _ _ w
    | with_reducible exact fun w => smWf_map _ _ _ w
    | with_reducible exact fun w => ⟨w.1, smWf_set _ _ _ _ w.2.1, w.2.2⟩
    | with_reducible exact fun w => ⟨smWf_set _ _ _ _ w.1, w.2⟩
    | with_reducible exact fun w => ⟨w.1, smWf_set _ _ _ _ w.2⟩
    | with_reducible exact fun w => ⟨smWf_map _ _ _ w.1, w.2⟩
    | with_reducible exact fun w => ⟨Nat.mod_lt _ (by decide), w.2⟩
    | with_reducible exact fun w => ⟨w.1, smWf_set _ _ _ _ w.2⟩
    | exact id

theorem execPtpSyncReceived_kept {ks : Nat} {s0 : State} {port : Fin 64} {domain : Fin 128} {twoStep : Bool} {sec nsec : Nat} {offset : Int} {s : State} (hks : Nat.land ks 166247417 = 166247417) (hk : Kept ks s0 s) : ENext ks s0 (execPtpSyncReceived port domain twoStep sec nsec offset s) := by

  unfold execPtpSyncReceived
  repeat' first
    | with_reducible assumption
    | with_reducible refine enext_mk ?_
    | exact okept_none
    | with_reducible refine okept_some ?_
    | with_reducible refine State.onConns_kept (fun _ _ _ => ?_) ?_
    | with_reducible refine State.estimate_kept (cv rfl hks) ?_
    | with_reducible refine State.setOnce_kept (cv rfl hks) ?_
    | with_reducible refine State.setTime_kept (cv rfl hks) ?_ ?_
    | dsimp only
    | with_reducible exact fun w => smWf_set _ _ _ _ w
    | with_reducible exact fun w => smWf_map _ _ _ w
    | with_reducible exact fun w => ⟨w.1, smWf_set _ _ _ _ w.2.1, w.2.2⟩
    | with_reducible exact fun w => ⟨smWf_set _ _ _ _ w.1, w.2⟩
    | with_reducible exact fun w => ⟨w.1, smWf_set _ _ _ _ w.2⟩
    | with_reducible exact fun w => ⟨smWf_map _ _ _ w.1, w.2⟩
    | with_reducible exact fun w => ⟨Nat.mod_lt _ (by decide), w.2⟩
    | with_reducible exact fun w => ⟨w.1, smWf_set _ _ _ _ w.2⟩
    | exact id
    | dsimp only
    | with_reducible intro _
    | split

theorem execFollowUpReceived_kept {ks : Nat} {s0 : State} {port : Fin 64} {domain : Fin 128} {sec nsec : Nat} {offset : Int} {s : State} (hks : Nat.land ks 166247417 = 166247417) (hk : Kept ks s0 s) : ENext ks s0 (execFollowUpReceived port domain sec nsec offset s) := by

  unfold execFollowUpReceived
  repeat' first
    | with_reducible assumption
    | with_reducible refine enext_mk ?_
    | exact okept_none
    | with_reducible refine okept_some ?_
    | with_reducible refine State.onConns_kept (fun _ _ _ => ?_) ?_
    | with_reducible refine State.estimate_kept (cv rfl hks) ?_
    | with_reducible refine State.setOnce_kept (cv rfl hks) ?_
    | with_reducible refine State.setTime_kept (cv rfl hks) ?_ ?_
    | dsimp only
    | with_reducible exact fun w => smWf_set _ _ _ _ w
    | with_reducible exact fun w => smWf_map _ _ _ w
    | with_reducible exact fun w => ⟨w.1, smWf_set _ _ _ _ w.2.1, w.2.2⟩
    | with_reducible exact fun w => ⟨smWf_set _ _ _ _ w.1, w.2⟩
    | with_reducible exact fun w => ⟨w.1, smWf_set _ _ _ _ w.2⟩
    | with_reducible exact fun w => ⟨smWf_map _ _ _ w.1, w.2⟩
    | with_reducible exact fun w => ⟨Nat.mod_lt _ (by decide), w.2⟩
    | with_reducible exact fun w => ⟨w.1, smWf_set _ _ _ _ w.2⟩
    | exact id
    | dsimp only
    | with_reducible intro _
    | split

theorem execPtpSyncSend_kept {ks : Nat} {s0 : State} {s : State} (hks : Nat.land ks 134217736 = 134217736) (hk : Kept ks s0 s) : ENext ks s0 (execPtpSyncSend s) := by

  unfold execPtpSyncSend
  repeat' first
    | with_reducible assumption
    | with_reducible refine enext_mk ?_
    | exact okept_none
    | with_reducible refine okept_some ?_
    | with_reducible refine State.onConns_kept (fun _ _ _ => ?_) ?_
    | with_reducible refine kept_foldl (fun _ _ _ => ?_) ?_
    | with_reducible refine State.emit_kept (cv rfl hks) ?_
    | with_reducible refine State.setTime_kept (cv rfl hks) ?_ ?_
    | dsimp only
    | with_reducible exact fun w => smWf_set _ _ _ _ w
    | with_reducible exact fun w => smWf_map _ _ _ w
    | with_reducible exact fun w => ⟨w.1, smWf_set _ _ _ _ w.2.1, w.2.2⟩
    | with_reducible exact fun w => ⟨smWf_set _ _ _ _ w.1, w.2⟩
    | with_reducible exact fun w => ⟨w.1, smWf_set _ _ _ _ w.2⟩
    | with_reducible exact fun w => ⟨smWf_map _ _ _ w.1, w.2⟩
    | with_reducible exact fun w => ⟨Nat.mod_lt _ (by decide), w.2⟩
    | with_reducible exact fun w => ⟨w.1, smWf_set _ _ _ _ w.2⟩
    | exact id
    | dsimp only
    | with_reducible intro _
    | split

theorem execAnnounceSend_kept {ks : Nat} {s0 : State} {s : State} (hks : Nat.land ks 134217736 = 134217736) (hk : Kept ks s0 s) : ENext ks s0 (execAnnounceSend s) := by

  unfold execAnnounceSend
  repeat' first
    | with_reducible assumption
    | with_reducible refine enext_mk ?_
    | exact okept_none
    | with_reducible refine okept_some ?_
    | with_reducible refine State.onConns_kept (fun _ _ _ => ?_) ?_
    | with_reducible refine kept_foldl (fun _ _ _ => ?_) ?_
    | with_reducible refine State.emit_kept (cv rfl hks) ?_
    | with_reducible refine State.setTime_kept (cv rfl hks) ?_ ?_
    | dsimp only
    | with_reducible exact fun w => smWf_set _ _ _ _ w
    | with_reducible exact fun w => smWf_map _ _ _ w
    | with_reducible exact fun w => ⟨w.1, smWf_set _ _ _ _ w.2.1, w.2.2⟩
    | with_reducible exact fun w => ⟨smWf_set _ _ _ _ w.1, w.2⟩
    | with_reducible exact fun w => ⟨w.1, smWf_set _ _ _ _ w.2⟩
    | with_reducible exact fun w => ⟨smWf_map _ _ _ w.1, w.2⟩
    | with_reducible exact fun w => ⟨Nat.mod_lt _ (by decide), w.2⟩
    | with_reducible exact fun w => ⟨w.1, smWf_set _ _ _ _ w.2⟩
    | exact id
    | dsimp only
    | with_reducible intro _
    | split

theorem execAnnounceReceived_kept {ks : Nat} {s0 : State} {port : Fin 64} {domain : Fin 128} {ds : PtpDataset} {s : State} (hks : Nat.land ks 166247417 = 166247417) (hk : Kept ks s0 s) : ENext ks s0 (execAnnounceReceived port domain ds s) := by

  unfold execAnnounceReceived
  repeat' first
    | with_reducible assumption
    | with_reducible refine enext_mk ?_
    | exact okept_none
    | with_reducible refine okept_some ?_
    | with_reducible refine State.onConns_kept (fun _ _ _ => ?_) ?_
    | with_reducible refine State.resource_kept (cv rfl hks) ?_
    | with_reducible refine State.setTime_kept (cv rfl hks) ?_ ?_
    | dsimp only
    | with_reducible exact fun w => smWf_set _ _ _ _ w
    | with_reducible exact fun w => smWf_map _ _ _ w
    | with_reducible exact fun w => ⟨w.1, smWf_set _ _ _ _ w.2.1, w.2.2⟩
    | with_reducible exact fun w => ⟨smWf_set _ _ _ _ w.1, w.2⟩
    | with_reducible exact fun w => ⟨w.1, smWf_set _ _ _ _ w.2⟩
    | with_reducible exact fun w => ⟨smWf_map _ _ _ w.1, w.2⟩
    | with_reducible exact fun w => ⟨Nat.mod_lt _ (by decide), w.2⟩
    | with_reducible exact fun w => ⟨w.1, smWf_set _ _ _ _ w.2⟩
    | exact id
    | dsimp only
    | with_reducible intro _
    | split

theorem execAnnounceTimeout_kept {ks : Nat} {s0 : State} {port : Fin 64} {s : State} (hks : Nat.land ks 166247417 = 166247417) (hk : Kept ks s0 s) : ENext ks s0 (execAnnounceTimeout port s) := by

  unfold execAnnounceTimeout
  repeat' first
    | with_reducible assumption
    | with_reducible refine enext_mk ?_
    | exact okept_none
    | with_reducible refine okept_some ?_
    | with_reducible refine State.onConns_kept (fun _ _ _ => ?_) ?_
    | with_reducible refine State.resource_kept (cv rfl hks) ?_
    | with_reducible refine State.setTime_kept (cv rfl hks) ?_ ?_
    | dsimp only
    | with_reducible exact fun w => smWf_set _ _ _ _ w
    | with_reducible exact fun w => smWf_map _ _ _ w
    | with_reducible exact fun w => ⟨w.1, smWf_set _ _ _ _ w.2.1, w.2.2⟩
    | with_reducible exact fun w => ⟨smWf_set _ _ _ _ w.1, w.2⟩
    | with_reducible exact fun w => ⟨w.1, smWf_set _ _ _ _ w.2⟩
    | with_reducible exact fun w => ⟨smWf_map _ _ _ w.1, w.2⟩
    | with_reducible exact fun w => ⟨Nat.mod_lt _ (by decide), w.2⟩
    | with_reducible exact fun w => ⟨w.1, smWf_set _ _ _ _ w.2⟩
    | exact id
    | dsimp only
    | with_reducible intro _
    | split

theorem execHoldoverBoundExceeded_kept {ks : Nat} {s0 : State} {s : State} (hks : Nat.land ks 166247417 = 166247417) (hk : Kept ks s0 s) : ENext ks s0 (execHoldoverBoundExceeded s) := by

  unfold execHoldoverBoundExceeded
  repeat' first
    | with_reducible assumption
    | with_reducible refine enext_mk ?_
    | exact okept_none
    | with_reducible refine okept_some ?_
    | with_reducible refine State.onConns_kept (fun _ _ _ => ?_) ?_
    | with_reducible refine State.enter_kept (cv rfl hks) ?_
    | with_reducible refine State.sourcePresent_kept (cv rfl hks) ?_
    | dsimp only
    | with_reducible intro _
    | split

theorem execTimeStep_kept {ks : Nat} {s0 : State} {s : State} (hks : Nat.land ks 166247417 = 166247417) (hk : Kept ks s0 s) : ENext ks s0 (execTimeStep s) := by

  unfold execTimeStep
  repeat' first
    | with_reducible assumption
    | with_reducible refine enext_mk ?_
    | exact okept_none
    | with_reducible refine okept_some ?_
    | with_reducible refine State.onConns_kept (fun _ _ _ => ?_) ?_
    | with_reducible refine State.enter_kept (cv rfl hks) ?_
    | with_reducible refine State.movePending_kept (cv rfl hks) ?_
    | with_reducible refine State.setBit_kept (cv rfl hks) ?_
    | with_reducible refine State.setNow_kept (cv rfl hks) (Nat.mod_lt _ (by decide)) ?_
    | with_reducible refine State.setTime_kept (cv rfl hks) ?_ ?_
    | dsimp only
    | with_reducible exact fun w => smWf_set _ _ _ _ w
    | with_reducible exact fun w => smWf_map _ _ _ w
    | with_reducible exact fun w => ⟨w.1, smWf_set _ _ _ _ w.2.1, w.2.2⟩
    | with_reducible exact fun w => ⟨smWf_set _ _ _ _ w.1, w.2⟩
    | with_reducible exact fun w => ⟨w.1, smWf_set _ _ _ _ w.2⟩
    | with_reducible exact fun w => ⟨smWf_map _ _ _ w.1, w.2⟩
    | with_reducible exact fun w => ⟨Nat.mod_lt _ (by decide), w.2⟩
    | with_reducible exact fun w => ⟨w.1, smWf_set _ _ _ _ w.2⟩
    | exact id
    | dsimp only
    | with_reducible intro _
    | split

theorem execTimeDieFailure_kept {ks : Nat} {s0 : State} {s : State} (hks : Nat.land ks 165722329 = 165722329) (hk : Kept ks s0 s) : ENext ks s0 (execTimeDieFailure s) := by

  unfold execTimeDieFailure
  repeat' first
    | with_reducible assumption
    | with_reducible refine enext_mk ?_
    | exact okept_none
    | with_reducible refine okept_some ?_
    | with_reducible refine State.onConns_kept (fun _ _ _ => ?_) ?_
    | with_reducible refine State.timeDieFails_kept (cv rfl hks) ?_
    | dsimp only
    | with_reducible intro _
    | split

theorem execTimSrcWrite_kept {ks : Nat} {s0 : State} {port : Fin 4} {w : Word} {s : State} (hks : Nat.land ks 165722329 = 165722329) (hk : Kept ks s0 s) : ENext ks s0 (execTimSrcWrite port w s) := by

  unfold execTimSrcWrite
  repeat' first
    | with_reducible assumption
    | with_reducible refine enext_mk ?_
    | exact okept_none
    | with_reducible refine okept_some ?_
    | with_reducible refine State.onConns_kept (fun _ _ _ => ?_) ?_
    | with_reducible refine State.writeTimCtrl_kept (cv rfl hks) ?_
    | dsimp only
    | with_reducible intro _
    | split

theorem execPpsArm_kept {ks : Nat} {s0 : State} {port : Fin 4} {w : Word} {s : State} (hks : Nat.land ks 165722329 = 165722329) (hk : Kept ks s0 s) : ENext ks s0 (execPpsArm port w s) := by

  unfold execPpsArm
  repeat' first
    | with_reducible assumption
    | with_reducible refine enext_mk ?_
    | exact okept_none
    | with_reducible refine okept_some ?_
    | with_reducible refine State.onConns_kept (fun _ _ _ => ?_) ?_
    | with_reducible refine State.writeTimCtrl_kept (cv rfl hks) ?_
    | dsimp only
    | with_reducible intro _
    | split

theorem execTimHoldRateWrite_kept {ks : Nat} {s0 : State} {port : Fin 4} {w : Word} {s : State} (hks : Nat.land ks 1 = 1) (hk : Kept ks s0 s) : ENext ks s0 (execTimHoldRateWrite port w s) := by

  unfold execTimHoldRateWrite
  repeat' first
    | with_reducible assumption
    | with_reducible refine enext_mk ?_
    | exact okept_none
    | with_reducible refine okept_some ?_
    | with_reducible refine State.onConns_kept (fun _ _ _ => ?_) ?_
    | with_reducible refine State.putRw_kept (cv rfl hks) ?_
    | dsimp only
    | with_reducible intro _
    | split

theorem execTickLost_kept {ks : Nat} {s0 : State} {s : State} (hks : Nat.land ks 165722329 = 165722329) (hk : Kept ks s0 s) : ENext ks s0 (execTickLost s) := by

  unfold execTickLost
  repeat' first
    | with_reducible assumption
    | with_reducible refine enext_mk ?_
    | exact okept_none
    | with_reducible refine okept_some ?_
    | with_reducible refine State.onConns_kept (fun _ _ _ => ?_) ?_
    | with_reducible refine State.enter_kept (cv rfl hks) ?_
    | with_reducible refine State.setBit_kept (cv rfl hks) ?_
    | with_reducible refine State.setTime_kept (cv rfl hks) ?_ ?_
    | dsimp only
    | with_reducible exact fun w => smWf_set _ _ _ _ w
    | with_reducible exact fun w => smWf_map _ _ _ w
    | with_reducible exact fun w => ⟨w.1, smWf_set _ _ _ _ w.2.1, w.2.2⟩
    | with_reducible exact fun w => ⟨smWf_set _ _ _ _ w.1, w.2⟩
    | with_reducible exact fun w => ⟨w.1, smWf_set _ _ _ _ w.2⟩
    | with_reducible exact fun w => ⟨smWf_map _ _ _ w.1, w.2⟩
    | with_reducible exact fun w => ⟨w.1, smWf_set _ _ _ _ w.2⟩
    | exact id
    | dsimp only
    | with_reducible intro _
    | split

theorem execTickReturn_kept {ks : Nat} {s0 : State} {s : State} (hks : Nat.land ks 166247417 = 166247417) (hk : Kept ks s0 s) : ENext ks s0 (execTickReturn s) := by

  unfold execTickReturn
  repeat' first
    | with_reducible assumption
    | with_reducible refine enext_mk ?_
    | exact okept_none
    | with_reducible refine okept_some ?_
    | with_reducible refine State.onConns_kept (fun _ _ _ => ?_) ?_
    | with_reducible refine State.sourcePresent_kept (cv rfl hks) ?_
    | with_reducible refine State.setTime_kept (cv rfl hks) ?_ ?_
    | dsimp only
    | with_reducible exact fun w => smWf_set _ _ _ _ w
    | with_reducible exact fun w => smWf_map _ _ _ w
    | with_reducible exact fun w => ⟨w.1, smWf_set _ _ _ _ w.2.1, w.2.2⟩
    | with_reducible exact fun w => ⟨smWf_set _ _ _ _ w.1, w.2⟩
    | with_reducible exact fun w => ⟨w.1, smWf_set _ _ _ _ w.2⟩
    | with_reducible exact fun w => ⟨smWf_map _ _ _ w.1, w.2⟩
    | with_reducible exact fun w => ⟨Nat.mod_lt _ (by decide), w.2⟩
    | with_reducible exact fun w => ⟨w.1, smWf_set _ _ _ _ w.2⟩
    | exact id
    | dsimp only
    | with_reducible intro _
    | split

theorem execSaddle_kept {ks : Nat} {s0 : State} {readings : List (Nat × Int)} {volt : BitVec 10} {curr : BitVec 10} {power : BitVec 12} {s : State} (hks : Nat.land ks 166510585 = 166510585) (hk : Kept ks s0 s) : ENext ks s0 (execSaddle readings volt curr power s) := by

  unfold execSaddle
  repeat' first
    | with_reducible assumption
    | with_reducible refine enext_mk ?_
    | exact okept_none
    | with_reducible refine okept_some ?_
    | with_reducible refine State.onConns_kept (fun _ _ _ => ?_) ?_
    | with_reducible refine kept_foldl (fun _ _ _ => ?_) ?_
    | with_reducible refine State.ageCache_kept (cv rfl hks) ?_
    | with_reducible refine State.eye_kept (cv rfl hks) ?_
    | with_reducible refine State.fixStep_kept (cv rfl hks) ?_
    | with_reducible refine State.readings_kept (cv rfl hks) ?_
    | with_reducible refine State.rejoin_kept (cv rfl hks) ?_
    | with_reducible refine State.saddleUnits_kept (cv rfl hks) ?_
    | with_reducible refine State.saddleUpdates_kept (cv rfl hks) ?_
    | with_reducible refine State.sendBeacons_kept (cv rfl hks) ?_
    | with_reducible refine State.startGdie_kept (cv rfl hks) ?_
    | with_reducible refine State.switchImage_kept (cv rfl hks) ?_
    | with_reducible refine State.takeSource_kept (cv rfl hks) ?_
    | with_reducible refine State.writeRecord_kept (cv rfl hks) ?_
    | with_reducible refine State.setReg_kept (cv rfl hks) ?_
    | with_reducible refine State.setTime_kept (cv rfl hks) ?_ ?_
    | dsimp only
    | with_reducible exact fun w => smWf_set _ _ _ _ w
    | with_reducible exact fun w => smWf_map _ _ _ w
    | with_reducible exact fun w => ⟨w.1, smWf_set _ _ _ _ w.2.1, w.2.2⟩
    | with_reducible exact fun w => ⟨smWf_set _ _ _ _ w.1, w.2⟩
    | with_reducible exact fun w => ⟨w.1, smWf_set _ _ _ _ w.2⟩
    | with_reducible exact fun w => ⟨smWf_map _ _ _ w.1, w.2⟩
    | with_reducible exact fun w => ⟨Nat.mod_lt _ (by decide), w.2⟩
    | with_reducible exact fun w => ⟨w.1, smWf_set _ _ _ _ w.2⟩
    | exact id
    | dsimp only
    | with_reducible intro _
    | split

end Sys2Proof.Machine
end

