-- ==== Sys2Proof/Laws/State.lean ====
section
/-! SUPPORT. What each update of the state leaves and what it sets: one lemma a field and update, true by unfolding. -/

namespace Sys2Proof.Machine

/-! ## setTime -/

@[simp] theorem State.setTime_regs (s : State) (x : TimeS) : (s.setTime x).regs = s.regs := rfl
@[simp] theorem State.setTime_latches (s : State) (x : TimeS) : (s.setTime x).latches = s.latches := rfl
@[simp] theorem State.setTime_locks (s : State) (x : TimeS) : (s.setTime x).locks = s.locks := rfl
@[simp] theorem State.setTime_time (s : State) (x : TimeS) : (s.setTime x).time = x := rfl
@[simp] theorem State.setTime_parts (s : State) (x : TimeS) : (s.setTime x).parts = s.parts := rfl
@[simp] theorem State.setTime_rings (s : State) (x : TimeS) : (s.setTime x).rings = s.rings := rfl
@[simp] theorem State.setTime_ports (s : State) (x : TimeS) : (s.setTime x).ports = s.ports := rfl
@[simp] theorem State.setTime_subs (s : State) (x : TimeS) : (s.setTime x).subs = s.subs := rfl
@[simp] theorem State.setTime_slots (s : State) (x : TimeS) : (s.setTime x).slots = s.slots := rfl
@[simp] theorem State.setTime_reads (s : State) (x : TimeS) : (s.setTime x).reads = s.reads := rfl
@[simp] theorem State.setTime_nextId (s : State) (x : TimeS) : (s.setTime x).nextId = s.nextId := rfl
@[simp] theorem State.setTime_arrays (s : State) (x : TimeS) : (s.setTime x).arrays = s.arrays := rfl
@[simp] theorem State.setTime_cores (s : State) (x : TimeS) : (s.setTime x).cores = s.cores := rfl
@[simp] theorem State.setTime_engines (s : State) (x : TimeS) : (s.setTime x).engines = s.engines := rfl
@[simp] theorem State.setTime_books (s : State) (x : TimeS) : (s.setTime x).books = s.books := rfl
@[simp] theorem State.setTime_xfers (s : State) (x : TimeS) : (s.setTime x).xfers = s.xfers := rfl
@[simp] theorem State.setTime_gsteps (s : State) (x : TimeS) : (s.setTime x).gsteps = s.gsteps := rfl
@[simp] theorem State.setTime_usteps (s : State) (x : TimeS) : (s.setTime x).usteps = s.usteps := rfl
@[simp] theorem State.setTime_upd (s : State) (x : TimeS) : (s.setTime x).upd = s.upd := rfl
@[simp] theorem State.setTime_mem (s : State) (x : TimeS) : (s.setTime x).mem = s.mem := rfl
@[simp] theorem State.setTime_xlt (s : State) (x : TimeS) : (s.setTime x).xlt = s.xlt := rfl
@[simp] theorem State.setTime_fab (s : State) (x : TimeS) : (s.setTime x).fab = s.fab := rfl
@[simp] theorem State.setTime_err (s : State) (x : TimeS) : (s.setTime x).err = s.err := rfl
@[simp] theorem State.setTime_boot (s : State) (x : TimeS) : (s.setTime x).boot = s.boot := rfl
@[simp] theorem State.setTime_hlt (s : State) (x : TimeS) : (s.setTime x).hlt = s.hlt := rfl
@[simp] theorem State.setTime_pwr (s : State) (x : TimeS) : (s.setTime x).pwr = s.pwr := rfl
@[simp] theorem State.setTime_notes (s : State) (x : TimeS) : (s.setTime x).notes = s.notes := rfl
@[simp] theorem State.setTime_out (s : State) (x : TimeS) : (s.setTime x).out = s.out := rfl
@[simp] theorem State.setTime_free (s : State) (x : TimeS) : (s.setTime x).free = s.free := rfl
@[simp] theorem State.setTime_pending (s : State) (x : TimeS) : (s.setTime x).pending = s.pending := rfl

/-! ## setUpd -/

@[simp] theorem State.setUpd_regs (s : State) (x : UpdS) : (s.setUpd x).regs = s.regs := rfl
@[simp] theorem State.setUpd_latches (s : State) (x : UpdS) : (s.setUpd x).latches = s.latches := rfl
@[simp] theorem State.setUpd_locks (s : State) (x : UpdS) : (s.setUpd x).locks = s.locks := rfl
@[simp] theorem State.setUpd_time (s : State) (x : UpdS) : (s.setUpd x).time = s.time := rfl
@[simp] theorem State.setUpd_parts (s : State) (x : UpdS) : (s.setUpd x).parts = s.parts := rfl
@[simp] theorem State.setUpd_rings (s : State) (x : UpdS) : (s.setUpd x).rings = s.rings := rfl
@[simp] theorem State.setUpd_ports (s : State) (x : UpdS) : (s.setUpd x).ports = s.ports := rfl
@[simp] theorem State.setUpd_subs (s : State) (x : UpdS) : (s.setUpd x).subs = s.subs := rfl
@[simp] theorem State.setUpd_slots (s : State) (x : UpdS) : (s.setUpd x).slots = s.slots := rfl
@[simp] theorem State.setUpd_reads (s : State) (x : UpdS) : (s.setUpd x).reads = s.reads := rfl
@[simp] theorem State.setUpd_nextId (s : State) (x : UpdS) : (s.setUpd x).nextId = s.nextId := rfl
@[simp] theorem State.setUpd_arrays (s : State) (x : UpdS) : (s.setUpd x).arrays = s.arrays := rfl
@[simp] theorem State.setUpd_cores (s : State) (x : UpdS) : (s.setUpd x).cores = s.cores := rfl
@[simp] theorem State.setUpd_engines (s : State) (x : UpdS) : (s.setUpd x).engines = s.engines := rfl
@[simp] theorem State.setUpd_books (s : State) (x : UpdS) : (s.setUpd x).books = s.books := rfl
@[simp] theorem State.setUpd_xfers (s : State) (x : UpdS) : (s.setUpd x).xfers = s.xfers := rfl
@[simp] theorem State.setUpd_gsteps (s : State) (x : UpdS) : (s.setUpd x).gsteps = s.gsteps := rfl
@[simp] theorem State.setUpd_usteps (s : State) (x : UpdS) : (s.setUpd x).usteps = s.usteps := rfl
@[simp] theorem State.setUpd_upd (s : State) (x : UpdS) : (s.setUpd x).upd = x := rfl
@[simp] theorem State.setUpd_mem (s : State) (x : UpdS) : (s.setUpd x).mem = s.mem := rfl
@[simp] theorem State.setUpd_xlt (s : State) (x : UpdS) : (s.setUpd x).xlt = s.xlt := rfl
@[simp] theorem State.setUpd_fab (s : State) (x : UpdS) : (s.setUpd x).fab = s.fab := rfl
@[simp] theorem State.setUpd_err (s : State) (x : UpdS) : (s.setUpd x).err = s.err := rfl
@[simp] theorem State.setUpd_boot (s : State) (x : UpdS) : (s.setUpd x).boot = s.boot := rfl
@[simp] theorem State.setUpd_hlt (s : State) (x : UpdS) : (s.setUpd x).hlt = s.hlt := rfl
@[simp] theorem State.setUpd_pwr (s : State) (x : UpdS) : (s.setUpd x).pwr = s.pwr := rfl
@[simp] theorem State.setUpd_notes (s : State) (x : UpdS) : (s.setUpd x).notes = s.notes := rfl
@[simp] theorem State.setUpd_out (s : State) (x : UpdS) : (s.setUpd x).out = s.out := rfl
@[simp] theorem State.setUpd_free (s : State) (x : UpdS) : (s.setUpd x).free = s.free := rfl
@[simp] theorem State.setUpd_pending (s : State) (x : UpdS) : (s.setUpd x).pending = s.pending := rfl

/-! ## setMem -/

@[simp] theorem State.setMem_regs (s : State) (x : MemS) : (s.setMem x).regs = s.regs := rfl
@[simp] theorem State.setMem_latches (s : State) (x : MemS) : (s.setMem x).latches = s.latches := rfl
@[simp] theorem State.setMem_locks (s : State) (x : MemS) : (s.setMem x).locks = s.locks := rfl
@[simp] theorem State.setMem_time (s : State) (x : MemS) : (s.setMem x).time = s.time := rfl
@[simp] theorem State.setMem_parts (s : State) (x : MemS) : (s.setMem x).parts = s.parts := rfl
@[simp] theorem State.setMem_rings (s : State) (x : MemS) : (s.setMem x).rings = s.rings := rfl
@[simp] theorem State.setMem_ports (s : State) (x : MemS) : (s.setMem x).ports = s.ports := rfl
@[simp] theorem State.setMem_subs (s : State) (x : MemS) : (s.setMem x).subs = s.subs := rfl
@[simp] theorem State.setMem_slots (s : State) (x : MemS) : (s.setMem x).slots = s.slots := rfl
@[simp] theorem State.setMem_reads (s : State) (x : MemS) : (s.setMem x).reads = s.reads := rfl
@[simp] theorem State.setMem_nextId (s : State) (x : MemS) : (s.setMem x).nextId = s.nextId := rfl
@[simp] theorem State.setMem_arrays (s : State) (x : MemS) : (s.setMem x).arrays = s.arrays := rfl
@[simp] theorem State.setMem_cores (s : State) (x : MemS) : (s.setMem x).cores = s.cores := rfl
@[simp] theorem State.setMem_engines (s : State) (x : MemS) : (s.setMem x).engines = s.engines := rfl
@[simp] theorem State.setMem_books (s : State) (x : MemS) : (s.setMem x).books = s.books := rfl
@[simp] theorem State.setMem_xfers (s : State) (x : MemS) : (s.setMem x).xfers = s.xfers := rfl
@[simp] theorem State.setMem_gsteps (s : State) (x : MemS) : (s.setMem x).gsteps = s.gsteps := rfl
@[simp] theorem State.setMem_usteps (s : State) (x : MemS) : (s.setMem x).usteps = s.usteps := rfl
@[simp] theorem State.setMem_upd (s : State) (x : MemS) : (s.setMem x).upd = s.upd := rfl
@[simp] theorem State.setMem_mem (s : State) (x : MemS) : (s.setMem x).mem = x := rfl
@[simp] theorem State.setMem_xlt (s : State) (x : MemS) : (s.setMem x).xlt = s.xlt := rfl
@[simp] theorem State.setMem_fab (s : State) (x : MemS) : (s.setMem x).fab = s.fab := rfl
@[simp] theorem State.setMem_err (s : State) (x : MemS) : (s.setMem x).err = s.err := rfl
@[simp] theorem State.setMem_boot (s : State) (x : MemS) : (s.setMem x).boot = s.boot := rfl
@[simp] theorem State.setMem_hlt (s : State) (x : MemS) : (s.setMem x).hlt = s.hlt := rfl
@[simp] theorem State.setMem_pwr (s : State) (x : MemS) : (s.setMem x).pwr = s.pwr := rfl
@[simp] theorem State.setMem_notes (s : State) (x : MemS) : (s.setMem x).notes = s.notes := rfl
@[simp] theorem State.setMem_out (s : State) (x : MemS) : (s.setMem x).out = s.out := rfl
@[simp] theorem State.setMem_free (s : State) (x : MemS) : (s.setMem x).free = s.free := rfl
@[simp] theorem State.setMem_pending (s : State) (x : MemS) : (s.setMem x).pending = s.pending := rfl

/-! ## setXlt -/

@[simp] theorem State.setXlt_regs (s : State) (x : XltS) : (s.setXlt x).regs = s.regs := rfl
@[simp] theorem State.setXlt_latches (s : State) (x : XltS) : (s.setXlt x).latches = s.latches := rfl
@[simp] theorem State.setXlt_locks (s : State) (x : XltS) : (s.setXlt x).locks = s.locks := rfl
@[simp] theorem State.setXlt_time (s : State) (x : XltS) : (s.setXlt x).time = s.time := rfl
@[simp] theorem State.setXlt_parts (s : State) (x : XltS) : (s.setXlt x).parts = s.parts := rfl
@[simp] theorem State.setXlt_rings (s : State) (x : XltS) : (s.setXlt x).rings = s.rings := rfl
@[simp] theorem State.setXlt_ports (s : State) (x : XltS) : (s.setXlt x).ports = s.ports := rfl
@[simp] theorem State.setXlt_subs (s : State) (x : XltS) : (s.setXlt x).subs = s.subs := rfl
@[simp] theorem State.setXlt_slots (s : State) (x : XltS) : (s.setXlt x).slots = s.slots := rfl
@[simp] theorem State.setXlt_reads (s : State) (x : XltS) : (s.setXlt x).reads = s.reads := rfl
@[simp] theorem State.setXlt_nextId (s : State) (x : XltS) : (s.setXlt x).nextId = s.nextId := rfl
@[simp] theorem State.setXlt_arrays (s : State) (x : XltS) : (s.setXlt x).arrays = s.arrays := rfl
@[simp] theorem State.setXlt_cores (s : State) (x : XltS) : (s.setXlt x).cores = s.cores := rfl
@[simp] theorem State.setXlt_engines (s : State) (x : XltS) : (s.setXlt x).engines = s.engines := rfl
@[simp] theorem State.setXlt_books (s : State) (x : XltS) : (s.setXlt x).books = s.books := rfl
@[simp] theorem State.setXlt_xfers (s : State) (x : XltS) : (s.setXlt x).xfers = s.xfers := rfl
@[simp] theorem State.setXlt_gsteps (s : State) (x : XltS) : (s.setXlt x).gsteps = s.gsteps := rfl
@[simp] theorem State.setXlt_usteps (s : State) (x : XltS) : (s.setXlt x).usteps = s.usteps := rfl
@[simp] theorem State.setXlt_upd (s : State) (x : XltS) : (s.setXlt x).upd = s.upd := rfl
@[simp] theorem State.setXlt_mem (s : State) (x : XltS) : (s.setXlt x).mem = s.mem := rfl
@[simp] theorem State.setXlt_xlt (s : State) (x : XltS) : (s.setXlt x).xlt = x := rfl
@[simp] theorem State.setXlt_fab (s : State) (x : XltS) : (s.setXlt x).fab = s.fab := rfl
@[simp] theorem State.setXlt_err (s : State) (x : XltS) : (s.setXlt x).err = s.err := rfl
@[simp] theorem State.setXlt_boot (s : State) (x : XltS) : (s.setXlt x).boot = s.boot := rfl
@[simp] theorem State.setXlt_hlt (s : State) (x : XltS) : (s.setXlt x).hlt = s.hlt := rfl
@[simp] theorem State.setXlt_pwr (s : State) (x : XltS) : (s.setXlt x).pwr = s.pwr := rfl
@[simp] theorem State.setXlt_notes (s : State) (x : XltS) : (s.setXlt x).notes = s.notes := rfl
@[simp] theorem State.setXlt_out (s : State) (x : XltS) : (s.setXlt x).out = s.out := rfl
@[simp] theorem State.setXlt_free (s : State) (x : XltS) : (s.setXlt x).free = s.free := rfl
@[simp] theorem State.setXlt_pending (s : State) (x : XltS) : (s.setXlt x).pending = s.pending := rfl

/-! ## setFab -/

@[simp] theorem State.setFab_regs (s : State) (x : FabS) : (s.setFab x).regs = s.regs := rfl
@[simp] theorem State.setFab_latches (s : State) (x : FabS) : (s.setFab x).latches = s.latches := rfl
@[simp] theorem State.setFab_locks (s : State) (x : FabS) : (s.setFab x).locks = s.locks := rfl
@[simp] theorem State.setFab_time (s : State) (x : FabS) : (s.setFab x).time = s.time := rfl
@[simp] theorem State.setFab_parts (s : State) (x : FabS) : (s.setFab x).parts = s.parts := rfl
@[simp] theorem State.setFab_rings (s : State) (x : FabS) : (s.setFab x).rings = s.rings := rfl
@[simp] theorem State.setFab_ports (s : State) (x : FabS) : (s.setFab x).ports = s.ports := rfl
@[simp] theorem State.setFab_subs (s : State) (x : FabS) : (s.setFab x).subs = s.subs := rfl
@[simp] theorem State.setFab_slots (s : State) (x : FabS) : (s.setFab x).slots = s.slots := rfl
@[simp] theorem State.setFab_reads (s : State) (x : FabS) : (s.setFab x).reads = s.reads := rfl
@[simp] theorem State.setFab_nextId (s : State) (x : FabS) : (s.setFab x).nextId = s.nextId := rfl
@[simp] theorem State.setFab_arrays (s : State) (x : FabS) : (s.setFab x).arrays = s.arrays := rfl
@[simp] theorem State.setFab_cores (s : State) (x : FabS) : (s.setFab x).cores = s.cores := rfl
@[simp] theorem State.setFab_engines (s : State) (x : FabS) : (s.setFab x).engines = s.engines := rfl
@[simp] theorem State.setFab_books (s : State) (x : FabS) : (s.setFab x).books = s.books := rfl
@[simp] theorem State.setFab_xfers (s : State) (x : FabS) : (s.setFab x).xfers = s.xfers := rfl
@[simp] theorem State.setFab_gsteps (s : State) (x : FabS) : (s.setFab x).gsteps = s.gsteps := rfl
@[simp] theorem State.setFab_usteps (s : State) (x : FabS) : (s.setFab x).usteps = s.usteps := rfl
@[simp] theorem State.setFab_upd (s : State) (x : FabS) : (s.setFab x).upd = s.upd := rfl
@[simp] theorem State.setFab_mem (s : State) (x : FabS) : (s.setFab x).mem = s.mem := rfl
@[simp] theorem State.setFab_xlt (s : State) (x : FabS) : (s.setFab x).xlt = s.xlt := rfl
@[simp] theorem State.setFab_fab (s : State) (x : FabS) : (s.setFab x).fab = x := rfl
@[simp] theorem State.setFab_err (s : State) (x : FabS) : (s.setFab x).err = s.err := rfl
@[simp] theorem State.setFab_boot (s : State) (x : FabS) : (s.setFab x).boot = s.boot := rfl
@[simp] theorem State.setFab_hlt (s : State) (x : FabS) : (s.setFab x).hlt = s.hlt := rfl
@[simp] theorem State.setFab_pwr (s : State) (x : FabS) : (s.setFab x).pwr = s.pwr := rfl
@[simp] theorem State.setFab_notes (s : State) (x : FabS) : (s.setFab x).notes = s.notes := rfl
@[simp] theorem State.setFab_out (s : State) (x : FabS) : (s.setFab x).out = s.out := rfl
@[simp] theorem State.setFab_free (s : State) (x : FabS) : (s.setFab x).free = s.free := rfl
@[simp] theorem State.setFab_pending (s : State) (x : FabS) : (s.setFab x).pending = s.pending := rfl

/-! ## setErr -/

@[simp] theorem State.setErr_regs (s : State) (x : RecS) : (s.setErr x).regs = s.regs := rfl
@[simp] theorem State.setErr_latches (s : State) (x : RecS) : (s.setErr x).latches = s.latches := rfl
@[simp] theorem State.setErr_locks (s : State) (x : RecS) : (s.setErr x).locks = s.locks := rfl
@[simp] theorem State.setErr_time (s : State) (x : RecS) : (s.setErr x).time = s.time := rfl
@[simp] theorem State.setErr_parts (s : State) (x : RecS) : (s.setErr x).parts = s.parts := rfl
@[simp] theorem State.setErr_rings (s : State) (x : RecS) : (s.setErr x).rings = s.rings := rfl
@[simp] theorem State.setErr_ports (s : State) (x : RecS) : (s.setErr x).ports = s.ports := rfl
@[simp] theorem State.setErr_subs (s : State) (x : RecS) : (s.setErr x).subs = s.subs := rfl
@[simp] theorem State.setErr_slots (s : State) (x : RecS) : (s.setErr x).slots = s.slots := rfl
@[simp] theorem State.setErr_reads (s : State) (x : RecS) : (s.setErr x).reads = s.reads := rfl
@[simp] theorem State.setErr_nextId (s : State) (x : RecS) : (s.setErr x).nextId = s.nextId := rfl
@[simp] theorem State.setErr_arrays (s : State) (x : RecS) : (s.setErr x).arrays = s.arrays := rfl
@[simp] theorem State.setErr_cores (s : State) (x : RecS) : (s.setErr x).cores = s.cores := rfl
@[simp] theorem State.setErr_engines (s : State) (x : RecS) : (s.setErr x).engines = s.engines := rfl
@[simp] theorem State.setErr_books (s : State) (x : RecS) : (s.setErr x).books = s.books := rfl
@[simp] theorem State.setErr_xfers (s : State) (x : RecS) : (s.setErr x).xfers = s.xfers := rfl
@[simp] theorem State.setErr_gsteps (s : State) (x : RecS) : (s.setErr x).gsteps = s.gsteps := rfl
@[simp] theorem State.setErr_usteps (s : State) (x : RecS) : (s.setErr x).usteps = s.usteps := rfl
@[simp] theorem State.setErr_upd (s : State) (x : RecS) : (s.setErr x).upd = s.upd := rfl
@[simp] theorem State.setErr_mem (s : State) (x : RecS) : (s.setErr x).mem = s.mem := rfl
@[simp] theorem State.setErr_xlt (s : State) (x : RecS) : (s.setErr x).xlt = s.xlt := rfl
@[simp] theorem State.setErr_fab (s : State) (x : RecS) : (s.setErr x).fab = s.fab := rfl
@[simp] theorem State.setErr_err (s : State) (x : RecS) : (s.setErr x).err = x := rfl
@[simp] theorem State.setErr_boot (s : State) (x : RecS) : (s.setErr x).boot = s.boot := rfl
@[simp] theorem State.setErr_hlt (s : State) (x : RecS) : (s.setErr x).hlt = s.hlt := rfl
@[simp] theorem State.setErr_pwr (s : State) (x : RecS) : (s.setErr x).pwr = s.pwr := rfl
@[simp] theorem State.setErr_notes (s : State) (x : RecS) : (s.setErr x).notes = s.notes := rfl
@[simp] theorem State.setErr_out (s : State) (x : RecS) : (s.setErr x).out = s.out := rfl
@[simp] theorem State.setErr_free (s : State) (x : RecS) : (s.setErr x).free = s.free := rfl
@[simp] theorem State.setErr_pending (s : State) (x : RecS) : (s.setErr x).pending = s.pending := rfl

/-! ## setBoot -/

@[simp] theorem State.setBoot_regs (s : State) (x : BootS) : (s.setBoot x).regs = s.regs := rfl
@[simp] theorem State.setBoot_latches (s : State) (x : BootS) : (s.setBoot x).latches = s.latches := rfl
@[simp] theorem State.setBoot_locks (s : State) (x : BootS) : (s.setBoot x).locks = s.locks := rfl
@[simp] theorem State.setBoot_time (s : State) (x : BootS) : (s.setBoot x).time = s.time := rfl
@[simp] theorem State.setBoot_parts (s : State) (x : BootS) : (s.setBoot x).parts = s.parts := rfl
@[simp] theorem State.setBoot_rings (s : State) (x : BootS) : (s.setBoot x).rings = s.rings := rfl
@[simp] theorem State.setBoot_ports (s : State) (x : BootS) : (s.setBoot x).ports = s.ports := rfl
@[simp] theorem State.setBoot_subs (s : State) (x : BootS) : (s.setBoot x).subs = s.subs := rfl
@[simp] theorem State.setBoot_slots (s : State) (x : BootS) : (s.setBoot x).slots = s.slots := rfl
@[simp] theorem State.setBoot_reads (s : State) (x : BootS) : (s.setBoot x).reads = s.reads := rfl
@[simp] theorem State.setBoot_nextId (s : State) (x : BootS) : (s.setBoot x).nextId = s.nextId := rfl
@[simp] theorem State.setBoot_arrays (s : State) (x : BootS) : (s.setBoot x).arrays = s.arrays := rfl
@[simp] theorem State.setBoot_cores (s : State) (x : BootS) : (s.setBoot x).cores = s.cores := rfl
@[simp] theorem State.setBoot_engines (s : State) (x : BootS) : (s.setBoot x).engines = s.engines := rfl
@[simp] theorem State.setBoot_books (s : State) (x : BootS) : (s.setBoot x).books = s.books := rfl
@[simp] theorem State.setBoot_xfers (s : State) (x : BootS) : (s.setBoot x).xfers = s.xfers := rfl
@[simp] theorem State.setBoot_gsteps (s : State) (x : BootS) : (s.setBoot x).gsteps = s.gsteps := rfl
@[simp] theorem State.setBoot_usteps (s : State) (x : BootS) : (s.setBoot x).usteps = s.usteps := rfl
@[simp] theorem State.setBoot_upd (s : State) (x : BootS) : (s.setBoot x).upd = s.upd := rfl
@[simp] theorem State.setBoot_mem (s : State) (x : BootS) : (s.setBoot x).mem = s.mem := rfl
@[simp] theorem State.setBoot_xlt (s : State) (x : BootS) : (s.setBoot x).xlt = s.xlt := rfl
@[simp] theorem State.setBoot_fab (s : State) (x : BootS) : (s.setBoot x).fab = s.fab := rfl
@[simp] theorem State.setBoot_err (s : State) (x : BootS) : (s.setBoot x).err = s.err := rfl
@[simp] theorem State.setBoot_boot (s : State) (x : BootS) : (s.setBoot x).boot = x := rfl
@[simp] theorem State.setBoot_hlt (s : State) (x : BootS) : (s.setBoot x).hlt = s.hlt := rfl
@[simp] theorem State.setBoot_pwr (s : State) (x : BootS) : (s.setBoot x).pwr = s.pwr := rfl
@[simp] theorem State.setBoot_notes (s : State) (x : BootS) : (s.setBoot x).notes = s.notes := rfl
@[simp] theorem State.setBoot_out (s : State) (x : BootS) : (s.setBoot x).out = s.out := rfl
@[simp] theorem State.setBoot_free (s : State) (x : BootS) : (s.setBoot x).free = s.free := rfl
@[simp] theorem State.setBoot_pending (s : State) (x : BootS) : (s.setBoot x).pending = s.pending := rfl

/-! ## setHlt -/

@[simp] theorem State.setHlt_regs (s : State) (x : HltS) : (s.setHlt x).regs = s.regs := rfl
@[simp] theorem State.setHlt_latches (s : State) (x : HltS) : (s.setHlt x).latches = s.latches := rfl
@[simp] theorem State.setHlt_locks (s : State) (x : HltS) : (s.setHlt x).locks = s.locks := rfl
@[simp] theorem State.setHlt_time (s : State) (x : HltS) : (s.setHlt x).time = s.time := rfl
@[simp] theorem State.setHlt_parts (s : State) (x : HltS) : (s.setHlt x).parts = s.parts := rfl
@[simp] theorem State.setHlt_rings (s : State) (x : HltS) : (s.setHlt x).rings = s.rings := rfl
@[simp] theorem State.setHlt_ports (s : State) (x : HltS) : (s.setHlt x).ports = s.ports := rfl
@[simp] theorem State.setHlt_subs (s : State) (x : HltS) : (s.setHlt x).subs = s.subs := rfl
@[simp] theorem State.setHlt_slots (s : State) (x : HltS) : (s.setHlt x).slots = s.slots := rfl
@[simp] theorem State.setHlt_reads (s : State) (x : HltS) : (s.setHlt x).reads = s.reads := rfl
@[simp] theorem State.setHlt_nextId (s : State) (x : HltS) : (s.setHlt x).nextId = s.nextId := rfl
@[simp] theorem State.setHlt_arrays (s : State) (x : HltS) : (s.setHlt x).arrays = s.arrays := rfl
@[simp] theorem State.setHlt_cores (s : State) (x : HltS) : (s.setHlt x).cores = s.cores := rfl
@[simp] theorem State.setHlt_engines (s : State) (x : HltS) : (s.setHlt x).engines = s.engines := rfl
@[simp] theorem State.setHlt_books (s : State) (x : HltS) : (s.setHlt x).books = s.books := rfl
@[simp] theorem State.setHlt_xfers (s : State) (x : HltS) : (s.setHlt x).xfers = s.xfers := rfl
@[simp] theorem State.setHlt_gsteps (s : State) (x : HltS) : (s.setHlt x).gsteps = s.gsteps := rfl
@[simp] theorem State.setHlt_usteps (s : State) (x : HltS) : (s.setHlt x).usteps = s.usteps := rfl
@[simp] theorem State.setHlt_upd (s : State) (x : HltS) : (s.setHlt x).upd = s.upd := rfl
@[simp] theorem State.setHlt_mem (s : State) (x : HltS) : (s.setHlt x).mem = s.mem := rfl
@[simp] theorem State.setHlt_xlt (s : State) (x : HltS) : (s.setHlt x).xlt = s.xlt := rfl
@[simp] theorem State.setHlt_fab (s : State) (x : HltS) : (s.setHlt x).fab = s.fab := rfl
@[simp] theorem State.setHlt_err (s : State) (x : HltS) : (s.setHlt x).err = s.err := rfl
@[simp] theorem State.setHlt_boot (s : State) (x : HltS) : (s.setHlt x).boot = s.boot := rfl
@[simp] theorem State.setHlt_hlt (s : State) (x : HltS) : (s.setHlt x).hlt = x := rfl
@[simp] theorem State.setHlt_pwr (s : State) (x : HltS) : (s.setHlt x).pwr = s.pwr := rfl
@[simp] theorem State.setHlt_notes (s : State) (x : HltS) : (s.setHlt x).notes = s.notes := rfl
@[simp] theorem State.setHlt_out (s : State) (x : HltS) : (s.setHlt x).out = s.out := rfl
@[simp] theorem State.setHlt_free (s : State) (x : HltS) : (s.setHlt x).free = s.free := rfl
@[simp] theorem State.setHlt_pending (s : State) (x : HltS) : (s.setHlt x).pending = s.pending := rfl

/-! ## setPwr -/

@[simp] theorem State.setPwr_regs (s : State) (x : PwrS) : (s.setPwr x).regs = s.regs := rfl
@[simp] theorem State.setPwr_latches (s : State) (x : PwrS) : (s.setPwr x).latches = s.latches := rfl
@[simp] theorem State.setPwr_locks (s : State) (x : PwrS) : (s.setPwr x).locks = s.locks := rfl
@[simp] theorem State.setPwr_time (s : State) (x : PwrS) : (s.setPwr x).time = s.time := rfl
@[simp] theorem State.setPwr_parts (s : State) (x : PwrS) : (s.setPwr x).parts = s.parts := rfl
@[simp] theorem State.setPwr_rings (s : State) (x : PwrS) : (s.setPwr x).rings = s.rings := rfl
@[simp] theorem State.setPwr_ports (s : State) (x : PwrS) : (s.setPwr x).ports = s.ports := rfl
@[simp] theorem State.setPwr_subs (s : State) (x : PwrS) : (s.setPwr x).subs = s.subs := rfl
@[simp] theorem State.setPwr_slots (s : State) (x : PwrS) : (s.setPwr x).slots = s.slots := rfl
@[simp] theorem State.setPwr_reads (s : State) (x : PwrS) : (s.setPwr x).reads = s.reads := rfl
@[simp] theorem State.setPwr_nextId (s : State) (x : PwrS) : (s.setPwr x).nextId = s.nextId := rfl
@[simp] theorem State.setPwr_arrays (s : State) (x : PwrS) : (s.setPwr x).arrays = s.arrays := rfl
@[simp] theorem State.setPwr_cores (s : State) (x : PwrS) : (s.setPwr x).cores = s.cores := rfl
@[simp] theorem State.setPwr_engines (s : State) (x : PwrS) : (s.setPwr x).engines = s.engines := rfl
@[simp] theorem State.setPwr_books (s : State) (x : PwrS) : (s.setPwr x).books = s.books := rfl
@[simp] theorem State.setPwr_xfers (s : State) (x : PwrS) : (s.setPwr x).xfers = s.xfers := rfl
@[simp] theorem State.setPwr_gsteps (s : State) (x : PwrS) : (s.setPwr x).gsteps = s.gsteps := rfl
@[simp] theorem State.setPwr_usteps (s : State) (x : PwrS) : (s.setPwr x).usteps = s.usteps := rfl
@[simp] theorem State.setPwr_upd (s : State) (x : PwrS) : (s.setPwr x).upd = s.upd := rfl
@[simp] theorem State.setPwr_mem (s : State) (x : PwrS) : (s.setPwr x).mem = s.mem := rfl
@[simp] theorem State.setPwr_xlt (s : State) (x : PwrS) : (s.setPwr x).xlt = s.xlt := rfl
@[simp] theorem State.setPwr_fab (s : State) (x : PwrS) : (s.setPwr x).fab = s.fab := rfl
@[simp] theorem State.setPwr_err (s : State) (x : PwrS) : (s.setPwr x).err = s.err := rfl
@[simp] theorem State.setPwr_boot (s : State) (x : PwrS) : (s.setPwr x).boot = s.boot := rfl
@[simp] theorem State.setPwr_hlt (s : State) (x : PwrS) : (s.setPwr x).hlt = s.hlt := rfl
@[simp] theorem State.setPwr_pwr (s : State) (x : PwrS) : (s.setPwr x).pwr = x := rfl
@[simp] theorem State.setPwr_notes (s : State) (x : PwrS) : (s.setPwr x).notes = s.notes := rfl
@[simp] theorem State.setPwr_out (s : State) (x : PwrS) : (s.setPwr x).out = s.out := rfl
@[simp] theorem State.setPwr_free (s : State) (x : PwrS) : (s.setPwr x).free = s.free := rfl
@[simp] theorem State.setPwr_pending (s : State) (x : PwrS) : (s.setPwr x).pending = s.pending := rfl

/-! ## setLocks -/

@[simp] theorem State.setLocks_regs (s : State) (x : List Nat) : (s.setLocks x).regs = s.regs := rfl
@[simp] theorem State.setLocks_latches (s : State) (x : List Nat) : (s.setLocks x).latches = s.latches := rfl
@[simp] theorem State.setLocks_locks (s : State) (x : List Nat) : (s.setLocks x).locks = x := rfl
@[simp] theorem State.setLocks_time (s : State) (x : List Nat) : (s.setLocks x).time = s.time := rfl
@[simp] theorem State.setLocks_parts (s : State) (x : List Nat) : (s.setLocks x).parts = s.parts := rfl
@[simp] theorem State.setLocks_rings (s : State) (x : List Nat) : (s.setLocks x).rings = s.rings := rfl
@[simp] theorem State.setLocks_ports (s : State) (x : List Nat) : (s.setLocks x).ports = s.ports := rfl
@[simp] theorem State.setLocks_subs (s : State) (x : List Nat) : (s.setLocks x).subs = s.subs := rfl
@[simp] theorem State.setLocks_slots (s : State) (x : List Nat) : (s.setLocks x).slots = s.slots := rfl
@[simp] theorem State.setLocks_reads (s : State) (x : List Nat) : (s.setLocks x).reads = s.reads := rfl
@[simp] theorem State.setLocks_nextId (s : State) (x : List Nat) : (s.setLocks x).nextId = s.nextId := rfl
@[simp] theorem State.setLocks_arrays (s : State) (x : List Nat) : (s.setLocks x).arrays = s.arrays := rfl
@[simp] theorem State.setLocks_cores (s : State) (x : List Nat) : (s.setLocks x).cores = s.cores := rfl
@[simp] theorem State.setLocks_engines (s : State) (x : List Nat) : (s.setLocks x).engines = s.engines := rfl
@[simp] theorem State.setLocks_books (s : State) (x : List Nat) : (s.setLocks x).books = s.books := rfl
@[simp] theorem State.setLocks_xfers (s : State) (x : List Nat) : (s.setLocks x).xfers = s.xfers := rfl
@[simp] theorem State.setLocks_gsteps (s : State) (x : List Nat) : (s.setLocks x).gsteps = s.gsteps := rfl
@[simp] theorem State.setLocks_usteps (s : State) (x : List Nat) : (s.setLocks x).usteps = s.usteps := rfl
@[simp] theorem State.setLocks_upd (s : State) (x : List Nat) : (s.setLocks x).upd = s.upd := rfl
@[simp] theorem State.setLocks_mem (s : State) (x : List Nat) : (s.setLocks x).mem = s.mem := rfl
@[simp] theorem State.setLocks_xlt (s : State) (x : List Nat) : (s.setLocks x).xlt = s.xlt := rfl
@[simp] theorem State.setLocks_fab (s : State) (x : List Nat) : (s.setLocks x).fab = s.fab := rfl
@[simp] theorem State.setLocks_err (s : State) (x : List Nat) : (s.setLocks x).err = s.err := rfl
@[simp] theorem State.setLocks_boot (s : State) (x : List Nat) : (s.setLocks x).boot = s.boot := rfl
@[simp] theorem State.setLocks_hlt (s : State) (x : List Nat) : (s.setLocks x).hlt = s.hlt := rfl
@[simp] theorem State.setLocks_pwr (s : State) (x : List Nat) : (s.setLocks x).pwr = s.pwr := rfl
@[simp] theorem State.setLocks_notes (s : State) (x : List Nat) : (s.setLocks x).notes = s.notes := rfl
@[simp] theorem State.setLocks_out (s : State) (x : List Nat) : (s.setLocks x).out = s.out := rfl
@[simp] theorem State.setLocks_free (s : State) (x : List Nat) : (s.setLocks x).free = s.free := rfl
@[simp] theorem State.setLocks_pending (s : State) (x : List Nat) : (s.setLocks x).pending = s.pending := rfl

/-! ## setLatches -/

@[simp] theorem State.setLatches_regs (s : State) (x : SMap Word) : (s.setLatches x).regs = s.regs := rfl
@[simp] theorem State.setLatches_latches (s : State) (x : SMap Word) : (s.setLatches x).latches = x := rfl
@[simp] theorem State.setLatches_locks (s : State) (x : SMap Word) : (s.setLatches x).locks = s.locks := rfl
@[simp] theorem State.setLatches_time (s : State) (x : SMap Word) : (s.setLatches x).time = s.time := rfl
@[simp] theorem State.setLatches_parts (s : State) (x : SMap Word) : (s.setLatches x).parts = s.parts := rfl
@[simp] theorem State.setLatches_rings (s : State) (x : SMap Word) : (s.setLatches x).rings = s.rings := rfl
@[simp] theorem State.setLatches_ports (s : State) (x : SMap Word) : (s.setLatches x).ports = s.ports := rfl
@[simp] theorem State.setLatches_subs (s : State) (x : SMap Word) : (s.setLatches x).subs = s.subs := rfl
@[simp] theorem State.setLatches_slots (s : State) (x : SMap Word) : (s.setLatches x).slots = s.slots := rfl
@[simp] theorem State.setLatches_reads (s : State) (x : SMap Word) : (s.setLatches x).reads = s.reads := rfl
@[simp] theorem State.setLatches_nextId (s : State) (x : SMap Word) : (s.setLatches x).nextId = s.nextId := rfl
@[simp] theorem State.setLatches_arrays (s : State) (x : SMap Word) : (s.setLatches x).arrays = s.arrays := rfl
@[simp] theorem State.setLatches_cores (s : State) (x : SMap Word) : (s.setLatches x).cores = s.cores := rfl
@[simp] theorem State.setLatches_engines (s : State) (x : SMap Word) : (s.setLatches x).engines = s.engines := rfl
@[simp] theorem State.setLatches_books (s : State) (x : SMap Word) : (s.setLatches x).books = s.books := rfl
@[simp] theorem State.setLatches_xfers (s : State) (x : SMap Word) : (s.setLatches x).xfers = s.xfers := rfl
@[simp] theorem State.setLatches_gsteps (s : State) (x : SMap Word) : (s.setLatches x).gsteps = s.gsteps := rfl
@[simp] theorem State.setLatches_usteps (s : State) (x : SMap Word) : (s.setLatches x).usteps = s.usteps := rfl
@[simp] theorem State.setLatches_upd (s : State) (x : SMap Word) : (s.setLatches x).upd = s.upd := rfl
@[simp] theorem State.setLatches_mem (s : State) (x : SMap Word) : (s.setLatches x).mem = s.mem := rfl
@[simp] theorem State.setLatches_xlt (s : State) (x : SMap Word) : (s.setLatches x).xlt = s.xlt := rfl
@[simp] theorem State.setLatches_fab (s : State) (x : SMap Word) : (s.setLatches x).fab = s.fab := rfl
@[simp] theorem State.setLatches_err (s : State) (x : SMap Word) : (s.setLatches x).err = s.err := rfl
@[simp] theorem State.setLatches_boot (s : State) (x : SMap Word) : (s.setLatches x).boot = s.boot := rfl
@[simp] theorem State.setLatches_hlt (s : State) (x : SMap Word) : (s.setLatches x).hlt = s.hlt := rfl
@[simp] theorem State.setLatches_pwr (s : State) (x : SMap Word) : (s.setLatches x).pwr = s.pwr := rfl
@[simp] theorem State.setLatches_notes (s : State) (x : SMap Word) : (s.setLatches x).notes = s.notes := rfl
@[simp] theorem State.setLatches_out (s : State) (x : SMap Word) : (s.setLatches x).out = s.out := rfl
@[simp] theorem State.setLatches_free (s : State) (x : SMap Word) : (s.setLatches x).free = s.free := rfl
@[simp] theorem State.setLatches_pending (s : State) (x : SMap Word) : (s.setLatches x).pending = s.pending := rfl

/-! ## setSubs -/

@[simp] theorem State.setSubs_regs (s : State) (x : List Sub) : (s.setSubs x).regs = s.regs := rfl
@[simp] theorem State.setSubs_latches (s : State) (x : List Sub) : (s.setSubs x).latches = s.latches := rfl
@[simp] theorem State.setSubs_locks (s : State) (x : List Sub) : (s.setSubs x).locks = s.locks := rfl
@[simp] theorem State.setSubs_time (s : State) (x : List Sub) : (s.setSubs x).time = s.time := rfl
@[simp] theorem State.setSubs_parts (s : State) (x : List Sub) : (s.setSubs x).parts = s.parts := rfl
@[simp] theorem State.setSubs_rings (s : State) (x : List Sub) : (s.setSubs x).rings = s.rings := rfl
@[simp] theorem State.setSubs_ports (s : State) (x : List Sub) : (s.setSubs x).ports = s.ports := rfl
@[simp] theorem State.setSubs_subs (s : State) (x : List Sub) : (s.setSubs x).subs = x := rfl
@[simp] theorem State.setSubs_slots (s : State) (x : List Sub) : (s.setSubs x).slots = s.slots := rfl
@[simp] theorem State.setSubs_reads (s : State) (x : List Sub) : (s.setSubs x).reads = s.reads := rfl
@[simp] theorem State.setSubs_nextId (s : State) (x : List Sub) : (s.setSubs x).nextId = s.nextId := rfl
@[simp] theorem State.setSubs_arrays (s : State) (x : List Sub) : (s.setSubs x).arrays = s.arrays := rfl
@[simp] theorem State.setSubs_cores (s : State) (x : List Sub) : (s.setSubs x).cores = s.cores := rfl
@[simp] theorem State.setSubs_engines (s : State) (x : List Sub) : (s.setSubs x).engines = s.engines := rfl
@[simp] theorem State.setSubs_books (s : State) (x : List Sub) : (s.setSubs x).books = s.books := rfl
@[simp] theorem State.setSubs_xfers (s : State) (x : List Sub) : (s.setSubs x).xfers = s.xfers := rfl
@[simp] theorem State.setSubs_gsteps (s : State) (x : List Sub) : (s.setSubs x).gsteps = s.gsteps := rfl
@[simp] theorem State.setSubs_usteps (s : State) (x : List Sub) : (s.setSubs x).usteps = s.usteps := rfl
@[simp] theorem State.setSubs_upd (s : State) (x : List Sub) : (s.setSubs x).upd = s.upd := rfl
@[simp] theorem State.setSubs_mem (s : State) (x : List Sub) : (s.setSubs x).mem = s.mem := rfl
@[simp] theorem State.setSubs_xlt (s : State) (x : List Sub) : (s.setSubs x).xlt = s.xlt := rfl
@[simp] theorem State.setSubs_fab (s : State) (x : List Sub) : (s.setSubs x).fab = s.fab := rfl
@[simp] theorem State.setSubs_err (s : State) (x : List Sub) : (s.setSubs x).err = s.err := rfl
@[simp] theorem State.setSubs_boot (s : State) (x : List Sub) : (s.setSubs x).boot = s.boot := rfl
@[simp] theorem State.setSubs_hlt (s : State) (x : List Sub) : (s.setSubs x).hlt = s.hlt := rfl
@[simp] theorem State.setSubs_pwr (s : State) (x : List Sub) : (s.setSubs x).pwr = s.pwr := rfl
@[simp] theorem State.setSubs_notes (s : State) (x : List Sub) : (s.setSubs x).notes = s.notes := rfl
@[simp] theorem State.setSubs_out (s : State) (x : List Sub) : (s.setSubs x).out = s.out := rfl
@[simp] theorem State.setSubs_free (s : State) (x : List Sub) : (s.setSubs x).free = s.free := rfl
@[simp] theorem State.setSubs_pending (s : State) (x : List Sub) : (s.setSubs x).pending = s.pending := rfl

/-! ## setSlots -/

@[simp] theorem State.setSlots_regs (s : State) (x : List SlotS) : (s.setSlots x).regs = s.regs := rfl
@[simp] theorem State.setSlots_latches (s : State) (x : List SlotS) : (s.setSlots x).latches = s.latches := rfl
@[simp] theorem State.setSlots_locks (s : State) (x : List SlotS) : (s.setSlots x).locks = s.locks := rfl
@[simp] theorem State.setSlots_time (s : State) (x : List SlotS) : (s.setSlots x).time = s.time := rfl
@[simp] theorem State.setSlots_parts (s : State) (x : List SlotS) : (s.setSlots x).parts = s.parts := rfl
@[simp] theorem State.setSlots_rings (s : State) (x : List SlotS) : (s.setSlots x).rings = s.rings := rfl
@[simp] theorem State.setSlots_ports (s : State) (x : List SlotS) : (s.setSlots x).ports = s.ports := rfl
@[simp] theorem State.setSlots_subs (s : State) (x : List SlotS) : (s.setSlots x).subs = s.subs := rfl
@[simp] theorem State.setSlots_slots (s : State) (x : List SlotS) : (s.setSlots x).slots = x := rfl
@[simp] theorem State.setSlots_reads (s : State) (x : List SlotS) : (s.setSlots x).reads = s.reads := rfl
@[simp] theorem State.setSlots_nextId (s : State) (x : List SlotS) : (s.setSlots x).nextId = s.nextId := rfl
@[simp] theorem State.setSlots_arrays (s : State) (x : List SlotS) : (s.setSlots x).arrays = s.arrays := rfl
@[simp] theorem State.setSlots_cores (s : State) (x : List SlotS) : (s.setSlots x).cores = s.cores := rfl
@[simp] theorem State.setSlots_engines (s : State) (x : List SlotS) : (s.setSlots x).engines = s.engines := rfl
@[simp] theorem State.setSlots_books (s : State) (x : List SlotS) : (s.setSlots x).books = s.books := rfl
@[simp] theorem State.setSlots_xfers (s : State) (x : List SlotS) : (s.setSlots x).xfers = s.xfers := rfl
@[simp] theorem State.setSlots_gsteps (s : State) (x : List SlotS) : (s.setSlots x).gsteps = s.gsteps := rfl
@[simp] theorem State.setSlots_usteps (s : State) (x : List SlotS) : (s.setSlots x).usteps = s.usteps := rfl
@[simp] theorem State.setSlots_upd (s : State) (x : List SlotS) : (s.setSlots x).upd = s.upd := rfl
@[simp] theorem State.setSlots_mem (s : State) (x : List SlotS) : (s.setSlots x).mem = s.mem := rfl
@[simp] theorem State.setSlots_xlt (s : State) (x : List SlotS) : (s.setSlots x).xlt = s.xlt := rfl
@[simp] theorem State.setSlots_fab (s : State) (x : List SlotS) : (s.setSlots x).fab = s.fab := rfl
@[simp] theorem State.setSlots_err (s : State) (x : List SlotS) : (s.setSlots x).err = s.err := rfl
@[simp] theorem State.setSlots_boot (s : State) (x : List SlotS) : (s.setSlots x).boot = s.boot := rfl
@[simp] theorem State.setSlots_hlt (s : State) (x : List SlotS) : (s.setSlots x).hlt = s.hlt := rfl
@[simp] theorem State.setSlots_pwr (s : State) (x : List SlotS) : (s.setSlots x).pwr = s.pwr := rfl
@[simp] theorem State.setSlots_notes (s : State) (x : List SlotS) : (s.setSlots x).notes = s.notes := rfl
@[simp] theorem State.setSlots_out (s : State) (x : List SlotS) : (s.setSlots x).out = s.out := rfl
@[simp] theorem State.setSlots_free (s : State) (x : List SlotS) : (s.setSlots x).free = s.free := rfl
@[simp] theorem State.setSlots_pending (s : State) (x : List SlotS) : (s.setSlots x).pending = s.pending := rfl

/-! ## setReads -/

@[simp] theorem State.setReads_regs (s : State) (x : List HostRead) : (s.setReads x).regs = s.regs := rfl
@[simp] theorem State.setReads_latches (s : State) (x : List HostRead) : (s.setReads x).latches = s.latches := rfl
@[simp] theorem State.setReads_locks (s : State) (x : List HostRead) : (s.setReads x).locks = s.locks := rfl
@[simp] theorem State.setReads_time (s : State) (x : List HostRead) : (s.setReads x).time = s.time := rfl
@[simp] theorem State.setReads_parts (s : State) (x : List HostRead) : (s.setReads x).parts = s.parts := rfl
@[simp] theorem State.setReads_rings (s : State) (x : List HostRead) : (s.setReads x).rings = s.rings := rfl
@[simp] theorem State.setReads_ports (s : State) (x : List HostRead) : (s.setReads x).ports = s.ports := rfl
@[simp] theorem State.setReads_subs (s : State) (x : List HostRead) : (s.setReads x).subs = s.subs := rfl
@[simp] theorem State.setReads_slots (s : State) (x : List HostRead) : (s.setReads x).slots = s.slots := rfl
@[simp] theorem State.setReads_reads (s : State) (x : List HostRead) : (s.setReads x).reads = x := rfl
@[simp] theorem State.setReads_nextId (s : State) (x : List HostRead) : (s.setReads x).nextId = s.nextId := rfl
@[simp] theorem State.setReads_arrays (s : State) (x : List HostRead) : (s.setReads x).arrays = s.arrays := rfl
@[simp] theorem State.setReads_cores (s : State) (x : List HostRead) : (s.setReads x).cores = s.cores := rfl
@[simp] theorem State.setReads_engines (s : State) (x : List HostRead) : (s.setReads x).engines = s.engines := rfl
@[simp] theorem State.setReads_books (s : State) (x : List HostRead) : (s.setReads x).books = s.books := rfl
@[simp] theorem State.setReads_xfers (s : State) (x : List HostRead) : (s.setReads x).xfers = s.xfers := rfl
@[simp] theorem State.setReads_gsteps (s : State) (x : List HostRead) : (s.setReads x).gsteps = s.gsteps := rfl
@[simp] theorem State.setReads_usteps (s : State) (x : List HostRead) : (s.setReads x).usteps = s.usteps := rfl
@[simp] theorem State.setReads_upd (s : State) (x : List HostRead) : (s.setReads x).upd = s.upd := rfl
@[simp] theorem State.setReads_mem (s : State) (x : List HostRead) : (s.setReads x).mem = s.mem := rfl
@[simp] theorem State.setReads_xlt (s : State) (x : List HostRead) : (s.setReads x).xlt = s.xlt := rfl
@[simp] theorem State.setReads_fab (s : State) (x : List HostRead) : (s.setReads x).fab = s.fab := rfl
@[simp] theorem State.setReads_err (s : State) (x : List HostRead) : (s.setReads x).err = s.err := rfl
@[simp] theorem State.setReads_boot (s : State) (x : List HostRead) : (s.setReads x).boot = s.boot := rfl
@[simp] theorem State.setReads_hlt (s : State) (x : List HostRead) : (s.setReads x).hlt = s.hlt := rfl
@[simp] theorem State.setReads_pwr (s : State) (x : List HostRead) : (s.setReads x).pwr = s.pwr := rfl
@[simp] theorem State.setReads_notes (s : State) (x : List HostRead) : (s.setReads x).notes = s.notes := rfl
@[simp] theorem State.setReads_out (s : State) (x : List HostRead) : (s.setReads x).out = s.out := rfl
@[simp] theorem State.setReads_free (s : State) (x : List HostRead) : (s.setReads x).free = s.free := rfl
@[simp] theorem State.setReads_pending (s : State) (x : List HostRead) : (s.setReads x).pending = s.pending := rfl

/-! ## setNextId -/

@[simp] theorem State.setNextId_regs (s : State) (x : Nat) : (s.setNextId x).regs = s.regs := rfl
@[simp] theorem State.setNextId_latches (s : State) (x : Nat) : (s.setNextId x).latches = s.latches := rfl
@[simp] theorem State.setNextId_locks (s : State) (x : Nat) : (s.setNextId x).locks = s.locks := rfl
@[simp] theorem State.setNextId_time (s : State) (x : Nat) : (s.setNextId x).time = s.time := rfl
@[simp] theorem State.setNextId_parts (s : State) (x : Nat) : (s.setNextId x).parts = s.parts := rfl
@[simp] theorem State.setNextId_rings (s : State) (x : Nat) : (s.setNextId x).rings = s.rings := rfl
@[simp] theorem State.setNextId_ports (s : State) (x : Nat) : (s.setNextId x).ports = s.ports := rfl
@[simp] theorem State.setNextId_subs (s : State) (x : Nat) : (s.setNextId x).subs = s.subs := rfl
@[simp] theorem State.setNextId_slots (s : State) (x : Nat) : (s.setNextId x).slots = s.slots := rfl
@[simp] theorem State.setNextId_reads (s : State) (x : Nat) : (s.setNextId x).reads = s.reads := rfl
@[simp] theorem State.setNextId_nextId (s : State) (x : Nat) : (s.setNextId x).nextId = x := rfl
@[simp] theorem State.setNextId_arrays (s : State) (x : Nat) : (s.setNextId x).arrays = s.arrays := rfl
@[simp] theorem State.setNextId_cores (s : State) (x : Nat) : (s.setNextId x).cores = s.cores := rfl
@[simp] theorem State.setNextId_engines (s : State) (x : Nat) : (s.setNextId x).engines = s.engines := rfl
@[simp] theorem State.setNextId_books (s : State) (x : Nat) : (s.setNextId x).books = s.books := rfl
@[simp] theorem State.setNextId_xfers (s : State) (x : Nat) : (s.setNextId x).xfers = s.xfers := rfl
@[simp] theorem State.setNextId_gsteps (s : State) (x : Nat) : (s.setNextId x).gsteps = s.gsteps := rfl
@[simp] theorem State.setNextId_usteps (s : State) (x : Nat) : (s.setNextId x).usteps = s.usteps := rfl
@[simp] theorem State.setNextId_upd (s : State) (x : Nat) : (s.setNextId x).upd = s.upd := rfl
@[simp] theorem State.setNextId_mem (s : State) (x : Nat) : (s.setNextId x).mem = s.mem := rfl
@[simp] theorem State.setNextId_xlt (s : State) (x : Nat) : (s.setNextId x).xlt = s.xlt := rfl
@[simp] theorem State.setNextId_fab (s : State) (x : Nat) : (s.setNextId x).fab = s.fab := rfl
@[simp] theorem State.setNextId_err (s : State) (x : Nat) : (s.setNextId x).err = s.err := rfl
@[simp] theorem State.setNextId_boot (s : State) (x : Nat) : (s.setNextId x).boot = s.boot := rfl
@[simp] theorem State.setNextId_hlt (s : State) (x : Nat) : (s.setNextId x).hlt = s.hlt := rfl
@[simp] theorem State.setNextId_pwr (s : State) (x : Nat) : (s.setNextId x).pwr = s.pwr := rfl
@[simp] theorem State.setNextId_notes (s : State) (x : Nat) : (s.setNextId x).notes = s.notes := rfl
@[simp] theorem State.setNextId_out (s : State) (x : Nat) : (s.setNextId x).out = s.out := rfl
@[simp] theorem State.setNextId_free (s : State) (x : Nat) : (s.setNextId x).free = s.free := rfl
@[simp] theorem State.setNextId_pending (s : State) (x : Nat) : (s.setNextId x).pending = s.pending := rfl

/-! ## setEngines -/

@[simp] theorem State.setEngines_regs (s : State) (x : SMap EngS) : (s.setEngines x).regs = s.regs := rfl
@[simp] theorem State.setEngines_latches (s : State) (x : SMap EngS) : (s.setEngines x).latches = s.latches := rfl
@[simp] theorem State.setEngines_locks (s : State) (x : SMap EngS) : (s.setEngines x).locks = s.locks := rfl
@[simp] theorem State.setEngines_time (s : State) (x : SMap EngS) : (s.setEngines x).time = s.time := rfl
@[simp] theorem State.setEngines_parts (s : State) (x : SMap EngS) : (s.setEngines x).parts = s.parts := rfl
@[simp] theorem State.setEngines_rings (s : State) (x : SMap EngS) : (s.setEngines x).rings = s.rings := rfl
@[simp] theorem State.setEngines_ports (s : State) (x : SMap EngS) : (s.setEngines x).ports = s.ports := rfl
@[simp] theorem State.setEngines_subs (s : State) (x : SMap EngS) : (s.setEngines x).subs = s.subs := rfl
@[simp] theorem State.setEngines_slots (s : State) (x : SMap EngS) : (s.setEngines x).slots = s.slots := rfl
@[simp] theorem State.setEngines_reads (s : State) (x : SMap EngS) : (s.setEngines x).reads = s.reads := rfl
@[simp] theorem State.setEngines_nextId (s : State) (x : SMap EngS) : (s.setEngines x).nextId = s.nextId := rfl
@[simp] theorem State.setEngines_arrays (s : State) (x : SMap EngS) : (s.setEngines x).arrays = s.arrays := rfl
@[simp] theorem State.setEngines_cores (s : State) (x : SMap EngS) : (s.setEngines x).cores = s.cores := rfl
@[simp] theorem State.setEngines_engines (s : State) (x : SMap EngS) : (s.setEngines x).engines = x := rfl
@[simp] theorem State.setEngines_books (s : State) (x : SMap EngS) : (s.setEngines x).books = s.books := rfl
@[simp] theorem State.setEngines_xfers (s : State) (x : SMap EngS) : (s.setEngines x).xfers = s.xfers := rfl
@[simp] theorem State.setEngines_gsteps (s : State) (x : SMap EngS) : (s.setEngines x).gsteps = s.gsteps := rfl
@[simp] theorem State.setEngines_usteps (s : State) (x : SMap EngS) : (s.setEngines x).usteps = s.usteps := rfl
@[simp] theorem State.setEngines_upd (s : State) (x : SMap EngS) : (s.setEngines x).upd = s.upd := rfl
@[simp] theorem State.setEngines_mem (s : State) (x : SMap EngS) : (s.setEngines x).mem = s.mem := rfl
@[simp] theorem State.setEngines_xlt (s : State) (x : SMap EngS) : (s.setEngines x).xlt = s.xlt := rfl
@[simp] theorem State.setEngines_fab (s : State) (x : SMap EngS) : (s.setEngines x).fab = s.fab := rfl
@[simp] theorem State.setEngines_err (s : State) (x : SMap EngS) : (s.setEngines x).err = s.err := rfl
@[simp] theorem State.setEngines_boot (s : State) (x : SMap EngS) : (s.setEngines x).boot = s.boot := rfl
@[simp] theorem State.setEngines_hlt (s : State) (x : SMap EngS) : (s.setEngines x).hlt = s.hlt := rfl
@[simp] theorem State.setEngines_pwr (s : State) (x : SMap EngS) : (s.setEngines x).pwr = s.pwr := rfl
@[simp] theorem State.setEngines_notes (s : State) (x : SMap EngS) : (s.setEngines x).notes = s.notes := rfl
@[simp] theorem State.setEngines_out (s : State) (x : SMap EngS) : (s.setEngines x).out = s.out := rfl
@[simp] theorem State.setEngines_free (s : State) (x : SMap EngS) : (s.setEngines x).free = s.free := rfl
@[simp] theorem State.setEngines_pending (s : State) (x : SMap EngS) : (s.setEngines x).pending = s.pending := rfl

/-! ## setXfers -/

@[simp] theorem State.setXfers_regs (s : State) (x : List Xfer) : (s.setXfers x).regs = s.regs := rfl
@[simp] theorem State.setXfers_latches (s : State) (x : List Xfer) : (s.setXfers x).latches = s.latches := rfl
@[simp] theorem State.setXfers_locks (s : State) (x : List Xfer) : (s.setXfers x).locks = s.locks := rfl
@[simp] theorem State.setXfers_time (s : State) (x : List Xfer) : (s.setXfers x).time = s.time := rfl
@[simp] theorem State.setXfers_parts (s : State) (x : List Xfer) : (s.setXfers x).parts = s.parts := rfl
@[simp] theorem State.setXfers_rings (s : State) (x : List Xfer) : (s.setXfers x).rings = s.rings := rfl
@[simp] theorem State.setXfers_ports (s : State) (x : List Xfer) : (s.setXfers x).ports = s.ports := rfl
@[simp] theorem State.setXfers_subs (s : State) (x : List Xfer) : (s.setXfers x).subs = s.subs := rfl
@[simp] theorem State.setXfers_slots (s : State) (x : List Xfer) : (s.setXfers x).slots = s.slots := rfl
@[simp] theorem State.setXfers_reads (s : State) (x : List Xfer) : (s.setXfers x).reads = s.reads := rfl
@[simp] theorem State.setXfers_nextId (s : State) (x : List Xfer) : (s.setXfers x).nextId = s.nextId := rfl
@[simp] theorem State.setXfers_arrays (s : State) (x : List Xfer) : (s.setXfers x).arrays = s.arrays := rfl
@[simp] theorem State.setXfers_cores (s : State) (x : List Xfer) : (s.setXfers x).cores = s.cores := rfl
@[simp] theorem State.setXfers_engines (s : State) (x : List Xfer) : (s.setXfers x).engines = s.engines := rfl
@[simp] theorem State.setXfers_books (s : State) (x : List Xfer) : (s.setXfers x).books = s.books := rfl
@[simp] theorem State.setXfers_xfers (s : State) (x : List Xfer) : (s.setXfers x).xfers = x := rfl
@[simp] theorem State.setXfers_gsteps (s : State) (x : List Xfer) : (s.setXfers x).gsteps = s.gsteps := rfl
@[simp] theorem State.setXfers_usteps (s : State) (x : List Xfer) : (s.setXfers x).usteps = s.usteps := rfl
@[simp] theorem State.setXfers_upd (s : State) (x : List Xfer) : (s.setXfers x).upd = s.upd := rfl
@[simp] theorem State.setXfers_mem (s : State) (x : List Xfer) : (s.setXfers x).mem = s.mem := rfl
@[simp] theorem State.setXfers_xlt (s : State) (x : List Xfer) : (s.setXfers x).xlt = s.xlt := rfl
@[simp] theorem State.setXfers_fab (s : State) (x : List Xfer) : (s.setXfers x).fab = s.fab := rfl
@[simp] theorem State.setXfers_err (s : State) (x : List Xfer) : (s.setXfers x).err = s.err := rfl
@[simp] theorem State.setXfers_boot (s : State) (x : List Xfer) : (s.setXfers x).boot = s.boot := rfl
@[simp] theorem State.setXfers_hlt (s : State) (x : List Xfer) : (s.setXfers x).hlt = s.hlt := rfl
@[simp] theorem State.setXfers_pwr (s : State) (x : List Xfer) : (s.setXfers x).pwr = s.pwr := rfl
@[simp] theorem State.setXfers_notes (s : State) (x : List Xfer) : (s.setXfers x).notes = s.notes := rfl
@[simp] theorem State.setXfers_out (s : State) (x : List Xfer) : (s.setXfers x).out = s.out := rfl
@[simp] theorem State.setXfers_free (s : State) (x : List Xfer) : (s.setXfers x).free = s.free := rfl
@[simp] theorem State.setXfers_pending (s : State) (x : List Xfer) : (s.setXfers x).pending = s.pending := rfl

/-! ## setGsteps -/

@[simp] theorem State.setGsteps_regs (s : State) (x : List GStep) : (s.setGsteps x).regs = s.regs := rfl
@[simp] theorem State.setGsteps_latches (s : State) (x : List GStep) : (s.setGsteps x).latches = s.latches := rfl
@[simp] theorem State.setGsteps_locks (s : State) (x : List GStep) : (s.setGsteps x).locks = s.locks := rfl
@[simp] theorem State.setGsteps_time (s : State) (x : List GStep) : (s.setGsteps x).time = s.time := rfl
@[simp] theorem State.setGsteps_parts (s : State) (x : List GStep) : (s.setGsteps x).parts = s.parts := rfl
@[simp] theorem State.setGsteps_rings (s : State) (x : List GStep) : (s.setGsteps x).rings = s.rings := rfl
@[simp] theorem State.setGsteps_ports (s : State) (x : List GStep) : (s.setGsteps x).ports = s.ports := rfl
@[simp] theorem State.setGsteps_subs (s : State) (x : List GStep) : (s.setGsteps x).subs = s.subs := rfl
@[simp] theorem State.setGsteps_slots (s : State) (x : List GStep) : (s.setGsteps x).slots = s.slots := rfl
@[simp] theorem State.setGsteps_reads (s : State) (x : List GStep) : (s.setGsteps x).reads = s.reads := rfl
@[simp] theorem State.setGsteps_nextId (s : State) (x : List GStep) : (s.setGsteps x).nextId = s.nextId := rfl
@[simp] theorem State.setGsteps_arrays (s : State) (x : List GStep) : (s.setGsteps x).arrays = s.arrays := rfl
@[simp] theorem State.setGsteps_cores (s : State) (x : List GStep) : (s.setGsteps x).cores = s.cores := rfl
@[simp] theorem State.setGsteps_engines (s : State) (x : List GStep) : (s.setGsteps x).engines = s.engines := rfl
@[simp] theorem State.setGsteps_books (s : State) (x : List GStep) : (s.setGsteps x).books = s.books := rfl
@[simp] theorem State.setGsteps_xfers (s : State) (x : List GStep) : (s.setGsteps x).xfers = s.xfers := rfl
@[simp] theorem State.setGsteps_gsteps (s : State) (x : List GStep) : (s.setGsteps x).gsteps = x := rfl
@[simp] theorem State.setGsteps_usteps (s : State) (x : List GStep) : (s.setGsteps x).usteps = s.usteps := rfl
@[simp] theorem State.setGsteps_upd (s : State) (x : List GStep) : (s.setGsteps x).upd = s.upd := rfl
@[simp] theorem State.setGsteps_mem (s : State) (x : List GStep) : (s.setGsteps x).mem = s.mem := rfl
@[simp] theorem State.setGsteps_xlt (s : State) (x : List GStep) : (s.setGsteps x).xlt = s.xlt := rfl
@[simp] theorem State.setGsteps_fab (s : State) (x : List GStep) : (s.setGsteps x).fab = s.fab := rfl
@[simp] theorem State.setGsteps_err (s : State) (x : List GStep) : (s.setGsteps x).err = s.err := rfl
@[simp] theorem State.setGsteps_boot (s : State) (x : List GStep) : (s.setGsteps x).boot = s.boot := rfl
@[simp] theorem State.setGsteps_hlt (s : State) (x : List GStep) : (s.setGsteps x).hlt = s.hlt := rfl
@[simp] theorem State.setGsteps_pwr (s : State) (x : List GStep) : (s.setGsteps x).pwr = s.pwr := rfl
@[simp] theorem State.setGsteps_notes (s : State) (x : List GStep) : (s.setGsteps x).notes = s.notes := rfl
@[simp] theorem State.setGsteps_out (s : State) (x : List GStep) : (s.setGsteps x).out = s.out := rfl
@[simp] theorem State.setGsteps_free (s : State) (x : List GStep) : (s.setGsteps x).free = s.free := rfl
@[simp] theorem State.setGsteps_pending (s : State) (x : List GStep) : (s.setGsteps x).pending = s.pending := rfl

/-! ## setUsteps -/

@[simp] theorem State.setUsteps_regs (s : State) (x : List UStep) : (s.setUsteps x).regs = s.regs := rfl
@[simp] theorem State.setUsteps_latches (s : State) (x : List UStep) : (s.setUsteps x).latches = s.latches := rfl
@[simp] theorem State.setUsteps_locks (s : State) (x : List UStep) : (s.setUsteps x).locks = s.locks := rfl
@[simp] theorem State.setUsteps_time (s : State) (x : List UStep) : (s.setUsteps x).time = s.time := rfl
@[simp] theorem State.setUsteps_parts (s : State) (x : List UStep) : (s.setUsteps x).parts = s.parts := rfl
@[simp] theorem State.setUsteps_rings (s : State) (x : List UStep) : (s.setUsteps x).rings = s.rings := rfl
@[simp] theorem State.setUsteps_ports (s : State) (x : List UStep) : (s.setUsteps x).ports = s.ports := rfl
@[simp] theorem State.setUsteps_subs (s : State) (x : List UStep) : (s.setUsteps x).subs = s.subs := rfl
@[simp] theorem State.setUsteps_slots (s : State) (x : List UStep) : (s.setUsteps x).slots = s.slots := rfl
@[simp] theorem State.setUsteps_reads (s : State) (x : List UStep) : (s.setUsteps x).reads = s.reads := rfl
@[simp] theorem State.setUsteps_nextId (s : State) (x : List UStep) : (s.setUsteps x).nextId = s.nextId := rfl
@[simp] theorem State.setUsteps_arrays (s : State) (x : List UStep) : (s.setUsteps x).arrays = s.arrays := rfl
@[simp] theorem State.setUsteps_cores (s : State) (x : List UStep) : (s.setUsteps x).cores = s.cores := rfl
@[simp] theorem State.setUsteps_engines (s : State) (x : List UStep) : (s.setUsteps x).engines = s.engines := rfl
@[simp] theorem State.setUsteps_books (s : State) (x : List UStep) : (s.setUsteps x).books = s.books := rfl
@[simp] theorem State.setUsteps_xfers (s : State) (x : List UStep) : (s.setUsteps x).xfers = s.xfers := rfl
@[simp] theorem State.setUsteps_gsteps (s : State) (x : List UStep) : (s.setUsteps x).gsteps = s.gsteps := rfl
@[simp] theorem State.setUsteps_usteps (s : State) (x : List UStep) : (s.setUsteps x).usteps = x := rfl
@[simp] theorem State.setUsteps_upd (s : State) (x : List UStep) : (s.setUsteps x).upd = s.upd := rfl
@[simp] theorem State.setUsteps_mem (s : State) (x : List UStep) : (s.setUsteps x).mem = s.mem := rfl
@[simp] theorem State.setUsteps_xlt (s : State) (x : List UStep) : (s.setUsteps x).xlt = s.xlt := rfl
@[simp] theorem State.setUsteps_fab (s : State) (x : List UStep) : (s.setUsteps x).fab = s.fab := rfl
@[simp] theorem State.setUsteps_err (s : State) (x : List UStep) : (s.setUsteps x).err = s.err := rfl
@[simp] theorem State.setUsteps_boot (s : State) (x : List UStep) : (s.setUsteps x).boot = s.boot := rfl
@[simp] theorem State.setUsteps_hlt (s : State) (x : List UStep) : (s.setUsteps x).hlt = s.hlt := rfl
@[simp] theorem State.setUsteps_pwr (s : State) (x : List UStep) : (s.setUsteps x).pwr = s.pwr := rfl
@[simp] theorem State.setUsteps_notes (s : State) (x : List UStep) : (s.setUsteps x).notes = s.notes := rfl
@[simp] theorem State.setUsteps_out (s : State) (x : List UStep) : (s.setUsteps x).out = s.out := rfl
@[simp] theorem State.setUsteps_free (s : State) (x : List UStep) : (s.setUsteps x).free = s.free := rfl
@[simp] theorem State.setUsteps_pending (s : State) (x : List UStep) : (s.setUsteps x).pending = s.pending := rfl

/-! ## setParts -/

@[simp] theorem State.setParts_regs (s : State) (x : SMap PartS) : (s.setParts x).regs = s.regs := rfl
@[simp] theorem State.setParts_latches (s : State) (x : SMap PartS) : (s.setParts x).latches = s.latches := rfl
@[simp] theorem State.setParts_locks (s : State) (x : SMap PartS) : (s.setParts x).locks = s.locks := rfl
@[simp] theorem State.setParts_time (s : State) (x : SMap PartS) : (s.setParts x).time = s.time := rfl
@[simp] theorem State.setParts_parts (s : State) (x : SMap PartS) : (s.setParts x).parts = x := rfl
@[simp] theorem State.setParts_rings (s : State) (x : SMap PartS) : (s.setParts x).rings = s.rings := rfl
@[simp] theorem State.setParts_ports (s : State) (x : SMap PartS) : (s.setParts x).ports = s.ports := rfl
@[simp] theorem State.setParts_subs (s : State) (x : SMap PartS) : (s.setParts x).subs = s.subs := rfl
@[simp] theorem State.setParts_slots (s : State) (x : SMap PartS) : (s.setParts x).slots = s.slots := rfl
@[simp] theorem State.setParts_reads (s : State) (x : SMap PartS) : (s.setParts x).reads = s.reads := rfl
@[simp] theorem State.setParts_nextId (s : State) (x : SMap PartS) : (s.setParts x).nextId = s.nextId := rfl
@[simp] theorem State.setParts_arrays (s : State) (x : SMap PartS) : (s.setParts x).arrays = s.arrays := rfl
@[simp] theorem State.setParts_cores (s : State) (x : SMap PartS) : (s.setParts x).cores = s.cores := rfl
@[simp] theorem State.setParts_engines (s : State) (x : SMap PartS) : (s.setParts x).engines = s.engines := rfl
@[simp] theorem State.setParts_books (s : State) (x : SMap PartS) : (s.setParts x).books = s.books := rfl
@[simp] theorem State.setParts_xfers (s : State) (x : SMap PartS) : (s.setParts x).xfers = s.xfers := rfl
@[simp] theorem State.setParts_gsteps (s : State) (x : SMap PartS) : (s.setParts x).gsteps = s.gsteps := rfl
@[simp] theorem State.setParts_usteps (s : State) (x : SMap PartS) : (s.setParts x).usteps = s.usteps := rfl
@[simp] theorem State.setParts_upd (s : State) (x : SMap PartS) : (s.setParts x).upd = s.upd := rfl
@[simp] theorem State.setParts_mem (s : State) (x : SMap PartS) : (s.setParts x).mem = s.mem := rfl
@[simp] theorem State.setParts_xlt (s : State) (x : SMap PartS) : (s.setParts x).xlt = s.xlt := rfl
@[simp] theorem State.setParts_fab (s : State) (x : SMap PartS) : (s.setParts x).fab = s.fab := rfl
@[simp] theorem State.setParts_err (s : State) (x : SMap PartS) : (s.setParts x).err = s.err := rfl
@[simp] theorem State.setParts_boot (s : State) (x : SMap PartS) : (s.setParts x).boot = s.boot := rfl
@[simp] theorem State.setParts_hlt (s : State) (x : SMap PartS) : (s.setParts x).hlt = s.hlt := rfl
@[simp] theorem State.setParts_pwr (s : State) (x : SMap PartS) : (s.setParts x).pwr = s.pwr := rfl
@[simp] theorem State.setParts_notes (s : State) (x : SMap PartS) : (s.setParts x).notes = s.notes := rfl
@[simp] theorem State.setParts_out (s : State) (x : SMap PartS) : (s.setParts x).out = s.out := rfl
@[simp] theorem State.setParts_free (s : State) (x : SMap PartS) : (s.setParts x).free = s.free := rfl
@[simp] theorem State.setParts_pending (s : State) (x : SMap PartS) : (s.setParts x).pending = s.pending := rfl

/-! ## setRings -/

@[simp] theorem State.setRings_regs (s : State) (x : SMap RingS) : (s.setRings x).regs = s.regs := rfl
@[simp] theorem State.setRings_latches (s : State) (x : SMap RingS) : (s.setRings x).latches = s.latches := rfl
@[simp] theorem State.setRings_locks (s : State) (x : SMap RingS) : (s.setRings x).locks = s.locks := rfl
@[simp] theorem State.setRings_time (s : State) (x : SMap RingS) : (s.setRings x).time = s.time := rfl
@[simp] theorem State.setRings_parts (s : State) (x : SMap RingS) : (s.setRings x).parts = s.parts := rfl
@[simp] theorem State.setRings_rings (s : State) (x : SMap RingS) : (s.setRings x).rings = x := rfl
@[simp] theorem State.setRings_ports (s : State) (x : SMap RingS) : (s.setRings x).ports = s.ports := rfl
@[simp] theorem State.setRings_subs (s : State) (x : SMap RingS) : (s.setRings x).subs = s.subs := rfl
@[simp] theorem State.setRings_slots (s : State) (x : SMap RingS) : (s.setRings x).slots = s.slots := rfl
@[simp] theorem State.setRings_reads (s : State) (x : SMap RingS) : (s.setRings x).reads = s.reads := rfl
@[simp] theorem State.setRings_nextId (s : State) (x : SMap RingS) : (s.setRings x).nextId = s.nextId := rfl
@[simp] theorem State.setRings_arrays (s : State) (x : SMap RingS) : (s.setRings x).arrays = s.arrays := rfl
@[simp] theorem State.setRings_cores (s : State) (x : SMap RingS) : (s.setRings x).cores = s.cores := rfl
@[simp] theorem State.setRings_engines (s : State) (x : SMap RingS) : (s.setRings x).engines = s.engines := rfl
@[simp] theorem State.setRings_books (s : State) (x : SMap RingS) : (s.setRings x).books = s.books := rfl
@[simp] theorem State.setRings_xfers (s : State) (x : SMap RingS) : (s.setRings x).xfers = s.xfers := rfl
@[simp] theorem State.setRings_gsteps (s : State) (x : SMap RingS) : (s.setRings x).gsteps = s.gsteps := rfl
@[simp] theorem State.setRings_usteps (s : State) (x : SMap RingS) : (s.setRings x).usteps = s.usteps := rfl
@[simp] theorem State.setRings_upd (s : State) (x : SMap RingS) : (s.setRings x).upd = s.upd := rfl
@[simp] theorem State.setRings_mem (s : State) (x : SMap RingS) : (s.setRings x).mem = s.mem := rfl
@[simp] theorem State.setRings_xlt (s : State) (x : SMap RingS) : (s.setRings x).xlt = s.xlt := rfl
@[simp] theorem State.setRings_fab (s : State) (x : SMap RingS) : (s.setRings x).fab = s.fab := rfl
@[simp] theorem State.setRings_err (s : State) (x : SMap RingS) : (s.setRings x).err = s.err := rfl
@[simp] theorem State.setRings_boot (s : State) (x : SMap RingS) : (s.setRings x).boot = s.boot := rfl
@[simp] theorem State.setRings_hlt (s : State) (x : SMap RingS) : (s.setRings x).hlt = s.hlt := rfl
@[simp] theorem State.setRings_pwr (s : State) (x : SMap RingS) : (s.setRings x).pwr = s.pwr := rfl
@[simp] theorem State.setRings_notes (s : State) (x : SMap RingS) : (s.setRings x).notes = s.notes := rfl
@[simp] theorem State.setRings_out (s : State) (x : SMap RingS) : (s.setRings x).out = s.out := rfl
@[simp] theorem State.setRings_free (s : State) (x : SMap RingS) : (s.setRings x).free = s.free := rfl
@[simp] theorem State.setRings_pending (s : State) (x : SMap RingS) : (s.setRings x).pending = s.pending := rfl

/-! ## setPorts -/

@[simp] theorem State.setPorts_regs (s : State) (x : SMap PortS) : (s.setPorts x).regs = s.regs := rfl
@[simp] theorem State.setPorts_latches (s : State) (x : SMap PortS) : (s.setPorts x).latches = s.latches := rfl
@[simp] theorem State.setPorts_locks (s : State) (x : SMap PortS) : (s.setPorts x).locks = s.locks := rfl
@[simp] theorem State.setPorts_time (s : State) (x : SMap PortS) : (s.setPorts x).time = s.time := rfl
@[simp] theorem State.setPorts_parts (s : State) (x : SMap PortS) : (s.setPorts x).parts = s.parts := rfl
@[simp] theorem State.setPorts_rings (s : State) (x : SMap PortS) : (s.setPorts x).rings = s.rings := rfl
@[simp] theorem State.setPorts_ports (s : State) (x : SMap PortS) : (s.setPorts x).ports = x := rfl
@[simp] theorem State.setPorts_subs (s : State) (x : SMap PortS) : (s.setPorts x).subs = s.subs := rfl
@[simp] theorem State.setPorts_slots (s : State) (x : SMap PortS) : (s.setPorts x).slots = s.slots := rfl
@[simp] theorem State.setPorts_reads (s : State) (x : SMap PortS) : (s.setPorts x).reads = s.reads := rfl
@[simp] theorem State.setPorts_nextId (s : State) (x : SMap PortS) : (s.setPorts x).nextId = s.nextId := rfl
@[simp] theorem State.setPorts_arrays (s : State) (x : SMap PortS) : (s.setPorts x).arrays = s.arrays := rfl
@[simp] theorem State.setPorts_cores (s : State) (x : SMap PortS) : (s.setPorts x).cores = s.cores := rfl
@[simp] theorem State.setPorts_engines (s : State) (x : SMap PortS) : (s.setPorts x).engines = s.engines := rfl
@[simp] theorem State.setPorts_books (s : State) (x : SMap PortS) : (s.setPorts x).books = s.books := rfl
@[simp] theorem State.setPorts_xfers (s : State) (x : SMap PortS) : (s.setPorts x).xfers = s.xfers := rfl
@[simp] theorem State.setPorts_gsteps (s : State) (x : SMap PortS) : (s.setPorts x).gsteps = s.gsteps := rfl
@[simp] theorem State.setPorts_usteps (s : State) (x : SMap PortS) : (s.setPorts x).usteps = s.usteps := rfl
@[simp] theorem State.setPorts_upd (s : State) (x : SMap PortS) : (s.setPorts x).upd = s.upd := rfl
@[simp] theorem State.setPorts_mem (s : State) (x : SMap PortS) : (s.setPorts x).mem = s.mem := rfl
@[simp] theorem State.setPorts_xlt (s : State) (x : SMap PortS) : (s.setPorts x).xlt = s.xlt := rfl
@[simp] theorem State.setPorts_fab (s : State) (x : SMap PortS) : (s.setPorts x).fab = s.fab := rfl
@[simp] theorem State.setPorts_err (s : State) (x : SMap PortS) : (s.setPorts x).err = s.err := rfl
@[simp] theorem State.setPorts_boot (s : State) (x : SMap PortS) : (s.setPorts x).boot = s.boot := rfl
@[simp] theorem State.setPorts_hlt (s : State) (x : SMap PortS) : (s.setPorts x).hlt = s.hlt := rfl
@[simp] theorem State.setPorts_pwr (s : State) (x : SMap PortS) : (s.setPorts x).pwr = s.pwr := rfl
@[simp] theorem State.setPorts_notes (s : State) (x : SMap PortS) : (s.setPorts x).notes = s.notes := rfl
@[simp] theorem State.setPorts_out (s : State) (x : SMap PortS) : (s.setPorts x).out = s.out := rfl
@[simp] theorem State.setPorts_free (s : State) (x : SMap PortS) : (s.setPorts x).free = s.free := rfl
@[simp] theorem State.setPorts_pending (s : State) (x : SMap PortS) : (s.setPorts x).pending = s.pending := rfl

/-! ## setArrays -/

@[simp] theorem State.setArrays_regs (s : State) (x : SMap ArrayS) : (s.setArrays x).regs = s.regs := rfl
@[simp] theorem State.setArrays_latches (s : State) (x : SMap ArrayS) : (s.setArrays x).latches = s.latches := rfl
@[simp] theorem State.setArrays_locks (s : State) (x : SMap ArrayS) : (s.setArrays x).locks = s.locks := rfl
@[simp] theorem State.setArrays_time (s : State) (x : SMap ArrayS) : (s.setArrays x).time = s.time := rfl
@[simp] theorem State.setArrays_parts (s : State) (x : SMap ArrayS) : (s.setArrays x).parts = s.parts := rfl
@[simp] theorem State.setArrays_rings (s : State) (x : SMap ArrayS) : (s.setArrays x).rings = s.rings := rfl
@[simp] theorem State.setArrays_ports (s : State) (x : SMap ArrayS) : (s.setArrays x).ports = s.ports := rfl
@[simp] theorem State.setArrays_subs (s : State) (x : SMap ArrayS) : (s.setArrays x).subs = s.subs := rfl
@[simp] theorem State.setArrays_slots (s : State) (x : SMap ArrayS) : (s.setArrays x).slots = s.slots := rfl
@[simp] theorem State.setArrays_reads (s : State) (x : SMap ArrayS) : (s.setArrays x).reads = s.reads := rfl
@[simp] theorem State.setArrays_nextId (s : State) (x : SMap ArrayS) : (s.setArrays x).nextId = s.nextId := rfl
@[simp] theorem State.setArrays_arrays (s : State) (x : SMap ArrayS) : (s.setArrays x).arrays = x := rfl
@[simp] theorem State.setArrays_cores (s : State) (x : SMap ArrayS) : (s.setArrays x).cores = s.cores := rfl
@[simp] theorem State.setArrays_engines (s : State) (x : SMap ArrayS) : (s.setArrays x).engines = s.engines := rfl
@[simp] theorem State.setArrays_books (s : State) (x : SMap ArrayS) : (s.setArrays x).books = s.books := rfl
@[simp] theorem State.setArrays_xfers (s : State) (x : SMap ArrayS) : (s.setArrays x).xfers = s.xfers := rfl
@[simp] theorem State.setArrays_gsteps (s : State) (x : SMap ArrayS) : (s.setArrays x).gsteps = s.gsteps := rfl
@[simp] theorem State.setArrays_usteps (s : State) (x : SMap ArrayS) : (s.setArrays x).usteps = s.usteps := rfl
@[simp] theorem State.setArrays_upd (s : State) (x : SMap ArrayS) : (s.setArrays x).upd = s.upd := rfl
@[simp] theorem State.setArrays_mem (s : State) (x : SMap ArrayS) : (s.setArrays x).mem = s.mem := rfl
@[simp] theorem State.setArrays_xlt (s : State) (x : SMap ArrayS) : (s.setArrays x).xlt = s.xlt := rfl
@[simp] theorem State.setArrays_fab (s : State) (x : SMap ArrayS) : (s.setArrays x).fab = s.fab := rfl
@[simp] theorem State.setArrays_err (s : State) (x : SMap ArrayS) : (s.setArrays x).err = s.err := rfl
@[simp] theorem State.setArrays_boot (s : State) (x : SMap ArrayS) : (s.setArrays x).boot = s.boot := rfl
@[simp] theorem State.setArrays_hlt (s : State) (x : SMap ArrayS) : (s.setArrays x).hlt = s.hlt := rfl
@[simp] theorem State.setArrays_pwr (s : State) (x : SMap ArrayS) : (s.setArrays x).pwr = s.pwr := rfl
@[simp] theorem State.setArrays_notes (s : State) (x : SMap ArrayS) : (s.setArrays x).notes = s.notes := rfl
@[simp] theorem State.setArrays_out (s : State) (x : SMap ArrayS) : (s.setArrays x).out = s.out := rfl
@[simp] theorem State.setArrays_free (s : State) (x : SMap ArrayS) : (s.setArrays x).free = s.free := rfl
@[simp] theorem State.setArrays_pending (s : State) (x : SMap ArrayS) : (s.setArrays x).pending = s.pending := rfl

/-! ## setCores -/

@[simp] theorem State.setCores_regs (s : State) (x : SMap CoreS) : (s.setCores x).regs = s.regs := rfl
@[simp] theorem State.setCores_latches (s : State) (x : SMap CoreS) : (s.setCores x).latches = s.latches := rfl
@[simp] theorem State.setCores_locks (s : State) (x : SMap CoreS) : (s.setCores x).locks = s.locks := rfl
@[simp] theorem State.setCores_time (s : State) (x : SMap CoreS) : (s.setCores x).time = s.time := rfl
@[simp] theorem State.setCores_parts (s : State) (x : SMap CoreS) : (s.setCores x).parts = s.parts := rfl
@[simp] theorem State.setCores_rings (s : State) (x : SMap CoreS) : (s.setCores x).rings = s.rings := rfl
@[simp] theorem State.setCores_ports (s : State) (x : SMap CoreS) : (s.setCores x).ports = s.ports := rfl
@[simp] theorem State.setCores_subs (s : State) (x : SMap CoreS) : (s.setCores x).subs = s.subs := rfl
@[simp] theorem State.setCores_slots (s : State) (x : SMap CoreS) : (s.setCores x).slots = s.slots := rfl
@[simp] theorem State.setCores_reads (s : State) (x : SMap CoreS) : (s.setCores x).reads = s.reads := rfl
@[simp] theorem State.setCores_nextId (s : State) (x : SMap CoreS) : (s.setCores x).nextId = s.nextId := rfl
@[simp] theorem State.setCores_arrays (s : State) (x : SMap CoreS) : (s.setCores x).arrays = s.arrays := rfl
@[simp] theorem State.setCores_cores (s : State) (x : SMap CoreS) : (s.setCores x).cores = x := rfl
@[simp] theorem State.setCores_engines (s : State) (x : SMap CoreS) : (s.setCores x).engines = s.engines := rfl
@[simp] theorem State.setCores_books (s : State) (x : SMap CoreS) : (s.setCores x).books = s.books := rfl
@[simp] theorem State.setCores_xfers (s : State) (x : SMap CoreS) : (s.setCores x).xfers = s.xfers := rfl
@[simp] theorem State.setCores_gsteps (s : State) (x : SMap CoreS) : (s.setCores x).gsteps = s.gsteps := rfl
@[simp] theorem State.setCores_usteps (s : State) (x : SMap CoreS) : (s.setCores x).usteps = s.usteps := rfl
@[simp] theorem State.setCores_upd (s : State) (x : SMap CoreS) : (s.setCores x).upd = s.upd := rfl
@[simp] theorem State.setCores_mem (s : State) (x : SMap CoreS) : (s.setCores x).mem = s.mem := rfl
@[simp] theorem State.setCores_xlt (s : State) (x : SMap CoreS) : (s.setCores x).xlt = s.xlt := rfl
@[simp] theorem State.setCores_fab (s : State) (x : SMap CoreS) : (s.setCores x).fab = s.fab := rfl
@[simp] theorem State.setCores_err (s : State) (x : SMap CoreS) : (s.setCores x).err = s.err := rfl
@[simp] theorem State.setCores_boot (s : State) (x : SMap CoreS) : (s.setCores x).boot = s.boot := rfl
@[simp] theorem State.setCores_hlt (s : State) (x : SMap CoreS) : (s.setCores x).hlt = s.hlt := rfl
@[simp] theorem State.setCores_pwr (s : State) (x : SMap CoreS) : (s.setCores x).pwr = s.pwr := rfl
@[simp] theorem State.setCores_notes (s : State) (x : SMap CoreS) : (s.setCores x).notes = s.notes := rfl
@[simp] theorem State.setCores_out (s : State) (x : SMap CoreS) : (s.setCores x).out = s.out := rfl
@[simp] theorem State.setCores_free (s : State) (x : SMap CoreS) : (s.setCores x).free = s.free := rfl
@[simp] theorem State.setCores_pending (s : State) (x : SMap CoreS) : (s.setCores x).pending = s.pending := rfl

/-! ## setPart -/

@[simp] theorem State.setPart_regs (s : State) (p : Nat) (x : PartS) : (s.setPart p x).regs = s.regs := rfl
@[simp] theorem State.setPart_latches (s : State) (p : Nat) (x : PartS) : (s.setPart p x).latches = s.latches := rfl
@[simp] theorem State.setPart_locks (s : State) (p : Nat) (x : PartS) : (s.setPart p x).locks = s.locks := rfl
@[simp] theorem State.setPart_time (s : State) (p : Nat) (x : PartS) : (s.setPart p x).time = s.time := rfl
@[simp] theorem State.setPart_parts (s : State) (p : Nat) (x : PartS) : (s.setPart p x).parts = smSet PartS.init s.parts p x := rfl
@[simp] theorem State.setPart_rings (s : State) (p : Nat) (x : PartS) : (s.setPart p x).rings = s.rings := rfl
@[simp] theorem State.setPart_ports (s : State) (p : Nat) (x : PartS) : (s.setPart p x).ports = s.ports := rfl
@[simp] theorem State.setPart_subs (s : State) (p : Nat) (x : PartS) : (s.setPart p x).subs = s.subs := rfl
@[simp] theorem State.setPart_slots (s : State) (p : Nat) (x : PartS) : (s.setPart p x).slots = s.slots := rfl
@[simp] theorem State.setPart_reads (s : State) (p : Nat) (x : PartS) : (s.setPart p x).reads = s.reads := rfl
@[simp] theorem State.setPart_nextId (s : State) (p : Nat) (x : PartS) : (s.setPart p x).nextId = s.nextId := rfl
@[simp] theorem State.setPart_arrays (s : State) (p : Nat) (x : PartS) : (s.setPart p x).arrays = s.arrays := rfl
@[simp] theorem State.setPart_cores (s : State) (p : Nat) (x : PartS) : (s.setPart p x).cores = s.cores := rfl
@[simp] theorem State.setPart_engines (s : State) (p : Nat) (x : PartS) : (s.setPart p x).engines = s.engines := rfl
@[simp] theorem State.setPart_books (s : State) (p : Nat) (x : PartS) : (s.setPart p x).books = s.books := rfl
@[simp] theorem State.setPart_xfers (s : State) (p : Nat) (x : PartS) : (s.setPart p x).xfers = s.xfers := rfl
@[simp] theorem State.setPart_gsteps (s : State) (p : Nat) (x : PartS) : (s.setPart p x).gsteps = s.gsteps := rfl
@[simp] theorem State.setPart_usteps (s : State) (p : Nat) (x : PartS) : (s.setPart p x).usteps = s.usteps := rfl
@[simp] theorem State.setPart_upd (s : State) (p : Nat) (x : PartS) : (s.setPart p x).upd = s.upd := rfl
@[simp] theorem State.setPart_mem (s : State) (p : Nat) (x : PartS) : (s.setPart p x).mem = s.mem := rfl
@[simp] theorem State.setPart_xlt (s : State) (p : Nat) (x : PartS) : (s.setPart p x).xlt = s.xlt := rfl
@[simp] theorem State.setPart_fab (s : State) (p : Nat) (x : PartS) : (s.setPart p x).fab = s.fab := rfl
@[simp] theorem State.setPart_err (s : State) (p : Nat) (x : PartS) : (s.setPart p x).err = s.err := rfl
@[simp] theorem State.setPart_boot (s : State) (p : Nat) (x : PartS) : (s.setPart p x).boot = s.boot := rfl
@[simp] theorem State.setPart_hlt (s : State) (p : Nat) (x : PartS) : (s.setPart p x).hlt = s.hlt := rfl
@[simp] theorem State.setPart_pwr (s : State) (p : Nat) (x : PartS) : (s.setPart p x).pwr = s.pwr := rfl
@[simp] theorem State.setPart_notes (s : State) (p : Nat) (x : PartS) : (s.setPart p x).notes = s.notes := rfl
@[simp] theorem State.setPart_out (s : State) (p : Nat) (x : PartS) : (s.setPart p x).out = s.out := rfl
@[simp] theorem State.setPart_free (s : State) (p : Nat) (x : PartS) : (s.setPart p x).free = s.free := rfl
@[simp] theorem State.setPart_pending (s : State) (p : Nat) (x : PartS) : (s.setPart p x).pending = s.pending := rfl

/-! ## setRing -/

@[simp] theorem State.setRing_regs (s : State) (r : Nat) (x : RingS) : (s.setRing r x).regs = s.regs := rfl
@[simp] theorem State.setRing_latches (s : State) (r : Nat) (x : RingS) : (s.setRing r x).latches = s.latches := rfl
@[simp] theorem State.setRing_locks (s : State) (r : Nat) (x : RingS) : (s.setRing r x).locks = s.locks := rfl
@[simp] theorem State.setRing_time (s : State) (r : Nat) (x : RingS) : (s.setRing r x).time = s.time := rfl
@[simp] theorem State.setRing_parts (s : State) (r : Nat) (x : RingS) : (s.setRing r x).parts = s.parts := rfl
@[simp] theorem State.setRing_rings (s : State) (r : Nat) (x : RingS) : (s.setRing r x).rings = smSet RingS.init s.rings r x := rfl
@[simp] theorem State.setRing_ports (s : State) (r : Nat) (x : RingS) : (s.setRing r x).ports = s.ports := rfl
@[simp] theorem State.setRing_subs (s : State) (r : Nat) (x : RingS) : (s.setRing r x).subs = s.subs := rfl
@[simp] theorem State.setRing_slots (s : State) (r : Nat) (x : RingS) : (s.setRing r x).slots = s.slots := rfl
@[simp] theorem State.setRing_reads (s : State) (r : Nat) (x : RingS) : (s.setRing r x).reads = s.reads := rfl
@[simp] theorem State.setRing_nextId (s : State) (r : Nat) (x : RingS) : (s.setRing r x).nextId = s.nextId := rfl
@[simp] theorem State.setRing_arrays (s : State) (r : Nat) (x : RingS) : (s.setRing r x).arrays = s.arrays := rfl
@[simp] theorem State.setRing_cores (s : State) (r : Nat) (x : RingS) : (s.setRing r x).cores = s.cores := rfl
@[simp] theorem State.setRing_engines (s : State) (r : Nat) (x : RingS) : (s.setRing r x).engines = s.engines := rfl
@[simp] theorem State.setRing_books (s : State) (r : Nat) (x : RingS) : (s.setRing r x).books = s.books := rfl
@[simp] theorem State.setRing_xfers (s : State) (r : Nat) (x : RingS) : (s.setRing r x).xfers = s.xfers := rfl
@[simp] theorem State.setRing_gsteps (s : State) (r : Nat) (x : RingS) : (s.setRing r x).gsteps = s.gsteps := rfl
@[simp] theorem State.setRing_usteps (s : State) (r : Nat) (x : RingS) : (s.setRing r x).usteps = s.usteps := rfl
@[simp] theorem State.setRing_upd (s : State) (r : Nat) (x : RingS) : (s.setRing r x).upd = s.upd := rfl
@[simp] theorem State.setRing_mem (s : State) (r : Nat) (x : RingS) : (s.setRing r x).mem = s.mem := rfl
@[simp] theorem State.setRing_xlt (s : State) (r : Nat) (x : RingS) : (s.setRing r x).xlt = s.xlt := rfl
@[simp] theorem State.setRing_fab (s : State) (r : Nat) (x : RingS) : (s.setRing r x).fab = s.fab := rfl
@[simp] theorem State.setRing_err (s : State) (r : Nat) (x : RingS) : (s.setRing r x).err = s.err := rfl
@[simp] theorem State.setRing_boot (s : State) (r : Nat) (x : RingS) : (s.setRing r x).boot = s.boot := rfl
@[simp] theorem State.setRing_hlt (s : State) (r : Nat) (x : RingS) : (s.setRing r x).hlt = s.hlt := rfl
@[simp] theorem State.setRing_pwr (s : State) (r : Nat) (x : RingS) : (s.setRing r x).pwr = s.pwr := rfl
@[simp] theorem State.setRing_notes (s : State) (r : Nat) (x : RingS) : (s.setRing r x).notes = s.notes := rfl
@[simp] theorem State.setRing_out (s : State) (r : Nat) (x : RingS) : (s.setRing r x).out = s.out := rfl
@[simp] theorem State.setRing_free (s : State) (r : Nat) (x : RingS) : (s.setRing r x).free = s.free := rfl
@[simp] theorem State.setRing_pending (s : State) (r : Nat) (x : RingS) : (s.setRing r x).pending = s.pending := rfl

/-! ## setPort -/

@[simp] theorem State.setPort_regs (s : State) (p : Nat) (x : PortS) : (s.setPort p x).regs = s.regs := rfl
@[simp] theorem State.setPort_latches (s : State) (p : Nat) (x : PortS) : (s.setPort p x).latches = s.latches := rfl
@[simp] theorem State.setPort_locks (s : State) (p : Nat) (x : PortS) : (s.setPort p x).locks = s.locks := rfl
@[simp] theorem State.setPort_time (s : State) (p : Nat) (x : PortS) : (s.setPort p x).time = s.time := rfl
@[simp] theorem State.setPort_parts (s : State) (p : Nat) (x : PortS) : (s.setPort p x).parts = s.parts := rfl
@[simp] theorem State.setPort_rings (s : State) (p : Nat) (x : PortS) : (s.setPort p x).rings = s.rings := rfl
@[simp] theorem State.setPort_ports (s : State) (p : Nat) (x : PortS) : (s.setPort p x).ports = smSet PortS.init s.ports p x := rfl
@[simp] theorem State.setPort_subs (s : State) (p : Nat) (x : PortS) : (s.setPort p x).subs = s.subs := rfl
@[simp] theorem State.setPort_slots (s : State) (p : Nat) (x : PortS) : (s.setPort p x).slots = s.slots := rfl
@[simp] theorem State.setPort_reads (s : State) (p : Nat) (x : PortS) : (s.setPort p x).reads = s.reads := rfl
@[simp] theorem State.setPort_nextId (s : State) (p : Nat) (x : PortS) : (s.setPort p x).nextId = s.nextId := rfl
@[simp] theorem State.setPort_arrays (s : State) (p : Nat) (x : PortS) : (s.setPort p x).arrays = s.arrays := rfl
@[simp] theorem State.setPort_cores (s : State) (p : Nat) (x : PortS) : (s.setPort p x).cores = s.cores := rfl
@[simp] theorem State.setPort_engines (s : State) (p : Nat) (x : PortS) : (s.setPort p x).engines = s.engines := rfl
@[simp] theorem State.setPort_books (s : State) (p : Nat) (x : PortS) : (s.setPort p x).books = s.books := rfl
@[simp] theorem State.setPort_xfers (s : State) (p : Nat) (x : PortS) : (s.setPort p x).xfers = s.xfers := rfl
@[simp] theorem State.setPort_gsteps (s : State) (p : Nat) (x : PortS) : (s.setPort p x).gsteps = s.gsteps := rfl
@[simp] theorem State.setPort_usteps (s : State) (p : Nat) (x : PortS) : (s.setPort p x).usteps = s.usteps := rfl
@[simp] theorem State.setPort_upd (s : State) (p : Nat) (x : PortS) : (s.setPort p x).upd = s.upd := rfl
@[simp] theorem State.setPort_mem (s : State) (p : Nat) (x : PortS) : (s.setPort p x).mem = s.mem := rfl
@[simp] theorem State.setPort_xlt (s : State) (p : Nat) (x : PortS) : (s.setPort p x).xlt = s.xlt := rfl
@[simp] theorem State.setPort_fab (s : State) (p : Nat) (x : PortS) : (s.setPort p x).fab = s.fab := rfl
@[simp] theorem State.setPort_err (s : State) (p : Nat) (x : PortS) : (s.setPort p x).err = s.err := rfl
@[simp] theorem State.setPort_boot (s : State) (p : Nat) (x : PortS) : (s.setPort p x).boot = s.boot := rfl
@[simp] theorem State.setPort_hlt (s : State) (p : Nat) (x : PortS) : (s.setPort p x).hlt = s.hlt := rfl
@[simp] theorem State.setPort_pwr (s : State) (p : Nat) (x : PortS) : (s.setPort p x).pwr = s.pwr := rfl
@[simp] theorem State.setPort_notes (s : State) (p : Nat) (x : PortS) : (s.setPort p x).notes = s.notes := rfl
@[simp] theorem State.setPort_out (s : State) (p : Nat) (x : PortS) : (s.setPort p x).out = s.out := rfl
@[simp] theorem State.setPort_free (s : State) (p : Nat) (x : PortS) : (s.setPort p x).free = s.free := rfl
@[simp] theorem State.setPort_pending (s : State) (p : Nat) (x : PortS) : (s.setPort p x).pending = s.pending := rfl

/-! ## setArray -/

@[simp] theorem State.setArray_regs (s : State) (a : Nat) (x : ArrayS) : (s.setArray a x).regs = s.regs := rfl
@[simp] theorem State.setArray_latches (s : State) (a : Nat) (x : ArrayS) : (s.setArray a x).latches = s.latches := rfl
@[simp] theorem State.setArray_locks (s : State) (a : Nat) (x : ArrayS) : (s.setArray a x).locks = s.locks := rfl
@[simp] theorem State.setArray_time (s : State) (a : Nat) (x : ArrayS) : (s.setArray a x).time = s.time := rfl
@[simp] theorem State.setArray_parts (s : State) (a : Nat) (x : ArrayS) : (s.setArray a x).parts = s.parts := rfl
@[simp] theorem State.setArray_rings (s : State) (a : Nat) (x : ArrayS) : (s.setArray a x).rings = s.rings := rfl
@[simp] theorem State.setArray_ports (s : State) (a : Nat) (x : ArrayS) : (s.setArray a x).ports = s.ports := rfl
@[simp] theorem State.setArray_subs (s : State) (a : Nat) (x : ArrayS) : (s.setArray a x).subs = s.subs := rfl
@[simp] theorem State.setArray_slots (s : State) (a : Nat) (x : ArrayS) : (s.setArray a x).slots = s.slots := rfl
@[simp] theorem State.setArray_reads (s : State) (a : Nat) (x : ArrayS) : (s.setArray a x).reads = s.reads := rfl
@[simp] theorem State.setArray_nextId (s : State) (a : Nat) (x : ArrayS) : (s.setArray a x).nextId = s.nextId := rfl
@[simp] theorem State.setArray_arrays (s : State) (a : Nat) (x : ArrayS) : (s.setArray a x).arrays = smSet ArrayS.init s.arrays a x := rfl
@[simp] theorem State.setArray_cores (s : State) (a : Nat) (x : ArrayS) : (s.setArray a x).cores = s.cores := rfl
@[simp] theorem State.setArray_engines (s : State) (a : Nat) (x : ArrayS) : (s.setArray a x).engines = s.engines := rfl
@[simp] theorem State.setArray_books (s : State) (a : Nat) (x : ArrayS) : (s.setArray a x).books = s.books := rfl
@[simp] theorem State.setArray_xfers (s : State) (a : Nat) (x : ArrayS) : (s.setArray a x).xfers = s.xfers := rfl
@[simp] theorem State.setArray_gsteps (s : State) (a : Nat) (x : ArrayS) : (s.setArray a x).gsteps = s.gsteps := rfl
@[simp] theorem State.setArray_usteps (s : State) (a : Nat) (x : ArrayS) : (s.setArray a x).usteps = s.usteps := rfl
@[simp] theorem State.setArray_upd (s : State) (a : Nat) (x : ArrayS) : (s.setArray a x).upd = s.upd := rfl
@[simp] theorem State.setArray_mem (s : State) (a : Nat) (x : ArrayS) : (s.setArray a x).mem = s.mem := rfl
@[simp] theorem State.setArray_xlt (s : State) (a : Nat) (x : ArrayS) : (s.setArray a x).xlt = s.xlt := rfl
@[simp] theorem State.setArray_fab (s : State) (a : Nat) (x : ArrayS) : (s.setArray a x).fab = s.fab := rfl
@[simp] theorem State.setArray_err (s : State) (a : Nat) (x : ArrayS) : (s.setArray a x).err = s.err := rfl
@[simp] theorem State.setArray_boot (s : State) (a : Nat) (x : ArrayS) : (s.setArray a x).boot = s.boot := rfl
@[simp] theorem State.setArray_hlt (s : State) (a : Nat) (x : ArrayS) : (s.setArray a x).hlt = s.hlt := rfl
@[simp] theorem State.setArray_pwr (s : State) (a : Nat) (x : ArrayS) : (s.setArray a x).pwr = s.pwr := rfl
@[simp] theorem State.setArray_notes (s : State) (a : Nat) (x : ArrayS) : (s.setArray a x).notes = s.notes := rfl
@[simp] theorem State.setArray_out (s : State) (a : Nat) (x : ArrayS) : (s.setArray a x).out = s.out := rfl
@[simp] theorem State.setArray_free (s : State) (a : Nat) (x : ArrayS) : (s.setArray a x).free = s.free := rfl
@[simp] theorem State.setArray_pending (s : State) (a : Nat) (x : ArrayS) : (s.setArray a x).pending = s.pending := rfl

/-! ## setCore -/

@[simp] theorem State.setCore_regs (s : State) (c : Nat) (x : CoreS) : (s.setCore c x).regs = s.regs := rfl
@[simp] theorem State.setCore_latches (s : State) (c : Nat) (x : CoreS) : (s.setCore c x).latches = s.latches := rfl
@[simp] theorem State.setCore_locks (s : State) (c : Nat) (x : CoreS) : (s.setCore c x).locks = s.locks := rfl
@[simp] theorem State.setCore_time (s : State) (c : Nat) (x : CoreS) : (s.setCore c x).time = s.time := rfl
@[simp] theorem State.setCore_parts (s : State) (c : Nat) (x : CoreS) : (s.setCore c x).parts = s.parts := rfl
@[simp] theorem State.setCore_rings (s : State) (c : Nat) (x : CoreS) : (s.setCore c x).rings = s.rings := rfl
@[simp] theorem State.setCore_ports (s : State) (c : Nat) (x : CoreS) : (s.setCore c x).ports = s.ports := rfl
@[simp] theorem State.setCore_subs (s : State) (c : Nat) (x : CoreS) : (s.setCore c x).subs = s.subs := rfl
@[simp] theorem State.setCore_slots (s : State) (c : Nat) (x : CoreS) : (s.setCore c x).slots = s.slots := rfl
@[simp] theorem State.setCore_reads (s : State) (c : Nat) (x : CoreS) : (s.setCore c x).reads = s.reads := rfl
@[simp] theorem State.setCore_nextId (s : State) (c : Nat) (x : CoreS) : (s.setCore c x).nextId = s.nextId := rfl
@[simp] theorem State.setCore_arrays (s : State) (c : Nat) (x : CoreS) : (s.setCore c x).arrays = s.arrays := rfl
@[simp] theorem State.setCore_cores (s : State) (c : Nat) (x : CoreS) : (s.setCore c x).cores = smSet CoreS.init s.cores c x := rfl
@[simp] theorem State.setCore_engines (s : State) (c : Nat) (x : CoreS) : (s.setCore c x).engines = s.engines := rfl
@[simp] theorem State.setCore_books (s : State) (c : Nat) (x : CoreS) : (s.setCore c x).books = s.books := rfl
@[simp] theorem State.setCore_xfers (s : State) (c : Nat) (x : CoreS) : (s.setCore c x).xfers = s.xfers := rfl
@[simp] theorem State.setCore_gsteps (s : State) (c : Nat) (x : CoreS) : (s.setCore c x).gsteps = s.gsteps := rfl
@[simp] theorem State.setCore_usteps (s : State) (c : Nat) (x : CoreS) : (s.setCore c x).usteps = s.usteps := rfl
@[simp] theorem State.setCore_upd (s : State) (c : Nat) (x : CoreS) : (s.setCore c x).upd = s.upd := rfl
@[simp] theorem State.setCore_mem (s : State) (c : Nat) (x : CoreS) : (s.setCore c x).mem = s.mem := rfl
@[simp] theorem State.setCore_xlt (s : State) (c : Nat) (x : CoreS) : (s.setCore c x).xlt = s.xlt := rfl
@[simp] theorem State.setCore_fab (s : State) (c : Nat) (x : CoreS) : (s.setCore c x).fab = s.fab := rfl
@[simp] theorem State.setCore_err (s : State) (c : Nat) (x : CoreS) : (s.setCore c x).err = s.err := rfl
@[simp] theorem State.setCore_boot (s : State) (c : Nat) (x : CoreS) : (s.setCore c x).boot = s.boot := rfl
@[simp] theorem State.setCore_hlt (s : State) (c : Nat) (x : CoreS) : (s.setCore c x).hlt = s.hlt := rfl
@[simp] theorem State.setCore_pwr (s : State) (c : Nat) (x : CoreS) : (s.setCore c x).pwr = s.pwr := rfl
@[simp] theorem State.setCore_notes (s : State) (c : Nat) (x : CoreS) : (s.setCore c x).notes = s.notes := rfl
@[simp] theorem State.setCore_out (s : State) (c : Nat) (x : CoreS) : (s.setCore c x).out = s.out := rfl
@[simp] theorem State.setCore_free (s : State) (c : Nat) (x : CoreS) : (s.setCore c x).free = s.free := rfl
@[simp] theorem State.setCore_pending (s : State) (c : Nat) (x : CoreS) : (s.setCore c x).pending = s.pending := rfl

/-! ## setEng -/

@[simp] theorem State.setEng_regs (s : State) (c e : Nat) (x : EngS) : (s.setEng c e x).regs = s.regs := rfl
@[simp] theorem State.setEng_latches (s : State) (c e : Nat) (x : EngS) : (s.setEng c e x).latches = s.latches := rfl
@[simp] theorem State.setEng_locks (s : State) (c e : Nat) (x : EngS) : (s.setEng c e x).locks = s.locks := rfl
@[simp] theorem State.setEng_time (s : State) (c e : Nat) (x : EngS) : (s.setEng c e x).time = s.time := rfl
@[simp] theorem State.setEng_parts (s : State) (c e : Nat) (x : EngS) : (s.setEng c e x).parts = s.parts := rfl
@[simp] theorem State.setEng_rings (s : State) (c e : Nat) (x : EngS) : (s.setEng c e x).rings = s.rings := rfl
@[simp] theorem State.setEng_ports (s : State) (c e : Nat) (x : EngS) : (s.setEng c e x).ports = s.ports := rfl
@[simp] theorem State.setEng_subs (s : State) (c e : Nat) (x : EngS) : (s.setEng c e x).subs = s.subs := rfl
@[simp] theorem State.setEng_slots (s : State) (c e : Nat) (x : EngS) : (s.setEng c e x).slots = s.slots := rfl
@[simp] theorem State.setEng_reads (s : State) (c e : Nat) (x : EngS) : (s.setEng c e x).reads = s.reads := rfl
@[simp] theorem State.setEng_nextId (s : State) (c e : Nat) (x : EngS) : (s.setEng c e x).nextId = s.nextId := rfl
@[simp] theorem State.setEng_arrays (s : State) (c e : Nat) (x : EngS) : (s.setEng c e x).arrays = s.arrays := rfl
@[simp] theorem State.setEng_cores (s : State) (c e : Nat) (x : EngS) : (s.setEng c e x).cores = s.cores := rfl
@[simp] theorem State.setEng_engines (s : State) (c e : Nat) (x : EngS) : (s.setEng c e x).engines = smSet EngS.init s.engines (8 * c + e) x := rfl
@[simp] theorem State.setEng_books (s : State) (c e : Nat) (x : EngS) : (s.setEng c e x).books = s.books := rfl
@[simp] theorem State.setEng_xfers (s : State) (c e : Nat) (x : EngS) : (s.setEng c e x).xfers = s.xfers := rfl
@[simp] theorem State.setEng_gsteps (s : State) (c e : Nat) (x : EngS) : (s.setEng c e x).gsteps = s.gsteps := rfl
@[simp] theorem State.setEng_usteps (s : State) (c e : Nat) (x : EngS) : (s.setEng c e x).usteps = s.usteps := rfl
@[simp] theorem State.setEng_upd (s : State) (c e : Nat) (x : EngS) : (s.setEng c e x).upd = s.upd := rfl
@[simp] theorem State.setEng_mem (s : State) (c e : Nat) (x : EngS) : (s.setEng c e x).mem = s.mem := rfl
@[simp] theorem State.setEng_xlt (s : State) (c e : Nat) (x : EngS) : (s.setEng c e x).xlt = s.xlt := rfl
@[simp] theorem State.setEng_fab (s : State) (c e : Nat) (x : EngS) : (s.setEng c e x).fab = s.fab := rfl
@[simp] theorem State.setEng_err (s : State) (c e : Nat) (x : EngS) : (s.setEng c e x).err = s.err := rfl
@[simp] theorem State.setEng_boot (s : State) (c e : Nat) (x : EngS) : (s.setEng c e x).boot = s.boot := rfl
@[simp] theorem State.setEng_hlt (s : State) (c e : Nat) (x : EngS) : (s.setEng c e x).hlt = s.hlt := rfl
@[simp] theorem State.setEng_pwr (s : State) (c e : Nat) (x : EngS) : (s.setEng c e x).pwr = s.pwr := rfl
@[simp] theorem State.setEng_notes (s : State) (c e : Nat) (x : EngS) : (s.setEng c e x).notes = s.notes := rfl
@[simp] theorem State.setEng_out (s : State) (c e : Nat) (x : EngS) : (s.setEng c e x).out = s.out := rfl
@[simp] theorem State.setEng_free (s : State) (c e : Nat) (x : EngS) : (s.setEng c e x).free = s.free := rfl
@[simp] theorem State.setEng_pending (s : State) (c e : Nat) (x : EngS) : (s.setEng c e x).pending = s.pending := rfl

/-! ## setBook -/

@[simp] theorem State.setBook_regs (s : State) (c i : Nat) (x : Codebook) : (s.setBook c i x).regs = s.regs := rfl
@[simp] theorem State.setBook_latches (s : State) (c i : Nat) (x : Codebook) : (s.setBook c i x).latches = s.latches := rfl
@[simp] theorem State.setBook_locks (s : State) (c i : Nat) (x : Codebook) : (s.setBook c i x).locks = s.locks := rfl
@[simp] theorem State.setBook_time (s : State) (c i : Nat) (x : Codebook) : (s.setBook c i x).time = s.time := rfl
@[simp] theorem State.setBook_parts (s : State) (c i : Nat) (x : Codebook) : (s.setBook c i x).parts = s.parts := rfl
@[simp] theorem State.setBook_rings (s : State) (c i : Nat) (x : Codebook) : (s.setBook c i x).rings = s.rings := rfl
@[simp] theorem State.setBook_ports (s : State) (c i : Nat) (x : Codebook) : (s.setBook c i x).ports = s.ports := rfl
@[simp] theorem State.setBook_subs (s : State) (c i : Nat) (x : Codebook) : (s.setBook c i x).subs = s.subs := rfl
@[simp] theorem State.setBook_slots (s : State) (c i : Nat) (x : Codebook) : (s.setBook c i x).slots = s.slots := rfl
@[simp] theorem State.setBook_reads (s : State) (c i : Nat) (x : Codebook) : (s.setBook c i x).reads = s.reads := rfl
@[simp] theorem State.setBook_nextId (s : State) (c i : Nat) (x : Codebook) : (s.setBook c i x).nextId = s.nextId := rfl
@[simp] theorem State.setBook_arrays (s : State) (c i : Nat) (x : Codebook) : (s.setBook c i x).arrays = s.arrays := rfl
@[simp] theorem State.setBook_cores (s : State) (c i : Nat) (x : Codebook) : (s.setBook c i x).cores = s.cores := rfl
@[simp] theorem State.setBook_engines (s : State) (c i : Nat) (x : Codebook) : (s.setBook c i x).engines = s.engines := rfl
@[simp] theorem State.setBook_books (s : State) (c i : Nat) (x : Codebook) : (s.setBook c i x).books = smSet Codebook.init s.books (4 * c + i) x := rfl
@[simp] theorem State.setBook_xfers (s : State) (c i : Nat) (x : Codebook) : (s.setBook c i x).xfers = s.xfers := rfl
@[simp] theorem State.setBook_gsteps (s : State) (c i : Nat) (x : Codebook) : (s.setBook c i x).gsteps = s.gsteps := rfl
@[simp] theorem State.setBook_usteps (s : State) (c i : Nat) (x : Codebook) : (s.setBook c i x).usteps = s.usteps := rfl
@[simp] theorem State.setBook_upd (s : State) (c i : Nat) (x : Codebook) : (s.setBook c i x).upd = s.upd := rfl
@[simp] theorem State.setBook_mem (s : State) (c i : Nat) (x : Codebook) : (s.setBook c i x).mem = s.mem := rfl
@[simp] theorem State.setBook_xlt (s : State) (c i : Nat) (x : Codebook) : (s.setBook c i x).xlt = s.xlt := rfl
@[simp] theorem State.setBook_fab (s : State) (c i : Nat) (x : Codebook) : (s.setBook c i x).fab = s.fab := rfl
@[simp] theorem State.setBook_err (s : State) (c i : Nat) (x : Codebook) : (s.setBook c i x).err = s.err := rfl
@[simp] theorem State.setBook_boot (s : State) (c i : Nat) (x : Codebook) : (s.setBook c i x).boot = s.boot := rfl
@[simp] theorem State.setBook_hlt (s : State) (c i : Nat) (x : Codebook) : (s.setBook c i x).hlt = s.hlt := rfl
@[simp] theorem State.setBook_pwr (s : State) (c i : Nat) (x : Codebook) : (s.setBook c i x).pwr = s.pwr := rfl
@[simp] theorem State.setBook_notes (s : State) (c i : Nat) (x : Codebook) : (s.setBook c i x).notes = s.notes := rfl
@[simp] theorem State.setBook_out (s : State) (c i : Nat) (x : Codebook) : (s.setBook c i x).out = s.out := rfl
@[simp] theorem State.setBook_free (s : State) (c i : Nat) (x : Codebook) : (s.setBook c i x).free = s.free := rfl
@[simp] theorem State.setBook_pending (s : State) (c i : Nat) (x : Codebook) : (s.setBook c i x).pending = s.pending := rfl

/-! ## setFport -/

@[simp] theorem State.setFport_regs (s : State) (q : Nat) (x : FPort) : (s.setFport q x).regs = s.regs := rfl
@[simp] theorem State.setFport_latches (s : State) (q : Nat) (x : FPort) : (s.setFport q x).latches = s.latches := rfl
@[simp] theorem State.setFport_locks (s : State) (q : Nat) (x : FPort) : (s.setFport q x).locks = s.locks := rfl
@[simp] theorem State.setFport_time (s : State) (q : Nat) (x : FPort) : (s.setFport q x).time = s.time := rfl
@[simp] theorem State.setFport_parts (s : State) (q : Nat) (x : FPort) : (s.setFport q x).parts = s.parts := rfl
@[simp] theorem State.setFport_rings (s : State) (q : Nat) (x : FPort) : (s.setFport q x).rings = s.rings := rfl
@[simp] theorem State.setFport_ports (s : State) (q : Nat) (x : FPort) : (s.setFport q x).ports = s.ports := rfl
@[simp] theorem State.setFport_subs (s : State) (q : Nat) (x : FPort) : (s.setFport q x).subs = s.subs := rfl
@[simp] theorem State.setFport_slots (s : State) (q : Nat) (x : FPort) : (s.setFport q x).slots = s.slots := rfl
@[simp] theorem State.setFport_reads (s : State) (q : Nat) (x : FPort) : (s.setFport q x).reads = s.reads := rfl
@[simp] theorem State.setFport_nextId (s : State) (q : Nat) (x : FPort) : (s.setFport q x).nextId = s.nextId := rfl
@[simp] theorem State.setFport_arrays (s : State) (q : Nat) (x : FPort) : (s.setFport q x).arrays = s.arrays := rfl
@[simp] theorem State.setFport_cores (s : State) (q : Nat) (x : FPort) : (s.setFport q x).cores = s.cores := rfl
@[simp] theorem State.setFport_engines (s : State) (q : Nat) (x : FPort) : (s.setFport q x).engines = s.engines := rfl
@[simp] theorem State.setFport_books (s : State) (q : Nat) (x : FPort) : (s.setFport q x).books = s.books := rfl
@[simp] theorem State.setFport_xfers (s : State) (q : Nat) (x : FPort) : (s.setFport q x).xfers = s.xfers := rfl
@[simp] theorem State.setFport_gsteps (s : State) (q : Nat) (x : FPort) : (s.setFport q x).gsteps = s.gsteps := rfl
@[simp] theorem State.setFport_usteps (s : State) (q : Nat) (x : FPort) : (s.setFport q x).usteps = s.usteps := rfl
@[simp] theorem State.setFport_upd (s : State) (q : Nat) (x : FPort) : (s.setFport q x).upd = s.upd := rfl
@[simp] theorem State.setFport_mem (s : State) (q : Nat) (x : FPort) : (s.setFport q x).mem = s.mem := rfl
@[simp] theorem State.setFport_xlt (s : State) (q : Nat) (x : FPort) : (s.setFport q x).xlt = s.xlt := rfl
@[simp] theorem State.setFport_fab (s : State) (q : Nat) (x : FPort) : (s.setFport q x).fab = { s.fab with ports := smSet FPort.init s.fab.ports q x } := rfl
@[simp] theorem State.setFport_err (s : State) (q : Nat) (x : FPort) : (s.setFport q x).err = s.err := rfl
@[simp] theorem State.setFport_boot (s : State) (q : Nat) (x : FPort) : (s.setFport q x).boot = s.boot := rfl
@[simp] theorem State.setFport_hlt (s : State) (q : Nat) (x : FPort) : (s.setFport q x).hlt = s.hlt := rfl
@[simp] theorem State.setFport_pwr (s : State) (q : Nat) (x : FPort) : (s.setFport q x).pwr = s.pwr := rfl
@[simp] theorem State.setFport_notes (s : State) (q : Nat) (x : FPort) : (s.setFport q x).notes = s.notes := rfl
@[simp] theorem State.setFport_out (s : State) (q : Nat) (x : FPort) : (s.setFport q x).out = s.out := rfl
@[simp] theorem State.setFport_free (s : State) (q : Nat) (x : FPort) : (s.setFport q x).free = s.free := rfl
@[simp] theorem State.setFport_pending (s : State) (q : Nat) (x : FPort) : (s.setFport q x).pending = s.pending := rfl

/-! ## setCdie -/

@[simp] theorem State.setCdie_regs (s : State) (c : Nat) (x : CdieS) : (s.setCdie c x).regs = s.regs := rfl
@[simp] theorem State.setCdie_latches (s : State) (c : Nat) (x : CdieS) : (s.setCdie c x).latches = s.latches := rfl
@[simp] theorem State.setCdie_locks (s : State) (c : Nat) (x : CdieS) : (s.setCdie c x).locks = s.locks := rfl
@[simp] theorem State.setCdie_time (s : State) (c : Nat) (x : CdieS) : (s.setCdie c x).time = s.time := rfl
@[simp] theorem State.setCdie_parts (s : State) (c : Nat) (x : CdieS) : (s.setCdie c x).parts = s.parts := rfl
@[simp] theorem State.setCdie_rings (s : State) (c : Nat) (x : CdieS) : (s.setCdie c x).rings = s.rings := rfl
@[simp] theorem State.setCdie_ports (s : State) (c : Nat) (x : CdieS) : (s.setCdie c x).ports = s.ports := rfl
@[simp] theorem State.setCdie_subs (s : State) (c : Nat) (x : CdieS) : (s.setCdie c x).subs = s.subs := rfl
@[simp] theorem State.setCdie_slots (s : State) (c : Nat) (x : CdieS) : (s.setCdie c x).slots = s.slots := rfl
@[simp] theorem State.setCdie_reads (s : State) (c : Nat) (x : CdieS) : (s.setCdie c x).reads = s.reads := rfl
@[simp] theorem State.setCdie_nextId (s : State) (c : Nat) (x : CdieS) : (s.setCdie c x).nextId = s.nextId := rfl
@[simp] theorem State.setCdie_arrays (s : State) (c : Nat) (x : CdieS) : (s.setCdie c x).arrays = s.arrays := rfl
@[simp] theorem State.setCdie_cores (s : State) (c : Nat) (x : CdieS) : (s.setCdie c x).cores = s.cores := rfl
@[simp] theorem State.setCdie_engines (s : State) (c : Nat) (x : CdieS) : (s.setCdie c x).engines = s.engines := rfl
@[simp] theorem State.setCdie_books (s : State) (c : Nat) (x : CdieS) : (s.setCdie c x).books = s.books := rfl
@[simp] theorem State.setCdie_xfers (s : State) (c : Nat) (x : CdieS) : (s.setCdie c x).xfers = s.xfers := rfl
@[simp] theorem State.setCdie_gsteps (s : State) (c : Nat) (x : CdieS) : (s.setCdie c x).gsteps = s.gsteps := rfl
@[simp] theorem State.setCdie_usteps (s : State) (c : Nat) (x : CdieS) : (s.setCdie c x).usteps = s.usteps := rfl
@[simp] theorem State.setCdie_upd (s : State) (c : Nat) (x : CdieS) : (s.setCdie c x).upd = s.upd := rfl
@[simp] theorem State.setCdie_mem (s : State) (c : Nat) (x : CdieS) : (s.setCdie c x).mem = s.mem := rfl
@[simp] theorem State.setCdie_xlt (s : State) (c : Nat) (x : CdieS) : (s.setCdie c x).xlt = s.xlt := rfl
@[simp] theorem State.setCdie_fab (s : State) (c : Nat) (x : CdieS) : (s.setCdie c x).fab = s.fab := rfl
@[simp] theorem State.setCdie_err (s : State) (c : Nat) (x : CdieS) : (s.setCdie c x).err = { s.err with cdies := smSet CdieS.init s.err.cdies c x } := rfl
@[simp] theorem State.setCdie_boot (s : State) (c : Nat) (x : CdieS) : (s.setCdie c x).boot = s.boot := rfl
@[simp] theorem State.setCdie_hlt (s : State) (c : Nat) (x : CdieS) : (s.setCdie c x).hlt = s.hlt := rfl
@[simp] theorem State.setCdie_pwr (s : State) (c : Nat) (x : CdieS) : (s.setCdie c x).pwr = s.pwr := rfl
@[simp] theorem State.setCdie_notes (s : State) (c : Nat) (x : CdieS) : (s.setCdie c x).notes = s.notes := rfl
@[simp] theorem State.setCdie_out (s : State) (c : Nat) (x : CdieS) : (s.setCdie c x).out = s.out := rfl
@[simp] theorem State.setCdie_free (s : State) (c : Nat) (x : CdieS) : (s.setCdie c x).free = s.free := rfl
@[simp] theorem State.setCdie_pending (s : State) (c : Nat) (x : CdieS) : (s.setCdie c x).pending = s.pending := rfl

/-! ## setUnit -/

@[simp] theorem State.setUnit_regs (s : State) (k : Nat) (x : UnitRec) : (s.setUnit k x).regs = s.regs := rfl
@[simp] theorem State.setUnit_latches (s : State) (k : Nat) (x : UnitRec) : (s.setUnit k x).latches = s.latches := rfl
@[simp] theorem State.setUnit_locks (s : State) (k : Nat) (x : UnitRec) : (s.setUnit k x).locks = s.locks := rfl
@[simp] theorem State.setUnit_time (s : State) (k : Nat) (x : UnitRec) : (s.setUnit k x).time = s.time := rfl
@[simp] theorem State.setUnit_parts (s : State) (k : Nat) (x : UnitRec) : (s.setUnit k x).parts = s.parts := rfl
@[simp] theorem State.setUnit_rings (s : State) (k : Nat) (x : UnitRec) : (s.setUnit k x).rings = s.rings := rfl
@[simp] theorem State.setUnit_ports (s : State) (k : Nat) (x : UnitRec) : (s.setUnit k x).ports = s.ports := rfl
@[simp] theorem State.setUnit_subs (s : State) (k : Nat) (x : UnitRec) : (s.setUnit k x).subs = s.subs := rfl
@[simp] theorem State.setUnit_slots (s : State) (k : Nat) (x : UnitRec) : (s.setUnit k x).slots = s.slots := rfl
@[simp] theorem State.setUnit_reads (s : State) (k : Nat) (x : UnitRec) : (s.setUnit k x).reads = s.reads := rfl
@[simp] theorem State.setUnit_nextId (s : State) (k : Nat) (x : UnitRec) : (s.setUnit k x).nextId = s.nextId := rfl
@[simp] theorem State.setUnit_arrays (s : State) (k : Nat) (x : UnitRec) : (s.setUnit k x).arrays = s.arrays := rfl
@[simp] theorem State.setUnit_cores (s : State) (k : Nat) (x : UnitRec) : (s.setUnit k x).cores = s.cores := rfl
@[simp] theorem State.setUnit_engines (s : State) (k : Nat) (x : UnitRec) : (s.setUnit k x).engines = s.engines := rfl
@[simp] theorem State.setUnit_books (s : State) (k : Nat) (x : UnitRec) : (s.setUnit k x).books = s.books := rfl
@[simp] theorem State.setUnit_xfers (s : State) (k : Nat) (x : UnitRec) : (s.setUnit k x).xfers = s.xfers := rfl
@[simp] theorem State.setUnit_gsteps (s : State) (k : Nat) (x : UnitRec) : (s.setUnit k x).gsteps = s.gsteps := rfl
@[simp] theorem State.setUnit_usteps (s : State) (k : Nat) (x : UnitRec) : (s.setUnit k x).usteps = s.usteps := rfl
@[simp] theorem State.setUnit_upd (s : State) (k : Nat) (x : UnitRec) : (s.setUnit k x).upd = s.upd := rfl
@[simp] theorem State.setUnit_mem (s : State) (k : Nat) (x : UnitRec) : (s.setUnit k x).mem = s.mem := rfl
@[simp] theorem State.setUnit_xlt (s : State) (k : Nat) (x : UnitRec) : (s.setUnit k x).xlt = s.xlt := rfl
@[simp] theorem State.setUnit_fab (s : State) (k : Nat) (x : UnitRec) : (s.setUnit k x).fab = s.fab := rfl
@[simp] theorem State.setUnit_err (s : State) (k : Nat) (x : UnitRec) : (s.setUnit k x).err = s.err := rfl
@[simp] theorem State.setUnit_boot (s : State) (k : Nat) (x : UnitRec) : (s.setUnit k x).boot = s.boot := rfl
@[simp] theorem State.setUnit_hlt (s : State) (k : Nat) (x : UnitRec) : (s.setUnit k x).hlt = { s.hlt with units := smSet UnitRec.init s.hlt.units k x } := rfl
@[simp] theorem State.setUnit_pwr (s : State) (k : Nat) (x : UnitRec) : (s.setUnit k x).pwr = s.pwr := rfl
@[simp] theorem State.setUnit_notes (s : State) (k : Nat) (x : UnitRec) : (s.setUnit k x).notes = s.notes := rfl
@[simp] theorem State.setUnit_out (s : State) (k : Nat) (x : UnitRec) : (s.setUnit k x).out = s.out := rfl
@[simp] theorem State.setUnit_free (s : State) (k : Nat) (x : UnitRec) : (s.setUnit k x).free = s.free := rfl
@[simp] theorem State.setUnit_pending (s : State) (k : Nat) (x : UnitRec) : (s.setUnit k x).pending = s.pending := rfl

/-! ## setSensor -/

@[simp] theorem State.setSensor_regs (s : State) (k : Nat) (x : Sensor) : (s.setSensor k x).regs = s.regs := rfl
@[simp] theorem State.setSensor_latches (s : State) (k : Nat) (x : Sensor) : (s.setSensor k x).latches = s.latches := rfl
@[simp] theorem State.setSensor_locks (s : State) (k : Nat) (x : Sensor) : (s.setSensor k x).locks = s.locks := rfl
@[simp] theorem State.setSensor_time (s : State) (k : Nat) (x : Sensor) : (s.setSensor k x).time = s.time := rfl
@[simp] theorem State.setSensor_parts (s : State) (k : Nat) (x : Sensor) : (s.setSensor k x).parts = s.parts := rfl
@[simp] theorem State.setSensor_rings (s : State) (k : Nat) (x : Sensor) : (s.setSensor k x).rings = s.rings := rfl
@[simp] theorem State.setSensor_ports (s : State) (k : Nat) (x : Sensor) : (s.setSensor k x).ports = s.ports := rfl
@[simp] theorem State.setSensor_subs (s : State) (k : Nat) (x : Sensor) : (s.setSensor k x).subs = s.subs := rfl
@[simp] theorem State.setSensor_slots (s : State) (k : Nat) (x : Sensor) : (s.setSensor k x).slots = s.slots := rfl
@[simp] theorem State.setSensor_reads (s : State) (k : Nat) (x : Sensor) : (s.setSensor k x).reads = s.reads := rfl
@[simp] theorem State.setSensor_nextId (s : State) (k : Nat) (x : Sensor) : (s.setSensor k x).nextId = s.nextId := rfl
@[simp] theorem State.setSensor_arrays (s : State) (k : Nat) (x : Sensor) : (s.setSensor k x).arrays = s.arrays := rfl
@[simp] theorem State.setSensor_cores (s : State) (k : Nat) (x : Sensor) : (s.setSensor k x).cores = s.cores := rfl
@[simp] theorem State.setSensor_engines (s : State) (k : Nat) (x : Sensor) : (s.setSensor k x).engines = s.engines := rfl
@[simp] theorem State.setSensor_books (s : State) (k : Nat) (x : Sensor) : (s.setSensor k x).books = s.books := rfl
@[simp] theorem State.setSensor_xfers (s : State) (k : Nat) (x : Sensor) : (s.setSensor k x).xfers = s.xfers := rfl
@[simp] theorem State.setSensor_gsteps (s : State) (k : Nat) (x : Sensor) : (s.setSensor k x).gsteps = s.gsteps := rfl
@[simp] theorem State.setSensor_usteps (s : State) (k : Nat) (x : Sensor) : (s.setSensor k x).usteps = s.usteps := rfl
@[simp] theorem State.setSensor_upd (s : State) (k : Nat) (x : Sensor) : (s.setSensor k x).upd = s.upd := rfl
@[simp] theorem State.setSensor_mem (s : State) (k : Nat) (x : Sensor) : (s.setSensor k x).mem = s.mem := rfl
@[simp] theorem State.setSensor_xlt (s : State) (k : Nat) (x : Sensor) : (s.setSensor k x).xlt = s.xlt := rfl
@[simp] theorem State.setSensor_fab (s : State) (k : Nat) (x : Sensor) : (s.setSensor k x).fab = s.fab := rfl
@[simp] theorem State.setSensor_err (s : State) (k : Nat) (x : Sensor) : (s.setSensor k x).err = s.err := rfl
@[simp] theorem State.setSensor_boot (s : State) (k : Nat) (x : Sensor) : (s.setSensor k x).boot = s.boot := rfl
@[simp] theorem State.setSensor_hlt (s : State) (k : Nat) (x : Sensor) : (s.setSensor k x).hlt = { s.hlt with sensors := smSet Sensor.init s.hlt.sensors k x } := rfl
@[simp] theorem State.setSensor_pwr (s : State) (k : Nat) (x : Sensor) : (s.setSensor k x).pwr = s.pwr := rfl
@[simp] theorem State.setSensor_notes (s : State) (k : Nat) (x : Sensor) : (s.setSensor k x).notes = s.notes := rfl
@[simp] theorem State.setSensor_out (s : State) (k : Nat) (x : Sensor) : (s.setSensor k x).out = s.out := rfl
@[simp] theorem State.setSensor_free (s : State) (k : Nat) (x : Sensor) : (s.setSensor k x).free = s.free := rfl
@[simp] theorem State.setSensor_pending (s : State) (k : Nat) (x : Sensor) : (s.setSensor k x).pending = s.pending := rfl

/-! ## setTg -/

@[simp] theorem State.setTg_regs (s : State) (c : Nat) (x : TgS) : (s.setTg c x).regs = s.regs := rfl
@[simp] theorem State.setTg_latches (s : State) (c : Nat) (x : TgS) : (s.setTg c x).latches = s.latches := rfl
@[simp] theorem State.setTg_locks (s : State) (c : Nat) (x : TgS) : (s.setTg c x).locks = s.locks := rfl
@[simp] theorem State.setTg_time (s : State) (c : Nat) (x : TgS) : (s.setTg c x).time = s.time := rfl
@[simp] theorem State.setTg_parts (s : State) (c : Nat) (x : TgS) : (s.setTg c x).parts = s.parts := rfl
@[simp] theorem State.setTg_rings (s : State) (c : Nat) (x : TgS) : (s.setTg c x).rings = s.rings := rfl
@[simp] theorem State.setTg_ports (s : State) (c : Nat) (x : TgS) : (s.setTg c x).ports = s.ports := rfl
@[simp] theorem State.setTg_subs (s : State) (c : Nat) (x : TgS) : (s.setTg c x).subs = s.subs := rfl
@[simp] theorem State.setTg_slots (s : State) (c : Nat) (x : TgS) : (s.setTg c x).slots = s.slots := rfl
@[simp] theorem State.setTg_reads (s : State) (c : Nat) (x : TgS) : (s.setTg c x).reads = s.reads := rfl
@[simp] theorem State.setTg_nextId (s : State) (c : Nat) (x : TgS) : (s.setTg c x).nextId = s.nextId := rfl
@[simp] theorem State.setTg_arrays (s : State) (c : Nat) (x : TgS) : (s.setTg c x).arrays = s.arrays := rfl
@[simp] theorem State.setTg_cores (s : State) (c : Nat) (x : TgS) : (s.setTg c x).cores = s.cores := rfl
@[simp] theorem State.setTg_engines (s : State) (c : Nat) (x : TgS) : (s.setTg c x).engines = s.engines := rfl
@[simp] theorem State.setTg_books (s : State) (c : Nat) (x : TgS) : (s.setTg c x).books = s.books := rfl
@[simp] theorem State.setTg_xfers (s : State) (c : Nat) (x : TgS) : (s.setTg c x).xfers = s.xfers := rfl
@[simp] theorem State.setTg_gsteps (s : State) (c : Nat) (x : TgS) : (s.setTg c x).gsteps = s.gsteps := rfl
@[simp] theorem State.setTg_usteps (s : State) (c : Nat) (x : TgS) : (s.setTg c x).usteps = s.usteps := rfl
@[simp] theorem State.setTg_upd (s : State) (c : Nat) (x : TgS) : (s.setTg c x).upd = s.upd := rfl
@[simp] theorem State.setTg_mem (s : State) (c : Nat) (x : TgS) : (s.setTg c x).mem = { s.mem with tg := smSet TgS.init s.mem.tg c x } := rfl
@[simp] theorem State.setTg_xlt (s : State) (c : Nat) (x : TgS) : (s.setTg c x).xlt = s.xlt := rfl
@[simp] theorem State.setTg_fab (s : State) (c : Nat) (x : TgS) : (s.setTg c x).fab = s.fab := rfl
@[simp] theorem State.setTg_err (s : State) (c : Nat) (x : TgS) : (s.setTg c x).err = s.err := rfl
@[simp] theorem State.setTg_boot (s : State) (c : Nat) (x : TgS) : (s.setTg c x).boot = s.boot := rfl
@[simp] theorem State.setTg_hlt (s : State) (c : Nat) (x : TgS) : (s.setTg c x).hlt = s.hlt := rfl
@[simp] theorem State.setTg_pwr (s : State) (c : Nat) (x : TgS) : (s.setTg c x).pwr = s.pwr := rfl
@[simp] theorem State.setTg_notes (s : State) (c : Nat) (x : TgS) : (s.setTg c x).notes = s.notes := rfl
@[simp] theorem State.setTg_out (s : State) (c : Nat) (x : TgS) : (s.setTg c x).out = s.out := rfl
@[simp] theorem State.setTg_free (s : State) (c : Nat) (x : TgS) : (s.setTg c x).free = s.free := rfl
@[simp] theorem State.setTg_pending (s : State) (c : Nat) (x : TgS) : (s.setTg c x).pending = s.pending := rfl

/-! ## setCtxGen -/

@[simp] theorem State.setCtxGen_regs (s : State) (c : Nat) (x : CtxGen) : (s.setCtxGen c x).regs = s.regs := rfl
@[simp] theorem State.setCtxGen_latches (s : State) (c : Nat) (x : CtxGen) : (s.setCtxGen c x).latches = s.latches := rfl
@[simp] theorem State.setCtxGen_locks (s : State) (c : Nat) (x : CtxGen) : (s.setCtxGen c x).locks = s.locks := rfl
@[simp] theorem State.setCtxGen_time (s : State) (c : Nat) (x : CtxGen) : (s.setCtxGen c x).time = s.time := rfl
@[simp] theorem State.setCtxGen_parts (s : State) (c : Nat) (x : CtxGen) : (s.setCtxGen c x).parts = s.parts := rfl
@[simp] theorem State.setCtxGen_rings (s : State) (c : Nat) (x : CtxGen) : (s.setCtxGen c x).rings = s.rings := rfl
@[simp] theorem State.setCtxGen_ports (s : State) (c : Nat) (x : CtxGen) : (s.setCtxGen c x).ports = s.ports := rfl
@[simp] theorem State.setCtxGen_subs (s : State) (c : Nat) (x : CtxGen) : (s.setCtxGen c x).subs = s.subs := rfl
@[simp] theorem State.setCtxGen_slots (s : State) (c : Nat) (x : CtxGen) : (s.setCtxGen c x).slots = s.slots := rfl
@[simp] theorem State.setCtxGen_reads (s : State) (c : Nat) (x : CtxGen) : (s.setCtxGen c x).reads = s.reads := rfl
@[simp] theorem State.setCtxGen_nextId (s : State) (c : Nat) (x : CtxGen) : (s.setCtxGen c x).nextId = s.nextId := rfl
@[simp] theorem State.setCtxGen_arrays (s : State) (c : Nat) (x : CtxGen) : (s.setCtxGen c x).arrays = s.arrays := rfl
@[simp] theorem State.setCtxGen_cores (s : State) (c : Nat) (x : CtxGen) : (s.setCtxGen c x).cores = s.cores := rfl
@[simp] theorem State.setCtxGen_engines (s : State) (c : Nat) (x : CtxGen) : (s.setCtxGen c x).engines = s.engines := rfl
@[simp] theorem State.setCtxGen_books (s : State) (c : Nat) (x : CtxGen) : (s.setCtxGen c x).books = s.books := rfl
@[simp] theorem State.setCtxGen_xfers (s : State) (c : Nat) (x : CtxGen) : (s.setCtxGen c x).xfers = s.xfers := rfl
@[simp] theorem State.setCtxGen_gsteps (s : State) (c : Nat) (x : CtxGen) : (s.setCtxGen c x).gsteps = s.gsteps := rfl
@[simp] theorem State.setCtxGen_usteps (s : State) (c : Nat) (x : CtxGen) : (s.setCtxGen c x).usteps = s.usteps := rfl
@[simp] theorem State.setCtxGen_upd (s : State) (c : Nat) (x : CtxGen) : (s.setCtxGen c x).upd = s.upd := rfl
@[simp] theorem State.setCtxGen_mem (s : State) (c : Nat) (x : CtxGen) : (s.setCtxGen c x).mem = s.mem := rfl
@[simp] theorem State.setCtxGen_xlt (s : State) (c : Nat) (x : CtxGen) : (s.setCtxGen c x).xlt = { s.xlt with gens := smSet CtxGen.init s.xlt.gens c x } := rfl
@[simp] theorem State.setCtxGen_fab (s : State) (c : Nat) (x : CtxGen) : (s.setCtxGen c x).fab = s.fab := rfl
@[simp] theorem State.setCtxGen_err (s : State) (c : Nat) (x : CtxGen) : (s.setCtxGen c x).err = s.err := rfl
@[simp] theorem State.setCtxGen_boot (s : State) (c : Nat) (x : CtxGen) : (s.setCtxGen c x).boot = s.boot := rfl
@[simp] theorem State.setCtxGen_hlt (s : State) (c : Nat) (x : CtxGen) : (s.setCtxGen c x).hlt = s.hlt := rfl
@[simp] theorem State.setCtxGen_pwr (s : State) (c : Nat) (x : CtxGen) : (s.setCtxGen c x).pwr = s.pwr := rfl
@[simp] theorem State.setCtxGen_notes (s : State) (c : Nat) (x : CtxGen) : (s.setCtxGen c x).notes = s.notes := rfl
@[simp] theorem State.setCtxGen_out (s : State) (c : Nat) (x : CtxGen) : (s.setCtxGen c x).out = s.out := rfl
@[simp] theorem State.setCtxGen_free (s : State) (c : Nat) (x : CtxGen) : (s.setCtxGen c x).free = s.free := rfl
@[simp] theorem State.setCtxGen_pending (s : State) (c : Nat) (x : CtxGen) : (s.setCtxGen c x).pending = s.pending := rfl

/-! ## setDom -/

@[simp] theorem State.setDom_regs (s : State) (d : Nat) (x : FwDom) : (s.setDom d x).regs = s.regs := rfl
@[simp] theorem State.setDom_latches (s : State) (d : Nat) (x : FwDom) : (s.setDom d x).latches = s.latches := rfl
@[simp] theorem State.setDom_locks (s : State) (d : Nat) (x : FwDom) : (s.setDom d x).locks = s.locks := rfl
@[simp] theorem State.setDom_time (s : State) (d : Nat) (x : FwDom) : (s.setDom d x).time = s.time := rfl
@[simp] theorem State.setDom_parts (s : State) (d : Nat) (x : FwDom) : (s.setDom d x).parts = s.parts := rfl
@[simp] theorem State.setDom_rings (s : State) (d : Nat) (x : FwDom) : (s.setDom d x).rings = s.rings := rfl
@[simp] theorem State.setDom_ports (s : State) (d : Nat) (x : FwDom) : (s.setDom d x).ports = s.ports := rfl
@[simp] theorem State.setDom_subs (s : State) (d : Nat) (x : FwDom) : (s.setDom d x).subs = s.subs := rfl
@[simp] theorem State.setDom_slots (s : State) (d : Nat) (x : FwDom) : (s.setDom d x).slots = s.slots := rfl
@[simp] theorem State.setDom_reads (s : State) (d : Nat) (x : FwDom) : (s.setDom d x).reads = s.reads := rfl
@[simp] theorem State.setDom_nextId (s : State) (d : Nat) (x : FwDom) : (s.setDom d x).nextId = s.nextId := rfl
@[simp] theorem State.setDom_arrays (s : State) (d : Nat) (x : FwDom) : (s.setDom d x).arrays = s.arrays := rfl
@[simp] theorem State.setDom_cores (s : State) (d : Nat) (x : FwDom) : (s.setDom d x).cores = s.cores := rfl
@[simp] theorem State.setDom_engines (s : State) (d : Nat) (x : FwDom) : (s.setDom d x).engines = s.engines := rfl
@[simp] theorem State.setDom_books (s : State) (d : Nat) (x : FwDom) : (s.setDom d x).books = s.books := rfl
@[simp] theorem State.setDom_xfers (s : State) (d : Nat) (x : FwDom) : (s.setDom d x).xfers = s.xfers := rfl
@[simp] theorem State.setDom_gsteps (s : State) (d : Nat) (x : FwDom) : (s.setDom d x).gsteps = s.gsteps := rfl
@[simp] theorem State.setDom_usteps (s : State) (d : Nat) (x : FwDom) : (s.setDom d x).usteps = s.usteps := rfl
@[simp] theorem State.setDom_upd (s : State) (d : Nat) (x : FwDom) : (s.setDom d x).upd = s.upd := rfl
@[simp] theorem State.setDom_mem (s : State) (d : Nat) (x : FwDom) : (s.setDom d x).mem = s.mem := rfl
@[simp] theorem State.setDom_xlt (s : State) (d : Nat) (x : FwDom) : (s.setDom d x).xlt = s.xlt := rfl
@[simp] theorem State.setDom_fab (s : State) (d : Nat) (x : FwDom) : (s.setDom d x).fab = s.fab := rfl
@[simp] theorem State.setDom_err (s : State) (d : Nat) (x : FwDom) : (s.setDom d x).err = s.err := rfl
@[simp] theorem State.setDom_boot (s : State) (d : Nat) (x : FwDom) : (s.setDom d x).boot = { s.boot with doms := smSet FwDom.init s.boot.doms d x } := rfl
@[simp] theorem State.setDom_hlt (s : State) (d : Nat) (x : FwDom) : (s.setDom d x).hlt = s.hlt := rfl
@[simp] theorem State.setDom_pwr (s : State) (d : Nat) (x : FwDom) : (s.setDom d x).pwr = s.pwr := rfl
@[simp] theorem State.setDom_notes (s : State) (d : Nat) (x : FwDom) : (s.setDom d x).notes = s.notes := rfl
@[simp] theorem State.setDom_out (s : State) (d : Nat) (x : FwDom) : (s.setDom d x).out = s.out := rfl
@[simp] theorem State.setDom_free (s : State) (d : Nat) (x : FwDom) : (s.setDom d x).free = s.free := rfl
@[simp] theorem State.setDom_pending (s : State) (d : Nat) (x : FwDom) : (s.setDom d x).pending = s.pending := rfl

/-! ## setMram -/

@[simp] theorem State.setMram_regs (s : State) (n : Nat) (x : MramS) : (s.setMram n x).regs = s.regs := rfl
@[simp] theorem State.setMram_latches (s : State) (n : Nat) (x : MramS) : (s.setMram n x).latches = s.latches := rfl
@[simp] theorem State.setMram_locks (s : State) (n : Nat) (x : MramS) : (s.setMram n x).locks = s.locks := rfl
@[simp] theorem State.setMram_time (s : State) (n : Nat) (x : MramS) : (s.setMram n x).time = s.time := rfl
@[simp] theorem State.setMram_parts (s : State) (n : Nat) (x : MramS) : (s.setMram n x).parts = s.parts := rfl
@[simp] theorem State.setMram_rings (s : State) (n : Nat) (x : MramS) : (s.setMram n x).rings = s.rings := rfl
@[simp] theorem State.setMram_ports (s : State) (n : Nat) (x : MramS) : (s.setMram n x).ports = s.ports := rfl
@[simp] theorem State.setMram_subs (s : State) (n : Nat) (x : MramS) : (s.setMram n x).subs = s.subs := rfl
@[simp] theorem State.setMram_slots (s : State) (n : Nat) (x : MramS) : (s.setMram n x).slots = s.slots := rfl
@[simp] theorem State.setMram_reads (s : State) (n : Nat) (x : MramS) : (s.setMram n x).reads = s.reads := rfl
@[simp] theorem State.setMram_nextId (s : State) (n : Nat) (x : MramS) : (s.setMram n x).nextId = s.nextId := rfl
@[simp] theorem State.setMram_arrays (s : State) (n : Nat) (x : MramS) : (s.setMram n x).arrays = s.arrays := rfl
@[simp] theorem State.setMram_cores (s : State) (n : Nat) (x : MramS) : (s.setMram n x).cores = s.cores := rfl
@[simp] theorem State.setMram_engines (s : State) (n : Nat) (x : MramS) : (s.setMram n x).engines = s.engines := rfl
@[simp] theorem State.setMram_books (s : State) (n : Nat) (x : MramS) : (s.setMram n x).books = s.books := rfl
@[simp] theorem State.setMram_xfers (s : State) (n : Nat) (x : MramS) : (s.setMram n x).xfers = s.xfers := rfl
@[simp] theorem State.setMram_gsteps (s : State) (n : Nat) (x : MramS) : (s.setMram n x).gsteps = s.gsteps := rfl
@[simp] theorem State.setMram_usteps (s : State) (n : Nat) (x : MramS) : (s.setMram n x).usteps = s.usteps := rfl
@[simp] theorem State.setMram_upd (s : State) (n : Nat) (x : MramS) : (s.setMram n x).upd = s.upd := rfl
@[simp] theorem State.setMram_mem (s : State) (n : Nat) (x : MramS) : (s.setMram n x).mem = s.mem := rfl
@[simp] theorem State.setMram_xlt (s : State) (n : Nat) (x : MramS) : (s.setMram n x).xlt = s.xlt := rfl
@[simp] theorem State.setMram_fab (s : State) (n : Nat) (x : MramS) : (s.setMram n x).fab = s.fab := rfl
@[simp] theorem State.setMram_err (s : State) (n : Nat) (x : MramS) : (s.setMram n x).err = s.err := rfl
@[simp] theorem State.setMram_boot (s : State) (n : Nat) (x : MramS) : (s.setMram n x).boot = { s.boot with mram := smSet MramS.init s.boot.mram n x } := rfl
@[simp] theorem State.setMram_hlt (s : State) (n : Nat) (x : MramS) : (s.setMram n x).hlt = s.hlt := rfl
@[simp] theorem State.setMram_pwr (s : State) (n : Nat) (x : MramS) : (s.setMram n x).pwr = s.pwr := rfl
@[simp] theorem State.setMram_notes (s : State) (n : Nat) (x : MramS) : (s.setMram n x).notes = s.notes := rfl
@[simp] theorem State.setMram_out (s : State) (n : Nat) (x : MramS) : (s.setMram n x).out = s.out := rfl
@[simp] theorem State.setMram_free (s : State) (n : Nat) (x : MramS) : (s.setMram n x).free = s.free := rfl
@[simp] theorem State.setMram_pending (s : State) (n : Nat) (x : MramS) : (s.setMram n x).pending = s.pending := rfl

/-! ## note, emit, setReg -/

@[simp] theorem State.note_regs (s : State) (n : Note) : (s.note n).regs = s.regs := rfl
@[simp] theorem State.note_latches (s : State) (n : Note) : (s.note n).latches = s.latches := rfl
@[simp] theorem State.note_locks (s : State) (n : Note) : (s.note n).locks = s.locks := rfl
@[simp] theorem State.note_time (s : State) (n : Note) : (s.note n).time = s.time := rfl
@[simp] theorem State.note_parts (s : State) (n : Note) : (s.note n).parts = s.parts := rfl
@[simp] theorem State.note_rings (s : State) (n : Note) : (s.note n).rings = s.rings := rfl
@[simp] theorem State.note_ports (s : State) (n : Note) : (s.note n).ports = s.ports := rfl
@[simp] theorem State.note_subs (s : State) (n : Note) : (s.note n).subs = s.subs := rfl
@[simp] theorem State.note_slots (s : State) (n : Note) : (s.note n).slots = s.slots := rfl
@[simp] theorem State.note_reads (s : State) (n : Note) : (s.note n).reads = s.reads := rfl
@[simp] theorem State.note_nextId (s : State) (n : Note) : (s.note n).nextId = s.nextId := rfl
@[simp] theorem State.note_arrays (s : State) (n : Note) : (s.note n).arrays = s.arrays := rfl
@[simp] theorem State.note_cores (s : State) (n : Note) : (s.note n).cores = s.cores := rfl
@[simp] theorem State.note_engines (s : State) (n : Note) : (s.note n).engines = s.engines := rfl
@[simp] theorem State.note_books (s : State) (n : Note) : (s.note n).books = s.books := rfl
@[simp] theorem State.note_xfers (s : State) (n : Note) : (s.note n).xfers = s.xfers := rfl
@[simp] theorem State.note_gsteps (s : State) (n : Note) : (s.note n).gsteps = s.gsteps := rfl
@[simp] theorem State.note_usteps (s : State) (n : Note) : (s.note n).usteps = s.usteps := rfl
@[simp] theorem State.note_upd (s : State) (n : Note) : (s.note n).upd = s.upd := rfl
@[simp] theorem State.note_mem (s : State) (n : Note) : (s.note n).mem = s.mem := rfl
@[simp] theorem State.note_xlt (s : State) (n : Note) : (s.note n).xlt = s.xlt := rfl
@[simp] theorem State.note_fab (s : State) (n : Note) : (s.note n).fab = s.fab := rfl
@[simp] theorem State.note_err (s : State) (n : Note) : (s.note n).err = s.err := rfl
@[simp] theorem State.note_boot (s : State) (n : Note) : (s.note n).boot = s.boot := rfl
@[simp] theorem State.note_hlt (s : State) (n : Note) : (s.note n).hlt = s.hlt := rfl
@[simp] theorem State.note_pwr (s : State) (n : Note) : (s.note n).pwr = s.pwr := rfl
@[simp] theorem State.note_notes (s : State) (n : Note) : (s.note n).notes = n :: s.notes := rfl
@[simp] theorem State.note_out (s : State) (n : Note) : (s.note n).out = s.out := rfl
@[simp] theorem State.note_free (s : State) (n : Note) : (s.note n).free = s.free := rfl
@[simp] theorem State.note_pending (s : State) (n : Note) : (s.note n).pending = s.pending := rfl

@[simp] theorem State.emit_regs (s : State) (o : Out) : (s.emit o).regs = s.regs := rfl
@[simp] theorem State.emit_latches (s : State) (o : Out) : (s.emit o).latches = s.latches := rfl
@[simp] theorem State.emit_locks (s : State) (o : Out) : (s.emit o).locks = s.locks := rfl
@[simp] theorem State.emit_time (s : State) (o : Out) : (s.emit o).time = s.time := rfl
@[simp] theorem State.emit_parts (s : State) (o : Out) : (s.emit o).parts = s.parts := rfl
@[simp] theorem State.emit_rings (s : State) (o : Out) : (s.emit o).rings = s.rings := rfl
@[simp] theorem State.emit_ports (s : State) (o : Out) : (s.emit o).ports = s.ports := rfl
@[simp] theorem State.emit_subs (s : State) (o : Out) : (s.emit o).subs = s.subs := rfl
@[simp] theorem State.emit_slots (s : State) (o : Out) : (s.emit o).slots = s.slots := rfl
@[simp] theorem State.emit_reads (s : State) (o : Out) : (s.emit o).reads = s.reads := rfl
@[simp] theorem State.emit_nextId (s : State) (o : Out) : (s.emit o).nextId = s.nextId := rfl
@[simp] theorem State.emit_arrays (s : State) (o : Out) : (s.emit o).arrays = s.arrays := rfl
@[simp] theorem State.emit_cores (s : State) (o : Out) : (s.emit o).cores = s.cores := rfl
@[simp] theorem State.emit_engines (s : State) (o : Out) : (s.emit o).engines = s.engines := rfl
@[simp] theorem State.emit_books (s : State) (o : Out) : (s.emit o).books = s.books := rfl
@[simp] theorem State.emit_xfers (s : State) (o : Out) : (s.emit o).xfers = s.xfers := rfl
@[simp] theorem State.emit_gsteps (s : State) (o : Out) : (s.emit o).gsteps = s.gsteps := rfl
@[simp] theorem State.emit_usteps (s : State) (o : Out) : (s.emit o).usteps = s.usteps := rfl
@[simp] theorem State.emit_upd (s : State) (o : Out) : (s.emit o).upd = s.upd := rfl
@[simp] theorem State.emit_mem (s : State) (o : Out) : (s.emit o).mem = s.mem := rfl
@[simp] theorem State.emit_xlt (s : State) (o : Out) : (s.emit o).xlt = s.xlt := rfl
@[simp] theorem State.emit_fab (s : State) (o : Out) : (s.emit o).fab = s.fab := rfl
@[simp] theorem State.emit_err (s : State) (o : Out) : (s.emit o).err = s.err := rfl
@[simp] theorem State.emit_boot (s : State) (o : Out) : (s.emit o).boot = s.boot := rfl
@[simp] theorem State.emit_hlt (s : State) (o : Out) : (s.emit o).hlt = s.hlt := rfl
@[simp] theorem State.emit_pwr (s : State) (o : Out) : (s.emit o).pwr = s.pwr := rfl
@[simp] theorem State.emit_notes (s : State) (o : Out) : (s.emit o).notes = s.notes := rfl
@[simp] theorem State.emit_out (s : State) (o : Out) : (s.emit o).out = o :: s.out := rfl
@[simp] theorem State.emit_free (s : State) (o : Out) : (s.emit o).free = s.free := rfl
@[simp] theorem State.emit_pending (s : State) (o : Out) : (s.emit o).pending = s.pending := rfl

@[simp] theorem State.setReg_regs (s : State) (g : RG) (i : Nat) (w : Word) : (s.setReg g i w).regs = smSet g.row.reset s.regs (g.off i) w := rfl
@[simp] theorem State.setReg_latches (s : State) (g : RG) (i : Nat) (w : Word) : (s.setReg g i w).latches = s.latches := rfl
@[simp] theorem State.setReg_locks (s : State) (g : RG) (i : Nat) (w : Word) : (s.setReg g i w).locks = s.locks := rfl
@[simp] theorem State.setReg_time (s : State) (g : RG) (i : Nat) (w : Word) : (s.setReg g i w).time = s.time := rfl
@[simp] theorem State.setReg_parts (s : State) (g : RG) (i : Nat) (w : Word) : (s.setReg g i w).parts = s.parts := rfl
@[simp] theorem State.setReg_rings (s : State) (g : RG) (i : Nat) (w : Word) : (s.setReg g i w).rings = s.rings := rfl
@[simp] theorem State.setReg_ports (s : State) (g : RG) (i : Nat) (w : Word) : (s.setReg g i w).ports = s.ports := rfl
@[simp] theorem State.setReg_subs (s : State) (g : RG) (i : Nat) (w : Word) : (s.setReg g i w).subs = s.subs := rfl
@[simp] theorem State.setReg_slots (s : State) (g : RG) (i : Nat) (w : Word) : (s.setReg g i w).slots = s.slots := rfl
@[simp] theorem State.setReg_reads (s : State) (g : RG) (i : Nat) (w : Word) : (s.setReg g i w).reads = s.reads := rfl
@[simp] theorem State.setReg_nextId (s : State) (g : RG) (i : Nat) (w : Word) : (s.setReg g i w).nextId = s.nextId := rfl
@[simp] theorem State.setReg_arrays (s : State) (g : RG) (i : Nat) (w : Word) : (s.setReg g i w).arrays = s.arrays := rfl
@[simp] theorem State.setReg_cores (s : State) (g : RG) (i : Nat) (w : Word) : (s.setReg g i w).cores = s.cores := rfl
@[simp] theorem State.setReg_engines (s : State) (g : RG) (i : Nat) (w : Word) : (s.setReg g i w).engines = s.engines := rfl
@[simp] theorem State.setReg_books (s : State) (g : RG) (i : Nat) (w : Word) : (s.setReg g i w).books = s.books := rfl
@[simp] theorem State.setReg_xfers (s : State) (g : RG) (i : Nat) (w : Word) : (s.setReg g i w).xfers = s.xfers := rfl
@[simp] theorem State.setReg_gsteps (s : State) (g : RG) (i : Nat) (w : Word) : (s.setReg g i w).gsteps = s.gsteps := rfl
@[simp] theorem State.setReg_usteps (s : State) (g : RG) (i : Nat) (w : Word) : (s.setReg g i w).usteps = s.usteps := rfl
@[simp] theorem State.setReg_upd (s : State) (g : RG) (i : Nat) (w : Word) : (s.setReg g i w).upd = s.upd := rfl
@[simp] theorem State.setReg_mem (s : State) (g : RG) (i : Nat) (w : Word) : (s.setReg g i w).mem = s.mem := rfl
@[simp] theorem State.setReg_xlt (s : State) (g : RG) (i : Nat) (w : Word) : (s.setReg g i w).xlt = s.xlt := rfl
@[simp] theorem State.setReg_fab (s : State) (g : RG) (i : Nat) (w : Word) : (s.setReg g i w).fab = s.fab := rfl
@[simp] theorem State.setReg_err (s : State) (g : RG) (i : Nat) (w : Word) : (s.setReg g i w).err = s.err := rfl
@[simp] theorem State.setReg_boot (s : State) (g : RG) (i : Nat) (w : Word) : (s.setReg g i w).boot = s.boot := rfl
@[simp] theorem State.setReg_hlt (s : State) (g : RG) (i : Nat) (w : Word) : (s.setReg g i w).hlt = s.hlt := rfl
@[simp] theorem State.setReg_pwr (s : State) (g : RG) (i : Nat) (w : Word) : (s.setReg g i w).pwr = s.pwr := rfl
@[simp] theorem State.setReg_notes (s : State) (g : RG) (i : Nat) (w : Word) : (s.setReg g i w).notes = s.notes := rfl
@[simp] theorem State.setReg_out (s : State) (g : RG) (i : Nat) (w : Word) : (s.setReg g i w).out = s.out := rfl
@[simp] theorem State.setReg_free (s : State) (g : RG) (i : Nat) (w : Word) : (s.setReg g i w).free = s.free := rfl
@[simp] theorem State.setReg_pending (s : State) (g : RG) (i : Nat) (w : Word) : (s.setReg g i w).pending = s.pending := rfl

end Sys2Proof.Machine
end

