-- ==== Sys2Proof/WellFormed.lean ====
section
/-! DEFINITION. What an operand must satisfy that its type does not say. -/

namespace Sys2Proof

/-- A frame carries at most 64 granules of payload, whole granules of its BYTES (R420, R421). -/
def Frame.wellFormed (f : Frame) : Bool := decide (f.payload.length ≤ 64) && decide (f.op < 256)

/-- Upset codewords lie in the first `n` granules of what is read, each named once: 16 in a line (R316, R320). -/
def upsetsOk (n : Nat) (l : List Upset) : Bool := l.all (fun u => decide (u.gran < n)) && decide ((l.map (·.gran)).Nodup)

/-- Granules of the largest extent, of 64 lines (R216). -/
def extentGrans : Nat := 16 * 64

/-- A flawed codeword is named by the address of its granule (R320). -/
def blemishesOk (l : List Blemish) : Bool := l.all fun b => b.addr % 16 == 0

/-- What a cell or an adder does wrong lies in one of the 128 columns and in a row of a pass (R88, R125). -/
def cellsOk (l : List CellFault) : Bool := l.all fun f => decide (f.col < 128 ∧ f.row < 1024)

/-- A timestamp's nanoseconds are below a second (R46). -/
def nsecOk (n : Nat) : Bool := decide (n < 1000000000)

/-- A doorbell write is at most 8 bytes wide. -/
def sizeOk (n : Nat) : Bool := n == 1 || n == 2 || n == 4 || n == 8

/-- The operands of a command are values that the rule of its row admits. -/
def Instr.wellFormed (i : Instr) : Bool :=
  match i with
  | .ptpSyncReceived _ _ _ _ nsec _ => nsecOk nsec
  | .followUpReceived _ _ _ nsec _ => nsecOk nsec
  | .sqTail _ _ size _ _ => sizeOk size
  | .cqHead _ _ size _ _ => sizeOk size
  | .doorbellStateReq _ _ size _ _ => sizeOk size
  | .registerWrite _ _ size _ _ => sizeOk size
  | .descriptorFetchDone _ _ slots => decide (slots.length ≤ 8)
  | .slotStart _ cls => decide (cls < 256)
  | .imageLoad _ _ bad _ => blemishesOk bad
  | .mapList _ _ _ bad _ _ => blemishesOk bad
  | .confirmationSweepEnd _ _ faults => faults.all fun p => cellsOk p.2
  | .wLoad _ _ bad => blemishesOk bad
  | .pass _ _ faults bad => cellsOk faults && blemishesOk bad
  | .veRun _ _ bad => blemishesOk bad
  | .ftqPop _ _ bad => blemishesOk bad
  | .dmaRun _ _ bad _ => blemishesOk bad
  | .accRead _ _ bad => blemishesOk bad
  | .passVerdict _ _ _ bad => blemishesOk bad
  | .replayStart _ _ faults bad => cellsOk faults && blemishesOk bad
  | .gatherListArrived _ bad _ => blemishesOk bad
  | .sortEnd _ cache => cache.all fun c => decide (c.2.2.gran < 16)
  | .rowFetchReply _ _ u _ => upsetsOk extentGrans u
  | .fabricSendStep _ bad _ => blemishesOk bad
  | .hostTransferStep _ bad _ => blemishesOk bad
  | .updateBatchReadDone _ _ _ bad _ => blemishesOk bad
  | .rowCommit _ u staged _ _ => upsetsOk extentGrans u && staged.all fun p => decide (p.2.gran < 256)
  | .memRead _ u _ => upsetsOk 16 u
  | .memWrite _ _ data u _ => data.length == 16 && upsetsOk 16 u
  | .memAtomic _ _ _ _ _ u _ => upsetsOk 16 u
  | .patrolScrub _ _ u _ => upsetsOk 16 u
  | .sweepPassStart _ _ _ _ faults => cellsOk faults
  | .write _ f _ => f.wellFormed
  | .read _ f bad _ => f.wellFormed && blemishesOk bad
  | .rowRead _ f u _ => f.wellFormed && upsetsOk extentGrans u
  | .atomic _ f bad _ => f.wellFormed && blemishesOk bad
  | .updRec _ f => f.wellFormed
  | .updRpt _ f => f.wellFormed
  | .rsp _ f _ => f.wellFormed
  | .ack _ f => f.wellFormed
  | .helloConnect _ f => f.wellFormed
  | .helloLink _ f => f.wellFormed
  | .peerDown _ f => f.wellFormed
  | .peerUp _ f => f.wellFormed
  | .peerTime _ f => f.wellFormed
  | .fmFrameRefused _ f => f.wellFormed
  | _ => true

end Sys2Proof
end

