-- ==== Sys2Proof/Tests/Slice0.lean ====
section
/-!
SUPPORT.
The model's own tests, each about small states built by the helpers below.
`test_meets_<Statement>`, or `test_meets_<Statement>_<Part>` where a statement joins several groups of rules, shows, clause by clause,
states and operands that meet the hypotheses of a statement of Certificates/Slice0/Obligations.lean; `test_wf_*` are terms that each check
of WellFormed refuses; the others are values that the spec gives, named in their comments.
-/

namespace Sys2Proof.Tests

open Sys2Proof Sys2Proof.Machine Host

set_option Elab.async false

/-- A block that serves, with PTCK running and the link of port 0 up. -/
def up : State :=
  let b := { State.reset.boot with phase := .open_, ptck := true }
  { State.reset with boot := b, ports := [(0, { PortS.init with link := .up, perst := false })] }

def tick (n : Nat) (s : State) : State := s.setTime { s.time with now := n }

/-- `s` with the last field of a register set. -/
def withReg (g : RG) (i : Nat) (w : Word) (s : State) : State := s.setReg g i w

/-- A command's answer is a next state. -/
def goesOn (c : Instr) (s : State) : Bool := match exec c s with | .next _ => true | _ => false

/-- A step's answer is a next state with `p`. -/
def after (c : Instr) (s : State) (p : State → Bool) : Bool := match exec c s with | .next t => p t | _ => false

/-- A submission of ring 0, partition 0 and context 0. -/
def sub (kind : Nat) (st : SubSt) : Sub :=
  { ring := 0, seq := 0, kind := kind, part := 0, ctx := 0, slots := [], bufs := [], inline := [], args := 0, deadline := 30000, xpath := false,
    adm := 0, arrived := 0, here := true, st := st, decided := 0, cls := 0, start := 0, resEnd := 5000, code := 0, chargedAt := 0, done := false,
    ran := false, running := false, cancelled := false, held := false, wports := [], flush := [], flushed := false, once := [], drops := 0,
    detail := 0, info := 0, serial := 0, ended := [], replay := false }

def has (x : Sub) (s : State) : State := s.setSubs [x]

/-- A core step of one tile with one operation. -/
def coreStep (k : Nat) : ImgStep :=
  { start := 0, length := 100, unitKind := 0, unit := 0, engines := 63, remoteDep := false, final := true, replayRes := false, first := k,
    nTiles := 1, depStep := 0xFFFF, slack := 0, remoteWin := 0, group := 0, replayTiles := 0 }

/-- A step of another unit, whose descriptor is `k`. -/
def dieStep (kind unit k : Nat) : ImgStep := { coreStep k with unitKind := kind, unit := unit, engines := 0, nTiles := 0 }

def op (opcode engine arg0 arg1 : Nat) : ImgOp := { opcode := opcode, engine := engine, issue := 0, arg0 := arg0, arg1 := arg1, cost := 0 }

/-- An image whose steps 0 to 8 hold one operation each, and whose steps 9 to 11 are a gather, a fabric send and a host transfer of
descriptor `d`. -/
def image (d : Nat) : Image :=
  let ops := [op 1 0 0 0, op 2 0 0 0, op 2 0 0 1, op 3 4 0 0, op 4 4 0 0, op 5 5 0 0, op 6 4 0 1, op 7 0 0 5, op 7 4 0 5]
  { id := 1, format := 1, upd := true, saddleUpd := 8192, cycleLog := 12, cixon := 0,
    cores := [{ cdie := 0, core := 0, arrays := 15, replay := 3, sub := false }],
    classes := [{ kind := 0, flushIncl := false, periodLog := 12, groupsM1 := 0, phase := 0, length := 4096, firstStep := 0, nSteps := 12,
                  maxIndices := 0, maxOut := 0, maxItems := 1, maxInline := 0, cmpl := 0 }],
    steps := (List.range 9).map coreStep ++ [dieStep 1 32 1, dieStep 2 48 1, dieStep 3 56 1],
    tiles := (List.range 9).map fun k => { firstOp := k, nOp := 1, len := 1, start := 0 },
    ops := ops, descs := [0, d], rsvs := [], tables := [] }

/-- `up` with partition 0 SERVING the image of descriptor `d`. -/
def serving (d : Nat) : State := up.setPart 0 { PartS.init with st := .serving, image := some (image d) }

/-- The instance of a submission runs. -/
def runs (d : Nat) : State := has { sub 0 .accepted with running := true } (serving d)

def opRef (k : Nat) : OpRef := { ring := 0, seq := 0, step := k, tile := k, op := k }

def stepRef (k : Nat) : StepRef := { ring := 0, seq := 0, step := k }

/-! ## Time (02) -/

theorem test_meets_EmptyQueueIdles : up.pending = [] := by decide

theorem test_meets_StepKeepsCanonicalForm : up.Canonical ∧ ∃ t, step { up with pending := [.fabricTick] } = .next t :=
  have kept : up.Canonical := by repeat' first | decide | constructor
  ⟨kept, _, rfl⟩

theorem test_meets_FabricTimeMovesOnlyByItsRules : after .fabricTick up (fun t => t.time.now != up.time.now) = true := by decide

theorem test_meets_LocksStayUntilAStart : after .trefPresent (up.setLocks [4]) (fun t => t.locks.contains 4) = true := by decide +kernel

/-- Every write that SetupWritesKeepOtherRegisters names answers a next state. -/
theorem test_meets_SetupWritesKeepOtherRegisters :
    ([.regionEnable 0 255 0, .regionRelease 0 0 0, .rowlockWrite 0 0 0, .coreAssign 0 255 0, .coreRelease 0 0 0, .contextEnable 0 4095 0, .contextDisable 0 0 0,
      .hqRingSeqWrite 0 4095 7, .xltSlqWrite 0 63 0, .pwinEnable 0 63 0, .pwinDisable 0 0 0, .partEnable 0 63 1, .partDisable 0 0 0, .gthUpdCtrlWrite 0 63 0,
      .gthUpdQuotaWrite 0 63 0, .channelAssign 0 1023 0x40, .channelRelease 0 0 0, .swayAssign 0 31 3 0, .swayRelease 0 0 0 0, .rwayAssign 0 15 3 0,
      .rwayRelease 0 0 0 0, .gthUpdCapWrite 0 15 255 0, .cxlMemberEnable 0 3 0, .serveBudgetWrite 0 true 15 0, .serveBudgetWrite 0 false 7 0, .vstMacWrite 0 2,
      .vstIdWrite 0 0, .timHoldRateWrite 0 0, .hltRingHeadWrite 0 0] : List Instr).all (goesOn · up) = true := by decide +kernel

/-- A port with a PTP transmitter that a Sync has named, and the profile running in domain 0. -/
def heard (two : Bool) : State :=
  let ds : PtpDataset := { prio1 := 1, clkClass := 6, accuracy := 0, variance := 0, prio2 := 0, identity := 5, steps := 0 }
  up.setTime { up.time with ptp := [{ port := 3, ds := ds, heard := 0, twoStep := two }], srcActive := 2 }

theorem test_meets_TimeEventsTakeTheirEffect :
    (let s := (tick 4096 up).setTime { up.time with now := 4096, beacons := [(5, 4096)] }
     s.boot.ptck = true ∧ s.time.now ≠ 0 ∧ smGet 0 s.time.beacons 5 = s.time.now ∧ (9 : BitVec 64).toNat ≠ s.time.now) ∧
    ((up.setTime { up.time with ppsOk := true, now := 150000001 }).time.now > 0 + 150000000) ∧
    (up.setTime { up.time with trefOk := true }).time.trefOk = true ∧
    (up.boot.ptck = true ∧ up.time.tickOk = true) ∧
    (up.setTime { up.time with tickOk := false }).time.tickOk = false ∧
    ((up.setTime { up.time with state := .holdover, bound := 1000 * 10 ^ 9 + 1 }).time.bound > 1000 * 10 ^ 9) ∧
    (up.setTime { up.time with stepFix := some (2 ^ 64) }).time.stepFix = some (2 ^ 64) ∧
    (up.time.unsteered = false ∧ up.excluded (dieF (1 - up.time.timeDie)) = false ∧
      (up.time.timeDie :: up.time.synthDown).contains (1 - up.time.timeDie) = false) ∧
    (up.boot.ptck = true ∧ up.time.stepFix = none) ∧
    ((up.setTime { up.time with state := .holdover }).time.state = .holdover ∧ up.time.state ≠ .holdover ∧ up.time.state ≠ .lost) ∧
    (State.reset.boot.ptck = false ∨ State.reset.time.stepFix ≠ none) := by decide +kernel

/-- An armed TIM_PPS_LOAD of whole seconds, and one of a tick more (R44). -/
theorem test_meets_TimeRegistersTakeTheirWrites_ArmedValueIsJudgedAtTheEdge :
    let a := withReg .timCtrl 0 0x40000000 up
    let b := withReg .timPpsLoadLo 0 100000000 a
    let c := withReg .timPpsLoadLo 0 100000001 a
    a.flag .timCtrl 0 30 = true ∧ b.loadValue % 100000000 = 0 ∧ c.loadValue % 100000000 ≠ 0 ∧
      b.judgeLoad.flag .timEvent 0 4 = true ∧ c.judgeLoad.flag .timEvent 0 5 = true := by decide +kernel

theorem test_meets_PtpEventsTakeTheirEffect :
    (bestLink (heard true).time.ptp = (heard true).time.ptp.head? ∧ (heard true).ptpRuns 0 = true ∧ (heard true).time.srcActive = 2) ∧
    ((tick 300000000 (heard false)).time.now ≥ 0 + 300000000) ∧
    (let s := (withReg .timCtrl 0 0xC up).setTime { up.time with srcActive := 1, now := 100000000 }
     s.transmits = true ∧ s.time.now ≥ s.time.syncSent + 100000000 / 2 ^ s.fld .timCtrl 0 29 27 ∧ s.time.now ≥ s.time.annSent + 100000000) := by
  decide +kernel

theorem test_meets_TimeRegistersTakeTheirWrites :
    (up.reach 0 = true ∧ wbits 1 1 0 ≠ up.fld .timCtrl 0 1 0 ∧ wbits (1 : Word) 1 0 ≠ 3 ∧ wbits (3 : Word) 1 0 = 3 ∧ up.time.unsteered = false) ∧
    (wbit 0x40000000 30 = true ∧ wbits (0x40000000 : Word) 1 0 = up.fld .timCtrl 0 1 0) ∧
    (regAt 0x100008 = some (.timNowLo, 0) ∧ latchOf .timNowLo = some .timNowHi ∧ (isRoot 0x100008 && up.rootsGone) = false) ∧
    (regAt 0xE0000C = some (.secExclLo, 0) ∧ (latchOf .secExclLo).isSome = true ∧ (isRoot 0xE0000C && up.rootsGone) = false) ∧
    (let s := State.reset.setBoot { State.reset.boot with phase := .step 1 }
     s.opened = false ∧ s.boot.phase ≠ .off ∧ (s.port 0).cxl = false) ∧
    (regAt 0x10000C = some (.timNowHi, 0) ∧ latchOf .timNowHi = none ∧ regAt 0x0 = some (.sysStatus, 0) ∧ latchOf .sysStatus = none) := by decide +kernel

/-- TIM_NOW_LO answers the low half and the next read of TIM_NOW_HI the half it latched (R58). -/
theorem test_now_latch :
    after (.timNowLoRead 0) (tick 0x500000007 up) (fun t => t.out == [.regRead 0 7] &&
      after (.loReadLatch 0 (.bar0 0x10000C 4)) (tick 0x600000000 t) fun u => u.out.head? == some (.regRead 0 5)) = true := by decide +kernel

/-- TIM_CTRL reads 0x24040008 at reset, with SRC 0 (R56). -/
theorem test_reset_column : State.reset.reg .timCtrl 0 = 0x24040008 ∧ State.reset.reg .hltThr 0 = 0x0F0A145F := by decide +kernel

/-! ## Rings and submissions (12, 02) -/

/-- Ring 0 ACTIVE on port 0, with 2⁶ slots and 2⁶ entries. -/
def ringed : State := (withReg .hqRingCfg 0 0xC6 up).setRing 0 { RingS.init with st := .active, tail := 2 }

theorem test_meets_DoorbellsTakeTheirWrites :
    (ringed.reach 0 = true ∧ ringed.bellOk 0 0 4 false = true ∧ diff32 (65 : Word).toNat (ringed.ring 0).head > ringed.sqCap 0 ∧
      diff32 (64 : Word).toNat (ringed.ring 0).head ≤ ringed.sqCap 0 ∧ (64 : Word).toNat ≠ (ringed.ring 0).head ∧ (64 : Word).toNat ≠ (ringed.ring 0).tail ∧
      diff32 (ringed.ring 0).tail (ringed.ring 0).head ≤ diff32 (64 : Word).toNat (ringed.ring 0).head ∧
      diff32 (1 : Word).toNat (ringed.ring 0).head < diff32 (ringed.ring 0).tail (ringed.ring 0).head) ∧
    (diff32 (ringed.ring 0).cqw (0xFFFFFFBF : Word).toNat > ringed.cqCap 0 ∧ diff32 (ringed.ring 0).cqw (0xFFFFFFC0 : Word).toNat ≤ ringed.cqCap 0) ∧
    (ringed.bellOk 0 0 8 false = false ∧ ringed.bellOk 1 0 4 false = false ∧ ringed.bellOk 0 0 4 true = false) := by decide +kernel

/-- A base descriptor of one slot with SEQ 0, and one with SEQ 1. -/
theorem test_meets_SubmissionsAreTakenAndCompleted_DescriptorsAreTakenInOrder :
    let b := ((([0] : List (BitVec 512)).map (·.toNat)).getD 0 0)
    let c := ((([BitVec.ofNat 512 (2 ^ 32)] : List (BitVec 512)).map (·.toNat)).getD 0 0)
    (ringed.ring 0).st = .active ∧ diff32 (ringed.ring 0).tail (ringed.ring 0).head ≠ 0 ∧ ReadStatus.poisoned ≠ ReadStatus.ok ∧ bits c 63 32 ≠ ringed.taken 0 ∧
      bits b 63 32 = ringed.taken 0 ∧
      (let e := ((([0x200] : List (BitVec 512)).map (·.toNat)).getD 0 0)
       bits e 63 32 = ringed.taken 0 ∧ diff32 (ringed.ring 0).tail (ringed.ring 0).head < 1 + bits e 10 8) ∧
      (let full := ringed.setRing 0 { ringed.ring 0 with claimed := 64 }
       (full.ring 0).st = .active ∧ diff32 (full.ring 0).claimed (full.ring 0).cqHead ≥ full.cqCap 0) ∧ 1 + bits b 10 8 ≤ diff32 (ringed.ring 0).tail (ringed.ring 0).head ∧
      diff32 (ringed.ring 0).claimed (ringed.ring 0).cqHead < ringed.cqCap 0 := by decide +kernel

/-- A NOP of context 0 that waits, on a partition that serves in LOCKED; and the same 101 ticks later, without a deadline. -/
def nopWaits : State := ((has (sub 0x84 .waiting) (serving 0)).setReg .xltCtxA 0 0x40).setTime { up.time with state := .locked }

theorem test_meets_SubmissionsAreTakenAndCompleted_SubmissionEventsTakeTheirEffect :
    let x := sub 0x84 .waiting
    (nopWaits.sub? 0 0 = some x ∧ x.st = .waiting) ∧
    (nopWaits.nextOf 0 = some x ∧ x.here = true ∧ nopWaits.wardenRestarts (nopWaits.admitH 0) = false ∧ (tick 101 nopWaits).time.now > x.adm + 100 ∧
      nopWaits.time.now ≤ x.adm + 100 ∧ (nopWaits.decide_ x []).isOk = true ∧ (up.decide_ x []).isOk = false) ∧
    (x.mayIssue = false ∧ (x.refuse 0x0701 0).mayIssue = true ∧
      (has (x.refuse 0x0701 0) up).lateResult (x.refuse 0x0701 0) = has (x.refuse 0x0701 0) up ∧ ((has (x.refuse 0x0701 0) up).sub? 0 0).isSome = true) ∧
    ((up.setRing 0 { RingS.init with winHit := true }).ring 0).winHit = true ∧
    ((has (sub 0x83 .accepted) up).sub? 0 0 = some (sub 0x83 .accepted) ∧ (sub 0x83 .accepted).code = 0 ∧ (sub 0x83 .accepted).done = false) := by
  decide +kernel

/-- The decision of a NOP at tick 0 is start 20, reserved end 40 (R386). -/
theorem test_nop_is_accepted :
    after (.admissionDecision 0 0 []) nopWaits (fun t => t.subs.map (fun x => (x.st, x.start, x.resEnd)) == [(.accepted, 20, 40)]) = true := by decide +kernel

theorem test_meets_RingRegistersTakeTheirWrites :
    let s := ((withReg .hqRingCfg 0 0xC6 (serving 0)).setReg .xltCtxA 0 0x40)
    let a := s.setReg .hqRingCtrl 0 1
    (s.reach 0 = true ∧ wbit 1 0 = true ∧ s.flag .hqRingCtrl 0 0 = false ∧ s.mayArm 0 = true ∧ up.mayArm 0 = false) ∧
    (wbit 0 0 = false ∧ a.flag .hqRingCtrl 0 0 = true ∧ ((a.setRing 0 { RingS.init with st := .fenced }).ring 0).st = .fenced ∧
      ((a.setRing 0 { RingS.init with st := .halted }).ring 0).st = .halted) ∧
    (wbit 2 1 = true ∧ wbit 2 0 = s.flag .hqRingCtrl 0 0) := by decide +kernel

/-- A write of EN from 0 to 1 with both sizes in range arms the ring (R380). -/
theorem test_ring_arms :
    after (.ringEnArm 0 0 1) ((withReg .hqRingCfg 0 0xC6 (serving 0)).setReg .xltCtxA 0 0x40)
      (fun t => (t.ring 0).st == .active && t.flag .hqRingCtrl 0 0) = true := by decide +kernel

/-! ## Memory (10) -/

/-- Region 0 of partition 0 is one GiB on channel 0 of stack 0, and context 0 is partition 0's. -/
def memd : State :=
  let s := ((withReg .memRgnA 0 0x1000 up).setReg .memRgnB 0 1).setReg .memRgnC 0 1
  (s.setReg .memRgnD 0 0x100).setReg .xltCtxA 0 0x40

def req (a : BitVec 41) : MemReq := { addr := a, ctx := 0, gen := 0, from_ := .other 1 }

/-- A header error on the first edge of the way from die 1 to die 0, or of the way back. -/
def header (out : Bool) : EdgeErr := { src := if out then 1 else 0, dst := 32, out := out, gran := none, data := 0, check := 0 }

def checks (s : State) (q : MemReq) (write : Bool) (c : Except Nat (Nat × Nat × Nat)) : Bool :=
  match s.agentCheck (MemReq.req q) write, c with
  | .ok a, .ok b => a == b
  | .error a, .error b => a == b
  | _, _ => false

theorem test_meets_AgentReadsAnswer :
    memd.agentsRun = true ∧ checks memd (req 0x40000000) false (.error 0x0480) = true ∧ checks memd (req 256) false (.ok (0, 1, 0)) = true ∧
      memd.deaf 0 = false ∧ (memd.setMem { memd.mem with deaf := [0] }).deaf 0 = true := by decide +kernel

theorem test_meets_AgentReadsAnswer_AgentReadsMeetErrors :
    let r := MemReq.req (req 0)
    let u := memd.headers r [header false]
    memd.agentsRun = true ∧ (memd.headers r [header true]).lostOut r [header true] = some (header true) ∧ u.lostOut r [header false] = none ∧
      checks u (req 0) false (.ok (0, 0, 0)) = true ∧ u.deaf 0 = false ∧ (memd.agentDie r).bind (fun d => lostHeader [] false r.die d) = none := by
  decide +kernel

/-- Two symbols in error are uncorrectable, and the granule is poisoned; one is corrected, and the rewrite is owed (R322, R324). -/
theorem test_meets_AgentReadsAnswer_ReadCorrectsOrPoisons :
    let t := memd.readUpset 0 0 0 none { gran := 3, data := 0x11, check := 0, ondie := false }
    let u := memd.readUpset 0 0 0 none { gran := 15, data := 0x1, check := 0, ondie := false }
    t.mem.poisoned .hbm (hbmAt 0 0 + 48) = true ∧ t.mem.rewrites = [] ∧ u.mem.poisoned .hbm (hbmAt 0 0 + 240) = false ∧
      u.mem.rewrites = [(0, 0, 64)] := by decide +kernel

theorem test_meets_AgentWritesTakeEffect :
    memd.agentsRun = true ∧ checks memd (req 0) true (.ok (0, 0, 0)) = true ∧ memd.deaf 0 = false ∧
      (memd.region 0).trn = 0 ∧ ((memd.setReg .memRgnD 0 0x100102).region 0).trn ≠ 0 ∧
      checks (memd.setReg .memRgnD 0 0x100102) (req 0) true (.ok (0, 0, 0)) = true ∧ checks up (req 0) true (.error 0x0480) = true ∧ (req 8).addr.toNat % 8 = 0 := by decide +kernel

/-- A written byte is read back from the combining buffer, and the other bytes stand (R317). -/
theorem test_write_then_read :
    let w := Instr.memWrite (req 0) 1 ({ data := 0xAB, poison := false } :: List.replicate 15 { data := 0xFF, poison := false }) [] []
    after w memd (fun t => after (.memRead (req 0) [] []) t fun u =>
      u.out.head? == some (.memReply 0 ({ data := 0xAB, poison := false } :: List.replicate 15 { data := 0, poison := false }))) = true := by
  decide +kernel

theorem test_meets_LineWritesAreSeenAtOnce :
    (List.replicate 256 (0 : Byte)).length = 256 ∧ subGranule (-1) = false ∧ (up.mem.wcb.find? fun e => e.pc == 0 && e.line == 0) = none := by decide +kernel

/-- A combined line of pseudo-channel 0 from memory slot 0, one slot later. -/
def slotted : State :=
  let e : WcEntry := { pc := 0, line := 0, mask := -1, data := List.replicate 256 1, gpoison := 0, sub := false, slot := 0, reading := false }
  tick 4 (up.setMem { up.mem with wcb := [e] })

theorem test_meets_LineWritesAreSeenAtOnce_MemorySlotsWriteCombinedLines :
    slotted.agentsRun = true ∧ slotted.time.now % 4 = 0 ∧ goesOn .memorySlot slotted = true ∧ (∀ b ∈ slotted.mem.blocks, b.complete = false) ∧
      (∀ e ∈ slotted.mem.wcb, 256 < hbmAt e.pc e.line ∨ hbmAt e.pc e.line + 256 ≤ 256) := by decide +kernel

def tblock (complete : Bool) : TBlock :=
  { cdie := 0, region := 0, block := 0, esize := 0, ctx := 0, opened := 0, lines := [], complete := complete }

theorem test_meets_AgentUpkeepTakesEffect :
    (up.agentsRun = true ∧ (up.mem.word (hbmAt 0 0 + 16 * 3) 0x11 0).2 = .uncorrectable ∧
      (up.mem.word (hbmAt 0 0 + 16 * 3) 0x1 0).2 = .corrected 0 0) ∧
    (let s := tick 2000 (up.setMem { up.mem with blocks := [tblock false] })
     (s.mem.blocks.find? fun b => b.cdie == 0 && b.block == 0 && !b.complete && decide (s.time.now ≥ b.opened + 2000)) = some (tblock false)) := by
  decide +kernel

theorem test_meets_ChannelsAndWaysTakeTheirWrites :
    let ch := withReg .memChOwn 5 0x40 up
    let sw := withReg .memSway 0 0x40 up
    let rw := withReg .gthRway 0 0x40 up
    (up.reach 0 = true ∧ wbit 0x40 6 = true ∧ up.flag .memChOwn 5 6 = false ∧ up.permanent 0 0x95 = false ∧ up.mem.withdrawn.contains 5 = false ∧
      (up.tg 5).busy = false) ∧
    (wbit 0 6 = false ∧ ch.flag .memChOwn 5 6 = true ∧ ch.chUsed 5 = false) ∧
    (up.setMem { up.mem with clearing := [5] }).mem.clearing.contains 5 = true ∧
    (up.flag .memSway 0 6 = false ∧ up.permanent 0 0x80 = false ∧ up.flag .gthRway 0 6 = false) ∧
    (sw.flag .memSway 0 6 = true ∧ sw.imgOrPend (sw.fld .memSway 0 5 0) = false ∧ rw.flag .gthRway 0 6 = true ∧ rw.imgOrPend (rw.fld .gthRway 0 5 0) = false) ∧
    (up.setMem { up.mem with wayClear := [511] }).mem.wayClear.contains (16 * 31 + 15) = true := by decide +kernel

/-- A way that an image's partition owns, and a partition without an image (R573). -/
theorem test_meets_WaysAreReleasedFreeOfImages :
    let a := withReg .memSway 3 0x40 up
    let b := (serving 0).setReg .gthRway 3 0x40000000
    (a.reach 0 = true ∧ a.flag .memSway 3 6 = true ∧ (a.part 0).image = none ∧ (a.part 0).pending = none) ∧
    (b.flag .gthRway 3 30 = true ∧ (b.part (b.fld .gthRway 3 29 24)).image ≠ none) ∧
    after (.rwayRelease 0 0 3 0) b (fun t => t.flag .memStatus 0 2 && t.reg .gthRway 3 == 0x40000000) = true := by decide +kernel

theorem test_meets_AgentUpkeepTakesEffect_TrafficGeneratorsRun :
    let s := up.setTg 0 { up.tg 0 with len := 4 }
    (wbit 1 0 = true ∧ (s.tg 0).busy = false ∧ s.flag .memChOwn 0 6 = false ∧ TgS.bad { s.tg 0 with ctrl := 1 &&& 0xFF8 } = false ∧
      wbits (s.tg 0).len 23 0 ≠ 0) ∧
    (wbit 2 1 = true ∧ wbit 2 0 = false ∧ ((s.setTg 0 { s.tg 0 with busy := true }).tg 0).busy = true ∧ (s.tg 0).stopped = false ∧
      ((s.setTg 0 { s.tg 0 with busy := true, stopped := true }).tg 0).stopped = true) := by decide +kernel

/-- The generator of a column of two symbols in error is never taken for one (R322): data symbols 0 and 1. -/
theorem test_code_words :
    encodeCheck 0 = 0 ∧ decodeWord 1 (encodeCheck 1) = .clean ∧ decodeWord 0 poisonMask = .poisoned ∧ decodeWord 0x5 0 = .corrected 0 0 ∧
      decodeWord 0x35 0 = .uncorrectable := by decide +kernel

/-! ## Regions, contexts and maps (10, 11) -/

/-- Partition 0 with region 0 and context 0, which has 1 MiB of table area and 64 entries, and a page of 64 KiB at `dev:` address 0. -/
def mapd : State :=
  let s := ((memd.setReg .xltCtxA 0 0x1040).setReg .xltSlq 0 64).setPart 0 { PartS.init with st := .serving, image := some (image 0) }
  s.setXlt { s.xlt with pages := [{ ctx := 0, va := 0, psz := 0, n := 1, mem := 0x100000, w := true }] }

/-- `mapd` before its region and its context were valid, with channel 0 owned. -/
def unmapd : State := (((mapd.setReg .memRgnD 0 0).setReg .xltCtxA 0 0x1000).setReg .memChOwn 0 0x40).setXlt { mapd.xlt with pages := [] }

theorem test_meets_RegionsAndContextsTakeTheirWrites :
    (unmapd.reach 0 = true ∧ wbit 0x100 8 = true ∧ unmapd.flag .memRgnD 0 8 = false ∧ unmapd.regionOk 0 (unmapd.regionWith 0 (0x100 &&& RG.memRgnD.row.rw)) = true) ∧
    (memd.flag .memRgnD 0 8 = true ∧ (memd.part (memd.region 0).owner).st = .idle) ∧
    (wbit 0x400100 22 ≠ mapd.flag .memRgnD 0 22 ∧ wbit 0x400100 22 = true ∧
        (mapd.setReg .memRgnD 0 0x400100).rowsIn ((mapd.setReg .memRgnD 0 0x400100).region 0) = false) ∧
    (wbit 0x1040 6 = true ∧ unmapd.flag .xltCtxA 0 6 = false ∧ (unmapd.setReg .memRgnD 0 0x100).ctxOk 0 0x1040 = true) ∧
    (memd.flag .xltCtxA 0 6 = true ∧ (memd.part (memd.fld .xltCtxA 0 5 0)).st = .idle) ∧
    (wbits (8192 : Word) 13 0 ≤ 8192 ∧ (((List.range 64).filter (· != 0)).map fun q => mapd.fld .xltSlq q 13 0).foldl (· + ·) 0 + wbits (8192 : Word) 13 0 ≤ 8192 ∧
      mapd.entriesOf mapd.xlt.pages 0 ≤ wbits (8192 : Word) 13 0) ∧
    (let s := (mapd.setReg .xltPwinD 63 1)
     wbit 0x1000 12 = true ∧ s.flag .xltPwinA 63 12 = false ∧ s.pwinOk 63 0x1000 = true ∧ (s.setReg .xltPwinA 63 0x1000).flag .xltPwinA 63 12 = true) := by
  decide +kernel

/-- A region shows V, and another with no stacks is refused (R310). -/
theorem test_region_is_enabled :
    after (.regionEnable 0 0 0x100) unmapd (fun t => t.flag .memRgnD 0 8 && !t.flag .memStatus 0 0) = true ∧
      after (.regionEnable 0 1 0x100) unmapd (fun t => !t.flag .memRgnD 1 8 && t.flag .memStatus 0 0) = true := by decide +kernel

/-- A map list of one INSTALL of a 64 KiB page at `dev:` address 0x10000, with MAGIC `m`. -/
def mapList (m : Nat) : List Gran :=
  [{ data := BitVec.ofNat 128 (m + 2 ^ 32), poison := false }, { data := BitVec.ofNat 128 (0x10000 + 2 ^ 50 + 0x200000 * 2 ^ 64), poison := false }]

/-- `mapd` with a host window of 64 KiB and the three tables that lead to the page of the list: where a new table goes is left open (log 60). -/
def tabled : State :=
  (mapd.setReg .xltCtxA 0 0x10C0).setXlt { mapd.xlt with tables := (List.range 3).map fun i => { ctx := 0, level := i + 1, prefix_ := 0, addr := 0x10000 * (i + 1) } }

/-- A map submission of context 0 whose list of 32 bytes lies in host memory. -/
def mapSub : Sub := { sub 0x82 .accepted with bufs := [{ addr := 0, len := 32, dev := false, rd := true, wr := false }] }

/-- Its list's port is fenced before the decision: the read refuses it (R409). -/
theorem test_meets_SubmissionsAreTakenAndCompleted_FencedListsRefuse :
    let x := { mapSub with st := .waiting }
    let s := (has x ((tabled.setReg .hqRingCfg 0 0x400C6).setPort 0 { up.port 0 with fenced := true })).setTime { up.time with state := .locked }
    s.nextOf 0 = some x ∧ s.wardenRestarts (s.admitH 0) = false ∧ s.time.now ≤ x.adm + 100 ∧ x.buf0.dev = false ∧ s.validate x = 0 ∧
      ((s.readList x []).2.sub? 0 0).any (·.st == .refused) = true := by decide +kernel

/-- A withdrawal of the page of `mapd` in one of its two phases. -/
def pulled (ph : WdPhase) (dies : List Nat) : Withdraw :=
  { ctx := 0, part := 0, ring := 0, seq := 0, gen := 0, begun := 0, phase := ph, dies := dies, op := (0, 2 ^ 51), rest := [], failedOp := none }

def pulling (ph : WdPhase) (dies : List Nat) : State := mapd.setXlt { mapd.xlt with withdrawals := [pulled ph dies] }

/-- A map submission whose list lies at `dev:` address 0, and a header of its read lost on the way. -/
def mapDevSub : Sub := { sub 0x82 .accepted with bufs := [{ addr := 0, len := 32, dev := true, rd := true, wr := false }] }

def gone : EdgeErr := { src := 56, dst := 1, out := true, gran := none, data := 0, check := 0 }

/-- A transfer of context 0's page outstanding on die 0. -/
def waiting : Xfer :=
  { core := 0, r := { ring := 0, seq := 0, step := 0, tile := 0, op := 0 }, part := 0, ctx := 0, gen := 0, pages := mapd.xlt.pages, desc := 0, img := 1,
    issued := 0, ready := none, entries := [], allPoison := false, host := none, cancelled := false, edges := [], lost := false }

/-- `tabled` with an entry of its level 1 table on the way of the list that breaks R350. -/
def broken : State := has mapSub (tabled.setMem (tabled.ownWrite tabled.mem 0x10000 (List.replicate 8 0xFF)))

theorem test_meets_MapListsAreCarriedOut :
    let s := has mapSub tabled
    let r := s.readList mapSub (mapList 0x504D)
    let z := s.readList mapSub (mapList 0)
    (s.runnable 0 0 0x82 = some mapSub ∧ s.mapBusy (s.admitH 0) = false ∧ mapSub.buf0.dev = false) ∧
    ((has mapDevSub mapd).runnable 0 0 0x82 = some mapDevSub ∧ ((has mapDevSub mapd).readOver (Who.die_ (dieH 0)) 0 0 2 [] [gone]).1 = none) ∧
    ((has mapDevSub mapd).readOver (Who.die_ (dieH 0)) 0 0 2 [] []).1 ≠ none ∧
    z.2.checkMap 0 z.1 = .error (0x0690, headErr) ∧
    r.2.checkMap 0 r.1 = .ok (0, mapOps (mapList 0x504D) 1) ∧ r.2.badPath 0 (mapOps (mapList 0x504D) 1) = none ∧
    (let b := broken.readList mapSub (mapList 0x504D)
     b.2.checkMap 0 b.1 = .ok (0, mapOps (mapList 0x504D) 1) ∧ b.2.badPath 0 (mapOps (mapList 0x504D) 1) = some (0, 1, 0x10000)) ∧
    ((pulling .counting [63]).withdrawOf 0 .counting = some (pulled .counting [63]) ∧ (pulled .counting [63]).dies.contains 63 = true ∧
      (pulling .counting [63]).outstanding 0 0 63 = []) ∧
    ((pulling .counting [63]).withdrawOf 0 .counting = some (pulled .counting [63]) ∧
        (pulled .counting [63]).begun + 10000 ≤ (tick 10000 (pulling .counting [63])).time.now) ∧
    ((pulled .counting [63]).dies.flatMap fun d => (tick 10000 (pulling .counting [63])).outstanding 0 0 d).dedup = [] ∧
    ((pulled .counting [0]).dies.flatMap fun d => ((tick 10000 (pulling .counting [0])).setXfers [waiting]).outstanding 0 0 d).dedup ≠ [] ∧
    ((pulling .flooring [0, 1]).withdrawOf 0 .flooring = some (pulled .flooring [0, 1]) ∧ (pulled .flooring [0, 1]).dies.contains 1 = true) := by
  decide +kernel

/-- Its page is present afterwards and translates (R362). -/
theorem test_map_list_installs :
    after (.mapList 0 0 (mapList 0x504D) [] [] none) (has mapSub tabled) (fun t =>
      (match t.translate 0 0x1FFFF true with | .ok (a, _) => a == 0x20FFFF | .error _ => false) &&
      match t.translate 0 0x20000 false with | .ok _ => false | .error c => c == 0x0401) = true := by decide +kernel

theorem test_meets_InstalledPagesTranslate :
    let o := 0x10000 + 2 ^ 50 + 0x200000 * 2 ^ 64
    opVa o ≤ 0x1FFFF ∧ 0x1FFFF < opEnd o ∧ (∀ p ∈ mapd.xlt.pages, p.ctx = 0 → p.end_ ≤ opVa o ∨ opEnd o ≤ p.va) := by decide +kernel

/-! ## Images and slots (03, 07) -/

/-- An image of one core, one class of one step of one tile with one NOP, and a reservation of core 0: little-endian. -/
def imgNat : Nat :=
  pack [(0, 32, 0x5A365349), (32, 16, 6), (64, 64, 1), (128, 32, 0x700), (160, 32, 1737461886), (0x18 * 8, 16, 1), (0x1A * 8, 16, 1), (0x1C * 8, 32, 1),
    (0x20 * 8, 32, 1), (0x24 * 8, 32, 1), (0x2C * 8, 32, 1), (0x32 * 8, 16, 12), (0x40 * 8, 32, 0x100), (0x44 * 8, 32, 0x200), (0x48 * 8, 32, 0x300),
    (0x4C * 8, 32, 0x400), (0x50 * 8, 32, 0x500), (0x58 * 8, 32, 0x600),
    (0x101 * 8, 8, 1), (0x200 * 8, 8, 1), (0x202 * 8, 8, 12), (0x208 * 8, 32, 1024), (0x210 * 8, 32, 1), (0x220 * 8, 16, 8), (0x304 * 8, 32, 64),
    (0x30A * 8, 6, 1), (0x30B * 8, 8, 2), (0x310 * 8, 32, 1), (0x404 * 8, 16, 1), (0x406 * 8, 16, 4), (0x500 * 8, 8, 7), (0x508 * 8, 32, 4), (0x50C * 8, 16, 4),
    (0x600 * 8, 28, 32), (0x603 * 8 + 4, 4, 2), (0x606 * 8, 16, 1), (0x608 * 8, 32, 1)]

def imgGrans : List Gran := (List.range 112).map fun i => { data := BitVec.ofNat 128 (imgNat >>> (128 * i)), poison := false }

/-- A LOAD of context 0 whose image of 1,792 bytes lies at `dev:` address 0, with SWITCH_SADDLE 16,384. -/
def loadSub : Sub := { sub 0x81 .accepted with bufs := [{ addr := 0, len := 1792, dev := true, rd := true, wr := false }], args := 16384 }

def loading (l : List Gran) : State :=
  let s := has loadSub (mapd.setReg .sysCoreOwn 0 0x40)
  (s.devWrite (Who.die_ 56) 0 0 l).2

def judged (s : State) (l : List Gran) : Option (Nat × Nat) := match (s.checkImage loadSub l []).1 with | .ok _ => none | .error e => some e

/-- A fold that evaluates its value at every step. -/
def forced {α : Type} (f : Nat → α → Nat) (c : Nat) : List α → Nat
  | [] => c
  | b :: t =>
    match f c b with
    | 0 => forced f 0 t
    | n + 1 => forced f (n + 1) t

theorem forced_eq {α : Type} (f : Nat → α → Nat) (c : Nat) (l : List α) : forced f c l = l.foldl f c := by
  induction l generalizing c with
  | nil => rfl
  | cons b t ih => simp only [forced, List.foldl_cons]; split <;> simp [*]

/-- What a LOAD's checks ask of an image without descriptors, one after the other. -/
theorem judged_none (s : State) (l : List Gran) (h1 : 8 ≤ 16 * l.length) (h2 : fieldAt (leNat (gransBytes l)) 0 31 0 = 0x5A365349)
    (h3 : fieldAt (leNat (gransBytes l)) 4 15 0 = 6) (h4 : imgLenOk (leNat (gransBytes l)) (16 * l.length) (gransBytes l) = true)
    (h5 : s.imgRecords loadSub.part (leNat (gransBytes l)) (Image.of (leNat (gransBytes l))) = none)
    (h6 : s.imgWhole loadSub.part (Image.of (leNat (gransBytes l))) = none)
    (h7 : saddleOk (bits loadSub.args 63 0) (loadEnd loadSub.decided (16 * l.length) loadSub.xpath) = true)
    (h8 : (Image.of (leNat (gransBytes l))).descs = []) (h9 : s.imgInputs loadSub.part { Image.of (leNat (gransBytes l)) with tables := [] } = none) :
    judged s l = none := by
  generalize hm : Image.of (leNat (gransBytes l)) = im at *
  cases im
  simp only at h8
  subst h8
  simp at h9
  simp [judged, State.checkImage, Nat.not_lt.mpr h1, h2, h3, h4, h5, h6, h7, h9, hm, State.tablesFrom]

theorem image_length : imgLenOk (leNat (gransBytes imgGrans)) (16 * imgGrans.length) (gransBytes imgGrans) = true := by
  rw [imgLenOk, crc32c, ← forced_eq]
  decide +kernel

theorem image_read :
    (loading imgGrans).readOver (Who.die_ (dieH ((loading imgGrans).admitH 0))) 0 0 112 [] [] = (some imgGrans, 0, loading imgGrans) := by
  decide +kernel

theorem image_accepted : judged (loading imgGrans) imgGrans = none := by
  refine judged_none _ _ ?_ ?_ ?_ image_length ?_ ?_ ?_ ?_ ?_ <;> decide +kernel

theorem test_meets_SlotsAndStepsTakeEffect_ImageLoadsAreJudged :
    (let s := loading imgGrans
     let a := s.readOver (Who.die_ (dieH (s.admitH 0))) 0 0 112 [] []
     s.runnable 0 0 0x81 = some loadSub ∧ a.2.1 = 0 ∧ (∃ l, a.1 = some l ∧ (l.any fun g => g.poison) = false ∧ judged a.2.2 l = none)) ∧
    judged mapd [] = some (0x0641, 0) ∧ (mapd.readOver (Who.die_ 56) 0 65536 112 [] []).2.1 ≠ 0 ∧
    ((loading []).readOver (Who.die_ 56) 0 0 112 [] [gone]).1 = none := by
  refine ⟨⟨by decide +kernel, ?_, imgGrans, ?_, ?_, ?_⟩, ?_⟩
  · simp only [image_read]
  · simp only [image_read]
  · decide +kernel
  · simp only [image_read]; exact image_accepted
  · decide +kernel

/-- What R89, R95 and R115 to R118 ask of instances, held operations, ended steps and NOPs on an array and on the vector engine. -/
theorem test_meets_SlotsAndStepsTakeEffect :
    let s := runs 0
    let x := { sub 0 .accepted with running := true }
    let busyA := s.setArray 0 { s.array 0 with rowEnd := 1 }
    let busyV := s.setEng 0 4 { s.eng 0 4 with free := 1 }
    let ended := tick 4000 (s.setEng 0 4 { s.eng 0 4 with lastB := some (opRef 8) })
    let t0 := 7 * (x.start + ((image 0).step 8).start)
    (let q := has (sub 1 .accepted) (serving 0)
     (q.subs.find? fun x => x.part == 0 && isQuery x.kind && x.st == .accepted && x.cls == 0 && !x.running && x.code == 0 &&
       decide (x.start ≤ q.time.now) && q.partRuns 0 (7 * x.start)) = some (sub 1 .accepted)) ∧
    (let e := tick 64 (s.setEng 255 5 { s.eng 255 5 with held := some (opRef 0) })
     (e.eng 255 5).held = some (opRef 0) ∧ e.cycle 0 ≥ (e.eng 255 5).stated + 448) ∧
    (let waits := tick 4000 s
     let slipped := ended.setEng 0 4 { ended.eng 0 4 with slip := 1 }
     ∀ t ∈ [ended, waits, slipped], t.instance? 0 0 = some (x, image 0) ∧ ((image 0).stepsOf x).contains 8 = true ∧ ((image 0).step 8).unitKind = 0 ∧
       x.ended.contains 8 = false ∧ t0 + (image 0).lastEnd ((image 0).step 8) ≤ t.cycle 6 ∧ t.partRuns 0 (t0 + (image 0).lastTile ((image 0).step 8)) = true ∧
       (t.stepGoesOn x (image 0) 8 (t.cycle 6), (t.slipsOf x (image 0) ((image 0).step 8) 8 (t.cycle 6)).any fun p => decide (0 < p.2)) =
         (decide (t = waits), decide (t = slipped))) ∧
    (∀ u ∈ [s, busyA], (u.opAt (opRef 7) 7).isSome = true ∧ ∀ o, u.opAt (opRef 7) 7 = some o → u.mayConsider o (u.cycle 0) = true ∧ u.engineOf o = 0 ∧
      (decide (u.cycle 0 < (u.array (4 * o.core + 0)).rowEnd)) = decide (u = busyA)) ∧
    (∀ u ∈ [s, busyV], (u.opAt (opRef 8) 7).isSome = true ∧ ∀ o, u.opAt (opRef 8) 7 = some o → u.mayConsider o (u.cycle 0) = true ∧ u.engineOf o = 4 ∧
      (decide (u.cycle 0 < (u.eng o.core 4).free)) = decide (u = busyV)) := by
  decide +kernel

theorem test_meets_SlotsAndStepsTakeEffect_SlackAbsorbsSlip :
    let s := (runs 0).setEng 0 4 { (runs 0).eng 0 4 with lastB := some (opRef 8), slip := 3 }
    ∀ e, e < 6 → ({ coreStep 8 with slack := 3 } : ImgStep).engines.testBit e = true →
      (s.eng ((image 0).coreNo 0) (if e ≤ 3 then s.runsOnArray (image 0) ((image 0).coreNo 0) e else e)).slipIn 0 0 0 8 ≤ 3 := by decide +kernel

/-- What the common hypotheses of a core operation ask: it is placed and may be considered; `p` is what else a clause asks. -/
def ready (s : State) (k opcode : Nat) (p : OpAt → Bool) : Bool :=
  match s.opAt (opRef k) opcode with
  | some o => s.mayConsider o (s.cycle 0) && p o
  | none => false

/-- `runs` with `d` in place of the empty descriptor that the core operations name. -/
def works (d : Nat) : State :=
  has { sub 0 .accepted with running := true } (up.setPart 0 { PartS.init with st := .serving, image := some { image 0 with descs := [d] } })

/-- DMA descriptors of 16 bytes: from TB0 to operand SRAM, from operand SRAM to TB0, from die-shared SRAM to TB0, and from TB3 to operand SRAM. -/
def tbToOs : Nat := pack [(8, 8, 1), (0xC0, 32, 16)]
def osToTb : Nat := pack [(8, 8, 8), (0xC0, 32, 16)]
def sharedToTb : Nat := pack [(8, 8, 10), (0xC0, 32, 16)]
def tb3ToOs : Nat := pack [(8, 8, 1), (0x30, 8, 3), (0xC0, 32, 16)]

/-- A transfer of descriptor `d` that operation `k` of the instance has begun. -/
def under (k d : Nat) : Xfer :=
  { core := 0, r := opRef k, part := 0, ctx := 0, gen := 0, pages := [], desc := d, img := 1, issued := 0, ready := none, entries := [], allPoison := false,
    host := none, cancelled := false, edges := [], lost := false }

def moving (k d : Nat) (s : State) : State := s.setXfers [under k d]

def pass0 : PassS :=
  { r := opRef 1, img := 1, verdict := 0, tile := 0, ftq := false, acc := true, fp := false, queue := 0, rows := [], nonfinCol := false, failRow := none,
    failCol := none, adders := [] }

def replay0 : ReplayS :=
  { array := 3, target := 0, r := opRef 2, tile := 0, tiles := [0], queue := 0, fp := false, ops := [(0, 0), (2, 2)], window := 0, nwin := 1, started := false, verdict := 0,
    failed := false, rows := [], tags := [] }

/-- W_LOADs and PASSes. -/
theorem test_meets_MatrixOperationsIssue :
    let s := runs 0
    let set (t : State) (f : ArrayS → ArrayS) : State := t.setArray 0 (f (t.array 0))
    let reads (o : OpAt) (n : Nat) := (OperandD.of (o.im.desc o.op.arg0)).reads o.core n
    let pushes := has { sub 0 .accepted with running := true }
      (up.setPart 0 { PartS.init with st := .serving, image := some { image 0 with ops := [op 1 0 0 0, op 2 0 0 0, op 2 0 0 0x4001] } })
    (let t := set s fun a => { a with loadEnd := 1 }
     ready t 0 1 (fun o => decide (0 < (t.array (4 * o.core + s.engineOf o)).loadEnd)) = true) ∧
    ready (moving 5 tbToOs s) 0 1 (fun o => ((moving 5 tbToOs s).missing o 0 (reads o 0)).isSome) = true ∧
    ready s 0 1 (fun o => (s.array (4 * o.core + s.engineOf o)).loadEnd == 0 && !(s.array (4 * o.core + s.engineOf o)).fresh &&
        s.missing o 0 (reads o 0) == none) = true ∧
    (let t := set s fun a => { a with rowEnd := 1 }
     ready t 1 2 (fun o => decide (0 < (t.array (4 * o.core + t.engineOf o)).rowEnd)) = true) ∧
    ready s 1 2 (fun o => (s.array (4 * o.core + s.engineOf o)).rowEnd == 0 && o.op.rows == 0) = true ∧
    (let asks (t : State) (p : OpAt → Bool) := ready t 2 2 fun o =>
       let a := t.array (4 * o.core + t.engineOf o)
       a.rowEnd == 0 && o.op.rows == 1 && !a.fresh && t.loadsIssued o && p o
     let full := set pushes fun a => { a with ftq := List.replicate 8 (0, 0) }
     asks full (fun o => full.queueFull o.core o.op) = true ∧
     asks (moving 5 tbToOs s) (fun o => !(moving 5 tbToOs s).queueFull o.core o.op && ((moving 5 tbToOs s).missing o 0 (reads o 1)).isSome) = true ∧
     asks s (fun o => !s.queueFull o.core o.op && s.missing o 0 (reads o 1) == none) = true) := by
  decide +kernel

/-- Verdicts, replays, FTQ_POP and ACC_READ, and what names no operation of a running instance. -/
theorem test_meets_MatrixOperationsIssue_Rest :
    let s := runs 0
    ((s.setArray 1023 { s.array 1023 with passes := [pass0] }).array 1023).passes = [pass0] ∧ pass0.verdict ≤ s.cycle 6 ∧
    (let t := tick 4000 (s.setCore 0 { s.core 0 with replays := [replay0] })
     ((t.core 0).replays.find? fun q => !q.started) = some replay0 ∧
     (match t.started? 0 0 with
      | some (x, im) =>
        let b := im.windowBase x (im.step 2)
        decide (b ≤ t.cycle 0) && t.partRuns x.part b && t.cdieRuns 0 b
      | none => false) = true) ∧
    (let busy (t : State) := t.setEng 0 4 { t.eng 0 4 with free := 1 }
     let held (t : State) (o : OpAt) := t.orderHeld o (o.im.opWrites o.core o.op) 0
     let idle (t : State) (o : OpAt) := (t.eng o.core 4).free == 0
     let queued := s.setArray 0 { s.array 0 with ftq := [(63, 0)] }
     let row : PRow := { poison := false, wrap := false, nonfin := false, vals := [] }
     let pending := s.setArray 0 { s.array 0 with passes := [{ pass0 with rows := [row] }] }
     ready (busy s) 4 4 (fun o => !idle (busy s) o) = true ∧
     ready (moving 5 tbToOs s) 4 4 (fun o => idle (moving 5 tbToOs s) o && held (moving 5 tbToOs s) o) = true ∧
     ready s 4 4 (fun o => idle s o && !held s o && (s.array (4 * o.core + bits o.op.arg1 1 0)).ftq == []) = true ∧
     ready queued 4 4 (fun o => idle queued o && !held queued o && (queued.array (4 * o.core + bits o.op.arg1 1 0)).ftq == [(63, 0)] && !tagPoison 0) = true ∧
     ready (busy s) 6 6 (fun o => !idle (busy s) o) = true ∧
     ready pending 6 6 (fun o => idle pending o && pending.tilePending o (bits o.op.arg0 5 0)) = true ∧
     ready (moving 5 tb3ToOs s) 6 6 (fun o => idle s o && !s.tilePending o (bits o.op.arg0 5 0) && held (moving 5 tb3ToOs s) o) = true ∧
     ready s 6 6 (fun o => idle s o && !s.tilePending o (bits o.op.arg0 5 0) && !held s o) = true) ∧
    [1, 2, 4, 6].all (fun k => (up.opAt (opRef 0) k).isNone) = true := by
  decide +kernel

/-- A RELU-like map of one INT8 element from operand SRAM onto itself, or into TB1, for its spans alone. -/
def oneElement : Nat := pack [(16, 16, 1), (32, 16, 1), (48, 16, 1), (0x80, 3, 1), (0x1A0, 3, 1)]
def oneToTb : Nat := pack [(16, 16, 1), (32, 16, 1), (48, 16, 1), (0x80, 3, 1), (0x1A0, 3, 5)]

theorem test_meets_VectorAndDmaOperationsIssue :
    let v := works oneElement
    let w := works oneToTb
    let vec (o : OpAt) := VecD.of (o.im.desc o.op.arg0)
    let dma (o : OpAt) := DmaD.of (o.im.desc o.op.arg0)
    let busy (e : Nat) (t : State) := t.setEng 0 e { t.eng 0 e with free := 1 }
    let d := works tbToOs
    let asks (t : State) (k : Nat) (p : OpAt → Bool) := ready t k k fun o => (t.eng o.core (if k = 3 then 4 else 5)).free == 0 && p o
    ready (busy 4 v) 3 3 (fun o => decide (0 < ((busy 4 v).eng o.core 4).free)) = true ∧
    asks (moving 5 osToTb v) 3 (fun o => (moving 5 osToTb v).orderHeld o ((vec o).writeAccs o.core) 0) = true ∧
    asks (moving 5 tbToOs w) 3 (fun o => !(moving 5 tbToOs w).orderHeld o ((vec o).writeAccs o.core) 0 &&
        ((moving 5 tbToOs w).missing o 0 ((vec o).readAccs o.core)).isSome) = true ∧
    asks v 3 (fun o => !v.orderHeld o ((vec o).writeAccs o.core) 0 && v.missing o 0 ((vec o).readAccs o.core) == none) = true ∧
    ready (busy 5 d) 5 5 (fun o => decide (0 < ((busy 5 d).eng o.core 5).free)) = true ∧
    asks (moving 3 osToTb d) 5 (fun o => (moving 3 osToTb d).orderHeld o ((dma o).writeAccs o.core) 0) = true ∧
    asks (moving 3 sharedToTb d) 5 (fun o => !(moving 3 sharedToTb d).orderHeld o ((dma o).writeAccs o.core) 0 && ((moving 3 sharedToTb d).missing o 0 ((dma o).readAccs o.core)).isSome) = true ∧
    asks d 5 (fun o => !d.orderHeld o ((dma o).writeAccs o.core) 0 && d.missing o 0 ((dma o).readAccs o.core) == none) = true := by decide +kernel

/-- A transfer at its data-ready cycle: one that lost a packet, with its instance and without, one whose bytes are all poisoned, and a plain one. -/
theorem test_meets_VectorAndDmaOperationsIssue_DataReady :
    let at4 (x : Xfer) := tick 4 ((works 0).setXfers [x])
    let found (t : State) := t.xfers.find? fun x => x.r == opRef 5 && decide (x.ready.getD (x.issued + 24) ≤ t.cycle 0) &&
        (x.host.isSome || (DmaD.of x.desc).srcSp != 4)
    let x0 := under 5 tbToOs
    (∀ x ∈ [x0, { x0 with lost := true }, { x0 with allPoison := true }], found (at4 x) = some x) ∧ ((at4 x0).instance? 0 0).isSome = true ∧
      (up.instance? 0 0).isSome = false ∧ x0.lost = false ∧ x0.allPoison = false ∧ x0.edges = [] ∧ (DmaD.of x0.desc).expand = false ∧
      (up.opAt (opRef 0) 3).isNone = true ∧ (up.opAt (opRef 0) 5).isNone = true := by decide +kernel

/-- A DMA_RUN with BYTES 0 is ready, in engine 5 (R280). -/
theorem test_meets_EmptyDmaMovesNothing :
    let s := runs 0
    ready s 5 5 (fun o => (DmaD.of (o.im.desc o.op.arg0)).bytes == 0 && s.engineOf o == 5) = true ∧
      after (.dmaRun (opRef 5) 0 [] []) s (fun t => (t.eng 0 5).free == 24 && t.xfers == []) = true := by decide +kernel

/-! ## Gathers, updates and transfers (07, 08, 12, 13) -/

/-- A table of one row of one element, in index order, and an image that gathers from it by the descriptor `d`. -/
def tab : TableEntry := { TableEntry.of 0 with rows := 1, localRows := 1, stride := 1, outMax := 4096 }

def gimage (d : Nat) : Image := { image d with tables := [{ gdie := 0, desc := 1, entries := [tab] }] }

/-- A gather descriptor of one table whose list is in buffer slot `buf`, of at most one index. -/
def gdesc (buf : Nat) : Nat := pack [(0, 8, 4), (8, 3, buf), (16, 8, 1), (32, 6, 1), (96, 32, 1)]

/-- A gather list of one index, 0, of table 0: header, entry and index in 48 bytes, with MAGIC `m`. -/
def glist (m : Nat) : List Byte := leBytes 48 (pack [(0, 16, m), (16, 8, 1), (32, 32, 1), (128, 32, 1), (192, 32, 32)])

def gsub (m : Nat) : Sub :=
  { sub 1 .accepted with
    running := true, inline := glist m,
    bufs := [false, true].map fun d => { addr := 0, len := 48, dev := d, rd := true, wr := false } }

def gathers (buf m : Nat) (l : List GStep) : State :=
  (has (gsub m) ((mapd.setReg .gthRway 0 0x40).setPart 0 { PartS.init with st := .serving, image := some (gimage (gdesc buf)) })).setGsteps l

def gkey (st : FetchSt) : GKey :=
  { t := 0, i := 0, mult := 1, remote := false, st := st, issued := 0, gen := 0, pages := mapd.xlt.pages, hits := [], vals := [],
    poison := false }

def gstep (ph : GPhase) (keys : List GKey) : GStep :=
  { r := stepRef 9, gdie := 0, part := 0, ctx := 0, start := 0, phase := ph, list := none, sortEnd := 0, tabs := [{ idx := [0], bags := [] }], dropOff := 0, drops := [0],
    keys := keys, windowShut := false, cache := [], written := [], lost := false, missed := [] }

/-- The gather of step 9 is placed, and `p` holds of its parts. -/
def gat (s : State) (p : Sub → Image → ImgStep → GatherD → Bool) : Bool :=
  match s.gatherAt (stepRef 9) with
  | some (x, im, st, d) => p x im st d
  | none => false

/-- A packet of G-die 0 to C-die 0 whose header is lost. -/
def goneG : EdgeErr := { src := 32, dst := 0, out := true, gran := none, data := 0, check := 0 }

/-- Starts, lists and sorts. -/
theorem test_meets_GatherStepsTakeEffect :
    (let s := gathers 7 0x4C47 []
     gat s (fun x _ st d => d.buf == 7 && !x.ended.contains 9 && (s.gstep? (stepRef 9)).isNone && decide (x.start + st.start ≤ s.time.now) && s.unitRuns 0 &&
         s.dieOk 32) = true) ∧
    (let s := gathers 0 0x4C47 []
     gat s (fun x _ _ d => d.buf != 7 && !(x.buf d.buf).dev) = true) ∧
    (∀ m ∈ [0x4C47, 0], let s := gathers 7 m [gstep .listing []]
     gat s (fun x im st d => s.gstep? (stepRef 9) == some (gstep .listing []) && !s.listPending (stepRef 9) && s.unitRuns 0 &&
       (match (s.slotGrans (Who.die_ 32) x d.buf [] [] []).1 with
        | some l => listCode l (x.slotLen d.buf) d (im.gtables st) == if m = 0x4C47 then 0 else 0x0660
        | none => false)) = true) ∧
    (let s := gathers 1 0 [gstep .listing []]
     gat s (fun x _ _ d => (x.buf d.buf).dev && (s.slotGrans (Who.die_ 32) x d.buf [] [] [goneG]).1 == none) = true) ∧
    (let s := gathers 7 0x4C47 [gstep .sorting []]
     gat s (fun _ _ _ _ => s.gstep? (stepRef 9) == some (gstep .sorting []) && decide (0 ≤ s.time.now) && s.unitRuns 0) = true) := by decide +kernel

/-- Rows, bounds and outputs. -/
theorem test_meets_GatherStepsTakeEffect_Rest :
    let s := gathers 7 0x4C47 [gstep .fetching [gkey .sent]]
    let g := gstep .fetching [gkey .sent]
    gat s (fun x im st _ => s.gstep? (stepRef 9) == some g && (im.gtables st)[0]? == some tab && decide (s.time.now ≤ x.start + st.start + st.remoteWin)) = true ∧
      (s.rowDie g tab (gkey .sent) 0).any (between 32 · goneG) = true ∧ edgeLost goneG = true ∧
      (∀ far, let g := gstep .fetching [{ gkey .sent with remote := far }]
       let t := tick 2000 (gathers 7 0x4C47 [g])
       gat t (fun x im st _ => decide (x.start + st.start + st.remoteWin + 2000 ≤ t.time.now) && t.gstep? (stepRef 9) == some g &&
         ((g.unwritten (im.gtables st)).any fun p => p.2.2.remote) == far) = true) ∧
      gat (tick 1 s) (fun x _ st _ => decide (x.start + st.start + st.remoteWin < (tick 1 s).time.now)) = true ∧
      (let late (far : Bool) := ((tick 100 (gathers 7 0x4C47 [gstep .fetching [{ gkey .sent with remote := far }]])).cutRemote (stepRef 9) []).gatherDone
         (stepRef 9) [] []
       ∀ far, gat (late far) (fun x im st _ => (late far).unitRuns 0 && decide (x.start + st.start + st.length ≤ (late far).time.now) &&
         match (late far).gstep? (stepRef 9) with
         | some g => g.phase == .fetching && ((g.unwritten (im.gtables st)).all fun p => p.2.2.remote) == far
         | none => false) = true) ∧
      (let s := gathers 7 0x4C47 [gstep .fetching [gkey .arrived]]
       gat s (fun x _ st _ => s.unitRuns 0 && decide (s.time.now < x.start + st.start + st.remoteWin + 2000) &&
         match s.gstep? (stepRef 9) with
         | some g => g.phase == .fetching && g.keys.all fun k => !(k.remote && k.st == .sent)
         | none => false) = true) := by decide +kernel

/-- T_list of a list of one index: the sort ends 29 ticks after the list has come (R245). -/
theorem test_gather_list_is_sorted :
    after (.gatherListArrived (stepRef 9) [] []) (gathers 7 0x4C47 [gstep .listing []])
      (fun t => t.gsteps.map (fun g => (g.phase, g.sortEnd, g.tabs.map (·.idx))) == [(.sorting, 29, [[0]])]) = true := by decide +kernel

/-- A record for row 0 of table 0 with LR 1 and gradient 0, for the saddle 4,096. -/
def rec0 : UpdRec :=
  { tableId := 0, dimM1 := 0, twide := 0, opt := 0, stride := 1, mode := 0, tier := 0, gfmt := 4, index := 0, src := 0, serial := 0, pos := 0, lr := 0x3F800000,
    eps := 0, b1 := 0, b2 := 0, c1 := 0, c2 := 0, saddle := 4096, data := [0, 0], poison := false }

def staged (cxl : Option Nat) : Staged := { gdie := 0, part := 0, ctx := 0, va := 0, cxl := cxl, port := none, u := rec0, lost := false }

def flies (f st ap : List Staged) (s : State) : State := s.setUpd { s.upd with flight := f, staging := st, applying := ap }

/-- `up` with a cap of 16 lines for source 0 at G-die 0, and partition 0 serving an image that updates table 0. -/
def updates : State := ((gathers 7 0x4C47 []).setReg .gthUpdCap 0 0x40100000).setSubs []

/-- `updates` with two lines in a memory slot on channel 0 and a turn in each tick for the update unit of G-die 0. -/
def paced : State :=
  let r : ImgRsv := { id := 0, kind := 1, start := 0, len := 4096, amount := 2 }
  updates.setPart 0 { updates.part 0 with image := (updates.part 0).image.map fun im => { im with rsvs := [r, { r with id := 1 }, { r with kind := 6 }] } }

def outcome0 (port : Option Nat) (sent : Bool) : HomeOut :=
  { dev := 0, gdie := 0, src := 0, serial := 0, saddle := 0, part := 0, ctx := some 0, port := port, status := 0, statusAt := 0, nonfin := 0, records := 1, rows := 1, sent := sent }

def ingest0 : Ingest :=
  { ring := 0, seq := 0, serial := 0, saddle := 0, gdie := 0, part := 0, window := 0, reportOff := 0, reportMax := 0, dropped := 0,
    homes := [{ dev := 0, gdie := 0, done := false, status := 0, nonfin := 0, records := 0, rows := 0 }], owed := [] }

/-- Batches and records that arrive. -/
theorem test_meets_UpdatesTakeTheirEffect :
    (let x := { sub 0x80 .accepted with bufs := [{ addr := 0, len := 16, dev := true, rd := true, wr := true }] }
     let s := updates.setSubs [x]
     let reads (edges : List EdgeErr) := s.readOver (Who.die_ (dieG (s.fld .gthUpdCtrl 0 3 0))) 0 0 1 [] edges
     s.batchSub 0 0 = some x ∧ s.domainRuns = true ∧ x.buf0.dev = true ∧ (reads []).1 ≠ none ∧ (reads [goneG]).1 = none) ∧
    (let x := sub 0x80 .accepted
     let s := (has x up).setReads [{ id := 0, port := 0, purpose := .batch 0 0, part := 0, ctx := 0, addr := 0, len := 16, issued := 0 }]
     s.batchSub 0 0 = some x ∧ x.buf0.dev = false ∧ (s.reads.any fun q => q.purpose == ReadFor.batch 0 0) = true ∧
         (up.reads.any fun q => q.purpose == ReadFor.batch 0 0) = false) ∧
    (let found (s : State) (u : UpdRec) := s.upd.flight.find? fun st => st.gdie == 0 && st.u == u
     let first (s : State) (st : Staged) := s.upd.flight.find? fun x => x.gdie == st.gdie && s.recordFrom x == s.recordFrom st
     let later := { staged none with u := { rec0 with serial := 1 } }
     let s := flies [staged none, later] [] [] updates
     let sent (edges : List EdgeErr) := (flies [later] [] [] updates).sendOver (s.recordFrom (staged none)) 32 [{ data := 0, poison := false }] edges
     found s rec0 = some (staged none) ∧ first s (staged none) = some (staged none) ∧ found s later.u = some later ∧ first s later ≠ some later ∧
       (sent []).1 ≠ none ∧ (sent []).2.rejects (staged none) = 0 ∧ (tick 3841 (sent []).2).rejects (staged none) = 0x0530) ∧
    (let away := { staged none with port := some 0 }
     updates.recordFrom away = 48 ∧
       ((flies [] [] [] updates).sendOver 48 32 [{ data := 0, poison := false }] [{ goneG with src := 48, dst := 0 }]).1 = none) := by decide +kernel

/-- Rows and reports. -/
theorem test_meets_UpdatesTakeTheirEffect_Rest :
    (let due (st : Staged) (s : State) := tick 4096 (flies [] [] [st] s)
     let spoilt (st : Staged) : Staged := { st with u := { st.u with poison := true } }
     let runs (s : State) (st : Staged) := s.nextRow 0 = [st] ∧ s.domainRuns = true ∧ s.dieOk (dieG 0) = true
     let underWay (s : State) (st : Staged) := st.cxl.isSome && (s.cxlRow 0).isSome
     (∀ st ∈ [staged none, spoilt (staged none), staged (some 3), spoilt (staged (some 3))],
       let s := due st paced
       runs s st ∧ s.updatable st = true ∧ underWay s st = false ∧ (s.paceRow st).isSome = true ∧
         ((s.meetStaged [st] []).1.any (·.u.poison)) = decide (st = spoilt (staged none) ∨ st = spoilt (staged (some 3)))) ∧
     (let t := due (staged none) (paced.setUpd { paced.upd with pace := [(0, 16 * 4097)] })
      runs t (staged none) ∧ t.updatable (staged none) = true ∧ t.paceRow (staged none) = none) ∧
     (let q : CxlReq := { id := 0, hdie := 3, purpose := .row 0, off := 0, n := 1, locked := false, phase := .read, data := [] }
      let t := due (staged (some 3)) (updates.setFab { updates.fab with cxl := [q] })
      runs t (staged (some 3)) ∧ t.updatable (staged (some 3)) = true ∧ underWay t (staged (some 3)) = true) ∧
     (runs (due (staged none) up) (staged none) ∧ (due (staged none) up).updatable (staged none) = false)) ∧
    (∀ q ∈ [none, some 63], let s := tick 8192 (updates.setUpd { updates.upd with outcomes := [outcome0 q false] })
     (s.upd.outcomes.find? fun o => o.gdie == 0 && o.src == 0 && o.serial == 0 && !o.sent) = some (outcome0 q false) ∧
       0 + s.homeWindow 0 0 ≤ s.time.now ∧ s.homeBusy 0 0 0 = false ∧ s.isSelf 0 = false) ∧
    (let after := { outcome0 none true with serial := 1 }
     let s := updates.setUpd { updates.upd with outcomes := [outcome0 none true, after], ingests := [ingest0, { ingest0 with serial := 1 }] }
     let found (g serial : Nat) := s.upd.outcomes.find? fun o => o.sent && o.dev == 0 && o.gdie == g && o.serial == serial
     let first (o : HomeOut) := s.upd.outcomes.find? fun x => x.sent && (x.origin, (s.ingestOf x).map (·.gdie)) == (o.origin, (s.ingestOf o).map (·.gdie))
     let arrives (s : State) (edges : List EdgeErr) :=
       ((s.setUpd { s.upd with outcomes := [after] }).sendOver (outcome0 none true).origin (dieG 0) [] edges).1
     let late (s : State) := decide (s.time.now > ingest0.saddle + ingest0.window + 2000) || ingest0.homes.any fun h => h.dev == 0 && h.gdie == 0 && h.done &&
         h.status == 0x0510
     let waits (i : Ingest) (gdie : Nat) := (i.homes.find? fun h => h.dev == 0 && h.gdie == gdie).elim (i.owed.any fun p => p.1 == 0 && p.2 != 0) fun h => !h.done
     found 0 0 = some (outcome0 none true) ∧ first (outcome0 none true) = some (outcome0 none true) ∧ found 0 1 = some after ∧ first after ≠ some after ∧
         s.ingestOf (outcome0 none true) = some ingest0 ∧ arrives s [] ≠ none ∧ late s = false ∧
       late (tick 2001 s) = true ∧ ingest0.saddle + ingest0.window + 2000 < (tick 2001 s).time.now ∧
       (s.upd.ingests.find? fun i => i.serial == 0) = some ingest0 ∧ waits ingest0 0 = true ∧ waits ingest0 1 = false ∧
       waits { ingest0 with owed := [(0, 1)] } 1 = true) := by decide +kernel

theorem test_meets_UpdatesTakeTheirEffect_UpdateRegistersTakeTheirWrites :
    (wbit 0x1F 4 = true ∧ (withReg .gthRway 63 0x40000000 up).wayOwner .gthRway (wbits 0x1F 3 0) 15 = some 0 ∧ up.dieOk (dieG (wbits 0x1F 3 0)) = true ∧
        up.subs = []) ∧
    (wbits (0x4000000 : Word) 26 0 ≤ 2 ^ 26 ∧ 2 ^ 26 < wbits (0x4000001 : Word) 26 0) ∧
    ((∀ j, j < 256 → j ≠ 255 → up.flag .gthUpdCap (256 * 15 + j) 30 = true → up.fld .gthUpdCap (256 * 15 + j) 15 0 ≠ wbits (0x40100000 : Word) 15 0) ∧
      capFits ((up.putRw .gthUpdCap (256 * 15 + 255) 0x40100000).capSum 15) (up.window 15 []) = true) := by decide +kernel

/-- A host transfer from buffer 0, or to it, of 16 bytes and die-shared SRAM 0 offset 0; one of no bytes. -/
def xdesc (toBuf : Bool) (n : Nat) : Nat := pack [(0, 8, 6), (8, 1, bnat toBuf), (12, 3, 2), (128, 32, n)]

/-- A fabric send of 16 bytes from die-shared SRAM 0 offset 0 to device 1. -/
def sdesc (o n : Nat) : Nat := pack [(0, 8, 5), (8, 2, o), (16, 3, 2), (32, 16, 1), (192, 32, n)]

def stepped (s : State) (k kind : Nat) (p : Sub → Image → ImgStep → Bool) : Bool :=
  match s.stepAt (stepRef k) kind with
  | some (x, im, st) => s.unitMay x st (stepRef k) && p x im st
  | none => false

/-- The frames of a send are taken, or refused with a code. -/
def sendsAs (s : State) (d : Nat) (l : List Gran) : Option Nat :=
  match (s.sendRequest (.send (stepRef 10)) 0 1 0 0 0 false (s.sendFrames (SendD.of d) 0 l)).1 with
  | .ok _ => none
  | .error c => some c

/-- Context 0 of `s` reaches the pool, and port 0 of F-die 0 is up. -/
def pooled (s : State) : State :=
  let t := (s.setReg .xltCtxA 0 0x440).setReg .vstId 0 0x10000
  t.setFport 0 { link := 2, direct := false, partner := 0, lanes := 15 }

/-- `runs` with a host buffer and a record of one byte at tick 1000 of a resource 0 of a kind, the only one that the steps' descriptors may name. -/
def reserved (kind d : Nat) : State :=
  let x := { sub 0 .accepted with running := true, bufs := [{ addr := 0, len := 16, dev := false, rd := false, wr := true }] }
  let s := has x (serving d)
  s.setPart 0 { s.part 0 with image := (s.part 0).image.map fun im =>
    { im with rsvs := [{ id := 0, kind := kind, start := 1000, len := 1, amount := 1 }] } }

/-- A transfer, and a send, that wait for the bytes that their records give them, and ones that name no record. -/
theorem test_meets_TransferStepsTakeEffect_Allowance :
    (let d := xdesc true 16 + 2 ^ 192
     ∀ q ∈ [(reserved 9 d, d, true), (reserved 9 (xdesc true 16), xdesc true 16, false), (reserved 9 (xdesc false 16), xdesc false 16, false)],
       stepped q.1 11 3 (fun x im st => q.1.portWaits x im st (XferD.of q.2.1) 16 == q.2.2) = true) ∧
    (let d := sdesc 0 16 + 2 ^ 416
     ∀ q ∈ [(reserved 7 d, d, false), (runs (sdesc 0 16), sdesc 0 16, true)],
       stepped q.1 10 2 (fun x im st => (q.1.allowance x im st 0 (SendD.of q.2.1).rsvN 7 0).all ((SendD.of q.2.1).wire ≤ ·) == q.2.2) = true) := by
  decide +kernel

theorem test_meets_TransferStepsTakeEffect :
    (∀ q ∈ [(false, 0), (false, 16), (true, 16)], let s := runs (xdesc q.1 q.2)
     stepped s 11 3 (fun x im st => (XferD.of (im.desc st.first)).toBuf == q.1 && (XferD.of (im.desc st.first)).len x.items == q.2) = true) ∧
    (∀ q ∈ [(0, 0), (0, 16), (1, 16), (2, 0)], let s := runs (sdesc q.1 q.2)
     stepped s 10 2 (fun _ im st => (SendD.of (im.desc st.first)).op == q.1 && (SendD.of (im.desc st.first)).bytes == q.2) = true) ∧
    (let reads (edges : List EdgeErr) := (runs (sdesc 0 16)).locRead 48 0 0 2 0 0 1 [] edges
     (reads []).1.isSome = true ∧ (reads [{ goneG with src := 48 }]).1 = none) ∧
    (sendsAs (pooled (runs 0)) (sdesc 1 16) [] = none ∧ sendsAs (pooled (runs 0)) (sdesc 0 16) [{ data := 0, poison := false }] = none ∧
      sendsAs (runs 0) (sdesc 1 16) [] = some 0x0430) := by decide +kernel

/-! ## Host ports (12) -/

theorem test_meets_TimeEventsTakeTheirEffect_FabricTickAddsOne :
    up.boot.ptck = true ∧ up.time.stepFix = none ∧ State.reset.boot.ptck = false ∧ (up.setTime { up.time with state := .lost }).time.state = .lost ∧
      up.time.state ≠ .holdover ∧ up.time.state ≠ .lost := by decide

/-- Fabric time wraps at 2⁶⁴ (R34). -/
theorem test_tick_wraps : after .fabricTick (tick (2 ^ 64 - 1) up) (fun t => t.time.now == 0) = true := by decide +kernel

def batchRead : HostRead := { id := 5, port := 3, purpose := .xfer (opRef 5), part := 0, ctx := 0, addr := 0, len := 16, issued := 0 }

/-- Port 3 in CXL mode with its link up, and port 1 whose host was lost at tick 0. -/
def ports : State :=
  (up.setPort 3 { PortS.init with link := .up, cxl := true, perst := false }).setPort 1
    { PortS.init with link := .down, perst := false, refclk := true, lostAt := some 0, lostArmed := true, fenced := true }

/-- A host read by port 3 for core 0's die, whose packet may be lost on the mesh, and the events of the ports. -/
theorem test_meets_HostPortEventsTakeTheirEffect :
    (let s := (up.setReads [batchRead]).setXfers
       [{ core := 0, r := opRef 5, part := 0, ctx := 0, gen := 0, pages := [], desc := 0, img := 1, issued := 0, ready := none, entries := [],
          allPoison := false, host := none, cancelled := false, edges := [], lost := false }]
     let came (edges : List EdgeErr) := ((s.dropRead 5).fetchOver (s.readerOf batchRead) (fun _ => some (dieH 3)) 1 edges fun _ _ s => (readData 1 .ok [], 0, s)).1
     (s.reads.find? fun q => q.id == 5 && q.port == 3) = some batchRead ∧ (came []).isSome = true ∧
       came [{ src := 32, dst := 0, out := false, gran := none, data := 0, check := 0 }] = none) ∧
    ({ up with boot := { up.boot with excl := 1 <<< 59 } } : State).excluded (dieH 3) = true ∧
    ((ports.port 3).active = true ∧ (ports.port 3).cxl = true ∧ (ports.port 0).active = true ∧ (ports.port 0).cxl = false) ∧
    ((ports.port 1).active = false ∧ (ports.port 1).perst = false ∧ (ports.port 1).refclk = true ∧ ports.excluded (dieH 1) = false) ∧
    ((ports.port 1).lostAt = some 0 ∧ (ports.port 1).lostArmed = true ∧ 0 + 100000000 ≤ (tick 100000000 ports).time.now) ∧
    (ports.reach 0 = true ∧ ports.locks.contains (RG.off .hqPortCfg 2) = false ∧ wbit 0 0 = false ∧ wbit 1 0 = true ∧ ports.mayCxl 2 = true ∧
      ringed.mayCxl 0 = false ∧ (ports.setBoot { ports.boot with excl := 1 <<< 58 }).excluded (dieH 2) = true ∧
      (ports.setBoot { ports.boot with excl := 1 <<< 58 }).mayCxl 2 = true) ∧
    (ports.port 1).refclk = true ∧ (State.reset.port 0).perst = true := by decide +kernel

theorem test_meets_HostPortEventsTakeTheirEffect_HostLossFencesItsRings :
    ringed.ringsOn 0 = [0] ∧ (ringed.ring 0).st ≠ .disabled ∧ ((ringed.loseHost 0 0 .down).ring 0).st = .fenced := by decide +kernel

theorem test_meets_ClockLossTakesTheLinkDown :
    let s := ringed.setPort 0 { ringed.port 0 with refclk := true }
    (s.port 0).refclk = true ∧ (s.port 0).link ≠ .down ∧ (s.port 0).cxl = false ∧ 0 ∈ s.ringsOn 0 ∧ (s.ring 0).st ≠ .disabled ∧
      ((ports.setPort 3 { ports.port 3 with refclk := true }).port 3).cxl = true := by decide +kernel

/-- A remote request of a send of step 10, and one of row 0 of step 9. -/
def remote (p : RemoteFor) : RemoteReq :=
  { id := 7, purpose := p, op := 2, peer := 1, port := 0, reqSeq := 0, part := 0, ctx := 0, issue := 0, got := [] }

def asks (p : RemoteFor) (s : State) : State := s.setFab { s.fab with reqs := [remote p] }

def holding : HoldS := { latch := 64, resumeAt := 0, ring := 0, seq := 0, latched := true }

theorem test_meets_PoolRequestsAreServed_RemoteBoundFailsTheRequest :
    let p := RemoteFor.row (stepRef 9) 0
    let s := tick 2000 (asks p up)
    s.fab.reqs.find? (·.id == 7) = some (remote p) ∧ (remote p).issue + 2000 ≤ s.time.now ∧ (s.part 0).hold = none ∧
      ((s.setPart 0 { s.part 0 with hold := some holding }).part 0).hold = some holding ∧ holding.latch ≤ s.time.now ∧
      (asks (.send (stepRef 10)) up).fab.reqs.find? (·.id == 7) = some (remote (.send (stepRef 10))) := by decide +kernel

/-! ## Fabric (13) -/

def conn (open_ : Bool) : Conn := { up.newConn 0 1 0 open_ with ackDue := some 0 }

/-- The device with ID 0 in LOCKED, port 0 up, and a connection with device 1. -/
def linked (c : Conn) : State :=
  let s := (pooled mapd).setTime { mapd.time with state := .locked }
  s.setConn c

/-- A request frame from device 1 to this device at pool offset 0, which pool window 63 maps to `dev:` address 0. -/
def frm (op : Nat) : Frame :=
  { frame0 .req op 1 0 with last := true, bytes := 16, payload := [{ data := 0, poison := false }, { data := 0, poison := false }] }

def window (s : State) : State := (s.setReg .xltPwinA 63 0x7000).setReg .xltPwinD 63 1

def meets (op : Nat) (f : Frame) (p : State → Arrived → Bool) : Bool :=
  match (window (linked (conn true))).arrive 0 op f with
  | (_, some a) => !(f.fence && a.s.cxlBusy 0 f) && p a.s a
  | _ => false

/-- A gate that lets a request to this device's own memory pass, and one that stops it. -/
def gated (s : State) (op : Nat) (f : Frame) : Bool :=
  match s.arrive 0 op f with
  | (_, some a) => a.s.gate (a.head f) true != 0 && !(f.fence && a.s.cxlBusy 0 f)
  | _ => false

/-- The packet of F-die 0 to C-die 0 is lost: its header on the one edge between them. -/
def goneF : EdgeErr := { src := 48, dst := 0, out := true, gran := none, data := 0, check := 0 }

theorem test_meets_PoolRequestsAreServed :
    let lost := (linked (conn true)).setTime { (linked (conn true)).time with state := .lost }
    (∀ edges ∈ [[], [goneF]], meets 1 (frm 1) (fun s a => s.gate (a.head (frm 1)) true == 0 && (s.memberOf 0).isNone &&
      (s.carryOver 48 (fun i => s.poolDie 48 (16 * i)) a.data edges fun i l s => s.poolWrite 48 (16 * i) l).1.isSome == (edges == [])) = true) ∧
    (∀ op ∈ [1, 2, 3, 4], gated lost op { frm op with aop := 6, bytes := if op = 3 then 256 else if op = 4 then 32 else 16 } = true) ∧
    (∀ edges ∈ [[], [goneF]], meets 2 (frm 2) (fun s a => s.gate (frm 2) true == 0 && (s.memberOf 0).isNone &&
      ((s.meetPool 0 1 []).fetchOver 48 (fun i => a.s.poolDie 48 (16 * i)) 1 edges fun i k s => s.poolRead 48 (16 * i) k).1.isSome == (edges == [])) = true) ∧
    (∀ edges ∈ [[], [goneF]], let f := { frm 3 with bytes := 256 }
     meets 3 f (fun s a => s.gate f true == 0 && (s.memberOf 0).isNone && (a.s.poolRow 48 0 1 [] edges).1.isSome == (edges == [])) = true) ∧
    (∀ edges ∈ [[], [goneF]], let f := { frm 4 with aop := 6, bytes := 32 }
     Frame.atomOf f = some .or ∧ meets 4 f (fun s a => s.gate f true == 0 && (s.memberOf 0).isNone &&
       ((s.meetPool 0 1 []).fetchOver 48 (fun _ => s.poolDie 48 0) 1 edges fun _ _ t =>
           ([(t.poolAtomic 48 { f with payload := a.data } .or).1], 0, (t.poolAtomic 48 { f with payload := a.data } .or).2.2)).1.isSome ==
         (edges == [])) = true) := by decide +kernel

/-- A WRITE and a READ of the pool reach the same bytes, each answered with status 0 (R434, R435). -/
theorem test_pool_write_then_read :
    let w := { frm 1 with payload := [{ data := 0x1234, poison := false }] }
    let answers : Out → Bool := fun o => match o with
      | .frame q _ _ _ f _ => q == 0 && f.cls == .rsp && f.op == 2 && f.payload == [{ data := 0x1234, poison := false }] && f.status == 0
      | _ => false
    after (.write 0 w []) (window (linked (conn true))) (fun t => after (.read 0 { frm 2 with seq := 1 } [] []) t fun u => u.out.any answers) = true := by
  decide +kernel

def member : State := ((window (linked (conn true))).setReg .vstCxl 3 0x10009).setConn { conn true with self_ := 9 }

/-- The member of H-die 3 with device ID 9 is asked for each of the four requests. -/
theorem test_meets_PoolRequestsAreServed_members :
    ∀ op ∈ [1, 2, 3, 4], let f := { frm op with dst := 9, aop := 6, bytes := if op = 3 then 256 else if op = 4 then 32 else 16 }
    (match member.arrive 0 op f with
      | (_, some a) => a.s.gate (a.head f) true == 0 && a.s.memberOf 9 == some 3 && (op != 4 || Frame.atomOf f == some .or) && !(f.fence && a.s.cxlBusy 0 f)
      | _ => false) = true := by decide +kernel

def cxlReq (ph : CxlPhase) (f : Frame) : CxlReq :=
  { id := 4, hdie := 3, purpose := .pool 0 f, off := 0, n := 16, locked := false, phase := ph, data := [] }

def cxlAt (x : CxlReq) : State := (linked (conn true)).setFab { (linked (conn true)).fab with cxl := [x] }

def cxlFinds (x : CxlReq) : Bool :=
  ((cxlAt x).fab.cxl.find? fun x => x.id == 4 && x.hdie == 3 && (x.phase == .reading || x.phase == .writing)) == some x

theorem test_meets_PoolRequestsAreServed_CxlMembersServeRequests :
    (((frm 1).op = 1 ∧ up.flag .vstCxl 3 17 = false) ∧ (frm 2).offset.toNat + 0 ≤ Config.cxlCapacity 3 ∧ ((frm 2).op = 1 → up.flag .vstCxl 3 17 = true) ∧
      ((frm 2).op = 4 → up.flag .vstCxl 3 18 = true)) ∧
    (cxlFinds (cxlReq .reading (frm 2)) = true ∧
        (((([{ data := 0, poison := false }] : List Gran) ++ poisonGrans 1).take 1).any fun (g : Gran) => g.poison) = false ∧
      (frm 2).op ≠ 4) ∧ cxlFinds (cxlReq .writing (frm 1)) = true := by
  refine ⟨⟨⟨rfl, by decide +kernel⟩, ?_, by decide, by decide⟩, by decide +kernel⟩
  rw [show (frm 2).offset.toNat + 0 = 0 from rfl]
  exact Nat.zero_le _

/-- A row whose home G-die restarts; a packet that arrives and one that does not; an ATOMIC on a line read clean past its time; a row that
an expander reads and one that it writes. -/
theorem test_meets_PoolRequestsAreServed_CxlMembersMeetErrors :
    (let act : FwAct := { domain := 2, die := dieG 0, rest := [], begun := 0, started := true }
     let s := up.setBoot { up.boot with fwAct := some act }
     s.gRestarts (s.fld .vstCxl 3 22 19) = true ∧ (frm 3).op = 3) ∧
    ((up.sendOver 48 (dieH 3) [{ data := 0, poison := false }] []).1 = some [{ data := 0, poison := false }]) ∧
    ((up.sendOver 48 (dieH 3) [{ data := 0, poison := false }] [goneF]).1 = none) ∧
    (let f := { frm 4 with aop := 6, bytes := 32 }
     f.op = 4 ∧ Frame.atomOf f ≠ none ∧ (tick 1801 (linked (conn true))).expired f = true) ∧
    (∀ ph ∈ [CxlPhase.reading, CxlPhase.writing], cxlFinds { cxlReq ph (frm 1) with purpose := .row 0 } = true) := by decide +kernel

/-- The frame of `rec0` for pool offset 0. -/
def recFrame : Frame := { frm 5 with bytes := 64, payload := UpdRec.head rec0 ++ [{ data := 0, poison := false }] }

theorem test_meets_PoolRequestsAreServed_PoolRecordsAndResponsesAreTaken :
    meets 5 recFrame (fun s a => s.gate (a.head recFrame) false == 0 &&
        (match s.recordHome 0 (a.head recFrame) (updOf 1 a.data) with | .ok st => st.gdie == 0 | .error _ => false)) = true ∧
    (let f := { recFrame with offset := 0x10000 }
     meets 5 f (fun s a => s.gate (a.head f) false == 0 &&
         (match s.recordHome 0 (a.head f) (updOf 1 a.data) with | .ok _ => false | .error c => c == 0x0430)) = true) ∧
    (let s := (linked (conn true)).setTime { (linked (conn true)).time with state := .acquiring }
     (match s.arrive 0 5 recFrame with | (_, some a) => a.s.gate (a.head recFrame) false == 0x0806 | _ => false) = true) ∧
    (let s := (linked (conn true)).setUpd { (linked (conn true)).upd with ingests := [ingest0] }
     (match s.arrive 0 6 (frm 6) with | (_, some a) => a.s.gate (frm 6) false == 0 &&
         (a.s.upd.ingests.find? fun i => i.serial == 0) == some ingest0 | _ => false) = true) ∧
    (let f := { frm 2 with cls := .rsp }
     f.cls = .rsp ∧ (match (linked (conn true)).receive 0 f with | .taken _ => true | .dropped _ => false) = true) := by
  decide +kernel

theorem test_meets_FramesAndConnectionsFollowTheirRules_FramesAreTakenInOrder :
    up.frameOk 63 (frm 1) = false ∧ (linked (conn true)).frameOk 0 (frm 1) = true ∧ (linked (conn true)).conn? 0 1 0 = some (conn true) ∧ (conn true).open_ = true ∧
      (0xFFFFFFFF : Word).toNat ≠ (conn true).expSeq ∧ (frm 1).seq.toNat = (conn true).expSeq ∧ (frm 1).bad = [] := by decide +kernel

def hello (op : Nat) : Frame := frame0 .hello op 1 0

/-- A table of `n` connections of F-die 0. -/
def table (n : Nat) : State := (pooled mapd).setFab { (pooled mapd).fab with conns := List.replicate n { conn true with peer := 2 } }

theorem table_full (n : Nat) : ((table n).fab.conns.filter fun c => c.port / 8 == 0).length = n := by
  show ((List.replicate n { conn true with peer := 2 }).filter fun c => c.port / 8 == 0).length = n
  rw [List.filter_replicate, if_pos (by decide), List.length_replicate]

theorem table_misses (n : Nat) : (table n).conn? 0 1 0 = none := by
  show (List.replicate n { conn true with peer := 2 }).find? (fun c => c.port == 0 && c.peer == 1 && c.self_ == 0) = none
  rw [List.find?_replicate]
  split <;> rfl

theorem table_up (n : Nat) : (table n).frameOk 0 (hello 2) = true ∧ (table n).sendBar 0 1 0 false = 0 ∧ (table n).isSelf 1 = false ∧
    (table n).upOf 0 = [0] ∧ (table n).devId = 0 := by
  refine ⟨?_, ?_, ?_, ?_, ?_⟩
  · exact (by decide +kernel : (pooled mapd).frameOk 0 (hello 2) = true)
  · exact (by decide +kernel : (pooled mapd).sendBar 0 1 0 false = 0)
  · exact (by decide +kernel : (pooled mapd).isSelf 1 = false)
  · exact (by decide +kernel : (pooled mapd).upOf 0 = [0])
  · exact (by decide +kernel : (pooled mapd).devId = 0)

theorem test_meets_FramesAndConnectionsFollowTheirRules_ConnectionEventsTakeTheirEffect :
    ((frame0 .ack 0 1 0).cls = .ack ∧ (linked (conn true)).frameOk 0 (frame0 .ack 0 1 0) = true ∧ (linked (conn true)).conn? 0 1 0 = some (conn true)) ∧
    ((hello 2).cls = .hello ∧ (hello 2).op = 2 ∧ (pooled mapd).frameOk 0 (hello 2) = true ∧ (pooled mapd).conn? 0 1 0 = none ∧ (pooled mapd).connRoom 0 = true) ∧
    ((table 16384).frameOk 0 (hello 2) = true ∧ (table 16384).conn? 0 1 0 = none ∧ (table 16384).connRoom 0 = false) ∧
    ((linked (conn true)).conn? 0 1 0 = some (conn true) ∧ (conn true).open_ = true ∧ (linked (conn false)).conn? 0 1 0 = some (conn false) ∧
        (conn false).open_ = false) ∧
    ((hello 1).op = 1 ∧ 2 ≤ ((pooled mapd).fport 0).link ∧ (pooled mapd).devIdValid = true) ∧
    (let s := tick 100000000 (linked (conn true))
     let u : Unacked := { f := frm 1, born := 0, sent := some 0 }
     s.connsOf 0 1 = [conn true] ∧ (conn true).ackDue = some 0 ∧ 0 + 8 ≤ s.time.now ∧ (conn true).unacked = [] ∧ (conn true).lastFrame + 100000000 ≤ s.time.now ∧
       ({ conn true with unacked := [u] } : Conn).unacked.head?.bind (·.sent) = some 0 ∧ 0 + s.fld .vstTmo 0 11 0 ≤ s.time.now ∧
       ({ conn true with unacked := [u] } : Conn).unacked.head? = some u ∧ u.born + 16 * s.fld .vstTmo 0 27 12 ≤ s.time.now ∧
           (conn false).helloAt + s.fld .vstTmo 0 11 0 ≤ s.time.now) := by
  refine ⟨by decide +kernel, by decide +kernel, ⟨(table_up _).1, table_misses _, ?_⟩, by decide +kernel, by decide +kernel, by decide +kernel⟩
  rw [State.connRoom, table_full]
  decide

theorem test_meets_IdleConnectionsCloseAndFullTablesRefuse :
    (let s := tick 100000000 (linked (conn true))
     s.connsOf 0 1 = [conn true] ∧ (conn true).unacked = [] ∧ (conn true).lastFrame + 100000000 ≤ s.time.now ∧ s.fab.reqs = [] ∧
       (tick 99999999 (linked (conn true))).time.now < (conn true).lastFrame + 100000000) ∧
    ((table 16384).sendBar 0 1 0 false = 0 ∧ (table 16384).isSelf 1 = false ∧ ((table 16384).fab.conns.filter fun c => c.port / 8 == 0).length = 16384 ∧
      (table 16384).conn? (((table 16384).upOf 0).getD (1 % ((table 16384).upOf 0).length) 0) 1 (table 16384).devId = none ∧ (table 16384).upOf 0 ≠ []) ∧
    ((table 16384).fab.downPeers.contains 1 = false ∧ 2 ≤ ((table 16384).fport 0).link ∧ (table 16384).conn? 0 1 0 = none) := by
  have u := table_up 16384
  have links : ((table 16384).fab.downPeers.contains 1 = false ∧ 2 ≤ ((table 16384).fport 0).link) :=
    (by decide +kernel : (pooled mapd).fab.downPeers.contains 1 = false ∧ 2 ≤ ((pooled mapd).fport 0).link)
  refine ⟨by decide +kernel, ⟨u.2.1, u.2.2.1, table_full _, ?_, ?_⟩, links.1, links.2, table_misses _⟩
  · rw [u.2.2.2.1, u.2.2.2.2]; exact table_misses _
  · rw [u.2.2.2.1]; decide

/-- A fabric-manager message of a TYPE about device 3, with MSG_SEQ 1. -/
def fmFrame (type : Nat) : Frame :=
  { frame0 .fm 0 1 0 with payload := [{ data := BitVec.ofNat 128 (type + 3 * 2 ^ 16), poison := false }, { data := BitVec.ofNat 128 (2 ^ 32), poison := false }] }

theorem test_meets_FabricManagerAndPortsAreFollowed_FabricManagerIsObeyed :
    (∀ type ∈ [0x81, 0x82, 0x83, 0x80, 0x84], (fmFrame type).cls = .fm ∧ fmType (fmFrame type) = type ∧ fmFields (fmFrame type) = some (type, 3, 0, 1) ∧
      (match ((linked (conn true)).setReg .vstFm 0 0x10001).receive 0 (fmFrame type) with | .taken t => t.fmAccepts (fmFrame type) | .dropped _ => false) = true) ∧
    (linked (conn true)).fmAccepts (fmFrame 0x81) = false ∧
      (match (linked (conn true)).receive 0 (fmFrame 0x81) with | .taken t => !t.fmAccepts (fmFrame 0x81) | .dropped _ => false) = true := by decide +kernel

theorem test_meets_FabricManagerAndPortsAreFollowed_FabricPortsFollowTheirLinks :
    let s := (pooled mapd).setReg .vstCtrl 0 1
    2 ≤ (s.fport 0).link ∧ s.opened = true ∧ s.devIdValid = true ∧ s.flag .vstCtrl 0 0 = true ∧ (s.portsOf 7).contains 59 = true ∧ s.excluded (dieF 7) = false ∧
      (s.fport 59).link < 2 ∧
      (let t := s.setFport 0 { s.fport 0 with direct := true }
       (t.fport 0).direct = true ∧ t.flag .vstPortCfg 0 1 = true ∧ (t.fport 0).link ≠ 3) := by decide +kernel

theorem test_meets_FabricRegistersTakeTheirWrites :
    ((up.setLocks [RG.off .vstId 0]).locks.contains (RG.off .vstId 0) = true ∧ up.locks.contains (RG.off .vstId 0) = false ∧ wbit 0x10000 16 = true ∧
        wbit 0 16 = false) ∧
    (up.flag .vstCtrl 0 0 = false ∧ wbit 2 0 = false ∧ wbit 2 1 = true ∧ wbit 1 0 = true) ∧
    (wbit 0x10009 16 = true ∧ ports.flag .vstCxl 3 16 = false ∧ ports.memberOk 3 0x10009 = true ∧ up.memberOk 3 0x10009 = false) ∧
    (wbits (40 : Word) 5 0 ≤ 40 ∧ up.budgetFits 5 15 40 = true ∧ (7 : Nat) < 8 ∧ wbits (7680 : Word) 12 0 ≤ 7680 ∧ up.budgetFits 7 7 7680 = true ∧
      up.budgetFits 8 7 7680 = true) := by decide +kernel

/-! ## Boot, firmware and power (16, 18) -/

/-- The start stands before the end of step `k`. -/
def starting (k : Nat) : State := State.reset.setBoot { State.reset.boot with phase := .step k, elapsed := 5 }

def report (ok agree : Bool) (elapsed : Word) : StepReport :=
  { ok := ok, agree := agree, code := 0, failed := 0, stackMask := 0, channels := [], misread := [], garbled := [], sign := Signing.sound, elapsed := elapsed,
    units := [] }

/-- The images that a step refuses, as far as it verifies any. -/
def refused (k : Nat) (s : State) : List Nat := (stepVerifies k).filter fun d => s.chosenCode [] d != 0

theorem test_meets_BootStepsEndOrFail_BootStepsEndWithinTheirBounds :
    ((starting 1).boot.phase = .step 1 ∧ (starting 1).boot.elapsed ≤ (report true true 50005).elapsed.toNat ∧
      (report true true 50005).elapsed.toNat ≤ (starting 1).boot.elapsed + (starting 1).stepBound 1) ∧
    (report true false 5).agree = false ∧ ((report true true 5).agree = true ∧ refused 1 (starting 1) = []) ∧
    (let s := (starting 2).setDom 0 ((FwDom.init).setSlot 0 { whole := false, verified := false })
     s.boot.phase = .step 2 ∧ refused 2 s = [0]) ∧
    ((starting 14).boot.phase = .step 14 ∧ (report true true 10000).elapsed.toNat ≤ (starting 14).boot.elapsed + 10000) ∧
    (starting 1).boot.elapsed + (starting 1).stepBound 1 ≤ (report true true 50005).elapsed.toNat := by decide +kernel

/-- A start ends at its last step: the registers open (R502). -/
theorem test_last_step_opens : after (.bootStepEnd (report true true 10)) (starting 14) (fun t => t.opened && t.boot.tries == 0) = true := by decide +kernel

theorem test_meets_BootStepsEndOrFail_FailedStepsRestartOrEnd :
    ((starting 2).failWay 2 0 0 0).map (·.alt) = some [2] ∧ ((starting 2).setBoot { (starting 2).boot with alt := [2] }).failWay 2 0 0 0 = none ∧
      (((starting 2).setBoot { (starting 2).boot with tries := 4 }).failWay 2 0 0 0).map (·.tries) = some 4 ∧
      ((starting 2).wiped true).tornStep = none ∧ ((starting 2).wiped true).boot.retried.tries < 4 ∧
      4 ≤ ((((starting 2).setBoot { (starting 2).boot with tries := 4 }).wiped true).boot.retried).tries := by decide +kernel

theorem test_meets_BootStepsEndOrFail_BootControlIsTaken :
    up.reach 0 = true ∧ wbits (0x3FFF : Word) 13 0 ≠ 0 ∧ up.rootsGone = false ∧ wbit 0x10000 16 = true ∧
      (let s := tick hour up
       s.opened = true ∧ s.err.devOut = false ∧ s.boot.served + hour ≤ s.time.now ∧ s.actPending = false ∧
           recentLog s.time.now hour s.err.devLog = 0) := by decide +kernel

/-- An update over the sideband, whose download of `size` bytes for domain 0 has begun. -/
def fwFor (m : FwMode) (size : Nat) : State :=
  up.setBoot { up.boot with fw := m, fwComps := [0], fwCur := if m = .download then some { domain := 0, size := size, got := [] } else none,
                            fwReady := if m = .ready then [0] else [] }

def fwIn (m : FwMode) : State := fwFor m 4097

theorem test_meets_FirmwareCommandsAreAnswered :
    up.pldmVia none = true ∧ up.pldmVia (some 0) = true ∧ (fwIn .idle).boot.fw = .idle ∧
      ((fwIn .learn).boot.fw = .learn ∧ (fwIn .learn).fwTable [(0x000A, 0x0001)] = some [0] ∧ (fwIn .learn).fwTable [(0x000A, 0x0006)] = none) ∧
      ((fwIn .ready).boot.fw = .ready ∧ fwDomain 0x000A 0x0001 = some 0 ∧ (fwIn .ready).boot.fwComps.contains 0 = true ∧ 0 < maxImage 0 ∧
        fwDomain 0x000A 0x0005 = some 4 ∧ (fwIn .ready).boot.fwComps.contains 4 = false) ∧
      (fwIn .download).boot.fw = .download ∧ (fwIn .learn).boot.fw ≠ .activate := by decide +kernel

theorem test_meets_DownloadsAreVerifiedAndActivated_DownloadsAreVerified :
    (let s := fwIn .download
     s.pldmVia none = true ∧ s.boot.fwCur = some { domain := 0, size := 4097, got := [] } ∧ s.boot.fw = .download ∧ s.boot.fwVia = none ∧
       (List.replicate 4096 (0 : Byte)).length = min 4096 4097 ∧ 4096 < 4097) ∧
    (let s := fwFor .download 1
     s.boot.fwCur = some { domain := 0, size := 1, got := [] } ∧ ([0] : List Byte).length = min 4096 (1 - 0)) := by decide +kernel

/-- An image whose header the roots read differently is not taken (R505, R512). -/
theorem test_roots_disagree :
    after (.firmwareDataReceived none (List.replicate 64 0) [{ root := 1, domain := 0, offset := 0x18, flip := 1 }]) (fwFor .download 64)
      (fun t => t.out == [.pldm none 0x17 1 0, .pldm none 0x16 0 0] && t.boot.fw == .ready && t.err.faults.map (·.code) == [0x0B03]) = true := by decide +kernel

def acts (started : Bool) : FwAct := { domain := 1, die := 56, rest := [], begun := 0, started := started }

def acting (started : Bool) : State := up.setBoot { up.boot with fwAct := some (acts started) }

theorem test_meets_DownloadsAreVerifiedAndActivated_ActivationRunsDieByDie :
    ((fwIn .ready).pldmVia none = true ∧ (fwIn .ready).boot.fw = .ready ∧ (fwIn .ready).boot.fwReady ≠ []) ∧
    ((acting true).boot.fwAct = some (acts true) ∧ (acts true).started = true ∧ (acts true).begun ≤ (tick 2000000 (acting true)).time.now ∧
      (tick 2000000 (acting true)).time.now ≤ (acts true).limit ∧ (acts true).limit < (tick 2000001 (acting true)).time.now) ∧
    ((acting false).boot.fwAct = some (acts false) ∧ (acts false).started = false ∧
        (acts false).begun + 409600 ≤ (tick 409600 (acting false)).time.now) := by decide +kernel

theorem test_meets_PowerSignalsTakeTheirEffect :
    (let s := up.setPwr { up.pwr with pwrEn := false, rstLow := true }
     s.pwr.pwrEn = false ∧ s.pwr.rstLow = true) ∧
    (let s := up.setPwr { up.pwr with pwrGood := false }
     s.pwr.pwrEn = true ∧ s.pwr.converters = true ∧ s.pwr.upFailed = false ∧ s.pwr.pwrGood = false) ∧
    (up.pwr.pwrEn = true ∧ up.pwr.converters = true ∧ up.pwr.rstLow = true ∧ up.sdiesRun = true ∧
      (up.setPwr { up.pwr with thermTrip := true }).pwr.thermTrip = true ∧ (up.setPwr { up.pwr with rstLow := false }).sdiesUp = true) := by decide +kernel

theorem test_meets_SidebandCommandsAreAnswered :
    up.sdiesRun = true ∧ up.pldmUp = true ∧ (starting 2).pldmUp = false ∧ (starting 2).sdiesRun = true ∧
      (starting 2).standing = false ∧ (starting 2).boot.phase ≠ .open_ ∧ up.servingNow = true ∧ (starting 2).servingNow = false ∧
      up.boot.phase = .open_ ∧ (up.setErr { up.err with devOut := true }).err.devOut = true ∧
      (up.setBoot { up.boot with phase := .standby }).standing = true := by decide +kernel

theorem test_meets_SaddlesAct :
    up.boot.ptck = true ∧ (tick 4096 up).time.now % 4096 = 0 ∧ (tick 4096 up).time.saddleAt ≠ some (tick 4096 up).time.now := by decide +kernel

/-! ## Partitions, faults and resets (14, 15) -/

/-- An accepted control submission of a kind, on a partition in a state with the hold `h`. -/
def controls (kind : Nat) (st : PartSt) (h : Option HoldS) : State :=
  (has (sub kind .accepted) up).setPart 0 { PartS.init with st := st, image := some (image 0), hold := h }

def hold0 (latched : Bool) (resumeAt : Nat) : HoldS := { holding with latched := latched, resumeAt := resumeAt }

def transferRead : HostRead := { batchRead with purpose := .transfer (stepRef 11) }

theorem test_meets_HoldAndResumeTakeEffect :
    ((controls 0x85 .serving none).control 0 0 0x85 = some (sub 0x85 .accepted) ∧ ((controls 0x85 .serving none).part 0).st = .serving ∧
      ((controls 0x85 .serving none).part 0).image.isSome = true ∧ ((controls 0x85 .idle none).part 0).st ≠ .serving) ∧
    (let s := tick 64 (controls 0x85 .holding (some (hold0 false 0)))
     (s.part 0).hold = some (hold0 false 0) ∧ (s.part 0).st = .holding ∧ (hold0 false 0).latched = false ∧ (hold0 false 0).latch ≤ s.time.now) ∧
    (let s := controls 0x85 .holding (some (hold0 true 0))
     (hold0 true 0).latched = true ∧ s.allHeld 0 64 = true) ∧
    (let s := controls 0x86 .held (some (hold0 true 100))
     s.control 0 0 0x86 = some (sub 0x86 .accepted) ∧ (s.part 0).hold = some (hold0 true 100) ∧ (s.part 0).st = .held ∧ (hold0 true 100).resumeAt ≠ 0 ∧
       (hold0 true 100).resumeAt ≤ (tick 100 s).time.now ∧ ((controls 0x86 .holding (some (hold0 true 100))).part 0).st ≠ .held) ∧
    (let s := tick 2064 (controls 0x85 .holding (some (hold0 true 0)))
     (hold0 true 0).latch + 2000 ≤ s.time.now ∧ (s.reads.filter fun q => q.part == 0 && q.purpose.engine) = [] ∧
       ((s.setReads [transferRead]).reads.filter fun q => q.part == 0 && q.purpose.engine) = [transferRead]) := by decide +kernel

theorem test_meets_HoldAndResumeTakeEffect_ResumeShiftIsTheSmallest :
    0 < 4096 ∧ 100 ≤ 36 + 64 ∧ shiftOf 4096 100 37 = 4096 ∧ shiftOf 4096 100 36 = 0 := by decide

def reset0 (ph : ResetPhase) : ResetS := { decided := 0, fence := 64, phase := ph, code := 0x0722, counted := false, ring := 0, seq := 0 }

def resets (ph : ResetPhase) : State :=
  let s := up.setPart 0 { PartS.init with st := .resetting, image := some (image 0), reset := some (reset0 ph) }
  (s.setCdie 31 { s.cdie 31 with reset := some (reset0 ph) })

theorem test_meets_PartitionCommandsTakeEffect :
    (let s := controls 0x87 .held (some (hold0 true 0))
     s.control 0 0 0x87 = some (sub 0x87 .accepted) ∧ (s.part 0).st = .held ∧ (s.part 0).pending = none ∧ ((controls 0x87 .resetting none).part 0).st = .resetting) ∧
    (let s := tick 64 (resets .decided)
     (s.part 0).reset = some (reset0 .decided) ∧ (reset0 .decided).phase = .decided ∧ (reset0 .decided).fence ≤ s.time.now ∧ s.err.devReset = none) ∧
    ((resets .clearing).part 0).reset = some (reset0 .clearing) ∧ (resets .clearing).cdieResetting 0 = false ∧
    (let x := { sub 0x88 .accepted with args := 8192 }
     let s := has x (controls 0x88 .serving none)
     s.control 0 0 0x88 = some x ∧ saddleOk x.arg0 (x.decided + x.queueLen []) = true ∧
       saddleOk (sub 0x88 .accepted).arg0 ((sub 0x88 .accepted).decided + (sub 0x88 .accepted).queueLen []) = false) ∧
    ((controls 0x89 .serving none).control 0 0 0x89 = some (sub 0x89 .accepted) ∧ (sub 0x89 .accepted).repairReturn = false ∧
      ({ sub 0x89 .accepted with args := 0x400 } : Sub).repairReturn = true) ∧
    (let s := tick 299594 ((controls 0x89 .serving none).setArray 1023 { up.array 1023 with confirm := 2 })
     (s.array 1023).confirm = 2 ∧ s.coreOwner 255 = none ∧ 7 * (s.array 1023).confirmBy + confirmCycles ≤ 7 * s.time.now + 7 ∧ s.confirmFail 1023 [] = none ∧
       s.sub? (s.array 1023).confirmRing (s.array 1023).confirmSeq = some (sub 0x89 .accepted) ∧
       ((up.setArray 1023 { up.array 1023 with confirm := 1 }).array 1023).confirm = 1) := by decide +kernel

theorem test_meets_PartitionsAndCoresAreGivenOut :
    (wbit 7 0 = true ∧ up.flag .sysPartCtrl 63 0 = false ∧ up.mayAdmit (wbits 7 2 1) = true ∧ (up.setPort 3 { PortS.init with cxl := true }).mayAdmit 3 = false) ∧
    (let s := withReg .sysPartCtrl 0 1 (up.setPart 0 { PartS.init with st := .serving })
     wbit 0 0 = false ∧ s.flag .sysPartCtrl 0 0 = true ∧ s.mayIdle 0 = true ∧ (serving 0).mayIdle 0 = false) ∧
    (wbit 0x7F 6 = true ∧ up.flag .sysCoreOwn 255 6 = false) ∧
    (let s := withReg .sysCoreOwn 255 0x40 (serving 0)
     wbit 0 6 = false ∧ s.flag .sysCoreOwn 255 6 = true ∧ wbits 0 5 0 = s.fld .sysCoreOwn 255 5 0 ∧ s.coreNamed (s.fld .sysCoreOwn 255 5 0) 255 = false ∧
       s.coreNamed 0 0 = true) ∧
    ((up.setCore 255 { up.core 255 with clearing := true }).core 255).clearing = true := by decide +kernel

/-- A core is cleared before it serves (R453): until then the image's core is not ready. -/
theorem test_core_is_cleared :
    after (.coreAssign 0 255 0x7F) up (fun t => (t.core 255).clearing && !t.coreOk 63 255 &&
      after (.coreClearDone 255) t fun u => u.coreOk 63 255) = true := by decide +kernel

/-- A suspect of kind 1 whose submission stands on ring 0, and its set on UNIT 0x80 of C-die 0. -/
def suspect0 : Suspect := { ctx := 0, sub := sub 1 .accepted, mark := 0 }

def set0 (replay : Option (Nat × Nat × Nat)) : SuspectSet :=
  { code := 0x0103, kind := .cdie, die := 0, unit := 0x80, suspects := [suspect0], replay := replay, lastEnd := 0, ready := some 0 }

def replays (replay : Option (Nat × Nat × Nat)) : State :=
  let im := { image 0 with classes := [{ (image 0).cls 0 with kind := 1 }] }
  let s := (ringed.setReg .xltCtxA 0 0x40).setPart 0 { PartS.init with st := .serving, image := some im, suspects := some (set0 replay) }
  s.setSubs []

theorem test_meets_SuspectsAndLostUnitsAreAnsweredFor_SuspectsAreReplayed :
    (let s := replays none
     (s.part 0).suspects = some (set0 none) ∧ (set0 none).replay = none ∧ (set0 none).ready = some 0 ∧ (set0 none).next = some suspect0 ∧
         s.unreplayable suspect0 = false ∧
       s.sub? 0 0 = none ∧ (s.replaySlot 0 (set0 none) (sub 1 .accepted)).isSome = true ∧
       (s.setRing 0 { s.ring 0 with st := .halted }).unreplayable suspect0 = true ∧ max 0 (set0 none).lastEnd + 409600 ≤ (tick 409600 s).time.now) ∧
    (let s := replays (some (0, 0, 100))
     (s.part 0).suspects = some (set0 (some (0, 0, 100))) ∧ (set0 (some (0, 0, 100))).replay = some (0, 0, 100) ∧ (set0 (some (0, 0, 100))).next = some suspect0 ∧
       s.replaySub suspect0 = none ∧ 100 ≤ (tick 100 s).time.now ∧ (set0 none).code = (0x0103 : BitVec 16).toNat ∧ (set0 none).die = (0 : Fin 64).val ∧
       (set0 none).unit = (0x80 : BitVec 8).toNat ∧ (set0 none).die ≠ (1 : Fin 64).val ∧ unitListed 0 0x80 = true ∧ unitListed 1 0x80 = true) := by decide +kernel

theorem test_meets_SuspectsAndLostUnitsAreAnsweredFor_LostUnitsAreAnsweredFor :
    (ports.port 3).link ≠ .down ∧ 2 ≤ ((pooled mapd).fport 0).link ∧ (0x7F : BitVec 8).toNat < 0x80 ∧ 0x80 ≤ (0x80 : BitVec 8).toNat ∧ (31 : Fin 48).val < 32 ∧
      32 ≤ (32 : Fin 48).val ∧ unitListed 31 0x7F = true ∧ unitListed 31 0x80 = true ∧ unitListed 32 0x10 = true ∧
      (let s := (tick 2064 (withReg .sysCoreOwn 255 0x40 (controls 0x85 .holding (some (hold0 true 0))))).setEng 255 5 { up.eng 255 5 with held := some (opRef 0) }
       (s.part 0).hold = some (hold0 true 0) ∧ (s.part 0).st = .holding ∧ 64 + 2000 ≤ s.time.now ∧ (s.coresOf 0).contains 255 = true ∧
         s.lateEngine 255 = some (engineUnit 255 5)) := by decide +kernel

theorem test_meets_ResetsDrainAndClear :
    (let s := tick 10064 ((resets .draining).setErr { (resets .draining).err with devReset := some (reset0 .draining) })
     ∀ sc ∈ [Scope.partition 0, .cdie 31, .device], s.resetOf sc = some (reset0 .draining) ∧ s.busyScope sc = false ∧ (reset0 .draining).fence + 2000 ≤ s.time.now ∧
       (reset0 .draining).fence + 10000 ≤ s.time.now) ∧
    ((resets .clearing).cdie 31).reset = some (reset0 .clearing) ∧
    (up.setErr { up.err with devReset := some (reset0 .clearing) }).err.devReset = some (reset0 .clearing) := by decide +kernel

theorem test_meets_ResetsDrainAndClear_ResetControlIsTaken :
    up.reach 0 = true ∧ (∀ b ∈ [0, 1, 7, 8], ∀ k ∈ [0, 1, 7, 8], wbit (maskWord b ||| 0x7C) k = decide (k = b)) := by decide +kernel

theorem test_meets_SlipLimitCharges :
    (let s := tick 64 ((has (sub 1 .accepted) up).setEng 255 5 { up.eng 255 5 with held := some (opRef 0) })
     (s.eng 255 5).held = some (opRef 0) ∧ 448 ≤ s.cycle 0 - (s.eng 255 5).stated ∧ s.sub? 0 0 = some (sub 1 .accepted) ∧ (sub 1 .accepted).st = .accepted ∧
       (sub 1 .accepted).code = 0) ∧
    (tick 63 up).cycle 6 - 0 < 448 := by decide +kernel

/-! ## Health, attestation and registers (16, 17, 19) -/

theorem test_meets_AttestationIsAnswered :
    (let s := up.setBoot { up.boot with spdm := 3 }
     s.spdmUp = true ∧ s.viaUp (some 0) = true ∧ s.viaUp none = true ∧ s.boot.lmsBuilding = false ∧ 3 ≤ s.boot.spdm ∧ 1 ≤ 8) ∧
    up.identEnded = false ∧ (up.setBoot { up.boot with idented := true }).identEnded = true ∧ up.boot.spdm < 2 ∧
      (up.setBoot { up.boot with lmsBuilding := true }).boot.lmsBuilding = true := by decide +kernel

/-- A signature is given, and one more after it though S-die 0's copy is then invalid; a root that finds no copy agrees with none. -/
theorem test_meets_LeavesAreUsedOnce :
    (let ok (r : State × Except Nat Nat) : Option Nat := match r.2 with | .ok l => some l | .error _ => none
     let r := up.signLeaf Signing.sound
     up.leafSeen 0 = some 0 ∧ up.sdies = [0, 1, 2, 3] ∧ ok r = some 0 ∧ ok (r.1.signLeaf { Signing.sound with blind0 := 1, blind1 := 2 }) = some 1) ∧
    up.leafSeen 0xF ≠ up.leafSeen 0 ∧ (up.setMram 0 { up.mram 0 with lms := (2 ^ 40, 0) }).leafSeen 0 = some (2 ^ 40) := by decide +kernel

theorem test_meets_HealthIsSampledAndSwept_SweepsTestIdleArrays :
    (let s := withReg .hltSweep 0 1 up
     (s.array 1023).again = none ∧ s.sweepable 255 3 (s.cycle 0) = true ∧ s.lull 255 3 (s.cycle 0) 1024 = true ∧ s.lullAhead 255 3 (s.cycle 0 + 1024) = true) ∧
    (∀ p ∈ [(false, false), (true, false)],
     let w : SweepS := { seed := 1, failed := p.1, verdict := 6, fmt := 0, corner := false, repeat_ := p.2 }
     let s := up.setArray 1023 { up.array 1023 with sweep := some w }
     (s.array 1023).sweep = some w ∧ w.verdict ≤ s.cycle 6) := by
  decide +kernel

theorem test_meets_HealthIsSampledAndSwept_SamplesAreTakenInTime :
    let s := tick hour up
    s.opened = true ∧ s.hlt.lastSweepSum + hour ≤ s.time.now ∧ s.hlt.lastAging + hour ≤ s.time.now ∧ s.hlt.lastEye + 100000000 ≤ s.time.now ∧
        s.pwr.converters = true := by
  decide +kernel

theorem test_meets_HealthIsSampledAndSwept_TelemetryRingIsArmed :
    up.reach 0 = true ∧ up.rootsGone = false ∧ wbit 0x26 5 = true ∧ up.flag .hltRingCfg 0 5 = false ∧
        (up.putRw .hltRingCfg 0 (setBits 0x26 5 5 0)).mayArmHlt = true ∧
      (up.setErr { up.err with sdown := [0, 1] }).rootsGone = true := by decide +kernel

theorem test_meets_MonitoringIsAnswered :
    up.pldmVia none = true ∧ sensorKind 0xFFFFFFFF = none ∧ ((List.range 64).any fun n => (sensorKind n).isSome) = true ∧ (0x3FFF : Nat) < 0x4000 ∧
      unitListed (0x3FFF / 256) (0x3FFF % 256) = false ∧ (0x4000 : Nat) < 0x4001 ∧
      ((List.range 256).any fun u => unitListed 0 u) = true ∧ up.hlt.events = [] := by decide +kernel

theorem test_meets_PlainWritesTakeAndBadWritesRecord_BadWritesAreRecorded :
    up.reach 0 = true ∧ (2 : Nat) ≠ 4 ∧ regAt 0xFFFFFC = none ∧ regAt 0xE00010 = some (.secExclHi, 0) ∧
      (isRoot 0xE00010 && (up.setErr { up.err with sdown := [0, 1] }).rootsGone) = true ∧ regAt 0x100 = some (.sysCdieState, 0) ∧ RG.sysCdieState.row.rw = 0 ∧
      RG.sysCdieState.row.w1c = 0 ∧ (isRoot 0x100 && up.rootsGone) = false := by decide +kernel

theorem test_meets_PlainWritesTakeAndBadWritesRecord_PlainRegistersTakeTheirBits :
    regAt 0xC00018 = some (.hltThr, 0) ∧ (isRoot 0xC00018 && up.rootsGone) = false ∧ 0xC00018 % 4 = 0 := by decide +kernel

theorem test_meets_EventBitsClearUnlessSet :
    regAt 0x600 = some (.sysGuilty, 0) ∧ regAt 0x7FC = some (.sysGuilty, 127) ∧ regAt 0xC = some (.sysEvt, 0) ∧ (isRoot 0x7FC && up.rootsGone) = false ∧
      ((1 : Word) &&& 1 &&& RG.sysEvt.row.w1c) ≠ 0 ∧ ((1 : Word) &&& 2 &&& RG.sysEvt.row.w1c) = 0 ∧
          (withReg .sysEvtCfg 0 0x800 up).flag .sysEvtCfg 0 11 = true := by decide +kernel

/-- A bit that is set in the cycle in which 1 is written to it stays set, and the loss is counted (R575). -/
theorem test_clear_meets_set :
    after (.registerWrite 0 0x10001C 4 0x30 0x10) (withReg .timEvent 0 0x30 up)
      (fun t => t.reg .timEvent 0 == 0x10 && t.reg .sysOverrun 0 == 1 && t.reg .sysOverrunLast 0 == 0x0410001C) = true := by decide +kernel

theorem test_meets_RegistersStandAtTheirOffsets :
    4095 < RG.gthUpdCap.row.count ∧ RG.gthUpdCap.off 4095 = 0x804FFC ∧ regAt 0x804FFC = some (.gthUpdCap, 4095) := by decide +kernel

theorem test_meets_NowIsReadThroughItsLatch :
    up.reach 0 = true ∧ after (.timNowLoRead 0) (tick (2 ^ 32) up) (fun t => smGet 0 t.latches (RG.off .timNowHi 0) != smGet 0 up.latches (RG.off .timNowHi 0)) = true := by
  decide +kernel

/-! ## Codes and stores (10) -/

theorem test_meets_CodeCorrectsOneAndDetectsTwo :
    syndrome 0 0 = 0 ∧ syndrome 0 poisonMask = mkSyn 0 0 1 0 ∧ syndrome (15 * 16 ^ 31) 0 = synScale 15 (codeCol 31) ∧
        (2 ^ 128 - 1 : Nat) < 2 ^ 128 := by decide +kernel

theorem test_meets_StoresReadBack_StoredBytesReadBack : Memory.wf [(2 ^ 48 - 1, 1)] = true := by decide

theorem test_meets_StoresReadBack_StoredGranulesReadBack :
    (2 ^ 43 - 16) % 16 = 0 ∧ (0 : Nat) + 16 ≤ 2 ^ 43 - 16 ∧ Space.opsram ≠ Space.hbm := by decide

/-! ## WellFormed: each check refuses a term -/

theorem test_wf_seconds : (Instr.ptpSyncReceived 0 0 false 0 1000000000 0).wellFormed = false ∧
    (Instr.ptpSyncReceived 0 0 false 0 999999999 0).wellFormed = true := by decide

theorem test_wf_access_size :
    (Instr.sqTail 0 0 3 false 0).wellFormed = false ∧ (Instr.registerWrite 0 0 16 0 0).wellFormed = false ∧ (Instr.registerWrite 0 0 8 0 0).wellFormed = true := by
  decide

theorem test_wf_descriptor_slots :
    (Instr.descriptorFetchDone 0 .ok (List.replicate 9 0)).wellFormed = false ∧ (Instr.descriptorFetchDone 0 .ok (List.replicate 8 0)).wellFormed = true := by
  decide

theorem test_wf_slot_class : (Instr.slotStart 0 256).wellFormed = false ∧ (Instr.slotStart 0 255).wellFormed = true := by decide

theorem test_wf_blemish : (Instr.wLoad (opRef 0) 0 [{ space := .opsram, addr := 8, data := 1, check := 0, ondie := false }]).wellFormed = false := by decide

/-- A granule inverted, of those that `test_wf_upset` names. -/
def flip (n : Nat) : Upset := { gran := n, data := 1, check := 0, ondie := false }

theorem test_wf_upset :
    (Instr.memRead (req 0) [flip 16] []).wellFormed = false ∧ (Instr.rowCommit 0 [flip 1024] [] [] []).wellFormed = false ∧
      (Instr.rowCommit 0 [flip 15, flip 15] [] [] []).wellFormed = false ∧ (Instr.rowCommit 0 [] [(0, flip 256)] [] []).wellFormed = false ∧
      (Instr.sortEnd (stepRef 9) [(0, 0, flip 16)]).wellFormed = false := by decide

theorem test_wf_cell : (Instr.replayStart 0 0 [{ row := 0, col := 128, flip := 1, adder := false }] []).wellFormed = false := by decide

theorem test_wf_line : (Instr.memWrite (req 0) 0 [] [] []).wellFormed = false := by decide

theorem test_wf_frame :
    (Instr.write 0 { frm 1 with payload := List.replicate 65 { data := 0, poison := false } } []).wellFormed = false ∧
      (Instr.rsp 0 (frame0 .rsp 256 0 0) []).wellFormed = false := by decide

/-- The table gives no row bits, so no word spells a command. -/
theorem test_no_word_spells_a_command : decodeTableWord 32 0 = none := by decide

end Sys2Proof.Tests
end

section
/-! SUPPORT. Charging a fault to an accepted submission (R470), and what it takes from the engines (R119). -/

namespace Sys2Proof.Machine

open Sys2Proof Host

/-! ## Values of a mapped sparse map -/

/-- A property that the default and every changed value have holds of each value read, whether or not the map is canonical. -/
theorem smGet_map_of_forall {α : Type} [DecidableEq α] {P : α → Prop} {d : α} {f : Nat → α → α} (hd : P d) (hf : ∀ k v, P (f k v))
    (m : SMap α) (k : Nat) : P (smGet d (smMap d f m) k) := by
  induction m with
  | nil => exact hd
  | cons p t ih =>
    unfold smMap at ih ⊢
    rw [List.filterMap_cons]
    split
    case h_1 => exact ih
    case h_2 q hq =>
      have hq : q = (p.1, f p.1 p.2) := by grind
      by_cases hk : p.1 = k
      · simpa [hq, smGet, hk] using hf k p.2
      · simpa [hq, smGet, hk] using ih

/-! ## Open submissions -/

/-- An open submission that is found carries the ring and the number it was looked up by (R470). -/
theorem State.sub?_keys {s : State} {ring seq : Nat} {x : Sub} (h : s.sub? ring seq = some x) : x.ring = ring ∧ x.seq = seq := by
  simpa using List.find?_some h

/-- What stands in the list in place of an open submission is found under its ring and number. -/
theorem State.setSub_sub?_same {s : State} {x y : Sub} (hx : s.sub? y.ring y.seq = some x) : (s.setSub y).sub? y.ring y.seq = some y := by
  have hkeys := State.sub?_keys hx
  have hsame : (fun z : Sub => z.ring == y.ring && z.seq == y.seq) ∘ (fun z => if z.ring == y.ring && z.seq == y.seq then y else z) =
      fun z => z.ring == y.ring && z.seq == y.seq := by
    funext z
    by_cases hz : (z.ring == y.ring && z.seq == y.seq) = true
    · simp only [Function.comp_apply, hz, if_true, beq_self_eq_true, Bool.and_self]
    · simp only [Function.comp_apply, if_neg hz]
  unfold State.sub? at hx
  rw [State.setSub, State.sub?, State.setSubs_subs, List.find?_map, hsame, hx]
  simp [hkeys]

/-! ## Records of faults that do not qualify -/

@[simp] theorem State.record_unqualified_subs (s : State) (r : FaultRec) : (s.record r false).subs = s.subs := by
  cases hd : r.die <;> simp [State.record, hd]

@[simp] theorem State.record_unqualified_engines (s : State) (r : FaultRec) : (s.record r false).engines = s.engines := by
  cases hd : r.die <;> simp [State.record, hd]

/-! ## Held operations -/

/-- An engine holds an operation of an instance. -/
def EngS.HoldsFor (g : EngS) (ring seq : Nat) : Prop := ∃ o, g.held = some o ∧ o.ring.val = ring ∧ o.seq.toNat = seq

theorem EngS.init_not_holdsFor (ring seq : Nat) : ¬EngS.init.HoldsFor ring seq := by simp [EngS.HoldsFor, EngS.init]

/-- No engine holds an operation of an instance once its operations are dropped (R119). -/
theorem State.dropHeld_not_holdsFor (s : State) (ring seq cyc c e : Nat) : ¬((s.dropHeld ring seq cyc).eng c e).HoldsFor ring seq := by
  rw [State.eng, State.dropHeld, State.setEngines_engines]
  refine smGet_map_of_forall (P := fun g : EngS => ¬g.HoldsFor ring seq) (EngS.init_not_holdsFor ring seq) (fun _ g => ?_) _ _
  cases hg : g.held with
  | none => simp [EngS.HoldsFor, hg]
  | some o =>
    by_cases ho : o.ring.val = ring ∧ o.seq.toNat = seq
    · simp [EngS.HoldsFor, ho]
    · simp [EngS.HoldsFor, ho, hg]

/-! ## The charge -/

section
variable {s : State} {ring seq ph : Nat} {r : FaultRec} {x : Sub}

/-- The first fault of an accepted submission gives it its code and its cycle, and cancels its host-bound writes (R74, R470). -/
theorem State.charge_accepted_sub? (hx : s.sub? ring seq = some x) (hst : x.st = .accepted) (hcode : x.code = 0)
    (hq : qualifying r.code = false) :
    (s.charge ring seq ph r).sub? ring seq = some { x with code := r.code, chargedAt := s.cycle ph, cancelled := true } := by
  obtain ⟨rfl, rfl⟩ := State.sub?_keys hx
  have hset := State.setSub_sub?_same (s := s) (y := { x with code := r.code, chargedAt := s.cycle ph, cancelled := true }) hx
  unfold State.sub? at hset ⊢
  simpa [State.charge, hx, hst, hcode, hq, State.dropHeld, State.cycle] using hset

/-- The engines drop what they hold for a submission at its first fault, and nothing else of theirs changes (R119). -/
theorem State.charge_accepted_engines (hx : s.sub? ring seq = some x) (hst : x.st = .accepted) (hcode : x.code = 0)
    (hq : qualifying r.code = false) : (s.charge ring seq ph r).engines = (s.dropHeld ring seq (s.cycle ph)).engines := by
  simp [State.charge, hx, hst, hcode, hq, State.dropHeld, State.setSub, State.cycle]

/-- After its first fault no engine holds an operation of the submission (R119). -/
theorem State.charge_accepted_not_holdsFor (hx : s.sub? ring seq = some x) (hst : x.st = .accepted) (hcode : x.code = 0)
    (hq : qualifying r.code = false) (c e : Nat) : ¬((s.charge ring seq ph r).eng c e).HoldsFor ring seq := by
  rw [State.eng, State.charge_accepted_engines hx hst hcode hq]
  exact State.dropHeld_not_holdsFor s ring seq (s.cycle ph) c e

end

end Sys2Proof.Machine
end

section
/-! SUPPORT. The slip limit (R117). -/

namespace Sys2Proof.Machine

open Sys2Proof Host

/-- The fault of an engine whose held operation reaches the slip limit (R117). -/
def slipFault (s : State) (core : Fin 256) (e : Fin 6) : FaultRec :=
  FaultRec.new s 0x0520 (some (core.val / 8)) (engineUnit core.val e.val)

theorem slipFault_code (s : State) (core : Fin 256) (e : Fin 6) : (slipFault s core e).code = 0x0520 := rfl

/-- SLIP_LIMIT with an operation held: one comparison decides between a charge and nothing. -/
theorem exec_slipLimit_of_held {core : Fin 256} {e : Fin 6} {phase : Fin 7} {r : OpRef} {s : State} (hr : (s.eng core.val e.val).held = some r) :
    exec (.slipLimit core e phase) s =
      if (s.eng core.val e.val).stated + 448 ≤ s.cycle phase.val then
        .next (s.charge r.ring.val r.seq.toNat phase.val (slipFault s core e))
      else .next s := by
  change execSlipLimit core e phase s = _
  simp only [execSlipLimit, hr, slipFault, ge_iff_le]

/-- Settles O27: the limit's one comparison, and the rules for the charge of a fault that does not qualify. -/
theorem slipLimitCharges : Obligations.SlipLimitCharges := by
  intro core e phase r s hr slip
  have hreached (h : 448 ≤ slip) :
      exec (.slipLimit core e phase) s = .next (s.charge r.ring.val r.seq.toNat phase.val (slipFault s core e)) := by
    rw [exec_slipLimit_of_held hr, if_pos (by omega)]
  refine ⟨hreached, fun h => ?_, fun x hx hst hcode h => ?_⟩
  · rw [exec_slipLimit_of_held hr, if_neg (by omega)]
  · have hq : qualifying (slipFault s core e).code = false := by rw [slipFault_code]; decide
    exact ⟨_, _, hreached h, State.charge_accepted_sub? hx hst hcode hq, rfl, rfl,
      fun held => State.charge_accepted_not_holdsFor hx hst hcode hq _ _ ⟨r, held, rfl, rfl⟩⟩

end Sys2Proof.Machine
end

section
/-! SUPPORT. Event bits of the registers, and what a fault that does not qualify leaves when it is raised (R468, R535). -/

namespace Sys2Proof.Machine

open Sys2Proof Host

/-! ## Registers and their bits -/

/-- A write leaves the other keys alone, whatever value the two sides read an unlisted key as. -/
theorem smGet_smSet_of_ne {α : Type} [DecidableEq α] (d e : α) (m : SMap α) {k j : Nat} (v : α) (hj : j ≠ k) :
    smGet d (smSet e m k v) j = smGet d m j := by
  unfold smSet
  split
  · exact smGet_erase_other _ _ _ _ hj
  · rw [smGet_put, if_neg hj]

@[simp] theorem State.setReg_reg_same (s : State) (g : RG) (i : Nat) (w : Word) : (s.setReg g i w).reg g i = w :=
  smGet_set_same _ _ _ _

theorem State.setReg_reg_of_ne (s : State) {g h : RG} {i j : Nat} (w : Word) (hne : g.off i ≠ h.off j) :
    (s.setReg h j w).reg g i = s.reg g i :=
  smGet_smSet_of_ne _ _ _ _ hne

theorem wbit_or_maskWord_same (w : Word) {b : Nat} (hb : b < 32) : wbit (w ||| maskWord b) b = true := by
  have hpow : 2 ^ b % 2 ^ 32 = 2 ^ b := Nat.mod_eq_of_lt (Nat.pow_lt_pow_right (by decide) hb)
  rw [wbit, maskWord, BitVec.toNat_or, BitVec.toNat_ofNat, hpow, Nat.testBit_or, Nat.testBit_two_pow_self, Bool.or_true]

/-- A bit that hardware sets reads 1. -/
theorem State.setBit_flag_same (s : State) (g : RG) (i : Nat) {b : Nat} (hb : b < 32) : (s.setBit g i b).flag g i b = true := by
  rw [State.flag, State.setBit, State.orReg, State.setReg_reg_same, wbit_or_maskWord_same _ hb]

theorem State.setBit_reg_of_ne (s : State) {g h : RG} {i j b : Nat} (hne : g.off i ≠ h.off j) : (s.setBit h j b).reg g i = s.reg g i :=
  State.setReg_reg_of_ne s _ hne

/-- Setting a bit of a register changes the registers alone. -/
theorem State.setBit_within (s : State) (g : RG) (i b : Nat) : Within (pieces [.regs]) s (s.setBit g i b) :=
  (State.setBit_kept (by decide) kept_refl).within

/-! ## Telemetry -/

theorem State.pldmEvents_regs (s : State) (l : List PldmEvent) : (l.foldl (fun s e => s.pldmEvent e) s).regs = s.regs :=
  (kept_foldl (m := pieces [.hlt, .out]) (fun _ _ h => State.pldmEvent_kept (by decide) h) kept_refl).within .regs (by decide)

theorem State.hltMsix_regs (s : State) : s.hltMsix.regs = s.regs :=
  (State.hltMsix_kept (ks := pieces [.ports, .hlt]) (by decide) kept_refl).within .regs (by decide)

/-- A telemetry entry that the ring cannot take sets a bit of HLT_EVT; no entry writes another register (R535). -/
theorem State.telemetry_regs (s : State) (type body : Nat) :
    (s.telemetry type body).regs = s.regs ∨ (s.telemetry type body).regs = (s.setBit .hltEvt 0 3).regs := by
  unfold State.telemetry
  simp only [apply_ite State.regs, State.pldmEvents_regs, ite_self]
  split
  case isFalse => exact .inl rfl
  case isTrue =>
    split
    case isTrue => exact .inr rfl
    case isFalse => exact .inl (State.hltMsix_regs _)

theorem State.telemetry_reg_of_ne (s : State) (type body : Nat) {g : RG} {i : Nat} (hne : g.off i ≠ RG.off .hltEvt 0) :
    (s.telemetry type body).reg g i = s.reg g i := by
  have hbit : (s.setBit .hltEvt 0 3).reg g i = s.reg g i := State.setBit_reg_of_ne s hne
  unfold State.reg at hbit ⊢
  obtain h | h := State.telemetry_regs s type body
  · rw [h]
  · rw [h, hbit]

theorem State.telemetry_within (s : State) (type body : Nat) : Within (pieces [.regs, .ports, .hlt, .out]) s (s.telemetry type body) :=
  (State.telemetry_kept (by decide) kept_refl).within

/-! ## Faults that do not qualify -/

@[simp] theorem State.record_unqualified_regs (s : State) (r : FaultRec) : (s.record r false).regs = s.regs := by
  cases hd : r.die <;> simp [State.record, hd]

@[simp] theorem State.record_unqualified_fab (s : State) (r : FaultRec) : (s.record r false).fab = s.fab := by
  cases hd : r.die <;> simp [State.record, hd]

@[simp] theorem State.record_unqualified_err (s : State) (r : FaultRec) :
    (s.record r false).err = { s.err with faults := r :: s.err.faults } := by
  cases hd : r.die <;> simp [State.record, hd]

section
variable {r : FaultRec}

theorem State.raise_of_unqualified (s : State) (hq : qualifying r.code = false) : s.raise r = (s.record r false).telemetry 1 r.body := by
  rw [State.raise, State.raiseAs, hq]

theorem State.raise_unqualified_fab (s : State) (hq : qualifying r.code = false) : (s.raise r).fab = s.fab := by
  have htel : ((s.record r false).telemetry 1 r.body).fab = (s.record r false).fab := State.telemetry_within _ _ _ .fab (by decide)
  rw [State.raise_of_unqualified s hq, htel, State.record_unqualified_fab]

theorem State.raise_unqualified_faults (s : State) (hq : qualifying r.code = false) : (s.raise r).err.faults = r :: s.err.faults := by
  have htel : ((s.record r false).telemetry 1 r.body).err = (s.record r false).err := State.telemetry_within _ _ _ .err (by decide)
  rw [State.raise_of_unqualified s hq, htel, State.record_unqualified_err]

theorem State.raise_unqualified_reg_of_ne (s : State) (hq : qualifying r.code = false) {g : RG} {i : Nat} (hne : g.off i ≠ RG.off .hltEvt 0) :
    (s.raise r).reg g i = s.reg g i := by
  rw [State.raise_of_unqualified s hq, State.telemetry_reg_of_ne _ _ _ hne, State.reg, State.record_unqualified_regs, State.reg]

end

end Sys2Proof.Machine
end

section
/-! SUPPORT. Connections that are idle and connection tables that are full (R426). -/

namespace Sys2Proof.Machine

open Sys2Proof Host

/-! ## An idle connection -/

/-- A connection with nothing unacknowledged, on a device without requests, closes and does nothing else (R426). -/
theorem State.closeConn_eq_dropConn {s : State} {c : Conn} (code : Nat) (hun : c.unacked = []) (hreq : s.fab.reqs = []) :
    s.closeConn c code = s.dropConn c := by
  simp [State.closeConn, State.failReqs, State.dropConn, hun, hreq]

theorem State.dropConn_conn? (s : State) (c : Conn) : (s.dropConn c).conn? c.port c.peer c.self_ = none := by
  simp only [State.conn?, State.dropConn, State.setFab_fab, List.find?_eq_none, List.mem_filter]
  rintro d ⟨-, hother⟩ hsame
  have hkeys : (d.port = c.port ∧ d.peer = c.peer) ∧ d.self_ = c.self_ := by simpa using hsame
  simp [Conn.same, hkeys] at hother

theorem State.mem_of_mem_dropConn_conns {s : State} {c d : Conn} (hd : d ∈ (s.dropConn c).fab.conns) : d ∈ s.fab.conns :=
  List.mem_of_mem_filter hd

theorem State.dropConn_within (s : State) (c : Conn) : Within (pieces [.fab]) s (s.dropConn c) :=
  (State.dropConn_kept (by decide) kept_refl).within

/-- CONNECTION_IDLE, where the port has one connection with the peer, decides on that one. -/
theorem exec_connectionIdle_of_single {port : Fin 64} {peer : BitVec 16} {c : Conn} {s : State} (hc : s.connsOf port.val peer.toNat = [c]) :
    exec (.connectionIdle port peer) s =
      .next (if c.unacked = [] ∧ c.lastFrame + 100000000 ≤ s.time.now then s.closeConn c 0x0803 else s) := by
  change execConnectionIdle port peer s = _
  simp [execConnectionIdle, State.onConns, hc]

/-! ## A full table -/

theorem State.connRoom_of_full {s : State} {f : Nat} (hfull : (s.fab.conns.filter fun c => c.port / 8 == f).length = 16384) :
    s.connRoom f = false := by
  rw [State.connRoom, hfull, decide_eq_false (by decide)]

/-- A send that needs a connection more has none to send on (R426). -/
theorem State.sendOn_of_full {s : State} {q peer self_ : Nat} (fs : List Frame) (hnone : s.conn? q peer self_ = none)
    (hfull : (s.fab.conns.filter fun c => c.port / 8 == q / 8).length = 16384) : s.sendOn q peer self_ fs = none := by
  simp [State.sendOn, hnone, State.connRoom_of_full hfull]

/-- A device port belongs to its F-die. -/
theorem State.div_of_mem_portsOf {s : State} {f q : Nat} (hq : q ∈ s.portsOf f) : q / 8 = f := by
  obtain ⟨k, hk, rfl⟩ := List.mem_map.mp hq
  have : k < 8 := by
    have := List.mem_range.mp hk
    split at this <;> omega
  omega

/-- Requests leave an F-die with an up port by one of its own (R427). -/
theorem State.portTo_div {s : State} {f : Nat} (peer : Nat) (hup : s.upOf f ≠ []) : s.portTo f peer / 8 = f := by
  have hlt : peer % (s.upOf f).length < (s.upOf f).length := Nat.mod_lt _ (List.length_pos_of_ne_nil hup)
  have hmem : s.portTo f peer ∈ s.upOf f := by
    rw [State.portTo, List.getD_eq_getElem _ _ hlt]
    exact List.getElem_mem hlt
  exact State.div_of_mem_portsOf (List.mem_of_mem_filter hmem)

/-- A request that finds no connection to leave by fails and says so in VST_EVT.CONN_FULL (R426). -/
theorem State.sendRequest_of_sendOn_none {s : State} {purpose : RemoteFor} {f peer part ctx issue : Nat} {timed : Bool} {fs : List Frame}
    (hbar : s.sendBar ctx peer f timed = 0) (hself : s.isSelf peer = false) (hsend : s.sendOn (s.portTo f peer) peer s.devId fs = none) :
    s.sendRequest purpose f peer part ctx issue timed fs = (.error 0x0804, s.setBit .vstEvt 0 5) := by
  simp [State.sendRequest, hbar, hself, hsend]

theorem State.answer_of_sendOn_none {s : State} {q peer self_ : Nat} {fs : List Frame} (hpeer : s.fab.downPeers.contains peer = false)
    (hlink : 2 ≤ (s.fport q).link) (hsend : s.sendOn q peer self_ fs = none) : s.answer q peer self_ fs = s.connFull q := by
  rw [State.answer, if_neg (by rw [hpeer]; exact Bool.false_ne_true), if_neg (by omega), hsend]

/-- The fault of a full table is not a qualifying event (R527). -/
theorem connFull_not_qualifying (s : State) (q : Nat) : qualifying (devPortFault s q 0x0804).code = false :=
  (by decide : qualifying 0x0804 = false)

theorem State.connFull_flag (s : State) (q : Nat) : (s.connFull q).flag .vstEvt 0 5 = true := by
  rw [State.connFull, State.flag, State.raise_unqualified_reg_of_ne _ (connFull_not_qualifying s q) (by decide)]
  exact State.setBit_flag_same s .vstEvt 0 (by decide)

theorem State.connFull_fab (s : State) (q : Nat) : (s.connFull q).fab = s.fab :=
  State.raise_unqualified_fab (s.setBit .vstEvt 0 5) (connFull_not_qualifying s q)

theorem State.connFull_faults (s : State) (q : Nat) : (s.connFull q).err.faults = devPortFault s q 0x0804 :: s.err.faults :=
  State.raise_unqualified_faults (s.setBit .vstEvt 0 5) (connFull_not_qualifying s q)

/-! ## The obligation -/

/-- Settles O38: an idle connection is dropped alone, and a full table leaves `sendOn` nothing to send on. -/
theorem idleConnectionsCloseAndFullTablesRefuse : Obligations.IdleConnectionsCloseAndFullTablesRefuse := by
  refine ⟨fun port peer c s hc => ⟨fun hun hidle hreq => ?_, fun hbusy => ?_⟩,
    fun purpose f peer part ctx issue timed fs s hbar hself _ hfull hnone hup => ?_, fun q peer self_ fs s hpeer hlink hfull hnone => ?_⟩
  · refine ⟨s.dropConn c, ?_, State.dropConn_conn? s c, fun d => State.mem_of_mem_dropConn_conns, State.dropConn_within s c⟩
    rw [exec_connectionIdle_of_single hc, if_pos ⟨hun, hidle⟩, State.closeConn_eq_dropConn _ hun hreq]
  · have hopen : ¬(c.unacked = [] ∧ c.lastFrame + 100000000 ≤ s.time.now) := by
      rintro ⟨hun, hidle⟩
      exact hbusy.elim (· hun) (Nat.not_lt.mpr hidle)
    rw [exec_connectionIdle_of_single hc, if_neg hopen]
  · rw [← State.portTo_div peer hup] at hfull
    exact ⟨s.setBit .vstEvt 0 5, State.sendRequest_of_sendOn_none hbar hself (State.sendOn_of_full fs hnone hfull),
      State.setBit_flag_same s .vstEvt 0 (by decide), State.setBit_within s .vstEvt 0 5⟩
  · have hans : s.answer q peer self_ fs = s.connFull q := State.answer_of_sendOn_none hpeer hlink (State.sendOn_of_full fs hnone hfull)
    rw [hans]
    exact ⟨State.connFull_flag s q, by rw [State.connFull_fab], _, by rw [State.connFull_faults]; exact List.mem_cons_self, rfl⟩

end Sys2Proof.Machine
end

section
/-! SUPPORT. What recording and charging faults, and delivering the data of host reads, leave of the host ports: messages fall due and lines are
written through them (R400, R402), and nothing else of a port changes. -/

namespace Sys2Proof.Machine

open Sys2Proof Host

/-! ## What lasts of a port -/

/-- A port without what host-bound writes leave in it: the messages due in the present tick (R402) and the last line written (R401). -/
def PortS.lasting (x : PortS) : PortS := { x with due := [], lastLine := 0 }

/-- From `b` to `s` no port changed but for what host-bound writes leave in it. -/
def PortsLast (b s : State) : Prop := ∀ p, (s.port p).lasting = (b.port p).lasting

/-- The parts of the state without the host ports. -/
def offPorts : Nat := 2 ^ 30 - 1 - 2 ^ Piece.ports.bit

@[simp] theorem State.setPort_port_same (s : State) (p : Nat) (x : PortS) : (s.setPort p x).port p = x := smGet_set_same _ _ _ _

theorem State.setPort_port_of_ne (s : State) {p q : Nat} (x : PortS) (h : q ≠ p) : (s.setPort p x).port q = s.port q :=
  smGet_set_other _ _ _ _ _ h

namespace PortsLast

variable {b s t : State}

theorem refl (s : State) : PortsLast s s := fun _ => rfl

theorem trans (h : PortsLast b s) (g : PortsLast s t) : PortsLast b t := fun p => (g p).trans (h p)

theorem of_ports_eq (e : t.ports = s.ports) (h : PortsLast b s) : PortsLast b t := fun p => by
  rw [State.port, e]
  exact h p

theorem keep (hk : Kept offPorts s t) (h : PortsLast b s) : PortsLast b t :=
  h.of_ports_eq (hk.within .ports (by decide))

theorem of_snd {α : Type} {x : α} {p : α × State} (e : p = (x, t)) (h : PortsLast b p.2) : PortsLast b t := by
  subst e
  exact h

theorem setPort {p : Nat} {x : PortS} (hx : x.lasting = (s.port p).lasting) (h : PortsLast b s) : PortsLast b (s.setPort p x) := by
  intro q
  by_cases hq : q = p
  · rw [hq, State.setPort_port_same, hx, h p]
  · rw [State.setPort_port_of_ne s x hq, h q]

theorem ite {c : Prop} [Decidable c] (hs : c → PortsLast b s) (ht : ¬c → PortsLast b t) : PortsLast b (if c then s else t) := by
  split
  · exact hs ‹_›
  · exact ht ‹_›

theorem foldl {α : Type} {f : State → α → State} {l : List α} (hf : ∀ s x, PortsLast b s → PortsLast b (f s x)) (h : PortsLast b s) :
    PortsLast b (l.foldl f s) := by
  induction l generalizing s with
  | nil => exact h
  | cons x t ih => exact ih (hf s x h)

theorem foldl_snd {α β : Type} {f : β × State → α → β × State} {l : List α} (hf : ∀ a x, PortsLast b a.2 → PortsLast b (f a x).2)
    {a : β × State} (h : PortsLast b a.2) : PortsLast b (l.foldl f a).2 := by
  induction l generalizing a with
  | nil => exact h
  | cons x t ih => exact ih (hf a x h)

end PortsLast

/-! ## Messages and telemetry (R402, R534 to R537) -/

section
variable {b s : State}

theorem State.msix_portsLast {port vec : Nat} (h : PortsLast b s) : PortsLast b (s.msix port vec) :=
  .ite (fun _ => h.setPort rfl) fun _ => h

theorem State.emitHost_portsLast {port last : Nat} {o : Out} (h : PortsLast b s) : PortsLast b (s.emitHost port last o) :=
  PortsLast.setPort rfl (h.of_ports_eq rfl)

theorem State.hltMsix_portsLast (h : PortsLast b s) : PortsLast b s.hltMsix :=
  .ite (fun _ => .ite (fun _ => h.of_ports_eq rfl) fun _ => (State.msix_portsLast h).of_ports_eq rfl) fun _ => h

theorem State.pldmEvents_portsLast {l : List PldmEvent} (h : PortsLast b s) : PortsLast b (l.foldl (fun s e => s.pldmEvent e) s) :=
  .foldl (fun _ _ h => h.keep (State.pldmEvent_kept (by decide) kept_refl)) h

theorem State.telemetry_portsLast {type body : Nat} (h : PortsLast b s) : PortsLast b (s.telemetry type body) := by
  have hent {s1 : State} (h1 : PortsLast b s1) {l : List PldmEvent} :
      PortsLast b (if type = 6 then s1 else l.foldl (fun s e => s.pldmEvent e) s1) :=
    .ite (fun _ => h1) fun _ => State.pldmEvents_portsLast h1
  unfold State.telemetry
  refine hent (.ite (fun _ => .ite (fun _ => ?lost) fun _ => ?written) fun _ => h)
  case lost => exact h.keep (State.telLost_kept (by decide) kept_refl)
  case written => exact State.hltMsix_portsLast ((State.emitHost_portsLast h).of_ports_eq rfl)

theorem State.sysEvt_portsLast {n : Nat} (h : PortsLast b s) : PortsLast b (s.sysEvt n) :=
  .ite (fun _ => State.msix_portsLast (h.of_ports_eq rfl)) fun _ => h.of_ports_eq rfl

/-! ## Records and charges (R468 to R471, R527 to R530) -/

theorem State.cdieOut_portsLast {c code : Nat} (h : PortsLast b s) : PortsLast b (s.cdieOut c code) := by
  have hstop : Kept offPorts s (((s.setCdie c { s.cdie c with outOfService := true, reset := none }).saveRoot).stopAdmitting fun k => k / 8 = c) :=
    State.stopAdmitting_kept (by decide) (State.saveRoot_kept (by decide) (State.setCdie_kept (by decide) kept_refl))
  exact State.telemetry_portsLast ((State.sysEvt_portsLast (h.keep hstop)).keep (State.sendFm_kept (by decide) kept_refl))

theorem State.unitActs_portsLast {die unit st code : Nat} (h : PortsLast b s) : PortsLast b (s.unitActs die unit st code) := by
  unfold State.unitActs
  refine .ite (fun _ => .ite (fun _ => ?array) fun _ => .ite (fun _ => .ite (fun _ => ?core) fun _ => h) fun _ => .ite (fun _ => ?out) fun _ => h)
    fun _ => .ite (fun _ => ?excluded) fun _ => h
  case out => exact State.cdieOut_portsLast h
  all_goals exact h.of_ports_eq rfl

theorem State.classUnit_portsLast {die unit st code : Nat} (h : PortsLast b s) : PortsLast b (s.classUnit die unit st code) :=
  .ite (fun _ => h) fun _ => State.unitActs_portsLast <| State.telemetry_portsLast <|
    h.keep <| State.setBit_kept (by decide) <| State.toMram_kept (by decide) <| State.setUnit_kept (by decide) kept_refl

theorem State.qualify_portsLast {die unit code : Nat} (h : PortsLast b s) : PortsLast b (s.qualify die unit code) := by
  have hqueued {s1 : State} {k : Nat} {u : UnitRec} (h1 : PortsLast b s1) : PortsLast b ((s1.setUnit k u).toMram k) :=
    h1.keep (State.toMram_kept (by decide) (State.setUnit_kept (by decide) kept_refl))
  exact .ite (fun _ => State.classUnit_portsLast (hqueued h)) fun _ => hqueued h

theorem State.record_portsLast {r : FaultRec} {q : Bool} (h : PortsLast b s) : PortsLast b (s.record r q) := by
  unfold State.record
  cases r.die with
  | none => exact h.of_ports_eq rfl
  | some die => exact .ite (fun _ => State.qualify_portsLast (h.of_ports_eq rfl)) fun _ => h.of_ports_eq rfl

theorem State.raise_portsLast {r : FaultRec} (h : PortsLast b s) : PortsLast b (s.raise r) :=
  State.telemetry_portsLast (State.record_portsLast h)

theorem State.charge_portsLast {ring seq ph : Nat} {r : FaultRec} (h : PortsLast b s) : PortsLast b (s.charge ring seq ph r) := by
  unfold State.charge
  cases s.sub? ring seq with
  | none => exact State.raise_portsLast h
  | some x =>
    have hfree : PortsLast b (if x.code = 0 then s else s.uncharge ring seq) :=
      .ite (fun _ => h) fun _ => h.keep (State.uncharge_kept (by decide) kept_refl)
    exact .ite (fun _ => PortsLast.of_ports_eq rfl (State.record_portsLast (hfree.of_ports_eq rfl))) fun _ => State.raise_portsLast h

theorem State.fencedAccess_portsLast {p ring seq ph ctx part : Nat} (h : PortsLast b s) :
    PortsLast b (s.fencedAccess p ring seq ph ctx part) := by
  unfold State.fencedAccess State.chargeOnce
  cases s.sub? ring seq with
  | none => exact State.raise_portsLast h
  | some x => exact .ite (fun _ => h) fun _ => State.charge_portsLast (h.of_ports_eq rfl)

theorem State.chargeStep_portsLast {r : StepRef} {f : FaultRec} {code : Nat} (h : PortsLast b s) : PortsLast b (s.chargeStep r f code) :=
  .ite (fun _ => State.charge_portsLast h) fun _ => h

/-! ## The end of steps and submissions (R86, R401) -/

theorem State.finish_portsLast {ring seq : Nat} (h : PortsLast b s) : PortsLast b (s.finish ring seq) := by
  unfold State.finish
  cases s.sub? ring seq with
  | none => exact h
  | some x =>
    refine .ite (fun _ => h) fun _ => .ite (fun _ => .foldl (fun s p h => ?_) (h.of_ports_eq rfl)) fun _ => h.of_ports_eq rfl
    exact .ite (fun _ => State.fencedAccess_portsLast (State.raise_portsLast h)) fun _ => h.of_ports_eq rfl

theorem State.endInstance_portsLast {ring seq : Nat} (h : PortsLast b s) : PortsLast b (s.endInstance ring seq) := by
  unfold State.endInstance
  split
  · exact h
  · exact .ite (fun _ => State.finish_portsLast h) fun _ => h

theorem State.unitStepEnd_portsLast {r : StepRef} (h : PortsLast b s) : PortsLast b (s.unitStepEnd r) :=
  State.endInstance_portsLast (h.keep (State.endStep_kept (by decide) (State.dropUstep_kept (by decide) kept_refl)))

/-! ## Data that cross the mesh and are written (R27, R28, R307, R477) -/

theorem State.crossEdge_portsLast {e : EdgeErr} {g : Gran} (h : PortsLast b s) : PortsLast b (s.crossEdge e g).2 := by
  unfold State.crossEdge
  dsimp only
  split
  · exact h.keep (State.countEdge_kept (by decide) kept_refl)
  · exact State.raise_portsLast h
  · exact h
  · exact h

theorem State.crossEdges_portsLast {hit : Nat → EdgeErr → Bool} {l : List Gran} {edges : List EdgeErr} (h : PortsLast b s) :
    PortsLast b (s.crossEdges hit l edges).2 := by
  induction edges generalizing s l with
  | nil => exact h
  | cons e t ih =>
    unfold State.crossEdges
    split
    · exact ih h
    · exact ih (State.crossEdge_portsLast h)

theorem State.discards_portsLast {home n : Nat} {die : Nat → Option Nat} {edges : List EdgeErr} (h : PortsLast b s) :
    PortsLast b (s.discards home die n edges) :=
  .foldl (fun _ _ h => State.raise_portsLast h) h

theorem State.carryOver_portsLast {home : Nat} {die : Nat → Option Nat} {l : List Gran} {edges : List EdgeErr}
    {put : Nat → List Gran → State → Nat × State} (hput : ∀ i l t, PortsLast b t → PortsLast b (put i l t).2) (h : PortsLast b s) :
    PortsLast b (s.carryOver home die l edges put).2 := by
  unfold State.carryOver
  split
  · exact hput _ _ _ h
  · dsimp only
    refine PortsLast.foldl_snd ?put ?crossed
    case put => exact fun a r h => hput _ _ _ h
    case crossed => exact State.crossEdges_portsLast (State.discards_portsLast (h.keep (State.countHeaders_kept (by decide) kept_refl)))

theorem State.agentWrite_portsLast {q : Req} {mask : BitVec 256} {data : List Byte} {gp : BitVec 16} (h : PortsLast b s) :
    PortsLast b (s.agentWrite q mask data gp).2 := by
  unfold State.agentWrite
  split
  case h_1 => exact State.raise_portsLast h
  case h_2 =>
    split
    case isTrue => exact State.raise_portsLast h
    case isFalse =>
      split <;> dsimp only
      case isTrue => exact h.keep (State.writeBlock_kept (by decide) kept_refl)
      case isFalse => exact h.keep (State.writeLine_kept (by decide) kept_refl)

theorem State.devWriteFrom_portsLast {tr : Nat → Bool → Except Nat (Nat × Nat)} {w : Who} {ctx va : Nat} {first : Bool} {l : List Gran}
    (h : PortsLast b s) : PortsLast b (s.devWriteFrom tr w ctx first va l).2 := by
  induction l generalizing s first va with
  | nil => exact h
  | cons g t ih =>
    refine ih ?_
    split
    case h_1 => exact h
    case h_2 =>
      dsimp only
      split
      · exact h
      · exact State.agentWrite_portsLast h

theorem State.locWrite_portsLast {tr : Nat → Bool → Except Nat (Nat × Nat)} {die part ctx sp locDie loc : Nat} {l : List Gran}
    {edges : List EdgeErr} (h : PortsLast b s) : PortsLast b (s.locWrite tr die part ctx sp locDie loc l edges).2 := by
  unfold State.locWrite
  split
  · refine State.carryOver_portsLast (fun i l t ht => ?_) h
    have hw : PortsLast b (t.sharedWrite locDie part (loc + 16 * i) l).2 := ht.keep (State.sharedWrite_kept (by decide) kept_refl)
    exact .ite (fun _ => hw) fun _ => State.raise_portsLast hw
  · exact State.carryOver_portsLast (fun _ _ _ ht => State.devWriteFrom_portsLast ht) h

theorem State.storeIn_portsLast {u : UStep} {l : List Gran} {edges : List EdgeErr} (h : PortsLast b s) : PortsLast b (s.storeIn u l edges) := by
  unfold State.storeIn
  dsimp only
  split
  next t hw => exact (PortsLast.of_snd hw (State.locWrite_portsLast h)).keep (State.strand_kept (by decide) kept_refl)
  next c t hw => exact State.unitStepEnd_portsLast (State.chargeStep_portsLast (PortsLast.of_snd hw (State.locWrite_portsLast h)))

/-! ## Batches of updates (R250, R256) -/

theorem State.sendRecord_portsLast {x : Sub} {im : Image} {i : Ingest} {c : Batch} {l : List Gran} {pos : Nat} {r : BatchR} (h : PortsLast b s) :
    PortsLast b (s.sendRecord x im i c l pos r).2 := by
  have hsent {purpose : RemoteFor} {f peer part ctx issue : Nat} {fs : List Frame} :
      PortsLast b (s.sendRequest purpose f peer part ctx issue false fs).2 := h.keep (State.sendRequest_kept (by decide) kept_refl)
  unfold State.sendRecord
  cases c.params[r.tab]? with
  | none => exact h
  | some p =>
    dsimp only
    cases im.table p.tableId with
    | none => exact h
    | some e =>
      dsimp only
      cases rowOf e r.index with
      | none => exact h
      | some k =>
        dsimp only
        split
        case isTrue =>
          split
          · exact h.of_ports_eq rfl
          · exact h
        case isFalse =>
          split
          next hreq => exact PortsLast.of_snd hreq hsent
          next hreq =>
            split
            · exact State.charge_portsLast (PortsLast.of_snd hreq hsent)
            · exact State.raise_portsLast (PortsLast.of_snd hreq hsent)

theorem State.sendRecords_portsLast {x : Sub} {im : Image} {i : Ingest} {c : Batch} {l : List Gran} {pos : Nat} {rs : List BatchR}
    (h : PortsLast b s) : PortsLast b (s.sendRecords x im i c l pos rs).2 := by
  induction rs generalizing s i pos with
  | nil => exact h
  | cons r t ih => exact ih (State.sendRecord_portsLast h)

theorem State.batchDone_portsLast {x : Sub} {l : List Gran} (h : PortsLast b s) : PortsLast b (s.batchDone x l) := by
  unfold State.batchDone
  refine .ite (fun _ => State.charge_portsLast (h.of_ports_eq rfl)) fun _ => ?_
  exact PortsLast.of_ports_eq rfl (State.sendRecords_portsLast (h.of_ports_eq rfl))

/-! ## Host reads that end (R367, R401, R408) -/

theorem State.flushDone_portsLast {ring seq port : Nat} {ok : Bool} (h : PortsLast b s) : PortsLast b (s.flushDone ring seq port ok) := by
  unfold State.flushDone
  cases s.sub? ring seq with
  | none => exact h
  | some x =>
    exact .ite (fun _ => .ite (fun _ => h.of_ports_eq rfl) fun _ => State.charge_portsLast (h.of_ports_eq rfl)) fun _ => h

theorem State.deliver_portsLast {q : HostRead} {l : List Gran} {ok : Bool} {edges : List EdgeErr} (h : PortsLast b s) :
    PortsLast b (s.deliver q l ok edges) := by
  unfold State.deliver
  cases q.purpose with
  | xfer r => exact h.of_ports_eq rfl
  | glist r =>
    dsimp only
    cases s.gstep? r with
    | none => exact h
    | some g => exact h.of_ports_eq rfl
  | transfer r =>
    dsimp only
    cases s.ustep? r with
    | none => exact h
    | some u => exact State.storeIn_portsLast h
  | batch ring seq =>
    dsimp only
    cases s.batchSub ring seq with
    | none => exact h
    | some x => exact State.batchDone_portsLast h
  | flush ring seq => exact State.flushDone_portsLast h

theorem State.poisonReads_portsLast {l : List HostRead} (h : PortsLast b s) : PortsLast b (s.poisonReads l) :=
  .foldl (fun _ _ h => State.deliver_portsLast (State.raise_portsLast (h.of_ports_eq rfl))) h

theorem State.poisonFetches_portsLast {r : Nat} (h : PortsLast b s) : PortsLast b (s.poisonFetches r) :=
  .ite (fun _ => .foldl (fun _ _ h => State.raise_portsLast h) h) fun _ => h

end

end Sys2Proof.Machine
end

section
/-! SUPPORT. The loss of a host (R407 to R409) and of a port's reference clock (R552). -/

namespace Sys2Proof.Machine

open Sys2Proof Host

/-! ## The fence of a port's rings (R408) -/

@[simp] theorem State.setRing_ring_same (s : State) (r : Nat) (x : RingS) : (s.setRing r x).ring r = x := smGet_set_same _ _ _ _

theorem State.setRing_ring_of_ne (s : State) {r a : Nat} (x : RingS) (h : r ≠ a) : (s.setRing a x).ring r = s.ring r :=
  smGet_set_other _ _ _ _ _ h

@[simp] theorem State.setBit_ring (s : State) (g : RG) (i b r : Nat) : (s.setBit g i b).ring r = s.ring r := rfl

theorem State.fenceRing_ring (s : State) (a r : Nat) :
    (s.fenceRing a).ring r = if r = a ∧ (s.ring r).st ≠ .disabled then { s.ring r with st := .fenced } else s.ring r := by
  unfold State.fenceRing
  by_cases ha : (s.ring a).st = .disabled
  · rw [if_pos ha, if_neg (by rintro ⟨rfl, hr⟩; exact hr ha)]
  · rw [if_neg ha]
    by_cases hr : r = a
    · subst hr
      rw [if_pos ⟨rfl, ha⟩, State.setBit_ring, State.setRing_ring_same]
    · rw [if_neg (fun h => hr h.1), State.setBit_ring, State.setRing_ring_of_ne s _ hr]

theorem State.poisonFetches_rings (s : State) (r : Nat) : (s.poisonFetches r).rings = s.rings :=
  (State.poisonFetches_kept (ks := pieces (raised ++ [.ports])) (by decide) kept_refl).within .rings (by decide)

/-- The rings of a port are fenced one after the other, each with its outstanding descriptor fetches poisoned. -/
def State.fenceRings (s : State) (l : List Nat) : State := l.foldl (fun s r => (s.poisonFetches r).fenceRing r) s

/-- The fence takes the armed rings of the list, and no other ring changes its state. -/
theorem State.fenceRings_st (s : State) (l : List Nat) (r : Nat) :
    ((s.fenceRings l).ring r).st = if r ∈ l ∧ (s.ring r).st ≠ .disabled then .fenced else (s.ring r).st := by
  induction l generalizing s with
  | nil => simp [State.fenceRings]
  | cons a l ih =>
    have hpoison : (s.poisonFetches a).ring r = s.ring r := by rw [State.ring, State.poisonFetches_rings, State.ring]
    rw [State.fenceRings, List.foldl_cons, ← State.fenceRings, ih, State.fenceRing_ring, hpoison]
    obtain rfl | hr := eq_or_ne r a
    · by_cases hst : (s.ring r).st = .disabled <;> simp [hst]
    · simp [hr]

theorem State.fenceRings_portsLast {b s : State} {l : List Nat} (h : PortsLast b s) : PortsLast b (s.fenceRings l) :=
  .foldl (fun _ _ h => (State.poisonFetches_portsLast h).keep (State.fenceRing_kept (by decide) kept_refl)) h

/-- Which rings lie on a port is told by HQ_RING_CFG alone, and not by the registers below it in the map. -/
theorem State.setBit_ringsOn (s : State) {g : RG} {i : Nat} (b p : Nat) (hlt : g.off i < RG.off .hqRingCfg 0) :
    (s.setBit g i b).ringsOn p = s.ringsOn p := by
  have hring (r : Nat) : (s.setBit g i b).ringH r = s.ringH r := by
    have hle : RG.off .hqRingCfg 0 ≤ RG.off .hqRingCfg r := Nat.add_le_add_left (Nat.mul_le_mul_left _ r.zero_le) _
    rw [State.ringH, State.fld, State.setBit_reg_of_ne s (by omega), State.ringH, State.fld]
  unfold State.ringsOn
  simp only [hring]
  rfl

/-! ## The loss of a host (R407 to R409) -/

/-- What follows the fence of the rings of a port: the telemetry ring is fenced, submissions are charged, and reads are poisoned. -/
def State.settleLoss (s : State) (p : Nat) : State :=
  let s := if s.fld .hltRingCfg 0 7 6 = p && s.hlt.armed then s.setHlt { s.hlt with fenced := true } else s
  let s := (s.subs.filter (s.lostWith p)).foldl (fun s x => s.charge x.ring x.seq 0 (portFault s p 0x0901 x.ctx x.part)) s
  s.poisonReads (s.reads.filter (·.port == p))

theorem State.settleLoss_portsLast {b s : State} {p : Nat} (h : PortsLast b s) : PortsLast b (s.settleLoss p) := by
  refine State.poisonReads_portsLast (.foldl (fun _ _ h => State.charge_portsLast h) ?_)
  exact .ite (fun _ => h.of_ports_eq rfl) fun _ => h

theorem State.settleLoss_rings (s : State) (p : Nat) : (s.settleLoss p).rings = s.rings := by
  have hfence : Kept (pieces (unwound ++ [.ports, .upd])) s
      (if s.fld .hltRingCfg 0 7 6 = p && s.hlt.armed then s.setHlt { s.hlt with fenced := true } else s) := by
    split
    · exact State.setHlt_kept (by decide) id kept_refl
    · exact kept_refl
  exact (State.poisonReads_kept (by decide) (kept_foldl (fun _ _ h => State.charge_kept (by decide) h) hfence)).within .rings (by decide)

/-- The loss of a host marks its port, fences the port's rings and settles what the port has outstanding. -/
theorem State.loseHost_eq (s : State) (p evt : Nat) (link : LinkSt) :
    ∃ x : PortS, x.link = link ∧ x.fenced = true ∧ x.refclk = (s.port p).refclk ∧
      s.loseHost p evt link =
        (((s.setBit .hqPortEvt p evt).setPort p x).fenceRings ((s.setBit .hqPortEvt p evt).ringsOn p)).settleLoss p := by
  refine ⟨_, ?_, ?_, ?_, rfl⟩ <;> rfl

/-- The port of a lost host is fenced, with its link in the given state; other ports stay, but for what host-bound writes leave in them. -/
theorem State.loseHost_port (s : State) (p evt : Nat) (link : LinkSt) :
    let t := s.loseHost p evt link
    ((t.port p).link = link ∧ (t.port p).fenced = true ∧ (t.port p).refclk = (s.port p).refclk) ∧
      ∀ q, q ≠ p → (t.port q).lasting = (s.port q).lasting := by
  intro t
  obtain ⟨x, hlink, hfenced, hclk, ht⟩ := s.loseHost_eq p evt link
  have hlast : PortsLast ((s.setBit .hqPortEvt p evt).setPort p x) t :=
    (show t = _ from ht) ▸ State.settleLoss_portsLast (State.fenceRings_portsLast (PortsLast.refl _))
  refine ⟨?_, fun q hq => ?_⟩
  · have hp := hlast p
    rw [State.setPort_port_same] at hp
    have hl := congrArg PortS.link hp
    have hf := congrArg PortS.fenced hp
    have hc := congrArg PortS.refclk hp
    exact ⟨hl.trans hlink, hf.trans hfenced, hc.trans hclk⟩
  · rw [hlast q, State.setPort_port_of_ne _ x hq]
    rfl

/-- The armed rings of the port of a lost host are fenced (R408). -/
theorem State.loseHost_ring (s : State) {p : Nat} (evt : Nat) (link : LinkSt) (hp : p < 4) {r : Nat} (hr : r ∈ s.ringsOn p)
    (hst : (s.ring r).st ≠ .disabled) : ((s.loseHost p evt link).ring r).st = .fenced := by
  obtain ⟨x, -, -, -, ht⟩ := s.loseHost_eq p evt link
  have hlt : RG.off .hqPortEvt p < RG.off .hqRingCfg 0 := by
    simp only [RG.off, RG.row]
    omega
  rw [ht, State.ring, State.settleLoss_rings, ← State.ring, State.fenceRings_st, State.setBit_ringsOn s evt p hlt]
  exact if_pos ⟨hr, hst⟩

theorem State.loseLink_of_cxl {s : State} {p : Nat} (evt : Nat) (h : (s.port p).cxl = true) :
    s.loseLink p evt = (s.setBit .hqPortEvt p evt).setPort p { s.port p with link := .down } := if_pos h

theorem State.loseLink_of_pcie {s : State} {p : Nat} (evt : Nat) (h : (s.port p).cxl = false) :
    s.loseLink p evt = s.loseHost p evt .down := if_neg (by rw [h]; exact Bool.false_ne_true)

/-! ## The loss of a reference clock (R552) -/

/-- The reference clock of a port is gone, and PWR_EVT tells of it. -/
def State.clockGone (s : State) (p : Nat) : State := (s.setPort p { s.port p with refclk := false }).setBit .pwrEvt 0 (6 + p)

theorem exec_refclkLost_of_running {port : Fin 4} {s : State} (h : (s.port port.val).refclk = true) :
    exec (.refclkLost port) s =
      .next (if (s.port port.val).link = .down then s.clockGone port.val else (s.clockGone port.val).loseLink port.val 0) := by
  change execRefclkLost port s = _
  simp only [execRefclkLost, h, Bool.not_true, Bool.false_eq_true, if_false, State.clockGone]
  split <;> rfl

theorem State.clockGone_port_same (s : State) (p : Nat) : (s.clockGone p).port p = { s.port p with refclk := false } :=
  State.setPort_port_same s p _

theorem State.clockGone_port_of_ne (s : State) {p q : Nat} (h : q ≠ p) : (s.clockGone p).port q = s.port q :=
  State.setPort_port_of_ne s _ h

theorem State.clockGone_ringsOn (s : State) (p q : Nat) : (s.clockGone p).ringsOn q = s.ringsOn q := by
  rw [State.clockGone, State.setBit_ringsOn _ _ _ (by decide)]
  rfl

/-- Settles O35: with the link down already only the clock goes; in CXL mode the link goes down and nothing else of the host's; in PCIe mode
the loss is a host loss, whose fence no later record or charge lifts. -/
theorem clockLossTakesTheLinkDown : Obligations.ClockLossTakesTheLinkDown := by
  intro port s hclk
  have hgone := s.clockGone_port_same port.val
  refine ⟨_, exec_refclkLost_of_running hclk, ?_⟩
  by_cases hdown : (s.port port.val).link = .down
  · rw [if_pos hdown, hgone]
    exact ⟨hdown, rfl, fun hup => absurd hdown hup, fun _ => ⟨rfl, rfl⟩, fun p hp => by rw [s.clockGone_port_of_ne hp]⟩
  · rw [if_neg hdown]
    cases hcxl : (s.port port.val).cxl with
    | true =>
      rw [State.loseLink_of_cxl 0 (by rw [hgone]; exact hcxl), State.setPort_port_same, hgone]
      refine ⟨rfl, rfl, fun _ h => (nomatch h), fun _ => ⟨rfl, rfl⟩, fun p hp => ?_⟩
      rw [State.setPort_port_of_ne _ _ hp]
      exact congrArg PortS.lasting (s.clockGone_port_of_ne hp)
    | false =>
      rw [State.loseLink_of_pcie 0 (by rw [hgone]; exact hcxl)]
      obtain ⟨⟨hlink, hfenced, hrefclk⟩, hothers⟩ := (s.clockGone port.val).loseHost_port port.val 0 .down
      refine ⟨hlink, by rw [hrefclk, hgone], fun _ _ => ⟨hfenced, fun r hr hst => ?_⟩, fun h => (nomatch h), fun p hp => ?_⟩
      · exact State.loseHost_ring _ 0 .down port.isLt (by rwa [s.clockGone_ringsOn]) hst
      · exact (hothers p hp).trans (congrArg PortS.lasting (s.clockGone_port_of_ne hp))

end Sys2Proof.Machine
end

section
/-! SUPPORT. The bits and the fields of a register word, and the offsets of the map of R567. -/

namespace Sys2Proof.Machine

open Sys2Proof Host

/-! ## Bits of a word -/

theorem wbit_and (v w : Word) (b : Nat) : wbit (v &&& w) b = (wbit v b && wbit w b) := by
  rw [wbit, BitVec.toNat_and, Nat.testBit_and, wbit, wbit]

theorem wbit_or (v w : Word) (b : Nat) : wbit (v ||| w) b = (wbit v b || wbit w b) := by
  rw [wbit, BitVec.toNat_or, Nat.testBit_or, wbit, wbit]

theorem wbit_not (w : Word) {b : Nat} (hb : b < 32) : wbit (~~~w) b = !wbit w b := by
  simp only [wbit, BitVec.testBit_toNat, BitVec.getLsbD_not, hb, decide_true, Bool.true_and]

/-- A word other than 0 has a bit set. -/
theorem exists_wbit_of_ne_zero {w : Word} (h : w ≠ 0) : ∃ b, b < 32 ∧ wbit w b = true := by
  by_contra hnone
  refine h (BitVec.eq_of_getLsbD_eq fun b hb => ?_)
  have hbit : wbit w b = false := by simpa [hb] using not_exists.mp hnone b
  rw [← BitVec.testBit_toNat, ← wbit, hbit, BitVec.ofNat_eq_ofNat, BitVec.getLsbD_zero]

/-! ## Fields of a word -/

theorem testBit_bits (n hi lo b : Nat) : (bits n hi lo).testBit b = (decide (b < hi + 1 - lo) && n.testBit (lo + b)) := by
  rw [bits, Nat.testBit_mod_two_pow, Nat.testBit_shiftRight]

/-- Words that agree on the bits of a field agree on the field. -/
theorem wbits_congr {v w : Word} {hi lo : Nat} (h : ∀ b, lo ≤ b → b ≤ hi → wbit v b = wbit w b) : wbits v hi lo = wbits w hi lo := by
  refine Nat.eq_of_testBit_eq fun b => ?_
  rw [wbits, wbits, testBit_bits, testBit_bits]
  by_cases hb : b < hi + 1 - lo
  · rw [← wbit, ← wbit, h (lo + b) (by omega) (by omega)]
  · rw [decide_eq_false hb, Bool.false_and, Bool.false_and]

theorem bits_mul_le (n hi lo : Nat) : bits n hi lo * 2 ^ lo ≤ n :=
  calc bits n hi lo * 2 ^ lo ≤ n / 2 ^ lo * 2 ^ lo := Nat.mul_le_mul_right _ (by rw [bits, Nat.shiftRight_eq_div_pow]; exact Nat.mod_le _ _)
    _ ≤ n := Nat.div_mul_le_self _ _

/-- Writing the value that a field holds leaves the word. -/
theorem setBits_wbits (w : Word) (hi lo : Nat) : setBits w hi lo (wbits w hi lo) = w := by
  have hmod : bits w.toNat hi lo % 2 ^ (hi + 1 - lo) = bits w.toNat hi lo := Nat.mod_mod _ _
  rw [setBits, wbits, hmod, Nat.sub_add_cancel (bits_mul_le _ _ _), BitVec.ofNat_toNat, BitVec.setWidth_eq]

/-- Clearing one bit of a number by subtraction leaves its other bits. -/
theorem testBit_sub_bits_one (n k b : Nat) : (n - bits n k k * 2 ^ k).testBit b = (!decide (b = k) && n.testBit b) := by
  have hdiv : n = 2 ^ k * (n / 2 ^ k) + n % 2 ^ k := (Nat.div_add_mod n _).symm
  have hsub : n - bits n k k * 2 ^ k = 2 ^ k * (2 ^ 1 * (n / 2 ^ k / 2)) + n % 2 ^ k := by
    have hbit : bits n k k = n / 2 ^ k % 2 := by rw [bits, Nat.shiftRight_eq_div_pow, Nat.add_sub_cancel_left, Nat.pow_one]
    have hhalf : 2 ^ k * (n / 2 ^ k) = 2 ^ k * (2 ^ 1 * (n / 2 ^ k / 2)) + bits n k k * 2 ^ k := by
      rw [hbit, Nat.mul_comm _ (2 ^ k), ← Nat.mul_add, Nat.pow_one, Nat.div_add_mod]
    omega
  have hlow : n % 2 ^ k < 2 ^ k := Nat.mod_lt _ (Nat.two_pow_pos k)
  rw [hsub, Nat.testBit_two_pow_mul_add _ hlow]
  conv_rhs => rw [hdiv, Nat.testBit_two_pow_mul_add _ hlow]
  obtain hb | rfl | hb := Nat.lt_trichotomy b k
  · rw [if_pos hb, if_pos hb, decide_eq_false (by omega), Bool.not_false, Bool.true_and]
  · rw [if_neg (Nat.lt_irrefl b), Nat.sub_self, Nat.testBit_two_pow_mul, decide_eq_true rfl]
    rfl
  · rw [if_neg (by omega), if_neg (by omega), decide_eq_false (by omega), Nat.testBit_two_pow_mul, decide_eq_true (by omega),
      ← Nat.testBit_succ, show (b - k - 1).succ = b - k by omega]
    rfl

/-- A bit that is written 0 is 0, and the others stay. -/
theorem wbit_setBits_zero (w : Word) (k b : Nat) : wbit (setBits w k k 0) b = (!decide (b = k) && wbit w b) := by
  have hlt : w.toNat - bits w.toNat k k * 2 ^ k < 2 ^ 32 := by omega
  rw [wbit, setBits, Nat.zero_mod, Nat.zero_mul, Nat.add_zero, BitVec.toNat_ofNat, Nat.mod_eq_of_lt hlt, testBit_sub_bits_one, wbit]

/-! ## Registers and their offsets (R567) -/

theorem RG.idx_eq_some {g : RG} {o i : Nat} (h : g.idx o = some i) : g.off i = o ∧ i < g.row.count := by
  unfold RG.idx at h
  obtain ⟨⟨hbase, hmod, hcount⟩, hi⟩ := Option.ite_none_right_eq_some.mp h
  cases hi
  refine ⟨?_, hcount⟩
  rw [RG.off, Nat.mul_div_cancel' (Nat.dvd_of_mod_eq_zero hmod)]
  omega

theorem regFind_eq_some {o : Nat} {l : List RG} {g : RG} {i : Nat} (h : regFind o l = some (g, i)) : g.idx o = some i := by
  induction l with
  | nil => exact nomatch h
  | cons a t ih =>
    rw [regFind] at h
    split at h
    next j hj => cases h; exact hj
    next => exact ih h

/-- The register found at an offset stands there. -/
theorem regAt_eq_some {o : Nat} {g : RG} {i : Nat} (h : regAt o = some (g, i)) : g.off i = o ∧ i < g.row.count :=
  RG.idx_eq_some (regFind_eq_some h)

/-- Registers of two names that are each found at an offset stand at two offsets. -/
theorem RG.off_ne_of_regAt {g h : RG} {i j o p : Nat} (hg : regAt o = some (g, i)) (hh : regAt p = some (h, j)) (hne : g ≠ h) :
    g.off i ≠ h.off j := by
  intro hoff
  rw [(regAt_eq_some hg).1, (regAt_eq_some hh).1] at hoff
  rw [hoff, hh] at hg
  cases hg
  exact hne rfl

end Sys2Proof.Machine
end

section
/-! SUPPORT. Writes of the way registers (R330, R572, R573): what a write to a way leaves that it does not change. -/

namespace Sys2Proof.Machine

open Sys2Proof Host

/-! ## Writes that leave the registers -/

/-- From `s` to `t` a register was at most written with what it held. -/
structure RegKept (g : RG) (i : Nat) (s t : State) : Prop where
  within : Within (pieces [.regs]) s t
  here : t.reg g i = s.reg g i
  elsewhere : ∀ h j, h.off j ≠ g.off i → t.reg h j = s.reg h j

namespace RegKept

variable {g : RG} {i : Nat} {s t u : State}

theorem refl : RegKept g i s s := ⟨kept_refl.within, rfl, fun _ _ _ => rfl⟩

theorem trans (h : RegKept g i s t) (k : RegKept g i t u) : RegKept g i s u :=
  ⟨h.within.trans k.within, k.here.trans h.here, fun a b hab => (k.elsewhere a b hab).trans (h.elsewhere a b hab)⟩

theorem flag_elsewhere (hk : RegKept g i s t) {h : RG} {j : Nat} (hne : h.off j ≠ g.off i) (b : Nat) : t.flag h j b = s.flag h j b :=
  congrArg (wbit · b) (hk.elsewhere h j hne)

theorem setReg (w : Word) (hw : w = s.reg g i) : RegKept g i s (s.setReg g i w) :=
  ⟨(State.setReg_kept (by decide) kept_refl).within, by rw [State.setReg_reg_same, hw], fun _ _ hne => State.setReg_reg_of_ne s w hne⟩

theorem foldl {α : Type} {f : State → α → State} {l : List α} {w : Word} (hf : ∀ x ∈ l, ∀ s, s.reg g i = w → RegKept g i s (f s x))
    (hs : s.reg g i = w) : RegKept g i s (l.foldl f s) := by
  induction l generalizing s with
  | nil => exact refl
  | cons x l ih =>
    have hx := hf x (List.mem_cons_self ..) s hs
    exact hx.trans (ih (fun y hy => hf y (List.mem_cons_of_mem _ hy)) (hx.here.trans hs))

end RegKept

/-! ## One way of a write -/

/-- Two words of a way register agree on the way whose bits begin at `k`. -/
def WayAgrees (v w : Word) (k : Nat) : Prop := ∀ b, k ≤ b → b ≤ k + 6 → wbit v b = wbit w b

/-- A way that is written with what it holds keeps the registers, assigned or not. -/
theorem State.writeWay_of_agrees {s : State} {g : RG} {i k die way : Nat} {w : Word} (h : WayAgrees (s.reg g i) w k) :
    RegKept g i s (s.writeWay g i k die way w) := by
  have hv : wbit (s.reg g i) (k + 6) = wbit w (k + 6) := h _ (by omega) (by omega)
  have howner : wbits (s.reg g i) (k + 5) k = wbits w (k + 5) k := wbits_congr fun b hk hb => h b hk (by omega)
  cases hset : wbit w (k + 6) with
  | true =>
    simp only [State.writeWay, hv, howner, hset, if_true]
    exact .refl
  | false =>
    simp only [State.writeWay, hv, hset, Bool.false_eq_true, if_false]
    exact .setReg _ (by rw [← howner, setBits_wbits])

/-- An assigned way that is written with V at 0 and its owner kept is released where the owner has no image (R573). -/
theorem State.writeWay_of_release {s : State} {g : RG} {i k die way : Nat} {w : Word} (hset : wbit (s.reg g i) (k + 6) = true)
    (hclear : wbit w (k + 6) = false) (howner : wbits w (k + 5) k = wbits (s.reg g i) (k + 5) k) :
    s.writeWay g i k die way w =
      if s.imgOrPend (s.fld g i (k + 5) k) then s.wayRefused g i else s.setReg g i (setBits (s.reg g i) (k + 6) (k + 6) 0) := by
  simp only [State.writeWay, hset, hclear, howner, if_true, Bool.false_eq_true, if_false, State.fld]
  rfl

/-! ## Refusals -/

theorem State.wayRefused_within (s : State) (g : RG) (i : Nat) : Within (pieces [.regs]) s (s.wayRefused g i) :=
  (State.wayRefused_kept (by decide) kept_refl).within

theorem State.wayRefused_flag (s : State) (g : RG) (i : Nat) : (s.wayRefused g i).flag .memStatus 0 2 = true := by
  rw [State.wayRefused, State.regErr, State.flag, State.setReg_reg_of_ne _ _ (by decide)]
  exact State.setBit_flag_same s .memStatus 0 (by decide)

theorem State.wayRefused_reg {s : State} {g : RG} {i : Nat} (herr : g.off i ≠ RG.off .sysRegerr 0) (hstatus : g.off i ≠ RG.off .memStatus 0) :
    (s.wayRefused g i).reg g i = s.reg g i := by
  rw [State.wayRefused, State.regErr, State.setReg_reg_of_ne _ _ herr, State.setBit_reg_of_ne s hstatus]

/-! ## A write that releases one way -/

/-- The ways before and after one of the four of a register. -/
theorem range_four_eq (j : Fin 4) : List.range 4 = List.range j.val ++ j.val :: List.range' (j.val + 1) (3 - j.val) := by
  revert j
  decide

/-- The word of a way register with V of way `j` cleared. -/
def releaseWord (v : Word) (j : Nat) : Word := setBits v (8 * j + 6) (8 * j + 6) 0

theorem wbit_releaseWord (v : Word) (j b : Nat) : wbit (releaseWord v j) b = (!decide (b = 8 * j + 6) && wbit v b) := wbit_setBits_zero v _ b

theorem releaseWord_agrees (v : Word) {j l : Nat} (hl : l ≠ j) : WayAgrees v (releaseWord v j) (8 * l) := fun b hlow hhigh => by
  rw [wbit_releaseWord, decide_eq_false (by omega), Bool.not_false, Bool.true_and]

theorem releaseWord_owner (v : Word) (j : Nat) : wbits (releaseWord v j) (8 * j + 5) (8 * j) = wbits v (8 * j + 5) (8 * j) :=
  wbits_congr fun b _ hb => by rw [wbit_releaseWord, decide_eq_false (by omega), Bool.not_false, Bool.true_and]

theorem releaseWord_clear (v : Word) (j : Nat) : wbit (releaseWord v j) (8 * j + 6) = false := by
  rw [wbit_releaseWord, decide_eq_true rfl, Bool.not_true, Bool.false_and]

/-- Ways that are not the released one keep the registers. -/
theorem State.writeOtherWays_regKept {s : State} {g : RG} {die q j : Nat} {v : Word} {l : List Nat} (hl : j ∉ l)
    (hs : s.reg g (4 * die + q) = v ∨ s.reg g (4 * die + q) = releaseWord v j) :
    RegKept g (4 * die + q) s (l.foldl (fun s j' => s.writeWay g (4 * die + q) (8 * j') die (4 * q + j') (releaseWord v j)) s) := by
  refine .foldl (fun l' hl' t ht => State.writeWay_of_agrees ?_) rfl
  rw [ht]
  obtain hs | hs := hs <;> rw [hs]
  · exact releaseWord_agrees v (ne_of_mem_of_not_mem hl' hl)
  · exact fun _ _ _ => rfl

/-- A write that only clears V of one way is judged by that way alone: the others keep the registers before and after it. -/
theorem State.writeWays_release {s : State} {g : RG} {die q : Nat} {j : Fin 4} (herr : g.off (4 * die + q) ≠ RG.off .sysRegerr 0)
    (hstatus : g.off (4 * die + q) ≠ RG.off .memStatus 0) (hset : s.flag g (4 * die + q) (8 * j.val + 6) = true) :
    let i := 4 * die + q
    let w := releaseWord (s.reg g i) j.val
    let t := s.writeWays g die q w
    Within (pieces [.regs]) s t ∧
      if s.imgOrPend (s.fld g i (8 * j.val + 5) (8 * j.val)) then t.reg g i = s.reg g i ∧ t.flag .memStatus 0 2 = true
      else t.reg g i = w ∧ t.flag .memStatus 0 2 = s.flag .memStatus 0 2 := by
  intro i w
  have hsplit := range_four_eq j
  rw [State.writeWays, hsplit, List.foldl_append, List.foldl_cons]
  have ha := State.writeOtherWays_regKept (s := s) (g := g) (die := die) (q := q) (v := s.reg g i) (l := List.range j.val) List.not_mem_range_self (.inl rfl)
  generalize (List.range j.val).foldl _ s = a at ha ⊢
  have hparts : a.parts = s.parts := ha.within .parts (by decide)
  have hown : a.imgOrPend (a.fld g i (8 * j.val + 5) (8 * j.val)) = s.imgOrPend (s.fld g i (8 * j.val + 5) (8 * j.val)) := by
    rw [State.imgOrPend, State.part, hparts, State.fld, ha.here]
    rfl
  rw [State.writeWay_of_release (by rw [ha.here]; exact hset) (releaseWord_clear _ _) (by rw [ha.here]; exact releaseWord_owner _ _), hown, ha.here]
  have hrest : j.val ∉ List.range' (j.val + 1) (3 - j.val) := by simp
  split
  case isTrue =>
    have hreg : (a.wayRefused g i).reg g i = s.reg g i := (State.wayRefused_reg herr hstatus).trans ha.here
    have hafter := State.writeOtherWays_regKept (die := die) (q := q) (v := s.reg g i) hrest (.inl hreg)
    exact ⟨ha.within.trans ((State.wayRefused_within a g i).trans hafter.within), hafter.here.trans hreg,
      (hafter.flag_elsewhere hstatus.symm 2).trans (State.wayRefused_flag a g i)⟩
  case isFalse =>
    have hreg : (a.setReg g i w).reg g i = w := State.setReg_reg_same a g i w
    have hflag : (a.setReg g i w).flag .memStatus 0 2 = a.flag .memStatus 0 2 := congrArg (wbit · 2) (State.setReg_reg_of_ne a w hstatus.symm)
    have hafter := State.writeOtherWays_regKept (die := die) (q := q) (v := s.reg g i) hrest (.inr hreg)
    exact ⟨ha.within.trans (Within.trans (State.setReg_kept (by decide) kept_refl).within hafter.within), hafter.here.trans hreg,
      (hafter.flag_elsewhere hstatus.symm 2).trans (hflag.trans (ha.flag_elsewhere hstatus.symm 2))⟩

/-! ## The two commands -/

theorem State.imgOrPend_eq_false_iff (s : State) (p : Nat) : s.imgOrPend p = false ↔ (s.part p).image = none ∧ (s.part p).pending = none := by
  simp [State.imgOrPend]

theorem State.imgOrPend_eq_true_iff (s : State) (p : Nat) : s.imgOrPend p = true ↔ (s.part p).image ≠ none ∨ (s.part p).pending ≠ none := by
  simp [State.imgOrPend, Option.isSome_iff_ne_none]

/-- A command that writes a way register with V of one assigned way cleared releases the way or sets WAY_REFUSED (R573). -/
theorem release_answers {c : Instr} {s : State} {g : RG} {die q : Nat} {j : Fin 4} (herr : g.off (4 * die + q) ≠ RG.off .sysRegerr 0)
    (hstatus : g.off (4 * die + q) ≠ RG.off .memStatus 0) (hset : s.flag g (4 * die + q) (8 * j.val + 6) = true)
    (hexec : exec c s = .next (s.writeWays g die q (releaseWord (s.reg g (4 * die + q)) j.val))) :
    let i := 4 * die + q
    let owner := s.fld g i (8 * j.val + 5) (8 * j.val)
    ((s.part owner).image = none → (s.part owner).pending = none →
      ∃ t, exec c s = .next t ∧ t.reg g i = releaseWord (s.reg g i) j.val ∧ t.flag .memStatus 0 2 = s.flag .memStatus 0 2 ∧
        Within (pieces [.regs]) s t) ∧
    ((s.part owner).image ≠ none ∨ (s.part owner).pending ≠ none →
      ∃ t, exec c s = .next t ∧ t.reg g i = s.reg g i ∧ t.flag .memStatus 0 2 = true ∧ Within (pieces [.regs]) s t) := by
  intro i owner
  obtain ⟨hwithin, hjudged⟩ := State.writeWays_release herr hstatus hset
  refine ⟨fun himg hpend => ⟨_, hexec, ?_⟩, fun hbusy => ⟨_, hexec, ?_⟩⟩
  · rw [(s.imgOrPend_eq_false_iff owner).mpr ⟨himg, hpend⟩, if_neg Bool.false_ne_true] at hjudged
    exact ⟨hjudged.1, hjudged.2, hwithin⟩
  · rw [if_pos ((s.imgOrPend_eq_true_iff owner).mpr hbusy)] at hjudged
    exact ⟨hjudged.1, hjudged.2, hwithin⟩

/-- A word with V of one assigned way cleared takes a V bit from 1 to 0. -/
theorem vChange_releaseWord {v : Word} (j : Fin 4) (h : wbit v (8 * j.val + 6) = true) : vChange v (releaseWord v j.val) true = true :=
  List.any_eq_true.mpr ⟨j.val, List.mem_range.mpr j.isLt, by rw [h, releaseWord_clear]; rfl⟩

theorem RG.off_ne_of_lt_base {g : RG} {i o : Nat} (h : o < g.row.base) : g.off i ≠ o :=
  (h.trans_le (Nat.le_add_right _ _)).ne'

/-- Settles O22: the released way alone decides, and neither MEM_STATUS nor SYS_REGERR is a way register. -/
theorem waysAreReleasedFreeOfImages : Obligations.WaysAreReleasedFreeOfImages := by
  constructor
  · intro port cdie q j s hreach i hset
    exact release_answers (RG.off_ne_of_lt_base (by decide)) (RG.off_ne_of_lt_base (by decide)) hset
      (if_pos ⟨hreach, vChange_releaseWord j hset⟩)
  · intro port gdie q j s hreach i hset
    exact release_answers (RG.off_ne_of_lt_base (by decide)) (RG.off_ne_of_lt_base (by decide)) hset
      (if_pos ⟨hreach, vChange_releaseWord j hset⟩)

end Sys2Proof.Machine
end

section
/-! SUPPORT. Writes of the event registers (R575): clears, the sets that they meet, and the count of what met. -/

namespace Sys2Proof.Machine

open Sys2Proof Host

/-! ## Bits of a write -/

/-- A written 1 clears an event bit unless hardware sets it (R575). -/
theorem wbit_w1cNext {old w hwset m : Word} {b : Nat} (hb : b < 32) (hm : wbit m b = true) :
    wbit (w1cNext old w hwset m) b = (wbit hwset b || (wbit old b && !wbit w b)) := by
  rw [w1cNext, wbit_or, wbit_and, wbit_not _ hb, wbit_and, wbit_and, hm, Bool.and_true, Bool.and_true, Bool.or_comm]

theorem State.writeEvents_reg (s : State) (g : RG) (i : Nat) (w hwset : Word) :
    (s.writeEvents g i w hwset).reg g i = (s.reg g i &&& ~~~ g.row.w1c) ||| (w1cNext (s.reg g i) w hwset g.row.w1c &&& g.row.w1c) :=
  State.setReg_reg_same ..

theorem State.writeEvents_reg_of_ne (s : State) {g h : RG} {i j : Nat} (w hwset : Word) (hne : h.off j ≠ g.off i) :
    (s.writeEvents g i w hwset).reg h j = s.reg h j :=
  State.setReg_reg_of_ne s _ hne

theorem State.writeEvents_flag_of_event (s : State) {g : RG} {i b : Nat} (w hwset : Word) (hb : b < 32) (hm : wbit g.row.w1c b = true) :
    (s.writeEvents g i w hwset).flag g i b = (wbit hwset b || (s.flag g i b && !wbit w b)) := by
  rw [State.flag, State.writeEvents_reg, wbit_or, wbit_and, wbit_and, wbit_not _ hb, wbit_w1cNext hb hm, hm, Bool.not_true, Bool.and_false,
    Bool.false_or, Bool.and_true, State.flag]

theorem State.writeEvents_flag_of_plain (s : State) {g : RG} {i b : Nat} (w hwset : Word) (hb : b < 32) (hm : wbit g.row.w1c b = false) :
    (s.writeEvents g i w hwset).flag g i b = s.flag g i b := by
  rw [State.flag, State.writeEvents_reg, wbit_or, wbit_and, wbit_and, wbit_not _ hb, hm, Bool.not_false, Bool.and_true, Bool.and_false,
    Bool.or_false, State.flag]

/-! ## The count of clears that met sets -/

/-- The lowest bit set in a word. -/
def lowBit (w : Word) : Nat := ((List.range 32).find? fun b => wbit w b).getD 0

/-- In a word other than 0 the lowest bit is set, and no bit below it is. -/
theorem lowBit_spec {w : Word} (h : w ≠ 0) : lowBit w < 32 ∧ wbit w (lowBit w) = true ∧ ∀ b, b < lowBit w → wbit w b = false := by
  obtain ⟨c, hc, hset⟩ := exists_wbit_of_ne_zero h
  cases hfind : (List.range 32).find? fun b => wbit w b with
  | none => exact absurd hset (List.find?_eq_none.mp hfind c (List.mem_range.mpr hc))
  | some l =>
    have hl : lowBit w = l := by rw [lowBit, hfind, Option.getD_some]
    obtain ⟨hbit, hrange, hbelow⟩ := List.find?_range_eq_some.mp hfind
    rw [hl]
    exact ⟨List.mem_range.mp hrange, hbit, fun b hb => by simpa using hbelow b hb⟩

section
variable {s : State} {g : RG} {i : Nat} {hit : Word}

theorem State.overrun_of_none (h : hit = 0) : s.overrun g i hit = s := if_pos h

theorem State.overrun_of_some (h : hit ≠ 0) :
    s.overrun g i hit =
      (s.setReg .sysOverrun 0 (BitVec.ofNat 32 (satAdd (2 ^ 32 - 1) (s.reg .sysOverrun 0).toNat (popCount hit)))).setReg .sysOverrunLast 0
        (BitVec.ofNat 32 (g.off i + lowBit hit * 2 ^ 24)) :=
  if_neg h

/-- The count of met clears leaves every register but SYS_OVERRUN and SYS_OVERRUN_LAST. -/
theorem State.overrun_reg_of_ne {h : RG} {j : Nat} (hcount : h.off j ≠ RG.off .sysOverrun 0) (hlast : h.off j ≠ RG.off .sysOverrunLast 0) :
    (s.overrun g i hit).reg h j = s.reg h j := by
  by_cases hhit : hit = 0
  · rw [State.overrun_of_none hhit]
  · rw [State.overrun_of_some hhit, State.setReg_reg_of_ne _ _ hlast, State.setReg_reg_of_ne _ _ hcount]

/-- SYS_OVERRUN counts each met clear, and saturates (R575). -/
theorem State.overrun_count (h : hit ≠ 0) :
    ((s.overrun g i hit).reg .sysOverrun 0).toNat = min (2 ^ 32 - 1) ((s.reg .sysOverrun 0).toNat + popCount hit) := by
  rw [State.overrun_of_some h, State.setReg_reg_of_ne _ _ (by decide), State.setReg_reg_same, BitVec.toNat_ofNat, satAdd]
  omega

/-- SYS_OVERRUN_LAST names the register of the met clear and its lowest bit (R575). -/
theorem State.overrun_last (h : hit ≠ 0) (hoff : g.off i < 2 ^ 24) :
    (s.overrun g i hit).fld .sysOverrunLast 0 23 0 = g.off i ∧ (s.overrun g i hit).fld .sysOverrunLast 0 28 24 = lowBit hit := by
  have hlow := (lowBit_spec h).1
  rw [State.fld, State.fld, State.overrun_of_some h, State.setReg_reg_same, wbits, wbits, BitVec.toNat_ofNat, bits, bits]
  omega

end

/-! ## Writes of the event registers -/

theorem State.msix_regs (s : State) (port vec : Nat) : (s.msix port vec).regs = s.regs :=
  (State.msix_kept (ks := pieces [.ports]) (by decide) kept_refl).within .regs (by decide)

/-- A message touches the ports alone, and looks at nothing else. -/
theorem State.msix_ports_congr {s t : State} (h : t.ports = s.ports) (port vec : Nat) : (t.msix port vec).ports = (s.msix port vec).ports := by
  have hport : t.port port = s.port port := by rw [State.port, h, State.port]
  have hup : t.portUp port = s.portUp port := by rw [State.portUp, hport, State.portUp]
  simp only [State.msix, hport, hup]
  split
  · rw [State.setPort_ports, State.setPort_ports, h]
  · exact h

/-- An event register written, and its clears that met sets counted. -/
def State.clearCounted (s : State) (g : RG) (i : Nat) (w hwset : Word) : State :=
  (s.writeEvents g i w hwset).overrun g i (w &&& hwset &&& g.row.w1c)

section
variable {s : State} {g : RG} {i : Nat} {w hwset : Word}

/-- Behind the clears and their count a set of SYS_EVT sends its message (R575). -/
theorem State.clearEvents_eq :
    s.clearEvents g i w hwset =
      if g = .sysEvt && hwset &&& g.row.w1c != 0 && (s.clearCounted g i w hwset).flag .sysEvtCfg 0 11 then
        (s.clearCounted g i w hwset).msix ((s.clearCounted g i w hwset).fld .sysEvtCfg 0 13 12) ((s.clearCounted g i w hwset).fld .sysEvtCfg 0 10 0)
      else s.clearCounted g i w hwset := by
  rw [State.clearCounted, BitVec.and_assoc]
  rfl

/-- What a write of an event register leaves in the registers is told by the clears and their count; the message changes none. -/
theorem State.clearEvents_reg (h : RG) (j : Nat) :
    (s.clearEvents g i w hwset).reg h j = (s.clearCounted g i w hwset).reg h j := by
  rw [State.clearEvents_eq]
  split
  · rw [State.reg, State.msix_regs, State.reg]
  · rfl

theorem State.clearEvents_within : Within (pieces [.regs, .ports]) s (s.clearEvents g i w hwset) :=
  (State.clearEvents_kept (by decide) kept_refl).within

/-- With no clear that met a set, no other register changes (R575). -/
theorem State.clearEvents_reg_of_none (hmet : w &&& hwset &&& g.row.w1c = 0) {h : RG} {j : Nat} (hne : h.off j ≠ g.off i) :
    (s.clearEvents g i w hwset).reg h j = s.reg h j := by
  rw [State.clearEvents_reg, State.clearCounted, State.overrun_of_none hmet, State.writeEvents_reg_of_ne s w hwset hne]

/-- SYS_OVERRUN_LAST names the register and the lowest bit where a clear met a set (R575). -/
theorem State.clearEvents_last (hmet : w &&& hwset &&& g.row.w1c ≠ 0) (hoff : g.off i < 2 ^ 24) :
    (s.clearEvents g i w hwset).fld .sysOverrunLast 0 23 0 = g.off i ∧
      (s.clearEvents g i w hwset).fld .sysOverrunLast 0 28 24 = lowBit (w &&& hwset &&& g.row.w1c) := by
  rw [State.fld, State.fld, State.clearEvents_reg]
  exact State.overrun_last hmet hoff

variable (hcount : g.off i ≠ RG.off .sysOverrun 0)
include hcount

/-- Each clear that met a set is counted (R575). -/
theorem State.clearEvents_count (hmet : w &&& hwset &&& g.row.w1c ≠ 0) :
    ((s.clearEvents g i w hwset).reg .sysOverrun 0).toNat =
      min (2 ^ 32 - 1) ((s.reg .sysOverrun 0).toNat + popCount (w &&& hwset &&& g.row.w1c)) := by
  rw [State.clearEvents_reg, State.clearCounted, State.overrun_count hmet, State.writeEvents_reg_of_ne s w hwset hcount.symm]

variable (hlast : g.off i ≠ RG.off .sysOverrunLast 0)
include hlast

/-- The event bits are judged one by one; the count is kept elsewhere. -/
theorem State.clearEvents_flag (b : Nat) : (s.clearEvents g i w hwset).flag g i b = (s.writeEvents g i w hwset).flag g i b := by
  rw [State.flag, State.clearEvents_reg, State.clearCounted, State.overrun_reg_of_ne hcount hlast, State.flag]

end

/-- SYS_EVT_CFG stays when SYS_EVT is written, so that it tells where the message goes (R575). -/
theorem State.clearEvents_sysEvt_ports {s : State} {i : Nat} {w hwset : Word} (hcfg : RG.off .sysEvtCfg 0 ≠ RG.off .sysEvt i)
    (hsets : hwset &&& RG.sysEvt.row.w1c ≠ 0) (hon : s.flag .sysEvtCfg 0 11 = true) :
    (s.clearEvents .sysEvt i w hwset).ports = (s.msix (s.fld .sysEvtCfg 0 13 12) (s.fld .sysEvtCfg 0 10 0)).ports := by
  have hports : (s.clearCounted .sysEvt i w hwset).ports = s.ports :=
    (State.overrun_kept (ks := pieces [.regs]) (by decide) (State.writeEvents_kept (by decide) kept_refl)).within .ports (by decide)
  have hreg : (s.clearCounted .sysEvt i w hwset).reg .sysEvtCfg 0 = s.reg .sysEvtCfg 0 := by
    rw [State.clearCounted, State.overrun_reg_of_ne (by decide) (by decide), State.writeEvents_reg_of_ne s w hwset hcfg]
  have hflag : (s.clearCounted .sysEvt i w hwset).flag .sysEvtCfg 0 11 = true := (congrArg (wbit · 11) hreg).trans hon
  rw [State.clearEvents_eq, hflag, bne_iff_ne.mpr hsets, decide_eq_true rfl, if_pos (by decide), State.msix_ports_congr hports, State.fld, State.fld,
    hreg, State.fld, State.fld]

/-! ## The status of the traffic generator -/

theorem State.setTg_tg_same (s : State) (c : Nat) (x : TgS) : (s.setTg c x).tg c = x := smGet_set_same _ _ _ _

theorem State.setTg_tg_of_ne (s : State) {k c : Nat} (x : TgS) (h : k ≠ c) : (s.setTg c x).tg k = s.tg k := smGet_set_other _ _ _ _ _ h

theorem State.overrun_tg (s : State) (g : RG) (i : Nat) (hit : Word) (k : Nat) : (s.overrun g i hit).tg k = s.tg k := by
  have hmem : (s.overrun g i hit).mem = s.mem := (State.overrun_kept (ks := pieces [.regs]) (by decide) kept_refl).within .mem (by decide)
  rw [State.tg, hmem, State.tg]

/-- A write of MEM_TG_STATUS clears bits of the selected generator's status unless hardware sets them, and of no other's (R339, R575). -/
theorem State.clearTg_tg (s : State) (w hwset : Word) (k : Nat) :
    (s.clearTg w hwset).tg k =
      if k = s.fld .memTgSel 0 9 0 then
        { s.tg k with status := w1cNext (s.tg k).status w hwset RG.memTgStatus.row.w1c &&& RG.memTgStatus.row.w1c }
      else s.tg k := by
  rw [State.clearTg, State.overrun_tg]
  split
  next hk => rw [← hk, State.setTg_tg_same]
  next hk => exact State.setTg_tg_of_ne s _ hk

theorem State.clearTg_count (s : State) {w hwset : Word} (hmet : w &&& hwset &&& RG.memTgStatus.row.w1c ≠ 0) :
    ((s.clearTg w hwset).reg .sysOverrun 0).toNat =
      min (2 ^ 32 - 1) ((s.reg .sysOverrun 0).toNat + popCount (w &&& hwset &&& RG.memTgStatus.row.w1c)) :=
  State.overrun_count hmet

/-! ## The obligation -/

/-- The event registers of R575, but MEM_TG_STATUS, which stands for the selected generator's. -/
def eventGroups : List RG :=
  [.sysStatus, .sysEvt, .sysGuilty, .timEvent, .pwrEvt, .hqPortEvt, .hqRingEvt, .xltStatus, .memStatus, .gthUpdStatus, .vstEvt, .hltEvt, .secEvt]

theorem State.writeReg_of_event {g : RG} (hg : g ∈ eventGroups) (s : State) (i : Nat) (w hwset : Word) :
    s.writeReg g i w hwset = s.clearEvents g i w hwset := by
  simp only [eventGroups, List.mem_cons, List.not_mem_nil, or_false] at hg
  obtain rfl | rfl | rfl | rfl | rfl | rfl | rfl | rfl | rfl | rfl | rfl | rfl | rfl := hg <;> rfl

/-- An aligned write to a register that is there follows the register's own rule (R563, R564). -/
theorem exec_registerWrite_of_regAt {port : Fin 4} {off : BitVec 24} {w hwset : Word} {g : RG} {i : Nat} {s : State}
    (hreach : s.reach port.val = true) (hat : regAt off.toNat = some (g, i)) (hroot : (isRoot off.toNat && s.rootsGone) = false)
    (halign : off.toNat % 4 = 0) : exec (.registerWrite port off 4 w hwset) s = .next (s.writeReg g i w hwset) := by
  change execRegisterWrite port off 4 w hwset s = _
  rw [execRegisterWrite, if_pos hreach, State.write, if_neg (by simp [halign]), hat]
  simp only [hroot, Bool.false_eq_true, if_false]

/-- Settles O57: the clears, their count and the message are one rule for all event registers, and MEM_TG_STATUS follows it in the selected
generator. -/
theorem eventBitsClearUnlessSet : Obligations.EventBitsClearUnlessSet := by
  constructor
  · intro port off w hwset g i s hreach hat hroot halign hg met
    have hoff : g.off i = off.toNat := (regAt_eq_some hat).1
    have hcount : g.off i ≠ RG.off .sysOverrun 0 := RG.off_ne_of_regAt hat (p := 0x14) (by decide) (by rintro rfl; revert hg; decide)
    have hlast : g.off i ≠ RG.off .sysOverrunLast 0 := RG.off_ne_of_regAt hat (p := 0x18) (by decide) (by rintro rfl; revert hg; decide)
    refine ⟨_, (exec_registerWrite_of_regAt hreach hat hroot halign).trans (congrArg _ (State.writeReg_of_event hg s i w hwset)),
      fun b hb hm => ?_, fun b hb hm => ?_, fun hmet h j hne => ?_, fun hmet => ?_, fun hevt hsets hon => ?_, State.clearEvents_within⟩
    · rw [State.clearEvents_flag hcount hlast, State.writeEvents_flag_of_event s w hwset hb hm]
    · rw [State.clearEvents_flag hcount hlast, State.writeEvents_flag_of_plain s w hwset hb hm]
    · exact State.clearEvents_reg_of_none hmet (hoff ▸ hne)
    · obtain ⟨hlastOff, hlastBit⟩ := State.clearEvents_last (s := s) hmet (hoff ▸ off.isLt)
      obtain ⟨-, hset, hbelow⟩ := lowBit_spec hmet
      rw [hlastBit, hlastOff]
      exact ⟨State.clearEvents_count hcount hmet, hoff, hset, hbelow⟩
    · subst hevt
      exact State.clearEvents_sysEvt_ports (RG.off_ne_of_regAt (o := 0x10) (by decide) hat (by decide)) hsets hon
  · intro port w hwset s hreach ch
    have hw1c (b : Nat) (hb : b < 4) : wbit RG.memTgStatus.row.w1c b = true := by
      revert b
      decide
    refine ⟨_, exec_registerWrite_of_regAt (g := .memTgStatus) (i := 0) hreach (by decide) (by rfl) (by decide), fun b hb => ?_,
      fun hmet => State.clearTg_count s hmet, fun k hk => ?_, (State.clearTg_kept (by decide) kept_refl).within⟩
    · have hstatus : (s.clearTg w hwset).tg ch = _ := (s.clearTg_tg w hwset ch).trans (if_pos rfl)
      change wbit ((s.clearTg w hwset).tg ch).status b = _
      rw [hstatus, wbit_and, wbit_w1cNext (by omega) (hw1c b hb), hw1c b hb, Bool.and_true]
    · exact (s.clearTg_tg w hwset k).trans (if_neg hk)

end Sys2Proof.Machine
end

section
/-! SUPPORT. What every command keeps: the parts it may touch, what has been sent, the free values, and the canonical form of every store. -/

namespace Sys2Proof.Machine

open Sys2Proof Host

/-- A command's answer is a next state that differs only in the parts that `touches` names: one arm a command, by the law of its operation. -/
theorem exec_kept (c : Instr) (s : State) : ENext (pieces (touches c)) s (exec c s) := by
  cases c <;> simp only [touches]
  case fabricTick => exact execFabricTick_kept (by decide) kept_refl
  case saddle => exact execSaddle_kept (by decide) kept_refl
  case memorySlot => exact execMemorySlot_kept (by decide) kept_refl
  case timeBeacon => exact execTimeBeacon_kept (by decide) kept_refl
  case ppsEdge => exact execPpsEdge_kept (by decide) kept_refl
  case ppsLost => exact execPpsLost_kept (by decide) kept_refl
  case trefLost => exact execTrefLost_kept (by decide) kept_refl
  case ptpSyncReceived => exact execPtpSyncReceived_kept (by decide) kept_refl
  case ptpSyncSend => exact execPtpSyncSend_kept (by decide) kept_refl
  case announceTimeout => exact execAnnounceTimeout_kept (by decide) kept_refl
  case holdoverBoundExceeded => exact execHoldoverBoundExceeded_kept (by decide) kept_refl
  case timeStep => exact execTimeStep_kept (by decide) kept_refl
  case timeDieFailure => exact execTimeDieFailure_kept (by decide) kept_refl
  case timSrcWrite => exact execTimSrcWrite_kept (by decide) kept_refl
  case ppsArm => exact execPpsArm_kept (by decide) kept_refl
  case timHoldRateWrite => exact execTimHoldRateWrite_kept (by decide) kept_refl
  case timNowLoRead => exact execTimNowLoRead_kept (by decide) kept_refl
  case loReadLatch => exact execLoReadLatch_kept (by decide) kept_refl
  case sqTail => exact execSqTail_kept (by decide) kept_refl
  case cqHead => exact execCqHead_kept (by decide) kept_refl
  case doorbellStateReq value => exact execDoorbellStateReq_kept (_value := value) (by decide) kept_refl
  case descriptorFetchDone => exact execDescriptorFetchDone_kept (by decide) kept_refl
  case forwardedDescriptor => exact execForwardedDescriptor_kept (by decide) kept_refl
  case admissionDecision => exact execAdmissionDecision_kept (by decide) kept_refl
  case admissionTimeout => exact execAdmissionTimeout_kept (by decide) kept_refl
  case completionEntryIssue => exact execCompletionEntryIssue_kept (by decide) kept_refl
  case deadlineWatch => exact execDeadlineWatch_kept (by decide) kept_refl
  case flushReadDone => exact execFlushReadDone_kept (by decide) kept_refl
  case msixWindowEnd => exact execMsixWindowEnd_kept (by decide) kept_refl
  case ringEnArm => exact execRingEnArm_kept (by decide) kept_refl
  case ringEnDisarm => exact execRingEnDisarm_kept (by decide) kept_refl
  case ringStateReq => exact execRingStateReq_kept (by decide) kept_refl
  case hqRingSeqWrite => exact execHqRingSeqWrite_kept (by decide) kept_refl
  case slotStart => exact execSlotStart_kept (by decide) kept_refl
  case stateSubmission => exact execStateSubmission_kept (by decide) kept_refl
  case nopSubmission => exact execNopSubmission_kept (by decide) kept_refl
  case imageLoad => exact execImageLoad_kept (by decide) kept_refl
  case mapList => exact execMapList_kept (by decide) kept_refl
  case withdrawCountReport => exact execWithdrawCountReport_kept (by decide) kept_refl
  case withdrawTimeout => exact execWithdrawTimeout_kept (by decide) kept_refl
  case floorAck => exact execFloorAck_kept (by decide) kept_refl
  case hold => exact execHold_kept (by decide) kept_refl
  case holdLatch => exact execHoldLatch_kept (by decide) kept_refl
  case heldEntered => exact execHeldEntered_kept (by decide) kept_refl
  case holdHostReadTimeout => exact execHoldHostReadTimeout_kept (by decide) kept_refl
  case resume => exact execResume_kept (by decide) kept_refl
  case resumeAtArrival => exact execResumeAtArrival_kept (by decide) kept_refl
  case partitionReset => exact execPartitionReset_kept (by decide) kept_refl
  case partitionResetFence => exact execPartitionResetFence_kept (by decide) kept_refl
  case partitionClearEnd => exact execPartitionClearEnd_kept (by decide) kept_refl
  case stop => exact execStop_kept (by decide) kept_refl
  case repairWithdraw => exact execRepairWithdraw_kept (by decide) kept_refl
  case repairReturn => exact execRepairReturn_kept (by decide) kept_refl
  case confirmationSweepEnd => exact execConfirmationSweepEnd_kept (by decide) kept_refl
  case wLoad => exact execWLoad_kept (by decide) kept_refl
  case pass => exact execPass_kept (by decide) kept_refl
  case veRun => exact execVeRun_kept (by decide) kept_refl
  case ftqPop => exact execFtqPop_kept (by decide) kept_refl
  case dmaRun => exact execDmaRun_kept (by decide) kept_refl
  case accRead => exact execAccRead_kept (by decide) kept_refl
  case nop => exact execNop_kept (by decide) kept_refl
  case passVerdict => exact execPassVerdict_kept (by decide) kept_refl
  case replayStart => exact execReplayStart_kept (by decide) kept_refl
  case dmaDataReady => exact execDmaDataReady_kept (by decide) kept_refl
  case slipLimit => exact execSlipLimit_kept (by decide) kept_refl
  case stepEnd => exact execStepEnd_kept (by decide) kept_refl
  case gatherStepStart => exact execGatherStepStart_kept (by decide) kept_refl
  case gatherListArrived => exact execGatherListArrived_kept (by decide) kept_refl
  case sortEnd => exact execSortEnd_kept (by decide) kept_refl
  case rowFetchReply => exact execRowFetchReply_kept (by decide) kept_refl
  case gatherOutputsWritten => exact execGatherOutputsWritten_kept (by decide) kept_refl
  case remoteCutoff => exact execRemoteCutoff_kept (by decide) kept_refl
  case gstepTimeout => exact execGstepTimeout_kept (by decide) kept_refl
  case fabricSendStep => exact execFabricSendStep_kept (by decide) kept_refl
  case hostTransferStep => exact execHostTransferStep_kept (by decide) kept_refl
  case updateBatchReadDone => exact execUpdateBatchReadDone_kept (by decide) kept_refl
  case updateRecordArrival => exact execUpdateRecordArrival_kept (by decide) kept_refl
  case updateClose => exact execUpdateClose_kept (by decide) kept_refl
  case rowCommit => exact execRowCommit_kept (by decide) kept_refl
  case updateReportSend => exact execUpdateReportSend_kept (by decide) kept_refl
  case updateReportArrival => exact execUpdateReportArrival_kept (by decide) kept_refl
  case updateReportTimeout => exact execUpdateReportTimeout_kept (by decide) kept_refl
  case memRead => exact execMemRead_kept (by decide) kept_refl
  case memWrite => exact execMemWrite_kept (by decide) kept_refl
  case memAtomic => exact execMemAtomic_kept (by decide) kept_refl
  case eccCorrectedRewrite => exact execEccCorrectedRewrite_kept (by decide) kept_refl
  case patrolScrub => exact execPatrolScrub_kept (by decide) kept_refl
  case transposeBlockTimeout => exact execTransposeBlockTimeout_kept (by decide) kept_refl
  case regionEnable => exact execRegionEnable_kept (by decide) kept_refl
  case regionRelease => exact execRegionRelease_kept (by decide) kept_refl
  case rowlockWrite => exact execRowlockWrite_kept (by decide) kept_refl
  case channelAssign => exact execChannelAssign_kept (by decide) kept_refl
  case channelRelease => exact execChannelRelease_kept (by decide) kept_refl
  case channelClearDone => exact execChannelClearDone_kept (by decide) kept_refl
  case swayAssign => exact execSwayAssign_kept (by decide) kept_refl
  case swayRelease => exact execSwayRelease_kept (by decide) kept_refl
  case wayClearDone => exact execWayClearDone_kept (by decide) kept_refl
  case rwayAssign => exact execRwayAssign_kept (by decide) kept_refl
  case rwayRelease => exact execRwayRelease_kept (by decide) kept_refl
  case tgStart => exact execTgStart_kept (by decide) kept_refl
  case tgStop => exact execTgStop_kept (by decide) kept_refl
  case tgRunEnd => exact execTgRunEnd_kept (by decide) kept_refl
  case contextEnable => exact execContextEnable_kept (by decide) kept_refl
  case contextDisable => exact execContextDisable_kept (by decide) kept_refl
  case xltSlqWrite => exact execXltSlqWrite_kept (by decide) kept_refl
  case pwinEnable => exact execPwinEnable_kept (by decide) kept_refl
  case pwinDisable => exact execPwinDisable_kept (by decide) kept_refl
  case linkDown => exact execLinkDown_kept (by decide) kept_refl
  case hostReset => exact execHostReset_kept (by decide) kept_refl
  case flr => exact execFlr_kept (by decide) kept_refl
  case linkUp => exact execLinkUp_kept (by decide) kept_refl
  case retrain => exact execRetrain_kept (by decide) kept_refl
  case hostLinkGiveup => exact execHostLinkGiveup_kept (by decide) kept_refl
  case hostReadCompletion => exact execHostReadCompletion_kept (by decide) kept_refl
  case portModeWrite => exact execPortModeWrite_kept (by decide) kept_refl
  case write => exact execWrite_kept (by decide) kept_refl
  case read => exact execRead_kept (by decide) kept_refl
  case rowRead => exact execRowRead_kept (by decide) kept_refl
  case atomic => exact execAtomic_kept (by decide) kept_refl
  case updRec => exact execUpdRec_kept (by decide) kept_refl
  case updRpt => exact execUpdRpt_kept (by decide) kept_refl
  case rsp => exact execRsp_kept (by decide) kept_refl
  case ack => exact execAck_kept (by decide) kept_refl
  case helloConnect => exact execHelloConnect_kept (by decide) kept_refl
  case helloLink => exact execHelloLink_kept (by decide) kept_refl
  case peerDown => exact execPeerDown_kept (by decide) kept_refl
  case peerUp => exact execPeerUp_kept (by decide) kept_refl
  case peerTime => exact execPeerTime_kept (by decide) kept_refl
  case ackTimer => exact execAckTimer_kept (by decide) kept_refl
  case retransmit => exact execRetransmit_kept (by decide) kept_refl
  case helloResend => exact execHelloResend_kept (by decide) kept_refl
  case peerTimeout => exact execPeerTimeout_kept (by decide) kept_refl
  case connectionIdle => exact execConnectionIdle_kept (by decide) kept_refl
  case remoteBound => exact execRemoteBound_kept (by decide) kept_refl
  case portDown => exact execPortDown_kept (by decide) kept_refl
  case portUp => exact execPortUp_kept (by decide) kept_refl
  case laneRepair => exact execLaneRepair_kept (by decide) kept_refl
  case vstIdWrite => exact execVstIdWrite_kept (by decide) kept_refl
  case vstMacWrite => exact execVstMacWrite_kept (by decide) kept_refl
  case cxlMemberEnable => exact execCxlMemberEnable_kept (by decide) kept_refl
  case serveBudgetWrite => exact execServeBudgetWrite_kept (by decide) kept_refl
  case crossingTimeout => exact execCrossingTimeout_kept (by decide) kept_refl
  case unitStateError => exact execUnitStateError_kept (by decide) kept_refl
  case drainEnd => exact execDrainEnd_kept (by decide) kept_refl
  case drainOverrun => exact execDrainOverrun_kept (by decide) kept_refl
  case cdieClearEnd => exact execCdieClearEnd_kept (by decide) kept_refl
  case deviceClearEnd => exact execDeviceClearEnd_kept (by decide) kept_refl
  case sysDevReset => exact execSysDevReset_kept (by decide) kept_refl
  case sysDevEnable => exact execSysDevEnable_kept (by decide) kept_refl
  case cdieReset => exact execCdieReset_kept (by decide) kept_refl
  case cdieEnable => exact execCdieEnable_kept (by decide) kept_refl
  case suspectReplayStart => exact execSuspectReplayStart_kept (by decide) kept_refl
  case suspectReplayEnd => exact execSuspectReplayEnd_kept (by decide) kept_refl
  case suspectReplayGiveup => exact execSuspectReplayGiveup_kept (by decide) kept_refl
  case partEnable => exact execPartEnable_kept (by decide) kept_refl
  case partDisable => exact execPartDisable_kept (by decide) kept_refl
  case coreAssign => exact execCoreAssign_kept (by decide) kept_refl
  case coreRelease => exact execCoreRelease_kept (by decide) kept_refl
  case coreClearDone => exact execCoreClearDone_kept (by decide) kept_refl
  case gthUpdCtrlWrite => exact execGthUpdCtrlWrite_kept (by decide) kept_refl
  case gthUpdQuotaWrite => exact execGthUpdQuotaWrite_kept (by decide) kept_refl
  case gthUpdCapWrite => exact execGthUpdCapWrite_kept (by decide) kept_refl
  case registerWrite => exact execRegisterWrite_kept (by decide) kept_refl
  case bootStepEnd => exact execBootStepEnd_kept (by decide) kept_refl
  case bootStepTimeout => exact execBootStepTimeout_kept (by decide) kept_refl
  case retry => exact execRetry_kept (by decide) kept_refl
  case confirm => exact execConfirm_kept (by decide) kept_refl
  case goodRecordTimer => exact execGoodRecordTimer_kept (by decide) kept_refl
  case queryDeviceIdentifiers => exact execQueryDeviceIdentifiers_kept (by decide) kept_refl
  case getFirmwareParameters => exact execGetFirmwareParameters_kept (by decide) kept_refl
  case requestUpdate => exact execRequestUpdate_kept (by decide) kept_refl
  case passComponentTable => exact execPassComponentTable_kept (by decide) kept_refl
  case updateComponent version _ => exact execUpdateComponent_kept (_version := version) (by decide) kept_refl
  case firmwareDataReceived => exact execFirmwareDataReceived_kept (by decide) kept_refl
  case activateFirmware => exact execActivateFirmware_kept (by decide) kept_refl
  case getStatus => exact execGetStatus_kept (by decide) kept_refl
  case cancelUpdateComponent => exact execCancelUpdateComponent_kept (by decide) kept_refl
  case cancelUpdate => exact execCancelUpdate_kept (by decide) kept_refl
  case activationTimeout => exact execActivationTimeout_kept (by decide) kept_refl
  case activationAbandon => exact execActivationAbandon_kept (by decide) kept_refl
  case getVersion => exact execGetVersion_kept (by decide) kept_refl
  case getCapabilities => exact execGetCapabilities_kept (by decide) kept_refl
  case negotiateAlgorithms => exact execNegotiateAlgorithms_kept (by decide) kept_refl
  case getDigests => exact execGetDigests_kept (by decide) kept_refl
  case getCertificate => exact execGetCertificate_kept (by decide) kept_refl
  case challenge => exact execChallenge_kept (by decide) kept_refl
  case getMeasurements => exact execGetMeasurements_kept (by decide) kept_refl
  case sweepPassStart => exact execSweepPassStart_kept (by decide) kept_refl
  case sweepVerdict => exact execSweepVerdict_kept (by decide) kept_refl
  case counterWriteback => exact execCounterWriteback_kept (by decide) kept_refl
  case eyeSample => exact execEyeSample_kept (by decide) kept_refl
  case agingSample => exact execAgingSample_kept (by decide) kept_refl
  case sweepSummary => exact execSweepSummary_kept (by decide) kept_refl
  case hltRingArm => exact execHltRingArm_kept (by decide) kept_refl
  case hltRingHeadWrite => exact execHltRingHeadWrite_kept (by decide) kept_refl
  case getPdr => exact execGetPdr_kept (by decide) kept_refl
  case getSensorReading => exact execGetSensorReading_kept (by decide) kept_refl
  case getStateSensorReadings => exact execGetStateSensorReadings_kept (by decide) kept_refl
  case setEventReceiver => exact execSetEventReceiver_kept (by decide) kept_refl
  case pollForPlatformEventMessage => exact execPollForPlatformEventMessage_kept (by decide) kept_refl
  case modPwrEnAssert => exact execModPwrEnAssert_kept (by decide) kept_refl
  case modPwrGood => exact execModPwrGood_kept (by decide) kept_refl
  case powerUpTimeout => exact execPowerUpTimeout_kept (by decide) kept_refl
  case modPwrEnDeassert => exact execModPwrEnDeassert_kept (by decide) kept_refl
  case modRstNDeassert => exact execModRstNDeassert_kept (by decide) kept_refl
  case modRstNAssert => exact execModRstNAssert_kept (by decide) kept_refl
  case powerFailure => exact execPowerFailure_kept (by decide) kept_refl
  case uv => exact execUv_kept (by decide) kept_refl
  case ov => exact execOv_kept (by decide) kept_refl
  case overpower => exact execOverpower_kept (by decide) kept_refl
  case thermalTrip => exact execThermalTrip_kept (by decide) kept_refl
  case thermtripTimeout => exact execThermtripTimeout_kept (by decide) kept_refl
  case tickLost => exact execTickLost_kept (by decide) kept_refl
  case tickReturn => exact execTickReturn_kept (by decide) kept_refl
  case refclkLost => exact execRefclkLost_kept (by decide) kept_refl
  case standby => exact execStandby_kept (by decide) kept_refl
  case restart => exact execRestart_kept (by decide) kept_refl
  case devReset => exact execDevReset_kept (by decide) kept_refl
  case devEnable => exact execDevEnable_kept (by decide) kept_refl
  case getState => exact execGetState_kept (by decide) kept_refl
  case ppsLoad => exact execPpsLoad_kept (by decide) kept_refl
  case holdPointTimeout => exact execHoldPointTimeout_kept (by decide) kept_refl
  case drainHostReadTimeout => exact execDrainHostReadTimeout_kept (by decide) kept_refl
  case remoteWindowClose => exact execRemoteWindowClose_kept (by decide) kept_refl
  case cxlMemCompletion => exact execCxlMemCompletion_kept (by decide) kept_refl
  case activationDone => exact execActivationDone_kept (by decide) kept_refl
  case firmwareUpdateTimeout => exact execFirmwareUpdateTimeout_kept (by decide) kept_refl
  case announceReceived => exact execAnnounceReceived_kept (by decide) kept_refl
  case followUpReceived => exact execFollowUpReceived_kept (by decide) kept_refl
  case announceSend => exact execAnnounceSend_kept (by decide) kept_refl
  case trefPresent => exact execTrefPresent_kept (by decide) kept_refl
  case refclkReturn => exact execRefclkReturn_kept (by decide) kept_refl
  case perstNDeassert => exact execPerstNDeassert_kept (by decide) kept_refl
  case fmFrameRefused => exact execFmFrameRefused_kept (by decide) kept_refl
  case frameDropped cause => exact execFrameDropped_kept (_cause := cause) (by decide) kept_refl
  case malformedSpdmRequest => exact execMalformedSpdmRequest_kept (by decide) kept_refl
  case malformedCommand => exact execMalformedCommand_kept (by decide) kept_refl
  case bottomLevelTreeBuilt => exact execBottomLevelTreeBuilt_kept (by decide) kept_refl

theorem exec_next_kept {c : Instr} {s t : State} (h : exec c s = .next t) : Kept (pieces (touches c)) s t := by
  obtain ⟨u, hu, hk⟩ := exec_kept c s
  cases hu.symm.trans h
  exact hk

/-- No command names the queue among the parts it may touch. -/
theorem touches_not_pending (c : Instr) : (pieces (touches c)).testBit (Piece.bit .pending) = false := by
  cases c <;> simp only [touches] <;> rfl

/-- A command that does not name a part leaves it. -/
theorem exec_same_of_untouched {c : Instr} {s t : State} (h : exec c s = .next t) {p : Piece} (hp : (pieces (touches c)).testBit p.bit = false) :
    p.same s t :=
  (exec_next_kept h).within p hp

/-- Settles O6: the law of each operation says what it keeps, and no command names the queue. -/
theorem commandsKeepTheirFrame : Obligations.CommandsKeepTheirFrame := by
  refine ⟨fun c s => ?_, fun c s t h => ?_⟩
  · obtain ⟨t, ht, hk⟩ := exec_kept c s
    exact ⟨t, ht, hk.within⟩
  · have hk := exec_next_kept h
    exact ⟨hk.out, hk.free, hk.within .pending (touches_not_pending c)⟩

/-- The queue stands outside the canonical form. -/
theorem State.Canonical.of_pending {s : State} (h : s.Canonical) (l : List Instr) : State.Canonical { s with pending := l } := by
  obtain ⟨mem, now, beacons, latches, parts, rings, ports, arrays, cores, engines, books, gens, fports, cdies, doms, boot, roots, units, mram, sensors⟩ := h
  exact ⟨mem, now, beacons, latches, parts, rings, ports, arrays, cores, engines, books, gens, fports, cdies, doms, boot, roots, units, mram, sensors⟩

/-- Settles O5: an empty queue changes nothing, and every command keeps the canonical form. -/
theorem stepKeepsCanonicalForm : Obligations.StepKeepsCanonicalForm := by
  intro s t hs ht
  unfold step at ht
  split at ht
  case h_1 => cases ht; exact hs
  case h_2 c rest _ => exact (exec_next_kept ht).canon (hs.of_pending rest)

/-- Settles O4: at reset every store but the counts is empty. -/
theorem resetIsCanonical : Obligations.ResetIsCanonical :=
  ⟨⟨rfl, rfl, rfl, rfl, rfl, rfl, rfl, rfl, rfl, rfl⟩, by decide, rfl, rfl, rfl, rfl, rfl, rfl, rfl, rfl, rfl, rfl, rfl, rfl, rfl, rfl, rfl, rfl, rfl, rfl⟩

/-- Settles O1: the front command is the one that the step runs. -/
theorem stepRunsTheFrontCommand : Obligations.StepRunsTheFrontCommand :=
  fun _ _ => rfl

/-- Settles O2: the queue alone decides. -/
theorem emptyQueueIdles : Obligations.EmptyQueueIdles := by
  intro s h
  unfold step
  rw [h]

end Sys2Proof.Machine
end

section
/-! SUPPORT. The memory code: syndromes are linear, and no three columns of the code are dependent (R320 to R322). -/

namespace Sys2Proof.Machine

open Sys2Proof

/-! ## The field -/

/-- The product table of GF(16), one symbol a product: a faster way to the same products. -/
def gfTable : Nat :=
  0xa5783ce1b4692df05ba48679c23d1fe07ae36bf258c149d0843fd16a2e957bc0386d92c74f1ae5b0c6b1285f394ed7a0e7f6c5d4a3b28190192a7f4cd5e6b380bc5243ad618f9e70428ef93517dbac6063c914be8d27fa509d15ae26fb73c8402147ed8b9afc5630df9b5713eca86420fedcba98765432100000000000000000

/-- A product by the table. -/
def gfLook (a b : Nat) : Nat := gfTable >>> (4 * (16 * a + b)) % 16

theorem gfLook_eq_fin : ∀ a b : Fin 16, gfLook a.val b.val = gfMul a.val b.val := by decide

theorem gfMul_eq_look {a b : Nat} (ha : a < 16) (hb : b < 16) : gfMul a b = gfLook a b := (gfLook_eq_fin ⟨a, ha⟩ ⟨b, hb⟩).symm

theorem gfLook_lt (a b : Nat) : gfLook a b < 16 := Nat.mod_lt _ (by decide)

theorem gfMul_lt {a b : Nat} (ha : a < 16) (hb : b < 16) : gfMul a b < 16 := gfMul_eq_look ha hb ▸ gfLook_lt a b

/-- Products are distributive on both sides and associative. -/
theorem gfLook_ring_fin : ∀ a b c : Fin 16, gfLook (a.val ^^^ b.val) c.val = gfLook a.val c.val ^^^ gfLook b.val c.val ∧
    gfLook a.val (b.val ^^^ c.val) = gfLook a.val b.val ^^^ gfLook a.val c.val ∧
    gfLook (gfLook a.val b.val) c.val = gfLook a.val (gfLook b.val c.val) := by decide +kernel

/-- Every symbol but 0 has an inverse. -/
theorem gfLook_inverse_fin : ∀ e : Fin 16, e.val ≠ 0 → ∃ g : Fin 16, g.val ≠ 0 ∧ gfLook g.val e.val = 1 := by decide

theorem gfLook_ne_zero_fin : ∀ a b : Fin 16, a.val ≠ 0 → b.val ≠ 0 → gfLook a.val b.val ≠ 0 := by decide

theorem xor_lt_16 {a b : Nat} (ha : a < 16) (hb : b < 16) : a ^^^ b < 16 := Nat.xor_lt_two_pow (n := 4) ha hb

/-! ## Syndromes as vectors of four symbols -/

/-- Syndromes add symbol by symbol. -/
theorem add_mul_xor {a b : Nat} (ha : a < 16) (hb : b < 16) (u v : Nat) : (a + 16 * u) ^^^ (b + 16 * v) = (a ^^^ b) + 16 * (u ^^^ v) := by
  have hmod : ((a + 16 * u) ^^^ (b + 16 * v)) % 16 = a ^^^ b := by
    rw [Nat.xor_mod_two_pow (n := 4)]
    congr 1 <;> omega
  have hdiv : ((a + 16 * u) ^^^ (b + 16 * v)) / 16 = u ^^^ v := by
    rw [Nat.xor_div_two_pow (n := 4)]
    congr 1 <;> omega
  rw [← Nat.mod_add_div ((a + 16 * u) ^^^ (b + 16 * v)) 16, hmod, hdiv]

theorem mkSyn_eq (a b c d : Nat) : mkSyn a b c d = a + 16 * (b + 16 * (c + 16 * d)) := by
  unfold mkSyn
  ring

theorem mkSyn_xor {a b c a' b' c' : Nat} (d d' : Nat) (ha : a < 16) (hb : b < 16) (hc : c < 16) (ha' : a' < 16) (hb' : b' < 16) (hc' : c' < 16) :
    mkSyn a b c d ^^^ mkSyn a' b' c' d' = mkSyn (a ^^^ a') (b ^^^ b') (c ^^^ c') (d ^^^ d') := by
  rw [mkSyn_eq, mkSyn_eq, mkSyn_eq, add_mul_xor ha ha', add_mul_xor hb hb', add_mul_xor hc hc']

/-- Symbol by symbol product by the table. -/
def lookScale (e : Nat) (v : Syn) : Syn :=
  mkSyn (gfLook e (v % 16)) (gfLook e (v / 16 % 16)) (gfLook e (v / 256 % 16)) (gfLook e (v / 4096 % 16))

theorem synScale_eq_look {e : Nat} (he : e < 16) (v : Syn) : synScale e v = lookScale e v := by
  have hmod (n : Nat) : n % 16 < 16 := Nat.mod_lt _ (by decide)
  rw [synScale, lookScale, gfMul_eq_look he (hmod _), gfMul_eq_look he (hmod _), gfMul_eq_look he (hmod _), gfMul_eq_look he (hmod _)]

theorem mkSyn_lt {a b c d : Nat} (ha : a < 16) (hb : b < 16) (hc : c < 16) (hd : d < 16) : mkSyn a b c d < 65536 := by
  change a + 16 * b + 256 * c + 4096 * d < 65536
  omega

theorem lookScale_lt (e : Nat) (v : Syn) : lookScale e v < 65536 :=
  mkSyn_lt (gfLook_lt _ _) (gfLook_lt _ _) (gfLook_lt _ _) (gfLook_lt _ _)

theorem lookScale_xor_left {e f : Nat} (he : e < 16) (hf : f < 16) (v : Syn) : lookScale (e ^^^ f) v = lookScale e v ^^^ lookScale f v := by
  have hsym (n : Nat) : gfLook (e ^^^ f) (n % 16) = gfLook e (n % 16) ^^^ gfLook f (n % 16) :=
    (gfLook_ring_fin ⟨e, he⟩ ⟨f, hf⟩ ⟨n % 16, Nat.mod_lt _ (by decide)⟩).1
  simp only [lookScale]
  rw [mkSyn_xor _ _ (gfLook_lt _ _) (gfLook_lt _ _) (gfLook_lt _ _) (gfLook_lt _ _) (gfLook_lt _ _) (gfLook_lt _ _), hsym, hsym, hsym, hsym]

theorem lookScale_xor_right {e : Nat} (he : e < 16) (v w : Syn) : lookScale e (v ^^^ w) = lookScale e v ^^^ lookScale e w := by
  have hsym (k : Nat) : gfLook e ((v ^^^ w) / 2 ^ k % 16) = gfLook e (v / 2 ^ k % 16) ^^^ gfLook e (w / 2 ^ k % 16) := by
    rw [Nat.xor_div_two_pow, Nat.xor_mod_two_pow (n := 4)]
    exact (gfLook_ring_fin ⟨e, he⟩ ⟨v / 2 ^ k % 16, Nat.mod_lt _ (by decide)⟩ ⟨w / 2 ^ k % 16, Nat.mod_lt _ (by decide)⟩).2.1
  have h0 : gfLook e ((v ^^^ w) % 16) = gfLook e (v % 16) ^^^ gfLook e (w % 16) := by simpa using hsym 0
  have h1 : gfLook e ((v ^^^ w) / 16 % 16) = gfLook e (v / 16 % 16) ^^^ gfLook e (w / 16 % 16) := hsym 4
  have h2 : gfLook e ((v ^^^ w) / 256 % 16) = gfLook e (v / 256 % 16) ^^^ gfLook e (w / 256 % 16) := hsym 8
  have h3 : gfLook e ((v ^^^ w) / 4096 % 16) = gfLook e (v / 4096 % 16) ^^^ gfLook e (w / 4096 % 16) := hsym 12
  simp only [lookScale]
  rw [mkSyn_xor _ _ (gfLook_lt _ _) (gfLook_lt _ _) (gfLook_lt _ _) (gfLook_lt _ _) (gfLook_lt _ _) (gfLook_lt _ _), h0, h1, h2, h3]

theorem mkSyn_symbols {a b c d : Nat} (ha : a < 16) (hb : b < 16) (hc : c < 16) (hd : d < 16) :
    mkSyn a b c d % 16 = a ∧ mkSyn a b c d / 16 % 16 = b ∧ mkSyn a b c d / 256 % 16 = c ∧ mkSyn a b c d / 4096 % 16 = d := by
  have hsum (n : Nat) (hn : n = a + 16 * b + 256 * c + 4096 * d) : n % 16 = a ∧ n / 16 % 16 = b ∧ n / 256 % 16 = c ∧ n / 4096 % 16 = d := by omega
  exact hsum _ rfl

theorem lookScale_lookScale {e f : Nat} (he : e < 16) (hf : f < 16) (v : Syn) : lookScale e (lookScale f v) = lookScale (gfLook e f) v := by
  have hsym (n : Nat) : gfLook e (gfLook f (n % 16)) = gfLook (gfLook e f) (n % 16) :=
    (gfLook_ring_fin ⟨e, he⟩ ⟨f, hf⟩ ⟨n % 16, Nat.mod_lt _ (by decide)⟩).2.2.symm
  obtain ⟨ha, hb, hc, hd⟩ := mkSyn_symbols (gfLook_lt f (v % 16)) (gfLook_lt f (v / 16 % 16)) (gfLook_lt f (v / 256 % 16)) (gfLook_lt f (v / 4096 % 16))
  rw [lookScale, lookScale, ha, hb, hc, hd, hsym, hsym, hsym, hsym, lookScale]

theorem lookScale_one_fin : ∀ a : Fin 16, gfLook 1 a.val = a.val := by decide

theorem mkSyn_of_symbols {v : Nat} (hv : v < 65536) : mkSyn (v % 16) (v / 16 % 16) (v / 256 % 16) (v / 4096 % 16) = v := by
  change v % 16 + 16 * (v / 16 % 16) + 256 * (v / 256 % 16) + 4096 * (v / 4096 % 16) = v
  omega

theorem lookScale_one {v : Nat} (hv : v < 65536) : lookScale 1 v = v := by
  have hsym (n : Nat) : gfLook 1 (n % 16) = n % 16 := lookScale_one_fin ⟨n % 16, Nat.mod_lt _ (by decide)⟩
  rw [lookScale, hsym, hsym, hsym, hsym, mkSyn_of_symbols hv]

theorem gfLook_zero_fin : ∀ a : Fin 16, gfLook 0 a.val = 0 ∧ gfLook a.val 0 = 0 := by decide

theorem lookScale_zero (v : Syn) : lookScale 0 v = 0 := by
  have hsym (n : Nat) : gfLook 0 (n % 16) = 0 := (gfLook_zero_fin ⟨n % 16, Nat.mod_lt _ (by decide)⟩).1
  rw [lookScale, hsym, hsym, hsym, hsym]
  rfl

theorem lookScale_of_zero {e : Nat} (he : e < 16) : lookScale e 0 = 0 := by
  have hsym : gfLook e 0 = 0 := (gfLook_zero_fin ⟨e, he⟩).2
  simp [lookScale, hsym, mkSyn]

/-! ## The columns: no sum of two is a multiple of a third, of the poison's syndrome, or 0 -/

/-- The columns of the code, by position. -/
def codeCols : List Syn :=
  [25089, 21009, 25121, 21041, 53825, 57937, 53857, 57969, 37505, 41617, 37537, 41649, 8897, 4817, 8929, 4849, 58113, 49937, 49953, 58161, 4929, 13137,
    13153, 4977, 45969, 45985, 37809, 25537, 17361, 17377, 25585, 5249, 4096, 1, 4113, 33025]

theorem codeCols_eq : codeCols = (List.range 36).map codeCol := by decide

theorem codeCol_eq {i : Nat} (hi : i < codeCols.length) : codeCols[i] = codeCol i := by
  simp [codeCols_eq]

theorem codeCol_mem {i : Nat} (hi : i < 36) : codeCol i ∈ codeCols := codeCol_eq (i := i) hi ▸ List.getElem_mem _

/-- The form that vanishes on every column, and on no sum of two. -/
def synForm (v : Syn) : Nat :=
  gfLook (v % 16) (v / 4096 % 16) ^^^ gfLook (v / 16 % 16) (v / 16 % 16) ^^^ gfLook (v / 16 % 16) (v / 256 % 16) ^^^
    gfLook 8 (gfLook (v / 256 % 16) (v / 256 % 16))

/-- As far as the form tells, a syndrome is a multiple of a column; or it is a multiple of the poison's syndrome. -/
def synNear (v : Syn) : Bool := (v % 16 == 0 && v / 16 % 16 == 0 && v / 4096 % 16 == 0) || synForm v == 0

/-- The symbols that an error can be. -/
def symbols : List Nat := [1, 2, 3, 4, 5, 6, 7, 8, 9, 10, 11, 12, 13, 14, 15]

theorem mem_symbols {e : Nat} : e ∈ symbols ↔ 0 < e ∧ e < 16 := by
  simp only [symbols, List.mem_cons, List.not_mem_nil, or_false]
  omega

theorem not_synNear_of_two : codeCols.Pairwise fun v w => ∀ f ∈ symbols, synNear (v ^^^ lookScale f w) = false := by decide +kernel

theorem synNear_of_poison : ∀ e ∈ symbols, synNear (lookScale e (mkSyn 0 0 1 0)) = true := by decide

/-- A multiple of a column is one as far as the form tells, and neither 0 nor the poison's syndrome. -/
theorem lookScale_col : ∀ v ∈ codeCols, ∀ e ∈ symbols, synNear (lookScale e v) = true ∧ lookScale e v ≠ 0 ∧ lookScale e v ≠ mkSyn 0 0 1 0 := by
  decide +kernel

theorem gfLook_symbol {e f : Nat} (he : 0 < e ∧ e < 16) (hf : 0 < f ∧ f < 16) : 0 < gfLook e f ∧ gfLook e f < 16 :=
  ⟨Nat.pos_of_ne_zero (gfLook_ne_zero_fin ⟨e, he.2⟩ ⟨f, hf.2⟩ he.1.ne' hf.1.ne'), gfLook_lt _ _⟩

theorem exists_gfLook_inverse {e : Nat} (he : 0 < e ∧ e < 16) : ∃ g, (0 < g ∧ g < 16) ∧ gfLook g e = 1 := by
  obtain ⟨g, hg, hmul⟩ := gfLook_inverse_fin ⟨e, he.2⟩ he.1.ne'
  exact ⟨g.val, ⟨Nat.pos_of_ne_zero hg, g.isLt⟩, hmul⟩

theorem codeCol_lt {i : Nat} (hi : i < 36) : codeCol i < 65536 := by
  have hcols : ∀ v ∈ codeCols, v < 65536 := by decide
  exact hcols _ (codeCol_mem hi)

theorem exists_not_synNear_of_lt {i j e f : Nat} (hi : i < 36) (hj : j < 36) (hij : i < j) (he : 0 < e ∧ e < 16) (hf : 0 < f ∧ f < 16) :
    ∃ m, (0 < m ∧ m < 16) ∧ synNear (lookScale m (lookScale e (codeCol i) ^^^ lookScale f (codeCol j))) = false := by
  obtain ⟨m, hm, hmul⟩ := exists_gfLook_inverse he
  refine ⟨m, hm, ?_⟩
  have hi' : i < codeCols.length := hi
  have hj' : j < codeCols.length := hj
  have hpair := List.pairwise_iff_getElem.mp not_synNear_of_two i j hi' hj' hij (gfLook m f) (mem_symbols.mpr (gfLook_symbol hm hf))
  rw [codeCol_eq, codeCol_eq] at hpair
  rwa [lookScale_xor_right hm.2, lookScale_lookScale hm.2 he.2, lookScale_lookScale hm.2 hf.2, hmul, lookScale_one (codeCol_lt hi)]

/-- A sum of multiples of two columns has a multiple that the form tells from every multiple of a column, of the poison's syndrome and of 0. -/
theorem exists_not_synNear {i j e f : Nat} (hi : i < 36) (hj : j < 36) (hne : i ≠ j) (he : 0 < e ∧ e < 16) (hf : 0 < f ∧ f < 16) :
    ∃ m, (0 < m ∧ m < 16) ∧ synNear (lookScale m (lookScale e (codeCol i) ^^^ lookScale f (codeCol j))) = false := by
  rcases Nat.lt_or_gt_of_ne hne with h | h
  · exact exists_not_synNear_of_lt hi hj h he hf
  · rw [Nat.xor_comm]
    exact exists_not_synNear_of_lt hj hi h hf he

section
variable {i j e f : Nat} (hi : i < 36) (hj : j < 36) (hne : i ≠ j) (he : 0 < e ∧ e < 16) (hf : 0 < f ∧ f < 16)
include hi hj hne he hf

theorem two_columns_ne_zero : lookScale e (codeCol i) ^^^ lookScale f (codeCol j) ≠ 0 := by
  obtain ⟨m, hm, hfar⟩ := exists_not_synNear hi hj hne he hf
  intro h
  rw [h, lookScale_of_zero hm.2] at hfar
  exact Bool.noConfusion hfar

theorem two_columns_ne_poison : lookScale e (codeCol i) ^^^ lookScale f (codeCol j) ≠ mkSyn 0 0 1 0 := by
  obtain ⟨m, hm, hfar⟩ := exists_not_synNear hi hj hne he hf
  intro h
  rw [h, synNear_of_poison m (mem_symbols.mpr hm)] at hfar
  exact Bool.noConfusion hfar

theorem two_columns_ne_column {k g : Nat} (hk : k < 36) (hg : 0 < g ∧ g < 16) :
    lookScale e (codeCol i) ^^^ lookScale f (codeCol j) ≠ lookScale g (codeCol k) := by
  obtain ⟨m, hm, hfar⟩ := exists_not_synNear hi hj hne he hf
  intro h
  rw [h, lookScale_lookScale hm.2 hg.2, (lookScale_col _ (codeCol_mem hk) _ (mem_symbols.mpr (gfLook_symbol hm hg))).1] at hfar
  exact Bool.noConfusion hfar

end

theorem column_ne_zero {i e : Nat} (hi : i < 36) (he : 0 < e ∧ e < 16) : lookScale e (codeCol i) ≠ 0 :=
  (lookScale_col _ (codeCol_mem hi) e (mem_symbols.mpr he)).2.1

theorem column_ne_poison {i e : Nat} (hi : i < 36) (he : 0 < e ∧ e < 16) : lookScale e (codeCol i) ≠ mkSyn 0 0 1 0 :=
  (lookScale_col _ (codeCol_mem hi) e (mem_symbols.mpr he)).2.2

/-- The sum of two multiples of one column is 0 or a multiple of it. -/
theorem same_column_sum {i e f : Nat} (he : e < 16) (hf : f < 16) (hne : e ≠ f) :
    ∃ g, (0 < g ∧ g < 16) ∧ lookScale e (codeCol i) ^^^ lookScale f (codeCol i) = lookScale g (codeCol i) :=
  ⟨e ^^^ f, ⟨Nat.pos_of_ne_zero fun h => hne (Nat.xor_eq_zero_iff.mp h), xor_lt_16 he hf⟩, (lookScale_xor_left he hf _).symm⟩

/-- One symbol in error gives its own syndrome, and no other the same (R322). -/
theorem column_injective {i j e f : Nat} (hi : i < 36) (hj : j < 36) (he : 0 < e ∧ e < 16) (hf : 0 < f ∧ f < 16)
    (h : lookScale e (codeCol i) = lookScale f (codeCol j)) : i = j ∧ e = f := by
  have hsum : lookScale e (codeCol i) ^^^ lookScale f (codeCol j) = 0 := by rw [h, Nat.xor_self]
  by_cases hij : i = j
  · subst hij
    refine ⟨rfl, by_contra fun hef => ?_⟩
    obtain ⟨g, hg, hg'⟩ := same_column_sum (i := i) he.2 hf.2 hef
    exact column_ne_zero hi hg (hg' ▸ hsum)
  · exact absurd hsum (two_columns_ne_zero hi hj hij he hf)

/-- A poisoned granule with one symbol in error looks like nothing that the decoder knows (R321, R322). -/
theorem poisoned_column_ne {i e : Nat} (hi : i < 36) (he : 0 < e ∧ e < 16) :
    lookScale e (codeCol i) ^^^ mkSyn 0 0 1 0 ≠ 0 ∧ lookScale e (codeCol i) ^^^ mkSyn 0 0 1 0 ≠ mkSyn 0 0 1 0 ∧
      ∀ k g, k < 36 → 0 < g ∧ g < 16 → lookScale e (codeCol i) ^^^ mkSyn 0 0 1 0 ≠ lookScale g (codeCol k) := by
  refine ⟨fun h => column_ne_poison hi he (Nat.xor_eq_zero_iff.mp h), fun h => column_ne_zero hi he ?_, fun k g hk hg h => ?_⟩
  · have := congrArg (· ^^^ mkSyn 0 0 1 0) h
    simpa [Nat.xor_assoc] using this
  · have hsum : lookScale e (codeCol i) ^^^ lookScale g (codeCol k) = mkSyn 0 0 1 0 := by
      rw [← h, ← Nat.xor_assoc, Nat.xor_self, Nat.zero_xor]
    by_cases hik : i = k
    · subst hik
      by_cases heg : e = g
      · subst heg
        rw [Nat.xor_self] at hsum
        exact absurd hsum (by decide)
      · obtain ⟨m, hm, hm'⟩ := same_column_sum (i := i) he.2 hg.2 heg
        exact column_ne_poison hi hm (hm' ▸ hsum)
    · exact two_columns_ne_poison hi hk hik he hg hsum

/-! ## Decoding by the syndrome (R322) -/

theorem findError_of_some {v : Syn} {p : Nat × Nat} (h : findError v = some p) :
    p.1 < 36 ∧ (0 < p.2 ∧ p.2 < 16) ∧ synScale p.2 (codeCol p.1) = v := by
  obtain ⟨i, hi, h⟩ := List.exists_of_findSome?_eq_some h
  obtain ⟨e, he, h⟩ := List.exists_of_findSome?_eq_some h
  rw [List.mem_range] at hi he
  split at h
  case isTrue hv =>
    cases h
    exact ⟨hi, ⟨Nat.succ_pos _, Nat.succ_lt_succ he⟩, hv⟩
  case isFalse => cases h

theorem findError_eq_none_iff {v : Syn} : findError v = none ↔ ∀ i e, i < 36 → 0 < e ∧ e < 16 → v ≠ synScale e (codeCol i) := by
  simp only [findError, List.findSome?_eq_none_iff, List.mem_range]
  refine ⟨fun h i e hi he hv => ?_, fun h i hi e he => if_neg fun hv => h i (e + 1) hi ⟨Nat.succ_pos _, Nat.succ_lt_succ he⟩ hv.symm⟩
  have := h i hi (e - 1) (by omega)
  rw [Nat.sub_add_cancel he.1, if_pos hv.symm] at this
  cases this

/-- The decoder finds the one symbol that explains a syndrome. -/
theorem findError_column {i e : Nat} (hi : i < 36) (he : 0 < e ∧ e < 16) : findError (synScale e (codeCol i)) = some (i, e) := by
  cases h : findError (synScale e (codeCol i)) with
  | none => exact absurd rfl (findError_eq_none_iff.mp h i e hi he)
  | some p =>
    obtain ⟨hp, hp2, hcol⟩ := findError_of_some h
    rw [synScale_eq_look hp2.2, synScale_eq_look he.2] at hcol
    obtain ⟨hpos, hval⟩ := column_injective hp hi hp2 he hcol
    rw [← hpos, ← hval]

theorem decodeWord_of_zero {data check : Nat} (h : syndrome data check = 0) : decodeWord data check = .clean := by
  rw [decodeWord, if_pos h]

theorem decodeWord_of_poison {data check : Nat} (h : syndrome data check = mkSyn 0 0 1 0) : decodeWord data check = .poisoned := by
  rw [decodeWord, if_neg (by rw [h]; decide), if_pos h]

theorem decodeWord_of_column {data check i e : Nat} (hi : i < 36) (he : 0 < e ∧ e < 16) (h : syndrome data check = synScale e (codeCol i)) :
    decodeWord data check = .corrected i (if i < 32 then Nat.xor data (e * 2 ^ (4 * i)) else data) := by
  have hcol := synScale_eq_look he.2 (codeCol i)
  rw [decodeWord, h, if_neg (hcol ▸ column_ne_zero hi he), if_neg (hcol ▸ column_ne_poison hi he), findError_column hi he]

theorem decodeWord_of_none {data check : Nat} (h0 : syndrome data check ≠ 0) (hp : syndrome data check ≠ mkSyn 0 0 1 0)
    (hone : ∀ i e, i < 36 → 0 < e ∧ e < 16 → syndrome data check ≠ synScale e (codeCol i)) : decodeWord data check = .uncorrectable := by
  rw [decodeWord, if_neg h0, if_neg hp, findError_eq_none_iff.mpr hone]

/-! ## Syndromes are linear in what is stored (R320) -/

theorem synSum_xor (n i v w : Nat) : synSum n i (v ^^^ w) = synSum n i v ^^^ synSum n i w := by
  induction n generalizing i v w with
  | zero => exact (Nat.xor_self 0).symm
  | succ n ih =>
    have hlow (u : Nat) : u % 16 < 16 := Nat.mod_lt _ (by decide)
    have hmod : (v ^^^ w) % 16 = (v % 16) ^^^ (w % 16) := Nat.xor_mod_two_pow (n := 4)
    have hdiv : (v ^^^ w) / 16 = (v / 16) ^^^ (w / 16) := Nat.xor_div_two_pow (n := 4)
    change synScale ((v ^^^ w) % 16) (codeCol i) ^^^ synSum n (i + 1) ((v ^^^ w) / 16) =
      (synScale (v % 16) (codeCol i) ^^^ synSum n (i + 1) (v / 16)) ^^^ (synScale (w % 16) (codeCol i) ^^^ synSum n (i + 1) (w / 16))
    rw [hdiv, ih, hmod, synScale_eq_look (xor_lt_16 (hlow v) (hlow w)), lookScale_xor_left (hlow v) (hlow w), synScale_eq_look (hlow v),
      synScale_eq_look (hlow w)]
    ac_rfl

theorem syndrome_xor (d c d' c' : Nat) : syndrome (d ^^^ d') (c ^^^ c') = syndrome d c ^^^ syndrome d' c' := by
  change synSum 32 0 (d ^^^ d') ^^^ synSum 4 32 (c ^^^ c') = (synSum 32 0 d ^^^ synSum 4 32 c) ^^^ (synSum 32 0 d' ^^^ synSum 4 32 c')
  rw [synSum_xor, synSum_xor]
  ac_rfl

theorem synSum_zero (n i : Nat) : synSum n i 0 = 0 := by
  have h := synSum_xor n i 0 0
  rw [Nat.xor_self] at h
  rw [h, Nat.xor_self]

/-- One symbol alone gives the multiple of its column. -/
theorem synSum_symbol {n k e : Nat} (i : Nat) (hk : k < n) (he : e < 16) : synSum n i (e * 16 ^ k) = lookScale e (codeCol (i + k)) := by
  induction n generalizing i k with
  | zero => omega
  | succ n ih =>
    change synScale (e * 16 ^ k % 16) (codeCol i) ^^^ synSum n (i + 1) (e * 16 ^ k / 16) = _
    cases k with
    | zero =>
      rw [pow_zero, Nat.mul_one, Nat.mod_eq_of_lt he, Nat.div_eq_of_lt he, synSum_zero, Nat.xor_zero, synScale_eq_look he, Nat.add_zero]
    | succ k =>
      have hmod : e * 16 ^ (k + 1) % 16 = 0 := by rw [pow_succ, ← Nat.mul_assoc, Nat.mul_mod_left]
      have hdiv : e * 16 ^ (k + 1) / 16 = e * 16 ^ k := by rw [pow_succ, ← Nat.mul_assoc, Nat.mul_div_cancel _ (by decide)]
      rw [hmod, hdiv, ih (i + 1) (by omega), synScale_eq_look (by decide), lookScale_zero, Nat.zero_xor, Nat.add_right_comm, Nat.add_assoc]

theorem synSum_lt (n i v : Nat) : synSum n i v < 65536 := by
  induction n generalizing i v with
  | zero => exact (by decide : (0 : Nat) < 65536)
  | succ n ih =>
    have hlow : v % 16 < 16 := Nat.mod_lt _ (by decide)
    exact Nat.xor_lt_two_pow (n := 16) (synScale_eq_look hlow _ ▸ lookScale_lt _ _) (ih _ _)

/-! ## The encoder (R320) -/

/-- The multiples of the columns of the check symbols. -/
theorem checkCols_fin : ∀ c : Fin 16, lookScale c.val (codeCol 32) = mkSyn 0 0 0 c.val ∧ lookScale c.val (codeCol 33) = mkSyn c.val 0 0 0 ∧
    lookScale c.val (codeCol 34) = mkSyn c.val c.val 0 c.val ∧ lookScale c.val (codeCol 35) = mkSyn c.val 0 c.val (gfMul 8 c.val) := by
  decide

theorem synSum_check {a b c d : Nat} (ha : a < 16) (hb : b < 16) (hc : c < 16) (hd : d < 16) :
    synSum 4 32 (mkSyn a b c d) = mkSyn (b ^^^ c ^^^ d) c d (a ^^^ c ^^^ gfMul 8 d) := by
  obtain ⟨h0, h1, h2, h3⟩ := mkSyn_symbols ha hb hc hd
  obtain ⟨k0, -⟩ := checkCols_fin ⟨a, ha⟩
  obtain ⟨-, k1, -⟩ := checkCols_fin ⟨b, hb⟩
  obtain ⟨-, -, k2, -⟩ := checkCols_fin ⟨c, hc⟩
  obtain ⟨-, -, -, k3⟩ := checkCols_fin ⟨d, hd⟩
  change synScale (mkSyn a b c d % 16) (codeCol 32) ^^^ (synScale (mkSyn a b c d / 16 % 16) (codeCol 33) ^^^
    (synScale (mkSyn a b c d / 16 / 16 % 16) (codeCol 34) ^^^ (synScale (mkSyn a b c d / 16 / 16 / 16 % 16) (codeCol 35) ^^^ 0))) = _
  rw [Nat.div_div_eq_div_mul, Nat.div_div_eq_div_mul, h0, h1, h2, h3, synScale_eq_look ha, synScale_eq_look hb, synScale_eq_look hc,
    synScale_eq_look hd, k0, k1, k2, k3, Nat.xor_zero, mkSyn_xor _ _ hc hc (by decide) hd (by decide) hd,
    mkSyn_xor _ _ hb (by decide) (by decide) (xor_lt_16 hc hd) (xor_lt_16 hc (by decide)) (xor_lt_16 (by decide) hd),
    mkSyn_xor _ _ (by decide) (by decide) (by decide) (xor_lt_16 hb (xor_lt_16 hc hd)) (xor_lt_16 (by decide) (xor_lt_16 hc (by decide)))
      (xor_lt_16 (by decide) (xor_lt_16 (by decide) hd))]
  simp only [Nat.xor_zero, Nat.zero_xor, Nat.xor_assoc]

/-- The four symbols of the check value (R320). -/
theorem encodeCheck_eq (data : Nat) :
    let d := synSum 32 0 data
    encodeCheck data = mkSyn (d / 4096 % 16 ^^^ d / 16 % 16 ^^^ gfMul 8 (d / 256 % 16)) (d % 16 ^^^ d / 16 % 16 ^^^ d / 256 % 16) (d / 16 % 16)
      (d / 256 % 16) := rfl

theorem syndrome_encodeCheck (data : Nat) : syndrome data (encodeCheck data) = 0 := by
  have hlow (u : Nat) : u % 16 < 16 := Nat.mod_lt _ (by decide)
  have htwice (x y z : Nat) : x ^^^ y ^^^ z ^^^ y ^^^ z = x := by
    have : x ^^^ y ^^^ z ^^^ y ^^^ z = x ^^^ (y ^^^ y) ^^^ (z ^^^ z) := by ac_rfl
    rw [this, Nat.xor_self, Nat.xor_self, Nat.xor_zero, Nat.xor_zero]
  have hd := synSum_lt 32 0 data
  change synSum 32 0 data ^^^ synSum 4 32 (encodeCheck data) = 0
  rw [encodeCheck_eq]
  generalize synSum 32 0 data = d at hd ⊢
  rw [synSum_check (xor_lt_16 (xor_lt_16 (hlow _) (hlow _)) (gfMul_lt (by decide) (hlow _))) (xor_lt_16 (xor_lt_16 (hlow _) (hlow _)) (hlow _))
    (hlow _) (hlow _), htwice, htwice, mkSyn_of_symbols hd, Nat.xor_self]

/-! ## Stored words: 32 data symbols and 4 check symbols (R320) -/

/-- Syndrome of a stored word. -/
def wordSyn (x : Nat) : Syn := syndrome (x % 2 ^ 128) (x / 2 ^ 128)

theorem wordSyn_xor (x y : Nat) : wordSyn (x ^^^ y) = wordSyn x ^^^ wordSyn y := by
  rw [wordSyn, Nat.xor_mod_two_pow, Nat.xor_div_two_pow, syndrome_xor, wordSyn, wordSyn]

theorem wordSyn_stored {d : Nat} (hd : d < 2 ^ 128) : wordSyn (d + 2 ^ 128 * encodeCheck d) = 0 := by
  rw [wordSyn, Nat.add_mul_mod_self_left, Nat.mod_eq_of_lt hd, Nat.add_mul_div_left _ _ (by decide), Nat.div_eq_of_lt hd, Nat.zero_add,
    syndrome_encodeCheck]

theorem symbol_split {i e : Nat} (he : e < 16) :
    (i < 32 → e * 16 ^ i % 2 ^ 128 = e * 16 ^ i ∧ e * 16 ^ i / 2 ^ 128 = 0) ∧
      (32 ≤ i → e * 16 ^ i % 2 ^ 128 = 0 ∧ e * 16 ^ i / 2 ^ 128 = e * 16 ^ (i - 32)) := by
  have hpow : (2 : Nat) ^ 128 = 16 ^ 32 := by decide
  rw [hpow]
  refine ⟨fun hi => ?_, fun hi => ?_⟩
  · have hlt : e * 16 ^ i < 16 ^ 32 := calc
      e * 16 ^ i < 16 * 16 ^ i := Nat.mul_lt_mul_of_pos_right he (Nat.pow_pos (by decide))
      _ = 16 ^ (i + 1) := by rw [pow_succ, Nat.mul_comm]
      _ ≤ 16 ^ 32 := Nat.pow_le_pow_right (by decide) hi
    exact ⟨Nat.mod_eq_of_lt hlt, Nat.div_eq_of_lt hlt⟩
  · have hsplit : e * 16 ^ i = e * 16 ^ (i - 32) * 16 ^ 32 := by rw [Nat.mul_assoc, ← pow_add, Nat.sub_add_cancel hi]
    rw [hsplit, Nat.mul_mod_left, Nat.mul_div_cancel _ (Nat.pow_pos (by decide))]
    exact ⟨rfl, rfl⟩

/-- An error of one symbol gives the multiple of its column. -/
theorem wordSyn_symbol {i e : Nat} (hi : i < 36) (he : e < 16) : wordSyn (e * 16 ^ i) = lookScale e (codeCol i) := by
  obtain ⟨hdata, hcheck⟩ := symbol_split (i := i) he
  change synSum 32 0 (e * 16 ^ i % 2 ^ 128) ^^^ synSum 4 32 (e * 16 ^ i / 2 ^ 128) = _
  by_cases h : i < 32
  · rw [(hdata h).1, (hdata h).2, synSum_zero, Nat.xor_zero, synSum_symbol 0 h he, Nat.zero_add]
  · have h := Nat.le_of_not_lt h
    rw [(hcheck h).1, (hcheck h).2, synSum_zero, Nat.zero_xor, synSum_symbol 32 (by omega) he, Nat.add_sub_cancel' h]

theorem syndrome_word (x p : Nat) : syndrome (x % 2 ^ 128) (Nat.xor (x / 2 ^ 128) p) = wordSyn x ^^^ syndrome 0 p := by
  have h := syndrome_xor (x % 2 ^ 128) (x / 2 ^ 128) 0 p
  rwa [Nat.xor_zero] at h

theorem syndrome_poisonMask : syndrome 0 poisonMask = mkSyn 0 0 1 0 := by decide

theorem syndrome_word_clean (x : Nat) : syndrome (x % 2 ^ 128) (Nat.xor (x / 2 ^ 128) 0) = wordSyn x := by
  rw [syndrome_word, show syndrome 0 0 = 0 by decide, Nat.xor_zero]

/-- The data with the error of a data symbol taken out again. -/
theorem corrected_data {d c i e : Nat} (hd : d < 2 ^ 128) (he : e < 16) :
    (if i < 32 then Nat.xor (((d + 2 ^ 128 * c) ^^^ (e * 16 ^ i)) % 2 ^ 128) (e * 2 ^ (4 * i))
      else ((d + 2 ^ 128 * c) ^^^ (e * 16 ^ i)) % 2 ^ 128) = d := by
  have hpow : 2 ^ (4 * i) = 16 ^ i := Nat.pow_mul 2 4 i
  have hdata : (d + 2 ^ 128 * c) % 2 ^ 128 = d := by rw [Nat.add_mul_mod_self_left, Nat.mod_eq_of_lt hd]
  obtain ⟨hlow, hhigh⟩ := symbol_split (i := i) he
  rw [Nat.xor_mod_two_pow, hdata, hpow]
  split
  next h =>
    rw [(hlow h).1]
    change d ^^^ e * 16 ^ i ^^^ e * 16 ^ i = d
    rw [Nat.xor_assoc, Nat.xor_self, Nat.xor_zero]
  next h => rw [(hhigh (Nat.le_of_not_lt h)).1, Nat.xor_zero]

/-- Settles O59: syndromes are linear, an error of one symbol gives a multiple of its column, and no column is a sum of multiples of two
others, nor the poison's syndrome one of one or two columns. -/
theorem codeCorrectsOneAndDetectsTwo : Obligations.CodeCorrectsOneAndDetectsTwo := by
  refine ⟨fun data check => ⟨decodeWord_of_zero, decodeWord_of_poison, fun i e hi h0 he h => decodeWord_of_column hi ⟨h0, he⟩ h,
    fun h0 hp h => decodeWord_of_none h0 hp fun i e hi he => h i e hi he.1 he.2⟩, fun d hd => ?_⟩
  have hstored (y : Nat) : wordSyn ((d + 2 ^ 128 * encodeCheck d) ^^^ y) = wordSyn y := by rw [wordSyn_xor, wordSyn_stored hd, Nat.zero_xor]
  refine ⟨decodeWord_of_zero ?_, decodeWord_of_poison ?_, fun i e hi h0 he => ⟨?one, ?poisoned, fun j f hj hne hf0 hf => ?two⟩⟩
  · rw [syndrome_word_clean, wordSyn_stored hd]
  · rw [syndrome_word, wordSyn_stored hd, syndrome_poisonMask, Nat.zero_xor]
  case one =>
    have hcol : wordSyn ((d + 2 ^ 128 * encodeCheck d) ^^^ (e * 16 ^ i)) = synScale e (codeCol i) := by
      rw [hstored, wordSyn_symbol hi he, synScale_eq_look he]
    refine (decodeWord_of_column hi ⟨h0, he⟩ ((syndrome_word_clean _).trans hcol)).trans ?_
    rw [corrected_data hd he]
  case poisoned =>
    have hsyn : syndrome (((d + 2 ^ 128 * encodeCheck d) ^^^ (e * 16 ^ i)) % 2 ^ 128)
        (Nat.xor (((d + 2 ^ 128 * encodeCheck d) ^^^ (e * 16 ^ i)) / 2 ^ 128) poisonMask) = lookScale e (codeCol i) ^^^ mkSyn 0 0 1 0 := by
      rw [syndrome_word, hstored, wordSyn_symbol hi he, syndrome_poisonMask]
    obtain ⟨hzero, hpoison, hone⟩ := poisoned_column_ne hi ⟨h0, he⟩
    refine decodeWord_of_none (fun h => hzero (hsyn.symm.trans h)) (fun h => hpoison (hsyn.symm.trans h)) fun k g hk hg h => ?_
    exact hone k g hk hg (hsyn.symm.trans (h.trans (synScale_eq_look hg.2 _)))
  case two =>
    have hsyn : syndrome (((d + 2 ^ 128 * encodeCheck d) ^^^ (e * 16 ^ i) ^^^ (f * 16 ^ j)) % 2 ^ 128)
        (Nat.xor (((d + 2 ^ 128 * encodeCheck d) ^^^ (e * 16 ^ i) ^^^ (f * 16 ^ j)) / 2 ^ 128) 0) = lookScale e (codeCol i) ^^^ lookScale f (codeCol j) := by
      rw [syndrome_word_clean, wordSyn_xor, hstored, wordSyn_symbol hi he, wordSyn_symbol hj hf]
    refine decodeWord_of_none (fun h => two_columns_ne_zero hi hj (Ne.symm hne) ⟨h0, he⟩ ⟨hf0, hf⟩ (hsyn.symm.trans h))
      (fun h => two_columns_ne_poison hi hj (Ne.symm hne) ⟨h0, he⟩ ⟨hf0, hf⟩ (hsyn.symm.trans h)) fun k g hk hg h => ?_
    exact two_columns_ne_column hi hj (Ne.symm hne) ⟨h0, he⟩ ⟨hf0, hf⟩ hk hg (hsyn.symm.trans (h.trans (synScale_eq_look hg.2 _)))

end Sys2Proof.Machine
end

section
/-! SUPPORT. Locks of write-once registers (R574). -/

namespace Sys2Proof.Machine

open Sys2Proof Host

/-- From `s` to `t` no lock is lost. -/
def LocksStay (s t : State) : Prop := ∀ o ∈ s.locks, o ∈ t.locks

theorem LocksStay.of_eq {s t : State} (h : t.locks = s.locks) : LocksStay s t := fun _ ho => h ▸ ho

/-- The parts that the write of a register that locks nothing may change. -/
def offLocks : Nat := pieces (unwound ++ [.time, .rings, .ports, .upd, .xlt])

theorem LocksStay.of_kept {s t : State} (h : Kept offLocks s t) : LocksStay s t := .of_eq (h.within .locks (by decide))

theorem State.regErr_locksStay (s : State) (off cause : Nat) : LocksStay s (s.regErr off cause) :=
  .of_kept (State.regErr_kept (by decide) kept_refl)

/-- Writes of the registers that are not write-once leave the locks. -/
theorem State.writeReg_kept_of_no_lock {g : RG} (hport : g ≠ .hqPortCfg) (hid : g ≠ .vstId) (s : State) (i : Nat) (w hwset : Word) :
    Kept offLocks s (s.writeReg g i w hwset) := by
  by_cases hev : g ∈ eventGroups
  · rw [State.writeReg_of_event hev]
    exact State.clearEvents_kept (by decide) kept_refl
  cases g with
  | sysResetCtrl => exact State.writeResetCtrl_kept (by decide) kept_refl
  | sysPartCtrl => exact State.writePartCtrl_kept (by decide) kept_refl
  | sysCoreOwn => exact State.writeCoreOwn_kept (by decide) kept_refl
  | timCtrl => exact State.writeTimCtrl_kept (by decide) kept_refl
  | hqPortCfg => exact absurd rfl hport
  | hqSqBaseLo | hqSqBaseHi | hqCqBaseLo | hqCqBaseHi | hqRsrBaseLo | hqRsrBaseHi | hqRingCfg => exact State.writeRingCfg_kept (by decide) kept_refl
  | hqRingCtrl => exact State.writeRingCtrl_kept (by decide) kept_refl
  | hqRingSeq => exact State.writeRingSeq_kept (by decide) kept_refl
  | xltSlq => exact State.writeSlq_kept (by decide) kept_refl
  | xltPwinA => exact State.writePwinA_kept (by decide) kept_refl
  | xltPwinB | xltPwinC | xltPwinD => exact State.writePwin_kept (by decide) kept_refl
  | xltCtxA => exact State.writeCtxA_kept (by decide) kept_refl
  | xltCtxB | xltCtxC | xltCtxD => exact State.writeCtx_kept (by decide) kept_refl
  | memTgCtrl => exact State.writeTgCtrl_kept (by decide) kept_refl
  | memTgCfg => exact State.setTg_kept (by decide) kept_refl
  | memTgLen => exact State.setTg_kept (by decide) kept_refl
  | memTgInj => exact State.setTg_kept (by decide) kept_refl
  | memTgStatus => exact State.clearTg_kept (by decide) kept_refl
  | memSway | gthRway => exact State.writeWays_kept (by decide) kept_refl
  | memRgnA | memRgnB | memRgnC => exact State.writeRgn_kept (by decide) kept_refl
  | memRgnD => exact State.writeRgnD_kept (by decide) kept_refl
  | memChOwn => exact State.writeChOwn_kept (by decide) kept_refl
  | gthUpdCtrl => exact State.writeUpdCtrl_kept (by decide) kept_refl
  | gthUpdQuota => exact State.writeUpdQuota_kept (by decide) kept_refl
  | gthUpdCap => exact State.writeUpdCap_kept (by decide) kept_refl
  | vstId => exact absurd rfl hid
  | vstCtrl => exact State.writeVstCtrl_kept (by decide) kept_refl
  | vstMac => exact State.writeVstMac_kept (by decide) kept_refl
  | vstFm => exact State.writeVstFm_kept (by decide) kept_refl
  | vstTmo => exact State.writeVstTmo_kept (by decide) kept_refl
  | vstPortCfg => exact State.writeVstPortCfg_kept (by decide) kept_refl
  | vstServeF => exact State.writeServe_kept (by decide) kept_refl
  | vstServeG => exact State.writeServe_kept (by decide) kept_refl
  | vstCxl => exact State.writeVstCxl_kept (by decide) kept_refl
  | hltRingBaseLo | hltRingBaseHi => exact State.writeHltBase_kept (by decide) kept_refl
  | hltRingCfg => exact State.writeHltCfg_kept (by decide) kept_refl
  | secBootCtrl => exact State.writeBootCtrl_kept (by decide) kept_refl
  | sysEvtCfg | timPpsLoadLo | timPpsLoadHi | timHold | memTgSel | hltRingHead | hltThr | hltSweep | hltHistSel => exact State.putRw_kept (by decide) kept_refl
  | sysStatus | sysEvt | sysGuilty | timEvent | pwrEvt | hqPortEvt | hqRingEvt | xltStatus | memStatus | gthUpdStatus | vstEvt | hltEvt | secEvt => exact absurd (by decide) hev
  | sysResetStatus | sysOverrun | sysOverrunLast | sysRegerr | sysCdieState | sysPartStatus | sysPartOfs | sysSuspect | timStatus | timNowLo
  | timNowHi | pwrIn | pwrClkStatus | hqPortStatus | hqRingStatus | xltCtxE | memTgErrs | memTgFirst | vstPortStatus | hltRingStatus | hltLost
  | hltHistData | secBootStatus | secBootStart | secExclLo | secExclHi | secLmsLo | secLmsHi | secFw | secFwVer => exact kept_refl

theorem State.writeVstId_locksStay (s : State) (w : Word) : LocksStay s (s.writeVstId w) := by
  unfold State.writeVstId
  dsimp only
  split
  · exact s.regErr_locksStay _ _
  · split
    · exact fun o ho => List.mem_cons_of_mem _ ho
    · exact s.regErr_locksStay _ _

theorem State.writePortCfg_locksStay (s : State) (n : Nat) (w : Word) : LocksStay s (s.writePortCfg n w) := by
  have hlost (t : State) (x : PortS) : ((t.loseHost n 0 .training).setPort n x).locks = t.locks :=
    (State.loseHost_kept (ks := offLocks) (by decide) kept_refl).within .locks (by decide)
  unfold State.writePortCfg
  dsimp only
  split
  · exact s.regErr_locksStay _ _
  split
  case isFalse => exact fun o ho => List.mem_cons_of_mem _ ho
  split
  case isFalse => exact s.regErr_locksStay _ _
  split
  case isTrue => exact fun o ho => List.mem_cons_of_mem _ ho
  case isFalse =>
    intro o ho
    rw [hlost]
    exact List.mem_cons_of_mem _ ho

theorem State.writeReg_locksStay (s : State) (g : RG) (i : Nat) (w hwset : Word) : LocksStay s (s.writeReg g i w hwset) := by
  by_cases hport : g = .hqPortCfg
  · subst hport
    exact s.writePortCfg_locksStay i w
  by_cases hid : g = .vstId
  · subst hid
    exact s.writeVstId_locksStay w
  exact .of_kept (State.writeReg_kept_of_no_lock hport hid s i w hwset)

theorem State.write_locksStay (s : State) (off size : Nat) (w hwset : Word) : LocksStay s (s.write off size w hwset) := by
  unfold State.write
  split
  · exact s.regErr_locksStay _ _
  split
  · exact s.regErr_locksStay _ _
  split
  · exact s.regErr_locksStay _ _
  · exact s.writeReg_locksStay _ _ _ _

/-- The commands that start the block or take its power away, and so clear the registers and their locks. -/
def Starts (c : Instr) : Prop :=
  (∃ r, c = .bootStepEnd r) ∨ (∃ r, c = .bootStepTimeout r) ∨ (∃ l, c = .modPwrEnDeassert l) ∨ c = .modRstNDeassert ∨ c = .modRstNAssert ∨
    (∃ l, c = .powerFailure l) ∨ (∃ l, c = .thermtripTimeout l) ∨ c = .restart

/-- A command that may touch the locks starts the block or writes a register. -/
theorem touches_locks (c : Instr) : (pieces (touches c)).testBit (Piece.bit .locks) = false ∨ Starts c ∨ (∃ p n w, c = .portModeWrite p n w) ∨
    (∃ p w, c = .vstIdWrite p w) ∨ ∃ p o n w h, c = .registerWrite p o n w h := by
  cases c
  case bootStepEnd r => exact .inr (.inl (.inl ⟨r, rfl⟩))
  case bootStepTimeout r => exact .inr (.inl (.inr (.inl ⟨r, rfl⟩)))
  case modPwrEnDeassert l => exact .inr (.inl (.inr (.inr (.inl ⟨l, rfl⟩))))
  case modRstNDeassert => exact .inr (.inl (.inr (.inr (.inr (.inl rfl)))))
  case modRstNAssert => exact .inr (.inl (.inr (.inr (.inr (.inr (.inl rfl))))))
  case powerFailure l => exact .inr (.inl (.inr (.inr (.inr (.inr (.inr (.inl ⟨l, rfl⟩)))))))
  case thermtripTimeout l => exact .inr (.inl (.inr (.inr (.inr (.inr (.inr (.inr (.inl ⟨l, rfl⟩))))))))
  case restart => exact .inr (.inl (.inr (.inr (.inr (.inr (.inr (.inr (.inr rfl))))))))
  case portModeWrite p n w => exact .inr (.inr (.inl ⟨p, n, w, rfl⟩))
  case vstIdWrite p w => exact .inr (.inr (.inr (.inl ⟨p, w, rfl⟩)))
  case registerWrite p o n w h => exact .inr (.inr (.inr (.inr ⟨p, o, n, w, h, rfl⟩)))
  all_goals exact .inl (by simp only [touches]; rfl)

/-- A command that goes through a port does what it does, or nothing where the port reaches no register. -/
theorem locksStay_of_reach {s t u : State} {b : Bool} (h : (if b then Outcome.next u else Outcome.next s : Outcome State Fault Refusal) = .next t)
    (hu : LocksStay s u) : LocksStay s t := by
  split at h
  · cases h
    exact hu
  · cases h
    exact .of_eq rfl

/-- Settles O8: of the commands that start nothing, three may touch the locks, and those only add to them. -/
theorem locksStayUntilAStart : Obligations.LocksStayUntilAStart := by
  intro c s t o h ho
  obtain hno | hstart | ⟨p, n, w, rfl⟩ | ⟨p, w, rfl⟩ | ⟨p, off, n, w, hw, rfl⟩ := touches_locks c
  · exact .inl ((exec_same_of_untouched h hno : t.locks = s.locks) ▸ ho)
  · exact .inr hstart
  · exact .inl (locksStay_of_reach h (s.writePortCfg_locksStay n.val w) o ho)
  · exact .inl (locksStay_of_reach h (s.writeVstId_locksStay w) o ho)
  · exact .inl (locksStay_of_reach h (s.write_locksStay off.toNat n w hw) o ho)

end Sys2Proof.Machine
end

section
/-! SUPPORT. The map of R567: every register stands at its own offset. -/

namespace Sys2Proof.Machine

open Sys2Proof Host

/-- Two groups of registers stand apart: one ends before the other begins, or they interleave with one stride. -/
def RegRow.apart (a b : RegRow) : Bool :=
  decide (a.base + a.stride * (a.count - 1) < b.base) || decide (b.base + b.stride * (b.count - 1) < a.base) ||
    (a.stride == b.stride && decide (a.base % a.stride ≠ b.base % b.stride))

theorem RegRow.apart_symm {a b : RegRow} (h : a.apart b = true) : b.apart a = true := by
  simp only [RegRow.apart, Bool.or_eq_true, Bool.and_eq_true, decide_eq_true_eq, beq_iff_eq] at h ⊢
  obtain (h | h) | ⟨hs, hb⟩ := h
  · exact .inl (.inr h)
  · exact .inl (.inl h)
  · exact .inr ⟨hs.symm, hb.symm⟩

/-- No register stands above the last one of its group. -/
theorem RG.off_le_last {g : RG} {i : Nat} (hi : i < g.row.count) : g.off i ≤ g.row.base + g.row.stride * (g.row.count - 1) :=
  Nat.add_le_add_left (Nat.mul_le_mul_left _ (Nat.le_sub_one_of_lt hi)) _

theorem RG.base_le_off (g : RG) (i : Nat) : g.row.base ≤ g.off i := Nat.le_add_right _ _

theorem RG.mem_all (g : RG) : g ∈ RG.all := by cases g <;> decide

theorem RG.all_pairwise_apart : RG.all.Pairwise fun g h => g.row.apart h.row = true := by decide +kernel

/-- What the map says of every group: aligned offsets below 2^24, and a stride. -/
theorem RG.row_fits (g : RG) : 0 < g.row.stride ∧ g.row.base % 4 = 0 ∧ g.row.stride % 4 = 0 ∧ g.row.base + g.row.stride * (g.row.count - 1) < 2 ^ 24 := by
  cases g <;> decide

theorem RG.row_apart {g h : RG} (hne : g ≠ h) : g.row.apart h.row = true :=
  have : Std.Symm fun g h : RG => g.row.apart h.row = true := ⟨fun _ _ => RegRow.apart_symm⟩
  RG.all_pairwise_apart.forall g.mem_all h.mem_all hne

/-- Registers of two groups stand at two offsets. -/
theorem RG.off_ne {g h : RG} {i j : Nat} (hne : g ≠ h) (hi : i < g.row.count) (hj : j < h.row.count) : g.off i ≠ h.off j := by
  have hg := RG.off_le_last hi
  have hh := RG.off_le_last hj
  have hg0 := g.base_le_off i
  have hh0 := h.base_le_off j
  have hapart := RG.row_apart hne
  simp only [RegRow.apart, Bool.or_eq_true, Bool.and_eq_true, decide_eq_true_eq, beq_iff_eq] at hapart
  obtain (h | h) | ⟨hs, hb⟩ := hapart
  · omega
  · omega
  · intro heq
    have hmod := congrArg (· % g.row.stride) heq
    simp only [RG.off, Nat.add_mul_mod_self_left] at hmod
    rw [hs, Nat.add_mul_mod_self_left, ← hs] at hmod
    exact hb (hs ▸ hmod)

theorem RG.off_index_inj {g : RG} {i j : Nat} (h : g.off i = g.off j) : i = j :=
  Nat.eq_of_mul_eq_mul_left g.row_fits.1 (Nat.add_left_cancel h)

/-- An offset names one register at most. -/
theorem RG.off_inj {g h : RG} {i j : Nat} (hi : i < g.row.count) (hj : j < h.row.count) (heq : g.off i = h.off j) : g = h ∧ i = j := by
  by_cases hne : g = h
  · subst hne
    exact ⟨rfl, RG.off_index_inj heq⟩
  · exact absurd heq (RG.off_ne hne hi hj)

theorem RG.idx_off {g : RG} {i : Nat} (hi : i < g.row.count) : g.idx (g.off i) = some i := by
  have hdiff : g.off i - g.row.base = g.row.stride * i := Nat.add_sub_cancel_left _ _
  simp only [RG.idx, hdiff, Nat.mul_mod_right, Nat.mul_div_cancel_left _ g.row_fits.1]
  rw [if_pos ⟨g.base_le_off i, trivial, hi⟩]

/-- A search finds a register at an offset that some group of the list has. -/
theorem regFind_isSome {o : Nat} {l : List RG} {g : RG} {i : Nat} (hg : g ∈ l) (hi : g.idx o = some i) : (regFind o l).isSome = true := by
  induction l with
  | nil => cases hg
  | cons a t ih =>
    unfold regFind
    split
    case h_1 => rfl
    case h_2 hnone =>
      rcases List.mem_cons.mp hg with rfl | hg
      · rw [hnone] at hi
        cases hi
      · exact ih hg

/-- The map finds a register at its own offset. -/
theorem regAt_off {g : RG} {i : Nat} (hi : i < g.row.count) : regAt (g.off i) = some (g, i) := by
  obtain ⟨⟨h, j⟩, hfound⟩ := Option.isSome_iff_exists.mp (regFind_isSome g.mem_all (RG.idx_off hi))
  obtain ⟨hoff, hj⟩ := regAt_eq_some hfound
  obtain ⟨rfl, rfl⟩ := RG.off_inj hj hi hoff
  exact hfound

theorem RG.off_aligned (g : RG) (i : Nat) : g.off i % 4 = 0 := by
  obtain ⟨-, hb, hs, -⟩ := g.row_fits
  rw [RG.off, Nat.add_mod, hb, Nat.mul_mod, hs, Nat.zero_mul]

theorem RG.off_lt_bar {g : RG} {i : Nat} (hi : i < g.row.count) : g.off i < 2 ^ 24 :=
  Nat.lt_of_le_of_lt (RG.off_le_last hi) g.row_fits.2.2.2

/-- Settles O58: two groups never share an offset, and a search that finds one finds the only one. -/
theorem registersStandAtTheirOffsets : Obligations.RegistersStandAtTheirOffsets :=
  ⟨fun g i hi => ⟨regAt_off hi, g.off_aligned i, RG.off_lt_bar hi⟩, fun _ _ _ h => regAt_eq_some h, fun _ _ _ _ hi hj h => RG.off_inj hi hj h⟩

end Sys2Proof.Machine
end

section
/-! SUPPORT. What byte stores and granules read back (R323). -/

namespace Sys2Proof.Machine

open Sys2Proof Host

theorem readByte_writeByte (c : List Host.Cell) (a b : Nat) (v : Byte) : readByte (writeByte c a v) b = if b = a then v else readByte c b := by
  split
  case isTrue h =>
    subst h
    exact smGet_set_same _ _ _ _
  case isFalse h => exact readByte_writeByte_other c a b v h

theorem readByte_writeBytes (c : List Host.Cell) (a : Nat) (l : List Byte) (b : Nat) :
    readByte (writeBytes c a l) b = if a ≤ b ∧ b < a + l.length then l.getD (b - a) 0 else readByte c b := by
  induction l generalizing c a with
  | nil => rw [if_neg (by simp only [List.length_nil]; omega)]; rfl
  | cons v t ih =>
    rw [writeBytes, ih, readByte_writeByte, List.length_cons]
    by_cases hb : b = a
    · subst hb
      rw [if_neg (by omega), if_pos rfl, if_pos (by omega), Nat.sub_self]
      rfl
    · rw [if_neg hb]
      by_cases hin : a + 1 ≤ b ∧ b < a + 1 + t.length
      · rw [if_pos hin, if_pos (by omega), show b - a = b - (a + 1) + 1 by omega]
        rfl
      · rw [if_neg hin, if_neg (by omega)]

theorem leNat_leBytes (n v : Nat) : leNat (leBytes n v) = v % 256 ^ n := by
  induction n generalizing v with
  | zero => rw [pow_zero, Nat.mod_one]; rfl
  | succ n ih =>
    rw [leBytes, leNat, ih, BitVec.toNat_ofNat]
    have hmul : v % (256 * 256 ^ n) = v % 256 + 256 * (v / 256 % 256 ^ n) := Nat.mod_mul
    rw [show 256 ^ (n + 1) = 256 * 256 ^ n from Nat.pow_succ']
    exact hmul.symm

theorem leBytes_length (n v : Nat) : (leBytes n v).length = n := by
  induction n generalizing v with
  | zero => rfl
  | succ n ih => rw [leBytes, List.length_cons, ih]

theorem granBytes_length (g : Gran) : (granBytes g).length = 16 := leBytes_length _ _

@[simp] theorem MemS.store_cells_same (m : MemS) (sp : Space) (c : List Host.Cell) (p : SMap Bool) : (m.store sp c p).cells sp = c := by
  cases sp <;> rfl

@[simp] theorem MemS.store_poisons_same (m : MemS) (sp : Space) (c : List Host.Cell) (p : SMap Bool) : (m.store sp c p).poisons sp = p := by
  cases sp <;> rfl

@[simp] theorem MemS.store_cold (m : MemS) (sp sq : Space) (c : List Host.Cell) (p : SMap Bool) (a : Nat) :
    (m.store sp c p).cold sq a = m.cold sq a := by
  cases sp <;> cases sq <;> rfl

/-- A store of one kind leaves those of the others. -/
theorem MemS.store_other (m : MemS) {sp sq : Space} (h : sq ≠ sp) (c : List Host.Cell) (p : SMap Bool) :
    (m.store sp c p).cells sq = m.cells sq ∧ (m.store sp c p).poisons sq = m.poisons sq := by
  cases sp <;> cases sq <;> first | exact absurd rfl h | exact ⟨rfl, rfl⟩

theorem MemS.readGran_writeGran_same (m : MemS) (sp : Space) (a : Nat) (g : Gran) : (m.writeGran sp a g).readGran sp a = g := by
  have hdata : readNat (writeBytes (m.cells sp) a (granBytes g)) a 16 = g.data.toNat := by
    have h := readBytes_writeBytes (m.cells sp) a (granBytes g)
    rw [granBytes_length] at h
    rw [readNat, h, granBytes, leNat_leBytes]
    exact Nat.mod_eq_of_lt g.data.isLt
  rw [MemS.readGran, MemS.poisoned, MemS.writeGran, MemS.store_cells_same, MemS.store_poisons_same, MemS.store_cold, hdata, smGet_set_same,
    BitVec.ofNat_toNat, BitVec.setWidth_eq]

theorem MemS.readGran_writeGran_of_apart (m : MemS) (sp : Space) {a b : Nat} (g : Gran) (h : b + 16 ≤ a ∨ a + 16 ≤ b) (hdiv : b / 16 ≠ a / 16) :
    (m.writeGran sp a g).readGran sp b = m.readGran sp b := by
  have hbytes : readBytes (writeBytes (m.cells sp) a (granBytes g)) b 16 = readBytes (m.cells sp) b 16 :=
    readBytes_writeBytes_other _ _ _ _ _ (by rw [granBytes_length]; exact h)
  have hmark : smGet (m.cold sp b) (smSet (m.cold sp a) (m.poisons sp) (a / 16) g.poison) (b / 16) = smGet (m.cold sp b) (m.poisons sp) (b / 16) :=
    smGet_smSet_of_ne _ _ _ _ hdiv
  rw [MemS.readGran, MemS.poisoned, MemS.writeGran, MemS.store_cells_same, MemS.store_poisons_same, MemS.store_cold, readNat, hbytes, hmark]
  rfl

theorem MemS.readGran_writeGran_other (m : MemS) {sp sq : Space} (a b : Nat) (g : Gran) (h : sq ≠ sp) :
    (m.writeGran sp a g).readGran sq b = m.readGran sq b := by
  obtain ⟨hc, hp⟩ := m.store_other h (writeBytes (m.cells sp) a (granBytes g)) (smSet (m.cold sp a) (m.poisons sp) (a / 16) g.poison)
  rw [MemS.readGran, MemS.poisoned, MemS.writeGran, hc, hp, MemS.store_cold]
  rfl

section
variable (sp : Space) {a b : Nat} (l : List Gran)

theorem MemS.readGran_writeGrans_of_apart (m : MemS) (ha : a % 16 = 0) (hb : b % 16 = 0) (h : b + 16 ≤ a ∨ a + 16 * l.length ≤ b) :
    (m.writeGrans sp a l).readGran sp b = m.readGran sp b := by
  induction l generalizing m a with
  | nil => rfl
  | cons g t ih =>
    rw [List.length_cons] at h
    rw [MemS.writeGrans, ih _ (by omega) (by omega), MemS.readGran_writeGran_of_apart _ _ _ (by omega) (by omega)]

theorem MemS.readGran_writeGrans_same (m : MemS) (ha : a % 16 = 0) (i : Nat) (h : i < l.length) : (m.writeGrans sp a l).readGran sp (a + 16 * i) = l[i] := by
  induction l generalizing m a i with
  | nil => cases h
  | cons g t ih =>
    rw [MemS.writeGrans]
    cases i with
    | zero => rw [MemS.readGran_writeGrans_of_apart _ _ _ (by omega) (by omega) (by omega), Nat.mul_zero, Nat.add_zero, MemS.readGran_writeGran_same]; rfl
    | succ i =>
      rw [show a + 16 * (i + 1) = a + 16 + 16 * i by omega, ih _ (by omega) i (by simpa using h)]
      rfl

theorem MemS.readGran_writeGrans_other (m : MemS) {sq : Space} (b : Nat) (h : sq ≠ sp) : (m.writeGrans sp a l).readGran sq b = m.readGran sq b := by
  induction l generalizing m a with
  | nil => rfl
  | cons g t ih => rw [MemS.writeGrans, ih, MemS.readGran_writeGran_other _ _ _ _ h]

end

/-- Settles O60: bytes read back one by one, and granules with their marks. -/
theorem storesReadBack : Obligations.StoresReadBack := by
  refine ⟨⟨readByte_writeByte, readByte_writeBytes, wf_writeByte⟩, fun m sp a l ha => ⟨fun i h => ?_, fun b hb h => ?_, fun sq b h => ?_⟩⟩
  · exact MemS.readGran_writeGrans_same sp l m ha i h
  · exact MemS.readGran_writeGrans_of_apart sp l m ha hb h
  · exact MemS.readGran_writeGrans_other sp l m b h

end Sys2Proof.Machine
end

section
/-! SUPPORT. Writes that follow no rule of their own, and writes that are recorded (R563, R564, R569). -/

namespace Sys2Proof.Machine

open Sys2Proof Host

section
variable {port : Fin 4} {off : BitVec 24} {size : Nat} {w hwset : Word} {s : State}

theorem exec_registerWrite_of_reach (hreach : s.reach port.val = true) :
    exec (.registerWrite port off size w hwset) s = .next (s.write off.toNat size w hwset) := by
  change execRegisterWrite port off size w hwset s = _
  rw [execRegisterWrite, if_pos hreach]

theorem State.write_of_bad_access {o : Nat} (h : size ≠ 4 ∨ o % 4 ≠ 0) : s.write o size w hwset = s.regErr o 1 := by
  rw [State.write, if_pos h]

theorem State.write_of_no_register {o : Nat} (hsize : size = 4) (hal : o % 4 = 0) (hat : regAt o = none) :
    s.write o size w hwset = s.regErr o 2 := by
  rw [State.write, if_neg (by simp [hsize, hal]), hat]

theorem State.write_of_roots_gone {o i : Nat} {g : RG} (hsize : size = 4) (hal : o % 4 = 0) (hat : regAt o = some (g, i))
    (hroot : (isRoot o && s.rootsGone) = true) : s.write o size w hwset = s.regErr o 4 := by
  rw [State.write, if_neg (by simp [hsize, hal]), hat]
  simp only [hroot, if_true]

end

/-- A register with no bit to write and none to clear takes no write, SEC_BOOT_CTRL apart (R569). -/
theorem State.writeReg_of_readOnly {g : RG} (hrw : g.row.rw = 0) (hw1c : g.row.w1c = 0) (hboot : g ≠ .secBootCtrl) (s : State) (i : Nat) (w hwset : Word) :
    s.writeReg g i w hwset = s := by
  cases g <;> first | rfl | exact absurd hrw (by decide) | exact absurd hw1c (by decide) | exact absurd rfl hboot

/-- SYS_REGERR names the offset and the cause of a write that is recorded (R563). -/
theorem State.regErr_fields (s : State) {o cause : Nat} (ho : o < 2 ^ 24) (hc : cause < 256) :
    (s.regErr o cause).fld .sysRegerr 0 23 0 = o ∧ (s.regErr o cause).fld .sysRegerr 0 31 24 = cause := by
  simp only [State.fld, State.regErr, State.setReg_reg_same, wbits, bits, BitVec.toNat_ofNat, Nat.shiftRight_eq_div_pow]
  omega

theorem State.regErr_reg_of_ne (s : State) (o cause : Nat) {g : RG} {i : Nat} (hne : g.off i ≠ RG.off .sysRegerr 0) :
    (s.regErr o cause).reg g i = s.reg g i :=
  State.setReg_reg_of_ne s _ hne

theorem State.regErr_within (s : State) (o cause : Nat) : Within (pieces [.regs]) s (s.regErr o cause) :=
  (State.regErr_kept (by decide) kept_refl).within

theorem State.putRw_reg_same (s : State) (g : RG) (i : Nat) (w : Word) : (s.putRw g i w).reg g i = (s.reg g i &&& ~~~ g.row.rw) ||| (w &&& g.row.rw) :=
  State.setReg_reg_same ..

theorem State.putRw_reg_of_ne (s : State) {g h : RG} {i j : Nat} (w : Word) (hne : h.off j ≠ g.off i) : (s.putRw g i w).reg h j = s.reg h j :=
  State.setReg_reg_of_ne s _ hne

theorem State.putRw_within (s : State) (g : RG) (i : Nat) (w : Word) : Within (pieces [.regs]) s (s.putRw g i w) :=
  (State.putRw_kept (by decide) kept_refl).within

/-- The registers of R569 without a rule of their own. -/
def plainGroups : List RG := [.sysEvtCfg, .timPpsLoadLo, .timPpsLoadHi, .timHold, .memTgSel, .hltRingHead, .hltThr, .hltSweep, .hltHistSel]

theorem State.writeReg_of_plain {g : RG} (hg : g ∈ plainGroups) (s : State) (i : Nat) (w hwset : Word) : s.writeReg g i w hwset = s.putRw g i w := by
  simp only [plainGroups, List.mem_cons, List.not_mem_nil, or_false] at hg
  obtain rfl | rfl | rfl | rfl | rfl | rfl | rfl | rfl | rfl := hg <;> rfl

/-- Settles O56: one write decides by its access, its offset and its register in turn. -/
theorem plainWritesTakeAndBadWritesRecord : Obligations.PlainWritesTakeAndBadWritesRecord := by
  refine ⟨fun port off size w hwset s hreach => ⟨fun h => ?_, fun hs ha hat => ?_, fun g i hs ha hat hroot => ?_, fun g i hs ha hat hroot hrw hw1c hboot => ?_,
    fun cause hc => ?_⟩, fun port off w hwset g i s hreach hat hroot ha hg => ?_⟩
  · rw [exec_registerWrite_of_reach hreach, State.write_of_bad_access h]
  · rw [exec_registerWrite_of_reach hreach, State.write_of_no_register hs ha hat]
  · rw [exec_registerWrite_of_reach hreach, State.write_of_roots_gone hs ha hat hroot]
  · subst hs
    rw [exec_registerWrite_of_regAt hreach hat hroot ha, State.writeReg_of_readOnly hrw hw1c hboot]
  · obtain ⟨hoff, hcause⟩ := s.regErr_fields off.isLt hc
    exact ⟨hoff, hcause, fun g i hne => s.regErr_reg_of_ne _ _ hne, s.regErr_within _ _⟩
  · refine ⟨_, (exec_registerWrite_of_regAt hreach hat hroot ha).trans (congrArg _ (State.writeReg_of_plain hg s i w hwset)), s.putRw_reg_same g i w,
      fun h j hne => s.putRw_reg_of_ne w ?_, s.putRw_within g i w⟩
    rwa [(regAt_eq_some hat).1]

end Sys2Proof.Machine
end

section
/-! SUPPORT. What a write of a setup register leaves of the other registers (R567, R581). -/

namespace Sys2Proof.Machine

open Sys2Proof Host

/-- From `s` to `t` no register changed but those at the offsets of a list. -/
def RegsMove (o : List Nat) (s t : State) : Prop := ∀ (h : RG) (j : Nat), h.off j ∉ o → t.reg h j = s.reg h j

namespace RegsMove

variable {o : List Nat} {s t u : State} {g : RG} {i : Nat}

theorem refl : RegsMove o s s := fun _ _ _ => rfl

theorem of_regs (hu : u.regs = t.regs) (h : RegsMove o s t) : RegsMove o s u := fun a j hn => by
  rw [← h a j hn, State.reg, hu, State.reg]

theorem setReg (w : Word) (hm : g.off i ∈ o) (h : RegsMove o s t) : RegsMove o s (t.setReg g i w) := fun a j hn => by
  rw [← h a j hn, State.setReg_reg_of_ne]
  exact fun heq => hn (heq ▸ hm)

theorem setBit (b : Nat) (hm : g.off i ∈ o) (h : RegsMove o s t) : RegsMove o s (t.setBit g i b) := h.setReg _ hm

theorem putRw (w : Word) (hm : g.off i ∈ o) (h : RegsMove o s t) : RegsMove o s (t.putRw g i w) := h.setReg _ hm

theorem regErr (off cause : Nat) (hm : RG.off .sysRegerr 0 ∈ o) (h : RegsMove o s t) : RegsMove o s (t.regErr off cause) := h.setReg _ hm

theorem trans (h : RegsMove o s t) (k : RegsMove o t u) : RegsMove o s u := fun a j hn => (k a j hn).trans (h a j hn)

theorem foldl {α : Type} {f : State → α → State} {l : List α} (hf : ∀ t x, RegsMove o s t → RegsMove o s (f t x)) (h : RegsMove o s t) :
    RegsMove o s (l.foldl f t) := by
  induction l generalizing t with
  | nil => exact h
  | cons x l ih => exact ih (hf t x h)

/-- A refused write sets a status bit and is recorded. -/
theorem refuse (b off cause : Nat) (hm : g.off i ∈ o) (herr : RG.off .sysRegerr 0 ∈ o) (h : RegsMove o s t) :
    RegsMove o s ((t.setBit g i b).regErr off cause) :=
  (h.setBit b hm).regErr off cause herr

end RegsMove

/-- The offsets that a write of register `i` of a group may change: its own, its chapter's status register and SYS_REGERR. -/
def ownOffs (own : RG) (i : Nat) (status : RG) : List Nat := [own.off i, status.off 0, RG.off .sysRegerr 0]

section
variable {own status : RG} {i : Nat}

theorem own_mem_ownOffs : own.off i ∈ ownOffs own i status := List.mem_cons_self

theorem status_mem_ownOffs : status.off 0 ∈ ownOffs own i status := List.mem_cons_of_mem _ List.mem_cons_self

theorem regerr_mem_ownOffs : RG.off .sysRegerr 0 ∈ ownOffs own i status := List.mem_cons_of_mem _ (List.mem_cons_of_mem _ List.mem_cons_self)

end

/-! ## The writes -/

section
variable (s : State) (w : Word)

theorem State.writeRowlock_regsMove {s t : State} {i : Nat} (b : Bool) (h : RegsMove (ownOffs .memRgnD i .memStatus) s t) :
    RegsMove (ownOffs .memRgnD i .memStatus) s (t.writeRowlock i b) := by
  unfold State.writeRowlock
  split
  · exact h
  split
  · exact h.setReg _ own_mem_ownOffs
  · exact h.refuse _ _ _ status_mem_ownOffs regerr_mem_ownOffs

theorem State.writeRgnD_regsMove (i : Nat) : RegsMove (ownOffs .memRgnD i .memStatus) s (s.writeRgnD i w) := by
  have hrefused {t : State} (h : RegsMove (ownOffs .memRgnD i .memStatus) s t) : RegsMove (ownOffs .memRgnD i .memStatus) s (t.rgnRefused .memRgnD i) :=
    h.refuse _ _ _ status_mem_ownOffs regerr_mem_ownOffs
  have hput (v : Word) : RegsMove (ownOffs .memRgnD i .memStatus) s (s.putRw .memRgnD i v) := RegsMove.refl.putRw v own_mem_ownOffs
  unfold State.writeRgnD
  dsimp only
  split
  · split
    · exact hput w
    split
    · exact hput w
    · exact hrefused (hput _)
  split
  · refine State.writeRowlock_regsMove _ ?_
    split
    · exact hrefused .refl
    · exact .refl
  split
  · exact hrefused .refl
  · have hrow : RegsMove (ownOffs .memRgnD i .memStatus) s (s.writeRowlock i (wbit w 22)) := State.writeRowlock_regsMove _ .refl
    have hcleared := hrow.setReg (setBits ((s.writeRowlock i (wbit w 22)).reg .memRgnD i) 8 8 0) own_mem_ownOffs
    split
    · exact hrefused hcleared
    · exact hcleared

theorem State.writeCoreOwn_regsMove (k : Nat) : RegsMove (ownOffs .sysCoreOwn k .sysStatus) s (s.writeCoreOwn k w) := by
  have hno : RegsMove (ownOffs .sysCoreOwn k .sysStatus) s ((s.setBit .sysStatus 0 1).regErr (RG.off .sysCoreOwn k) 4) :=
    RegsMove.refl.refuse _ _ _ status_mem_ownOffs regerr_mem_ownOffs
  have hput : RegsMove (ownOffs .sysCoreOwn k .sysStatus) s (s.putRw .sysCoreOwn k w) := RegsMove.refl.putRw w own_mem_ownOffs
  unfold State.writeCoreOwn
  dsimp only
  split
  · split
    · exact hput.of_regs rfl
    · exact hput
  split
  · exact hno
  split
  · exact hno
  · exact hput

theorem State.writeCtxA_regsMove (c : Nat) : RegsMove (ownOffs .xltCtxA c .xltStatus) s (s.writeCtxA c w) := by
  have hrefused {t : State} (h : RegsMove (ownOffs .xltCtxA c .xltStatus) s t) : RegsMove (ownOffs .xltCtxA c .xltStatus) s (t.ctxRefused .xltCtxA c) :=
    h.refuse _ _ _ status_mem_ownOffs regerr_mem_ownOffs
  have hput (v : Word) : RegsMove (ownOffs .xltCtxA c .xltStatus) s (s.putRw .xltCtxA c v) := RegsMove.refl.putRw v own_mem_ownOffs
  have hcleared : RegsMove (ownOffs .xltCtxA c .xltStatus) s ((s.setReg .xltCtxA c (setBits (s.reg .xltCtxA c) 6 6 0)).dropCtx c) :=
    (RegsMove.refl.setReg _ own_mem_ownOffs).of_regs rfl
  unfold State.writeCtxA
  dsimp only
  split
  · split
    · exact hput w
    split
    · exact (hput w).of_regs rfl
    · exact hrefused (hput _)
  split
  · split
    · exact hrefused .refl
    · exact .refl
  split
  · exact hrefused .refl
  split
  · exact hrefused hcleared
  · exact hcleared

theorem State.writeRingSeq_regsMove (r : Nat) : RegsMove [RG.off .hqRingSeq r, RG.off .sysRegerr 0] s (s.writeRingSeq r w) := by
  unfold State.writeRingSeq
  split
  · split
    · exact .refl
    · exact RegsMove.refl.regErr _ _ (by simp)
  · exact RegsMove.refl.setReg _ (by simp)

theorem State.writeSlq_regsMove (p : Nat) : RegsMove (ownOffs .xltSlq p .xltStatus) s (s.writeSlq p w) := by
  unfold State.writeSlq
  dsimp only
  split
  · exact RegsMove.refl.refuse _ _ _ status_mem_ownOffs regerr_mem_ownOffs
  split
  · exact RegsMove.refl.refuse _ _ _ status_mem_ownOffs regerr_mem_ownOffs
  · exact RegsMove.refl.putRw w own_mem_ownOffs

theorem State.writePwinA_regsMove (i : Nat) : RegsMove (ownOffs .xltPwinA i .xltStatus) s (s.writePwinA i w) := by
  have hrefused {t : State} (h : RegsMove (ownOffs .xltPwinA i .xltStatus) s t) : RegsMove (ownOffs .xltPwinA i .xltStatus) s (t.pwinRefused .xltPwinA i) :=
    h.refuse _ _ _ status_mem_ownOffs regerr_mem_ownOffs
  have hset (v : Word) : RegsMove (ownOffs .xltPwinA i .xltStatus) s (s.setReg .xltPwinA i v) := RegsMove.refl.setReg v own_mem_ownOffs
  unfold State.writePwinA
  dsimp only
  split
  · split
    · exact hset _
    · exact hrefused (hset _)
  split
  · exact hrefused (hset _)
  · exact hset _

theorem State.writePartCtrl_regsMove (p : Nat) : RegsMove (ownOffs .sysPartCtrl p .sysStatus) s (s.writePartCtrl p w) := by
  have hrefused {t : State} (h : RegsMove (ownOffs .sysPartCtrl p .sysStatus) s t) : RegsMove (ownOffs .sysPartCtrl p .sysStatus) s (t.partRefused p) :=
    h.refuse _ _ _ status_mem_ownOffs regerr_mem_ownOffs
  have hset (v : Word) : RegsMove (ownOffs .sysPartCtrl p .sysStatus) s (s.setReg .sysPartCtrl p v) := RegsMove.refl.setReg v own_mem_ownOffs
  unfold State.writePartCtrl
  dsimp only
  split
  · split
    · exact hset _
    split
    · exact (hset _).of_regs rfl
    · exact hrefused (hset _)
  split
  · split
    · exact hrefused .refl
    · exact .refl
  split
  · split
    · exact hrefused ((hset _).of_regs rfl)
    · exact (hset _).of_regs rfl
  · exact hrefused .refl

theorem State.writeUpdCtrl_regsMove (p : Nat) : RegsMove (ownOffs .gthUpdCtrl p .gthUpdStatus) s (s.writeUpdCtrl p w) := by
  unfold State.writeUpdCtrl
  dsimp only
  split
  · exact RegsMove.refl.refuse _ _ _ status_mem_ownOffs regerr_mem_ownOffs
  · exact RegsMove.refl.putRw w own_mem_ownOffs

theorem State.writeUpdQuota_regsMove (p : Nat) : RegsMove (ownOffs .gthUpdQuota p .gthUpdStatus) s (s.writeUpdQuota p w) := by
  unfold State.writeUpdQuota
  split
  · exact RegsMove.refl.refuse _ _ _ status_mem_ownOffs regerr_mem_ownOffs
  · exact RegsMove.refl.putRw w own_mem_ownOffs

theorem State.writeUpdCap_regsMove (g e : Nat) : RegsMove (ownOffs .gthUpdCap (256 * g + e) .gthUpdStatus) s (s.writeUpdCap g e w) := by
  unfold State.writeUpdCap
  dsimp only
  split
  · exact RegsMove.refl.refuse _ _ _ status_mem_ownOffs regerr_mem_ownOffs
  · exact RegsMove.refl.putRw w own_mem_ownOffs

theorem State.writeChOwn_regsMove (ch : Nat) : RegsMove (ownOffs .memChOwn ch .memStatus) s (s.writeChOwn ch w) := by
  have hrefused {t : State} (h : RegsMove (ownOffs .memChOwn ch .memStatus) s t) : RegsMove (ownOffs .memChOwn ch .memStatus) s (t.ownRefused ch) :=
    h.refuse _ _ _ status_mem_ownOffs regerr_mem_ownOffs
  have hset (v : Word) : RegsMove (ownOffs .memChOwn ch .memStatus) s (s.setReg .memChOwn ch v) := RegsMove.refl.setReg v own_mem_ownOffs
  unfold State.writeChOwn
  dsimp only
  split
  · split
    · split
      · exact .refl
      · exact hrefused .refl
    split
    · exact hrefused .refl
    split
    · exact (hset _).of_regs rfl
    · exact hrefused ((hset _).of_regs rfl)
  split
  · split
    · exact hrefused .refl
    split
    · exact RegsMove.refl.of_regs rfl
    · exact (hset _).of_regs rfl
  · exact hset _

theorem State.writeWay_regsMove {s t : State} {g : RG} {i : Nat} (k die way : Nat) (w : Word) (h : RegsMove (ownOffs g i .memStatus) s t) :
    RegsMove (ownOffs g i .memStatus) s (t.writeWay g i k die way w) := by
  have hrefused {u : State} (h : RegsMove (ownOffs g i .memStatus) s u) : RegsMove (ownOffs g i .memStatus) s (u.wayRefused g i) :=
    h.refuse _ _ _ status_mem_ownOffs regerr_mem_ownOffs
  have hset (v : Word) : RegsMove (ownOffs g i .memStatus) s (t.setReg g i v) := h.setReg v own_mem_ownOffs
  unfold State.writeWay
  dsimp only
  split
  · split
    · split
      · exact h
      · exact hrefused h
    split
    · exact hrefused h
    split
    · exact hset _
    · exact hrefused (hset _)
  split
  · split
    · exact hrefused h
    split
    · exact (hset _).of_regs rfl
    · exact (hset _).of_regs rfl
  · exact hset _

theorem State.writeWays_regsMove (g : RG) (die q : Nat) : RegsMove (ownOffs g (4 * die + q) .memStatus) s (s.writeWays g die q w) :=
  .foldl (fun _ _ h => State.writeWay_regsMove _ _ _ _ h) .refl

theorem State.writeVstCxl_regsMove (n : Nat) : RegsMove (ownOffs .vstCxl n .vstEvt) s (s.writeVstCxl n w) := by
  have hrefused {t : State} (h : RegsMove (ownOffs .vstCxl n .vstEvt) s t) : RegsMove (ownOffs .vstCxl n .vstEvt) s (t.vstRefused .vstCxl n) :=
    h.refuse _ _ _ status_mem_ownOffs regerr_mem_ownOffs
  have hset (v : Word) : RegsMove (ownOffs .vstCxl n .vstEvt) s (s.setReg .vstCxl n v) := RegsMove.refl.setReg v own_mem_ownOffs
  unfold State.writeVstCxl
  dsimp only
  split
  · split
    · exact hset _
    · exact hrefused (hset _)
  split
  · exact hrefused (hset _)
  · exact hset _

theorem State.writeServe_regsMove (gdie : Bool) (n : Nat) :
    RegsMove (ownOffs (if gdie then .vstServeG else .vstServeF) n .vstEvt) s (s.writeServe gdie n w) := by
  cases gdie
  all_goals
    simp only [State.writeServe, Bool.false_eq_true, if_false, if_true]
    split
    · exact RegsMove.refl.regErr _ _ regerr_mem_ownOffs
    split
    · exact RegsMove.refl.putRw w own_mem_ownOffs
    · exact RegsMove.refl.refuse _ _ _ status_mem_ownOffs regerr_mem_ownOffs

theorem State.writeVstMac_regsMove : RegsMove (ownOffs .vstMac 0 .vstEvt) s (s.writeVstMac w) := by
  unfold State.writeVstMac
  split
  · exact RegsMove.refl.refuse _ _ _ status_mem_ownOffs regerr_mem_ownOffs
  · exact RegsMove.refl.putRw w own_mem_ownOffs

theorem State.writeVstId_regsMove : RegsMove [RG.off .vstId 0, RG.off .sysRegerr 0] s (s.writeVstId w) := by
  unfold State.writeVstId
  dsimp only
  split
  · exact RegsMove.refl.regErr _ _ (by simp)
  split
  · exact (RegsMove.refl.putRw w (by simp)).of_regs rfl
  · exact RegsMove.refl.regErr _ _ (by simp)

theorem State.rootWrite_hltRingHead_regsMove :
    RegsMove [RG.off .hltRingHead 0, RG.off .sysRegerr 0] s (s.rootWrite (RG.off .hltRingHead 0) fun s => s.setReg .hltRingHead 0 w) := by
  unfold State.rootWrite
  split
  · exact RegsMove.refl.regErr _ _ (by simp)
  · exact RegsMove.refl.setReg _ (by simp)

end

/-! ## The obligation -/

/-- What the obligation says of a command: no register of the map changed but its own, the status register and SYS_REGERR. -/
def KeepsOthers (c : Instr) (own : RG) (i : Nat) (status : RG) : Prop := ∀ s t : State, exec c s = .next t →
  (∀ g j, j < g.row.count → g ≠ own → g ≠ status → g ≠ .sysRegerr → t.reg g j = s.reg g j) ∧
    (∀ j, j < own.row.count → j ≠ i → t.reg own j = s.reg own j)

/-- A command that through its port makes a write, where it makes one at all. -/
def Writes (c : Instr) (f : State → State) : Prop := ∀ s t : State, exec c s = .next t → t = f s ∨ t = s

theorem writes_of_ite {c : Instr} {f : State → State} {p : State → Prop} [∀ s, Decidable (p s)]
    (h : ∀ s, exec c s = if p s then .next (f s) else .next s) : Writes c f := by
  intro s t ht
  rw [h s] at ht
  split at ht <;> cases ht
  · exact .inl rfl
  · exact .inr rfl

theorem Writes.regsMove {c : Instr} {f : State → State} {o : List Nat} (hw : Writes c f) (hf : ∀ s, RegsMove o s (f s)) {s t : State}
    (h : exec c s = .next t) : RegsMove o s t := by
  obtain rfl | rfl := hw s t h
  · exact hf s
  · exact .refl

section
variable {c : Instr} {f : State → State} {own status : RG} {i : Nat}

theorem keepsOthers_of_write (hw : Writes c f) (hf : ∀ s, RegsMove (ownOffs own i status) s (f s)) (hi : i < own.row.count) (hs : 0 < status.row.count)
    (hne : own ≠ status) (herr : own ≠ .sysRegerr) : KeepsOthers c own i status := by
  intro s t h
  have hmove := hw.regsMove hf h
  refine ⟨fun g j hj hown hstatus hreg => hmove g j ?_, fun j hj hji => hmove own j ?_⟩
  · simp only [ownOffs, List.mem_cons, List.not_mem_nil, or_false, not_or]
    exact ⟨RG.off_ne hown hj hi, RG.off_ne hstatus hj hs, RG.off_ne hreg hj (by decide)⟩
  · simp only [ownOffs, List.mem_cons, List.not_mem_nil, or_false, not_or]
    exact ⟨fun h => hji (RG.off_index_inj h), RG.off_ne hne hj hs, RG.off_ne herr hj (by decide)⟩

/-- The same for a register whose chapter has no status register. -/
theorem keepsOthers_of_write_alone (hw : Writes c f) (hf : ∀ s, RegsMove [own.off i, RG.off .sysRegerr 0] s (f s)) (hi : i < own.row.count)
    (herr : own ≠ .sysRegerr) : KeepsOthers c own i own := by
  intro s t h
  have hmove := hw.regsMove hf h
  refine ⟨fun g j hj hown _ hreg => hmove g j ?_, fun j hj hji => hmove own j ?_⟩
  · simp only [List.mem_cons, List.not_mem_nil, or_false, not_or]
    exact ⟨RG.off_ne hown hj hi, RG.off_ne hreg hj (by decide)⟩
  · simp only [List.mem_cons, List.not_mem_nil, or_false, not_or]
    exact ⟨fun h => hji (RG.off_index_inj h), RG.off_ne herr hj (by decide)⟩

end

/-- Settles O9: each command makes one write or none, and each write moves three registers at most. -/
theorem setupWritesKeepOtherRegisters : Obligations.SetupWritesKeepOtherRegisters := by
  intro port w
  have four (a b n : Nat) (ha : a < n) (hb : b < 4) : 4 * a + b < 4 * n := by omega
  refine ⟨fun i => ⟨?_, ?_, ?_, ?_, ?_⟩, fun i => ⟨?_, ?_, ?_⟩, fun i => ⟨?_, ?_, ?_, ?_, ?_, ?_, ?_⟩, fun i => ⟨?_, ?_⟩, fun die q => ⟨?_, ?_⟩,
    fun die q => ⟨?_, ?_⟩, fun g e => ?_, fun n => ?_, fun n => ?_, fun n hn => ?_, ?_, ?_, ?_, ?_⟩
  · exact keepsOthers_of_write (writes_of_ite fun _ => rfl) (fun s => s.writeRgnD_regsMove w i.val) i.isLt (by decide) (by decide) (by decide)
  · exact keepsOthers_of_write (writes_of_ite fun _ => rfl) (fun s => s.writeRgnD_regsMove w i.val) i.isLt (by decide) (by decide) (by decide)
  · exact keepsOthers_of_write (writes_of_ite fun _ => rfl) (fun s => s.writeRgnD_regsMove w i.val) i.isLt (by decide) (by decide) (by decide)
  · exact keepsOthers_of_write (writes_of_ite fun _ => rfl) (fun s => s.writeCoreOwn_regsMove w i.val) i.isLt (by decide) (by decide) (by decide)
  · exact keepsOthers_of_write (writes_of_ite fun _ => rfl) (fun s => s.writeCoreOwn_regsMove w i.val) i.isLt (by decide) (by decide) (by decide)
  · exact keepsOthers_of_write (writes_of_ite fun _ => rfl) (fun s => s.writeCtxA_regsMove w i.val) i.isLt (by decide) (by decide) (by decide)
  · exact keepsOthers_of_write (writes_of_ite fun _ => rfl) (fun s => s.writeCtxA_regsMove w i.val) i.isLt (by decide) (by decide) (by decide)
  · exact keepsOthers_of_write_alone (writes_of_ite fun _ => rfl) (fun s => s.writeRingSeq_regsMove w i.val) i.isLt (by decide)
  · exact keepsOthers_of_write (writes_of_ite fun _ => rfl) (fun s => s.writeSlq_regsMove w i.val) i.isLt (by decide) (by decide) (by decide)
  · exact keepsOthers_of_write (writes_of_ite fun _ => rfl) (fun s => s.writePwinA_regsMove w i.val) i.isLt (by decide) (by decide) (by decide)
  · exact keepsOthers_of_write (writes_of_ite fun _ => rfl) (fun s => s.writePwinA_regsMove w i.val) i.isLt (by decide) (by decide) (by decide)
  · exact keepsOthers_of_write (writes_of_ite fun _ => rfl) (fun s => s.writePartCtrl_regsMove w i.val) i.isLt (by decide) (by decide) (by decide)
  · exact keepsOthers_of_write (writes_of_ite fun _ => rfl) (fun s => s.writePartCtrl_regsMove w i.val) i.isLt (by decide) (by decide) (by decide)
  · exact keepsOthers_of_write (writes_of_ite fun _ => rfl) (fun s => s.writeUpdCtrl_regsMove w i.val) i.isLt (by decide) (by decide) (by decide)
  · exact keepsOthers_of_write (writes_of_ite fun _ => rfl) (fun s => s.writeUpdQuota_regsMove w i.val) i.isLt (by decide) (by decide) (by decide)
  · exact keepsOthers_of_write (writes_of_ite fun _ => rfl) (fun s => s.writeChOwn_regsMove w i.val) i.isLt (by decide) (by decide) (by decide)
  · exact keepsOthers_of_write (writes_of_ite fun _ => rfl) (fun s => s.writeChOwn_regsMove w i.val) i.isLt (by decide) (by decide) (by decide)
  · exact keepsOthers_of_write (writes_of_ite fun _ => rfl) (fun s => s.writeWays_regsMove w .memSway die.val q.val) (four _ _ _ die.isLt q.isLt) (by decide)
      (by decide) (by decide)
  · exact keepsOthers_of_write (writes_of_ite fun _ => rfl) (fun s => s.writeWays_regsMove w .memSway die.val q.val) (four _ _ _ die.isLt q.isLt) (by decide)
      (by decide) (by decide)
  · exact keepsOthers_of_write (writes_of_ite fun _ => rfl) (fun s => s.writeWays_regsMove w .gthRway die.val q.val) (four _ _ _ die.isLt q.isLt) (by decide)
      (by decide) (by decide)
  · exact keepsOthers_of_write (writes_of_ite fun _ => rfl) (fun s => s.writeWays_regsMove w .gthRway die.val q.val) (four _ _ _ die.isLt q.isLt) (by decide)
      (by decide) (by decide)
  · have hlt : 256 * g.val + e.val < RG.gthUpdCap.row.count := show 256 * g.val + e.val < 4096 by omega
    exact keepsOthers_of_write (writes_of_ite fun _ => rfl) (fun s => s.writeUpdCap_regsMove w g.val e.val) hlt (by decide) (by decide) (by decide)
  · exact keepsOthers_of_write (writes_of_ite fun _ => rfl) (fun s => s.writeVstCxl_regsMove w n.val) n.isLt (by decide) (by decide) (by decide)
  · exact keepsOthers_of_write (writes_of_ite fun _ => rfl) (fun s => s.writeServe_regsMove w true n.val) n.isLt (by decide) (by decide) (by decide)
  · exact keepsOthers_of_write (writes_of_ite fun _ => rfl) (fun s => s.writeServe_regsMove w false n.val) hn (by decide) (by decide) (by decide)
  · exact keepsOthers_of_write (writes_of_ite fun _ => rfl) (fun s => s.writeVstMac_regsMove w) (by decide) (by decide) (by decide) (by decide)
  · exact keepsOthers_of_write_alone (writes_of_ite fun _ => rfl) (fun s => s.writeVstId_regsMove w) (by decide) (by decide)
  · exact keepsOthers_of_write_alone (writes_of_ite fun _ => rfl) (fun s => RegsMove.refl.putRw w (by simp)) (by decide) (by decide)
  · exact keepsOthers_of_write_alone (writes_of_ite fun _ => rfl) (fun s => s.rootWrite_hltRingHead_regsMove w) (by decide) (by decide)

end Sys2Proof.Machine
end

section
/-! SUPPORT. What recording and charging faults leaves of registers, boot state, counters, partitions, arrays and cores (R468 to R471, R526 to R530). -/

namespace Sys2Proof.Machine

open Sys2Proof Host

/-! ## The frame of a fault -/

/-- From `b` to `t` only that changed which recording faults may change: two event registers, dies to exclude later, the histories of units but
their counters (an F-die's UNIT 0x28 counts messages), and the marks that partitions, arrays and cores take when a unit is classed. -/
structure FaultFrame (b t : State) : Prop where
  regs : RegsMove [RG.off .hltEvt 0, RG.off .sysEvt 0] b t
  boot : t.boot = { b.boot with exclKept := t.boot.exclKept }
  area : ∀ k, k % 256 ≠ 0x28 → (t.unit k).area = (b.unit k).area
  part : ∀ p, t.part p = { b.part p with noAdmit := (t.part p).noAdmit }
  array : ∀ a, t.array a = { b.array a with toWithdraw := (t.array a).toWithdraw }
  core : ∀ c, t.core c = { b.core c with leaving := (t.core c).leaving }

/-- The parts of the state of which the frame says nothing. -/
def offFrame : Nat := pieces [.latches, .locks, .time, .rings, .ports, .subs, .slots, .reads, .nextId, .engines, .books, .xfers, .gsteps, .usteps, .upd,
  .mem, .xlt, .fab, .err, .pwr, .notes, .out, .free, .pending]

theorem State.setUnit_unit_same (s : State) (k : Nat) (u : UnitRec) : (s.setUnit k u).unit k = u := smGet_set_same _ _ _ _

theorem State.setUnit_unit_of_ne (s : State) {k j : Nat} (u : UnitRec) (h : j ≠ k) : (s.setUnit k u).unit j = s.unit j :=
  smGet_set_other _ _ _ _ _ h

@[simp] theorem State.setPart_part_same (s : State) (p : Nat) (x : PartS) : (s.setPart p x).part p = x := smGet_set_same _ _ _ _

theorem State.setPart_part_of_ne (s : State) {p q : Nat} (x : PartS) (h : q ≠ p) : (s.setPart p x).part q = s.part q :=
  smGet_set_other _ _ _ _ _ h

@[simp] theorem State.setArray_array_same (s : State) (a : Nat) (x : ArrayS) : (s.setArray a x).array a = x := smGet_set_same _ _ _ _

theorem State.setArray_array_of_ne (s : State) {a c : Nat} (x : ArrayS) (h : c ≠ a) : (s.setArray a x).array c = s.array c :=
  smGet_set_other _ _ _ _ _ h

@[simp] theorem State.setCore_core_same (s : State) (c : Nat) (x : CoreS) : (s.setCore c x).core c = x := smGet_set_same _ _ _ _

theorem State.setCore_core_of_ne (s : State) {c d : Nat} (x : CoreS) (h : d ≠ c) : (s.setCore c x).core d = s.core d :=
  smGet_set_other _ _ _ _ _ h

/-- The parts of the state that the frame speaks of. -/
def State.framed (s : State) : SMap Word × BootS × SMap UnitRec × SMap PartS × SMap ArrayS × SMap CoreS :=
  (s.regs, s.boot, s.hlt.units, s.parts, s.arrays, s.cores)

theorem State.framed_eq_iff {s t : State} :
    s.framed = t.framed ↔ s.regs = t.regs ∧ s.boot = t.boot ∧ s.hlt.units = t.hlt.units ∧ s.parts = t.parts ∧ s.arrays = t.arrays ∧ s.cores = t.cores := by
  simp only [State.framed, Prod.mk.injEq]

namespace FaultFrame

variable {b t u : State}

theorem refl : FaultFrame b b := ⟨.refl, rfl, fun _ _ => rfl, fun _ => rfl, fun _ => rfl, fun _ => rfl⟩

/-- What changes none of the parts that the frame speaks of keeps it. -/
theorem same (h : FaultFrame b t) (e : u.framed = t.framed) : FaultFrame b u := by
  obtain ⟨regs, boot, area, part, array, core⟩ := h
  obtain ⟨hr, hb, hu, hp, ha, hc⟩ := State.framed_eq_iff.mp e
  refine ⟨regs.of_regs hr, hb ▸ boot, fun k hk => ?_, fun p => ?_, fun a => ?_, fun c => ?_⟩
  · rw [State.unit, hu]
    exact area k hk
  · rw [State.part, hp]
    exact part p
  · rw [State.array, ha]
    exact array a
  · rw [State.core, hc]
    exact core c

theorem keep (hk : Kept offFrame t u) (h : FaultFrame b t) : FaultFrame b u :=
  h.same <| State.framed_eq_iff.mpr ⟨hk.within .regs (by decide), hk.within .boot (by decide), congrArg HltS.units (hk.within .hlt (by decide)),
    hk.within .parts (by decide), hk.within .arrays (by decide), hk.within .cores (by decide)⟩

theorem trans (h : FaultFrame b t) (g : FaultFrame t u) : FaultFrame b u := by
  refine ⟨h.regs.trans g.regs, ?_, fun k hk => (g.area k hk).trans (h.area k hk), fun p => ?_, fun a => ?_, fun c => ?_⟩
  · rw [g.boot, h.boot]
  · rw [g.part p, h.part p]
  · rw [g.array a, h.array a]
  · rw [g.core c, h.core c]

theorem ite {c : Prop} [Decidable c] (ht : c → FaultFrame b t) (hu : ¬c → FaultFrame b u) : FaultFrame b (if c then t else u) := by
  split
  · exact ht ‹_›
  · exact hu ‹_›

theorem foldl {α : Type} {f : State → α → State} {l : List α} (hf : ∀ t x, FaultFrame b t → FaultFrame b (f t x)) (h : FaultFrame b t) :
    FaultFrame b (l.foldl f t) := by
  induction l generalizing t with
  | nil => exact h
  | cons x l ih => exact ih (hf t x h)

theorem setBit_hltEvt (n : Nat) (h : FaultFrame b t) : FaultFrame b (t.setBit .hltEvt 0 n) :=
  h.trans ⟨RegsMove.refl.setBit n (by simp), rfl, fun _ _ => rfl, fun _ => rfl, fun _ => rfl, fun _ => rfl⟩

theorem setBit_sysEvt (n : Nat) (h : FaultFrame b t) : FaultFrame b (t.setBit .sysEvt 0 n) :=
  h.trans ⟨RegsMove.refl.setBit n (by simp), rfl, fun _ _ => rfl, fun _ => rfl, fun _ => rfl, fun _ => rfl⟩

theorem setUnit {k : Nat} {x : UnitRec} (hx : k % 256 ≠ 0x28 → x.area = (t.unit k).area) (h : FaultFrame b t) : FaultFrame b (t.setUnit k x) := by
  refine h.trans ⟨.refl, rfl, fun j hj => ?_, fun _ => rfl, fun _ => rfl, fun _ => rfl⟩
  by_cases hjk : j = k
  · subst hjk
    rw [State.setUnit_unit_same, hx hj]
  · rw [State.setUnit_unit_of_ne _ _ hjk]

theorem setPart {p : Nat} (n : Bool) (h : FaultFrame b t) : FaultFrame b (t.setPart p { t.part p with noAdmit := n }) := by
  refine h.trans ⟨.refl, rfl, fun _ _ => rfl, fun q => ?_, fun _ => rfl, fun _ => rfl⟩
  by_cases hq : q = p
  · subst hq
    rw [State.setPart_part_same]
  · rw [State.setPart_part_of_ne _ _ hq]

theorem setArray {a : Nat} (n : Bool) (h : FaultFrame b t) : FaultFrame b (t.setArray a { t.array a with toWithdraw := n }) := by
  refine h.trans ⟨.refl, rfl, fun _ _ => rfl, fun _ => rfl, fun c => ?_, fun _ => rfl⟩
  by_cases hc : c = a
  · subst hc
    rw [State.setArray_array_same]
  · rw [State.setArray_array_of_ne _ _ hc]

theorem setCore {a : Nat} (n : Bool) (h : FaultFrame b t) : FaultFrame b (t.setCore a { t.core a with leaving := n }) := by
  refine h.trans ⟨.refl, rfl, fun _ _ => rfl, fun _ => rfl, fun _ => rfl, fun c => ?_⟩
  by_cases hc : c = a
  · subst hc
    rw [State.setCore_core_same]
  · rw [State.setCore_core_of_ne _ _ hc]

theorem setBoot {x : BitVec 64} (h : FaultFrame b t) : FaultFrame b (t.setBoot { t.boot with exclKept := x }) :=
  h.trans ⟨.refl, rfl, fun _ _ => rfl, fun _ => rfl, fun _ => rfl, fun _ => rfl⟩

theorem setHlt {x : HltS} (hx : x.units = t.hlt.units) (h : FaultFrame b t) : FaultFrame b (t.setHlt x) := h.same (State.framed_eq_iff.mpr ⟨rfl, rfl, hx, rfl, rfl, rfl⟩)

theorem setErr {x : RecS} (h : FaultFrame b t) : FaultFrame b (t.setErr x) := h.same rfl

theorem setSub {x : Sub} (h : FaultFrame b t) : FaultFrame b (t.setSub x) := h.same rfl

theorem setXfers {x : List Xfer} (h : FaultFrame b t) : FaultFrame b (t.setXfers x) := h.same rfl

theorem dropHeld {ring seq cyc : Nat} (h : FaultFrame b t) : FaultFrame b (t.dropHeld ring seq cyc) := h.same rfl

end FaultFrame

/-! ## Messages and telemetry -/

section
variable {b s : State}

theorem State.msix_frame {port vec : Nat} (h : FaultFrame b s) : FaultFrame b (s.msix port vec) := h.keep (State.msix_kept (by decide) kept_refl)

theorem State.pldmEvent_frame {e : PldmEvent} (h : FaultFrame b s) : FaultFrame b (s.pldmEvent e) :=
  .ite (fun _ => h.same rfl) fun _ => h.setHlt rfl

theorem State.hltMsix_frame (h : FaultFrame b s) : FaultFrame b s.hltMsix :=
  .ite (fun _ => .ite (fun _ => h.setHlt rfl) fun _ => (State.msix_frame h).setHlt rfl) fun _ => h

theorem State.telLost_frame (h : FaultFrame b s) : FaultFrame b s.telLost := (h.setBit_hltEvt 3).setHlt rfl

theorem State.telemetry_frame {type body : Nat} (h : FaultFrame b s) : FaultFrame b (s.telemetry type body) := by
  have hent {s1 : State} (h1 : FaultFrame b s1) {l : List PldmEvent} :
      FaultFrame b (if type = 6 then s1 else l.foldl (fun s e => s.pldmEvent e) s1) :=
    .ite (fun _ => h1) fun _ => .foldl (fun _ _ h => State.pldmEvent_frame h) h1
  unfold State.telemetry
  refine hent (.ite (fun _ => .ite (fun _ => State.telLost_frame h) fun _ => ?_) fun _ => h)
  exact State.hltMsix_frame (h.same rfl)

theorem State.telReset_frame {scope unit code : Nat} {e : Bool} (h : FaultFrame b s) : FaultFrame b (s.telReset scope unit e code) :=
  State.telemetry_frame h

theorem State.sysEvt_frame {n : Nat} (h : FaultFrame b s) : FaultFrame b (s.sysEvt n) :=
  .ite (fun _ => State.msix_frame (h.setBit_sysEvt n)) fun _ => h.setBit_sysEvt n

theorem State.bump_frame {die off top n : Nat} (h : FaultFrame b s) : FaultFrame b (s.bump die 0x28 off top n) :=
  h.setUnit fun hk => absurd (by rw [Nat.mul_add_mod]) hk

theorem State.sendFmAbout_frame {subject type scope code unit state : Nat} (h : FaultFrame b s) :
    FaultFrame b (s.sendFmAbout subject type scope code unit state) :=
  .ite (fun _ => .ite (fun _ => h.same rfl) fun _ => State.bump_frame h) fun _ => h

theorem State.sendFm_frame {type scope code unit state : Nat} (h : FaultFrame b s) : FaultFrame b (s.sendFm type scope code unit state) :=
  State.sendFmAbout_frame h

/-! ## Records -/

theorem State.toMram_frame {k : Nat} (h : FaultFrame b s) : FaultFrame b (s.toMram k) :=
  (h.setUnit (k := k) (x := { s.unit k with wseq := (s.unit k).wseq + 1 }) fun _ => rfl).same rfl

theorem State.stopAdmitting_frame {cores : Nat → Bool} (h : FaultFrame b s) : FaultFrame b (s.stopAdmitting cores) :=
  .foldl (fun _ _ h => .ite (fun _ => h.setPart true) fun _ => h) h

theorem State.cdieOut_frame {c code : Nat} (h : FaultFrame b s) : FaultFrame b (s.cdieOut c code) := by
  have hout : FaultFrame b ((s.setCdie c { s.cdie c with outOfService := true, reset := none }).saveRoot) := h.same rfl
  exact State.telReset_frame (State.sendFm_frame (State.sysEvt_frame (State.stopAdmitting_frame hout)))

theorem State.unitActs_frame {die unit st code : Nat} (h : FaultFrame b s) : FaultFrame b (s.unitActs die unit st code) := by
  unfold State.unitActs
  refine .ite (fun _ => .ite (fun _ => ?array) fun _ => .ite (fun _ => .ite (fun _ => ?core) fun _ => h) fun _ => .ite (fun _ => ?out) fun _ => h)
    fun _ => .ite (fun _ => ?excluded) fun _ => h
  case array => exact h.setArray _
  case core => exact h.setCore _
  case out => exact State.cdieOut_frame h
  case excluded => exact h.setBoot

theorem State.classUnit_frame {die unit st code : Nat} (h : FaultFrame b s) : FaultFrame b (s.classUnit die unit st code) := by
  have hset := h.setUnit (k := 256 * die + unit) (x := { s.unit (256 * die + unit) with st := st, perm := decide (st = 2), stateTime := s.time.now })
    fun _ => rfl
  unfold State.classUnit
  dsimp only
  split
  · exact h
  · exact State.unitActs_frame (State.telemetry_frame ((State.toMram_frame hset).setBit_hltEvt _))

theorem State.qualify_frame {die unit code : Nat} (h : FaultFrame b s) : FaultFrame b (s.qualify die unit code) := by
  have hqueued := State.toMram_frame (k := 256 * die + unit) (h.setUnit (k := 256 * die + unit)
    (x := { s.unit (256 * die + unit) with qtimes := (s.time.now :: (s.unit (256 * die + unit)).qtimes).take 3 }) fun _ => rfl)
  exact .ite (fun _ => State.classUnit_frame hqueued) fun _ => hqueued

theorem State.record_frame {r : FaultRec} {q : Bool} (h : FaultFrame b s) : FaultFrame b (s.record r q) := by
  unfold State.record
  have herr : FaultFrame b (s.setErr { s.err with faults := r :: s.err.faults }) := h.same rfl
  cases r.die with
  | none => exact herr
  | some die => exact .ite (fun _ => State.qualify_frame (herr.setUnit fun _ => rfl)) fun _ => herr.setUnit fun _ => rfl

theorem State.raiseAs_frame {r : FaultRec} {q : Bool} (h : FaultFrame b s) : FaultFrame b (s.raiseAs r q) := State.telemetry_frame (State.record_frame h)

theorem State.raise_frame {r : FaultRec} (h : FaultFrame b s) : FaultFrame b (s.raise r) := State.raiseAs_frame h

theorem State.uncharge_frame {ring seq : Nat} (h : FaultFrame b s) : FaultFrame b (s.uncharge ring seq) := by
  refine .foldl (fun t r ht => ?_) (h.same rfl)
  cases r.die with
  | none => exact ht
  | some die => exact ht.setUnit fun _ => rfl

theorem State.charge_frame {ring seq ph : Nat} {r : FaultRec} (h : FaultFrame b s) : FaultFrame b (s.charge ring seq ph r) := by
  unfold State.charge
  cases s.sub? ring seq with
  | none => exact State.raise_frame h
  | some x =>
    have hfree : FaultFrame b (if x.code = 0 then s else s.uncharge ring seq) := .ite (fun _ => h) fun _ => State.uncharge_frame h
    exact .ite (fun _ => (State.record_frame hfree.setSub.setXfers.dropHeld).setErr) fun _ => State.raise_frame h

theorem State.chargeOnce_frame {ring seq ph cause : Nat} {r : FaultRec} (h : FaultFrame b s) : FaultFrame b (s.chargeOnce ring seq ph cause r) := by
  unfold State.chargeOnce
  cases s.sub? ring seq with
  | none => exact State.raise_frame h
  | some x => exact .ite (fun _ => h) fun _ => State.charge_frame (h.same rfl)

theorem State.fencedAccess_frame {p ring seq ph ctx part : Nat} (h : FaultFrame b s) : FaultFrame b (s.fencedAccess p ring seq ph ctx part) :=
  State.chargeOnce_frame h

theorem State.tellCharges_frame (h : FaultFrame b s) : FaultFrame b s.tellCharges :=
  .foldl (fun _ _ h => State.telemetry_frame h) (h.same rfl)

theorem State.chargeDue_frame {d : DueFault} (h : FaultFrame b s) : FaultFrame b (s.chargeDue d) :=
  State.chargeOnce_frame (h.same rfl)

theorem State.duesTo_frame {cyc : Nat} (h : FaultFrame b s) : FaultFrame b (s.duesTo cyc) :=
  .foldl (fun _ _ h => .ite (fun _ => State.chargeDue_frame h) fun _ => h) h

theorem State.dueFaults_frame (h : FaultFrame b s) : FaultFrame b s.dueFaults := State.duesTo_frame h

end

end Sys2Proof.Machine
end

section
/-! SUPPORT. Fabric time: its events, its tick, its registers and the frames of PTP (02). -/

namespace Sys2Proof.Machine

open Sys2Proof Host

/-! ## Changes of the time state -/

/-- Every part of the state but one. -/
def allBut (p : Piece) : Nat := 2 ^ 30 - 1 - 2 ^ p.bit

theorem kept_ite {m : Nat} {b t u : State} {c : Prop} [Decidable c] (ht : c → Kept m b t) (hu : ¬c → Kept m b u) :
    Kept m b (if c then t else u) := by
  split
  · exact ht ‹_›
  · exact hu ‹_›

theorem Kept.time {s t : State} (h : Kept (allBut .time) s t) : t.time = s.time := h.within .time (by decide)

/-- Fabric time as another time state begins (R48, R51). -/
def State.entered (s : State) (n : TimeState) : TimeS :=
  let bound : Nat :=
    match n with
    | .holdover => 10 * 10 ^ 9
    | .lost => if s.time.state = .holdover then s.time.bound else s.time.offset.natAbs * 10 ^ 9
    | _ => 0
  { s.time with state := n, bound := bound, streak := 0, stepFix := none, timeSet := if n = .acquiring then false else s.time.timeSet }

/-- What entering a state records and reports moves no time. -/
theorem State.enter_time {s : State} {n : TimeState} (h : n ≠ s.time.state) : (s.enter n).time = s.entered n := by
  have hset : s.entered n = (s.setTime (s.entered n)).time := rfl
  rw [hset]
  apply Kept.time
  unfold State.enter
  rw [if_neg h]
  dsimp only
  split
  on_goal 1 => refine kept_foldl (fun _ _ hk => State.charge_kept (by decide) hk) ?_
  all_goals
    refine State.sendFm_kept (by decide) (State.telemetry_kept (by decide) ?_)
    split
    · exact State.setBit_kept (by decide) kept_refl
    · exact State.setBit_kept (by decide) kept_refl
    · exact State.setBit_kept (by decide) kept_refl
    · exact kept_refl

theorem State.enter_self {s : State} {n : TimeState} (h : n = s.time.state) : s.enter n = s := by
  unfold State.enter
  exact if_pos h

theorem State.enter_state (s : State) (n : TimeState) : (s.enter n).time.state = n := by
  by_cases h : n = s.time.state
  · rw [State.enter_self h, h]
  · exact (congrArg TimeS.state (State.enter_time h) :)

theorem State.enter_now (s : State) (n : TimeState) : (s.enter n).time.now = s.time.now := by
  by_cases h : n = s.time.state
  · rw [State.enter_self h]
  · exact (congrArg TimeS.now (State.enter_time h) :)

theorem State.enter_srcActive (s : State) (n : TimeState) : (s.enter n).time.srcActive = s.time.srcActive := by
  by_cases h : n = s.time.state
  · rw [State.enter_self h]
  · exact (congrArg TimeS.srcActive (State.enter_time h) :)

theorem State.enter_stepFix {s : State} (n : TimeState) (hs : s.time.stepFix = none) : (s.enter n).time.stepFix = none := by
  by_cases h : n = s.time.state
  · rw [State.enter_self h, hs]
  · exact (congrArg TimeS.stepFix (State.enter_time h) :)

/-! ## A disagreeing beacon (R41, R530) -/

/-- The counters of a die's clock, as a disagreement counts it. -/
theorem State.countDisagreement_area (s : State) (die now : Nat) :
    let t := (s.bump die 0xC8 0xC0 (2 ^ 32 - 1) 1).setArea die 0xC8 0xC8 now
    smGet 0 (t.unit (256 * die + 0xC8)).area 0xC0 = min (2 ^ 32 - 1) (smGet 0 (s.unit (256 * die + 0xC8)).area 0xC0 + 1) ∧
      smGet 0 (t.unit (256 * die + 0xC8)).area 0xC8 = now := by
  intro t
  have harea : (t.unit (256 * die + 0xC8)).area = smSet 0 (smSet 0 (s.unit (256 * die + 0xC8)).area 0xC0
      (min (2 ^ 32 - 1) (smGet 0 (s.unit (256 * die + 0xC8)).area 0xC0 + 1))) 0xC8 now := by
    simp only [t, State.setArea, State.bump, State.setUnit_unit_same, satAdd]
  rw [harea]
  exact ⟨by rw [smGet_set_other _ _ _ _ _ (by decide), smGet_set_same], smGet_set_same _ _ _ _⟩

theorem exec_timeBeacon_disagree {die : Fin 64} {own : BitVec 64} {s : State} (hp : s.boot.ptck = true) (hn : s.time.now ≠ 0)
    (hb : smGet 0 s.time.beacons die.val = s.time.now) (ho : own.toNat ≠ s.time.now) :
    ∃ t, exec (.timeBeacon die own) s = .next t ∧ t.time = { s.time with beacons := smSet 0 s.time.beacons die.val 0 } ∧
      smGet 0 (t.unit (256 * die.val + 0xC8)).area 0xC0 = min (2 ^ 32 - 1) (smGet 0 (s.unit (256 * die.val + 0xC8)).area 0xC0 + 1) ∧
      smGet 0 (t.unit (256 * die.val + 0xC8)).area 0xC8 = s.time.now := by
  obtain ⟨hcount, hlast⟩ := State.countDisagreement_area (s.setTime { s.time with beacons := smSet 0 s.time.beacons die.val 0 }) die.val s.time.now
  have hk : (256 * die.val + 0xC8) % 256 ≠ 0x28 := by omega
  change ∃ t, execTimeBeacon die own s = .next t ∧ _
  simp only [execTimeBeacon, hp, hb, hn, ho, Bool.not_true, Bool.false_eq_true, ne_eq, not_true_eq_false, or_self, if_false, not_false_eq_true, if_true]
  split
  · refine ⟨_, rfl, Kept.time (State.classUnit_kept (by decide) kept_refl), ?_⟩
    rw [(State.classUnit_frame FaultFrame.refl).area _ hk]
    exact ⟨hcount, hlast⟩
  · exact ⟨_, rfl, rfl, hcount, hlast⟩

/-! ## The tick -/

/-- What of fabric time a tick leaves: it counts on, and the bound grows in HOLDOVER and LOST (R34, R51). -/
def State.ticked (s : State) : TimeS :=
  { s.time with now := (s.time.now + 1) % 2 ^ 64,
                bound := s.time.bound + if s.time.state = .holdover ∨ s.time.state = .lost then 10 * s.fld .timHold 0 15 0 else 0 }

theorem State.tick_time {s : State} (hp : s.boot.ptck = true) (hs : s.time.stepFix = none) : s.tick.time = s.ticked := by
  have hset : s.ticked = (s.setTime s.ticked).time := rfl
  rw [hset, State.tick, if_pos ⟨hp, hs⟩]
  apply Kept.time
  exact kept_ite (fun _ => State.setHlt_kept (by decide) (fun w => w) (State.msix_kept (by decide) kept_refl)) fun _ => kept_refl

theorem State.tick_time_of_stopped {s : State} (h : s.boot.ptck = false ∨ s.time.stepFix ≠ none) : s.tick.time = s.time := by
  have hno : ¬(s.boot.ptck = true ∧ s.time.stepFix = none) := by
    rintro ⟨hp, hs⟩
    rcases h with h | h
    · rw [h] at hp
      exact absurd hp (by decide)
    · exact h hs
  rw [State.tick, if_neg hno]

theorem State.postMsix_frame {b s : State} (h : FaultFrame b s) : FaultFrame b s.postMsix := h.keep (State.postMsix_kept (by decide) kept_refl)

/-- The tick of fabric time stands between what falls due before it and what the new tick brings; neither moves time. -/
theorem exec_fabricTick_time (s : State) :
    ∃ t u, exec .fabricTick s = .next t ∧ FaultFrame s u ∧ u.time = s.time ∧ t.time = u.tick.time := by
  refine ⟨_, s.dueFaults.tellCharges.postMsix, rfl, State.postMsix_frame (State.tellCharges_frame (State.dueFaults_frame .refl)), ?_, ?_⟩
  · exact Kept.time (State.postMsix_kept (by decide) (State.tellCharges_kept (by decide) (State.dueFaults_kept (by decide) kept_refl)))
  · exact Kept.time (State.pumpFm_kept (by decide) (State.pumpGathers_kept (by decide) (State.wakeArrays_kept (by decide) kept_refl)))

theorem exec_fabricTick_counts {s : State} (hp : s.boot.ptck = true) (hs : s.time.stepFix = none) :
    ∃ t, exec .fabricTick s = .next t ∧ t.time = s.ticked := by
  obtain ⟨t, u, he, hf, htu, ht⟩ := exec_fabricTick_time s
  have hup : u.boot.ptck = true := by rw [hf.boot]; exact hp
  have hhold : u.fld .timHold 0 15 0 = s.fld .timHold 0 15 0 := congrArg (wbits · 15 0) (hf.regs .timHold 0 (by decide))
  refine ⟨t, he, ?_⟩
  rw [ht, State.tick_time hup (htu ▸ hs), State.ticked, htu, hhold, State.ticked]

theorem exec_fabricTick_stands {s : State} (h : s.boot.ptck = false ∨ s.time.stepFix ≠ none) :
    ∃ t, exec .fabricTick s = .next t ∧ t.time = s.time := by
  obtain ⟨t, u, he, hf, htu, ht⟩ := exec_fabricTick_time s
  have hu : u.boot.ptck = false ∨ u.time.stepFix ≠ none := by rw [htu, hf.boot]; exact h
  exact ⟨t, he, by rw [ht, State.tick_time_of_stopped hu, htu]⟩

/-! ## The step (R53) -/

theorem exec_timeStep_time {s : State} {v : Nat} (h : s.time.stepFix = some v) :
    ∃ t, exec .timeStep s = .next t ∧ t.time.now = v % 2 ^ 64 ∧ t.time.state = .acquiring ∧ t.time.stepFix = none ∧ t.time.timeSet = true := by
  change ∃ t, execTimeStep s = .next t ∧ _
  simp only [execTimeStep, h]
  exact ⟨_, rfl, (State.enter_now _ _).trans rfl, State.enter_state _ _, State.enter_stepFix _ rfl, rfl⟩

/-- Settles O10: each event is its own equation under its condition; a disagreeing beacon counts on, and the parts of a tick before and after the
count move no time. -/
theorem timeEventsTakeTheirEffect : Obligations.TimeEventsTakeTheirEffect := by
  refine ⟨⟨?beacon, ?edge, ?ppsLost, ?trefLost, fun _ => rfl, ?tickLost, ?tickReturn, ?bound, fun s v h => exec_timeStep_time h, ?die⟩, ?tick, ?stopped⟩
  case beacon =>
    intro die own s hp hn hb
    refine ⟨fun ho => ?_, exec_timeBeacon_disagree hp hn hb⟩
    change execTimeBeacon die own s = _
    simp only [execTimeBeacon, hp, hb, ho, hn, Bool.not_true, Bool.false_eq_true, ne_eq, not_true_eq_false, or_self, if_false]
  case edge =>
    intro z s hp
    change execPpsEdge z s = _
    rw [execPpsEdge, if_pos hp]
    split <;> rfl
  case ppsLost =>
    intro s hok hlate
    exact if_pos ⟨hok, hlate⟩
  case trefLost =>
    intro s hok
    exact if_pos hok
  case tickLost =>
    intro s hp hok
    change execTickLost s = _
    rw [execTickLost, if_pos ⟨hp, hok⟩]
    exact (apply_ite Outcome.next _ _ _).symm
  case tickReturn =>
    intro s hok
    change execTickReturn s = _
    simp only [execTickReturn, hok, Bool.not_false, if_true]
    exact (apply_ite Outcome.next _ _ _).symm
  case bound =>
    intro s hst hb
    exact if_pos ⟨hst, hb⟩
  case die =>
    intro s hp hu hx hd
    have hother : ((s.setTime { s.time with synthDown := s.time.timeDie :: s.time.synthDown }).excluded (dieF (1 - s.time.timeDie)) ||
        (s.time.timeDie :: s.time.synthDown).contains (1 - s.time.timeDie)) = false := by
      rw [hd]
      exact (Bool.or_false _).trans hx
    change execTimeDieFailure s = _
    rw [execTimeDieFailure, if_pos ⟨hp, by rw [hu]; rfl⟩]
    exact congrArg Outcome.next (if_neg fun h => Bool.false_ne_true (hother.symm.trans h))
  case tick =>
    intro s hp hs
    obtain ⟨t, he, ht⟩ := exec_fabricTick_counts hp hs
    refine ⟨t, he, by rw [ht]; rfl, fun hst => ?_, fun hh hl => ?_, by rw [ht]; rfl, by rw [ht]; rfl⟩
    · simp only [ht, State.ticked, if_pos hst]
    · simp only [ht, State.ticked, if_neg (not_or.mpr ⟨hh, hl⟩), Nat.add_zero]
  case stopped =>
    intro s h
    exact exec_fabricTick_stands h

/-! ## The registers of fabric time -/

theorem State.setSource_srcActive (s : State) (v : Nat) : (s.setSource v).time.srcActive = v := by
  unfold State.setSource
  split
  · exact ‹_›
  · rfl

/-- A source that stops being followed leaves the state FREE (R55). -/
theorem State.writeTimCtrl_free {s : State} {w : Word} (hnew : wbits w 1 0 ≠ s.fld .timCtrl 0 1 0) (h3 : wbits w 1 0 = 3) (hu : s.time.unsteered = false) :
    (s.writeTimCtrl w).time.state = .free ∧ (s.writeTimCtrl w).time.srcActive = 0 ∧ (s.writeTimCtrl w).time.srcWritten = false := by
  have hsteered : ¬(s.putRw .timCtrl 0 w).time.unsteered = true := fun h => Bool.false_ne_true (hu.symm.trans h)
  rw [State.writeTimCtrl, if_neg hnew, if_pos h3, if_neg hsteered]
  exact ⟨State.enter_state _ _, (State.enter_srcActive _ _).trans (State.setSource_srcActive _ _), rfl⟩

theorem State.writeTimCtrl_source {s : State} {w : Word} (hnew : wbits w 1 0 ≠ s.fld .timCtrl 0 1 0) (h3 : wbits w 1 0 ≠ 3) :
    s.writeTimCtrl w = (s.putRw .timCtrl 0 w).setTime { s.time with srcWritten := true, srcOld := s.src } := by
  rw [State.writeTimCtrl, if_neg hnew, if_neg h3]
  rfl

theorem State.writeTimCtrl_same {s : State} {w : Word} (hsame : wbits w 1 0 = s.fld .timCtrl 0 1 0) : s.writeTimCtrl w = s.putRw .timCtrl 0 w := by
  rw [State.writeTimCtrl, if_pos hsame]

/-- A bit that a write may set reads as written. -/
theorem State.putRw_wbit (s : State) (g : RG) (i : Nat) (w : Word) {b : Nat} (hb : b < 32) (hrw : wbit g.row.rw b = true) :
    wbit ((s.putRw g i w).reg g i) b = wbit w b := by
  rw [State.putRw_reg_same, wbit_or, wbit_and, wbit_and, wbit_not _ hb, hrw, Bool.not_true, Bool.and_false, Bool.and_true, Bool.false_or]

theorem timHold_rw_low : ∀ b, b < 16 → wbit (RG.row .timHold).rw b = true := by decide

/-! ## Reads of registers (R58, R563, R566) -/

theorem not_isLatched_of_latchOf {g h : RG} (hl : latchOf g = some h) : isLatched g = false := by
  cases g <;> first | rfl | cases hl

section
variable {s : State} {port off i : Nat} {g : RG} (ha : off % 4 = 0) (hreg : regAt off = some (g, i)) (hroot : (isRoot off && s.rootsGone) = false)
include ha hreg hroot

theorem State.answerRead_of_latching {h : RG} (hl : latchOf g = some h) :
    s.answerRead port off = (s.setLatches (smSet 0 s.latches (2 ^ 24 * port + h.off 0) (s.readValue h 0))).emit (.regRead port (s.readValue g i)) := by
  simp only [State.answerRead, State.readReg, ha, hreg, hroot, hl, not_isLatched_of_latchOf hl, ne_eq, not_true_eq_false, Bool.false_eq_true, if_false]

theorem State.answerRead_of_not_latching (hl : latchOf g = none) :
    s.answerRead port off =
      s.emit (.regRead port (if isLatched g then smGet 0 s.latches (2 ^ 24 * port + off) else s.readValue g i)) := by
  simp only [State.answerRead, State.readReg, ha, hreg, hroot, hl, ne_eq, not_true_eq_false, Bool.false_eq_true, if_false]
  split <;> rfl

theorem State.answerRead_latches {h : RG} (hl : latchOf g = some h) :
    (s.answerRead port off).out = .regRead port (s.readValue g i) :: s.out ∧
      smGet 0 (s.answerRead port off).latches (2 ^ 24 * port + h.off 0) = s.readValue h 0 ∧ Within (pieces [.latches, .out]) s (s.answerRead port off) := by
  rw [State.answerRead_of_latching ha hreg hroot hl]
  exact ⟨rfl, smGet_set_same _ _ _ _, (State.emit_kept (by decide) (State.setLatches_kept (by decide) (fun w => smWf_set _ _ _ _ w) kept_refl)).within⟩

end

/-! ## An armed value at the edge (R44) -/

theorem State.judgeLoad_good {s : State} (h : s.flag .timCtrl 0 30 = true) (hv : s.loadValue % 100000000 = 0) :
    s.judgeLoad = (s.setReg .timCtrl 0 (setBits (s.reg .timCtrl 0) 30 30 0)).setBit .timEvent 0 4 := by
  rw [State.judgeLoad, State.loadGood, h, hv]
  rfl

theorem State.judgeLoad_bad {s : State} (h : s.flag .timCtrl 0 30 = true) (hv : s.loadValue % 100000000 ≠ 0) :
    s.judgeLoad = s.setBit .timEvent 0 5 := by
  rw [State.judgeLoad, State.loadGood, h, beq_eq_false_iff_ne.mpr hv]
  rfl

theorem timCtrl_ne_timEvent : RG.off .timCtrl 0 ≠ RG.off .timEvent 0 := by decide

theorem State.judgeLoad_taken {s : State} (h : s.flag .timCtrl 0 30 = true) (hv : s.loadValue % 100000000 = 0) :
    s.judgeLoad.flag .timCtrl 0 30 = false ∧ s.judgeLoad.flag .timEvent 0 4 = true ∧ s.judgeLoad.flag .timEvent 0 5 = s.flag .timEvent 0 5 := by
  rw [State.judgeLoad_good h hv]
  refine ⟨?_, State.setBit_flag_same _ _ _ (by decide), ?_⟩
  · rw [State.flag, State.setBit_reg_of_ne _ timCtrl_ne_timEvent, State.setReg_reg_same, wbit_setBits_zero]
    rfl
  · rw [State.flag, State.setBit, State.orReg, State.setReg_reg_same, State.setReg_reg_of_ne _ _ timCtrl_ne_timEvent.symm, wbit_or,
      show wbit (maskWord 4) 5 = false by decide, Bool.or_false, State.flag]

theorem State.judgeLoad_regsMove (s : State) : RegsMove [RG.off .timCtrl 0, RG.off .timEvent 0] s s.judgeLoad := by
  unfold State.judgeLoad
  split
  · exact (RegsMove.refl.setReg _ (by simp)).setBit _ (by simp)
  · split
    · exact RegsMove.refl.setBit _ (by simp)
    · exact .refl

/-- Settles O11: writes of TIM_CTRL by the case of their SRC, reads by whether the register latches, and the edge by whether the armed value is a
whole number of seconds. -/
theorem timeRegistersTakeTheirWrites : Obligations.TimeRegistersTakeTheirWrites := by
  refine ⟨⟨?source, ?arm, ?hold, ?nowLo, ?latching, ?plain, ?zero, ?config⟩, fun s h => ⟨fun hv => State.judgeLoad_taken h hv, ?bad, ?others, ?judged⟩⟩
  case source =>
    intro port w s hr hnew
    exact ⟨if_pos ⟨hr, hnew⟩, fun h3 => State.writeTimCtrl_source hnew h3, fun h3 hu => ⟨_, rfl, State.writeTimCtrl_free hnew h3 hu⟩⟩
  case arm =>
    intro port w s hr hw hsame
    refine ⟨(if_pos ⟨hr, hw, hsame⟩).trans (congrArg Outcome.next (State.writeTimCtrl_same hsame)), ?_⟩
    rw [State.flag, State.putRw_wbit _ _ _ _ (by decide) (by decide), hw]
  case hold =>
    intro port w s hr
    refine ⟨_, if_pos hr, wbits_congr fun b _ hb => ?_, rfl, fun p => State.putRw_within _ _ _ _ p⟩
    exact State.putRw_wbit _ _ _ _ (by omega) (timHold_rw_low b (by omega))
  case nowLo =>
    intro port s hr
    exact ⟨_, if_pos hr, State.answerRead_latches (RG.off_aligned _ _) (regAt_off (by decide)) (by simp [show isRoot (RG.off .timNowLo 0) = false by decide]) rfl⟩
  case latching =>
    intro port off g h i s hr ha hreg hl hroot
    refine ⟨s.answerRead port.val off.toNat, ?_, State.answerRead_latches ha hreg hroot hl⟩
    simp only [exec, execLoReadLatch, hr, Bool.not_true, Bool.false_eq_true, if_false, if_true]
  case plain =>
    intro port off g i s hr ha hreg hl hroot
    rw [← State.answerRead_of_not_latching ha hreg hroot hl]
    simp only [exec, execLoReadLatch, hr, Bool.not_true, Bool.false_eq_true, if_false, if_true]
  case zero =>
    intro port off size s hr
    refine ⟨fun hsize => ?_, if_pos hr⟩
    simp only [exec, execLoReadLatch, hr, hsize, Bool.not_true, Bool.false_eq_true, if_false]
  case config =>
    intro port s ho hph hc
    refine if_pos ?_
    simp only [ho, hc, Bool.not_false, Bool.true_and, Bool.and_true, bne_iff_ne]
    exact hph
  case bad =>
    intro hv
    rw [State.judgeLoad_bad h hv]
    exact ⟨State.setBit_reg_of_ne _ timCtrl_ne_timEvent, State.setBit_flag_same _ _ _ (by decide)⟩
  case others =>
    intro g i hc he
    exact s.judgeLoad_regsMove g i (by simp [hc, he])
  case judged => exact (State.judgeLoad_kept (by decide) kept_refl).within

/-! ## PTP -/

/-- Sends on a list of links leave the block in order, where no send changes what the next one says. -/
theorem foldl_emit {α : Type} {f : State → α → Out} (hf : ∀ t o x, f (State.emit t o) x = f t x) (l : List α) (s : State) :
    (l.foldl (fun s x => s.emit (f s x)) s).out = (l.map (f s)).reverse ++ s.out ∧
      (l.foldl (fun s x => s.emit (f s x)) s).time = s.time ∧ Within (pieces [.out]) s (l.foldl (fun s x => s.emit (f s x)) s) := by
  refine ⟨?_, ?_, ?_⟩
  · induction l generalizing s with
    | nil => rfl
    | cons x l ih =>
      have htail : f (s.emit (f s x)) = f s := funext fun y => hf s _ y
      rw [List.foldl_cons, ih, htail, List.map_cons, List.reverse_cons, List.append_assoc]
      rfl
  · exact Kept.time (kept_foldl (fun _ _ hk => State.emit_kept (by decide) hk) kept_refl)
  · exact (kept_foldl (fun _ _ hk => State.emit_kept (by decide) hk) kept_refl).within

/-- What changes fabric time and then sends changes time and what was sent. -/
theorem within_setTime_out {s t : State} {x : TimeS} (h : Within (pieces [.out]) (s.setTime x) t) : Within (pieces [.time, .out]) s t := by
  intro p hp
  have ho : (pieces [.out]).testBit p.bit = false := by cases p <;> first | rfl | cases hp
  have hs := h p ho
  cases p <;> first | exact hs | cases hp

/-- Settles O12: frames of the best transmitter, of any other, and the sending, each under its condition. -/
theorem ptpEventsTakeTheirEffect : Obligations.PtpEventsTakeTheirEffect := by
  refine ⟨?sync, ?followUp, ?announce, ?timeout, ?syncSend, ?announceSend⟩
  case sync =>
    intro port dom sec nsec z l s hb hr hl
    have hexec (two : Bool) : exec (.ptpSyncReceived port dom two sec nsec z) s = execPtpSyncReceived port dom two sec nsec z s := rfl
    refine ⟨?_, fun ha => ?_⟩
    · simp only [hexec, execPtpSyncReceived, hb, hr, hl, and_self, if_true]
    · simp only [hexec, execPtpSyncReceived, hb, hr, hl, ha, and_self, if_true, Bool.false_eq_true, if_false, ptpTicks]
  case followUp =>
    intro port dom sec nsec z l s hb hr hl h2
    change execFollowUpReceived port dom sec nsec z s = _
    simp only [execFollowUpReceived, hb, hr, hl, h2, and_self, if_true]
    exact (apply_ite Outcome.next _ _ _).symm
  case announce =>
    intro port dom ds s hr
    exact if_pos hr
  case timeout =>
    intro port l s hm hp hlate
    refine if_pos (List.any_eq_true.mpr ⟨l, hm, ?_⟩)
    rw [hp, beq_self_eq_true, decide_eq_true hlate]
    rfl
  case syncSend =>
    intro s ht hlate
    obtain ⟨hout, htime, hw⟩ := foldl_emit (f := fun s q => .sync q (s.fld .timCtrl 0 10 4) (s.time.now / 100000000) (10 * (s.time.now % 100000000)))
      (fun _ _ _ => rfl) s.masterPorts (s.setTime { s.time with syncSent := s.time.now })
    exact ⟨_, if_pos ⟨ht, hlate⟩, htime, hout, within_setTime_out hw⟩
  case announceSend =>
    intro s ht hlate
    obtain ⟨hout, htime, hw⟩ := foldl_emit (f := fun s q => .announce q (s.fld .timCtrl 0 10 4) s.ownDataset)
      (fun _ _ _ => rfl) s.masterPorts (s.setTime { s.time with annSent := s.time.now })
    exact ⟨_, if_pos ⟨ht, hlate⟩, htime, hout, within_setTime_out hw⟩

end Sys2Proof.Machine
end

section
/-! SUPPORT. Rings: doorbells, descriptors, the life of a submission, and the ring registers (12). -/

namespace Sys2Proof.Machine

open Sys2Proof Host

/-! ## Fields of a word -/

/-- A number from its bits above a field, the field, and the bits below. -/
theorem split_field (n : Nat) {hi lo : Nat} (h : lo ≤ hi) :
    n = 2 ^ (hi + 1) * (n / 2 ^ (hi + 1)) + (2 ^ lo * bits n hi lo + n % 2 ^ lo) := by
  have hpow : 2 ^ (hi + 1) = 2 ^ lo * 2 ^ (hi + 1 - lo) := by rw [← Nat.pow_add]; congr 1; omega
  have hbits : bits n hi lo = n / 2 ^ lo % 2 ^ (hi + 1 - lo) := by rw [bits, Nat.shiftRight_eq_div_pow]
  calc n = 2 ^ lo * (n / 2 ^ lo) + n % 2 ^ lo := (Nat.div_add_mod n _).symm
    _ = 2 ^ lo * (2 ^ (hi + 1 - lo) * (n / 2 ^ lo / 2 ^ (hi + 1 - lo)) + n / 2 ^ lo % 2 ^ (hi + 1 - lo)) + n % 2 ^ lo := by
      rw [Nat.div_add_mod (n / 2 ^ lo)]
    _ = _ := by rw [hbits, Nat.div_div_eq_div_mul, ← hpow, Nat.mul_add, ← Nat.mul_assoc, ← hpow, Nat.add_assoc]

theorem testBit_field {A V C hi lo : Nat} (h : lo ≤ hi) (hV : V < 2 ^ (hi + 1 - lo)) (hC : C < 2 ^ lo) (b : Nat) :
    (2 ^ (hi + 1) * A + (2 ^ lo * V + C)).testBit b =
      if b < lo then C.testBit b else if b ≤ hi then V.testBit (b - lo) else A.testBit (b - (hi + 1)) := by
  have hpow : 2 ^ (hi + 1) = 2 ^ lo * 2 ^ (hi + 1 - lo) := by rw [← Nat.pow_add]; congr 1; omega
  have hlow : 2 ^ lo * V + C < 2 ^ (hi + 1) := by
    have : 2 ^ lo * (V + 1) ≤ 2 ^ lo * 2 ^ (hi + 1 - lo) := Nat.mul_le_mul_left _ hV
    rw [hpow]
    rw [Nat.mul_add, Nat.mul_one] at this
    omega
  rw [Nat.testBit_two_pow_mul_add _ hlow, Nat.testBit_two_pow_mul_add _ hC]
  split_ifs <;> first | rfl | omega

/-- Writing a field sets its bits and no others. -/
theorem wbit_setBits (w : Word) {hi lo : Nat} (v : Nat) (h : lo ≤ hi) (hhi : hi < 32) (b : Nat) :
    wbit (setBits w hi lo v) b = if lo ≤ b ∧ b ≤ hi then v.testBit (b - lo) else wbit w b := by
  have hsplit := split_field w.toNat h
  have hC : w.toNat % 2 ^ lo < 2 ^ lo := Nat.mod_lt _ (Nat.two_pow_pos _)
  have hV : v % 2 ^ (hi + 1 - lo) < 2 ^ (hi + 1 - lo) := Nat.mod_lt _ (Nat.two_pow_pos _)
  have hB : bits w.toNat hi lo < 2 ^ (hi + 1 - lo) := Nat.mod_lt _ (Nat.two_pow_pos _)
  have hnew : w.toNat - bits w.toNat hi lo * 2 ^ lo + v % 2 ^ (hi + 1 - lo) * 2 ^ lo =
      2 ^ (hi + 1) * (w.toNat / 2 ^ (hi + 1)) + (2 ^ lo * (v % 2 ^ (hi + 1 - lo)) + w.toNat % 2 ^ lo) := by
    rw [Nat.mul_comm (bits w.toNat hi lo), Nat.mul_comm (v % _)]
    omega
  have hbit (b : Nat) := testBit_field (A := w.toNat / 2 ^ (hi + 1)) h hV hC b
  have hold (b : Nat) := testBit_field (A := w.toNat / 2 ^ (hi + 1)) h hB hC b
  rw [← hsplit] at hold
  have hlt : 2 ^ (hi + 1) * (w.toNat / 2 ^ (hi + 1)) + (2 ^ lo * (v % 2 ^ (hi + 1 - lo)) + w.toNat % 2 ^ lo) < 2 ^ 32 := by
    refine Nat.lt_pow_two_of_testBit _ fun b hb => ?_
    rw [hbit, if_neg (by omega), if_neg (by omega)]
    have := hold b
    rw [if_neg (by omega), if_neg (by omega)] at this
    rw [← this]
    exact Nat.testBit_lt_two_pow (Nat.lt_of_lt_of_le w.isLt (Nat.pow_le_pow_right (by decide) hb))
  rw [wbit, setBits, hnew, BitVec.toNat_ofNat, Nat.mod_eq_of_lt hlt, hbit, wbit, hold]
  by_cases hb : lo ≤ b ∧ b ≤ hi
  · rw [if_neg (by omega), if_pos hb.2, if_pos hb, Nat.testBit_mod_two_pow, decide_eq_true (by omega), Bool.true_and]
  · rw [if_neg hb]
    split_ifs <;> first | rfl | omega

/-! ## Doorbells (R383, R385, R405) -/

/-- Settles O14: each doorbell by where its value stands in the ring. -/
theorem doorbellsTakeTheirWrites : Obligations.DoorbellsTakeTheirWrites := by
  refine ⟨?tail, ?head, ?record, ?ignored⟩
  case tail =>
    intro port ring size stray v s hr hb x
    have hexec : exec (.sqTail port ring size stray v) s = execSqTail port ring size stray v s := rfl
    simp only [hexec, execSqTail, hr, hb, Bool.not_true, Bool.false_eq_true, if_false]
    refine ⟨fun hout => if_pos hout, fun hin hne hnt hback => ?_, fun hin hne hnt hon => ?_⟩
    · rw [if_neg (Nat.not_lt.mpr hin), if_neg (not_or.mpr ⟨hne, hnt⟩), if_pos hback]
    · rw [if_neg (Nat.not_lt.mpr hin), if_neg (not_or.mpr ⟨hne, hnt⟩), if_neg (Nat.not_lt.mpr hon)]
  case head =>
    intro port ring size stray v s hr hb x
    have hexec : exec (.cqHead port ring size stray v) s = execCqHead port ring size stray v s := rfl
    simp only [hexec, execCqHead, hr, hb, Bool.not_true, Bool.false_eq_true, if_false]
    exact ⟨fun hout => if_pos hout, fun hin => if_neg (Nat.not_lt.mpr hin)⟩
  case record =>
    intro port ring size stray v s hr hb
    change execDoorbellStateReq port ring size stray v s = _
    simp only [execDoorbellStateReq, hr, hb, Bool.not_true, Bool.false_eq_true, if_false]
  case ignored =>
    intro port ring size stray v s hr hb
    have hexecs : exec (.sqTail port ring size stray v) s = execSqTail port ring size stray v s ∧
        exec (.cqHead port ring size stray v) s = execCqHead port ring size stray v s ∧
        exec (.doorbellStateReq port ring size stray v) s = execDoorbellStateReq port ring size stray v s := ⟨rfl, rfl, rfl⟩
    simp only [hexecs, execSqTail, execCqHead, execDoorbellStateReq, hr, hb, Bool.not_true, Bool.not_false, Bool.false_eq_true, if_false, if_true, and_self]

/-! ## Descriptors (R378, R392, R396) -/

section
variable {ring : Fin 4096} {slots : List (BitVec 512)} {s : State} (hact : (s.ring ring.val).st = .active)
  (hvis : diff32 (s.ring ring.val).tail (s.ring ring.val).head ≠ 0)
include hact hvis

theorem execDescriptorFetchDone_fails {st : ReadStatus} (h : st ≠ .ok) :
    exec (.descriptorFetchDone ring st slots) s = .next (s.haltRing ring.val 0x0612) := by
  change execDescriptorFetchDone ring st slots s = _
  simp only [execDescriptorFetchDone]
  rw [if_neg (not_or.mpr ⟨not_not.mpr hact, hvis⟩), if_pos (Or.inl h)]

/-- A fetched descriptor is judged by its sequence number, its slots and the free completion entries, in this order. -/
theorem execDescriptorFetchDone_fetched (hs : slots ≠ []) :
    exec (.descriptorFetchDone ring .ok slots) s =
      (let r := ring.val
      let x := s.ring r
      let raw := slots.map (·.toNat)
      let b := raw.getD 0 0
      let n := 1 + bits b 10 8
      let adm := bellTick x.head n s.time.now x.bells
      if bits b 63 32 ≠ s.taken r then .next (s.haltRing r 0x0602)
      else if diff32 x.tail x.head < n then .next (s.haltRing r 0x060A)
      else if diff32 x.claimed x.cqHead ≥ s.cqCap r then
        if s.time.now ≥ adm + 100 then .next (s.haltRing r 0x0611) else .next s
      else
        let sub := s.mkSub r (raw.take n) adm
        let sub := if s.time.now > adm + 100 then { sub with st := .refused, code := 0x0706, decided := adm + 100 } else sub
        let head := (x.head + n) % 2 ^ 32
        let x := { x with head := head, claimed := (x.claimed + 1) % 2 ^ 32, bells := x.bells.filter fun p => diff32 x.tail p.1 < diff32 x.tail head }
        let s := (s.setRing r x).setReg .hqRingSeq r (s.reg .hqRingSeq r + 1)
        .next (s.setSubs (s.subs ++ [sub]))) := by
  change execDescriptorFetchDone ring .ok slots s = _
  simp only [execDescriptorFetchDone]
  rw [if_neg (not_or.mpr ⟨not_not.mpr hact, hvis⟩), if_neg (not_or.mpr ⟨not_not.mpr rfl, hs⟩)]

end

/-- The head of a list of slots is what its submission is numbered by. -/
theorem State.mkSub_seq (s : State) (r : Nat) {slots : List Nat} {n adm : Nat} (hn : 0 < n) :
    (s.mkSub r (slots.take n) adm).seq = bits (slots.getD 0 0) 63 32 := by
  cases slots with
  | nil => rw [List.take_nil]; rfl
  | cons b l =>
    cases n with
    | zero => exact absurd hn (Nat.lt_irrefl _)
    | succ n => rfl

/-! ## Decisions (R65 to R72) -/

theorem State.writeRecord_time (s : State) (r : Nat) : (s.writeRecord r).time = s.time := Kept.time (State.writeRecord_kept (by decide) kept_refl)

section
variable {ring : Fin 4096} {seq : Word} {list : List Gran} {x : Sub} {s : State}

/-- The decision of the ring's next submission that is here, as the model takes it. -/
theorem execAdmissionDecision_next (hn : s.nextOf ring.val = some x) (hq : x.seq = seq.toNat) (hh : x.here = true)
    (hw : s.wardenRestarts (s.admitH x.part) = false) :
    exec (.admissionDecision ring seq list) s =
      if s.time.now > x.adm + 100 then .next (s.setSub (x.refuse 0x0706 (x.adm + 100)))
      else
        let own := if x.buf0.dev && (x.kind == 0x80 || x.kind == 0x82) then
          (s.devRead (Who.die_ (dieH (s.admitH x.part))) x.ctx x.buf0.addr (x.buf0.len / 16)).1 else list
        let p := if !x.buf0.dev && x.kind == 0x82 && s.validate x == 0 then s.readList x own else (own, s)
        if (p.2.sub? x.ring x.seq).any (·.st == .refused) then .next p.2
        else
          match p.2.decide_ x p.1 with
          | .error c => .next (p.2.setSub (x.refuse c p.2.time.now))
          | .ok f => .next (p.2.accept x f) := by
  change execAdmissionDecision ring seq list s = _
  simp only [execAdmissionDecision, hn]
  exact if_neg (by simp only [hq, hh, hw, ne_eq, not_true_eq_false, Bool.not_true, Bool.false_eq_true, or_self, not_false_eq_true])

end

/-- Settles O15: a descriptor by the checks it meets, in their order; a submission by the command that takes it on. -/
theorem submissionsAreTakenAndCompleted : Obligations.SubmissionsAreTakenAndCompleted := by
  refine ⟨?fetched, ?forwarded, ?decided, ?timeout, ?issued, fun _ _ => rfl, fun _ _ _ _ _ => rfl, ?window, ?control⟩
  case fetched =>
    intro ring slots s r x b n hact hvis
    refine ⟨fun st h => execDescriptorFetchDone_fails hact hvis h, fun hs hseq => ?_, fun hs hseq hn => ?_, fun hs hseq hn hfull => ?_,
      fun hs hseq hn hfree => ?_⟩
    all_goals rw [execDescriptorFetchDone_fetched hact hvis hs]; dsimp only
    · rw [if_pos hseq]
    · rw [if_neg (not_not.mpr hseq), if_pos hn]
    · rw [if_neg (not_not.mpr hseq), if_neg (Nat.not_lt.mpr hn), if_pos hfull]
      exact (apply_ite Outcome.next _ _ _).symm
    · rw [if_neg (not_not.mpr hseq), if_neg (Nat.not_lt.mpr hn), if_neg (Nat.not_le.mpr hfree)]
      refine ⟨_, _, rfl, rfl, ?_, ?_, ?_, ?_, ?_, ?_⟩
      · have hsub (adm : Nat) : (s.mkSub r ((slots.map (·.toNat)).take n) adm).seq = bits b 63 32 :=
          s.mkSub_seq r (Nat.lt_add_right _ Nat.one_pos)
        split
        · exact hsub (bellTick x.head n s.time.now x.bells)
        · exact hsub (bellTick x.head n s.time.now x.bells)
      · split <;> rfl
      · exact congrArg RingS.head (State.setRing_ring_same ..)
      · exact congrArg RingS.claimed (State.setRing_ring_same ..)
      · exact State.setReg_reg_same ..
      · exact (State.setSubs_kept (by decide) (State.setReg_kept (by decide) (State.setRing_kept (by decide) kept_refl))).within
  case forwarded =>
    intro ring seq x s hx hfirst
    change execForwardedDescriptor ring seq s = _
    simp only [execForwardedDescriptor, hx, hfirst, if_true]
  case decided =>
    intro ring seq list x s hn hq hh hw own
    have hexec := execAdmissionDecision_next (list := list) hn hq hh hw
    refine ⟨fun hlate => hexec.trans (if_pos hlate), ?_⟩
    intro p refused
    refine ⟨fun hin href => ?_, fun c hin href hc => ?_, fun f hin href hf => ?_⟩
    all_goals rw [hexec, if_neg (Nat.not_lt.mpr hin)]; dsimp only
    · exact if_pos href
    · refine (if_neg (Bool.eq_false_iff.mp href)).trans ?_
      change (match p.2.decide_ x p.1 with | .error c => _ | .ok f => _) = _
      rw [hc]
    · refine (if_neg (Bool.eq_false_iff.mp href)).trans ?_
      change (match p.2.decide_ x p.1 with | .error c => _ | .ok f => _) = _
      rw [hf]
  case timeout =>
    intro ring s
    change execAdmissionTimeout ring s = _
    simp only [execAdmissionTimeout, Bool.and_eq_true, beq_iff_eq, decide_eq_true_eq, and_assoc]
  case issued =>
    intro ring seq x y s u hx hm hy
    change execCompletionEntryIssue ring seq s = _
    simp only [execCompletionEntryIssue]
    rw [hx]
    simp only [hm, if_true]
    rw [hy]
  case window =>
    intro ring s hhit hend
    exact if_pos ⟨hhit, hend⟩
  case control =>
    intro ring seq x s hx hst hcode hdone
    refine ⟨fun hk => ?_, fun hk => ?_⟩
    · change execStateSubmission ring seq s = _
      simp only [execStateSubmission, hx, hk, hst, hcode, hdone, Bool.not_false, and_self, if_true, State.writeRecord_time]
    · change execNopSubmission ring seq s = _
      simp only [execNopSubmission, hx, hk, hst, hcode, hdone, Bool.not_false, and_self, if_true]

/-! ## The ring registers (R378 to R381) -/

theorem wbits_lt (w : Word) (hi lo : Nat) : wbits w hi lo < 2 ^ (hi + 1 - lo) := Nat.mod_lt _ (Nat.two_pow_pos _)

/-- The record that a set STATE_REQ asks for (R405). -/
def State.recordIf (s : State) (r : Nat) (b : Bool) : State := if b then s.writeRecord r else s

theorem State.writeRecord_within (s : State) (r : Nat) : Within (pieces [.ports, .out]) s (s.writeRecord r) :=
  (State.writeRecord_kept (by decide) kept_refl).within

theorem State.writeRecord_regs (s : State) (r : Nat) : (s.writeRecord r).regs = s.regs := s.writeRecord_within r .regs (by decide)

theorem State.writeRecord_rings (s : State) (r : Nat) : (s.writeRecord r).rings = s.rings := s.writeRecord_within r .rings (by decide)

theorem State.recordIf_regs (s : State) (r : Nat) (b : Bool) : (s.recordIf r b).regs = s.regs := by
  cases b
  · rfl
  · exact s.writeRecord_regs r

theorem State.recordIf_rings (s : State) (r : Nat) (b : Bool) : (s.recordIf r b).rings = s.rings := by
  cases b
  · rfl
  · exact s.writeRecord_rings r

theorem State.recordIf_kept {m : Nat} {s t : State} {r : Nat} {b : Bool} (hm : Nat.land m 134217792 = 134217792) (h : Kept m s t) :
    Kept m s (t.recordIf r b) := by
  cases b
  · exact h
  · exact State.writeRecord_kept hm h

/-- What a write of HQ_RING_CTRL stores before the ring is armed or disarmed. -/
def State.ringCtrlStored (s : State) (r : Nat) (w : Word) : State :=
  s.putRw .hqRingCtrl r (setBits w 0 0 (bnat (s.flag .hqRingCtrl r 0)))

section
variable {s : State} {r : Nat} (w : Word)

theorem bnat_testBit_zero (b : Bool) : (bnat b).testBit 0 = b := by cases b <;> rfl

theorem State.ringCtrlStored_en : (s.ringCtrlStored r w).flag .hqRingCtrl r 0 = s.flag .hqRingCtrl r 0 := by
  rw [State.flag, State.ringCtrlStored, State.putRw_wbit _ _ _ _ (by decide) (by decide), wbit_setBits _ _ (Nat.le_refl 0) (by decide),
    if_pos ⟨Nat.le_refl _, Nat.le_refl _⟩, Nat.sub_self, bnat_testBit_zero]

theorem State.ringCtrlStored_reg {g : RG} {i : Nat} (hr : r < 4096) (hg : g ≠ .hqRingCtrl) (hi : i < g.row.count) :
    (s.ringCtrlStored r w).reg g i = s.reg g i :=
  State.putRw_reg_of_ne _ _ (RG.off_ne hg hi hr)

theorem State.ringCtx_lt (s : State) (r : Nat) : s.ringCtx r < 4096 := wbits_lt ..

/-- Storing HQ_RING_CTRL changes no check of an arming. -/
theorem State.ringCtrlStored_mayArm (hr : r < 4096) : (s.ringCtrlStored r w).mayArm r = s.mayArm r := by
  have hring {g : RG} (hg : g ≠ .hqRingCtrl) (hc : g.row.count = 4096) : (s.ringCtrlStored r w).reg g r = s.reg g r :=
    State.ringCtrlStored_reg w hr hg (hc ▸ hr)
  have hctx : (s.ringCtrlStored r w).reg .xltCtxA (s.ringCtx r) = s.reg .xltCtxA (s.ringCtx r) :=
    State.ringCtrlStored_reg w hr (by decide) (s.ringCtx_lt r)
  have hst : (s.ringCtrlStored r w).ring r = s.ring r ∧ (∀ h, (s.ringCtrlStored r w).port h = s.port h) ∧
      (∀ d, (s.ringCtrlStored r w).excluded d = s.excluded d) ∧ ∀ p, (s.ringCtrlStored r w).part p = s.part p :=
    ⟨rfl, fun _ => rfl, fun _ => rfl, fun _ => rfl⟩
  obtain ⟨hringst, hport, hexcl, hpart⟩ := hst
  have hcfg : (s.ringCtrlStored r w).ringCtx r = s.ringCtx r ∧ (s.ringCtrlStored r w).ringH r = s.ringH r ∧
      (s.ringCtrlStored r w).ringPart r = s.ringPart r := by
    simp only [State.ringCtx, State.ringH, State.ringPart, State.fld, hring (g := .hqRingCfg) (by decide) rfl, and_self]
  obtain ⟨hc, hh, hp⟩ := hcfg
  have hvalid : (s.ringCtrlStored r w).ctxValid (s.ringCtx r) = s.ctxValid (s.ringCtx r) ∧
      (s.ringCtrlStored r w).ctxPart (s.ringCtx r) = s.ctxPart (s.ringCtx r) := by
    simp only [State.ctxValid, State.ctxPart, State.flag, State.fld, hctx, and_self]
  have hfld {g : RG} (hg : g ≠ .hqRingCtrl) (hcount : g.row.count = 4096) (hi lo : Nat) :
      (s.ringCtrlStored r w).fld g r hi lo = s.fld g r hi lo := congrArg (wbits · hi lo) (hring hg hcount)
  simp only [State.mayArm, hc, hh, hp, hvalid, hringst, hport, hexcl, hpart, hfld (g := .hqRingCfg) (by decide) rfl,
    hfld (g := .hqSqBaseLo) (by decide) rfl, hfld (g := .hqCqBaseLo) (by decide) rfl, hfld (g := .hqRsrBaseLo) (by decide) rfl]

/-- The three outcomes of a write of HQ_RING_CTRL, each followed by a record where STATE_REQ is set. -/
theorem State.writeRingCtrl_arms (hr : r < 4096) (hwas : s.flag .hqRingCtrl r 0 = false) (hw : wbit w 0 = true) :
    s.writeRingCtrl r w =
      (if s.mayArm r then (s.ringCtrlStored r w).armRing r
        else ((s.ringCtrlStored r w).setBit .hqRingEvt r 0).regErr (RG.off .hqRingCtrl r) 4).recordIf r (wbit w 1) := by
  have hstored : s.putRw .hqRingCtrl r (setBits w 0 0 (bnat false)) = s.ringCtrlStored r w := by rw [State.ringCtrlStored, hwas]
  simp only [State.writeRingCtrl, State.recordIf, hwas, hw, hstored, State.ringCtrlStored_mayArm w hr, Bool.not_false, Bool.and_self, if_true]

theorem State.writeRingCtrl_disarms (hwas : s.flag .hqRingCtrl r 0 = true) (hw : wbit w 0 = false) :
    s.writeRingCtrl r w = ((s.ringCtrlStored r w).disarmRing r).recordIf r (wbit w 1) := by
  simp only [State.writeRingCtrl, State.recordIf, State.ringCtrlStored, hwas, hw, Bool.not_true, Bool.false_and, Bool.true_and, Bool.false_eq_true, if_false, Bool.not_false, if_true]

theorem State.writeRingCtrl_records (hw : wbit w 0 = s.flag .hqRingCtrl r 0) (hreq : wbit w 1 = true) :
    s.writeRingCtrl r w = (s.ringCtrlStored r w).writeRecord r := by
  simp only [State.writeRingCtrl, State.ringCtrlStored, hw, hreq, Bool.not_and_self, Bool.and_not_self, Bool.false_eq_true, if_false, if_true]

end

theorem State.liftFence_regs (s : State) (h : Nat) : (s.liftFence h).regs = s.regs :=
  (State.liftFence_kept (ks := pieces [.ports]) (by decide) kept_refl).within .regs (by decide)

theorem State.liftFence_rings (s : State) (h : Nat) : (s.liftFence h).rings = s.rings :=
  (State.liftFence_kept (ks := pieces [.ports]) (by decide) kept_refl).within .rings (by decide)

/-- What an armed ring holds (R380). -/
theorem State.armRing_ring (s : State) (r : Nat) :
    ((s.armRing r).ring r).st = .active ∧ ((s.armRing r).ring r).head = 0 ∧ ((s.armRing r).ring r).claimed = 0 ∧ ((s.armRing r).ring r).cqw = 0 := by
  unfold State.armRing
  dsimp only
  rw [State.ring, State.writeRecord_rings, State.liftFence_rings, State.setRing_rings, smGet_set_same]
  exact ⟨rfl, rfl, rfl, rfl⟩

theorem State.armRing_regs (s : State) (r : Nat) :
    (s.armRing r).regs = (s.setReg .hqRingCtrl r (setBits (s.reg .hqRingCtrl r) 0 0 1)).regs := by
  unfold State.armRing
  dsimp only
  rw [State.writeRecord_regs, State.liftFence_regs, State.setRing_regs]

/-- What a disarmed ring becomes (R381, R410). -/
theorem State.disarmRing_st (s : State) (r : Nat) :
    ((s.ring r).st = .fenced → ((s.disarmRing r).ring r).st = .disabled) ∧
      ((s.ring r).st = .active ∨ (s.ring r).st = .halted → ((s.disarmRing r).ring r).st = .draining ∨ ((s.disarmRing r).ring r).st = .disabled) := by
  have hdrained (t : State) (x : RingS) : (((t.setRing r { x with st := .draining }).drained r).ring r).st = .draining ∨
      (((t.setRing r { x with st := .draining }).drained r).ring r).st = .disabled := by
    rw [State.drained]
    split
    · right
      rw [State.ring, State.writeRecord_rings, State.setRing_rings, smGet_set_same]
    · left
      rw [State.setRing_ring_same]
  refine ⟨fun hf => ?_, fun h => ?_⟩
  · rw [State.disarmRing]
    simp only [hf, State.setRing_ring_same]
  · rw [State.disarmRing]
    rcases h with h | h
    all_goals simp only [h]; exact hdrained _ _

theorem State.disarmRing_regs (s : State) (r : Nat) :
    (s.disarmRing r).regs = (s.setReg .hqRingCtrl r (setBits (s.reg .hqRingCtrl r) 0 0 0)).regs := by
  have hdrop (t u : State) (l : List Sub) (h : u.regs = t.regs) : (l.foldl (fun s x => (s.dropEntry x).closeSub x.ring x.seq) u).regs = t.regs := by
    induction l generalizing u with
    | nil => exact h
    | cons x l ih => exact ih _ h
  have hdrained (t : State) : (t.drained r).regs = t.regs :=
    (State.drained_kept (ks := pieces [.rings, .ports, .out]) (by decide) kept_refl).within .regs (by decide)
  rw [State.disarmRing]
  cases (s.ring r).st with
  | fenced => exact hdrop _ _ _ rfl
  | active => exact hdrained _
  | halted => exact hdrained _
  | disabled => rfl
  | draining => rfl

/-- A ring that is not fenced is disarmed with no entry dropped. -/
theorem State.disarmRing_kept_unfenced {b s : State} {r : Nat} (h : (s.ring r).st ≠ .fenced) (hk : Kept (pieces [.regs, .rings, .ports, .out]) b s) :
    Kept (pieces [.regs, .rings, .ports, .out]) b (s.disarmRing r) := by
  have hset := State.setReg_kept (g := .hqRingCtrl) (i := r) (w := setBits (s.reg .hqRingCtrl r) 0 0 0) (by decide) hk
  rw [State.disarmRing]
  cases hst : (s.ring r).st with
  | fenced => exact absurd hst h
  | active => exact State.drained_kept (by decide) (State.setRing_kept (by decide) hset)
  | halted => exact State.drained_kept (by decide) (State.setRing_kept (by decide) hset)
  | disabled => exact hset
  | draining => exact hset

theorem State.reg_of_regs {s t : State} (h : s.regs = t.regs) (g : RG) (i : Nat) : s.reg g i = t.reg g i := by rw [State.reg, h, State.reg]

theorem State.ring_of_rings {s t : State} (h : s.rings = t.rings) (r : Nat) : s.ring r = t.ring r := by rw [State.ring, h, State.ring]

/-- EN after an arming and after a disarming. -/
theorem State.setEn_flag (s : State) (r : Nat) (v : Nat) :
    wbit ((s.setReg .hqRingCtrl r (setBits (s.reg .hqRingCtrl r) 0 0 v)).reg .hqRingCtrl r) 0 = v.testBit 0 := by
  rw [State.setReg_reg_same, wbit_setBits _ _ (Nat.le_refl 0) (by decide), if_pos ⟨Nat.le_refl _, Nat.le_refl _⟩]

/-- Settles O16: a write of EN arms, is refused or disarms; the record that STATE_REQ adds changes neither registers nor rings. -/
theorem ringRegistersTakeTheirWrites : Obligations.RingRegistersTakeTheirWrites := by
  refine ⟨?arm, ?disarm, ?record, ?seq⟩
  case arm =>
    intro port ring w s hr hw hwas r
    have hexec : exec (.ringEnArm port ring w) s = .next (s.writeRingCtrl ring.val w) := if_pos ⟨hr, hw, by rw [hwas]; rfl⟩
    have hctrl := State.writeRingCtrl_arms w ring.isLt hwas hw
    refine ⟨fun hm => ⟨_, hexec, ?_⟩, fun hm => ⟨_, hexec, ?_⟩⟩
    · rw [hctrl, if_pos hm]
      obtain ⟨hst, hhead, hclaimed, hcqw⟩ := (s.ringCtrlStored ring.val w).armRing_ring ring.val
      have hrings := State.ring_of_rings (State.recordIf_rings ((s.ringCtrlStored ring.val w).armRing ring.val) ring.val (wbit w 1)) ring.val
      have hregs := (State.recordIf_regs _ ring.val (wbit w 1)).trans ((s.ringCtrlStored ring.val w).armRing_regs ring.val)
      have hseq : RG.off .hqRingSeq ring.val ≠ RG.off .hqRingCtrl ring.val := RG.off_ne (by decide) ring.isLt ring.isLt
      refine ⟨hrings ▸ hst, hrings ▸ hhead, hrings ▸ hclaimed, hrings ▸ hcqw, ?_, ?_,
        (State.recordIf_kept (by decide) (State.armRing_kept (by decide) (State.putRw_kept (by decide) kept_refl))).within⟩
      · rw [State.flag, State.reg_of_regs hregs, State.setEn_flag]
        rfl
      · rw [State.reg_of_regs hregs, State.setReg_reg_of_ne _ _ hseq, State.ringCtrlStored_reg w ring.isLt (by decide) ring.isLt]
    · rw [hctrl, if_neg (Bool.eq_false_iff.mp hm)]
      have hregs := State.recordIf_regs (((s.ringCtrlStored ring.val w).setBit .hqRingEvt ring.val 0).regErr (RG.off .hqRingCtrl ring.val) 4) ring.val (wbit w 1)
      have hne : RG.off .hqRingCtrl ring.val ≠ RG.off .hqRingEvt ring.val := RG.off_ne (by decide) ring.isLt ring.isLt
      have hctrlerr : RG.off .hqRingCtrl ring.val ≠ RG.off .sysRegerr 0 := RG.off_ne (by decide) ring.isLt (by decide)
      have hevterr : RG.off .hqRingEvt ring.val ≠ RG.off .sysRegerr 0 := RG.off_ne (by decide) ring.isLt (by decide)
      refine ⟨?_, ?_, (State.recordIf_kept (by decide)
        (State.regErr_kept (by decide) (State.setBit_kept (by decide) (State.putRw_kept (by decide) kept_refl)))).within⟩
      · rw [State.flag, State.reg_of_regs hregs, State.regErr_reg_of_ne _ _ _ hctrlerr, State.setBit_reg_of_ne _ hne]
        exact (State.ringCtrlStored_en w).trans hwas
      · rw [State.flag, State.reg_of_regs hregs, State.regErr_reg_of_ne _ _ _ hevterr]
        exact State.setBit_flag_same _ _ _ (by decide)
  case disarm =>
    intro port ring w s hr hw hwas
    refine ⟨_, if_pos ⟨hr, by rw [hw]; rfl, hwas⟩, ?_⟩
    rw [State.writeRingCtrl_disarms w hwas hw]
    obtain ⟨hfenced, hdrains⟩ := (s.ringCtrlStored ring.val w).disarmRing_st ring.val
    have hregs := (State.recordIf_regs _ ring.val (wbit w 1)).trans ((s.ringCtrlStored ring.val w).disarmRing_regs ring.val)
    have hrings := State.ring_of_rings (State.recordIf_rings ((s.ringCtrlStored ring.val w).disarmRing ring.val) ring.val (wbit w 1)) ring.val
    have hput {m : Nat} (hm : Nat.land m 1 = 1) : Kept m s (s.ringCtrlStored ring.val w) := State.putRw_kept hm kept_refl
    refine ⟨?_, fun hf => hrings ▸ hfenced hf, fun hd => hrings ▸ hdrains hd, fun hf => ?_,
      (State.recordIf_kept (by decide) (State.disarmRing_kept (by decide) (hput (by decide)))).within⟩
    · rw [State.flag, State.reg_of_regs hregs, State.setEn_flag]
      rfl
    · exact (State.recordIf_kept (by decide) (State.disarmRing_kept_unfenced (s := s.ringCtrlStored ring.val w) hf (hput (by decide)))).within
  case record =>
    intro port ring w s hr hreq hw
    exact (if_pos ⟨hr, hreq, hw⟩).trans (congrArg Outcome.next (State.writeRingCtrl_records w hw hreq))
  case seq =>
    intro port ring w s hr
    refine ⟨_, if_pos hr, (State.writeRingSeq_kept (by decide) kept_refl).within, ?_⟩
    rw [State.writeRingSeq]
    split_ifs
    · rfl
    · exact State.regErr_reg_of_ne _ _ _ (RG.off_ne (by decide) ring.isLt (by decide))
    · exact State.setReg_reg_same ..

end Sys2Proof.Machine
end

section
/-! SUPPORT. Memory agents: reads and what a codeword's error leaves; the writes and the ways that fail what is claimed of them (10). -/

namespace Sys2Proof.Machine

open Sys2Proof Host

theorem Kept.mem {s t : State} (h : Kept (allBut .mem) s t) : t.mem = s.mem := h.within .mem (by decide)

/-! ## Edges without errors -/

theorem State.headers_nil (s : State) (q : Req) : s.headers q [] = s := by
  unfold State.headers
  cases s.agentDie q <;> rfl

theorem State.lostOut_nil (s : State) (q : Req) : s.lostOut q [] = none := by
  unfold State.lostOut
  cases s.agentDie q <;> rfl

theorem State.reply_of_none {s : State} {q : Req} {edges : List EdgeErr} (out : State → State)
    (h : ((s.agentDie q).bind fun d => lostHeader edges false q.die d) = none) : s.reply q edges out = out s := by
  rw [State.reply, h]

theorem State.reply_nil (s : State) (q : Req) (out : State → State) : s.reply q [] out = out s :=
  State.reply_of_none out (by cases s.agentDie q <;> rfl)

/-! ## Reads (R307, R315, R324) -/

theorem State.readUpsets_of_no_flaws {s : State} (h : s.mem.flaws = []) (pc line addr : Nat) (ctx : Option Nat) : s.readUpsets pc line addr ctx [] = s := by
  simp only [State.readUpsets, MemS.withFlaws, h, List.any_nil, Bool.false_and, List.filter_false, List.map_nil, List.append_nil, List.foldl_nil]

section
variable {s : State} {q : Req} {i pc line : Nat}

theorem State.agentRead_error {c : Nat} (h : s.agentCheck q false = .error c) :
    s.agentRead q = (poisonLine, c, s.raise (agentFault s q c)) := by
  rw [State.agentRead, h]

theorem State.agentRead_deaf (h : s.agentCheck q false = .ok (i, pc, line)) (hd : s.deaf pc = true) :
    s.agentRead q = (poisonLine, 0, s.raise { FaultRec.new s 0x0501 (some (pcDie pc)) (pcUnit pc) with ctx := some q.ctx }) := by
  simp only [State.agentRead, h, hd, if_true]

theorem State.agentRead_ok (h : s.agentCheck q false = .ok (i, pc, line)) (hd : s.deaf pc = false) : s.agentRead q = (s.lineOf i pc line q.addr, 0, s) := by
  simp only [State.agentRead, h, hd, Bool.false_eq_true, if_false]

end

theorem State.raise_mem (s : State) (r : FaultRec) : (s.raise r).mem = s.mem := Kept.mem (State.raise_kept (by decide) kept_refl)

theorem State.emit_head (s : State) (o : Out) : (s.emit o).out.head? = some o := rfl

theorem State.emit_emit_take (s : State) (o p : Out) : ((s.emit o).emit p).out.take 2 = [p, o] := rfl

/-- MEM_READ by what its request meets. -/
theorem exec_memRead_lost {q : MemReq} {upset : List Upset} {edges : List EdgeErr} {s : State} {e : EdgeErr} (hrun : s.agentsRun = true)
    (he : (s.headers (MemReq.req q) edges).lostOut (MemReq.req q) edges = some e) :
    exec (.memRead q upset edges) s = .next ((s.headers (MemReq.req q) edges).raise (edgeFault (s.headers (MemReq.req q) edges) 0x0106 e)) := by
  change execMemRead q upset edges s = _
  simp only [execMemRead, hrun, Bool.not_true, Bool.false_eq_true, if_false, he]

theorem exec_memRead_error {q : MemReq} {s : State} {c : Nat} (hrun : s.agentsRun = true) (h : s.agentCheck (MemReq.req q) false = .error c) :
    exec (.memRead q [] []) s =
      .next (((s.raise (agentFault s (MemReq.req q) c)).emit (.memReply (MemReq.req q).ctx poisonLine)).emit (.memRefused (MemReq.req q).ctx c)) := by
  change execMemRead q [] [] s = _
  simp only [execMemRead, hrun, Bool.not_true, Bool.false_eq_true, if_false, State.headers_nil, State.lostOut_nil, h, State.reply_nil,
    State.agentRead_error h]

theorem exec_memRead_served {q : MemReq} {upset : List Upset} {edges : List EdgeErr} {s u : State} {i pc line : Nat} (hrun : s.agentsRun = true)
    (hu : s.headers (MemReq.req q) edges = u) (hl : u.lostOut (MemReq.req q) edges = none) (h : u.agentCheck (MemReq.req q) false = .ok (i, pc, line)) :
    exec (.memRead q upset edges) s =
      (let r := MemReq.req q
      let a := (if u.deaf pc then u else u.readUpsets pc line (r.addr / 256 * 256) (some r.ctx) upset).agentRead r
      .next (a.2.2.reply r edges fun s =>
        let b := s.crossEdges (fun _ e => !e.out && between r.die (pcDie pc) e) a.1 edges
        b.2.emit (.memReply r.ctx b.1))) := by
  change execMemRead q upset edges s = _
  simp only [execMemRead, hrun, Bool.not_true, Bool.false_eq_true, if_false, hu, hl, h]

/-! ## A codeword stored as it decodes (R321, R322) -/

section
variable (m : MemS) (g : Gran) (p : Bool)

theorem MemS.markGran_poisoned_same (sp : Space) (a : Nat) : (m.markGran sp a p).poisoned sp a = p := by
  rw [MemS.markGran, MemS.poisoned, MemS.store_poisons_same, MemS.store_cold, smGet_set_same]

theorem MemS.markGran_poisoned_of_ne (sp : Space) {a b : Nat} (hcold : ∀ c, m.cold sp c = false) (h : b / 16 ≠ a / 16) :
    (m.markGran sp a p).poisoned sp b = m.poisoned sp b := by
  rw [MemS.markGran, MemS.poisoned, MemS.store_poisons_same, MemS.store_cold, MemS.poisoned, hcold, hcold, smGet_set_other _ _ _ _ _ h]

theorem MemS.writeGran_poisoned_same (sp : Space) (a : Nat) : (m.writeGran sp a g).poisoned sp a = g.poison :=
  congrArg Gran.poison (m.readGran_writeGran_same sp a g)

theorem MemS.writeGran_poisoned_of_ne (sp : Space) {a b : Nat} (hcold : ∀ c, m.cold sp c = false) (h : b / 16 ≠ a / 16) :
    (m.writeGran sp a g).poisoned sp b = m.poisoned sp b := by
  rw [MemS.writeGran, MemS.poisoned, MemS.store_poisons_same, MemS.store_cold, MemS.poisoned, hcold, hcold, smGet_set_other _ _ _ _ _ h]

theorem MemS.writeGran_readByte_of_apart (a : Nat) {b : Nat} (h : b < a ∨ a + 16 ≤ b) :
    readByte (m.writeGran .hbm a g).hbm b = readByte m.hbm b := by
  change readByte (writeBytes m.hbm a (granBytes g)) b = _
  exact readByte_writeBytes_other _ _ _ _ (by rw [granBytes_length]; exact h)

variable (a : Nat)

theorem MemS.restore_poisoned_same : (m.restore a g).poisoned .hbm a = g.poison := by
  unfold MemS.restore
  split
  · exact (m.markGran_poisoned_same true .hbm a).trans (Eq.symm ‹_›)
  · exact m.writeGran_poisoned_same g .hbm a

theorem MemS.restore_poisoned_of_ne {b : Nat} (h : b / 16 ≠ a / 16) : (m.restore a g).poisoned .hbm b = m.poisoned .hbm b := by
  unfold MemS.restore
  split
  · exact m.markGran_poisoned_of_ne true .hbm (fun _ => rfl) h
  · exact m.writeGran_poisoned_of_ne g .hbm (fun _ => rfl) h

theorem MemS.restore_readGran (h : g.poison = false) : (m.restore a g).readGran .hbm a = g := by
  rw [MemS.restore, h]
  exact m.readGran_writeGran_same .hbm a g

theorem MemS.restore_hbm_of_poison (h : g.poison = true) : (m.restore a g).hbm = m.hbm := by
  rw [MemS.restore, h]
  rfl

theorem MemS.restore_readByte_of_apart {b : Nat} (h : b < a ∨ a + 16 ≤ b) : readByte (m.restore a g).hbm b = readByte m.hbm b := by
  unfold MemS.restore
  split
  · rfl
  · exact m.writeGran_readByte_of_apart g a h

theorem MemS.restore_rewrites : (m.restore a g).rewrites = m.rewrites := by
  unfold MemS.restore
  split <;> rfl

end

/-- The rewrite that a corrected codeword owes (R324). -/
def Decoded.owes (o : Decoded) (pc line tick : Nat) : List (Nat × Nat × Nat) := match o with | .corrected .. => [(pc, line, tick)] | _ => []

/-- A read stores an upset codeword again as it decodes; its counts and records change no memory. -/
theorem State.readUpset_mem (s : State) (pc line addr : Nat) (ctx : Option Nat) (u : Upset) :
    (s.readUpset pc line addr ctx u).mem =
      (let w := s.mem.word (hbmAt pc line + 16 * u.gran) u.data.toNat u.check.toNat
      let m := s.mem.restore (hbmAt pc line + 16 * u.gran) (w.2.gran w.1)
      { m with rewrites := m.rewrites ++ w.2.owes pc line (s.time.now + 64) }) := by
  have hself (m : MemS) : { m with rewrites := m.rewrites ++ [] } = m := by rw [List.append_nil]
  have hraise {t v : State} (r : FaultRec) (hk : Kept (allBut .mem) t v) : Kept (allBut .mem) t (v.raise r) := State.raise_kept (by decide) hk
  have hbump {t v : State} (die unit off : Nat) (hk : Kept (allBut .mem) t v) : Kept (allBut .mem) t (v.bump die unit off (2 ^ 32 - 1) 1) :=
    State.bump_kept (by decide) hk
  unfold State.readUpset
  dsimp only
  generalize s.mem.restore (hbmAt pc line + 16 * u.gran) _ = m
  cases (s.mem.word (hbmAt pc line + 16 * u.gran) u.data.toNat u.check.toNat).2 with
  | clean => exact (Kept.mem (kept_ite (fun _ => hraise _ (hbump _ _ _ kept_refl)) fun _ => kept_refl)).trans (hself m).symm
  | corrected pos d => exact Kept.mem (kept_ite (fun _ => hraise _ (hbump _ _ _ (hraise _ kept_refl))) fun _ => hraise _ kept_refl)
  | uncorrectable => exact (Kept.mem (hraise _ (hbump _ _ _ kept_refl))).trans (hself m).symm
  | poisoned => exact (hself m).symm

/-- Settles O17: a request by the checks it meets; an upset codeword through the memory that its read leaves. -/
theorem agentReadsAnswer : Obligations.AgentReadsAnswer := by
  refine ⟨fun q s hrun => ⟨fun c h => ?error, fun i pc line h hd => ?deaf, fun i pc line h hd hf => ?served⟩,
    fun q upset edges i pc line s hrun => ⟨fun e he => exec_memRead_lost hrun he, fun hl h hd => ?crossed⟩, ?upset⟩
  case error =>
    exact ⟨_, exec_memRead_error hrun h, State.emit_emit_take ..,
      Kept.mem (State.emit_kept (by decide) (State.emit_kept (by decide) (State.raise_kept (by decide) kept_refl)))⟩
  case deaf =>
    refine ⟨_, exec_memRead_served hrun (State.headers_nil _ _) (State.lostOut_nil _ _) h, ?_⟩
    rw [if_pos hd, State.agentRead_deaf h hd, State.reply_nil]
    exact ⟨State.emit_head .., Kept.mem (State.emit_kept (by decide) (State.raise_kept (by decide) kept_refl))⟩
  case served =>
    rw [exec_memRead_served hrun (State.headers_nil _ _) (State.lostOut_nil _ _) h]
    dsimp only
    rw [if_neg (Bool.eq_false_iff.mp hd), State.readUpsets_of_no_flaws hf, State.agentRead_ok h hd]
    dsimp only
    rw [State.reply_nil]
    rfl
  case crossed =>
    intro a b hback
    rw [exec_memRead_served hrun rfl hl h]
    dsimp only
    rw [if_neg (Bool.eq_false_iff.mp hd)]
    exact congrArg Outcome.next (State.reply_of_none _ hback)
  case upset =>
    intro pc line addr ctx u s _ at_ w t
    have hmem : t.mem = { s.mem.restore at_ (w.2.gran w.1) with
        rewrites := (s.mem.restore at_ (w.2.gran w.1)).rewrites ++ w.2.owes pc line (s.time.now + 64) } := State.readUpset_mem ..
    rw [hmem]
    refine ⟨MemS.restore_poisoned_same .., fun hp => MemS.restore_readGran _ _ _ hp, fun hp => MemS.restore_hbm_of_poison _ _ _ hp,
       fun a h => MemS.restore_readByte_of_apart _ _ _ h,
      fun a h => MemS.restore_poisoned_of_ne _ _ _ h, ?_⟩
    dsimp only
    rw [MemS.restore_rewrites]
    cases w.2 <;> rfl

/-! ## What does not hold -/

/-- A block that serves, with the link of port 0 up. -/
def State.inService : State :=
  { State.reset with boot := { State.reset.boot with phase := .open_, ptck := true }, ports := [(0, { PortS.init with link := .up, perst := false })] }

/-- Region 0 holds the first GiB on channel 0 of stack 0 for partition 0, whose context 0 has withdrawn its generation 0. -/
def State.withdrawnContext : State :=
  let s := (((State.inService.setReg .memRgnA 0 0x1000).setReg .memRgnB 0 1).setReg .memRgnC 0 1).setReg .memRgnD 0 0x100
  let s := s.setReg .xltCtxA 0 0x40
  s.setXlt { s.xlt with gens := [(0, { CtxGen.init with gen := 1, floor := 1 })] }

/-- A core's write to the first line of memory in the name of context 0, under its withdrawn generation. -/
def withdrawnRequest : MemReq := { addr := 0, ctx := 0, gen := 0, from_ := .other 1 }

/-- Refutes O18: a write under a withdrawn generation fails the check with 0x0403, but the agent answers 0x0411 (R365, R437). -/
theorem not_agentWritesTakeEffect : ¬ Obligations.AgentWritesTakeEffect := by
  intro h
  obtain ⟨hwrites, -⟩ := h
  obtain ⟨-, -, -, hrefused⟩ := hwrites withdrawnRequest 0 [] State.withdrawnContext (by decide +kernel)
  obtain ⟨t, he, hout, -⟩ := hrefused 0x0403 (by decide +kernel)
  have hanswer : (match exec (.memWrite withdrawnRequest 0 [] [] []) State.withdrawnContext with
      | .next t => t.out.head? | _ => none) = some (.memRefused 0 0x0411) := by decide +kernel
  rw [he] at hanswer
  exact absurd (hanswer.symm.trans hout) (by decide)

/-- A block that serves, with the first row-cache bank of G-die 0 classed PERMANENT. -/
def State.bankLost : State := State.inService.setUnit (256 * dieG 0 + 0x10) { UnitRec.init with st := 2, perm := true }

/-- Refutes O21: a row-cache way whose bank is PERMANENT is refused (R530, R581), so V stays 0. -/
theorem not_channelsAndWaysTakeTheirWrites : ¬ Obligations.ChannelsAndWaysTakeTheirWrites := by
  intro h
  obtain ⟨-, -, -, -, -, -, hassign, -⟩ := h
  obtain ⟨t, he, hv, -⟩ := hassign 0 0 0 0 0x40 State.bankLost (by decide +kernel) (by decide +kernel) (by decide +kernel)
  have hstays : (match exec (.rwayAssign 0 0 0 0x40) State.bankLost with | .next t => t.flag .gthRway 0 6 | _ => true) = false := by decide +kernel
  rw [he] at hstays
  exact absurd (hstays.symm.trans hv) (by decide)

end Sys2Proof.Machine
end

section
/-! SUPPORT. Memory agents: lines in the combining buffers, the slots that store them, scrubs and the runs of traffic generators (10). -/

namespace Sys2Proof.Machine

open Sys2Proof Host

/-! ## Masks and lines (R316, R317) -/

theorem pack_append (l k : List (Nat × Nat × Nat)) : pack (l ++ k) = pack l + pack k := by
  induction l with
  | nil => exact (Nat.zero_add _).symm
  | cons x l ih => rw [List.cons_append, pack, ih, pack, Nat.add_assoc]

/-- The sixteen fields of a number are packed into it again. -/
theorem pack_fields (m n : Nat) : pack ((List.range n).map fun j => (16 * j, 16, bits m (16 * j + 15) (16 * j))) = m % 2 ^ (16 * n) := by
  induction n with
  | zero => rw [Nat.mul_zero, Nat.pow_zero, Nat.mod_one]; rfl
  | succ n ih =>
    have hfield : bits m (16 * n + 15) (16 * n) = m / 2 ^ (16 * n) % 2 ^ 16 := by
      rw [bits, Nat.shiftRight_eq_div_pow, show 16 * n + 15 + 1 - 16 * n = 16 by omega]
    rw [List.range_succ, List.map_append, pack_append, ih, List.map_singleton, pack, pack, Nat.add_zero, hfield, Nat.mod_mod, Nat.mul_succ, Nat.pow_add,
      Nat.mod_mul, Nat.mul_comm (2 ^ (16 * n)) (_ % _)]

/-- Without a sub-granule write every granule is written whole or not at all. -/
theorem gmask_of_not_subGranule {mask : BitVec 256} (h : subGranule mask = false) {j : Nat} (hj : j < 16) : gmask mask j = 0 ∨ gmask mask j = 2 ^ 16 - 1 := by
  have hj' := List.any_eq_false.mp h j (List.mem_range.mpr hj)
  simp only [Bool.and_eq_true, bne_iff_ne, ne_eq, not_and, not_not] at hj'
  by_cases h0 : gmask mask j = 0
  · exact .inl h0
  · exact .inr (hj' h0)

/-- Such a write loses no bytes to poison. -/
theorem liveMask_of_not_subGranule {mask : BitVec 256} (h : subGranule mask = false) (seen : List Gran) : liveMask mask seen = mask := by
  have hfields : (List.range 16).map (fun j =>
        (16 * j, 16, if gmask mask j != 2 ^ 16 - 1 && (seen.getD j { data := 0, poison := false }).poison then 0 else gmask mask j)) =
      (List.range 16).map fun j => (16 * j, 16, bits mask.toNat (16 * j + 15) (16 * j)) := by
    refine List.map_congr_left fun j hj => ?_
    have hfield : bits mask.toNat (16 * j + 15) (16 * j) = gmask mask j := rfl
    rw [hfield]
    rcases gmask_of_not_subGranule h (List.mem_range.mp hj) with hm | hm
    · rw [hm, ite_self]
    · rw [hm]
      rfl
  rw [liveMask]
  dsimp only
  rw [hfields, pack_fields, Nat.mod_eq_of_lt mask.isLt, BitVec.ofNat_toNat, BitVec.setWidth_eq]

section
variable (m : Nat)

theorem mixBytes_nil (i : Nat) (zs : List Byte) : mixBytes m i zs [] = zs := by cases zs <;> rfl

theorem mixBytes_take (n i : Nat) (zs ds : List Byte) : (mixBytes m i zs ds).take n = mixBytes m i (zs.take n) (ds.take n) := by
  induction n generalizing i zs ds with
  | zero => rfl
  | succ n ih =>
    cases zs with
    | nil => rfl
    | cons z zs =>
      cases ds with
      | nil => rw [List.take_nil, mixBytes_nil, mixBytes_nil]
      | cons d ds => exact congrArg (_ :: ·) (ih (i + 1) zs ds)

theorem mixBytes_drop (n i : Nat) (zs ds : List Byte) : (mixBytes m i zs ds).drop n = mixBytes m (i + n) (zs.drop n) (ds.drop n) := by
  induction n generalizing i zs ds with
  | zero => rfl
  | succ n ih =>
    cases zs with
    | nil => rfl
    | cons z zs =>
      cases ds with
      | nil => rw [List.drop_nil, mixBytes_nil, mixBytes_nil]
      | cons d ds =>
        rw [List.drop_succ_cons, List.drop_succ_cons, Nat.add_comm n 1, ← Nat.add_assoc, ← ih (i + 1) zs ds, Nat.add_comm 1 n]
        rfl

theorem mixBytes_of_all {i : Nat} {zs ds : List Byte} (hlen : zs.length = ds.length) (h : ∀ k, k < zs.length → m.testBit (i + k) = true) :
    mixBytes m i zs ds = ds := by
  induction zs generalizing i ds with
  | nil => exact (List.length_eq_zero_iff.mp hlen.symm).symm
  | cons z zs ih =>
    cases ds with
    | nil => exact absurd hlen (Nat.succ_ne_zero _)
    | cons d ds =>
      have htail := ih (i := i + 1) (ds := ds) (Nat.succ.inj hlen) fun k hk => by
        rw [Nat.add_assoc, Nat.add_comm 1 k]
        exact h (k + 1) (Nat.succ_lt_succ hk)
      have hhead : m.testBit i = true := h 0 (Nat.succ_pos _)
      rw [mixBytes, htail, if_pos hhead]

end

theorem testBit_of_gmask_full {mask : BitVec 256} {j k : Nat} (h : gmask mask j = 2 ^ 16 - 1) (hk : k < 16) : mask.toNat.testBit (16 * j + k) = true := by
  have hbit : (gmask mask j).testBit k = true := by rw [h, Nat.testBit_two_pow_sub_one, decide_eq_true hk]
  rw [gmask, testBit_bits] at hbit
  exact (Bool.and_eq_true_iff.mp hbit).2

/-- Bytes under the mask are the write's, whatever the buffered line held elsewhere. -/
theorem mixLine_mixBytes {mask : BitVec 256} (h : subGranule mask = false) (gp : BitVec 16) {gs : List Gran} {j : Nat} {zs ds : List Byte}
    (hlen : zs.length = ds.length) (hj : j + gs.length ≤ 16) :
    mixLine mask gp j gs (mixBytes mask.toNat (16 * j) zs ds) = mixLine mask gp j gs ds := by
  induction gs generalizing j zs ds with
  | nil => rfl
  | cons g gs ih =>
    rw [List.length_cons] at hj
    have htail := ih (j := j + 1) (zs := zs.drop 16) (ds := ds.drop 16) (by rw [List.length_drop, List.length_drop, hlen]) (by omega)
    have hhead : mixGran g (gmask mask j) ((mixBytes mask.toNat (16 * j) zs ds).take 16) (gp.toNat.testBit j) =
        mixGran g (gmask mask j) (ds.take 16) (gp.toNat.testBit j) := by
      rcases gmask_of_not_subGranule h (j := j) (by omega) with hm | hm
      · rw [hm, mixGran, mixGran, if_pos rfl, if_pos rfl]
      · rw [mixBytes_take, mixBytes_of_all _ (by rw [List.length_take, List.length_take, hlen]) fun k hk =>
          testBit_of_gmask_full hm (Nat.lt_of_lt_of_le hk (List.length_take_le _ _))]
    rw [mixLine, mixLine, hhead, mixBytes_drop, ← Nat.mul_succ, htail]

theorem gmask_zero (j : Nat) : gmask 0 j = 0 := by
  have hzero : (0 : BitVec 256).toNat = 0 := rfl
  rw [gmask, bits, hzero, Nat.zero_shiftRight, Nat.zero_mod]

theorem mixLine_zero (gp : BitVec 16) (j : Nat) (gs : List Gran) (ds : List Byte) : mixLine 0 gp j gs ds = gs := by
  induction gs generalizing j ds with
  | nil => rfl
  | cons g gs ih => rw [mixLine, gmask_zero, mixGran, if_pos rfl, ih]

theorem mixLine_length (mask : BitVec 256) (gp : BitVec 16) (j : Nat) (gs : List Gran) (ds : List Byte) : (mixLine mask gp j gs ds).length = gs.length := by
  induction gs generalizing j ds with
  | nil => rfl
  | cons g gs ih => rw [mixLine, List.length_cons, ih, List.length_cons]

theorem MemS.readGrans_length (m : MemS) (sp : Space) (a n : Nat) : (m.readGrans sp a n).length = n := by
  induction n generalizing a with
  | zero => rfl
  | succ n ih => rw [MemS.readGrans, List.length_cons, ih]

theorem MemS.storedLine_length (m : MemS) (pc line : Nat) : (m.storedLine pc line).length = 16 := m.readGrans_length ..

/-! ## A write to a line (R315) -/

section
variable {s : State} {pc line : Nat} {mask : BitVec 256} {data : List Byte} (hsub : subGranule mask = false)
include hsub

theorem State.writeLine_of_whole (gp : BitVec 16) :
    s.writeLine pc line mask data gp = if mask = 0 then s else s.setMem (s.mem.combine pc line (s.time.now / 4) mask data gp) := by
  have hall : ((List.range 16).all fun j => gmask mask j == gmask mask j) = true := List.all_eq_true.mpr fun _ _ => beq_self_eq_true _
  have hlost : s.lostBytes pc mask mask = s := by rw [State.lostBytes, if_pos hall]
  rw [State.writeLine, liveMask_of_not_subGranule hsub, hlost]

/-- The entry of a whole-granule write to a line that none is buffered for. -/
def entryOf (pc line slot : Nat) (mask : BitVec 256) (data : List Byte) : WcEntry :=
  { pc, line, mask, data := mixBytes mask.toNat 0 (leBytes 256 0) data, gpoison := 0, sub := false, slot, reading := false }

/-- A line that no entry combines into gets one of its own. -/
theorem MemS.combine_of_none {m : MemS} {slot : Nat} (hnone : (m.wcb.find? fun e => e.pc == pc && e.line == line) = none) :
    m.combine pc line slot mask data 0 = { m with wcb := m.wcb ++ [entryOf pc line slot mask data] } := by
  have hslot : (m.wcb.find? fun e => e.pc == pc && e.line == line && e.slot == slot) = none := by
    rw [List.find?_eq_none] at hnone ⊢
    intro e he hmatch
    exact hnone e he (Bool.and_eq_true_iff.mp hmatch).1
  have hzero : (0 : BitVec 16) &&& maskTouched mask = 0 := BitVec.zero_and
  rw [MemS.combine, hslot, hsub, hzero]
  rfl

theorem State.writeLine_seen (hlen : data.length = 256) (hnone : (s.mem.wcb.find? fun e => e.pc == pc && e.line == line) = none) :
    (s.writeLine pc line mask data 0).mem.hbm = s.mem.hbm ∧ (s.writeLine pc line mask data 0).mem.hbmPoison = s.mem.hbmPoison ∧
      (s.writeLine pc line mask data 0).mem.seenLine pc line = mixLine mask 0 0 (s.mem.storedLine pc line) data := by
  have hfilter : (s.mem.wcb.filter fun e => e.pc == pc && e.line == line) = [] := by
    rw [List.filter_eq_nil_iff]
    exact List.find?_eq_none.mp hnone
  rw [State.writeLine_of_whole hsub]
  by_cases h0 : mask = 0
  · rw [if_pos h0, h0, mixLine_zero]
    exact ⟨rfl, rfl, by rw [MemS.seenLine, hfilter]; rfl⟩
  · rw [if_neg h0, State.setMem_mem, MemS.combine_of_none hsub hnone]
    have hmine : ((entryOf pc line (s.time.now / 4) mask data).pc == pc && (entryOf pc line (s.time.now / 4) mask data).line == line) = true := by
      rw [entryOf, beq_self_eq_true, beq_self_eq_true]
      rfl
    refine ⟨rfl, rfl, ?_⟩
    rw [MemS.seenLine, List.filter_append, hfilter, List.nil_append, List.filter_cons, if_pos hmine,
      List.filter_nil, List.foldl_cons, List.foldl_nil]
    exact mixLine_mixBytes hsub 0 (by rw [leBytes_length, hlen]) (by rw [MemS.storedLine_length])

end

/-! ## The slots of the agents (R303, R337) -/

theorem MemS.writeGrans_hbm_blocks (m : MemS) (a : Nat) (l : List Gran) : (m.writeGrans .hbm a l).blocks = m.blocks := by
  induction l generalizing m a with
  | nil => rfl
  | cons g l ih => exact ih _ _

theorem MemS.writeGrans_readByte_of_apart (m : MemS) {a b : Nat} {l : List Gran} (h : b < a ∨ a + 16 * l.length ≤ b) :
    readByte (m.writeGrans .hbm a l).hbm b = readByte m.hbm b := by
  induction l generalizing m a with
  | nil => rfl
  | cons g l ih =>
    rw [List.length_cons] at h
    rw [MemS.writeGrans, ih _ (by omega), m.writeGran_readByte_of_apart g a (by omega)]

theorem foldl_putEntry_blocks (l : List WcEntry) (m : MemS) : (l.foldl (fun m e => m.putEntry e) m).blocks = m.blocks := by
  induction l generalizing m with
  | nil => rfl
  | cons e l ih => exact (ih _).trans (m.writeGrans_hbm_blocks _ _)

theorem foldl_putEntry_readByte {l : List WcEntry} {a : Nat} (h : ∀ e ∈ l, a < hbmAt e.pc e.line ∨ hbmAt e.pc e.line + 256 ≤ a) (m : MemS) :
    readByte (l.foldl (fun m e => m.putEntry e) m).hbm a = readByte m.hbm a := by
  induction l generalizing m with
  | nil => rfl
  | cons e l ih =>
    have hapart := h e List.mem_cons_self
    rw [List.foldl_cons, ih fun x hx => h x (List.mem_cons_of_mem _ hx)]
    exact m.writeGrans_readByte_of_apart (by rw [mixLine_length, MemS.storedLine_length]; exact hapart)

/-- The memory after a slot boundary, before complete blocks are stored. -/
def MemS.afterSlot (m : MemS) (slot : Nat) : MemS :=
  let due := fun e : WcEntry => if e.sub then decide (e.slot + 1 < slot) else decide (e.slot < slot)
  { (m.wcb.filter due).foldl (fun m e => m.putEntry e) m with
    wcb := (((m.wcb.filter due).foldl (fun m e => m.putEntry e) m).wcb.filter fun e => !due e).map fun e =>
      if e.sub ∧ e.slot < slot then { e with reading := true } else e }

theorem exec_memorySlot {s : State} (hrun : s.agentsRun = true) (hslot : s.time.now % 4 = 0) :
    exec .memorySlot s = .next ((s.mem.blocks.filter (·.complete)).foldl (fun s b => s.storeBlock b) (s.setMem (s.mem.afterSlot (s.time.now / 4)))) := by
  have hblocks : (s.setMem (s.mem.afterSlot (s.time.now / 4))).mem.blocks = s.mem.blocks := foldl_putEntry_blocks _ _
  rw [← hblocks]
  exact if_neg (not_or.mpr ⟨by rw [hrun]; decide, not_not.mpr hslot⟩)

/-- Settles O19: one entry holds what a whole-granule write covers, and a slot stores the entries that are due. -/
theorem lineWritesAreSeenAtOnce : Obligations.LineWritesAreSeenAtOnce := by
  refine ⟨fun pc line mask data s hlen hsub hnone => State.writeLine_seen hsub hlen hnone, fun s hrun hslot => exec_memorySlot hrun hslot, ?_⟩
  intro a s t he hblocks hapart
  by_cases hrun : s.agentsRun = true ∧ s.time.now % 4 = 0
  · have hnone : s.mem.blocks.filter (·.complete) = [] := List.filter_eq_nil_iff.mpr fun b hb => by rw [hblocks b hb]; decide
    rw [exec_memorySlot hrun.1 hrun.2, hnone] at he
    cases he
    exact foldl_putEntry_readByte (fun e hm => hapart e (List.mem_filter.mp hm).1) s.mem
  · have hidle : exec .memorySlot s = .next s := by
      refine if_pos ?_
      by_cases hr : s.agentsRun = true
      · exact .inr fun hs => hrun ⟨hr, hs⟩
      · exact .inl (by rw [Bool.eq_false_iff.mpr hr]; rfl)
    rw [hidle] at he
    cases he
    rfl

/-! ## The scrub (R326) -/

theorem State.scrubWord_mem (s : State) (pc line : Nat) (u : Upset) :
    (s.scrubWord pc line u).mem = (let w := s.mem.word (hbmAt pc line + 16 * u.gran) u.data.toNat u.check.toNat
      s.mem.restore (hbmAt pc line + 16 * u.gran) (w.2.gran w.1)) := by
  have hcounted {t : State} (off : Nat) (r : FaultRec) : Kept (allBut .mem) t ((t.bump (pcDie pc) (pcUnit pc) off (2 ^ 32 - 1) 1).raise r) :=
    State.raise_kept (by decide) (State.bump_kept (by decide) kept_refl)
  unfold State.scrubWord
  dsimp only
  generalize s.mem.restore (hbmAt pc line + 16 * u.gran) _ = m
  cases (s.mem.word (hbmAt pc line + 16 * u.gran) u.data.toNat u.check.toNat).2 with
  | clean => exact Kept.mem (kept_ite (fun _ => hcounted _ _) fun _ => kept_refl)
  | corrected pos d => exact Kept.mem (kept_ite (fun _ => hcounted _ _) fun _ => kept_refl)
  | uncorrectable => exact Kept.mem (hcounted _ _)
  | poisoned => rfl

theorem exec_patrolScrub {pc : Fin 2048} {line : BitVec 22} {upset : List Upset} {ecs : Word} {s : State} (hrun : s.agentsRun = true) :
    exec (.patrolScrub pc line upset ecs) s = .next ((s.mem.withFlaws pc.val line.toNat upset).foldl
      (fun s u => if u.gran < 16 then s.scrubWord pc.val line.toNat u else s) (s.setArea (pcDie pc.val) (pcUnit pc.val) 0xD8 ecs.toNat)) :=
  if_neg (by rw [hrun]; decide)

theorem exec_patrolScrub_one {pc : Fin 2048} {line : BitVec 22} {u : Upset} {ecs : Word} {s : State} (hrun : s.agentsRun = true) (hu : u.gran < 16)
    (hf : s.mem.flaws = []) :
    exec (.patrolScrub pc line [u] ecs) s = .next ((s.setArea (pcDie pc.val) (pcUnit pc.val) 0xD8 ecs.toNat).scrubWord pc.val line.toNat u) := by
  have hone : s.mem.withFlaws pc.val line.toNat [u] = [u] := by
    simp only [MemS.withFlaws, hf, List.any_nil, Bool.false_and, List.filter_false, List.map_nil, List.append_nil]
  rw [exec_patrolScrub hrun, hone, List.foldl_cons, List.foldl_nil, if_pos hu]

/-! ## Runs of traffic generators (R338 to R340) -/

/-- A byte address outside the two pseudo-channels of a channel. -/
def offChannel (ch a : Nat) : Prop := a < hbmAt (2 * ch) 0 ∨ hbmAt (2 * ch + 2) 0 ≤ a

theorem TgS.line_lt (t : TgS) (k : Nat) : t.line k < 2 ^ 22 := by
  unfold TgS.line
  split <;> exact Nat.mod_lt _ (by decide)

/-- A granule of a line of a channel lies apart from every byte outside it. -/
theorem hbmAt_apart {ch pc line j a : Nat} (hpc : pc < 2) (hline : line < 2 ^ 22) (hj : j < 16) (ha : offChannel ch a) :
    a < hbmAt (2 * ch + pc) line + 16 * j ∨ hbmAt (2 * ch + pc) line + 16 * j + 16 ≤ a := by
  unfold offChannel hbmAt at *
  generalize 2 ^ 22 = lines at *
  have htwo : (2 * ch + 2) * lines = 2 * ch * lines + lines + lines := by rw [Nat.add_mul, Nat.two_mul lines, ← Nat.add_assoc]
  obtain rfl | rfl : pc = 0 ∨ pc = 1 := by omega
  · rcases ha with ha | ha
    · left; linarith
    · right; linarith
  · have hone : (2 * ch + 1) * lines = 2 * ch * lines + lines := by rw [Nat.add_mul, Nat.one_mul]
    rcases ha with ha | ha
    · left; linarith
    · right; linarith

/-- What a run keeps: the bytes outside its channel, the generators, and that it rewrites granules of its channel only. -/
structure TgRun.Within (ch : Nat) (m : MemS) (r : TgRun) : Prop where
  bytes : ∀ a, offChannel ch a → readByte r.st.mem.hbm a = readByte m.hbm a
  fix : ∀ p ∈ r.fix, ∀ a, offChannel ch a → a < p.1 ∨ p.1 + 16 ≤ a

theorem mem_tgGrans {p : Nat × Nat} (h : p ∈ tgGrans) : p.1 < 2 ∧ p.2 < 16 := by
  obtain ⟨pc, hpc, hp⟩ := List.mem_flatMap.mp h
  obtain ⟨j, hj, rfl⟩ := List.mem_map.mp hp
  exact ⟨List.mem_range.mp hpc, List.mem_range.mp hj⟩

theorem State.tgEvent_mem (s : State) (pc line : Nat) (o : Decoded) : (s.tgEvent pc line o).mem = s.mem :=
  Kept.mem (State.tgEvent_kept (by decide) kept_refl)

namespace TgRun.Within

variable {ch k : Nat} {m : MemS} {r : TgRun} {t : TgS} {upset : List TgUpset}

theorem writeLine (h : TgRun.Within ch m r) : TgRun.Within ch m (r.writeLine t ch k) := by
  have hwrites (l : List (Nat × Nat)) (hl : ∀ p ∈ l, p.1 < 2 ∧ p.2 < 16) (n : MemS) (a : Nat) (ha : offChannel ch a) :
      readByte (l.foldl (fun m p => MemS.tgWrite m t k (hbmAt (2 * ch + p.1) (t.line k) + 16 * p.2) p.2) n).hbm a = readByte n.hbm a := by
    induction l generalizing n with
    | nil => rfl
    | cons p l ih =>
      obtain ⟨hpc, hj⟩ := hl p List.mem_cons_self
      rw [List.foldl_cons, ih fun q hq => hl q (List.mem_cons_of_mem _ hq)]
      exact n.writeGran_readByte_of_apart _ _ (hbmAt_apart hpc (t.line_lt k) hj ha)
  exact ⟨fun a ha => (hwrites tgGrans (fun p hp => mem_tgGrans hp) r.st.mem a ha).trans (h.bytes a ha), h.fix⟩

theorem read {p : Nat × Nat} (hp : p ∈ tgGrans) (h : TgRun.Within ch m r) : TgRun.Within ch m (r.read t ch k p.1 p.2 upset) := by
  obtain ⟨hpc, hj⟩ := mem_tgGrans hp
  have hgran (a : Nat) (ha : offChannel ch a) := hbmAt_apart hpc (t.line_lt k) hj ha
  have hfix (o : Decoded) (g : Gran) : ∀ q ∈ (match o with
      | .corrected .. | .uncorrectable => (hbmAt (2 * ch + p.1) (t.line k) + 16 * p.2, g) :: r.fix | .clean | .poisoned => r.fix : List (Nat × Gran)),
      ∀ a, offChannel ch a → a < q.1 ∨ q.1 + 16 ≤ a := by
    intro q hq a ha
    cases o with
    | clean => exact h.fix q hq a ha
    | poisoned => exact h.fix q hq a ha
    | corrected _ _ =>
      rcases List.mem_cons.mp hq with rfl | hq
      · exact hgran a ha
      · exact h.fix q hq a ha
    | uncorrectable =>
      rcases List.mem_cons.mp hq with rfl | hq
      · exact hgran a ha
      · exact h.fix q hq a ha
  have hbytes (pc line : Nat) (o : Decoded) (a : Nat) (ha : offChannel ch a) : readByte (r.st.tgEvent pc line o).mem.hbm a = readByte m.hbm a := by
    rw [State.tgEvent_mem]
    exact h.bytes a ha
  unfold TgRun.read
  dsimp only
  split
  · exact ⟨hbytes _ _ _, hfix _ _⟩
  · exact ⟨hbytes _ _ _, hfix _ _⟩

theorem foldl {α : Type} {f : TgRun → α → TgRun} {l : List α} (hf : ∀ r, ∀ x ∈ l, TgRun.Within ch m r → TgRun.Within ch m (f r x))
    (h : TgRun.Within ch m r) : TgRun.Within ch m (l.foldl f r) := by
  induction l generalizing r with
  | nil => exact h
  | cons x l ih => exact ih (fun r y hy => hf r y (List.mem_cons_of_mem _ hy)) (hf r x List.mem_cons_self h)

theorem readLine (h : TgRun.Within ch m r) : TgRun.Within ch m (r.readLine t ch k upset) := .foldl (fun _ _ hp h => h.read hp) h

theorem pass {lines : Nat} (h : TgRun.Within ch m r) : TgRun.Within ch m (r.pass t ch lines upset) := by
  unfold TgRun.pass
  dsimp only
  split
  · exact .foldl (fun _ _ _ h => h.readLine) (.foldl (fun _ _ _ h => h.writeLine) h)
  · exact .foldl (fun _ _ _ h => h.writeLine) h
  · exact .foldl (fun _ _ _ h => h.readLine) h
  · exact .foldl (fun _ _ _ h => h.writeLine.readLine) h

end TgRun.Within

theorem foldl_restore_readByte {l : List (Nat × Gran)} {a : Nat} (h : ∀ p ∈ l, a < p.1 ∨ p.1 + 16 ≤ a) (m : MemS) :
    readByte (l.foldl (fun m p => m.restore p.1 p.2) m).hbm a = readByte m.hbm a := by
  induction l generalizing m with
  | nil => rfl
  | cons p l ih =>
    rw [List.foldl_cons, ih fun q hq => h q (List.mem_cons_of_mem _ hq)]
    exact m.restore_readByte_of_apart _ _ (h p List.mem_cons_self)

/-- An assignment that waited leaves bytes and generators alone. -/
theorem State.writeChOwn_hbm_tg (s : State) (ch : Nat) (w : Word) : (s.writeChOwn ch w).mem.hbm = s.mem.hbm ∧ (s.writeChOwn ch w).mem.tg = s.mem.tg := by
  have hrefused (t : State) : (t.ownRefused ch).mem = t.mem := Kept.mem (State.ownRefused_kept (by decide) kept_refl)
  have hput : (s.putRw .memChOwn ch w).mem = s.mem := Kept.mem (State.putRw_kept (by decide) kept_refl)
  unfold State.writeChOwn State.assignCh
  dsimp only
  split_ifs <;> simp only [hrefused, hput, State.setMem_mem, State.setReg_mem, and_self]

theorem foldl_writeChOwn_hbm_tg (l : List (Nat × Word)) (s : State) :
    (l.foldl (fun s h => s.writeChOwn h.1 h.2) s).mem.hbm = s.mem.hbm ∧ (l.foldl (fun s h => s.writeChOwn h.1 h.2) s).mem.tg = s.mem.tg := by
  induction l generalizing s with
  | nil => exact ⟨rfl, rfl⟩
  | cons x l ih =>
    obtain ⟨hbm, htg⟩ := ih (s.writeChOwn x.1 x.2)
    obtain ⟨hbm', htg'⟩ := s.writeChOwn_hbm_tg x.1 x.2
    exact ⟨hbm.trans hbm', htg.trans htg'⟩

/-- What the end of a run leaves of the generator that it ran on. -/
def TgS.ended (t : TgS) (r : TgRun) : TgS :=
  { t with busy := false, stopped := false, status := t.status ||| (if r.bad = 0 then 1 else 3),
           errs := BitVec.ofNat 32 (min (2 ^ 32 - 1) r.bad), first := (r.first.map fun f => BitVec.ofNat 32 f.2).getD t.first }

/-- The end of a run on a state `s` that has drawn what it needs: memory is as the pass left it with its rewrites made. -/
theorem execTgRunEnd_of_pass {ch : Fin 1024} {upset : List TgUpset} {s u : State} {lines : Nat} (hbusy : (s.tg ch.val).busy = true) (hu : u.mem = s.mem)
    (hdraw : (if (s.tg ch.val).stopped then (s.draw.1 % (wbits (s.tg ch.val).len 23 0 + 1), s.draw.2) else (wbits (s.tg ch.val).len 23 0, s)) = (lines, u)) :
    let r := TgRun.pass { st := u, bad := 0, first := none, fix := [] } (s.tg ch.val) ch.val lines upset
    ∃ t, exec (.tgRunEnd ch upset) s = .next t ∧ t.tg ch.val = (s.tg ch.val).ended r ∧
      t.mem.hbm = (r.fix.reverse.foldl (fun m p => m.restore p.1 p.2) r.st.mem).hbm ∧
      ∀ a, offChannel ch.val a → readByte t.mem.hbm a = readByte s.mem.hbm a := by
  intro r
  have hexec : exec (.tgRunEnd ch upset) s =
      (let v := (r.st.setMem (r.fix.reverse.foldl (fun m p => m.restore p.1 p.2) r.st.mem)).setTg ch.val ((s.tg ch.val).ended r)
      let v := match r.first with
        | none => v
        | some f => v.raiseAs { FaultRec.new v 0x0102 (some (ch.val / 32)) (0x90 + ch.val % 32) with test := true, dkind := 7, detail := f.1 } true
      .next ((v.mem.heldAssign.filter (·.1 == ch.val)).foldl (fun s h => s.writeChOwn h.1 h.2)
        (v.setMem { v.mem with heldAssign := v.mem.heldAssign.filter (·.1 != ch.val) }))) := by
    change execTgRunEnd ch upset s = _
    simp only [execTgRunEnd, hbusy, Bool.not_true, Bool.false_eq_true, if_false, hdraw]
    rfl
  have hin : TgRun.Within ch.val s.mem r := TgRun.Within.pass ⟨fun a _ => by rw [hu], fun p hp => absurd hp List.not_mem_nil⟩
  rw [hexec]
  generalize hv : (r.st.setMem (r.fix.reverse.foldl (fun m p => m.restore p.1 p.2) r.st.mem)).setTg ch.val ((s.tg ch.val).ended r) = v
  have htg : v.tg ch.val = (s.tg ch.val).ended r := by rw [← hv, State.setTg_tg_same]
  have hhbm : v.mem.hbm = (r.fix.reverse.foldl (fun m p => m.restore p.1 p.2) r.st.mem).hbm := by rw [← hv]; rfl
  dsimp only
  generalize hx : (match r.first with
    | none => v
    | some f => v.raiseAs { FaultRec.new v 0x0102 (some (ch.val / 32)) (0x90 + ch.val % 32) with test := true, dkind := 7, detail := f.1 } true) = x
  have hxmem : x.mem = v.mem := by
    rw [← hx]
    cases r.first with
    | none => rfl
    | some f => exact Kept.mem (State.raiseAs_kept (by decide) kept_refl)
  obtain ⟨hbm, htgs⟩ := foldl_writeChOwn_hbm_tg (x.mem.heldAssign.filter (·.1 == ch.val))
    (x.setMem { x.mem with heldAssign := x.mem.heldAssign.filter (·.1 != ch.val) })
  have hbm' := hbm.trans ((congrArg MemS.hbm hxmem).trans hhbm)
  refine ⟨_, rfl, ?_, hbm', fun a ha => ?_⟩
  · rw [State.tg, htgs, ← htg, State.tg, ← hxmem]
    rfl
  · rw [hbm', foldl_restore_readByte fun p hp => hin.fix p (List.mem_reverse.mp hp) a ha]
    exact hin.bytes a ha

/-- Settles O20: a scrub through the memory that it leaves; a run through what it keeps outside its channel. -/
theorem agentUpkeepTakesEffect : Obligations.AgentUpkeepTakesEffect := by
  refine ⟨⟨fun _ _ _ => rfl, fun pc line upset ecs s hrun => exec_patrolScrub hrun, ?scrub, ?block⟩, ?start, ?stop, ?ended, ?stopped⟩
  case scrub =>
    intro pc line u ecs s hrun hu hf at_ w
    have hexec := exec_patrolScrub_one (pc := pc) (line := line) (ecs := ecs) hrun hu hf
    have hmem : ((s.setArea (pcDie pc.val) (pcUnit pc.val) 0xD8 ecs.toNat).scrubWord pc.val line.toNat u).mem = s.mem.restore at_ (w.2.gran w.1) :=
      State.scrubWord_mem ..
    refine ⟨hexec, fun hw => ⟨_, hexec, ?_⟩, fun pos d hw => ⟨_, hexec, ?_⟩⟩
    all_goals rw [hmem, hw]
    · exact ⟨MemS.restore_poisoned_same .., MemS.restore_hbm_of_poison _ _ _ rfl, fun b hb => MemS.restore_poisoned_of_ne _ _ _ hb⟩
    · exact ⟨MemS.restore_readGran _ _ _ rfl, fun b hb => MemS.restore_readByte_of_apart _ _ _ hb⟩
  case block =>
    intro cdie block b s hb f
    change execTransposeBlockTimeout cdie block s = _
    have hmatch := List.find?_some hb
    simp only [Bool.and_eq_true, beq_iff_eq] at hmatch
    obtain ⟨⟨⟨hcdie, hblock⟩, -⟩, -⟩ := hmatch
    have hclose : s.closeBlock b = (s.storeBlock b).raise f := by simp only [State.closeBlock, f, hcdie, hblock]
    rw [execTransposeBlockTimeout, hb]
    exact congrArg Outcome.next hclose
  case start =>
    intro port w s hr hw ch u hbusy hown hbad hlen
    refine (if_pos ⟨hr, hw⟩).trans (congrArg Outcome.next ?_)
    have hbusy' : (s.tg (s.fld .memTgSel 0 9 0)).busy = false := hbusy
    have hown' : s.flag .memChOwn (s.fld .memTgSel 0 9 0) 6 = false := hown
    simp only [State.writeTgCtrl, hbusy', hown', hw, Bool.and_false, Bool.false_eq_true, if_false, Bool.not_false, and_self, if_true]
    exact (if_neg (Bool.eq_false_iff.mp hbad)).trans (if_neg hlen)
  case stop =>
    intro port w s hr h1 h0 ch hbusy
    refine (if_pos ⟨hr, h1, by rw [h0]; rfl⟩).trans (congrArg Outcome.next ?_)
    have hbusy' : (s.tg (s.fld .memTgSel 0 9 0)).busy = true := hbusy
    simp only [State.writeTgCtrl, hbusy', h0, h1, Bool.and_self, if_true, Bool.false_eq_true, false_and, if_false]
    simp only [ch, hbusy']
  case ended =>
    intro ch upset s hbusy hstop r
    obtain ⟨t, he, htg, hbm, hbytes⟩ := execTgRunEnd_of_pass (upset := upset) hbusy rfl (by rw [hstop]; rfl)
    exact ⟨t, he, congrArg TgS.busy htg, congrArg TgS.status htg, congrArg TgS.errs htg, hbm, hbytes⟩
  case stopped =>
    intro ch upset s hbusy hstop
    obtain ⟨t, he, htg, -, hbytes⟩ := execTgRunEnd_of_pass (upset := upset) (u := s.draw.2) hbusy rfl (by rw [hstop]; rfl)
    exact ⟨t, he, congrArg TgS.busy htg, hbytes⟩

end Sys2Proof.Machine
end

section
/-! SUPPORT. Regions and map lists, pages that translate, images and steps (03, 10, 11). -/

namespace Sys2Proof.Machine

open Sys2Proof Host

/-! ## A region whose ROWLOCK is not cleared -/

/-- One table with a local row at `dev:` address 0. -/
def rowTable : TableSet :=
  { gdie := 0, desc := 0, entries := [{ TableEntry.of 0 with localRows := 1, stride := 1 }] }

def rowImage : Image :=
  { id := 0, format := 1, upd := false, saddleUpd := 0, cycleLog := 12, cixon := 0, cores := [], classes := [], steps := [], tiles := [], ops := [],
    descs := [], rsvs := [], tables := [rowTable] }

/-- Region 0 is valid and row-locked, partition 1 runs `rowImage`, and a page run names the context 63,488, whose word of XLT_CTX_A would lie at
the offset of MEM_STATUS: its partition reads as 0, and as 1 once RGN_REFUSED is set. -/
def State.strayPage : State :=
  let s := (State.inService.setReg .memRgnA 0 0x1000).setReg .memRgnD 0 0x400100
  (s.setPart 1 { PartS.init with image := some rowImage }).setXlt
    { s.xlt with pages := [{ ctx := 63488, va := 0, psz := 0, n := 1, mem := 0, w := false }] }

/-- Refutes O23: a write that also changes a fixed bit sets RGN_REFUSED before it judges ROWLOCK, and where a page run names a context beyond the
4,096 of the map that bit decides whether local rows lie in the region. -/
theorem not_regionsAndContextsTakeTheirWrites : ¬ Obligations.RegionsAndContextsTakeTheirWrites := by
  intro h
  obtain ⟨-, -, hlock, -⟩ := h
  obtain ⟨t, he, hclear, -⟩ := hlock 0 0 0x101 State.strayPage (by decide +kernel) (by decide +kernel) (by decide +kernel) (by decide +kernel)
    (.inr (by decide +kernel))
  have hstays : (match exec (.rowlockWrite 0 0 0x101) State.strayPage with | .next t => t.flag .memRgnD 0 22 | _ => false) = true := by decide +kernel
  rw [he] at hstays
  exact absurd (hstays.symm.trans hclear) (by decide)

/-! ## Map lists (R360 to R365) -/

/-- What a map submission reads of its list: none where a packet was lost, the list, and the state after the read. -/
def State.mapListRead (s : State) (x : Sub) (list : List Gran) (bad : List Blemish) (edges : List EdgeErr) : Option (List Gran) × Nat × State :=
  if x.buf0.dev then s.readOver (Who.die_ (dieH (s.admitH x.part))) x.ctx x.buf0.addr (x.buf0.len / 16) bad edges
  else (some (s.readList x list).1, 0, (s.readList x list).2)

/-- A list that was read is checked, and carried out where no entry on its way is bad. -/
def State.mapListRun (u : State) (x : Sub) (l : List Gran) (badEntry : Option (Nat × BitVec 41 × Fin 4)) : State :=
  match u.checkMap x.part l with
  | .error (c, i) => u.failMap x.ring x.seq i (tableFault u x.part c)
  | .ok (ctx, ops) =>
    match (match badEntry with | some (i, a, level) => some (i, level.val, a.toNat) | none => u.badPath ctx ops) with
    | some (i, level, a) => u.failMap x.ring x.seq i { tableFault u x.part 0x0696 with ctx := some ctx, dkind := 1, detail := a, aux := level }
    | none => (u.setSub { x with ran := true }).runOps { part := x.part, ring := x.ring, seq := x.seq } ctx none ops

section
variable {ring : Fin 4096} {seq : Word} {list : List Gran} {bad : List Blemish} {edges : List EdgeErr} {x : Sub} {s : State}
  {badEntry : Option (Nat × BitVec 41 × Fin 4)} (hx : s.runnable ring.val seq.toNat 0x82 = some x) (hfree : s.mapBusy (s.admitH x.part) = false)
include hx hfree

theorem exec_mapList_lost (hl : (s.mapListRead x list bad edges).1 = none) :
    exec (.mapList ring seq list bad edges badEntry) s = .next ((s.mapListRead x list bad edges).2.2.setSub { x with ran := true }) := by
  change execMapList ring seq list bad edges badEntry s = _
  rw [State.mapListRead] at hl
  simp only [execMapList, State.mapListRead, hx, hfree, Bool.false_eq_true, if_false, hl]

theorem exec_mapList_read {l : List Gran} (hl : (s.mapListRead x list bad edges).1 = some l) :
    exec (.mapList ring seq list bad edges badEntry) s = .next ((s.mapListRead x list bad edges).2.2.mapListRun x l badEntry) := by
  change execMapList ring seq list bad edges badEntry s = _
  rw [State.mapListRead] at hl
  simp only [execMapList, State.mapListRead, hx, hfree, Bool.false_eq_true, if_false, hl, State.mapListRun]
  generalize (if x.buf0.dev = true then _ else _ : Option (List Gran) × Nat × State).2.2 = u
  cases u.checkMap x.part l with
  | error e => rfl
  | ok p =>
    cases badEntry with
    | none =>
      dsimp only
      cases u.badPath p.1 p.2 <;> rfl
    | some b => rfl

end

/-- Settles O24: a list by the check that it fails, if any; a withdrawal by the step that its report or acknowledgement ends. -/
theorem mapListsAreCarriedOut : Obligations.MapListsAreCarriedOut := by
  refine ⟨?lists, ?count, ?timeout, ?ack⟩
  case lists =>
    intro ring seq list bad edges x s hx hfree n r u
    refine ⟨fun hl e => exec_mapList_lost hx hfree hl, fun l hl => ⟨fun c i e hc => ?_, fun ctx ops hc hb => ?_, fun ctx ops i level a hc hb => ?_,
      fun ctx ops i a level hc => ?_⟩⟩
    all_goals
      rw [exec_mapList_read hx hfree hl]
      refine congrArg Outcome.next ?_
      change State.mapListRun u x l _ = _
      simp only [State.mapListRun, hc]
    · simp only [hb]
    · simp only [hb]
  case count =>
    intro c die w s hw hd hout w'
    change execWithdrawCountReport c die s = _
    simp only [execWithdrawCountReport, hw, hd, hout, List.isEmpty_nil, and_self, if_true, List.isEmpty_iff]
    rfl
  case timeout =>
    intro c w s hw hlate f hit
    have hexec : exec (.withdrawTimeout c) s = if hit = [] then .next (s.moveFloor w) else
        .next ((hit.foldl (fun s q => s.charge q.1 q.2 0 f) (s.raise f)).moveFloor { w with failedOp := some (w.failedOp.getD w.op.1) }) := by
      change execWithdrawTimeout c s = _
      simp only [execWithdrawTimeout, hw]
      exact if_neg (Nat.not_lt.mpr hlate)
    exact ⟨fun h => hexec.trans (if_pos h), fun h => hexec.trans (if_neg h)⟩
  case ack =>
    intro c die w s hw hd w'
    change execFloorAck c die s = _
    simp only [execFloorAck, hw, hd, if_true, List.isEmpty_iff]
    rfl

/-! ## Pages that an INSTALL makes present (R343, R355, R362) -/

/-- A run of a context covers a `dev:` address. -/
def PageRun.covers (p : PageRun) (c va : Nat) : Prop := p.ctx = c ∧ p.va ≤ va ∧ va < p.end_

/-- It maps that address to `m` with W as `w`. -/
def PageRun.maps (p : PageRun) (c va m : Nat) (w : Bool) : Prop := p.covers c va ∧ p.mem + (va - p.va) = m ∧ p.w = w

section
variable {a b : PageRun} {c va m : Nat} {w : Bool}

theorem PageRun.joins_iff : a.joins b = true ↔ a.ctx = b.ctx ∧ a.psz = b.psz ∧ a.w = b.w ∧ b.va = a.end_ ∧ b.mem = a.mem + a.len := by
  simp only [PageRun.joins, Bool.and_eq_true, beq_iff_eq, and_assoc]

theorem PageRun.joined_end (h : a.joins b = true) : ({ a with n := a.n + b.n } : PageRun).end_ = b.end_ := by
  obtain ⟨-, hpsz, -, hva, -⟩ := PageRun.joins_iff.mp h
  simp only [PageRun.end_, PageRun.len] at *
  rw [hva, Nat.add_mul, hpsz, Nat.add_assoc]

/-- A run that continues another maps what it did once they are joined. -/
theorem PageRun.maps_of_joins (h : a.joins b = true) (hb : b.maps c va m w) : ({ a with n := a.n + b.n } : PageRun).maps c va m w := by
  obtain ⟨hctx, -, hw, hva, hmem⟩ := PageRun.joins_iff.mp h
  obtain ⟨⟨hbc, hlow, hhigh⟩, hm, hbw⟩ := hb
  have hend : b.va = a.va + a.len := hva
  refine ⟨⟨hctx.trans hbc, ?_, ?_⟩, ?_, hw.trans hbw⟩
  · change a.va ≤ va
    omega
  · rw [PageRun.joined_end h]
    exact hhigh
  · change a.mem + (va - a.va) = m
    omega

theorem PageRun.maps_of_joined (h : a.joins b = true) (ha : a.maps c va m w) : ({ a with n := a.n + b.n } : PageRun).maps c va m w := by
  obtain ⟨⟨hac, hlow, hhigh⟩, hm, haw⟩ := ha
  refine ⟨⟨hac, hlow, ?_⟩, hm, haw⟩
  have hva : b.va = a.end_ := (PageRun.joins_iff.mp h).2.2.2.1
  have hle : b.va ≤ b.end_ := Nat.le_add_right ..
  rw [PageRun.joined_end h]
  omega

/-- The runs after a run is added: one maps the address, and no other covers it. -/
theorem addRun_maps {r : PageRun} {l : List PageRun} (hr : r.maps c va m w) (hl : ∀ p ∈ l, ¬p.covers c va) :
    (∃ p ∈ addRun r l, p.covers c va) ∧ ∀ p ∈ addRun r l, p.covers c va → p.maps c va m w := by
  induction l generalizing r with
  | nil => exact ⟨⟨r, List.mem_singleton.mpr rfl, hr.1⟩, fun p hp _ => List.mem_singleton.mp hp ▸ hr⟩
  | cons q l ih =>
    have hq := hl q List.mem_cons_self
    have hrest := fun p hp => hl p (List.mem_cons_of_mem q hp)
    have hhead {x : PageRun} {k : List PageRun} (hx : x.maps c va m w) (hk : ∀ p ∈ k, ¬p.covers c va) :
        (∃ p ∈ x :: k, p.covers c va) ∧ ∀ p ∈ x :: k, p.covers c va → p.maps c va m w := by
      refine ⟨⟨x, List.mem_cons_self, hx.1⟩, fun p hp hc => ?_⟩
      rcases List.mem_cons.mp hp with rfl | hp
      · exact hx
      · exact absurd hc (hk p hp)
    rw [addRun]
    split_ifs with hjoin hjoined horder
    · exact ih (PageRun.maps_of_joins hjoin hr) hrest
    · exact hhead (PageRun.maps_of_joined hjoined hr) hrest
    · exact hhead hr hl
    · obtain ⟨⟨p, hp, hc⟩, hall⟩ := ih hr hrest
      refine ⟨⟨p, List.mem_cons_of_mem q hp, hc⟩, fun p hp hc => ?_⟩
      rcases List.mem_cons.mp hp with rfl | hp
      · exact absurd hc hq
      · exact hall p hp hc

end

/-- A context's address translates through the run that maps it, where no other covers it. -/
theorem State.pageOf_of_maps {s : State} {c va m : Nat} {w : Bool} (hex : ∃ p ∈ s.xlt.pages, p.covers c va)
    (hall : ∀ p ∈ s.xlt.pages, p.covers c va → p.maps c va m w) : ∃ p, s.pageOf c va = some p ∧ p.maps c va m w := by
  have hcovers (p : PageRun) : (p.ctx == c && decide (p.va ≤ va ∧ va < p.va + p.n * pageBytes p.psz)) = true ↔ p.covers c va := by
    rw [Bool.and_eq_true, beq_iff_eq, decide_eq_true_iff]
    rfl
  obtain ⟨p, hp, hc⟩ := hex
  have hsome : (s.pageOf c va).isSome = true := List.find?_isSome.mpr ⟨p, hp, (hcovers p).mpr hc⟩
  obtain ⟨q, hq⟩ := Option.isSome_iff_exists.mp hsome
  have hfound := hq
  unfold State.pageOf at hfound
  have hmatch := List.find?_some hfound
  exact ⟨q, hq, hall q (List.mem_of_find?_eq_some hq) ((hcovers q).mp hmatch)⟩

/-- Settles O25: the run that an INSTALL adds maps its addresses, joined to its neighbours or not. -/
theorem installedPagesTranslate : Obligations.InstalledPagesTranslate := by
  intro c o va s hlow hhigh hapart t
  have hrun : (opRun c o).maps c va (opMem o + (va - opVa o)) (opW o) := ⟨⟨rfl, hlow, hhigh⟩, rfl, rfl⟩
  have hfree : ∀ p ∈ s.xlt.pages, ¬p.covers c va := fun p hp ⟨hctx, hpl, hph⟩ => by
    have := hapart p hp hctx
    omega
  obtain ⟨hex, hall⟩ := addRun_maps hrun hfree
  obtain ⟨p, hp, -, hmem, hw⟩ := State.pageOf_of_maps (s := t) hex hall
  refine ⟨(t.ctxGen c).gen, ?_, fun hyes => ?_, fun hno => ⟨0x0402, ?_⟩⟩
  all_goals rw [State.translate, hp]; dsimp only; rw [hmem, hw]
  · rfl
  · rw [hyes]
    rfl
  · rw [hno]
    rfl

/-! ## Images, slots and steps (03) -/

section
variable {ring : Fin 4096} {seq : Word} {bad : List Blemish} {edges : List EdgeErr} {x : Sub} {b : BufE} {s : State}
  (hx : s.runnable ring.val seq.toNat 0x81 = some x) (hb : x.bufs.head? = some b)
include hx hb

/-- IMAGE_LOAD by what it reads of the image. -/
theorem exec_imageLoad :
    exec (.imageLoad ring seq bad edges) s =
      (let a := s.readOver (Who.die_ (dieH (s.admitH x.part))) x.ctx b.addr (b.len / 16) bad edges
      match a.1 with
      | none => .next (a.2.2.setSub { x with ran := true })
      | some l =>
        if a.2.1 ≠ 0 ∨ (l.any fun g => g.poison) = true then .next (a.2.2.endWith x 0x0641 0)
        else
          match a.2.2.checkImage x l bad with
          | (.error (code, detail), s) => .next (s.endWith x code detail)
          | (.ok im, s) =>
            .next (((s.setPending x.part { image := some im, saddle := s.switchSaddle x.part (bits x.args 63 0), ring := x.ring, seq := x.seq }).setSub
              { x with ran := true, info := s.switchSaddle x.part (bits x.args 63 0) }).finish x.ring x.seq)) := by
  have hbuf : x.bufs.getD 0 { addr := 0, len := 0, dev := true, rd := false, wr := false } = b := by
    cases hbufs : x.bufs with
    | nil => rw [hbufs] at hb; cases hb
    | cons c l => rw [hbufs] at hb; cases hb; rfl
  change execImageLoad ring seq bad edges s = _
  simp only [execImageLoad, hx, hbuf]
  generalize s.readOver (Who.die_ (dieH (s.admitH x.part))) x.ctx b.addr (b.len / 16) bad edges = a
  obtain ⟨l, c, u⟩ := a
  cases l with
  | none => rfl
  | some l => rfl

end

/-- A step whose slips all stay within SLACK is judged without a charge (R118). -/
theorem State.judgeSlips_within {s : State} {x : Sub} {im : Image} {st : ImgStep} {step cyc ph : Nat}
    (h : ∀ p ∈ s.slipsOf x im st step cyc, p.2 ≤ st.slack) : Within (pieces [.hlt, .notes]) s (s.judgeSlips x im st step cyc ph) := by
  have hfold (l : List (Nat × Nat)) (hl : ∀ p ∈ l, p.2 ≤ st.slack) (t : State) (hk : Kept (pieces [.hlt, .notes]) s t) :
      Kept (pieces [.hlt, .notes]) s (l.foldl (fun s p =>
        if p.2 > st.slack then
          s.charge x.ring x.seq ph { FaultRec.new s 0x0521 (some (im.coreNo st.unit / 8)) (engineUnit (im.coreNo st.unit) p.1) with dkind := 7, detail := step }
        else if p.2 > 0 then s.absorb (im.coreNo st.unit) p.1 step p.2 else s) t) := by
    induction l generalizing t with
    | nil => exact hk
    | cons p l ih =>
      refine ih (fun q hq => hl q (List.mem_cons_of_mem _ hq)) _ ?_
      have hsmall : ¬p.2 > st.slack := Nat.not_lt.mpr (hl p List.mem_cons_self)
      dsimp only
      rw [if_neg hsmall]
      exact kept_ite (fun _ => State.absorb_kept (by decide) hk) fun _ => hk
  exact (hfold _ h s kept_refl).within

/-- Settles O26: a load by what it reads and the checks it passes; a step by its slips; a NOP by whether its engine is free. -/
theorem slotsAndStepsTakeEffect : Obligations.SlotsAndStepsTakeEffect := by
  refine ⟨?load, ⟨?start, ?limit, ?ended, ?nop⟩, ?slack⟩
  case load =>
    intro ring seq bad edges x b s hx hb a u
    have hexec := exec_imageLoad (bad := bad) (edges := edges) hx hb
    refine ⟨fun hnone => ?_, fun l hl => ⟨fun hbad => ?_, fun hcode hclean => ⟨fun c d t hc => ?_, fun im t hc => ?_⟩⟩⟩
    · rw [hexec]
      simp only [show (s.readOver _ _ _ _ bad edges).1 = none from hnone]
      rfl
    all_goals
      rw [hexec]
      simp only [show (s.readOver (Who.die_ (dieH (s.admitH x.part))) x.ctx b.addr (b.len / 16) bad edges).1 = some l from hl]
    · exact if_pos hbad
    all_goals
      rw [if_neg (not_or.mpr ⟨not_not.mpr hcode, Bool.eq_false_iff.mp hclean⟩)]
      change (match u.checkImage x l bad with | (.error (code, detail), s) => _ | (.ok im, s) => _) = _
      rw [hc]
  case start =>
    intro p cls x s hx
    change execSlotStart p cls s = _
    rw [execSlotStart, hx]
  case limit =>
    intro core e phase r s hheld hslip
    change execSlipLimit core e phase s = _
    simp only [execSlipLimit, hheld]
    exact if_pos hslip
  case ended =>
    intro r phase x im s hx hstep hkind hnot st cyc tooFar hcyc hruns
    have hexec : exec (.stepEnd r phase) s = if !tooFar && s.stepGoesOn x im r.step cyc then .next s
        else .next (((s.judgeSlips x im st r.step cyc phase.val).endStep x.ring x.seq r.step).endInstance x.ring x.seq) := by
      change execStepEnd r phase s = _
      simp only [execStepEnd, hx, hstep, Bool.not_true, Bool.false_eq_true, if_false]
      exact if_pos ⟨hkind, by rw [hnot]; rfl, hcyc, hruns⟩
    refine ⟨fun hfar hon => hexec.trans (if_pos (by rw [hfar, hon]; rfl)), fun h => hexec.trans (if_neg ?_)⟩
    rcases h with h | h
    · rw [h]
      exact Bool.false_ne_true
    · rw [h, Bool.and_false]
      exact Bool.false_ne_true
  case nop =>
    intro r phase o s ho hmay cyc e until_
    have hexec : exec (.nop r phase) s =
        if e ≤ 3 then
          if cyc < (s.array (4 * o.core + e)).rowEnd then .next (s.holdOp o cyc 0)
          else .next ((s.issue o cyc until_).setArray (4 * o.core + e) { s.array (4 * o.core + e) with rowEnd := until_ })
        else if cyc < (s.eng o.core e).free then .next (s.holdOp o cyc 0) else .next (s.issue o cyc until_) := by
      change execNop r phase s = _
      simp only [execNop, ho, hmay, Bool.not_true, Bool.false_eq_true, if_false]
      rfl
    exact ⟨fun he hb => hexec.trans ((if_pos he).trans (if_pos hb)), fun he hb => hexec.trans ((if_neg (Nat.not_le.mpr he)).trans (if_pos hb)),
      fun he hf => hexec.trans ((if_pos he).trans (if_neg (Nat.not_lt.mpr hf))),
      fun he hf => hexec.trans ((if_neg (Nat.not_le.mpr he)).trans (if_neg (Nat.not_lt.mpr hf)))⟩
  case slack =>
    intro x im st step cyc ph s h
    refine State.judgeSlips_within fun p hp => ?_
    obtain ⟨e, he, rfl⟩ := List.mem_map.mp hp
    obtain ⟨hlt, hbit⟩ := List.mem_filter.mp he
    exact h e (List.mem_range.mp hlt) hbit

end Sys2Proof.Machine
end

section
/-! SUPPORT. Matrix, vector and DMA operations issue (04, 06, 09). -/

namespace Sys2Proof.Machine

open Sys2Proof Host

/-! ## Reads on chip that meet no flaw, and cells of the core maps -/

@[simp] theorem State.meetSram_nil (s : State) (ctx : Nat) (reads : List Acc) : s.meetSram ctx reads [] = s := rfl

theorem State.setMem_core (s : State) (m : MemS) (k : Nat) : (s.setMem m).core k = s.core k := rfl

theorem State.issue_mem (s : State) (o : OpAt) (cyc free : Nat) : (s.issue o cyc free).mem = s.mem := rfl

theorem State.chargeOnce_mem (s : State) (ring seq ph cause : Nat) (r : FaultRec) : (s.chargeOnce ring seq ph cause r).mem = s.mem :=
  (State.chargeOnce_kept (ks := allBut .mem) (by decide) kept_refl).mem

theorem State.bump_mem (s : State) (die unit off top n : Nat) : (s.bump die unit off top n).mem = s.mem :=
  (State.bump_kept (ks := allBut .mem) (by decide) kept_refl).mem

/-! ## Matrix operations -/

section Considered
variable {r : OpRef} {phase : Fin 7} {bad : List Blemish} {o : OpAt} {s : State}

theorem execWLoad_of_considered (ho : s.opAt r 1 = some o) (hmay : s.mayConsider o (s.cycle phase.val) = true) :
    let cyc := s.cycle phase.val
    let e := s.engineOf o
    let k := 4 * o.core + e
    let a := s.array k
    let d := OperandD.of (o.im.desc o.op.arg0)
    (cyc < a.loadEnd ∨ (a.fresh = true ∧ sameRun a.shadow.by_ r) → exec (.wLoad r phase bad) s = .next (s.holdOp o cyc 0)) ∧
    (a.loadEnd ≤ cyc → ¬(a.fresh = true ∧ sameRun a.shadow.by_ r) →
      (∀ src, s.missing o cyc (d.reads o.core 0) = some src → exec (.wLoad r phase bad) s = .next (s.holdOp o cyc src)) ∧
      (s.missing o cyc (d.reads o.core 0) = none →
        let s1 := s.meetSram o.x.ctx (d.reads o.core 0) bad
        let lb := s1.mem.loadBank d o.core r
        let t := (s1.issue o cyc cyc).setArray k { a with shadow := lb.1, fresh := true, loadEnd := cyc + loadCycles d.fmt, loadRead := cyc + loadCycles d.fmt }
        exec (.wLoad r phase bad) s = .next (t.feederFaults o e cyc 0 (loadAt d.fmt) (s1.mem.poisonRow d o.core (d.kM1 + 1)) lb.2))) := by
  intro cyc e k a d
  have hexec : exec (.wLoad r phase bad) s = execWLoad r phase bad s := rfl
  rw [hexec]
  simp only [execWLoad, ho, hmay, Bool.not_true, Bool.false_eq_true, if_false]
  refine ⟨fun hbusy => if_pos hbusy, fun hend hheld => ?_⟩
  have hfree : ¬(cyc < a.loadEnd ∨ (a.fresh = true ∧ sameRun a.shadow.by_ r)) := not_or.mpr ⟨Nat.not_lt.mpr hend, hheld⟩
  refine ⟨fun src hmiss => (if_neg hfree).trans ?_, fun hmiss => (if_neg hfree).trans ?_⟩ <;> rw [hmiss]

theorem execPass_of_considered {faults : List CellFault} (ho : s.opAt r 2 = some o) (hmay : s.mayConsider o (s.cycle phase.val) = true) :
    let cyc := s.cycle phase.val
    let k := 4 * o.core + s.engineOf o
    let a := s.array k
    let d := OperandD.of (o.im.desc o.op.arg0)
    (cyc < a.rowEnd → exec (.pass r phase faults bad) s = .next (s.holdOp o cyc 0)) ∧
    (a.rowEnd ≤ cyc → o.op.rows = 0 → exec (.pass r phase faults bad) s = .next ((s.issue o cyc cyc).setArray k { a with rowEnd := cyc + 1 })) ∧
    (a.rowEnd ≤ cyc → o.op.rows ≠ 0 → (a.fresh = true → a.loadEnd ≤ cyc) → s.loadsIssued o = true →
      (s.queueFull o.core o.op = true → exec (.pass r phase faults bad) s = .next (s.holdOp o cyc 4)) ∧
      (s.queueFull o.core o.op = false → ∀ src, s.missing o cyc (d.reads o.core o.op.rows) = some src →
        exec (.pass r phase faults bad) s = .next (s.holdOp o cyc src)) ∧
      (s.queueFull o.core o.op = false → s.missing o cyc (d.reads o.core o.op.rows) = none →
        exec (.pass r phase faults bad) s =
          .next ((s.meetSram o.x.ctx (d.reads o.core o.op.rows) bad).beginPass o (s.engineOf o) a d cyc faults))) := by
  intro cyc k a d
  have hexec : exec (.pass r phase faults bad) s = execPass r phase faults bad s := rfl
  rw [hexec]
  simp only [execPass, ho, hmay, Bool.not_true, Bool.false_eq_true, if_false]
  refine ⟨fun hbusy => if_pos hbusy, fun hend hrows => (if_neg (Nat.not_lt.mpr hend)).trans (if_pos hrows), fun hend hrows hload hissued => ?_⟩
  have hready : ¬((a.fresh = true ∧ cyc < a.loadEnd) ∨ (!s.loadsIssued o) = true) := by
    rintro (⟨hfresh, hlt⟩ | hnot)
    · exact Nat.not_lt.mpr (hload hfresh) hlt
    · simp [hissued] at hnot
  refine ⟨fun hfull => ?_, fun hfull src hmiss => ?_, fun hfull hmiss => ?_⟩ <;>
    refine (if_neg (Nat.not_lt.mpr hend)).trans ((if_neg hrows).trans ((if_neg hready).trans ?_))
  · exact if_pos hfull
  all_goals rw [if_neg (ne_true_of_eq_false hfull), hmiss]

theorem execFtqPop_of_considered {tile tag : Nat} {rest : List (Nat × Nat)} (ho : s.opAt r 4 = some o) (hmay : s.mayConsider o (s.cycle phase.val) = true) :
    let cyc := s.cycle phase.val
    let tb := bits o.op.arg0 1 0
    let k := 4 * o.core + bits o.op.arg1 1 0
    (cyc < (s.eng o.core 4).free → exec (.ftqPop r phase bad) s = .next (s.holdOp o cyc 0)) ∧
    ((s.eng o.core 4).free ≤ cyc → s.orderHeld o (o.im.opWrites o.core o.op) cyc = true → exec (.ftqPop r phase bad) s = .next (s.holdOp o cyc 6)) ∧
    ((s.eng o.core 4).free ≤ cyc → s.orderHeld o (o.im.opWrites o.core o.op) cyc = false → (s.array k).ftq = [] →
      exec (.ftqPop r phase bad) s = .next (s.holdOp o cyc 4)) ∧
    ((s.eng o.core 4).free ≤ cyc → s.orderHeld o (o.im.opWrites o.core o.op) cyc = false → (s.array k).ftq = (tile, tag) :: rest → tagPoison tag = false →
    ∃ t, exec (.ftqPop r phase bad) s = .next t ∧ (t.array k).ftq = rest ∧ smGet 0 (t.core o.core).tbTag tb = tag ∧
      t.mem = (s.meetSram o.x.ctx [{ store := 7, unit := o.core, lo := 128 * tile, hi := 128 * tile + 128 }] bad).mem.toTb o.core tile 128 tb) := by
  intro cyc tb k
  have hexec : exec (.ftqPop r phase bad) s = execFtqPop r phase bad s := rfl
  rw [hexec]
  simp only [execFtqPop, ho, hmay, Bool.not_true, Bool.false_eq_true, if_false]
  refine ⟨fun hbusy => if_pos hbusy, fun hend hheld => (if_neg (Nat.not_lt.mpr hend)).trans (if_pos hheld), fun hend hheld hempty => ?_,
    fun hend hheld hfront htag => ?_⟩
  · refine (if_neg (Nat.not_lt.mpr hend)).trans ((if_neg (ne_true_of_eq_false hheld)).trans ?_)
    rw [show (s.array (4 * o.core + bits o.op.arg1 1 0)).ftq = [] from hempty]
  · have hfront : (s.array (4 * o.core + bits o.op.arg1 1 0)).ftq = (tile, tag) :: rest := hfront
    simp only [hfront, htag, Bool.false_eq_true, if_false]
    refine ⟨_, (if_neg (Nat.not_lt.mpr hend)).trans (if_neg (ne_true_of_eq_false hheld)), ?_, ?_, ?_⟩
    · exact (congrArg ArrayS.ftq (State.setArray_array_same _ _ _) :)
    · rw [State.setMem_core, State.setCore_core_same]
      exact smGet_set_same ..
    · rw [State.setMem_mem, State.setCore_mem, State.setArray_mem, State.issue_mem]

theorem execAccRead_of_considered (ho : s.opAt r 6 = some o) (hmay : s.mayConsider o (s.cycle phase.val) = true) :
    let cyc := s.cycle phase.val
    let tile := bits o.op.arg0 5 0
    let rows := bits o.op.arg1 7 0
    (cyc < (s.eng o.core 4).free → exec (.accRead r phase bad) s = .next (s.holdOp o cyc 0)) ∧
    ((s.eng o.core 4).free ≤ cyc → s.tilePending o tile = true → exec (.accRead r phase bad) s = .next (s.holdOp o cyc 7)) ∧
    ((s.eng o.core 4).free ≤ cyc → s.tilePending o tile = false → s.orderHeld o (o.im.opWrites o.core o.op) cyc = true →
      exec (.accRead r phase bad) s = .next (s.holdOp o cyc 6)) ∧
    ((s.eng o.core 4).free ≤ cyc → s.tilePending o tile = false → s.orderHeld o (o.im.opWrites o.core o.op) cyc = false →
    ∃ t, exec (.accRead r phase bad) s = .next t ∧
      t.mem = (s.meetSram o.x.ctx [{ store := 7, unit := o.core, lo := 128 * tile, hi := 128 * tile + rows }] bad).mem.toTb o.core tile rows 3) := by
  intro cyc tile rows
  have hexec : exec (.accRead r phase bad) s = execAccRead r phase bad s := rfl
  rw [hexec]
  simp only [execAccRead, ho, hmay, Bool.not_true, Bool.false_eq_true, if_false]
  refine ⟨fun hbusy => if_pos hbusy, fun hend hpend => (if_neg (Nat.not_lt.mpr hend)).trans (if_pos hpend), fun hend hpend hheld => ?_,
    fun hend hpend hheld => ⟨_, (if_neg (Nat.not_lt.mpr hend)).trans ((if_neg (ne_true_of_eq_false hpend)).trans (if_neg (ne_true_of_eq_false hheld))), ?_⟩⟩
  · exact (if_neg (Nat.not_lt.mpr hend)).trans ((if_neg (ne_true_of_eq_false hpend)).trans (if_pos hheld))
  · rw [apply_ite State.mem, State.chargeOnce_mem, ite_self]
    rfl

end Considered

/-! ## Replays -/

section Replay
variable {core : Fin 256} {phase : Fin 7} {faults : List CellFault} {bad : List Blemish} {q : ReplayS} {x : Sub} {im : Image} {s : State}

theorem execReplayStart_of_window (hq : ((s.core core.val).replays.find? fun q => !q.started) = some q)
    (hx : s.started? q.r.ring.val q.r.seq.toNat = some (x, im)) :
    let cyc := s.cycle phase.val
    let begin_ := im.windowBase x (im.step q.r.step) + 512 * q.window
    begin_ ≤ cyc → s.partRuns x.part begin_ = true → s.cdieRuns (core.val / 8) begin_ = true →
    ∃ t, exec (.replayStart core phase faults bad) s = .next t ∧ (t.array (4 * core.val + q.array)).rowEnd = cyc + im.layout q.ops ∧
      (t.core core.val).replays.length = (s.core core.val).replays.length ∧
      (∃ q' ∈ (t.core core.val).replays, q'.r = q.r ∧ q'.started = true ∧ q'.verdict = cyc + im.layout q.ops) ∧
      (bad = [] → Within (pieces [.cores, .arrays]) s t) := by
  intro cyc begin_ hbegin hpart hdie
  have hcome : ¬(cyc < begin_ ∨ (!s.partRuns x.part begin_) = true ∨ (!s.cdieRuns (core.val / 8) begin_) = true) := by
    simp [hpart, hdie, Nat.not_lt.mpr hbegin]
  have hexec : exec (.replayStart core phase faults bad) s = execReplayStart core phase faults bad s := rfl
  rw [hexec]
  simp only [execReplayStart, hq, hx]
  refine ⟨_, if_neg hcome, ?_, ?_, ?_, ?_⟩
  · rw [State.setArray_array_same]
  · refine (congrArg (fun c : CoreS => c.replays.length) (State.setCore_core_same _ _ _)).trans ?_
    exact List.length_map _
  · refine ⟨_, (congrArg (fun c : CoreS => _ ∈ c.replays) (State.setCore_core_same _ _ _)).mpr
      (List.mem_map.mpr ⟨q, List.mem_of_find?_eq_some hq, if_pos rfl⟩), rfl, rfl, rfl⟩
  · rintro rfl
    exact (State.setArray_kept (by decide) (State.setCore_kept (m := pieces [.cores, .arrays]) (by decide) kept_refl)).within

end Replay

/-- Settles O28: each operation is judged in the order of its conditions, and what issues is the state the statement writes out. -/
theorem matrixOperationsIssue : Obligations.MatrixOperationsIssue := by
  unfold Obligations.MatrixOperationsIssue
  refine ⟨fun r phase bad o s ho hmay => execWLoad_of_considered ho hmay, fun r phase faults bad o s ho hmay => execPass_of_considered ho hmay,
    fun core array phase bad p l s hp hverdict => ?_, fun core phase faults bad q x im s hq hx => execReplayStart_of_window hq hx,
    fun r phase bad o tile tag rest s ho hmay => execFtqPop_of_considered ho hmay, fun r phase bad o s ho hmay => execAccRead_of_considered ho hmay,
    fun r phase faults bad s => ⟨fun ho => ?_, fun ho => ?_, fun ho => ?_, fun ho => ?_⟩⟩
  · have hfilter : ((s.array (4 * core.val + array.val)).passes.head?).filter (fun p => decide (p.verdict ≤ s.cycle phase.val)) = some p := by
      simp [hp, hverdict]
    change execPassVerdict core array phase bad s = _
    simp only [execPassVerdict, hfilter]
  · change execWLoad r phase bad s = _
    simp only [execWLoad, ho]
  · change execPass r phase faults bad s = _
    simp only [execPass, ho]
  · change execFtqPop r phase bad s = _
    simp only [execFtqPop, ho]
  · change execAccRead r phase bad s = _
    simp only [execAccRead, ho]

/-! ## Vector and DMA operations -/

section Considered
variable {r : OpRef} {phase : Fin 7} {bad : List Blemish} {o : OpAt} {s : State}

theorem State.veIssue_mem (s : State) (o : OpAt) (v : VecD) (ph cyc : Nat) : (s.veIssue o v ph cyc).mem = (v.run s.mem o.core).1 := by
  unfold State.veIssue
  dsimp only
  rw [apply_ite State.mem, State.chargeOnce_mem, ite_self, apply_ite State.mem, State.bump_mem, ite_self, apply_ite State.mem, State.bump_mem, ite_self,
    apply_ite State.mem, State.setCore_mem, ite_self, State.setMem_mem]

theorem execVeRun_of_considered (ho : s.opAt r 3 = some o) (hmay : s.mayConsider o (s.cycle phase.val) = true) :
    let cyc := s.cycle phase.val
    let v := VecD.of (o.im.desc o.op.arg0)
    (cyc < (s.eng o.core 4).free → exec (.veRun r phase bad) s = .next (s.holdOp o cyc 0)) ∧
    ((s.eng o.core 4).free ≤ cyc → s.orderHeld o (v.writeAccs o.core) cyc = true → exec (.veRun r phase bad) s = .next (s.holdOp o cyc 6)) ∧
    ((s.eng o.core 4).free ≤ cyc → s.orderHeld o (v.writeAccs o.core) cyc = false → ∀ src, s.missing o cyc (v.readAccs o.core) = some src →
      exec (.veRun r phase bad) s = .next (s.holdOp o cyc src)) ∧
    ((s.eng o.core 4).free ≤ cyc → s.orderHeld o (v.writeAccs o.core) cyc = false → s.missing o cyc (v.readAccs o.core) = none →
      exec (.veRun r phase bad) s = .next ((s.meetSram o.x.ctx (v.readAccs o.core) bad).veIssue o v phase.val cyc)) := by
  intro cyc v
  have hexec : exec (.veRun r phase bad) s = execVeRun r phase bad s := rfl
  rw [hexec]
  simp only [execVeRun, ho, hmay, Bool.not_true, Bool.false_eq_true, if_false]
  refine ⟨fun hbusy => if_pos hbusy, fun hend hheld => (if_neg (Nat.not_lt.mpr hend)).trans (if_pos hheld), fun hend hheld src hmiss => ?_,
    fun hend hheld hmiss => ?_⟩ <;> refine (if_neg (Nat.not_lt.mpr hend)).trans ((if_neg (ne_true_of_eq_false hheld)).trans ?_) <;> rw [hmiss]

theorem execDmaRun_of_considered {edges : List EdgeErr} (ho : s.opAt r 5 = some o) (hmay : s.mayConsider o (s.cycle phase.val) = true) :
    let cyc := s.cycle phase.val
    let d := DmaD.of (o.im.desc o.op.arg0)
    let w := d.writeAccs o.core
    (cyc < (s.eng o.core 5).free → exec (.dmaRun r phase bad edges) s = .next (s.holdOp o cyc 0)) ∧
    ((s.eng o.core 5).free ≤ cyc → s.orderHeld o w cyc = true → exec (.dmaRun r phase bad edges) s = .next (s.holdOp o cyc 6)) ∧
    ((s.eng o.core 5).free ≤ cyc → s.orderHeld o w cyc = false → ∀ src, s.missing o cyc (d.readAccs o.core) = some src →
      exec (.dmaRun r phase bad edges) s = .next (s.holdOp o cyc src)) ∧
    ((s.eng o.core 5).free ≤ cyc → s.orderHeld o w cyc = false → s.missing o cyc (d.readAccs o.core) = none →
    let t := s.issue o cyc (cyc + d.occupancy)
    exec (.dmaRun r phase bad edges) s = .next (if d.bytes = 0 then t else t.startXfer o d cyc phase.val bad edges)) := by
  intro cyc d w
  have hexec : exec (.dmaRun r phase bad edges) s = execDmaRun r phase bad edges s := rfl
  rw [hexec]
  simp only [execDmaRun, ho, hmay, Bool.not_true, Bool.false_eq_true, if_false]
  refine ⟨fun hbusy => if_pos hbusy, fun hend hheld => (if_neg (Nat.not_lt.mpr hend)).trans (if_pos hheld), fun hend hheld src hmiss => ?_,
    fun hend hheld hmiss => ?_⟩ <;> refine (if_neg (Nat.not_lt.mpr hend)).trans ((if_neg (ne_true_of_eq_false hheld)).trans ?_) <;> rw [hmiss]

end Considered

/-! ## A transfer's data are ready -/

theorem State.xferBytes_of_allPoison {s : State} {x : Xfer} (d : DmaD) (ph : Nat) (f : FaultRec) (hp : x.allPoison = true) :
    s.xferBytes x d ph f = (poisonGrans (d.bytes / 16), 0, s) := if_pos hp

theorem State.xferBytes_of_plain {s : State} {x : Xfer} {d : DmaD} (ph : Nat) (f : FaultRec) (hp : x.allPoison = false) (hd : d.expand = false)
    (he : x.edges = []) :
    s.xferBytes x d ph f =
      (if d.cvt then d.convert (s.xferSource x d).1 else (s.xferSource x d).1, (s.xferSource x d).2.1, (s.xferSource x d).2.2) := by
  simp [State.xferBytes, hp, hd, he]

/-- Settles O29: the operations are judged in the order of their conditions, and a transfer's bytes go through the stages the statement names. -/
theorem vectorAndDmaOperationsIssue : Obligations.VectorAndDmaOperationsIssue := by
  unfold Obligations.VectorAndDmaOperationsIssue
  refine ⟨fun r phase bad o s ho hmay => ?_, fun r phase bad edges o s ho hmay => execDmaRun_of_considered ho hmay,
    fun r phase bad edges s => ⟨fun ho => ?_, fun ho => ?_⟩, fun r phase x s hx => ⟨fun hlost => ?_, fun hlost => ?_⟩⟩
  · obtain ⟨hbusy, horder, hmiss, hgo⟩ := execVeRun_of_considered (bad := bad) ho hmay
    exact ⟨hbusy, horder, hmiss, fun hend hheld hnone => ⟨hgo hend hheld hnone, State.veIssue_mem ..⟩⟩
  · change execVeRun r phase bad s = _
    simp only [execVeRun, ho]
  · change execDmaRun r phase bad edges s = _
    simp only [execDmaRun, ho]
  · change execDmaDataReady r phase s = _
    simp only [execDmaDataReady, hx, hlost, if_true]
  · refine ⟨fun hp => State.xferBytes_of_allPoison _ _ _ hp, fun hp hd he => State.xferBytes_of_plain _ _ hp hd he, ?_⟩
    change execDmaDataReady r phase s = _
    simp only [execDmaDataReady, hx, hlost, Bool.false_eq_true, if_false]

/-! ## A DMA_RUN of no bytes -/

@[simp] theorem State.setEng_eng_same (s : State) (core e : Nat) (g : EngS) : (s.setEng core e g).eng core e = g := smGet_set_same ..

/-- Settles O30: it is the issue alone, which writes the engine's own entry. -/
theorem emptyDmaMovesNothing : Obligations.EmptyDmaMovesNothing := by
  unfold Obligations.EmptyDmaMovesNothing
  intro r phase bad edges o s ho hmay cyc d hend hheld hmiss hbytes hengine
  obtain ⟨-, -, -, hgo⟩ := execDmaRun_of_considered (bad := bad) (edges := edges) ho hmay
  have hoccupied : d.occupancy = 24 := by
    rw [DmaD.occupancy, hbytes]
    split <;> rfl
  have hissue : (s.issue o cyc (cyc + d.occupancy)).eng o.core 5 = _ :=
    (by rw [State.issue, hengine] : s.issue o cyc (cyc + d.occupancy) = s.setEng o.core 5 _) ▸ State.setEng_eng_same ..
  refine ⟨_, (hgo hend hheld hmiss).trans (congrArg Outcome.next (if_pos hbytes)), ?_⟩
  rw [hissue, hoccupied]
  exact ⟨rfl, rfl, rfl, (State.issue_kept (ks := pieces [.engines]) (by decide) kept_refl).within⟩

end Sys2Proof.Machine
end

section
/-! SUPPORT. The steps of a gather (07). -/

namespace Sys2Proof.Machine

open Sys2Proof Host

/-! ## The keys of a sorted list, and what the window and the bound leave -/

theorem sortKeys_queued {tabs : List TableEntry} {gt : List GTab} {k : GKey} (hk : k ∈ sortKeys tabs gt) : k.st = .queued := by
  obtain ⟨⟨t, e, g⟩, -, hk⟩ := List.mem_flatMap.mp hk
  obtain ⟨⟨i, n⟩, -, rfl⟩ := List.mem_map.mp hk
  rfl

section At
variable {s : State} {r : StepRef} {x : Sub} {im : Image} {st : ImgStep} {d : GatherD} {g : GStep}

/-- Inside its remote window a gather's window stays as it is. -/
theorem State.shutWindow_of_open (hr : s.gatherAt r = some (x, im, st, d)) (hg : s.gstep? r = some g)
    (hnow : s.time.now ≤ x.start + st.start + st.remoteWin) : s.shutWindow r = s := by
  unfold State.shutWindow
  simp only [hr, hg]
  exact if_pos (Or.inl hnow)

theorem State.shutWindow_of_past (hr : s.gatherAt r = some (x, im, st, d)) (hg : s.gstep? r = some g) (hphase : g.phase = .fetching)
    (hopen : g.windowShut = false) (hnow : x.start + st.start + st.remoteWin < s.time.now) :
    s.shutWindow r = (s.missKeys g (im.gtables st) (·.st == .queued) g.keys).2.setGstep
      { g with windowShut := true, keys := (s.missKeys g (im.gtables st) (·.st == .queued) g.keys).1 } := by
  unfold State.shutWindow
  simp only [hr, hg]
  exact if_neg (by simp [hphase, hopen]; omega)

/-- Before the bound nothing is cut off. -/
theorem State.cutRemote_of_before {edges : List EdgeErr} (hr : s.gatherAt r = some (x, im, st, d)) (hg : s.gstep? r = some g)
    (hnow : s.time.now < x.start + st.start + st.remoteWin + 2000) : s.cutRemote r edges = s := by
  unfold State.cutRemote
  simp only [hr, hg]
  exact if_pos (Or.inl hnow)

theorem State.cutRemote_of_none {edges : List EdgeErr} (hr : s.gatherAt r = some (x, im, st, d)) (hg : s.gstep? r = some g)
    (hl : (g.unwritten (im.gtables st)).filter (·.2.2.remote) = []) : s.cutRemote r edges = s := by
  unfold State.cutRemote
  simp only [hr, hg, hl, List.isEmpty_nil, if_true, ite_self]

theorem State.cutRemote_of_past {edges : List EdgeErr} (hr : s.gatherAt r = some (x, im, st, d)) (hg : s.gstep? r = some g) (hphase : g.phase = .fetching)
    (hnow : x.start + st.start + st.remoteWin + 2000 ≤ s.time.now) (hl : (g.unwritten (im.gtables st)).filter (·.2.2.remote) ≠ []) :
    s.cutRemote r edges =
      (s.missKeys g (im.gtables st) (g.needs (im.gtables st)) g.keys).2.putOutputs
        { g with windowShut := true, keys := (s.missKeys g (im.gtables st) (g.needs (im.gtables st)) g.keys).1 } d (im.gtables st)
        (poisonOut ((g.unwritten (im.gtables st)).filter (·.2.2.remote))) edges := by
  unfold State.cutRemote
  simp only [hr, hg]
  exact (if_neg (by simp [hphase, Nat.not_lt.mpr hnow])).trans (if_neg (by simpa using hl))

/-- Rows whose replies are not late stay outstanding. -/
theorem State.expireRows_of_timely (hr : s.gatherAt r = some (x, im, st, d)) (hg : s.gstep? r = some g)
    (hk : ∀ k ∈ g.keys, k.remote = true → k.st = .sent → s.time.now ≤ k.issued + 1968) : s.expireRows r = s := by
  have hnone : (g.keys.any fun k => k.remote && (k.st == .sent && decide (k.issued + 1968 < s.time.now))) = false := by
    rw [List.any_eq_false]
    intro k hmem hlate
    simp only [Bool.and_eq_true, beq_iff_eq, decide_eq_true_eq] at hlate
    exact Nat.not_lt.mpr (hk k hmem hlate.1 hlate.2.1) hlate.2.2
  unfold State.expireRows
  simp only [hr, hg]
  exact if_pos (by rw [hnone]; rfl)

theorem State.writeReady_of_fetching {edges : List EdgeErr} (hr : s.gatherAt r = some (x, im, st, d)) (hg : s.gstep? r = some g) (hphase : g.phase = .fetching) :
    let l := (g.unwritten (im.gtables st)).filter fun p => !p.2.2.out
    s.writeReady r edges = s.putOutputs g d (im.gtables st) (l.filter (·.2.2.remote) ++ l.filter fun p => !p.2.2.remote) edges := by
  unfold State.writeReady
  simp only [hr, hg]
  exact if_neg (by simp [hphase])

/-! ## Each command of a gather at its step -/

theorem execGatherStepStart_of_begun (hr : s.gatherAt r = some (x, im, st, d)) (hend : x.ended.contains r.step = false) (hg : s.gstep? r = none)
    (hnow : x.start + st.start ≤ s.time.now) (hruns : s.unitRuns x.part = true) (hdie : s.dieOk st.unit = true) :
    let b := x.buf d.buf
    let a := s.hostRead (.glist r) x.ring x.seq 0 x.part x.ctx b.addr b.len (gdieFault s (st.unit - 32) 1 x.ctx x.part 0)
    let begun : State → Option (List Gran) → GStep := fun t l =>
      { r := r, gdie := st.unit - 32, part := x.part, ctx := x.ctx, start := t.time.now, phase := .listing, list := l, sortEnd := 0, tabs := [],
        dropOff := 0, drops := [], keys := [], windowShut := false, cache := [], written := [], lost := false, missed := [] }
    (d.buf = 7 ∨ b.dev = true → exec (.gatherStepStart r) s = .next (s.setGsteps (begun s none :: s.gsteps))) ∧
    (d.buf ≠ 7 → b.dev = false → exec (.gatherStepStart r) s = .next (a.2.setGsteps (begun a.2 a.1 :: a.2.gsteps))) := by
  intro b a begun
  have hmay : ¬(x.ended.contains r.step = true ∨ (s.gstep? r).isSome = true ∨ s.time.now < x.start + st.start ∨ (!s.unitRuns x.part) = true ∨
      (!s.dieOk st.unit) = true) := by
    simp only [hend, hg, hruns, hdie, Option.isSome_none, Bool.not_true, Bool.false_eq_true, or_false, false_or, Nat.not_lt]
    exact hnow
  have hexec : exec (.gatherStepStart r) s = execGatherStepStart r s := rfl
  rw [hexec]
  simp only [execGatherStepStart, hr]
  constructor
  · intro hdev
    rw [if_neg hmay, if_pos hdev]
  · intro hbuf hdev
    rw [if_neg hmay, if_neg (not_or.mpr ⟨hbuf, ne_true_of_eq_false hdev⟩)]

theorem execGatherListArrived_of_listing {bad : List Blemish} {edges : List EdgeErr} (hr : s.gatherAt r = some (x, im, st, d)) (hg : s.gstep? r = some g)
    (hphase : g.phase = .listing) (hlost : g.lost = false) (hlist : s.listPending r = false) (hruns : s.unitRuns x.part = true) :
    let a := s.slotGrans (Who.die_ (dieG g.gdie)) x d.buf (g.list.getD []) bad edges
    let u := a.2.2
    (a.1 = none → exec (.gatherListArrived r bad edges) s = .next (u.setGstep { g with lost := true })) ∧
    ∀ l, a.1 = some l →
      let found := listCode l (x.slotLen d.buf) d (im.gtables st)
      let code := if owed a.2.1 ∧ (l.any fun g => g.poison) = true ∧ found = 0x0240 then a.2.1 else found
      (code ≠ 0 →
        exec (.gatherListArrived r bad edges) s = .next ((u.dropGstep r).charge x.ring x.seq 0 (gdieFault u g.gdie 0 x.ctx x.part code))) ∧
      (code = 0 →
        let h := GHead.of ((gransNat l d.listOff 16).getD 0)
        let gt : List GTab := (listEntries l d).map fun e => { idx := indicesOf l e, bags := bagsOf l e }
        exec (.gatherListArrived r bad edges) s =
          .next (u.setGstep { g with phase := .sorting, sortEnd := u.time.now + 28 + ceilDiv h.total 256, tabs := gt, dropOff := h.dropOff })) := by
  have hmay : ¬(g.phase ≠ .listing ∨ g.lost = true ∨ s.listPending r = true ∨ (!s.unitRuns x.part) = true) := by
    simp [hphase, hlost, hlist, hruns]
  have hexec : exec (.gatherListArrived r bad edges) s = execGatherListArrived r bad edges s := rfl
  rw [hexec]
  simp only [execGatherListArrived, hr, hg]
  obtain ⟨l?, c, u⟩ := s.slotGrans (Who.die_ (dieG g.gdie)) x d.buf (g.list.getD []) bad edges
  refine ⟨fun hnone => (if_neg hmay).trans ?_, fun l hl => ⟨fun hcode => (if_neg hmay).trans ?_, fun hcode => (if_neg hmay).trans ?_⟩⟩
  · obtain rfl : l? = none := hnone
    rfl
  · obtain rfl : l? = some l := hl
    exact if_pos hcode
  · obtain rfl : l? = some l := hl
    exact if_neg (not_not_intro hcode)

theorem execSortEnd_of_sorted {cache : List (Nat × Nat × Upset)} (hr : s.gatherAt r = some (x, im, st, d)) (hg : s.gstep? r = some g)
    (hphase : g.phase = .sorting) (hend : g.sortEnd ≤ s.time.now) (hruns : s.unitRuns x.part = true) :
    exec (.sortEnd r cache) s = .next ((s.setGstep
      { g with phase := .fetching, keys := sortKeys (im.gtables st) g.tabs, drops := dropsOf (im.gtables st) g.tabs, cache := cache }).shutWindow r) := by
  change execSortEnd r cache s = _
  simp only [execSortEnd, hr, hg]
  exact if_neg (by simp [hphase, hruns, hend])

theorem execRowFetchReply_of_sent {key : Nat} {upset : List Upset} {edges : List EdgeErr} {k : GKey} {e : TableEntry}
    (hr : s.gatherAt r = some (x, im, st, d)) (hg : s.gstep? r = some g) (hk : g.keys[key]? = some k) (hsent : k.st = .sent) (hlocal : k.remote = false)
    (he : (im.gtables st)[k.t]? = some e) :
    let on := fun q : EdgeErr => (List.range (16 * rowLines e.twide e.dim)).any fun i => (s.rowDie g e k i).any (between (dieG g.gdie) · q)
    let u := s.countHeaders on edges
    (∀ q, (edges.find? fun q => edgeLost q && on q) = some q →
      exec (.rowFetchReply r key upset edges) s = .next ((u.setGstep (g.setKey key { k with st := .lost })).raise (edgeFault u 0x0106 q))) ∧
    ((edges.find? fun q => edgeLost q && on q) = none →
      let a := u.readRow g e k upset edges
      exec (.rowFetchReply r key upset edges) s = .next (a.2.setGstep (g.setKey key a.1))) := by
  intro on u
  have hmay : ¬(k.st ≠ .sent ∨ k.remote = true) := by simp [hsent, hlocal]
  have hexec : exec (.rowFetchReply r key upset edges) s = execRowFetchReply r key upset edges s := rfl
  rw [hexec]
  simp only [execRowFetchReply, hg, hk, hr, he, if_neg hmay]
  constructor
  · intro q hq
    rw [hq]
  · intro hq
    rw [hq]

theorem execRemoteWindowClose_of_runs (hr : s.gatherAt r = some (x, im, st, d)) (hruns : s.unitRuns x.part = true) :
    exec (.remoteWindowClose r) s = .next (s.shutWindow r) := by
  change execRemoteWindowClose r s = _
  simp only [execRemoteWindowClose, hr, hruns, if_true]

theorem execRemoteCutoff_of_runs {bad : List Blemish} {edges : List EdgeErr} (hr : s.gatherAt r = some (x, im, st, d)) (hruns : s.unitRuns x.part = true) :
    exec (.remoteCutoff r bad edges) s = .next ((s.cutRemote r edges).gatherDone r bad edges) := by
  change execRemoteCutoff r bad edges s = _
  simp only [execRemoteCutoff, hr, hruns, Bool.not_true, Bool.false_eq_true, if_false]

theorem execGatherOutputsWritten_of_runs {bad : List Blemish} {edges : List EdgeErr} (hr : s.gatherAt r = some (x, im, st, d))
    (hruns : s.unitRuns x.part = true) :
    exec (.gatherOutputsWritten r bad edges) s = .next ((((s.cutRemote r edges).expireRows r).writeReady r edges).gatherDone r bad edges) := by
  change execGatherOutputsWritten r bad edges s = _
  simp only [execGatherOutputsWritten, hr, hruns, Bool.not_true, Bool.false_eq_true, if_false]

theorem execGstepTimeout_of_runs {bad : List Blemish} {edges : List EdgeErr} (hr : s.gatherAt r = some (x, im, st, d)) (hruns : s.unitRuns x.part = true) :
    let u := (s.cutRemote r edges).gatherDone r bad edges
    u.gstep? r = some g → x.start + st.start + st.length ≤ u.time.now →
    let remoteLeft := g.phase == .fetching && !g.lost && (g.unwritten (im.gtables st)).all fun p => p.2.2.remote
    let v := u.endGather g d (im.gtables st) edges
    let t := ((v.gstep? r).elim v v.sweepGstep).endStep x.ring x.seq r.step
    (remoteLeft = true → exec (.gstepTimeout r bad edges) s = .next u) ∧
    (remoteLeft = false → exec (.gstepTimeout r bad edges) s =
      .next (t.charge x.ring x.seq 0 { gdieFault t g.gdie 1 x.ctx x.part 0x0521 with dkind := 7, detail := r.step })) := by
  intro u hg hnow remoteLeft v t
  have hexec : exec (.gstepTimeout r bad edges) s = execGstepTimeout r bad edges s := rfl
  have hg' : ((s.cutRemote r edges).gatherDone r bad edges).gstep? r = some g := hg
  rw [hexec]
  simp only [execGstepTimeout, hr, hruns, hg', Bool.not_true, Bool.false_eq_true, if_false]
  refine ⟨fun hleft => if_pos (Or.inr hleft), fun hleft => if_neg ?_⟩
  rintro (hlt | hwait)
  · exact Nat.not_lt.mpr hnow hlt
  · exact Bool.false_ne_true (hleft.symm.trans hwait)

end At

/-- Settles O31: each command of a gather goes through one operation of the step, which its lemma gives under the statement's conditions. -/
theorem gatherStepsTakeEffect : Obligations.GatherStepsTakeEffect := by
  unfold Obligations.GatherStepsTakeEffect
  refine ⟨fun r x im st d s hr hend hg hnow hruns hdie => execGatherStepStart_of_begun hr hend hg hnow hruns hdie,
    fun r bad edges x im st d g s hr hg hphase hlost hlist hruns => execGatherListArrived_of_listing hr hg hphase hlost hlist hruns,
    fun r cache x im st d g s hr hg hphase hend hruns => ?_,
    fun r key upset edges x im st d g k e s hr hg hk hsent hlocal he => execRowFetchReply_of_sent hr hg hk hsent hlocal he,
    fun r x im st d g s hr hg hruns hphase hopen => ⟨fun hnow => ?_, fun hnow => ?_⟩,
    fun r bad edges x im st d g s hr hg hruns hphase hnow => ⟨fun hl => ?_, fun hl => ?_⟩,
    fun r bad edges x im st d g s hr hg hruns hnow hphase hk => ?_,
    fun r bad edges x im st d g s hr hruns hg hnow => execGstepTimeout_of_runs hr hruns hg hnow⟩
  case refine_1 =>
    exact ⟨_, execSortEnd_of_sorted hr hg hphase hend hruns, rfl, rfl, rfl, rfl, rfl, rfl, rfl, fun k hk => sortKeys_queued hk⟩
  case refine_2 => rw [execRemoteWindowClose_of_runs hr hruns, State.shutWindow_of_open hr hg hnow]
  case refine_3 => exact (execRemoteWindowClose_of_runs hr hruns).trans (congrArg _ (State.shutWindow_of_past hr hg hphase hopen hnow))
  case refine_4 => rw [execRemoteCutoff_of_runs hr hruns, State.cutRemote_of_none hr hg hl]
  case refine_5 => rw [execRemoteCutoff_of_runs hr hruns, State.cutRemote_of_past hr hg hphase hnow hl]
  case refine_6 =>
    rw [execGatherOutputsWritten_of_runs hr hruns, State.cutRemote_of_before hr hg hnow, State.expireRows_of_timely hr hg hk]
    exact congrArg (fun t : State => Outcome.next (t.gatherDone r bad edges)) (State.writeReady_of_fetching hr hg hphase)

end Sys2Proof.Machine
end

section
/-! SUPPORT. Host transfer and fabric send steps (12, 13). -/

namespace Sys2Proof.Machine

open Sys2Proof Host

section May
variable {s : State} {r : StepRef} {bad : List Blemish} {edges : List EdgeErr} {x : Sub} {im : Image} {st : ImgStep}

theorem execHostTransferStep_of_may (hr : s.stepAt r 3 = some (x, im, st)) (hmay : s.unitMay x st r = true) :
    let n := im.desc st.first
    let d := XferD.of n
    let b := d.len x.items
    let u := s.newUstep x r n (if d.perItem then d.bytes * x.items else b) (if d.locSp = 2 then [] else s.pagesOf st.unit x.ctx d.loc b)
    (b = 0 → exec (.hostTransferStep r bad edges) s = .next (s.unitStepEnd r)) ∧
    (b ≠ 0 → s.portWaits x im st d b = true → exec (.hostTransferStep r bad edges) s = .next s) ∧
    (b ≠ 0 → s.portWaits x im st d b = false → d.toBuf = true →
      exec (.hostTransferStep r bad edges) s = .next (s.transferOut x r u st.unit d b bad edges)) ∧
    (b ≠ 0 → s.portWaits x im st d b = false → d.toBuf = false →
      let v := if d.locSp = 2 then s else s.lookUp r st.unit x.ctx d.loc b true (xferFault s u st.unit d)
      exec (.hostTransferStep r bad edges) s = .next (v.transferIn x r u st.unit d b bad edges)) := by
  intro n d b u
  have hexec : exec (.hostTransferStep r bad edges) s = execHostTransferStep r bad edges s := rfl
  rw [hexec]
  simp only [execHostTransferStep, hr, hmay, Bool.not_true, Bool.false_eq_true, if_false]
  exact ⟨fun hb => if_pos hb, fun hb hwait => (if_neg hb).trans (if_pos hwait),
    fun hb hwait hout => (if_neg hb).trans ((if_neg (ne_true_of_eq_false hwait)).trans (if_pos hout)),
    fun hb hwait hout => (if_neg hb).trans ((if_neg (ne_true_of_eq_false hwait)).trans (if_neg (ne_true_of_eq_false hout)))⟩

theorem execFabricSendStep_of_may (hr : s.stepAt r 2 = some (x, im, st)) (hmay : s.unitMay x st r = true) :
    let n := im.desc st.first
    let d := SendD.of n
    let u := s.newUstep x r n d.destBytes (if d.locSp = 2 then [] else s.pagesOf st.unit x.ctx d.loc (max 16 d.bytes))
    (d.op ≠ 2 → d.bytes = 0 → exec (.fabricSendStep r bad edges) s = .next (s.unitStepEnd r)) ∧
    let may := (s.allowance x im st d.rsvFirst d.rsvN 7 (st.unit - 48)).all (d.wire ≤ ·)
    (¬(d.op ≠ 2 ∧ d.bytes = 0) → may = false → exec (.fabricSendStep r bad edges) s = .next s) ∧
    (¬(d.op ≠ 2 ∧ d.bytes = 0) → may = true →
      let v := if d.op = 0 ∨ d.locSp = 2 then s else s.lookUp r st.unit x.ctx d.loc d.destBytes true (sendFault s u st.unit d)
      let a := if d.op = 0 then v.locRead st.unit x.part x.ctx d.locSp d.locDie d.loc (d.bytes / 16) bad edges else (some [], 0, v)
      (a.1 = none → exec (.fabricSendStep r bad edges) s = .next (a.2.2.strand u)) ∧
      ∀ l, a.1 = some l →
        let f := { sendFault a.2.2 u st.unit d with dkind := if d.locSp = 2 then 0 else 2, detail := if d.locSp = 2 then 0 else d.loc }
        let t := a.2.2.chargeStep r f a.2.1
        let issue := x.start + st.start
        (∀ b v, t.sendRequest (.send r) (st.unit - 48) d.dev x.part x.ctx issue d.timed (t.sendFrames d issue l) = (.ok b, v) →
          exec (.fabricSendStep r bad edges) s = .next (v.strand u)) ∧
        (∀ c v, t.sendRequest (.send r) (st.unit - 48) d.dev x.part x.ctx issue d.timed (t.sendFrames d issue l) = (.error c, v) →
          exec (.fabricSendStep r bad edges) s = .next (v.endSend u c [] edges))) := by
  intro n d u
  have hexec : exec (.fabricSendStep r bad edges) s = execFabricSendStep r bad edges s := rfl
  rw [hexec]
  simp only [execFabricSendStep, hr, hmay, Bool.not_true, Bool.false_eq_true, if_false]
  refine ⟨fun hop hbytes => if_pos ⟨hop, hbytes⟩, fun hsome hmay => (if_neg hsome).trans (if_pos ?_), fun hsome hmay => ?_⟩
  · exact (congrArg (! ·) hmay :)
  rw [if_neg hsome, if_neg (fun h => Bool.false_ne_true ((congrArg (! ·) hmay).symm.trans h))]
  generalize (if d.op = 0 ∨ d.locSp = 2 then s else s.lookUp r st.unit x.ctx d.loc d.destBytes true (sendFault s u st.unit d)) = v
  generalize (if d.op = 0 then v.locRead st.unit x.part x.ctx d.locSp d.locDie d.loc (d.bytes / 16) bad edges else (some [], 0, v)) = a
  obtain ⟨l?, c, t⟩ := a
  refine ⟨fun hnone => ?_, fun l hl => ?_⟩
  · obtain rfl : l? = none := hnone
    rfl
  · obtain rfl : l? = some l := hl
    refine ⟨fun b v hsent => ?_, fun c v hsent => ?_⟩ <;> (dsimp only [n, d, u] at hsent ⊢; rw [hsent])

end May

/-- Settles O32: a step that its unit may run is judged in the order of the statement's conditions. -/
theorem transferStepsTakeEffect : Obligations.TransferStepsTakeEffect := by
  unfold Obligations.TransferStepsTakeEffect
  exact ⟨fun r bad edges x im st s hr hmay => execHostTransferStep_of_may hr hmay,
    fun r bad edges x im st s hr hmay => execFabricSendStep_of_may hr hmay⟩

end Sys2Proof.Machine
end

section
/-! SUPPORT. Embedding updates and their registers (08, 19). -/

namespace Sys2Proof.Machine

open Sys2Proof Host

/-! ## A batch has been read -/

section Batch
variable {ring : Fin 4096} {seq : Word} {data : List Gran} {bad : List Blemish} {edges : List EdgeErr} {x : Sub} {s : State}

theorem execUpdateBatchReadDone_of_dev (hx : s.batchSub ring.val seq.toNat = some x) (hruns : s.domainRuns = true) (hdev : x.buf0.dev = true) :
    let a := s.readOver (Who.die_ (dieG (s.fld .gthUpdCtrl x.part 3 0))) x.ctx x.buf0.addr (x.buf0.len / 16) bad edges
    (∀ l, a.1 = some l → exec (.updateBatchReadDone ring seq data bad edges) s = .next (a.2.2.batchDone x l)) ∧
    (a.1 = none → exec (.updateBatchReadDone ring seq data bad edges) s = .next (a.2.2.setSub { x with ran := true })) := by
  have hexec : exec (.updateBatchReadDone ring seq data bad edges) s = execUpdateBatchReadDone ring seq data bad edges s := rfl
  rw [hexec]
  simp only [execUpdateBatchReadDone, hx, hruns, hdev, Bool.not_true, Bool.false_eq_true, if_false, if_true]
  obtain ⟨l?, c, t⟩ := s.readOver (Who.die_ (dieG (s.fld .gthUpdCtrl x.part 3 0))) x.ctx x.buf0.addr (x.buf0.len / 16) bad edges
  refine ⟨fun l hl => ?_, fun hl => ?_⟩
  · obtain rfl : l? = some l := hl
    rfl
  · obtain rfl : l? = none := hl
    rfl

theorem execUpdateBatchReadDone_of_host (hx : s.batchSub ring.val seq.toNat = some x) (hruns : s.domainRuns = true) (hdev : x.buf0.dev = false) :
    let came := s.reads.any fun q => q.purpose == ReadFor.batch x.ring x.seq
    let l := data.take (x.buf0.len / 16)
    let h := s.admitH x.part
    (came = true → exec (.updateBatchReadDone ring seq data bad edges) s =
      .next (((s.setReads (s.reads.filter fun q => q.purpose != ReadFor.batch x.ring x.seq)).hostPoison x.ctx x.part l).batchDone x l)) ∧
    (came = false → exec (.updateBatchReadDone ring seq data bad edges) s =
      .next (((s.raise (portFault s h 0x0902 x.ctx x.part)).fencedAccess h x.ring x.seq 0 x.ctx x.part).batchDone x
        (poisonGrans (x.buf0.len / 16)))) := by
  have hexec : exec (.updateBatchReadDone ring seq data bad edges) s = execUpdateBatchReadDone ring seq data bad edges s := rfl
  rw [hexec]
  simp only [execUpdateBatchReadDone, hx, hruns, hdev, Bool.not_true, Bool.false_eq_true, if_false]
  exact ⟨fun hcame => if_pos hcame, fun hcame => if_neg (ne_true_of_eq_false hcame)⟩

end Batch

/-! ## A record at its home -/

theorem State.takeRecord_of_rejected {s : State} {st : Staged} {code : Nat} (hcode : code ≠ 0) :
    s.takeRecord st code =
      (s.setOutcome (HomeOut.fail { s.outcome st with records := satAdd (2 ^ 32 - 1) (s.outcome st).records 1 } code (s.rowKey st))).raise
        (st.fault s code) := if_pos hcode

/-- What a home stages joins its bank and its source's cap, and nothing but the updates changes. -/
theorem State.takeRecord_staged (s : State) (st : Staged) :
    (s.takeRecord st 0).upd.staging = s.upd.staging ++ [st] ∧
      (s.takeRecord st 0).upd.cap = (st.gdie, st.u.src.toNat, st.u.saddle.toNat, st.u.stride.toNat) :: s.upd.cap ∧
      Within (pieces [.upd]) s (s.takeRecord st 0) :=
  ⟨rfl, rfl, (State.setUpd_kept (m := pieces [.upd]) (by decide) (State.setUpd_kept (by decide) kept_refl)).within⟩

section Arrival
variable {gdie : Fin 16} {u : UpdRec} {edges : List EdgeErr} {st : Staged} {s : State}

theorem execUpdateRecordArrival_of_flight (hst : (s.upd.flight.find? fun st => st.gdie == gdie.val && st.u == u) = some st) :
    let first := s.upd.flight.find? fun x => x.gdie == st.gdie && s.recordFrom x == s.recordFrom st
    let t := s.setUpd { s.upd with flight := s.upd.flight.erase st }
    let a := t.sendOver (t.recordFrom st) (dieG gdie.val) (mkGrans (fun _ => u.poison) u.data (ceilDiv u.data.length 16) 0) edges
    (first ≠ some st → exec (.updateRecordArrival gdie u edges) s = .next s) ∧
    (first = some st → a.1 = none → exec (.updateRecordArrival gdie u edges) s = .next a.2) ∧
    (first = some st → ∀ l, a.1 = some l →
      let st' := { st with u := { u with data := (gransBytes l).take u.data.length, poison := u.poison || l.any (·.poison) } }
      exec (.updateRecordArrival gdie u edges) s = .next (a.2.takeRecord st' (a.2.rejects st'))) := by
  intro first t a
  have hexec : exec (.updateRecordArrival gdie u edges) s = execUpdateRecordArrival gdie u edges s := rfl
  rw [hexec]
  simp only [execUpdateRecordArrival, hst]
  refine ⟨fun hfirst => if_pos hfirst, fun hfirst hl => (if_neg (not_not_intro hfirst)).trans ?_,
    fun hfirst l hl => (if_neg (not_not_intro hfirst)).trans ?_⟩
  · have ha : a = (none, a.2) := Prod.ext hl rfl
    dsimp only [a, t] at ha ⊢
    rw [ha]
  · have ha : a = (some l, a.2) := Prod.ext hl rfl
    dsimp only [a, t] at ha ⊢
    rw [ha]

end Arrival

/-! ## The close and the commits of a saddle -/

/-- The records staged for a saddle that is 256 ticks away go to the bank that is applied, and the rest stay. -/
theorem execUpdateClose_moves (gdie : Fin 16) (s : State) :
    ∃ t, exec (.updateClose gdie) s = .next t ∧
      (∀ st ∈ t.upd.staging, st.gdie = gdie.val → s.time.now + 256 < st.u.saddle.toNat) ∧
      (∀ st ∈ s.upd.staging, st.gdie = gdie.val → st.u.saddle.toNat ≤ s.time.now + 256 → st ∈ t.upd.applying) ∧
      (∀ st ∈ s.upd.staging, st ∈ t.upd.staging ∨ st ∈ t.upd.applying) ∧ s.upd.applying <+: t.upd.applying ∧ Within (pieces [.upd]) s t := by
  refine ⟨_, rfl, fun st hst hg => ?_, fun st hst hg hdue => ?_, fun st hst => ?_, List.prefix_append _ _,
    (State.setUpd_kept (m := pieces [.upd]) (by decide) kept_refl).within⟩
  · obtain ⟨-, hstays⟩ := List.mem_filter.mp hst
    simpa [hg] using hstays
  · exact List.mem_append_right _ (List.mem_filter.mpr ⟨hst, by simp [hg, hdue]⟩)
  · cases hdue : (st.gdie == gdie.val && decide (st.u.saddle.toNat ≤ s.time.now + 256))
    · exact .inl (List.mem_filter.mpr ⟨hst, by simp only [hdue, Bool.not_false]⟩)
    · exact .inr (List.mem_append_right _ (List.mem_filter.mpr ⟨hst, hdue⟩))

section Commit
variable {gdie : Fin 16} {upset : List Upset} {staged : List (Nat × Upset)} {edges back : List EdgeErr} {st : Staged} {s : State}

theorem execRowCommit_of_next {rest : List Staged} (hrow : s.nextRow gdie.val = st :: rest) (hruns : s.domainRuns = true)
    (hdie : s.dieOk (dieG gdie.val) = true) :
    let row := st :: rest
    let underWay := st.cxl.isSome && (s.cxlRow gdie.val).isSome
    (s.updatable st = false → exec (.rowCommit gdie upset staged edges back) s = .next (s.rowFails row 0x0673)) ∧
    (s.updatable st = true → underWay = true → exec (.rowCommit gdie upset staged edges back) s = .next (s.applyRow row st upset staged edges back)) ∧
    (s.updatable st = true → underWay = false → s.paceRow st = none → exec (.rowCommit gdie upset staged edges back) s = .next s) ∧
    (∀ t, s.updatable st = true → underWay = false → s.paceRow st = some t →
      exec (.rowCommit gdie upset staged edges back) s = .next (t.applyRow row st upset staged edges back)) := by
  intro row underWay
  have hmay : ¬((!s.domainRuns || !s.dieOk (dieG gdie.val)) = true) := by simp [hruns, hdie]
  have hexec : exec (.rowCommit gdie upset staged edges back) s = execRowCommit gdie upset staged edges back s := rfl
  rw [hexec]
  simp only [execRowCommit, hrow, if_neg hmay]
  refine ⟨fun hup => if_pos (by rw [hup]; rfl), fun hup hway => ?_, fun hup hway hpace => ?_, fun t hup hway hpace => ?_⟩ <;>
    refine (if_neg (by rw [hup]; decide)).trans ?_
  · exact if_pos hway
  all_goals rw [if_neg (ne_true_of_eq_false hway), hpace]

theorem State.applyRow_cases (row : List Staged) :
    let a := s.meetStaged row staged
    (a.1.any (·.u.poison) = true → s.applyRow row st upset staged edges back = a.2.rowFails row 0x0230) ∧
    (a.1.any (·.u.poison) = false → st.cxl = none → s.applyRow row st upset staged edges back = a.2.commitRow row upset edges back) ∧
    (∀ h, a.1.any (·.u.poison) = false → st.cxl = some h → s.applyRow row st upset staged edges back = a.2.commitCxl row h edges) := by
  intro a
  refine ⟨fun hp => if_pos hp, fun hp hcxl => ?_, fun h hp hcxl => ?_⟩ <;> unfold State.applyRow <;> rw [hcxl] <;>
    exact if_neg (ne_true_of_eq_false hp)

end Commit

/-! ## Reports -/

theorem execUpdateReportSend_of_ready {gdie : Fin 16} {src : BitVec 16} {serial : Word} {o : HomeOut} {s : State}
    (ho : (s.upd.outcomes.find? fun o => o.gdie == gdie.val && o.src == src.toNat && o.serial == serial.toNat && !o.sent) = some o)
    (hwindow : o.saddle + s.homeWindow gdie.val o.part ≤ s.time.now) (hbusy : s.homeBusy gdie.val src.toNat serial.toNat = false) :
    let t := s.setUpd { s.upd with outcomes := s.upd.outcomes.filter fun x => !x.same o }
    (∀ q, o.port = some q → t.isSelf o.src = false → exec (.updateReportSend gdie src serial) s = .next (t.sendReport o q)) ∧
    (o.port = none ∨ t.isSelf o.src = true → exec (.updateReportSend gdie src serial) s = .next (t.sendOutcome o)) := by
  intro t
  have hmay : ¬(s.time.now < o.saddle + s.homeWindow gdie.val o.part ∨ s.homeBusy gdie.val src.toNat serial.toNat = true) :=
    not_or.mpr ⟨Nat.not_lt.mpr hwindow, ne_true_of_eq_false hbusy⟩
  have hexec : exec (.updateReportSend gdie src serial) s = execUpdateReportSend gdie src serial s := rfl
  rw [hexec]
  simp only [execUpdateReportSend, ho, if_neg hmay]
  refine ⟨fun q hq hself => ?_, fun hnone => ?_⟩
  · rw [hq]
    exact if_neg (ne_true_of_eq_false hself)
  · cases hq : o.port with
    | none => rfl
    | some q => exact if_pos (hnone.resolve_left (by simp [hq]))

theorem execUpdateReportArrival_of_sent {serial : Word} {dev : BitVec 16} {gdie : Fin 16} {edges : List EdgeErr} {o : HomeOut} {s : State}
    (ho : (s.upd.outcomes.find? fun o => o.sent && o.dev == dev.toNat && o.gdie == gdie.val && o.serial == serial.toNat) = some o) :
    let ends := fun x : HomeOut => (x.origin, (s.ingestOf x).map (·.gdie))
    let first := s.upd.outcomes.find? fun x => x.sent && ends x == ends o
    let t := s.setUpd { s.upd with outcomes := s.upd.outcomes.filter fun x => !x.same o }
    (first ≠ some o → exec (.updateReportArrival serial dev gdie edges) s = .next s) ∧
    (first = some o → ∀ i, s.ingestOf o = some i →
      let a := t.sendOver o.origin (dieG i.gdie) [] edges
      let late := decide (a.2.time.now > i.saddle + i.window + 2000) || i.homes.any fun h => h.dev == o.dev && h.gdie == o.gdie && h.done && h.status == 0x0510
      (a.1 = none ∨ late = true → exec (.updateReportArrival serial dev gdie edges) s = .next a.2) ∧
      (a.1 ≠ none → late = false → exec (.updateReportArrival serial dev gdie edges) s = .next (a.2.putIngest (i.reply o o.port.isNone) edges))) := by
  intro ends first t
  have hexec : exec (.updateReportArrival serial dev gdie edges) s = execUpdateReportArrival serial dev gdie edges s := rfl
  rw [hexec]
  simp only [execUpdateReportArrival, ho]
  refine ⟨fun hfirst => if_pos hfirst, fun hfirst i hi => ?_⟩
  rw [if_neg (not_not_intro hfirst)]
  have hi : t.ingestOf o = some i := hi
  dsimp only [t] at hi ⊢
  rw [hi]
  dsimp only
  obtain ⟨l?, v⟩ := (s.setUpd { s.upd with outcomes := s.upd.outcomes.filter fun x => !x.same o }).sendOver o.origin (dieG i.gdie) [] edges
  cases l? with
  | none => exact ⟨fun _ => rfl, fun hsome => absurd rfl hsome⟩
  | some l =>
    refine ⟨fun hlate => if_pos ?_, fun _ hlate => if_neg ?_⟩
    · obtain hnone | hlate := hlate
      · cases hnone
      · exact (Bool.or_eq_true _ _ ▸ hlate).imp_left of_decide_eq_true
    · obtain ⟨hnow, hhomes⟩ := Bool.or_eq_false_iff.mp hlate
      exact not_or.mpr ⟨of_decide_eq_false hnow, ne_true_of_eq_false hhomes⟩

theorem execUpdateReportTimeout_of_ingest {serial : Word} {dev : BitVec 16} {gdie : Fin 16} {records : Word} {edges : List EdgeErr} {i : Ingest} {s : State}
    (hi : (s.upd.ingests.find? fun i => i.serial == serial.toNat) = some i) :
    let known := i.homes.find? fun h => h.dev == dev.toNat && h.gdie == gdie.val
    let waits := known.elim (i.owed.any fun p => p.1 == dev.toNat && p.2 != 0) fun h => !h.done
    (i.saddle + i.window + 2000 < s.time.now → waits = true →
      exec (.updateReportTimeout serial dev gdie records edges) s = .next (s.putIngest (i.silent dev.toNat gdie.val records.toNat) edges)) ∧
    (s.time.now ≤ i.saddle + i.window + 2000 ∨ waits = false → exec (.updateReportTimeout serial dev gdie records edges) s = .next s) := by
  intro known waits
  have hexec : exec (.updateReportTimeout serial dev gdie records edges) s = execUpdateReportTimeout serial dev gdie records edges s := rfl
  have hwaits : (match known with | some h => !h.done | none => i.owed.any fun p => p.1 == dev.toNat && p.2 != 0) = waits := by
    dsimp only [waits]
    cases known <;> rfl
  rw [hexec]
  simp only [execUpdateReportTimeout, hi]
  refine ⟨fun hnow hwait => if_neg (not_or.mpr ⟨Nat.not_le.mpr hnow, ?_⟩), fun hor => if_pos (hor.imp_right fun hwait => ?_)⟩
  · rw [Bool.not_eq_true, Bool.not_eq_false']
    exact hwaits.trans hwait
  · rw [Bool.not_eq_true']
    exact hwaits.trans hwait

/-- A home is in the account once the batch reaches it. -/
theorem Ingest.reach_mem (i : Ingest) (dev gdie : Nat) : ∃ h ∈ (i.reach dev gdie).homes, h.dev = dev ∧ h.gdie = gdie := by
  unfold Ingest.reach
  split
  case isTrue hany =>
    obtain ⟨h, hmem, hh⟩ := List.any_eq_true.mp hany
    exact ⟨h, hmem, by simpa using hh⟩
  case isFalse => exact ⟨_, List.mem_append_right _ (List.mem_singleton.mpr rfl), rfl, rfl⟩

theorem Ingest.mem_reach_of_mem {i : Ingest} {h : HomeRep} (dev gdie : Nat) (hmem : h ∈ i.homes) : h ∈ (i.reach dev gdie).homes := by
  unfold Ingest.reach
  split
  · exact hmem
  · exact List.mem_append_left _ hmem

theorem Ingest.silent_homes (i : Ingest) (dev gdie records : Nat) :
    (i.silent dev gdie records).homes =
      (i.reach dev gdie).homes.map fun h => if h.dev == dev && h.gdie == gdie then { h with done := true, status := 0x0510 } else h := by
  unfold Ingest.silent
  exact apply_ite Ingest.homes _ _ _ |>.trans (ite_self _)

/-- The account of a silent home is closed with the remote-timeout code, and no other account changes. -/
theorem Ingest.silent_accounts (i : Ingest) (dev gdie records : Nat) :
    (∃ h ∈ (i.silent dev gdie records).homes, h.dev = dev ∧ h.gdie = gdie ∧ h.done = true ∧ h.status = 0x0510) ∧
    (∀ h ∈ i.homes, ¬(h.dev = dev ∧ h.gdie = gdie) → h ∈ (i.silent dev gdie records).homes) := by
  rw [Ingest.silent_homes]
  refine ⟨?_, fun h hmem hother => List.mem_map.mpr ⟨h, Ingest.mem_reach_of_mem dev gdie hmem, if_neg (by simpa using hother)⟩⟩
  obtain ⟨h, hmem, hdev, hgdie⟩ := i.reach_mem dev gdie
  exact ⟨_, List.mem_map.mpr ⟨h, hmem, if_pos (by simp [hdev, hgdie])⟩, hdev, hgdie, rfl, rfl⟩

/-! ## The update registers -/

theorem State.writeUpdCtrl_of_allowed {s : State} {p : Nat} {w : Word} (howner : wbit w 4 = true → ∃ k, k < 16 ∧ s.wayOwner .gthRway (wbits w 3 0) k = some p)
    (hdie : s.dieOk (dieG (wbits w 3 0)) = true) (hidle : ∀ x ∈ s.subs, ¬(x.part = p ∧ x.kind = 0x80 ∧ x.st = .accepted)) :
    s.writeUpdCtrl p w = s.putRw .gthUpdCtrl p w := by
  have howns : (wbit w 4 && !(List.range 16).any fun k => s.wayOwner .gthRway (wbits w 3 0) k == some p) = false := by
    cases hen : wbit w 4 with
    | false => rfl
    | true =>
      obtain ⟨k, hk, hown⟩ := howner hen
      rw [Bool.true_and, Bool.not_eq_false', List.any_eq_true]
      exact ⟨k, List.mem_range.mpr hk, by simp [hown]⟩
  have hbusy : (s.subs.any fun x => x.part == p && x.kind == 0x80 && x.st == .accepted) = false := by
    rw [List.any_eq_false]
    intro x hx hopen
    exact hidle x hx (by simpa [and_assoc] using hopen)
  unfold State.writeUpdCtrl
  simp only [howns, hdie, hbusy, Bool.not_true, Bool.or_self, Bool.false_eq_true, if_false]

theorem State.writeUpdCap_of_fits {s : State} {g e : Nat} {w : Word}
    (hclash : wbit w 30 = true → ∀ j, j < 256 → j ≠ e → s.flag .gthUpdCap (256 * g + j) 30 = true → s.fld .gthUpdCap (256 * g + j) 15 0 ≠ wbits w 15 0)
    (hfits : capFits ((s.putRw .gthUpdCap (256 * g + e) w).capSum g) (s.window g []) = true) :
    s.writeUpdCap g e w = s.putRw .gthUpdCap (256 * g + e) w := by
  have hnone : (wbit w 30 && (List.range 256).any fun j => j != e && s.flag .gthUpdCap (256 * g + j) 30 && s.fld .gthUpdCap (256 * g + j) 15 0 == wbits w 15 0) = false := by
    cases hv : wbit w 30 with
    | false => rfl
    | true =>
      rw [Bool.true_and, List.any_eq_false]
      intro j hj hsame
      simp only [Bool.and_eq_true, bne_iff_ne, ne_eq, beq_iff_eq] at hsame
      exact hclash hv j (List.mem_range.mp hj) hsame.1.1 hsame.1.2 hsame.2
  unfold State.writeUpdCap
  simp only [hnone, hfits, Bool.not_true, Bool.or_self, Bool.false_eq_true, if_false]

/-- Settles O33: each command of an update, and each write of its registers, by the lemma of its case. -/
theorem updatesTakeTheirEffect : Obligations.UpdatesTakeTheirEffect := by
  unfold Obligations.UpdatesTakeTheirEffect
  refine ⟨⟨fun ring seq data bad edges x s hx hruns => ⟨execUpdateBatchReadDone_of_dev hx hruns, execUpdateBatchReadDone_of_host hx hruns⟩,
    fun gdie u edges st s hst => ?_, fun gdie s => execUpdateClose_moves gdie s,
    fun gdie upset staged edges back st rest s hrow hruns hdie => execRowCommit_of_next hrow hruns hdie,
    fun row st upset staged edges back s => State.applyRow_cases row,
    fun gdie src serial o s ho hwindow hbusy => execUpdateReportSend_of_ready ho hwindow hbusy,
    fun serial dev gdie edges o s ho => execUpdateReportArrival_of_sent ho,
    fun serial dev gdie records edges i s hi => execUpdateReportTimeout_of_ingest hi, Ingest.silent_accounts⟩,
    fun port p w s hreach howner hdie hidle => ?_, fun port p w s hreach => ⟨fun hsize => ?_, fun hsize => ?_⟩, fun port g e w s hreach => ?_⟩
  · obtain ⟨hother, hlost, htaken⟩ := execUpdateRecordArrival_of_flight (edges := edges) hst
    refine ⟨hother, hlost, fun hfirst l hl => ?_⟩
    have hexec := htaken hfirst l hl
    have hgdie : st.gdie = gdie.val := by
      have hfound := List.find?_some hst
      simp only [Bool.and_eq_true, beq_iff_eq] at hfound
      exact hfound.1
    refine ⟨fun hcode => hexec.trans (congrArg _ (State.takeRecord_of_rejected hcode)), fun hcode => ?_⟩
    obtain ⟨hstaging, hcap, hwithin⟩ := State.takeRecord_staged _ _
    exact ⟨_, hexec.trans (congrArg _ (congrArg _ hcode)), hstaging, hgdie ▸ hcap, hwithin⟩
  · change execGthUpdCtrlWrite port p w s = _
    rw [execGthUpdCtrlWrite, if_pos hreach, State.writeUpdCtrl_of_allowed howner hdie hidle]
  · change execGthUpdQuotaWrite port p w s = _
    rw [execGthUpdQuotaWrite, if_pos hreach, State.writeUpdQuota, if_neg (Nat.not_lt.mpr hsize)]
  · change execGthUpdQuotaWrite port p w s = _
    rw [execGthUpdQuotaWrite, if_pos hreach, State.writeUpdQuota, if_pos hsize]
  · intro i t hclash hfits
    change execGthUpdCapWrite port g e w s = _
    rw [execGthUpdCapWrite, if_pos hreach, State.writeUpdCap_of_fits hclash hfits]

end Sys2Proof.Machine
end

section
/-! SUPPORT. Host ports, their reads and the loss of a host (12, 18, 19). -/

namespace Sys2Proof.Machine

open Sys2Proof Host

theorem execHostReadCompletion_of_read {port : Fin 4} {id : Nat} {status : ReadStatus} {data : List Gran} {edges : List EdgeErr} {q : HostRead} {s : State}
    (hq : (s.reads.find? fun q => q.id == id && q.port == port.val) = some q) :
    let n := ceilDiv q.len 16
    let u := if status = .ok then s else s.raise (portFault s port.val 0x0421 q.ctx q.part)
    let a := (u.dropRead id).fetchOver (u.readerOf q) (fun _ => some (dieH port.val)) n edges fun _ _ s => (readData n status data, 0, s)
    (a.1 = none → exec (.hostReadCompletion port id status data edges) s = .next a.2.2) ∧
    (∀ l, a.1 = some l → exec (.hostReadCompletion port id status data edges) s = .next (a.2.2.deliver q l (decide (status = .ok)) edges)) := by
  intro n u
  have hexec : exec (.hostReadCompletion port id status data edges) s = execHostReadCompletion port id status data edges s := rfl
  rw [hexec]
  simp only [execHostReadCompletion, hq]
  obtain ⟨l?, c, t⟩ := (u.dropRead id).fetchOver (u.readerOf q) (fun _ => some (dieH port.val)) n edges fun _ _ s => (readData n status data, 0, s)
  refine ⟨fun hl => ?_, fun l hl => ?_⟩
  · obtain rfl : l? = none := hl
    rfl
  · obtain rfl : l? = some l := hl
    rfl

section Link
variable {port : Fin 4} {s : State}

theorem execLinkDown_of_active (h : (s.port port.val).active = true) : exec (.linkDown port) s = .next (s.loseLink port.val 0) := if_pos h

theorem execFlr_of_pcie (h : (s.port port.val).active = true) (hcxl : (s.port port.val).cxl = false) :
    exec (.flr port) s = .next (s.loseHost port.val 4 (s.port port.val).link) := if_pos ⟨h, by rw [hcxl]; rfl⟩

theorem execRetrain_of_pcie (h : (s.port port.val).active = true) (hcxl : (s.port port.val).cxl = false) :
    exec (.retrain port) s = .next (s.setBit .hqPortEvt port.val 1) := if_pos ⟨h, by rw [hcxl]; rfl⟩

/-- A reset of the host loses the link, and the assertion of PERST_N is kept. -/
theorem execHostReset_of_included {perst : Bool} (h : (s.port port.val).active = true ∨ perst = true) (hin : s.excluded (dieH port.val) = false) :
    exec (.hostReset port perst) s =
      .next ((s.setPort port.val { s.port port.val with perst := (s.port port.val).perst || perst }).loseLink port.val 3) := by
  refine if_neg (not_or.mpr ⟨fun hno => ?_, ne_true_of_eq_false hin⟩)
  rcases h with h | h <;> simp [h] at hno

theorem fullLink_iff (width : BitVec 5) (rate : BitVec 4) (cxl : Bool) :
    (if cxl then width.toNat == 16 && rate.toNat == 6 else fullLink width.toNat rate.toNat) = true ↔ width = 16 ∧ rate.toNat = if cxl then 6 else 7 := by
  have hwidth : width.toNat = 16 ↔ width = 16 := BitVec.toNat_inj (y := 16)
  cases cxl <;> simp [fullLink, hwidth]

theorem execLinkUp_of_included {width : BitVec 5} {rate : BitVec 4} (hdown : (s.port port.val).active = false) (hperst : (s.port port.val).perst = false)
    (hclk : (s.port port.val).refclk = true) (hin : s.excluded (dieH port.val) = false) :
    ∃ t, exec (.linkUp port width rate) s = .next t ∧ (t.port port.val).active = true ∧ (t.port port.val).width = width.toNat ∧
      (t.port port.val).rate = rate.toNat ∧ (t.port port.val).fenced = (s.port port.val).fenced ∧
      (t.port port.val).cxl = s.flag .hqPortCfg port.val 0 ∧ (t.port port.val).lostAt = none ∧
      ((t.port port.val).link = .up ↔ width = 16 ∧ rate.toNat = if s.flag .hqPortCfg port.val 0 then 6 else 7) ∧
      t.flag .hqPortEvt port.val 2 = true ∧ (∀ p, p ≠ port.val → t.port p = s.port p) ∧ Within (pieces [.ports, .regs]) s t := by
  have hmay : ¬((s.port port.val).active = true ∨ (s.port port.val).perst = true ∨ (!(s.port port.val).refclk) = true ∨ s.excluded (dieH port.val) = true) := by
    simp [hdown, hperst, hclk, hin]
  let full := if s.flag .hqPortCfg port.val 0 then width.toNat == 16 && rate.toNat == 6 else fullLink width.toNat rate.toNat
  let x : PortS := { s.port port.val with link := if full then .up else .degraded, width := width.toNat, rate := rate.toNat,
                                          cxl := s.flag .hqPortCfg port.val 0, lostAt := none, lostArmed := false }
  have hport : (((s.setPort port.val x).setBit .hqPortEvt port.val 2).port port.val) = x := State.setPort_port_same ..
  have hlink : x.link = .up ↔ full = true := by
    dsimp only [x]
    cases full <;> decide
  have hactive : x.active = true := by
    rw [PortS.active]
    cases hfull : full <;> simp [x, hfull]
  refine ⟨(s.setPort port.val x).setBit .hqPortEvt port.val 2, if_neg hmay, ?_⟩
  rw [hport]
  exact ⟨hactive, rfl, rfl, rfl, rfl, rfl, hlink.trans (fullLink_iff width rate _), State.setBit_flag_same _ _ _ (by decide),
    fun p hp => State.setPort_port_of_ne _ _ hp,
    (State.setBit_kept (ks := pieces [.ports, .regs]) (by decide) (State.setPort_kept (by decide) kept_refl)).within⟩

theorem execHostLinkGiveup_of_lost {lost : Nat} (hlost : (s.port port.val).lostAt = some lost) (hdown : (s.port port.val).active = false)
    (harmed : (s.port port.val).lostArmed = true) (hnow : lost + 100000000 ≤ s.time.now) :
    let t := (s.setPort port.val { s.port port.val with lostAt := none, lostArmed := false }).setBit .hqPortEvt port.val 5
    exec (.hostLinkGiveup port) s =
      .next ((t.raise (FaultRec.new t 0x0903 (some (dieH port.val)) 0x10)).resetDevice 0x0903 (dieH port.val) 0x10 true [] false) := by
  intro t
  have hmay : ¬((s.port port.val).active = true ∨ (!(s.port port.val).lostArmed) = true ∨ s.time.now < lost + 100000000) :=
    not_or.mpr ⟨ne_true_of_eq_false hdown, not_or.mpr ⟨by rw [harmed]; decide, Nat.not_lt.mpr hnow⟩⟩
  change execHostLinkGiveup port s = _
  simp only [execHostLinkGiveup, hlost]
  exact if_neg hmay

end Link

/-! ## HQ_PORT_CFG, the reference clock and PERST_N -/

section Mode
variable {s : State} {n : Nat} {w : Word}

theorem State.writePortCfg_of_open (hopen : s.locks.contains (RG.off .hqPortCfg n) = false) :
    let t := (s.putRw .hqPortCfg n w).setLocks (RG.off .hqPortCfg n :: s.locks)
    (wbit w 0 = false → s.writePortCfg n w = t) ∧
    (wbit w 0 = true → s.mayCxl n = false → s.writePortCfg n w = s.regErr (RG.off .hqPortCfg n) 4) ∧
    (wbit w 0 = true → s.mayCxl n = true → s.excluded (dieH n) = true → s.writePortCfg n w = t) ∧
    (wbit w 0 = true → s.mayCxl n = true → s.excluded (dieH n) = false →
      let u := t.loseHost n 0 .training
      s.writePortCfg n w = u.setPort n { u.port n with cxl := true, lostAt := none, lostArmed := false }) := by
  intro t
  have hexcluded : t.excluded (dieH n) = s.excluded (dieH n) := rfl
  unfold State.writePortCfg
  simp only [if_neg (ne_true_of_eq_false hopen)]
  refine ⟨fun hw => if_neg (ne_true_of_eq_false hw), fun hw hmay => (if_pos hw).trans (if_neg (ne_true_of_eq_false hmay)),
    fun hw hmay hex => (if_pos hw).trans ((if_pos hmay).trans (if_pos (hexcluded.trans hex))),
    fun hw hmay hex => (if_pos hw).trans ((if_pos hmay).trans (if_neg ?_))⟩
  exact ne_true_of_eq_false (hexcluded.trans hex)

end Mode

theorem execRefclkLost_of_clock {port : Fin 4} {s : State} (hclk : (s.port port.val).refclk = true) :
    let t := (s.setPort port.val { s.port port.val with refclk := false }).setBit .pwrEvt 0 (6 + port.val)
    exec (.refclkLost port) s = .next (if (s.port port.val).link = .down then t else t.loseLink port.val 0) := by
  intro t
  refine (if_neg (by rw [hclk]; decide)).trans ?_
  split <;> rfl

/-- Settles O34: the events of a port by the lemma of each, and the loss of a host by the lemmas about its port and its rings. -/
theorem hostPortEventsTakeTheirEffect : Obligations.HostPortEventsTakeTheirEffect := by
  unfold Obligations.HostPortEventsTakeTheirEffect
  refine ⟨⟨fun port id status data edges q s hq => execHostReadCompletion_of_read hq,
    fun port s hactive => ⟨fun hcxl => ?_, fun hcxl => ⟨?_, execFlr_of_pcie hactive hcxl, execRetrain_of_pcie hactive hcxl⟩⟩,
    fun port perst s h hin => execHostReset_of_included h hin, fun port width rate s hdown hperst hclk hin => execLinkUp_of_included hdown hperst hclk hin,
    fun port lost s hlost hdown harmed hnow => execHostLinkGiveup_of_lost hlost hdown harmed hnow, fun port n w s hreach hopen => ?_,
    fun port s hclk => execRefclkLost_of_clock hclk, fun port s => rfl, fun port s hperst hin => if_pos ⟨hperst, by rw [hin]; rfl⟩,
    fun port perst width rate s hex => ⟨if_pos (.inr hex), if_pos (.inr (.inr (.inr hex))), if_neg fun h => by simp [hex] at h⟩⟩,
    fun p evt link s => ?_⟩
  · rw [execLinkDown_of_active hactive, State.loseLink_of_cxl 0 hcxl]
  · rw [execLinkDown_of_active hactive, State.loseLink_of_pcie 0 hcxl]
  · have hexec : exec (.portModeWrite port n w) s = .next (s.writePortCfg n.val w) := if_pos hreach
    obtain ⟨hpcie, hrefused, hgone, hcxl⟩ := State.writePortCfg_of_open (w := w) hopen
    refine ⟨fun hw => ?_, fun hw hmay => ?_, fun hw hmay hex => ?_, fun hw hmay hex => ?_⟩
    · rw [hexec, hpcie hw]
    · rw [hexec, hrefused hw hmay]
    · rw [hexec, hgone hw hmay hex]
    · rw [hexec, hcxl hw hmay hex]
  · obtain ⟨⟨hlink, hfenced, -⟩, hothers⟩ := s.loseHost_port p.val evt link
    exact ⟨hfenced, hlink, fun r hr hst => State.loseHost_ring s evt link p.isLt hr hst, hothers⟩

end Sys2Proof.Machine
end

section
/-! SUPPORT. Pool requests, records and responses, and CXL members (11, 13). -/

namespace Sys2Proof.Machine

open Sys2Proof Host

/-! ## Requests to the memory of this device -/

section Requests
variable {port : Fin 64} {f : Frame} {bad : List Blemish} {upset : List Upset} {edges : List EdgeErr} {t : State} {a : Arrived} {s : State}

theorem execWrite_of_arrived (ha : s.arrive port.val 1 f = (t, some a)) (hfence : ((a.head f).fence && a.s.cxlBusy port.val (a.head f)) = false) :
    let h := a.head f
    let die := dieF (port.val / 8)
    (a.s.gate h true ≠ 0 → exec (.write port f edges) s = .next (a.s.respond port.val h (a.s.gate h true) [])) ∧
    (a.s.gate h true = 0 → ∀ m, a.s.memberOf h.dst.toNat = some m →
      exec (.write port f edges) s = .next (a.s.memberReq m port.val h (16 * a.data.length) a.data edges)) ∧
    (a.s.gate h true = 0 → a.s.memberOf h.dst.toNat = none →
      let r := a.s.carryOver die (fun i => a.s.poolDie die (h.offset.toNat + 16 * i)) a.data edges fun i l s =>
        s.poolWrite die (h.offset.toNat + 16 * i) l
      (r.1 = none → exec (.write port f edges) s = .next r.2) ∧
      (∀ c, r.1 = some c → exec (.write port f edges) s = .next (r.2.respond port.val h c []))) := by
  intro h die
  have hexec : exec (.write port f edges) s = execWrite port f edges s := rfl
  rw [hexec]
  simp only [execWrite, ha, if_neg (ne_true_of_eq_false hfence)]
  refine ⟨fun hgate => if_pos hgate, fun hgate m hm => (if_neg (not_not_intro hgate)).trans ?_, fun hgate hm => ?_⟩
  · dsimp only [h] at hm ⊢
    rw [hm]
  rw [if_neg (not_not_intro hgate)]
  dsimp only [h, die] at hm ⊢
  rw [hm]
  dsimp only
  obtain ⟨c?, v⟩ := a.s.carryOver (dieF (port.val / 8)) (fun i => a.s.poolDie (dieF (port.val / 8)) ((a.head f).offset.toNat + 16 * i)) a.data edges
    fun i l s => s.poolWrite (dieF (port.val / 8)) ((a.head f).offset.toNat + 16 * i) l
  cases c? with
  | none => exact ⟨fun _ => rfl, fun c hc => by cases hc⟩
  | some c => exact ⟨fun hc => (by cases hc), fun c' hc => by cases hc; rfl⟩

theorem execRead_of_arrived (ha : s.arrive port.val 2 f = (t, some a)) (hfence : (f.fence && a.s.cxlBusy port.val f) = false) :
    (a.s.gate f true ≠ 0 → exec (.read port f bad edges) s = .next (a.s.respond port.val f (a.s.gate f true) [])) ∧
    (∀ m, a.s.gate f true = 0 → a.s.memberOf f.dst.toNat = some m →
      exec (.read port f bad edges) s = .next (a.s.memberReq m port.val f f.bytes.toNat [] edges)) ∧
    (a.s.gate f true = 0 → a.s.memberOf f.dst.toNat = none →
      let die := dieF (port.val / 8)
      let o := f.offset.toNat
      let n := f.bytes.toNat / 16
      let r := (a.s.meetPool o n bad).fetchOver die (fun i => a.s.poolDie die (o + 16 * i)) n edges fun i k s => s.poolRead die (o + 16 * i) k
      (r.1 = none → exec (.read port f bad edges) s = .next r.2.2) ∧
      (∀ l, r.1 = some l → exec (.read port f bad edges) s = .next (r.2.2.respond port.val f r.2.1 l))) := by
  have hexec : exec (.read port f bad edges) s = execRead port f bad edges s := rfl
  rw [hexec]
  simp only [execRead, ha, if_neg (ne_true_of_eq_false hfence)]
  refine ⟨fun hgate => if_pos hgate, fun m hgate hm => (if_neg (not_not_intro hgate)).trans (by rw [hm]), fun hgate hm => ?_⟩
  rw [if_neg (not_not_intro hgate), hm]
  dsimp only
  obtain ⟨l?, c, v⟩ := (a.s.meetPool f.offset.toNat (f.bytes.toNat / 16) bad).fetchOver (dieF (port.val / 8))
    (fun i => a.s.poolDie (dieF (port.val / 8)) (f.offset.toNat + 16 * i)) (f.bytes.toNat / 16) edges
    fun i k s => s.poolRead (dieF (port.val / 8)) (f.offset.toNat + 16 * i) k
  cases l? with
  | none => exact ⟨fun _ => rfl, fun l hl => (by cases hl)⟩
  | some l => exact ⟨fun hl => (by cases hl), fun l' hl => by cases hl; rfl⟩

theorem execRowRead_of_arrived (ha : s.arrive port.val 3 f = (t, some a)) (hfence : (f.fence && a.s.cxlBusy port.val f) = false) :
    (a.s.gate f true ≠ 0 → exec (.rowRead port f upset edges) s = .next (a.s.respond port.val f (a.s.gate f true) [])) ∧
    (∀ m, a.s.gate f true = 0 → a.s.memberOf f.dst.toNat = some m →
      exec (.rowRead port f upset edges) s = .next (a.s.memberReq m port.val f f.bytes.toNat [] edges)) ∧
    (a.s.gate f true = 0 → a.s.memberOf f.dst.toNat = none →
      let r := a.s.poolRow (dieF (port.val / 8)) f.offset.toNat (f.bytes.toNat / 256) upset edges
      (r.1 = none → exec (.rowRead port f upset edges) s = .next r.2.2) ∧
      (∀ l, r.1 = some l → exec (.rowRead port f upset edges) s = .next (r.2.2.respond port.val f r.2.1 l))) := by
  have hexec : exec (.rowRead port f upset edges) s = execRowRead port f upset edges s := rfl
  rw [hexec]
  simp only [execRowRead, ha, if_neg (ne_true_of_eq_false hfence)]
  refine ⟨fun hgate => if_pos hgate, fun m hgate hm => (if_neg (not_not_intro hgate)).trans (by rw [hm]), fun hgate hm => ?_⟩
  rw [if_neg (not_not_intro hgate), hm]
  dsimp only
  obtain ⟨l?, c, v⟩ := a.s.poolRow (dieF (port.val / 8)) f.offset.toNat (f.bytes.toNat / 256) upset edges
  cases l? with
  | none => exact ⟨fun _ => rfl, fun l hl => (by cases hl)⟩
  | some l => exact ⟨fun hl => (by cases hl), fun l' hl => by cases hl; rfl⟩

theorem execAtomic_of_arrived {op : Aop} (ha : s.arrive port.val 4 f = (t, some a)) (hop : Frame.atomOf f = some op)
    (hfence : (f.fence && a.s.cxlBusy port.val f) = false) :
    (a.s.gate f true ≠ 0 → exec (.atomic port f bad edges) s = .next (a.s.respond port.val f (a.s.gate f true) [])) ∧
    (∀ m, a.s.gate f true = 0 → a.s.memberOf f.dst.toNat = some m →
      exec (.atomic port f bad edges) s = .next (a.s.memberReq m port.val f (if f.asz then 8 else 4) a.data edges)) ∧
    (a.s.gate f true = 0 → a.s.memberOf f.dst.toNat = none →
      let die := dieF (port.val / 8)
      let u := a.s.meetPool (f.offset.toNat / 16 * 16) 1 bad
      let r := u.fetchOver die (fun _ => a.s.poolDie die f.offset.toNat) 1 edges fun _ _ s =>
        let l := s.crossEdges (fun _ e => e.out && (a.s.poolDie die f.offset.toNat).any (between die · e)) a.data edges
        let g := l.2.poolAtomic die { f with payload := l.1 } op
        ([g.1], g.2.1, g.2.2)
      (r.1 = none → exec (.atomic port f bad edges) s = .next r.2.2) ∧
      (∀ l, r.1 = some l → exec (.atomic port f bad edges) s = .next (r.2.2.respond port.val f r.2.1 l))) := by
  have hexec : exec (.atomic port f bad edges) s = execAtomic port f bad edges s := rfl
  rw [hexec]
  simp only [execAtomic, ha, hop, if_neg (ne_true_of_eq_false hfence)]
  refine ⟨fun hgate => if_pos hgate, fun m hgate hm => (if_neg (not_not_intro hgate)).trans (by rw [hm]), fun hgate hm => ?_⟩
  rw [if_neg (not_not_intro hgate), hm]
  dsimp only
  generalize (State.fetchOver _ _ _ _ _ _) = r
  obtain ⟨l?, c, v⟩ := r
  cases l? with
  | none => exact ⟨fun _ => rfl, fun l hl => (by cases hl)⟩
  | some l => exact ⟨fun hl => (by cases hl), fun l' hl => by cases hl; rfl⟩

end Requests

/-! ## Requests to a CXL member -/

/-- A packet that meets no error on its way arrives as it was sent. -/
@[simp] theorem State.sendOver_nil (s : State) (src dst : Nat) (l : List Gran) : s.sendOver src dst l [] = (some l, s) := rfl

theorem State.memberReq_cases (h q : Nat) (f : Frame) (n : Nat) (data : List Gran) (edges : List EdgeErr) (s : State) :
    let home := s.fld .vstCxl h 22 19
    let out := f.op == 3 && (s.gRestarts home || !s.dieOk (dieG home))
    let bad := decide (f.offset.toNat + n > Config.cxlCapacity h) || (f.op == 1 && !s.flag .vstCxl h 17) || (f.op == 4 && !s.flag .vstCxl h 18)
    let a := s.sendOver (dieF (q / 8)) (dieH h) data edges
    (out = true → s.memberReq h q f n data edges = s.respond q f 0x0705 []) ∧
    (out = false → bad = true → s.memberReq h q f n data edges = s.respond q f 0x0430 []) ∧
    (out = false → bad = false → a.1 = none → s.memberReq h q f n data edges = a.2) ∧
    (∀ l, out = false → bad = false → a.1 = some l → s.memberReq h q f n data edges =
      a.2.cxlPool h q (if f.op = 4 then { f with payload := l } else f) n (if f.op = 1 then .writing else .reading) (if f.op = 1 then l else [])) := by
  intro home out bad
  have hout : out = true ↔ f.op = 3 ∧ (s.gRestarts home = true ∨ (!s.dieOk (dieG home)) = true) := by
    simp only [out, Bool.and_eq_true, beq_iff_eq, Bool.or_eq_true]
  have hbad : bad = true ↔ f.offset.toNat + n > Config.cxlCapacity h ∨ (f.op = 1 ∧ (!s.flag .vstCxl h 17) = true) ∨ (f.op = 4 ∧ (!s.flag .vstCxl h 18) = true) := by
    simp only [bad, Bool.or_eq_true, Bool.and_eq_true, beq_iff_eq, decide_eq_true_eq, or_assoc]
  have hsent : out = false → bad = false → s.memberReq h q f n data edges =
      match s.sendOver (dieF (q / 8)) (dieH h) data edges with
      | (none, s) => s
      | (some l, s) =>
        let g := if f.op = 4 then { f with payload := l } else f
        s.cxlPool h q g n (if g.op = 1 then .writing else .reading) (if g.op = 1 then l else []) :=
    fun ho hb => (if_neg fun h => ne_true_of_eq_false ho (hout.mpr h)).trans (if_neg fun h => ne_true_of_eq_false hb (hbad.mpr h))
  refine ⟨fun ho => if_pos (hout.mp ho), fun ho hb => (if_neg fun h => ne_true_of_eq_false ho (hout.mpr h)).trans (if_pos (hbad.mp hb)),
    fun ho hb ha => (hsent ho hb).trans ?_, fun l ho hb ha => (hsent ho hb).trans ?_⟩
  · rw [show s.sendOver (dieF (q / 8)) (dieH h) data edges = (none, _) from Prod.ext ha rfl]
  · have hop : (if f.op = 4 then { f with payload := l } else f).op = f.op := by split <;> rfl
    rw [show s.sendOver (dieF (q / 8)) (dieH h) data edges = (some l, _) from Prod.ext ha rfl]
    simp only [hop]

theorem State.memberAnswer_nil (s : State) (x : CxlReq) (q : Nat) (f : Frame) (l : List Gran) :
    s.memberAnswer x q f l [] = (s.setFab { s.fab with cxl := s.fab.cxl.filter (·.id != x.id) }).respond q f 0 l := by
  unfold State.memberAnswer
  by_cases hop : f.op = 3 <;> simp only [hop, if_true, if_false, State.sendOver_nil]

theorem State.cxlReadDone_of_read {f : Frame} (s : State) (x : CxlReq) (q : Nat) (l : List Gran) (edges : List EdgeErr) (hop : f.op ≠ 4) :
    s.cxlReadDone x q f l edges = s.memberAnswer x q f l edges := if_pos hop

theorem State.cxlReadDone_of_expired {s : State} {f : Frame} (x : CxlReq) (q : Nat) {l : List Gran} (edges : List EdgeErr) (hop : f.op = 4)
    (hatom : Frame.atomOf f ≠ none) (hclean : (l.headD { data := 0, poison := true }).poison = false) (hexp : s.expired f = true) :
    s.cxlReadDone x q f l edges = (s.setFab { s.fab with cxl := s.fab.cxl.filter (·.id != x.id) }).respond q f 0x0807 [] := by
  obtain ⟨op, hop'⟩ := Option.ne_none_iff_exists'.mp hatom
  unfold State.cxlReadDone
  simp only [hop', hclean, hexp, if_neg (not_not_intro hop), if_true, Bool.false_eq_true, if_false]

section Completion
variable {hdie : Fin 4} {id : Nat} {data : List Gran} {edges : List EdgeErr} {x : CxlReq} {s : State}

theorem execCxlMemCompletion_of_pool {q : Nat} {f : Frame}
    (hx : (s.fab.cxl.find? fun x => x.id == id && x.hdie == hdie.val && (x.phase == .reading || x.phase == .writing)) = some x)
    (hp : x.purpose = .pool q f) :
    let n := ceilDiv (max 16 x.n) 16
    let l := (data ++ poisonGrans n).take n
    let u := s.raise (FaultRec.new s 0x0109 (some (dieH hdie.val)) 0x10)
    let ends := if f.op = 4 then x.data.take 1 else []
    (x.phase = .reading → l.any (·.poison) = false →
      exec (.cxlMemCompletion hdie id false data edges) s = .next (s.cxlReadDone x q f l edges).cxlWake) ∧
    (x.phase = .reading → l.any (·.poison) = true →
      exec (.cxlMemCompletion hdie id false data edges) s = .next (u.cxlReadDone x q f l edges).cxlWake) ∧
    (x.phase = .reading → exec (.cxlMemCompletion hdie id true data edges) s = .next (u.cxlReadDone x q f (poisonGrans n) edges).cxlWake) ∧
    (x.phase = .writing → exec (.cxlMemCompletion hdie id false data edges) s = .next (s.memberAnswer x q f ends edges).cxlWake) ∧
    (x.phase = .writing → exec (.cxlMemCompletion hdie id true data edges) s = .next (u.memberAnswer x q f ends edges).cxlWake) := by
  intro n l u ends
  have hexec (e : Bool) : exec (.cxlMemCompletion hdie id e data edges) s = execCxlMemCompletion hdie id e data edges s := rfl
  refine ⟨fun hphase hl => ?_, fun hphase hl => ?_, fun hphase => ?_, fun hphase => ?_, fun hphase => ?_⟩ <;> rw [hexec] <;>
    simp only [execCxlMemCompletion, hx, hp, hphase]
  · have hl : (((data ++ poisonGrans (ceilDiv (max 16 x.n) 16)).take (ceilDiv (max 16 x.n) 16)).any (·.poison)) = false := hl
    simp only [hl, Bool.and_false, Bool.or_false, Bool.false_eq_true, if_false]
    rfl
  · have hl : (((data ++ poisonGrans (ceilDiv (max 16 x.n) 16)).take (ceilDiv (max 16 x.n) 16)).any (·.poison)) = true := hl
    simp only [hl, Bool.false_eq_true, if_false]
    rfl
  all_goals rfl

theorem execCxlMemCompletion_of_row {g : Nat}
    (hx : (s.fab.cxl.find? fun x => x.id == id && x.hdie == hdie.val && (x.phase == .reading || x.phase == .writing)) = some x)
    (hp : x.purpose = .row g) :
    let u := s.raise (FaultRec.new s 0x0109 (some (dieH hdie.val)) 0x10)
    let gone := fun v : State => v.setFab { v.fab with cxl := v.fab.cxl.filter (·.id != x.id) }
    let row := fun v : State => v.memberRow g x.hdie x.off
    (x.phase = .writing →
      exec (.cxlMemCompletion hdie id false data edges) s =
        .next ((((gone s).rowOutcome (row (gone s)) HomeOut.committed).rowGone (row (gone s))).cxlWake) ∧
      exec (.cxlMemCompletion hdie id true data edges) s = .next (((gone u).rowFails (row (gone u)) 0x0109).cxlWake)) ∧
    (x.phase = .reading → edges = [] →
      let n := ceilDiv (max 16 x.n) 16
      let l := (data ++ poisonGrans n).take n
      let took := s.fab.cxl.map fun (y : CxlReq) => if y.id == x.id then { y with phase := .read, data := l } else y
      l.any (·.poison) = false → exec (.cxlMemCompletion hdie id false data edges) s = .next (s.setFab { s.fab with cxl := took }).cxlWake) := by
  intro u gone row
  have hexec (e : Bool) : exec (.cxlMemCompletion hdie id e data edges) s = execCxlMemCompletion hdie id e data edges s := rfl
  refine ⟨fun hphase => ⟨?_, ?_⟩, fun hphase hedges => ?_⟩
  · rw [hexec]
    simp only [execCxlMemCompletion, hx, hp, hphase]
    rfl
  · rw [hexec]
    simp only [execCxlMemCompletion, hx, hp, hphase]
    rfl
  · intro n l took hl
    rw [hexec]
    simp only [execCxlMemCompletion, hx, hp, hphase]
    have hl : (((data ++ poisonGrans (ceilDiv (max 16 x.n) 16)).take (ceilDiv (max 16 x.n) 16)).any (·.poison)) = false := hl
    simp only [hl, hedges, State.sendOver_nil, Bool.and_false, Bool.or_false, Bool.false_eq_true, if_false]
    rfl

end Completion

/-! ## Records, reports and responses that arrive, and requests past their bound -/

section Arrivals
variable {port : Fin 64} {f : Frame} {t : State} {a : Arrived} {s : State}

theorem execUpdRec_of_arrived (ha : s.arrive port.val 5 f = (t, some a)) :
    let h := a.head f
    (a.s.gate h false ≠ 0 → exec (.updRec port f) s = .next (a.s.raise (poolFault a.s port.val (a.s.gate h false) h))) ∧
    (∀ st, a.s.gate h false = 0 → a.s.recordHome port.val h (updOf h.src.toNat a.data) = .ok st →
      exec (.updRec port f) s = .next (a.s.setUpd { a.s.upd with flight := a.s.upd.flight ++ [st] })) ∧
    (∀ c, a.s.gate h false = 0 → a.s.recordHome port.val h (updOf h.src.toNat a.data) = .error c →
      exec (.updRec port f) s = .next (a.s.raise (poolFault a.s port.val c h))) := by
  intro h
  have hexec : exec (.updRec port f) s = execUpdRec port f s := rfl
  rw [hexec]
  simp only [execUpdRec, ha]
  refine ⟨fun hgate => if_pos hgate, fun st hgate hhome => (if_neg (not_not_intro hgate)).trans ?_,
    fun c hgate hhome => (if_neg (not_not_intro hgate)).trans ?_⟩ <;> dsimp only [h] at hhome ⊢ <;> rw [hhome]

theorem execUpdRpt_of_arrived {i : Ingest} (ha : s.arrive port.val 6 f = (t, some a)) (hgate : a.s.gate f false = 0)
    (hi : (a.s.upd.ingests.find? fun i => i.serial == f.offset.toNat % 2 ^ 32) = some i) :
    ∃ v o, exec (.updRpt port f) s = .next v ∧ v = a.s.setUpd { a.s.upd with outcomes := a.s.upd.outcomes ++ [o] } ∧
      o.dev = f.src.toNat ∧ o.src = a.s.devId ∧ o.serial = f.offset.toNat % 2 ^ 32 ∧ o.saddle = i.saddle ∧ o.part = i.part ∧ o.sent = true ∧
      o.gdie = bits (a.data.headD { data := 0, poison := false }).data.toNat 3 0 ∧
      o.status = bits (a.data.headD { data := 0, poison := false }).data.toNat 31 16 := by
  have hexec : exec (.updRpt port f) s = execUpdRpt port f s := rfl
  rw [hexec]
  simp only [execUpdRpt, ha, hgate, hi]
  exact ⟨_, _, rfl, rfl, rfl, rfl, rfl, rfl, rfl, rfl, rfl, rfl⟩

theorem execRsp_of_taken {edges : List EdgeErr} (hcls : f.cls = .rsp) (hf : s.receive port.val f = .taken t) :
    exec (.rsp port f edges) s = .next (t.takeRsp port.val f.src.toNat f.reqSeq.toNat f.status.toNat (Frame.grans f) f.last edges) := by
  change execRsp port f edges s = _
  simp only [execRsp, hcls, hf, ne_eq, not_true_eq_false, if_false]

end Arrivals

theorem execRemoteBound_of_past {id : Nat} {r : RemoteReq} {s : State} (hr : s.fab.reqs.find? (·.id == id) = some r) (hnow : r.issue + 2000 ≤ s.time.now)
    (hop : r.op ≠ 5) :
    let t := s.failReq r 0x0510
    (∀ g k, r.purpose = .row g k →
      (∀ h, (s.part r.part).hold = some h → h.latch ≤ s.time.now →
        exec (.remoteBound id) s = .next (t.charge g.ring.val g.seq.toNat 0
          { FaultRec.new t 0x0510 (some (dieF (r.port / 8))) 0x28 with ctx := some r.ctx, part := some r.part })) ∧
      ((s.part r.part).hold = none → exec (.remoteBound id) s = .next t)) ∧
    (∀ g, r.purpose = .send g → exec (.remoteBound id) s = .next t) := by
  intro t
  have hmay : ¬(s.time.now < r.issue + 2000 ∨ r.op = 5) := not_or.mpr ⟨Nat.not_lt.mpr hnow, hop⟩
  have hexec : exec (.remoteBound id) s = execRemoteBound id s := rfl
  rw [hexec]
  simp only [execRemoteBound, hr, if_neg hmay]
  refine ⟨fun g k hp => ⟨fun h hhold hlatch => ?_, fun hhold => ?_⟩, fun g hp => ?_⟩
  · simp only [hp, hhold, hlatch, decide_true, if_true]
    rfl
  · simp only [hp, hhold, Bool.false_eq_true, if_false]
    rfl
  · simp only [hp]
    rfl

/-- Settles O36: each request by the lemma of its command, a member's accesses by those about it. -/
theorem poolRequestsAreServed : Obligations.PoolRequestsAreServed := by
  unfold Obligations.PoolRequestsAreServed
  refine ⟨⟨fun port f edges t a s ha => execWrite_of_arrived ha,
    fun port f bad edges t a s ha hfence hgate hm => ?_, fun port f upset edges t a s ha hfence hgate hm => ?_,
    fun port f bad edges t a op s ha hop hfence hgate hm => ?_, fun port f bad upset edges t a s hfence => ?_⟩,
    ⟨State.memberReq_cases, fun hdie id data edges x q f s hx hp => execCxlMemCompletion_of_pool hx hp, fun x q f l s => ?_,
      fun hdie id data edges x g s hx hp => execCxlMemCompletion_of_row hx hp⟩,
    ⟨fun port f t a s ha => execUpdRec_of_arrived ha, fun port f t a i s ha hgate hi => execUpdRpt_of_arrived ha hgate hi,
      fun port f edges t s hcls hf => execRsp_of_taken hcls hf⟩,
    fun id r s hr hnow hop => execRemoteBound_of_past hr hnow hop⟩
  · obtain ⟨-, -, hserved⟩ := execRead_of_arrived (bad := bad) (edges := edges) ha hfence
    exact hserved hgate hm
  · obtain ⟨-, -, hserved⟩ := execRowRead_of_arrived (upset := upset) (edges := edges) ha hfence
    exact hserved hgate hm
  · obtain ⟨-, -, hserved⟩ := execAtomic_of_arrived (bad := bad) (edges := edges) ha hop hfence
    exact hserved hgate hm
  · refine ⟨fun ha => (execRead_of_arrived ha hfence).1, fun ha => (execRowRead_of_arrived ha hfence).1, fun ha hatom => ?_,
      fun m hgate hm => ⟨fun ha => ?_, fun ha => ?_, fun ha hatom => ?_⟩⟩
    · obtain ⟨op, hop⟩ := Option.ne_none_iff_exists'.mp hatom
      exact (execAtomic_of_arrived ha hop hfence).1
    · exact (execRead_of_arrived ha hfence).2.1 m hgate hm
    · exact (execRowRead_of_arrived ha hfence).2.1 m hgate hm
    · obtain ⟨op, hop⟩ := Option.ne_none_iff_exists'.mp hatom
      exact (execAtomic_of_arrived ha hop hfence).2.1 m hgate hm
  · exact ⟨State.memberAnswer_nil s x q f l, fun hop => (State.cxlReadDone_of_read s x q l [] hop).trans (State.memberAnswer_nil s x q f l),
      fun hop hatom hclean hexp => State.cxlReadDone_of_expired x q [] hop hatom hclean hexp⟩

end Sys2Proof.Machine
end

section
/-! SUPPORT. Frames, connections and the registers of the fabric (13, 19). -/

namespace Sys2Proof.Machine

open Sys2Proof Host

/-! ## Receipt of numbered frames -/

section Receipt
variable {q : Nat} {f : Frame} {c : Conn} {s : State}

theorem State.receive_of_refused (hok : s.frameOk q f = false) : s.receive q f = .dropped (s.refuseFrame q) := if_pos (by rw [hok]; rfl)

theorem State.receive_of_open (hok : s.frameOk q f = true) (hc : s.conn? q f.src.toNat f.dst.toNat = some c) (hopen : c.open_ = true) :
    let d := { c.acked f.ack.toNat with lastFrame := s.time.now }
    (f.seq.toNat ≠ c.expSeq → s.receive q f = .dropped ((s.refuseFrame q).pump d)) ∧
    (f.seq.toNat = c.expSeq →
      s.receive q f = .taken ((s.badGrans q f).pump { d with expSeq := (c.expSeq + 1) % 2 ^ 32, ackDue := some (c.ackDue.getD s.time.now) })) := by
  intro d
  have hfound : (s.conn? q f.src.toNat f.dst.toNat).filter (·.open_) = some c := by rw [hc, Option.filter_some, if_pos hopen]
  unfold State.receive
  simp only [hok, hfound, Bool.not_true, Bool.false_eq_true, if_false]
  exact ⟨fun hseq => if_pos hseq, fun hseq => if_neg (not_not_intro hseq)⟩

theorem State.receive_of_closed (hok : s.frameOk q f = true) (hc : (s.conn? q f.src.toNat f.dst.toNat).filter (·.open_) = none) :
    s.receive q f = .dropped (if f.cls = .fm then s.refuseFrame q else (s.refuseFrame q).wantHello q f.src.toNat f.dst.toNat) := by
  unfold State.receive
  simp only [hok, hc, Bool.not_true, Bool.false_eq_true, if_false]

theorem State.badGrans_of_clean (hbad : f.bad = []) : s.badGrans q f = s := by
  unfold State.badGrans
  rw [hbad]
  rfl

end Receipt

/-! ## Acknowledgements and HELLO frames -/

section Hello
variable {port : Fin 64} {f : Frame} {s : State}

theorem execAck_of_open {c : Conn} (hcls : f.cls = .ack) (hok : s.frameOk port.val f = true)
    (hc : s.conn? port.val f.src.toNat f.dst.toNat = some c) (hopen : c.open_ = true) :
    exec (.ack port f) s = .next (s.pump { c.acked f.ack.toNat with lastFrame := s.time.now }) := by
  change execAck port f s = _
  simp only [execAck, hcls, hok, hc, hopen, ne_eq, not_true_eq_false, Bool.not_true, Bool.false_eq_true, if_false, if_true]

theorem execHelloConnect_of_ok (hcls : f.cls = .hello) (hop : f.op = 2) (hok : s.frameOk port.val f = true) :
    let u := s.badGrans port.val f
    (u.conn? port.val f.src.toNat f.dst.toNat = none → u.connRoom (port.val / 8) = true →
      let c := { u.newConn port.val f.src.toNat f.dst.toNat true with peerBoot := helloBoot f 0 }
      exec (.helloConnect port f) s = .next ((u.setConn c).tx port.val (u.hello c))) ∧
    (u.conn? port.val f.src.toNat f.dst.toNat = none → u.connRoom (port.val / 8) = false →
      exec (.helloConnect port f) s = .next (u.refuseFrame port.val)) ∧
    (∀ c, u.conn? port.val f.src.toNat f.dst.toNat = some c → c.open_ = true →
      let t := u.closeConn c 0x0803
      let d := { t.newConn port.val f.src.toNat f.dst.toNat true with peerBoot := helloBoot f c.peerBoot }
      exec (.helloConnect port f) s = .next ((t.setConn d).tx port.val (t.hello d))) ∧
    (∀ c, u.conn? port.val f.src.toNat f.dst.toNat = some c → c.open_ = false →
      exec (.helloConnect port f) s = .next (u.pump { c with open_ := true, lastFrame := u.time.now, peerBoot := helloBoot f c.peerBoot })) := by
  have hmay : ¬(f.cls ≠ .hello ∨ f.op ≠ 2) := by simp [hcls, hop]
  have hexec : exec (.helloConnect port f) s = execHelloConnect port f s := rfl
  rw [hexec]
  simp only [execHelloConnect, if_neg hmay, hok, Bool.not_true, Bool.false_eq_true, if_false]
  generalize s.badGrans port.val f = u
  refine ⟨fun hnone hroom => ?_, fun hnone hroom => ?_, fun c hc hopen => ?_, fun c hc hopen => ?_⟩
  · rw [hnone]
    exact if_pos hroom
  · rw [hnone]
    exact if_neg (ne_true_of_eq_false hroom)
  · rw [hc]
    exact if_pos hopen
  · rw [hc]
    exact if_neg (ne_true_of_eq_false hopen)

end Hello

/-! ## Timers of a connection that stands alone -/

theorem State.onConns_of_single {s : State} {q peer : Nat} {c : Conn} (hc : s.connsOf q peer = [c]) (f : State → Conn → State) :
    s.onConns q peer f = f s c := by
  rw [State.onConns, hc]
  rfl

theorem State.setConn_conn?_same (s : State) (c : Conn) : (s.setConn c).conn? c.port c.peer c.self_ = some c := by
  simp [State.conn?, State.setConn]

/-- Frames leave in their order, each as it is with the acknowledgement of the moment. -/
theorem State.foldl_tx {s : State} (hid : s.devIdValid = true) (q ack : Nat) (l : List Unacked) :
    l.foldl (fun s u => s.tx q { u.f with ack := BitVec.ofNat 32 ack }) s =
      { s with out := (l.map fun x => Out.frame q (s.macTo q x.f) (s.mac q s.devId) (BitVec.ofNat 16 (s.fld .vstCtrl 0 31 16))
        { x.f with ack := BitVec.ofNat 32 ack } (Frame.wire { x.f with ack := BitVec.ofNat 32 ack })).reverse ++ s.out } := by
  induction l generalizing s with
  | nil => rfl
  | cons u l ih =>
    have htx : s.tx q { u.f with ack := BitVec.ofNat 32 ack } = s.emit (Out.frame q (s.macTo q u.f) (s.mac q s.devId)
        (BitVec.ofNat 16 (s.fld .vstCtrl 0 31 16)) { u.f with ack := BitVec.ofNat 32 ack } (Frame.wire { u.f with ack := BitVec.ofNat 32 ack })) :=
      if_pos hid
    rw [List.foldl_cons, htx]
    refine (ih (s := s.emit _) hid).trans ?_
    rw [List.map_cons, List.reverse_cons, List.append_assoc]
    rfl

section Timers
variable {port : Fin 64} {peer : BitVec 16} {c : Conn} {s : State}

theorem execAckTimer_of_due (hc : s.connsOf port.val peer.toNat = [c]) {t : Nat} (hdue : c.ackDue = some t) (hnow : t + 8 ≤ s.time.now) :
    exec (.ackTimer port peer) s = .next ((s.setConn { c with ackDue := none, lastFrame := s.time.now }).tx c.port
      { frame0 .ack 0 c.self_ c.peer with ack := BitVec.ofNat 32 c.expSeq }) := by
  change execAckTimer port peer s = _
  rw [execAckTimer, State.onConns_of_single hc]
  simp only [hdue, if_neg (Nat.not_lt.mpr hnow)]

/-- What is sent and unacknowledged goes out again (R424). -/
theorem execRetransmit_of_due (hc : s.connsOf port.val peer.toNat = [c]) {t : Nat} (hid : s.devIdValid = true)
    (hsent : c.unacked.head?.bind (·.sent) = some t) (hopen : c.open_ = true) (hnow : t + s.fld .vstTmo 0 11 0 ≤ s.time.now) :
    ∃ u, exec (.retransmit port peer) s = .next u ∧
      u.out = ((c.unacked.filter (·.sent.isSome)).map fun x =>
        Out.frame c.port (s.macTo c.port x.f) (s.mac c.port s.devId) (BitVec.ofNat 16 (s.fld .vstCtrl 0 31 16))
          { x.f with ack := BitVec.ofNat 32 c.expSeq } (Frame.wire { x.f with ack := BitVec.ofNat 32 c.expSeq })).reverse ++ s.out ∧
      (u.conn? c.port c.peer c.self_).map (·.unacked) =
        some (c.unacked.map fun (x : Unacked) => if x.sent.isSome then { x with sent := some s.time.now } else x) ∧
      Within (pieces [.fab, .out]) s u := by
  let d : Conn := { c with unacked := c.unacked.map fun (u : Unacked) => if u.sent.isSome then { u with sent := some s.time.now } else u,
                           ackDue := none, lastFrame := s.time.now }
  let u := (c.unacked.filter (·.sent.isSome)).foldl (fun s u => s.tx c.port { u.f with ack := BitVec.ofNat 32 c.expSeq }) (s.setConn d)
  have hexec : exec (.retransmit port peer) s = .next u := by
    change execRetransmit port peer s = _
    have hwait : ¬((!c.open_ || decide (s.time.now < t + s.rto)) = true) := by
      simp only [hopen, Bool.not_true, Bool.false_or, decide_eq_true_eq]
      exact Nat.not_lt.mpr hnow
    rw [execRetransmit, State.onConns_of_single hc]
    simp only [hsent, if_neg hwait]
    rfl
  have hu : u = _ := State.foldl_tx (s := s.setConn d) hid c.port c.expSeq _
  refine ⟨u, hexec, ?_, ?_, ?_⟩
  · rw [hu]
    rfl
  · have hconn : u.conn? c.port c.peer c.self_ = some d := by
      rw [hu]
      exact State.setConn_conn?_same s d
    rw [hconn]
    rfl
  · exact (kept_foldl (fun _ _ h => State.tx_kept (ks := pieces [.fab, .out]) (by decide) h) (State.setConn_kept (by decide) kept_refl)).within

theorem execHelloResend_of_due (hc : s.connsOf port.val peer.toNat = [c]) (hopen : c.open_ = false) (hnow : c.helloAt + s.fld .vstTmo 0 11 0 ≤ s.time.now) :
    exec (.helloResend port peer) s = .next ((s.setConn { c with helloAt := s.time.now, lastFrame := s.time.now }).tx c.port (s.hello c)) := by
  change execHelloResend port peer s = _
  rw [execHelloResend, State.onConns_of_single hc]
  have hwait : ¬((c.open_ || decide (s.time.now < c.helloAt + s.rto)) = true) := by
    simp only [hopen, Bool.false_or, decide_eq_true_eq]
    exact Nat.not_lt.mpr hnow
  rw [if_neg hwait]

theorem execPeerTimeout_of_due (hc : s.connsOf port.val peer.toNat = [c]) {u : Unacked} (hu : c.unacked.head? = some u)
    (hnow : u.born + 16 * s.fld .vstTmo 0 27 12 ≤ s.time.now) :
    exec (.peerTimeout port peer) s = .next (((s.setBit .vstEvt 0 2).sendFmAbout c.peer 8 0 0x0803 0 0).closeConn c 0x0803) := by
  change execPeerTimeout port peer s = _
  rw [execPeerTimeout, State.onConns_of_single hc]
  simp only [hu, if_neg (Nat.not_lt.mpr hnow)]

end Timers

/-- Settles O37: receipt, acknowledgements and HELLO frames in the order of their checks, and the timers on the one connection there is. -/
theorem framesAndConnectionsFollowTheirRules : Obligations.FramesAndConnectionsFollowTheirRules := by
  unfold Obligations.FramesAndConnectionsFollowTheirRules
  refine ⟨⟨fun q f s hok => State.receive_of_refused hok, fun q f c s hok hc hopen => State.receive_of_open hok hc hopen,
    fun q f s hbad => State.badGrans_of_clean hbad, fun q f s hok hc => ⟨fun hcls => ?_, fun hcls => ?_⟩, fun port cause s => rfl⟩,
    fun port f c s hcls hok hc hopen => execAck_of_open hcls hok hc hopen, fun port f s hcls hop hok => execHelloConnect_of_ok hcls hop hok,
    fun port f s hcls hop hlink hid => if_pos ⟨hcls, hop, hlink, hid⟩, fun port peer c s hc => ⟨fun t hdue hnow => execAckTimer_of_due hc hdue hnow,
      fun t hid hsent hopen hnow => execRetransmit_of_due hc hid hsent hopen hnow, fun hopen hnow => execHelloResend_of_due hc hopen hnow,
      fun u hu hnow => execPeerTimeout_of_due hc hu hnow, fun hun hnow => ?_⟩⟩
  · rw [State.receive_of_closed hok hc, if_pos hcls]
  · rw [State.receive_of_closed hok hc, if_neg hcls]
  · rw [exec_connectionIdle_of_single hc, if_pos ⟨hun, hnow⟩]

/-! ## Registers -/

section Registers
variable {port : Fin 4} {w : Word} {s : State}

theorem execVstIdWrite_cases (hreach : s.reach port.val = true) :
    (s.locks.contains (RG.off .vstId 0) = true → exec (.vstIdWrite port w) s = .next (s.regErr (RG.off .vstId 0) 3)) ∧
    (s.locks.contains (RG.off .vstId 0) = false → wbit w 16 = true →
      exec (.vstIdWrite port w) s = .next ((s.putRw .vstId 0 w).setLocks (RG.off .vstId 0 :: s.locks))) ∧
    (s.locks.contains (RG.off .vstId 0) = false → wbit w 16 = false → exec (.vstIdWrite port w) s = .next (s.regErr (RG.off .vstId 0) 4)) := by
  have hexec : exec (.vstIdWrite port w) s = .next (s.writeVstId w) := if_pos hreach
  rw [hexec, State.writeVstId]
  exact ⟨fun hlock => congrArg _ (if_pos hlock), fun hlock hv => congrArg _ ((if_neg (ne_true_of_eq_false hlock)).trans (if_pos hv)),
    fun hlock hv => congrArg _ ((if_neg (ne_true_of_eq_false hlock)).trans (if_neg (ne_true_of_eq_false hv)))⟩

theorem execVstMacWrite_of_disabled (hreach : s.reach port.val = true) (hen : s.flag .vstCtrl 0 0 = false) :
    (wbit w 0 = false → wbit w 1 = true → exec (.vstMacWrite port w) s = .next (s.putRw .vstMac 0 w)) ∧
    (wbit w 0 = true ∨ wbit w 1 = false → exec (.vstMacWrite port w) s = .next (s.vstRefused .vstMac 0)) := by
  have hexec : exec (.vstMacWrite port w) s = .next (s.writeVstMac w) := if_pos hreach
  have hfixed : s.vstFixed .vstMac 0 w = false := by rw [State.vstFixed, hen, Bool.false_and]
  rw [hexec, State.writeVstMac, hfixed, Bool.false_or]
  refine ⟨fun h0 h1 => congrArg _ (if_neg (by simp [h0, h1])), fun hor => congrArg _ (if_pos ?_)⟩
  rcases hor with h0 | h1
  · simp [h0]
  · simp [h1]

theorem execCxlMemberEnable_cases {n : Fin 4} (hreach : s.reach port.val = true) (hv : wbit w 16 = true) (hold : s.flag .vstCxl n.val 16 = false) :
    (s.memberOk n.val w = true → exec (.cxlMemberEnable port n w) s = .next (s.putRw .vstCxl n.val w)) ∧
    (s.memberOk n.val w = false → exec (.cxlMemberEnable port n w) s = .next ((s.putRw .vstCxl n.val (setBits w 16 16 0)).vstRefused .vstCxl n.val)) := by
  have hexec : exec (.cxlMemberEnable port n w) s = .next (s.writeVstCxl n.val w) := if_pos ⟨hreach, hv, by rw [hold]; rfl⟩
  have hold : wbit (s.reg .vstCxl n.val) 16 = false := hold
  rw [hexec, State.writeVstCxl]
  simp only [hold, hv, Bool.not_false, Bool.not_true, Bool.false_or, if_true]
  exact ⟨fun hok => congrArg _ (if_pos hok), fun hok => congrArg _ (if_neg (ne_true_of_eq_false hok))⟩

theorem execServeBudgetWrite_of_gdie {n : Fin 16} (hreach : s.reach port.val = true) (hsize : wbits w 5 0 ≤ 40)
    (hfits : s.budgetFits 5 n.val (wbits w 5 0) = true) : exec (.serveBudgetWrite port true n w) s = .next (s.putRw .vstServeG n.val w) := by
  have hexec : exec (.serveBudgetWrite port true n w) s = .next (s.writeServe true n.val w) := if_pos (by rw [hreach]; rfl)
  rw [hexec, State.writeServe]
  exact congrArg _ ((if_neg (Nat.not_lt.mpr hsize)).trans (if_pos hfits))

theorem execServeBudgetWrite_of_fdie {n : Fin 16} (hreach : s.reach port.val = true) (hn : n.val < 8) (hsize : wbits w 12 0 ≤ 7680)
    (hout : s.budgetFits 7 n.val (wbits w 12 0) = true) (hin : s.budgetFits 8 n.val (wbits w 12 0) = true) :
    exec (.serveBudgetWrite port false n w) s = .next (s.putRw .vstServeF n.val w) := by
  have hexec : exec (.serveBudgetWrite port false n w) s = .next (s.writeServe false n.val w) := if_pos (by simp [hreach, hn])
  rw [hexec, State.writeServe]
  exact congrArg _ ((if_neg (Nat.not_lt.mpr hsize)).trans (if_pos (by simp [hout, hin])))

end Registers

/-- Settles O40: each register's rule, taken in the order of its checks. -/
theorem fabricRegistersTakeTheirWrites : Obligations.FabricRegistersTakeTheirWrites := by
  unfold Obligations.FabricRegistersTakeTheirWrites
  exact ⟨fun port w s hreach => execVstIdWrite_cases hreach, fun port w s hreach hen => execVstMacWrite_of_disabled hreach hen,
    fun port n w s hreach hv hold => execCxlMemberEnable_cases hreach hv hold, fun port n w s hreach =>
      ⟨fun hsize hfits => execServeBudgetWrite_of_gdie hreach hsize hfits,
        fun hn hsize hout hin => execServeBudgetWrite_of_fdie hreach hn hsize hout hin⟩⟩

end Sys2Proof.Machine
end

section
/-! SUPPORT. What the fabric's links and connections keep while faults are recorded and requests end (13, 15). -/

namespace Sys2Proof.Machine

open Sys2Proof Host

/-- From `b` to `s` the connections and the fabric ports stayed; only requests and messages of the fabric may have changed. -/
def LinksStay (b s : State) : Prop := s.fab.conns = b.fab.conns ∧ s.fab.ports = b.fab.ports

/-- The parts of the state without the fabric. -/
def offFab : Nat := allBut .fab

namespace LinksStay

variable {b s t : State}

theorem refl (s : State) : LinksStay s s := ⟨rfl, rfl⟩

theorem of_fab_eq (e : t.fab = s.fab) (h : LinksStay b s) : LinksStay b t := ⟨by rw [e]; exact h.1, by rw [e]; exact h.2⟩

theorem keep (hk : Kept offFab s t) (h : LinksStay b s) : LinksStay b t := h.of_fab_eq (hk.within .fab (by decide))

theorem of_snd {α : Type} {x : α} {p : α × State} (e : p = (x, t)) (h : LinksStay b p.2) : LinksStay b t := by
  subst e
  exact h

theorem ite {c : Prop} [Decidable c] (hs : c → LinksStay b s) (ht : ¬c → LinksStay b t) : LinksStay b (if c then s else t) := by
  split
  · exact hs ‹_›
  · exact ht ‹_›

theorem foldl {α : Type} {f : State → α → State} {l : List α} (hf : ∀ s x, LinksStay b s → LinksStay b (f s x)) (h : LinksStay b s) :
    LinksStay b (l.foldl f s) := by
  induction l generalizing s with
  | nil => exact h
  | cons x t ih => exact ih (hf s x h)

theorem foldl_snd {α β : Type} {f : β × State → α → β × State} {l : List α} (hf : ∀ a x, LinksStay b a.2 → LinksStay b (f a x).2)
    {a : β × State} (h : LinksStay b a.2) : LinksStay b (l.foldl f a).2 := by
  induction l generalizing a with
  | nil => exact h
  | cons x t ih => exact ih (hf a x h)

end LinksStay

/-! ## Faults and charges -/

section
variable {b s : State}

theorem State.telemetry_links {type body : Nat} (h : LinksStay b s) : LinksStay b (s.telemetry type body) :=
  h.keep (State.telemetry_kept (by decide) kept_refl)

theorem State.sendFmAbout_links {subject type scope code unit state : Nat} (h : LinksStay b s) :
    LinksStay b (s.sendFmAbout subject type scope code unit state) := by
  unfold State.sendFmAbout
  exact .ite (fun _ => .ite (fun _ => h) fun _ => h.keep (State.bump_kept (by decide) kept_refl)) fun _ => h

theorem State.cdieOut_links {c code : Nat} (h : LinksStay b s) : LinksStay b (s.cdieOut c code) := by
  have hstop : Kept offFab s ((((s.setCdie c { s.cdie c with outOfService := true, reset := none }).saveRoot).stopAdmitting fun k => k / 8 = c).sysEvt 2) :=
    State.sysEvt_kept (by decide) (State.stopAdmitting_kept (by decide) (State.saveRoot_kept (by decide) (State.setCdie_kept (by decide) kept_refl)))
  exact State.telemetry_links (State.sendFmAbout_links (h.keep hstop))

theorem State.unitActs_links {die unit st code : Nat} (h : LinksStay b s) : LinksStay b (s.unitActs die unit st code) := by
  unfold State.unitActs
  refine .ite (fun _ => .ite (fun _ => ?array) fun _ => .ite (fun _ => .ite (fun _ => ?core) fun _ => h) fun _ => .ite (fun _ => ?out) fun _ => h)
    fun _ => .ite (fun _ => ?excluded) fun _ => h
  case out => exact State.cdieOut_links h
  all_goals exact h.of_fab_eq rfl

theorem State.classUnit_links {die unit st code : Nat} (h : LinksStay b s) : LinksStay b (s.classUnit die unit st code) :=
  .ite (fun _ => h) fun _ => State.unitActs_links <| State.telemetry_links <|
    h.keep <| State.setBit_kept (by decide) <| State.toMram_kept (by decide) <| State.setUnit_kept (by decide) kept_refl

theorem State.qualify_links {die unit code : Nat} (h : LinksStay b s) : LinksStay b (s.qualify die unit code) := by
  have hqueued {s1 : State} {k : Nat} {u : UnitRec} (h1 : LinksStay b s1) : LinksStay b ((s1.setUnit k u).toMram k) :=
    h1.keep (State.toMram_kept (by decide) (State.setUnit_kept (by decide) kept_refl))
  exact .ite (fun _ => State.classUnit_links (hqueued h)) fun _ => hqueued h

theorem State.record_links {r : FaultRec} {q : Bool} (h : LinksStay b s) : LinksStay b (s.record r q) := by
  unfold State.record
  cases r.die with
  | none => exact h.of_fab_eq rfl
  | some die => exact .ite (fun _ => State.qualify_links (h.of_fab_eq rfl)) fun _ => h.of_fab_eq rfl

theorem State.raise_links {r : FaultRec} (h : LinksStay b s) : LinksStay b (s.raise r) := State.telemetry_links (State.record_links h)

theorem State.charge_links {ring seq ph : Nat} {r : FaultRec} (h : LinksStay b s) : LinksStay b (s.charge ring seq ph r) := by
  unfold State.charge
  cases s.sub? ring seq with
  | none => exact State.raise_links h
  | some x =>
    have hfree : LinksStay b (if x.code = 0 then s else s.uncharge ring seq) :=
      .ite (fun _ => h) fun _ => h.keep (State.uncharge_kept (by decide) kept_refl)
    exact .ite (fun _ => LinksStay.of_fab_eq rfl (State.record_links (hfree.of_fab_eq rfl))) fun _ => State.raise_links h

theorem State.chargeOnce_links {ring seq ph cause : Nat} {r : FaultRec} (h : LinksStay b s) : LinksStay b (s.chargeOnce ring seq ph cause r) := by
  unfold State.chargeOnce
  cases s.sub? ring seq with
  | none => exact State.raise_links h
  | some x => exact .ite (fun _ => h) fun _ => State.charge_links (h.of_fab_eq rfl)

theorem State.chargeStep_links {r : StepRef} {f : FaultRec} {code : Nat} (h : LinksStay b s) : LinksStay b (s.chargeStep r f code) :=
  .ite (fun _ => State.charge_links h) fun _ => h

theorem State.chargeStatus_links {r : StepRef} {f : FaultRec} {code : Nat} (h : LinksStay b s) : LinksStay b (s.chargeStatus r f code) :=
  .ite (fun _ => h) fun _ => .ite (fun _ => State.raise_links h) fun _ => State.charge_links h

/-! ## The end of steps and submissions -/

theorem State.finish_links {ring seq : Nat} (h : LinksStay b s) : LinksStay b (s.finish ring seq) := by
  unfold State.finish
  cases s.sub? ring seq with
  | none => exact h
  | some x =>
    refine .ite (fun _ => h) fun _ => .ite (fun _ => .foldl (fun s p h => ?_) (h.of_fab_eq rfl)) fun _ => h.of_fab_eq rfl
    exact .ite (fun _ => State.chargeOnce_links (State.raise_links h)) fun _ => h.of_fab_eq rfl

theorem State.endInstance_links {ring seq : Nat} (h : LinksStay b s) : LinksStay b (s.endInstance ring seq) := by
  unfold State.endInstance
  split
  · exact h
  · exact .ite (fun _ => State.finish_links h) fun _ => h

theorem State.unitStepEnd_links {r : StepRef} (h : LinksStay b s) : LinksStay b (s.unitStepEnd r) :=
  State.endInstance_links (h.keep (State.endStep_kept (by decide) (State.dropUstep_kept (by decide) kept_refl)))

/-! ## Data that cross the mesh and are written -/

theorem State.crossEdge_links {e : EdgeErr} {g : Gran} (h : LinksStay b s) : LinksStay b (s.crossEdge e g).2 := by
  unfold State.crossEdge
  dsimp only
  split
  · exact h.keep (State.countEdge_kept (by decide) kept_refl)
  · exact State.raise_links h
  · exact h
  · exact h

theorem State.crossEdges_links {hit : Nat → EdgeErr → Bool} {l : List Gran} {edges : List EdgeErr} (h : LinksStay b s) :
    LinksStay b (s.crossEdges hit l edges).2 := by
  induction edges generalizing s l with
  | nil => exact h
  | cons e t ih =>
    unfold State.crossEdges
    split
    · exact ih h
    · exact ih (State.crossEdge_links h)

theorem State.carryOver_links {home : Nat} {die : Nat → Option Nat} {l : List Gran} {edges : List EdgeErr}
    {put : Nat → List Gran → State → Nat × State} (hput : ∀ i l t, LinksStay b t → LinksStay b (put i l t).2) (h : LinksStay b s) :
    LinksStay b (s.carryOver home die l edges put).2 := by
  unfold State.carryOver
  split
  · exact hput _ _ _ h
  · dsimp only
    refine LinksStay.foldl_snd ?put ?crossed
    case put => exact fun a r h => hput _ _ _ h
    case crossed =>
      exact State.crossEdges_links (.foldl (fun _ _ h => State.raise_links h) (h.keep (State.countHeaders_kept (by decide) kept_refl)))

theorem State.agentWrite_links {q : Req} {mask : BitVec 256} {data : List Byte} {gp : BitVec 16} (h : LinksStay b s) :
    LinksStay b (s.agentWrite q mask data gp).2 := by
  unfold State.agentWrite
  split
  case h_1 => exact State.raise_links h
  case h_2 =>
    split
    case isTrue => exact State.raise_links h
    case isFalse =>
      split <;> dsimp only
      case isTrue => exact h.keep (State.writeBlock_kept (by decide) kept_refl)
      case isFalse => exact h.keep (State.writeLine_kept (by decide) kept_refl)

theorem State.devWriteFrom_links {tr : Nat → Bool → Except Nat (Nat × Nat)} {w : Who} {ctx va : Nat} {first : Bool} {l : List Gran}
    (h : LinksStay b s) : LinksStay b (s.devWriteFrom tr w ctx first va l).2 := by
  induction l generalizing s first va with
  | nil => exact h
  | cons g t ih =>
    refine ih ?_
    split
    case h_1 => exact h
    case h_2 =>
      dsimp only
      split
      · exact h
      · exact State.agentWrite_links h

theorem State.locWrite_links {tr : Nat → Bool → Except Nat (Nat × Nat)} {die part ctx sp locDie loc : Nat} {l : List Gran}
    {edges : List EdgeErr} (h : LinksStay b s) : LinksStay b (s.locWrite tr die part ctx sp locDie loc l edges).2 := by
  unfold State.locWrite
  split
  · refine State.carryOver_links (fun i l t ht => ?_) h
    have hw : LinksStay b (t.sharedWrite locDie part (loc + 16 * i) l).2 := ht.keep (State.sharedWrite_kept (by decide) kept_refl)
    exact .ite (fun _ => hw) fun _ => State.raise_links hw
  · exact State.carryOver_links (fun _ _ _ ht => State.devWriteFrom_links ht) h

theorem State.sendOver_links {src dst : Nat} {l : List Gran} {edges : List EdgeErr} (h : LinksStay b s) : LinksStay b (s.sendOver src dst l edges).2 := by
  have hcounted {out : List EdgeErr} : LinksStay b (s.countHeaders (fun _ => true) out) := h.keep (State.countHeaders_kept (by decide) kept_refl)
  unfold State.sendOver
  dsimp only
  split
  · exact State.raise_links hcounted
  · exact State.crossEdges_links hcounted

/-! ## Requests that end -/

theorem State.poisonRow_links {g : GStep} {e : TableEntry} {key : GKey} {code : Nat} (h : LinksStay b s) : LinksStay b (s.poisonRow g e key code).2 :=
  .ite (fun _ => State.charge_links h) fun _ => State.raise_links h

theorem State.takeRow_links {g : GStep} {e : TableEntry} {key : GKey} {l : List Gran} (h : LinksStay b s) : LinksStay b (s.takeRow g e key l).2 := by
  unfold State.takeRow
  dsimp only
  split
  · exact State.raise_links (h.keep (State.setArea_kept (by decide) (State.setArea_kept (by decide) kept_refl)))
  · split <;> exact h

theorem State.remoteRow_links {r : StepRef} {key code : Nat} {l : List Gran} (h : LinksStay b s) : LinksStay b (s.remoteRow r key code l) := by
  unfold State.remoteRow
  split
  next => exact h
  next g hg =>
    split
    next => exact h
    next k hk =>
      refine .ite (fun _ => h) fun _ => ?_
      split
      next => exact .ite (fun _ => h.of_fab_eq rfl) fun _ => h.of_fab_eq rfl
      next =>
        split
        next => exact h
        next e he =>
          refine .ite (fun _ => (State.poisonRow_links h).of_fab_eq rfl) fun _ => .ite (fun _ => (State.poisonRow_links h).of_fab_eq rfl) fun _ => ?_
          refine LinksStay.of_fab_eq rfl (LinksStay.ite (fun _ => ?_) fun _ => State.takeRow_links h)
          exact (State.takeRow_links h).keep (State.fillRow_kept (by decide) kept_refl)

theorem State.endSend_links {u : UStep} {code : Nat} {l : List Gran} {edges : List EdgeErr} (h : LinksStay b s) : LinksStay b (s.endSend u code l edges) := by
  have hwrite {c : Prop} [Decidable c] {m : List Gran} : LinksStay b (if c then (some 0, s) else
      s.locWrite u.tr (s.dieOfStep u) u.part u.ctx (SendD.of u.desc).locSp (SendD.of u.desc).locDie (SendD.of u.desc).loc m edges).2 := by
    split
    · exact h
    · exact State.locWrite_links h
  unfold State.endSend
  dsimp only
  split
  next t hw => exact LinksStay.of_fab_eq rfl (State.chargeStatus_links (LinksStay.of_snd hw hwrite))
  next c t hw => exact State.unitStepEnd_links (State.chargeStep_links (State.chargeStatus_links (LinksStay.of_snd hw hwrite)))

theorem State.finishReq_links {r : RemoteReq} {code : Nat} {l : List Gran} {edges : List EdgeErr} (h : LinksStay b s) :
    LinksStay b (s.finishReq r code l edges) := by
  have hdrop : LinksStay b (s.dropReq r.id) := h
  unfold State.finishReq
  dsimp only
  split
  next g key hp =>
    split
    next => exact hdrop
    next y hy =>
      split
      next t hw => exact LinksStay.of_snd hw (State.sendOver_links hdrop)
      next m t hw => exact State.remoteRow_links (LinksStay.of_snd hw (State.sendOver_links hdrop))
  next g hp =>
    split
    next u hu => exact State.endSend_links hdrop
    next => exact hdrop
  next => exact .ite (fun _ => hdrop) fun _ => State.raise_links hdrop

theorem State.failReqs_links {hit : RemoteReq → Bool} {code : Nat} (h : LinksStay b s) : LinksStay b (s.failReqs hit code) :=
  .foldl (fun _ _ h => State.finishReq_links h) h

end

/-! ## Connections that close -/

/-- A connection that closes goes, with every other of the same port, peer and ID, and no other; the ports stay. -/
theorem State.closeConn_links (s : State) (c : Conn) (code : Nat) :
    (s.closeConn c code).fab.conns = s.fab.conns.filter (fun d => !c.same d) ∧ (s.closeConn c code).fab.ports = s.fab.ports := by
  have hraised {l : List Unacked} : LinksStay s (l.foldl (fun s _ => s.raise (devPortFault s c.port code)) s) :=
    .foldl (fun _ _ h => State.raise_links h) (.refl s)
  obtain ⟨hconns, hports⟩ : LinksStay (State.dropConn _ c) (s.closeConn c code) := State.failReqs_links (.refl _)
  obtain ⟨hconns', hports'⟩ := hraised
  exact ⟨hconns.trans (congrArg (List.filter _) hconns'), hports.trans hports'⟩

/-- Closing connections one by one keeps the ports and leaves connections that were there and are none of those closed. -/
theorem State.foldl_closeConn (s : State) (code : Nat) (l : List Conn) :
    let t := l.foldl (fun s c => s.closeConn c code) s
    t.fab.ports = s.fab.ports ∧ ∀ d ∈ t.fab.conns, d ∈ s.fab.conns ∧ d ∉ l := by
  induction l generalizing s with
  | nil => exact ⟨rfl, fun d hd => ⟨hd, List.not_mem_nil⟩⟩
  | cons c l ih =>
    obtain ⟨hconns, hports⟩ := s.closeConn_links c code
    obtain ⟨hports', hleft⟩ := ih (s.closeConn c code)
    refine ⟨hports'.trans hports, fun d hd => ?_⟩
    obtain ⟨hmem, hnot⟩ := hleft d hd
    rw [hconns, List.mem_filter] at hmem
    refine ⟨hmem.1, ?_⟩
    rintro (_ | ⟨_, h⟩)
    · simp [Conn.same] at hmem
    · exact hnot h

theorem State.closeConns_links (s : State) (hit : Conn → Bool) (code : Nat) :
    (s.closeConns hit code).fab.ports = s.fab.ports ∧ ∀ d ∈ (s.closeConns hit code).fab.conns, d ∈ s.fab.conns ∧ hit d = false := by
  obtain ⟨hports, hleft⟩ := s.foldl_closeConn code (s.fab.conns.filter hit)
  refine ⟨hports, fun d hd => ?_⟩
  obtain ⟨hmem, hnot⟩ := hleft d hd
  exact ⟨hmem, Bool.eq_false_iff.mpr fun h => hnot (List.mem_filter.mpr ⟨hmem, h⟩)⟩

/-! ## The fabric manager -/

section Manager
variable {port : Fin 64} {f : Frame} {t : State} {type subject state n : Nat} {s : State}

theorem fmType_of_fields (hf : fmFields f = some (type, subject, state, n)) : fmType f = type := by
  rw [fmType, hf]
  rfl

theorem State.fmFrame_of_accepted {q : Nat} (hf : fmFields f = some (type, subject, state, n)) (ht : s.receive q f = .taken t) (hok : t.fmAccepts f = true) :
    s.fmFrame q f = t.fmAct q type subject state n := by
  unfold State.fmFrame
  simp only [ht, hok, hf, if_true]

theorem State.fmAct_of_unknown (q : Nat) (htype : type < 0x81 ∨ 0x83 < type) :
    t.fmAct q type subject state n = (t.setFab { t.fab with fmLast := some n }).raise (devPortFault (t.setFab { t.fab with fmLast := some n }) q 0x0808) := by
  unfold State.fmAct
  dsimp only
  rw [if_neg (by omega), if_neg (by omega), if_neg (by omega)]

end Manager

/-! ## Fabric ports -/

section Ports
variable {port : Fin 64} {s : State}

theorem State.setFport_fport_same (s : State) (q : Nat) (x : FPort) : (s.setFport q x).fport q = x := smGet_set_same _ _ _ _

theorem State.setFport_fport_of_ne (s : State) {q p : Nat} (x : FPort) (h : p ≠ q) : (s.setFport q x).fport p = s.fport p :=
  smGet_set_other _ _ _ _ _ h

theorem LinksStay.fport {b t : State} (h : LinksStay b t) (q : Nat) : t.fport q = b.fport q := by rw [State.fport, h.2, ← State.fport]

/-- A port that leaves link-up has no lanes and no connections (R442). -/
theorem State.losePort_links (s : State) (q link : Nat) :
    ((s.losePort q link).fport q).link = link ∧ ((s.losePort q link).fport q).lanes = 0 ∧ ∀ c ∈ (s.losePort q link).fab.conns, c.port ≠ q := by
  let u := s.setFport q { s.fport q with link := link, lanes := 0 }
  let v := ((u.raise (devPortFault u q 0x0801)).setBit .vstEvt 0 0).sendFm 7 3 0x0801 q 0
  have hv : LinksStay u v := State.sendFmAbout_links ((State.raise_links (.refl u)).of_fab_eq rfl)
  obtain ⟨hports, hconns⟩ := v.closeConns_links (fun c => c.port == q) 0x0801
  have hport : (s.losePort q link).fport q = { s.fport q with link := link, lanes := 0 } := by
    have hclosed : (s.losePort q link).fport q = v.fport q := by
      rw [State.fport, State.fport]
      exact congrArg (smGet FPort.init · q) hports
    rw [hclosed, hv.fport q]
    exact State.setFport_fport_same ..
  rw [hport]
  refine ⟨rfl, rfl, fun c hc => ?_⟩
  obtain ⟨-, hother⟩ := hconns c hc
  simpa using hother

theorem State.sendFm_regs (s : State) (type scope code unit state : Nat) : (s.sendFm type scope code unit state).regs = s.regs :=
  (State.sendFm_kept (ks := allBut .regs) (by decide) kept_refl).within .regs (by decide)

theorem State.sendFm_out (s : State) (type scope code unit state : Nat) : (s.sendFm type scope code unit state).out = s.out :=
  (State.sendFm_kept (ks := allBut .out) (by decide) kept_refl).within .out (by decide)

/-- A port that comes up has every lane of its port, and tells its partner with a link HELLO (R443). -/
theorem execPortUp_of_allowed (hopen : s.opened = true) (hid : s.devIdValid = true) (hen : s.flag .vstCtrl 0 0 = true)
    (hport : (s.portsOf (port.val / 8)).contains port.val = true) (hin : s.excluded (dieF (port.val / 8)) = false) (hdown : (s.fport port.val).link < 2) :
    ∃ t, exec (.portUp port) s = .next t ∧ t.fport port.val = { link := 2, direct := false, partner := 0, lanes := s.allLanes (port.val / 8) } ∧
      t.out = .frame port.val groupMac (s.mac port.val s.devId) (BitVec.ofNat 16 (s.fld .vstCtrl 0 31 16)) (frame0 .hello 1 s.devId 0)
        (Frame.wire (frame0 .hello 1 s.devId 0)) :: s.out ∧
      (∀ q, q ≠ port.val → t.fport q = s.fport q) := by
  let u := s.setFport port.val { link := 2, direct := false, partner := 0, lanes := s.allLanes (port.val / 8) }
  let v := u.sendFm 7 3 0 port.val 2
  have hv : LinksStay u v := State.sendFmAbout_links (.refl u)
  have hregs : v.regs = s.regs := State.sendFm_regs u 7 3 0 port.val 2
  have hreg (g : RG) (i : Nat) : v.reg g i = s.reg g i := State.reg_of_regs hregs g i
  have hdev : v.devId = s.devId := by rw [State.devId, State.fld, hreg, ← State.fld, ← State.devId]
  have htx : v.tx port.val (frame0 .hello 1 u.devId 0) = v.emit (.frame port.val groupMac (s.mac port.val s.devId)
      (BitVec.ofNat 16 (s.fld .vstCtrl 0 31 16)) (frame0 .hello 1 s.devId 0) (Frame.wire (frame0 .hello 1 s.devId 0))) := by
    have hvalid : v.devIdValid = true := by rw [State.devIdValid, State.flag, hreg, ← State.flag, ← State.devIdValid, hid]
    rw [State.tx, if_pos hvalid, State.macTo, if_pos ⟨rfl, rfl⟩, State.mac, hdev, State.fld, hreg, State.fld, hreg]
    rfl
  refine ⟨v.tx port.val (frame0 .hello 1 u.devId 0), if_pos (by rw [hopen, hen, hport, hin, decide_eq_true hdown]; rfl), ?_⟩
  rw [htx]
  refine ⟨?_, congrArg (_ :: ·) (State.sendFm_out u 7 3 0 port.val 2), fun q hq => ?_⟩
  · exact (hv.fport port.val).trans (State.setFport_fport_same ..)
  · exact (hv.fport q).trans (State.setFport_fport_of_ne _ _ hq)

/-- A direct link goes on with the half of its lanes that still works, and its connections stay (R443). -/
theorem execLaneRepair_of_direct {upper : Bool} (hen : s.flag .vstCtrl 0 0 = true) (hdirect : (s.fport port.val).direct = true)
    (hhalf : s.flag .vstPortCfg (port.val / 8) 1 = true) (hlink : (s.fport port.val).link ≠ 3) :
    ∃ t, exec (.laneRepair port upper) s = .next t ∧ (t.fport port.val).link = 3 ∧
      (t.fport port.val).lanes = (if s.flag .vstPortCfg (port.val / 8) 0 then (if upper then 0xF0 else 0x0F) else (if upper then 0x0C else 0x03)) ∧
      t.flag .vstEvt 0 1 = true ∧ t.fab.conns = s.fab.conns := by
  let x : FPort := { s.fport port.val with
    link := 3, lanes := if s.flag .vstPortCfg (port.val / 8) 0 then (if upper then 0xF0 else 0x0F) else (if upper then 0x0C else 0x03) }
  let u := s.setFport port.val x
  let v := (u.raise (devPortFault u port.val 0x0802)).setBit .vstEvt 0 1
  have ht : LinksStay u (v.sendFm 7 3 0x0802 port.val 3) := State.sendFmAbout_links ((State.raise_links (.refl u)).of_fab_eq rfl)
  have hport : (v.sendFm 7 3 0x0802 port.val 3).fport port.val = x := (ht.fport port.val).trans (State.setFport_fport_same ..)
  refine ⟨v.sendFm 7 3 0x0802 port.val 3, if_pos (by simp [hen, hdirect, hhalf, hlink]), ?_, ?_, ?_, ht.1⟩
  · rw [hport]
  · rw [hport]
  · rw [State.flag, State.reg_of_regs (State.sendFm_regs v 7 3 0x0802 port.val 3)]
    exact State.setBit_flag_same _ _ _ (by decide)

end Ports

/-- Settles O39: what the fabric manager's messages do is one operation, and the ports' events keep the links of others. -/
theorem fabricManagerAndPortsAreFollowed : Obligations.FabricManagerAndPortsAreFollowed := by
  unfold Obligations.FabricManagerAndPortsAreFollowed
  refine ⟨⟨fun port f t type subject state n s hcls hf ht hok => ⟨fun htype => ?down, fun htype => ?up, fun htype => ?time, fun _ htype => ?unknown⟩,
    fun port f t s hcls hno ht hno' => ?refused⟩,
    fun port s hlink => ?portDown, fun port s hopen hid hen hport hin hdown => execPortUp_of_allowed hopen hid hen hport hin hdown,
    fun port upper s hen hdirect hhalf hlink => execLaneRepair_of_direct hen hdirect hhalf hlink⟩
  case down =>
    have hexec : exec (.peerDown port f) s = .next (s.fmFrame port.val f) := if_pos ⟨hcls, (fmType_of_fields hf).trans htype⟩
    rw [hexec, State.fmFrame_of_accepted hf ht hok]
    exact congrArg _ (if_pos htype)
  case up =>
    have hexec : exec (.peerUp port f) s = .next (s.fmFrame port.val f) := if_pos ⟨hcls, (fmType_of_fields hf).trans htype⟩
    rw [hexec, State.fmFrame_of_accepted hf ht hok, htype]
    rfl
  case time =>
    have hexec : exec (.peerTime port f) s = .next (s.fmFrame port.val f) := if_pos ⟨hcls, (fmType_of_fields hf).trans htype⟩
    rw [hexec, State.fmFrame_of_accepted hf ht hok, htype]
    rfl
  case unknown =>
    have hother : ¬(0x81 ≤ fmType f ∧ fmType f ≤ 0x83) := by
      rw [fmType_of_fields hf]
      omega
    have hexec : exec (.fmFrameRefused port f) s = .next (s.fmFrame port.val f) := if_pos ⟨hcls, .inr (by rw [decide_eq_false hother]; rfl)⟩
    rw [hexec, State.fmFrame_of_accepted hf ht hok, State.fmAct_of_unknown _ htype]
  case refused =>
    have hexec : exec (.fmFrameRefused port f) s = .next (s.fmFrame port.val f) := if_pos ⟨hcls, .inl (by rw [hno]; rfl)⟩
    rw [hexec, State.fmFrame]
    simp only [ht, hno', Bool.false_eq_true, if_false]
    rfl
  case portDown =>
    exact ⟨_, if_pos hlink, State.losePort_links s port.val 0⟩

end Sys2Proof.Machine
end

section
/-! SUPPORT. Boot: what a cairn and the making of the good record leave, and how a start begins (16; R497 to R510). -/

namespace Sys2Proof.Machine
open Sys2Proof Host

/-! ## Cairns write MRAM only -/

/-- A fold of steps that each change MRAM only changes MRAM only. -/
theorem State.foldl_setMram_boot {α : Type} (n : α → Nat) (x : State → α → MramS) (l : List α) (s : State) :
    ∃ m, l.foldl (fun s a => s.setMram (n a) (x s a)) s = { s with boot := { s.boot with mram := m } } := by
  induction l generalizing s with
  | nil => exact ⟨s.boot.mram, rfl⟩
  | cons a l ih =>
    obtain ⟨m, hm⟩ := ih (s.setMram (n a) (x s a))
    exact ⟨m, hm⟩

theorem State.putCairn_eq (s : State) (c : Cairn) : ∃ m, s.putCairn c = { s with boot := { s.boot with mram := m } } :=
  State.foldl_setMram_boot (fun n => n) (fun s n => { s.mram n with journal := (c.word :: (s.mram n).journal).take 16384 }) s.sdies s

theorem State.cairn_eq (s : State) (k : Nat) (isEnd : Bool) (result code : Nat) (failed : BitVec 64) (stk : Word) :
    ∃ m, s.cairn k isEnd result code failed stk = { s with boot := { s.boot with mram := m } } :=
  State.putCairn_eq ..

/-! ## Starts -/

/-- The slots that a start chooses change the domains only. -/
theorem State.foldl_setDom_boot {α : Type} (d : α → Nat) (x : State → α → FwDom) (l : List α) (s : State) :
    ∃ m, l.foldl (fun s a => s.setDom (d a) (x s a)) s = { s with boot := { s.boot with doms := m } } := by
  induction l generalizing s with
  | nil => exact ⟨s.boot.doms, rfl⟩
  | cons a l ih =>
    obtain ⟨m, hm⟩ := ih (s.setDom (d a) (x s a))
    exact ⟨m, hm⟩

theorem State.beginStep_phase (s : State) (k : Nat) : (s.beginStep k).boot.phase = .step k := by
  obtain ⟨m, hm⟩ := State.cairn_eq (s.setBoot { s.boot with
    phase := .step k, excl := s.boot.excl ||| s.stepExcl k, altNow := if s.bootWay k = 0 then s.boot.altNow else k :: s.boot.altNow }) k false 0 0 0 0
  exact (congrArg (fun t : State => t.boot.phase) hm :)

theorem State.beginStep_tries (s : State) (k : Nat) : (s.beginStep k).boot.tries = s.boot.tries := by
  obtain ⟨m, hm⟩ := State.cairn_eq (s.setBoot { s.boot with
    phase := .step k, excl := s.boot.excl ||| s.stepExcl k, altNow := if s.bootWay k = 0 then s.boot.altNow else k :: s.boot.altNow }) k false 0 0 0 0
  exact (congrArg (fun t : State => t.boot.tries) hm :)

theorem State.bootFailed_phase (s : State) (roms : Bool) : (s.bootFailed roms).boot.phase = .failed := rfl

/-- Four starts of one application of power that did not end step 14 are the last (R500). -/
theorem State.beginStart_of_spent {pwr : Bool} {s : State} (htorn : (s.wiped pwr).tornStep = none) (h : 4 ≤ (s.wiped pwr).boot.retried.tries) :
    (s.beginStart pwr).boot.phase = .failed := by
  simp only [State.beginStart, htorn, ge_iff_le, if_pos h]
  exact State.bootFailed_phase ..

/-- A start begins with step 1 and counts among the starts of this application of power. -/
theorem State.beginStart_of_left {pwr : Bool} {s : State} (htorn : (s.wiped pwr).tornStep = none) (h : (s.wiped pwr).boot.retried.tries < 4) :
    (s.beginStart pwr).boot.phase = .step 1 ∧ (s.beginStart pwr).boot.tries = (s.wiped pwr).boot.retried.tries + 1 := by
  simp only [State.beginStart, htorn, ge_iff_le, if_neg (Nat.not_le.mpr h)]
  refine ⟨State.beginStep_phase .., (State.beginStep_tries ..).trans ?_⟩
  obtain ⟨m, hm⟩ := State.foldl_setDom_boot (fun d => d) (fun s d => { s.dom d with run := s.chooseSlot d, pend := false }) (List.range 5)
    ((s.wiped pwr).setBoot { (s.wiped pwr).boot.retried with
      start := ((s.wiped pwr).boot.retried.start + 1) % 2 ^ 32, tries := (s.wiped pwr).boot.retried.tries + 1
      colds := ((s.wiped pwr).boot.retried.colds + 1) % 2 ^ 32, lastCode := (s.wiped pwr).boot.retried.failCode, failCode := 0 })
  exact (congrArg (fun t : State => t.boot.tries) hm :)

/-! ## The good record -/

/-- The good record of a domain as the running image of it. -/
def State.goodDom (s : State) (d : Nat) : FwDom :=
  { s.dom d with good := (s.dom d).run, goodVer := s.version d (s.dom d).run }

theorem State.setDom_dom_same (s : State) (d : Nat) (x : FwDom) : (s.setDom d x).dom d = x := smGet_set_same ..

theorem State.setDom_dom_of_ne (s : State) (x : FwDom) {d e : Nat} (h : e ≠ d) : (s.setDom d x).dom e = s.dom e := smGet_set_other _ _ _ _ _ h

/-- Taking the running images of some domains as good changes no other domain, and the versions stay. -/
theorem State.foldl_goodDom_dom (l : List Nat) (s : State) (hl : l.Nodup) (d : Nat) :
    ((l.foldl (fun s d => s.setDom d (s.goodDom d)) s).dom d = if d ∈ l then s.goodDom d else s.dom d) := by
  induction l generalizing s with
  | nil => rfl
  | cons a l ih =>
    obtain ⟨ha, hl⟩ := List.nodup_cons.mp hl
    rw [List.foldl_cons, ih _ hl]
    by_cases hd : d = a
    · subst hd
      rw [if_neg ha, if_pos List.mem_cons_self, State.setDom_dom_same]
    · have hgood : (s.setDom a (s.goodDom a)).goodDom d = s.goodDom d := by
        simp only [State.goodDom, State.setDom_dom_of_ne _ _ hd]
        rfl
      rw [hgood, State.setDom_dom_of_ne _ _ hd]
      simp only [List.mem_cons, hd, false_or]

/-- After the running set is made the good record it is confirmed (R510). -/
theorem State.makeGood_confirmed (s : State) : s.makeGood.confirmed = true := by
  obtain ⟨m, hm⟩ := State.foldl_setDom_boot (fun d => d) State.goodDom (List.range 5) s
  have hdom (d : Nat) (hd : d ∈ List.range 5) : s.makeGood.dom d = s.goodDom d :=
    (State.foldl_goodDom_dom (List.range 5) s List.nodup_range d).trans (if_pos hd)
  have hversion (d i : Nat) : s.makeGood.version d i = s.version d i :=
    (congrArg (fun t : State => t.saveRoot.version d i) hm : _)
  refine List.all_eq_true.mpr fun d hd => ?_
  simp only [hdom d hd, hversion, State.goodDom, beq_self_eq_true, Bool.and_self]

/-- Making the good record changes the domains of the boot state only. -/
theorem State.makeGood_boot (s : State) : ∃ m, s.makeGood.boot = { s.boot with doms := m } := by
  obtain ⟨m, hm⟩ := State.foldl_setDom_boot (fun d => d) State.goodDom (List.range 5) s
  exact ⟨m, (congrArg (fun t : State => t.boot) hm :)⟩

/-! ## SEC_BOOT_CTRL -/

/-- The state in which a write of SEC_BOOT_CTRL stands recorded. -/
def State.bootCtrl (s : State) (w : Word) : State :=
  s.setBoot { s.boot with retry := s.boot.retry ||| BitVec.ofNat 14 (wbits w 13 0), confirm := s.boot.confirm || wbit w 16 }

theorem State.writeBootCtrl_of_roots {s : State} (h : s.rootsGone = false) (w : Word) :
    s.writeBootCtrl w = if wbit w 16 then (s.bootCtrl w).makeGood else s.bootCtrl w :=
  if_neg (ne_true_of_eq_false h)

theorem State.bootCtrl_kept (s : State) (w : Word) : Kept (pieces [.boot, .err]) s (s.bootCtrl w) :=
  State.setBoot_kept (by decide) id kept_refl

theorem State.writeBootCtrl_takes {s : State} (h : s.rootsGone = false) (w : Word) :
    (s.writeBootCtrl w).boot.retry = s.boot.retry ||| BitVec.ofNat 14 (wbits w 13 0) ∧
      (s.writeBootCtrl w).boot.confirm = (s.boot.confirm || wbit w 16) ∧ Within (pieces [.boot, .err]) s (s.writeBootCtrl w) := by
  rw [State.writeBootCtrl_of_roots h]
  split
  · obtain ⟨m, hm⟩ := (s.bootCtrl w).makeGood_boot
    exact ⟨congrArg (·.retry) hm, congrArg (·.confirm) hm, (State.makeGood_kept (by decide) (s.bootCtrl_kept w)).within⟩
  · exact ⟨rfl, rfl, (s.bootCtrl_kept w).within⟩

/-! ## The end of a step -/

/-- Step 14 ends where the roots agree and the report is good: the setup registers open (R502). -/
theorem execBootStepEnd_of_last {r : StepReport} {s : State} (hphase : s.boot.phase = .step 14) (hfrom : s.boot.elapsed ≤ r.elapsed.toNat)
    (hto : r.elapsed.toNat ≤ s.boot.elapsed + 10000) (hagree : r.agree = true) (hok : r.ok = true) :
    ∃ t, exec (.bootStepEnd r) s = .next t ∧ t.boot.phase = .open_ ∧ t.boot.tries = 0 ∧ t.boot.served = s.time.now ∧ Within (pieces [.boot]) s t := by
  have hin : ¬(r.elapsed.toNat < s.boot.elapsed ∨ r.elapsed.toNat > s.boot.elapsed + s.stepBound 14) :=
    not_or.mpr ⟨Nat.not_lt.mpr hfrom, Nat.not_lt.mpr hto⟩
  have huntaken : s.untaken 14 r = 0 := rfl
  have hexec : exec (.bootStepEnd r) s = execBootStepEnd r s := rfl
  have hk : Kept (pieces [.boot]) s ((((s.setBoot { s.boot with elapsed := r.elapsed.toNat }).cairn 14 true 0 r.code.toNat r.failed r.stackMask)).nextStep 14) :=
    State.nextStep_kept (by decide) (State.cairn_kept (by decide) (State.setBoot_kept (by decide) id kept_refl))
  obtain ⟨m, hm⟩ := State.cairn_eq (s.setBoot { s.boot with elapsed := r.elapsed.toNat }) 14 true 0 r.code.toNat r.failed r.stackMask
  refine ⟨_, ?_, ?_, ?_, ?_, hk.within⟩
  · rw [hexec]
    simp only [execBootStepEnd, hphase, if_neg hin, hagree, Bool.not_true, Bool.false_eq_true, if_false, stepVerifies, List.filter_nil, ne_eq, not_true_eq_false,
      huntaken, hok, Bool.false_and]
    rfl
  · rfl
  · rfl
  · exact (congrArg (fun t : State => t.time.now) hm :)

/-- Settles O41: the branches of a step's end, of a failed step and of a start are the model's own, and a cairn and the good record leave the rest. -/
theorem bootStepsEndOrFail : Obligations.BootStepsEndOrFail := by
  unfold Obligations.BootStepsEndOrFail
  refine ⟨⟨?_, fun r s hphase hfrom hto hagree hok => execBootStepEnd_of_last hphase hfrom hto hagree hok, fun r k s hphase hto => ?_⟩,
    ⟨?_, fun pwr s htorn => ⟨State.beginStart_of_spent htorn, State.beginStart_of_left htorn⟩⟩, ?_, ?_, ?_⟩
  · intro r k s hphase hfrom hto bad
    have hin : ¬(r.elapsed.toNat < s.boot.elapsed ∨ r.elapsed.toNat > s.boot.elapsed + s.stepBound k) :=
      not_or.mpr ⟨Nat.not_lt.mpr hfrom, Nat.not_lt.mpr hto⟩
    have hexec : exec (.bootStepEnd r) s = execBootStepEnd r s := rfl
    refine ⟨fun hagree => ?_, fun hagree hbad => ?_, fun hagree hbad => ?_⟩
    · rw [hexec]
      simp only [execBootStepEnd, hphase, if_neg hin, hagree, Bool.not_false, if_true]
    · rw [hexec]
      simp only [execBootStepEnd, hphase, if_neg hin, hagree, Bool.not_true, Bool.false_eq_true, if_false]
      exact if_pos hbad
    · intro t
      dsimp only [bad] at hbad
      rw [hexec]
      simp only [execBootStepEnd, hphase, if_neg hin, hagree, Bool.not_true, Bool.false_eq_true, if_false, hbad, ne_eq, not_true_eq_false]
      by_cases haway : s.untaken k r = 0
      · by_cases hfail : r.ok = false ∧ k ≠ 13
        · simp [haway, hfail]
        · have hfail' : (!r.ok && k != 13) = false := by
            rcases Bool.eq_false_or_eq_true r.ok with h | h
            · simp [h]
            · have hk : k = 13 := not_not.mp fun hk => hfail ⟨h, hk⟩
              simp [hk]
          have hnot : ¬(r.ok = false ∧ ¬k = 13) := hfail
          simp only [haway, not_true_eq_false, if_false, hfail', Bool.false_eq_true, if_neg hnot]
          dsimp only [t]
          split <;> simp_all
      · simp only [haway, not_false_eq_true, if_true]
  · have hexec : exec (.bootStepTimeout r) s = execBootStepTimeout r s := rfl
    rw [hexec]
    simp only [execBootStepTimeout, hphase, if_neg (Nat.not_lt.mpr hto)]
  · intro k result codes failed stk doms elapsed s u t
    refine ⟨fun hway => ?_, fun b hway htries => ?_, fun b hway htries => ?_⟩
    · have hfail : s.failStep k result codes failed stk doms elapsed = t.bootFailed (k == 2 && t.boot.romsOnly failed) := by
        dsimp only [u, t] at hway ⊢
        simp only [State.failStep, hway]
      rw [hfail, State.bootFailed_phase]
    · have hfail : s.failStep k result codes failed stk doms elapsed = (t.setBoot b).bootFailed false := by
        dsimp only [u, t] at hway ⊢
        simp only [State.failStep, hway, ge_iff_le, if_pos htries]
      rw [hfail, State.bootFailed_phase]
    · dsimp only [u, t] at hway ⊢
      simp only [State.failStep, hway, ge_iff_le, if_neg (Nat.not_le.mpr htries)]
  · intro port w s hreach hw hroots
    obtain ⟨hretry, hconfirm, hwithin⟩ := State.writeBootCtrl_takes hroots w
    exact ⟨_, if_pos ⟨hreach, hw⟩, hretry, hconfirm, hwithin⟩
  · intro port w s hreach hw hroots
    obtain ⟨-, hconfirm, hwithin⟩ := State.writeBootCtrl_takes hroots w
    refine ⟨_, if_pos ⟨hreach, hw⟩, hconfirm.trans (by rw [hw, Bool.or_true]), ?_, hwithin⟩
    rw [State.writeBootCtrl_of_roots hroots, if_pos hw]
    exact State.makeGood_confirmed _
  · intro s hopen hin hhour hact hlog
    have hdue : (s.opened && !s.err.devOut && decide (s.boot.served + hour ≤ s.time.now) && !s.actPending &&
        recentLog s.time.now hour s.err.devLog == 0) = true := by
      rw [hopen, hin, decide_eq_true hhour, hact, hlog]
      rfl
    obtain ⟨m, hm⟩ := s.makeGood_boot
    exact ⟨_, if_pos hdue, s.makeGood_confirmed, congrArg (·.confirm) hm, (State.makeGood_kept (by decide) kept_refl).within⟩

end Sys2Proof.Machine
end

section
/-! SUPPORT. Firmware downloads and activations: what the bytes of an image leave (16; R511 to R514). -/

namespace Sys2Proof.Machine
open Sys2Proof Host

/-- Writing an image changes MRAM only. -/
theorem State.putImage_eq (s : State) (d i : Nat) (l : List Byte) : ∃ m, s.putImage d i l = { s with boot := { s.boot with mram := m } } :=
  State.foldl_setMram_boot (fun n => n)
    (fun s n => { s.mram n with images := smSet (MCopy.init none) (s.mram n).images d { start := s.boot.start, val := some l, flaw := 0 } }) _ s

theorem FwDom.setSlot_slot (x : FwDom) (i : Nat) (y : FwSlot) : (x.setSlot i y).slot i = y := by
  unfold FwDom.setSlot FwDom.slot
  split <;> rfl

theorem FwDom.setSlot_run (x : FwDom) (i : Nat) (y : FwSlot) : (x.setSlot i y).run = x.run := by
  unfold FwDom.setSlot
  split <;> rfl

theorem FwDom.setSlot_next (x : FwDom) (i : Nat) (y : FwSlot) : (x.setSlot i y).next = x.next := by
  unfold FwDom.setSlot
  split <;> rfl

/-- Bytes of an image mark the slot that does not run, and no more of the domain. -/
theorem State.fwWrite_dom (s : State) (d : Nat) (l : List Byte) :
    (s.fwWrite d l).dom d = (s.dom d).setSlot (s.dom d).spare { whole := false, verified := false } := by
  obtain ⟨m, hm⟩ := State.putImage_eq (s.setDom d ((s.dom d).setSlot (s.dom d).spare { whole := false, verified := false })) d (s.dom d).spare l
  exact (congrArg (fun t : State => t.dom d) hm :).trans (State.setDom_dom_same ..)

theorem State.fwWrite_eq (s : State) (d : Nat) (l : List Byte) :
    ∃ doms m, s.fwWrite d l = { s with boot := { s.boot with doms := doms, mram := m } } := by
  obtain ⟨m, hm⟩ := State.putImage_eq (s.setDom d ((s.dom d).setSlot (s.dom d).spare { whole := false, verified := false })) d (s.dom d).spare l
  exact ⟨_, m, hm⟩

/-- The image judged at its end, as the update's channel hears it (R511, R512). -/
theorem State.fwJudge_eq (s : State) (d : Nat) (misread : List Misread) :
    let q := s.pldm s.boot.fwVia 0x16 0 0
    let x := q.dom d
    let v := (q.setDom d { x.setSlot x.spare { whole := true, verified := true } with next := x.spare }).pldm s.boot.fwVia 0x17 0 0
    s.fwJudge d misread =
      if s.fwCode d misread = 0 then (v.setFw .ready v.boot.fwComps none (d :: v.boot.fwReady.filter (· != d))).pldm s.boot.fwVia 0x18 0 0
      else ((q.secRecord (s.fwCode d misread)).setFw .ready q.boot.fwComps none q.boot.fwReady).pldm s.boot.fwVia 0x17 0x01 0 :=
  ite_not ..

section Data
variable {via : Via} {data : List Byte} {misread : List Misread} {x : FwXfer} {s : State}

/-- Bytes that the device asked for are written to the slot; it asks for more, or judges the image. -/
theorem execFirmwareDataReceived_of_asked (hvia : s.pldmVia via = true) (hcur : s.boot.fwCur = some x) (hmode : s.boot.fw = .download)
    (hfrom : s.boot.fwVia = via) (hdata : data ≠ []) (hlen : data.length = min 4096 (x.size - x.got.length)) :
    let y := { x with got := x.got ++ data }
    let t := (s.setFw .download s.boot.fwComps (some y) s.boot.fwReady).fwWrite x.domain y.got
    exec (.firmwareDataReceived via data misread) s = if y.got.length < x.size then .next (t.askData y) else .next (t.fwJudge x.domain misread) := by
  have hexec : exec (.firmwareDataReceived via data misread) s = execFirmwareDataReceived via data misread s := rfl
  rw [hexec]
  simp only [execFirmwareDataReceived, hcur, hvia, hmode, hfrom, hdata, hlen, Bool.not_true, Bool.false_eq_true, ne_eq, not_true_eq_false, or_self, if_false]

end Data

/-- Settles O43: what the bytes of a download and the dies of an activation do is one operation each. -/
theorem downloadsAreVerifiedAndActivated : Obligations.DownloadsAreVerifiedAndActivated := by
  unfold Obligations.DownloadsAreVerifiedAndActivated
  refine ⟨fun via data misread x s hvia hcur hmode hfrom hdata hlen => ?_, fun d l s _ => ?_, fun via s hvia hmode hready => ?_,
    fun a sign s hact hstarted => ⟨fun hbegun hlimit => ?_, fun hlimit => ?_⟩, fun a s hact hstarted hwaited => ?_⟩
  · intro y t
    have hexec := execFirmwareDataReceived_of_asked (misread := misread) hvia hcur hmode hfrom hdata hlen
    obtain ⟨doms, m, hm⟩ := State.fwWrite_eq (s.setFw .download s.boot.fwComps (some y) s.boot.fwReady) x.domain y.got
    have hto : t.boot.fwVia = via := (congrArg (fun u : State => u.boot.fwVia) hm :).trans hfrom
    refine ⟨fun hmore => ?_, fun hend => ?_⟩
    · have hk : Kept (pieces [.boot, .out]) s (t.askData y) :=
        State.askData_kept (by decide) (State.fwWrite_kept (by decide) (State.setFw_kept (by decide) kept_refl))
      refine ⟨_, hexec.trans (if_pos hmore), rfl, ?_, hk.within⟩
      have hout : (t.askData y).out = .pldm t.boot.fwVia 0x15 0 (y.got.length + 2 ^ 32 * min 4096 (y.size - y.got.length)) :: t.out := rfl
      rw [hout, hto]
      exact congrArg (_ :: ·) (congrArg State.out hm :)
    · intro code q d v
      rw [hexec, if_neg (Nat.not_lt.mpr hend), State.fwJudge_eq, hto]
  · rw [State.fwWrite_dom]
    exact ⟨by rw [FwDom.setSlot_slot], FwDom.setSlot_run .., FwDom.setSlot_next ..⟩
  · have hexec : exec (.activateFirmware via) s = execActivateFirmware via s := rfl
    have hcan : ¬(s.boot.fw ≠ .ready ∨ s.boot.fwReady = []) := not_or.mpr ⟨not_not_intro hmode, hready⟩
    rw [hexec]
    simp only [execActivateFirmware, hvia, Bool.not_true, Bool.false_eq_true, if_false, if_neg hcan]
  · have hexec : exec (.activationDone sign) s = execActivationDone sign s := rfl
    have hin : ¬(s.time.now < a.begun ∨ s.time.now > a.limit) := not_or.mpr ⟨Nat.not_lt.mpr hbegun, Nat.not_lt.mpr hlimit⟩
    rw [hexec]
    simp only [execActivationDone, hact, hstarted, Bool.not_true, Bool.false_eq_true, false_or, if_neg hin]
  · have hexec : exec .activationTimeout s = execActivationTimeout s := rfl
    rw [hexec]
    simp only [execActivationTimeout, hact, hstarted, Bool.not_true, Bool.false_eq_true, false_or, if_neg (Nat.not_le.mpr hlimit)]
  · have hexec : exec .activationAbandon s = execActivationAbandon s := rfl
    rw [hexec]
    simp only [execActivationAbandon, hact, hstarted, Bool.false_eq_true, false_or, if_neg (Nat.not_lt.mpr hwaited)]

end Sys2Proof.Machine
end

section
/-! SUPPORT. Power, the module's signals and the board controller's commands: what a wipe keeps (18; R540 to R547). -/

namespace Sys2Proof.Machine
open Sys2Proof Host

/-! ## What a wipe keeps -/

theorem State.foldl_setCdie_err {α : Type} (c : α → Nat) (x : State → α → CdieS) (l : List α) (s : State) :
    ∃ m, l.foldl (fun s a => s.setCdie (c a) (x s a)) s = { s with err := { s.err with cdies := m } } := by
  induction l generalizing s with
  | nil => exact ⟨s.err.cdies, rfl⟩
  | cons a l ih =>
    obtain ⟨m, hm⟩ := ih (s.setCdie (c a) (x s a))
    exact ⟨m, hm⟩

/-- The root state changes the error state, the self-refresh of memory and the domains only. -/
theorem State.loadRoot_eq (s : State) : ∃ err mem doms, s.loadRoot = { s with err := err, mem := mem, boot := { s.boot with doms := doms } } := by
  let r := s.rootRead
  let a := s.setErr { s.err with devOut := r.devOut, devLog := r.devLog, devCode := r.devCode, cdies := [] }
  let b := a.setMem { a.mem with selfRefresh := r.devOut }
  obtain ⟨cdies, hc⟩ := State.foldl_setCdie_err (fun p : Nat × Bool × List Nat × Nat => p.1)
    (fun _ p => { CdieS.init with outOfService := p.2.1, log := p.2.2.1, lastCode := p.2.2.2 }) r.cdies b
  let c : State := { b with err := { b.err with cdies := cdies } }
  obtain ⟨doms, hd⟩ := State.foldl_setDom_boot (fun d => d)
    (fun s d => { s.dom d with good := (r.good.getD d (0, shippedVersion)).1, goodVer := (r.good.getD d (0, shippedVersion)).2 }) (List.range 5) c
  refine ⟨c.err, c.mem, doms, ?_⟩
  unfold State.loadRoot
  exact (congrArg (fun t : State => (List.range 5).foldl (fun s d => s.setDom d { s.dom d with
    good := (r.good.getD d (0, shippedVersion)).1, goodVer := (r.good.getD d (0, shippedVersion)).2 }) t) hc).trans hd

theorem State.wiped_mram (s : State) (pwr : Bool) : (s.wiped pwr).boot.mram = s.boot.mram := by
  unfold State.wiped
  obtain ⟨err, mem, doms, h⟩ := State.loadRoot_eq _
  exact (congrArg (fun t : State => t.loadUnits.boot.mram) h :)

theorem State.wiped_hlt_mram (s : State) (pwr : Bool) : (s.wiped pwr).hlt.mram = s.hlt.mram := by
  unfold State.wiped
  obtain ⟨err, mem, doms, h⟩ := State.loadRoot_eq _
  exact (congrArg (fun t : State => t.loadUnits.hlt.mram) h :)

theorem State.wiped_pwr (s : State) (pwr : Bool) : (s.wiped pwr).pwr = s.pwr := by
  unfold State.wiped
  obtain ⟨err, mem, doms, h⟩ := State.loadRoot_eq _
  exact (congrArg (fun t : State => t.loadUnits.pwr) h :)

/-! ## The loss of power -/

/-- What an activation leaves as power is lost changes the domains only (R514). -/
theorem State.fwPowerLost_eq (s : State) : ∃ doms, s.fwPowerLost = { s with boot := { s.boot with doms := doms } } := by
  unfold State.fwPowerLost
  cases s.boot.fwAct with
  | none => exact ⟨s.boot.doms, rfl⟩
  | some a => exact State.foldl_setDom_boot (fun d => d) (fun s d => { s.dom d with next := (s.dom d).good }) _ s

/-- With no write torn, MRAM holds what it held. -/
theorem State.powerOff_mram (s : State) : (s.powerOff []).boot.mram = s.boot.mram ∧ (s.powerOff []).hlt.mram = s.hlt.mram := by
  obtain ⟨doms, h⟩ := s.fwPowerLost_eq
  exact ⟨(State.wiped_mram s.fwPowerLost false).trans (congrArg (fun t : State => t.boot.mram) h :),
    (State.wiped_hlt_mram s.fwPowerLost false).trans (congrArg (fun t : State => t.hlt.mram) h :)⟩

/-! ## The signals -/

/-- A bit of PWR_EVT holds ALERT_N low (R559). -/
theorem State.alert_setBit {b : Nat} (hb : b < 32) (s : State) : (s.setBit .pwrEvt 0 b).alert = true := by
  have hflag : (s.setBit .pwrEvt 0 b).flag .pwrEvt 0 b = true := State.setBit_flag_same _ _ _ hb
  refine bne_iff_ne.mpr fun hzero => ?_
  rw [State.flag, hzero] at hflag
  simp [wbit] at hflag

/-- MOD_RST_N resets the dies and leaves what MRAM holds. -/
theorem execModRstNAssert_of_up {s : State} (hhigh : s.pwr.rstLow = false) (hup : s.sdiesUp = true) :
    ∃ t, exec .modRstNAssert s = .next t ∧ t.boot.phase = .reset ∧ t.pwr.rstLow = true ∧
      t.boot.tries = (if s.boot.phase = .failed then 0 else s.boot.tries) ∧ t.boot.mram = s.boot.mram ∧ t.hlt.mram = s.hlt.mram := by
  let u := s.setPwr { s.pwr with rstLow := true }
  have hup' : u.sdiesUp = true := hup
  have hexec : exec .modRstNAssert s = execModRstNAssert s := rfl
  refine ⟨(u.wiped false).setBoot { (u.wiped false).boot with
      phase := .reset, tries := if s.boot.phase = .failed then 0 else s.boot.tries, elapsed := 0 },
    ?_, rfl, congrArg (·.rstLow) (u.wiped_pwr false), rfl, u.wiped_mram false, u.wiped_hlt_mram false⟩
  rw [hexec, execModRstNAssert, hhigh]
  dsimp only [u] at hup'
  simp only [hup', Bool.not_true, Bool.false_eq_true, if_false]
  rfl

/-- Settles O44: each signal's condition is the one its rule names, and a wipe keeps MRAM and the pins. -/
theorem powerSignalsTakeTheirEffect : Obligations.PowerSignalsTakeTheirEffect := by
  unfold Obligations.PowerSignalsTakeTheirEffect
  refine ⟨fun s hoff hlow => ?_, fun s hen hconv hup hgood => if_pos (by simp [hen, hconv, hup, hgood]), fun s hen hgood => if_pos (by simp [hen, hgood]),
    fun torn s hen => ?_, fun s hlow => ?_, fun s hhigh hup => execModRstNAssert_of_up hhigh hup, fun torn s hen hconv => ?_, fun s hrun => ?_⟩
  · have hk : Kept (pieces [.pwr, .boot]) s
        ((s.setPwr { s.pwr with pwrEn := true, converters := true, upFailed := false }).setBoot { s.boot with phase := .reset }) :=
      State.setBoot_kept (by decide) id (State.setPwr_kept (by decide) kept_refl)
    exact ⟨_, if_neg (by simp [hoff, hlow]), rfl, rfl, rfl, hk.within⟩
  · refine ⟨_, if_pos hen, rfl, rfl, rfl, rfl, fun htorn => ?_⟩
    subst htorn
    exact s.powerOff_mram
  · have hexec : exec .modRstNDeassert s = execModRstNDeassert s := rfl
    intro t
    rw [hexec, execModRstNDeassert, hlow]
    simp only [Bool.not_true, Bool.false_eq_true, if_false]
    exact (apply_ite Outcome.next ..).symm
  · exact ⟨if_pos (by simp [hen, hconv]), if_pos (by simp [hen, hconv]), fun htrip => if_pos (by simp [htrip, hen, hconv]), rfl, rfl, hen⟩
  · exact ⟨if_pos hrun, if_pos hrun, if_pos hrun, fun b hb => State.alert_setBit (by omega) s⟩

/-! ## The board controller's commands -/

theorem State.command_of_allowed {s : State} (hrun : s.sdiesRun = true) {ok : Bool} (hok : ok = true) (n : Nat) (f : State → State) :
    s.command n ok f = (f s).sbAnswer n 0 0 := by
  simp only [State.command, hrun, hok, Bool.not_true, Bool.false_eq_true, if_false, if_true]

theorem State.command_of_refused {s : State} (hrun : s.sdiesRun = true) {ok : Bool} (hok : ok = false) (n : Nat) (f : State → State) :
    s.command n ok f = s.sbAnswer n 1 0 := by
  simp only [State.command, hrun, hok, Bool.not_true, Bool.false_eq_true, if_false]

/-- Settles O45: a command that its state allows has its effect and is answered with 0, and any other is answered only. -/
theorem sidebandCommandsAreAnswered : Obligations.SidebandCommandsAreAnswered := by
  unfold Obligations.SidebandCommandsAreAnswered
  intro s hrun
  refine ⟨fun hup => ⟨_, congrArg Outcome.next (State.command_of_allowed hrun hup 1 _), rfl, rfl, rfl⟩,
    fun hup => congrArg Outcome.next (State.command_of_refused hrun hup 1 _), congrArg Outcome.next (State.command_of_allowed hrun rfl 2 _),
    fun hserving => congrArg Outcome.next (State.command_of_allowed hrun hserving 3 _),
    fun hserving => congrArg Outcome.next (State.command_of_refused hrun hserving 3 _),
    fun hopen hout => congrArg Outcome.next (State.command_of_allowed hrun (by simp [hopen, hout]) 4 _),
    fun hnot => congrArg Outcome.next (State.command_of_refused hrun ?_ 4 _), fun hstate => ?_, fun hup hstanding => ?_,
    fun v hphase => congrArg Outcome.next (State.command_of_refused hrun (by simp [hphase]) 6 _),
    fun v hphase => congrArg Outcome.next (State.command_of_allowed hrun (by simp [hphase]) 6 _), fun c => ?_⟩
  · rcases hnot with h | h <;> simp [h]
  · have hexec : exec .getState s = execGetState s := rfl
    rw [hexec, execGetState, hrun]
    exact if_pos (Bool.or_eq_true_iff.mpr hstate)
  · have hexec : exec .getState s = execGetState s := rfl
    rw [hexec, execGetState, hrun, hup, hstanding]
    rfl
  · have hexec : exec (.malformedCommand c) s = execMalformedCommand c s := rfl
    rw [hexec, execMalformedCommand, if_pos hrun, State.sbAnswer, BitVec.ofNat_toNat, BitVec.setWidth_eq]
    rfl

end Sys2Proof.Machine
end

section
/-! SUPPORT. A saddle acts once (2; R36, R39, R51, R78). -/

namespace Sys2Proof.Machine
open Sys2Proof Host

/-- Settles O46: a saddle's condition is its tick, and its order is the model's own. -/
theorem saddlesAct : Obligations.SaddlesAct := by
  unfold Obligations.SaddlesAct
  intro readings volt curr power s hptck hat hfirst
  have hact : ¬((!s.boot.ptck) = true ∨ s.time.now % 4096 ≠ 0 ∨ s.time.saddleAt = some s.time.now) := by
    rintro (h | h | h)
    · rw [hptck] at h
      exact absurd h (by decide)
    · exact h hat
    · exact hfirst h
  exact ⟨if_neg hact, if_pos (.inr (.inr rfl))⟩

end Sys2Proof.Machine
end

section
/-! SUPPORT. Partitions: hold and resume, reset, stop and repair (14; R457 to R466, R481). -/

namespace Sys2Proof.Machine
open Sys2Proof Host

/-! ## The shift of a hold -/

theorem le_ceilDiv_mul {c : Nat} (a : Nat) (hc : 0 < c) : a ≤ ceilDiv a c * c := by
  have h := Nat.lt_div_mul_add (a := a + c - 1) hc
  unfold ceilDiv
  omega

theorem ceilDiv_mul_le {a c d : Nat} (hc : 0 < c) (hd : c ∣ d) (h : a ≤ d) : ceilDiv a c * c ≤ d := by
  obtain ⟨k, rfl⟩ := hd
  have hk : ceilDiv a c ≤ k := by
    unfold ceilDiv
    rw [Nat.div_le_iff_le_mul_add_pred hc]
    omega
  calc ceilDiv a c * c ≤ k * c := Nat.mul_le_mul_right c hk
    _ = c * k := Nat.mul_comm k c

/-! ## What recording and completing leaves -/

section
variable {b s : State}

/-- The end of a submission's work keeps what recording faults keeps. -/
theorem State.finish_frame {ring seq : Nat} (h : FaultFrame b s) : FaultFrame b (s.finish ring seq) := by
  unfold State.finish
  cases s.sub? ring seq with
  | none => exact h
  | some x =>
    dsimp only
    refine .ite (fun _ => h) fun _ => .ite (fun _ => ?_) fun _ => h.setSub
    exact .foldl (fun t p ht => .ite (fun _ => State.fencedAccess_frame (State.raise_frame ht)) fun _ => ht.same rfl) h.setSub

end

/-! ## Hold -/

section Hold
variable {ring : Fin 4096} {seq : Word} {x : Sub} {s : State}

theorem execHold_of_serving (hx : s.control ring.val seq.toNat 0x85 = some x) (hst : (s.part x.part).st = .serving)
    (him : (s.part x.part).image.isSome = true) :
    ∃ t, exec (.hold ring seq) s = .next t ∧ (t.part x.part).st = .holding ∧
      (t.part x.part).hold = some { latch := x.decided + 64, resumeAt := x.arg0, ring := x.ring, seq := x.seq, latched := false } ∧
      (∀ p, p ≠ x.part → t.part p = s.part p) ∧ Within (pieces [.parts, .subs]) s t := by
  let y : PartS := { s.part x.part with
    st := .holding, hold := some { latch := x.decided + 64, resumeAt := x.arg0, ring := x.ring, seq := x.seq, latched := false } }
  have hexec : exec (.hold ring seq) s = execHold ring seq s := rfl
  have hcan : ¬((s.part x.part).st ≠ .serving ∨ (s.part x.part).image.isNone = true) :=
    not_or.mpr ⟨not_not_intro hst, by rw [Option.isNone_eq_false_iff.mpr him]; decide⟩
  have hpart : ((s.setPart x.part y).began x (x.decided + 64)).part x.part = y := State.setPart_part_same s x.part y
  have hk : Kept (pieces [.parts, .subs]) s ((s.setPart x.part y).began x (x.decided + 64)) :=
    State.setSub_kept (by decide) (State.setPart_kept (by decide) kept_refl)
  refine ⟨(s.setPart x.part y).began x (x.decided + 64), ?_, congrArg (·.st) hpart, congrArg (·.hold) hpart, fun p hp => State.setPart_part_of_ne s y hp, hk.within⟩
  rw [hexec]
  simp only [execHold, hx, if_neg hcan]
  rfl

theorem execHold_of_refused (hx : s.control ring.val seq.toNat 0x85 = some x)
    (hno : (s.part x.part).st ≠ .serving ∨ (s.part x.part).image.isNone = true) : exec (.hold ring seq) s = .next (s.endWith x 0x06A1 0) := by
  have hexec : exec (.hold ring seq) s = execHold ring seq s := rfl
  rw [hexec]
  simp only [execHold, hx, if_pos hno]

end Hold

section Held
variable {part : Fin 64} {h : HoldS} {s : State}

theorem execHoldLatch_of_due (hh : (s.part part.val).hold = some h) (hst : (s.part part.val).st = .holding) (hnot : h.latched = false)
    (hdue : h.latch ≤ s.time.now) :
    exec (.holdLatch part) s = .next ((s.setPart part.val { s.part part.val with hold := some { h with latched := true } }).setSubs
      (s.subs.map fun (x : Sub) =>
        if x.part == part.val && isQuery x.kind && x.st == .accepted && x.code == 0 && !x.done && decide (h.latch < x.resEnd) then { x with held := true } else x)) := by
  have hexec : exec (.holdLatch part) s = execHoldLatch part s := rfl
  have hcan : ¬((s.part part.val).st ≠ .holding ∨ h.latched = true ∨ s.time.now < h.latch) :=
    not_or.mpr ⟨not_not_intro hst, not_or.mpr ⟨ne_true_of_eq_false hnot, Nat.not_lt.mpr hdue⟩⟩
  rw [hexec]
  simp only [execHoldLatch, hh, if_neg hcan]
  rfl

theorem execHeldEntered_of_held (hh : (s.part part.val).hold = some h) (hst : (s.part part.val).st = .holding) (hlatched : h.latched = true)
    (hall : s.allHeld part.val h.latch = true) :
    let t := (s.setPart part.val { s.part part.val with st := .held }).finish h.ring h.seq
    exec (.heldEntered part) s = .next (if h.resumeAt = 0 then t else t.failShifted part.val (shiftOf (t.cycleOf part.val) h.latch h.resumeAt)) := by
  have hexec : exec (.heldEntered part) s = execHeldEntered part s := rfl
  intro t
  rw [hexec]
  simp only [execHeldEntered, hh, hst, hlatched, hall, ne_eq, not_true_eq_false, Bool.not_true, Bool.false_eq_true, or_self, if_false]
  simp only [t, hh]
  exact (apply_ite Outcome.next (h.resumeAt = 0) ..).symm

theorem execResumeAtArrival_of_due (hh : (s.part part.val).hold = some h) (hst : (s.part part.val).st = .held) (hat : h.resumeAt ≠ 0)
    (hdue : h.resumeAt ≤ s.time.now) : exec (.resumeAtArrival part) s = .next (s.resumeAt part.val h h.resumeAt) := by
  have hexec : exec (.resumeAtArrival part) s = execResumeAtArrival part s := rfl
  have hcan : ¬((s.part part.val).st ≠ .held ∨ h.resumeAt = 0 ∨ s.time.now < h.resumeAt) :=
    not_or.mpr ⟨not_not_intro hst, not_or.mpr ⟨hat, Nat.not_lt.mpr hdue⟩⟩
  rw [hexec]
  simp only [execResumeAtArrival, hh, if_neg hcan]

/-- A host read that a hold gives up is charged to its submission and delivered poisoned (R460). -/
def State.giveUpRead (s : State) (q : HostRead) : State :=
  let f := { FaultRec.new s 0x0550 (some (dieH q.port)) 0x10 with ctx := some q.ctx, part := some q.part, dkind := 3, detail := q.addr }
  let s :=
    match q.purpose with
    | .xfer r => s.charge r.ring.val r.seq.toNat 0 f
    | .glist r | .transfer r => s.charge r.ring.val r.seq.toNat 0 f
    | .batch _ _ | .flush _ _ => s
  (s.dropRead q.id).deliver q (readData (ceilDiv q.len 16) .poisoned []) false []

theorem execHoldHostReadTimeout_of_due (hh : (s.part part.val).hold = some h) (hst : (s.part part.val).st = .holding)
    (hdue : h.latch + 2000 ≤ s.time.now) :
    exec (.holdHostReadTimeout part) s =
      .next ((s.reads.filter fun q => q.part == part.val && q.purpose.engine).foldl (fun s q => s.giveUpRead q) s) := by
  have hexec : exec (.holdHostReadTimeout part) s = execHoldHostReadTimeout part s := rfl
  have hcan : ¬((s.part part.val).st ≠ .holding ∨ s.time.now < h.latch + 2000) := not_or.mpr ⟨not_not_intro hst, Nat.not_lt.mpr hdue⟩
  rw [hexec]
  simp only [execHoldHostReadTimeout, hh, if_neg hcan]
  rfl

theorem State.giveUpRead_of_transfer {q : HostRead} {r : StepRef} (hq : q.purpose = .transfer r) :
    s.giveUpRead q =
      (((s.charge r.ring.val r.seq.toNat 0 { FaultRec.new s 0x0550 (some (dieH q.port)) 0x10 with
        ctx := some q.ctx, part := some q.part, dkind := 3, detail := q.addr }).dropRead q.id).deliver q (readData (ceilDiv q.len 16) .poisoned []) false []) := by
  unfold State.giveUpRead
  rw [hq]

end Held

/-- Settles O47: each command's condition is the one its rule names, and the shift is the least multiple of CYCLE. -/
theorem holdAndResumeTakeEffect : Obligations.HoldAndResumeTakeEffect := by
  unfold Obligations.HoldAndResumeTakeEffect
  refine ⟨⟨fun ring seq x s hx => ⟨execHold_of_serving hx, execHold_of_refused hx⟩,
    fun part h s hh hst => ⟨execHoldLatch_of_due hh hst, execHeldEntered_of_held hh hst⟩, fun ring seq x h s hx hh => ⟨fun hst => ?_, fun hst => ?_⟩,
    fun part h s hh hst hat hdue => execResumeAtArrival_of_due hh hst hat hdue, fun part h s hh hst hdue hnone => ?_,
    fun part h q r s hh hst hdue hone hq => ?_⟩, fun cyc latch b hcyc _ => ⟨?_, ?_, fun d hd hle => ?_⟩⟩
  · have hexec : exec (.resume ring seq) s = execResume ring seq s := rfl
    rw [hexec]
    simp only [execResume, hx, hh, hst, ne_eq, not_true_eq_false, if_false]
  · have hexec : exec (.resume ring seq) s = execResume ring seq s := rfl
    rw [hexec]
    simp only [execResume, hx, hh, if_pos hst]
  · rw [execHoldHostReadTimeout_of_due hh hst hdue, hnone, List.foldl_nil]
  · intro f t
    rw [execHoldHostReadTimeout_of_due hh hst hdue, hone, List.foldl_cons, List.foldl_nil, State.giveUpRead_of_transfer hq]
  · exact Nat.dvd_mul_left ..
  · have hle := le_ceilDiv_mul (b + 64 - latch) hcyc
    unfold shiftOf
    omega
  · exact ceilDiv_mul_le hcyc hd (by omega)

end Sys2Proof.Machine
end

section
/-! SUPPORT. Partition control: reset, stop and repair (14; R457, R465, R466, R481; R466 for confirmation sweeps). -/

namespace Sys2Proof.Machine
open Sys2Proof Host

section Reset
variable {ring : Fin 4096} {seq : Word} {x : Sub} {part : Fin 64} {r : ResetS} {s : State}

/-- The reset that a PARTITION_RESET begins (R481). -/
def Sub.resetOf (x : Sub) : ResetS :=
  { decided := x.decided, fence := x.decided + 64, phase := .decided, code := 0x0722, counted := false, ring := x.ring, seq := x.seq }

theorem execPartitionReset_of_begun (hx : s.control ring.val seq.toNat 0x87 = some x)
    (hst : (s.part x.part).st = .serving ∨ (s.part x.part).st = .holding ∨ (s.part x.part).st = .held) (hnone : (s.part x.part).pending = none) :
    ∃ t, exec (.partitionReset ring seq) s = .next t ∧ (t.part x.part).st = .resetting ∧ (t.part x.part).reset = some x.resetOf ∧
      Within (pieces [.parts, .subs]) s t := by
  let y : PartS := { s.part x.part with st := .resetting, pending := none, reset := some x.resetOf }
  have hexec : exec (.partitionReset ring seq) s = execPartitionReset ring seq s := rfl
  have hmay : ((s.part x.part).st == .serving || (s.part x.part).st == .holding || (s.part x.part).st == .held) = true := by
    rcases hst with h | h | h <;> rw [h] <;> rfl
  have hpart : ((s.began x 0).setPart x.part y).part x.part = y := State.setPart_part_same (s.began x 0) x.part y
  have hk : Kept (pieces [.parts, .subs]) s ((s.began x 0).setPart x.part y) :=
    State.setPart_kept (by decide) (State.setSub_kept (by decide) kept_refl)
  refine ⟨(s.began x 0).setPart x.part y, ?_, congrArg (·.st) hpart, congrArg (·.reset) hpart, hk.within⟩
  rw [hexec]
  simp only [execPartitionReset, hx, hmay, Bool.not_true, Bool.false_eq_true, if_false, hnone]
  rfl

theorem execPartitionReset_of_refused (hx : s.control ring.val seq.toNat 0x87 = some x)
    (hst : (s.part x.part).st = .idle ∨ (s.part x.part).st = .resetting) : exec (.partitionReset ring seq) s = .next (s.endWith x 0x06A1 0) := by
  have hexec : exec (.partitionReset ring seq) s = execPartitionReset ring seq s := rfl
  have hnot : ((s.part x.part).st == .serving || (s.part x.part).st == .holding || (s.part x.part).st == .held) = false := by
    rcases hst with h | h <;> rw [h] <;> rfl
  rw [hexec]
  simp only [execPartitionReset, hx, hnot, Bool.not_false, if_true]

theorem execPartitionResetFence_of_due (hr : (s.part part.val).reset = some r) (hphase : r.phase = .decided) (hdue : r.fence ≤ s.time.now)
    (hdev : s.err.devReset = none) : exec (.partitionResetFence part) s = .next (s.fencePart part r) := by
  have hexec : exec (.partitionResetFence part) s = execPartitionResetFence part s := rfl
  rw [hexec]
  simp only [execPartitionResetFence, hr]
  exact if_pos ⟨hphase, hdue, Option.isNone_iff_eq_none.mpr hdev⟩

/-- What the end of a partition's clear empties, before the partition serves again (R481, R485). -/
def State.emptiedPart (s : State) (p : Nat) : State :=
  let s := (s.coresOf p).foldl (fun s k => s.emptyCore k) s
  let s := s.setGsteps (s.gsteps.filter (·.part != p))
  let s := s.setMem { s.mem with rlines := s.mem.rlines.filter fun l => !s.rlineOf p l }
  let s := s.discardUpdates (fun st => st.part == p) false
  s.setSubs (s.subs.map fun (x : Sub) => if x.part == p then { x with held := false } else x)

theorem State.emptiedPart_time (s : State) (p : Nat) : (s.emptiedPart p).time = s.time := by
  have hcores : Kept (allBut .time) s ((s.coresOf p).foldl (fun s k => s.emptyCore k) s) :=
    kept_foldl (fun _ _ h => State.emptyCore_kept (by decide) h) kept_refl
  exact ((State.discardUpdates_kept (ks := allBut .time) (by decide) kept_refl).time.trans rfl).trans hcores.time

theorem State.emptiedPart_gsteps (s : State) (p : Nat) : ∀ g ∈ (s.emptiedPart p).gsteps, g.part ≠ p := by
  let a := (s.coresOf p).foldl (fun s k => s.emptyCore k) s
  let b := a.setGsteps (a.gsteps.filter (·.part != p))
  let c := b.setMem { b.mem with rlines := b.mem.rlines.filter fun l => !b.rlineOf p l }
  have hgsteps : (s.emptiedPart p).gsteps = a.gsteps.filter (·.part != p) :=
    (State.discardUpdates_kept (ks := pieces [.upd]) (s := c) (hit := fun st => st.part == p) (all := false) (by decide) kept_refl).within .gsteps (by decide)
  intro g hg
  rw [hgsteps] at hg
  exact bne_iff_ne.mp (List.mem_filter.mp hg).2

theorem execPartitionClearEnd_of_clear (hr : (s.part part.val).reset = some r) (hphase : r.phase = .clearing)
    (hdies : s.cdieResetting part.val = false) (hdev : s.err.devReset = none) :
    ∃ t, exec (.partitionClearEnd part) s = .next t ∧ (t.part part.val).st = .serving ∧ (t.part part.val).hold = none ∧
      (t.part part.val).reset = none ∧ (t.part part.val).fromTick = s.time.now ∧ (∀ g ∈ t.gsteps, g.part ≠ part.val) := by
  let e := s.emptiedPart part.val
  let y : PartS := { e.part part.val with st := .serving, hold := none, reset := none, fromTick := e.time.now }
  let u := e.setPart part.val y
  have hcan : ¬(r.phase ≠ .clearing ∨ s.cdieResetting part.val = true ∨ s.err.devReset.isSome = true) := by
    rw [hphase, hdies, hdev]
    simp
  have hexec : exec (.partitionClearEnd part) s = execPartitionClearEnd part s := rfl
  have hframe : FaultFrame u ((u.telReset 0 part.val true r.code).finish r.ring r.seq) := State.finish_frame (State.telReset_frame .refl)
  have hkept : Kept (allBut .gsteps) u ((u.telReset 0 part.val true r.code).finish r.ring r.seq) :=
    State.finish_kept (by decide) (State.telReset_kept (by decide) kept_refl)
  have hu : u.part part.val = y := State.setPart_part_same e part.val y
  have hpart := hframe.part part.val
  rw [hu] at hpart
  refine ⟨(u.telReset 0 part.val true r.code).finish r.ring r.seq, ?_, congrArg (·.st) hpart, congrArg (·.hold) hpart, congrArg (·.reset) hpart,
    (congrArg (·.fromTick) hpart).trans (congrArg (·.now) (s.emptiedPart_time part.val)), ?_⟩
  · rw [hexec]
    simp only [execPartitionClearEnd, hr, if_neg hcan]
    rfl
  · rw [show ((u.telReset 0 part.val true r.code).finish r.ring r.seq).gsteps = e.gsteps from hkept.within .gsteps (by decide)]
    exact s.emptiedPart_gsteps part.val

end Reset

section Sweep
variable {core : Fin 256} {array : Fin 4} {faults : List (Fin 4096 × List CellFault)} {s : State}

/-- The array and the counters of a sweep that has ended without a mismatch (R466, R525). -/
def State.sweptClean (s : State) (a : Nat) : State :=
  let x := s.array a
  let t := s.setArray a { x with
    confirm := 0, toReturn := x.confirm == 2, sumPasses := x.sumPasses + 4096, sweeps := x.sweeps + 4096, seed := lfsrAfter (s.nextSeed a) 4095 }
  (t.bump (a / 32) (a % 32) 0xCC (2 ^ 32 - 1) 4096).setArea (a / 32) (a % 32) 0xD8 s.time.now

theorem State.sweptClean_array (s : State) (a : Nat) :
    (s.sweptClean a).array a = { s.array a with
      confirm := 0, toReturn := (s.array a).confirm == 2, sumPasses := (s.array a).sumPasses + 4096, sweeps := (s.array a).sweeps + 4096
      seed := lfsrAfter (s.nextSeed a) 4095 } :=
  State.setArray_array_same s a _

theorem State.sweptClean_kept (s : State) (a : Nat) : Kept (pieces [.arrays, .hlt]) s (s.sweptClean a) :=
  State.setArea_kept (by decide) (State.bump_kept (by decide) (State.setArray_kept (by decide) kept_refl))

/-- A sweep that ends without a mismatch while no hold stops its core. -/
theorem execConfirmationSweepEnd_of_clean (hconfirm : (s.array (4 * core.val + array.val)).confirm ≠ 0)
    (hrun : ∀ p, s.coreOwner core.val = some p → (s.part p).st ≠ .holding ∧ (s.part p).st ≠ .held)
    (hdue : 7 * (s.array (4 * core.val + array.val)).confirmBy + confirmCycles ≤ 7 * s.time.now + 7)
    (hclean : s.confirmFail (4 * core.val + array.val) faults = none) :
    let a := 4 * core.val + array.val
    let x := s.array a
    let t := s.sweptClean a
    exec (.confirmationSweepEnd core array faults) s = .next (if x.confirm = 2 then
        (t.sub? x.confirmRing x.confirmSeq).elim t fun y => (t.setSub { y with info := nextSaddle t.time.now }).finish y.ring y.seq
      else t) := by
  have hexec : exec (.confirmationSweepEnd core array faults) s = execConfirmationSweepEnd core array faults s := rfl
  have hin : decide (7 * s.time.now + 7 < 7 * (s.array (4 * core.val + array.val)).confirmBy + confirmCycles) = false :=
    decide_eq_false (Nat.not_lt.mpr hdue)
  intro a x t
  rw [hexec, execConfirmationSweepEnd]
  refine (if_neg ?_).trans ?_
  · cases hown : s.coreOwner core.val with
    | none => simp [hconfirm, hin]
    | some p =>
      obtain ⟨hholding, hheld⟩ := hrun p hown
      simp [hconfirm, hin, hholding, hheld]
  · simp only [hclean, Option.isNone_none, if_true, Bool.true_and]
    by_cases htwo : (s.array (4 * core.val + array.val)).confirm = 2
    · rw [if_pos htwo, if_pos htwo]
      split
      case h_1 y hy => rw [show t.sub? x.confirmRing x.confirmSeq = some y from hy]; rfl
      case h_2 hy => rw [show t.sub? x.confirmRing x.confirmSeq = none from hy]; rfl
    · rw [if_neg htwo, if_neg htwo]
      rfl

end Sweep

/-- Settles O48: each command's condition is the one its rule names, and what completes a command leaves what it gave. -/
theorem partitionCommandsTakeEffect : Obligations.PartitionCommandsTakeEffect := by
  unfold Obligations.PartitionCommandsTakeEffect
  refine ⟨fun ring seq x s hx => ⟨execPartitionReset_of_begun hx, execPartitionReset_of_refused hx⟩,
    fun part r s hr hphase hdue hdev => execPartitionResetFence_of_due hr hphase hdue hdev,
    fun part r s hr hphase hdies hdev => execPartitionClearEnd_of_clear hr hphase hdies hdev, fun ring seq x s hx => ⟨?stop, ?saddle, ?refused⟩,
    fun ring seq x s hx => ⟨?withdraw, ?sweep⟩, ?swept, ?returned⟩
  case stop =>
    intro hst him hsaddle
    have hcan : ¬((s.part x.part).st ≠ .serving ∨ (s.part x.part).image.isNone = true) :=
      not_or.mpr ⟨not_not_intro hst, by rw [Option.isNone_eq_false_iff.mpr him]; decide⟩
    have hexec : exec (.stop ring seq) s = execStop ring seq s := rfl
    rw [hexec]
    simp only [execStop, hx, if_neg hcan, hsaddle, Bool.not_true, Bool.false_eq_true, if_false]
  case saddle =>
    intro hst him hsaddle
    have hcan : ¬((s.part x.part).st ≠ .serving ∨ (s.part x.part).image.isNone = true) :=
      not_or.mpr ⟨not_not_intro hst, by rw [Option.isNone_eq_false_iff.mpr him]; decide⟩
    have hexec : exec (.stop ring seq) s = execStop ring seq s := rfl
    rw [hexec]
    simp only [execStop, hx, if_neg hcan, hsaddle, Bool.not_false, if_true]
  case refused =>
    intro hno
    have hexec : exec (.stop ring seq) s = execStop ring seq s := rfl
    rw [hexec]
    simp only [execStop, hx, if_pos hno]
  case withdraw =>
    intro hwithdraw
    have hexec : exec (.repairWithdraw ring seq) s = execRepairWithdraw ring seq s := rfl
    rw [hexec]
    simp only [execRepairWithdraw, hx, hwithdraw, Bool.false_eq_true, if_false]
  case sweep =>
    intro hreturn
    have hexec : exec (.repairReturn ring seq) s = execRepairReturn ring seq s := rfl
    rw [hexec]
    simp only [execRepairReturn, hx, hreturn, Bool.not_true, Bool.false_eq_true, if_false]
  case swept =>
    intro core array faults s a hconfirm hrun hdue hclean
    have hone : (s.array (4 * core.val + array.val)).confirm = 1 := hconfirm
    have hexec := execConfirmationSweepEnd_of_clean (faults := faults) (by rw [hone]; decide) hrun hdue hclean
    have harray := s.sweptClean_array a
    refine ⟨s.sweptClean a, hexec.trans (congrArg Outcome.next (if_neg (by rw [hone]; decide))), congrArg (·.confirm) harray, ?_,
      congrArg (·.sumPasses) harray, congrArg (·.sumFails) harray, (s.sweptClean_kept a).within⟩
    rw [harray, show (s.array a).confirm = 1 from hconfirm]
    rfl
  case returned =>
    intro core array faults y s a hconfirm hrun hdue hclean hy
    have htwo : (s.array (4 * core.val + array.val)).confirm = 2 := hconfirm
    have hexec := execConfirmationSweepEnd_of_clean (faults := faults) (by rw [htwo]; decide) hrun hdue hclean
    let t := s.sweptClean a
    have hsub : t.sub? (s.array a).confirmRing (s.array a).confirmSeq = some y := hy
    let u := (t.setSub { y with info := nextSaddle t.time.now }).finish y.ring y.seq
    have hframe : FaultFrame t u := State.finish_frame (FaultFrame.refl.setSub)
    have harray : u.array a = _ := hframe.array a
    rw [s.sweptClean_array a, show (s.array a).confirm = 2 from hconfirm] at harray
    refine ⟨u, (hexec.trans (congrArg Outcome.next (if_pos htwo))).trans (congrArg (fun o => Outcome.next (Option.elim o t _)) hsub),
      congrArg (·.confirm) harray, congrArg (·.toReturn) harray⟩

end Sys2Proof.Machine
end

section
/-! SUPPORT. Partitions and cores given out and taken back by SYS_PART_CTRL and SYS_CORE_OWN (14; R450 to R454). -/

namespace Sys2Proof.Machine
open Sys2Proof Host

/-! ## Cleared bytes -/

/-- A key whose entries are all taken out reads as not listed. -/
theorem smGet_filter_of_dropped {α : Type} (d : α) (p : Nat × α → Bool) {k : Nat} (h : ∀ v, p (k, v) = false) (m : SMap α) :
    smGet d (m.filter p) k = d := by
  induction m with
  | nil => rfl
  | cons x m ih =>
    obtain ⟨j, v⟩ := x
    by_cases hp : p (j, v) = true
    · have hjk : j ≠ k := fun hjk => by
        rw [hjk, h v] at hp
        exact Bool.false_ne_true hp
      rw [List.filter_cons_of_pos hp, smGet, if_neg hjk, ih]
    · rw [List.filter_cons_of_neg hp, ih]

/-- A byte of a range that is wiped reads 0. -/
theorem MemS.readByte_wipe (m : MemS) (sp : Space) {lo hi a : Nat} (hlo : lo ≤ a) (hhi : a < hi) : readByte ((m.wipe sp lo hi).cells sp) a = 0 := by
  have hcells : (m.wipe sp lo hi).cells sp = (m.cells sp).filter fun x => x.1 < lo || x.1 ≥ hi := by cases sp <;> rfl
  rw [hcells, readByte]
  refine smGet_filter_of_dropped _ _ (fun v => ?_) _
  rw [decide_eq_false (Nat.not_lt.mpr hlo), decide_eq_false (Nat.not_le.mpr hhi)]
  rfl

/-! ## Partitions -/

section Parts
variable {port : Fin 4} {part : Fin 64} {w : Word} {s : State}

theorem execPartEnable_of_enable (hreach : s.reach port.val = true) (hon : wbit w 0 = true) (hold : s.flag .sysPartCtrl part.val 0 = false) :
    exec (.partEnable port part w) s = .next (
      if s.mayAdmit (wbits w 2 1) then
        (s.putRw .sysPartCtrl part.val w).setPart part.val
          { s.part part.val with st := if s.deviceStopped then .resetting else .serving, delta := 0, fromTick := 0, noAdmit := false }
      else (s.putRw .sysPartCtrl part.val (setBits w 0 0 0)).partRefused part.val) := by
  have hexec : exec (.partEnable port part w) s = execPartEnable port part w s := rfl
  have hold' : wbit (s.reg .sysPartCtrl part.val) 0 = false := hold
  rw [hexec, execPartEnable, if_pos ⟨hreach, hon, by rw [hold]; rfl⟩, State.writePartCtrl]
  simp only [hold', hon, Bool.not_false, Bool.not_true, Bool.false_eq_true, if_false, if_true]

theorem execPartDisable_of_disable (hreach : s.reach port.val = true) (hoff : wbit w 0 = false) (hold : s.flag .sysPartCtrl part.val 0 = true) :
    exec (.partDisable port part w) s = .next (
      if s.mayIdle part.val then
        let t := (s.setReg .sysPartCtrl part.val (setBits (s.reg .sysPartCtrl part.val) 0 0 0)).setPart part.val { s.part part.val with st := .idle }
        if decide (wbits w 2 1 ≠ wbits (s.reg .sysPartCtrl part.val) 2 1) then t.partRefused part.val else t
      else s.partRefused part.val) := by
  have hexec : exec (.partDisable port part w) s = execPartDisable port part w s := rfl
  have hold' : wbit (s.reg .sysPartCtrl part.val) 0 = true := hold
  rw [hexec, execPartDisable, if_pos ⟨hreach, by rw [hoff]; rfl, hold⟩, State.writePartCtrl]
  simp only [hold', hoff, Bool.not_true, Bool.false_eq_true, if_false]

/-- A refusal changes no SYS_PART_CTRL. -/
theorem State.partRefused_reg (s : State) (p : Nat) {i : Nat} (hi : i < 64) : (s.partRefused p).reg .sysPartCtrl i = s.reg .sysPartCtrl i := by
  have hcount : i < (RG.row .sysPartCtrl).count := hi
  rw [State.partRefused, State.regErr_reg_of_ne _ _ _ (RG.off_ne (by decide) hcount (by decide)),
    State.setBit_reg_of_ne _ (RG.off_ne (by decide) hcount (by decide))]

theorem State.partRefused_part (s : State) (p q : Nat) : (s.partRefused p).part q = s.part q :=
  congrArg (fun m => smGet PartS.init m q) ((State.partRefused_kept (ks := pieces [.regs]) (by decide) kept_refl).within .parts (by decide))

end Parts

/-! ## Cores -/

section Cores
variable {port : Fin 4} {core : Fin 256} {w : Word} {s : State}

theorem sysCoreOwn_rw : ∀ b, b < 7 → wbit (RG.row .sysCoreOwn).rw b = true := by decide

theorem execCoreAssign_of_assign (hreach : s.reach port.val = true) (hon : wbit w 6 = true) (hold : s.flag .sysCoreOwn core.val 6 = false) :
    exec (.coreAssign port core w) s =
      .next ((s.putRw .sysCoreOwn core.val w).setCore core.val { s.core core.val with clearing := true }) := by
  have hexec : exec (.coreAssign port core w) s = execCoreAssign port core w s := rfl
  have hold' : wbit (s.reg .sysCoreOwn core.val) 6 = false := hold
  rw [hexec, execCoreAssign, if_pos ⟨hreach, hon, by rw [hold]; rfl⟩, State.writeCoreOwn]
  simp only [hold', hon, Bool.not_false, if_true]
  rfl

theorem execCoreRelease_of_release (hreach : s.reach port.val = true) (hoff : wbit w 6 = false) (hold : s.flag .sysCoreOwn core.val 6 = true) :
    exec (.coreRelease port core w) s = .next (
      if wbits w 5 0 ≠ s.fld .sysCoreOwn core.val 5 0 ∨ s.coreNamed (s.fld .sysCoreOwn core.val 5 0) core.val = true then
        (s.setBit .sysStatus 0 1).regErr (RG.off .sysCoreOwn core.val) 4
      else s.putRw .sysCoreOwn core.val w) := by
  have hexec : exec (.coreRelease port core w) s = execCoreRelease port core w s := rfl
  have hold' : wbit (s.reg .sysCoreOwn core.val) 6 = true := hold
  rw [hexec, execCoreRelease, if_pos ⟨hreach, by rw [hoff]; rfl, hold⟩, State.writeCoreOwn]
  simp only [hold', hoff, Bool.not_true, Bool.not_false, Bool.false_eq_true, if_false, true_and]
  refine congrArg Outcome.next ?_
  by_cases hpart : wbits w 5 0 ≠ s.fld .sysCoreOwn core.val 5 0
  · exact (if_pos hpart).trans (if_pos (Or.inl hpart)).symm
  · refine (if_neg hpart).trans ?_
    by_cases hnamed : s.coreNamed (s.fld .sysCoreOwn core.val 5 0) core.val = true
    · exact (if_pos hnamed).trans (if_pos (Or.inr hnamed)).symm
    · exact (if_neg hnamed).trans (if_neg (not_or.mpr ⟨hpart, hnamed⟩)).symm

/-- A cleared core's accumulator and tile SRAM read zeros (R453). -/
theorem State.clearCore_zero (s : State) (k : Nat) (p : Bool) :
    (∀ a, k * 2 ^ 22 ≤ a → a < (k + 1) * 2 ^ 22 → readByte (s.clearCore k p).mem.accum a = 0) ∧
      ∀ a, k * 2 ^ 18 ≤ a → a < (k + 1) * 2 ^ 18 → readByte (s.clearCore k p).mem.tile a = 0 :=
  ⟨fun _ hlo hhi => MemS.readByte_wipe ((s.emptyCore k).mem.wipeOps k p) .accum hlo hhi,
    fun _ hlo hhi => MemS.readByte_wipe (((s.emptyCore k).mem.wipeOps k p).wipe .accum (k * 2 ^ 22) ((k + 1) * 2 ^ 22)) .tile hlo hhi⟩

end Cores

/-- Settles O49: a write that its rules allow shows the new V, and the clear of a core leaves zeros. -/
theorem partitionsAndCoresAreGivenOut : Obligations.PartitionsAndCoresAreGivenOut := by
  unfold Obligations.PartitionsAndCoresAreGivenOut
  refine ⟨fun port part w s hreach hon hold => ⟨fun hadmit => ?enabled, fun hadmit => ?refused⟩,
    fun port part w s hreach hoff hold => ⟨fun hidle => ?disabled, fun hidle => ?kept⟩, fun port core w s hreach hon hold => ?assigned,
    fun port core w s hreach hoff hold => ⟨fun hpart hnamed => ?released, fun hno => ?ignored⟩, fun core s hclearing => ?cleared⟩
  case enabled =>
    let y : PartS := { s.part part.val with st := if s.deviceStopped then .resetting else .serving, delta := 0, fromTick := 0, noAdmit := false }
    have hk : Kept (pieces [.regs, .parts]) s ((s.putRw .sysPartCtrl part.val w).setPart part.val y) :=
      State.setPart_kept (by decide) (State.putRw_kept (by decide) kept_refl)
    refine ⟨(s.putRw .sysPartCtrl part.val w).setPart part.val y, (execPartEnable_of_enable hreach hon hold).trans (congrArg _ (if_pos hadmit)),
      congrArg (·.st) (State.setPart_part_same (s.putRw .sysPartCtrl part.val w) part.val y), ?_,
      fun p hp => State.setPart_part_of_ne (s.putRw .sysPartCtrl part.val w) y hp, hk.within⟩
    exact (s.putRw_wbit .sysPartCtrl part.val w (by decide) (by decide)).trans hon
  case refused =>
    exact (execPartEnable_of_enable hreach hon hold).trans (congrArg _ (if_neg (ne_true_of_eq_false hadmit)))
  case disabled =>
    let t := (s.setReg .sysPartCtrl part.val (setBits (s.reg .sysPartCtrl part.val) 0 0 0)).setPart part.val { s.part part.val with st := .idle }
    have hpart : (t.part part.val).st = .idle :=
      congrArg (·.st) (State.setPart_part_same (s.setReg .sysPartCtrl part.val (setBits (s.reg .sysPartCtrl part.val) 0 0 0)) part.val _)
    have hflag : wbit (t.reg .sysPartCtrl part.val) 0 = false := by
      rw [show t.reg .sysPartCtrl part.val = setBits (s.reg .sysPartCtrl part.val) 0 0 0 from State.setReg_reg_same .., wbit_setBits_zero]
      rfl
    refine ⟨_, (execPartDisable_of_disable hreach hoff hold).trans (congrArg _ (if_pos hidle)), ?_, ?_⟩ <;> dsimp only <;> split
    · rw [State.partRefused_part]
      exact hpart
    · exact hpart
    · rw [State.flag, State.partRefused_reg _ _ part.isLt]
      exact hflag
    · exact hflag
  case kept =>
    exact (execPartDisable_of_disable hreach hoff hold).trans (congrArg _ (if_neg (ne_true_of_eq_false hidle)))
  case assigned =>
    let u := s.putRw .sysCoreOwn core.val w
    let y : CoreS := { s.core core.val with clearing := true }
    have hk : Kept (pieces [.regs, .cores]) s (u.setCore core.val y) := State.setCore_kept (by decide) (State.putRw_kept (by decide) kept_refl)
    have hbit (b : Nat) (hb : b < 7) : wbit (u.reg .sysCoreOwn core.val) b = wbit w b :=
      s.putRw_wbit .sysCoreOwn core.val w (by omega) (sysCoreOwn_rw b hb)
    exact ⟨u.setCore core.val y, execCoreAssign_of_assign hreach hon hold, congrArg (·.clearing) (State.setCore_core_same u core.val y),
      (hbit 6 (by decide)).trans hon, wbits_congr fun b _ hb => hbit b (by omega), fun k hk => State.setCore_core_of_ne u y hk, hk.within⟩
  case released =>
    have hno : ¬(wbits w 5 0 ≠ s.fld .sysCoreOwn core.val 5 0 ∨ s.coreNamed (s.fld .sysCoreOwn core.val 5 0) core.val = true) :=
      not_or.mpr ⟨not_not_intro hpart, ne_true_of_eq_false hnamed⟩
    exact ⟨_, (execCoreRelease_of_release hreach hoff hold).trans (congrArg _ (if_neg hno)),
      (s.putRw_wbit .sysCoreOwn core.val w (by decide) (sysCoreOwn_rw 6 (by decide))).trans hoff, State.putRw_within _ _ _ _⟩
  case ignored =>
    exact (execCoreRelease_of_release hreach hoff hold).trans (congrArg _ (if_pos hno))
  case cleared =>
    let u := s.clearCore core.val false
    obtain ⟨haccum, htile⟩ := s.clearCore_zero core.val false
    have htags : (u.core core.val).tbTag = [] := congrArg (·.tbTag) (State.setCore_core_same _ core.val _)
    have hcore : (u.setCore core.val { u.core core.val with clearing := false }).core core.val = _ := State.setCore_core_same ..
    exact ⟨u.setCore core.val { u.core core.val with clearing := false }, if_pos hclearing, congrArg (·.clearing) hcore,
      (congrArg (·.tbTag) hcore).trans htags, haccum, htile⟩

end Sys2Proof.Machine
end

section
/-! SUPPORT. Drains, clears and SYS_RESET_CTRL (15; R479 to R484, R491 to R493). -/

namespace Sys2Proof.Machine
open Sys2Proof Host

/-! ## Drains -/

section Drains
variable {scope : Scope} {r : ResetS} {s : State}

theorem State.tryDrain_of_idle (hr : s.resetOf scope = some r) (hphase : r.phase = .draining) (hidle : s.busyScope scope = false) :
    s.tryDrain scope = s.endDrain scope r := by
  simp only [State.tryDrain, hr, hphase, decide_true, hidle, Bool.not_false, Bool.and_self, if_true]

theorem execDrainHostReadTimeout_of_due (hr : s.resetOf scope = some r) (hphase : r.phase = .draining) (hdue : r.fence + 2000 ≤ s.time.now) :
    exec (.drainHostReadTimeout scope) s = .next (((s.reads.filter (s.readIn scope)).foldl (fun s q => s.giveUp q) s).tryDrain scope) := by
  have hexec : exec (.drainHostReadTimeout scope) s = execDrainHostReadTimeout scope s := rfl
  have hcan : ¬(r.phase ≠ .draining ∨ s.time.now < r.fence + 2000) := not_or.mpr ⟨not_not_intro hphase, Nat.not_lt.mpr hdue⟩
  rw [hexec]
  simp only [execDrainHostReadTimeout, hr, if_neg hcan]

/-- A drain that overruns escalates by its scope (R480). -/
theorem execDrainOverrun_of_due (hr : s.resetOf scope = some r) (hphase : r.phase = .draining) (hdue : r.fence + 10000 ≤ s.time.now) :
    (∀ p, scope = .partition p → exec (.drainOverrun scope) s = .next (s.overrunPart p.val)) ∧
    (∀ c, scope = .cdie c → exec (.drainOverrun scope) s = .next (s.hitDevice 0x0560 c.val 0xC0 (s.owedOf (·.core / 8 == c.val) fun _ => false))) ∧
    (scope = .device → ∃ l, exec (.drainOverrun scope) s = .next ((s.raise (triggerFault s 0x0560 (dieS 0) 4 l)).endDrain .device r)) := by
  have hexec : exec (.drainOverrun scope) s = execDrainOverrun scope s := rfl
  have hcan : ¬(r.phase ≠ .draining ∨ s.time.now < r.fence + 10000) := not_or.mpr ⟨not_not_intro hphase, Nat.not_lt.mpr hdue⟩
  rw [hexec]
  refine ⟨fun p hp => ?_, fun c hc => ?_, fun hd => ?_⟩
  · subst hp
    simp only [execDrainOverrun, hr, if_neg hcan]
  · subst hc
    simp only [execDrainOverrun, hr, if_neg hcan]
  · subst hd
    simp only [execDrainOverrun, hr, if_neg hcan]
    exact ⟨_, rfl⟩

end Drains

/-! ## SYS_RESET_CTRL -/

section Control
variable {w : Word} (s : State)

theorem State.writeResetCtrl_of_devReset (h0 : wbit w 0 = true) (h1 : wbit w 1 = false) (h7 : wbit w 7 = false) (h8 : wbit w 8 = false) :
    s.writeResetCtrl w = (s.putRw .sysResetCtrl 0 w).askDevice := by
  simp only [State.writeResetCtrl, h0, h1, h7, h8, Bool.false_eq_true, if_false, if_true]

theorem State.writeResetCtrl_of_devEnable (h0 : wbit w 0 = false) (h1 : wbit w 1 = true) (h7 : wbit w 7 = false) (h8 : wbit w 8 = false) :
    s.writeResetCtrl w =
      if (s.putRw .sysResetCtrl 0 w).err.devOut then (s.putRw .sysResetCtrl 0 w).enableDevice
      else (s.putRw .sysResetCtrl 0 w).regErr (RG.off .sysResetCtrl 0) 4 := by
  simp only [State.writeResetCtrl, h0, h1, h7, h8, Bool.false_eq_true, if_false, if_true]

theorem State.writeResetCtrl_of_cdieReset (h0 : wbit w 0 = false) (h1 : wbit w 1 = false) (h7 : wbit w 7 = true) (h8 : wbit w 8 = false) :
    let t := s.putRw .sysResetCtrl 0 w
    let c : Fin 32 := ⟨wbits w 6 2 % 32, Nat.mod_lt _ (by decide)⟩
    s.writeResetCtrl w = if t.excluded c.val || (t.cdie c.val).outOfService then t.regErr (RG.off .sysResetCtrl 0) 4
      else t.resetCdie c 0x0720 0xC0 false [] false := by
  simp only [State.writeResetCtrl, h0, h1, h7, h8, Bool.false_eq_true, if_false, if_true]

theorem State.writeResetCtrl_of_cdieEnable (h0 : wbit w 0 = false) (h1 : wbit w 1 = false) (h7 : wbit w 7 = false) (h8 : wbit w 8 = true) :
    let t := s.putRw .sysResetCtrl 0 w
    let c : Fin 32 := ⟨wbits w 6 2 % 32, Nat.mod_lt _ (by decide)⟩
    s.writeResetCtrl w = if (t.cdie c.val).outOfService then t.enableCdie c.val else t.regErr (RG.off .sysResetCtrl 0) 4 := by
  simp only [State.writeResetCtrl, h0, h1, h7, h8, Bool.false_eq_true, if_false, if_true]

end Control

/-! ## The clear of the device -/

/-- The device's reset is over, and its C-dies rejoin at the saddle `sad`. -/
def State.resetOver (s : State) (sad : Nat) : State :=
  let s := s.setErr { s.err with devReset := none }
  (List.range 32).foldl (fun s c => s.setCdie c { s.cdie c with rejoin := some sad }) s

/-- What the clear of the device leaves before the partitions serve again, its C-dies rejoining at the saddle `sad` (R483). -/
def State.deviceCleared (s : State) (decided sad : Nat) : State :=
  let s := (List.range 256).foldl (fun s k => s.clearCore k true) s
  let s := (s.setMem { (List.range 512).foldl (fun m w => m.wipeWay w true) s.mem with rlines := [], deaf := [], selfRefresh := false }).settleLosses decided
  let s := s.setUpd { s.upd with serial := 0 }
  (s.setSubs (s.subs.map fun (x : Sub) => { x with held := false })).resetOver sad

theorem execDeviceClearEnd_of_clearing {r : ResetS} {s : State} (hr : s.err.devReset = some r) (hphase : r.phase = .clearing) :
    let sad := saddleAtOrAfter (s.time.now + 64)
    exec .deviceClearEnd s =
      .next ((((((s.deviceCleared r.decided sad).partsAnew sad).timeAnew.fwAtReset).sendFm 2 0 r.code 0 0).telReset 2 0 true r.code).readySets fun _ => true) := by
  have hexec : exec .deviceClearEnd s = execDeviceClearEnd s := rfl
  rw [hexec]
  unfold execDeviceClearEnd
  split
  case h_1 hnone =>
    rw [hr] at hnone
    cases hnone
  case h_2 r' hsome =>
    obtain rfl : r = r' := Option.some.inj (hr.symm.trans hsome)
    refine (if_neg (not_not_intro hphase)).trans ?_
    rfl

theorem State.setUpd_setSubs (s : State) (u : UpdS) (f : Sub → Sub) :
    (s.setUpd u).setSubs ((s.setUpd u).subs.map f) = (s.setUpd u).setSubs (s.subs.map f) := rfl

/-- Settles O51: a scope's drain and clear go by its reset, and each command of SYS_RESET_CTRL by its bit alone. -/
theorem resetsDrainAndClear : Obligations.ResetsDrainAndClear := by
  unfold Obligations.ResetsDrainAndClear
  refine ⟨⟨fun scope r s hr hphase => ⟨fun hidle => congrArg Outcome.next (State.tryDrain_of_idle hr hphase hidle),
      fun hdue => execDrainHostReadTimeout_of_due hr hphase hdue, fun hdue => execDrainOverrun_of_due hr hphase hdue⟩,
    fun cdie r s hr hphase => ?cdie, fun r s hr hphase => ?device⟩, fun port w s hreach =>
      ⟨fun h0 h1 h7 h8 => (if_pos ⟨hreach, h0⟩).trans (congrArg _ (s.writeResetCtrl_of_devReset h0 h1 h7 h8)),
      fun h0 h1 h7 h8 => (if_pos ⟨hreach, h1⟩).trans (congrArg _ (s.writeResetCtrl_of_devEnable h0 h1 h7 h8)),
      fun h0 h1 h7 h8 => (if_pos ⟨hreach, h7⟩).trans (congrArg _ (s.writeResetCtrl_of_cdieReset h0 h1 h7 h8)),
      fun h0 h1 h7 h8 => (if_pos ⟨hreach, h8⟩).trans (congrArg _ (s.writeResetCtrl_of_cdieEnable h0 h1 h7 h8))⟩⟩
  case cdie =>
    have hexec : exec (.cdieClearEnd cdie) s = execCdieClearEnd cdie s := rfl
    rw [hexec]
    simp only [execCdieClearEnd, hr, hphase, ne_eq, not_true_eq_false, if_false]

  case device =>
    intro sad a b c d e
    let u := b.setUpd { b.upd with serial := 0 }
    have hcleared : s.deviceCleared r.decided sad = (u.setSubs (u.subs.map fun (x : Sub) => { x with held := false })).resetOver sad := rfl
    have hsubs : u.setSubs (u.subs.map fun (x : Sub) => { x with held := false }) = c := State.setUpd_setSubs b ..
    have hover : c.resetOver sad = e := rfl
    rw [hsubs, hover] at hcleared
    exact (execDeviceClearEnd_of_clearing hr hphase).trans (by rw [hcleared])

end Sys2Proof.Machine
end

section
/-! SUPPORT. The signing state: what the writing of a leaf leaves, and how the next leaf is found (16; R516, R517). -/

namespace Sys2Proof.Machine
open Sys2Proof Host

/-! ## The largest of a list -/

/-- A fold whose result is no less than what it meets is no less than any of the list. -/
theorem foldl_some_le {f : Option Nat → Nat → Option Nat} (hf : ∀ b i, ∃ j, f b i = some j ∧ i ≤ j ∧ ∀ k, b = some k → k ≤ j) (l : List Nat)
    (b : Option Nat) :
    (∀ k, b = some k → ∃ j, l.foldl f b = some j ∧ k ≤ j) ∧ ∀ x ∈ l, ∃ j, l.foldl f b = some j ∧ x ≤ j := by
  induction l generalizing b with
  | nil => exact ⟨fun k hk => ⟨k, hk, le_refl k⟩, fun x hx => absurd hx List.not_mem_nil⟩
  | cons i l ih =>
    obtain ⟨j, hj, hij, hbj⟩ := hf b i
    obtain ⟨hstart, hlist⟩ := ih (f b i)
    obtain ⟨m, hm, hjm⟩ := hstart j hj
    refine ⟨fun k hk => ⟨m, hm, (hbj k hk).trans hjm⟩, fun x hx => ?_⟩
    rcases List.mem_cons.mp hx with rfl | hx
    · exact ⟨m, hm, hij.trans hjm⟩
    · exact hlist x hx

/-- A root finds no leaf below that of a copy which it finds valid. -/
theorem State.le_leafSeen {s : State} {blind : BitVec 4} {n : Nat} (hn : n ∈ s.sdies) (hvalid : (s.mram n).lms.2 = 0) (hseen : blind.getLsbD n = false) :
    ∃ j, s.leafSeen blind = some j ∧ (s.mram n).lms.1 ≤ j := by
  have hmem : (s.mram n).lms.1 ∈ (s.sdies.filter fun n => (s.mram n).lms.2 == 0 && !blind.getLsbD n).map fun n => (s.mram n).lms.1 :=
    List.mem_map_of_mem (List.mem_filter.mpr ⟨hn, by rw [hvalid, hseen]; rfl⟩)
  refine (foldl_some_le (fun b i => ?_) _ none).2 _ hmem
  cases b with
  | none => exact ⟨i, rfl, le_refl i, fun k hk => by cases hk⟩
  | some j => exact ⟨max i j, rfl, le_max_left i j, fun k hk => Option.some.inj hk ▸ le_max_right i j⟩

/-! ## Writing the next leaf -/

theorem State.setMram_mram_same (s : State) (n : Nat) (x : MramS) : (s.setMram n x).mram n = x := smGet_set_same ..

theorem State.setMram_mram_of_ne (s : State) (x : MramS) {n k : Nat} (h : k ≠ n) : (s.setMram n x).mram k = s.mram k := smGet_set_other _ _ _ _ _ h

/-- Leaves written to some copies stand in them, and the other copies stay. -/
theorem State.foldl_lms_mram (v : Nat → Nat × Word) (l : List Nat) (s : State) (n : Nat) :
    (n ∈ l → ((l.foldl (fun s n => s.setMram n { s.mram n with lms := v n }) s).mram n).lms = v n) ∧
      (n ∉ l → (l.foldl (fun s n => s.setMram n { s.mram n with lms := v n }) s).mram n = s.mram n) := by
  induction l generalizing s with
  | nil => exact ⟨fun h => absurd h List.not_mem_nil, fun _ => rfl⟩
  | cons k l ih =>
    obtain ⟨hin, hout⟩ := ih (s.setMram k { s.mram k with lms := v k })
    rw [List.foldl_cons]
    refine ⟨fun h => ?_, fun h => ?_⟩
    · by_cases hl : n ∈ l
      · exact hin hl
      · obtain rfl : n = k := (List.mem_cons.mp h).resolve_right hl
        rw [hout hl, State.setMram_mram_same]
    · obtain ⟨hk, hl⟩ := not_or.mp (fun h' => h (List.mem_cons.mpr h'))
      rw [hout hl, State.setMram_mram_of_ne _ _ hk]

/-- The mark of a new bottom-level tree and the warning of the last leaves change neither the copies nor the dies that hold them. -/
theorem State.writeLeaf_mram (s : State) (g : Signing) (i n : Nat) :
    ((n ∈ s.sdies → (∀ x ∈ g.lost, x.1.val ≠ n) → ((s.writeLeaf g i).mram n).lms = (i + 1, 0)) ∧ (n ∉ s.sdies → (s.writeLeaf g i).mram n = s.mram n)) := by
  have hmram : (s.writeLeaf g i).mram n = (s.sdies.foldl (fun s n =>
      s.setMram n { s.mram n with lms := match g.lost.find? (·.1.val == n) with | some x => x.2 | none => (i + 1, 0) }) s).mram n := by
    unfold State.writeLeaf
    dsimp only
    split <;> split <;> rfl
  obtain ⟨hin, hout⟩ := State.foldl_lms_mram (fun n => match g.lost.find? (·.1.val == n) with | some x => x.2 | none => (i + 1, 0)) s.sdies s n
  rw [hmram]
  refine ⟨fun hn hkept => (hin hn).trans ?_, hout⟩
  have hfind : g.lost.find? (fun x => x.1.val == n) = none := List.find?_eq_none.mpr fun x hx => by
    rw [beq_iff_eq]
    exact hkept x hx
  simp only [hfind]

theorem State.writeLeaf_sdies (s : State) (g : Signing) (i : Nat) : (s.writeLeaf g i).sdies = s.sdies := by
  obtain ⟨m, hm⟩ := State.foldl_setMram_boot (fun n => n)
    (fun s n => { s.mram n with lms := match g.lost.find? (·.1.val == n) with | some x => x.2 | none => (i + 1, 0) }) s.sdies s
  have hfold := congrArg State.sdies hm
  refine Eq.trans ?_ hfold
  unfold State.writeLeaf
  dsimp only
  split <;> split <;> rfl

/-! ## Signing -/

/-- With a leaf on which the roots agree and that is left, the next leaf is written, and the copies and the signatures decide. -/
theorem State.signLeaf_of_agreed {s : State} {g : Signing} {i : Nat} (h0 : s.leafSeen g.blind0 = some i) (h1 : s.leafSeen g.blind1 = some i)
    (hi : i < 2 ^ 40) :
    s.signLeaf g = (s.writeLeaf g i,
      if (s.sdies.filter fun n => ((s.writeLeaf g i).mram n).lms == (i + 1, 0)).length < 2 then .error 0x0B04
      else if g.same = false then .error 0x0B03 else .ok i) := by
  have hagree : ¬(s.leafSeen g.blind0 ≠ s.leafSeen g.blind1) := not_not_intro (h0.trans h1.symm)
  rw [State.signLeaf, if_neg hagree]
  simp only [h0, ge_iff_le, if_neg (Nat.not_le.mpr hi), State.writeLeaf_sdies]
  split
  · rfl
  · cases g.same <;> rfl

/-- A signature takes a leaf on which the roots agree, and two copies hold the next one. -/
theorem State.signLeaf_ok {s : State} {g : Signing} {l : Nat} (h : (s.signLeaf g).2 = .ok l) :
    g.same = true ∧ s.leafSeen g.blind0 = some l ∧ s.leafSeen g.blind1 = some l ∧ l < 2 ^ 40 ∧ (s.signLeaf g).1 = s.writeLeaf g l ∧
      2 ≤ (s.sdies.filter fun n => ((s.writeLeaf g l).mram n).lms == (l + 1, 0)).length := by
  by_cases hagree : s.leafSeen g.blind0 = s.leafSeen g.blind1
  · cases h0 : s.leafSeen g.blind0 with
    | none =>
      rw [State.signLeaf, if_neg (not_not_intro hagree)] at h
      simp only [h0] at h
      cases h
    | some i =>
      have h1 : s.leafSeen g.blind1 = some i := hagree.symm.trans h0
      by_cases hi : i < 2 ^ 40
      · have heq := State.signLeaf_of_agreed h0 h1 hi
        rw [heq] at h ⊢
        dsimp only at h ⊢
        split at h
        · cases h
        · split at h
          · cases h
          · next hcopies hsame =>
            cases h
            exact ⟨(Bool.not_eq_false _).mp hsame, rfl, h1, hi, rfl, Nat.not_lt.mp hcopies⟩
      · rw [State.signLeaf, if_neg (not_not_intro hagree)] at h
        simp only [h0, ge_iff_le, if_pos (Nat.not_lt.mp hi)] at h
        cases h
  · rw [State.signLeaf, if_pos hagree] at h
    cases h

/-- Of two dies that hold the next leaf a root that finds one copy at most invalid reads one. -/
theorem exists_unblind_of_two {l : List Nat} (hl : l.Nodup) (h : 2 ≤ l.length) (hlt : ∀ n ∈ l, n < 4) {blind : BitVec 4}
    (hone : ∀ a b, a < 4 → b < 4 → a ≠ b → blind.getLsbD a = false ∨ blind.getLsbD b = false) : ∃ n ∈ l, blind.getLsbD n = false := by
  obtain ⟨a, b, l, rfl⟩ : ∃ a b l', l = a :: b :: l' := by
    match l, h with
    | a :: b :: l, _ => exact ⟨a, b, l, rfl⟩
  have hab : a ≠ b := fun hab => (List.nodup_cons.mp hl).1 (hab ▸ List.mem_cons_self)
  rcases hone a b (hlt a (by simp)) (hlt b (by simp)) hab with ha | hb
  · exact ⟨a, by simp, ha⟩
  · exact ⟨b, by simp, hb⟩

theorem State.sdies_nodup (s : State) : s.sdies.Nodup := List.nodup_range.filter _

theorem State.lt_of_mem_sdies {s : State} {n : Nat} (h : n ∈ s.sdies) : n < 4 := List.mem_range.mp (List.mem_filter.mp h).1

/-- A later signature takes a later leaf, though one copy is invalid to a root. -/
theorem State.signLeaf_later {s : State} {g : Signing} {l : Nat} (h : (s.signLeaf g).2 = .ok l) {k : Signing} {m : Nat}
    (hk : ((s.signLeaf g).1.signLeaf k).2 = .ok m)
    (hone : ∀ a b, a < 4 → b < 4 → a ≠ b → k.blind0.getLsbD a = false ∨ k.blind0.getLsbD b = false) : l < m := by
  obtain ⟨-, -, -, -, hstate, hcopies⟩ := State.signLeaf_ok h
  obtain ⟨-, hm, -⟩ := State.signLeaf_ok hk
  obtain ⟨n, hn, hseen⟩ := exists_unblind_of_two (s.sdies_nodup.filter _) hcopies (fun n hn => State.lt_of_mem_sdies (List.mem_filter.mp hn).1) hone
  obtain ⟨hdie, hcopy⟩ := List.mem_filter.mp hn
  have hlms : ((s.writeLeaf g l).mram n).lms = (l + 1, 0) := beq_iff_eq.mp hcopy
  have hdie' : n ∈ (s.writeLeaf g l).sdies := (s.writeLeaf_sdies g l).symm ▸ hdie
  obtain ⟨j, hj, hle⟩ := State.le_leafSeen hdie' (congrArg Prod.snd hlms) hseen
  rw [hstate, hj] at hm
  rw [hlms] at hle
  exact Option.some.inj hm ▸ hle

/-- Settles O53: the next leaf is written before a signature is given, and two copies of it outlast one that is invalid. -/
theorem leavesAreUsedOnce : Obligations.LeavesAreUsedOnce := by
  unfold Obligations.LeavesAreUsedOnce
  intro g s r
  refine ⟨fun hdiffer => if_pos hdiffer, fun i h0 h1 => ⟨fun hspent => ?_, fun hleft => ?_⟩, fun l hok => ?_,
    (State.signLeaf_kept (by decide) kept_refl).within⟩
  · have hagree : ¬(s.leafSeen g.blind0 ≠ s.leafSeen g.blind1) := not_not_intro (h0.trans h1.symm)
    dsimp only [r]
    rw [State.signLeaf, if_neg hagree]
    simp only [h0, ge_iff_le, if_pos hspent]
  · have hstate : r.1 = s.writeLeaf g i := congrArg Prod.fst (State.signLeaf_of_agreed h0 h1 hleft)
    rw [hstate]
    exact ⟨fun n hn => (s.writeLeaf_mram g i n).1 hn, fun n hn => (s.writeLeaf_mram g i n).2 hn⟩
  · obtain ⟨hsame, h0, h1, hleft, hstate, hcopies⟩ := State.signLeaf_ok hok
    exact ⟨hsame, h0, h1, hleft, by rw [hstate]; exact hcopies, fun k m hk hone => State.signLeaf_later hok hk hone⟩

end Sys2Proof.Machine
end

section
/-! SUPPORT. PLDM for monitoring (17; R536). -/

namespace Sys2Proof.Machine
open Sys2Proof Host

section
variable {via : Via} {s : State} (hvia : s.pldmVia via = true)
include hvia

theorem execGetSensorReading_of_up (n : Nat) :
    exec (.getSensorReading via n) s = if (sensorKind n).isSome then .next (s.pldm via 0x11 0 (ofInt 16 (s.sensor n).last)) else .next (s.pldm via 0x11 0x80 0) := by
  have hexec : exec (.getSensorReading via n) s = execGetSensorReading via n s := rfl
  rw [hexec, execGetSensorReading, hvia]
  rfl

theorem execGetStateSensorReadings_of_up (n : Nat) :
    exec (.getStateSensorReadings via n) s =
      if n = timeSensor then .next (s.pldm via 0x21 0 s.time.state.code)
      else if n < timeSensor && unitListed (n / 256) (n % 256) then .next (s.pldm via 0x21 0 (s.unit n).st)
      else .next (s.pldm via 0x21 0x80 0) := by
  have hexec : exec (.getStateSensorReadings via n) s = execGetStateSensorReadings via n s := rfl
  rw [hexec, execGetStateSensorReadings, hvia]
  rfl

/-- The state that answers SET_EVENT_RECEIVER, before the events that were held are sent. -/
def State.received (s : State) (via : Via) (n : Nat) : State :=
  (s.setHlt { s.hlt with receiver := n, events := if n = 0 then s.hlt.events else [] }).pldm via 0x04 0 0

theorem execSetEventReceiver_of_up (n : Nat) :
    exec (.setEventReceiver via n) s =
      .next (if n = 0 then s.received via n else s.hlt.events.foldl (fun s e => s.emit (.event e.cls e)) (s.received via n)) := by
  have hexec : exec (.setEventReceiver via n) s = execSetEventReceiver via n s := rfl
  rw [hexec, execSetEventReceiver, hvia]
  rfl

/-- A receiver that is set gets the events that were held, oldest first. -/
theorem execSetEventReceiver_of_set {n : Nat} (hn : n ≠ 0) :
    ∃ t, exec (.setEventReceiver via n) s = .next t ∧ t.hlt.receiver = n ∧ t.hlt.events = [] ∧
      t.out = (s.hlt.events.map fun e => Out.event e.cls e).reverse ++ .pldm via 0x04 0 0 :: s.out ∧ Within (pieces [.hlt, .out]) s t := by
  obtain ⟨hout, -, hwithin⟩ := foldl_emit (f := fun _ (e : PldmEvent) => Out.event e.cls e) (fun _ _ _ => rfl) s.hlt.events (s.received via n)
  have hevents : (s.received via n).hlt.events = [] := if_neg hn
  have hhlt := hwithin .hlt (by decide)
  have hk : Kept (pieces [.hlt, .out]) s (s.hlt.events.foldl (fun s e => s.emit (.event e.cls e)) (s.received via n)) :=
    kept_foldl (fun _ _ h => State.emit_kept (by decide) h) (State.pldm_kept (by decide) (State.setHlt_kept (by decide) id kept_refl))
  exact ⟨_, (execSetEventReceiver_of_up hvia n).trans (congrArg _ (if_neg hn)), congrArg HltS.receiver hhlt, (congrArg HltS.events hhlt).trans hevents, hout,
    hk.within⟩

end

/-- Settles O55: each message is answered by what its channel and its number ask for. -/
theorem monitoringIsAnswered : Obligations.MonitoringIsAnswered := by
  unfold Obligations.MonitoringIsAnswered
  intro via s hvia
  refine ⟨fun n => if_pos hvia, fun n hsome => (execGetSensorReading_of_up hvia n).trans (if_pos hsome), fun n hnone => ?_,
    (execGetStateSensorReadings_of_up hvia 0x4000).trans (if_pos rfl), fun n hn hlisted => ?_, fun n hn => ?_,
    fun n hn => execSetEventReceiver_of_set hvia hn,
    ⟨_, (execSetEventReceiver_of_up hvia 0).trans (congrArg _ (if_pos rfl)), rfl, rfl⟩, fun hnone => ?_, fun e l hheld => ?_⟩
  · refine (execGetSensorReading_of_up hvia n).trans (if_neg ?_)
    rw [hnone]
    decide
  · refine (execGetStateSensorReadings_of_up hvia n).trans ((if_neg hn.ne).trans (if_pos ?_))
    rw [hlisted, decide_eq_true (show n < timeSensor from hn)]
    rfl
  · have hne : n ≠ timeSensor := by
      rcases hn with h | ⟨h, -⟩
      · exact h.ne'
      · exact h.ne
    have hno : ¬((decide (n < timeSensor) && unitListed (n / 256) (n % 256)) = true) := by
      rcases hn with h | ⟨-, h⟩
      · rw [decide_eq_false (Nat.not_lt.mpr (show timeSensor ≤ n from h.le)), Bool.false_and]
        decide
      · rw [h, Bool.and_false]
        decide
    exact (execGetStateSensorReadings_of_up hvia n).trans ((if_neg hne).trans (if_neg hno))
  · have hexec : exec (.pollForPlatformEventMessage via) s = execPollForPlatformEventMessage via s := rfl
    rw [hexec]
    simp only [execPollForPlatformEventMessage, hvia, hnone, Bool.not_true, Bool.false_eq_true, if_false]
  · have hexec : exec (.pollForPlatformEventMessage via) s = execPollForPlatformEventMessage via s := rfl
    rw [hexec]
    simp only [execPollForPlatformEventMessage, hvia, hheld, Bool.not_true, Bool.false_eq_true, if_false]

end Sys2Proof.Machine
end

section
/-! SUPPORT. Suspect replays, and what a unit that stops answering brings about (15; R477, R484 to R489, R556). -/

namespace Sys2Proof.Machine
open Sys2Proof Host

/-! ## A fault that is raised stands recorded -/

/-- The faults recorded in `b` stand in `s` as they are. -/
def FaultsStay (b s : State) : Prop := s.err.faults = b.err.faults

/-- The parts of the state without the error state. -/
def offErr : Nat := allBut .err

namespace FaultsStay

variable {b s t : State}

theorem keep (hk : Kept offErr s t) (h : FaultsStay b s) : FaultsStay b t := (congrArg RecS.faults (hk.within .err (by decide))).trans h

theorem ite {c : Prop} [Decidable c] (hs : c → FaultsStay b s) (ht : ¬c → FaultsStay b t) : FaultsStay b (if c then s else t) := by
  split
  · exact hs ‹_›
  · exact ht ‹_›

end FaultsStay

section
variable {b s : State}

theorem State.cdieOut_faults {c code : Nat} (h : FaultsStay b s) : FaultsStay b (s.cdieOut c code) := by
  let t := (s.setCdie c { s.cdie c with outOfService := true, reset := none }).saveRoot
  have ht : FaultsStay b t := h
  have hk : Kept offErr t (s.cdieOut c code) :=
    State.telReset_kept (by decide) (State.sendFm_kept (by decide) (State.sysEvt_kept (by decide) (State.stopAdmitting_kept (by decide) kept_refl)))
  exact ht.keep hk

theorem State.unitActs_faults {die unit st code : Nat} (h : FaultsStay b s) : FaultsStay b (s.unitActs die unit st code) := by
  unfold State.unitActs
  refine .ite (fun _ => .ite (fun _ => h) fun _ => .ite (fun _ => .ite (fun _ => h) fun _ => h) fun _ => .ite (fun _ => ?out) fun _ => h)
    fun _ => .ite (fun _ => h) fun _ => h
  case out => exact State.cdieOut_faults h

theorem State.classUnit_faults {die unit st code : Nat} (h : FaultsStay b s) : FaultsStay b (s.classUnit die unit st code) :=
  .ite (fun _ => h) fun _ => State.unitActs_faults <| h.keep <| State.telemetry_kept (by decide) <|
    State.setBit_kept (by decide) <| State.toMram_kept (by decide) <| State.setUnit_kept (by decide) kept_refl

theorem State.qualify_faults {die unit code : Nat} (h : FaultsStay b s) : FaultsStay b (s.qualify die unit code) := by
  have hqueued {k : Nat} {u : UnitRec} : FaultsStay b ((s.setUnit k u).toMram k) :=
    h.keep (State.toMram_kept (by decide) (State.setUnit_kept (by decide) kept_refl))
  exact .ite (fun _ => State.classUnit_faults hqueued) fun _ => hqueued

end

/-- A fault that is raised stands first among the device's faults. -/
theorem State.raise_faults (s : State) (r : FaultRec) : (s.raise r).err.faults = r :: s.err.faults := by
  let b := s.setErr { s.err with faults := r :: s.err.faults }
  have hrecord : FaultsStay b (s.record r (qualifying r.code)) := by
    unfold State.record
    cases r.die with
    | none => exact rfl
    | some die => exact .ite (fun _ => State.qualify_faults rfl) fun _ => rfl
  exact hrecord.keep (State.telemetry_kept (by decide) kept_refl)

/-! ## Crossings -/

section Crossings
variable {s : State}

theorem State.channelGone_faults (s : State) (ch : Nat) : (s.channelGone ch).err.faults = s.err.faults := by
  unfold State.channelGone
  split
  · exact congrArg RecS.faults ((State.sendFm_kept (ks := offErr) (by decide) kept_refl).within .err (by decide))
  · rfl

theorem State.channelGone_mem (s : State) (ch : Nat) : (s.channelGone ch).mem = s.mem := by
  unfold State.channelGone
  split
  · exact (State.sendFm_kept (ks := allBut .mem) (by decide) kept_refl).mem
  · rfl

/-- A channel that does not answer is deaf from now on, its bytes stay, and the crossing is recorded. -/
theorem execCrossingTimeout_of_channel (ch : Fin 1024) :
    ∃ t, exec (.crossingTimeout (.hbmChannel ch)) s = .next t ∧ ch.val ∈ t.mem.deaf ∧ (∀ c ∈ s.mem.deaf, c ∈ t.mem.deaf) ∧ t.mem.hbm = s.mem.hbm ∧
      ∃ r ∈ t.err.faults, r.code = 0x0501 ∧ r.die = some (ch.val / 32) ∧ r.unit = 0x90 + ch.val % 32 := by
  let f := triggerFault s 0x0501 (ch.val / 32) (0x90 + ch.val % 32) (s.working (onChannel ch.val))
  let u := (s.raise f).channelGone ch.val
  have hmem : u.mem = s.mem := ((s.raise f).channelGone_mem ch.val).trans (s.raise_mem f)
  have hfaults : u.err.faults = f :: s.err.faults := ((s.raise f).channelGone_faults ch.val).trans (s.raise_faults f)
  refine ⟨_, rfl, List.mem_cons_self, fun c hc => ?_, show u.mem.hbm = s.mem.hbm from congrArg MemS.hbm hmem, f, ?_, rfl, rfl, rfl⟩
  · have hdeaf : c ∈ u.mem.deaf := hmem ▸ hc
    by_cases h : c = ch.val
    · exact List.mem_cons.mpr (.inl h)
    · exact List.mem_cons_of_mem _ (List.mem_filter.mpr ⟨hdeaf, bne_iff_ne.mpr h⟩)
  · exact hfaults ▸ List.mem_cons_self

theorem execCrossingTimeout_of_hostPort {h : Fin 4} (hlink : (s.port h.val).link ≠ .down) :
    exec (.crossingTimeout (.hostPort h)) s = .next ((s.crossingRecord (dieH h.val) 0x10 (s.hostWork h.val)).loseLink h.val 0) := by
  have hlast : PortsLast s (s.crossingRecord (dieH h.val) 0x10 (s.hostWork h.val)) := State.raise_portsLast (.refl s)
  have hstill : ((s.crossingRecord (dieH h.val) 0x10 (s.hostWork h.val)).port h.val).link ≠ .down := by
    rw [show ((s.crossingRecord (dieH h.val) 0x10 (s.hostWork h.val)).port h.val).link = (s.port h.val).link from congrArg (·.link) (hlast h.val)]
    exact hlink
  exact if_neg hstill

theorem execCrossingTimeout_of_fabricPort {q : Fin 64} (hlink : 2 ≤ (s.fport q.val).link) :
    exec (.crossingTimeout (.fabricPort q)) s =
      .next ((s.crossingRecord (dieF (q.val / 8)) (0x20 + q.val % 8) (s.fabricWork q.val)).losePort q.val 0) := by
  have hlinks : LinksStay s (s.crossingRecord (dieF (q.val / 8)) (0x20 + q.val % 8) (s.fabricWork q.val)) := State.raise_links (.refl s)
  have hstill : 2 ≤ ((s.crossingRecord (dieF (q.val / 8)) (0x20 + q.val % 8) (s.fabricWork q.val)).fport q.val).link := by
    rw [hlinks.fport q.val]
    exact hlink
  exact if_pos hstill

end Crossings

/-! ## Replays -/

section Replays
variable {part : Fin 64} {z : SuspectSet} {c : Suspect} {s : State}

theorem execSuspectReplayStart_of_unreplayable {tick : Nat} (hz : (s.part part.val).suspects = some z) (hfree : z.replay = none)
    (hready : z.ready = some tick) (hnext : z.next = some c) (hno : s.unreplayable c = true) :
    exec (.suspectReplayStart part) s = .next (s.markSuspect part.val 2 z.lastEnd) := by
  have hexec : exec (.suspectReplayStart part) s = execSuspectReplayStart part s := rfl
  rw [hexec]
  simp only [execSuspectReplayStart, hz, hfree, hready, hnext, hno, if_true]

/-- A suspect's submission as its replay runs it from `a` to `e` (R487). -/
def Suspect.replayed (c : Suspect) (now a e : Nat) : Sub :=
  { c.sub with
    st := .accepted, decided := now, start := a, resEnd := e, code := 0, chargedAt := 0, done := false, ran := false, running := false, cancelled := true
    held := false, wports := [], flush := [], flushed := false, once := [], drops := 0, ended := [], replay := true }

/-- The state in which a replay has its slot and its submission. -/
def State.replaying (s : State) (p : Nat) (z : SuspectSet) (c : Suspect) (a e : Nat) : State :=
  let s := (s.setSubs (s.subs ++ [c.replayed s.time.now a e])).setSlots
    ({ q := 256 * p + c.sub.cls, start := a, resEnd := e, ring := c.sub.ring, seq := c.sub.seq } :: s.slots)
  s.setPart p { s.part p with suspects := some { z with replay := some (c.sub.cls, a, e) } }

theorem execSuspectReplayStart_of_slot {tick a e : Nat} (hz : (s.part part.val).suspects = some z) (hfree : z.replay = none)
    (hready : z.ready = some tick) (hnext : z.next = some c) (hcan : s.unreplayable c = false) (hgone : s.sub? c.sub.ring c.sub.seq = none)
    (hslot : s.replaySlot part.val z c.sub = some (a, e)) : exec (.suspectReplayStart part) s = .next (s.replaying part.val z c a e) := by
  have hexec : exec (.suspectReplayStart part) s = execSuspectReplayStart part s := rfl
  rw [hexec]
  simp only [execSuspectReplayStart, hz, hfree, hready, hnext, hcan, hgone, hslot, Option.isSome_none, Bool.false_eq_true, if_false, State.replaying,
    Suspect.replayed]

theorem State.replaying_kept (s : State) (p : Nat) (z : SuspectSet) (c : Suspect) (a e : Nat) :
    Kept (pieces [.subs, .slots, .parts]) s (s.replaying p z c a e) :=
  State.setPart_kept (by decide) (State.setSlots_kept (by decide) (State.setSubs_kept (by decide) kept_refl))

theorem execSuspectReplayEnd_of_clean {k a e : Nat} (hz : (s.part part.val).suspects = some z) (hrun : z.replay = some (k, a, e))
    (hnext : z.next = some c) (hclean : ∀ x, s.replaySub c = some x → x.code = 0) (hdue : e ≤ s.time.now) :
    exec (.suspectReplayEnd part .clean) s = .next ((s.endReplay c).markSuspect part.val 1 e) := by
  have hexec : exec (.suspectReplayEnd part .clean) s = execSuspectReplayEnd part .clean s := rfl
  rw [hexec]
  simp only [execSuspectReplayEnd, hz, hrun, hnext]
  refine if_pos ?_
  rw [decide_eq_true hdue, Bool.and_true]
  cases hx : s.replaySub c with
  | none => rfl
  | some x => exact beq_iff_eq.mpr (hclean x hx)

theorem execSuspectReplayEnd_of_faulted {k a e : Nat} {code : BitVec 16} {die : Fin 64} {unit : BitVec 8} (hz : (s.part part.val).suspects = some z)
    (hrun : z.replay = some (k, a, e)) (hnext : z.next = some c) (hgone : s.replaySub c = none) (hlisted : unitListed die.val unit.toNat = true) :
    let f := { FaultRec.new s code.toNat (some die.val) unit.toNat with ctx := some c.ctx, part := some part.val }
    let t := (s.raise f).endReplay c
    exec (.suspectReplayEnd part (.faulted code die unit)) s =
      if z.code = code.toNat ∧ z.die = die.val ∧ z.unit = unit.toNat then .next ((t.closeSet part.val (some c.ctx)).sameReset z)
      else .next (t.markSuspect part.val 1 e) := by
  have hexec : exec (.suspectReplayEnd part (.faulted code die unit)) s = execSuspectReplayEnd part (.faulted code die unit) s := rfl
  intro f t
  rw [hexec]
  simp only [execSuspectReplayEnd, hz, hrun, hnext, hgone, hlisted, Bool.not_true, Bool.false_eq_true, if_false]
  rfl

theorem execSuspectReplayGiveup_of_due {tick : Nat} (hz : (s.part part.val).suspects = some z) (hfree : z.replay = none) (hready : z.ready = some tick)
    (hdue : max tick z.lastEnd + 409600 ≤ s.time.now) : exec (.suspectReplayGiveup part) s = .next (s.markSuspect part.val 2 s.time.now) := by
  have hexec : exec (.suspectReplayGiveup part) s = execSuspectReplayGiveup part s := rfl
  rw [hexec]
  simp only [execSuspectReplayGiveup, hz, hfree, hready]
  exact if_pos hdue

end Replays

/-! ## Units whose state is wrong -/

section Units
variable {die : Fin 48} {unit : BitVec 8} {ctx : Option (Fin 4096)} {s : State} (hlisted : unitListed die.val unit.toNat = true)
include hlisted

theorem execUnitStateError_of_listed :
    exec (.unitStateError die unit ctx) s =
      if h : die.val < 32 then
        if unit.toNat < 0x80 then .next (s.hitCdie ⟨die.val, h⟩ 0x0103 unit.toNat (s.workingOn die.val unit.toNat))
        else .next (s.raise { FaultRec.new s 0x0103 (some die.val) unit.toNat with ctx := ctx.map (·.val) })
      else .next (s.hitDevice 0x0103 die.val unit.toNat (s.workingOn die.val unit.toNat)) := by
  have hexec : exec (.unitStateError die unit ctx) s = execUnitStateError die unit ctx s := rfl
  rw [hexec, execUnitStateError, hlisted]
  rfl

end Units

/-- Settles O50: a replay by its set's turn, and a unit that is lost by the kind of unit it is. -/
theorem suspectsAndLostUnitsAreAnsweredFor : Obligations.SuspectsAndLostUnitsAreAnsweredFor := by
  unfold Obligations.SuspectsAndLostUnitsAreAnsweredFor
  refine ⟨⟨fun part z c tick s hz hfree hready hnext => ⟨fun hno => execSuspectReplayStart_of_unreplayable hz hfree hready hnext hno,
        fun a e hcan hgone hslot => ?started⟩,
      fun part z c k a e s hz hrun hnext => ⟨fun hclean hdue => execSuspectReplayEnd_of_clean hz hrun hnext hclean hdue,
        fun code die unit hgone hlisted => ⟨fun hcode hdie hunit => ?guilty, fun hother => ?cleared⟩⟩,
      fun part z tick s hz hfree hready hdue => execSuspectReplayGiveup_of_due hz hfree hready hdue⟩,
    fun c s => ⟨rfl, rfl⟩, fun g s => rfl, fun ch s => execCrossingTimeout_of_channel ch, fun h s hlink => execCrossingTimeout_of_hostPort hlink,
    fun q s hlink => execCrossingTimeout_of_fabricPort hlink, fun i s => ⟨_, rfl, List.mem_cons_self⟩,
    fun die unit ctx s hlisted => ⟨fun h hcore => ?core, fun h hother => ?other, fun h => ?gdie⟩, fun part core h u s hh hst hdue hmine hlate => ?late⟩
  case started =>
    have hk := s.replaying_kept part.val z c a e
    have hpart : (s.replaying part.val z c a e).part part.val = _ := State.setPart_part_same ..
    exact ⟨_, execSuspectReplayStart_of_slot hz hfree hready hnext hcan hgone hslot, congrArg PartS.suspects hpart, rfl,
      ⟨c.replayed s.time.now a e, rfl, rfl, rfl, rfl, rfl, rfl, rfl⟩, hk.within⟩
  case guilty => exact (execSuspectReplayEnd_of_faulted hz hrun hnext hgone hlisted).trans (if_pos ⟨hcode, hdie, hunit⟩)
  case cleared => exact (execSuspectReplayEnd_of_faulted hz hrun hnext hgone hlisted).trans (if_neg hother)
  case core => exact (execUnitStateError_of_listed hlisted).trans ((dif_pos h).trans (if_pos hcore))
  case other => exact (execUnitStateError_of_listed hlisted).trans ((dif_pos h).trans (if_neg (Nat.not_lt.mpr hother)))
  case gdie => exact (execUnitStateError_of_listed hlisted).trans (dif_neg (Nat.not_lt.mpr h))
  case late =>
    have hexec : exec (.holdPointTimeout part core) s = execHoldPointTimeout part core s := rfl
    have hcan : ¬((s.part part.val).st ≠ .holding ∨ s.time.now < h.latch + 2000 ∨ (!(s.coresOf part.val).contains core.val) = true) :=
      not_or.mpr ⟨not_not_intro hst, not_or.mpr ⟨Nat.not_lt.mpr hdue, by rw [hmine]; decide⟩⟩
    rw [hexec]
    simp only [execHoldPointTimeout, hh, if_neg hcan, hlate]

end Sys2Proof.Machine
end
